-- ==== Sys2Proof/Word.lean ====
section
/-!
DEFINITION. Word.lean: the word types of the Skadjaten engine and their plainest helpers.
Registers are 32 bits wide (R12); descriptors, records and table entries are little-endian (R7), so a
structure of n bytes is held as one bit vector whose bit 8 b + i is bit i of byte b.
-/

namespace Sys2Proof

/-- One byte. -/
abbrev Byte := BitVec 8

/-- A 32-bit register or word (R12). -/
abbrev Word := BitVec 32

/-- A 64-bit quantity: host addresses, seeds, user tags, the timebase (R10, R12). -/
abbrev DWord := BitVec 64

/-- A request handle: generation in [31:18], slot in [17:0] (R63). -/
abbrev Handle := BitVec 32

/-- The null handle 0xFFFF_FFFF, which the engine never issues (R3). -/
def nullHandle : Handle := 0xFFFFFFFF#32

end Sys2Proof
end

