-- ==== Sys2Proof/Syntax.lean ====
section
/-!
DEFINITION. Syntax.lean: the commands of the block, one constructor per row of spec/opcode_table.json.
The table gives no row any bits, so a command's operands are what the spec's text says the event carries: the
value a host or core writes, the data a host read returns, the fields of a message or of a boundary signal.
-/

namespace Sys2Proof

/-- What a SUBMIT's or APPEND's host reads return (R69, R160): the token list, the 128 B parameter block, the
bias list and the 64 B cache-object record. The parts a descriptor does not need are ignored. -/
structure ListRead where
  /-- False when the host port returned an error for any part (R41). -/
  ok     : Bool
  tokens : List (BitVec 32)
  params : BitVec 1024
  bias   : List (BitVec 64)
  object : BitVec 512
  deriving DecidableEq, Repr

/-- The header of a message's last frame, as far as the checks and the routes of a message read it (R240, R243, R263): TYPE is the
command's own, SRC is the neighbour that sent it, and LENGTH is that frame's. -/
structure Frame where
  up     : Bool
  last   : Bool
  length : BitVec 13
  src   : BitVec 9
  dst   : BitVec 16
  step  : BitVec 48
  epoch : BitVec 16
  group : BitVec 16
  deriving DecidableEq, Repr

/-- Body of an ACK (Table 10.5, type 0x02). -/
structure AckBody where
  cover     : BitVec 10
  error     : Bool
  mismatch  : Bool
  leaveWait : Bool
  digest    : BitVec 64
  waitUs    : BitVec 32
  missing   : BitVec 9
  deriving DecidableEq, Repr

/-- Body of an ABORT (R267). -/
structure AbortBody where
  step     : BitVec 48
  cause    : BitVec 8
  origin   : BitVec 9
  sequence : BitVec 16
  code     : BitVec 32
  deriving DecidableEq, Repr

/-- One partial record of a draw (R214, R248): the short record, and HEAP and ACC when FULL. -/
structure PartialRec where
  draw   : BitVec 17
  full   : Bool
  sat    : Bool
  bestY  : BitVec 32
  bestQ  : BitVec 32
  bestId : BitVec 24
  guess  : List (BitVec 32 × BitVec 24)
  heap   : List (BitVec 32 × BitVec 24)
  acc    : Nat
  deriving DecidableEq, Repr

/-- One token event the takeover's host scan finds in host memory (R277, step 3). -/
structure ScanRec where
  handle   : BitVec 32
  position : BitVec 32
  token    : BitVec 24
  deriving DecidableEq, Repr

/-- Where the takeover's host scan left an event ring: the index and phase of the first slot it did not find written. -/
structure TailRec where
  ring  : BitVec 12
  tail  : BitVec 16
  phase : Bool
  deriving DecidableEq, Repr

/-- One second's health events of one part (R281): ECC words, link retries, retrainings, lane swaps; of an SRAM array also the rows
whose accesses were corrected (Table 11.4). -/
structure HealthCount where
  kind    : BitVec 3
  index   : BitVec 9
  ecc     : Nat
  retry   : Nat
  retrain : Nat
  swap    : Nat
  rows    : List (BitVec 16)
  deriving DecidableEq, Repr

/-- One word of the fuse macro: its value and whether its CRC was correct (R366). -/
structure FuseWord where
  value : Nat
  good  : Bool
  deriving DecidableEq, Repr

/-- The factory values of Table 16.3 and of the FRO and F fields, as the fuse read returns them.
Signed values are given as two's complement of their field. -/
structure FuseImage where
  osc       : List FuseWord
  sensor    : List FuseWord
  xtal      : FuseWord
  bin       : FuseWord
  energy    : List FuseWord
  crit      : FuseWord
  weights   : List FuseWord
  stepping  : FuseWord
  caps      : FuseWord
  sparCores : FuseWord
  coreMap   : FuseWord
  deriving DecidableEq, Repr

/-- The link status the chip presents on `ske_host_*` (R391). -/
structure HostLink where
  port  : BitVec 3
  cache : Bool
  deriving DecidableEq, Repr

/-- The result of a self-test (R382, R392): by unit, failed parts without a spare, and repairs; and the parts that failed: legget
lanes by group, spar cores, and SRAM rows by array. -/
structure BistResult where
  fail      : BitVec 15
  repaired  : BitVec 15
  lanes     : List (BitVec 6 × BitVec 5)
  sparCores : List (BitVec 9)
  rows      : List (BitVec 8 × BitVec 16)
  deriving DecidableEq, Repr

/-- The rows of spec/opcode_table.json, in the table's order. A map with no header is one whose read failed (R237). -/
inductive Instr where
  | ringEnable (event : Bool) (index : BitVec 12)
  | ringContextReadDone (event : Bool) (index : BitVec 12) (ok : Bool) (entry : BitVec 512)
  | ringContextReadTimeout (event : Bool) (index : BitVec 12)
  | ringDisable (event : Bool) (index : BitVec 12)
  | sqTail (ring : BitVec 12) (value : BitVec 32)
  | eqHead (ring : BitVec 12) (value : BitVec 32)
  | watchLineSnoop (event : Bool) (ring : BitVec 12) (value : Option (BitVec 32))
  | watchLineReadTimeout (event : Bool) (ring : BitVec 12)
  | descriptorFetch (ring : BitVec 12)
  | descriptorFetchReturn (ring : BitVec 12) (ok : Bool) (descs : List (BitVec 512))
  | descriptorReadTimeout (ring : BitVec 12)
  | tokenListReadDone (ring : BitVec 12) (slot : BitVec 16) (data : ListRead)
  | tokenListReadTimeout (ring : BitVec 12) (slot : BitVec 16)
  | nop (ring : BitVec 12)
  | submit (ring : BitVec 12)
  | append (ring : BitVec 12)
  | cancel (ring : BitVec 12)
  | pause (ring : BitVec 12)
  | resume (ring : BitVec 12)
  | release (ring : BitVec 12)
  | additionLoad (ring : BitVec 12)
  | additionRetire (ring : BitVec 12)
  | prefixLoad (ring : BitVec 12)
  | prefixRetire (ring : BitVec 12)
  | familyConfig (ring : BitVec 12)
  | familyConfigBlockReadDone (ring : BitVec 12) (slot : BitVec 16) (ok : Bool) (block : BitVec 2048)
  | familyRemove (ring : BitVec 12)
  | tenantSet (ring : BitVec 12)
  | queryRequest (ring : BitVec 12)
  | queryTenant (ring : BitVec 12)
  | queryFamily (ring : BitVec 12)
  | queryAddition (ring : BitVec 12)
  | queryRing (ring : BitVec 12)
  | fence (ring : BitVec 12)
  | fenceBoundary (ring : BitVec 12)
  | hostWriteCreditReturn
  | hostWriteCreditTimeout
  | modTimeExpiry (ring : BitVec 12)
  | eventRingStallTimeout (ring : BitVec 12)
  | stopSet (handle : BitVec 32)
  | stopClear (handle : BitVec 32)
  | deadlineTick
  | deadlinePass (slot : BitVec 18)
  | parkExpiryPass (slot : BitVec 18)
  | restoreTimeout (slot : BitVec 18)
  | restoreConfirmed (slot : BitVec 18)
  | admissionDecision (slot : BitVec 18)
  | admissionRetry (slot : BitVec 18)
  | holdLimitExpiry (slot : BitVec 18)
  | bucketSweep (tenant : BitVec 16)
  | admissionOpen
  | admissionClose
  | courseBegun (course : BitVec 6)
  | manifestAckOk (step : BitVec 16)
  | manifestAckRetry (step : BitVec 16)
  | manifestAckTimeout
  | stepDone (step : BitVec 16)
  | courseTime (course : BitVec 6) (ns : BitVec 32)
  | segLate (course : BitVec 6) (segment : BitVec 10) (failed : Bool)
  | segDone (course : BitVec 6)
  | segmentWaitExpiry (course : BitVec 6)
  | baseStall (course : BitVec 6) (ns : BitVec 32)
  | baseStallLimitExceeded (course : BitVec 6)
  | baseFailed (course : BitVec 6)
  | kvFailed (entry : BitVec 22)
  | recoveryEnd
  | modeWrite (value : BitVec 32)
  | stepBoundaryOpen (failing : BitVec 3)
  | pageFreeWalk
  | logitTile (header : BitVec 64) (entries : List (BitVec 16))
  | drawEmit (member : BitVec 14)
  | gutterTimeout
  | randomWordTimeout
  | laneFault (group : BitVec 6) (lane : BitVec 5)
  | spgTileRequest (purpose : BitVec 8) (c0 c1 : BitVec 32) (site : BitVec 24) (step : BitVec 16)
  | shadowCheck (active : BitVec 9) (agrees : Bool) (culprit : BitVec 9)
  | katCommand (gumbel : Bool)
  | pageMoveIssue
  | pageMoveCompletion (tag : BitVec 32) (status : BitVec 2)
  | pageMoveTimeout (tag : BitVec 32)
  | spillDelayExpiry (entry : BitVec 22)
  | cacheTtlExpiry (entry : BitVec 22)
  | loadTimeout (job : BitVec 32)
  | prefixHoldExpiry (pfx : BitVec 20)
  | joinCommand (node : BitVec 16) (header : Option (BitVec 512)) (entries : List (BitVec 128))
  | fenceRankCommand (rank : BitVec 9)
  | fabricStatus (node : BitVec 16) (up : Bool)
  | lease (f : Frame) (ranks : BitVec 10)
  | leaseRepeat
  | leaseMissLimit
  | leaseLapseTimeout
  | managerIsolationTimeout
  | ack (f : Frame) (body : AckBody)
  | childAckTimeout (child : BitVec 9)
  | segReport (f : Frame) (course : BitVec 6) (baseFail : Bool) (late failed : BitVec 1024)
  | courseStart (f : Frame) (course : BitVec 6) (baseFail : Bool) (late failed : BitVec 1024)
  | courseStartTimeout (course : BitVec 6)
  | pageFail (f : Frame) (entry : BitVec 22)
  | fenceMessage (f : Frame) (atBoundary : BitVec 48) (reason : BitVec 8)
  | probe (f : Frame)
  | probeReply (f : Frame) (last : BitVec 48) (stat : BitVec 8) (score : BitVec 32) (misses : BitVec 32)
  | probeTimeout (rank : BitVec 9)
  | join (f : Frame) (check : BitVec 32) (rank : BitVec 9)
  | joinTimeout
  | abort (f : Frame) (body : AbortBody)
  | event (f : Frame) (kind : BitVec 8) (sequence : BitVec 16) (payload : List (BitVec 8))
  | eventKeepalive
  | mirrorAck (f : Frame) (step : BitVec 48)
  | health (f : Frame) (rank : BitVec 9) (level : BitVec 8) (score : BitVec 16) (kind : BitVec 8) (index : BitVec 16)
  | takeoverTimeout (scan : List ScanRec) (tails : List TailRec)
  | takeover (f : Frame) (rank : BitVec 9) (node : BitVec 16) (epoch : BitVec 16) (step : BitVec 48)
  | ops (f : Frame) (records : List (BitVec 256))
  | manifest (f : Frame) (bytes : List (BitVec 8))
  | tokens (f : Frame) (course : BitVec 6) (first : BitVec 17) (entries : List (BitVec 32)) (guesses : List (BitVec 128))
  | partials (f : Frame) (course : BitVec 6) (cover : BitVec 10) (first : BitVec 17) (records : List PartialRec)
  | partialsTimeout (course : BitVec 6) (child : BitVec 9)
  | journal (f : Frame) (step : BitVec 48) (origin : BitVec 9) (record manifestBytes : List (BitVec 8))
  | shadowCommand (rank : BitVec 9) (role : BitVec 2) (node : BitVec 16) (header : Option (BitVec 512)) (entries : List (BitVec 128))
  | withdrawCommand
  | shadowReq (f : Frame) (rank : BitVec 9) (role : BitVec 8) (node : BitVec 16) (check : BitVec 32)
  | shadowGrant (f : Frame) (rank : BitVec 9) (granted admitted : Bool) (reason : BitVec 8) (source : BitVec 9) (step : BitVec 48) (node epoch : BitVec 16)
  | state (f : Frame) (kind : BitVec 8) (sequence : BitVec 16) (index count : BitVec 32) (step : BitVec 48) (crc : BitVec 64) (items : List (BitVec 8))
  | shadowAck (f : Frame) (step : BitVec 48) (rank : BitVec 9) (digest partialCrc tokenCrc : BitVec 64)
  | stateLoadTimeout
  | healthUpdate (counts : List HealthCount)
  | selfLoad (core : BitVec 4)
  | waitStore (core : BitVec 4) (value : BitVec 64)
  | takeLoad (core : BitVec 4)
  | postStore (value : BitVec 64)
  | cancelTask (value : BitVec 64)
  | yieldStore (core : BitVec 4)
  | doneStore (core : BitVec 4) (value : BitVec 64)
  | checkin (core : BitVec 4)
  | createStore (core : BitVec 4) (value : BitVec 64)
  | destroyStore (value : BitVec 64)
  | prioStore (value : BitVec 64)
  | nextLoad (core : BitVec 4)
  | dispatch
  | coreWatchdogExpiry (core : BitVec 4)
  | preemptTimeout (core : BitVec 4)
  | coreFault (core : BitVec 4)
  | schedulerEnable
  | unitPush (queue : BitVec 10) (words : List (BitVec 64))
  | push (core : BitVec 4) (queue : BitVec 10) (value : BitVec 64)
  | pop (core : BitVec 4) (queue : BitVec 10)
  | popStallTimeout (core : BitVec 4)
  | queueEnable (value : BitVec 32)
  | queueDisable
  | queueReset
  | logRecord (code : BitVec 16) (injected : Bool) (island : BitVec 4) (payload : List (BitVec 32)) (dropped : Nat)
  | fwCommit (value : BitVec 32)
  | logEnable
  | freeze
  | unfreeze
  | freezeTimeout
  | clear
  | emergClear
  | rateSweep
  | optimeTick
  | logWriteFail
  | logWriteTimeout
  | errorReport (detector : BitVec 16) (cls : BitVec 2) (island : BitVec 4) (handle : BitVec 32) (detail : BitVec 64)
  | errCtxDone
  | errRaise (value : BitVec 32)
  | handlingTimeout
  | errorRingEnable
  | unlockChallenge
  | unlock (value : BitVec 32)
  | lock
  | islandClockEnable (value : BitVec 32)
  | clockMonitorWindow (island : BitVec 4) (khz : BitVec 21)
  | leaveRequest (channel : Bool)
  | leaveResponse (channel : Bool) (ok : Bool) (offer : BitVec 32)
  | leaveTimeout (channel : Bool)
  | leaveRetry (channel : Bool)
  | leaveRelease (channel : Bool)
  | sensorRead (readings : List (BitVec 11))
  | timebaseStrobe (count : BitVec 64)
  | timebaseTimeout
  | oscTrimStep (island : BitVec 4)
  | fuseLoadDone (image : FuseImage)
  | fuseLoadTimeout
  | refClockLoss
  | t0PortTimeout (address : BitVec 31)
  | aoResetAssert
  | aoResetRelease
  | mainResetAssert
  | mainResetRelease (link : HostLink)
  | bistRequest
  | bistEnd (result : BistResult)
  | registerWrite (offset : BitVec 32) (size : Nat) (value : BitVec 64)
  | registerRead (offset : BitVec 32) (size : Nat)
  | rspLow (channel : Bool)
  | eventMirrorAck (sequence : BitVec 16)
  | interUnitWatchdog (request : BitVec 4) (subject : BitVec 32)
  | frameDiscard (check : BitVec 3)
  | retrainingFailure (lane : BitVec 2)
  | hourWindowMove
  | stageStore (core : BitVec 4) (word : BitVec 3) (value : BitVec 64)
  | stagePayloadWord (core : BitVec 4) (queue : BitVec 10) (word : BitVec 3) (value : BitVec 64)
  deriving DecidableEq, Repr

end Sys2Proof
end

