-- ==== Sys2Proof/Config.lean ====
section
/-!
DEFINITION. Config.lean: what the spec leaves open about a part, held as constants without a body, so that no
proof can rest on a number for them.
-/

namespace Sys2Proof.Config

/-- The k-th value the spec leaves open in a run: the engine's free-value counter numbers them (log entry 2).
Used for the unlock challenge (R352, "a fresh value"), for Table 6.1's NEXT on a list's last entry and for
the results the spec gives no value for. -/
opaque freeValue : Nat → BitVec 64

/-- Spare rows of an SRAM array (Table 11.4: "per array"). -/
opaque spareRows : Nat → Nat

/-- The bytes of the control cores' boot ROM (Table 12.1), which no rule gives. -/
opaque bootRom : Nat → BitVec 8

end Sys2Proof.Config
end

