-- ==== Sys2Proof/Machine/State.lean ====
section
/-!
DEFINITION. Machine/State.lean: the state of the engine as plain data, unit by unit, and the state after reset.
Every table is a list of (key, value) pairs with strictly rising keys; what an absent key reads as is said at the
field. Numbers the spec counts with are natural numbers; what software sees as a word is a bit vector.
-/

namespace Sys2Proof.Machine

/-- Why a command stops the model. -/
inductive Fault where
  /-- Raised by no command: the window and the map of the cores (R287, R389) give every address an answer. Safe: nothing stops on it. -/
  | outsideWindow (offset : Nat)
  deriving DecidableEq, Repr

/-- Why the model has no meaning for a command. -/
inductive Refusal where
  /-- Raised by an arm of Machine/Dispatch.lean whose meaning is not written yet. Safe: nothing is claimed. -/
  | notModelled (mnemonic : String)
  deriving DecidableEq, Repr

/-- A sparse table: strictly rising keys. -/
abbrev Table (α : Type) := List (Nat × α)

/-- A first-in, first-out free list over the numbers 0 to limit − 1 (R64): `fresh` up to limit − 1 have never been
used and stand first, in ascending order; then the freed ones, oldest first. -/
structure FreeList where
  fresh : Nat
  limit : Nat
  freed : List Nat
  deriving DecidableEq, Repr

/-! ### Requests (chapter 3) -/

/-- Request states (Table 3.9). -/
inductive ReqState where
  | free | admitting | queued | prefill | decode | parked | spilled | restoring | cancelling | retiring | fenced
  deriving DecidableEq, Repr

/-- A rafter entry (Table 3.1); FLAGS stand as their own fields. GENERATION is kept apart, per slot. -/
structure Rafter where
  handle        : Handle
  tenant        : Nat
  family        : Nat
  state         : ReqState
  cls           : Nat
  priority      : Nat
  addValid      : Bool
  pfxValid      : Bool
  deliverLate   : Bool
  version       : Nat
  addition      : Nat
  pfx           : Nat
  eventRing     : Nat
  seed          : BitVec 64
  pfxLen        : Nat
  returnState   : ReqState
  inputEnd      : Nat
  srcKind       : Bool
  stopSeen      : Bool
  pausePending  : Bool
  rebindPending : Bool
  mixedVersion  : Bool
  firstEmitted  : Bool
  suppressNote  : Bool
  bindCurrent   : Bool
  seqEnd        : Nat
  pendStatus    : Nat
  kvEnd         : Nat
  pendReason    : Nat
  generated     : Nat
  deliveredPos  : Nat
  /-- Last position whose token event has gone to the HRU, written yet or still staged (R56). -/
  handedPos     : Nat
  maxNew        : Nat
  maxContext    : Nat
  ttft          : Nat
  nextDl        : Nat
  total         : Nat
  parkExpiry    : Nat
  itlUs         : Nat
  pageHead      : Nat
  pageCount     : Nat
  penOvfHead    : Nat
  penOvfValid   : Bool
  paramSrc      : BitVec 64
  userTag       : BitVec 64
  admitStep     : Nat
  lastServed    : Nat
  replaySeq     : Nat
  params        : BitVec 1024
  /-- Arrival time in µs (R42); the SUBMIT keeps it through a hold (R88, R89). -/
  arrival       : Nat
  /-- Submission ring of the SUBMIT and its place there, for its acknowledgement (R49). -/
  ackRing       : Nat
  ackPos        : Nat
  /-- Completion record already written at an earlier boundary (R25, R72). -/
  completed     : Bool
  /-- Tokens given in the SUBMIT's list; the charge of R93. -/
  promptTokens  : Nat
  /-- Blocks matched by the prefix lookup (R159), until the splice ends it. -/
  matched       : Nat
  lookupOpen    : Bool
  /-- A token list came with the SUBMIT or its cache object (R156, R199). -/
  listTokens    : List Nat
  /-- Tokens by absolute position that came later: appended, emitted, or an object's LAST_TOKEN (R212). -/
  later         : Table Nat
  /-- Every page of a cache object is still to be imported (R160): location and KV pages. -/
  importLoc     : BitVec 64
  bias          : List (Nat × BitVec 32)
  /-- Salt the request's chain started with (R154, R166). -/
  chainSalt     : BitVec 64
  /-- Waits outside the ready lists for stage 5 to take its load again (R107). -/
  reAdmit       : Bool
  /-- Pages reserved under R95 and still unbound (R165). -/
  reserved      : Nat
  /-- Page entries reserved under R165 and not yet used. -/
  entriesRes    : Nat
  /-- Stage 4 found no version to bind (R179). -/
  bindFailed    : Bool
  /-- Timebase, in ns, at the entry to RESTORING, for its watchdog (R72). -/
  restoreAt     : Nat
  /-- P as last charged to PHELD (R95). -/
  pagesCharged  : Nat
  /-- Timebase, in ns, at the entry to PARKED, for the spill delay (R145). -/
  parkedAt      : Nat
  /-- The state a FENCED request left, as the undo restored it (R269). -/
  fencedFrom    : ReqState
  deriving DecidableEq, Repr

/-! ### Host rings (chapter 2) -/

/-- Reads a staged descriptor waits for. -/
inductive ReadState where
  | none | waiting | done (data : ListRead) | failed
  deriving DecidableEq, Repr

/-- Where a staged descriptor stands between its fetch and its acknowledgement. -/
inductive StagePhase where
  /-- Not yet decoded. -/
  | fresh
  /-- A SUBMIT decoded into rafter slot s and awaiting its admission decision. -/
  | admitting (slot : Nat)
  /-- Decoded; the acknowledgement waits for the object it names (a PAUSE, a load, a removal, a block read). -/
  | waiting
  /-- A FENCE with BOUNDARY decoded: the first boundary opening after the decode must close. -/
  | fenced (armed : Bool)
  /-- Held because its request is FENCED (R74). -/
  | held (handle : Handle)
  deriving DecidableEq, Repr

/-- A descriptor in the staging store (R47). v1 descriptors stand in the low 256 bits. -/
structure Staged where
  ring    : Nat
  slot    : Nat
  /-- Place in the order in which the ring's descriptors were consumed: unlike the slot it is never used again. -/
  pos     : Nat
  desc    : BitVec 512
  arrival : Nat
  phase   : StagePhase
  reads   : ReadState
  /-- Credit taken from ring 0's reserve (R47). -/
  reserve : Bool
  /-- Its turn among the loads, in decode order, once it is decoded (R397). -/
  turn    : Nat
  deriving DecidableEq, Repr

/-- A submission ring: the entry cached at enable and its indices. -/
structure SubRing where
  enabled   : Bool
  ctx       : BitVec 512
  head      : Nat
  tail      : Nat
  /-- First slot not yet covered by an issued fetch. -/
  fetched   : Nat
  /-- Fetches in flight, oldest first: first slot, count, and how many of their credits are ring 0's reserve. -/
  flights   : List (Nat × Nat × Nat)
  /-- Descriptors consumed since reset, and the places among them that are not yet acknowledged. -/
  consumed  : Nat
  unacked   : List Nat
  /-- Arrival time in µs of each slot covered by a doorbell and not yet fetched. -/
  arrivals  : Table Nat
  /-- Disable in progress: BUSY until the issued reads are decoded (R35). -/
  closing   : Bool
  /-- Head at the last HEAD_WB (R54). -/
  headWb    : Nat
  deriving DecidableEq, Repr

/-- An event ring: the entry cached at enable and its indices. -/
structure EvtRing where
  enabled    : Bool
  ctx        : BitVec 512
  tail       : Nat
  hostHead   : Nat
  phase      : Bool
  bound      : Nat
  ackRes     : Nat
  tokRes     : Nat
  stalled    : Bool
  unsignaled : Nat
  firstUnsig : Option Nat
  deriving DecidableEq, Repr

/-- A record ready for an event ring: the ring and bytes 0 to 27 with the type (R48). -/
structure EventRecord where
  ring  : Nat
  rtype : Nat
  body  : BitVec 224
  deriving DecidableEq, Repr

/-- A record held behind ACK_GATE until the EVENT of this sequence is acknowledged (R265). -/
structure GatedRecord where
  sequence : Nat
  record   : EventRecord
  deriving DecidableEq, Repr

structure Hru where
  subs       : Table SubRing
  evts       : Table EvtRing
  staging    : List Staged
  ctxReads   : List (Bool × Nat)
  /-- Rings whose watch line is being read (R46). -/
  watches    : List (Bool × Nat)
  /-- HRU_RING_STAT, last command. -/
  statEnabled : Bool
  statReason  : Nat
  statRing    : Nat
  credit      : Bool
  unwritten   : List EventRecord
  gated       : List GatedRecord
  link        : Option HostLink
  /-- Vectors pulsed are outputs; delivery marks live in the rafter table (R56). -/
  fetchCursor : Nat
  /-- Fetches left in the turn of ring `fetchCursor` (R47). -/
  fetchLeft : Nat
  deriving DecidableEq, Repr

/-! ### Admission (chapter 4) -/

structure Tenant where
  level  : Int
  stamp  : Nat
  rate   : Nat
  burst  : Nat
  enable : Bool
  cap    : Nat
  live   : Nat
  pquota : Nat
  pheld  : Nat
  aquota : Nat
  aheld  : Nat
  deriving DecidableEq, Repr

/-- The committed share of one request (R102) and its bins (R103). -/
structure Share where
  family : Nat
  cls    : Nat
  d      : Nat
  p      : Nat
  k      : Nat
  /-- (addition, version) counted in A_f. -/
  addKey : Option (Nat × Nat)
  itlBin : Option Nat
  ttftBin : Option Nat
  deriving DecidableEq, Repr

/-- A held admission: the condition it is held at and whether stage 3's reservation is kept (R88). -/
structure Held where
  slot      : Nat
  condition : Nat
  deriving DecidableEq, Repr

/-- Predictor correction κ of a family, and the corrections running that the clamp met (R98, R100). The coefficients stand in its block. -/
structure Predictor where
  kappa  : Int
  clampRun : Nat
  deriving DecidableEq, Repr

structure Adm where
  tenants    : Table Tenant
  /-- Slots that finished stage 4, in order (R84). -/
  candidates : List Nat
  /-- Slots of held requests, and of resumed ones whose load waits, to be tried again (R88, R107). -/
  due : List Nat
  held       : List Held
  shares     : Table Share
  predictors : Table Predictor
  overcommit : Bool
  /-- Predicted end of the step in compute, ns of timebase (E_n, R104). -/
  stepEnd    : Nat
  /-- Measured course times of the step, (course, ns) (R100). -/
  measured   : Table Nat
  latchCeiling : Nat
  latchPred  : Nat
  deriving DecidableEq, Repr

/-! ### Composer (chapter 5) -/

/-- A draft or sealed member (Table 5.6), with what sealing pins. KIND is 0 DECODE, 1 PREFILL, 2 PREFILL_DRAW. -/
structure Member where
  handle   : Handle
  slot     : Nat
  family   : Nat
  cls      : Nat
  kind     : Nat
  spec     : Nat
  start    : Nat
  count    : Nat
  /-- Addition id, version and slot; none for the null addition. -/
  addition : Option (Nat × Nat × Nat)
  pageHead : Nat
  pageCount : Nat
  seed     : BitVec 64
  /-- Order in which the draft took it (R115, R116: last added first). -/
  order    : Nat
  firstPos : Nat
  segment  : Nat
  vacated  : Bool
  deferred : Bool
  baseOnly : Bool
  failed   : Bool
  /-- Event-ring entries reserved at sealing (R53) and not yet released. -/
  ringRes  : Nat
  /-- SEQ_END at the start of the step (R209). -/
  seqStart : Nat
  /-- Accepted guesses of the step (a, R211); set at emission. -/
  accepted : Nat
  emitted  : Bool
  /-- Primaries its seal pinned (R24). -/
  pins     : List Nat
  /-- Its first draw (R119), and the a of its previous verification (R212). -/
  firstDraw : Nat
  advance  : Nat
  /-- Placed from projected counters: the yealm before serves it too (R113). -/
  projected : Bool
  /-- The guesses its speculative positions run on (R209), and its tokens delivered in the step. -/
  guesses  : List Nat
  delivered : Nat
  deriving DecidableEq, Repr

/-- A course (Table 5.5). -/
structure Course where
  family    : Nat
  split     : Nat
  grade     : Nat
  depth     : Nat
  bank      : Nat
  firstMember : Nat
  members   : Nat
  firstSegment : Nat
  segments  : Nat
  firstPos  : Nat
  positions : Nat
  draws     : Nat
  firstDraw : Nat
  predNs    : Nat
  deriving DecidableEq, Repr

/-- A segment of the gather map (R133). -/
structure Segment where
  slot     : Nat
  null     : Bool
  members  : Nat
  firstPos : Nat
  deriving DecidableEq, Repr

/-- A yealm: the draft, or what its manifest fixes (R130). -/
structure Yealm where
  step     : Nat
  mode     : Nat
  members  : List Member
  courses  : List Course
  segments : List Segment
  positions : Nat
  draws    : Nat
  epoch    : BitVec 32
  sealTime : Nat
  predNs   : Nat
  credits  : Nat
  digest   : BitVec 64
  /-- On a worker, the µs it waited for its leave after a refusal (R238, R250). -/
  waited   : Option Nat
  deriving DecidableEq, Repr

/-- Grade, depth and derived maximum of a family (R121): 0 A, 1 B, 2 C, 3 D. -/
structure Fit where
  grade  : Nat
  depth  : Nat
  maxPos : Nat
  deriving DecidableEq, Repr

/-- Progress of one course of the step in compute. -/
structure CourseRun where
  begun     : Bool
  late      : List Nat
  failedSeg : List Nat
  reported  : Bool
  ordered   : Bool
  baseFail  : Bool
  deriving DecidableEq, Repr

structure Ylm where
  draft       : Option Yealm
  /-- Grades frozen when the draft began (R123). -/
  draftFits   : Table Fit
  fits        : Table Fit
  /-- Depth lowered by R129, per family: the fit in force in place of `fits`. -/
  lowered     : Table Fit
  /-- Sealed and not yet in compute (yealm n+1). -/
  next        : Option Yealm
  /-- In compute (yealm n). -/
  current     : Option Yealm
  composing   : Bool
  leaveWait   : Bool
  leaveTag    : Nat
  /-- Manifest deliveries: attempt number of the manifest outstanding, acknowledged or not. -/
  mfStep      : Option Nat
  mfRetried   : Bool
  mfFailures  : Nat
  mfDelivered : Bool
  /-- Step whose manifest was emitted again for its replay and is not acknowledged yet, with the retry and the failures of that delivery. -/
  reStep    : Option Nat
  reRetried : Bool
  reFailures : Nat
  archive     : Table Yealm
  cursor      : Option Nat
  recoverLeft : Nat
  stallNs     : Nat
  runs        : Table CourseRun
  stepDone    : Bool
  stepDoneAt  : Nat
  sealPointAt : Nat
  composeNs   : Nat
  latchCompose : Nat
  /-- Where the BULK cursor will point once the draft is sealed (R115). -/
  cursorNext  : Option Nat
  /-- Timebase ns from which the tiles wait at a closed boundary (R26). -/
  stallFrom   : Option Nat
  /-- Families whose depth falls one step as the boundary closes (R129). -/
  lowerDue    : List Nat
  deriving DecidableEq, Repr

/-! ### Pages (chapter 6) -/

/-- Page states (Table 6.2). -/
inductive PageState where
  | free | openPage | full | cached | inTransit | copying | aliasEntry | failed
  deriving DecidableEq, Repr

/-- A page entry (Table 6.1). TIER 3 is none. -/
structure Page where
  next     : Nat
  state    : PageState
  tier     : Nat
  indexed  : Bool
  mixed    : Bool
  baseOnly : Bool
  holders  : Nat
  prev     : Nat
  primary  : Nat
  frame    : Nat
  pins     : Nat
  cls      : Nat
  bucket   : Nat
  way      : Nat
  /-- State before a move (Table 6.3). -/
  before   : PageState
  /-- Slot of the request whose list holds the primary itself; none when it is held only through others. -/
  owner    : Option Nat
  /-- Timebase ns at entry into CACHED (R151). -/
  cachedAt : Nat
  /-- Salt its way was inserted under (R151 Purge). -/
  salt     : BitVec 64
  family   : Nat
  deriving DecidableEq, Repr

/-- A frame pool of tier T0 or T1 and one class (R144): key 8 tier + class. -/
structure Pool where
  base  : BitVec 64
  count : Nat
  frames : FreeList
  reserved : Nat
  deriving DecidableEq, Repr

/-- A T2 extent (R144). -/
structure Extent where
  node   : Nat
  base   : Nat
  cls    : Nat
  frames : FreeList
  deriving DecidableEq, Repr

/-- One way of a prefix-index bucket (R157). -/
structure Way where
  hash  : BitVec 64
  page  : Nat
  block : Nat
  valid : Bool
  deriving DecidableEq, Repr

/-- What a move is for; its number is its priority (R146), variant loads apart. -/
inductive MoveWhy where
  | promote | restore | copyOnWrite | importPage | relief | spill
  | variantLoad (job : Nat)
  deriving DecidableEq, Repr

/-- An outstanding or queued page move (R146, Table 6.4). -/
structure Move where
  tag      : Nat
  why      : MoveWhy
  page     : Nat
  srcTier  : Nat
  srcAddr  : BitVec 64
  dstTier  : Nat
  dstFrame : Nat
  dstAddr  : BitVec 64
  bytes    : Nat
  slot     : Option Nat
  /-- Frame class of its destination. -/
  cls      : Nat
  /-- Its write has failed once (STATUS 2), and its watchdog has expired once (Table 6.7). -/
  retried  : Bool
  timed    : Bool
  cancelled : Bool
  /-- The watchdog has expired once: the cancelled move is issued again (R164). -/
  expired  : Bool
  deriving DecidableEq, Repr

/-- A wanted move, not yet issued. -/
structure WantedMove where
  why  : MoveWhy
  page : Nat
  slot : Option Nat
  retried : Bool
  timed : Bool
  deriving DecidableEq, Repr

/-- A detached list waiting for the background walk (R153). -/
structure WalkItem where
  head  : Nat
  count : Nat
  slot  : Nat
  resident : Bool
  deriving DecidableEq, Repr

structure Pgm where
  pages    : Table Page
  entries  : FreeList
  entryReserved : Nat
  pools    : Table Pool
  extents  : Table Extent
  index    : Table (Way × Way)
  /-- Staged hashes of each slot, (block, hash) in block order (R156). -/
  stage    : Table (List (Nat × BitVec 64))
  stageFull : Bool
  salts    : Table (BitVec 64)
  cached   : List Nat
  wanted   : List WantedMove
  moves    : List Move
  nextTag  : Nat
  /-- The burst gathered and not yet issued (R147), the tag of its grant, whether its leave is asked, and whether a refusal
  keeps it to the next boundary. -/
  burst    : List WantedMove
  burstTag : Option Nat
  asked    : Bool
  burstHeld : Bool
  walk     : List WalkItem
  /-- On a standby of several ranks, by entry, the frames beyond the first: one more for each rank partnered (R274). -/
  mirrors  : Table (List Nat)
  deriving DecidableEq, Repr

/-! ### Variants (chapter 7) -/

/-- Family states (Table 7.3) by code. -/
structure Family where
  state   : Nat
  block   : BitVec 2048
  share   : Bool
  granule : Nat
  granules : Nat
  /-- Staged descriptor that loads or removes it: ring and slot. -/
  ack     : Option (Nat × Nat)
  deriving DecidableEq, Repr

/-- A version record (Table 7.5). VSTATE by code. -/
structure VersionRec where
  /-- Place r of the record in its entry, 0 to 6. -/
  index      : Nat
  version    : Nat
  vstate     : Nat
  srcT2      : Bool
  inT0       : Bool
  rebindReq  : Bool
  hostRetire : Bool
  rank       : Nat
  size       : Nat
  source     : BitVec 64
  slot       : Option Nat
  bound      : Nat
  lastUsed   : Nat
  /-- Steps of the last 16 in which a sealed yealm used the slot (R180). -/
  uses       : List Nat
  ack        : Option (Nat × Nat)
  /-- Its slot failed in service while it was RETIRING: it is not reloaded (Table 7.7). -/
  lost       : Bool
  deriving DecidableEq, Repr

/-- An addition directory entry (Table 7.5). -/
structure Addition where
  family  : Nat
  valid   : Bool
  currentValid : Bool
  owner   : Nat
  current : Nat
  records : List VersionRec
  /-- Retire descriptors waiting: ring, slot and the versions named. -/
  retires : List (Nat × Nat × List Nat)
  deriving DecidableEq, Repr

/-- A resident slot (residency map, R168). -/
structure Slot where
  addition : Nat
  version  : Nat
  family   : Nat
  t0       : Bool
  granule  : Nat
  granules : Nat
  pins     : Nat
  deriving DecidableEq, Repr

/-- A prefix record (R183). -/
structure PrefixRec where
  family  : Nat
  state   : Nat
  tenant  : Nat
  tokens  : Nat
  head    : Nat
  pages   : List Nat
  bound   : Nat
  source  : BitVec 64
  srcT2   : Bool
  lapse   : Option Nat
  resident : Bool
  ack     : Option (Nat × Nat)
  deriving DecidableEq, Repr

/-- What a copy job loads (R397). -/
inductive LoadOf where
  | family (f : Nat) (reload : Bool)
  | addition (a v : Nat) (reload : Bool)
  | learned (p : Nat)
  deriving DecidableEq, Repr

structure Job where
  id      : Nat
  what    : LoadOf
  total   : Nat
  issued  : Nat
  landed  : Nat
  /-- Watchdog runs since the leave request of the first burst (R397). -/
  started : Bool
  deriving DecidableEq, Repr

structure Var where
  families  : Table Family
  additions : Table Addition
  slots     : Table Slot
  prefixes  : Table PrefixRec
  jobs      : List Job
  nextJob   : Nat
  /-- Job whose burst holds leave, bursts left in it, and its grant tag. -/
  active    : Option Nat
  burst     : Nat
  burstTag  : Option Nat
  asked     : Bool
  /-- Reloads wanted by requests: (addition, version, priority of R180). -/
  wanted    : List (Nat × Nat × Nat)
  deriving DecidableEq, Repr

/-! ### Sampler (chapter 8) and generator (chapter 9) -/

/-- A draw context (Table 8.2) with what the draw map carries. -/
structure DrawCtx where
  draw     : Nat
  member   : Nat
  index    : Nat
  heap     : List (BitVec 32 × Nat)
  bestY    : BitVec 32
  bestQ    : BitVec 32
  bestId   : Nat
  received : Nat
  greedy   : Bool
  trunc    : Bool
  exclStop : Bool
  sat      : Bool
  void     : Bool
  error    : Bool
  acc      : Nat
  guess    : List (BitVec 32 × Nat)
  /-- Tile occupancy map (R197), the first token id of each bias-store line, and the stop ids while EXCL_STOP holds (R198). -/
  map      : BitVec 1024
  biasDir  : List Nat
  stopIds  : List Nat
  pending  : List Nat
  sum1     : Nat
  sum2     : Nat
  done     : Bool
  token    : Option Nat
  logprob  : Option (BitVec 32)
  alternates : List (Nat × BitVec 32)
  deriving DecidableEq, Repr

/-- A penalty count set: 32 lines of 16 entries; each line lists (token, count), first entries first (R198). -/
abbrev CountSet := Table (List (Nat × Nat))

/-- A guess store (R212): four tokens and a count. -/
structure GuessStore where
  tokens : List Nat
  count  : Nat
  deriving DecidableEq, Repr

/-- A count update waiting for the last emission of the step (R208). -/
structure CountUpdate where
  draw  : Nat
  slot  : Nat
  token : Nat
  deriving DecidableEq, Repr

/-- A lane group (R216, R217). -/
structure LaneGroup where
  fault     : BitVec 17
  spareUsed : Bool
  retired   : Bool
  /-- Faulty lane whose spare switch waits for the next boundary. -/
  pendSwitch : Bool
  pendRetire : Bool
  deriving DecidableEq, Repr

structure Smp where
  ctxs      : Table DrawCtx
  nextEmit  : Nat
  homes     : Table CountSet
  cells     : Table CountSet
  links     : Table Nat
  cellFree  : FreeList
  biases    : Table (List (Nat × BitVec 32))
  guesses   : Table GuessStore
  updates   : List CountUpdate
  groups    : Table LaneGroup
  /-- SMP_CTL in force for the step (a write applies from the next step, R220). -/
  ctl       : Nat
  penEmpty  : Bool
  /-- Timebase ns of the last emission of the step. -/
  emittedAt : Nat
  tailNs    : Nat
  latchTail : Nat
  /-- The gutter is held not ready for a context (R191). -/
  gutHeld   : Bool
  deriving DecidableEq, Repr

/-- A spar core (R229, R230). -/
structure SparCore where
  active  : Bool
  spare   : Bool
  retired : Bool
  logical : Nat
  deriving DecidableEq, Repr

structure Spg where
  cores    : Table SparCore
  shadow   : Nat
  /-- Core found faulty by a shadow check, to be retired at the next boundary. -/
  culprits : List Nat
  katBusy  : Bool
  katGumbel : Bool
  evalSmp  : Nat
  evalTile : Nat
  deriving DecidableEq, Repr

/-! ### Group (chapter 10) -/

/-- A group map entry (Table 10.2). -/
structure Rank where
  node    : Nat
  parent  : Nat
  ringPeer : Nat
  partner : Nat
  role    : Nat
  shard   : Nat
  deriving DecidableEq, Repr

/-- The ACK state of a forwarding engine for one step. -/
structure AckMerge where
  digest   : BitVec 64
  children : List Nat
  cover    : Nat
  error    : Bool
  mismatch : Bool
  leaveWait : Bool
  waitUs   : Nat
  missing  : Nat
  own      : Bool
  sent     : Bool
  deriving DecidableEq, Repr

/-- Merged segment reports of one course. -/
structure SegMerge where
  children : List Nat
  late     : BitVec 1024
  failed   : BitVec 1024
  baseFail : Bool
  own      : Bool
  sent     : Bool
  deriving DecidableEq, Repr

/-- Merged partials of one course. -/
structure PartMerge where
  children : List Nat
  cover    : Nat
  records  : List PartialRec
  own      : Bool
  sent     : Bool
  deriving DecidableEq, Repr

/-- A fence ordered for a boundary (R253). -/
structure PendFence where
  rank   : Nat
  at_    : Nat
  reason : Nat
  /-- The node that takes the rank instead, for an admission ordered for the boundary (R279). -/
  admitted  : Option Nat
  deriving DecidableEq, Repr

structure Mdv where
  map      : Table Rank
  /-- The map as it was read; `map` follows fences and admissions. -/
  given    : Table Rank
  groupId  : Nat
  shards   : Nat
  topology : Nat
  check    : BitVec 32
  role     : Nat
  rank     : Nat
  node     : Nat
  joined   : Bool
  joining  : Bool
  fenced   : Bool
  lapsed   : Bool
  reason   : Nat
  epoch    : Nat
  /-- Epoch in force up to and including epochStep (R253). -/
  oldEpoch : Nat
  epochStep : Nat
  joins    : List Nat
  /-- Newest step licensed by a LEASE, and the misses. -/
  licensed : Nat
  misses   : Nat
  /-- Timebase ns of the last LEASE received or sent, of the last frame from rank 0, of the last merged ACK that covered
  every unfenced rank, and of the JOIN sent. -/
  leaseAt  : Nat
  heardAt  : Nat
  coverAt  : Nat
  joinAt   : Nat
  /-- Merged ACKs, by step: those of the step in compute and of the one before it. -/
  acks     : Table AckMerge
  segs     : Table SegMerge
  parts    : Table PartMerge
  fencedRanks : List Nat
  pendFences : List PendFence
  nodesDown : List Nat
  probes   : List Nat
  replies  : Table (Nat × Nat)
  distWorst : Nat
  distNs   : Nat
  latchDist : Nat
  opsDue   : List (BitVec 256)
  tokensSeen : List Nat
  /-- A worker's next manifest, until its leave is granted (R238). -/
  manifestIn : Option Yealm
  /-- A worker's view of the requests that OPS opened (R244): parameter block, bias list and tokens counted. -/
  replicas : Table Rafter
  silentSubtrees : List Nat
  /-- Timebase ns of the first message of the packet being received, or of sealing, for MDV_DIST_NS. -/
  packetAt : Nat
  /-- Nodes that shadow below this rank, by the rank their map entry gives them: it passes their messages on (R280). -/
  guests   : Table Nat
  /-- On a standby, by step, the courses whose tokens were applied before the boundary passed (R275). -/
  tokensPast : Table (List Nat)
  deriving DecidableEq, Repr

/-! ### Faults (chapter 11) -/

/-- Event-section entry of a step record (Table 11.3). -/
structure JEvent where
  kind   : Nat
  status : Nat
  who    : Nat
  detail : Nat
  us     : Nat
  deriving DecidableEq, Repr

/-- Member-section entry (Table 11.3). -/
structure JMember where
  handle   : Handle
  accepted : Nat
  vacated  : Bool
  deferred : Bool
  baseOnly : Bool
  failed   : Bool
  deriving DecidableEq, Repr

/-- A step record (R261). -/
structure StepRecord where
  step      : Nat
  committed : Bool
  damaged   : Bool
  mode      : Nat
  epoch     : Nat
  digest    : BitVec 64
  session   : BitVec 32
  members   : List JMember
  tokens    : Table Nat
  guesses   : Table GuessStore
  late      : Table (List Nat)
  failedSeg : Table (List Nat)
  baseFail  : List Nat
  courses   : Nat
  draws     : Nat
  rings     : List (Nat × Nat × Bool)
  events    : List JEvent
  commitTime : Nat
  deriving DecidableEq, Repr

/-- One old value in an undo log (R266). -/
inductive UndoEntry where
  | rafter (slot : Nat) (old : Rafter)
  /-- A generation charge: what it took from the level, since a charge of an admission in between stands. -/
  | bucket (tenant : Nat) (taken : Int)
  | home (slot : Nat) (old : CountSet)
  | cell (cell : Nat) (old : CountSet)
  | link (cell : Nat) (old : Option Nat)
  /-- A cell taken from the free list. -/
  | cellTaken (cell : Nat)
  | guess (slot : Nat) (old : GuessStore)
  | page (entry : Nat) (old : Page)
  /-- A CACHED page freed for its way: its entry, and the cached list it stood on. -/
  | freed (entry : Nat) (old : Page) (cached : List Nat)
  | baseOnly (entry : Nat) (old : Bool)
  | index (bucket : Nat) (old : Way × Way)
  deriving DecidableEq, Repr

/-- Score and level of a part (R281, R282). -/
structure Part where
  score   : Nat
  level   : Nat
  retired : Bool
  deriving DecidableEq, Repr

/-- What a loading engine receives of the group's steps, kept until its load ends (R279). -/
inductive HeldMsg where
  | ops (step : Nat) (records : List (BitVec 256))
  | manifest (step : Nat) (bytes : List Byte)
  | tokens (step course first : Nat) (entries : List (BitVec 32)) (guesses : List (BitVec 128))
  /-- A LEASE has told that the boundary of the step has passed. -/
  | boundary (step : Nat)
  deriving DecidableEq, Repr

structure Shadow where
  phase     : Nat
  rank      : Nat
  role      : Nat
  matched   : Nat
  mismatches : Nat
  source    : Nat
  loadStep  : Nat
  nextSeq   : Nat
  crcState  : BitVec 64
  /-- At the source and at the manager: each rank being shadowed, the shadowing node and the role it wants. -/
  watching  : List (Nat × Nat × Nat)
  /-- Own partial records of the step in compute, by draw; and by step the three values of a SHADOW_ACK, own and received. -/
  partials  : Table PartialRec
  own       : Table (BitVec 64 × BitVec 64 × BitVec 64)
  acked     : Table (BitVec 64 × BitVec 64 × BitVec 64)
  /-- Timebase ns at which the load began. -/
  loadAt    : Nat
  /-- The engine executes manifests: the boundary after its load has passed. -/
  running   : Bool
  held      : List HeldMsg
  deriving DecidableEq, Repr

structure Flt where
  journal   : Table StepRecord
  undo      : List UndoEntry
  commitStep : Nat
  mirrorStep : Nat
  replaying : Bool
  takenOver : Bool
  governed  : Bool
  evtFull   : Bool
  failCount : Nat
  failStep  : Nat
  failCourses : List Nat
  /-- The replay in progress vacates members (R271); its own failure is FATAL. -/
  vacateReplay : Bool
  /-- Effect of the boundary that failed, to be applied again, and its repetition (R29). -/
  effectFail : Nat
  effectCount : Nat
  abortSeq  : Nat
  seenAborts : List (Nat × Nat)
  events    : List JEvent
  eventsNext : List JEvent
  /-- Requests whose SPILLED or RESTORED event found the section full: it is applied at the next boundary (R262). -/
  heldEvents : List Nat
  mirrored  : Table (List Byte × List Byte)
  eventSeq  : Nat
  gateAcked : Nat
  parts     : Table Part
  /-- Events of the running second not yet in a score, by 512 kind + index: ECC words, retries, retrainings, swaps. -/
  fed       : Table (Nat × Nat × Nat × Nat)
  expelled  : List Nat
  heldExpel : List (Nat × Nat)
  shadow    : Shadow
  /-- Control-port lanes that work, the spare included (R278). -/
  portLanes : Nat
  laneSwitch : List Nat
  scanTokens : List (Handle × Nat × Nat)
  /-- On a manager's partner, by ring, the slot after the last descriptor that an EVENT reported consumed (R277). -/
  takeHeads : Table Nat
  /-- Where the host scan of a takeover left each event ring: tail and phase. -/
  takeTails : Table (Nat × Bool)
  /-- After a takeover, by event ring, the tail that the ring section of the replay point gives (R277). -/
  takeFrom  : Table Nat
  /-- On a standby, by step, the undo logs of the steps whose records are not yet here. -/
  heldUndo  : Table (List UndoEntry)
  /-- SRAM rows by 65536 array + row: ns of the last corrected access; rows to be remapped at the next boundary; rows remapped
  (Table 11.4). -/
  rowErrs   : Table Nat
  rowsDue   : List Nat
  rowsSpared : List Nat
  deriving DecidableEq, Repr

/-! ### Control cores (chapter 12) and batten pool (chapter 13) -/

/-- Task states (Table 12.2). -/
inductive TaskState where
  | free | waiting | ready | running
  deriving DecidableEq, Repr

structure Task where
  entry     : BitVec 64
  arg       : BitVec 64
  ctx       : BitVec 64
  latched   : BitVec 32
  mask      : BitVec 32
  state     : TaskState
  all       : Bool
  started   : Bool
  cancelSeen : Bool
  restarted : Bool
  destroyPending : Bool
  priority  : Nat
  affinity  : BitVec 16
  lastCore  : Option Nat
  readyTime : Nat
  runs      : BitVec 32
  /-- Band at the entry to READY (R301). -/
  band      : Nat
  deriving DecidableEq, Repr

/-- A logical core (R286, R294, R295). -/
structure Core where
  /-- Physical core serving the logical number; none while it waits for a spare or is retired. -/
  phys     : Option Nat
  running  : Option Nat
  /-- Task chosen for dispatch whose NEXT has not been loaded. -/
  chosen   : Option Nat
  irq      : Bool
  retired  : Bool
  /-- A DATA-class pop held pending: queue and when it began (R312). -/
  stalled  : Option (Nat × Nat)
  /-- Timebase ns of the dispatch interrupt not yet acknowledged. -/
  irqAt    : Nat
  /-- Timebase ns from which the core watchdog runs: the last CHECKIN or the start of the run (R297). -/
  wdFrom   : Nat
  /-- Timebase ns from which the run is not yet in `busyNs`, and the ns run since the last latch (R300). -/
  runFrom  : Nat
  busyNs   : Nat
  deriving DecidableEq, Repr

/-- An item of a queue: a payload, or a gap marker with its drop count (R302, R310). -/
inductive Item where
  | words (payload : List (BitVec 64)) (bad : Bool)
  | gap (count : Nat)
  deriving DecidableEq, Repr

/-- A flow table entry (R296). -/
structure Flow where
  busy  : Bool
  owner : Nat
  retry : Bool
  queue : Nat
  deriving DecidableEq, Repr

structure Tsk where
  tasks  : Table Task
  cores  : Table Core
  sparePhys : List Nat
  retiredPhys : List Nat
  flows  : Table Flow
  /-- Items redelivered after a core fault: flow, queue and item (R297). -/
  redeliver : List (Nat × Nat × Item)
  /-- Items in service, by flow, kept for redelivery. -/
  service : Table (Nat × Item)
  stage  : Table (BitVec 512)
  hist   : Table Nat
  latchHist : Table Nat
  latchReady : Table Nat
  latchLoad : Table Nat
  /-- Shared firmware memory by its offset (R287); a byte nothing has written reads 0 (log entry 5). -/
  shared : List Host.Cell
  /-- Local memory of each logical core (R287, R289), likewise. -/
  locals : Table (List Host.Cell)
  override : Bool
  /-- Logical cores whose spare waits for the next boundary, with the physical cores they lost. -/
  spareDue : List (Nat × Nat)
  deriving DecidableEq, Repr

/-- A queue (R304 to R313). -/
structure Queue where
  enabled  : Bool
  cls      : Nat
  atomic   : Bool
  notifyEn : Bool
  notifyTask : Nat
  notifyFlag : Nat
  xoffLine : Nat
  xoffEn   : Bool
  maxDepth : Nat
  high     : Nat
  low      : Nat
  items    : List Item
  xoff     : Bool
  /-- FAILED (R317): the cells before the break that still deliver. -/
  failed   : Option Nat
  drops    : Nat
  deriving DecidableEq, Repr

/-- A core's view of one queue port (R308). -/
structure PortView where
  staged : Table (BitVec 64)
  popped : List (BitVec 64)
  deriving DecidableEq, Repr

structure Bpl where
  queues : Table Queue
  free   : Nat
  views  : Table PortView
  deriving DecidableEq, Repr

/-! ### Eaves log (chapter 14) and errors (chapter 15) -/

/-- A record as stamped at arrival (R321, R323). -/
structure LogRec where
  code    : Nat
  injected : Bool
  early   : Bool
  opTime  : Nat
  cycles  : Nat
  island  : Nat
  rep     : Nat
  payload : List (BitVec 32)
  deriving DecidableEq, Repr

/-- An emergency entry (Table 14.3). -/
structure EmergEntry where
  code : Nat
  island : Nat
  injected : Bool
  opTime : Nat
  cycles : Nat
  word : BitVec 32
  deriving DecidableEq, Repr

structure Evr where
  enabled  : Bool
  frozen   : Bool
  full     : Bool
  memFail  : Bool
  emergFail : Bool
  wrPtr    : Nat
  opTime   : Nat
  cycles   : Nat
  staging  : List LogRec
  stagedBytes : Nat
  stagingLost : Nat
  pendRepeat : Nat
  last     : Option (LogRec × Nat)
  /-- The last T0 write, until it is known good: EVR_WR_PTR before it, its offset, and whether it counted (R331). -/
  lastWrite : Option (Nat × Nat × Bool)
  rates    : Table (Nat × Nat)
  sweepAt  : Nat
  emerg    : List EmergEntry
  fwWords  : List (BitVec 32)
  deriving DecidableEq, Repr

/-- An error in the context or the pending queue (R345, Table 15.3). -/
structure ErrEntry where
  detector : Nat
  cls      : Nat
  injected : Bool
  island   : Nat
  handle   : Handle
  detail   : BitVec 64
  sequence : Nat
  step     : Nat
  time     : Nat
  rep      : Nat
  deriving DecidableEq, Repr

/-- An injection slot (R353). -/
structure InjSlot where
  detector : Nat
  arm      : Bool
  nth      : Bool
  uncorr   : Bool
  n        : Nat
  fired    : Nat
  seen     : Nat
  deriving DecidableEq, Repr

structure Err where
  ringTail  : Nat
  phase     : Bool
  ringFull  : Bool
  active    : Option ErrEntry
  suspended : Option ErrEntry
  pending   : List ErrEntry
  sequence  : Nat
  unlocked  : Bool
  challenge : Option (BitVec 32 × Nat)
  fatal     : Bool
  slots     : Table InjSlot
  deriving DecidableEq, Repr

/-! ### Islands, leave, calibration (chapter 16) and the boundary (chapters 17, 19) -/

/-- What a leave request is for. -/
inductive LeaveFor where
  | step (n : Nat) | workerStep (n : Nat) | move | load | mirror | bist
  deriving DecidableEq, Repr

structure LeaveReq where
  cls   : Nat
  cred  : Nat
  tag   : Nat
  for_  : LeaveFor
  /-- Waits for CPC_LEAVE_RETRY before it asks again (R361). -/
  retry : Bool
  deriving DecidableEq, Repr

/-- A leave channel (R358, R360): requests waiting, the handshake, grants held and releases due. -/
structure Channel where
  waiting  : List LeaveReq
  /-- The handshake on the pins: its request, or a RELEASE of the tag. -/
  asking   : Option LeaveReq
  releasing : Option Nat
  /-- REQ dropped; RSP not yet seen low. -/
  closing  : Bool
  grants   : List LeaveReq
  due      : List Nat
  nextTag  : Nat
  deriving DecidableEq, Repr

structure Cpc where
  running  : BitVec 9
  monFail  : BitVec 9
  freqs    : Table Nat
  ch0      : Channel
  ch1      : Channel
  temps    : Table Int
  level    : Nat
  tbLost   : Bool
  tbRejects : Nat
  deriving DecidableEq, Repr

structure Cal where
  loaded   : Bool
  fuseBad  : Bool
  osc      : Table Nat
  oscEff   : Table Nat
  sensor   : Table Int
  xtal     : Int
  bin      : Nat
  energy   : Table Nat
  crit     : Nat
  weights  : Table Nat
  stepping : Nat
  caps     : Nat
  /-- Physical control core of each logical number at shipment (R301), and the spar cores shipped as spares (R233). -/
  coreMap  : List Nat
  sparSpares : List Nat
  /-- Islands whose trim is held at the frequency margin, with the target held (R367). -/
  oscHeld  : Table Nat
  deriving DecidableEq, Repr

structure Glb where
  phase    : Nat
  bistDone : Bool
  bistFail : Bool
  fail     : BitVec 15
  repaired : BitVec 15
  bistBusy : Bool
  aoReset  : Bool
  mainReset : Bool
  rstReq   : Bool
  opened   : Bool
  /-- GLB_HOST as HI loaded it (R391). -/
  host     : Option HostLink
  deriving DecidableEq, Repr

/-! ### Outputs -/

/-- What the block drives or writes at its boundary (Table 17.1), newest first in `Engine.out`. -/
inductive Output where
  | hostRead (address : BitVec 64) (bytes : Nat)
  | hostRecord (ring : Nat) (index : Nat) (record : BitVec 256)
  | hostWrite (address : BitVec 64) (bytes : Nat) (value : BitVec 2560)
  | errorRecord (index : Nat) (record : BitVec 256)
  | irq (vector : Nat)
  | regData (value : BitVec 64)
  | portData (core : Nat) (value : BitVec 64)
  | manifest (step : Nat) (bytes : List Byte)
  /-- A word to the tile sequencers on `ske_mf_ctl` (R375). -/
  | ctl (word : BitVec 128)
  | pageMove (op : Nat) (tag : Nat) (srcTier : Nat) (src : BitVec 64) (dstTier : Nat) (dst : BitVec 64) (bytes : Nat) (head count : Nat)
  | gutReady (ready : Bool)
  | spgWords (words : List (BitVec 32)) (error : Bool)
  | leaveReq (channel : Bool) (cred cls tag : Nat)
  | leaveDrop (channel : Bool)
  /-- One frame on one link: the neighbour's node, the virtual channel, the GROUP_ID it carries, and its bytes (R240). -/
  | frame (node vc group : Nat) (bytes : List Byte)
  /-- A page-mover copy of a page's slices to an engine that loads (R279): entry, tier and address here, bytes. -/
  | kvCopy (node entry tier : Nat) (src : BitVec 64) (bytes : Nat)
  /-- The access-fault exception on a control core (R287). -/
  | accessFault (core address : Nat)
  | xoff (lines : BitVec 16)
  | rstReq (level : Bool)
  | coreIrq (core : Nat)
  | haltTiles
  | stateRestart
  deriving DecidableEq, Repr

/-! ### The engine -/

/-- Everything but the waiting commands and the timebase. -/
structure Engine where
  /-- The timebase copy, in ns, that this command sees (R10, R364). -/
  now   : Nat
  /-- Free values taken so far (the model's own). -/
  taken : Nat
  /-- Writable register fields, by 32 offset + lowest bit; absent reads as the field's reset value. -/
  regs  : Table Nat
  /-- Counters, by offset; absent is 0. -/
  cnt   : Table (BitVec 32)
  /-- Counters as latched at the last statistics latch; absent is 0. -/
  latched : Table (BitVec 32)
  /-- High halves latched by a 32-bit read of a pair's low half, by the high half's offset (R12). -/
  highs : Table (BitVec 32)
  /-- The eaves-log region's bytes, by region offset; an unlisted byte reads 0. -/
  mem   : List Host.Cell
  rafter : Table Rafter
  /-- Generation of each slot; absent is 0 (R63). -/
  gens  : Table Nat
  slots : FreeList
  stop  : List Nat
  ready0 : List Nat
  ready1 : List Nat
  ready2 : List Nat
  splice0 : List Nat
  splice1 : List Nat
  splice2 : List Nat
  /-- Timebase count of the last host action, and the requests a host action of that count met with a timer already due (R81). -/
  actAt  : Nat
  acted  : List Nat
  /-- Step in compute, 0 before step 1; the boundary of n leaves it at n + 1. -/
  stepNo : Nat
  stateCnt : Table Nat
  /-- Boundary n is open; `effect` is the next of its six effects. -/
  boundaryOpen : Bool
  hru : Hru
  adm : Adm
  ylm : Ylm
  pgm : Pgm
  var : Var
  smp : Smp
  spg : Spg
  mdv : Mdv
  flt : Flt
  tsk : Tsk
  bpl : Bpl
  evr : Evr
  err : Err
  cpc : Cpc
  cal : Cal
  glb : Glb
  out : List Output
  deriving DecidableEq, Repr

/-- AO's copy of the chip timebase (R364). -/
structure Timebase where
  count : Nat
  /-- Fraction of the crystal correction, in units of 10^-9 ns. -/
  frac  : Int
  /-- Difference still to slew, ns; positive when the chip is ahead. -/
  slew  : Int
  /-- The copy holds until the chip count passes it: the ns left to hold. -/
  hold  : Nat
  deriving DecidableEq, Repr

structure State where
  /-- Commands waiting, first in, first out. -/
  pending : List Instr
  /-- Items that stand in the crossings into islands that do not run, oldest first: the island and the command (R16, R356, R379). -/
  crossing : List (Nat × Instr)
  tb      : Timebase
  eng     : Engine
  deriving DecidableEq, Repr

/-! ### The state after reset (R379: register values at the moment an island leaves reset) -/

/-- A free list over 0 to n − 1 of which nothing has been used. -/
def FreeList.full (n : Nat) : FreeList := { fresh := 0, limit := n, freed := [] }

/-- Rings: none enabled, host write credit present (R35, R47). -/
def Hru.reset : Hru :=
  { subs := [], evts := [], staging := [], ctxReads := [], watches := [], statEnabled := false,
    statReason := 0, statRing := 0, credit := true, unwritten := [], gated := [], link := none, fetchCursor := 0,
    fetchLeft := 0 }

/-- Admission: no tenant written, nothing held (chapter 4). -/
def Adm.reset : Adm :=
  { tenants := [], candidates := [], due := [], held := [], shares := [], predictors := [], overcommit := false,
    stepEnd := 0, measured := [], latchCeiling := 4294967295, latchPred := 0 }

/-- Composer: no draft, no sealed yealm (chapter 5). -/
def Ylm.reset : Ylm :=
  { draft := none, draftFits := [], fits := [], lowered := [], next := none, current := none, composing := false,
    leaveWait := false, leaveTag := 0, mfStep := none, mfRetried := false, mfFailures := 0, mfDelivered := false, reStep := none, reRetried := false, reFailures := 0,
    archive := [], cursor := none, recoverLeft := 0, stallNs := 0, runs := [], stepDone := false, stepDoneAt := 0,
    sealPointAt := 0, composeNs := 0, latchCompose := 0, cursorNext := none, stallFrom := none, lowerDue := [] }

/-- Page manager: the region is zeroed, so every entry is FREE (R380, Table 6.2). -/
def Pgm.reset : Pgm :=
  { pages := [], entries := .full 4194304, entryReserved := 0, pools := [], extents := [], index := [], stage := [],
    stageFull := false, salts := [], cached := [], wanted := [], moves := [], nextTag := 0, burst := [],
    burstTag := none, asked := false, burstHeld := false, walk := [], mirrors := [] }

/-- Variant manager: every region zeroed (R380). -/
def Var.reset : Var :=
  { families := [], additions := [], slots := [], prefixes := [], jobs := [], nextJob := 0, active := none, burst := 0,
    burstTag := none, asked := false, wanted := [] }

/-- Sampler: stores empty, no course open (chapter 8). -/
def Smp.reset : Smp :=
  { ctxs := [], nextEmit := 0, homes := [], cells := [], links := [], cellFree := .full 131072,
    biases := [], guesses := [], updates := [], groups := [], ctl := 0, penEmpty := false, emittedAt := 0, tailNs := 0,
    latchTail := 0, gutHeld := false }

/-- Generator: the fuse load assigns the cores (R233). -/
def Spg.reset : Spg :=
  { cores := [], shadow := 256, culprits := [], katBusy := false, katGumbel := false, evalSmp := 0, evalTile := 0 }

/-- Group unit: not joined (chapter 10). -/
def Mdv.reset : Mdv :=
  { map := [], given := [], groupId := 0, shards := 0, topology := 0, check := 0, role := 0, rank := 0, node := 0, joined := false,
    joining := false, fenced := false, lapsed := false, reason := 0, epoch := 0, oldEpoch := 0, epochStep := 0,
    joins := [], licensed := 0, misses := 0, leaseAt := 0, heardAt := 0, coverAt := 0, joinAt := 0,
    acks := [], segs := [], parts := [], fencedRanks := [], pendFences := [], nodesDown := [], probes := [], replies := [],
    distWorst := 0, distNs := 0, latchDist := 0, opsDue := [], tokensSeen := [], manifestIn := none, replicas := [],
    silentSubtrees := [], packetAt := 0, guests := [], tokensPast := [] }

/-- Fault unit: empty journal, every part healthy (chapter 11). -/
def Flt.reset : Flt :=
  { journal := [], undo := [], commitStep := 0, mirrorStep := 0, replaying := false, takenOver := false,
    governed := false, evtFull := false, failCount := 0, failStep := 0, failCourses := [], vacateReplay := false,
    effectFail := 0, effectCount := 0, abortSeq := 0, seenAborts := [], events := [], eventsNext := [], heldEvents := [], mirrored := [],
    eventSeq := 0, gateAcked := 0, parts := [], fed := [], expelled := [], heldExpel := [],
    shadow := { phase := 0, rank := 0, role := 0, matched := 0, mismatches := 0, source := 0, loadStep := 0, nextSeq := 0,
                crcState := 0xFFFFFFFFFFFFFFFF, watching := [], partials := [], own := [], acked := [], loadAt := 0, running := false, held := [] },
    portLanes := 3, laneSwitch := [], scanTokens := [], takeHeads := [], takeTails := [], takeFrom := [], heldUndo := [], rowErrs := [], rowsDue := [], rowsSpared := [] }

/-- Control cores: no task, no flow (chapter 12). -/
def Tsk.reset : Tsk :=
  { tasks := [], cores := [], sparePhys := [], retiredPhys := [], flows := [], redeliver := [], service := [], stage := [],
    hist := [], latchHist := [], latchReady := [], latchLoad := [], shared := [], locals := [], override := false, spareDue := [] }

/-- An idle leave channel. -/
def Channel.reset : Channel :=
  { waiting := [], asking := none, releasing := none, closing := false, grants := [], due := [], nextTag := 0 }

/-- Islands AO and CC run; no temperature has been read (R356, Table 16.8). -/
def Cpc.reset : Cpc :=
  { running := 0x0A0, monFail := 0, freqs := [], ch0 := .reset, ch1 := .reset, temps := [], level := 0, tbLost := false,
    tbRejects := 0 }

/-- The fuse mirror before its load (R366). -/
def Cal.reset : Cal :=
  { loaded := false, fuseBad := false, osc := [], oscEff := [], sensor := [], xtal := 0, bin := 0, energy := [], crit := 0,
    weights := [], stepping := 0, caps := 0, coreMap := [], sparSpares := [], oscHeld := [] }

/-- Eaves log: disabled and empty (Table 14.6). -/
def Evr.reset : Evr :=
  { enabled := false, frozen := false, full := false, memFail := false, emergFail := false, wrPtr := 0, opTime := 0,
    cycles := 0, staging := [], stagedBytes := 0, stagingLost := 0, pendRepeat := 0, last := none,
    lastWrite := none, rates := [], sweepAt := 0, emerg := [], fwWords := [] }

/-- Error unit: locked, nothing active (Table 15.6). -/
def Err.reset : Err :=
  { ringTail := 0, phase := true, ringFull := false, active := none, suspended := none, pending := [], sequence := 0,
    unlocked := false, challenge := none, fatal := false, slots := [] }

/-- Both resets asserted, PHASE 0 RESET (R382, R393). -/
def Glb.reset : Glb :=
  { phase := 0, bistDone := false, bistFail := false, fail := 0, repaired := 0, bistBusy := false, aoReset := true,
    mainReset := true, rstReq := false, opened := false, host := none }

/-- The engine with both resets asserted. -/
def Engine.reset : Engine :=
  { now := 0, taken := 0, regs := [], cnt := [], latched := [], highs := [], mem := [], rafter := [], gens := [],
    slots := .full 262144, stop := [], ready0 := [], ready1 := [], ready2 := [], splice0 := [], splice1 := [],
    splice2 := [], actAt := 0, acted := [], stepNo := 0, stateCnt := [], boundaryOpen := false, hru := .reset, adm := .reset, ylm := .reset,
    pgm := .reset, var := .reset, smp := .reset, spg := .reset, mdv := .reset, flt := .reset, tsk := .reset,
    bpl := { queues := [], free := 65536, views := [] }, evr := .reset, err := .reset, cpc := .reset, cal := .reset,
    glb := .reset, out := [] }

/-- The timebase copy from power-on (R364, Table 16.8: 0). -/
def Timebase.reset : Timebase := { count := 0, frac := 0, slew := 0, hold := 0 }

/-- The machine right after reset (R379): nothing pending, no command seen. -/
def State.reset : State := { pending := [], crossing := [], tb := .reset, eng := .reset }

end Sys2Proof.Machine
end

