-- ==== Sys2Proof/Machine/Fields.lean ====
section
/-!
DEFINITION. Machine/Fields.lean: the writable fields of the register tables, one constant each with the offset,
the place, the reset value and the legal range its table gives, and the offsets of the 32-bit counters.
-/

namespace Sys2Proof.Machine

/-- A writable register field (RW or UT, R11). `lo` to `hi` is the range its table states, all values where none. -/
structure Field where
  off    : Nat
  lsb    : Nat
  width  : Nat
  reset  : Nat
  signed : Bool
  lo     : Int
  hi     : Int
  deriving DecidableEq, Repr

namespace Fld

/-- HRU_CTL.ENABLE (R60). -/
def hruCtlEnable : Field := { off := 0x010000, lsb := 0, width := 1, reset := 0, signed := false, lo := 0, hi := 1 }

/-- HRU_CTL.CANON57 (R60). -/
def hruCtlCanon57 : Field := { off := 0x010000, lsb := 1, width := 1, reset := 0, signed := false, lo := 0, hi := 1 }

/-- HRU_RCT_BASE_LO.ADDR (R60). -/
def hruRctBaseLoAddr : Field := { off := 0x010008, lsb := 12, width := 20, reset := 0, signed := false, lo := 0, hi := 1048575 }

/-- HRU_RCT_BASE_HI.ADDR (R60). -/
def hruRctBaseHiAddr : Field := { off := 0x01000c, lsb := 0, width := 32, reset := 0, signed := false, lo := 0, hi := 4294967295 }

/-- HRU_RCT_SIZE.NS (R60). -/
def hruRctSizeNs : Field := { off := 0x010010, lsb := 0, width := 13, reset := 0, signed := false, lo := 1, hi := 4096 }

/-- HRU_RCT_SIZE.NE (R60). -/
def hruRctSizeNe : Field := { off := 0x010010, lsb := 16, width := 13, reset := 0, signed := false, lo := 1, hi := 4096 }

/-- HRU_MGMT_CREDITS.N (R60). -/
def hruMgmtCreditsN : Field := { off := 0x010020, lsb := 0, width := 14, reset := 256, signed := false, lo := 8, hi := 4096 }

/-- HRU_RING_CREDIT_MAX.N (R60). -/
def hruRingCreditMaxN : Field := { off := 0x010024, lsb := 0, width := 14, reset := 1024, signed := false, lo := 16, hi := 8192 }

/-- HRU_RD_TO.US (R60). -/
def hruRdToUs : Field := { off := 0x010028, lsb := 0, width := 16, reset := 200, signed := false, lo := 1, hi := 65535 }

/-- HRU_WR_TO.US (R60). -/
def hruWrToUs : Field := { off := 0x01002c, lsb := 0, width := 16, reset := 1000, signed := false, lo := 1, hi := 65535 }

/-- HRU_EVT_STALL_TO.MS (R60). -/
def hruEvtStallToMs : Field := { off := 0x010030, lsb := 0, width := 16, reset := 1000, signed := false, lo := 1, hi := 65535 }

/-- SB_CTL.DEADLINE_EN (R83). -/
def sbCtlDeadlineEn : Field := { off := 0x028000, lsb := 0, width := 1, reset := 1, signed := false, lo := 0, hi := 1 }

/-- SB_RESTORE_TO.MS (R83). -/
def sbRestoreToMs : Field := { off := 0x028008, lsb := 0, width := 16, reset := 2000, signed := false, lo := 1, hi := 65535 }

/-- ADM_CTL.OPEN (R109). -/
def admCtlOpen : Field := { off := 0x020000, lsb := 0, width := 1, reset := 0, signed := false, lo := 0, hi := 1 }

/-- ADM_HOLD_TO.MS (R109). -/
def admHoldToMs : Field := { off := 0x020008, lsb := 0, width := 16, reset := 500, signed := false, lo := 1, hi := 65535 }

/-- ADM_SLACK.INTERACTIVE (R109). -/
def admSlackInteractive : Field := { off := 0x02000c, lsb := 0, width := 3, reset := 2, signed := false, lo := 0, hi := 4 }

/-- ADM_SLACK.STANDARD (R109). -/
def admSlackStandard : Field := { off := 0x02000c, lsb := 4, width := 3, reset := 1, signed := false, lo := 0, hi := 4 }

/-- ADM_PEN_RESERVE.N (R109). -/
def admPenReserveN : Field := { off := 0x020010, lsb := 0, width := 18, reset := 4096, signed := false, lo := 0, hi := 131072 }

/-- ADM_GAIN.G (R109). -/
def admGainG : Field := { off := 0x020014, lsb := 0, width := 4, reset := 4, signed := false, lo := 0, hi := 8 }

/-- YLM_CTL.MODE (R139). -/
def ylmCtlMode : Field := { off := 0x030000, lsb := 0, width := 2, reset := 1, signed := false, lo := 0, hi := 3 }

/-- YLM_CTL.SPEC_EN (R139). -/
def ylmCtlSpecEn : Field := { off := 0x030000, lsb := 2, width := 1, reset := 1, signed := false, lo := 0, hi := 1 }

/-- YLM_WIN_BASE_LO.ADDR (R139). -/
def ylmWinBaseLoAddr : Field := { off := 0x030008, lsb := 21, width := 11, reset := 0, signed := false, lo := 0, hi := 2047 }

/-- YLM_WIN_BASE_HI.ADDR (R139). -/
def ylmWinBaseHiAddr : Field := { off := 0x03000c, lsb := 0, width := 32, reset := 0, signed := false, lo := 0, hi := 4294967295 }

/-- YLM_WIN_SIZE.MIB (R139). -/
def ylmWinSizeMib : Field := { off := 0x030010, lsb := 0, width := 16, reset := 0, signed := false, lo := 0, hi := 16384 }

/-- YLM_STALL_LIMIT.US (R139). -/
def ylmStallLimitUs : Field := { off := 0x030014, lsb := 0, width := 16, reset := 2000, signed := false, lo := 1, hi := 65535 }

/-- YLM_ADD_WAIT.US (R139). -/
def ylmAddWaitUs : Field := { off := 0x030018, lsb := 0, width := 10, reset := 20, signed := false, lo := 0, hi := 1023 }

/-- YLM_STEP_CAP.US (R139). -/
def ylmStepCapUs : Field := { off := 0x03001c, lsb := 0, width := 32, reset := 40000, signed := false, lo := 1000, hi := 1000000 }

/-- YLM_THIN_BW.GBPS (R139). -/
def ylmThinBwGbps : Field := { off := 0x030020, lsb := 0, width := 16, reset := 1000, signed := false, lo := 1, hi := 4000 }

/-- YLM_BULK_AGE.STEPS (R139). -/
def ylmBulkAgeSteps : Field := { off := 0x030024, lsb := 0, width := 8, reset := 8, signed := false, lo := 1, hi := 255 }

/-- YLM_RECOVER_STEPS.N (R139). -/
def ylmRecoverStepsN : Field := { off := 0x030028, lsb := 0, width := 12, reset := 256, signed := false, lo := 1, hi := 4095 }

/-- YLM_MF_TO.US (R139). -/
def ylmMfToUs : Field := { off := 0x03002c, lsb := 0, width := 10, reset := 100, signed := false, lo := 1, hi := 1023 }

/-- YLM_FIT_SEL.FAMILY (R139). -/
def ylmFitSelFamily : Field := { off := 0x030030, lsb := 0, width := 8, reset := 0, signed := false, lo := 0, hi := 255 }

/-- PGM_CTL.MATCH_EN (R167). -/
def pgmCtlMatchEn : Field := { off := 0x040000, lsb := 0, width := 1, reset := 1, signed := false, lo := 0, hi := 1 }

/-- PGM_CTL.REGISTER_EN (R167). -/
def pgmCtlRegisterEn : Field := { off := 0x040000, lsb := 1, width := 1, reset := 1, signed := false, lo := 0, hi := 1 }

/-- PGM_CTL.CACHE_EN (R167). -/
def pgmCtlCacheEn : Field := { off := 0x040000, lsb := 2, width := 1, reset := 1, signed := false, lo := 0, hi := 1 }

/-- PGM_POOL_SEL.TIER (R167). -/
def pgmPoolSelTier : Field := { off := 0x040008, lsb := 0, width := 1, reset := 0, signed := false, lo := 0, hi := 1 }

/-- PGM_POOL_SEL.CLASS (R167). -/
def pgmPoolSelClass : Field := { off := 0x040008, lsb := 1, width := 3, reset := 0, signed := false, lo := 0, hi := 7 }

/-- PGM_T0_WM.LOW (R167). -/
def pgmT0WmLow : Field := { off := 0x040020, lsb := 0, width := 10, reset := 64, signed := false, lo := 0, hi := 1023 }

/-- PGM_T0_WM.HIGH (R167). -/
def pgmT0WmHigh : Field := { off := 0x040020, lsb := 16, width := 10, reset := 128, signed := false, lo := 0, hi := 1023 }

/-- PGM_T1_WM.LOW (R167). -/
def pgmT1WmLow : Field := { off := 0x040024, lsb := 0, width := 10, reset := 32, signed := false, lo := 0, hi := 1023 }

/-- PGM_T1_WM.HIGH (R167). -/
def pgmT1WmHigh : Field := { off := 0x040024, lsb := 16, width := 10, reset := 64, signed := false, lo := 0, hi := 1023 }

/-- PGM_T2_SEL.EXTENT (R167). -/
def pgmT2SelExtent : Field := { off := 0x040028, lsb := 0, width := 6, reset := 0, signed := false, lo := 0, hi := 63 }

/-- PGM_SPILL_DELAY.S (R167). -/
def pgmSpillDelayS : Field := { off := 0x04003c, lsb := 0, width := 20, reset := 60, signed := false, lo := 0, hi := 604800 }

/-- PGM_CACHE_TTL.S (R167). -/
def pgmCacheTtlS : Field := { off := 0x040040, lsb := 0, width := 20, reset := 86400, signed := false, lo := 0, hi := 604800 }

/-- PGM_MOVE_TO.US (R167). -/
def pgmMoveToUs : Field := { off := 0x040044, lsb := 0, width := 16, reset := 500, signed := false, lo := 1, hi := 65535 }

/-- PGM_MOVE_BURST.N (R167). -/
def pgmMoveBurstN : Field := { off := 0x040048, lsb := 0, width := 10, reset := 64, signed := false, lo := 1, hi := 1023 }

/-- VAR_CTL.T0_EN (R188). -/
def varCtlT0En : Field := { off := 0x050000, lsb := 0, width := 1, reset := 1, signed := false, lo := 0, hi := 1 }

/-- VAR_WT_BASE_LO.ADDR (R188). -/
def varWtBaseLoAddr : Field := { off := 0x050008, lsb := 21, width := 11, reset := 0, signed := false, lo := 0, hi := 2047 }

/-- VAR_WT_BASE_HI.ADDR (R188). -/
def varWtBaseHiAddr : Field := { off := 0x05000c, lsb := 0, width := 32, reset := 0, signed := false, lo := 0, hi := 4294967295 }

/-- VAR_WT_SIZE.MIB (R188). -/
def varWtSizeMib : Field := { off := 0x050010, lsb := 0, width := 20, reset := 0, signed := false, lo := 0, hi := 411986 }

/-- VAR_ADD0_BASE_LO.ADDR (R188). -/
def varAdd0BaseLoAddr : Field := { off := 0x050018, lsb := 16, width := 16, reset := 0, signed := false, lo := 0, hi := 65535 }

/-- VAR_ADD0_BASE_HI.ADDR (R188). -/
def varAdd0BaseHiAddr : Field := { off := 0x05001c, lsb := 0, width := 32, reset := 0, signed := false, lo := 0, hi := 4294967295 }

/-- VAR_ADD0_SIZE.MIB (R188). -/
def varAdd0SizeMib : Field := { off := 0x050020, lsb := 0, width := 16, reset := 0, signed := false, lo := 0, hi := 16384 }

/-- VAR_ADD1_BASE_LO.ADDR (R188). -/
def varAdd1BaseLoAddr : Field := { off := 0x050028, lsb := 16, width := 16, reset := 0, signed := false, lo := 0, hi := 65535 }

/-- VAR_ADD1_BASE_HI.ADDR (R188). -/
def varAdd1BaseHiAddr : Field := { off := 0x05002c, lsb := 0, width := 32, reset := 0, signed := false, lo := 0, hi := 4294967295 }

/-- VAR_ADD1_SIZE.MIB (R188). -/
def varAdd1SizeMib : Field := { off := 0x050030, lsb := 0, width := 20, reset := 0, signed := false, lo := 0, hi := 411987 }

/-- VAR_HOT.N (R188). -/
def varHotN : Field := { off := 0x050034, lsb := 0, width := 5, reset := 8, signed := false, lo := 1, hi := 16 }

/-- VAR_LOAD_TO.MS (R188). -/
def varLoadToMs : Field := { off := 0x050038, lsb := 0, width := 16, reset := 5000, signed := false, lo := 1, hi := 65535 }

/-- VAR_PREFIX_HOLD.S (R188). -/
def varPrefixHoldS : Field := { off := 0x05003c, lsb := 0, width := 20, reset := 60, signed := false, lo := 0, hi := 604800 }

/-- SMP_CTL.STRICT_NAN (R220). -/
def smpCtlStrictNan : Field := { off := 0x060000, lsb := 0, width := 1, reset := 0, signed := false, lo := 0, hi := 1 }

/-- SMP_CTL.HEAD_TEST (R220). -/
def smpCtlHeadTest : Field := { off := 0x060000, lsb := 1, width := 1, reset := 0, signed := false, lo := 0, hi := 1 }

/-- SMP_CTL.GUESS_EN (R220). -/
def smpCtlGuessEn : Field := { off := 0x060000, lsb := 2, width := 1, reset := 1, signed := false, lo := 0, hi := 1 }

/-- SMP_GROUP_SEL.GROUP (R220). -/
def smpGroupSelGroup : Field := { off := 0x06000c, lsb := 0, width := 6, reset := 0, signed := false, lo := 0, hi := 63 }

/-- SMP_GUT_TO.US (R220). -/
def smpGutToUs : Field := { off := 0x060014, lsb := 0, width := 16, reset := 500, signed := false, lo := 1, hi := 65535 }

/-- SMP_SPG_TO.US (R220). -/
def smpSpgToUs : Field := { off := 0x060018, lsb := 0, width := 10, reset := 10, signed := false, lo := 1, hi := 1023 }

/-- SPG_CTL.TILE_EN (R233). -/
def spgCtlTileEn : Field := { off := 0x070000, lsb := 0, width := 1, reset := 1, signed := false, lo := 0, hi := 1 }

/-- SPG_CTL.SHADOW_EN (R233). -/
def spgCtlShadowEn : Field := { off := 0x070000, lsb := 1, width := 1, reset := 1, signed := false, lo := 0, hi := 1 }

/-- SPG_EPOCH.VALUE (R233). -/
def spgEpochValue : Field := { off := 0x070008, lsb := 0, width := 32, reset := 0, signed := false, lo := 0, hi := 4294967295 }

/-- SPG_CORE_SEL.CORE (R233). -/
def spgCoreSelCore : Field := { off := 0x070014, lsb := 0, width := 9, reset := 0, signed := false, lo := 0, hi := 271 }

/-- SPG_KAT_KEY0.K0 (R233). -/
def spgKatKey0K0 : Field := { off := 0x070020, lsb := 0, width := 32, reset := 0, signed := false, lo := 0, hi := 4294967295 }

/-- SPG_KAT_KEY1.K1 (R233). -/
def spgKatKey1K1 : Field := { off := 0x070024, lsb := 0, width := 32, reset := 0, signed := false, lo := 0, hi := 4294967295 }

/-- SPG_KAT_CTR0.C (R233). -/
def spgKatCtr0C : Field := { off := 0x070028, lsb := 0, width := 32, reset := 0, signed := false, lo := 0, hi := 4294967295 }

/-- SPG_KAT_CTR1.C (R233). -/
def spgKatCtr1C : Field := { off := 0x07002c, lsb := 0, width := 32, reset := 0, signed := false, lo := 0, hi := 4294967295 }

/-- SPG_KAT_CTR2.C (R233). -/
def spgKatCtr2C : Field := { off := 0x070030, lsb := 0, width := 32, reset := 0, signed := false, lo := 0, hi := 4294967295 }

/-- SPG_KAT_CTR3.C (R233). -/
def spgKatCtr3C : Field := { off := 0x070034, lsb := 0, width := 32, reset := 0, signed := false, lo := 0, hi := 4294967295 }

/-- MDV_CTL.HB_EN (R258). -/
def mdvCtlHbEn : Field := { off := 0x080000, lsb := 0, width := 1, reset := 1, signed := false, lo := 0, hi := 1 }

/-- MDV_MAP_BASE_LO.ADDR (R258). -/
def mdvMapBaseLoAddr : Field := { off := 0x080010, lsb := 6, width := 26, reset := 0, signed := false, lo := 0, hi := 67108863 }

/-- MDV_MAP_BASE_HI.ADDR (R258). -/
def mdvMapBaseHiAddr : Field := { off := 0x080014, lsb := 0, width := 32, reset := 0, signed := false, lo := 0, hi := 4294967295 }

/-- MDV_DIST_BUDGET.US (R258). -/
def mdvDistBudgetUs : Field := { off := 0x080020, lsb := 0, width := 14, reset := 600, signed := false, lo := 10, hi := 10000 }

/-- MDV_ACK_TO.US (R258). -/
def mdvAckToUs : Field := { off := 0x080024, lsb := 0, width := 16, reset := 2000, signed := false, lo := 10, hi := 65535 }

/-- MDV_PART_TO.US (R258). -/
def mdvPartToUs : Field := { off := 0x080028, lsb := 0, width := 16, reset := 500, signed := false, lo := 10, hi := 65535 }

/-- MDV_CS_TO.US (R258). -/
def mdvCsToUs : Field := { off := 0x08002c, lsb := 0, width := 16, reset := 200, signed := false, lo := 10, hi := 65535 }

/-- MDV_LAPSE.STEPS (R258). -/
def mdvLapseSteps : Field := { off := 0x080030, lsb := 0, width := 2, reset := 3, signed := false, lo := 1, hi := 3 }

/-- MDV_LAPSE.MS (R258). -/
def mdvLapseMs : Field := { off := 0x080030, lsb := 16, width := 6, reset := 50, signed := false, lo := 1, hi := 50 }

/-- MDV_PROBE_TO.US (R258). -/
def mdvProbeToUs : Field := { off := 0x080034, lsb := 0, width := 16, reset := 1000, signed := false, lo := 10, hi := 65535 }

/-- MDV_JOIN_TO.MS (R258). -/
def mdvJoinToMs : Field := { off := 0x080038, lsb := 0, width := 16, reset := 1000, signed := false, lo := 1, hi := 65535 }

/-- MDV_FLASH_CREDITS.N (R258). -/
def mdvFlashCreditsN : Field := { off := 0x08003c, lsb := 0, width := 6, reset := 32, signed := false, lo := 4, hi := 32 }

/-- FLT_CTL.MIRROR_EN (R285). -/
def fltCtlMirrorEn : Field := { off := 0x090000, lsb := 0, width := 1, reset := 1, signed := false, lo := 0, hi := 1 }

/-- FLT_CTL.KV_MIRROR (R285). -/
def fltCtlKvMirror : Field := { off := 0x090000, lsb := 1, width := 1, reset := 1, signed := false, lo := 0, hi := 1 }

/-- FLT_CTL.ACK_GATE (R285). -/
def fltCtlAckGate : Field := { off := 0x090000, lsb := 2, width := 1, reset := 1, signed := false, lo := 0, hi := 1 }

/-- FLT_JRNL_DEPTH.N (R285). -/
def fltJrnlDepthN : Field := { off := 0x090008, lsb := 0, width := 7, reset := 32, signed := false, lo := 8, hi := 64 }

/-- FLT_REPLAY_MAX.N (R285). -/
def fltReplayMaxN : Field := { off := 0x090020, lsb := 0, width := 3, reset := 2, signed := false, lo := 1, hi := 7 }

/-- FLT_TAKE_TO.US (R285). -/
def fltTakeToUs : Field := { off := 0x090024, lsb := 0, width := 15, reset := 4000, signed := false, lo := 100, hi := 20000 }

/-- FLT_LOAD_TO.MS (R285). -/
def fltLoadToMs : Field := { off := 0x090028, lsb := 0, width := 16, reset := 10000, signed := false, lo := 1, hi := 65535 }

/-- FLT_SHADOW_STEPS.N (R285). -/
def fltShadowStepsN : Field := { off := 0x090034, lsb := 0, width := 12, reset := 256, signed := false, lo := 256, hi := 4095 }

/-- FLT_HEALTH_SEL.KIND (R285). -/
def fltHealthSelKind : Field := { off := 0x090038, lsb := 0, width := 3, reset := 0, signed := false, lo := 0, hi := 7 }

/-- FLT_HEALTH_SEL.INDEX (R285). -/
def fltHealthSelIndex : Field := { off := 0x090038, lsb := 4, width := 9, reset := 0, signed := false, lo := 0, hi := 511 }

/-- FLT_W_ECC.TRIM (R285). -/
def fltWEccTrim : Field := { off := 0x090040, lsb := 8, width := 8, reset := 0, signed := true, lo := -128, hi := 127 }

/-- FLT_W_RETRY.TRIM (R285). -/
def fltWRetryTrim : Field := { off := 0x090044, lsb := 8, width := 8, reset := 0, signed := true, lo := -128, hi := 127 }

/-- FLT_W_RETRAIN.TRIM (R285). -/
def fltWRetrainTrim : Field := { off := 0x090048, lsb := 8, width := 8, reset := 0, signed := true, lo := -128, hi := 127 }

/-- FLT_W_SWAP.TRIM (R285). -/
def fltWSwapTrim : Field := { off := 0x09004c, lsb := 8, width := 8, reset := 0, signed := true, lo := -128, hi := 127 }

/-- FLT_THRESH_LO.WATCH (R285). -/
def fltThreshLoWatch : Field := { off := 0x090050, lsb := 0, width := 16, reset := 512, signed := false, lo := 0, hi := 65535 }

/-- FLT_THRESH_LO.DEGRADE (R285). -/
def fltThreshLoDegrade : Field := { off := 0x090050, lsb := 16, width := 16, reset := 2048, signed := false, lo := 0, hi := 65535 }

/-- FLT_THRESH_HI.EXPEL (R285). -/
def fltThreshHiExpel : Field := { off := 0x090054, lsb := 0, width := 16, reset := 8192, signed := false, lo := 0, hi := 65535 }

/-- FLT_THRESH_HI.HYST (R285). -/
def fltThreshHiHyst : Field := { off := 0x090054, lsb := 16, width := 12, reset := 256, signed := false, lo := 0, hi := 4095 }

/-- FLT_DECAY.SHIFT (R285). -/
def fltDecayShift : Field := { off := 0x090058, lsb := 0, width := 4, reset := 6, signed := false, lo := 1, hi := 12 }

/-- FLT_GOV.PER_HOUR (R285). -/
def fltGovPerHour : Field := { off := 0x09005c, lsb := 0, width := 8, reset := 2, signed := false, lo := 0, hi := 255 }

/-- FLT_GOV.FLOOR (R285). -/
def fltGovFloor : Field := { off := 0x09005c, lsb := 8, width := 8, reset := 1, signed := false, lo := 0, hi := 255 }

/-- TSK_CTL.ENABLE (R301). -/
def tskCtlEnable : Field := { off := 0x008000, lsb := 0, width := 1, reset := 0, signed := false, lo := 0, hi := 1 }

/-- TSK_CTL.MIGRATE_EN (R301). -/
def tskCtlMigrateEn : Field := { off := 0x008000, lsb := 1, width := 1, reset := 1, signed := false, lo := 0, hi := 1 }

/-- TSK_CORE_SEL.CORE (R301). -/
def tskCoreSelCore : Field := { off := 0x00800c, lsb := 0, width := 5, reset := 0, signed := false, lo := 0, hi := 17 }

/-- TSK_MIGRATE.US (R301). -/
def tskMigrateUs : Field := { off := 0x008014, lsb := 0, width := 16, reset := 20, signed := false, lo := 1, hi := 65535 }

/-- TSK_CORE_WD.US (R301). -/
def tskCoreWdUs : Field := { off := 0x008018, lsb := 0, width := 16, reset := 1000, signed := false, lo := 10, hi := 65535 }

/-- TSK_PREEMPT_TO.US (R301). -/
def tskPreemptToUs : Field := { off := 0x00801c, lsb := 0, width := 10, reset := 2, signed := false, lo := 1, hi := 1023 }

/-- TSK_READY_SEL.PRIO (R301). -/
def tskReadySelPrio : Field := { off := 0x008020, lsb := 0, width := 5, reset := 0, signed := false, lo := 0, hi := 31 }

/-- TSK_HIST_SEL.BAND (R301). -/
def tskHistSelBand : Field := { off := 0x008028, lsb := 0, width := 2, reset := 0, signed := false, lo := 0, hi := 3 }

/-- BPL_CTL.ENABLE (R319). -/
def bplCtlEnable : Field := { off := 0x00a000, lsb := 0, width := 1, reset := 0, signed := false, lo := 0, hi := 1 }

/-- BPL_Q_SEL.QUEUE (R319). -/
def bplQSelQueue : Field := { off := 0x00a00c, lsb := 0, width := 10, reset := 0, signed := false, lo := 0, hi := 1023 }

/-- BPL_STALL_TO.US (R319). -/
def bplStallToUs : Field := { off := 0x00a028, lsb := 0, width := 16, reset := 100, signed := false, lo := 1, hi := 65535 }

/-- EVR_CTL.ENABLE (R334). -/
def evrCtlEnable : Field := { off := 0x006000, lsb := 0, width := 1, reset := 0, signed := false, lo := 0, hi := 1 }

/-- EVR_CTL.FLOOD (R334). -/
def evrCtlFlood : Field := { off := 0x006000, lsb := 1, width := 2, reset := 1, signed := false, lo := 0, hi := 3 }

/-- EVR_CTL.FREEZE (R334). -/
def evrCtlFreeze : Field := { off := 0x006000, lsb := 3, width := 1, reset := 0, signed := false, lo := 0, hi := 1 }

/-- EVR_OPTIME.UNITS (R334). -/
def evrOptimeUnits : Field := { off := 0x006010, lsb := 0, width := 32, reset := 0, signed := false, lo := 0, hi := 4294967295 }

/-- EVR_PWRCYC.N (R334). -/
def evrPwrcycN : Field := { off := 0x006014, lsb := 0, width := 24, reset := 0, signed := false, lo := 0, hi := 16777215 }

/-- EVR_RATE.N (R334). -/
def evrRateN : Field := { off := 0x006018, lsb := 0, width := 8, reset := 16, signed := false, lo := 1, hi := 255 }

/-- EVR_RATE.MS (R334). -/
def evrRateMs : Field := { off := 0x006018, lsb := 16, width := 16, reset := 1000, signed := false, lo := 1, hi := 65535 }

/-- EVR_FREEZE_TO.MS (R334). -/
def evrFreezeToMs : Field := { off := 0x00601c, lsb := 0, width := 16, reset := 1000, signed := false, lo := 1, hi := 65535 }

/-- EVR_WR_TO.US (R334). -/
def evrWrToUs : Field := { off := 0x006020, lsb := 0, width := 10, reset := 50, signed := false, lo := 1, hi := 1023 }

/-- EVR_EMERG_SEL.INDEX (R334). -/
def evrEmergSelIndex : Field := { off := 0x006024, lsb := 0, width := 6, reset := 0, signed := false, lo := 0, hi := 63 }

/-- ERR_CTL.RING_EN (R355). -/
def errCtlRingEn : Field := { off := 0x004000, lsb := 0, width := 1, reset := 0, signed := false, lo := 0, hi := 1 }

/-- ERR_CTL.CORR_HANDLE (R355). -/
def errCtlCorrHandle : Field := { off := 0x004000, lsb := 1, width := 1, reset := 0, signed := false, lo := 0, hi := 1 }

/-- ERR_CTL.INJ_HEALTH (R355). -/
def errCtlInjHealth : Field := { off := 0x004000, lsb := 2, width := 1, reset := 0, signed := false, lo := 0, hi := 1 }

/-- ERR_RING_BASE_LO.ADDR (R355). -/
def errRingBaseLoAddr : Field := { off := 0x004008, lsb := 12, width := 20, reset := 0, signed := false, lo := 0, hi := 1048575 }

/-- ERR_RING_BASE_HI.ADDR (R355). -/
def errRingBaseHiAddr : Field := { off := 0x00400c, lsb := 0, width := 32, reset := 0, signed := false, lo := 0, hi := 4294967295 }

/-- ERR_RING_SIZE.LOG2 (R355). -/
def errRingSizeLog2 : Field := { off := 0x004010, lsb := 0, width := 5, reset := 6, signed := false, lo := 6, hi := 16 }

/-- ERR_RING_HEAD.INDEX (R355). -/
def errRingHeadIndex : Field := { off := 0x004014, lsb := 0, width := 16, reset := 0, signed := false, lo := 0, hi := 65535 }

/-- ERR_VEC.CORR (R355). -/
def errVecCorr : Field := { off := 0x00401c, lsb := 0, width := 6, reset := 60, signed := false, lo := 0, hi := 63 }

/-- ERR_VEC.CORR_EN (R355). -/
def errVecCorrEn : Field := { off := 0x00401c, lsb := 7, width := 1, reset := 0, signed := false, lo := 0, hi := 1 }

/-- ERR_VEC.REQ (R355). -/
def errVecReq : Field := { off := 0x00401c, lsb := 8, width := 6, reset := 61, signed := false, lo := 0, hi := 63 }

/-- ERR_VEC.REQ_EN (R355). -/
def errVecReqEn : Field := { off := 0x00401c, lsb := 15, width := 1, reset := 1, signed := false, lo := 0, hi := 1 }

/-- ERR_VEC.STEP (R355). -/
def errVecStep : Field := { off := 0x00401c, lsb := 16, width := 6, reset := 62, signed := false, lo := 0, hi := 63 }

/-- ERR_VEC.STEP_EN (R355). -/
def errVecStepEn : Field := { off := 0x00401c, lsb := 23, width := 1, reset := 1, signed := false, lo := 0, hi := 1 }

/-- ERR_VEC.FATAL (R355). -/
def errVecFatal : Field := { off := 0x00401c, lsb := 24, width := 6, reset := 63, signed := false, lo := 0, hi := 63 }

/-- ERR_VEC.FATAL_EN (R355). -/
def errVecFatalEn : Field := { off := 0x00401c, lsb := 31, width := 1, reset := 1, signed := false, lo := 0, hi := 1 }

/-- ERR_NOTIFY.TASK (R355). -/
def errNotifyTask : Field := { off := 0x004020, lsb := 0, width := 12, reset := 0, signed := false, lo := 0, hi := 4095 }

/-- ERR_NOTIFY.FLAG (R355). -/
def errNotifyFlag : Field := { off := 0x004020, lsb := 16, width := 5, reset := 0, signed := false, lo := 0, hi := 31 }

/-- ERR_NOTIFY.EN (R355). -/
def errNotifyEn : Field := { off := 0x004020, lsb := 31, width := 1, reset := 0, signed := false, lo := 0, hi := 1 }

/-- ERR_HANDLE_TO.US (R355). -/
def errHandleToUs : Field := { off := 0x004024, lsb := 0, width := 20, reset := 10000, signed := false, lo := 10, hi := 1000000 }

/-- ERR_CTX_SEL.ENTRY (R355). -/
def errCtxSelEntry : Field := { off := 0x004028, lsb := 0, width := 5, reset := 0, signed := false, lo := 0, hi := 17 }

/-- ERR_RAISE_HANDLE.HANDLE (R355). -/
def errRaiseHandleHandle : Field := { off := 0x004030, lsb := 0, width := 32, reset := 4294967295, signed := false, lo := 0, hi := 4294967295 }

/-- ERR_INJ_SEL.SLOT (R355). -/
def errInjSelSlot : Field := { off := 0x004068, lsb := 0, width := 3, reset := 0, signed := false, lo := 0, hi := 7 }

/-- CAL_OSC0.TRIM (R369). -/
def calOsc0Trim : Field := { off := 0x001010, lsb := 12, width := 6, reset := 0, signed := true, lo := -32, hi := 31 }

/-- CAL_OSC1.TRIM (R369). -/
def calOsc1Trim : Field := { off := 0x001014, lsb := 12, width := 6, reset := 0, signed := true, lo := -32, hi := 31 }

/-- CAL_OSC2.TRIM (R369). -/
def calOsc2Trim : Field := { off := 0x001018, lsb := 12, width := 6, reset := 0, signed := true, lo := -32, hi := 31 }

/-- CAL_OSC3.TRIM (R369). -/
def calOsc3Trim : Field := { off := 0x00101c, lsb := 12, width := 6, reset := 0, signed := true, lo := -32, hi := 31 }

/-- CAL_OSC4.TRIM (R369). -/
def calOsc4Trim : Field := { off := 0x001020, lsb := 12, width := 6, reset := 0, signed := true, lo := -32, hi := 31 }

/-- CAL_OSC5.TRIM (R369). -/
def calOsc5Trim : Field := { off := 0x001024, lsb := 12, width := 6, reset := 0, signed := true, lo := -32, hi := 31 }

/-- CAL_OSC6.TRIM (R369). -/
def calOsc6Trim : Field := { off := 0x001028, lsb := 12, width := 6, reset := 0, signed := true, lo := -32, hi := 31 }

/-- CAL_OSC7.TRIM (R369). -/
def calOsc7Trim : Field := { off := 0x00102c, lsb := 12, width := 6, reset := 0, signed := true, lo := -32, hi := 31 }

/-- CAL_OSC8.TRIM (R369). -/
def calOsc8Trim : Field := { off := 0x001030, lsb := 12, width := 6, reset := 0, signed := true, lo := -32, hi := 31 }

/-- CAL_TS0.TRIM (R369). -/
def calTs0Trim : Field := { off := 0x001040, lsb := 8, width := 8, reset := 0, signed := true, lo := -32, hi := 32 }

/-- CAL_TS1.TRIM (R369). -/
def calTs1Trim : Field := { off := 0x001044, lsb := 8, width := 8, reset := 0, signed := true, lo := -32, hi := 32 }

/-- CAL_TS2.TRIM (R369). -/
def calTs2Trim : Field := { off := 0x001048, lsb := 8, width := 8, reset := 0, signed := true, lo := -32, hi := 32 }

/-- CAL_TS3.TRIM (R369). -/
def calTs3Trim : Field := { off := 0x00104c, lsb := 8, width := 8, reset := 0, signed := true, lo := -32, hi := 32 }

/-- CAL_TS4.TRIM (R369). -/
def calTs4Trim : Field := { off := 0x001050, lsb := 8, width := 8, reset := 0, signed := true, lo := -32, hi := 32 }

/-- CAL_TS5.TRIM (R369). -/
def calTs5Trim : Field := { off := 0x001054, lsb := 8, width := 8, reset := 0, signed := true, lo := -32, hi := 32 }

/-- CAL_TS6.TRIM (R369). -/
def calTs6Trim : Field := { off := 0x001058, lsb := 8, width := 8, reset := 0, signed := true, lo := -32, hi := 32 }

/-- CAL_TS7.TRIM (R369). -/
def calTs7Trim : Field := { off := 0x00105c, lsb := 8, width := 8, reset := 0, signed := true, lo := -32, hi := 32 }

/-- CAL_XTAL_TRIM.TRIM (R369). -/
def calXtalTrimTrim : Field := { off := 0x001064, lsb := 0, width := 12, reset := 0, signed := true, lo := -2000, hi := 2000 }

/-- CAL_BIN.TRIM (R369). -/
def calBinTrim : Field := { off := 0x001070, lsb := 12, width := 8, reset := 0, signed := false, lo := 0, hi := 255 }

/-- CAL_E_TILE_TRIM.TRIM (R369). -/
def calETileTrimTrim : Field := { off := 0x001084, lsb := 0, width := 8, reset := 0, signed := true, lo := -32, hi := 127 }

/-- CAL_E_LOGIT_TRIM.TRIM (R369). -/
def calELogitTrimTrim : Field := { off := 0x00108c, lsb := 0, width := 8, reset := 0, signed := true, lo := -32, hi := 127 }

/-- CAL_E_T1_TRIM.TRIM (R369). -/
def calET1TrimTrim : Field := { off := 0x001094, lsb := 0, width := 8, reset := 0, signed := true, lo := -32, hi := 127 }

/-- CAL_E_MOVE_TRIM.TRIM (R369). -/
def calEMoveTrimTrim : Field := { off := 0x00109c, lsb := 0, width := 8, reset := 0, signed := true, lo := -32, hi := 127 }

/-- CAL_E_FAB_TRIM.TRIM (R369). -/
def calEFabTrimTrim : Field := { off := 0x0010a4, lsb := 0, width := 8, reset := 0, signed := true, lo := -32, hi := 127 }

/-- CAL_E_BIST_TRIM.TRIM (R369). -/
def calEBistTrimTrim : Field := { off := 0x0010ac, lsb := 0, width := 8, reset := 0, signed := true, lo := -32, hi := 127 }

/-- CPC_CLK_EN.ISLANDS (R370). -/
def cpcClkEnIslands : Field := { off := 0x002000, lsb := 0, width := 9, reset := 160, signed := false, lo := 0, hi := 511 }

/-- CPC_LEAVE_TO.US (R370). -/
def cpcLeaveToUs : Field := { off := 0x002008, lsb := 0, width := 12, reset := 3, signed := false, lo := 1, hi := 4095 }

/-- CPC_LEAVE_RETRY.US (R370). -/
def cpcLeaveRetryUs : Field := { off := 0x00200c, lsb := 0, width := 16, reset := 100, signed := false, lo := 1, hi := 65535 }

/-- CPC_THERM.WARN (R370). -/
def cpcThermWarn : Field := { off := 0x002010, lsb := 0, width := 11, reset := 760, signed := false, lo := 0, hi := 2047 }

/-- CPC_THERM.HOT (R370). -/
def cpcThermHot : Field := { off := 0x002010, lsb := 16, width := 11, reset := 840, signed := false, lo := 0, hi := 2047 }

/-- CPC_THERM2.HYST (R370). -/
def cpcTherm2Hyst : Field := { off := 0x002014, lsb := 16, width := 5, reset := 16, signed := false, lo := 0, hi := 31 }

/-- CPC_THERM2.DERATE (R370). -/
def cpcTherm2Derate : Field := { off := 0x002014, lsb := 24, width := 5, reset := 24, signed := false, lo := 16, hi := 31 }

/-- CPC_TEMP_SEL.SENSOR (R370). -/
def cpcTempSelSensor : Field := { off := 0x002018, lsb := 0, width := 3, reset := 0, signed := false, lo := 0, hi := 7 }

/-- CPC_TB_TO.US (R370). -/
def cpcTbToUs : Field := { off := 0x00202c, lsb := 0, width := 16, reset := 10, signed := false, lo := 2, hi := 65535 }

/-- CPC_TB_STEP_MAX.US (R370). -/
def cpcTbStepMaxUs : Field := { off := 0x002030, lsb := 0, width := 20, reset := 1000, signed := false, lo := 1, hi := 1000000 }

/-- CPC_ISL_SEL.ISLAND (R370). -/
def cpcIslSelIsland : Field := { off := 0x002034, lsb := 0, width := 4, reset := 0, signed := false, lo := 0, hi := 15 }

end Fld

/-! The writable fields, in the order of the chapters. -/

/-- Writable fields, part 0. -/
def regFields0 : List Field :=
  [Fld.hruCtlEnable, Fld.hruCtlCanon57, Fld.hruRctBaseLoAddr, Fld.hruRctBaseHiAddr, Fld.hruRctSizeNs,
   Fld.hruRctSizeNe, Fld.hruMgmtCreditsN, Fld.hruRingCreditMaxN, Fld.hruRdToUs, Fld.hruWrToUs,
   Fld.hruEvtStallToMs, Fld.sbCtlDeadlineEn, Fld.sbRestoreToMs, Fld.admCtlOpen, Fld.admHoldToMs,
   Fld.admSlackInteractive, Fld.admSlackStandard, Fld.admPenReserveN, Fld.admGainG, Fld.ylmCtlMode]

/-- Writable fields, part 1. -/
def regFields1 : List Field :=
  [Fld.ylmCtlSpecEn, Fld.ylmWinBaseLoAddr, Fld.ylmWinBaseHiAddr, Fld.ylmWinSizeMib, Fld.ylmStallLimitUs,
   Fld.ylmAddWaitUs, Fld.ylmStepCapUs, Fld.ylmThinBwGbps, Fld.ylmBulkAgeSteps, Fld.ylmRecoverStepsN,
   Fld.ylmMfToUs, Fld.ylmFitSelFamily, Fld.pgmCtlMatchEn, Fld.pgmCtlRegisterEn, Fld.pgmCtlCacheEn,
   Fld.pgmPoolSelTier, Fld.pgmPoolSelClass, Fld.pgmT0WmLow, Fld.pgmT0WmHigh, Fld.pgmT1WmLow]

/-- Writable fields, part 2. -/
def regFields2 : List Field :=
  [Fld.pgmT1WmHigh, Fld.pgmT2SelExtent, Fld.pgmSpillDelayS, Fld.pgmCacheTtlS, Fld.pgmMoveToUs,
   Fld.pgmMoveBurstN, Fld.varCtlT0En, Fld.varWtBaseLoAddr, Fld.varWtBaseHiAddr, Fld.varWtSizeMib,
   Fld.varAdd0BaseLoAddr, Fld.varAdd0BaseHiAddr, Fld.varAdd0SizeMib, Fld.varAdd1BaseLoAddr, Fld.varAdd1BaseHiAddr,
   Fld.varAdd1SizeMib, Fld.varHotN, Fld.varLoadToMs, Fld.varPrefixHoldS, Fld.smpCtlStrictNan]

/-- Writable fields, part 3. -/
def regFields3 : List Field :=
  [Fld.smpCtlHeadTest, Fld.smpCtlGuessEn, Fld.smpGroupSelGroup, Fld.smpGutToUs, Fld.smpSpgToUs,
   Fld.spgCtlTileEn, Fld.spgCtlShadowEn, Fld.spgEpochValue, Fld.spgCoreSelCore, Fld.spgKatKey0K0,
   Fld.spgKatKey1K1, Fld.spgKatCtr0C, Fld.spgKatCtr1C, Fld.spgKatCtr2C, Fld.spgKatCtr3C,
   Fld.mdvCtlHbEn, Fld.mdvMapBaseLoAddr, Fld.mdvMapBaseHiAddr, Fld.mdvDistBudgetUs, Fld.mdvAckToUs]

/-- Writable fields, part 4. -/
def regFields4 : List Field :=
  [Fld.mdvPartToUs, Fld.mdvCsToUs, Fld.mdvLapseSteps, Fld.mdvLapseMs, Fld.mdvProbeToUs,
   Fld.mdvJoinToMs, Fld.mdvFlashCreditsN, Fld.fltCtlMirrorEn, Fld.fltCtlKvMirror, Fld.fltCtlAckGate,
   Fld.fltJrnlDepthN, Fld.fltReplayMaxN, Fld.fltTakeToUs, Fld.fltLoadToMs, Fld.fltShadowStepsN,
   Fld.fltHealthSelKind, Fld.fltHealthSelIndex, Fld.fltWEccTrim, Fld.fltWRetryTrim, Fld.fltWRetrainTrim]

/-- Writable fields, part 5. -/
def regFields5 : List Field :=
  [Fld.fltWSwapTrim, Fld.fltThreshLoWatch, Fld.fltThreshLoDegrade, Fld.fltThreshHiExpel, Fld.fltThreshHiHyst,
   Fld.fltDecayShift, Fld.fltGovPerHour, Fld.fltGovFloor, Fld.tskCtlEnable, Fld.tskCtlMigrateEn,
   Fld.tskCoreSelCore, Fld.tskMigrateUs, Fld.tskCoreWdUs, Fld.tskPreemptToUs, Fld.tskReadySelPrio,
   Fld.tskHistSelBand, Fld.bplCtlEnable, Fld.bplQSelQueue, Fld.bplStallToUs, Fld.evrCtlEnable]

/-- Writable fields, part 6. -/
def regFields6 : List Field :=
  [Fld.evrCtlFlood, Fld.evrCtlFreeze, Fld.evrOptimeUnits, Fld.evrPwrcycN, Fld.evrRateN,
   Fld.evrRateMs, Fld.evrFreezeToMs, Fld.evrWrToUs, Fld.evrEmergSelIndex, Fld.errCtlRingEn,
   Fld.errCtlCorrHandle, Fld.errCtlInjHealth, Fld.errRingBaseLoAddr, Fld.errRingBaseHiAddr, Fld.errRingSizeLog2,
   Fld.errRingHeadIndex, Fld.errVecCorr, Fld.errVecCorrEn, Fld.errVecReq, Fld.errVecReqEn]

/-- Writable fields, part 7. -/
def regFields7 : List Field :=
  [Fld.errVecStep, Fld.errVecStepEn, Fld.errVecFatal, Fld.errVecFatalEn, Fld.errNotifyTask,
   Fld.errNotifyFlag, Fld.errNotifyEn, Fld.errHandleToUs, Fld.errCtxSelEntry, Fld.errRaiseHandleHandle,
   Fld.errInjSelSlot, Fld.calOsc0Trim, Fld.calOsc1Trim, Fld.calOsc2Trim, Fld.calOsc3Trim,
   Fld.calOsc4Trim, Fld.calOsc5Trim, Fld.calOsc6Trim, Fld.calOsc7Trim, Fld.calOsc8Trim]

/-- Writable fields, part 8. -/
def regFields8 : List Field :=
  [Fld.calTs0Trim, Fld.calTs1Trim, Fld.calTs2Trim, Fld.calTs3Trim, Fld.calTs4Trim,
   Fld.calTs5Trim, Fld.calTs6Trim, Fld.calTs7Trim, Fld.calXtalTrimTrim, Fld.calBinTrim,
   Fld.calETileTrimTrim, Fld.calELogitTrimTrim, Fld.calET1TrimTrim, Fld.calEMoveTrimTrim, Fld.calEFabTrimTrim,
   Fld.calEBistTrimTrim, Fld.cpcClkEnIslands, Fld.cpcLeaveToUs, Fld.cpcLeaveRetryUs, Fld.cpcThermWarn]

/-- Writable fields, part 9. -/
def regFields9 : List Field :=
  [Fld.cpcThermHot, Fld.cpcTherm2Hyst, Fld.cpcTherm2Derate, Fld.cpcTempSelSensor, Fld.cpcTbToUs,
   Fld.cpcTbStepMaxUs, Fld.cpcIslSelIsland]

/-- Every writable field held as a plain field. The copies a select register shows stand in their units. -/
def regFields : List Field :=
  regFields0 ++ regFields1 ++ regFields2 ++ regFields3 ++ regFields4 ++ regFields5 ++ regFields6 ++ regFields7 ++ regFields8 ++ regFields9

namespace Cnt

/-- HRU_CNT_DESC: Descriptors consumed (R60). -/
def hruDesc : Nat := 0x010040

/-- HRU_CNT_MALFORMED: MALFORMED completions (R60). -/
def hruMalformed : Nat := 0x010044

/-- HRU_CNT_STOP_STALE: Stale stop-vector writes (R60). -/
def hruStopStale : Nat := 0x010048

/-- HRU_CNT_DB_INVALID: Ignored doorbells (R60). -/
def hruDbInvalid : Nat := 0x01004c

/-- SB_CNT_RETIRED: Requests freed (R83). -/
def sbRetired : Nat := 0x028080

/-- SB_CNT_DL_TTFT: Retirements on TTFT_DEADLINE (R83). -/
def sbDlTtft : Nat := 0x028084

/-- SB_CNT_DL_ITL: Retirements on NEXT_DEADLINE (R83). -/
def sbDlItl : Nat := 0x028088

/-- SB_CNT_DL_TOTAL: Retirements on TOTAL_DEADLINE (R83). -/
def sbDlTotal : Nat := 0x02808c

/-- SB_CNT_PARK_EXPIRED: Retirements on PARK_EXPIRY (R83). -/
def sbParkExpired : Nat := 0x028090

/-- SB_CNT_LATE: Tokens delivered with LATE (R83). -/
def sbLate : Nat := 0x028094

/-- SB_CNT_DISCARDED: Tokens discarded under R78: after a deadline without DELIVER_LATE, a stop bit, a RELEASE or a REQUEST-class error (R83). -/
def sbDiscarded : Nat := 0x028098

/-- SB_CNT_VACATED: Vacated members (R83). -/
def sbVacated : Nat := 0x02809c

/-- SB_CNT_GEN_WRAP: Generation wraps (R83). -/
def sbGenWrap : Nat := 0x0280a0

/-- SB_CNT_COINCIDE: Host action and timer in one SB cycle (R83). -/
def sbCoincide : Nat := 0x0280a4

/-- ADM_CNT_ADMITTED: Admissions (R109). -/
def admAdmitted : Nat := 0x020040

/-- ADM_CNT_HELD: Decisions that held (R109). -/
def admHeld : Nat := 0x020044

/-- ADM_CNT_REF_QUOTA: Refusals and hold endings with QUOTA (R109). -/
def admRefQuota : Nat := 0x020048

/-- ADM_CNT_REF_NOFIT: Refusals and hold endings with NO_FIT (R109). -/
def admRefNofit : Nat := 0x02004c

/-- ADM_CNT_REF_ADD: Refusals and hold endings with ADDITION_MISSING (R109). -/
def admRefAdd : Nat := 0x020050

/-- ADM_CNT_HOLD_TO: Holds ended by ADM_HOLD_TO (R109). -/
def admHoldTo : Nat := 0x020054

/-- ADM_CNT_HOLD_DL: Holds ended by a deadline (R109). -/
def admHoldDl : Nat := 0x020058

/-- ADM_CNT_PRED_CLAMP: Corrections clamped at ±256 (R109). -/
def admPredClamp : Nat := 0x02005c

/-- ADM_CNT_OVERCOMMIT: Entries into OVERCOMMIT (R109). -/
def admOvercommit : Nat := 0x020060

/-- YLM_CNT_SEALED: Yealms sealed (R139). -/
def ylmSealed : Nat := 0x030040

/-- YLM_CNT_DEFER_PAGE: Deferrals for pages (R139). -/
def ylmDeferPage : Nat := 0x030044

/-- YLM_CNT_DEFER_ADD: Deferrals for additions (R139). -/
def ylmDeferAdd : Nat := 0x030048

/-- YLM_CNT_DEFER_RING: Deferrals for event-ring space (R139). -/
def ylmDeferRing : Nat := 0x03004c

/-- YLM_CNT_DEFER_LIMIT: Deferrals for limits or grade (R139). -/
def ylmDeferLimit : Nat := 0x030050

/-- YLM_CNT_SPEC_SHED: Speculation sheddings (R139). -/
def ylmSpecShed : Nat := 0x030054

/-- YLM_CNT_SHED_LEAVE: Members shed on refusal of leave (R139). -/
def ylmShedLeave : Nat := 0x030058

/-- YLM_CNT_COMPOSE_STALL: Compose stalls (R139). -/
def ylmComposeStall : Nat := 0x03005c

/-- YLM_CNT_BASE_STALL: Base-weight stalls (R139). -/
def ylmBaseStall : Nat := 0x030060

/-- YLM_CNT_STALL_US: Base-stall time in µs (R139). -/
def ylmStallUs : Nat := 0x030064

/-- YLM_CNT_SEG_LATE: Late segments deferred (R139). -/
def ylmSegLate : Nat := 0x030068

/-- YLM_CNT_BASE_ONLY: Members served base-only (R139). -/
def ylmBaseOnly : Nat := 0x03006c

/-- YLM_CNT_WIN_REDUCE: Window depth reductions (R139). -/
def ylmWinReduce : Nat := 0x030070

/-- PGM_CNT_MATCH: Blocks matched (R167). -/
def pgmMatch : Nat := 0x040080

/-- PGM_CNT_REGISTERED: Blocks registered (R167). -/
def pgmRegistered : Nat := 0x040084

/-- PGM_CNT_REG_SKIPPED: Blocks not staged or not registered (R167). -/
def pgmRegSkipped : Nat := 0x040088

/-- PGM_CNT_PROMOTE: Promotions completed (R167). -/
def pgmPromote : Nat := 0x04008c

/-- PGM_CNT_DEMOTE: T0 to T1 moves completed (R167). -/
def pgmDemote : Nat := 0x040090

/-- PGM_CNT_SPILL: Moves to T2 completed (R167). -/
def pgmSpill : Nat := 0x040094

/-- PGM_CNT_ABANDON: Downward moves cancelled by promotion (R167). -/
def pgmAbandon : Nat := 0x040098

/-- PGM_CNT_EVICT_SHARED: Evictions that dropped residency only (R167). -/
def pgmEvictShared : Nat := 0x04009c

/-- PGM_CNT_COW: Copy-on-write copies (R167). -/
def pgmCow : Nat := 0x0400a0

/-- PGM_CNT_RECLAIM: Cached pages reclaimed (R167). -/
def pgmReclaim : Nat := 0x0400a4

/-- PGM_CNT_CACHE_EXPIRED: Cached pages expired (R167). -/
def pgmCacheExpired : Nat := 0x0400a8

/-- PGM_CNT_TIER_FAIL: Tier failures (R167). -/
def pgmTierFail : Nat := 0x0400ac

/-- PGM_CNT_MOVE_TO: Move watchdog expiries (R167). -/
def pgmMoveTo : Nat := 0x0400b0

/-- VAR_CNT_LOAD: Loads completed, families, additions and prefixes (R188). -/
def varLoad : Nat := 0x050080

/-- VAR_CNT_LOAD_FAIL: Loads and reloads failed (R188). -/
def varLoadFail : Nat := 0x050084

/-- VAR_CNT_RELOAD: Addition reloads (R188). -/
def varReload : Nat := 0x050088

/-- VAR_CNT_EVICT: Slots freed by eviction (R188). -/
def varEvict : Nat := 0x05008c

/-- VAR_CNT_PROMOTE: Slots moved to T0 (R188). -/
def varPromote : Nat := 0x050090

/-- VAR_CNT_REBOUND: Requests rebound at effect 3 (R188). -/
def varRebound : Nat := 0x050094

/-- VAR_CNT_RETIRED: Version records emptied (R188). -/
def varRetired : Nat := 0x050098

/-- VAR_CNT_LOAD_TO: VAR_LOAD_TO expiries (R188). -/
def varLoadTo : Nat := 0x05009c

/-- SMP_CNT_DRAWS: Draws finished (R220). -/
def smpDraws : Nat := 0x060040

/-- SMP_CNT_TOKENS: Tokens emitted (R220). -/
def smpTokens : Nat := 0x060044

/-- SMP_CNT_VOID: Void draws (R220). -/
def smpVoid : Nat := 0x060048

/-- SMP_CNT_GUESS: Guess inputs other than pad (R220). -/
def smpGuess : Nat := 0x06004c

/-- SMP_CNT_ACCEPT: Guesses accepted (R220). -/
def smpAccept : Nat := 0x060050

/-- SMP_CNT_NAN: NaN logits excluded (R220). -/
def smpNan : Nat := 0x060054

/-- SMP_CNT_LSE_SAT: Draws with SAT set (R220). -/
def smpLseSat : Nat := 0x060058

/-- SMP_CNT_PEN_LOST: Counts not recorded (R220). -/
def smpPenLost : Nat := 0x06005c

/-- SMP_CNT_TILE_ERR: Tile check failures (R220). -/
def smpTileErr : Nat := 0x060060

/-- SMP_CNT_GUT_WAIT: SM cycles the gutter was held for context reuse (R220). -/
def smpGutWait : Nat := 0x060064

/-- SPG_CNT_EVAL_SMP: Legget-port evaluations, in units of 2¹⁶ (R233). -/
def spgEvalSmp : Nat := 0x070080

/-- SPG_CNT_EVAL_TILE: Tile-port evaluations, in units of 2¹⁶ (R233). -/
def spgEvalTile : Nat := 0x070084

/-- SPG_CNT_SHADOW: Shadow checks made (R233). -/
def spgShadow : Nat := 0x070088

/-- SPG_CNT_MISMATCH: Shadow mismatches (R233). -/
def spgMismatch : Nat := 0x07008c

/-- SPG_CNT_TILE_REJECT: Tile requests rejected (R233). -/
def spgTileReject : Nat := 0x070090

/-- MDV_CNT_PKT: Step packets sent or applied (R258). -/
def mdvPkt : Nat := 0x080080

/-- MDV_CNT_MSG_DISCARD: Frames discarded (R258). -/
def mdvMsgDiscard : Nat := 0x080084

/-- MDV_CNT_RENEW_MISS: Renewals missed (R258). -/
def mdvRenewMiss : Nat := 0x080088

/-- MDV_CNT_FENCE: Fences ordered or taken (R258). -/
def mdvFence : Nat := 0x08008c

/-- MDV_CNT_PROBE: Probes sent (R258). -/
def mdvProbe : Nat := 0x080090

/-- MDV_CNT_HB_DISAGREE: Heartbeat disagreements (R258). -/
def mdvHbDisagree : Nat := 0x080094

/-- MDV_CNT_LEAVE_WAIT: Steps a worker waited for leave (R258). -/
def mdvLeaveWait : Nat := 0x080098

/-- MDV_CNT_OPS_DEFER: Members deferred by the OPS cap (R258). -/
def mdvOpsDefer : Nat := 0x08009c

/-- FLT_CNT_COMMIT: Records committed (R285). -/
def fltCommit : Nat := 0x090080

/-- FLT_CNT_ABORT: Aborts sent or received (R285). -/
def fltAbort : Nat := 0x090084

/-- FLT_CNT_REPLAY: Steps replayed (R285). -/
def fltReplay : Nat := 0x090088

/-- FLT_CNT_SUPPRESSED: Records suppressed on replay (R285). -/
def fltSuppressed : Nat := 0x09008c

/-- FLT_CNT_REPLAYED_END: Requests ended REPLAYED (R285). -/
def fltReplayedEnd : Nat := 0x090090

/-- FLT_CNT_TAKEOVER: Ranks taken (R285). -/
def fltTakeover : Nat := 0x090094

/-- FLT_CNT_SPARE: Spares switched in (R285). -/
def fltSpare : Nat := 0x090098

/-- FLT_CNT_EXPEL: Score-based expulsions (R285). -/
def fltExpel : Nat := 0x09009c

/-- FLT_CNT_GOVERNED: Expulsions held by the governor (R285). -/
def fltGoverned : Nat := 0x0900a0

/-- FLT_CNT_EVT_FULL: Holds for a full event section (R285). -/
def fltEvtFull : Nat := 0x0900a4

/-- TSK_CNT_DISPATCH: Dispatches (R301). -/
def tskDispatch : Nat := 0x0080e0

/-- TSK_CNT_PREEMPT: Pre-emptions (R301). -/
def tskPreempt : Nat := 0x0080e4

/-- TSK_CNT_MIGRATE: Dispatches away from a valid home (R301). -/
def tskMigrate : Nat := 0x0080e8

/-- TSK_CNT_COINCIDE: Cancels that won over a wake or a dispatch (R301). -/
def tskCoincide : Nat := 0x0080ec

/-- TSK_CNT_CORE_FAULT: Core faults (R301). -/
def tskCoreFault : Nat := 0x0080f0

/-- TSK_CNT_RESTART: Tasks restarted and items re-delivered after a fault (R301). -/
def tskRestart : Nat := 0x0080f4

/-- TSK_CNT_FLOW_HOLD: Items skipped behind a BUSY flow (R301). -/
def tskFlowHold : Nat := 0x0080f8

/-- BPL_CNT_PUSH: Items accepted (R319). -/
def bplPush : Nat := 0x00a040

/-- BPL_CNT_POP: Items delivered (R319). -/
def bplPop : Nat := 0x00a044

/-- BPL_CNT_DROP: Items dropped (R319). -/
def bplDrop : Nat := 0x00a048

/-- BPL_CNT_NOQ: Unit writes to disabled queues (R319). -/
def bplNoq : Nat := 0x00a04c

/-- BPL_CNT_CORR: Corrected words (R319). -/
def bplCorr : Nat := 0x00a050

/-- BPL_CNT_UNCORR: Uncorrectable words (R319). -/
def bplUncorr : Nat := 0x00a054

/-- BPL_CNT_STALL_TO: Stalls ended at the limit (R319). -/
def bplStallTo : Nat := 0x00a058

/-- EVR_CNT_REC: Records written to T0 (R334). -/
def evrRec : Nat := 0x006080

/-- EVR_CNT_FOLDED: Repeats folded (R334). -/
def evrFolded : Nat := 0x006084

/-- EVR_CNT_SUPPRESSED: Records suppressed by rate (R334). -/
def evrSuppressed : Nat := 0x006088

/-- EVR_CNT_LOST: Records lost: full, staging, crossing or emergency area; cleared by CLEAR (R334). -/
def evrLost : Nat := 0x00608c

/-- EVR_CNT_FREEZE_TO: Freezes ended by the limit (R334). -/
def evrFreezeTo : Nat := 0x006090

/-- ERR_CNT_CORR: CORRECTED errors (R355). -/
def errCorr : Nat := 0x004080

/-- ERR_CNT_REQ: REQUEST errors (R355). -/
def errReq : Nat := 0x004084

/-- ERR_CNT_STEP: STEP errors (R355). -/
def errStep : Nat := 0x004088

/-- ERR_CNT_FATAL: FATAL errors (R355). -/
def errFatal : Nat := 0x00408c

/-- ERR_CNT_PEND_OVF: Errors not queued (R355). -/
def errPendOvf : Nat := 0x004090

/-- ERR_CNT_ESCALATED: Escalations (R355). -/
def errEscalated : Nat := 0x004094

/-- ERR_CNT_INJECTED: Injected errors (R355). -/
def errInjected : Nat := 0x004098

/-- ERR_CNT_RING_LOST: Records not written (R355). -/
def errRingLost : Nat := 0x00409c

/-- CPC_CNT_LEAVE_REQ: Requests issued (R370). -/
def cpcLeaveReq : Nat := 0x002040

/-- CPC_CNT_LEAVE_GRANT: Grants (R370). -/
def cpcLeaveGrant : Nat := 0x002044

/-- CPC_CNT_LEAVE_REFUSE: Refusals (R370). -/
def cpcLeaveRefuse : Nat := 0x002048

/-- CPC_CNT_LEAVE_TO: Watchdog expiries (R370). -/
def cpcLeaveTo : Nat := 0x00204c

/-- CPC_CNT_LEAVE_BAD: Inconsistent answers (R370). -/
def cpcLeaveBad : Nat := 0x002050

/-- CPC_CNT_TB_REJECT: Strobes rejected (R370). -/
def cpcTbReject : Nat := 0x002054

end Cnt

/-- Offsets of the 32-bit counters. -/
def counterOffsets : List Nat :=
  [Cnt.hruDesc, Cnt.hruMalformed, Cnt.hruStopStale, Cnt.hruDbInvalid, Cnt.sbRetired, Cnt.sbDlTtft, Cnt.sbDlItl, Cnt.sbDlTotal, Cnt.sbParkExpired, Cnt.sbLate, Cnt.sbDiscarded, Cnt.sbVacated, Cnt.sbGenWrap, Cnt.sbCoincide, Cnt.admAdmitted, Cnt.admHeld, Cnt.admRefQuota, Cnt.admRefNofit, Cnt.admRefAdd, Cnt.admHoldTo, Cnt.admHoldDl, Cnt.admPredClamp, Cnt.admOvercommit, Cnt.ylmSealed, Cnt.ylmDeferPage] ++
  [Cnt.ylmDeferAdd, Cnt.ylmDeferRing, Cnt.ylmDeferLimit, Cnt.ylmSpecShed, Cnt.ylmShedLeave, Cnt.ylmComposeStall, Cnt.ylmBaseStall, Cnt.ylmStallUs, Cnt.ylmSegLate, Cnt.ylmBaseOnly, Cnt.ylmWinReduce, Cnt.pgmMatch, Cnt.pgmRegistered, Cnt.pgmRegSkipped, Cnt.pgmPromote, Cnt.pgmDemote, Cnt.pgmSpill, Cnt.pgmAbandon, Cnt.pgmEvictShared, Cnt.pgmCow, Cnt.pgmReclaim, Cnt.pgmCacheExpired, Cnt.pgmTierFail, Cnt.pgmMoveTo, Cnt.varLoad] ++
  [Cnt.varLoadFail, Cnt.varReload, Cnt.varEvict, Cnt.varPromote, Cnt.varRebound, Cnt.varRetired, Cnt.varLoadTo, Cnt.smpDraws, Cnt.smpTokens, Cnt.smpVoid, Cnt.smpGuess, Cnt.smpAccept, Cnt.smpNan, Cnt.smpLseSat, Cnt.smpPenLost, Cnt.smpTileErr, Cnt.smpGutWait, Cnt.spgEvalSmp, Cnt.spgEvalTile, Cnt.spgShadow, Cnt.spgMismatch, Cnt.spgTileReject, Cnt.mdvPkt, Cnt.mdvMsgDiscard, Cnt.mdvRenewMiss] ++
  [Cnt.mdvFence, Cnt.mdvProbe, Cnt.mdvHbDisagree, Cnt.mdvLeaveWait, Cnt.mdvOpsDefer, Cnt.fltCommit, Cnt.fltAbort, Cnt.fltReplay, Cnt.fltSuppressed, Cnt.fltReplayedEnd, Cnt.fltTakeover, Cnt.fltSpare, Cnt.fltExpel, Cnt.fltGoverned, Cnt.fltEvtFull, Cnt.tskDispatch, Cnt.tskPreempt, Cnt.tskMigrate, Cnt.tskCoincide, Cnt.tskCoreFault, Cnt.tskRestart, Cnt.tskFlowHold, Cnt.bplPush, Cnt.bplPop, Cnt.bplDrop] ++
  [Cnt.bplNoq, Cnt.bplCorr, Cnt.bplUncorr, Cnt.bplStallTo, Cnt.evrRec, Cnt.evrFolded, Cnt.evrSuppressed, Cnt.evrLost, Cnt.evrFreezeTo, Cnt.errCorr, Cnt.errReq, Cnt.errStep, Cnt.errFatal, Cnt.errPendOvf, Cnt.errEscalated, Cnt.errInjected, Cnt.errRingLost, Cnt.cpcLeaveReq, Cnt.cpcLeaveGrant, Cnt.cpcLeaveRefuse, Cnt.cpcLeaveTo, Cnt.cpcLeaveBad, Cnt.cpcTbReject]

end Sys2Proof.Machine
end

