-- ==== Sys2Proof/Machine/Ops.lean ====
section
/-!
DEFINITION. Machine/Ops.lean: the operations every unit shares: bit fields and little-endian bytes (R7), sparse
tables, free lists (R64), register fields and counters (R11), outputs, and how a command acts on the state.
-/

namespace Sys2Proof.Machine

/-! ### Numbers and bit fields -/

/-- Bits [lo + w − 1 : lo] of x. -/
def bitsOf (x lo w : Nat) : Nat := (x >>> lo) % 2 ^ w

/-- The value v in a field of w bits at lo. -/
def place (v lo w : Nat) : Nat := (v % 2 ^ w) <<< lo

/-- x with bits [lo + w − 1 : lo] replaced by v. -/
def setBits (x lo w v : Nat) : Nat := x - place (bitsOf x lo w) lo w + place v lo w

/-- 1 for true. -/
def bit (b : Bool) : Nat := if b then 1 else 0

/-- The two's complement value of a field of w bits. -/
def toSigned (w v : Nat) : Int := if v % 2 ^ w < 2 ^ (w - 1) then (v % 2 ^ w : Nat) else ((v % 2 ^ w : Nat) : Int) - (2 ^ w : Nat)

/-- A signed value as a field of w bits. -/
def ofSigned (w : Nat) (v : Int) : Nat := (v % ((2 ^ w : Nat) : Int)).toNat

/-- ⌈a / b⌉, 0 for b = 0. -/
def ceilDiv (a b : Nat) : Nat := if b = 0 then 0 else (a + b - 1) / b

/-- v limited to lo … hi. -/
def clampInt (lo hi v : Int) : Int := max lo (min hi v)

/-- v, or all ones of a 32-bit field when it does not fit. -/
def sat32 (v : Nat) : Nat := min v 0xFFFFFFFF

/-! ### Bytes, little-endian (R7) -/

/-- The n low bytes of v, lowest first. -/
def leBytes : Nat → Nat → List Byte
  | 0, _ => []
  | n + 1, v => BitVec.ofNat 8 v :: leBytes n (v / 256)

/-- The number whose bytes, lowest first, these are. -/
def leNat : List Byte → Nat
  | [] => 0
  | b :: bs => b.toNat + 256 * leNat bs

/-! ### Sparse tables -/

/-- The value at a key. -/
def Table.get? {α : Type} : Table α → Nat → Option α
  | [], _ => none
  | (k', v) :: t, k => if k' = k then some v else Table.get? t k

/-- The value at a key, or what an absent key reads as. -/
def Table.getD {α : Type} (t : Table α) (k : Nat) (d : α) : α := (Table.get? t k).getD d

/-- Writes a key, keeping the keys rising. -/
def Table.put {α : Type} : Table α → Nat → α → Table α
  | [], k, v => [(k, v)]
  | (k', v') :: t, k, v =>
    if k' = k then (k, v) :: t else if k < k' then (k, v) :: (k', v') :: t else (k', v') :: Table.put t k v

/-- Removes a key. -/
def Table.del {α : Type} : Table α → Nat → Table α
  | [], _ => []
  | (k', v) :: t, k => if k' = k then Table.del t k else (k', v) :: Table.del t k

/-- Writes or removes a key. -/
def Table.set {α : Type} (t : Table α) (k : Nat) : Option α → Table α
  | some v => Table.put t k v
  | none => Table.del t k

/-- Applies f at a key that is present. -/
def Table.modify {α : Type} (t : Table α) (k : Nat) (f : α → α) : Table α :=
  match Table.get? t k with
  | some v => Table.put t k (f v)
  | none => t

/-- The keys, rising. -/
def Table.keys {α : Type} (t : Table α) : List Nat := t.map Prod.fst

/-- The values, in key order. -/
def Table.vals {α : Type} (t : Table α) : List α := t.map Prod.snd

/-- Applies f to every value. -/
def Table.mapV {α : Type} (t : Table α) (f : Nat → α → α) : Table α := t.map fun (k, v) => (k, f k v)

/-- Keeps the entries that satisfy p. -/
def Table.keep {α : Type} (t : Table α) (p : Nat → α → Bool) : Table α := t.filter fun (k, v) => p k v

/-- Is the key present? -/
def Table.has {α : Type} (t : Table α) (k : Nat) : Bool := (Table.get? t k).isSome

/-- The keys rise strictly. -/
def Table.sorted {α : Type} (t : Table α) : Prop := (t.map Prod.fst).Pairwise (· < ·)

/-- The sum of f over a list. -/
def sumBy {α : Type} (l : List α) (f : α → Nat) : Nat := (l.map f).sum

/-- Stable insertion of x before the first element that must follow it. -/
def insertBy {α : Type} (before : α → α → Bool) (x : α) : List α → List α
  | [] => [x]
  | y :: ys => if before x y then x :: y :: ys else y :: insertBy before x ys

/-- Stable sort: an element stands before another only when it must. -/
def sortBy {α : Type} (before : α → α → Bool) : List α → List α
  | [] => []
  | x :: xs => insertBy (fun a b => !before b a) x (sortBy before xs)

/-- Adds a number to an ascending list without repeats. -/
def insertNat (x : Nat) : List Nat → List Nat
  | [] => [x]
  | y :: ys => if x = y then y :: ys else if x < y then x :: y :: ys else y :: insertNat x ys

/-! ### Free lists (R64) -/

/-- Numbers on the list. -/
def FreeList.count (f : FreeList) : Nat := (f.limit - f.fresh) + f.freed.length

/-- Takes the head: the lowest never-used number, else the oldest freed one. -/
def FreeList.take (f : FreeList) : Option (Nat × FreeList) :=
  if f.fresh < f.limit then some (f.fresh, { f with fresh := f.fresh + 1 })
  else match f.freed with
    | [] => none
    | k :: ks => some (k, { f with freed := ks })

/-- Returns a number to the tail. -/
def FreeList.give (f : FreeList) (k : Nat) : FreeList := { f with freed := f.freed ++ [k] }

/-- Takes a number back to the head, as if it had not been taken. -/
def FreeList.untake (f : FreeList) (k : Nat) : FreeList :=
  if k + 1 = f.fresh then { f with fresh := k } else { f with freed := k :: f.freed }

/-- Takes a given number, as a replica of the list does. -/
def FreeList.use (f : FreeList) (k : Nat) : FreeList :=
  if k < f.fresh then { f with freed := f.freed.erase k }
  else { f with fresh := k + 1, freed := f.freed ++ (List.range (k - f.fresh)).map (f.fresh + ·) }

/-- Takes n numbers, or none when there are not n. -/
def FreeList.takeMany : Nat → FreeList → Option (List Nat × FreeList)
  | 0, f => some ([], f)
  | n + 1, f =>
    match f.take with
    | none => none
    | some (k, f') => (FreeList.takeMany n f').map fun (ks, f'') => (k :: ks, f'')

/-! ### Register fields and counters (R11) -/

/-- The key of a field in `Engine.regs`. -/
def Field.key (f : Field) : Nat := 32 * f.off + f.lsb

/-- The value of a register field; a field never written holds its reset value. -/
def Engine.get (e : Engine) (f : Field) : Nat := Table.getD e.regs f.key f.reset

/-- The value of a signed trim (R11, UT). -/
def Engine.getS (e : Engine) (f : Field) : Int := toSigned f.width (e.get f)

/-- Writes a register field. -/
def Engine.put (e : Engine) (f : Field) (v : Nat) : Engine := { e with regs := Table.put e.regs f.key v }

/-- Is the one-bit field set? -/
def Engine.flag (e : Engine) (f : Field) : Bool := e.get f != 0

/-- The counter at an offset. -/
def Engine.count (e : Engine) (c : Nat) : BitVec 32 := Table.getD e.cnt c 0

/-- Adds n to a counter, which wraps at 2^32 (log entry 6). -/
def Engine.bumpBy (e : Engine) (c n : Nat) : Engine :=
  { e with cnt := Table.put e.cnt c (e.count c + BitVec.ofNat 32 n) }

/-- Counts one. -/
def Engine.bump (e : Engine) (c : Nat) : Engine := e.bumpBy c 1

/-- Drives or writes something at the boundary. -/
def Engine.emit (e : Engine) (o : Output) : Engine := { e with out := o :: e.out }

/-- The timebase in whole µs (R10). -/
def Engine.us (e : Engine) : Nat := e.now / 1000

/-- An absolute time in µs as its 48-bit field holds it (R10). -/
def us48 (t : Nat) : Nat := t % 2 ^ 48

/-- The next free value (log entry 2) and the engine that has taken it. -/
def Engine.free (e : Engine) : BitVec 64 × Engine := (Config.freeValue e.taken, { e with taken := e.taken + 1 })

/-! ### Islands (Table 1.2, R321) -/

namespace Isl

def hi : Nat := 0
def sb : Nat := 1
def pg : Nat := 2
def sm : Nat := 3
def sp : Nat := 4
def cc : Nat := 5
def bp : Nat := 6
def ao : Nat := 7
def md : Nat := 8

end Isl

/-- Is an island out of reset with its clock running (R356, R379)? AO answers to its own reset only. -/
def Engine.live (e : Engine) (isl : Nat) : Bool :=
  e.cpc.running.getLsbD isl && !e.glb.aoReset && (isl == Isl.ao || (!e.glb.mainReset && e.cal.loaded))

/-! ### How a command acts -/

/-- A command acts on the engine at the timebase's count and answers the next state; the queue and the timebase
stay as they are. -/
def State.act (s : State) (f : Engine → Engine) : Host.Outcome State Fault Refusal :=
  .next { s with eng := f { s.eng with now := s.tb.count } }

/-- An event inside one island, such as a watchdog of it: while that island is held in reset or its clock is stopped it does
not happen (R356, R379; log entry 4). -/
def State.actIn (s : State) (isl : Nat) (f : Engine → Engine) : Host.Outcome State Fault Refusal :=
  s.act fun e => if e.live isl then f e else e

/-- Does an item stand in the crossings into an island (R16)? -/
def State.waits (s : State) (isl : Nat) : Bool := s.crossing.any fun x => x.1 == isl

/-- A command that comes to an island from outside it. While the island does not run its crossing holds the item, in order and
without loss (R16, R356, R379; log entry 4). -/
def State.cross (s : State) (isl : Nat) (c : Instr) (f : Engine → Engine) : Host.Outcome State Fault Refusal :=
  if s.eng.live isl && !s.waits isl then s.act f
  else .next { s with crossing := s.crossing ++ [(isl, c)], eng := { s.eng with now := s.tb.count } }

end Sys2Proof.Machine
end

