-- ==== Sys2Proof/Machine/Memory.lean ====
section
/-!
DEFINITION. Machine/Memory.lean: the bytes of the eaves-log region and the checksums of the manual. The region is a
list of cells in one canonical form: addresses strictly rising, no cell that holds 0, which is what an unlisted
address reads as (log entry 5).
-/

namespace Sys2Proof.Machine

/-- What a byte of the region that nothing has written reads as. -/
def Memory.unlisted : Byte := 0

/-- Addresses rise strictly from lo on, and no cell holds the unlisted value. -/
def Memory.wfFrom : Nat → List Host.Cell → Bool
  | _, [] => true
  | lo, (a, b) :: m => decide (lo ≤ a) && (b != Memory.unlisted) && Memory.wfFrom (a + 1) m

/-- The canonical form. -/
def Memory.wf (m : List Host.Cell) : Bool := Memory.wfFrom 0 m

/-- One byte. -/
def Memory.read : List Host.Cell → Nat → Byte
  | [], _ => Memory.unlisted
  | (a', b) :: m, a => if a' = a then b else Memory.read m a

/-- Writes one byte; writing the unlisted value removes the cell. -/
def Memory.write : List Host.Cell → Nat → Byte → List Host.Cell
  | [], a, b => if b = Memory.unlisted then [] else [(a, b)]
  | (a', b') :: m, a, b =>
    if a' = a then (if b = Memory.unlisted then m else (a, b) :: m)
    else if a < a' then (if b = Memory.unlisted then (a', b') :: m else (a, b) :: (a', b') :: m)
    else (a', b') :: Memory.write m a b

/-- Writes consecutive bytes from an address on. -/
def Memory.writeBytes : List Host.Cell → Nat → List Byte → List Host.Cell
  | m, _, [] => m
  | m, a, b :: bs => Memory.writeBytes (Memory.write m a b) (a + 1) bs

/-! ### Checksums -/

/-- One bit of CRC-32C: polynomial 0x1EDC_6F41, reflected (R321). -/
def crc32cBit (c : BitVec 32) : BitVec 32 := if c.getLsbD 0 then (c >>> 1) ^^^ 0x82F63B78#32 else c >>> 1

/-- One byte of CRC-32C. -/
def crc32cByte (c : BitVec 32) (b : Byte) : BitVec 32 :=
  crc32cBit (crc32cBit (crc32cBit (crc32cBit (crc32cBit (crc32cBit (crc32cBit (crc32cBit (c ^^^ b.setWidth 32))))))))

/-- CRC-32C with an initial value and a final XOR of all ones (R321). -/
def crc32c (bs : List Byte) : BitVec 32 := (bs.foldl crc32cByte 0xFFFFFFFF#32) ^^^ 0xFFFFFFFF#32

/-- One bit of CRC-64: polynomial 0x42F0_E1EB_A9EA_3693, reflected. -/
def crc64Bit (c : BitVec 64) : BitVec 64 := if c.getLsbD 0 then (c >>> 1) ^^^ 0xC96C5795D7870F42#64 else c >>> 1

/-- One byte of CRC-64. -/
def crc64Byte (c : BitVec 64) (b : Byte) : BitVec 64 :=
  crc64Bit (crc64Bit (crc64Bit (crc64Bit (crc64Bit (crc64Bit (crc64Bit (crc64Bit (c ^^^ b.setWidth 64))))))))

/-- CRC-64 with an initial value and a final XOR of all ones. -/
def crc64 (bs : List Byte) : BitVec 64 := (bs.foldl crc64Byte 0xFFFFFFFFFFFFFFFF#64) ^^^ 0xFFFFFFFFFFFFFFFF#64

/-! ### The T0 partition (R19, R20) -/

/-- The regions of the engine's T0 partition and of its working space (Tables 1.5 and 1.9). -/
inductive T0Region where
  | rafterTable | countSets | overflowPool | pageTables | prefixHash | additionDir | journal | eavesLog | prefixTable | biasStores
  | guessStores | reserved | undoSb | undoSmp | undoPgm | chainStage | manifestArchive | moveStaging | stateLoading
  deriving DecidableEq, Repr

/-- First byte, size in MiB and owner (R322's code of the unit; none for the reserved space) of each region. -/
def t0Layout : List (T0Region × Nat × Nat × Option Nat) :=
  [(.rafterTable, 0x00000000, 64, some 2), (.countSets, 0x04000000, 512, some 7), (.overflowPool, 0x24000000, 256, some 7),
   (.pageTables, 0x34000000, 64, some 5), (.prefixHash, 0x38000000, 128, some 5), (.additionDir, 0x40000000, 16, some 6),
   (.journal, 0x41000000, 256, some 10), (.eavesLog, 0x51000000, 64, some 0), (.prefixTable, 0x55000000, 32, some 6),
   (.biasStores, 0x57000000, 128, some 7), (.guessStores, 0x5F000000, 4, some 7), (.reserved, 0x5F400000, 12, none)] ++
  [(.undoSb, 0x60000000, 4, some 2), (.undoSmp, 0x60400000, 4, some 7), (.undoPgm, 0x60800000, 8, some 5),
   (.chainStage, 0x61000000, 16, some 5), (.manifestArchive, 0x62000000, 64, some 4), (.moveStaging, 0x66000000, 128, some 5),
   (.stateLoading, 0x6E000000, 288, some 10)]

/-- The region of a partition offset, and its first byte. -/
def regionAt (offset : Nat) : Option (T0Region × Nat) :=
  (t0Layout.find? fun x => decide (x.2.1 ≤ offset ∧ offset < x.2.1 + x.2.2.1 * 1048576)).map fun x => (x.1, x.2.1)

/-- Is an uncorrectable word of the region STEP class during a step (Table 15.2)? -/
def T0Region.stepClass : T0Region → Bool
  | .rafterTable | .countSets | .overflowPool | .biasStores | .guessStores | .journal => true
  | .pageTables | .prefixHash | .additionDir | .eavesLog | .prefixTable | .reserved | .undoSb | .undoSmp | .undoPgm | .chainStage
  | .manifestArchive | .moveStaging | .stateLoading => false

end Sys2Proof.Machine
end

