-- ==== Sys2Proof/Machine/Log.lean ====
section
/-!
DEFINITION. Machine/Log.lean: the eaves log as every unit uses it (chapter 14): a record is stamped, passes flood
control, and is written, held, or kept in the emergency area.
-/

namespace Sys2Proof.Machine

/-! ### Codes: sources and Table 14.2 are the spec's, the other event numbers the model's (R322, log entry 7) -/

namespace Ev

def logStart : Nat := 0x0801
def suppressed : Nat := 0x0802
def logFull : Nat := 0x0803
def freezeTimeout : Nat := 0x0804
def stagingLoss : Nat := 0x0805
def logMemFail : Nat := 0x0806
def errCorrected : Nat := 0xD000
def errRequest : Nat := 0xD801
def errStep : Nat := 0xD802
def errFatal : Nat := 0xD803
def errEscalated : Nat := 0xD804
def errUnlock : Nat := 0xD805
def errLock : Nat := 0xD806
def ringContext : Nat := 0x1001
def doorbellInvalid : Nat := 0x1002
def fetchError : Nat := 0x1003
def eventStall : Nat := 0x1004
def recordDropped : Nat := 0x1805
def hostReadError : Nat := 0x1006
def writeCredit : Nat := 0x1007
def unitLate : Nat := 0x2001
def overcommit : Nat := 0x3001
def kappaClamped : Nat := 0x3002
def leaveRefused : Nat := 0x4001
def composeStall : Nat := 0x4002
def baseStall : Nat := 0x4003
def manifestAckIgnored : Nat := 0x4004
def tileReportIgnored : Nat := 0x4005
def moveDiscarded : Nat := 0x5001
def kvFailed : Nat := 0x5802
def restoreFailed : Nat := 0x5803
def moveTimeout : Nat := 0x5004
def familyRemoved : Nat := 0x6002
def slotFailed : Nat := 0x6003
def loadFailed : Nat := 0x6004
def tileCheck : Nat := 0x7803
def penLost : Nat := 0x7002
def gutterStall : Nat := 0x7004
def randomStall : Nat := 0x7005
def spgMismatch : Nat := 0x8002
def fabricUnknown : Nat := 0x9001
def fabricUp : Nat := 0x9006
def discard : Nat := 0x9002
def fence : Nat := 0x9803
def joinTimeout : Nat := 0x9004
def probe : Nat := 0x9007
def ackMissing : Nat := 0x9008
def divergence : Nat := 0x7801
def replay : Nat := 0xA802
def effectFailed : Nat := 0xA803
def abortIgnored : Nat := 0xA004
def healthLevel : Nat := 0xA005
def takeover : Nat := 0xA807
def spareSwitch : Nat := 0xA00A
def queueFailed : Nat := 0xC001
def fuseBad : Nat := 0xE001
def leaveBad : Nat := 0xE002
def thermal : Nat := 0xE003
def oscHeld : Nat := 0xE004

end Ev

/-- The island of a source code's unit (Table 1.1, R322). -/
def sourceIsland (source : Nat) : Nat :=
  match source with
  | 0 => Isl.ao | 1 => Isl.hi | 2 => Isl.sb | 3 => Isl.sb | 4 => Isl.sb | 5 => Isl.pg | 6 => Isl.pg | 7 => Isl.sm
  | 8 => Isl.sp | 9 => Isl.md | 10 => Isl.md | 11 => Isl.cc | 12 => Isl.bp | 13 => Isl.ao | 14 => Isl.ao | _ => Isl.cc

/-- Bit 11 set: flood control never folds or suppresses the record (R322). -/
def exemptCode (code : Nat) : Bool := code.testBit 11

/-- LENGTH of a record (Table 14.1). -/
def LogRec.size (r : LogRec) : Nat := 20 + 4 * r.payload.length

/-- The record's bytes (Table 14.1). -/
def LogRec.bytes (r : LogRec) : List Byte :=
  let head := leBytes 4 (place r.size 0 12 + place r.code 12 16 + place (bit r.injected) 28 1 + place (bit r.early) 29 1) ++
    leBytes 4 r.opTime ++ leBytes 3 r.cycles ++ leBytes 1 (place r.island 0 4) ++ leBytes 4 r.rep
  let body := head ++ r.payload.flatMap fun w => leBytes 4 w.toNat
  body ++ leBytes 4 (crc32c body).toNat

/-- Where a record must end (R320). -/
def logLimit : Nat := 0x03FFFFE0

/-- An emergency entry, 64 of them at most (R331, Table 14.3). -/
def Engine.emergency (e : Engine) (x : EmergEntry) : Engine :=
  if e.evr.emergFail || 64 ≤ e.evr.emerg.length then e.bump Cnt.evrLost
  else { e with evr := { e.evr with emerg := e.evr.emerg ++ [x] } }

/-- Writes a record's bytes at an offset, and notes the write until it is known good. -/
def Engine.logPut (e : Engine) (r : LogRec) (at_ : Nat) : Engine :=
  ({ e with mem := Memory.writeBytes e.mem at_ r.bytes,
            evr := { e.evr with wrPtr := at_ + r.size, last := some (r, at_), pendRepeat := 0,
                                lastWrite := some (e.evr.wrPtr, at_, true) } }).bump Cnt.evrRec

/-- Writes a record to T0 (R320), or LOG_FULL when it is the first that does not fit (R330). -/
def Engine.logT0 (e : Engine) (r : LogRec) : Engine :=
  if e.evr.full then e.bump Cnt.evrLost
  else if e.evr.wrPtr + r.size ≤ logLimit then e.logPut r e.evr.wrPtr
  else
    let e := ({ e with evr := { e.evr with full := true } }).bump Cnt.evrLost
    e.logPut { code := Ev.logFull, injected := false, early := false, opTime := r.opTime, cycles := r.cycles,
               island := Isl.ao, rep := 0, payload := [BitVec.ofNat 32 r.code] } logLimit

/-- Writes a record that flood control has passed: to T0, or to the emergency area while MEM_FAIL is set (R331). -/
def Engine.logWrite (e : Engine) (r : LogRec) : Engine :=
  if e.evr.memFail then
    e.emergency { code := r.code, island := r.island, injected := r.injected, opTime := r.opTime, cycles := r.cycles,
                  word := r.payload.headD 0 }
  else e.logT0 r

/-- Capacity of the staging store in bytes (R328). -/
def logStaging : Nat := 65536

/-- Holds a record in staging, or counts it lost (R328). -/
def Engine.logHold (e : Engine) (r : LogRec) : Engine :=
  if e.evr.stagedBytes + r.size ≤ logStaging then
    { e with evr := { e.evr with staging := e.evr.staging ++ [r], stagedBytes := e.evr.stagedBytes + r.size } }
  else ({ e with evr := { e.evr with stagingLost := e.evr.stagingLost + 1 } }).bump Cnt.evrLost

/-- Passes a record on: held before ENABLE and during a freeze, else written (R328, R334). -/
def Engine.logPass (e : Engine) (r : LogRec) : Engine :=
  if !e.evr.enabled then e.logHold { r with early := true }
  else if e.evr.frozen then e.logHold r
  else e.logWrite r

/-- A record stamped at arrival (R323, R324). -/
def Engine.logStamp (e : Engine) (code : Nat) (injected : Bool) (island : Nat) (payload : List (BitVec 32)) : LogRec :=
  { code := code, injected := injected, early := false, opTime := e.evr.opTime, cycles := e.evr.cycles, island := island,
    rep := 0, payload := payload.take 64 }

/-- Does the record equal the last one written (R326)? -/
def LogRec.foldsInto (r last : LogRec) : Bool :=
  r.code == last.code && r.island == last.island && r.payload == last.payload

/-- Folds n repeats into the last record: REPEAT saturates, and REPEAT and CRC are rewritten (R326). -/
def Engine.logFold (e : Engine) (n : Nat) : Engine :=
  match e.evr.last with
  | none => e
  | some (r, at_) =>
    let r' := { r with rep := sat32 (r.rep + n) }
    { e with mem := Memory.writeBytes e.mem at_ r'.bytes,
             evr := { e.evr with last := some (r', at_), lastWrite := some (e.evr.wrPtr, at_ + 12, false) } }

/-- The window number of RATE mode (R327). -/
def Engine.logWindow (e : Engine) : Nat := e.now / (e.get Fld.evrRateMs * 1000000)

/-- Writes SUPPRESSED for the window before this one (R327). -/
def Engine.logSuppressed (e : Engine) (code extra : Nat) : Engine :=
  e.logPass (e.logStamp Ev.suppressed false Isl.ao
    [BitVec.ofNat 32 code, BitVec.ofNat 32 extra, BitVec.ofNat 32 (e.logWindow - 1)])

/-- A record under RATE (R327). -/
def Engine.logRate (e : Engine) (r : LogRec) : Engine :=
  let tag := e.logWindow % 16
  let prev := (e.logWindow + 15) % 16
  let n := e.get Fld.evrRateN
  let (count, old) := Table.getD e.evr.rates r.code (0, 0)
  let e := if old != tag && old == prev && n < count then e.logSuppressed r.code (count - n) else e
  let count := min 4095 ((if old == tag then count else 0) + 1)
  let e := { e with evr := { e.evr with rates := Table.put e.evr.rates r.code (count, tag) } }
  if count ≤ n then e.logPass r else e.bump Cnt.evrSuppressed

/-- A record under REPEAT (R326); during a freeze a fold aimed at the last record in T0 is kept pending (R328). -/
def Engine.logRepeat (e : Engine) (r : LogRec) : Engine :=
  match e.evr.last with
  | none => e.logPass r
  | some (last, _) =>
    if r.foldsInto last && e.evr.staging.isEmpty && e.evr.enabled && !e.evr.memFail then
      if e.evr.frozen then ({ e with evr := { e.evr with pendRepeat := e.evr.pendRepeat + 1 } }).bump Cnt.evrFolded
      else (e.logFold 1).bump Cnt.evrFolded
    else e.logPass r

/-- A record arrives in AO: it is stamped and meets flood control (R323, R325). -/
def Engine.logArrive (e : Engine) (code : Nat) (injected : Bool) (island : Nat) (payload : List (BitVec 32)) : Engine :=
  let r := e.logStamp code injected island payload
  if exemptCode code then e.logPass r
  else match e.get Fld.evrCtlFlood with
    | 1 => e.logRepeat r
    | 2 => e.logRate r
    | _ => e.logPass r

/-- A unit's own event, from the island of its source code. -/
def Engine.log (e : Engine) (code : Nat) (payload : List Nat) : Engine :=
  e.logArrive code false (sourceIsland (code / 4096)) (payload.map (BitVec.ofNat 32))

/-- LOG_START (Table 14.2). -/
def Engine.logStart (e : Engine) : LogRec :=
  e.logStamp Ev.logStart false Isl.ao [0x5E4B0302#32, e.count Cnt.evrLost]

/-- Writes the held records in arrival order. -/
def Engine.logRelease (e : Engine) : Engine :=
  let held := e.evr.staging
  held.foldl (fun e r => e.logWrite r) { e with evr := { e.evr with staging := [], stagedBytes := 0 } }

/-- Ends a freeze (R328): pending repeats, FREEZE_TIMEOUT when the limit ended it, the held records, STAGING_LOSS. -/
def Engine.logThaw (e : Engine) (timeout : Bool) : Engine :=
  if !e.evr.frozen then e
  else if !e.evr.enabled then
    let e : Engine := { e with evr := { e.evr with frozen := false } }
    if timeout then
      (e.logPass (e.logStamp Ev.freezeTimeout false Isl.ao [BitVec.ofNat 32 e.evr.staging.length])).bump Cnt.evrFreezeTo
    else e
  else
    let held := e.evr.staging.length
    let e := if e.evr.pendRepeat > 0 then e.logFold e.evr.pendRepeat else e
    let e := { e with evr := { e.evr with frozen := false, pendRepeat := 0 } }
    let e := if timeout then
        (e.logWrite (e.logStamp Ev.freezeTimeout false Isl.ao [BitVec.ofNat 32 held])).bump Cnt.evrFreezeTo
      else e
    let e := e.logRelease
    let lost := e.evr.stagingLost
    let e := { e with evr := { e.evr with stagingLost := 0 } }
    if lost > 0 then e.logWrite (e.logStamp Ev.stagingLoss false Isl.ao [BitVec.ofNat 32 lost]) else e

/-- Sets ENABLE for the first time since the AO reset (R324, R334): the power cycle counts, LOG_START and the held
EARLY records are written, stamped with the time of the write. -/
def Engine.logEnableOn (e : Engine) : Engine :=
  if e.evr.enabled then e
  else
    let cycles := (e.evr.cycles + 1) % 2 ^ 24
    let held := e.evr.staging.map fun r => { r with opTime := e.evr.opTime, cycles := cycles }
    let size := e.evr.stagedBytes
    let e := { e with evr := { e.evr with enabled := true, cycles := cycles, staging := held } }
    if e.evr.frozen then
      { e with evr := { e.evr with staging := e.logStart :: held, stagedBytes := size + e.logStart.size } }
    else
      let e := (e.logWrite e.logStart).logRelease
      let lost := e.evr.stagingLost
      let e := { e with evr := { e.evr with stagingLost := 0 } }
      if lost > 0 then e.logWrite (e.logStamp Ev.stagingLoss false Isl.ao [BitVec.ofNat 32 lost]) else e

/-- CLEAR, accepted only while FROZEN (R329, R331). -/
def Engine.logClear (e : Engine) : Engine :=
  let r := e.logStart
  let e := { e with evr := { e.evr with wrPtr := 0, full := false, memFail := false, pendRepeat := 0 } }
  let e := e.logPut r 0
  { e with cnt := Table.put e.cnt Cnt.evrLost 0 }

/-- The last T0 write failed (R331): the pointer goes back, MEM_FAIL is set and an emergency entry is written. -/
def Engine.logFailed (e : Engine) (injected : Bool) : Engine :=
  match e.evr.lastWrite with
  | none => e
  | some (back, at_, counted) =>
    let e := if counted then { e with cnt := Table.put e.cnt Cnt.evrRec (e.count Cnt.evrRec - 1) } else e
    let e := { e with evr := { e.evr with wrPtr := back, memFail := true, last := none, lastWrite := none, pendRepeat := 0 } }
    e.emergency { code := Ev.logMemFail, island := Isl.ao, injected := injected, opTime := e.evr.opTime,
                  cycles := e.evr.cycles, word := BitVec.ofNat 32 at_ }

end Sys2Proof.Machine
end

