-- ==== Sys2Proof/Machine/Purlin.lean ====
section
/-!
DEFINITION. Machine/Purlin.lean: tasks, control cores and the choice of a core, as the scheduler sees them
(chapter 12), and the feeding of health scores.
-/

namespace Sys2Proof.Machine

/-! ### Health feed (R281) -/

/-- An event of a scored part, to be weighed at the next health update: 0 ECC, 1 retry, 2 retraining, 3 swap. -/
def Engine.feed (e : Engine) (kind index event : Nat) : Engine :=
  let k := 512 * kind + index
  let (a, b, c, d) := Table.getD e.flt.fed k (0, 0, 0, 0)
  let v := match event with
    | 0 => (a + 1, b, c, d) | 1 => (a, b + 1, c, d) | 2 => (a, b, c + 1, d) | _ => (a, b, c, d + 1)
  { e with flt := { e.flt with fed := Table.put e.flt.fed k v } }

/-! ### Tasks -/

/-- Does LATCHED satisfy MASK (R292)? -/
def Task.satisfied (t : Task) : Bool :=
  let hit := t.latched &&& t.mask
  t.mask != 0 && (if t.all then hit == t.mask else hit != 0)

/-- The band of a priority (Table 12.9). -/
def bandOf (priority : Nat) : Nat := 3 - priority / 8

/-- READY at a time; the wait is counted in the band of the priority held now (R301). -/
def Task.toReady (t : Task) (now : Nat) : Task :=
  { t with state := .ready, readyTime := now, band := bandOf t.priority }

/-- A task record; an absent one is FREE. -/
def Engine.task? (e : Engine) (t : Nat) : Option Task := Table.get? e.tsk.tasks t

def Engine.putTask (e : Engine) (i : Nat) (t : Task) : Engine :=
  { e with tsk := { e.tsk with tasks := Table.put e.tsk.tasks i t } }

def Engine.delTask (e : Engine) (i : Nat) : Engine :=
  { e with tsk := { e.tsk with tasks := Table.del e.tsk.tasks i } }

/-- A POST: the bit is latched, and a waiting task whose mask is then satisfied becomes READY (R292). A flag posted
to a FREE record is lost. -/
def Engine.postFlag (e : Engine) (task flag : Nat) : Engine :=
  match e.task? task with
  | none => e
  | some t =>
    let t := { t with latched := t.latched ||| BitVec.twoPow 32 (flag % 32) }
    e.putTask task (if t.state == .waiting && t.satisfied then t.toReady e.now else t)

/-! ### Cores -/

/-- A core that runs nothing. -/
def Core.idle (phys : Option Nat) : Core :=
  { phys := phys, running := none, chosen := none, irq := false, retired := false, stalled := none, irqAt := 0, wdFrom := 0,
    runFrom := 0, busyNs := 0 }

/-- Logical core l; before the fuse load names them, core l serves number l. -/
def Engine.core (e : Engine) (l : Nat) : Core := Table.getD e.tsk.cores l (Core.idle (some l))

def Engine.putCore (e : Engine) (l : Nat) (c : Core) : Engine :=
  { e with tsk := { e.tsk with cores := Table.put e.tsk.cores l c } }

/-- The sixteen logical cores. -/
def logicalCores : List Nat := List.range 16

/-- In service: a physical core carries the number. -/
def Core.inService (c : Core) : Bool := c.phys.isSome && !c.retired

/-- Idle: in service, running nothing, chosen for nothing. -/
def Core.isIdle (c : Core) : Bool := c.inService && c.running.isNone && c.chosen.isNone

/-- The priority of the task a core runs. -/
def Engine.runningPriority (e : Engine) (c : Core) : Option Nat :=
  c.running.bind fun t => (e.task? t).map (·.priority)

/-- The cores a task may run on (R294); a task whose every core is retired runs on any (R297). -/
def Engine.allowed (e : Engine) (t : Task) (l : Nat) : Bool :=
  let named := fun i => t.affinity == 0 || t.affinity.getLsbD i
  named l || (logicalCores.all fun i => !named i || (e.core i).retired)

/-- The home of a task: the core that last ran it, while it is allowed and not retired (R294, R297). -/
def Engine.home (e : Engine) (t : Task) : Option Nat := t.lastCore.filter fun l => e.allowed t l && !(e.core l).retired

/-- Can a core be pre-empted for a priority: it runs a lower one, and no dispatch to it waits for its NEXT? -/
def Engine.beats (e : Engine) (priority : Nat) (c : Core) : Bool :=
  c.inService && c.chosen.isNone && (match e.runningPriority c with | some p => decide (p < priority) | none => false)

/-- The allowed core whose running priority is lowest and below the task's, ties to the lowest number. -/
def Engine.lowestBeaten (e : Engine) (t : Task) : Option Nat :=
  let cs := logicalCores.filter fun l => e.allowed t l && e.beats t.priority (e.core l)
  (sortBy (fun a b => decide ((e.runningPriority (e.core a)).getD 0 < (e.runningPriority (e.core b)).getD 0)) cs).head?

/-- The core R294 gives one task, and whether that leaves a valid home; none when it must wait. -/
def Engine.chooseCore (e : Engine) (t : Task) : Option (Nat × Bool) :=
  let away := match e.home t with
    | none => true
    | some _ => e.flag Fld.tskCtlMigrateEn && decide (t.readyTime + e.get Fld.tskMigrateUs * 1000 ≤ e.now)
  let atHome := match e.home t with
    | some h => (e.core h).isIdle || e.beats t.priority (e.core h)
    | none => false
  if atHome then (e.home t).map fun h => (h, false)
  else if away then
    let c := ((logicalCores.filter fun l => e.allowed t l && (e.core l).isIdle).head?).orElse fun _ => e.lowestBeaten t
    c.map fun l => (l, (e.home t).isSome)
  else none

/-- Ready order (R294): priority descending, READY_TIME ascending, id ascending. -/
def readyBefore (a b : Nat × Task) : Bool :=
  b.2.priority < a.2.priority || (a.2.priority == b.2.priority &&
    (a.2.readyTime < b.2.readyTime || (a.2.readyTime == b.2.readyTime && a.1 < b.1)))

/-- The READY tasks no core is chosen for, in ready order. -/
def Engine.readyTasks (e : Engine) : List (Nat × Task) :=
  let chosen := logicalCores.filterMap fun l => (e.core l).chosen
  sortBy readyBefore (e.tsk.tasks.filter fun x => x.2.state == .ready && !chosen.contains x.1)

/-- Status words of a pop (Table 13.2). -/
def popStatus (len : Nat) (valid gap retry err stallTo preempted failed : Bool) : Nat :=
  place len 0 3 + place (bit valid) 3 1 + place (bit gap) 4 1 + place (bit retry) 5 1 + place (bit err) 6 1 +
    place (bit stallTo) 7 1 + place (bit preempted) 8 1 + place (bit failed) 9 1

/-- The dispatch of a task to a core: its interrupt is raised, and a stalled pop on it ends PREEMPTED (R295, R312). -/
def Engine.dispatchTo (e : Engine) (task l : Nat) : Engine :=
  let c := e.core l
  let e := match c.stalled with
    | some _ => e.emit (.portData l (BitVec.ofNat 64 (popStatus 0 false false false false false true false)))
    | none => e
  (e.putCore l { c with chosen := some task, irq := true, irqAt := e.now, stalled := none }).emit (.coreIrq l)

/-- One examination: the first 8 READY tasks, in ready order (R294). -/
def Engine.scheduleOne (e : Engine) (x : Nat × Task) : Engine :=
  match e.chooseCore x.2 with
  | none => e
  | some (l, moved) =>
    let e := if moved then e.bump Cnt.tskMigrate else e
    e.dispatchTo x.1 l

/-- One scheduler cycle; nothing while TSK_CTL.ENABLE is 0 (R301). -/
def Engine.schedule (e : Engine) : Engine :=
  if e.flag Fld.tskCtlEnable then (e.readyTasks.take 8).foldl Engine.scheduleOne e else e

/-- A core's running time up to now is added to its load (R300). -/
def Core.account (c : Core) (now : Nat) : Core :=
  if c.running.isSome then { c with busyNs := c.busyNs + (now - c.runFrom), runFrom := now } else c

/-- The histogram bin of a wait (R300). -/
def waitBin (ns : Nat) : Nat := if ns < 256 then 0 else min 15 (Nat.log2 ns - 7)

/-- A core runs its task no longer; the task takes what the trigger makes of it. -/
def Engine.leaveRun (e : Engine) (l : Nat) (next : Nat → Task → Engine → Engine) : Engine :=
  let c := e.core l
  match c.running with
  | none => e
  | some t =>
    let e := e.putCore l { c.account e.now with running := none }
    match e.task? t with
    | none => e
    | some r => next t r e

/-- A core's running task ends its run by a YIELD or WAIT and takes the given next state; DESTROY_PENDING frees it (Table 12.3). -/
def Engine.endRun (e : Engine) (l : Nat) (next : Task → Task) : Engine :=
  e.leaveRun l fun t r e => if r.destroyPending then e.delTask t else e.putTask t (next r)

/-- NEXT: the dispatch completes; a pre-empted task becomes READY now, DESTROY_PENDING or not, and the chosen one runs (R291, R295). -/
def Engine.loadNext (e : Engine) (l : Nat) : Option Nat × Engine :=
  let c := e.core l
  match c.chosen with
  | none => (none, e.putCore l { c with irq := false })
  | some t =>
    let e := if c.running.isSome then (e.leaveRun l fun t r e => e.putTask t (r.toReady e.now)).bump Cnt.tskPreempt else e
    let c := e.core l
    let e := e.putCore l { c with running := some t, chosen := none, irq := false, wdFrom := e.now, runFrom := e.now }
    match e.task? t with
    | none => (some t, e)
    | some r =>
      let bin := 16 * r.band + waitBin (e.now - r.readyTime)
      let e := { e with tsk := { e.tsk with hist := Table.put e.tsk.hist bin (Table.getD e.tsk.hist bin 0 + 1) } }
      (some t, (e.putTask t { r with state := .running, started := true, lastCore := some l, runs := r.runs + 1 }).bump Cnt.tskDispatch)

/-- Withdraws a task from the core it was chosen for; true when there was one (R295, Table 12.7). -/
def Engine.withdraw (e : Engine) (task : Nat) : Bool × Engine :=
  match logicalCores.find? fun l => (e.core l).chosen == some task with
  | none => (false, e)
  | some l => (true, e.putCore l { e.core l with chosen := none, irq := false })

/-- The handler task's flag (R345). -/
def Engine.notifyError (e : Engine) : Engine :=
  if e.flag Fld.errNotifyEn then e.postFlag (e.get Fld.errNotifyTask) (e.get Fld.errNotifyFlag) else e

end Sys2Proof.Machine
end

