-- ==== Sys2Proof/Machine/Batten.lean ====
section
/-!
DEFINITION. Machine/Batten.lean: the batten pool's queues: pushing, dropping, gap markers, popping, flow control
(chapter 13). A queue is the list of its items, oldest first; the cells' links are the order of that list.
-/

namespace Sys2Proof.Machine

/-- A queue as reset leaves it (Table 13.7). -/
def Queue.reset : Queue :=
  { enabled := false, cls := 0, atomic := false, notifyEn := false, notifyTask := 0, notifyFlag := 0, xoffLine := 0,
    xoffEn := false, maxDepth := 1024, high := 768, low := 256, items := [], xoff := false, failed := none, drops := 0 }

def Engine.queue (e : Engine) (q : Nat) : Queue := Table.getD e.bpl.queues q .reset

def Item.isGap : Item → Bool
  | .gap _ => true
  | .words _ _ => false

/-- Is the tail a gap marker? -/
def Queue.gapTail (q : Queue) : Bool := match q.items.getLast? with
  | some i => i.isGap
  | none => false

/-- Items queued; gap markers do not count (R310). -/
def Queue.depth (q : Queue) : Nat := (q.items.filter fun i => !i.isGap).length

/-- Cells an enabled queue holds: one an item, and its reserve unless its tail is a gap marker (R306). -/
def Queue.cells (q : Queue) : Nat := if q.enabled then q.items.length + bit (!q.gapTail) else 0

/-- The level of a queue's XOFF line after its count changed (R313). -/
def Queue.level (q : Queue) : Queue :=
  if !q.xoffEn then { q with xoff := false }
  else if q.high ≤ q.depth then { q with xoff := true }
  else if q.depth ≤ q.low then { q with xoff := false }
  else q

/-- The `ske_xoff` lines (R313). -/
def Engine.xoffLines (e : Engine) : BitVec 16 :=
  e.bpl.queues.foldl (fun m x => if x.2.enabled && x.2.xoff then m ||| BitVec.twoPow 16 x.2.xoffLine else m) 0

/-- Stores a queue whose cells changed: the pool takes the difference, and the lines are driven when they change. -/
def Engine.putQueue (e : Engine) (i : Nat) (q : Queue) : Engine :=
  let before := e.xoffLines
  let free := e.bpl.free + (e.queue i).cells - q.level.cells
  let e := { e with bpl := { e.bpl with queues := Table.put e.bpl.queues i q.level, free := free } }
  if e.xoffLines = before then e else e.emit (.xoff e.xoffLines)

/-- Is a push accepted (R309)? -/
def Engine.accepts (e : Engine) (q : Queue) : Bool :=
  q.failed.isNone && decide (q.depth < q.maxDepth) && decide ((if q.gapTail then 2 else 1) ≤ e.bpl.free)

/-- The items after a push is dropped (R310). -/
def dropItem : List Item → List Item
  | [] => [.gap 1]
  | [.gap n] => [.gap (max n (min (n + 1) 0xFFFFFFFE))]
  | [.words w b] => [.words w b, .gap 1]
  | x :: y :: ys => x :: dropItem (y :: ys)

/-! ### Flows (R296) -/

def Engine.flow (e : Engine) (f : Nat) : Flow := Table.getD e.tsk.flows f { busy := false, owner := 0, retry := false, queue := 0 }

def Engine.putFlow (e : Engine) (f : Nat) (x : Flow) : Engine :=
  { e with tsk := { e.tsk with flows := Table.put e.tsk.flows f x } }

/-- The flow of an item of an atomic queue: bits [18:0] of its first word. -/
def flowOf (ws : List (BitVec 64)) : Nat := bitsOf (ws.headD 0).toNat 0 19

/-- The first deliverable item of an atomic queue: its place, and the items skipped behind a BUSY flow. A gap marker
is delivered only when it is the oldest (R311). -/
def Engine.deliverable (e : Engine) : List Item → Nat → Nat → Option (Nat × Nat)
  | [], _, _ => none
  | .gap _ :: is, i, skipped => if i = 0 then some (0, 0) else Engine.deliverable e is (i + 1) skipped
  | .words ws _ :: is, i, skipped =>
    if (e.flow (flowOf ws)).busy then Engine.deliverable e is (i + 1) (skipped + 1) else some (i, skipped)

/-- Items skipped in a queue that delivers nothing (TSK_CNT_FLOW_HOLD). -/
def Engine.skippedAll (e : Engine) (is : List Item) : Nat :=
  (is.filter fun i => match i with | .words ws _ => (e.flow (flowOf ws)).busy | .gap _ => false).length

/-- The items of a queue that still deliver: all of them, or those before a break (R317). -/
def Queue.reachable (q : Queue) : List Item := match q.failed with
  | none => q.items
  | some n => q.items.take n

/-- A core's view of a port (R308); unstaged words read 0. -/
def Engine.view (e : Engine) (core q : Nat) : PortView :=
  Table.getD e.bpl.views (1024 * core + q) { staged := [], popped := [] }

def Engine.putView (e : Engine) (core q : Nat) (v : PortView) : Engine :=
  { e with bpl := { e.bpl with views := Table.put e.bpl.views (1024 * core + q) v } }

/-- A pop answers a core: its buffer takes the words and the load the status word. -/
def Engine.answerPop (e : Engine) (core q : Nat) (ws : List (BitVec 64)) (status : Nat) : Engine :=
  let v := e.view core q
  (e.putView core q { v with popped := ws }).emit (.portData core (BitVec.ofNat 64 status))

/-- Payload words of an item, and whether one read uncorrectable. -/
def Item.payload : Item → List (BitVec 64)
  | .words ws _ => ws
  | .gap n => [BitVec.ofNat 64 n]
def Item.bad : Item → Bool
  | .words _ b => b
  | .gap _ => false

/-- Marks an atomic item in service (R296); a gap marker has no flow (R311). -/
def Engine.serveFlow (e : Engine) (core q : Nat) (item : Item) : Engine :=
  if item.isGap then e
  else
    let f := flowOf item.payload
    let e := e.putFlow f { busy := true, owner := (e.core core).running.getD 0, retry := false, queue := q }
    { e with tsk := { e.tsk with service := Table.put e.tsk.service f (q, item) } }

/-- The first item waiting for re-delivery from a queue whose flow is not BUSY (R297). -/
def Engine.redelivery (e : Engine) (q : Nat) : Option (Nat × Nat × Item) :=
  e.tsk.redeliver.find? fun x => x.2.1 == q && !(e.flow x.1).busy

/-- Tries to deliver one item of an enabled queue to a core; none when nothing is deliverable (R311). -/
def Engine.tryPop (e : Engine) (core q : Nat) : Option Engine :=
  let qu := e.queue q
  match if qu.atomic then e.redelivery q else none with
  | some x =>
    let item := x.2.2
    let e := { e with tsk := { e.tsk with redeliver := e.tsk.redeliver.erase x } }
    let e := ((e.serveFlow core q item).bump Cnt.tskRestart).bump Cnt.bplPop
    some (e.answerPop core q item.payload (popStatus item.payload.length true false true item.bad false false qu.failed.isSome))
  | none =>
    let found := if qu.atomic then e.deliverable qu.reachable 0 0 else if qu.reachable.isEmpty then none else some (0, 0)
    match found with
    | none => none
    | some (i, skipped) =>
      match qu.items[i]? with
      | none => none
      | some item =>
        let e := if skipped > 0 then e.bumpBy Cnt.tskFlowHold skipped else e
        let failed := qu.failed.map fun n => n - 1
        let e := (e.putQueue q { qu with items := qu.items.eraseIdx i, failed := failed }).bump Cnt.bplPop
        let e := if qu.atomic then e.serveFlow core q item else e
        some (e.answerPop core q item.payload
          (popStatus item.payload.length true item.isGap false item.bad false false failed.isSome))

/-- Completes the loads that wait for an item of a queue, longest waiting first (R312). -/
def Engine.serveStalls (e : Engine) (q : Nat) : Engine :=
  let waiting := logicalCores.filterMap fun l => match (e.core l).stalled with
    | some (q', t) => if q' == q then some (t, l) else none
    | none => none
  (sortBy (fun (a b : Nat × Nat) => decide (a.1 < b.1)) waiting).foldl (fun e x =>
    match e.tryPop x.2 q with
    | none => e
    | some e' => e'.putCore x.2 { e'.core x.2 with stalled := none }) e

/-- A push by a unit or a core to an enabled queue (R309, R310). -/
def Engine.pushItem (e : Engine) (q : Nat) (ws : List (BitVec 64)) : Engine :=
  let qu := e.queue q
  if e.accepts qu then
    let e := (e.putQueue q { qu with items := qu.items ++ [.words ws false] }).bump Cnt.bplPush
    let e := if qu.notifyEn then e.postFlag qu.notifyTask qu.notifyFlag else e
    e.serveStalls q
  else
    let items := if qu.failed.isSome then qu.items else dropItem qu.items
    (e.putQueue q { qu with items := items, drops := qu.drops + 1 }).bump Cnt.bplDrop

/-- What a pop does that finds an item or not (R305, R312): an empty DATA queue holds the load. -/
def Engine.popItem (e : Engine) (core q : Nat) : Engine :=
  let qu := e.queue q
  match e.tryPop core q with
  | some e' => e'
  | none =>
    let e := if qu.atomic then e.bumpBy Cnt.tskFlowHold (e.skippedAll qu.reachable) else e
    if qu.failed.isSome then e.answerPop core q [] (popStatus 0 false false false false false false true)
    else if qu.cls = 0 then e.putCore core { e.core core with stalled := some (q, e.now) }
    else e.answerPop core q [] (popStatus 0 false false false false false false false)

/-- RESET of a queue (R317): its cells are freed, with what waits for re-delivery, and it holds one marker of unknown count, which a
held load takes (R312). -/
def Engine.resetQueue (e : Engine) (q : Nat) : Engine :=
  let qu := e.queue q
  if qu.enabled then
    let e := e.putQueue q { qu with items := [.gap 0xFFFFFFFF], failed := none }
    let e : Engine := { e with tsk := { e.tsk with redeliver := e.tsk.redeliver.filter fun x => x.2.1 != q } }
    e.serveStalls q
  else e

/-- A FAILED queue stalls no load: those held end with FAILED (R317). -/
def Engine.endStalls (e : Engine) (q : Nat) : Engine :=
  logicalCores.foldl (fun e l => match (e.core l).stalled with
    | some (q', _) => if q' = q
      then (e.putCore l { e.core l with stalled := none }).answerPop l q [] (popStatus 0 false false false false false false true) else e
    | none => e) e

end Sys2Proof.Machine
end

