-- ==== Sys2Proof/Machine/Wire.lean ====
section
/-!
DEFINITION. Machine/Wire.lean: what an engine sends on its control port: frames, the OPS records a manager owes its group,
and the EVENT mirror (R240, R244, R253, R264).
-/

namespace Sys2Proof.Machine

/-! Roles (Table 10.2). -/

namespace Role

def manager : Nat := 0
def worker : Nat := 1
def standby : Nat := 2
def none : Nat := 3

end Role

/-- No rank, in a 9-bit rank field. -/
def noRank : Nat := 0x1FF

/-- A joined engine that is the manager. -/
def Engine.manages (e : Engine) : Bool := e.mdv.joined && e.mdv.role == Role.manager

/-- An engine that loads or shadows a rank (R279). -/
def Engine.shadows (e : Engine) : Bool := e.flt.shadow.phase == 1 || e.flt.shadow.phase == 2

/-- A joined engine that is not the manager, or one that shadows a rank: it admits and composes nothing (R238, R279). -/
def Engine.follows (e : Engine) : Bool := (e.mdv.joined && e.mdv.role != Role.manager) || e.shadows

/-- A manager of more than one rank. -/
def Engine.leadsGroup (e : Engine) : Bool := e.manages && decide (1 < e.mdv.map.length)

/-- The standby that partners this engine's rank, while it is not fenced. -/
def Engine.partner (e : Engine) : Option Nat :=
  match Table.get? e.mdv.map e.mdv.rank with
  | none => none
  | some x => if e.mdv.joined && x.partner != noRank && !e.mdv.fencedRanks.contains x.partner then some x.partner else none

/-- Ranks whose PARENT is this engine's rank, unless fenced. An engine that shadows forwards nothing. -/
def Engine.children (e : Engine) : List Nat :=
  if e.shadows then [] else (e.mdv.map.filter fun x => x.2.parent == e.mdv.rank && !e.mdv.fencedRanks.contains x.1).map Prod.fst

/-- Ranks whose PARENT is this engine's rank, fenced ones too: an engine that shadows listens there (R280). -/
def Engine.below (e : Engine) : List Nat := (e.mdv.map.filter fun x => x.2.parent == e.mdv.rank).map Prod.fst

/-- Does a rank execute manifests? -/
def Rank.executes (x : Rank) : Bool := x.role != Role.standby

/-! ### The tree (R236, R263) -/

def Engine.rank? (e : Engine) (r : Nat) : Option Rank := Table.get? e.mdv.map r

/-- A rank's parent. -/
def Engine.parentRank (e : Engine) : Nat := ((e.rank? e.mdv.rank).map (·.parent)).getD noRank

/-- The engine's own RING_PEER. -/
def Engine.ringPeer (e : Engine) : Nat := ((e.rank? e.mdv.rank).map (·.ringPeer)).getD noRank

/-- A rank and those above it, up to rank 0, n hops at most. -/
def Engine.pathUp (e : Engine) : Nat → Nat → List Nat
  | 0, _ => []
  | n + 1, r => r :: (match Table.get? e.mdv.map r with
    | some x => if x.parent = noRank then [] else Engine.pathUp e n x.parent
    | none => [])

/-- The neighbour on the tree path to a rank, and whether the way goes up: down once the rank is below. -/
def Engine.hop (e : Engine) (dst : Nat) : Nat × Bool :=
  match (if e.shadows then [] else e.below).find? fun c => (e.pathUp 17 dst).contains c with
  | some c => (c, false)
  | none => (e.parentRank, true)

/-- Ranks below that take what travels down: children not fenced, and those whose node shadows. -/
def Engine.down (e : Engine) : List Nat :=
  if e.shadows then [] else e.below.filter fun r => !e.mdv.fencedRanks.contains r || Table.has e.mdv.guests r

/-! ### Bodies (Table 10.5, R244 to R249, R267, R277, Tables 11.12 to 11.14) -/

def leaseBody (ranks : Nat) : List Byte := leBytes 4 (place ranks 0 10)

def ackBody (cover flags digest waitUs missing : Nat) : List Byte :=
  leBytes 20 (place cover 0 10 + place flags 16 3 + place digest 32 64 + place waitUs 96 32 + place missing 128 9)

/-- SEG_REPORT and COURSE_START: course, BASE_FAILED and the two bitmaps. -/
def segBody (k : Nat) (late failed : Nat) (baseFail : Bool) : List Byte :=
  leBytes 4 (place k 0 6 + place (bit baseFail) 8 1) ++ leBytes 128 late ++ leBytes 128 failed

def pageFailBody (p : Nat) : List Byte := leBytes 4 (place p 0 22)

def fenceBody (at_ reason : Nat) : List Byte := leBytes 8 (place at_ 0 48 + place reason 48 8)

def replyBody (last stat score misses : Nat) : List Byte :=
  leBytes 16 (place last 0 48 + place stat 48 8 + place score 64 32 + place misses 96 32)

def joinBody (check rank : Nat) : List Byte := leBytes 8 (place check 0 32 + place rank 32 9)

def abortBody (step cause origin sequence code : Nat) : List Byte :=
  leBytes 64 (place step 0 48 + place cause 48 8 + place origin 64 9 + place sequence 80 16 + place code 96 32)

def eventBody (kind sequence : Nat) (payload : List Byte) : List Byte := leBytes 4 (place kind 0 8 + place sequence 16 16) ++ payload

def mirrorAckBody (step : Nat) : List Byte := leBytes 8 (place step 0 48)

def healthBody (rank level score kind index : Nat) : List Byte :=
  leBytes 12 (place rank 0 16 + place level 16 8 + place score 32 16 + place kind 48 8 + place index 64 16)

def takeoverBody (rank node epoch step : Nat) : List Byte :=
  leBytes 12 (place rank 0 16 + place node 16 16 + place epoch 32 16 + place step 48 48)

def opsBody (records : List (BitVec 256)) : List Byte := records.flatMap fun r => leBytes 32 r.toNat

def tokensBody (k count first : Nat) (entries guesses : List Nat) : List Byte :=
  leBytes 8 (place k 0 8 + place count 16 16 + place first 32 32) ++ entries.flatMap (leBytes 4) ++ guesses.flatMap (leBytes 16)

/-- A partial record: 48 B, or 568 B when full. -/
def PartialRec.bytes (p : PartialRec) : List Byte :=
  let seven := fun (l : List (BitVec 32 × BitVec 24)) (n : Nat) => (List.range n).flatMap fun i => match l[i]? with
    | some x => leBytes 4 x.1.toNat ++ leBytes 3 x.2.toNat
    | none => leBytes 7 0
  leBytes 4 (place p.draw.toNat 0 17 + place (bit p.full) 17 1 + place (bit p.sat) 18 1) ++ leBytes 4 p.bestY.toNat ++ leBytes 4 p.bestQ.toNat ++
    leBytes 3 p.bestId.toNat ++ leBytes 1 p.guess.length ++ seven p.guess 4 ++ leBytes 4 0 ++
    if p.full then seven p.heap 64 ++ leBytes 72 p.acc else []

def partialsBody (k cover first : Nat) (records : List PartialRec) : List Byte :=
  leBytes 8 (place k 0 8 + place cover 16 10 + place first 32 17) ++ records.flatMap PartialRec.bytes

def shadowAckBody (step r : Nat) (v : BitVec 64 × BitVec 64 × BitVec 64) : List Byte :=
  leBytes 32 (place step 0 48 + place r 48 9 + place v.1.toNat 64 64 + place v.2.1.toNat 128 64 + place v.2.2.toNat 192 64)

def shadowReqBody (rank role node check : Nat) : List Byte :=
  leBytes 12 (place rank 0 9 + place role 16 8 + place node 32 16 + place check 64 32)

/-! ### Frames (R240) -/

/-- The virtual channel of a message; JOURNAL and STATE change theirs with their direction (Table 10.5). -/
def channelOf (type : Nat) (up : Bool) : Nat :=
  match type with
  | 0x10 | 0x11 | 0x12 => 1
  | 0x13 | 0x15 => if up then 2 else 1
  | 0x18 => 2
  | _ => 0

/-- A body in pieces of 4,096 B, n of them full; a message without a body is one frame. -/
def pieces : Nat → List Byte → List (List Byte)
  | 0, b => [b]
  | n + 1, b => if b.length ≤ 4096 then [b] else b.take 4096 :: pieces n (b.drop 4096)

/-- One frame: its 16 B header, its piece of the body, and the CRC-32C over both. -/
def linkFrame (type : Nat) (up last : Bool) (src dst step epoch : Nat) (piece : List Byte) : List Byte :=
  let h := leBytes 16 (place type 0 8 + place (bit up) 8 1 + place (bit last) 9 1 + place piece.length 16 13 + place src 32 9 + place dst 48 16 +
    place step 64 48 + place epoch 112 16)
  h ++ piece ++ leBytes 4 (crc32c (h ++ piece)).toNat

/-- The frames of a message, in order. -/
def messageFrames (type : Nat) (up : Bool) (src dst step epoch : Nat) (body : List Byte) : List (List Byte) :=
  let ps := pieces (body.length / 4096) body
  ps.zipIdx.map fun x => linkFrame type up (x.2 + 1 == ps.length) src dst step epoch x.1

/-- The GROUP_EPOCH of messages for a step (R253). -/
def Engine.epochFor (e : Engine) (step : Nat) : Nat := if step ≤ e.mdv.epochStep then e.mdv.oldEpoch else e.mdv.epoch

/-- The nodes behind a neighbouring rank. One that shadows below shares the rank of its map entry with the engine that serves it: mirrors, loads
and grants that come this way are the shadow's, and it takes what travels down and the fences as a member does (R280, log entry 52). -/
def Engine.nodesOf (e : Engine) (type peer : Nat) : List Nat :=
  let own := if e.mdv.fencedRanks.contains peer then [] else ((e.rank? peer).map (·.node)).toList
  match Table.get? e.mdv.guests peer with
  | none => own
  | some g => if type = 0x13 || type = 0x15 || type = 0x17 then [g] else own ++ [g]

/-- Puts a message on the links to some neighbours: frame by frame, one neighbour after another in rank order (R246). Each engine writes its own
rank into SRC (R263). -/
def Engine.onLinks (e : Engine) (peers : List Nat) (up : Bool) (type dst step : Nat) (body : List Byte) : Engine :=
  let nodes := peers.flatMap (e.nodesOf type)
  let out := (messageFrames type up e.mdv.rank dst step (e.epochFor step) body).flatMap fun b =>
    nodes.map fun n => Output.frame n (channelOf type up) e.mdv.groupId b
  out.foldl Engine.emit e

/-- A message on its way: to every rank below for DST 0xFFFF, else along the tree path (R263). -/
def Engine.post (e : Engine) (type dst step : Nat) (body : List Byte) : Engine :=
  if dst = 0xFFFF then e.onLinks e.down false type dst step body
  else
    let (peer, up) := e.hop dst
    if peer = noRank then e else e.onLinks [peer] up type dst step body

/-- A fenced engine sends nothing but PROBE_REPLY (R254), and an engine in no group sends nothing. -/
def Engine.maySend (e : Engine) (type : Nat) : Bool := e.mdv.joined && (!e.mdv.fenced || type == 0x08)

/-- Sends a message: its type, destination, step and body. -/
def Engine.send (e : Engine) (type dst step : Nat) (body : List Byte) : Engine :=
  if e.maySend type then e.post type dst step body else e

/-- A neighbour named in DST, where the engine has one and the message did not come from it. -/
def Engine.toward (e : Engine) (peer from_ : Nat) (type step : Nat) (body : List Byte) : Engine :=
  if peer = noRank || peer = from_ then e else e.onLinks [peer] (peer == e.parentRank) type peer step body

/-- A flood goes over every link but the one it came by: children, parent and closure (R251, R267). -/
def Engine.flood (e : Engine) (type step : Nat) (body : List Byte) (from_ : Nat) : Engine :=
  if !e.maySend type then e
  else
    let e := e.onLinks (e.down.filter (· != from_)) false type 0xFFFF step body
    (e.toward e.parentRank from_ type step body).toward e.ringPeer from_ type step body

/-- A record owed to the group's replicas (R244). -/
def Engine.ops (e : Engine) (record : Nat) : Engine :=
  if e.leadsGroup then { e with mdv := { e.mdv with opsDue := e.mdv.opsDue ++ [BitVec.ofNat 256 record] } } else e

/-- Does this manager mirror its events to a partner (R264)? -/
def Engine.mirrors (e : Engine) : Bool := e.manages && e.partner.isSome && e.flag Fld.fltCtlMirrorEn

/-- Mirrors an effect: EVENT, with kind, sequence and payload (R264). -/
def Engine.mirrorEvent (e : Engine) (kind : Nat) (payload : List Byte) : Engine :=
  if e.mirrors then
    let e := e.send 0x0B (e.partner.getD noRank) e.stepNo (eventBody kind e.flt.eventSeq payload)
    { e with flt := { e.flt with eventSeq := (e.flt.eventSeq + 1) % 65536 } }
  else e

/-! EVENT kinds beside those of Table 11.3, to which the spec gives no number (log entry 24). -/

namespace Mirror

def keepalive : Nat := 0x00
def descriptor : Nat := 0x10
def rafter : Nat := 0x11
def tenant : Nat := 0x12

end Mirror

end Sys2Proof.Machine
end

