-- ==== Sys2Proof/Machine/Records.lean ====
section
/-!
DEFINITION. Machine/Records.lean: ring context fields, the records of the event rings and the space they stand in
(R33, R34, R48 to R54).
-/

namespace Sys2Proof.Machine

/-! ### Fields of the 64 B structures -/

/-- Field of w bits whose bit 0 is bit `lo` of byte `b` of a 64 B structure. -/
def f512 (x : BitVec 512) (b lo w : Nat) : Nat := bitsOf x.toNat (8 * b + lo) w

/-! Submission ring context entry (Table 2.1). -/

def SubRing.log2 (r : SubRing) : Nat := f512 r.ctx 8 0 5
def SubRing.v2 (r : SubRing) : Bool := f512 r.ctx 8 5 1 == 1
def SubRing.mgmt (r : SubRing) : Bool := f512 r.ctx 8 6 1 == 1
def SubRing.coherent (r : SubRing) : Bool := f512 r.ctx 9 1 1 == 1
def SubRing.lock (r : SubRing) : Bool := f512 r.ctx 9 2 1 == 1
def SubRing.ackRing (r : SubRing) : Nat := f512 r.ctx 10 0 12
def SubRing.tenant (r : SubRing) : Nat := f512 r.ctx 12 0 16
def SubRing.headWbAddr (r : SubRing) : Nat := f512 r.ctx 16 0 64
def SubRing.base (r : SubRing) : Nat := f512 r.ctx 0 0 64
def SubRing.paramBase (r : SubRing) : Nat := f512 r.ctx 32 0 64
def SubRing.paramCount (r : SubRing) : Nat := f512 r.ctx 40 0 16
def SubRing.size (r : SubRing) : Nat := 2 ^ r.log2

/-- Bytes of one descriptor of the ring (R37, R38). -/
def SubRing.slotBytes (r : SubRing) : Nat := if r.v2 then 64 else 32

/-- A submission ring that has never been enabled. -/
def SubRing.off : SubRing :=
  { enabled := false, ctx := 0, head := 0, tail := 0, fetched := 0, flights := [], consumed := 0, unacked := [], arrivals := [],
    closing := false, headWb := 0 }

def Engine.sub (e : Engine) (i : Nat) : SubRing := Table.getD e.hru.subs i .off

def Engine.putSub (e : Engine) (i : Nat) (r : SubRing) : Engine :=
  { e with hru := { e.hru with subs := Table.put e.hru.subs i r } }

/-! Event ring context entry (Table 2.2). -/

def EvtRing.log2 (r : EvtRing) : Nat := f512 r.ctx 8 0 5
def EvtRing.coherent (r : EvtRing) : Bool := f512 r.ctx 9 1 1 == 1
def EvtRing.lock (r : EvtRing) : Bool := f512 r.ctx 9 2 1 == 1
def EvtRing.vector (r : EvtRing) : Nat := f512 r.ctx 10 0 6
def EvtRing.modCount (r : EvtRing) : Nat := f512 r.ctx 12 0 16
def EvtRing.modTime (r : EvtRing) : Nat := f512 r.ctx 14 0 16
def EvtRing.tailWbAddr (r : EvtRing) : Nat := f512 r.ctx 16 0 64
def EvtRing.tenant (r : EvtRing) : Nat := f512 r.ctx 32 0 16
def EvtRing.size (r : EvtRing) : Nat := 2 ^ r.log2

/-- An event ring that has never been enabled. -/
def EvtRing.off : EvtRing :=
  { enabled := false, ctx := 0, tail := 0, hostHead := 0, phase := true, bound := 0, ackRes := 0, tokRes := 0,
    stalled := false, unsignaled := 0, firstUnsig := none }

def Engine.evt (e : Engine) (i : Nat) : EvtRing := Table.getD e.hru.evts i .off

def Engine.putEvt (e : Engine) (i : Nat) (r : EvtRing) : Engine :=
  { e with hru := { e.hru with evts := Table.put e.hru.evts i r } }

/-- Records written and not yet consumed by the host. -/
def EvtRing.unread (r : EvtRing) : Nat := (r.tail + r.size - r.hostHead) % r.size

/-- Free space of an event ring (R53, rule 4): records that wait for write credit or the event mirror hold theirs. -/
def Engine.ringFree (e : Engine) (i : Nat) : Nat :=
  let r := e.evt i
  let waiting := (e.hru.unwritten.filter fun x => x.ring == i).length + (e.hru.gated.filter fun x => x.record.ring == i).length
  r.size - 1 - r.unread - r.bound - r.ackRes - r.tokRes - waiting

/-! ### Writing records -/

/-- Raises a ring's vector. -/
def Engine.raiseRing (e : Engine) (i : Nat) : Engine :=
  (e.putEvt i { e.evt i with unsignaled := 0, firstUnsig := none }).emit (.irq (e.evt i).vector)

/-- The HRU marks the last position whose token event it has written (R56, R66). -/
def Engine.markDelivered (e : Engine) (x : EventRecord) : Engine :=
  let handle := bitsOf x.body.toNat 0 32
  let mark := fun (r : Rafter) => if r.handle.toNat = handle then { r with deliveredPos := bitsOf x.body.toNat 32 24 } else r
  if x.rtype = 2 then { e with rafter := Table.modify e.rafter (bitsOf handle 0 18) mark } else e

/-- Writes one record (R48, R54): the record, then TAIL_WB, then the vector when moderation is satisfied. A disabled ring
keeps no records (R35): the loss is logged. -/
def Engine.putRecord (e : Engine) (x : EventRecord) : Engine :=
  let r := e.evt x.ring
  if !r.enabled then e.log Ev.recordDropped [x.ring, x.rtype]
  else
    let control := place x.rtype 0 4 + place (bit r.phase) 31 1
    let record := BitVec.ofNat 256 (x.body.toNat + control * 2 ^ 224)
    let e := (e.emit (.hostRecord x.ring r.tail record)).markDelivered x
    let tail := (r.tail + 1) % r.size
    let e := e.putEvt x.ring { r with tail := tail, phase := if tail = 0 then !r.phase else r.phase,
                                      unsignaled := r.unsignaled + 1, firstUnsig := some (r.firstUnsig.getD e.us) }
    let e := if r.tailWbAddr = 0 then e else e.emit (.hostWrite (BitVec.ofNat 64 r.tailWbAddr) 4 (BitVec.ofNat 2560 tail))
    if r.modCount ≤ r.unsignaled + 1 then e.raiseRing x.ring else e

/-- Writes a record, or keeps it staged while write credit is absent (R61). After FATAL nothing is written (R339). -/
def Engine.passRecord (e : Engine) (x : EventRecord) : Engine :=
  if e.err.fatal then e
  else if e.hru.credit then e.putRecord x
  else { e with hru := { e.hru with unwritten := e.hru.unwritten ++ [x] } }

/-- Is the EVENT before the next one still unacknowledged? Sequence numbers are 16 bits. -/
def Engine.eventOpen (e : Engine) : Bool := e.flt.eventSeq != e.flt.gateAcked

/-- A record ready to be written. With ACK_GATE = 1, a mirroring manager holds an acknowledgement or a completion record until
the partner has acknowledged the EVENT of its effect, the last one sent (R265); what follows it on its ring waits too. -/
def Engine.writeRecord (e : Engine) (x : EventRecord) : Engine :=
  let behind := e.hru.gated.any fun g => g.record.ring == x.ring
  if behind || (e.mirrors && e.flag Fld.fltCtlAckGate && (x.rtype == 1 || x.rtype == 4) && e.eventOpen) then
    { e with hru := { e.hru with gated := e.hru.gated ++ [{ sequence := (e.flt.eventSeq + 65535) % 65536, record := x }] } }
  else e.passRecord x

/-- The body of an acknowledgement (Table 2.8). -/
def ackBytes (handle slot ring tag status opcode step qbytes : Nat) : BitVec 224 :=
  BitVec.ofNat 224 (place handle 0 32 + place slot 32 16 + place ring 48 12 + place tag 64 64 + place status 128 8 +
    place opcode 136 8 + place step 160 32 + place qbytes 192 32)

/-- The body of a token event (Table 2.9); flags are LATE, FINAL, REPLAYED_SUPPRESSED, LOGPROB_VALID, BASE_ONLY and
MIXED_VERSION from bit 0 on. -/
def tokenBytes (handle pos token reason accepted flags : Nat) (logprob : BitVec 32) (step tag : Nat) : BitVec 224 :=
  BitVec.ofNat 224 (place handle 0 32 + place pos 32 32 + place token 64 24 + place reason 88 3 + place accepted 91 3 +
    place flags 96 32 + place logprob.toNat 128 32 + place step 160 32 + place tag 192 32)

/-- One half of an alternates record (R51): token, rank and VALID, and the log-probability. -/
def altWord (alts : List (Nat × BitVec 32)) (k : Nat) : Nat :=
  match alts[k]? with
  | some (t, lp) => place t 0 24 + place k 24 3 + place 1 27 1 + place lp.toNat 32 32
  | none => 0

/-- The body of the alternates record that holds ranks 2 j and 2 j + 1 (R51). -/
def altBytes (handle pos j : Nat) (alts : List (Nat × BitVec 32)) : BitVec 224 :=
  BitVec.ofNat 224 (place handle 0 32 + place pos 32 32 + altWord alts (2 * j) * 2 ^ 64 + altWord alts (2 * j + 1) * 2 ^ 128)

/-- The body of a completion record (Table 2.10). -/
def completionBytes (handle pos tag status reason step delivered : Nat) : BitVec 224 :=
  BitVec.ofNat 224 (place handle 0 32 + place pos 32 32 + place tag 64 64 + place status 128 8 + place reason 136 8 +
    place step 160 32 + place delivered 192 32)

/-! ### Statuses and reasons (Table 3.5) -/

namespace Status

def ok : Nat := 0x00
def cancelled : Nat := 0x01
def deadline : Nat := 0x02
def quota : Nat := 0x03
def noFit : Nat := 0x04
def additionMissing : Nat := 0x05
def tierFailed : Nat := 0x06
def replayed : Nat := 0x07
def fenced : Nat := 0x08
def length : Nat := 0x09
def malformed : Nat := 0x0A
def layout : Nat := 0x0B
def stale : Nat := 0x0C

end Status

namespace Reason

def none : Nat := 0
def stopToken : Nat := 1
def length : Nat := 2
def cancelled : Nat := 3
def deadline : Nat := 4
def error : Nat := 5

end Reason

/-! ### Descriptor headers (R37, R38) -/

/-- Opcode of a descriptor. -/
def Staged.opcode (d : Staged) : Nat := f512 d.desc 0 0 8

/-- Handle field: bytes 4 to 7, but for the v1 forms without one. -/
def Staged.handle (d : Staged) (v2 : Bool) : Nat :=
  if v2 then f512 d.desc 4 0 32 else if d.opcode = 3 then f512 d.desc 4 0 32 else 0xFFFFFFFF

/-- User tag. -/
def Staged.tag (d : Staged) (v2 : Bool) : Nat := if v2 then f512 d.desc 8 0 64 else f512 d.desc 16 0 64

/-- Takes a staged descriptor out of the staging store. -/
def Engine.unstage (e : Engine) (ring pos : Nat) : Engine :=
  { e with hru := { e.hru with staging := e.hru.staging.filter fun d => !(d.ring == ring && d.pos == pos) } }

/-- The staged descriptor of a ring that was consumed as the pos-th. -/
def Engine.staged? (e : Engine) (ring pos : Nat) : Option Staged :=
  e.hru.staging.find? fun d => d.ring == ring && d.pos == pos

/-- The descriptor of a ring's slot whose reads are out. -/
def Engine.reading? (e : Engine) (ring slot : Nat) : Option Staged :=
  e.hru.staging.find? fun d => d.ring == ring && d.slot == slot && d.reads == .waiting

/-- Replaces a staged descriptor. -/
def Engine.restage (e : Engine) (d : Staged) : Engine :=
  { e with hru := { e.hru with staging := e.hru.staging.map fun x => if x.ring == d.ring && x.pos == d.pos then d else x } }

/-- Must the descriptor wait for every earlier one of its ring to be acknowledged (R39, R55)? -/
def Staged.ordered (d : Staged) (r : SubRing) : Bool := r.v2 && (f512 d.desc 1 0 1 == 1 || d.opcode == 0x3F)

/-- Is it this descriptor's turn, by ORDERED? -/
def Engine.inOrder (e : Engine) (d : Staged) : Bool :=
  let r := e.sub d.ring
  !d.ordered r || r.unacked.head? == some d.pos

/-- The undecoded descriptors of a ring. -/
def Engine.undecoded (e : Engine) (i : Nat) : List Staged := e.hru.staging.filter fun d => d.ring == i && d.phase == .fresh

/-- A disable is complete once its reads have returned and their descriptors are decoded (R35). -/
def Engine.finishClose (e : Engine) (i : Nat) : Engine :=
  let r := e.sub i
  if r.closing && r.flights.isEmpty && (e.undecoded i).isEmpty then e.putSub i { r with closing := false } else e

/-- Acknowledges one staged descriptor (R49): its reserved entry is used, its staging slot and credit return. -/
def Engine.ackOne (e : Engine) (d : Staged) (handle status qbytes : Nat) : Engine :=
  let r := e.sub d.ring
  let e := e.mirrorEvent Mirror.descriptor (leBytes 2 d.ring ++ leBytes 2 d.slot)
  let e := if status = Status.malformed then e.bump Cnt.hruMalformed else e
  let ev := e.evt r.ackRing
  let e := e.putEvt r.ackRing { ev with ackRes := ev.ackRes - 1 }
  let e := e.putSub d.ring { r with unacked := r.unacked.erase d.pos }
  (e.unstage d.ring d.pos).writeRecord
    { ring := r.ackRing, rtype := 1, body := ackBytes handle d.slot d.ring (d.tag r.v2) status d.opcode e.stepNo qbytes }

/-- Completes MALFORMED each ORDERED descriptor of a ring that has failed already and waited for the earlier ones only (R55). -/
def Engine.settleFailed (i : Nat) : Nat → Engine → Engine
  | 0, e => e
  | n + 1, e =>
    match (e.sub i).unacked.head?.bind (e.staged? i) with
    | none => e
    | some d =>
      if d.reads == .failed then
        Engine.settleFailed i n (e.ackOne d (d.handle (e.sub i).v2) Status.malformed 0)
      else e

/-- Acknowledges a staged descriptor, and the failed ORDERED ones whose turn that makes. -/
def Engine.ackWith (e : Engine) (d : Staged) (handle status qbytes : Nat) : Engine :=
  let e := e.ackOne d handle status qbytes
  (Engine.settleFailed d.ring (e.sub d.ring).unacked.length e).finishClose d.ring

/-- Acknowledges with the descriptor's own handle. -/
def Engine.ack (e : Engine) (d : Staged) (status : Nat) : Engine :=
  e.ackWith d (d.handle (e.sub d.ring).v2) status 0

/-- A descriptor that checks 1 to 7 fail outside its turn of decoding: it completes MALFORMED at once, an ORDERED one once the earlier
ones are acknowledged (R55). -/
def Engine.failStaged (e : Engine) (d : Staged) : Engine :=
  if e.inOrder d then e.ack d Status.malformed else e.restage { d with reads := .failed }

/-- Acknowledges the staged descriptor of a ring's place, where it still waits. -/
def Engine.ackAt (e : Engine) (at_ : Option (Nat × Nat)) (status : Nat) : Engine :=
  match at_ with
  | none => e
  | some (ring, pos) => match e.staged? ring pos with
    | none => e
    | some d => e.ack d status

/-- Acknowledges every waiting descriptor that names a handle with an opcode (R74, R81). -/
def Engine.ackWaiting (e : Engine) (handle : Handle) (opcode status : Nat) : Engine :=
  (e.hru.staging.filter fun d => d.phase == .waiting && d.opcode == opcode && d.handle true == handle.toNat).foldl
    (fun e d => e.ack d status) e

end Sys2Proof.Machine
end

