-- ==== Sys2Proof/Machine/Request.lean ====
section
/-!
DEFINITION. Machine/Request.lean: the rafter table: handles, states, ready lists, the stop vector, deadlines and the
decision that a request ends (chapter 3).
-/

namespace Sys2Proof.Machine

/-! ### Entries and handles -/

/-- Codes of the request states (Table 3.9). -/
def ReqState.code : ReqState → Nat
  | .free => 0 | .admitting => 1 | .queued => 2 | .prefill => 3 | .decode => 4 | .parked => 5 | .spilled => 6
  | .restoring => 7 | .cancelling => 8 | .retiring => 9 | .fenced => 10

def Engine.req? (e : Engine) (slot : Nat) : Option Rafter := Table.get? e.rafter slot

def Engine.putReq (e : Engine) (slot : Nat) (r : Rafter) : Engine := { e with rafter := Table.put e.rafter slot r }

def Engine.modReq (e : Engine) (slot : Nat) (f : Rafter → Rafter) : Engine :=
  { e with rafter := Table.modify e.rafter slot f }

/-- The state of a slot; one without an entry is FREE. -/
def Engine.stateOf (e : Engine) (slot : Nat) : ReqState := ((e.req? slot).map (·.state)).getD .free

/-- Generation of a slot (R63). -/
def Engine.gen (e : Engine) (slot : Nat) : Nat := Table.getD e.gens slot 0

/-- The handle a slot issues now (R63). -/
def Engine.handleOf (e : Engine) (slot : Nat) : Handle := BitVec.ofNat 32 (place (e.gen slot) 18 14 + place slot 0 18)

/-- The generation after a slot is freed: modulo 16,384, but slot 0x3_FFFF steps from 0x3FFE to 0 (R63, R3). -/
def nextGen (slot gen : Nat) : Nat :=
  if slot = 0x3FFFF && gen = 0x3FFE then 0 else (gen + 1) % 16384

/-- The pad value (R209). -/
def pad : Nat := 0xFFFFFF

/-- The slot a handle names. -/
def slotOf (h : Handle) : Nat := bitsOf h.toNat 0 18

/-- Check 6 of Table 2.7: the slot is neither FREE nor ADMITTING and the generation agrees (R65). -/
def Engine.lookup (e : Engine) (h : Handle) : Option Rafter :=
  match e.req? (slotOf h) with
  | none => none
  | some r => if r.handle == h && r.state != .free && r.state != .admitting then some r else none

/-- The token at an absolute position, where the engine holds it. -/
def Rafter.tokenAt (r : Rafter) (p : Nat) : Option Nat :=
  (Table.get? r.later p).orElse fun _ => if p < r.pfxLen then none else r.listTokens[p - r.pfxLen]?

/-- The request of a slot, or on a worker or a standby its replica (R239, R244). -/
def Engine.anyReq? (e : Engine) (slot : Nat) : Option Rafter := (e.req? slot).orElse fun _ => Table.get? e.mdv.replicas slot

/-- Changes the request of a slot, or its replica. -/
def Engine.modAny (e : Engine) (slot : Nat) (f : Rafter → Rafter) : Engine :=
  if Table.has e.rafter slot then e.modReq slot f
  else { e with mdv := { e.mdv with replicas := Table.modify e.mdv.replicas slot f } }

/-! ### Ready lists (R80) -/

def Engine.readyList (e : Engine) (cls : Nat) : List Nat :=
  match cls with | 0 => e.ready0 | 1 => e.ready1 | _ => e.ready2

def Engine.setReady (e : Engine) (cls : Nat) (l : List Nat) : Engine :=
  match cls with
  | 0 => { e with ready0 := l } | 1 => { e with ready1 := l } | _ => { e with ready2 := l }

def Engine.spliceList (e : Engine) (cls : Nat) : List Nat :=
  match cls with | 0 => e.splice0 | 1 => e.splice1 | _ => e.splice2

def Engine.setSplice (e : Engine) (cls : Nat) (l : List Nat) : Engine :=
  match cls with
  | 0 => { e with splice0 := l } | 1 => { e with splice1 := l } | _ => { e with splice2 := l }

/-- Order of a ready list: PRIORITY descending, ADMIT_STEP ascending, slot ascending. -/
def Engine.readyOrder (e : Engine) (a b : Nat) : Bool :=
  match e.req? a, e.req? b with
  | some x, some y => decide (y.priority < x.priority) || (x.priority == y.priority &&
      (decide (x.admitStep < y.admitStep) || (x.admitStep == y.admitStep && decide (a < b))))
  | _, _ => decide (a < b)

/-- Links a request into its ready list (R80). -/
def Engine.link (e : Engine) (slot : Nat) : Engine :=
  match e.req? slot with
  | none => e
  | some r =>
    let l := (e.readyList r.cls).filter (· != slot)
    e.setReady r.cls (insertBy e.readyOrder slot l)

/-- Puts a request on its class's pending list, spliced at effect 5. -/
def Engine.pend (e : Engine) (slot : Nat) : Engine :=
  match e.req? slot with
  | none => e
  | some r => e.setSplice r.cls ((e.spliceList r.cls).filter (· != slot) ++ [slot])

/-- Takes a request out of every ready and pending list. -/
def Engine.unlink (e : Engine) (slot : Nat) : Engine :=
  { e with ready0 := e.ready0.filter (· != slot), ready1 := e.ready1.filter (· != slot), ready2 := e.ready2.filter (· != slot),
           splice0 := e.splice0.filter (· != slot), splice1 := e.splice1.filter (· != slot),
           splice2 := e.splice2.filter (· != slot) }

/-- Removes a request from the unsealed draft (R23, R58). -/
def Engine.dropDraft (e : Engine) (slot : Nat) : Engine :=
  { e with ylm := { e.ylm with draft := e.ylm.draft.map fun y => { y with members := y.members.filter fun m => m.slot != slot } } }

/-- Is the request a member of a yealm? -/
def Yealm.holds (y : Yealm) (slot : Nat) : Bool := y.members.any fun m => m.slot == slot

/-- A member of the sealed yealm not yet in compute (R25). -/
def Engine.inNext (e : Engine) (slot : Nat) : Bool := (e.ylm.next.map fun y => y.holds slot).getD false

/-! ### Ending (R77, R78, R337) -/

/-- States in which a request runs or waits to run. -/
def ReqState.running : ReqState → Bool
  | .queued => true | .prefill => true | .decode => true
  | _ => false

/-- States that hold a live request's cache below or on its way up. -/
def ReqState.paused : ReqState → Bool
  | .parked => true | .spilled => true | .restoring => true
  | _ => false

/-- The request's end is decided: it is RETIRING with a status and reason, and leaves every list and the draft. -/
def Engine.endRequest (e : Engine) (slot status reason : Nat) : Engine :=
  ((e.modReq slot fun r => { r with state := .retiring, pendStatus := status, pendReason := reason }).unlink slot).dropDraft slot

/-- A REQUEST-class error (R337): nothing for a request that is FREE, RETIRING or CANCELLING. A FENCED one will leave for
RETIRING, unless it is to leave for CANCELLING. -/
def Engine.failRequest (e : Engine) (slot status : Nat) : Engine :=
  match e.req? slot with
  | none => e
  | some r =>
    if r.state.running || r.state.paused then e.endRequest slot status Reason.error
    else if r.state == .fenced && (r.fencedFrom.running || r.fencedFrom.paused) && !e.stop.contains slot then
      e.putReq slot { r with fencedFrom := .retiring, pendStatus := status, pendReason := Reason.error }
    else e

/-! ### The stop vector (R57, R58) -/

/-- A stop bit is applied: a live request enters CANCELLING; one already ending is unchanged. -/
def Engine.applyStop (e : Engine) (slot : Nat) : Engine :=
  let e := { e with stop := insertNat slot e.stop }
  match e.req? slot with
  | none => e
  | some r =>
    if r.state.running || r.state.paused then
      (e.putReq slot { r with state := .cancelling, returnState := r.state, stopSeen := true }).dropDraft slot
    else e

/-- A stop bit is cleared: a request in CANCELLING returns to the state it left (Table 3.3); a RELEASE taken there
makes that RETIRING with OK and no reason. -/
def Engine.clearStop (e : Engine) (slot : Nat) : Engine :=
  let e := { e with stop := e.stop.filter (· != slot) }
  match e.req? slot with
  | none => e
  | some r =>
    if r.state == .cancelling then
      if r.returnState == .retiring then
        (e.putReq slot { r with stopSeen := false }).endRequest slot Status.ok Reason.none
      else e.putReq slot { r with state := r.returnState, stopSeen := false }
    else e

/-! ### Deadlines (R75, R76, R77) -/

/-- A deadline passed at a comparison value; 0 is none. -/
def passed (deadline cmp : Nat) : Bool := deadline != 0 && decide (deadline < cmp)

/-- The deadline of a request's active set that has passed: 0 TTFT, 1 inter-token, 2 total (R76). TTFT is checked
until FIRST_EMITTED and the inter-token deadline after it. -/
def Rafter.passedDeadline (r : Rafter) (cmp : Nat) : Option Nat :=
  if !r.firstEmitted && passed r.ttft cmp then some 0
  else if r.firstEmitted && passed r.nextDl cmp then some 1
  else if passed r.total cmp then some 2
  else none

/-- The nearest deadline of the active set, 0 for none: what SB mirrors into the slot's summary (R67). -/
def Rafter.nearest (r : Rafter) : Nat :=
  ([if r.firstEmitted then r.nextDl else r.ttft, r.total].filter (· != 0)).foldl (fun a b => if a = 0 then b else min a b) 0

/-- The 16 B summary of a slot (R67): a view of its entry, written in the same SB cycle. -/
structure Summary where
  state    : ReqState
  cls      : Nat
  priority : Nat
  generation : Nat
  deadline : Nat
  deriving DecidableEq, Repr

/-- The summary that the ready lists, the deadline tick and the composer read. -/
def Engine.summary (e : Engine) (slot : Nat) : Option Summary :=
  (e.req? slot).map fun r =>
    { state := r.state, cls := r.cls, priority := r.priority, generation := e.gen slot,
      deadline := if r.state == .parked || r.state == .spilled then r.parkExpiry else r.nearest }

/-- A deadline's counter. -/
def deadlineCounter : Nat → Nat
  | 0 => Cnt.sbDlTtft
  | 1 => Cnt.sbDlItl
  | _ => Cnt.sbDlTotal

/-- Has a timer of the request passed that the next tick acts on? -/
def Engine.timerDue (e : Engine) (slot : Nat) (r : Rafter) : Bool :=
  let parked := r.state == .parked || r.state == .spilled
  e.flag Fld.sbCtlDeadlineEn && (parked || r.state.running || r.state == .restoring) &&
    passed (((e.summary slot).map (·.deadline)).getD 0) e.us

/-- Notes a host action on a request whose timer has passed and whose tick is still to come (R81; log entry 48). -/
def Engine.hostActs (e : Engine) (slot : Nat) : Engine :=
  match e.req? slot with
  | none => e
  | some r =>
    let e : Engine := if e.actAt = e.now then e else { e with actAt := e.now, acted := [] }
    if e.timerDue slot r then { e with acted := insertNat slot e.acted } else e

/-- A tick finds what host actions of its SB cycle came before it: each is one coincidence (R81). -/
def Engine.coincide (e : Engine) (slots : List Nat) : Engine :=
  if e.actAt = e.now then
    let met := e.acted.filter slots.contains
    ({ e with acted := e.acted.filter fun s => !slots.contains s } : Engine).bumpBy Cnt.sbCoincide met.length
  else e

/-- The tick's action on one slot that runs or is restoring (R77). -/
def Engine.expireDeadline (e : Engine) (slot : Nat) : Engine :=
  match e.req? slot with
  | none => e
  | some r =>
    if e.flag Fld.sbCtlDeadlineEn && (r.state.running || r.state == .restoring) then
      match r.passedDeadline e.us with
      | none => e
      | some k => (e.endRequest slot Status.deadline Reason.deadline).bump (deadlineCounter k)
    else e

/-- The tick's action on a parked request (R76). -/
def Engine.expirePark (e : Engine) (slot : Nat) : Engine :=
  match e.req? slot with
  | none => e
  | some r =>
    if e.flag Fld.sbCtlDeadlineEn && (r.state == .parked || r.state == .spilled) && passed r.parkExpiry e.us then
      (e.endRequest slot Status.deadline Reason.deadline).bump Cnt.sbParkExpired
    else e

/-! ### The entry's image (Table 3.1, R82) -/

/-- FLAGS (R66). -/
def Rafter.flags (r : Rafter) : Nat :=
  place (bit r.srcKind) 0 1 + place (bit r.stopSeen) 1 1 + place (bit r.pausePending) 2 1 + place (bit r.rebindPending) 3 1 +
    place (bit r.mixedVersion) 4 1 + place (bit r.firstEmitted) 5 1 + place (bit r.suppressNote) 6 1 + place (bit r.bindCurrent) 7 1

/-- Bytes 0 to 127 of the entry. -/
def Rafter.imageLow (r : Rafter) : Nat :=
  place r.handle.toNat 0 32 + place r.tenant 32 16 + place r.family 48 8 + place r.state.code 56 4 + place r.cls 60 2 +
    place r.priority 64 5 + place (bit r.addValid) 69 1 + place (bit r.pfxValid) 70 1 + place (bit r.deliverLate) 71 1 +
    place r.version 72 8 + place r.addition 80 16 + place r.pfx 96 20 + place r.eventRing 116 12 + place r.seed.toNat 128 64 +
    place r.pfxLen 192 24 + place r.returnState.code 216 4 + place r.inputEnd 224 24 + place r.flags 248 8 +
    place r.seqEnd 256 24 + place r.pendStatus 280 8 + place r.kvEnd 288 24 + place r.pendReason 312 3 +
    place r.generated 320 24 + place r.deliveredPos 352 24 + place r.maxNew 384 32 + place r.maxContext 416 32 +
    place r.ttft 448 48 + place r.nextDl 496 48 + place r.total 544 48 + place r.parkExpiry 592 48 + place r.itlUs 640 18 +
    place r.pageHead 672 22 + place r.pageCount 704 20 + place r.penOvfHead 736 17 + place (bit r.penOvfValid) 753 1 +
    place r.paramSrc.toNat 768 64 + place r.userTag.toNat 832 64 + place r.admitStep 896 48 + place r.lastServed 944 48 +
    place r.replaySeq 992 32

/-- The 256 B entry as a number. -/
def Rafter.image (r : Rafter) : Nat := r.imageLow + r.params.toNat * 2 ^ 1024

/-! ### The parameter block (Table 3.2) -/

/-- Field of a parameter block. -/
def pf (x : BitVec 1024) (b lo w : Nat) : Nat := bitsOf x.toNat (8 * b + lo) w

def Rafter.invTemp (r : Rafter) : BitVec 32 := BitVec.ofNat 32 (pf r.params 0 0 32)
def Rafter.topP (r : Rafter) : BitVec 32 := BitVec.ofNat 32 (pf r.params 4 0 32)
def Rafter.minP (r : Rafter) : BitVec 32 := BitVec.ofNat 32 (pf r.params 8 0 32)
def Rafter.repRho (r : Rafter) : BitVec 32 := BitVec.ofNat 32 (pf r.params 12 0 32)
def Rafter.freqAlpha (r : Rafter) : BitVec 32 := BitVec.ofNat 32 (pf r.params 16 0 32)
def Rafter.presBeta (r : Rafter) : BitVec 32 := BitVec.ofNat 32 (pf r.params 20 0 32)
def Rafter.topK (r : Rafter) : Nat := pf r.params 24 0 7
def Rafter.logprobN (r : Rafter) : Nat := pf r.params 25 0 4
def Rafter.logprobChosen (r : Rafter) : Bool := pf r.params 25 4 1 == 1
def Rafter.countPrompt (r : Rafter) : Bool := pf r.params 25 5 1 == 1
def Rafter.specDepth (r : Rafter) : Nat := pf r.params 26 0 3
def Rafter.minNew (r : Rafter) : Nat := pf r.params 28 0 24
def Rafter.stopCount (r : Rafter) : Nat := pf r.params 40 0 4
def Rafter.stopIds (r : Rafter) : List Nat := (List.range r.stopCount).map fun i => pf r.params (64 + 4 * i) 0 24

/-! ### Retries (R88, R107) -/

/-- Slots that wait for an admission: held requests, and resumed ones whose load is not committed yet. -/
def Engine.waitingSlots (e : Engine) : List Nat :=
  e.adm.held.map (·.slot) ++ (e.rafter.filter fun x => x.2.reAdmit && x.2.state == .queued).map Prod.fst

/-- A resource changed: the waiting requests that a test names are due a retry (R88). -/
def Engine.wake (e : Engine) (hit : Rafter → Bool) : Engine :=
  let l := e.waitingSlots.filter fun s => ((e.req? s).map hit).getD false
  if l.isEmpty then e else { e with adm := { e.adm with due := l.foldl (fun d s => insertNat s d) e.adm.due } }

/-- A resource of every request changed. -/
def Engine.wakeAll (e : Engine) : Engine := e.wake fun _ => true

end Sys2Proof.Machine
end

