-- ==== Sys2Proof/Machine/Power.lean ====
section
/-!
DEFINITION. Machine/Power.lean: the leave arbiter's channels as the requesters see them, prices, and the effective
calibration values (R358 to R367).
-/

namespace Sys2Proof.Machine

/-! ### Effective calibration values (Table 16.3, R367) -/

/-- An energy coefficient, 0 TILE to 5 BIST: ⌈FACTORY × (64 + trim) / 64⌉ clamped to 1 … 65,535. -/
def Engine.energy (e : Engine) (i : Nat) : Nat :=
  let trim := e.getS (match i with
    | 0 => Fld.calETileTrimTrim | 1 => Fld.calELogitTrimTrim | 2 => Fld.calET1TrimTrim | 3 => Fld.calEMoveTrimTrim
    | 4 => Fld.calEFabTrimTrim | _ => Fld.calEBistTrimTrim)
  max 1 (min 65535 (ceilDiv (Table.getD e.cal.energy i 0 * (64 + trim).toNat) 64))

/-- The effective speed bin: factory to factory + 255 (Table 16.3). -/
def Engine.binEff (e : Engine) : Nat := e.cal.bin + e.get Fld.calBinTrim

/-- The trim field of a sensor's or an oscillator's register. -/
def sensorTrim (n : Nat) : Field := { Fld.calTs0Trim with off := Fld.calTs0Trim.off + 4 * n }

def oscTrim (i : Nat) : Field := { Fld.calOsc0Trim with off := Fld.calOsc0Trim.off + 4 * i }

/-- Effective sensor offset: factory ± 32. -/
def Engine.sensorEff (e : Engine) (n : Nat) : Int := Table.getD e.cal.sensor n 0 + clampInt (-32) 32 (e.getS (sensorTrim n))

/-- The oscillator code a trim asks for: factory ± 32 steps within the field. -/
def Engine.oscTarget (e : Engine) (i : Nat) : Nat :=
  (clampInt 0 1023 ((Table.getD e.cal.osc i 0 : Nat) + clampInt (-32) 32 (e.getS (oscTrim i)))).toNat

/-! ### Prices (R359) -/

/-- Price in credits of 1 µJ, derated while HOT, saturating. -/
def Engine.credits (e : Engine) (pj : Nat) : Nat :=
  let n := if e.cpc.level = 2 then pj * e.get Fld.cpcTherm2Derate else 16 * pj
  sat32 (ceilDiv n 16000000)

/-! ### Channels (R358, R360) -/

def Engine.channel (e : Engine) (ch1 : Bool) : Channel := if ch1 then e.cpc.ch1 else e.cpc.ch0

def Engine.putChannel (e : Engine) (ch1 : Bool) (c : Channel) : Engine :=
  if ch1 then { e with cpc := { e.cpc with ch1 := c } } else { e with cpc := { e.cpc with ch0 := c } }

/-- A tag no grant held on the channel has, nor a request waiting or a release due on it (R362). -/
def Channel.freshTag (c : Channel) : Nat :=
  let used := c.grants.map (·.tag) ++ c.waiting.map (·.tag) ++ c.due ++ (c.asking.map (·.tag)).toList ++ c.releasing.toList
  (((List.range 256).map fun i => (c.nextTag + i) % 256).find? fun t => !used.contains t).getD (c.nextTag % 256)

/-- Order of the classes on channel 1: MIRROR, MOVE, LOAD, BIST (R358). -/
def leaveOrder (cls : Nat) : Nat :=
  match cls with | 4 => 0 | 2 => 1 | 3 => 2 | 5 => 3 | _ => 4

/-- A requester asks for leave; the answer is its tag. -/
def Engine.askLeave (e : Engine) (ch1 : Bool) (cls cred : Nat) (why : LeaveFor) : Nat × Engine :=
  let c := e.channel ch1
  let tag := c.freshTag
  (tag, e.putChannel ch1 { c with waiting := c.waiting ++ [{ cls := cls, cred := cred, tag := tag, for_ := why, retry := false }],
                                  nextTag := (tag + 1) % 256 })

/-- The grant with a tag ends: its RELEASE is due (R362). -/
def Engine.endGrant (e : Engine) (ch1 : Bool) (tag : Nat) : Engine :=
  let c := e.channel ch1
  if c.grants.any (fun g => g.tag == tag) then
    e.putChannel ch1 { c with grants := c.grants.filter (fun g => g.tag != tag), due := c.due ++ [tag] }
  else e

/-- Withdraws a request that has not been driven yet. -/
def Engine.withdrawLeave (e : Engine) (ch1 : Bool) (tag : Nat) : Engine :=
  let c := e.channel ch1
  e.putChannel ch1 { c with waiting := c.waiting.filter fun g => g.tag != tag }

end Sys2Proof.Machine
end

