-- ==== Sys2Proof/Machine/Spares.lean ====
section
/-!
DEFINITION. Machine/Spares.lean: the spares of Table 11.4: they replace failed parts at the next boundary, before any replay,
without changing a logical number (R278, R217, R230, R297).
-/

namespace Sys2Proof.Machine

/-- A switch is counted, recorded, and fed to the part's score as a swap (R278, R281). -/
def Engine.spareTaken (e : Engine) (kind index : Nat) : Engine :=
  ((e.bump Cnt.fltSpare).log Ev.spareSwitch [kind, index]).feed kind index 3

/-- At a boundary the spares take the numbers that wait (R278, R297). -/
def Engine.spareCores (e : Engine) : Engine :=
  e.tsk.spareDue.foldl (fun e x => match e.tsk.sparePhys with
    | [] => e
    | p :: ps =>
      let e := e.putCore x.1 { e.core x.1 with phys := some p }
      ({ e with tsk := { e.tsk with sparePhys := ps } } : Engine).spareTaken 3 x.2)
    { e with tsk := { e.tsk with spareDue := [] } }

/-! ### Legget lanes (R217) -/

/-- A lane group that has never failed. -/
def LaneGroup.good : LaneGroup := { fault := 0, spareUsed := false, retired := false, pendSwitch := false, pendRetire := false }

/-- A lane of a group is faulty (R217): the first takes the spare at the next boundary, the second retires the group there. A spare that fails
before it is in service takes no lane's place, and is there for none. -/
def LaneGroup.hit (x : LaneGroup) (lane : Nat) : LaneGroup :=
  let used := x.spareUsed || x.pendSwitch || x.fault.getLsbD 16
  let x := { x with fault := x.fault ||| BitVec.twoPow 17 lane }
  if used then { x with pendRetire := true } else if lane = 16 then x else { x with pendSwitch := true }

def Engine.laneGroup (e : Engine) (g : Nat) : LaneGroup := Table.getD e.smp.groups g .good

def Engine.putLaneGroup (e : Engine) (g : Nat) (x : LaneGroup) : Engine :=
  { e with smp := { e.smp with groups := Table.put e.smp.groups g x } }

/-- One group: its spare takes the faulty lane's place, or the group is retired. -/
def Engine.spareGroup (e : Engine) (g : Nat) : Engine :=
  let x := e.laneGroup g
  let e := if x.pendSwitch then (e.putLaneGroup g { x with pendSwitch := false, spareUsed := true }).spareTaken 1 g else e
  let x := e.laneGroup g
  if x.pendRetire then e.putLaneGroup g { x with pendRetire := false, retired := true } else e

def Engine.spareLanes (e : Engine) : Engine := (Table.keys e.smp.groups).foldl Engine.spareGroup e

/-! ### Spar cores (R230) -/

/-- A culprit is retired; the lowest spare not in service takes its logical number. -/
def Engine.spareSpar (e : Engine) (p : Nat) : Engine :=
  match Table.get? e.spg.cores p with
  | none => e
  | some x =>
    let gone : SparCore := { x with active := false, spare := false, retired := true }
    let e : Engine := { e with spg := { e.spg with cores := Table.put e.spg.cores p gone } }
    if !x.active then e
    else match e.spg.cores.find? fun c => c.2.spare with
      | none => e.log Ev.spgMismatch [p, 0xFFFF]
      | some (s, y) =>
        let y : SparCore := { y with active := true, spare := false, logical := x.logical }
        ({ e with spg := { e.spg with cores := Table.put e.spg.cores s y } } : Engine).spareTaken 2 p

def Engine.spareSpars (e : Engine) : Engine :=
  let l := e.spg.culprits
  l.foldl Engine.spareSpar { e with spg := { e.spg with culprits := [] } }

/-! ### The control port's lanes -/

/-- The spare lane takes a failed lane's place; with none left the port runs on one lane. -/
def Engine.sparePort (e : Engine) (lane : Nat) : Engine :=
  let spare := decide (2 < e.flt.portLanes)
  let e : Engine := { e with flt := { e.flt with portLanes := max 1 (e.flt.portLanes - 1) } }
  if spare then e.spareTaken 0 lane else e

def Engine.sparePorts (e : Engine) : Engine :=
  let l := e.flt.laneSwitch
  l.foldl Engine.sparePort { e with flt := { e.flt with laneSwitch := [] } }

/-! ### SRAM rows -/

/-- Key of a row of an SRAM array. -/
def rowKey (array row : Nat) : Nat := 65536 * array + row

/-- An access to a row was corrected: the second within an hour makes it due for a spare (Table 11.4). -/
def Engine.rowCorrected (e : Engine) (k : Nat) : Engine :=
  let x := e.flt
  if x.rowsSpared.contains k || x.rowsDue.contains k then e
  else match Table.get? x.rowErrs k with
    | some t => if e.now < t + 3600000000000 then { e with flt := { x with rowErrs := Table.del x.rowErrs k, rowsDue := x.rowsDue ++ [k] } }
                else { e with flt := { x with rowErrs := Table.put x.rowErrs k e.now } }
    | none => { e with flt := { x with rowErrs := Table.put x.rowErrs k e.now } }

/-- A row is remapped into a spare row of its array, while one is left; a row without one is served with correction. -/
def Engine.spareRow (e : Engine) (k : Nat) : Engine :=
  let a := k / 65536
  if Config.spareRows a ≤ (e.flt.rowsSpared.filter fun r => r / 65536 == a).length then e
  else (({ e with flt := { e.flt with rowsSpared := e.flt.rowsSpared ++ [k] } } : Engine).bump Cnt.fltSpare).log Ev.spareSwitch [4, a]

def Engine.spareRows (e : Engine) : Engine :=
  let l := e.flt.rowsDue
  l.foldl Engine.spareRow { e with flt := { e.flt with rowsDue := [] } }

/-- Every switch that is due. -/
def Engine.switchSpares (e : Engine) : Engine := ((((e.spareCores).spareLanes).spareSpars).sparePorts).spareRows

/-! ### Parts that built-in self-test finds (R217, R382) -/

/-- Its failed parts: legget lanes by group, spar cores, and SRAM rows by array. The spares take their places at once. -/
def Engine.bistSpares (e : Engine) (r : BistResult) : Engine :=
  let e := r.lanes.foldl (fun e x => e.putLaneGroup x.1.toNat ((e.laneGroup x.1.toNat).hit x.2.toNat)) e
  let e : Engine := { e with spg := { e.spg with culprits := e.spg.culprits ++ r.sparCores.map BitVec.toNat } }
  let rows := r.rows.map fun x => rowKey x.1.toNat x.2.toNat
  ({ e with flt := { e.flt with rowsDue := e.flt.rowsDue ++ rows.filter fun k => !e.flt.rowsSpared.contains k } } : Engine).switchSpares

end Sys2Proof.Machine
end

