-- ==== Sys2Proof/Machine/Families.lean ====
section
/-!
DEFINITION. Machine/Families.lean: the family configuration block (Table 7.2), fit grades (R121) and lane widths (R162).
-/

namespace Sys2Proof.Machine

/-- Field of w bits whose bit 0 is bit `lo` of byte `b` of a 256 B block. -/
def fb (x : BitVec 2048) (b lo w : Nat) : Nat := bitsOf x.toNat (8 * b + lo) w

def Family.layers (f : Family) : Nat := fb f.block 6 0 16
def Family.vocab (f : Family) : Nat := fb f.block 8 0 24
def Family.maxContext (f : Family) : Nat := fb f.block 12 0 24
def Family.kvHeads (f : Family) : Nat := fb f.block 16 0 8
def Family.specHeads (f : Family) : Nat := fb f.block 17 0 3
def Family.laneWidth (f : Family) : Nat := fb f.block 18 0 16
def Family.pageBytes (f : Family) : Nat := fb f.block 20 0 32
def Family.salt (f : Family) : BitVec 64 := BitVec.ofNat 64 (fb f.block 24 0 64)
def Family.weightSrc (f : Family) : BitVec 64 := BitVec.ofNat 64 (fb f.block 32 0 64)
def Family.weightSrcT2 (f : Family) : Bool := fb f.block 40 0 1 == 1
def Family.addUnitBytes (f : Family) : Nat := fb f.block 44 0 32
def Family.addMaxRank (f : Family) : Nat := fb f.block 48 0 8
def Family.weightBytes (f : Family) : Nat := fb f.block 64 0 64
def Family.layerBytes (f : Family) : Nat := fb f.block 72 0 32
def Family.layerStride (f : Family) : Nat := fb f.block 76 0 32
def Family.layer0Off (f : Family) : Nat := fb f.block 80 0 64
def Family.stageFixed (f : Family) : Nat := fb f.block 88 0 32
def Family.stagePerPos (f : Family) : Nat := fb f.block 92 0 32

/-- Field of the predictor section, bytes 128 to 191. -/
def Family.pred (f : Family) (b w : Nat) : Nat := fb f.block (128 + b) 0 w

/-- A family never configured. -/
def Family.none : Family :=
  { state := 0, block := 0, share := false, granule := 0, granules := 0, ack := Option.none }

def Engine.family (e : Engine) (f : Nat) : Family := Table.getD e.var.families f Family.none

def Engine.putFamily (e : Engine) (i : Nat) (f : Family) : Engine :=
  { e with var := { e.var with families := Table.put e.var.families i f } }

/-- Servable for a SUBMIT: CONFIGURED or RELOADING (Table 7.3). -/
def Family.servable (f : Family) : Bool := f.state == 2 || f.state == 3

/-- The width W′ divides H, or H divides W′ (R162). -/
def conforms (heads width : Nat) : Bool := heads % width == 0 || width % heads == 0

/-- The frame size class of a family's pages; none above 2 MiB (R144). -/
def frameClass (bytes : Nat) : Option Nat := (List.range 8).find? fun c => decide (bytes ≤ 16384 * 2 ^ c)

/-- Bytes of a frame of class c. -/
def frameBytes (c : Nat) : Nat := 16384 * 2 ^ c

def Family.cls (f : Family) : Nat := (frameClass f.pageBytes).getD 0

/-- The derived maximum at depth w, for half a window (R121). -/
def Family.maxPos (f : Family) (half w : Nat) : Nat :=
  if f.stagePerPos = 0 then 65536
  else min 65536 ((half - (w + 1) * f.layerBytes - f.stageFixed) / f.stagePerPos)

/-- Does a family fit at depth w? -/
def Family.fits (f : Family) (half w : Nat) : Bool :=
  decide ((w + 1) * f.layerBytes + f.stageFixed + 64 * f.stagePerPos ≤ half)

/-- Grade, depth and derived maximum (R121): 0 A, 1 B, 2 C, 3 D. -/
def Family.grade (f : Family) (half : Nat) : Fit :=
  match [4, 3, 2].find? fun w => f.fits half w with
  | some w => { grade := if w = 4 then 0 else 1, depth := w, maxPos := f.maxPos half w }
  | Option.none =>
    if f.fits half 0 then { grade := 2, depth := 0, maxPos := f.maxPos half 0 }
    else { grade := 3, depth := 0, maxPos := 0 }

/-- Half the weight window in bytes. -/
def Engine.halfWindow (e : Engine) : Nat := e.get Fld.ylmWinSizeMib * 1048576 / 2

end Sys2Proof.Machine
end

