-- ==== Sys2Proof/Machine/Ridge.lean ====
section
/-!
DEFINITION. Machine/Ridge.lean: the ridge manifest's bytes (R130 to R134), and its check before it is emitted again (R136).
-/

namespace Sys2Proof.Machine

/-! ### Offsets -/

/-- n rounded up to a multiple of 64. -/
def up64 (n : Nat) : Nat := 64 * ceilDiv n 64

/-- Offsets in a manifest of the member table, the segment table and the trailer. -/
def Yealm.memberOff (y : Yealm) : Nat := 256 + 128 * y.courses.length
def Yealm.segmentOff (y : Yealm) : Nat := y.memberOff + up64 (48 * y.members.length)
def Yealm.trailerOff (y : Yealm) : Nat := y.segmentOff + up64 (8 * y.segments.length)

/-- TOTAL_BYTES (R134). -/
def Yealm.size (y : Yealm) : Nat := y.trailerOff + 64

/-! ### The bytes (R130 to R134) -/

/-- A list of bytes with zeros up to the next 64 B boundary. -/
def pad64 (bs : List Byte) : List Byte := bs ++ List.replicate (up64 bs.length - bs.length) 0

/-- Member entry (Table 5.6). -/
def Member.bytes (m : Member) : List Byte :=
  leBytes 48 (place m.handle.toNat 0 32 + place m.cls 32 2 + place m.kind 34 2 + place (if m.kind = 0 then m.spec else 0) 36 3 +
    place m.firstPos 64 17 + place m.start 96 24 + place m.count 128 12 + place m.segment 144 14 + place m.pageHead 160 22 +
    place m.pageCount 192 20 + place m.seed.toNat 256 64)

/-- Segment entry (R133). -/
def Segment.bytes (s : Segment) : List Byte :=
  leBytes 8 (place (if s.null then 0 else s.slot) 0 13 + place (bit s.null) 15 1 + place s.members 16 15 + place s.firstPos 32 17)

/-- Course entry (Table 5.5). -/
def Engine.courseBytes (e : Engine) (c : Course) : List Byte :=
  let f := e.family c.family
  leBytes 128 (place c.family 0 8 + place c.split 8 6 + place c.grade 16 2 + place c.depth 18 3 + place c.bank 21 1 +
    place c.firstMember 32 14 + place c.members 64 15 + place c.firstSegment 96 14 + place c.segments 128 11 +
    place c.firstPos 160 17 + place c.positions 192 17 + place c.draws 224 17 +
    place (f.granule * 2097152 + f.layer0Off) 256 64 + place f.layers 320 16 + place f.layerStride 352 32 +
    place f.layerBytes 384 32 + place f.vocab 416 24 + place (sat32 c.predNs) 448 32)

/-- Manifest header (Table 5.4). -/
def Yealm.header (y : Yealm) : List Byte :=
  leBytes 256 (place 0x5E4B4D46 0 32 + place 0x0302 32 16 + place y.mode 48 2 + place y.step 64 48 + place y.size 128 32 +
    place y.courses.length 160 7 + place y.members.length 192 15 + place y.segments.length 224 15 + place y.positions 256 17 +
    place y.draws 288 17 + place y.epoch.toNat 320 32 + place y.sealTime 384 64 + place (sat32 y.predNs) 448 32 +
    place (sat32 y.credits) 480 32 + place 256 512 32 + place y.memberOff 544 32 + place y.segmentOff 576 32 +
    place y.trailerOff 608 32)

/-- Bytes 0 to TRAILER_OFF − 1. -/
def Engine.manifestBody (e : Engine) (y : Yealm) : List Byte :=
  y.header ++ pad64 (y.courses.flatMap e.courseBytes) ++ pad64 (y.members.flatMap Member.bytes) ++
    pad64 (y.segments.flatMap Segment.bytes)

/-- The trailer (R133). -/
def Yealm.trailer (y : Yealm) : List Byte := leBytes 64 (place y.digest.toNat 0 64 + place y.step 64 48)

/-- The whole manifest of a sealed yealm. -/
def Engine.manifestBytes (e : Engine) (y : Yealm) : List Byte := e.manifestBody y ++ y.trailer

/-! ### Emission again (R136, R269) -/

/-- Does the record of its step, where one stands, name the digest of a manifest, and do its bytes give it? -/
def Engine.manifestSound (e : Engine) (y : Yealm) : Bool :=
  let slot := y.step % e.get Fld.fltJrnlDepthN
  let journalled := ((Table.get? e.flt.journal slot).filter fun r => r.step == y.step).map (·.digest)
  crc64 (e.manifestBody y) == y.digest && journalled.getD y.digest == y.digest

/-- Emits the manifest of a step that is replayed; its acknowledgement is awaited (R135). -/
def Engine.emitAgain (e : Engine) (y : Yealm) : Engine :=
  ({ e with ylm := { e.ylm with reStep := some y.step } } : Engine).emit (.manifest y.step (e.manifestBytes y))

end Sys2Proof.Machine
end

