-- ==== Sys2Proof/Machine/Replay.lean ====
section
/-!
DEFINITION. Machine/Replay.lean: the undo log, the collective abort and the replay of the step in compute (R266, R267,
R269, R271).
-/

namespace Sys2Proof.Machine

/-- Capacity of a record's event section (R262). -/
def eventRoom : Nat := 215020

/-- Bytes of an event entry (Table 11.3). -/
def JEvent.bytes (x : JEvent) : List Byte :=
  leBytes 16 (place x.kind 0 8 + place x.status 8 8 + place x.who 32 32 + place x.detail 64 32 + place x.us 96 32)

/-- Is the event section of the running step's record full (R262)? -/
def Engine.eventsFull (e : Engine) : Bool := decide (eventRoom ≤ e.flt.events.length)

/-- An event enters the running step's record; with the section full, the next one's (R261, R262). It is mirrored at once
(R264). -/
def Engine.jevent (e : Engine) (kind status who detail : Nat) : Engine :=
  let x : JEvent := { kind := kind, status := status, who := who, detail := detail, us := e.us % 2 ^ 32 }
  let e := e.mirrorEvent kind x.bytes
  let full := decide (eventRoom ≤ e.flt.events.length + 1)
  if e.eventsFull then { e with flt := { e.flt with eventsNext := e.flt.eventsNext ++ [x], evtFull := true } }
  else { e with flt := { e.flt with events := e.flt.events ++ [x], evtFull := e.flt.evtFull || full } }

/-- A stop bit applied while the event section is full counts as a hold of its event (Table 11.6). -/
def Engine.countStopHold (e : Engine) : Engine := if e.eventsFull then e.bump Cnt.fltEvtFull else e

/-- Notes an old value before a write made on behalf of the step in compute (R266). -/
def Engine.logUndo (e : Engine) (u : UndoEntry) : Engine := { e with flt := { e.flt with undo := u :: e.flt.undo } }

/-- Restores what draws and positions of the step wrote in a rafter entry; host-originated changes stand (R266). An end
decided by a FINAL token is the step's own. -/
def Rafter.restore (r old : Rafter) : Rafter :=
  let r := { r with seqEnd := old.seqEnd, generated := old.generated, kvEnd := old.kvEnd, nextDl := old.nextDl,
                    firstEmitted := old.firstEmitted, penOvfHead := old.penOvfHead, penOvfValid := old.penOvfValid,
                    later := old.later }
  if r.pendReason == Reason.stopToken || r.pendReason == Reason.length then
    if r.state == .retiring then { r with state := old.state, pendStatus := old.pendStatus, pendReason := old.pendReason }
    else if r.state == .fenced && r.fencedFrom == .retiring && old.state == .fenced then
      { r with fencedFrom := old.fencedFrom, pendStatus := old.pendStatus, pendReason := old.pendReason }
    else r
  else r

/-- A freed CACHED page stands again: its entry, its frame, and its place and links on the cached list. -/
def Engine.unfreed (e : Engine) (p : Nat) (old : Page) (cached : List Nat) : Engine :=
  let k := 8 * old.tier + old.cls
  let i := cached.idxOf p
  let pages := Table.put e.pgm.pages p old
  let pages := match cached[i + 1]? with | some a => Table.modify pages a fun x => { x with prev := p } | none => pages
  let pages := if i = 0 then pages else match cached[i - 1]? with | some b => Table.modify pages b fun x => { x with next := p } | none => pages
  { e with pgm := { e.pgm with
      pages := pages, cached := cached, entries := { e.pgm.entries with freed := e.pgm.entries.freed.erase p },
      pools := Table.modify e.pgm.pools k fun y => { y with frames := { y.frames with freed := y.frames.freed.erase old.frame } } } }

/-- Applies one entry of the undo log. -/
def Engine.undoOne (e : Engine) (u : UndoEntry) : Engine :=
  match u with
  | .rafter s old => e.modAny s fun r => r.restore old
  | .bucket t taken => { e with adm := { e.adm with tenants := Table.modify e.adm.tenants t fun x =>
      { x with level := min ((x.burst * 1000000 : Nat) : Int) (x.level + taken) } } }
  | .home s old => { e with smp := { e.smp with homes := Table.put e.smp.homes s old } }
  | .cell c old => { e with smp := { e.smp with cells := Table.put e.smp.cells c old } }
  | .link c old => { e with smp := { e.smp with links := Table.set e.smp.links c old } }
  | .cellTaken c => { e with smp := { e.smp with cellFree := e.smp.cellFree.untake c } }
  | .guess s old => { e with smp := { e.smp with guesses := Table.put e.smp.guesses s old } }
  | .page p old => { e with pgm := { e.pgm with pages := Table.put e.pgm.pages p old } }
  | .freed p old cached => e.unfreed p old cached
  | .baseOnly p old => { e with pgm := { e.pgm with pages := Table.modify e.pgm.pages p fun x => { x with baseOnly := old } } }
  | .index b old => { e with pgm := { e.pgm with index := Table.put e.pgm.index b old } }

/-- The slots whose entries an undo log restores. -/
def restoredSlots (log : List UndoEntry) : List Nat :=
  log.foldl (fun l u => match u with | .rafter s _ => insertNat s l | _ => l) []

/-- Applies the undo log in reverse: the newest entry stands first (R269, step 2). REPLAY_SEQ of each entry restored counts one
(R66). -/
def Engine.applyUndo (e : Engine) : Engine :=
  let log := e.flt.undo
  let e := log.foldl Engine.undoOne { e with flt := { e.flt with undo := [] } }
  (restoredSlots log).foldl (fun e s => e.modAny s fun r => { r with replaySeq := (r.replaySeq + 1) % 2 ^ 32 }) e

/-- SB sets a member FENCED (R269, step 1). A CANCELLING one will return to its live state and meet its stop bit; one released while it
cancelled returns to CANCELLING (R74). -/
def Engine.fenceRequest (e : Engine) (slot : Nat) : Engine :=
  match e.req? slot with
  | none => e
  | some r =>
    if r.state == .free || r.state == .admitting || r.state == .fenced then e
    else
      let from_ := if r.state == .cancelling && r.returnState != .retiring then r.returnState else r.state
      (e.putReq slot { r with state := .fenced, fencedFrom := from_, stopSeen := false }).unlink slot

/-- A request leaves FENCED for the state the undo restored; with its stop bit set it enters CANCELLING (Table 3.3). -/
def Engine.unfenceRequest (e : Engine) (slot : Nat) : Engine :=
  match e.req? slot with
  | none => e
  | some r =>
    if r.state != .fenced then e
    else
      let e := e.putReq slot { r with state := r.fencedFrom, stopSeen := r.fencedFrom == .cancelling }
      let e := if r.fencedFrom == .cancelling && !e.stop.contains slot then e.clearStop slot else e
      let e := if r.fencedFrom.running && !r.pausePending then e.link slot else e
      if e.stop.contains slot && r.fencedFrom != .retiring then e.applyStop slot else e

/-! ### Slots (R260) -/

/-- Slot of a step's record. -/
def Engine.jslot (e : Engine) (step : Nat) : Nat := step % e.get Fld.fltJrnlDepthN

/-- The record of a step, while its slot still holds it. -/
def Engine.stepRec? (e : Engine) (step : Nat) : Option StepRecord :=
  (Table.get? e.flt.journal (e.jslot step)).filter fun r => r.step == step

/-- Changes the record of a step. -/
def Engine.modStepRec (e : Engine) (step : Nat) (f : StepRecord → StepRecord) : Engine :=
  { e with flt := { e.flt with journal := Table.modify e.flt.journal (e.jslot step) fun r => if r.step == step then f r else r } }

/-- A member's entry as it stands (Table 11.3). -/
def Member.entry (m : Member) : JMember :=
  { handle := m.handle, accepted := m.accepted, vacated := m.vacated, deferred := m.deferred, baseOnly := m.baseOnly, failed := m.failed }

/-- The member entries of the step in compute go into its slot as they are decided (R262). -/
def Engine.journalMembers (e : Engine) : Engine :=
  match e.ylm.current with
  | none => e
  | some y => e.modStepRec y.step fun r => if r.committed then r else { r with members := y.members.map Member.entry }

/-- Vacates members for the replay of R271: void draws, and retirement with REPLAYED; each is counted (R113). -/
def Engine.vacateMembers (e : Engine) (y : Yealm) (hit : Member → Bool) : Engine :=
  let gone := y.members.filter fun m => hit m && !m.vacated
  let y := { y with members := y.members.map fun m => if hit m then { m with vacated := true } else m }
  let e := ({ e with ylm := { e.ylm with current := some y } } : Engine).journalMembers
  let e := e.bumpBy Cnt.sbVacated gone.length
  gone.foldl (fun e m => e.modReq m.slot fun r =>
    { r with fencedFrom := .retiring, pendStatus := Status.replayed, pendReason := Reason.error }) e

/-- The course of a member: members stand course by course. -/
def Yealm.courseOf (y : Yealm) (i : Nat) : Nat :=
  ((List.range y.courses.length).find? fun k => match y.courses[k]? with
    | some c => decide (c.firstMember ≤ i ∧ i < c.firstMember + c.members)
    | none => false).getD 0

/-- The members a vacating replay vacates: those of the named courses, or all (R271). -/
def Yealm.vacating (y : Yealm) (courses : List Nat) : List Handle :=
  if courses.isEmpty then y.members.map (·.handle)
  else ((List.range y.members.length).zip y.members).filterMap fun (i, m) =>
    if courses.contains (y.courseOf i) then some m.handle else none

/-- The words of a decode member's inputs (R375): kind 2 with the token, ADVANCE, the depth and three guesses, and kind 3 with the fourth
of a member of depth 4; the fields of positions beyond the depth are zero. -/
def decodeWords (member token advance depth : Nat) (guesses : List Nat) : List (BitVec 128) :=
  let g := fun i => if i < depth then guesses.getD i pad else 0
  let first := BitVec.ofNat 128 (place 2 0 4 + place member 4 14 + place token 18 24 + place advance 42 3 + place depth 45 3 +
    place (g 0) 48 24 + place (g 1) 72 24 + place (g 2) 96 24)
  first :: (if depth = 4 then [BitVec.ofNat 128 (place 3 0 4 + place member 4 14 + place (g 3) 18 24)] else [])

/-- Words go to the tile sequencers in their order. -/
def Engine.emitCtl (e : Engine) (ws : List (BitVec 128)) : Engine := ws.foldl (fun e w => e.emit (.ctl w)) e

/-- A decode member's inputs (R212): the token at its decode position, its depth, ADVANCE and the guesses of its speculative
positions; a vacated member receives pads. -/
def Engine.decodeInput (e : Engine) (i : Nat) (m : Member) : Engine :=
  let token := if m.vacated then pad else (((e.anyReq? m.slot).bind fun r => r.tokenAt (m.seqStart - 1)).getD pad)
  let guesses := if m.vacated then List.replicate m.spec pad else m.guesses
  e.emitCtl (decodeWords i token m.advance m.spec guesses)

/-- The inputs of every decode member, in manifest order. -/
def Engine.decodeInputs (e : Engine) (y : Yealm) : Engine :=
  (y.members.zipIdx).foldl (fun e x => if x.1.kind = 0 then e.decodeInput x.2 x.1 else e) e

/-- A member as a replay finds it. -/
def Member.rewind (m : Member) : Member :=
  { m with accepted := 0, emitted := false, delivered := 0, deferred := false, baseOnly := false, failed := false }

/-- A step's ACKs start from nothing again when it is replayed. -/
def AckMerge.again (a : AckMerge) : AckMerge :=
  { a with children := [], cover := 0, error := false, mismatch := false, missing := noRank, own := false, sent := false }

/-- The gutter is ready again (R191). -/
def Engine.releaseGutter (e : Engine) : Engine :=
  if e.smp.gutHeld then ({ e with smp := { e.smp with gutHeld := false } } : Engine).emit (.gutReady true) else e

/-- Stops the step in compute: tiles and legget halt, the unsealed draft goes, yealm n + 1 stays when sealed (R269). -/
def Engine.haltStep (e : Engine) : Engine :=
  let e := if e.ylm.leaveWait then e.withdrawLeave false e.ylm.leaveTag else e
  let e := (e.emit .haltTiles).releaseGutter
  { e with ylm := { e.ylm with draft := none, composing := false, leaveWait := false, runs := [], stepDone := false,
                               stallNs := 0, current := e.ylm.current.map fun y => { y with members := y.members.map Member.rewind } },
           smp := { e.smp with ctxs := [], nextEmit := 0, updates := [] },
           mdv := { e.mdv with segs := Table.keep e.mdv.segs fun k _ => decide (64 * (e.stepNo + 1) ≤ k), parts := [], tokensSeen := [],
                               acks := Table.modify e.mdv.acks e.stepNo AckMerge.again },
           boundaryOpen := false }

/-- The count of failures of one step in its own replay, and the courses they named; after one of effect 1 no course stands named (R271). -/
def Engine.countFailure (e : Engine) (step : Nat) (effect : Bool) (courses : List Nat) : Engine :=
  let again := e.flt.replaying && e.flt.failStep == step
  let named := if effect then [] else courses.foldl (fun l c => insertNat c l) e.flt.failCourses
  let f := if again then { e.flt with failCount := e.flt.failCount + 1, failCourses := named }
    else { e.flt with failCount := 1, failCourses := courses, failStep := step, vacateReplay := false }
  { e with flt := f }

/-- The vacating replay begins once a step has failed FLT_REPLAY_MAX.N times (R271). -/
def Engine.vacateOnReplay (e : Engine) (y : Yealm) : Engine :=
  if e.get Fld.fltReplayMaxN ≤ e.flt.failCount then
    let hs := y.vacating e.flt.failCourses
    let e : Engine := { e with flt := { e.flt with vacateReplay := true } }
    match e.ylm.current with
    | none => e
    | some y' => e.vacateMembers y' fun m => hs.contains m.handle
  else e

/-- Aborts and replays the step in compute, spares first. The answer is true when the failure was one of the vacating replay, which raises
FATAL instead (R271), and when the manifest to emit again fails its check against the journal (R136, log entry 51). -/
def Engine.abortStep (e : Engine) (effect : Bool) (courses : List Nat) : Bool × Engine :=
  match e.ylm.current with
  | none => (false, e)
  | some y =>
    if (e.flt.vacateReplay && e.flt.replaying && e.flt.failStep == y.step) || !e.manifestSound y then (true, e)
    else
      let e := (((e.countFailure y.step effect courses).haltStep).switchSpares).applyUndo
      let e : Engine := y.members.foldl (fun e m => e.fenceRequest m.slot) e
      let e : Engine := { e with flt := { e.flt with replaying := true } }
      let e := ((e.vacateOnReplay y).bump Cnt.fltReplay).log Ev.replay [y.step, e.flt.failCount]
      let e := e.emitAgain y
      (false, match e.ylm.current with | some y => e.decodeInputs y | none => e)

end Sys2Proof.Machine
end

