-- ==== Sys2Proof/Machine/Errors.lean ====
section
/-!
DEFINITION. Machine/Errors.lean: the error unit: classes, the error ring, the context with its nesting, injection,
and the action each class takes (chapter 15).
-/

namespace Sys2Proof.Machine

/-! ### Detectors (R340): source and kind are the spec's, instance numbers the model's (log entry 7) -/

namespace Det

def hruWatchdog : Nat := 0x1400
def hruCredit : Nat := 0x1401
def hruStall : Nat := 0x1402
def sbRestore : Nat := 0x2400
def interUnit : Nat := 0x2401
def manifestCheck : Nat := 0x4300
def manifestWatchdog : Nat := 0x4400
def baseStall : Nat := 0x4401
def baseRead : Nat := 0x4100
def kvPage : Nat := 0x5100
def moveWatchdog : Nat := 0x5400
def loadWatchdog : Nat := 0x6400
def slotRead : Nat := 0x6100
def tileCheck : Nat := 0x7500
def laneParity : Nat := 0x7501
def nanLogit : Nat := 0x7300
def divergence : Nat := 0x7502
def gutter : Nat := 0x7400
def randomWord : Nat := 0x7401
def sparShadow : Nat := 0x8500
def sparReject : Nat := 0x8501
def frameCheck : Nat := 0x9200
def missingAck : Nat := 0x9600
def lapse : Nat := 0x9601
def partials : Nat := 0x9400
def courseStart : Nat := 0x9401
def boundaryEffect : Nat := 0xA400
def journalWatchdog : Nat := 0xA401
def healthLevel : Nat := 0xA700
def abortReceived : Nat := 0xA600
def coreFault : Nat := 0xB400
def preempt : Nat := 0xB401
def allCores : Nat := 0xB402
def battenNext : Nat := 0xC100
def battenWord : Nat := 0xC101
def logWrite : Nat := 0x0400
def emergReadback : Nat := 0x0401
def registerAccess : Nat := 0xD800
def handling : Nat := 0xD500
def contextParity : Nat := 0xD501
def clockMonitor : Nat := 0xE500
def refClock : Nat := 0xE501
def leaveWatchdog : Nat := 0xE400
def timebase : Nat := 0xE401
def critical : Nat := 0xE700
def t0Port : Nat := 0x0101

end Det

/-! Error classes (Table 15.1). -/

namespace Cls

def corrected : Nat := 0
def request : Nat := 1
def step : Nat := 2
def fatal : Nat := 3

end Cls

/-! ### Records (Table 15.3) -/

/-- Bytes 0 to 27 of an error record. -/
def ErrEntry.words (x : ErrEntry) (escalated unhandled : Bool) : List (BitVec 32) :=
  [BitVec.ofNat 32 (place x.detector 0 16 + place x.cls 16 2 + place (bit x.injected) 18 1 + place (bit escalated) 19 1 +
     place (bit unhandled) 20 1 + place x.island 21 4),
   x.handle, BitVec.ofNat 32 x.detail.toNat, BitVec.ofNat 32 (x.detail.toNat / 2 ^ 32), BitVec.ofNat 32 x.sequence,
   BitVec.ofNat 32 x.step, BitVec.ofNat 32 x.time]

/-- Error-ring size (R342). -/
def Engine.errRingSize (e : Engine) : Nat := 2 ^ e.get Fld.errRingSizeLog2

/-- The class's vector and enable (R344). -/
def Engine.errVector (e : Engine) (cls : Nat) : Option Nat :=
  let (v, en) := match cls with
    | 0 => (Fld.errVecCorr, Fld.errVecCorrEn) | 1 => (Fld.errVecReq, Fld.errVecReqEn)
    | 2 => (Fld.errVecStep, Fld.errVecStepEn) | _ => (Fld.errVecFatal, Fld.errVecFatalEn)
  if e.flag en then some (e.get v) else none

/-- Writes an error record to the ring, the log and the vector (R342 to R344). -/
def Engine.errRecord (e : Engine) (x : ErrEntry) (escalated unhandled : Bool) : Engine :=
  let words := x.words escalated unhandled
  let e := if !e.flag Fld.errCtlRingEn then e
    else
      let next := (e.err.ringTail + 1) % e.errRingSize
      if next = e.get Fld.errRingHeadIndex then ({ e with err := { e.err with ringFull := true } }).bump Cnt.errRingLost
      else
        let body := (words.map fun w => leBytes 4 w.toNat).flatten
        let record := BitVec.ofNat 256 (leNat body + (place 5 0 4 + place (bit e.err.phase) 31 1) * 2 ^ 224)
        let e := e.emit (.errorRecord e.err.ringTail record)
        { e with err := { e.err with ringTail := next, phase := if next = 0 then !e.err.phase else e.err.phase } }
  let code := if escalated then Ev.errEscalated else match x.cls with
    | 0 => Ev.errCorrected | 1 => Ev.errRequest | 2 => Ev.errStep | _ => Ev.errFatal
  let e := e.logArrive code x.injected x.island words
  match e.errVector x.cls with
  | some v => e.emit (.irq v)
  | none => e

/-! ### Context and pending queue (R345 to R348) -/

/-- Order of the pending queue: severity, highest first, then sequence number. -/
def pendBefore (a b : ErrEntry) : Bool := decide (b.cls < a.cls) || (a.cls == b.cls && decide (a.sequence < b.sequence))

/-- Is it the same error (R346)? -/
def ErrEntry.same (a b : ErrEntry) : Bool := a.detector == b.detector && a.handle == b.handle

/-- One more occurrence of an entry. -/
def ErrEntry.again (a x : ErrEntry) : ErrEntry := if a.same x then { a with rep := min 0xFFFF (a.rep + 1) } else a

/-- An error joins the pending queue of 16 entries; one that finds it full is not queued (R346). -/
def Engine.errPend (e : Engine) (x : ErrEntry) : Bool × Engine :=
  if e.err.pending.length < 16 then (false, { e with err := { e.err with pending := insertBy pendBefore x e.err.pending } })
  else (true, e.bump Cnt.errPendOvf)

/-- The suspended error, when another takes its place, returns to the queue (R347). -/
def Engine.errReturn (e : Engine) : Option ErrEntry → Engine
  | none => e
  | some s => (e.errPend s).2

/-- Takes an error into the context or the queue; the answer is UNHANDLED (R346, R347). -/
def Engine.errEnter (e : Engine) (x : ErrEntry) : Bool × Engine :=
  let r := e.err
  if (r.active.toList ++ r.suspended.toList ++ r.pending).any (ErrEntry.same x) then
    (false, { e with err := { r with active := r.active.map (·.again x), suspended := r.suspended.map (·.again x),
                                     pending := r.pending.map (·.again x) } })
  else match r.active with
    | none => (false, ({ e with err := { r with active := some x } }).notifyError)
    | some a =>
      if a.cls < x.cls then
        let e := e.errReturn r.suspended
        (false, ({ e with err := { e.err with active := some x, suspended := some a } }).notifyError)
      else e.errPend x

/-- The active error's handling ends: the suspended error, else the first pending one, becomes active (R348). -/
def Engine.errDone (e : Engine) : Engine :=
  let r := e.err
  match r.suspended with
  | some s => ({ e with err := { r with active := some s, suspended := none } }).notifyError
  | none => match r.pending with
    | p :: ps => ({ e with err := { r with active := some p, pending := ps } }).notifyError
    | [] => { e with err := { r with active := none } }

/-- An error's entry, stamped (Table 15.3). -/
def Engine.errEntry (e : Engine) (det cls : Nat) (injected : Bool) (island : Nat) (handle : Handle) (detail : Nat) : ErrEntry :=
  { detector := det, cls := cls, injected := injected, island := island, handle := handle, detail := BitVec.ofNat 64 detail,
    sequence := e.err.sequence, step := e.stepNo, time := e.now, rep := 0 }

/-- ERR takes a report: it is counted, enters the context, and is recorded. -/
def Engine.errTake (e : Engine) (det cls : Nat) (injected : Bool) (island : Nat) (handle : Handle) (detail : Nat) : Engine :=
  let x := e.errEntry det cls injected island handle detail
  let e := { e with err := { e.err with sequence := e.err.sequence + 1 } }
  let e := e.bump (match cls with | 0 => Cnt.errCorr | 1 => Cnt.errReq | 2 => Cnt.errStep | _ => Cnt.errFatal)
  let e := if injected then e.bump Cnt.errInjected else e
  let (unhandled, e) := if cls != 0 || e.flag Fld.errCtlCorrHandle then e.errEnter x else (false, e)
  e.errRecord x false unhandled

/-! ### Injection (R351 to R353) -/

/-- An injection slot as reset leaves it. -/
def InjSlot.reset : InjSlot := { detector := 0, arm := false, nth := false, uncorr := false, n := 1, fired := 0, seen := 0 }

/-- One evaluation of a detector by one slot. -/
def InjSlot.evaluate (s : InjSlot) (det : Nat) : Bool × InjSlot :=
  if s.arm && s.detector == det then
    let seen := s.seen + 1
    let fire := !s.nth || seen % s.n == 0
    (fire, { s with seen := seen, arm := s.nth, fired := s.fired + bit fire })
  else (false, s)

/-- An evaluation of a detector: does an armed slot make it report a failure (R351)? -/
def Engine.evaluate (e : Engine) (det : Nat) : Bool × Engine :=
  let fire := e.err.slots.any fun x => (x.2.evaluate det).1
  (fire, if e.err.slots.any (fun x => x.2.arm && x.2.detector == det) then
      { e with err := { e.err with slots := Table.mapV e.err.slots fun _ s => (s.evaluate det).2 } }
    else e)

/-- An injected failure of an ECC detector whose slot asks for the corrected outcome (R351). -/
def Engine.injectsCorrected (e : Engine) (det : Nat) : Bool :=
  bitsOf det 8 4 == 1 && (e.err.slots.any fun x => (x.2.evaluate det).1) && !(e.err.slots.any fun x => (x.2.evaluate det).1 && x.2.uncorr)

/-- An evaluation whose failure its report will evaluate: a slot that does not fire counts it now. -/
def Engine.tryDetector (e : Engine) (det : Nat) : Bool × Engine :=
  let (fire, e') := e.evaluate det
  (fire, if fire then e else e')

/-- Is a report an injected one? A detector whose evaluations no command shows is evaluated by its report (log entry 26). -/
def Engine.judge (e : Engine) (det : Nat) : Option Bool → Bool × Engine
  | some b => (b, e)
  | none => e.evaluate det

/-! ### Class actions (R336 to R339) -/

/-- The engine fences itself or is fenced: tiles halt, and only PROBE_REPLY is sent from now on (R254). -/
def Engine.fenceSelf (e : Engine) : Engine :=
  if e.mdv.fenced then e
  else (({ e with mdv := { e.mdv with fenced := true } }).emit .haltTiles).emit (.irq 58)

/-- A FATAL-class error stops the engine first: nothing further is delivered, and a group's engine is fenced (R339, steps 1 and 2; R393). -/
def Engine.fatalStop (e : Engine) : Engine :=
  let e := if e.mdv.joined then e.fenceSelf else e.emit .haltTiles
  { e with err := { e.err with fatal := true },
           glb := { e.glb with phase := if e.glb.phase = 0 then 0 else 8, bistBusy := false } }

/-- Its records written, it raises the chip-reset request last (R339, step 4; R381). -/
def Engine.fatalReset (e : Engine) : Engine :=
  let e : Engine := { e with glb := { e.glb with rstReq := !e.glb.mainReset } }
  if e.glb.rstReq then e.emit (.rstReq true) else e

/-- A FATAL-class error, in the order of R339. -/
def Engine.raiseFatal (e : Engine) (det : Nat) (handle : Handle) (detail : Nat) (given : Option Bool := none) : Engine :=
  let (injected, e) := e.judge det given
  (e.fatalStop.errTake det Cls.fatal injected (sourceIsland (det / 4096)) handle detail).fatalReset

/-- An ABORT on every link but the one it came by: two copies on each (R267). -/
def Engine.floodAbort (e : Engine) (step : Nat) (body : List Byte) (from_ : Nat) : Engine :=
  (e.flood 0x0A step body from_).flood 0x0A step body from_

/-- Broadcasts ABORT in a group (R267): step, cause, own rank and sequence, code. -/
def Engine.sendAbort (e : Engine) (step code : Nat) (cause : Nat := 1) : Engine :=
  if e.mdv.joined && !e.mdv.fenced then
    let e := (e.floodAbort step (abortBody step cause e.mdv.rank (e.flt.abortSeq % 65536) code) noRank).bump Cnt.fltAbort
    { e with flt := { e.flt with seenAborts := (e.mdv.rank, e.flt.abortSeq % 65536) :: e.flt.seenAborts, abortSeq := e.flt.abortSeq + 1 } }
  else e

/-- DETAIL of the detectors whose entry in Table 15.2 is "Unit": the code of R322 of the unit that detects. -/
def unitDetail (det : Nat) : Nat := det / 4096

/-- The STEP class action: abort and replay, or FATAL when the vacating replay failed (R338, R271). A committed step stands
(R29, R284). -/
def Engine.stepAction (e : Engine) (courses : List Nat) (code : Nat) (tell : Bool) (detail : Nat := 0) (given : Option Bool := none) :
    Engine :=
  match e.ylm.current with
  | none => e
  | some y =>
    if y.step ≤ e.flt.commitStep then e.log Ev.abortIgnored [y.step] else
    let e := if tell then e.sendAbort y.step code else e
    let (dead, e) := e.abortStep (code == Det.boundaryEffect) courses
    if dead then e.raiseFatal code nullHandle detail given else e

/-- ERR takes a report from the island of its detector's source (R336). -/
def Engine.report (e : Engine) (det cls : Nat) (handle : Handle) (detail : Nat) (given : Option Bool := none) : Engine :=
  let (injected, e) := e.judge det given
  e.errTake det cls injected (sourceIsland (det / 4096)) handle detail

/-- A CORRECTED-class error. -/
def Engine.corrected (e : Engine) (det detail : Nat) (given : Option Bool := none) : Engine :=
  e.report det Cls.corrected nullHandle detail given

/-- A REQUEST-class error for a slot's request: it ends with a status (R337). -/
def Engine.requestError (e : Engine) (det slot status detail : Nat) (given : Option Bool := none) : Engine :=
  (e.failRequest slot status).report det Cls.request (e.handleOf slot) detail given

/-- The report of a STEP-class error whose action has been taken: the failure of a vacating replay is FATAL and already told. -/
def Engine.stepReport (e : Engine) (before : Bool) (det detail : Nat) (given : Option Bool := none) : Engine :=
  if e.err.fatal && !before then e else e.report det Cls.step nullHandle detail given

/-- A STEP-class error of the step in compute, naming courses. -/
def Engine.stepError (e : Engine) (det : Nat) (courses : List Nat) (detail : Nat) (given : Option Bool := none) : Engine :=
  (e.stepAction courses det true detail given).stepReport e.err.fatal det detail given

/-- A register-access error: an ignored access (R12, Table 15.2). -/
def Engine.badAccess (e : Engine) (offset : Nat) : Engine := e.corrected Det.registerAccess offset

/-- An error inside the error handler (R349): the active error's record again with ESCALATED, and FATAL for the new. -/
def Engine.escalate (e : Engine) (det : Nat) : Engine :=
  match e.err.active with
  | none => e
  | some a => ((e.errRecord a true false).bump Cnt.errEscalated).raiseFatal det nullHandle a.sequence

/-- Does a core run the error handler's task while an error is active (R349)? -/
def Engine.runsHandler (e : Engine) (l : Nat) : Bool :=
  e.err.active.isSome && e.flag Fld.errNotifyEn && (e.core l).running == some (e.get Fld.errNotifyTask)

end Sys2Proof.Machine
end

