-- ==== Sys2Proof/Machine/EavesLog.lean ====
section
/-!
DEFINITION. Machine/EavesLog.lean: the commands of the eaves log (chapter 14).
-/

namespace Sys2Proof.Machine

/-- A record arrives; the drops its crossing counted are lost records (R323). -/
def Engine.logRecord (e : Engine) (code : BitVec 16) (injected : Bool) (island : BitVec 4) (payload : List (BitVec 32))
    (dropped : Nat) : Engine :=
  let e := if dropped = 0 then e else e.bumpBy Cnt.evrLost dropped
  e.logArrive code.toNat injected island.toNat payload

def execLogRecord (code : BitVec 16) (injected : Bool) (island : BitVec 4) (payload : List (BitVec 32)) (dropped : Nat)
    (s : State) : Host.Outcome State Fault Refusal :=
  s.actIn Isl.ao fun e => e.logRecord code injected island payload dropped

/-- The first n staged words; a word the firmware did not stage is a free value (R334, log entry 2). -/
def Engine.fwPayload : Nat → List (BitVec 32) → Engine → List (BitVec 32) × Engine
  | 0, _, e => ([], e)
  | n + 1, w :: ws, e =>
    let (r, e) := Engine.fwPayload n ws e
    (w :: r, e)
  | n + 1, [], e =>
    let (v, e) := e.free
    let (r, e) := Engine.fwPayload n [] e
    (v.setWidth 32 :: r, e)

/-- EVR_FW_COMMIT (R323): a code of another source, or more than 64 words, is ignored and recorded. -/
def Engine.fwCommit (e : Engine) (value : BitVec 32) : Engine :=
  let code := bitsOf value.toNat 0 16
  let words := bitsOf value.toNat 16 7
  if code / 4096 != 15 || 64 < words then e.badAccess 0x6044
  else
    let (payload, e) := Engine.fwPayload words e.evr.fwWords e
    let e : Engine := { e with evr := { e.evr with fwWords := [] } }
    e.logArrive code false Isl.cc payload

def execFwCommit (value : BitVec 32) (s : State) : Host.Outcome State Fault Refusal :=
  s.actIn Isl.ao fun e => e.fwCommit value

def execLogEnable (s : State) : Host.Outcome State Fault Refusal := s.actIn Isl.ao Engine.logEnableOn

/-- FREEZE set to 1 (R328). -/
def Engine.freezeLog (e : Engine) : Engine :=
  let e := e.put Fld.evrCtlFreeze 1
  { e with evr := { e.evr with frozen := true } }

def execFreeze (s : State) : Host.Outcome State Fault Refusal := s.actIn Isl.ao Engine.freezeLog

/-- FREEZE returns to 0, by the reader or by the limit (R328). -/
def Engine.thawLog (e : Engine) (timeout : Bool) : Engine := (e.put Fld.evrCtlFreeze 0).logThaw timeout

def execUnfreeze (s : State) : Host.Outcome State Fault Refusal := s.actIn Isl.ao fun e => e.thawLog false

def execFreezeTimeout (s : State) : Host.Outcome State Fault Refusal :=
  s.actIn Isl.ao fun e => if e.evr.frozen then e.thawLog true else e

/-- EVR_CMD.OP = CLEAR (R329). -/
def Engine.clearLog (e : Engine) : Engine := if e.evr.frozen then e.logClear else e.badAccess 0x6008

def execClear (s : State) : Host.Outcome State Fault Refusal := s.actIn Isl.ao Engine.clearLog

/-- EVR_CMD.OP = EMERG_CLEAR (R331). -/
def Engine.clearEmergency (e : Engine) : Engine := { e with evr := { e.evr with emerg := [] } }

def execEmergClear (s : State) : Host.Outcome State Fault Refusal := s.actIn Isl.ao Engine.clearEmergency

/-- The sweep visits one entry (R327). -/
def Engine.sweepRate (e : Engine) : Engine :=
  let c := e.evr.sweepAt
  let (count, tag) := Table.getD e.evr.rates c (0, 0)
  let w := e.logWindow
  let n := e.get Fld.evrRateN
  let e := if tag == w % 16 then e
    else
      let e := if tag == (w + 15) % 16 && n < count then e.logSuppressed c (count - n) else e
      { e with evr := { e.evr with rates := Table.del e.evr.rates c } }
  { e with evr := { e.evr with sweepAt := (c + 1) % 65536 } }

def execRateSweep (s : State) : Host.Outcome State Fault Refusal :=
  s.actIn Isl.ao fun e => if e.get Fld.evrCtlFlood = 2 then e.sweepRate else e

/-- OP_TIME advances by one (R324); it wraps with its 32-bit field. -/
def Engine.opTick (e : Engine) : Engine := { e with evr := { e.evr with opTime := (e.evr.opTime + 1) % 2 ^ 32 } }

def execOptimeTick (s : State) : Host.Outcome State Fault Refusal := s.actIn Isl.ao Engine.opTick

/-- A T0 write of the log is known to have failed (R331): the log's own part, then the report. -/
def Engine.logWriteLost (e : Engine) : Engine :=
  match e.evr.lastWrite with
  | none => e
  | some (_, at_, _) =>
    let (injected, e) := e.evaluate Det.logWrite
    (e.logFailed injected).corrected Det.logWrite at_ (some injected)

def execLogWriteFail (s : State) : Host.Outcome State Fault Refusal := s.actIn Isl.ao fun e => e.logWriteLost

def execLogWriteTimeout (s : State) : Host.Outcome State Fault Refusal := s.actIn Isl.ao fun e => e.logWriteLost

end Sys2Proof.Machine
end

