-- ==== Sys2Proof/Machine/ErrorUnit.lean ====
section
/-!
DEFINITION. Machine/ErrorUnit.lean: the commands of the error unit (chapter 15).
-/

namespace Sys2Proof.Machine

/-- Both copies of a NEXT are lost (R317): the queue is FAILED. How many cells still deliver is open (log entry 2). -/
def Engine.failQueue (e : Engine) (q : Nat) : Engine :=
  let qu := e.queue q
  if !qu.enabled then e
  else
    let (v, e) := e.free
    let qu := { qu with failed := some (v.toNat % (qu.items.length + 1)) }
    (((e.putQueue q qu).endStalls q).bump Cnt.bplUncorr).log Ev.queueFailed [q]

/-- The head item of a queue reads uncorrectable: its pop will carry ERR (R316, log entry 8). -/
def Engine.markBad (e : Engine) (q : Nat) : Engine :=
  let qu := e.queue q
  match qu.items with
  | .words ws _ :: is => (e.putQueue q { qu with items := .words ws true :: is }).bump Cnt.bplUncorr
  | _ => e

/-- A corrected word of an array: its health score, fed by an injected one only under INJ_HEALTH (R351), and the pool's count. -/
def Engine.correctedWord (e : Engine) (det detail : Nat) (injected : Bool) : Engine :=
  let e := if injected && !e.flag Fld.errCtlInjHealth then e else e.feed 4 (bitsOf detail 0 8) 0
  if det / 4096 = 12 then e.bump Cnt.bplCorr else e

/-- What a detector's failure does in the unit it watches, beside the class action; a corrected word of an array feeds its health. -/
def Engine.detectorEffect (e : Engine) (det cls detail : Nat) (injected soft : Bool) : Engine :=
  if soft then e.correctedWord det detail injected
  else if det = Det.battenNext then e.failQueue (bitsOf detail 0 10)
  else if det = Det.battenWord then e.markBad (bitsOf detail 0 10)
  else if det = Det.emergReadback then { e with evr := { e.evr with emergFail := true } }
  else if bitsOf det 8 4 = 1 && cls = 0 then e.correctedWord det detail injected
  else e

/-- The status a REQUEST-class report ends its request with (R337): range checks give MALFORMED. -/
def requestStatus (det : Nat) : Nat := if bitsOf det 8 4 = 3 then Status.malformed else Status.tierFailed

/-- The action of a class (R335 to R339), before ERR takes the report. -/
def Engine.classAction (e : Engine) (det cls : Nat) (handle : Handle) (status detail : Nat) (injected : Bool) : Engine :=
  match cls with
  | 0 => e
  | 1 => match e.lookup handle with
    | some _ => e.failRequest (slotOf handle) status
    | none => e
  | 2 => e.stepAction [] det true detail (some injected)
  | _ => e.fatalStop

/-- ERR takes a report once its class action is taken; a STEP error that failed the vacating replay is FATAL and already told. -/
def Engine.errTaken (e : Engine) (before : Bool) (det cls : Nat) (injected : Bool) (island : Nat) (handle : Handle) (detail : Nat) :
    Engine :=
  if cls = 2 && e.err.fatal && !before then e else e.errTake det cls injected island handle detail

/-- A detector's report (R336): a parity error of the context store while an error is active escalates (R349); an injected ECC failure
is CORRECTED unless its slot's UNCORR is set (R351). -/
def Engine.takeReport (e : Engine) (det cls island : Nat) (handle : Handle) (detail : Nat) : Engine :=
  if det = Det.contextParity && e.err.active.isSome then e.escalate det
  else
    let soft := e.injectsCorrected det
    let cls := if soft then 0 else cls
    let (injected, e) := e.evaluate det
    let before := e.err.fatal
    let e := (e.detectorEffect det cls detail injected soft).classAction det cls handle (requestStatus det) detail injected
    let e := e.errTaken before det cls injected island handle detail
    if cls = 3 then e.fatalReset else e

def execErrorReport (detector : BitVec 16) (cls : BitVec 2) (island : BitVec 4) (handle : BitVec 32) (detail : BitVec 64)
    (s : State) : Host.Outcome State Fault Refusal :=
  s.actIn Isl.ao fun e => e.takeReport detector.toNat cls.toNat island.toNat handle detail.toNat

/-- ERR_CTX_DONE (R348). -/
def Engine.ctxDone (e : Engine) : Engine := if e.err.active.isSome then e.errDone else e.badAccess 0x402C

def execErrCtxDone (s : State) : Host.Outcome State Fault Refusal := s.actIn Isl.ao Engine.ctxDone

/-- ERR_RAISE (R337, R349): a firmware raise of a class; a STATUS the rule does not list is ignored and recorded. -/
def Engine.fwRaise (e : Engine) (value : BitVec 32) : Engine :=
  let v := value.toNat
  let cls := bitsOf v 0 2
  let det := 0xFF00 + bitsOf v 8 8
  let status := bitsOf v 16 8
  let handle := BitVec.ofNat 32 (e.get Fld.errRaiseHandleHandle)
  if bitsOf v 2 1 = 1 && e.err.active.isSome then e.escalate det
  else if cls = 1 && !([Status.tierFailed, Status.malformed, Status.fenced].contains status) then e.badAccess 0x4034
  else
    let e := (e.classAction det cls handle status v false).errTaken e.err.fatal det cls false Isl.cc handle v
    if cls = 3 then e.fatalReset else e

def execErrRaise (value : BitVec 32) (s : State) : Host.Outcome State Fault Refusal := s.actIn Isl.ao fun e => e.fwRaise value

/-- The active error stays unfinished for ERR_HANDLE_TO (R349). -/
def execHandlingTimeout (s : State) : Host.Outcome State Fault Refusal := s.actIn Isl.ao fun e => e.escalate Det.handling

/-- RING_EN from 0 to 1 starts the ring (R342). -/
def Engine.errRingOn (e : Engine) : Engine :=
  if e.flag Fld.errCtlRingEn then e
  else
    let e := (e.put Fld.errCtlRingEn 1).put Fld.errRingHeadIndex 0
    { e with err := { e.err with ringTail := 0, phase := true, ringFull := false } }

def execErrorRingEnable (s : State) : Host.Outcome State Fault Refusal := s.actIn Isl.ao Engine.errRingOn

/-- A read of ERR_UNLOCK_CHAL: a fresh value, and a window of 1 ms (R352). -/
def Engine.challenge (e : Engine) : Nat × Engine :=
  let (v, e) := e.free
  let c : BitVec 32 := v.setWidth 32
  (c.toNat, { e with err := { e.err with challenge := some (c, e.now + 1000000) } })

def execUnlockChallenge (s : State) : Host.Outcome State Fault Refusal :=
  s.actIn Isl.ao fun e =>
    let (v, e) := e.challenge
    e.emit (.regData (BitVec.ofNat 64 v))

/-- Locks the engine and disarms every slot (R352). -/
def Engine.lockErr (e : Engine) : Engine :=
  let e : Engine := { e with err := { e.err with unlocked := false, challenge := none,
                                                 slots := Table.mapV e.err.slots fun _ s => { s with arm := false } } }
  e.log Ev.errLock []

/-- A write of ERR_UNLOCK (R352): 0 locks; the challenge XOR 0x5E4B_0302 within the window unlocks; else it is
recorded and the engine stays locked. -/
def Engine.tryUnlock (e : Engine) (value : BitVec 32) : Engine :=
  if value = 0 then e.lockErr
  else match e.err.challenge with
    | none => e.badAccess 0x4064
    | some (c, limit) =>
      if e.now ≤ limit && value == c ^^^ 0x5E4B0302#32 then
        ({ e with err := { e.err with unlocked := true, challenge := none } } : Engine).log Ev.errUnlock []
      else e.badAccess 0x4064

def execUnlock (value : BitVec 32) (s : State) : Host.Outcome State Fault Refusal := s.actIn Isl.ao fun e => e.tryUnlock value

def execLock (s : State) : Host.Outcome State Fault Refusal := s.actIn Isl.ao Engine.lockErr

end Sys2Proof.Machine
end

