-- ==== Sys2Proof/Machine/Cores.lean ====
section
/-!
DEFINITION. Machine/Cores.lean: the commands of the control cores and the scheduler port (chapter 12).
-/

namespace Sys2Proof.Machine

/-- A port operation of a core in service. -/
def Engine.onCore (e : Engine) (core : BitVec 4) (f : Engine → Engine) : Engine :=
  if (e.core core.toNat).inService then f e else e

/-- A load answers a core. -/
def Engine.answer (e : Engine) (core : BitVec 4) (v : Nat) : Engine := e.emit (.portData core.toNat (BitVec.ofNat 64 v))

/-- SELF: the running task, the core's number, CANCEL_SEEN and RESTARTED, which it clears. With no task running, the
task field is open (log entry 2). -/
def Engine.loadSelf (e : Engine) (core : BitVec 4) : Engine :=
  let id := place core.toNat 16 4
  match (e.core core.toNat).running with
  | none =>
    let (v, e) := e.free
    e.answer core (place v.toNat 0 12 + id)
  | some t => match e.task? t with
    | none => e.answer core (place t 0 12 + id)
    | some r =>
      (e.putTask t { r with cancelSeen := false, restarted := false }).answer core
        (place t 0 12 + id + place (bit r.cancelSeen) 20 1 + place (bit r.restarted) 21 1)

def execSelfLoad (core : BitVec 4) (s : State) : Host.Outcome State Fault Refusal :=
  s.actIn Isl.cc fun e => e.onCore core fun e => e.loadSelf core

/-- WAIT: MASK and MODE; the run ends, READY when the condition already holds (Table 12.3). -/
def Engine.storeWait (e : Engine) (core : BitVec 4) (value : BitVec 64) : Engine :=
  if (e.core core.toNat).running.isNone then e.badAccess 0x2000008
  else e.endRun core.toNat fun r =>
    let r := { r with mask := value.setWidth 32, all := value.getLsbD 32 }
    if r.satisfied then r.toReady e.now else { r with state := .waiting }

def execWaitStore (core : BitVec 4) (value : BitVec 64) (s : State) : Host.Outcome State Fault Refusal :=
  s.actIn Isl.cc fun e => e.onCore core fun e => e.storeWait core value

/-- TAKE: LATCHED AND MASK of the running task, whose bits it clears (R292). -/
def Engine.loadTake (e : Engine) (core : BitVec 4) : Engine :=
  match (e.core core.toNat).running.bind fun t => (e.task? t).map fun r => (t, r) with
  | none => e.badAccess 0x2000010
  | some (t, r) =>
    (e.putTask t { r with latched := r.latched &&& ~~~ r.mask }).answer core (r.latched &&& r.mask).toNat

def execTakeLoad (core : BitVec 4) (s : State) : Host.Outcome State Fault Refusal :=
  s.actIn Isl.cc fun e => e.onCore core fun e => e.loadTake core

/-- The task id of a port word. -/
def portTask (value : BitVec 64) : Nat := bitsOf value.toNat 0 12

/-- An operation on a live task; on a FREE one it is ignored and recorded (R293). -/
def Engine.onTask (e : Engine) (t offset : Nat) (f : Task → Engine) : Engine :=
  match e.task? t with
  | none => e.badAccess offset
  | some r => f r

/-- POST: a flag to a live task. -/
def Engine.storePost (e : Engine) (value : BitVec 64) : Engine :=
  e.onTask (portTask value) 0x2000018 fun _ => e.postFlag (portTask value) (bitsOf value.toNat 16 5)

def execPostStore (value : BitVec 64) (s : State) : Host.Outcome State Fault Refusal := s.actIn Isl.cc fun e => e.storePost value

/-- Has a flag woken the task at this very moment of the timebase (Table 12.7; log entry 48)? -/
def Task.wokenNow (t : Task) (now : Nat) : Bool := t.state == .ready && t.readyTime == now && t.satisfied

/-- CANCEL (R295): it wins over a dispatch it withdraws and over a wake of the same moment, which count as coincidences (R299). -/
def Engine.cancelTask (e : Engine) (t : Nat) (r : Task) : Engine :=
  match r.state with
  | .running => e.putTask t { r with latched := 0, cancelSeen := true }
  | _ =>
    let (won, e) := e.withdraw t
    let e := if won || r.wokenNow e.now then e.bump Cnt.tskCoincide else e
    e.putTask t { r with latched := 0, state := .waiting }

def execCancelTask (value : BitVec 64) (s : State) : Host.Outcome State Fault Refusal :=
  s.actIn Isl.cc fun e => e.onTask (portTask value) 0x2000020 fun r => e.cancelTask (portTask value) r

def Engine.storeYield (e : Engine) (core : BitVec 4) : Engine :=
  if (e.core core.toNat).running.isNone then e.badAccess 0x2000028
  else e.endRun core.toNat fun r => r.toReady e.now

def execYieldStore (core : BitVec 4) (s : State) : Host.Outcome State Fault Refusal :=
  s.actIn Isl.cc fun e => e.onCore core fun e => e.storeYield core

/-- DONE: the owner ends its item of a flow; any other is ignored and recorded (R296). -/
def Engine.storeDone (e : Engine) (core : BitVec 4) (value : BitVec 64) : Engine :=
  let f := bitsOf value.toNat 0 19
  let x := e.flow f
  if x.busy && (e.core core.toNat).running == some x.owner then
    let e := e.putFlow f { x with busy := false }
    let e : Engine := { e with tsk := { e.tsk with service := Table.del e.tsk.service f } }
    e.serveStalls x.queue
  else e.badAccess 0x2000030

def execDoneStore (core : BitVec 4) (value : BitVec 64) (s : State) : Host.Outcome State Fault Refusal :=
  s.actIn Isl.cc fun e => e.onCore core fun e => e.storeDone core value

/-- CHECKIN restarts the core's watchdog (R297). -/
def Engine.storeCheckin (e : Engine) (core : BitVec 4) : Engine :=
  e.putCore core.toNat { e.core core.toNat with wdFrom := e.now }

def execCheckin (core : BitVec 4) (s : State) : Host.Outcome State Fault Refusal :=
  s.actIn Isl.cc fun e => e.onCore core fun e => e.storeCheckin core

/-- The staging record of a core. -/
def Engine.stageOf (e : Engine) (core : BitVec 4) : BitVec 512 := Table.getD e.tsk.stage core.toNat 0

/-- CREATE: a FREE record takes ENTRY, ARG, CTX, MODE, PRIORITY and AFFINITY from STAGE, laid out as Table 12.2 is; its
MASK stays zero (log entry 9). -/
def Engine.storeCreate (e : Engine) (core : BitVec 4) (value : BitVec 64) : Engine :=
  match e.task? (portTask value) with
  | some _ => e.badAccess 0x2000080
  | none =>
    let g := e.stageOf core
    e.putTask (portTask value)
      { entry := g.setWidth 64, arg := (g >>> 64).setWidth 64, ctx := (g >>> 128).setWidth 64, latched := 0, mask := 0,
        state := .waiting, all := g.getLsbD 259, started := false, cancelSeen := false, restarted := false,
        destroyPending := false, priority := f512 g 33 0 5, affinity := BitVec.ofNat 16 (f512 g 34 0 16), lastCore := none,
        readyTime := 0, runs := 0, band := 0 }

def execCreateStore (core : BitVec 4) (value : BitVec 64) (s : State) : Host.Outcome State Fault Refusal :=
  s.actIn Isl.cc fun e => e.onCore core fun e => e.storeCreate core value

/-- DESTROY: a running task ends with its run; any other is FREE at once (Table 12.3). -/
def Engine.destroyTask (e : Engine) (t : Nat) (r : Task) : Engine :=
  match r.state with
  | .running => e.putTask t { r with destroyPending := true }
  | _ => (e.withdraw t).2.delTask t

def execDestroyStore (value : BitVec 64) (s : State) : Host.Outcome State Fault Refusal :=
  s.actIn Isl.cc fun e => e.onTask (portTask value) 0x2000088 fun r => e.destroyTask (portTask value) r

/-- PRIO; a running task lowered below a ready one has its core examined at once (R293). -/
def Engine.storePrio (e : Engine) (t : Nat) (value : BitVec 64) (r : Task) : Engine :=
  let p := bitsOf value.toNat 16 5
  let e := e.putTask t { r with priority := p, affinity := BitVec.ofNat 16 (bitsOf value.toNat 48 16) }
  if r.state == .running && p < r.priority && e.readyTasks.any (fun x => decide (p < x.2.priority)) then e.schedule else e

def execPrioStore (value : BitVec 64) (s : State) : Host.Outcome State Fault Refusal :=
  s.actIn Isl.cc fun e => e.onTask (portTask value) 0x2000090 fun r => e.storePrio (portTask value) value r

/-- NEXT: the task dispatched to the core, or 0xFFF (R295). -/
def Engine.storeNext (e : Engine) (core : BitVec 4) : Engine :=
  let (t, e) := e.loadNext core.toNat
  e.answer core (t.getD 0xFFF)

def execNextLoad (core : BitVec 4) (s : State) : Host.Outcome State Fault Refusal :=
  s.actIn Isl.cc fun e => e.onCore core fun e => e.storeNext core

/-- STAGE: one word of the core's staging record. -/
def Engine.storeStage (e : Engine) (core : BitVec 4) (word : Nat) (value : BitVec 64) : Engine :=
  let g := BitVec.ofNat 512 (setBits (e.stageOf core).toNat (64 * word) 64 value.toNat)
  { e with tsk := { e.tsk with stage := Table.put e.tsk.stage core.toNat g } }

def execStageStore (core : BitVec 4) (word : BitVec 3) (value : BitVec 64) (s : State) : Host.Outcome State Fault Refusal :=
  s.actIn Isl.cc fun e => e.onCore core fun e => e.storeStage core word.toNat value

def execDispatch (s : State) : Host.Outcome State Fault Refusal := s.actIn Isl.cc Engine.schedule

def execSchedulerEnable (s : State) : Host.Outcome State Fault Refusal := s.cross Isl.cc .schedulerEnable fun e => e.put Fld.tskCtlEnable 1

/-! ### Core faults (R297) -/

/-- A flow is open again: its item in service goes before every other of its queue, marked RETRY. -/
def Engine.reopenFlow (e : Engine) (f : Nat) (x : Flow) : Engine :=
  let e : Engine := e.putFlow f { x with busy := false, retry := true }
  match Table.get? e.tsk.service f with
  | none => e
  | some (q, item) =>
    { e with tsk := { e.tsk with service := Table.del e.tsk.service f, redeliver := e.tsk.redeliver ++ [(f, q, item)] } }

/-- The flows a task owns. -/
def Engine.flowsOf (e : Engine) (t : Nat) : List (Nat × Flow) := e.tsk.flows.filter fun x => x.2.busy && x.2.owner == t

/-- Re-opens the flows a task owned. -/
def Engine.reopenFlows (e : Engine) (t : Nat) : Engine := (e.flowsOf t).foldl (fun e x => e.reopenFlow x.1 x.2) e

/-- The running task of a faulted core becomes READY, to start again at ENTRY. -/
def Engine.restartTask (e : Engine) (l : Nat) : Engine :=
  match (e.core l).running with
  | none => e
  | some t =>
    let e := match e.task? t with
      | none => e
      | some r => (e.putTask t { (r.toReady e.now) with started := false, restarted := true }).bump Cnt.tskRestart
    e.reopenFlows t

/-- A core has faulted (R297), and its local memory is lost (R289); on the handler's core while an error is active, R349 applies
instead. Every core has faulted when none serves and no spare is due to serve. -/
def Engine.faultCore (e : Engine) (l : Nat) (det : Nat) : Engine :=
  let c := e.core l
  if !c.inService then e
  else if e.runsHandler l then e.escalate det
  else
    let queues := (c.running.map fun t => (e.flowsOf t).map fun x => x.2.queue).getD []
    let e := ((e.restartTask l).bump Cnt.tskCoreFault).feed 3 (c.phys.getD 0) 0
    let due := e.tsk.sparePhys.length ≤ e.tsk.spareDue.length
    let c' := { Core.idle none with retired := due, busyNs := (c.account e.now).busyNs }
    let e := e.putCore l c'
    let e : Engine := { e with tsk := { e.tsk with locals := Table.del e.tsk.locals l, retiredPhys := e.tsk.retiredPhys ++ [c.phys.getD 0], override := e.tsk.override || due,
                                                   spareDue := if due then e.tsk.spareDue else e.tsk.spareDue ++ [(l, c.phys.getD 0)] } }
    let e := queues.foldl Engine.serveStalls (e.corrected det l)
    if !e.tsk.spareDue.isEmpty || (logicalCores.any fun i => (e.core i).inService) then e else e.raiseFatal Det.allCores nullHandle l

/-- It runs a task for TSK_CORE_WD without a CHECKIN. -/
def execCoreWatchdogExpiry (core : BitVec 4) (s : State) : Host.Outcome State Fault Refusal :=
  s.actIn Isl.cc fun e =>
    let c := e.core core.toNat
    if c.running.isSome && c.wdFrom + e.get Fld.tskCoreWdUs * 1000 ≤ e.now then e.faultCore core.toNat Det.coreFault else e

/-- It does not acknowledge a dispatch within TSK_PREEMPT_TO. -/
def execPreemptTimeout (core : BitVec 4) (s : State) : Host.Outcome State Fault Refusal :=
  s.actIn Isl.cc fun e =>
    let c := e.core core.toNat
    if c.chosen.isSome && c.irqAt + e.get Fld.tskPreemptToUs * 1000 ≤ e.now then e.faultCore core.toNat Det.preempt else e

/-- Its local memory or bus interface reports an uncorrectable word. -/
def execCoreFault (core : BitVec 4) (s : State) : Host.Outcome State Fault Refusal :=
  s.actIn Isl.cc fun e => e.faultCore core.toNat Det.coreFault

end Sys2Proof.Machine
end

