-- ==== Sys2Proof/Machine/Queues.lean ====
section
/-!
DEFINITION. Machine/Queues.lean: the commands of the batten pool (chapter 13).
-/

namespace Sys2Proof.Machine

/-- A unit's push (R304): only queues 0 to 127 are fed by units, and a disabled one drops the write. -/
def Engine.unitPush (e : Engine) (q : Nat) (ws : List (BitVec 64)) : Engine :=
  if !e.flag Fld.bplCtlEnable || 128 ≤ q || ws.isEmpty then e
  else if (e.queue q).enabled then e.pushItem q (ws.take 7)
  else e.bump Cnt.bplNoq

def execUnitPush (queue : BitVec 10) (words : List (BitVec 64)) (s : State) : Host.Outcome State Fault Refusal :=
  s.cross Isl.bp (.unitPush queue words) fun e => e.unitPush queue.toNat words

/-- A core's PUSH: the staged words 0 to LEN − 1 (R308). -/
def Engine.corePush (e : Engine) (core q : Nat) (value : BitVec 64) : Engine :=
  let len := bitsOf value.toNat 0 3
  if len = 0 || !(e.queue q).enabled then e.badAccess (0x3000000 + 64 * q)
  else e.pushItem q ((List.range len).map fun i => Table.getD (e.view core q).staged i 0)

/-- A port operation of a core in service, while the pool accepts them (Table 13.7). -/
def Engine.atPort (e : Engine) (core : BitVec 4) (f : Engine → Engine) : Engine := if e.flag Fld.bplCtlEnable then e.onCore core f else e

def Engine.pushPort (e : Engine) (core : BitVec 4) (q : Nat) (value : BitVec 64) : Engine :=
  e.atPort core fun e => e.corePush core.toNat q value

def execPush (core : BitVec 4) (queue : BitVec 10) (value : BitVec 64) (s : State) : Host.Outcome State Fault Refusal :=
  s.cross Isl.bp (.push core queue value) fun e => e.pushPort core queue.toNat value

/-- A core's POP (R311, R312). A queue that is not enabled holds nothing and stalls no load (log entry 10); an atomic
queue serves a running task only. -/
def Engine.corePop (e : Engine) (core q : Nat) : Engine :=
  let qu := e.queue q
  if !qu.enabled then e.answerPop core q [] (popStatus 0 false false false false false false false)
  else if qu.atomic && (e.core core).running.isNone then e.badAccess (0x3000000 + 64 * q)
  else e.popItem core q

def Engine.popPort (e : Engine) (core : BitVec 4) (q : Nat) : Engine := e.atPort core fun e => e.corePop core.toNat q

def execPop (core : BitVec 4) (queue : BitVec 10) (s : State) : Host.Outcome State Fault Refusal :=
  s.cross Isl.bp (.pop core queue) fun e => e.popPort core queue.toNat

/-- A load of payload word w of the core's last pop (R308); a word the item had not is open (log entry 2). -/
def Engine.loadPopped (e : Engine) (core : BitVec 4) (q w : Nat) : Engine :=
  e.atPort core fun e => match (e.view core.toNat q).popped[w]? with
    | some x => e.answer core x.toNat
    | none =>
      let (v, e) := e.free
      e.answer core v.toNat

/-- BPL_STALL_TO passes over a load held pending (R312). -/
def Engine.stallTimeout (e : Engine) (core : Nat) : Engine :=
  match (e.core core).stalled with
  | none => e
  | some (q, t) =>
    if t + e.get Fld.bplStallToUs * 1000 ≤ e.now then
      ((e.putCore core { e.core core with stalled := none }).answerPop core q []
        (popStatus 0 false false false false true false false)).bump Cnt.bplStallTo
    else e

def execPopStallTimeout (core : BitVec 4) (s : State) : Host.Outcome State Fault Refusal :=
  s.actIn Isl.bp fun e => e.stallTimeout core.toNat

/-- A core stages payload word w, 0 to 6 (R308). -/
def Engine.stagePort (e : Engine) (core : BitVec 4) (q w : Nat) (value : BitVec 64) : Engine :=
  if w < 7 then
    e.atPort core fun e =>
      let v := e.view core.toNat q
      e.putView core.toNat q { v with staged := Table.put v.staged w value }
  else e

def execStagePayloadWord (core : BitVec 4) (queue : BitVec 10) (word : BitVec 3) (value : BitVec 64) (s : State) :
    Host.Outcome State Fault Refusal :=
  s.cross Isl.bp (.stagePayloadWord core queue word value) fun e => e.stagePort core queue.toNat word.toNat value

/-- A queue with the fields a write of BPL_Q_CFG gives it, ENABLE apart (Table 13.7). -/
def Queue.withCfg (q : Queue) (v : Nat) : Queue :=
  { q with cls := bitsOf v 1 2, atomic := bitsOf v 3 1 == 1, notifyEn := bitsOf v 4 1 == 1, notifyTask := bitsOf v 8 12,
           notifyFlag := bitsOf v 20 5, xoffLine := bitsOf v 25 4, xoffEn := bitsOf v 29 1 == 1 }

/-- BPL_Q_CFG as it reads. -/
def Queue.cfg (q : Queue) : Nat :=
  place (bit q.enabled) 0 1 + place q.cls 1 2 + place (bit q.atomic) 3 1 + place (bit q.notifyEn) 4 1 +
    place q.notifyTask 8 12 + place q.notifyFlag 20 5 + place q.xoffLine 25 4 + place (bit q.xoffEn) 29 1

/-- A write of BPL_Q_CFG with ENABLE = 1 to the selected queue (R306, R313, R319): the other fields only while it is
disabled; a queue without a free cell or with its watermarks out of order is not enabled. -/
def Engine.enableQueue (e : Engine) (value : Nat) : Engine :=
  let i := e.get Fld.bplQSelQueue
  let q := e.queue i
  let q' := q.withCfg value
  if bitsOf value 1 2 = 3 then e.badAccess 0xA010
  else if q.enabled then (if q' = q then e else e.badAccess 0xA010)
  else if e.bpl.free = 0 || q.high ≤ q.low || q.maxDepth < q.high then e.badAccess 0xA010
  else e.putQueue i { q' with enabled := true, drops := 0, items := [], failed := none, xoff := false }

def execQueueEnable (value : BitVec 32) (s : State) : Host.Outcome State Fault Refusal :=
  s.cross Isl.bp (.queueEnable value) fun e => e.enableQueue (setBits value.toNat 0 1 1)

/-- ENABLE is cleared only while the queue holds no item, one waiting for re-delivery included, and no marker; its reserve returns
(R319). -/
def Engine.disableQueue (e : Engine) : Engine :=
  let i := e.get Fld.bplQSelQueue
  let q := e.queue i
  if !q.enabled then e
  else if q.items.isEmpty && (e.tsk.redeliver.all fun x => x.2.1 != i) then e.putQueue i { q with enabled := false, failed := none, xoff := false }
  else e.badAccess 0xA010

def execQueueDisable (s : State) : Host.Outcome State Fault Refusal := s.cross Isl.bp .queueDisable Engine.disableQueue

def execQueueReset (s : State) : Host.Outcome State Fault Refusal :=
  s.cross Isl.bp .queueReset fun e => e.resetQueue (e.get Fld.bplQSelQueue)

end Sys2Proof.Machine
end

