-- ==== Sys2Proof/Machine/Timebase.lean ====
section
/-!
DEFINITION. Machine/Timebase.lean: AO's copy of the chip timebase (R364).
-/

namespace Sys2Proof.Machine

/-- The effective crystal offset in ppb: factory value plus trim, clamped (Table 16.3). -/
def Engine.xtalEff (e : Engine) : Int := clampInt (-32767) 32767 (e.cal.xtal + e.getS Fld.calXtalTrimTrim)

/-- One AO cycle of the 64-bit count (R10): 5 ns, the crystal correction through the fractional accumulator, and at most 1 ns of slew. While the
copy holds, only the time still to hold runs down (R364). -/
def Timebase.cycle (t : Timebase) (ppb : Int) : Timebase :=
  if t.hold > 0 then { t with hold := t.hold - 5 }
  else
    let acc := t.frac + 5 * clampInt (-32767) 32767 ppb
    let move := clampInt (-1) 1 t.slew
    { t with count := (t.count + (5 + acc / 1000000000 + move).toNat) % 2 ^ 64, frac := acc % 1000000000, slew := t.slew - move }

/-- What a strobe does to the copy (R364): slew within 20 ns, step forward when the chip is ahead, hold when it is
behind. The copy never runs backward. -/
def Timebase.strobe (t : Timebase) (chip : Nat) : Timebase :=
  if t.count ≤ chip then
    if chip - t.count ≤ 20 then { t with slew := (chip - t.count : Nat), hold := 0 }
    else { t with count := chip, slew := 0, hold := 0 }
  else if t.count - chip ≤ 20 then { t with slew := -((t.count - chip : Nat) : Int), hold := 0 }
  else { t with slew := 0, hold := t.count - chip }

/-- The difference between the copy and a chip count. -/
def Timebase.distance (t : Timebase) (chip : Nat) : Nat :=
  if t.count ≤ chip then chip - t.count else t.count - chip

/-- One AO cycle of the machine: what passes while no command waits (log entry 3). -/
def State.cycle (s : State) : State := { s with tb := s.tb.cycle s.eng.xtalEff }

/-- The oldest item whose island runs, and the items that stay (R16). -/
def State.delivery (s : State) : Option (Instr × List (Nat × Instr)) :=
  match s.crossing.find? fun x => s.eng.live x.1 with
  | none => none
  | some x => some (x.2, s.crossing.erase x)

/-- An outcome with the crossings' items as they stand after a delivery. -/
def keepCrossing (rest : List (Nat × Instr)) : Host.Outcome State Fault Refusal → Host.Outcome State Fault Refusal
  | .next t => .next { t with crossing := rest }
  | .fault f => .fault f
  | .refused r => .refused r

end Sys2Proof.Machine
end

