-- ==== Sys2Proof/Machine/Clocks.lean ====
section
/-!
DEFINITION. Machine/Clocks.lean: island clocks, temperature, the timebase's strobes, oscillator trims, and self-test
(chapter 16, R371, R392).
-/

namespace Sys2Proof.Machine

/-! ### Island clocks (R356, R357) -/

/-- Nominal frequencies in kHz by island code (Table 1.2). -/
def nominalKhz (island : Nat) : Nat :=
  [1000000, 1600000, 1600000, 1200000, 1200000, 1800000, 1600000, 200000, 1600000].getD island 0

/-- No admission and no request: every rafter slot is free (R356, R384). -/
def Engine.quiet (e : Engine) : Bool := e.get Fld.admCtlOpen == 0 && e.slots.count == 262144

/-- HI loads GLB_HOST as it leaves reset (R391). -/
def Engine.loadHost (e : Engine) : Engine :=
  if e.live Isl.hi then { e with glb := { e.glb with host := e.hru.link } } else e

/-- A write of CPC_CLK_EN: bits 5 and 7 stay 1; another bit is cleared only while the engine is quiet (R356). -/
def Engine.enableClocks (e : Engine) (value : BitVec 32) : Engine :=
  let islands : BitVec 9 := value.setWidth 9 ||| 0x0A0
  let cleared := e.cpc.running &&& ~~~ islands
  if cleared != 0 && !e.quiet then e.badAccess 0x2000
  else
    let before := e.live Isl.hi
    let e := e.put Fld.cpcClkEnIslands islands.toNat
    let e : Engine := { e with cpc := { e.cpc with running := islands } }
    if before then e else e.loadHost

def execIslandClockEnable (value : BitVec 32) (s : State) : Host.Outcome State Fault Refusal :=
  s.actIn Isl.ao fun e => e.enableClocks value

/-- More than 1 % from the nominal frequency (R357). -/
def offNominal (island khz : Nat) : Bool :=
  decide (nominalKhz island < 100 * (khz - nominalKhz island)) || decide (nominalKhz island < 100 * (nominalKhz island - khz))

/-- One window of the clock monitor (R357). -/
def Engine.monitorClock (e : Engine) (island khz : Nat) : Engine :=
  if !e.cpc.running.getLsbD island then e
  else
    let e : Engine := { e with cpc := { e.cpc with freqs := Table.put e.cpc.freqs island khz } }
    let (injected, e) := e.evaluate Det.clockMonitor
    if offNominal island khz || injected then
      let e : Engine := { e with cpc := { e.cpc with monFail := e.cpc.monFail ||| BitVec.twoPow 9 island } }
      e.raiseFatal Det.clockMonitor nullHandle island (some injected)
    else e

def execClockMonitorWindow (island : BitVec 4) (khz : BitVec 21) (s : State) : Host.Outcome State Fault Refusal :=
  s.actIn Isl.ao fun e => e.monitorClock island.toNat khz.toNat

/-! ### Temperature (R363) -/

/-- The thresholds in force. -/
def Engine.warnAt (e : Engine) : Int := (e.get Fld.cpcThermWarn : Nat)
def Engine.hotAt (e : Engine) : Int := (e.get Fld.cpcThermHot : Nat)
def Engine.hyst (e : Engine) : Int := (e.get Fld.cpcTherm2Hyst : Nat)

/-- The level at a hottest reading: each is left when the reading falls below its threshold by HYST. -/
def Engine.levelAt (e : Engine) (hottest : Int) : Nat :=
  let held := fun (level : Nat) (threshold : Int) => threshold ≤ hottest || (level ≤ e.cpc.level && threshold - e.hyst ≤ hottest)
  if held 2 e.hotAt then 2 else if held 1 e.warnAt then 1 else 0

/-- A reading corrected by the sensor's effective offset, within the 11-bit field. -/
def Engine.corrected8 (e : Engine) (n : Nat) (reading : BitVec 11) : Int :=
  clampInt (-1024) 1023 (toSigned 11 reading.toNat + e.sensorEff n)

/-- The sensors are read: the level follows the hottest; WARN is recorded and interrupts, CRIT is FATAL once the fuses have given it (log
entry 11). -/
def Engine.readSensors (e : Engine) (readings : List (BitVec 11)) : Engine :=
  let temps := ((List.range 8).zip readings).map fun (n, r) => (n, e.corrected8 n r)
  match temps with
  | [] => e
  | (_, t) :: rest =>
    let hottest := rest.foldl (fun m x => max m x.2) t
    let level := e.levelAt hottest
    let entered := e.cpc.level = 0 && 0 < level
    let e : Engine := { e with cpc := { e.cpc with temps := temps, level := level } }
    let e := if entered then (e.log Ev.thermal [ofSigned 32 hottest]).emit (.irq 57) else e
    let (injected, e) := e.evaluate Det.critical
    if (e.cal.loaded && decide ((e.cal.crit : Int) ≤ hottest)) || injected then e.raiseFatal Det.critical nullHandle (ofSigned 32 hottest) (some injected) else e

def execSensorRead (readings : List (BitVec 11)) (s : State) : Host.Outcome State Fault Refusal :=
  s.actIn Isl.ao fun e => e.readSensors readings

/-! ### The timebase (R364, R365) -/

/-- Is a strobe rejected: the difference is above CPC_TB_STEP_MAX.US, and two have not been rejected in a row before it? -/
def State.rejectsStrobe (s : State) (count : Nat) : Bool :=
  decide (s.eng.get Fld.cpcTbStepMaxUs * 1000 < s.tb.distance count) && decide (s.eng.cpc.tbRejects < 2)

def execTimebaseStrobe (count : BitVec 64) (s : State) : Host.Outcome State Fault Refusal :=
  if !s.eng.live Isl.ao then .next s
  else if s.rejectsStrobe count.toNat then
    s.act fun e => ({ e with cpc := { e.cpc with tbRejects := e.cpc.tbRejects + 1 } } : Engine).bump Cnt.cpcTbReject
  else
    ({ s with tb := s.tb.strobe count.toNat } : State).act fun e =>
      { e with cpc := { e.cpc with tbRejects := 0, tbLost := false } }

/-- No strobe for CPC_TB_TO.US. -/
def Engine.loseTimebase (e : Engine) : Engine :=
  let e : Engine := { e with cpc := { e.cpc with tbLost := true } }
  e.corrected Det.timebase 0

def execTimebaseTimeout (s : State) : Host.Outcome State Fault Refusal := s.actIn Isl.ao Engine.loseTimebase

/-! ### Oscillator trims (R367) -/

/-- The code an island's generator runs at. -/
def Engine.oscEff (e : Engine) (i : Nat) : Nat := Table.getD e.cal.oscEff i (Table.getD e.cal.osc i 512)

/-- The island's last measured frequency in units of 0.0001 kHz; before the first window, the nominal one moved by 0.05 %
for each step from the factory code (log entry 11). -/
def Engine.freqOf (e : Engine) (i : Nat) : Int :=
  match Table.get? e.cpc.freqs i with
  | some khz => (khz : Int) * 10000
  | none => (nominalKhz i : Int) * (10000 + 5 * ((e.oscEff i : Int) - (Table.getD e.cal.osc i 512 : Nat)))

/-- Would one step of 0.05 % carry the frequency more than 0.75 % from nominal? A higher code runs faster (log entry 11). -/
def Engine.stepsOut (e : Engine) (i : Nat) (up : Bool) : Bool :=
  let nominal : Int := nominalKhz i
  let next := e.freqOf i + (if up then 5 * nominal else -5 * nominal)
  decide (75 * nominal < next - 10000 * nominal) || decide (75 * nominal < 10000 * nominal - next)

/-- One µs: the code moves one step toward its target, or holds at the margin, which is recorded once a target. -/
def Engine.trimStep (e : Engine) (i : Nat) : Engine :=
  let eff := e.oscEff i
  let target := e.oscTarget i
  if eff = target || 9 ≤ i then e
  else if e.stepsOut i (decide (eff < target)) then
    if Table.get? e.cal.oscHeld i = some target then e
    else ({ e with cal := { e.cal with oscHeld := Table.put e.cal.oscHeld i target } } : Engine).log Ev.oscHeld [i, eff]
  else
    let next := if eff < target then eff + 1 else eff - 1
    { e with cal := { e.cal with oscEff := Table.put e.cal.oscEff i next, oscHeld := Table.del e.cal.oscHeld i } }

def execOscTrimStep (island : BitVec 4) (s : State) : Host.Outcome State Fault Refusal :=
  s.actIn Isl.ao fun e => if e.cal.loaded then e.trimStep island.toNat else e

/-! ### Checks of Table 17.1 -/

/-- The chip reference is absent for 1 µs. -/
def execRefClockLoss (s : State) : Host.Outcome State Fault Refusal :=
  s.actIn Isl.ao fun e => e.raiseFatal Det.refClock nullHandle 0

/-- The record in a journal slot fails its CHECK when it is read next (R260). -/
def Engine.damageSlot (e : Engine) (slot : Nat) : Engine :=
  { e with flt := { e.flt with journal := Table.modify e.flt.journal slot fun r => { r with damaged := true } } }

/-- An uncorrectable word at a partition offset (Tables 1.5, 1.9, 15.2, 17.1). The eaves log has its own outcome; reserved space is
neither written nor read; a word of a journal slot damages its record. A step in compute is replayed where Table 15.2 names the
region; for the other regions, and with no step in compute, see log entry 12. -/
def Engine.t0Lost (e : Engine) (offset : Nat) : Engine :=
  match regionAt offset with
  | none | some (.reserved, _) => e
  | some (.eavesLog, _) => e.logWriteLost
  | some (r, base) =>
    let e := if r = .journal then e.damageSlot ((offset - base) / 4194304) else e
    if r.stepClass && e.ylm.current.isSome then e.stepError Det.t0Port [] offset else e.corrected Det.t0Port offset

def execT0PortTimeout (address : BitVec 31) (s : State) : Host.Outcome State Fault Refusal :=
  s.actIn Isl.ao fun e => e.t0Lost address.toNat

/-! ### Self-test (R392) -/

/-- A write of 1 to GLB_CTL.BIST. -/
def Engine.requestBist (e : Engine) : Engine :=
  if e.quiet && e.get Fld.ylmCtlMode == 2 && !e.glb.bistBusy && !e.glb.mainReset then
    let phase := if e.glb.phase = 2 || e.glb.phase = 4 then 3 else e.glb.phase
    let e : Engine := { e with glb := { e.glb with bistBusy := true, bistDone := false, bistFail := false, fail := 0,
                                                   repaired := 0, phase := phase } }
    (e.askLeave true 5 (e.credits (e.energy 5 * 1000000)) .bist).2
  else e.badAccess 0x14

def execBistRequest (s : State) : Host.Outcome State Fault Refusal := s.actIn Isl.ao Engine.requestBist

/-- The grant under which self-test runs. -/
def Engine.bistGrant (e : Engine) : Option LeaveReq := e.cpc.ch1.grants.find? fun g => g.for_ == .bist

/-- Self-test ends: its results are latched, spares take the places of the parts that failed (log entry 13), and its grant ends. -/
def Engine.endBist (e : Engine) (r : BistResult) : Engine :=
  match e.glb.bistBusy, e.bistGrant with
  | true, some g =>
    let glb := { e.glb with bistBusy := false, bistDone := true, bistFail := r.fail != 0, fail := r.fail, repaired := r.repaired }
    (({ e with glb := glb } : Engine).bistSpares r).endGrant true g.tag
  | _, _ => e

def execBistEnd (result : BistResult) (s : State) : Host.Outcome State Fault Refusal :=
  s.actIn Isl.ao fun e => e.endBist result

end Sys2Proof.Machine
end

