-- ==== Sys2Proof/Machine/Reset.lean ====
section
/-!
DEFINITION. Machine/Reset.lean: the fuse load and the two resets (R366, R379 to R381, R393).
-/

namespace Sys2Proof.Machine

/-! ### The factory assignment of cores (R233, R301) -/

/-- The 18 physical control cores' order as a fuse word gives it: 16 numbers of 5 bits; identity where the word names no
assignment (log entry 14). -/
def coreMapOf (v : Nat) : List Nat :=
  let l := (List.range 16).map fun i => bitsOf v (5 * i) 5
  if l.Nodup && l.all (fun p => decide (p < 18)) then l else List.range 16

/-- The 16 spare spar cores as a fuse word gives them: 9 bits each (log entry 14). -/
def sparSparesOf (v : Nat) : List Nat :=
  let l := (List.range 16).map fun i => bitsOf v (9 * i) 9
  if l.Nodup && l.all (fun p => decide (p < 272)) then l else (List.range 16).map (256 + ·)

/-- Logical numbers in order of physical number over the cores that start in service. -/
def sparTable (spares : List Nat) : Nat → Nat → Nat → Table SparCore
  | 0, _, _ => []
  | n + 1, p, l =>
    if spares.contains p then (p, { active := false, spare := true, retired := false, logical := 0 }) :: sparTable spares n (p + 1) l
    else (p, { active := true, spare := false, retired := false, logical := l }) :: sparTable spares n (p + 1) (l + 1)

/-- The cores start as the fuses name them. -/
def Engine.provision (e : Engine) : Engine :=
  { e with tsk := { e.tsk with cores := ((List.range 16).zip e.cal.coreMap).map fun (l, p) => (l, Core.idle (some p)),
                               sparePhys := (List.range 18).filter fun p => !e.cal.coreMap.contains p },
           spg := { e.spg with cores := sparTable e.cal.sparSpares 272 0 0 } }

/-! ### The fuse load (R366, Table 16.3) -/

/-- A fuse word's value, or its fallback when its CRC fails. -/
def fuseOr (w : FuseWord) (fallback : Nat) : Nat := if w.good then w.value else fallback

/-- The i-th word of a list; a word the macro did not give counts as failed. -/
def fuseAt (l : List FuseWord) (i : Nat) : FuseWord := l.getD i { value := 0, good := false }

/-- The words of an image in a fixed order, for the record of each failed one. -/
def fuseWords (m : FuseImage) : List FuseWord :=
  (List.range 9).map (fuseAt m.osc) ++ (List.range 8).map (fuseAt m.sensor) ++ [m.xtal, m.bin] ++
    (List.range 6).map (fuseAt m.energy) ++ [m.crit] ++ (List.range 4).map (fuseAt m.weights) ++
    [m.stepping, m.caps, m.sparCores, m.coreMap]

/-- Table 16.3's fallbacks of the energy coefficients, and Table 11.8's weights. -/
def energyFallback (i : Nat) : Nat := [65535, 64, 64, 64, 64, 65535].getD i 0
def weightFallback (i : Nat) : Nat := [1, 4, 64, 255].getD i 0

/-- The mirror as an image sets it. Stepping and capability words have no fallback in Table 16.3: a failed one reads as a
free value (log entry 2). -/
def Engine.loadMirror (e : Engine) (m : FuseImage) : Engine :=
  let (v, e) := e.free
  let table := fun (n : Nat) (l : List FuseWord) (fb : Nat → Nat) (mod : Nat) =>
    (List.range n).map fun i => (i, fuseOr (fuseAt l i) (fb i) % mod)
  let osc := table 9 m.osc (fun _ => 512) 1024
  { e with cal := { e.cal with
      loaded := true, fuseBad := (fuseWords m).any fun w => !w.good, osc := osc, oscEff := osc,
      sensor := (List.range 8).map fun i => (i, toSigned 8 (fuseOr (fuseAt m.sensor i) 0)),
      xtal := toSigned 16 (fuseOr m.xtal 0), bin := fuseOr m.bin 1279 % 2048,
      energy := table 6 m.energy energyFallback 65536, crit := fuseOr m.crit 800 % 2048,
      weights := table 4 m.weights weightFallback 256, stepping := fuseOr m.stepping (bitsOf v.toNat 0 16) % 65536,
      caps := fuseOr m.caps (bitsOf v.toNat 16 32) % 2 ^ 32, coreMap := coreMapOf m.coreMap.value,
      sparSpares := sparSparesOf m.sparCores.value } }

/-- HOT and WARN are loaded below a CRIT that does not lie above them (R363); below 0 the result is open (log entry 2). -/
def Engine.lowerThresholds (e : Engine) : Engine :=
  if e.get Fld.cpcThermHot < e.cal.crit && e.get Fld.cpcThermWarn < e.cal.crit then e
  else if 80 ≤ e.cal.crit then (e.put Fld.cpcThermHot (e.cal.crit - 40)).put Fld.cpcThermWarn (e.cal.crit - 80)
  else
    let (v, e) := e.free
    (e.put Fld.cpcThermHot (bitsOf v.toNat 0 11)).put Fld.cpcThermWarn (bitsOf v.toNat 11 11)

/-- LOADED: with the main reset released, PHASE is BOOT (R393) and the main islands leave reset (R379). -/
def Engine.finishLoad (e : Engine) : Engine :=
  let e := e.lowerThresholds.provision
  if e.glb.mainReset then e
  else ({ e with glb := { e.glb with phase := if e.glb.phase = 1 then 2 else e.glb.phase } } : Engine).loadHost

/-- The fuse load completes: each failed word is recorded. -/
def Engine.fuseDone (e : Engine) (m : FuseImage) : Engine :=
  if e.cal.loaded then e
  else
    let e := e.loadMirror m
    let bad := ((List.range 100).zip (fuseWords m)).filter fun x => !x.2.good
    (bad.foldl (fun e x => e.log Ev.fuseBad [x.1]) e).finishLoad

def execFuseLoadDone (image : FuseImage) (s : State) : Host.Outcome State Fault Refusal :=
  s.actIn Isl.ao fun e => e.fuseDone image

/-- An image none of whose words was read. -/
def unreadFuses : FuseImage :=
  let w : FuseWord := { value := 0, good := false }
  { osc := [], sensor := [], xtal := w, bin := w, energy := [], crit := w, weights := [], stepping := w, caps := w,
    sparCores := w, coreMap := w }

/-- No `_done` within 10 µs: every value takes its fallback and FUSE_BAD is set (Table 17.1). -/
def Engine.fuseLost (e : Engine) : Engine :=
  if e.cal.loaded then e
  else ((e.loadMirror unreadFuses).log Ev.fuseBad [0xFFFFFFFF]).finishLoad

def execFuseLoadTimeout (s : State) : Host.Outcome State Fault Refusal := s.actIn Isl.ao Engine.fuseLost

/-! ### Resets (R379, R381, R393) -/

/-- AO resets, and with it every other island: only the bytes of the log region, the pins and what has been driven stay. -/
def Engine.aoReset (e : Engine) : Engine :=
  { Engine.reset with now := e.now, taken := e.taken, mem := e.mem, out := if e.glb.rstReq then .rstReq false :: e.out else e.out,
                      glb := { Glb.reset with mainReset := e.glb.mainReset }, hru := { Hru.reset with link := e.hru.link } }

/-- `ske_rst_n_ao` goes low; the timebase copy is 0 from there (Table 16.8). -/
def execAoResetAssert (s : State) : Host.Outcome State Fault Refusal :=
  .next { s with tb := .reset, crossing := [], eng := { s.eng.aoReset with now := 0 } }

/-- `ske_rst_n_ao` is released: the fuse load begins. -/
def Engine.aoRelease (e : Engine) : Engine :=
  if e.glb.aoReset then { e with glb := { e.glb with aoReset := false, phase := 1 } } else e

def execAoResetRelease (s : State) : Host.Outcome State Fault Refusal := s.act Engine.aoRelease

/-- The arbiter releases every grant of a channel and drops the requests that wait; one on the pins runs on, and its grant
is released when it comes. -/
def Channel.dropAll (c : Channel) : Channel :=
  { c with waiting := [], grants := [], due := c.due ++ c.grants.map (·.tag) }

/-- The registers and counters of AO, which a main reset keeps: the units below 0x8000 (Tables 17.5, 19.1). -/
def keepAo {α : Type} (t : Table α) (scale : Nat) : Table α := Table.keep t fun k _ => decide (k < 0x8000 * scale)

/-- The main islands in reset: AO's units keep their state; the T0 regions are zeroed as they leave it (R380). -/
def Engine.mainReset (e : Engine) : Engine :=
  let r := Engine.reset
  let e' := { r with now := e.now, taken := e.taken, regs := keepAo e.regs 32, cnt := keepAo e.cnt 1,
                     highs := keepAo e.highs 1, mem := e.mem, out := e.out, evr := e.evr, err := e.err, cal := e.cal,
                     cpc := { e.cpc with ch0 := e.cpc.ch0.dropAll, ch1 := e.cpc.ch1.dropAll },
                     glb := { e.glb with mainReset := true, bistBusy := false, opened := false, rstReq := false },
                     hru := { Hru.reset with link := e.hru.link } }
  let e' := if e.cal.loaded then Engine.provision e' else e'
  if e.glb.rstReq then e'.emit (.rstReq false) else e'

/-- `ske_rst_n_main` goes low. -/
def execMainResetAssert (s : State) : Host.Outcome State Fault Refusal := s.act Engine.mainReset

/-- `ske_rst_n_main` is released (R393): BOOT from CALIBRATE once the fuses are loaded, and from every later phase. -/
def Engine.mainRelease (e : Engine) (link : HostLink) : Engine :=
  if !e.glb.mainReset then e
  else
    let phase := if e.glb.aoReset || !e.cal.loaded then e.glb.phase else 2
    ({ e with glb := { e.glb with mainReset := false, phase := phase }, hru := { e.hru with link := some link } } : Engine).loadHost

def execMainResetRelease (link : HostLink) (s : State) : Host.Outcome State Fault Refusal := s.act fun e => e.mainRelease link

end Sys2Proof.Machine
end

