-- ==== Sys2Proof/Machine/Spar.lean ====
section
/-!
DEFINITION. Machine/Spar.lean: the spar function, bit for bit (R221), the keys and counters of its purposes (R222), and
the hash of a prompt block (R155).
-/

namespace Sys2Proof.Machine

/-- The four state words of an evaluation. -/
structure Quad where
  x0 : BitVec 32
  x1 : BitVec 32
  x2 : BitVec 32
  x3 : BitVec 32
  deriving DecidableEq, Repr

/-- Injection j of a key (R221). -/
def Quad.inject (q : Quad) (k0 k1 : BitVec 32) (j : Nat) : Quad :=
  { x0 := q.x0 + k0, x1 := q.x1 + (k1 ^^^ 0x6A5D3C17#32), x2 := q.x2 + (k0 ^^^ k1), x3 := q.x3 + (k1 + BitVec.ofNat 32 j) }

/-- Rotations of even pairs and odd pairs, by round modulo 8. -/
def sparA (i : Nat) : Nat := [11, 19, 7, 23, 14, 29, 5, 17].getD (i % 8) 0
def sparB (i : Nat) : Nat := [21, 9, 27, 3, 18, 12, 25, 6].getD (i % 8) 0

/-- Round i, with its swap. -/
def Quad.round (q : Quad) (i : Nat) : Quad :=
  let x0 := q.x0 + q.x1
  let x1 := (q.x1.rotateLeft (sparA i)) ^^^ x0
  let x2 := q.x2 + q.x3
  let x3 := (q.x3.rotateLeft (sparB i)) ^^^ x2
  { x0 := x0, x1 := x3, x2 := x2, x3 := x1 }

/-- Four rounds from round i. -/
def Quad.four (q : Quad) (i : Nat) : Quad := (((q.round i).round (i + 1)).round (i + 2)).round (i + 3)

/-- One evaluation: key (k0, k1), counter in the words of q (R221). -/
def spar (k0 k1 : BitVec 32) (q : Quad) : Quad :=
  let q := q.inject k0 k1 0
  let q := (q.four 0).inject k0 k1 1
  let q := (q.four 4).inject k0 k1 2
  (q.four 8).inject k0 k1 3

/-- Word n of an evaluation. -/
def Quad.word (q : Quad) (n : Nat) : BitVec 32 :=
  match n % 4 with
  | 0 => q.x0 | 1 => q.x1 | 2 => q.x2 | _ => q.x3

/-! ### Keys and counters (Table 9.2) -/

/-- The random word of token t at an absolute position: purpose MAIN (1) or HEAD-ONLY (2), attempt 0. -/
def drawWord (seed : BitVec 64) (purpose t position : Nat) (epoch : BitVec 32) : BitVec 32 :=
  (spar (seed.setWidth 32) ((seed >>> 32).setWidth 32)
    { x0 := BitVec.ofNat 32 (t / 4), x1 := BitVec.ofNat 32 position, x2 := BitVec.ofNat 32 (place purpose 24 8), x3 := epoch }).word t

/-- The four words of a tile-port request: purpose ROUNDING (0x10) or MASK (0x11), keyed by the step. -/
def tileWords (step purpose : Nat) (c0 c1 site : BitVec 32) (epoch : BitVec 32) : Quad :=
  spar (BitVec.ofNat 32 step) (BitVec.ofNat 32 (bitsOf step 32 16))
    { x0 := c0, x1 := c1, x2 := BitVec.ofNat 32 (place purpose 24 8) ||| site, x3 := epoch }

/-- Counts evaluations of the legget or the tile port; the counters hold units of 2^16 (R233). -/
def Engine.evaluations (e : Engine) (tile : Bool) (n : Nat) : Engine :=
  if tile then
    let total := e.spg.evalTile + n
    ({ e with spg := { e.spg with evalTile := total % 65536 } } : Engine).bumpBy Cnt.spgEvalTile (total / 65536)
  else
    let total := e.spg.evalSmp + n
    ({ e with spg := { e.spg with evalSmp := total % 65536 } } : Engine).bumpBy Cnt.spgEvalSmp (total / 65536)

/-! ### The block hash (R155) -/

/-- One of the eight evaluations of a block: tokens a to d of group g. -/
def hashGroup (h salt : BitVec 64) (g a b c d : Nat) : BitVec 64 :=
  let c0 := BitVec.ofNat 32 (a + (b % 256) * 2 ^ 24)
  let c1 := BitVec.ofNat 32 (b / 256 + (c % 65536) * 2 ^ 16)
  let c2 := BitVec.ofNat 32 (c / 65536 + d * 256)
  let c3 := BitVec.ofNat 32 (0x20 * 2 ^ 24 + g * 2 ^ 16)
  let k := salt ^^^ h
  let q := spar (k.setWidth 32) ((k >>> 32).setWidth 32) { x0 := c0, x1 := c1, x2 := c2, x3 := c3 }
  (q.x1 ^^^ q.x3) ++ (q.x0 ^^^ q.x2)

/-- The hash of a block's 32 token ids, from group g on. -/
def hashFrom : Nat → Nat → BitVec 64 → BitVec 64 → List Nat → BitVec 64
  | n + 1, g, h, salt, a :: b :: c :: d :: ts => hashFrom n (g + 1) (hashGroup h salt g a b c d) salt ts
  | _, _, h, _, _ => h

def blockHash (h salt : BitVec 64) (tokens : List Nat) : BitVec 64 := hashFrom 8 0 h salt tokens

/-- The chain over blocks b, b + 1, … of a token list that starts at block b's first position: (block, hash) for each whole
block, at most n of them. -/
def hashChain : Nat → Nat → BitVec 64 → BitVec 64 → List Nat → List (Nat × BitVec 64)
  | 0, _, _, _, _ => []
  | n + 1, b, h, salt, ts =>
    if (ts.take 32).length = 32 then
      let h := blockHash h salt (ts.take 32)
      (b, h) :: hashChain n (b + 1) h salt (ts.drop 32)
    else []

end Sys2Proof.Machine
end

