-- ==== Sys2Proof/Machine/Pages.lean ====
section
/-!
DEFINITION. Machine/Pages.lean: the page table, frames, holders, the prefix index and the lists of requests (R140 to
R145, R150 to R160, R165).
-/

namespace Sys2Proof.Machine

/-! ### Entries and lists (R140, R141) -/

/-- A FREE entry. -/
def Page.blank : Page :=
  { next := 0, state := .free, tier := 3, indexed := false, mixed := false, baseOnly := false, holders := 0, prev := 0,
    primary := 0, frame := 0, pins := 0, cls := 0, bucket := 0, way := 0, before := .free, owner := none, cachedAt := 0,
    salt := 0, family := 0 }

def Engine.page (e : Engine) (p : Nat) : Page := Table.getD e.pgm.pages p .blank

/-- n entries of a list from p on, linked by NEXT. -/
def Engine.chain (e : Engine) : Nat → Nat → List Nat
  | 0, _ => []
  | n + 1, p => p :: Engine.chain e n (e.page p).next

/-- The page list of a request (R141). -/
def Engine.listOf (e : Engine) (slot : Nat) : List Nat :=
  match e.req? slot with
  | none => []
  | some r => e.chain r.pageCount r.pageHead

/-- The primary an entry stands for. -/
def Engine.primaryOf (e : Engine) (p : Nat) : Nat :=
  let x := e.page p
  if x.state == .aliasEntry then x.primary else p

/-- The primaries of a request's list, in position order. -/
def Engine.primaries (e : Engine) (slot : Nat) : List Nat := (e.listOf slot).map e.primaryOf

/-! ### Residency (R143) -/

/-- States in which a request needs its pages in T0 or T1; a fenced one needs them as the state it left did. -/
def Rafter.needsPages (r : Rafter) : Bool :=
  let live := fun (x : ReqState) => match x with
    | .queued => true | .prefill => true | .decode => true | .restoring => true | .cancelling => true | .retiring => true
    | _ => false
  live r.state || (r.state == .fenced && live r.fencedFrom)

/-- Is a prefix resident (R185): bound, or within its hold? -/
def PrefixRec.holdsResident (x : PrefixRec) : Bool := decide (0 < x.bound) || x.resident

/-- RESIDENT of a primary: its holders that need it in T0 or T1. It is computed from the holders' own state. -/
def Engine.residentOf (e : Engine) (p : Nat) : Nat :=
  let uses := fun (l : List Nat) => (l.filter fun q => e.primaryOf q == p).length
  sumBy (e.rafter.filter fun x => x.2.needsPages) (fun x => uses (e.listOf x.1)) +
    sumBy (e.pgm.walk.filter fun w => w.resident) (fun w => uses (e.chain w.count w.head)) +
    (e.var.prefixes.filter fun x => x.2.holdsResident && x.2.pages.contains p).length

/-- Codes of the page states (Table 6.2). -/
def PageState.code : PageState → Nat
  | .free => 0 | .openPage => 1 | .full => 2 | .cached => 3 | .inTransit => 4 | .copying => 5 | .aliasEntry => 6 | .failed => 7

/-- The 16 B entry (Table 6.1), with RESIDENT given. -/
def Page.image (x : Page) (resident : Nat) : Nat :=
  if x.state == .aliasEntry then place x.next 0 22 + place x.state.code 22 4 + place x.primary 32 22
  else
    place x.next 0 22 + place x.state.code 22 4 + place x.tier 26 2 + place (bit x.indexed) 28 1 + place (bit x.mixed) 29 1 +
      place (bit x.baseOnly) 30 1 +
      (if x.state == .cached then place x.prev 32 22 else place x.holders 32 16 + place resident 48 16) + place x.frame 64 32 +
      place x.pins 96 2 + place x.cls 98 3 + place x.bucket 101 22 + place x.way 123 1

/-- An entry changes; a group's replicas are told (R244). -/
def Engine.putPage (e : Engine) (p : Nat) (x : Page) : Engine :=
  ({ e with pgm := { e.pgm with pages := Table.put e.pgm.pages p x } } : Engine).ops
    (0x02 + place p 8 24 + x.image (e.residentOf p) * 2 ^ 64)

def Engine.modPage (e : Engine) (p : Nat) (f : Page → Page) : Engine :=
  match Table.get? e.pgm.pages p with
  | some x => e.putPage p (f x)
  | none => e

/-- An undefined link: the NEXT of a list's last entry (Table 6.1), or the PREV of its first (log entry 2). -/
def Engine.undefLink (e : Engine) : Nat × Engine :=
  let (v, e) := e.free
  (v.toNat % 2 ^ 22, e)

/-- Links two neighbours of a list; an end that has no neighbour is undefined. -/
def Engine.joinPages (e : Engine) (a b : Option Nat) : Engine :=
  match a, b with
  | some a, some b => (e.modPage a fun x => { x with next := b }).modPage b fun x => { x with prev := a }
  | some a, none =>
    let (v, e) := e.undefLink
    e.modPage a fun x => { x with next := v }
  | none, some b =>
    let (v, e) := e.undefLink
    e.modPage b fun x => { x with prev := v }
  | none, none => e

/-- A page joins the tail of the cached list, doubly linked through NEXT and PREV (R151). -/
def Engine.enterCached (e : Engine) (p : Nat) : Engine :=
  let last := e.pgm.cached.getLast?
  let e := e.modPage p fun x => { x with state := .cached, cachedAt := e.now, owner := none }
  let e := (e.joinPages last (some p)).joinPages (some p) none
  ({ e with pgm := { e.pgm with cached := e.pgm.cached ++ [p] } } : Engine).wakeAll

/-- A page leaves the cached list; its neighbours are joined. -/
def Engine.leaveCached (e : Engine) (p : Nat) : Engine :=
  let l := e.pgm.cached
  if !l.contains p then e
  else
    let i := l.idxOf p
    let before := if i = 0 then none else l[i - 1]?
    let e : Engine := { e with pgm := { e.pgm with cached := l.filter (· != p) } }
    e.joinPages before l[i + 1]?

/-- Requests whose list holds a primary. -/
def Engine.holdersOf (e : Engine) (p : Nat) : List Nat :=
  (e.rafter.filter fun x => (e.primaries x.1).contains p).map Prod.fst

/-! ### Frames (R144, R145, R151) -/

def Pool.none : Pool := { base := 0, count := 0, frames := .full 0, reserved := 0 }

/-- The pool of tier 0 or 1 and class c. The reservations of a class are counted at its T0 pool (R165). -/
def Engine.pool (e : Engine) (tier c : Nat) : Pool := Table.getD e.pgm.pools (8 * tier + c) .none

def Engine.putPool (e : Engine) (tier c : Nat) (p : Pool) : Engine :=
  { e with pgm := { e.pgm with pools := Table.put e.pgm.pools (8 * tier + c) p } }

def Engine.frameFree (e : Engine) (tier c : Nat) : Nat := (e.pool tier c).frames.count

/-- Cached pages of a tier and class, oldest first. One in transit keeps its place on the list and is not among them (log entry 51). -/
def Engine.cachedIn (e : Engine) (tier c : Nat) : List Nat :=
  e.pgm.cached.filter fun p => (e.page p).state == .cached && (e.page p).tier == tier && (e.page p).cls == c

/-- Does a pool stand at or above 1/1,024 of its frames times mark? -/
def Engine.atMark (e : Engine) (tier c mark : Nat) : Bool := decide (mark * (e.pool tier c).count ≤ 1024 * e.frameFree tier c)

/-- A free frame of a pool. -/
def Engine.takeFrame (e : Engine) (tier c : Nat) : Option (Nat × Engine) :=
  let p := e.pool tier c
  p.frames.take.map fun (k, f) => (k, e.putPool tier c { p with frames := f })

/-- Returns a page's frame to its pool or extent. -/
def Engine.giveFrame (e : Engine) (tier c frame : Nat) : Engine :=
  if tier = 2 then
    match Table.get? e.pgm.extents (frame / 2 ^ 26) with
    | none => e
    | some x =>
      let x := { x with frames := x.frames.give (frame % 2 ^ 26) }
      { e with pgm := { e.pgm with extents := Table.put e.pgm.extents (frame / 2 ^ 26) x } }
  else if tier < 2 then
    let p := e.pool tier c
    e.putPool tier c { p with frames := p.frames.give frame }
  else e

/-! ### The prefix index (R157) -/

def Way.none : Way := { hash := 0, page := 0, block := 0, valid := false }

def Engine.bucket (e : Engine) (b : Nat) : Way × Way := Table.getD e.pgm.index b (.none, .none)

def Engine.way (e : Engine) (b w : Nat) : Way := if w = 0 then (e.bucket b).1 else (e.bucket b).2

/-- The 16 B way (R157). -/
def Way.image (x : Way) : Nat :=
  x.hash.toNat + place x.page 64 22 + place x.block 86 19 + place (bit x.valid) 105 1

def Engine.putWay (e : Engine) (b w : Nat) (x : Way) : Engine :=
  let (w0, w1) := e.bucket b
  ({ e with pgm := { e.pgm with index := Table.put e.pgm.index b (if w = 0 then (x, w1) else (w0, x)) } } : Engine).ops
    (0x05 + place b 8 24 + place w 32 1 + x.image * 2 ^ 64)

/-- A page leaves the index. -/
def Engine.unindex (e : Engine) (p : Nat) : Engine :=
  let x := e.page p
  if x.indexed then (e.putWay x.bucket x.way .none).putPage p { x with indexed := false } else e

/-- An entry returns to the free entry list; the group's replicas are told (R163). -/
def Engine.freeEntry (e : Engine) (p : Nat) : Engine :=
  let e := e.ops (0x04 + place p 8 24)
  ({ e with pgm := { e.pgm with pages := Table.del e.pgm.pages p, entries := e.pgm.entries.give p } } : Engine).wakeAll

/-- Is a move of a page outstanding? -/
def Engine.moveOut (e : Engine) (p : Nat) : Bool :=
  e.pgm.moves.any fun m => m.page == p && match m.why with | .variantLoad _ => false | _ => true

/-- A page is freed: its way, its frame, its place on the cached list and its entry (R153). -/
def Engine.freePage (e : Engine) (p : Nat) : Engine :=
  let e := (e.unindex p).leaveCached p
  let x := e.page p
  (e.giveFrame x.tier x.cls x.frame).freeEntry p

/-- A page with no holder goes where Table 6.3 says: CACHED while indexed and caching is on, else FREE once unpinned; a FAILED page
waits for a move of it that is still outstanding. -/
def Engine.settle (e : Engine) (p : Nat) : Engine :=
  let x := e.page p
  if x.holders ≠ 0 then e
  else match x.state with
    | .full =>
      if x.indexed && e.flag Fld.pgmCtlCacheEn then e.enterCached p
      else if x.pins = 0 then e.freePage p else e
    | .openPage => if x.pins = 0 then e.freePage p else e
    | .failed => if x.pins = 0 && !e.moveOut p then e.freePage p else e
    | .cached => if !x.indexed && x.pins = 0 then e.freePage p else e
    | _ => e

/-- Takes a holder; a CACHED page becomes FULL (R159), one on its way between tiers when its move ends. -/
def Engine.takeHolder (e : Engine) (p : Nat) : Engine :=
  let e := e.leaveCached p
  let x := e.page p
  e.putPage p { x with holders := x.holders + 1, state := if x.state == .cached then .full else x.state,
                       before := if x.state == .inTransit && x.before == .cached then .full else x.before }

/-- Drops a holder. -/
def Engine.dropHolder (e : Engine) (p : Nat) : Engine :=
  let x := e.page p
  (e.putPage p { x with holders := x.holders - 1 }).settle p

/-- Reclaims the oldest CACHED page of a tier and class that no sealed yealm pins (R151). -/
def Engine.reclaim (e : Engine) (tier c : Nat) : Option Engine :=
  ((e.cachedIn tier c).find? fun p => (e.page p).pins == 0).map fun p => (e.freePage p).bump Cnt.pgmReclaim

/-- A frame of a pool, reclaiming one when none is free. -/
def Engine.findFrame (e : Engine) (tier c : Nat) : Option (Nat × Engine) :=
  match e.takeFrame tier c with
  | some x => some x
  | none => (e.reclaim tier c).bind fun e => e.takeFrame tier c

/-- A new frame in the order of R145: tier, frame and engine. -/
def Engine.bindFrame (e : Engine) (c : Nat) : Option (Nat × Nat × Engine) :=
  let from_ := fun (t : Nat) (x : Option (Nat × Engine)) => x.map fun (k, e) => (t, k, e)
  let first := if e.atMark 0 c (e.get Fld.pgmT0WmLow) then from_ 0 (e.takeFrame 0 c) else none
  ((first.orElse fun _ => from_ 1 (e.takeFrame 1 c)).orElse fun _ => from_ 1 (e.findFrame 1 c)).orElse fun _ =>
    from_ 0 (e.findFrame 0 c)

/-- A frame of the first T2 extent of a class that has one free: the FRAME field and the engine. -/
def Engine.takeT2 (e : Engine) (c : Nat) : Option (Nat × Engine) :=
  (e.pgm.extents.find? fun x => x.2.cls == c && decide (0 < x.2.frames.count)).bind fun (i, x) =>
    x.frames.take.map fun (k, f) =>
      (i * 2 ^ 26 + k, { e with pgm := { e.pgm with extents := Table.put e.pgm.extents i { x with frames := f } } })

/-- A frame of a tier and class: a T2 frame, or one of a pool, a cached page's if need be. -/
def Engine.frameOf (e : Engine) (tier c : Nat) : Option (Nat × Engine) := if tier = 2 then e.takeT2 c else e.findFrame tier c

/-- Frames of a tier and class, n of them while they last. -/
def Engine.framesOf (tier c : Nat) : Nat → Engine → List Nat × Engine
  | 0, e => ([], e)
  | n + 1, e => match e.frameOf tier c with
    | none => ([], e)
    | some (k, e) =>
      let (ks, e) := Engine.framesOf tier c n e
      (k :: ks, e)

/-- A standby of several ranks holds a page in further frames, one for each (R274): they return. -/
def Engine.dropMirrors (e : Engine) (p : Nat) : Engine :=
  let x := e.page p
  let ks := Table.getD e.pgm.mirrors p []
  ks.foldl (fun e k => e.giveFrame x.tier x.cls k) { e with pgm := { e.pgm with mirrors := Table.del e.pgm.mirrors p } }

/-- Further frames of a page, where it stands. -/
def Engine.takeMirrors (e : Engine) (p n : Nat) : Engine :=
  let x := e.page p
  let (ks, e) := Engine.framesOf x.tier x.cls n e
  if ks.isEmpty then e else { e with pgm := { e.pgm with mirrors := Table.put e.pgm.mirrors p ks } }

/-- Physical address of a frame of a tier and class; for T2, node [63:48] and offset [47:0] (Table 6.4). -/
def Engine.frameAddr (e : Engine) (tier c frame : Nat) : BitVec 64 :=
  if tier = 2 then
    match Table.get? e.pgm.extents (frame / 2 ^ 26) with
    | none => 0
    | some x => BitVec.ofNat 64 (place x.node 48 16 + (x.base + (frame % 2 ^ 26) * frameBytes c) % 2 ^ 48)
  else (e.pool tier c).base + BitVec.ofNat 64 (frame * frameBytes c)

/-! ### Reservations (R165) -/

/-- Frames of a class that count as free: free and cached in T0 and T1, less those reserved. -/
def Engine.classFree (e : Engine) (c : Nat) : Nat :=
  e.frameFree 0 c + e.frameFree 1 c + (e.cachedIn 0 c).length + (e.cachedIn 1 c).length - (e.pool 0 c).reserved

/-- KV page capacity of a class (condition 8 of Table 4.2). -/
def Engine.classCapacity (e : Engine) (c : Nat) : Nat := (e.pool 0 c).count + (e.pool 1 c).count

/-- Page entries free and not reserved. -/
def Engine.entriesFree (e : Engine) : Nat := e.pgm.entries.count - e.pgm.entryReserved

/-- Reserves entries and frames of a class, or none. -/
def Engine.reservePages (e : Engine) (c entries frames : Nat) : Option Engine :=
  if entries ≤ e.entriesFree && frames ≤ e.classFree c then
    let p := e.pool 0 c
    let e := e.putPool 0 c { p with reserved := p.reserved + frames }
    some { e with pgm := { e.pgm with entryReserved := e.pgm.entryReserved + entries } }
  else none

/-- Returns part of a reservation. -/
def Engine.unreserve (e : Engine) (c entries frames : Nat) : Engine :=
  let p := e.pool 0 c
  let e := e.putPool 0 c { p with reserved := p.reserved - frames }
  { e with pgm := { e.pgm with entryReserved := e.pgm.entryReserved - entries } }

/-- The unused part of a request's reservation returns. -/
def Engine.releaseReservation (e : Engine) (slot : Nat) : Engine :=
  match e.req? slot with
  | none => e
  | some r =>
    ((e.unreserve (e.family r.family).cls r.entriesRes r.reserved).putReq slot { r with entriesRes := 0, reserved := 0 }).wakeAll

/-! ### Appending to a list -/

/-- The last entry of a request's list. -/
def Engine.lastOf (e : Engine) (slot : Nat) : Option Nat := (e.listOf slot).getLast?

/-- A frame bound to an entry, as the group's replicas are told (R244). -/
def Engine.opsBind (e : Engine) (p tier cls : Nat) : Engine := e.ops (0x01 + place p 8 24 + place tier 32 8 + place cls 40 8)

/-- Appends an entry: the number is taken from the free entry list, against the request's reservation. NEXT of a last entry is undefined
(Table 6.1). -/
def Engine.appendEntry (e : Engine) (slot : Nat) (x : Page) : Option (Nat × Engine) :=
  match e.req? slot, e.pgm.entries.take with
  | some r, some (p, f) =>
    let used := min 1 r.entriesRes
    let e' : Engine := { e with pgm := { e.pgm with entries := f, entryReserved := e.pgm.entryReserved - used } }
    let e' := match e.lastOf slot with
      | none => e'
      | some l => e'.modPage l fun y => { y with next := p }
    let (v, e') := e'.undefLink
    let e' := (if x.state == .aliasEntry || x.tier == 3 then e' else e'.opsBind p x.tier x.cls).putPage p { x with next := v }
    some (p, e'.putReq slot { r with pageHead := if r.pageCount = 0 then p else r.pageHead, pageCount := r.pageCount + 1,
                                     entriesRes := r.entriesRes - used })
  | _, _ => none

/-- Appends an alias of a primary. -/
def Engine.appendAlias (e : Engine) (slot p : Nat) : Engine :=
  match e.appendEntry slot { Page.blank with state := .aliasEntry, tier := 0, primary := p } with
  | none => e
  | some (_, e) => e.takeHolder p

/-- A new primary of a request, marked as the list entry before it is (R158). -/
def Engine.newPrimary (e : Engine) (slot : Nat) (family : Nat) : Page :=
  let x := { Page.blank with holders := 1, cls := (e.family family).cls, owner := some slot, family := family }
  match e.lastOf slot with
  | none => x
  | some l =>
    let y := e.page (e.primaryOf l)
    { x with mixed := y.mixed, baseOnly := y.baseOnly }

/-- A frame bound against a request's reservation. -/
def Engine.bindFor (e : Engine) (slot c : Nat) : Option (Nat × Nat × Engine) :=
  (e.bindFrame c).map fun (t, k, e) =>
    match e.req? slot with
    | none => (t, k, e)
    | some r =>
      let used := min 1 r.reserved
      (t, k, (e.unreserve c 0 used).putReq slot { r with reserved := r.reserved - used })

/-- Appends an OPEN primary with its frame (R141). -/
def Engine.appendOpen (e : Engine) (slot family : Nat) : Option Engine :=
  match e.bindFor slot (e.family family).cls with
  | none => none
  | some (t, k, e) => (e.appendEntry slot { e.newPrimary slot family with state := .openPage, tier := t, frame := k }).map Prod.snd

/-- Appends n OPEN primaries. -/
def Engine.appendOpens : Nat → Nat → Nat → Engine → Option Engine
  | 0, _, _, e => some e
  | n + 1, slot, family, e => (e.appendOpen slot family).bind (Engine.appendOpens n slot family)

/-! ### Hashing and matching (R154 to R159) -/

/-- The salt of a request's chain (R154). -/
def Engine.saltFor (e : Engine) (family tenant : Nat) : BitVec 64 :=
  if (e.family family).share then (e.family family).salt else Table.getD e.pgm.salts tenant 0

/-- h_init (R154). -/
def Rafter.hashStart (r : Rafter) : BitVec 64 :=
  BitVec.ofNat 64 (place r.family 0 8 + (if r.addValid then place r.addition 8 16 + place r.version 24 8 else 0) +
    (if r.pfxValid then place r.pfx 32 20 else 0) + place (bit r.addValid) 52 1 + place (bit r.pfxValid) 53 1)

/-- The first hashed block (R155). -/
def Rafter.firstBlock (r : Rafter) : Nat := r.pfxLen / 32

/-- Every hash of a request's token list: positions of the prefix in the first block contribute 0xFF_FFFF (R155, R156). -/
def Rafter.hashes (r : Rafter) : List (Nat × BitVec 64) :=
  let b0 := r.firstBlock
  let tokens := List.replicate (r.pfxLen % 32) 0xFFFFFF ++ r.listTokens
  hashChain (r.inputEnd / 32 - b0) b0 r.hashStart r.chainSalt tokens

/-- Hashes in the chain stage. -/
def Engine.staged (e : Engine) : Nat := sumBy e.pgm.stage fun x => x.2.length

/-- Stages a request's hashes, as many as fit (R156). -/
def Engine.stageHashes (e : Engine) (slot : Nat) (hs : List (Nat × BitVec 64)) : Engine :=
  let room := 1048576 - e.staged
  let kept := hs.take room
  let e : Engine := { e with pgm := { e.pgm with stage := Table.put e.pgm.stage slot kept, stageFull := e.pgm.stageFull || room < hs.length } }
  if room < hs.length then e.bumpBy Cnt.pgmRegSkipped (hs.length - room) else e

/-- The page of a valid way that holds a hash and block. -/
def Engine.indexed? (e : Engine) (b : Nat) (h : BitVec 64) : Option Nat :=
  let k := bitsOf h.toNat 0 22
  ([0, 1].map (e.way k)).findSome? fun w => if w.valid && w.hash == h && w.block == b then some w.page else none

/-- The hits of a chain, in order, up to the first block that fails (R159). -/
def Engine.hits (e : Engine) (seqEnd : Nat) : List (Nat × BitVec 64) → List Nat
  | [] => []
  | (b, h) :: hs =>
    match e.indexed? b h with
    | none => []
    | some p =>
      let x := e.page p
      let ok := x.state == .full || x.state == .cached || x.state == .inTransit
      if ok && decide (x.holders < 65535) && decide (32 * (b + 1) ≤ seqEnd - 1) then p :: Engine.hits e seqEnd hs else []

/-- The lookup after the decision that admits a request (R159). A cache object's pages are imported instead (log entry 15). The staged hash
of a block matched is neither registered nor skipped: it stays staged to effect 2 (log entry 51). -/
def Engine.matchPrefix (e : Engine) (slot : Nat) : Engine :=
  match e.req? slot with
  | none => e
  | some r =>
    if !e.flag Fld.pgmCtlMatchEn || r.srcKind then e
    else
      let ps := e.hits r.seqEnd (Table.getD e.pgm.stage slot [])
      let e := ps.foldl (fun e p => (e.appendAlias slot p).bump Cnt.pgmMatch) e
      e.modReq slot fun r => { r with matched := ps.length, lookupOpen := true }

/-! ### Registration (R158) -/

/-- The staged hash of a block leaves the stage. -/
def Engine.unstageHash (e : Engine) (slot b : Nat) : Engine :=
  { e with pgm := { e.pgm with stage := Table.modify e.pgm.stage slot fun l => l.filter fun x => x.1 != b } }

/-- The way a new block takes: the first that is not valid, else the older whose page is CACHED. -/
def Engine.freeWay (e : Engine) (k : Nat) : Option Nat :=
  match [0, 1].find? fun w => !(e.way k w).valid with
  | some w => some w
  | none =>
    (e.pgm.cached.find? fun p => (e.page p).state == .cached && (e.page p).pins == 0 && ((e.way k 0).page == p || (e.way k 1).page == p)).map fun p =>
      if (e.way k 0).page = p then 0 else 1

/-- Registers a request's own block with its hash, or skips it; old values enter the undo log (R266). -/
def Engine.registerBlock (e : Engine) (slot p b : Nat) (h salt : BitVec 64) : Engine :=
  let k := bitsOf h.toNat 0 22
  let e := e.unstageHash slot b
  if (e.indexed? b h).isSome then e.bump Cnt.pgmRegSkipped
  else match e.freeWay k with
    | none => e.bump Cnt.pgmRegSkipped
    | some w =>
      let old := e.way k w
      let e := e.logUndo (.index k (e.bucket k))
      let e := if old.valid then (e.logUndo (.freed old.page (e.page old.page) e.pgm.cached)).freePage old.page else e
      let e := e.putWay k w { hash := h, page := p, block := b, valid := true }
      (e.modPage p fun x => { x with indexed := true, bucket := k, way := w, salt := salt }).bump Cnt.pgmRegistered

/-- Entry j of a request's list is FULL: registered when R158's conditions hold. -/
def Engine.register (e : Engine) (slot j p : Nat) : Engine :=
  match e.req? slot with
  | none => e
  | some r =>
    let x := e.page p
    match (Table.getD e.pgm.stage slot []).find? fun y => y.1 == j with
    | none => e
    | some (b, h) =>
      if e.flag Fld.pgmCtlRegisterEn && !x.mixed && !x.baseOnly then e.registerBlock slot p b h r.chainSalt
      else (e.unstageHash slot b).bump Cnt.pgmRegSkipped

/-- KV_END passed the last position of entry j: an OPEN page becomes FULL (R142). An imported page, FULL since its copy landed, is
registered now, when its hash is staged (R160, log entry 51). -/
def Engine.fillPage (e : Engine) (slot j p : Nat) : Engine :=
  let x := e.page p
  match x.state with
  | .openPage => ((e.logUndo (.page p x)).putPage p { x with state := .full }).register slot j p
  | .inTransit =>
    if x.before == .openPage then ((e.logUndo (.page p x)).putPage p { x with before := .full }).register slot j p else e
  | .full =>
    if x.owner == some slot && (Table.getD e.pgm.stage slot []).any fun y => y.1 == j then (e.logUndo (.page p x)).register slot j p else e
  | _ => e

/-- Every own page of a request that its KV_END has passed. -/
def Engine.fillPages (e : Engine) (slot : Nat) : Engine :=
  match e.req? slot with
  | none => e
  | some r => (((e.listOf slot).take (r.kvEnd / 32)).zipIdx).foldl (fun e (p, j) => e.fillPage slot j p) e

/-- Marks the primaries a request holds alone, through its own entry or an alias, at a rebind (R158). -/
def Engine.markMixed (e : Engine) (slot : Nat) : Engine :=
  (e.primaries slot).foldl (fun e p =>
    if (e.page p).holders == 1 then
      let e := e.unindex p
      e.modPage p fun x => { x with mixed := true }
    else e) e

/-- Marks the primaries a base-only position of a request writes (R140): entries of positions from first to last. -/
def Engine.markBaseOnly (e : Engine) (slot first last : Nat) : Engine :=
  (((e.listOf slot).take (last / 32 + 1)).drop (first / 32)).foldl (fun e p =>
    let x := e.page p
    if x.state == .aliasEntry || x.baseOnly then e else (e.logUndo (.baseOnly p false)).putPage p { x with baseOnly := true }) e

/-! ### Pins (R24) -/

def Engine.pinPage (e : Engine) (p : Nat) : Engine := e.modPage p fun x => { x with pins := x.pins + 1 }

/-- A pin is released; what waited for it happens. -/
def Engine.unpinPage (e : Engine) (p : Nat) : Engine := (e.modPage p fun x => { x with pins := x.pins - 1 }).settle p

/-! ### Freeing (R153) -/

/-- Effect 2 detaches a list: its walk waits, and the unused reservation and staged hashes return. -/
def Engine.detachList (e : Engine) (slot : Nat) : Engine :=
  let e := e.releaseReservation slot
  match e.req? slot with
  | none => e
  | some r =>
    let item : WalkItem := { head := r.pageHead, count := r.pageCount, slot := slot, resident := r.needsPages }
    { e with pgm := { e.pgm with walk := if r.pageCount = 0 then e.pgm.walk else e.pgm.walk ++ [item],
                                 stage := Table.del e.pgm.stage slot } }

/-- An alias is freed and its primary loses a holder. -/
def Engine.dropAlias (e : Engine) (a : Nat) : Engine :=
  let p := (e.page a).primary
  (e.freeEntry a).dropHolder p

/-- The walk treats one entry: an alias is freed and its primary loses a holder; a primary loses its own. -/
def Engine.walkOne (e : Engine) : Engine :=
  match e.pgm.walk with
  | [] => e
  | w :: ws =>
    let x := e.page w.head
    let rest := if w.count ≤ 1 then ws else { w with head := x.next, count := w.count - 1 } :: ws
    let e : Engine := { e with pgm := { e.pgm with walk := rest } }
    if x.state == .aliasEntry then e.dropAlias w.head
    else (e.modPage w.head fun x => { x with owner := none }).dropHolder w.head

/-- Frees every CACHED page that satisfies a test, once unpinned (R151, purge). -/
def Engine.purge (e : Engine) (hit : Page → Bool) : Engine :=
  (e.pgm.cached.filter fun p => hit (e.page p)).foldl (fun e p => (e.unindex p).settle p) e

/-- A CACHED page reaches PGM_CACHE_TTL.S (R151). -/
def Engine.expireCached (e : Engine) (p : Nat) : Engine :=
  let x := e.page p
  let ttl := e.get Fld.pgmCacheTtlS
  if x.state == .cached && x.pins == 0 && ttl != 0 && decide (x.cachedAt + ttl * 1000000000 ≤ e.now) then
    (e.freePage p).bump Cnt.pgmCacheExpired
  else e

def execCacheTtlExpiry (entry : BitVec 22) (s : State) : Host.Outcome State Fault Refusal :=
  s.actIn Isl.pg fun e => e.expireCached entry.toNat

end Sys2Proof.Machine
end

