-- ==== Sys2Proof/Machine/Moves.lean ====
section
/-!
DEFINITION. Machine/Moves.lean: page moves, their bursts and leave, parking and restoring, and lower-tier failures (R145
to R152, R160, R164).
-/

namespace Sys2Proof.Machine

/-! ### Wanted moves (R146) -/

/-- Priority of a move, 0 first. -/
def MoveWhy.rank : MoveWhy → Nat
  | .promote => 0 | .restore => 1 | .copyOnWrite => 2 | .importPage => 2 | .relief => 3 | .spill => 4 | .variantLoad _ => 5

def MoveWhy.isLoad : MoveWhy → Bool
  | .variantLoad _ => true
  | _ => false

/-- Outstanding moves of pages. -/
def Engine.pageMoves (e : Engine) : List Move := e.pgm.moves.filter fun m => !m.why.isLoad

/-- A page that may move down: readable and in a tier. -/
def Page.settled (x : Page) : Bool := x.state == .openPage || x.state == .full || x.state == .cached

/-- Does a page wait for or undergo a move? -/
def Engine.moving (e : Engine) (p : Nat) : Bool :=
  e.pageMoves.any (fun m => m.page == p) || e.pgm.burst.any (fun w => w.page == p) || e.pgm.wanted.any (fun w => w.page == p)

/-- Bytes of a page. -/
def Engine.pageBytes (e : Engine) (p : Nat) : Nat := (e.family (e.page p).family).pageBytes

/-- Asks leave for the burst gathered (R147, R358). -/
def Engine.askBurst (e : Engine) : Engine :=
  let bytes := sumBy e.pgm.burst fun w => e.pageBytes w.page
  let (_, e) := e.askLeave true 2 (e.credits (e.energy 3 * bytes)) .move
  { e with pgm := { e.pgm with asked := true, burstHeld := false } }

/-- Is a wanted move pointless by now? -/
def Engine.moot (e : Engine) (w : WantedMove) : Bool :=
  let x := e.page w.page
  match w.why with
  | .promote => !(x.tier == 2 && x.settled)
  | .restore => !(x.tier == 2 && x.settled)
  | .copyOnWrite => x.state != .copying
  | .importPage => !(x.state == .inTransit && x.tier == 3)
  | .relief => !(x.tier == 0 && x.settled)
  | .spill => !(decide (x.tier < 2) && (x.state == .openPage || x.state == .full) && decide (0 < x.holders) && e.residentOf w.page == 0)
  | .variantLoad _ => true

/-- Does the request of a copy or an import still hold its own reservation? Its destination is charged to that. -/
def WantedMove.isCopy (w : WantedMove) : Bool := w.why == .copyOnWrite || w.why == .importPage

/-- A T1 frame for a move, free or reclaimed, that no reservation counts on (R165): `cost` frames of the class leave its count. -/
def Engine.spareT1 (e : Engine) (c cost : Nat) : Option (Nat × Engine) :=
  if cost ≤ e.classFree c then e.findFrame 1 c else none

/-- The destination of a wanted move: tier, frame and engine; none when no frame is found. A copy-on-write's frame is bound already. A
page from T2 goes to T0 while its pool stands at its low watermark, and otherwise to T1 (R145). -/
def Engine.destination (e : Engine) (w : WantedMove) : Option (Nat × Nat × Engine) :=
  let x := e.page w.page
  let from_ := fun (t : Nat) (x : Option (Nat × Engine)) => x.map fun (k, e) => (t, k, e)
  match w.why with
  | .relief => from_ 1 (e.spareT1 x.cls (if x.state == .cached then 2 else 1))
  | .spill => from_ 2 (e.takeT2 x.cls)
  | .copyOnWrite => some (x.tier, x.frame, e)
  | .importPage => match w.slot with
    | some s => e.bindFor s x.cls
    | none => e.bindFrame x.cls
  | _ =>
    let first := if 0 < e.classFree x.cls && e.atMark 0 x.cls (e.get Fld.pgmT0WmLow) then from_ 0 (e.takeFrame 0 x.cls) else none
    first.orElse fun _ => from_ 1 (e.spareT1 x.cls 1)

/-- Can a wanted move begin: its page unpinned (R148), its destination at hand? -/
def Engine.canBegin (e : Engine) (w : WantedMove) : Bool :=
  !e.moot w && (w.isCopy || (e.page w.page).pins == 0) && (e.destination w).isSome

/-- Gathers the next burst from the moves that can begin, in priority order, once the one before has ended (R147). -/
def Engine.gather (e : Engine) : Engine :=
  if !e.pgm.burst.isEmpty || e.pgm.asked || e.pgm.burstTag.isSome || e.pgm.wanted.isEmpty then e
  else
    let live := e.pgm.wanted.filter fun w => !e.moot w
    let l := sortBy (fun (a b : WantedMove) => decide (a.why.rank < b.why.rank)) (live.filter e.canBegin)
    let go := l.take (e.get Fld.pgmMoveBurstN)
    let e : Engine := { e with pgm := { e.pgm with burst := go, wanted := live.filter fun w => !go.contains w } }
    if go.isEmpty then e else e.askBurst

/-- Wants a move, unless the page already waits for or undergoes one. -/
def Engine.want (e : Engine) (w : WantedMove) : Engine :=
  if e.moving w.page then e
  else
    let e : Engine := { e with pgm := { e.pgm with wanted := e.pgm.wanted ++ [w] } }
    e.gather

/-- The grant's burst is done: its grant ends and the next burst is gathered. -/
def Engine.burstDone (e : Engine) : Engine :=
  match e.pgm.burstTag with
  | none => e
  | some t =>
    if e.pgm.burst.isEmpty && e.pageMoves.isEmpty then
      let e := e.endGrant true t
      let e : Engine := { e with pgm := { e.pgm with burstTag := none } }
      e.gather
    else e

/-- Leave for the burst is granted. -/
def Engine.moveGranted (e : Engine) (tag : Nat) : Engine :=
  let e : Engine := { e with pgm := { e.pgm with asked := false, burstTag := some tag } }
  e.burstDone

/-- Leave is refused: the burst is kept and asked for again after the next boundary. -/
def Engine.moveRefused (e : Engine) : Engine := { e with pgm := { e.pgm with asked := false, burstHeld := true } }

/-- After a boundary, a burst kept asks again; else moves that waited for a pin are gathered (R148). -/
def Engine.retryBurst (e : Engine) : Engine := if e.pgm.burstHeld then e.askBurst else e.gather

/-- The walk frees an entry; a move that waited for its frame may begin. -/
def execPageFreeWalk (s : State) : Host.Outcome State Fault Refusal := s.actIn Isl.pg fun e => e.walkOne.gather

/-- Has a class a T2 extent? One with no frames is unused (Table 6.10). -/
def Engine.hasT2 (e : Engine) (c : Nat) : Bool := e.pgm.extents.any fun x => x.2.cls == c && decide (0 < x.2.frames.limit)

/-! ### Relief and spill (R145) -/

/-- Slots in the last two sealed yealms. -/
def Engine.recentSlots (e : Engine) : List Nat :=
  ((e.ylm.archive.reverse.take 2).map fun x => x.2.members.map (·.slot)).flatten

/-- T0 pages of a class in the order relief takes them (R145); pages with RESIDENT = 0 go in rising entry number, an order the spec leaves
open (log entry 51). -/
def Engine.reliefOrder (e : Engine) (c : Nat) : List Nat :=
  let here := (e.pgm.pages.filter fun x => x.2.tier == 0 && x.2.cls == c && x.2.settled).map Prod.fst
  let cold := here.filter fun p => (e.page p).state != .cached && e.residentOf p == 0
  let absent := ((e.rafter.filter fun x => !e.recentSlots.contains x.1).map fun x => e.primaries x.1).flatten.filter here.contains
  (e.cachedIn 0 c ++ cold ++ absent).eraseDups

/-- Pages a T1 pool may spill, in rising entry number: the spec gives no order (log entry 51). -/
def Engine.spillOrder (e : Engine) (c : Nat) : List Nat :=
  (e.pgm.pages.filter fun x => x.2.tier == 1 && x.2.cls == c && (x.2.state == .openPage || x.2.state == .full) &&
    decide (0 < x.2.holders) && e.residentOf x.1 == 0).map Prod.fst

/-- Frames below a mark. -/
def Engine.shortOf (e : Engine) (tier c mark : Nat) : Nat := ceilDiv (mark * (e.pool tier c).count) 1024 - e.frameFree tier c

/-- Moves down wanted when a pool has fallen below its low watermark, up to its high one. -/
def Engine.balance (e : Engine) (c : Nat) : Engine :=
  let pending := fun (w : MoveWhy) (t : Nat) =>
    (e.pageMoves.filter fun m => m.why == w && m.srcTier == t).length + (e.pgm.burst.filter fun x => x.why == w && (e.page x.page).tier == t).length +
      (e.pgm.wanted.filter fun x => x.why == w && (e.page x.page).tier == t).length
  let r := if e.atMark 0 c (e.get Fld.pgmT0WmLow) then []
    else (e.reliefOrder c).take (e.shortOf 0 c (e.get Fld.pgmT0WmHigh) - pending .relief 0)
  let s := if e.atMark 1 c (e.get Fld.pgmT1WmLow) || !e.hasT2 c then []
    else (e.spillOrder c).take (e.shortOf 1 c (e.get Fld.pgmT1WmHigh) - pending .spill 1)
  let e := r.foldl (fun e p => e.want { why := .relief, page := p, slot := none, retried := false, timed := false }) e
  s.foldl (fun e p => e.want { why := .spill, page := p, slot := none, retried := false, timed := false }) e

/-! ### Parking and restoring (R149, R150) -/

/-- A spill is cancelled for a promotion: the page stays at its source (R149). Relief ends in T1, which the tiles read: it goes on. -/
def Engine.cancelDown (e : Engine) (p : Nat) : Engine :=
  match e.pageMoves.find? fun m => m.page == p && m.why == .spill && !m.cancelled with
  | none => e
  | some m =>
    let e : Engine := { e with pgm := { e.pgm with moves := e.pgm.moves.map fun x => if x.tag == m.tag then { x with cancelled := true } else x } }
    (e.emit (.pageMove 3 m.tag 0 0 0 0 0 0 0)).bump Cnt.pgmAbandon

/-- Is a request's cache down, or kept up only by other holders (R150)? -/
def Engine.spillComplete (e : Engine) (slot : Nat) : Bool :=
  (e.primaries slot).all fun p => (e.page p).tier == 2 || decide (0 < e.residentOf p)

/-- A SPILLED or RESTORED event with the record's event section full is applied at the next boundary; the hold is counted (R262). -/
def Engine.holdEvent (e : Engine) (slot : Nat) : Engine :=
  ({ e with flt := { e.flt with heldEvents := insertNat slot e.flt.heldEvents } } : Engine).bump Cnt.fltEvtFull

/-- A parked request whose spill is complete is SPILLED. -/
def Engine.checkSpilled (e : Engine) (slot : Nat) : Engine :=
  match e.req? slot with
  | none => e
  | some r =>
    if r.state == .parked && e.spillComplete slot then
      if e.eventsFull then e.holdEvent slot else (e.putReq slot { r with state := .spilled }).jevent 0x0C 0 r.handle.toNat 0
    else e

/-- Every parked request, after a spill. -/
def Engine.checkAllSpilled (e : Engine) : Engine :=
  ((e.rafter.filter fun x => x.2.state == .parked).map Prod.fst).foldl Engine.checkSpilled e

/-- An eviction request for each page of a list whose request has entered PARKED: an eviction that drops residency only
is counted (R149). -/
def Engine.evictList (e : Engine) (slot : Nat) : Engine :=
  let e := (e.primaries slot).foldl (fun e p =>
    let up := e.pageMoves.any fun m => m.page == p && (m.why == .promote || m.why == .restore)
    if 1 < (e.page p).holders || up then e.bump Cnt.pgmEvictShared else e) e
  e.checkSpilled slot

/-- The spill delay of a page has passed (R145): measured from the last parking of a request that holds it. -/
def Engine.spillDelay (e : Engine) (p : Nat) : Engine :=
  let x := e.page p
  let hs := e.holdersOf p
  let last := hs.foldl (fun m s => max m (((e.req? s).map (·.parkedAt)).getD 0)) 0
  if x.tier < 2 && (x.state == .openPage || x.state == .full) && 0 < x.holders && !hs.isEmpty && e.residentOf p == 0 &&
      decide (last + e.get Fld.pgmSpillDelayS * 1000000000 ≤ e.now) && e.hasT2 x.cls then
    e.want { why := .spill, page := p, slot := none, retried := false, timed := false }
  else e

def execSpillDelayExpiry (entry : BitVec 22) (s : State) : Host.Outcome State Fault Refusal :=
  s.actIn Isl.pg fun e => e.spillDelay entry.toNat

/-- A holder needs a page above T2: a spill is cancelled, a page in T2 is promoted. -/
def Engine.raisePage (e : Engine) (why : MoveWhy) (slot p : Nat) : Engine :=
  let e := if (e.page p).state == .inTransit then e.cancelDown p else e
  if (e.page p).tier = 2 && (e.page p).state != .inTransit && (e.page p).state != .failed then
    let e : Engine := { e with pgm := { e.pgm with wanted := e.pgm.wanted.filter (fun w => !(w.page == p && w.why == .spill)) } }
    e.want { why := why, page := p, slot := some slot, retried := false, timed := false }
  else e

/-- Restores the residency of a list (R150). -/
def Engine.raiseList (e : Engine) (why : MoveWhy) (slot : Nat) : Engine :=
  (e.primaries slot).foldl (fun e p => e.raisePage why slot p) e

/-- Readable by the tiles: in T0 or T1. -/
def Page.readable (x : Page) : Bool :=
  decide (x.tier < 2) && (x.state == .openPage || x.state == .full || x.state == .inTransit)

/-- Is the whole list of a request in T0 or T1? -/
def Engine.listUp (e : Engine) (slot : Nat) : Bool := (e.primaries slot).all fun p => (e.page p).readable

/-- Confirms a draft member whose last position is given (R141): appends the pages it will first write, raises what lies in
T2, and says whether every page is readable. -/
def Engine.confirmPages (e : Engine) (slot last : Nat) : Bool × Engine :=
  match e.req? slot with
  | none => (false, e)
  | some r =>
    match Engine.appendOpens (last / 32 + 1 - r.pageCount) slot r.family e with
    | none => (false, e)
    | some e =>
      let e := (e.raiseList .promote slot).balance (e.family r.family).cls
      (e.listUp slot, e)

/-! ### Copy-on-write and import (R152, R160, R184) -/

/-- The tail page of a learned prefix becomes the request's own (R152, R184). -/
def Engine.copyTail (e : Engine) (slot source family : Nat) : Engine :=
  match e.bindFor slot (e.family family).cls with
  | none => e
  | some (t, k, e) =>
    match e.appendEntry slot { e.newPrimary slot family with state := .copying, tier := t, frame := k, primary := source } with
    | none => e
    | some (p, e) => e.want { why := .copyOnWrite, page := p, slot := some slot, retried := false, timed := false }

/-- One page of a cache object: IN_TRANSIT with TIER none (R160). -/
def Engine.importOne (e : Engine) (slot family : Nat) : Engine :=
  match e.appendEntry slot { e.newPrimary slot family with state := .inTransit, tier := 3, before := .full } with
  | none => e
  | some (p, e) => e.want { why := .importPage, page := p, slot := some slot, retried := false, timed := false }

/-- Imports n pages. -/
def Engine.importPages : Nat → Nat → Nat → Engine → Engine
  | 0, _, _, e => e
  | n + 1, slot, family, e => Engine.importPages n slot family (e.importOne slot family)

/-! ### Failures (R164) -/

/-- The admission event of a request not yet committed carries the m its lookup is left with (R159). -/
def Engine.journalMatched (e : Engine) (handle m : Nat) : Engine :=
  let fix := fun (l : List JEvent) => l.map fun x => if x.kind == 0x01 && x.who == handle then { x with detail := m } else x
  { e with flt := { e.flt with events := fix e.flt.events, eventsNext := fix e.flt.eventsNext } }

/-- A page matched and lost before the splice: its alias and those after it are dropped, and m ends at the block before (Table 6.8). The
entries return to the reservation; a prefix's tail is copied after all. -/
def Engine.endMatches (e : Engine) (slot p : Nat) : Engine :=
  match e.req? slot with
  | none => e
  | some r =>
    let l := e.listOf slot
    let j := (l.map e.primaryOf).idxOf p
    let tail := e.primaryOf (l.getD (j - 1) 0)
    let gone := l.drop j
    let e := e.putReq slot { r with pageCount := j, matched := j - r.firstBlock, entriesRes := r.entriesRes + gone.length }
    let e : Engine := { e with pgm := { e.pgm with entryReserved := e.pgm.entryReserved + gone.length } }
    let e := gone.foldl Engine.dropAlias ((e.joinPages (if j = 0 then none else l[j - 1]?) none).journalMatched r.handle.toNat (j - r.firstBlock))
    let source := (if r.pfxValid then Table.get? e.var.prefixes r.pfx else none).bind fun x => x.pages[r.pfxLen / 32]?
    if j = r.firstBlock && r.pfxLen % 32 ≠ 0 then e.copyTail slot (source.getD tail) r.family else e

/-- Does a request still look up its prefix, with a page among its matches? -/
def Engine.matching (e : Engine) (slot p : Nat) : Bool :=
  match e.req? slot with
  | none => false
  | some r => r.state == .queued && r.lookupOpen && (((e.primaries slot).drop r.firstBlock).take r.matched).contains p

/-- The holders of a lost page: those that run or restore end TIER_FAILED; parked ones fail at their restore; a match not yet spliced ends
before the page. -/
def Engine.failHolders (e : Engine) (p : Nat) : Engine :=
  (e.holdersOf p).foldl (fun e s =>
    if e.matching s p then e.endMatches s p
    else match e.stateOf s with
    | .parked => e
    | .spilled => e
    | .queued => e.requestError Det.kvPage s Status.tierFailed p
    | .prefill => e.requestError Det.kvPage s Status.tierFailed p
    | .decode => e.requestError Det.kvPage s Status.tierFailed p
    | .restoring => e.requestError Det.kvPage s Status.tierFailed p
    | .fenced => e.requestError Det.kvPage s Status.tierFailed p
    | _ => e) e

/-- A page's copy is lost: FAILED, out of the index and off the cached list; its holders end as R164 says. -/
def Engine.losePage (e : Engine) (p : Nat) : Engine :=
  let x := e.page p
  if x.state == .free || x.state == .aliasEntry || x.state == .failed then e
  else
    let e := ((e.unindex p).leaveCached p).modPage p fun x => { x with state := .failed }
    ((e.log Ev.kvFailed [p]).failHolders p).settle p

/-- A tier failure, counted once, by which a page is lost (Table 6.7). -/
def Engine.failPage (e : Engine) (p : Nat) : Engine :=
  let x := e.page p
  if x.state == .free || x.state == .aliasEntry || x.state == .failed then e else (e.bump Cnt.pgmTierFail).losePage p

/-! ### Issue (R146, R148) -/

/-- The place of a page in its request's list. -/
def Engine.indexOf (e : Engine) (slot p : Nat) : Nat := (e.listOf slot).idxOf p

/-- A tag no move outstanding has. -/
def Engine.moveTag (e : Engine) : Nat :=
  (((List.range 1025).map fun i => (e.pgm.nextTag + i) % 2 ^ 32).find? fun t => !(e.pgm.moves.any fun m => m.tag == t)).getD 0

/-- Records a move and gives the command to the page mover. -/
def Engine.startMove (e : Engine) (m : Move) (op heads count : Nat) : Engine :=
  let e : Engine := { e with pgm := { e.pgm with moves := e.pgm.moves ++ [m], nextTag := (m.tag + 1) % 2 ^ 32 } }
  e.emit (.pageMove op m.tag m.srcTier m.srcAddr m.dstTier m.dstAddr m.bytes heads count)

/-- Begins a wanted move; none while its page is pinned or no frame is found (R148). -/
def Engine.beginMove (e : Engine) (w : WantedMove) : Option Engine :=
  let x := e.page w.page
  let copy := w.isCopy
  if 0 < x.pins && !copy then none
  else (e.destination w).map fun (t, k, e) =>
    let x := e.page w.page
    let bytes := e.pageBytes w.page
    let from_ := match w.why with
      | .copyOnWrite => ((e.page x.primary).tier, e.frameAddr (e.page x.primary).tier x.cls (e.page x.primary).frame)
      | .importPage => match w.slot.bind e.req? with
        | some r => (2, r.importLoc + BitVec.ofNat 64 (bytes * (e.indexOf (w.slot.getD 0) w.page - r.pfxLen / 32)))
        | none => (2, Config.freeValue e.taken)
      | _ => (x.tier, e.frameAddr x.tier x.cls x.frame)
    let e := if copy then e else e.putPage w.page { x with state := .inTransit, before := x.state }
    let heads := if w.why == .importPage then (e.family x.family).kvHeads else 0
    let e := if w.why == .importPage && w.slot.isNone then e.free.2 else e
    let e := e.ops (0x03 + place w.page 8 24 + place t 32 8 + place x.cls 40 8)
    e.startMove { tag := e.moveTag, why := w.why, page := w.page, srcTier := from_.1, srcAddr := from_.2, dstTier := t,
                  dstFrame := k, dstAddr := e.frameAddr t x.cls k, bytes := bytes, slot := w.slot, cls := x.cls, retried := w.retried, timed := w.timed,
                  cancelled := false, expired := false } (if w.why == .importPage then 2 else 1) 0 heads

/-- The first move of a burst that can begin: the engine, and the moves left. -/
def Engine.firstMove (e : Engine) : List WantedMove → Option (Engine × List WantedMove)
  | [] => none
  | w :: ws => match e.beginMove w with
    | some e' => some (e', ws)
    | none => (Engine.firstMove e ws).map fun (e', l) => (e', w :: l)

/-- The burst that has leave, without the moves that are pointless by now or cannot begin; those wait outside it, and a burst that nothing
is left of ends (R147). -/
def Engine.pruneBurst (e : Engine) : Engine :=
  if e.pgm.burstTag.isNone then e
  else
    let live := e.pgm.burst.filter fun w => !e.moot w
    let go := live.filter e.canBegin
    let e : Engine := { e with pgm := { e.pgm with burst := go, wanted := (live.filter fun w => !e.canBegin w) ++ e.pgm.wanted } }
    e.burstDone

/-- A page command of the burst that has leave, when one can be given; at most 1,024 moves are outstanding (R376). -/
def Engine.issuePage (e : Engine) : Option Engine :=
  if e.pgm.burstTag.isNone || 1024 ≤ e.pgm.moves.length then none
  else (e.firstMove e.pgm.burst).map fun (e', rest) => { e' with pgm := { e'.pgm with burst := rest } }

/-! ### Completion (R146, R164) -/

/-- A move leaves the tracker. -/
def Engine.dropMove (e : Engine) (tag : Nat) : Engine :=
  { e with pgm := { e.pgm with moves := e.pgm.moves.filter fun m => m.tag != tag } }

/-- The counter of a completed move. -/
def moveCounter : MoveWhy → Option Nat
  | .promote => some Cnt.pgmPromote | .restore => some Cnt.pgmPromote | .relief => some Cnt.pgmDemote
  | .spill => some Cnt.pgmSpill | .copyOnWrite => some Cnt.pgmCow | _ => none

/-- A page that ended in T2 although a holder needs it is called up again (Table 6.8). -/
def Engine.raiseAgain (e : Engine) (p : Nat) : Engine :=
  let hs := (e.holdersOf p).filter fun s => ((e.req? s).map Rafter.needsPages).getD false
  match hs.find? fun s => e.stateOf s == .restoring with
  | some s => e.raisePage .restore s p
  | none => match hs with
    | s :: _ => e.raisePage .promote s p
    | [] => e

/-- The page takes its new tier and frame; the source frame is released. -/
def Engine.landMove (e : Engine) (m : Move) : Engine :=
  let x : Page := e.page m.page
  let e : Engine := match moveCounter m.why with | some c => e.bump c | none => e
  let e : Engine := match m.why with
    | .copyOnWrite => if x.state == .copying then e.putPage m.page { x with state := .openPage, primary := 0 } else e
    | _ =>
      if x.state == .inTransit then
        let more := (Table.getD e.pgm.mirrors m.page []).length
        let e := ((e.dropMirrors m.page).giveFrame x.tier x.cls x.frame).putPage m.page { x with state := x.before, tier := m.dstTier, frame := m.dstFrame }
        e.takeMirrors m.page more
      else e.giveFrame m.dstTier m.cls m.dstFrame
  let e := (e.settle m.page).balance m.cls
  if m.why == .spill then (e.raiseAgain m.page).checkAllSpilled else e

/-- The move is abandoned: the destination frame returns and the page is as it was before. -/
def Engine.abandonMove (e : Engine) (m : Move) : Engine :=
  match m.why with
  | .copyOnWrite => e
  | .importPage => e.giveFrame m.dstTier m.cls m.dstFrame
  | _ =>
    let e := e.giveFrame m.dstTier m.cls m.dstFrame
    let x := e.page m.page
    let e := if x.state == .inTransit then e.putPage m.page { x with state := x.before } else e
    e.settle m.page

/-- A copy-on-write retried takes another frame, where one stands that no reservation counts on. -/
def Engine.rebindCopy (e : Engine) (p : Nat) : Engine :=
  let x := e.page p
  if x.state != .copying || e.classFree x.cls = 0 then e
  else match e.bindFrame x.cls with
    | none => e
    | some (t, k, e) => (e.giveFrame x.tier x.cls x.frame).putPage p { x with tier := t, frame := k }

/-- The same move again, into another frame: after a failed write or, with the other flag, after an expiry (Table 6.7). -/
def Engine.wantAgain (e : Engine) (m : Move) (write : Bool) : Engine :=
  let e := if m.why == .copyOnWrite then e.rebindCopy m.page else e
  e.want { why := m.why, page := m.page, slot := m.slot, retried := m.retried || write, timed := m.timed || m.expired }

/-- The source is lost (STATUS 1, or a second expiry): the page fails, and with it the request that imports it; a copy fails with its
source. -/
def Engine.sourceLost (e : Engine) (m : Move) : Engine :=
  match m.why with
  | .importPage => (e.abandonMove m).failPage m.page
  | .copyOnWrite => (e.failPage (e.page m.page).primary).losePage m.page
  | _ => ((e.giveFrame m.dstTier m.cls m.dstFrame).failPage m.page).settle m.page

/-- The destination write failed (STATUS 2): one retry into another frame, then the page stays where it is; a restore that fails so ends its
request (R150). A page that has no copy yet, an import or a private copy, is FAILED instead. -/
def Engine.writeLost (e : Engine) (m : Move) : Engine :=
  let e := ((e.abandonMove m).bump Cnt.pgmTierFail).log Ev.moveTimeout [m.page, 2]
  if !m.retried then e.wantAgain m true
  else match m.why, m.slot with
    | .restore, some s => e.requestError Det.kvPage s Status.tierFailed m.page
    | .importPage, _ => e.losePage m.page
    | .copyOnWrite, _ => e.losePage m.page
    | _, _ => e

/-- A page move's completion. -/
def Engine.finishMove (e : Engine) (m : Move) (status : Nat) : Engine :=
  let e := e.dropMove m.tag
  let e := match status with
    | 0 => e.landMove m
    | 1 => e.sourceLost m
    | 2 => e.writeLost m
    | _ => if m.expired then (e.abandonMove m).wantAgain m false else e.abandonMove m
  e.burstDone

/-- The watchdog of a page move: CANCEL and one retry; a second expiry is treated as STATUS 1 (R164). -/
def Engine.moveExpired (e : Engine) (m : Move) : Engine :=
  let e := (e.bump Cnt.pgmMoveTo).log Ev.moveTimeout [m.page, m.tag]
  if m.timed || m.expired then ((e.dropMove m.tag).sourceLost m).burstDone
  else
    let e : Engine := { e with pgm := { e.pgm with moves := e.pgm.moves.map fun x => if x.tag == m.tag then { x with cancelled := true, expired := true } else x } }
    (e.emit (.pageMove 3 m.tag 0 0 0 0 0 0 0)).corrected Det.moveWatchdog m.page

end Sys2Proof.Machine
end

