-- ==== Sys2Proof/Machine/Variants.lean ====
section
/-!
DEFINITION. Machine/Variants.lean: families, additions, resident slots and learned prefixes: copy jobs, placement,
eviction, reload and retirement (R168 to R187, R397).
-/

namespace Sys2Proof.Machine

/-! ### Predictor (Table 4.5, R122) -/

/-- The predictor as a block gives it, with κ at KAPPA_INIT. -/
def Family.predictor (f : Family) : Predictor :=
  { kappa := toSigned 16 (f.pred 24 16), clampRun := 0 }

/-- A family that has never been graded. -/
def Fit.none : Fit := { grade := 3, depth := 0, maxPos := 0 }

/-- The fit in force: that of the last grading (R123), or what R129 has lowered it to. -/
def Engine.fitOf (e : Engine) (i : Nat) : Fit := Table.getD e.ylm.lowered i (Table.getD e.ylm.fits i Fit.none)

/-- The thin-mode BASE_NS of a family (R122). -/
def Engine.thinNs (e : Engine) (i : Nat) : Nat :=
  max ((e.family i).pred 0 32) (ceilDiv (e.family i).weightBytes (e.get Fld.ylmThinBwGbps))

/-- Grades a family at its FAMILY_CONFIG (R123). -/
def Engine.gradeFamily (e : Engine) (i : Nat) : Engine :=
  { e with ylm := { e.ylm with fits := Table.put e.ylm.fits i ((e.family i).grade e.halfWindow), lowered := Table.del e.ylm.lowered i } }

/-! ### Tenants' holdings -/

/-- Adds to a tenant's AHELD or PHELD. -/
def Engine.addAheld (e : Engine) (t : Nat) (up : Bool) : Engine :=
  { e with adm := { e.adm with tenants := Table.modify e.adm.tenants t fun x =>
      { x with aheld := if up then x.aheld + 1 else x.aheld - 1 } } }

def Engine.addPheld (e : Engine) (t n : Nat) (up : Bool) : Engine :=
  { e with adm := { e.adm with tenants := Table.modify e.adm.tenants t fun x =>
      { x with pheld := if up then x.pheld + n else x.pheld - n } } }

/-! ### Runs of granules (R171, R180) -/

/-- Does [s, s + n) meet a used run? -/
def runFree (used : List (Nat × Nat)) (s n : Nat) : Bool := used.all fun u => decide (u.1 + u.2 ≤ s) || decide (s + n ≤ u.1)

/-- The first run of n granules free among total: it starts at 0 or where a used one ends. -/
def findRun (used : List (Nat × Nat)) (total n : Nat) : Option Nat :=
  (sortBy (fun (a b : Nat) => decide (a < b)) (0 :: used.map fun u => u.1 + u.2)).find? fun s =>
    decide (s + n ≤ total) && runFree used s n

/-- Runs of 2 MiB granules in use in the T1 weight region. -/
def Engine.weightRuns (e : Engine) : List (Nat × Nat) :=
  (e.var.families.filter fun x => decide (0 < x.2.granules)).map fun x => (x.2.granule, x.2.granules)

/-- Runs of 64 KiB granules in use in an addition pool. -/
def Engine.slotRuns (e : Engine) (t0 : Bool) : List (Nat × Nat) :=
  (e.var.slots.filter fun x => x.2.t0 == t0).map fun x => (x.2.granule, x.2.granules)

/-- Granules of an addition pool. -/
def Engine.poolGranules (e : Engine) (t0 : Bool) : Nat :=
  16 * (if t0 then e.get Fld.varAdd0SizeMib else e.get Fld.varAdd1SizeMib)

/-! ### Additions and their records (R176) -/

def Engine.addition? (e : Engine) (a : Nat) : Option Addition := Table.get? e.var.additions a

def Engine.putAddition (e : Engine) (a : Nat) (x : Addition) : Engine :=
  { e with var := { e.var with additions := Table.put e.var.additions a x } }

def Engine.record? (e : Engine) (a v : Nat) : Option VersionRec :=
  (e.addition? a).bind fun x => x.records.find? fun r => r.version == v

def Engine.modRecord (e : Engine) (a v : Nat) (f : VersionRec → VersionRec) : Engine :=
  match e.addition? a with
  | none => e
  | some x => e.putAddition a { x with records := x.records.map fun r => if r.version == v then f r else r }

/-- Live requests bound to a version that need its slot (R180). -/
def Engine.slotNeeded (e : Engine) (a v : Nat) : Bool :=
  e.rafter.any fun x => x.2.addValid && x.2.addition == a && x.2.version == v && x.2.needsPages

/-- A version's slot, when it is resident. -/
def Engine.versionSlot (e : Engine) (a v : Nat) : Option Nat :=
  (e.record? a v).bind fun r => if r.vstate = 2 || r.vstate = 4 then r.slot else none

/-- Frees a slot: AHELD of its owner falls by one. -/
def Engine.freeSlot (e : Engine) (s : Nat) : Engine :=
  match Table.get? e.var.slots s with
  | none => e
  | some x =>
    let e := (e.modRecord x.addition x.version fun r => { r with slot := none, inT0 := false }).ops (0x07 + place s 8 16)
    let e : Engine := { e with var := { e.var with slots := Table.del e.var.slots s } }
    let e := e.wakeAll
    match e.addition? x.addition with
    | none => e
    | some a => e.addAheld a.owner false

/-! ### Eviction and placement (R180) -/

/-- May a slot be evicted: unpinned, loaded, and no bound request needs it? -/
def Engine.evictable (e : Engine) (x : Slot) : Bool :=
  x.pins == 0 && !e.slotNeeded x.addition x.version &&
    (match e.record? x.addition x.version with | some r => r.vstate == 2 || r.vstate == 4 | none => false)

/-- LAST_USED of a slot's record. -/
def Engine.lastUse (e : Engine) (x : Slot) : Nat := ((e.record? x.addition x.version).map (·.lastUsed)).getD 0

/-- A slot's place, as the group's replicas are told (R244). -/
def Engine.opsSlot (e : Engine) (s : Nat) (x : Slot) : Engine :=
  match e.record? x.addition x.version with
  | none => e
  | some r => e.ops (0x06 + place s 8 13 + place (bit x.t0) 24 1 + place r.size 32 32 + place x.addition 64 16 + place x.version 80 8 +
      place x.family 88 8 + place r.source.toNat 128 64)

/-- Evictable slots that satisfy a test, oldest use first. -/
def Engine.victims (e : Engine) (test : Slot → Bool) : List (Nat × Slot) :=
  sortBy (fun a b => decide (e.lastUse a.2 < e.lastUse b.2)) (e.var.slots.filter fun x => e.evictable x.2 && test x.2)

/-- A slot is freed by eviction: its record becomes KNOWN, a RETIRING one stays RETIRING. -/
def Engine.evictSlot (e : Engine) (s : Nat) (x : Slot) : Engine :=
  ((e.modRecord x.addition x.version fun r => { r with vstate := if r.vstate = 4 then 4 else 3 }).freeSlot s).bump Cnt.varEvict

/-- A slot of the T0 pool moves to the T1 pool, when a run is free there (R180). -/
def Engine.demoteSlot (e : Engine) (s : Nat) (x : Slot) : Option Engine :=
  (findRun (e.slotRuns false) (e.poolGranules false) x.granules).map fun g =>
    let e := e.modRecord x.addition x.version fun r => { r with inT0 := false }
    let y := { x with t0 := false, granule := g }
    ({ e with var := { e.var with slots := Table.put e.var.slots s y } } : Engine).opsSlot s y

/-- Evicts the first slot, in the order of LAST_USED, that passes a test: from T0 it moves to T1, and one that finds no run there is passed
over (log entry 51); from T1 it is freed. -/
def Engine.evictOne (e : Engine) (test : Slot → Bool) : Option Engine :=
  (e.victims test).findSome? fun v => if v.2.t0 then e.demoteSlot v.1 v.2 else some (e.evictSlot v.1 v.2)

/-- Brings an owner's AHELD below its AQUOTA from its own eligible slots; none when it cannot (R180). -/
def Engine.fitQuota : Nat → Nat → Engine → Option Engine
  | fuel, t, e =>
    match Table.get? e.adm.tenants t with
    | none => some e
    | some x =>
      if x.aquota = 0 || x.aheld < x.aquota then some e
      else match fuel with
        | 0 => none
        | fuel + 1 =>
          match e.evictOne fun y => ((e.addition? y.addition).map (·.owner)) == some t with
          | none => none
          | some e => Engine.fitQuota fuel t e

/-- The lowest free slot number. -/
def Engine.freeSlotNo (e : Engine) : Option Nat := (List.range 8192).find? fun s => !Table.has e.var.slots s

/-- A slot number and a T1 run of n granules, after the evictions it takes; none when there is no room. -/
def Engine.findSlot : Nat → Nat → Engine → Option (Nat × Nat × Engine)
  | fuel, n, e =>
    match e.freeSlotNo, findRun (e.slotRuns false) (e.poolGranules false) n with
    | some s, some g => some (s, g, e)
    | _, _ =>
      match fuel with
      | 0 => none
      | fuel + 1 =>
        match e.evictOne fun _ => true with
        | none => none
        | some e => Engine.findSlot fuel n e

/-- A T0 run of n granules, after the moves to T1 it takes; none when there is no room. -/
def Engine.findT0Run : Nat → Nat → Engine → Option (Nat × Engine)
  | fuel, n, e =>
    match findRun (e.slotRuns true) (e.poolGranules true) n with
    | some g => some (g, e)
    | none => match fuel with
      | 0 => none
      | fuel + 1 =>
        match e.evictOne fun x => x.t0 with
        | none => none
        | some e => Engine.findT0Run fuel n e

/-- Places a version: quota first, then a slot and a run (R180); none is QUOTA or NO_FIT by the first component. -/
def Engine.placeVersion (e : Engine) (a v family owner size : Nat) : Bool × Option (Nat × Engine) :=
  match Engine.fitQuota 16384 owner e with
  | none => (false, none)
  | some e' =>
    let n := ceilDiv size 16
    match Engine.findSlot 16384 n e' with
    | none => (true, none)
    | some (s, g, e'') =>
      let x : Slot := { addition := a, version := v, family := family, t0 := false, granule := g, granules := n, pins := 0 }
      let e'' := e''.addAheld owner true
      (true, some (s, { e'' with var := { e''.var with slots := Table.put e''.var.slots s x } }))

/-- Moves a hot slot to the T0 pool when a run is free there, after eviction (R180). -/
def Engine.promoteSlot (e : Engine) (s : Nat) : Engine :=
  match Table.get? e.var.slots s with
  | none => e
  | some x =>
    let hot := match e.record? x.addition x.version with
      | some r => decide (e.get Fld.varHotN ≤ r.uses.length)
      | none => false
    if !hot || x.t0 || !e.flag Fld.varCtlT0En then e
    else match Engine.findT0Run 8192 x.granules e with
      | none => e
      | some (g, e) =>
        let e := e.modRecord x.addition x.version fun r => { r with inT0 := true }
        let y := { x with t0 := true, granule := g }
        (({ e with var := { e.var with slots := Table.put e.var.slots s y } } : Engine).opsSlot s y).bump Cnt.varPromote

/-- A sealed yealm of a step uses and pins a slot. -/
def Engine.useSlot (e : Engine) (step s : Nat) : Engine :=
  match Table.get? e.var.slots s with
  | none => e
  | some x =>
    let recent := fun (l : List Nat) => (l.filter fun u => decide (step < u + 16) && u != step) ++ [step]
    let e := e.modRecord x.addition x.version fun r => { r with lastUsed := step % 2 ^ 32, uses := recent r.uses }
    ({ e with var := { e.var with slots := Table.put e.var.slots s { x with pins := x.pins + 1 } } } : Engine).promoteSlot s

/-! ### Retirement (R178, R181, R186, R174) -/

/-- A version's record becomes EMPTY: the retires whose named records have all become EMPTY are acknowledged. The other fields of an EMPTY
record, and of an entry with none left, are gone with it: a QUERY reads them as zero (log entry 51). -/
def Engine.ackRetires (e : Engine) (a v : Nat) (x : Addition) : Engine :=
  let left := x.retires.map fun t => (t.1, t.2.1, t.2.2.filter (· != v))
  let done := left.filter fun t => t.2.2.isEmpty
  let x' := { x with records := x.records.filter fun r => r.version != v, retires := left.filter fun t => !t.2.2.isEmpty }
  let e : Engine := if x'.records.isEmpty && x'.retires.isEmpty then { e with var := { e.var with additions := Table.del e.var.additions a } }
    else e.putAddition a { x' with valid := !x'.records.isEmpty }
  done.foldl (fun e t => e.ackAt (some (t.1, t.2.1)) Status.ok) e

/-- A record that has nothing left becomes EMPTY. -/
def Engine.emptyRecord (e : Engine) (a v : Nat) : Engine :=
  match e.addition? a with
  | none => e
  | some x => (e.ackRetires a v x).bump Cnt.varRetired

/-- Does a SUBMIT not yet decided name a version that only supersession retires? Its binding stands (R179, Table 4.6). -/
def Engine.pendingBind (e : Engine) (a v : Nat) (r : VersionRec) : Bool :=
  r.vstate == 4 && !r.hostRetire &&
    e.rafter.any fun x => x.2.state == .admitting && x.2.addValid && x.2.addition == a && x.2.version == v && !x.2.bindFailed

/-- A RETIRING or FAILED record is emptied once it is unbound and its slot is unpinned (R178, R181). -/
def Engine.settleRecord (e : Engine) (a v : Nat) : Engine :=
  match e.record? a v with
  | none => e
  | some r =>
    if r.bound ≠ 0 || !(r.vstate == 4 || r.vstate == 5) || e.pendingBind a v r then e
    else match r.slot with
      | none => e.emptyRecord a v
      | some s =>
        if ((Table.get? e.var.slots s).map (·.pins)).getD 0 = 0 then (e.freeSlot s).emptyRecord a v else e

/-- A prefix record's state, as the group's replicas are told (R244). -/
def Engine.opsPrefix (e : Engine) (p family state : Nat) : Engine :=
  e.ops (0x09 + place p 32 20 + place family 64 8 + place state 72 8)

/-- A prefix that nothing uses is emptied (R186); a SUBMIT past check 9 that is not yet decided uses it (Table 7.7). -/
def Engine.settlePrefix (e : Engine) (p : Nat) : Engine :=
  match Table.get? e.var.prefixes p with
  | none => e
  | some x =>
    let named := e.rafter.any fun y => y.2.state == .admitting && y.2.pfxValid && y.2.pfx == p
    if x.state ≠ 3 || x.bound ≠ 0 || named then e
    else
      let e : Engine := (({ e with var := { e.var with prefixes := Table.del e.var.prefixes p } } : Engine)).opsPrefix p x.family 0
      let e := x.pages.foldl Engine.dropHolder e
      (e.addPheld x.tenant (ceilDiv x.tokens 32) false).ackAt x.ack Status.ok

/-- A REMOVING family with nothing left becomes UNCONFIGURED (R174). -/
def Engine.settleFamily (e : Engine) (f : Nat) : Engine :=
  let x := e.family f
  let live := e.rafter.any fun y => y.2.family == f && y.2.state != .free && y.2.state != .admitting
  let held := e.var.slots.any (fun y => y.2.family == f) || e.var.prefixes.any (fun y => y.2.family == f) ||
    e.var.additions.any (fun y => y.2.family == f && !y.2.records.isEmpty)
  if x.state ≠ 4 || live || held then e
  else
    let e := e.purge fun p => p.family == f
    let e : Engine := { e with var := { e.var with families := Table.del e.var.families f },
                               ylm := { e.ylm with fits := Table.del e.ylm.fits f, lowered := Table.del e.ylm.lowered f } }
    let e := e.ops (0x08 + place f 8 8 + place 1 16 1)
    if x.ack.isNone then e.log Ev.familyRemoved [f] else e.ackAt x.ack Status.ok

/-! ### Copy jobs (R397) -/

/-- The 2 MiB chunk. -/
def chunkBytes : Nat := 2097152

/-- Bytes of part i of a job. -/
def Engine.partBytes (e : Engine) (j : Job) (i : Nat) : Nat :=
  match j.what with
  | .family f _ => min chunkBytes ((e.family f).weightBytes - i * chunkBytes)
  | .addition a v _ => min chunkBytes (((e.record? a v).map (·.size)).getD 0 * 4096 - i * chunkBytes)
  | .learned p => match Table.get? e.var.prefixes p with
    | none => 0
    | some x => (e.family x.family).pageBytes

/-- The class of a job: reloads of families, of additions, then loads. -/
def LoadOf.rank : LoadOf → Nat
  | .family _ true => 0
  | .addition _ _ true => 1
  | _ => 2

/-- A job joins the queue at a turn taken before. -/
def Engine.addJobAt (e : Engine) (turn : Nat) (w : LoadOf) (total : Nat) : Engine :=
  let j : Job := { id := turn, what := w, total := total, issued := 0, landed := 0, started := false }
  { e with var := { e.var with jobs := e.var.jobs ++ [j] } }

/-- The next turn among the jobs: loads are copied in decode order (R397). -/
def Engine.takeJobTurn (e : Engine) : Nat × Engine := (e.var.nextJob, { e with var := { e.var with nextJob := e.var.nextJob + 1 } })

/-- A job joins the queue. -/
def Engine.addJob (e : Engine) (w : LoadOf) (total : Nat) : Engine :=
  let (turn, e) := e.takeJobTurn
  e.addJobAt turn w total

/-- A wanted reload that can be placed begins: KNOWN, or RETIRING without its slot (R180). -/
def Engine.startReload (e : Engine) (a v : Nat) : Option Engine :=
  match e.addition? a, e.record? a v with
  | some x, some r =>
    if (r.vstate = 3 || r.vstate = 4) && r.slot.isNone && !r.lost then
      match (e.placeVersion a v x.family x.owner r.size).2 with
      | none => none
      | some (s, e) =>
        let e := e.modRecord a v fun r => { r with slot := some s, vstate := if r.vstate = 4 then 4 else 1 }
        let e := match Table.get? e.var.slots s with | some y => e.opsSlot s y | none => e
        some ((e.addJob (.addition a v true) (ceilDiv (r.size * 4096) chunkBytes)).bump Cnt.varReload)
    else none
  | _, _ => none

/-- Parts of a job that are still to be issued. -/
def Job.waits (j : Job) : Bool := decide (j.issued < j.total)

/-- The job that reloads a version. -/
def Engine.reloadJob (e : Engine) (a v : Nat) : Option Job := e.var.jobs.find? fun j => j.what == .addition a v true

/-- Arrival of the first held admission that needs a version. -/
def Engine.neededSince (e : Engine) (a v : Nat) : Nat :=
  let l := e.adm.held.filterMap fun h => (e.req? h.slot).filter fun r => r.addValid && r.addition == a && r.version == v
  match l with
  | [] => 0
  | r :: rs => rs.foldl (fun m x => min m x.arrival) r.arrival

/-- Versions wanted, in the order of R180: for RESTORING requests, for held admissions by arrival, for deferred members; then reloads that
nothing wants any more. -/
def Engine.reloadOrder (e : Engine) : List (Nat × Nat) :=
  let key := fun (w : Nat × Nat × Nat) => (w.2.2, if w.2.2 = 1 then e.neededSince w.1 w.2.1 else 0)
  let l := sortBy (fun (x y : Nat × Nat × Nat) =>
    decide ((key x).1 < (key y).1 ∨ (key x).1 = (key y).1 ∧ (key x).2 < (key y).2)) e.var.wanted
  let rest := e.var.jobs.filterMap fun j => match j.what with | .addition a v true => some (a, v) | _ => none
  (l.map (fun w => (w.1, w.2.1)) ++ rest).eraseDups

/-- The first reload in that order that goes on or can be placed. -/
def Engine.nextReload (e : Engine) : List (Nat × Nat) → Option (Job × Engine)
  | [] => none
  | (a, v) :: l =>
    match e.reloadJob a v with
    | some j => if j.waits then some (j, e) else Engine.nextReload e l
    | none => match (e.startReload a v).bind fun e => (e.reloadJob a v).map fun j => (j, e) with
      | some x => some x
      | none => Engine.nextReload e l

/-- The job whose burst comes next: family reloads, addition reloads, loads in decode order (R397). -/
def Engine.nextJobOf (e : Engine) : Option (Job × Engine) :=
  let first := fun (rank : Nat) => (sortBy (fun (a b : Job) => decide (a.id < b.id)) (e.var.jobs.filter fun j => j.waits && j.what.rank == rank)).head?
  match first 0 with
  | some j => some (j, e)
  | none => match e.nextReload e.reloadOrder with
    | some x => some x
    | none => (first 2).map fun j => (j, e)

/-- The next burst: leave of class LOAD is asked for it (R397). -/
def Engine.nextLoadBurst (e : Engine) : Engine :=
  if e.var.active.isSome then e
  else
    match e.nextJobOf with
    | none => e
    | some (j, e) =>
      let n := min (e.get Fld.pgmMoveBurstN) (j.total - j.issued)
      let bytes := sumBy (List.range n) fun i => e.partBytes j (j.issued + i)
      let (tag, e) := e.askLeave true 3 (e.credits (e.energy 3 * bytes)) .load
      let jobs := e.var.jobs.map fun x => if x.id == j.id then { x with started := true } else x
      { e with var := { e.var with active := some j.id, burst := n, burstTag := some tag, asked := true, jobs := jobs } }

/-- Wants a reload at a priority of R180: 0 restoring, 1 held admission, 2 deferred member. One already wanted is tried again; it stays wanted,
and so keeps its place, until it has ended. -/
def Engine.wantReload (e : Engine) (a v rank : Nat) : Engine :=
  let due := match e.record? a v with
    | some r => (r.vstate == 3 || r.vstate == 4) && r.slot.isNone && !r.lost
    | none => false
  if !due then e
  else if e.var.wanted.any (fun w => w.1 == a && w.2.1 == v && decide (w.2.2 ≤ rank)) then e.nextLoadBurst
  else
    let rest := e.var.wanted.filter fun w => !(w.1 == a && w.2.1 == v)
    let l := insertBy (fun (x y : Nat × Nat × Nat) => decide (x.2.2 < y.2.2)) (a, v, rank) rest
    ({ e with var := { e.var with wanted := l } } : Engine).nextLoadBurst

/-- Does a request that is held, restoring or served still need a version (R180)? -/
def Engine.needsVersion (e : Engine) (a v : Nat) : Bool :=
  e.rafter.any fun x => x.2.addValid && x.2.addition == a && x.2.version == v &&
    [ReqState.admitting, .queued, .prefill, .decode, .restoring, .fenced].contains x.2.state

/-- At a boundary, reloads that no request needs any more are dropped, and one that has found no room is tried again. -/
def Engine.serveReloads (e : Engine) : Engine :=
  ({ e with var := { e.var with wanted := e.var.wanted.filter fun w => e.needsVersion w.1 w.2.1 } } : Engine).nextLoadBurst

/-- Leave for the load burst is granted; a grant that nothing waits for any more is released. -/
def Engine.loadGranted (e : Engine) (tag : Nat) : Engine :=
  if e.var.burstTag = some tag && e.var.asked then { e with var := { e.var with asked := false } } else e.endGrant true tag

/-- The source of part i of a job: tier and address. -/
def Engine.partSource (e : Engine) (j : Job) (i : Nat) : Nat × BitVec 64 :=
  match j.what with
  | .family f _ =>
    let x := e.family f
    (if x.weightSrcT2 then 2 else 3, x.weightSrc + BitVec.ofNat 64 (i * chunkBytes))
  | .addition a v _ => match e.record? a v with
    | none => (3, 0)
    | some r => (if r.srcT2 then 2 else 3, r.source + BitVec.ofNat 64 (i * chunkBytes))
  | .learned p => match Table.get? e.var.prefixes p with
    | none => (3, 0)
    | some x => (if x.srcT2 then 2 else 3, x.source + BitVec.ofNat 64 (i * (e.family x.family).pageBytes))

/-- The destination of part i: page entry, tier, frame and address. -/
def Engine.partTarget (e : Engine) (j : Job) (i : Nat) : Nat × Nat × Nat × BitVec 64 :=
  match j.what with
  | .family f _ =>
    let base := place (e.get Fld.varWtBaseLoAddr) 21 11 + place (e.get Fld.varWtBaseHiAddr) 32 32
    (0, 1, 0, BitVec.ofNat 64 (base + ((e.family f).granule + i) * chunkBytes))
  | .addition a v _ =>
    let base := place (e.get Fld.varAdd1BaseLoAddr) 16 16 + place (e.get Fld.varAdd1BaseHiAddr) 32 32
    let g := (((e.record? a v).bind (·.slot)).bind fun s => Table.get? e.var.slots s).map (·.granule)
    (0, 1, 0, BitVec.ofNat 64 (base + g.getD 0 * 65536 + i * chunkBytes))
  | .learned p => match Table.get? e.var.prefixes p with
    | none => (0, 1, 0, 0)
    | some x =>
      let q := x.pages.getD i 0
      (q, (e.page q).tier, (e.page q).frame, e.frameAddr (e.page q).tier (e.page q).cls (e.page q).frame)

/-- A copy of the load burst that has leave. -/
def Engine.issueLoad (e : Engine) : Option Engine :=
  if e.var.asked || e.var.burst = 0 || 1024 ≤ e.pgm.moves.length then none
  else match e.var.active.bind fun id => e.var.jobs.find? fun j => j.id == id with
    | none => none
    | some j =>
      let (st, sa) := e.partSource j j.issued
      let (q, dt, df, da) := e.partTarget j j.issued
      let bytes := e.partBytes j j.issued
      let jobs := e.var.jobs.map fun x => if x.id == j.id then { x with issued := x.issued + 1 } else x
      let e : Engine := { e with var := { e.var with burst := e.var.burst - 1, jobs := jobs } }
      some (e.startMove { tag := e.moveTag, why := .variantLoad j.id, page := q, srcTier := st, srcAddr := sa, dstTier := dt,
                          dstFrame := df, dstAddr := da, bytes := bytes, slot := none, cls := 0, retried := false, timed := false, cancelled := false,
                          expired := false } 1 0 0)

/-- The copies of a job in flight. -/
def Engine.jobMoves (e : Engine) (id : Nat) : List Move := e.pgm.moves.filter fun m => m.why == .variantLoad id

/-- The job's burst ends: its grant ends, or its leave is no longer wanted. -/
def Engine.endLoadBurst (e : Engine) : Engine :=
  match e.var.burstTag with
  | none => { e with var := { e.var with active := none, burst := 0 } }
  | some t =>
    let e := if e.var.asked then e.withdrawLeave true t else e.endGrant true t
    { e with var := { e.var with active := none, burst := 0, burstTag := none, asked := false } }

/-- A job leaves the queue, its copies cancelled. -/
def Engine.dropJob (e : Engine) (id : Nat) : Engine :=
  let e := (e.jobMoves id).foldl (fun e m => e.emit (.pageMove 3 m.tag 0 0 0 0 0 0 0)) e
  let moves := e.pgm.moves.map fun m => if m.why == .variantLoad id then { m with cancelled := true } else m
  let e : Engine := { e with var := { e.var with jobs := e.var.jobs.filter fun j => j.id != id }, pgm := { e.pgm with moves := moves } }
  if e.var.active = some id then e.endLoadBurst else e

/-- A load of a version that is superseded or retired while LOADING: cancelled, ADDITION_MISSING (R178, Table 7.7). -/
def Engine.cancelLoad (e : Engine) (a v : Nat) : Engine :=
  match e.record? a v with
  | none => e
  | some r =>
    let jobs := e.var.jobs.filter fun j => match j.what with | .addition a' v' _ => a' == a && v' == v | _ => false
    let e : Engine := jobs.foldl (fun e j => e.dropJob j.id) e
    let e := match r.slot with | some s => e.freeSlot s | none => e
    (e.modRecord a v fun r => { r with ack := none }).ackAt r.ack Status.additionMissing

/-- A record enters RETIRING: by the host, or by supersession. -/
def Engine.retireRecord (e : Engine) (a v : Nat) (host : Bool) : Engine :=
  match e.record? a v with
  | none => e
  | some r =>
    let e := if r.vstate = 1 then e.cancelLoad a v else e
    (e.modRecord a v fun r => { r with vstate := if r.vstate = 5 then 5 else 4, hostRetire := r.hostRetire || host }).wakeAll.settleRecord a v

/-- CURRENT is no longer valid when a named version is it (R181). -/
def Engine.clearCurrent (e : Engine) (a : Nat) (vs : List Nat) : Engine :=
  match e.addition? a with
  | none => e
  | some x => if x.currentValid && vs.contains x.current then e.putAddition a { x with currentValid := false } else e

/-- Retires versions named by the host, acknowledging when all are empty (R181). -/
def Engine.retireVersions (e : Engine) (a : Nat) (vs : List Nat) (ack : Option (Nat × Nat)) : Engine :=
  let e := e.clearCurrent a vs
  let e := match e.addition? a, ack with
    | some x, some (r, d) => e.putAddition a { x with retires := x.retires ++ [(r, d, vs)] }
    | _, _ => e
  (vs.foldl (fun e v => e.retireRecord a v true) e).nextLoadBurst

/-- A prefix enters RETIRING; a LOADING one is cancelled. -/
def Engine.retirePrefix (e : Engine) (p : Nat) (ack : Option (Nat × Nat)) : Engine :=
  match Table.get? e.var.prefixes p with
  | none => e
  | some x =>
    let e := if x.state = 1 then
        let jobs := e.var.jobs.filter fun j => j.what == .learned p
        let e : Engine := jobs.foldl (fun e j => e.dropJob j.id) e
        let e : Engine := x.pages.foldl (fun e q => e.modPage q fun y => { y with state := .full }) e
        e.ackAt x.ack Status.additionMissing
      else e
    let e : Engine := { e with var := { e.var with prefixes := Table.put e.var.prefixes p { x with state := 3, ack := ack } } }
    ((e.opsPrefix p x.family 3).settlePrefix p).nextLoadBurst

/-- Removes a family (R174): REMOVING, and everything of it enters retirement. The spec does not say what becomes of the reload of a RELOADING
family: the model cancels it, and its live requests run on (log entry 51). -/
def Engine.removeFamily (e : Engine) (f : Nat) (ack : Option (Nat × Nat)) : Engine :=
  let x := e.family f
  let jobs := e.var.jobs.filter fun j => match j.what with | .family g _ => g == f | _ => false
  let e : Engine := jobs.foldl (fun e j => e.dropJob j.id) e
  let e := e.putFamily f { x with state := 4, ack := ack }
  let adds := e.var.additions.filter fun y => y.2.family == f
  let e : Engine := adds.foldl (fun e y => e.retireVersions y.1 (y.2.records.map (·.version)) none) e
  let pfxs := e.var.prefixes.filter fun y => y.2.family == f && decide (y.2.state < 3)
  let e : Engine := pfxs.foldl (fun e y => e.retirePrefix y.1 none) e
  ((e.settleFamily f).nextLoadBurst).wake fun r => r.family == f

/-! ### Ends of jobs -/

/-- A version's load completes (R178, R182). REBIND marks a SUBMIT past stage 4 too: it is moved once admitted (Table 7.7). -/
def Engine.additionLoaded (e : Engine) (a v : Nat) : Engine :=
  match e.addition? a, e.record? a v with
  | some x, some r =>
    let old := (x.records.filter fun y => y.version != v && (y.vstate == 1 || y.vstate == 2 || y.vstate == 3)).map (·.version)
    let superseded := (x.records.filter fun y => y.version != v).map (·.version)
    let e := e.putAddition a { x with current := v, currentValid := true }
    let e := e.modRecord a v fun y => { y with vstate := 2, ack := none }
    let e := if r.rebindReq then
        { e with rafter := Table.mapV e.rafter fun _ y =>
            if y.addValid && y.addition == a && superseded.contains y.version && y.state != .free then
              { y with rebindPending := true } else y }
      else e
    let e : Engine := old.foldl (fun e w => e.retireRecord a w false) e
    (e.wakeAll.bump Cnt.varLoad).ackAt r.ack Status.ok
  | _, _ => e

/-- A reload is wanted no more. -/
def Engine.unwant (e : Engine) (a v : Nat) : Engine :=
  { e with var := { e.var with wanted := e.var.wanted.filter fun w => !(w.1 == a && w.2.1 == v) } }

/-- A job completes. -/
def Engine.jobDone (e : Engine) (w : LoadOf) : Engine :=
  match w with
  | .family f reload =>
    let x := e.family f
    let e := e.putFamily f { x with state := 2, ack := none }
    if reload then e
    else
      let e : Engine := { e with adm := { e.adm with predictors := Table.put e.adm.predictors f x.predictor } }
      (e.bump Cnt.varLoad).ackAt x.ack Status.ok
  | .addition a v true => ((e.unwant a v).modRecord a v fun r => { r with vstate := if r.vstate = 4 then 4 else 2 }).wakeAll
  | .addition a v false => e.additionLoaded a v
  | .learned p => match Table.get? e.var.prefixes p with
    | none => e
    | some x =>
      let e := x.pages.foldl (fun e q => e.modPage q fun y => { y with state := .full }) e
      let e : Engine := { e with var := { e.var with prefixes := Table.put e.var.prefixes p { x with state := 2, ack := none } } }
      ((e.opsPrefix p x.family 2).bump Cnt.varLoad).ackAt x.ack Status.ok

/-- Ends every live request that a test names with TIER_FAILED. -/
def Engine.failWhere (e : Engine) (det : Nat) (hit : Rafter → Bool) : Engine :=
  ((e.rafter.filter fun x => hit x.2 && (x.2.state.running || x.2.state.paused || x.2.state == .fenced)).map Prod.fst).foldl
    (fun e s => e.requestError det s Status.tierFailed (e.handleOf s).toNat) e

/-- A load or reload fails (R171, R173, R178, R180, R183). -/
def Engine.jobFailed (e : Engine) (w : LoadOf) : Engine :=
  let e := e.bump Cnt.varLoadFail
  match w with
  | .family f true =>
    (e.failWhere Det.loadWatchdog (fun r => r.family == f)).removeFamily f none
  | .family f false =>
    let x := e.family f
    let e : Engine := { e with var := { e.var with families := Table.del e.var.families f },
                               ylm := { e.ylm with fits := Table.del e.ylm.fits f } }
    (e.ops (0x08 + place f 8 8 + place 1 16 1)).ackAt x.ack Status.tierFailed
  | .addition a v true =>
    let e := match (e.record? a v).bind (·.slot) with | some s => e.freeSlot s | none => e
    let e := (e.unwant a v).modRecord a v fun r => { r with vstate := 5 }
    (e.failWhere Det.loadWatchdog (fun r => r.addValid && r.addition == a && r.version == v)).settleRecord a v
  | .addition a v false =>
    let ack := (e.record? a v).bind (·.ack)
    let e := match (e.record? a v).bind (·.slot) with | some s => e.freeSlot s | none => e
    let e := match e.addition? a with
      | none => e
      | some x => e.ackRetires a v x
    e.ackAt ack Status.tierFailed
  | .learned p => match Table.get? e.var.prefixes p with
    | none => e
    | some x =>
      let e := x.pages.foldl (fun e q => (e.modPage q fun y => { y with state := .full }).dropHolder q) e
      let e : Engine := (({ e with var := { e.var with prefixes := Table.del e.var.prefixes p } } : Engine)).opsPrefix p x.family 0
      (e.addPheld x.tenant (ceilDiv x.tokens 32) false).ackAt x.ack Status.tierFailed

/-- A job's part has landed: the burst ends when all its copies have, the job when all parts have. -/
def Engine.partLanded (e : Engine) (id : Nat) : Engine :=
  let jobs := e.var.jobs.map fun x => if x.id == id then { x with landed := x.landed + 1 } else x
  let e : Engine := { e with var := { e.var with jobs := jobs } }
  match e.var.jobs.find? fun j => j.id == id with
  | none => e
  | some j =>
    let e := if e.var.active == some id && e.var.burst == 0 && (e.jobMoves id).isEmpty then e.endLoadBurst else e
    let e := if j.landed = j.total then
        ({ e with var := { e.var with jobs := e.var.jobs.filter fun x => x.id != id } } : Engine).jobDone j.what
      else e
    e.nextLoadBurst

/-- A job fails: its copies are cancelled. -/
def Engine.failJob (e : Engine) (j : Job) : Engine := ((e.dropJob j.id).jobFailed j.what).nextLoadBurst

/-- Completion of a load's copy: one cancelled for its watchdog is given again; any other failure fails the load. -/
def Engine.copyDone (e : Engine) (m : Move) (id status : Nat) : Engine :=
  let e := e.dropMove m.tag
  match e.var.jobs.find? fun j => j.id == id with
  | none => e
  | some j =>
    if status = 0 then e.partLanded id
    else if status = 3 && m.expired then
      e.startMove { m with tag := e.moveTag, timed := true, cancelled := false, expired := false } 1 0 0
    else e.failJob j

/-! ### Commands -/

def execPageMoveIssue (s : State) : Host.Outcome State Fault Refusal :=
  s.actIn Isl.pg fun e =>
    let e := e.pruneBurst
    (e.issuePage.orElse fun _ => e.issueLoad).getD e

/-- A completion whose tag is not outstanding is discarded and recorded (R376). -/
def Engine.moveCompletion (e : Engine) (tag status : Nat) : Engine :=
  match e.pgm.moves.find? fun m => m.tag == tag with
  | none => e.log Ev.moveDiscarded [tag, status]
  | some m => match m.why with
    | .variantLoad id => e.copyDone m id status
    | _ => e.finishMove m status

def execPageMoveCompletion (tag : BitVec 32) (status : BitVec 2) (s : State) : Host.Outcome State Fault Refusal :=
  s.cross Isl.pg (.pageMoveCompletion tag status) fun e => e.moveCompletion tag.toNat status.toNat

/-- PGM_MOVE_TO over a move; over a load's copy the second expiry fails the load. -/
def Engine.moveTimeout (e : Engine) (tag : Nat) : Engine :=
  match e.pgm.moves.find? fun m => m.tag == tag with
  | none => e
  | some m => match m.why with
    | .variantLoad id =>
      if m.timed || m.expired then
        let e := e.bump Cnt.pgmMoveTo
        match e.var.jobs.find? fun j => j.id == id with
        | none => e.dropMove tag
        | some j => (e.dropMove tag).failJob j
      else e.moveExpired m
    | _ => e.moveExpired m

def execPageMoveTimeout (tag : BitVec 32) (s : State) : Host.Outcome State Fault Refusal :=
  s.actIn Isl.pg fun e => e.moveTimeout tag.toNat

/-- VAR_LOAD_TO passes over a job whose first burst has asked for leave. -/
def Engine.loadExpired (e : Engine) (id : Nat) : Engine :=
  match e.var.jobs.find? fun j => j.id == id with
  | none => e
  | some j => if j.started then ((e.bump Cnt.varLoadTo).report Det.loadWatchdog Cls.request nullHandle nullHandle.toNat).failJob j else e

def execLoadTimeout (job : BitVec 32) (s : State) : Host.Outcome State Fault Refusal :=
  s.actIn Isl.pg fun e => e.loadExpired job.toNat

/-- VAR_PREFIX_HOLD passes after a prefix's BOUND last fell to 0 (R185). -/
def Engine.prefixLapse (e : Engine) (p : Nat) : Engine :=
  match Table.get? e.var.prefixes p with
  | none => e
  | some x =>
    match x.lapse with
    | some t =>
      if x.bound = 0 && x.resident && t ≤ e.now then
        let e : Engine := { e with var := { e.var with prefixes := Table.put e.var.prefixes p { x with resident := false, lapse := none } } }
        let e := e.checkAllSpilled
        e.balance (e.family x.family).cls
      else e
    | none => e

def execPrefixHoldExpiry (pfx : BitVec 20) (s : State) : Host.Outcome State Fault Refusal :=
  s.actIn Isl.pg fun e => e.prefixLapse pfx.toNat

/-! ### Bindings (R179, R184) -/

/-- A request takes its version and prefix at the decision. -/
def Engine.bindVariants (e : Engine) (r : Rafter) : Engine :=
  let e := if r.addValid then e.modRecord r.addition r.version fun x => { x with bound := x.bound + 1 } else e
  match r.pfxValid, Table.get? e.var.prefixes r.pfx with
  | true, some x =>
    let e : Engine := { e with var := { e.var with prefixes := Table.put e.var.prefixes r.pfx { x with bound := x.bound + 1, resident := true, lapse := none } } }
    x.pages.foldl (fun e p => e.raisePage .promote (slotOf r.handle) p) e
  | _, _ => e

/-- A SUBMIT that ends without admission no longer names its version and prefix: what waited for it retires. -/
def Engine.settleNamed (e : Engine) (r : Rafter) : Engine :=
  let e := if r.addValid then e.settleRecord r.addition r.version else e
  if r.pfxValid then e.settlePrefix r.pfx else e

/-- A freed request lets go of its version, prefix and family. -/
def Engine.unbindVariants (e : Engine) (r : Rafter) : Engine :=
  let e := if r.addValid then
      (e.modRecord r.addition r.version fun x => { x with bound := x.bound - 1 }).settleRecord r.addition r.version
    else e
  let e := match r.pfxValid, Table.get? e.var.prefixes r.pfx with
    | true, some x =>
      let lapse := if x.bound = 1 then some (e.now + e.get Fld.varPrefixHoldS * 1000000000) else x.lapse
      ({ e with var := { e.var with prefixes := Table.put e.var.prefixes r.pfx { x with bound := x.bound - 1, lapse := lapse } } } : Engine).settlePrefix r.pfx
    | _, _ => e
  e.settleFamily r.family

/-- A pinned slot is let go at a boundary's close; what waited for it happens. -/
def Engine.unpinSlot (e : Engine) (s : Nat) : Engine :=
  match Table.get? e.var.slots s with
  | none => e
  | some x =>
    let e : Engine := { e with var := { e.var with slots := Table.put e.var.slots s { x with pins := x.pins - 1 } } }
    (e.settleRecord x.addition x.version).settleFamily x.family

/-- Rebinds the requests that wait for it, at effect 3 (R182). -/
def Engine.rebindOne (e : Engine) (slot : Nat) (r : Rafter) : Engine :=
  let moves := r.state.running || r.state.paused
  match e.addition? r.addition with
  | some x =>
    if moves && x.currentValid && x.current != r.version then
      let e := e.putReq slot { r with version := x.current, rebindPending := false, mixedVersion := true }
      let e := e.modRecord r.addition x.current fun y => { y with bound := y.bound + 1 }
      let e := (e.modRecord r.addition r.version fun y => { y with bound := y.bound - 1 }).markMixed slot
      ((e.settleRecord r.addition r.version).bump Cnt.varRebound).jevent 0x09 0 r.handle.toNat x.current
    else e.putReq slot { r with rebindPending := false }
  | none => e.putReq slot { r with rebindPending := false }

def Engine.rebindAll (e : Engine) : Engine :=
  (e.rafter.filter fun x => x.2.rebindPending && x.2.state != .admitting).foldl (fun e x => e.rebindOne x.1 x.2) e

end Sys2Proof.Machine
end

