-- ==== Sys2Proof/Machine/Counts.lean ====
section
/-!
DEFINITION. Machine/Counts.lean: penalty count sets, overflow cells, bias stores and guess stores (R197 to R199, R208,
R212).
-/

namespace Sys2Proof.Machine

/-- Tiles of a vocabulary. -/
def tilesOf (vocab : Nat) : Nat := ceilDiv vocab 256

/-- r of R197: the smallest with ⌈T / 2^r⌉ ≤ 1,024; a vocabulary has at most 65,536 tiles. -/
def bucketShift (vocab : Nat) : Nat := ((List.range 7).find? fun r => decide (ceilDiv (tilesOf vocab) (2 ^ r) ≤ 1024)).getD 6

/-- Bucket of a token. -/
def bucketOf (vocab token : Nat) : Nat := token / 256 / 2 ^ bucketShift vocab

/-- Line of a token in a count set or cell (R198). -/
def lineOf (vocab token : Nat) : Nat := bucketOf vocab token % 32

/-- A line of a set. -/
def CountSet.line (s : CountSet) (l : Nat) : List (Nat × Nat) := Table.getD s l []

/-- Entries a line of a cell holds: entry 15 of line 31 is the link. -/
def cellRoom (l : Nat) : Nat := if l = 31 then 15 else 16

/-- The count of a token in a set. -/
def CountSet.count (s : CountSet) (l token : Nat) : Nat := (((CountSet.line s l).find? fun x => x.1 == token).map (·.2)).getD 0

/-- One more of a token that has an entry, saturating. -/
def CountSet.inc (s : CountSet) (l token : Nat) : CountSet :=
  Table.put s l ((CountSet.line s l).map fun x => if x.1 == token then (x.1, min 255 (x.2 + 1)) else x)

/-- A new entry of a line. -/
def CountSet.add (s : CountSet) (l token : Nat) : CountSet := Table.put s l (CountSet.line s l ++ [(token, 1)])

def Engine.homeSet (e : Engine) (slot : Nat) : CountSet := Table.getD e.smp.homes slot []

def Engine.cellSet (e : Engine) (c : Nat) : CountSet := Table.getD e.smp.cells c []

def Engine.putHome (e : Engine) (slot : Nat) (s : CountSet) : Engine :=
  { e with smp := { e.smp with homes := Table.put e.smp.homes slot s } }

def Engine.putCell (e : Engine) (c : Nat) (s : CountSet) : Engine :=
  { e with smp := { e.smp with cells := Table.put e.smp.cells c s } }

/-- Cells from c on along their links; there are 131,072 cells. -/
def Engine.cellChain (e : Engine) : Nat → Nat → List Nat
  | 0, _ => []
  | n + 1, c => c :: (match Table.get? e.smp.links c with | none => [] | some c' => Engine.cellChain e n c')

/-- The overflow chain of a slot. -/
def Engine.overflow (e : Engine) (slot : Nat) : List Nat :=
  match e.anyReq? slot with
  | none => []
  | some r => if r.penOvfValid then e.cellChain (e.smp.links.length + 1) r.penOvfHead else []

/-- c of R194: the count of a token, pending tokens apart. -/
def Engine.countOf (e : Engine) (slot vocab token : Nat) : Nat :=
  let l := lineOf vocab token
  let n := CountSet.count (e.homeSet slot) l token
  if n ≠ 0 then n
  else (((e.overflow slot).map fun c => CountSet.count (e.cellSet c) l token).find? (· != 0)).getD 0

/-- Tokens with a count in a slot's sets. -/
def Engine.countTokens (e : Engine) (slot : Nat) : List Nat :=
  (e.homeSet slot :: (e.overflow slot).map e.cellSet).flatMap fun s => (Table.vals s).flatMap fun l =>
    (l.filter fun x => x.2 != 0).map Prod.fst

/-- MAP: a bit for each bucket that holds one of the tokens (R197). -/
def mapOf (vocab : Nat) (tokens : List Nat) : BitVec 1024 :=
  tokens.foldl (fun b t => b ||| BitVec.twoPow 1024 (bucketOf vocab t)) 0

/-- A request's bias list, sorted by token id as its store holds it. -/
def Engine.biasOf (e : Engine) (slot : Nat) : List (Nat × BitVec 32) := Table.getD e.smp.biases slot []

/-- BIAS_DIR: the first token id of each of the 8 lines; an unused entry is token 0xFF_FFFF (R193, R198). -/
def biasDirOf (bias : List (Nat × BitVec 32)) : List Nat := (List.range 8).map fun i => ((bias[8 * i]?).map Prod.fst).getD pad

/-- The entries of the bias lines whose id range, taken from BIAS_DIR, meets a tile (R198). -/
def biasLines (dir : List Nat) (bias : List (Nat × BitVec 32)) (tile : Nat) : List (Nat × BitVec 32) :=
  ((List.range 8).filter fun i => decide (dir.getD i pad < 256 * tile + 256 ∧ 256 * tile ≤ dir.getD (i + 1) pad)).flatMap fun i =>
    (bias.drop (8 * i)).take 8

/-- Notes an old value when the write belongs to the step in compute. -/
def Engine.noteIf (e : Engine) (own : Bool) (u : UndoEntry) : Engine := if own then e.logUndo u else e

/-- A count that finds no cell is lost; the request runs on. -/
def Engine.countLost (e : Engine) (slot : Nat) : Engine :=
  (({ e with smp := { e.smp with penEmpty := true } } : Engine).bump Cnt.smpPenLost).log Ev.penLost [(e.handleOf slot).toNat]

/-- Links a new cell at the end of a slot's chain. -/
def Engine.linkCell (e : Engine) (own : Bool) (slot c : Nat) : Engine :=
  match (e.overflow slot).getLast? with
  | some last =>
    let e := e.noteIf own (.link last (Table.get? e.smp.links last))
    { e with smp := { e.smp with links := Table.put e.smp.links last c } }
  | none => match e.anyReq? slot with
    | none => e
    | some r => (e.noteIf own (.rafter slot r)).modAny slot fun r => { r with penOvfHead := c, penOvfValid := true }

/-- One count of a token: its entry, an empty entry of its line, or a cell from the head of the free list (R208). The
flag tells a count of the step in compute, which enters the undo log, from one of the host's. -/
def Engine.addCount (e : Engine) (own : Bool) (slot vocab token : Nat) : Engine :=
  let l := lineOf vocab token
  let home := e.homeSet slot
  let chain := e.overflow slot
  if CountSet.count home l token ≠ 0 then (e.noteIf own (.home slot home)).putHome slot (CountSet.inc home l token)
  else match chain.find? fun c => CountSet.count (e.cellSet c) l token != 0 with
    | some c => (e.noteIf own (.cell c (e.cellSet c))).putCell c (CountSet.inc (e.cellSet c) l token)
    | none =>
      if (CountSet.line home l).length < 16 then (e.noteIf own (.home slot home)).putHome slot (CountSet.add home l token)
      else match chain.find? fun c => decide ((CountSet.line (e.cellSet c) l).length < cellRoom l) with
        | some c => (e.noteIf own (.cell c (e.cellSet c))).putCell c (CountSet.add (e.cellSet c) l token)
        | none => match e.smp.cellFree.take with
          | none => e.countLost slot
          | some (c, free) =>
            let e : Engine := { e with smp := { e.smp with cellFree := free } }
            let e := (e.noteIf own (.cellTaken c)).linkCell own slot c
            (e.noteIf own (.cell c [])).putCell c (CountSet.add [] l token)

/-- INPUT records of a list of tokens from a position on: five tokens a record; the flags are COMPUTE and COUNT (R244). -/
def Engine.opsInput (handle flags : Nat) : Nat → Nat → List Nat → Engine → Engine
  | 0, _, _, e => e
  | n + 1, position, ts, e =>
    if ts.isEmpty then e
    else
      let five := ts.take 5
      let body := (five.zipIdx.map fun x => place x.1 (96 + 32 * x.2) 32).sum
      Engine.opsInput handle flags n (position + 5) (ts.drop 5)
        (e.ops (0x0A + place flags 8 2 + place handle 32 32 + place position 64 24 + place five.length 88 8 + body))

/-- Prompt tokens counted when COUNT_PROMPT = 1, in token order (R199); a group's workers count them too. -/
def Engine.countPromptOf (e : Engine) (slot : Nat) (r : Rafter) (tokens : List Nat) : Engine :=
  if r.countPrompt then
    tokens.foldl (fun e t => e.addCount false slot (e.family r.family).vocab t)
      (Engine.opsInput r.handle.toNat 2 tokens.length (r.inputEnd - tokens.length) tokens e)
  else e

/-! ### Guess stores (R212) -/

/-- An empty store. -/
def GuessStore.empty : GuessStore := { tokens := [pad, pad, pad, pad], count := 0 }

def Engine.guessStore (e : Engine) (slot : Nat) : GuessStore := Table.getD e.smp.guesses slot .empty

/-- Empties a store; as the step's own act the old value enters the undo log. -/
def Engine.emptyGuesses (e : Engine) (own : Bool) (slot : Nat) : Engine :=
  let e := e.noteIf own (.guess slot (e.guessStore slot))
  { e with smp := { e.smp with guesses := Table.put e.smp.guesses slot .empty } }

/-! ### A request's stores -/

/-- Bias store of a request as its 512 B image: 64 entries of 8 B (R198). -/
def biasImage (bias : List (Nat × BitVec 32)) : Nat :=
  let full := (bias ++ List.replicate 64 (0xFFFFFF, 0#32)).take 64
  (full.zipIdx.map fun x => (place x.1.1 0 24 + place x.1.2.toNat 32 32) * 2 ^ (64 * x.2)).sum

/-- REQ_OPEN: the handle, 4 records of the parameter block, 16 of the bias store (R244). -/
def Engine.opsOpen (e : Engine) (r : Rafter) (bias : List (Nat × BitVec 32)) : Engine :=
  let e := e.ops (0x0B + place r.handle.toNat 32 32)
  let e := (List.range 4).foldl (fun e i => e.ops (bitsOf r.params.toNat (256 * i) 256)) e
  (List.range 16).foldl (fun e i => e.ops (bitsOf (biasImage bias) (256 * i) 256)) e

/-- Builds the stores of an admitted request (R199). -/
def Engine.openStores (e : Engine) (slot : Nat) (r : Rafter) : Engine :=
  let bias := sortBy (fun a b => decide (a.1 < b.1)) r.bias
  let e := e.opsOpen r bias
  let e : Engine := { e with smp := { e.smp with homes := Table.del e.smp.homes slot, biases := Table.put e.smp.biases slot bias } }
  (e.emptyGuesses false slot).countPromptOf slot r r.listTokens

/-- Frees a slot's stores at effect 2; its cells join the tail of the free list (R79, R208). -/
def Engine.closeStores (e : Engine) (slot : Nat) : Engine :=
  let chain := e.overflow slot
  let e := e.ops (0x0C + place (e.handleOf slot).toNat 32 32)
  let smp := e.smp
  { e with smp := { smp with homes := Table.del smp.homes slot, biases := Table.del smp.biases slot,
                             guesses := Table.del smp.guesses slot,
                             cells := chain.foldl (fun t c => Table.del t c) smp.cells,
                             links := chain.foldl (fun t c => Table.del t c) smp.links,
                             cellFree := chain.foldl FreeList.give smp.cellFree } }

end Sys2Proof.Machine
end

