-- ==== Sys2Proof/Machine/Admission.lean ====
section
/-!
DEFINITION. Machine/Admission.lean: tenants, the predictor, committed load and ceilings, and the conditions of Table 4.2
(chapter 4).
-/

namespace Sys2Proof.Machine

/-! ### Tenants (R91 to R94) -/

/-- A record never written. -/
def Tenant.zero : Tenant :=
  { level := 0, stamp := 0, rate := 0, burst := 0, enable := false, cap := 0, live := 0, pquota := 0, pheld := 0, aquota := 0,
    aheld := 0 }

def Engine.tenant (e : Engine) (t : Nat) : Tenant := Table.getD e.adm.tenants t .zero

def Engine.putTenant (e : Engine) (t : Nat) (x : Tenant) : Engine :=
  { e with adm := { e.adm with tenants := Table.put e.adm.tenants t x } }

/-- A metered tenant has a rate. -/
def Tenant.metered (t : Tenant) : Bool := t.rate != 0

/-- The refill of an access at a comparison value (R93). -/
def Tenant.refill (t : Tenant) (us : Nat) : Tenant :=
  if t.metered then
    let elapsed := (us + 2 ^ 32 - t.stamp) % 2 ^ 32
    { t with level := min ((t.burst * 1000000 : Nat) : Int) (t.level + ((t.rate * elapsed : Nat) : Int)), stamp := us % 2 ^ 32 }
  else { t with stamp := us % 2 ^ 32 }

/-- Refills a tenant's bucket now; a record never written stays so. -/
def Engine.refill (e : Engine) (t : Nat) : Engine :=
  { e with adm := { e.adm with tenants := Table.modify e.adm.tenants t fun x => x.refill e.us } }

/-- The floor of a bucket. -/
def Tenant.floor (t : Tenant) : Int := -((t.burst * 1000000 : Nat) : Int)

/-- A charge in tokens; a generation charge stops at the floor. -/
def Tenant.charge (t : Tenant) (tokens : Nat) : Tenant :=
  if t.metered then { t with level := max t.floor (t.level - ((tokens * 1000000 : Nat) : Int)) } else t

/-- Charges a tenant for one emitted token (R93). -/
def Engine.chargeToken (e : Engine) (t : Nat) : Engine :=
  { e with adm := { e.adm with tenants := Table.modify e.adm.tenants t fun x => (x.refill e.us).charge 1 } }

def execBucketSweep (tenant : BitVec 16) (s : State) : Host.Outcome State Fault Refusal :=
  s.actIn Isl.sb fun e => if (e.tenant tenant.toNat).enable then e.refill tenant.toNat else e

/-! ### Load (R95, R99, R102) -/

/-- END (R95) as ADM last evaluated it. SEQ_END is INPUT_END at an admission and at an APPEND, and every token after it adds one
to SEQ_END and to GENERATED (R70), so the value stands between. -/
def Rafter.endPos (r : Rafter) : Nat := min r.maxContext (r.seqEnd + r.maxNew - r.generated)

/-- Reserved pages P (R95). -/
def Rafter.pagesP (r : Rafter) : Nat := ceilDiv r.endPos 32 - r.pfxLen / 32

/-- Tail-prefill positions of the next chunk. -/
def Rafter.chunk (r : Rafter) : Nat := if 1 < r.seqEnd - r.kvEnd then min 2048 (r.seqEnd - r.kvEnd) else 0

/-- Does the class commit load (Table 4.4)? -/
def Rafter.commits (r : Rafter) : Bool := r.cls == 0 || r.cls == 1

/-- A load in one family: D, P, K and A. -/
structure Load where
  d : Nat
  p : Nat
  k : Nat
  a : Nat
  deriving DecidableEq, Repr

/-- BASE_NS of a family: the thin-mode one for grade C (R122). -/
def Engine.baseNs (e : Engine) (f : Nat) : Nat :=
  if (e.fitOf f).grade = 2 then e.thinNs f else (e.family f).pred 0 32

/-- raw_f (R99). -/
def Engine.rawNs (e : Engine) (f : Nat) (l : Load) : Nat :=
  let x := e.family f
  e.baseNs f + ceilDiv (max l.a 1) 1024 * x.pred 4 32 +
    ceilDiv (l.d * x.pred 8 32 + l.p * x.pred 12 32 + l.k * x.pred 16 32 + l.a * x.pred 20 32) 1000

/-- κ of a family. -/
def Engine.kappa (e : Engine) (f : Nat) : Int := ((Table.get? e.adm.predictors f).map (·.kappa)).getD 0

/-- adj_f (R99). -/
def Engine.adjNs (e : Engine) (f : Nat) (l : Load) : Nat := ceilDiv (e.rawNs f l * (1024 + e.kappa f).toNat) 1024

/-- T̂ of loads by family (R99). -/
def Engine.predict (e : Engine) (loads : Table Load) : Nat :=
  ceilDiv (sumBy loads (fun x => e.adjNs x.1 x.2) * e.binEff) 1024

/-- The distinct addition versions of a family's shares. -/
def versionsOf (shares : List Share) (f : Nat) : List (Nat × Nat) :=
  ((shares.filter fun x => x.family == f).filterMap (·.addKey)).eraseDups

/-- The load of shares in one family. -/
def loadOf (shares : List Share) (f : Nat) : Load :=
  let l := shares.filter fun x => x.family == f
  { d := sumBy l (·.d), p := sumBy l (·.p), k := sumBy l (·.k), a := (versionsOf shares f).length }

/-- The loads of shares by family. -/
def loadsOf (shares : List Share) : Table Load := ((shares.map (·.family)).eraseDups).map fun f => (f, loadOf shares f)

/-- T̂ of shares. -/
def Engine.predictShares (e : Engine) (shares : List Share) : Nat := e.predict (loadsOf shares)

/-- The committed shares (R102). -/
def Engine.shares (e : Engine) : List Share := Table.vals e.adm.shares

/-! ### Ceilings (R103, R104) -/

/-- Slack of a class. -/
def Engine.slack (e : Engine) (cls : Nat) : Nat := if cls = 0 then e.get Fld.admSlackInteractive else e.get Fld.admSlackStandard

/-- The ITL ceiling of a bin, µs. -/
def Engine.itlCeiling (e : Engine) (cls bin : Nat) : Nat := 4096 * bin / (1 + e.slack cls)

/-- ITL bin of an interval. -/
def itlBinOf (itlUs : Nat) : Option Nat := if itlUs = 0 then none else some (min 63 (itlUs / 4096))

/-- The lesser of two ceilings; none is infinite. -/
def minCeil : Option Nat → Option Nat → Option Nat
  | none, b => b
  | a, none => a
  | some a, some b => some (min a b)

/-- The committed ceiling C of shares, µs (R103). -/
def Engine.ceilingOf (e : Engine) (shares : List Share) : Option Nat :=
  shares.foldl (fun c x =>
    minCeil c (minCeil (x.itlBin.map (e.itlCeiling x.cls)) (x.ttftBin.map fun b => 1024 * b))) none

def Engine.ceiling (e : Engine) : Option Nat := e.ceilingOf e.shares

/-- E_n: the predicted end of the step in compute; with none in compute, now (log entry 17). -/
def Engine.stepEndNs (e : Engine) : Nat := if e.ylm.current.isSome then e.adm.stepEnd else e.now

/-- c of R104. -/
def Rafter.stepsToFirst (r : Rafter) : Nat := if r.srcKind && r.kvEnd + 1 == r.seqEnd then 1 else ceilDiv (r.seqEnd - r.kvEnd) 2048

/-- The TTFT ceiling of a candidate, µs. -/
def Engine.ttftCeiling (e : Engine) (r : Rafter) : Option Nat :=
  if r.ttft = 0 then none
  else some ((r.ttft * 1000 - e.stepEndNs) / (1000 * (r.stepsToFirst + 1 + e.slack r.cls)))

/-- The own ceiling of a candidate. -/
def Engine.ownCeiling (e : Engine) (r : Rafter) : Option Nat :=
  minCeil ((itlBinOf r.itlUs).map (e.itlCeiling r.cls)) (e.ttftCeiling r)

/-- The share a request commits (R102, R103). -/
def Engine.shareOf (e : Engine) (r : Rafter) : Share :=
  { family := r.family, cls := r.cls, d := 1 + r.specDepth, p := r.chunk, k := ceilDiv r.endPos 32,
    addKey := if r.addValid then some (r.addition, r.version) else none, itlBin := itlBinOf r.itlUs,
    ttftBin := (e.ttftCeiling r).map fun c => min 255 (c / 1024) }

/-- Is a T̂ in ns within a ceiling in µs? -/
def within (ns : Nat) : Option Nat → Bool
  | none => true
  | some us => decide (ns ≤ us * 1000)

/-- Condition 7 of Table 4.2. -/
def Engine.feasibleAlone (e : Engine) (r : Rafter) : Bool :=
  !r.commits || within (e.predictShares [e.shareOf r]) (e.ownCeiling r)

/-- The feasibility test (R105, R106) against every committed share but the request's own. -/
def Engine.feasible (e : Engine) (slot : Nat) (r : Rafter) : Bool :=
  let others := Table.vals (Table.del e.adm.shares slot)
  !r.commits || (!e.adm.overcommit &&
    within (e.predictShares (others ++ [e.shareOf r])) (minCeil (e.ceilingOf others) (e.ownCeiling r)))

/-- Condition 16: committed members and positions. -/
def Engine.roomCommitted (e : Engine) (r : Rafter) : Bool :=
  let x := e.shareOf r
  !r.commits || (decide (e.shares.length + 1 ≤ 16384) && decide (sumBy e.shares (fun y => y.d + y.p) + x.d + x.p ≤ 65536))

/-- OVERCOMMIT follows the committed prediction (R106). -/
def Engine.updateOvercommit (e : Engine) : Engine :=
  let above := !within (e.predictShares e.shares) e.ceiling
  if above = e.adm.overcommit then e
  else
    let e : Engine := { e with adm := { e.adm with overcommit := above } }
    if above then (e.bump Cnt.admOvercommit).log Ev.overcommit [sat32 (e.predictShares e.shares)] else e

/-- Commits a request's share; BULK commits nothing. -/
def Engine.commitShare (e : Engine) (slot : Nat) (r : Rafter) : Engine :=
  if r.commits then ({ e with adm := { e.adm with shares := Table.put e.adm.shares slot (e.shareOf r) } } : Engine).updateOvercommit else e

/-- Removes a request's share. -/
def Engine.dropShare (e : Engine) (slot : Nat) : Engine :=
  ({ e with adm := { e.adm with shares := Table.del e.adm.shares slot } } : Engine).updateOvercommit

/-! ### Conditions (Table 4.2) -/

/-- What a condition does when it fails: its number, hold or refuse, and the status. -/
structure Verdict where
  condition : Nat
  hold      : Bool
  status    : Nat
  deriving DecidableEq, Repr

/-- The status of each condition. -/
def conditionStatus (n : Nat) : Nat :=
  match n with
  | 5 => Status.noFit | 6 => Status.additionMissing | 7 => Status.noFit | 8 => Status.noFit | 13 => Status.noFit
  | 14 => Status.noFit | 15 => Status.additionMissing | 16 => Status.noFit | 17 => Status.noFit | 18 => Status.noFit
  | _ => Status.quota

/-- A version is loaded: it has a slot and no copy of it is under way. -/
def Engine.residentVersion (e : Engine) (a v : Nat) : Bool :=
  match e.record? a v with
  | none => false
  | some r => (r.vstate == 2 || r.vstate == 4) && r.slot.isSome &&
      !(e.var.jobs.any fun j => match j.what with | .addition a' v' _ => a' == a && v' == v | _ => false)

/-- Condition 6: the addition is known to the tenant and family, and the bound version stands (R179). -/
def Engine.additionOk (e : Engine) (r : Rafter) : Bool :=
  !r.addValid || (!r.bindFailed && (match e.addition? r.addition, e.record? r.addition r.version with
    | some x, some y => x.valid && x.family == r.family && x.owner == r.tenant &&
        (y.vstate == 1 || y.vstate == 2 || y.vstate == 3 || (y.vstate == 4 && !y.hostRetire))
    | _, _ => false))

/-- The earlier held request of the same tenant and class, if any: held requests stand in the order of arrival. -/
def Engine.earlierHeld (e : Engine) (slot : Nat) (r : Rafter) : Option Held :=
  (e.adm.held.takeWhile fun h => h.slot != slot).find? fun h => match e.req? h.slot with
    | some x => x.tenant == r.tenant && x.cls == r.cls && decide (x.arrival ≤ r.arrival)
    | none => false

/-- The status a held request would end with: that of its condition, and at condition 9 that of the request before it. -/
def Engine.heldStatus (e : Engine) : Nat → Held → Nat
  | 0, _ => Status.quota
  | fuel + 1, h =>
    if h.condition ≠ 9 then conditionStatus h.condition
    else match (e.req? h.slot).bind fun r => e.earlierHeld h.slot r with
      | none => Status.quota
      | some h' => Engine.heldStatus e fuel h'

/-- Conditions 1 to 8, which refuse. A family being removed refuses its requests NO_FIT (R174): Table 4.2 has no row for it, and the model
tests it before condition 1 (log entry 51). -/
def Engine.refusal (e : Engine) (r : Rafter) : Option Verdict :=
  let t := e.tenant r.tenant
  let f := e.family r.family
  let ring := e.evt r.eventRing
  let fail := fun (n : Nat) => some ({ condition := n, hold := false, status := conditionStatus n } : Verdict)
  if f.state = 4 || f.state = 0 then fail 8
  else if !t.enable then fail 1
  else if ring.size / 2 ≤ ring.bound then fail 2
  else if t.metered && t.burst < r.promptTokens then fail 3
  else if t.pquota ≠ 0 && t.pquota < r.pagesP then fail 4
  else if r.itlUs ≠ 0 && r.itlUs < 4096 then fail 5
  else if !e.additionOk r then fail 6
  else if !e.feasibleAlone r then fail 7
  else if e.classCapacity f.cls < r.pagesP then fail 8
  else none

/-- Condition 14: the reservation, kept through a hold (R88, R165). -/
def Engine.reserveFor (e : Engine) (slot : Nat) (r : Rafter) : Option Engine :=
  if r.entriesRes ≠ 0 then some e
  else (e.reservePages (e.family r.family).cls (ceilDiv r.endPos 32) r.pagesP).map fun e =>
    (e.putReq slot { r with entriesRes := ceilDiv r.endPos 32, reserved := r.pagesP }).wakeAll

/-- Conditions 9 to 18, which hold; the engine keeps a reservation granted on the way. -/
def Engine.holdTest (e : Engine) (slot : Nat) (r : Rafter) : Option Verdict × Engine :=
  let t := e.tenant r.tenant
  let hold := fun (n : Nat) => some ({ condition := n, hold := true, status := conditionStatus n } : Verdict)
  match e.earlierHeld slot r with
  | some h => (some { condition := 9, hold := true, status := e.heldStatus (e.adm.held.length + 1) h }, e)
  | none =>
    if t.metered && t.level < ((r.promptTokens * 1000000 : Nat) : Int) then (hold 10, e)
    else if t.cap ≠ 0 && t.cap ≤ t.live then (hold 11, e)
    else if t.pquota ≠ 0 && t.pquota < t.pheld + r.pagesP then (hold 12, e)
    else if e.smp.cellFree.count < e.get Fld.admPenReserveN then (hold 13, e)
    else match e.reserveFor slot r with
      | none => (hold 14, e)
      | some e =>
        if r.addValid && !e.residentVersion r.addition r.version then (hold 15, e.wantReload r.addition r.version 1)
        else if !e.roomCommitted r then (hold 16, e)
        else if !e.feasible slot r then (hold 17, e)
        else if !e.flag Fld.admCtlOpen then (hold 18, e)
        else (none, e)

/-! ### Outcomes (R87) -/

/-- Ends a SUBMIT without admission: acknowledged, its slot returned with its generation unchanged (R63). -/
def Engine.refuse (e : Engine) (slot status : Nat) : Engine :=
  match e.req? slot with
  | none => e
  | some r =>
    let e := e.releaseReservation slot
    let e : Engine := { e with rafter := Table.del e.rafter slot, slots := e.slots.give slot,
                               adm := { e.adm with held := e.adm.held.filter (fun h => h.slot != slot),
                                                   candidates := e.adm.candidates.filter (· != slot),
                                                   due := e.adm.due.filter (· != slot) },
                               pgm := { e.pgm with stage := Table.del e.pgm.stage slot } }
    let e := if status = Status.quota then e.bump Cnt.admRefQuota else if status = Status.noFit then e.bump Cnt.admRefNofit
      else if status = Status.additionMissing then e.bump Cnt.admRefAdd else e
    let e := (e.wake fun x => x.tenant == r.tenant).settleNamed r
    match e.staged? r.ackRing r.ackPos with
    | none => e
    | some d => e.ackWith d nullHandle.toNat status 0

/-- The list an admitted request starts with: prefix aliases, matches, the tail of a prefix, or an object's pages (R141). -/
def Engine.startList (e : Engine) (slot : Nat) (r : Rafter) : Engine :=
  let pages := match r.pfxValid, Table.get? e.var.prefixes r.pfx with | true, some x => x.pages | _, _ => []
  let e : Engine := (pages.take (r.pfxLen / 32)).foldl (fun e p => e.appendAlias slot p) e
  if r.srcKind then Engine.importPages (ceilDiv (r.seqEnd - 1) 32 - r.pfxLen / 32) slot r.family e
  else
    let e := (e.matchPrefix slot).checkAllSpilled
    match e.req? slot, pages[r.pfxLen / 32]? with
    | some r', some p => if r.pfxLen % 32 ≠ 0 && r'.pageCount = r.pfxLen / 32 then e.copyTail slot p r.family else e
    | _, _ => e

/-- Admits a request (R87, R105): its load is committed and its tenant charged. -/
def Engine.admitSlot (e : Engine) (slot : Nat) (r : Rafter) : Engine :=
  let e := (e.commitShare slot r).bindVariants r
  let t := (e.tenant r.tenant).charge r.promptTokens
  let e := e.putTenant r.tenant { t with live := t.live + 1, pheld := t.pheld + r.pagesP }
  let ring := e.evt r.eventRing
  let e := e.putEvt r.eventRing { ring with bound := ring.bound + 1 }
  let e := e.putReq slot { r with state := .queued, admitStep := e.stepNo, pagesCharged := r.pagesP }
  let e : Engine := { e with adm := { e.adm with held := e.adm.held.filter fun h => h.slot != slot } }
  let e := e.wake fun x => x.tenant == r.tenant
  let e := (((e.startList slot r).openStores slot r).pend slot).bump Cnt.admAdmitted
  let e := e.jevent 0x01 0 r.handle.toNat (((e.req? slot).map (·.matched)).getD 0)
  let e := match e.req? slot with | some x => e.mirrorEvent Mirror.rafter (leBytes 256 x.image) | none => e
  match e.staged? r.ackRing r.ackPos with
  | none => e
  | some d => e.ackWith d r.handle.toNat Status.ok 0

/-- Holds a request at a condition; held requests stand in order of arrival. -/
def Engine.hold (e : Engine) (slot condition : Nat) : Engine :=
  let h : Held := { slot := slot, condition := condition }
  let arrival : Nat → Nat := fun s => ((e.req? s).map (·.arrival)).getD 0
  let held := if e.adm.held.any (fun x => x.slot == slot) then e.adm.held.map fun x => if x.slot == slot then h else x
    else insertBy (fun (a b : Held) => decide (arrival a.slot < arrival b.slot)) h e.adm.held
  ({ e with adm := { e.adm with held := held } } : Engine).bump Cnt.admHeld

/-- One pass of a SUBMIT through stages 2 to 5. With the record's event section full, the decision waits (R262). -/
def Engine.decideSubmit (e : Engine) (slot : Nat) : Engine :=
  match e.req? slot with
  | none => e
  | some r =>
    if e.eventsFull then e.bump Cnt.fltEvtFull
    else
      let e := e.refill r.tenant
      let e : Engine := { e with adm := { e.adm with candidates := e.adm.candidates.filter (· != slot) } }
      match e.refusal r with
      | some v => e.refuse slot v.status
      | none => match e.holdTest slot r with
        | (some v, e) => e.hold slot v.condition
        | (none, e) => match e.req? slot with
          | none => e
          | some r => e.admitSlot slot r

/-- Stage 5 for a request that leaves RESTORING (R107): its load is admitted again, or it waits. ADM_CTL.OPEN = 0 (condition 18) does not
hold it: the rule names its load alone (log entry 51). -/
def Engine.decideResume (e : Engine) (slot : Nat) (r : Rafter) : Engine :=
  if e.roomCommitted r && e.feasible slot r then
    ((e.putReq slot { r with reAdmit := false }).commitShare slot r).pend slot
  else e

/-- The admission decision on the oldest candidate (R84). -/
def Engine.decideHead (e : Engine) (slot : Nat) : Engine :=
  if e.adm.candidates.head? = some slot then e.decideSubmit slot else e

def execAdmissionDecision (slot : BitVec 18) (s : State) : Host.Outcome State Fault Refusal :=
  s.actIn Isl.sb fun e => e.decideHead slot.toNat

/-- Has the bucket of a request held for it refilled to its charge (R88)? -/
def Engine.refilled (e : Engine) (h : Held) : Bool :=
  h.condition == 10 && match e.req? h.slot with
    | none => false
    | some r =>
      let t := (e.refill r.tenant).tenant r.tenant
      !t.metered || decide (((r.promptTokens * 1000000 : Nat) : Int) ≤ t.level)

/-- Slots due a retry, by class and then arrival (R88). -/
def Engine.retries (e : Engine) : List Nat :=
  let l := e.waitingSlots.filter fun s => e.adm.due.contains s || e.adm.held.any fun h => h.slot == s && e.refilled h
  let key : Nat → Nat × Nat := fun s => ((e.req? s).map fun r => (r.cls, r.arrival)).getD (0, 0)
  sortBy (fun (a b : Nat) => decide ((key a).1 < (key b).1 ∨ (key a).1 = (key b).1 ∧ (key a).2 < (key b).2)) l

/-- A waiting request is due no more until a resource changes again. -/
def Engine.notDue (e : Engine) (slot : Nat) : Engine := { e with adm := { e.adm with due := e.adm.due.filter (· != slot) } }

/-- The next request due a retry is tried again: a held one (R88), or a resumed one whose load waits (R107). -/
def Engine.retryHeld (e : Engine) (slot : Nat) : Engine :=
  if e.retries.head? ≠ some slot then e
  else if e.adm.held.any (fun h => h.slot == slot) then (if e.eventsFull then e else e.notDue slot).decideSubmit slot
  else match e.req? slot with
    | some r => if r.reAdmit && r.state == .queued then (e.notDue slot).decideResume slot r else e
    | none => e

def execAdmissionRetry (slot : BitVec 18) (s : State) : Host.Outcome State Fault Refusal :=
  s.actIn Isl.sb fun e => e.retryHeld slot.toNat

/-- ADM_HOLD_TO has passed since a held request's arrival (R89). -/
def Engine.holdExpired (e : Engine) (slot : Nat) : Engine :=
  match e.adm.held.find? (fun h => h.slot == slot), e.req? slot with
  | some h, some r =>
    if r.arrival + e.get Fld.admHoldToMs * 1000 ≤ e.us then
      (e.refuse slot (e.heldStatus (e.adm.held.length + 1) h)).bump Cnt.admHoldTo
    else e
  | _, _ => e

def execHoldLimitExpiry (slot : BitVec 18) (s : State) : Host.Outcome State Fault Refusal :=
  s.actIn Isl.sb fun e => e.holdExpired slot.toNat

/-- A held admission's TTFT or total deadline has passed (R89). -/
def Engine.expireHeld (e : Engine) (slot : Nat) : Engine :=
  match e.adm.held.find? (fun h => h.slot == slot), e.req? slot with
  | some _, some r =>
    if e.flag Fld.sbCtlDeadlineEn && (passed r.ttft e.us || passed r.total e.us) then
      (e.refuse slot Status.deadline).bump Cnt.admHoldDl
    else e
  | _, _ => e

/-- A TENANT_SET with ENABLE = 0 refuses the tenant's held requests (R89). -/
def Engine.refuseTenant (e : Engine) (t : Nat) : Engine :=
  (e.adm.held.filter fun h => ((e.req? h.slot).map (·.tenant)) == some t).foldl (fun e h => e.refuse h.slot Status.quota) e

/-! ### Correction (R100) -/

/-- Nearest integer to n / d, ties away from zero; d > 0. -/
def roundDiv (n : Int) (d : Nat) : Int := if 0 ≤ n then (2 * n + d) / (2 * d) else -((2 * -n + d) / (2 * d))

/-- κ after a measured course time. -/
def nextKappa (kappa : Int) (measured raw gain : Nat) : Int :=
  let err := roundDiv (1024 * ((measured : Int) - raw)) raw
  kappa + Int.tdiv (err - kappa) (2 ^ gain : Nat)

/-- The correction of a family that ran a course: clamped to ±256 and counted; 64 clamped steps in a row are recorded. -/
def Engine.correctFamily (e : Engine) (f measured raw : Nat) : Engine :=
  match Table.get? e.adm.predictors f with
  | none => e
  | some p =>
    if raw = 0 then e
    else
      let k := nextKappa p.kappa measured raw (e.get Fld.admGainG)
      let clamped := decide (256 < k) || decide (k < -256)
      let run := if clamped then p.clampRun + 1 else 0
      let p := { p with kappa := clampInt (-256) 256 k, clampRun := run }
      let e : Engine := { e with adm := { e.adm with predictors := Table.put e.adm.predictors f p } }
      let e := if clamped then e.bump Cnt.admPredClamp else e
      if run = 64 then e.log Ev.kappaClamped [f] else e

end Sys2Proof.Machine
end

