-- ==== Sys2Proof/Machine/Float.lean ====
section
/-!
DEFINITION. Machine/Float.lean: FP32 arithmetic on bit patterns, rounding to nearest with ties to even (R9), the logit formats
(R190), the exact accumulator's term (R200), logarithms (R203, R205), and the Gumbel procedure (R224 to R226).
-/

namespace Sys2Proof.Machine

/-! ### Values (R9) -/

/-- An FP32 value: (−1)^neg × m × 2^e when finite. -/
inductive F32 where
  | nan
  | inf (neg : Bool)
  | fin (neg : Bool) (m : Nat) (e : Int)
  deriving DecidableEq, Repr

/-- The canonical quiet NaN. -/
def canonNan : BitVec 32 := 0x7FC00000#32

/-- The bits of an infinity. -/
def infBits (neg : Bool) : BitVec 32 := if neg then 0xFF800000#32 else 0x7F800000#32

/-- The value of a bit pattern. -/
def f32 (x : BitVec 32) : F32 :=
  let neg := x.getLsbD 31
  let ex := bitsOf x.toNat 23 8
  let fr := bitsOf x.toNat 0 23
  if ex = 255 then (if fr = 0 then .inf neg else .nan)
  else if ex = 0 then .fin neg fr (-149)
  else .fin neg (fr + 2 ^ 23) ((ex : Int) - 150)

/-- n / 2^s to the nearest integer, ties to even. -/
def shiftRound (n s : Nat) : Nat :=
  let q := n >>> s
  let r := n % 2 ^ s
  if s = 0 then n
  else if 2 ^ (s - 1) < r || (r == 2 ^ (s - 1) && q % 2 == 1) then q + 1 else q

/-- The FP32 value nearest to (−1)^neg × m × 2^e. -/
def roundF32 (neg : Bool) (m : Nat) (e : Int) : BitVec 32 :=
  let sign := if neg then 2 ^ 31 else 0
  if m = 0 then BitVec.ofNat 32 sign
  else
    let quantum := max ((Nat.log2 m : Int) + e - 23) (-149)
    let k := if quantum ≤ e then m <<< (e - quantum).toNat else shiftRound m (quantum - e).toNat
    let b := (quantum + 149).toNat * 2 ^ 23 + k
    if 255 * 2 ^ 23 ≤ b then infBits neg else BitVec.ofNat 32 (sign + b)

/-- The bits of a value that needs no rounding, or its nearest. -/
def F32.bits : F32 → BitVec 32
  | .nan => canonNan
  | .inf neg => infBits neg
  | .fin neg m e => roundF32 neg m e

/-- Signed mantissa. -/
def signedNat (neg : Bool) (m : Nat) : Int := if neg then -(m : Int) else m

/-- x + y. -/
def addF (x y : BitVec 32) : BitVec 32 :=
  match f32 x, f32 y with
  | .nan, _ => canonNan
  | _, .nan => canonNan
  | .inf a, .inf b => if a = b then infBits a else canonNan
  | .inf a, _ => infBits a
  | _, .inf b => infBits b
  | .fin a m d, .fin b n e =>
    let low := min d e
    let s := signedNat a (m <<< (d - low).toNat) + signedNat b (n <<< (e - low).toNat)
    if s = 0 then roundF32 (a && b) 0 0 else roundF32 (decide (s < 0)) s.natAbs low

/-- −x: only the sign bit inverts (R226). -/
def negF (x : BitVec 32) : BitVec 32 := x ^^^ 0x80000000#32

/-- x − y. -/
def subF (x y : BitVec 32) : BitVec 32 := if f32 y = .nan then canonNan else addF x (negF y)

/-- x × y. -/
def mulF (x y : BitVec 32) : BitVec 32 :=
  match f32 x, f32 y with
  | .nan, _ => canonNan
  | _, .nan => canonNan
  | .inf a, .inf b => infBits (a != b)
  | .inf a, .fin b n _ => if n = 0 then canonNan else infBits (a != b)
  | .fin a m _, .inf b => if m = 0 then canonNan else infBits (a != b)
  | .fin a m d, .fin b n e => roundF32 (a != b) (m * n) (d + e)

/-- The FP32 value nearest to m × 2^d / (n × 2^e): 64 quotient bits and a sticky bit. -/
def divRound (neg : Bool) (m : Nat) (d : Int) (n : Nat) (e : Int) : BitVec 32 :=
  let q := (m <<< 64) / n
  let sticky := if (m <<< 64) % n = 0 then 0 else 1
  roundF32 neg (2 * q + sticky) (d - e - 65)

/-- x / y. -/
def divF (x y : BitVec 32) : BitVec 32 :=
  match f32 x, f32 y with
  | .nan, _ => canonNan
  | _, .nan => canonNan
  | .inf _, .inf _ => canonNan
  | .inf a, .fin b _ _ => infBits (a != b)
  | .fin a _ _, .inf b => roundF32 (a != b) 0 0
  | .fin a m d, .fin b n e =>
    if n = 0 then (if m = 0 then canonNan else infBits (a != b)) else divRound (a != b) m d n e

/-- Is it a NaN? -/
def isNan (x : BitVec 32) : Bool := f32 x == .nan

/-- A key that orders values that are not NaN; both zeros have key 0. -/
def keyF (x : BitVec 32) : Int := signedNat (x.getLsbD 31) (bitsOf x.toNat 0 31)

/-- x < y; false for a NaN. -/
def ltF (x y : BitVec 32) : Bool := !isNan x && !isNan y && decide (keyF x < keyF y)

/-- x ≥ y; false for a NaN. -/
def geF (x y : BitVec 32) : Bool := !isNan x && !isNan y && decide (keyF y ≤ keyF x)

/-- Numerical equality. -/
def eqF (x y : BitVec 32) : Bool := !isNan x && !isNan y && keyF x == keyF y

/-- A small integer, exactly. -/
def natF (n : Nat) : BitVec 32 := roundF32 false n 0

/-! ### The logit formats (R189, R190) -/

/-- A value of a format with w exponent bits and f fraction bits; with `ieee`, the top exponent holds infinities and NaNs. -/
def smallF (w f : Nat) (ieee : Bool) (x : Nat) : F32 :=
  let neg := x.testBit (w + f)
  let ex := bitsOf x f w
  let fr := bitsOf x 0 f
  let bias : Int := 2 ^ (w - 1) - 1
  if ieee && ex = 2 ^ w - 1 then (if fr = 0 then .inf neg else .nan)
  else if !ieee && ex = 2 ^ w - 1 && fr = 2 ^ f - 1 then .nan
  else if ex = 0 then .fin neg fr (1 - bias - f)
  else .fin neg (fr + 2 ^ f) ((ex : Int) - bias - f)

/-- An entry of a tile in FP32, times 2^scale (R190): 0 FP16, 1 BF16, 2 FP8 E4M3, 3 FP8 E5M2. -/
def logitF (fmt : Nat) (scale : Int) (x : BitVec 16) : BitVec 32 :=
  let v := match fmt with
    | 0 => smallF 5 10 true x.toNat
    | 1 => smallF 8 7 true x.toNat
    | 2 => smallF 4 3 false (x.toNat % 256)
    | _ => smallF 5 2 true (x.toNat % 256)
  match v with
  | .fin neg m e => roundF32 neg m (e + scale)
  | v => v.bits

/-! ### Logarithms and powers in fixed point -/

/-- Σ z^(2 j + 1) / (2 j + 1) from term j on, in units of 2^−p: `power` is z^(2 j + 1). -/
def atanhSum (p square : Nat) : Nat → Nat → Nat → Nat
  | 0, _, _ => 0
  | n + 1, j, power => power / (2 * j + 1) + atanhSum p square n (j + 1) ((power * square) >>> p)

/-- 2 atanh(z) in units of 2^−p, for z at most 1/3: p / 3 + 4 terms leave less than a unit. -/
def atanh2 (p z : Nat) : Nat := 2 * atanhSum p ((z * z) >>> p) (p / 3 + 4) 0 z

/-- ln 2 in units of 2^−p. -/
def ln2Fix (p : Nat) : Nat := atanh2 p (2 ^ p / 3)

/-- ln(n × 2^e) in units of 2^−p, n > 0. -/
def lnFix (p n : Nat) (e : Int) : Int :=
  let k := Nat.log2 n
  let m := (n <<< p) >>> k
  ((k : Int) + e) * ln2Fix p + atanh2 p (((m - 2 ^ p) <<< p) / (m + 2 ^ p))

/-- The FP32 value nearest to ln(n × 2^e): 400 bits hold the least sum's distance from 1. -/
def lnF (n : Nat) (e : Int) : BitVec 32 :=
  let v := lnFix 400 n e
  roundF32 (decide (v < 0)) v.natAbs (-400)

/-- Σ x^j / j! from term j on, in units of 2^−p. -/
def expSum (p x : Nat) : Nat → Nat → Nat → Nat
  | 0, _, _ => 0
  | n + 1, j, t => t + expSum p x n (j + 1) (((t * x) >>> p) / (j + 1))

/-- 2^(24 + f) to the nearest integer, for f = frac × 2^−160 below 1 (R200). -/
def exp2Int (frac : Nat) : Nat :=
  let x := (frac * ln2Fix 160) >>> 160
  (expSum 160 x 48 0 (2 ^ 160) + 2 ^ 135) >>> 136

/-! ### The accumulator's term (R200) -/

/-- t of R200: q × log2(e) in FP32. -/
def log2Of (q : BitVec 32) : BitVec 32 := mulF q 0x3FB8AA3B#32

/-- Does t set SAT: 256 or more, or +∞? -/
def saturates (t : BitVec 32) : Bool := geF t 0x43800000#32

/-- Term(q) in units of 2^−280, for a t that does not saturate. -/
def termOf (t : BitVec 32) : Nat :=
  match f32 t with
  | .fin neg m d =>
    if ltF t 0xC3800000#32 then 0
    else
      let fixed := signedNat neg (if d < -160 then m >>> (-160 - d).toNat else m <<< (d + 160).toNat)
      let e := fixed / (2 ^ 160 : Nat)
      exp2Int (fixed % (2 ^ 160 : Nat)).toNat * 2 ^ (e + 256).toNat
  | _ => 0

/-! ### Gumbel noise (R225, R226) -/

/-- Table value A[i]: nearest to ln(1 + c_i). -/
def gumbelA (i : Nat) : BitVec 32 :=
  let v := lnFix 128 (2048 + 2 * i + 1) (-11)
  roundF32 (decide (v < 0)) v.natAbs (-128)

/-- Table value B[i]: nearest to 1 / (1 + c_i). -/
def gumbelB (i : Nat) : BitVec 32 := divRound false 2048 0 (2048 + 2 * i + 1) 0

def oneF : BitVec 32 := 0x3F800000#32
def halfF : BitVec 32 := 0x3F000000#32
def quarterF : BitVec 32 := 0x3E800000#32
def thirdF : BitVec 32 := 0x3EAAAAAB#32
def ln2F : BitVec 32 := 0x3F317218#32

/-- ln_ref(e, f): f an FP32 value below 1, exactly num / 2^w. -/
def lnRef (e : Int) (num w : Nat) : BitVec 32 :=
  let i := (1024 * num) >>> w
  let f := roundF32 false num (-(w : Int))
  let c := roundF32 false (2 * i + 1) (-11)
  let r := mulF (subF f c) (gumbelB i)
  let p := mulF r (addF oneF (mulF r (addF (negF halfF) (mulF r (addF thirdF (mulF r (negF quarterF)))))))
  let t1 := mulF (roundF32 (decide (e < 0)) e.natAbs 0) ln2F
  addF t1 (addF (gumbelA i) p)

/-- v of R226: −ln u. -/
def gumbelV (w : BitVec 32) : BitVec 32 :=
  let m := bitsOf w.toNat 8 24
  if 0xFC0000 ≤ m then
    let s := roundF32 false (2 ^ 25 - 2 * m - 1) (-25)
    mulF s (addF oneF (mulF s (addF halfF (mulF s (addF thirdF (mulF s quarterF))))))
  else
    let n := 2 * m + 1
    let b := Nat.log2 n
    negF (lnRef ((b : Int) - 25) (n - 2 ^ b) b)

/-- gumbel(w): v is normal. -/
def gumbel (w : BitVec 32) : BitVec 32 :=
  let v := gumbelV w
  negF (lnRef ((bitsOf v.toNat 23 8 : Nat) - 127 : Int) (bitsOf v.toNat 0 23) 23)

end Sys2Proof.Machine
end

