-- ==== Sys2Proof/Machine/Lifecycle.lean ====
section
/-!
DEFINITION. Machine/Lifecycle.lean: what host actions and timers do to a request in each state (R74 to R81, Tables 3.3,
3.4 and 3.6).
-/

namespace Sys2Proof.Machine

/-! ### Timers (R72, R75 to R77, R89) -/

/-- The 1 µs tick: every passed deadline of every slot's active set. -/
def Engine.deadlineScan (e : Engine) : Engine :=
  let slots := Table.keys e.rafter
  slots.foldl (fun e s => ((e.expireDeadline s).expirePark s).expireHeld s) (e.coincide slots)

def execDeadlineTick (s : State) : Host.Outcome State Fault Refusal := s.actIn Isl.sb Engine.deadlineScan

def execDeadlinePass (slot : BitVec 18) (s : State) : Host.Outcome State Fault Refusal :=
  s.actIn Isl.sb fun e => ((e.coincide [slot.toNat]).expireDeadline slot.toNat).expireHeld slot.toNat

def execParkExpiryPass (slot : BitVec 18) (s : State) : Host.Outcome State Fault Refusal :=
  s.actIn Isl.sb fun e => (e.coincide [slot.toNat]).expirePark slot.toNat

/-- A restore that failed by a page of the list (R150). -/
def Engine.restoreLost (e : Engine) (slot : Nat) : Engine :=
  (e.endRequest slot Status.tierFailed Reason.error).log Ev.restoreFailed [(e.handleOf slot).toNat]

/-- SB_RESTORE_TO over a request in RESTORING. -/
def Engine.restoreExpired (e : Engine) (slot : Nat) : Engine :=
  match e.req? slot with
  | none => e
  | some r =>
    if r.state == .restoring && r.restoreAt + e.get Fld.sbRestoreToMs * 1000000 ≤ e.now then
      (e.requestError Det.sbRestore slot Status.tierFailed r.handle.toNat).log Ev.restoreFailed [r.handle.toNat]
    else e

def execRestoreTimeout (slot : BitVec 18) (s : State) : Host.Outcome State Fault Refusal :=
  s.actIn Isl.sb fun e => e.restoreExpired slot.toNat

/-- Every page of the list in T0 or T1 and the addition resident: the request is QUEUED, and its load is admitted again
before it joins its pending list (R107). -/
def Engine.restoreDone (e : Engine) (slot : Nat) : Engine :=
  match e.req? slot with
  | none => e
  | some r =>
    let addition := !r.addValid || e.residentVersion r.addition r.version
    if r.state == .restoring && e.listUp slot && addition then
      if e.eventsFull then e.holdEvent slot
      else
      let r := { r with state := .queued, reAdmit := true }
      ((e.putReq slot r).jevent 0x0D 0 r.handle.toNat 0).decideResume slot r
    else e

def execRestoreConfirmed (slot : BitVec 18) (s : State) : Host.Outcome State Fault Refusal :=
  s.cross Isl.sb (.restoreConfirmed slot) fun e => e.restoreDone slot.toNat

/-! ### PAUSE, RESUME, RELEASE (Table 3.4) -/

/-- A PAUSE of a running request: it leaves the ready list and the draft; SB holds the TTL, in seconds, in PARK_EXPIRY
until it parks (R76; log entry 18). -/
def Engine.pauseRunning (e : Engine) (slot : Nat) (r : Rafter) (ttl : Nat) : Engine :=
  let e := (e.putReq slot { r with pausePending := true, parkExpiry := ttl }).dropDraft slot
  { e with ready0 := e.ready0.filter (· != slot), ready1 := e.ready1.filter (· != slot), ready2 := e.ready2.filter (· != slot) }

/-- The end of parked time for a TTL from now. -/
def Engine.parkUntil (e : Engine) (ttl : Nat) : Nat := us48 (e.us + ttl * 1000000)

/-- A request parks (Table 3.3): its deadlines clear, its share goes, its pages are evicted and its PAUSEs acknowledged. -/
def Engine.park (e : Engine) (slot : Nat) (r : Rafter) : Engine :=
  let r := { r with state := .parked, pausePending := false, ttft := 0, nextDl := 0, total := 0,
                    parkExpiry := e.parkUntil r.parkExpiry, parkedAt := e.now, reAdmit := false }
  let e := (((e.putReq slot r).unlink slot).dropShare slot).jevent 0x0B 0 r.handle.toNat 0
  (e.evictList slot).ackWaiting r.handle 4 Status.ok

/-- RESUME of a parked request: fresh deadlines, and its pages and addition are called up (R76, R150, R180). -/
def Engine.resumeParked (e : Engine) (slot : Nat) (r : Rafter) (arrival ttft itl : Nat) : Engine :=
  let r := { r with state := .restoring, firstEmitted := false, parkExpiry := 0, nextDl := 0, total := 0,
                    ttft := if ttft = 0 then 0 else us48 (arrival + ttft), itlUs := itl * 4, restoreAt := e.now }
  let e := (e.putReq slot r).jevent 0x07 0 r.handle.toNat 0
  if (e.primaries slot).any fun p => (e.page p).state == .failed then e.restoreLost slot
  else
    let e := (e.raiseList .restore slot).checkAllSpilled
    if r.addValid then e.wantReload r.addition r.version 0 else e

/-- RESUME of a request with a pause pending: the pause is withdrawn, and a request that stood in its ready list rejoins it. -/
def Engine.withdrawPause (e : Engine) (slot : Nat) (r : Rafter) : Engine :=
  let e := (e.putReq slot { r with pausePending := false, parkExpiry := 0 }).jevent 0x07 0 r.handle.toNat 0
  let e := if r.reAdmit || (e.spliceList r.cls).contains slot then e else e.link slot
  e.ackWaiting r.handle 4 Status.cancelled

/-- RELEASE of a live request, or of one that is cancelling. -/
def Engine.releaseRequest (e : Engine) (slot : Nat) (r : Rafter) : Engine :=
  let e := e.jevent 0x08 0 r.handle.toNat 0
  if r.state == .cancelling then e.putReq slot { r with returnState := .retiring }
  else e.endRequest slot Status.ok Reason.none

/-! ### APPEND (Table 3.4, R93, R95, R107) -/

/-- The request as an APPEND of n tokens leaves it. -/
def Rafter.appended (r : Rafter) (n : Nat) : Rafter := { r with seqEnd := r.seqEnd + n, inputEnd := r.seqEnd + n }

/-- ADM recomputes P_i and K_i of a committed share (R102). -/
def Engine.reshare (e : Engine) (slot : Nat) (r : Rafter) : Engine :=
  ({ e with adm := { e.adm with shares := Table.modify e.adm.shares slot fun x => { x with p := r.chunk, k := ceilDiv r.endPos 32 } } } :
    Engine).updateOvercommit

/-- The tests of an APPEND after its list: bucket, quota, reservation, feasibility. The engine is the one that has taken the
reservation. -/
def Engine.appendTest (e : Engine) (slot : Nat) (r r' : Rafter) (n : Nat) : Nat × Engine :=
  let e := e.refill r.tenant
  let t := e.tenant r.tenant
  let more := r'.pagesP - r.pagesP
  let entries := ceilDiv r'.endPos 32 - ceilDiv r.endPos 32
  if t.metered && decide (t.level - ((n * 1000000 : Nat) : Int) < t.floor) then (Status.quota, e)
  else if t.pquota ≠ 0 && t.pquota < t.pheld + more then (Status.quota, e)
  else match e.reservePages (e.family r.family).cls entries more with
    | none => (Status.noFit, e)
    | some e' =>
      if r.state == .queued && !e.feasible slot r' then (Status.noFit, e)
      else (Status.ok, e')

/-- The effect of an APPEND that passes. -/
def Engine.appendTake (e : Engine) (slot : Nat) (r r' : Rafter) (tokens : List Nat) : Engine :=
  let more := r'.pagesP - r.pagesP
  let entries := ceilDiv r'.endPos 32 - ceilDiv r.endPos 32
  let t := (e.tenant r.tenant).charge tokens.length
  let e := e.putTenant r.tenant { t with pheld := t.pheld + more }
  let later := (tokens.zipIdx).foldl (fun t x => Table.put t (r.seqEnd + x.2) x.1) r.later
  let r' := { r' with later := later, pagesCharged := r.pagesCharged + more, reserved := r.reserved + more, entriesRes := r.entriesRes + entries }
  let e := ((e.putReq slot r').reshare slot r').jevent 0x05 0 r.handle.toNat tokens.length
  (e.emptyGuesses false slot).countPromptOf slot r' tokens

/-- An APPEND of a checked list: its status and the engine. -/
def Engine.appendRequest (e : Engine) (slot : Nat) (r : Rafter) (tokens : List Nat) : Nat × Engine :=
  if r.maxContext ≤ r.seqEnd + tokens.length then (Status.malformed, e)
  else
    let r' := r.appended tokens.length
    let (st, e) := e.appendTest slot r r' tokens.length
    if st = Status.ok then (st, e.appendTake slot r r' tokens) else (st, e)

/-! ### The stop vector's registers (R57 to R59) -/

/-- A write of STOP_SET: the bit of a handle that names a live request. -/
def Engine.stopWrite (e : Engine) (h : Handle) (set : Bool) : Engine :=
  match if e.follows then none else e.lookup h with
  | none => e.bump Cnt.hruStopStale
  | some r =>
    let e := (if set then e.countStopHold else e).hostActs (slotOf h)
    let e := e.jevent (if set then 0x03 else 0x04) 0 r.handle.toNat 0
    if set then e.applyStop (slotOf h) else e.clearStop (slotOf h)

def execStopSet (handle : BitVec 32) (s : State) : Host.Outcome State Fault Refusal :=
  s.cross Isl.sb (.stopSet handle) fun e => e.stopWrite handle true

def execStopClear (handle : BitVec 32) (s : State) : Host.Outcome State Fault Refusal :=
  s.cross Isl.sb (.stopClear handle) fun e => e.stopWrite handle false

end Sys2Proof.Machine
end

