-- ==== Sys2Proof/Machine/Rings.lean ====
section
/-!
DEFINITION. Machine/Rings.lean: ring context entries, doorbells, descriptor fetch and the host-port watchdogs (R32 to R36,
R42 to R47, R61).
-/

namespace Sys2Proof.Machine

/-! ### Checks of 64 B structures -/

/-- Are all bits outside the fields (byte, bit, width) zero (R8)? -/
def onlyFields (x : Nat) (fields : List (Nat × Nat × Nat)) : Bool :=
  let mask := fields.foldl (fun m f => m ||| place (2 ^ f.2.2 - 1) (8 * f.1 + f.2.1) f.2.2) 0
  (x ||| mask) == mask

/-- 57-bit canonical, where HRU_CTL.CANON57 asks for it (check 4 of Table 2.7). -/
def Engine.canonical (e : Engine) (address : Nat) : Bool :=
  !e.flag Fld.hruCtlCanon57 || address / 2 ^ 56 == 0 || address / 2 ^ 56 == 0xFF

/-! ### Ring context entries (R33 to R35) -/

/-- Table index of a ring, as HRU_RING_STAT.RING codes it. -/
def ringCode (event : Bool) (i : Nat) : Nat := 4096 * bit event + i

/-- N_s or N_e. -/
def Engine.ringCount (e : Engine) (event : Bool) : Nat := if event then e.get Fld.hruRctSizeNe else e.get Fld.hruRctSizeNs

/-- Address of a ring's context entry (R32). -/
def Engine.contextAddr (e : Engine) (event : Bool) (i : Nat) : Nat :=
  e.get Fld.hruRctBaseHiAddr * 2 ^ 32 + e.get Fld.hruRctBaseLoAddr * 4096 +
    64 * (i + if event then e.get Fld.hruRctSizeNs else 0)

/-- Fields of Table 2.1. -/
def subContextFields : List (Nat × Nat × Nat) :=
  [(0, 0, 64), (8, 0, 8), (9, 0, 3), (10, 0, 16), (12, 0, 16), (16, 0, 64), (24, 0, 64), (32, 0, 64), (40, 0, 16), (42, 0, 8),
   (43, 0, 7), (44, 0, 16), (46, 0, 8), (47, 0, 2)]

/-- Fields of Table 2.2. -/
def evtContextFields : List (Nat × Nat × Nat) :=
  [(0, 0, 64), (8, 0, 5), (8, 7, 1), (9, 0, 3), (10, 0, 6), (12, 0, 32), (16, 0, 64), (24, 0, 64), (32, 0, 16)]

/-- Address fields of an entry with their alignments. -/
def contextAddresses (event : Bool) (x : BitVec 512) : List (Nat × Nat) :=
  [(f512 x 0 0 64, 4096), (f512 x 16 0 64, 4), (f512 x 24 0 64, 64)] ++ (if event then [] else [(f512 x 32 0 64, 128)])

/-- Checks 3 to 9 of R35 on an entry that was read: the reason code of Table 2.3. -/
def Engine.contextReason (e : Engine) (event : Bool) (i : Nat) (x : BitVec 512) : Nat :=
  let v2 := f512 x 8 5 1 == 1
  let coherent := f512 x 9 1 1 == 1
  let log2 := f512 x 8 0 5
  let params := f512 x 40 0 16
  let addrs := contextAddresses event x
  if f512 x 9 0 1 ≠ bit event then 0xB
  else if !onlyFields x.toNat (if event then evtContextFields else subContextFields) || f512 x 8 7 1 = 0 ||
      (!coherent && f512 x 24 0 64 ≠ 0) || (!event && v2 && f512 x 42 0 48 ≠ 0) then 0x1
  else if log2 < 6 || 16 < log2 || (!event && ((if v2 then params == 0 else params != 1) || f512 x 10 12 4 == 0)) then 0x2
  else if addrs.any (fun a => a.1 % a.2 != 0) then 0x3
  else if addrs.any (fun a => !e.canonical a.1) then 0x4
  else if !event && i = 0 && (f512 x 8 6 1 = 0 || !v2) then 0xA
  else if coherent && !((e.glb.host.map (·.cache)).getD false) then 0x5
  else 0x0

/-- A ring command's result (Table 2.3); a failed one is recorded in the eaves log. -/
def Engine.ringResult (e : Engine) (event : Bool) (i reason : Nat) (enabled : Bool) : Engine :=
  let e : Engine := { e with hru := { e.hru with statReason := reason, statEnabled := enabled, statRing := ringCode event i } }
  if reason = 0 then e else e.log Ev.ringContext [ringCode event i, reason]

/-- Is the ring enabled? -/
def Engine.ringOn (e : Engine) (event : Bool) (i : Nat) : Bool := if event then (e.evt i).enabled else (e.sub i).enabled

/-- A command of the ring is in progress (HRU_RING_STAT.BUSY). -/
def Engine.ringBusy (e : Engine) (event : Bool) (i : Nat) : Bool :=
  e.hru.ctxReads.contains (event, i) || (!event && (e.sub i).closing)

/-- HRU_RING_CMD with OP enable. A ring that is enabled already stays as it is, and a command of a ring whose last one is still in
progress has no effect (log entry 19). While the context is read, HRU_RING_STAT shows the ring, not enabled, with no reason yet (R60). -/
def Engine.ringEnable (e : Engine) (event : Bool) (i : Nat) : Engine :=
  if e.ringCount event ≤ i then e.ringResult event i 0x6 false
  else if e.ringOn event i then e.ringResult event i 0x0 true
  else if e.ringBusy event i then e
  else
    let e : Engine := { e with hru := { e.hru with ctxReads := e.hru.ctxReads ++ [(event, i)] } }
    let e := e.ringResult event i 0x0 false
    e.emit (.hostRead (BitVec.ofNat 64 (e.contextAddr event i)) 64)

def execRingEnable (event : Bool) (index : BitVec 12) (s : State) : Host.Outcome State Fault Refusal :=
  s.cross Isl.hi (.ringEnable event index) fun e => e.ringEnable event index.toNat

/-- The host reads of a ring's scan: from the tail of the replay point's record up to the entry whose phase differs (R277, step 3). -/
def Engine.scanReads (e : Engine) (r : EvtRing) (from_ tail : Nat) : Engine :=
  let n := (tail % r.size + r.size - from_ % r.size) % r.size
  (List.range (n + 1)).foldl (fun e j =>
    e.emit (.hostRead (BitVec.ofNat 64 (f512 r.ctx 0 0 64 + 32 * ((from_ + j) % r.size))) 32)) e

/-- An event ring after a takeover: where the host scan left it. How far the host has read is open (R277; log entry 2). -/
def Engine.ringResume (e : Engine) (i : Nat) (x : BitVec 512) (tail : Nat) (phase : Bool) : Engine :=
  let (v, e) := e.free
  let r := { e.evt i with enabled := true, ctx := x, stalled := false, unsignaled := 0, firstUnsig := none }
  let e := e.scanReads r (Table.getD e.flt.takeFrom i 0) tail
  let e : Engine := { e with flt := { e.flt with takeTails := Table.del e.flt.takeTails i, takeFrom := Table.del e.flt.takeFrom i } }
  e.putEvt i { r with tail := tail % r.size, hostHead := v.toNat % r.size, phase := phase }

/-- The ring as a good entry starts it: head and tail 0, or tail and host head 0 and phase 1; after a takeover, where its
manager had come to (R277). -/
def Engine.ringStart (e : Engine) (event : Bool) (i : Nat) (x : BitVec 512) : Engine :=
  if event then
    match Table.get? e.flt.takeTails i with
    | some (tail, phase) => e.ringResume i x tail phase
    | none =>
      let r := e.evt i
      e.putEvt i { EvtRing.off with enabled := true, ctx := x, bound := r.bound, ackRes := r.ackRes, tokRes := r.tokRes }
  else
    let r := e.sub i
    let head := Table.getD e.flt.takeHeads i 0 % 2 ^ f512 x 8 0 5
    let e : Engine := { e with flt := { e.flt with takeHeads := Table.del e.flt.takeHeads i } }
    e.putSub i { SubRing.off with enabled := true, ctx := x, consumed := r.consumed, unacked := r.unacked, head := head, tail := head, fetched := head, headWb := head }

/-- Has the ring a coherent doorbell (DB_KIND = 1)? -/
def Engine.watched (e : Engine) (event : Bool) (i : Nat) : Bool :=
  e.ringOn event i && (if event then (e.evt i).coherent else (e.sub i).coherent)

/-- Address of a ring's watch line, in bytes 24 to 31 of its entry (Tables 2.1 and 2.2). -/
def Engine.watchAddr (e : Engine) (event : Bool) (i : Nat) : BitVec 64 :=
  BitVec.ofNat 64 (f512 (if event then (e.evt i).ctx else (e.sub i).ctx) 24 0 64)

/-- The read of a ring's watch line is over. -/
def Engine.endWatch (e : Engine) (event : Bool) (i : Nat) : Engine :=
  { e with hru := { e.hru with watches := e.hru.watches.filter fun c => !(c.1 == event && c.2 == i) } }

/-- The HRU reads a ring's watch line, to hold it (R46); one read of a line is out at a time. -/
def Engine.readWatch (e : Engine) (event : Bool) (i : Nat) : Engine :=
  if e.hru.watches.contains (event, i) then e
  else ({ e with hru := { e.hru with watches := e.hru.watches ++ [(event, i)] } } : Engine).emit (.hostRead (e.watchAddr event i) 64)

/-- A ring with a coherent doorbell starts with a read of its line (R46, log entry 32); after a takeover that tells its tail (R277). -/
def Engine.holdWatch (e : Engine) (event : Bool) (i : Nat) : Engine :=
  if e.watched event i then (e.endWatch event i).readWatch event i else e

/-- The context read of a ring is over. -/
def Engine.endContextRead (e : Engine) (event : Bool) (i : Nat) : Engine :=
  { e with hru := { e.hru with ctxReads := e.hru.ctxReads.filter fun c => !(c.1 == event && c.2 == i) } }

/-- A context entry returns: checked, then cached (R35). -/
def Engine.contextDone (e : Engine) (event : Bool) (i : Nat) (ok : Bool) (x : BitVec 512) : Engine :=
  if e.hru.ctxReads.contains (event, i) then
    let e := e.endContextRead event i
    let reason := if ok then e.contextReason event i x else 0x7
    if reason = 0 then ((e.ringStart event i x).ringResult event i 0 true).holdWatch event i else e.ringResult event i reason false
  else e

def execRingContextReadDone (event : Bool) (index : BitVec 12) (ok : Bool) (entry : BitVec 512) (s : State) :
    Host.Outcome State Fault Refusal :=
  s.cross Isl.hi (.ringContextReadDone event index ok entry) fun e => e.contextDone event index.toNat ok entry

/-- A context read passes HRU_RD_TO (Table 2.14). -/
def Engine.contextTimeout (e : Engine) (event : Bool) (i : Nat) : Engine :=
  if e.hru.ctxReads.contains (event, i) then
    ((e.endContextRead event i).ringResult event i 0x7 false).corrected Det.hruWatchdog (ringCode event i)
  else e

def execRingContextReadTimeout (event : Bool) (index : BitVec 12) (s : State) : Host.Outcome State Fault Refusal :=
  s.actIn Isl.hi fun e => e.contextTimeout event index.toNat

/-- A submission ring stops: no further read, and the doorbell value is discarded (R35, Table 2.15). The descriptors whose reads are
issued keep their arrival times (R42). -/
def Engine.stopSub (e : Engine) (i : Nat) : Engine :=
  let r := e.sub i
  let issued := Table.keep r.arrivals fun s _ => decide ((s + r.size - r.head) % r.size < (r.fetched + r.size - r.head) % r.size)
  (e.putSub i { r with enabled := false, closing := true, tail := r.fetched, arrivals := issued }).finishClose i

/-- HRU_RING_CMD with OP disable. -/
def Engine.ringDisable (e : Engine) (event : Bool) (i : Nat) : Engine :=
  if e.ringCount event ≤ i then e.ringResult event i 0x6 false
  else if event then
    if (e.evt i).enabled && (e.evt i).bound ≠ 0 then e.ringResult true i 0x8 true
    else ((e.endContextRead true i).putEvt i { e.evt i with enabled := false }).ringResult true i 0x0 false
  else if (e.sub i).enabled then ((e.endContextRead false i).stopSub i).ringResult false i 0x0 false
  else (e.endContextRead false i).ringResult false i 0x0 false

def execRingDisable (event : Bool) (index : BitVec 12) (s : State) : Host.Outcome State Fault Refusal :=
  s.cross Isl.hi (.ringDisable event index) fun e => e.ringDisable event index.toNat

/-! ### Doorbells (R42 to R46) -/

/-- Does a doorbell's index pass R44? -/
def Engine.doorbellOk (e : Engine) (event coherent : Bool) (i value : Nat) : Bool :=
  let size := if event then (e.evt i).size else (e.sub i).size
  let kind := if event then (e.evt i).coherent else (e.sub i).coherent
  decide (value / 65536 = 0) && e.ringOn event i && e.flag Fld.hruCtlEnable && kind == coherent && decide (value < size) &&
    (!event || decide ((value + size - (e.evt i).hostHead) % size ≤ (e.evt i).unread))

/-- Stamps the arrival of slots first … first + n − 1 modulo the ring's size. -/
def stampSlots (t : Table Nat) (size us : Nat) : Nat → Nat → Table Nat
  | 0, _ => t
  | n + 1, first => stampSlots (Table.put t first us) size us n ((first + 1) % size)

/-- A doorbell value: where the tail, or the consumed head, now is (R43). -/
def Engine.doorbell (e : Engine) (event coherent : Bool) (i value : Nat) : Engine :=
  if !e.doorbellOk event coherent i value then (e.bump Cnt.hruDbInvalid).log Ev.doorbellInvalid [ringCode event i, value]
  else if event then
    let r := e.evt i
    e.putEvt i { r with hostHead := value, stalled := r.stalled && value == r.hostHead }
  else
    let r := e.sub i
    let n := (value + r.size - r.tail) % r.size
    e.putSub i { r with tail := value, arrivals := stampSlots r.arrivals r.size e.us n r.tail }

def execSqTail (ring : BitVec 12) (value : BitVec 32) (s : State) : Host.Outcome State Fault Refusal :=
  s.cross Isl.hi (.sqTail ring value) fun e => e.doorbell false false ring.toNat value.toNat

def execEqHead (ring : BitVec 12) (value : BitVec 32) (s : State) : Host.Outcome State Fault Refusal :=
  s.cross Isl.hi (.eqHead ring value) fun e => e.doorbell true false ring.toNat value.toNat

/-- A host write takes the watch line of a ring from the HRU, which reads it again and takes the index as a doorbell (R46). Where the
read does not return, it stays out until its watchdog. -/
def Engine.snoop (e : Engine) (event : Bool) (i : Nat) (value : Option (BitVec 32)) : Engine :=
  if e.watched event i then
    let e := e.readWatch event i
    match value with
    | some v => (e.endWatch event i).doorbell event true i v.toNat
    | none => e
  else e

def execWatchLineSnoop (event : Bool) (ring : BitVec 12) (value : Option (BitVec 32)) (s : State) : Host.Outcome State Fault Refusal :=
  s.cross Isl.hi (.watchLineSnoop event ring value) fun e => e.snoop event ring.toNat value

/-! ### Fetch (R47) -/

/-- Staging slots. -/
def stagingSlots : Nat := 16384

/-- Does a descriptor still hold its credit and staging slot? A SUBMIT until its admission decision, any other until it is decoded. -/
def Staged.credit (d : Staged) : Bool :=
  match d.phase with
  | .fresh | .admitting _ => true
  | .waiting | .fenced _ | .held _ => false

/-- Credits of ring 0's reserve in use. -/
def Engine.reserveUsed (e : Engine) : Nat :=
  (e.hru.staging.filter fun d => d.credit && d.reserve).length + sumBy (e.sub 0).flights fun x => x.2.2

/-- Credits a ring holds outside the reserve. -/
def Engine.sharedOf (e : Engine) (i : Nat) : Nat :=
  (e.hru.staging.filter fun d => d.credit && d.ring == i && !d.reserve).length + sumBy (e.sub i).flights fun x => x.2.1 - x.2.2

/-- Credits held outside the reserve by every ring. -/
def Engine.sharedUsed (e : Engine) : Nat :=
  (e.hru.staging.filter fun d => d.credit && !d.reserve).length +
    sumBy (Table.vals e.hru.subs) fun r => sumBy r.flights fun x => x.2.1 - x.2.2

/-- Credits ring 0 may take from its reserve. -/
def Engine.reserveFree (e : Engine) (i : Nat) : Nat := if i = 0 then e.get Fld.hruMgmtCreditsN - e.reserveUsed else 0

/-- Credits a ring may take in the sharing. -/
def Engine.sharedFree (e : Engine) (i : Nat) : Nat :=
  min (stagingSlots - e.get Fld.hruMgmtCreditsN - e.sharedUsed) (e.get Fld.hruRingCreditMaxN - e.sharedOf i)

/-- Credits a fetch of a ring may take: ring 0 fetches into its reserve first, and shares only while that is fully in use. -/
def Engine.creditsFor (e : Engine) (i : Nat) : Nat := if e.reserveFree i = 0 then e.sharedFree i else e.reserveFree i

/-- Descriptors that a fetch of a ring would read now: 512 B of consecutive slots, with a credit and an acknowledgement
entry for each. -/
def Engine.fetchable (e : Engine) (i : Nat) : Nat :=
  let r := e.sub i
  if e.flag Fld.hruCtlEnable && r.enabled && (e.evt r.ackRing).enabled then
    min (min (512 / r.slotBytes) (min ((r.tail + r.size - r.fetched) % r.size) (r.size - r.fetched)))
      (min (e.ringFree r.ackRing) (e.creditsFor i))
  else 0

/-- The ring whose turn it is in the weighted round robin: the one in turn while its turn lasts, else the next that can
fetch, in cyclic order (log entry 20). -/
def Engine.fetchTurn (e : Engine) : Option Nat :=
  let able := (Table.keys e.hru.subs).filter fun i => e.fetchable i != 0
  if e.hru.fetchLeft ≠ 0 && able.contains e.hru.fetchCursor then some e.hru.fetchCursor
  else match able.find? fun i => decide (e.hru.fetchCursor < i) with
    | some i => some i
    | none => able.head?

/-- FETCH_WEIGHT of a ring. -/
def SubRing.weight (r : SubRing) : Nat := f512 r.ctx 10 12 4

/-- The turn moves on by one fetch of a ring. -/
def Engine.takeTurn (e : Engine) (i : Nat) : Engine :=
  let left := if e.hru.fetchLeft ≠ 0 && e.hru.fetchCursor = i then e.hru.fetchLeft - 1 else (e.sub i).weight - 1
  { e with hru := { e.hru with fetchCursor := i, fetchLeft := left } }

/-- Issues a fetch of a ring; ring 0 with room in its reserve takes no part in the sharing. -/
def Engine.fetch (e : Engine) (i : Nat) : Engine :=
  let n := e.fetchable i
  let own := e.reserveFree i
  if n = 0 || (own = 0 && e.fetchTurn ≠ some i) then e
  else
    let r := e.sub i
    let ack := e.evt r.ackRing
    let address := BitVec.ofNat 64 (r.base + r.slotBytes * r.fetched)
    let e := if own = 0 then e.takeTurn i else e
    let e := e.putEvt r.ackRing { ack with ackRes := ack.ackRes + n }
    let e := e.putSub i { r with fetched := (r.fetched + n) % r.size, flights := r.flights ++ [(r.fetched, n, min own n)] }
    e.emit (.hostRead address (r.slotBytes * n))

def execDescriptorFetch (ring : BitVec 12) (s : State) : Host.Outcome State Fault Refusal :=
  s.actIn Isl.hi fun e => e.fetch ring.toNat

/-- A fetch fails whole (R47): every fetch in flight is discarded, since the head cannot pass the first; its reserves
return; the ring is disabled with FETCH_ERROR. -/
def Engine.fetchFailed (e : Engine) (i : Nat) : Engine :=
  let r := e.sub i
  let ack := e.evt r.ackRing
  let n := sumBy r.flights fun x => x.2.1
  let e := e.putEvt r.ackRing { ack with ackRes := ack.ackRes - n }
  let e := (e.putSub i { r with enabled := false, closing := true, flights := [], fetched := r.head, tail := r.head,
                                arrivals := [] }).finishClose i
  (e.ringResult false i 0x9 false).log Ev.fetchError [i, r.head]

/-- HEAD_WB, each 8 slots and when the ring drains (R54). A fetch return that passes several marks of 8 slots writes it once, with the
head it ends at (log entry 51). -/
def Engine.headWriteBack (e : Engine) (i : Nat) : Engine :=
  let r := e.sub i
  if (8 ≤ (r.head + r.size - r.headWb) % r.size || r.head = r.tail) && r.head ≠ r.headWb then
    let e := e.putSub i { r with headWb := r.head }
    if r.headWbAddr = 0 then e else e.emit (.hostWrite (BitVec.ofNat 64 r.headWbAddr) 4 (BitVec.ofNat 2560 r.head))
  else e

/-- Puts the descriptors of a fetch into staging; the first `own` hold credits of the reserve. -/
def Engine.stageAll (e : Engine) (i own : Nat) : List (BitVec 512) → Engine
  | [] => e
  | x :: xs =>
    let r := e.sub i
    let d : Staged := { ring := i, slot := r.head, pos := r.consumed, desc := x, arrival := Table.getD r.arrivals r.head e.us, phase := .fresh,
                        reads := .none, reserve := decide (0 < own), turn := 0 }
    let e := e.putSub i { r with head := (r.head + 1) % r.size, consumed := r.consumed + 1, unacked := r.unacked ++ [r.consumed],
                                 arrivals := Table.del r.arrivals r.head }
    Engine.stageAll ({ e with hru := { e.hru with staging := e.hru.staging ++ [d] } } : Engine) i (own - 1) xs

/-! ### Host-port watchdogs and credit (Table 2.14) -/

/-- The re-read of a watch line passes HRU_RD_TO: the ring is disabled with FETCH_ERROR. -/
def Engine.watchTimeout (e : Engine) (event : Bool) (i : Nat) : Engine :=
  if e.hru.watches.contains (event, i) then
    let e := e.endWatch event i
    if !e.watched event i then e
    else
      let e := if event then e.putEvt i { e.evt i with enabled := false } else e.stopSub i
      (e.ringResult event i 0x9 false).corrected Det.hruWatchdog (ringCode event i)
  else e

def execWatchLineReadTimeout (event : Bool) (ring : BitVec 12) (s : State) : Host.Outcome State Fault Refusal :=
  s.actIn Isl.hi fun e => e.watchTimeout event ring.toNat

/-- A descriptor read passes HRU_RD_TO. -/
def execDescriptorReadTimeout (ring : BitVec 12) (s : State) : Host.Outcome State Fault Refusal :=
  s.actIn Isl.hi fun e =>
    if (e.sub ring.toNat).flights.isEmpty then e else (e.fetchFailed ring.toNat).corrected Det.hruWatchdog ring.toNat

/-- Write credit returns: the staged records are written in order (R61). -/
def Engine.creditReturn (e : Engine) : Engine :=
  let l := e.hru.unwritten
  l.foldl Engine.passRecord { e with hru := { e.hru with credit := true, unwritten := [] } }

def execHostWriteCreditReturn (s : State) : Host.Outcome State Fault Refusal := s.cross Isl.hi .hostWriteCreditReturn Engine.creditReturn

/-- Write credit has been absent for HRU_WR_TO: records stay staged. -/
def Engine.creditTimeout (e : Engine) : Engine :=
  (({ e with hru := { e.hru with credit := false } } : Engine).log Ev.writeCredit [e.hru.unwritten.length]).corrected Det.hruCredit 0

def execHostWriteCreditTimeout (s : State) : Host.Outcome State Fault Refusal := s.actIn Isl.hi Engine.creditTimeout

/-- MOD_TIME since the first unsignalled record (R54). -/
def Engine.moderate (e : Engine) (i : Nat) : Engine :=
  let r := e.evt i
  match r.firstUnsig with
  | some t => if r.enabled && r.modTime ≠ 0 && t + r.modTime ≤ e.us then e.raiseRing i else e
  | none => e

def execModTimeExpiry (ring : BitVec 12) (s : State) : Host.Outcome State Fault Refusal :=
  s.actIn Isl.hi fun e => e.moderate ring.toNat

/-- No head advance while records or reservations wait (R61). -/
def Engine.ringStall (e : Engine) (i : Nat) : Engine :=
  let r := e.evt i
  if r.enabled && !r.stalled && (r.unread ≠ 0 || r.ackRes ≠ 0 || r.tokRes ≠ 0) then
    (((e.putEvt i { r with stalled := true }).raiseRing i).log Ev.eventStall [i]).corrected Det.hruStall i
  else e

def execEventRingStallTimeout (ring : BitVec 12) (s : State) : Host.Outcome State Fault Refusal :=
  s.actIn Isl.hi fun e => e.ringStall ring.toNat

end Sys2Proof.Machine
end

