-- ==== Sys2Proof/Machine/Descriptors.lean ====
section
/-!
DEFINITION. Machine/Descriptors.lean: descriptor formats, the checks of Table 2.7, the reads a descriptor waits for, and
which descriptor of a ring is decoded next (R37 to R41, R55, R69).
-/

namespace Sys2Proof.Machine

/-! ### Fields -/

/-- A field of a staged descriptor: byte, bit, width. -/
def Staged.f (d : Staged) (b lo w : Nat) : Nat := f512 d.desc b lo w

/-- Header fields of a v2 descriptor. -/
def headerFields : List (Nat × Nat × Nat) := [(0, 0, 8), (1, 0, 1), (4, 0, 32), (8, 0, 64)]

/-- Body fields of each v2 opcode (Tables 2.5 and 2.6); none for an unknown opcode. -/
def bodyFields (opcode : Nat) : Option (List (Nat × Nat × Nat)) :=
  match opcode with
  | 0x01 => some [(16, 0, 16), (18, 0, 8), (19, 0, 8), (20, 0, 16), (22, 0, 8), (23, 0, 4), (24, 0, 64), (32, 0, 32), (36, 0, 24),
                  (40, 0, 64), (48, 0, 16), (50, 0, 24), (53, 0, 24), (56, 0, 24), (59, 0, 16), (61, 0, 24)]
  | 0x02 => some [(24, 0, 64), (36, 0, 24)]
  | 0x03 => some []
  | 0x04 => some [(16, 0, 20)]
  | 0x05 => some [(56, 0, 24), (59, 0, 16)]
  | 0x06 => some []
  | 0x10 => some [(16, 0, 16), (18, 0, 8), (19, 0, 8), (20, 0, 2), (24, 0, 64), (32, 0, 32), (36, 0, 16), (38, 0, 8)]
  | 0x11 => some [(16, 0, 16), (18, 0, 8), (19, 0, 1)]
  | 0x12 => some [(16, 0, 20), (20, 0, 8), (21, 0, 1), (22, 0, 16), (24, 0, 64), (32, 0, 32)]
  | 0x13 => some [(16, 0, 8), (17, 0, 2), (24, 0, 64), (32, 0, 32)]
  | 0x20 => some [(16, 0, 16), (18, 0, 1), (20, 0, 32), (24, 0, 32), (28, 0, 18), (32, 0, 23), (36, 0, 13), (40, 0, 64)]
  | 0x30 => some [(16, 0, 8), (20, 0, 32), (24, 0, 64), (32, 0, 32)]
  | 0x3F => some [(16, 0, 1)]
  | _ => none

/-- Fields of each v1 opcode (Table 2.4). -/
def v1Fields (opcode : Nat) : Option (List (Nat × Nat × Nat)) :=
  match opcode with
  | 0x00 => some [(0, 0, 8), (16, 0, 64)]
  | 0x01 => some [(0, 0, 8), (2, 0, 16), (4, 0, 24), (8, 0, 64), (16, 0, 64), (24, 0, 64)]
  | 0x03 => some [(0, 0, 8), (4, 0, 32), (16, 0, 64)]
  | _ => none

/-- The opcodes of R40 that need a management ring. -/
def mgmtOpcode (opcode : Nat) : Bool := [0x10, 0x11, 0x12, 0x13, 0x20].contains opcode

/-- Opcodes that name a request (Tables 2.4 and 2.6). -/
def Staged.names (d : Staged) : Bool :=
  [0x02, 0x03, 0x04, 0x05, 0x06].contains d.opcode || (d.opcode == 0x30 && d.f 16 0 8 == 1)

/-! ### What a SUBMIT asks for, in either format (R37, R38) -/

/-- The fields of a SUBMIT; those a v1 form lacks come from the ring context. -/
structure SubmitReq where
  tenant      : Nat
  family      : Nat
  cls         : Nat
  priority    : Nat
  deliverLate : Bool
  addition    : Nat
  version     : Nat
  srcKind     : Bool
  pfxValid    : Bool
  addValid    : Bool
  bindCurrent : Bool
  source      : Nat
  pfx         : Nat
  eventRing   : Nat
  prompt      : Nat
  seed        : Nat
  paramIndex  : Nat
  maxNew      : Nat
  maxContext  : Nat
  ttft        : Nat
  itl         : Nat
  total       : Nat
  deriving DecidableEq, Repr

/-- A v2 SUBMIT (Table 2.5). -/
def Staged.submitV2 (d : Staged) : SubmitReq :=
  { tenant := d.f 16 0 16, family := d.f 18 0 8, cls := d.f 19 0 2, priority := d.f 19 2 5, deliverLate := d.f 19 7 1 == 1,
    addition := d.f 20 0 16, version := d.f 22 0 8, srcKind := d.f 23 0 1 == 1, pfxValid := d.f 23 1 1 == 1,
    addValid := d.f 23 2 1 == 1, bindCurrent := d.f 23 3 1 == 1, source := d.f 24 0 64, pfx := d.f 32 0 20,
    eventRing := d.f 32 20 12, prompt := d.f 36 0 24, seed := d.f 40 0 64, paramIndex := d.f 48 0 16, maxNew := d.f 50 0 24,
    maxContext := d.f 53 0 24, ttft := d.f 56 0 24, itl := d.f 59 0 16, total := d.f 61 0 24 }

/-- A v1 SUBMIT (Table 2.4) on its ring; its records go to the ring's ACK_RING (log entry 21). -/
def Staged.submitV1 (d : Staged) (r : SubRing) : SubmitReq :=
  { tenant := r.tenant, family := f512 r.ctx 42 0 8, cls := f512 r.ctx 43 0 2, priority := f512 r.ctx 43 2 5, deliverLate := false,
    addition := f512 r.ctx 44 0 16, version := f512 r.ctx 46 0 8, srcKind := false, pfxValid := false,
    addValid := f512 r.ctx 47 0 1 == 1, bindCurrent := f512 r.ctx 47 1 1 == 1, source := d.f 8 0 64, pfx := 0,
    eventRing := r.ackRing, prompt := d.f 2 0 16, seed := d.f 24 0 64, paramIndex := 0, maxNew := d.f 4 0 24, maxContext := 0,
    ttft := 0, itl := 0, total := 0 }

def Staged.submitOf (d : Staged) (r : SubRing) : SubmitReq := if r.v2 then d.submitV2 else d.submitV1 r

/-! ### Checks 1 to 4 -/

/-- Check 1: the opcode is known for the format, and R40 allows it on the ring. -/
def Staged.known (d : Staged) (r : SubRing) : Bool :=
  if r.v2 then (bodyFields d.opcode).isSome && (r.mgmt || !(mgmtOpcode d.opcode || (d.opcode == 0x30 && d.f 16 0 8 != 1))) &&
      (d.opcode != 0x01 || !r.lock || d.f 16 0 16 == r.tenant)
  else (v1Fields d.opcode).isSome

/-- Check 2: reserved fields are zero. -/
def Staged.reservedOk (d : Staged) (r : SubRing) : Bool :=
  if r.v2 then match bodyFields d.opcode with
    | some l => onlyFields d.desc.toNat (headerFields ++ l)
    | none => false
  else match v1Fields d.opcode with
    | some l => onlyFields d.desc.toNat l
    | none => false

/-- Ranges of a SUBMIT. -/
def SubmitReq.inRange (x : SubmitReq) (v2 : Bool) : Bool :=
  x.cls != 3 && x.prompt != 0 && (x.srcKind || decide (x.prompt ≤ 16384)) && x.maxNew != 0 &&
    (!v2 || ((x.addValid || (x.addition == 0 && x.version == 0)) && (!x.bindCurrent || x.version == 0) && (x.pfxValid || x.pfx == 0)))

/-- Check 3: every field within its range, and the handle field where no request is named. -/
def Engine.rangeOk (e : Engine) (d : Staged) (r : SubRing) : Bool :=
  (!r.v2 || d.names || d.f 4 0 32 == 0xFFFFFFFF) &&
  match d.opcode with
  | 0x01 => (d.submitOf r).inRange r.v2
  | 0x02 => decide (1 ≤ d.f 36 0 24 ∧ d.f 36 0 24 ≤ 16384)
  | 0x04 => decide (1 ≤ d.f 16 0 20 ∧ d.f 16 0 20 ≤ 604800)
  | 0x12 => decide (d.f 32 0 32 ≤ 16384)
  | 0x13 => if d.f 17 1 1 = 1 then d.f 24 0 64 == 0 && d.f 32 0 32 == 0 else d.f 32 0 32 == 256
  | 0x20 => decide (d.f 20 0 32 ≤ 100000000 ∧ d.f 24 0 32 ≤ 100000000) && ((d.f 20 0 32 == 0) == (d.f 24 0 32 == 0))
  | 0x30 =>
    let t := d.f 20 0 32
    match d.f 16 0 8 with
    | 1 => t == 0
    | 2 => decide (t < 65536)
    | 3 => decide (t < 256)
    | 4 => decide (t < 65536)
    | 5 => decide (t < 8192) && decide (t % 4096 < e.ringCount (decide (4096 ≤ t)))
    | _ => false
  | _ => true

/-- Check 4: alignment and canonical form of every host address. -/
def Engine.addressOk (e : Engine) (d : Staged) (r : SubRing) : Bool :=
  let a := d.f 24 0 64
  match d.opcode with
  | 0x01 =>
    let x := d.submitOf r
    x.source % (if x.srcKind then 64 else 4) == 0 && e.canonical x.source
  | 0x02 => a % 4 == 0 && e.canonical a
  | 0x10 => a % 4096 == 0 && (d.f 20 1 1 == 1 || e.canonical a)
  | 0x12 => d.f 32 0 32 == 0 || (a % 4096 == 0 && (d.f 21 0 1 == 1 || e.canonical a))
  | 0x13 => d.f 17 1 1 == 1 || (a % 64 == 0 && e.canonical a)
  | 0x30 => a % 64 == 0 && e.canonical a
  | _ => true

/-- Checks 1 to 4, all MALFORMED. -/
def Engine.formOk (e : Engine) (d : Staged) : Bool :=
  let r := e.sub d.ring
  d.known r && d.reservedOk r && e.rangeOk d r && e.addressOk d r

/-! ### Checks 5 and 6 -/

/-- Check 5 of a SUBMIT. -/
def Engine.submitPlaceOk (e : Engine) (d : Staged) : Bool :=
  let r := e.sub d.ring
  let x := d.submitOf r
  let f := e.family x.family
  let ring := e.evt x.eventRing
  f.servable && decide (x.paramIndex < r.paramCount) && ring.enabled && (!ring.lock || ring.tenant == x.tenant) &&
    decide (x.maxContext ≤ f.maxContext)

/-- Check 6: the request a descriptor names, where the ring may act on it (R40, R65). -/
def Engine.target (e : Engine) (d : Staged) : Option (Nat × Rafter) :=
  let r := e.sub d.ring
  let h := BitVec.ofNat 32 (d.handle r.v2)
  match e.lookup h with
  | none => none
  | some x => if r.lock && x.tenant != r.tenant then none else some (slotOf h, x)

/-- What a group bars (R239): on a worker or a standby, all but FENCE and QUERY of kinds 3 to 5 on ring 0; on the manager of
more than one rank, an addition or a prefix in host memory. -/
def Engine.groupBars (e : Engine) (d : Staged) : Bool :=
  if e.follows then
    !(d.ring == 0 && (d.opcode == 0x3F || (d.opcode == 0x30 && decide (3 ≤ f512 d.desc 16 0 8) && decide (f512 d.desc 16 0 8 ≤ 5))))
  else
    e.leadsGroup && ((d.opcode == 0x10 && f512 d.desc 20 1 1 == 0) ||
      (d.opcode == 0x12 && f512 d.desc 32 0 32 != 0 && f512 d.desc 21 0 1 == 0))

/-- Checks 1 to 6: the status of the first that fails. -/
def Engine.checkUpTo6 (e : Engine) (d : Staged) : Option Nat :=
  if !e.formOk d || e.groupBars d then some Status.malformed
  else if d.opcode = 0x01 && !e.submitPlaceOk d then some Status.malformed
  else if d.names && (e.target d).isNone then some Status.stale
  else none

/-! ### The parameter block (Table 3.2, R68) -/

/-- A finite FP32 word. -/
def f32Finite (x : Nat) : Bool := bitsOf x 23 8 != 255

/-- Fields of a parameter block. -/
def paramFields : List (Nat × Nat × Nat) :=
  [(0, 0, 192), (24, 0, 7), (25, 0, 6), (26, 0, 3), (27, 0, 7), (28, 0, 24), (32, 0, 64), (40, 0, 4), (64, 0, 24), (68, 0, 24),
   (72, 0, 24), (76, 0, 24), (80, 0, 24), (84, 0, 24), (88, 0, 24), (92, 0, 24)]

/-- Is every field of a block within Table 3.2, for a family and a MAX_NEW? -/
def Engine.paramsOk (e : Engine) (x : BitVec 1024) (f : Family) (maxNew : Nat) : Bool :=
  let stops := pf x 40 0 4
  onlyFields x.toNat paramFields && decide (pf x 0 0 32 < 0x7F800000) &&
    decide (0 < pf x 4 0 32 ∧ pf x 4 0 32 ≤ 0x3F800000) && (decide (pf x 8 0 32 < 0x3F800000) || pf x 8 0 32 == 0x80000000) &&
    decide (0 < pf x 12 0 32 ∧ pf x 12 0 32 < 0x7F800000) && f32Finite (pf x 16 0 32) && f32Finite (pf x 20 0 32) &&
    decide (pf x 24 0 7 ≤ 64) && decide (pf x 25 0 4 ≤ 8) && decide (pf x 26 0 3 ≤ 4 ∧ pf x 26 0 3 ≤ f.specHeads) &&
    decide (pf x 27 0 7 ≤ 64) && decide (pf x 28 0 24 ≤ maxNew) && pf x 32 0 64 % 8 == 0 && e.canonical (pf x 32 0 64) &&
    (pf x 27 0 7 != 0 || pf x 32 0 64 == 0) && decide (stops ≤ 8) &&
    (List.range 8).all fun i => if i < stops then decide (pf x (64 + 4 * i) 0 24 < f.vocab) else pf x (64 + 4 * i) 0 24 == 0

/-- A bias list as read: distinct ids below VOCAB with finite words. -/
def biasOk (l : List (BitVec 64)) (count vocab : Nat) : Bool :=
  let ids := l.map fun w => w.toNat % 2 ^ 32
  decide (l.length = count) && ids.all (fun t => decide (t < vocab ∧ t < 2 ^ 24)) && decide ids.Nodup &&
    l.all fun w => f32Finite (w.toNat / 2 ^ 32)

/-- A token list as read: the words asked for, ids below VOCAB with zero in bits [31:24]. -/
def tokensOk (l : List (BitVec 32)) (count vocab : Nat) : Bool :=
  decide (l.length = count) && l.all fun w => decide (w.toNat < vocab ∧ w.toNat < 2 ^ 24)

/-! ### Reads (R69, R160) -/

/-- Does the descriptor read host memory before it acts? -/
def Staged.reader (d : Staged) : Bool := d.opcode == 0x01 || d.opcode == 0x02

/-- Address of a SUBMIT's parameter block. -/
def Staged.paramAddr (d : Staged) (r : SubRing) : Nat := r.paramBase + 128 * (d.submitOf r).paramIndex

/-- Issues the reads of a SUBMIT or an APPEND. -/
def Engine.issueReads (e : Engine) (d : Staged) : Engine :=
  let r := e.sub d.ring
  let e := e.restage { d with reads := .waiting }
  if d.opcode = 0x01 then
    let x := d.submitOf r
    let e := e.emit (.hostRead (BitVec.ofNat 64 x.source) (if x.srcKind then 64 else 4 * x.prompt))
    e.emit (.hostRead (BitVec.ofNat 64 (d.paramAddr r)) 128)
  else e.emit (.hostRead (BitVec.ofNat 64 (d.f 24 0 64)) (4 * d.f 36 0 24))

/-- Issues the reads of a descriptor that has passed checks 1 to 6. -/
def Engine.prefetch (e : Engine) (d : Staged) : Engine :=
  if d.reader && d.reads == .none && (e.checkUpTo6 d).isNone then e.issueReads d else e

/-- A fetch returns (R47): all its descriptors are staged, and the reads of those that pass checks 1 to 6 are issued. An
opcode the format does not know completes MALFORMED when staged. -/
def Engine.fetchReturn (e : Engine) (i : Nat) (ok : Bool) (descs : List (BitVec 512)) : Engine :=
  match (e.sub i).flights with
  | [] => e
  | (_, n, own) :: rest =>
    if !ok || descs.length ≠ n then e.fetchFailed i
    else
      let e := e.putSub i { e.sub i with flights := rest }
      let start := (e.sub i).consumed
      let e := (e.stageAll i own descs).bumpBy Cnt.hruDesc n
      let e := (List.range n).foldl (fun e k => match e.staged? i (start + k) with
        | none => e
        | some d => if d.known (e.sub i) then e.prefetch d else e.failStaged d) e
      (e.headWriteBack i).finishClose i

def execDescriptorFetchReturn (ring : BitVec 12) (ok : Bool) (descs : List (BitVec 512)) (s : State) :
    Host.Outcome State Fault Refusal :=
  s.cross Isl.hi (.descriptorFetchReturn ring ok descs) fun e => e.fetchReturn ring.toNat ok descs

/-- Check 7 on what an APPEND read. -/
def Engine.appendReadOk (e : Engine) (d : Staged) (x : ListRead) : Bool :=
  x.ok && match e.target d with
  | some (_, r) => tokensOk x.tokens (d.f 36 0 24) (e.family r.family).vocab
  | none => true

/-- The cache-object record gives a token list. -/
def objectLists (o : BitVec 512) : Bool := f512 o 40 0 64 != 0

/-- Tokens of a SUBMIT's list: its own, or its cache object's. -/
def SubmitReq.listOk (x : SubmitReq) (data : ListRead) (vocab : Nat) : Bool :=
  if x.srcKind then !objectLists data.object || tokensOk data.tokens x.prompt vocab else tokensOk data.tokens x.prompt vocab

/-- Check 7 on what a SUBMIT read. -/
def Engine.submitReadOk (e : Engine) (d : Staged) (x : ListRead) : Bool :=
  let s := d.submitOf (e.sub d.ring)
  let f := e.family s.family
  x.ok && s.listOk x f.vocab && e.paramsOk x.params f s.maxNew && biasOk x.bias (pf x.params 27 0 7) f.vocab

/-- The reads that follow a SUBMIT's first ones: the bias list its block names (R69), and the token list its cache object names
(R160). -/
def Engine.listReads (e : Engine) (x : SubmitReq) (data : ListRead) : Engine :=
  let biases := pf data.params 27 0 7
  let e := if x.srcKind && objectLists data.object then
      e.emit (.hostRead (BitVec.ofNat 64 (f512 data.object 40 0 64)) (4 * x.prompt))
    else e
  if biases ≠ 0 && e.paramsOk data.params (e.family x.family) x.maxNew then
    e.emit (.hostRead (BitVec.ofNat 64 (pf data.params 32 0 64)) (8 * biases))
  else e

/-- The reads of a descriptor return: check 7 fails it at once. A host-port error also leaves an eaves-log record. -/
def Engine.readsDone (e : Engine) (i slot : Nat) (x : ListRead) : Engine :=
  match e.reading? i slot with
  | none => e
  | some d =>
    if !d.reader then e
    else
      let e := if x.ok then e else e.log Ev.hostReadError [i, slot]
      let e := if d.opcode = 0x01 then e.listReads (d.submitOf (e.sub d.ring)) x else e
      let ok := if d.opcode = 0x01 then e.submitReadOk d x else e.appendReadOk d x
      if ok then e.restage { d with reads := .done x } else e.failStaged d

def execTokenListReadDone (ring : BitVec 12) (slot : BitVec 16) (data : ListRead) (s : State) : Host.Outcome State Fault Refusal :=
  s.cross Isl.hi (.tokenListReadDone ring slot data) fun e => e.readsDone ring.toNat slot.toNat data

/-- A list read passes HRU_RD_TO: the descriptor completes MALFORMED (Table 2.14), and so does a FAMILY_CONFIG whose block
read does (Table 7.4). -/
def Engine.readsTimeout (e : Engine) (i slot : Nat) : Engine :=
  match e.reading? i slot with
  | none => e
  | some d => (e.failStaged d).corrected Det.hruWatchdog i

def execTokenListReadTimeout (ring : BitVec 12) (slot : BitVec 16) (s : State) : Host.Outcome State Fault Refusal :=
  s.actIn Isl.hi fun e => e.readsTimeout ring.toNat slot.toNat

/-! ### The order of decoding (R39, R55, R74) -/

/-- Is the descriptor due to be decoded: fresh, or held for a request that has left FENCED? -/
def Engine.due (e : Engine) (d : Staged) : Bool :=
  match d.phase with
  | .fresh => true
  | .held h => e.stateOf (slotOf h) != .fenced
  | _ => false

/-- The descriptor of a ring that is decoded next; none while it must wait for earlier ones. -/
def Engine.nextDue (e : Engine) (i : Nat) : Option Staged :=
  match (e.hru.staging.filter fun d => d.ring == i).find? e.due with
  | none => none
  | some d => if e.inOrder d then some d else none

/-- Decodes the next descriptor of a ring when it has the opcode the row names: the checks up to order 6, then what the
row does with it. -/
def Engine.decode (e : Engine) (i : Nat) (isRow : Staged → Bool) (f : Staged → Engine → Engine) : Engine :=
  match e.nextDue i with
  | none => e
  | some d =>
    if !isRow d then e
    else
      let e := match e.checkUpTo6 d with
        | some st => e.ack d st
        | none => f d e
      e.finishClose i

/-- A handle-bearing descriptor in a FENCED request's way is held (R74); else it acts on the request. With the record's event
section full it waits for the next boundary (R262). -/
def Engine.onRequest (e : Engine) (d : Staged) (f : Nat → Rafter → Engine → Engine) : Engine :=
  match e.target d with
  | none => e.ack d Status.stale
  | some (slot, r) =>
    if r.state == .fenced then e.restage { d with phase := .held r.handle }
    else if e.eventsFull then e.bump Cnt.fltEvtFull
    else f slot r (e.hostActs slot)

end Sys2Proof.Machine
end

