-- ==== Sys2Proof/Machine/Submit.lean ====
section
/-!
DEFINITION. Machine/Submit.lean: the descriptors about requests: NOP, SUBMIT, APPEND, CANCEL, PAUSE, RESUME, RELEASE and
the QUERY of a request (R37 to R41, R58, R72, R74, R82, R160, R179, R184).
-/

namespace Sys2Proof.Machine

/-! ### SUBMIT -/

/-- Tokens of a READY prefix that a SUBMIT names, 0 for any other (check 8, R184). -/
def Engine.prefixTokens (e : Engine) (x : SubmitReq) : Nat :=
  if x.pfxValid then match Table.get? e.var.prefixes x.pfx with
    | some p => if p.state = 2 then p.tokens else 0
    | none => 0
  else 0

/-- Check 9 of a named prefix. -/
def Engine.prefixOk (e : Engine) (x : SubmitReq) : Bool :=
  !x.pfxValid || match Table.get? e.var.prefixes x.pfx with
    | some p => p.state == 2 && p.family == x.family && p.tenant == x.tenant
    | none => false

/-- The version a SUBMIT binds at stage 4, if any (R179). -/
def Engine.boundVersion (e : Engine) (x : SubmitReq) : Option Nat :=
  if !x.addValid then some 0
  else match e.addition? x.addition with
    | none => none
    | some a =>
      if x.bindCurrent then (if a.currentValid then some a.current else none)
      else match e.record? x.addition x.version with
        | some r => if r.vstate = 1 || r.vstate = 2 || r.vstate = 3 then some x.version else none
        | none => none

/-- Fields of a cache-object record (Table 6.5). -/
def objectFields : List (Nat × Nat × Nat) :=
  [(0, 0, 64), (8, 0, 8), (9, 0, 8), (10, 0, 16), (12, 0, 8), (13, 0, 2), (14, 0, 16), (16, 0, 20), (20, 0, 24), (24, 0, 20),
   (28, 0, 32), (32, 0, 24), (40, 0, 64), (60, 0, 32)]

/-- Conditions 1 to 4 of Table 6.6: a failure is MALFORMED. -/
def Engine.objectOk (e : Engine) (x : SubmitReq) (data : ListRead) (seqEnd pfxLen : Nat) : Bool :=
  let o := data.object
  crc32c (leBytes 60 o.toNat) == BitVec.ofNat 32 (f512 o 60 0 32) && onlyFields o.toNat objectFields &&
    f512 o 8 0 8 == x.family && (f512 o 13 0 1 == 1) == x.addValid && f512 o 10 0 16 == x.addition &&
    some (f512 o 12 0 8) == e.boundVersion x && (f512 o 13 1 1 == 1) == x.pfxValid && f512 o 16 0 20 == x.pfx &&
    f512 o 20 0 24 == x.prompt && (pf data.params 25 5 1 != 1 || objectLists o) &&
    f512 o 24 0 20 == ceilDiv (seqEnd - 1) 32 - pfxLen / 32

/-- Condition 5 of Table 6.6. -/
def Engine.objectFits (e : Engine) (x : SubmitReq) (o : BitVec 512) : Bool :=
  let f := e.family x.family
  f512 o 14 0 16 == 1 && f512 o 9 0 8 == f.kvHeads && f512 o 28 0 32 == f.pageBytes && conforms f.kvHeads f.laneWidth

/-- Checks 7 to 9 of a SUBMIT whose reads are done. -/
def Engine.submitCheck (e : Engine) (d : Staged) (x : SubmitReq) (data : ListRead) : Option Nat :=
  let f := e.family x.family
  let pfxLen := e.prefixTokens x
  let limit := if x.maxContext = 0 then f.maxContext else x.maxContext
  if !e.submitReadOk d data then some Status.malformed
  else if x.srcKind && !e.objectOk x data (pfxLen + x.prompt) pfxLen then some Status.malformed
  else if limit < x.prompt + x.maxNew + pfxLen then some Status.malformed
  else if !e.prefixOk x then some Status.additionMissing
  else if x.srcKind && !e.objectFits x data.object then some Status.layout
  else none

/-- The token ids a SUBMIT brings: its list, or the one of its cache object. -/
def SubmitReq.tokens (x : SubmitReq) (data : ListRead) : List Nat :=
  if x.srcKind && !objectLists data.object then [] else data.tokens.map BitVec.toNat

/-- The rafter entry a SUBMIT opens, in ADMITTING (R66, R70, R42). -/
def Engine.newEntry (e : Engine) (slot : Nat) (d : Staged) (x : SubmitReq) (data : ListRead) : Rafter :=
  let r := e.sub d.ring
  let pfxLen := e.prefixTokens x
  let seqEnd := pfxLen + x.prompt
  { handle := e.handleOf slot, tenant := x.tenant, family := x.family, state := .admitting, cls := x.cls, priority := x.priority,
    addValid := x.addValid, pfxValid := x.pfxValid, deliverLate := x.deliverLate, version := (e.boundVersion x).getD x.version,
    addition := x.addition, pfx := x.pfx, eventRing := x.eventRing, seed := BitVec.ofNat 64 x.seed, pfxLen := pfxLen,
    returnState := .free, inputEnd := seqEnd, srcKind := x.srcKind, stopSeen := false,
    pausePending := false, rebindPending := false, mixedVersion := false, firstEmitted := false, suppressNote := false,
    bindCurrent := x.bindCurrent, seqEnd := seqEnd, pendStatus := 0, kvEnd := if x.srcKind then seqEnd - 1 else pfxLen,
    pendReason := 0, generated := 0, deliveredPos := pad, handedPos := pad, maxNew := x.maxNew,
    maxContext := if x.maxContext = 0 then (e.family x.family).maxContext else x.maxContext,
    ttft := if x.ttft = 0 then 0 else us48 (d.arrival + x.ttft), nextDl := 0,
    total := if x.total = 0 then 0 else us48 (d.arrival + x.total * 1000), parkExpiry := 0, itlUs := x.itl * 4, pageHead := 0,
    pageCount := 0, penOvfHead := 0, penOvfValid := false, paramSrc := BitVec.ofNat 64 (d.paramAddr r),
    userTag := BitVec.ofNat 64 (d.tag r.v2), admitStep := 0, lastServed := 0, replaySeq := 0, params := data.params,
    arrival := d.arrival, ackRing := d.ring, ackPos := d.pos, completed := false, promptTokens := x.prompt, matched := 0,
    lookupOpen := false, listTokens := x.tokens data,
    later := if x.srcKind then [(seqEnd - 1, f512 data.object 32 0 24)] else [], importLoc := BitVec.ofNat 64 (f512 data.object 0 0 64),
    bias := data.bias.map fun w => (w.toNat % 2 ^ 32, BitVec.ofNat 32 (w.toNat / 2 ^ 32)),
    chainSalt := e.saltFor x.family x.tenant, reAdmit := false, reserved := 0, entriesRes := 0,
    bindFailed := (e.boundVersion x).isNone, restoreAt := 0, pagesCharged := 0, parkedAt := 0, fencedFrom := .free }

/-- A SUBMIT that passes its checks takes the head slot and becomes a candidate (R64, R72, R84). With no slot free the
descriptor waits (log entry 22). -/
def Engine.submitTake (e : Engine) (d : Staged) (x : SubmitReq) (data : ListRead) : Engine :=
  match e.slots.take with
  | none => e
  | some (slot, free) =>
    let r := e.newEntry slot d x data
    let e : Engine := { e with slots := free, adm := { e.adm with candidates := e.adm.candidates ++ [slot] } }
    let e := (e.putReq slot r).restage { d with phase := .admitting slot }
    if r.listTokens.isEmpty then e else e.stageHashes slot r.hashes

/-- A SUBMIT after checks 1 to 6. -/
def Engine.submitDesc (d : Staged) (e : Engine) : Engine :=
  match d.reads with
  | .done data =>
    let x := d.submitOf (e.sub d.ring)
    match e.submitCheck d x data with
    | some st => e.ack d st
    | none => e.submitTake d x data
  | .none => e.issueReads d
  | _ => e

def execSubmit (ring : BitVec 12) (s : State) : Host.Outcome State Fault Refusal :=
  s.cross Isl.sb (.submit ring) fun e => e.decode ring.toNat (fun d => d.opcode == 0x01) Engine.submitDesc

/-- NOP, a v1 descriptor (R37). -/
def execNop (ring : BitVec 12) (s : State) : Host.Outcome State Fault Refusal :=
  s.cross Isl.hi (.nop ring) fun e => e.decode ring.toNat (fun d => d.opcode == 0x00) fun d e => e.ack d Status.ok

/-! ### Descriptors of a live request (Table 3.4) -/

/-- States of a live request that is not yet ending. -/
def ReqState.live (s : ReqState) : Bool := s.running || s.paused

/-- APPEND. -/
def Engine.appendDesc (d : Staged) (e : Engine) : Engine :=
  match d.reads with
  | .done data => e.onRequest d fun slot r e =>
      if r.state == .queued || r.state.paused then
        if e.appendReadOk d data then
          let (st, e) := e.appendRequest slot r (data.tokens.map BitVec.toNat)
          e.ack d st
        else e.ack d Status.malformed
      else e.ack d Status.malformed
  | .none => e.issueReads d
  | _ => e

def execAppend (ring : BitVec 12) (s : State) : Host.Outcome State Fault Refusal :=
  s.cross Isl.sb (.append ring) fun e => e.decode ring.toNat (fun d => d.opcode == 0x02) Engine.appendDesc

/-- CANCEL: the stop bit of a live request, FENCED included; one ending already is unchanged (R58, R74). -/
def Engine.cancelDesc (d : Staged) (e : Engine) : Engine :=
  match e.target d with
  | none => e.ack d Status.stale
  | some (slot, r) =>
    let e := e.hostActs slot
    let e := if r.state.live || r.state == .fenced then ((e.countStopHold).jevent 0x03 0 r.handle.toNat 0).applyStop slot else e
    e.ack d Status.ok

def execCancel (ring : BitVec 12) (s : State) : Host.Outcome State Fault Refusal :=
  s.cross Isl.sb (.cancel ring) fun e => e.decode ring.toNat (fun d => d.opcode == 0x03) Engine.cancelDesc

/-- PAUSE: held unacknowledged until a running request parks. -/
def Engine.pauseDesc (d : Staged) (e : Engine) : Engine :=
  e.onRequest d fun slot r e =>
    let ttl := d.f 16 0 20
    let e' := e.jevent 0x06 0 r.handle.toNat ttl
    if r.state.running then (e'.pauseRunning slot r ttl).restage { d with phase := .waiting }
    else if r.state == .parked || r.state == .spilled then (e'.putReq slot { r with parkExpiry := e.parkUntil ttl }).ack d Status.ok
    else e.ack d Status.malformed

def execPause (ring : BitVec 12) (s : State) : Host.Outcome State Fault Refusal :=
  s.cross Isl.sb (.pause ring) fun e => e.decode ring.toNat (fun d => d.opcode == 0x04) Engine.pauseDesc

/-- RESUME. -/
def Engine.resumeDesc (d : Staged) (e : Engine) : Engine :=
  e.onRequest d fun slot r e =>
    if r.state == .parked || r.state == .spilled then
      (e.resumeParked slot r d.arrival (d.f 56 0 24) (d.f 59 0 16)).ack d Status.ok
    else if r.state.running && r.pausePending then (e.withdrawPause slot r).ack d Status.ok
    else e.ack d Status.malformed

def execResume (ring : BitVec 12) (s : State) : Host.Outcome State Fault Refusal :=
  s.cross Isl.sb (.resume ring) fun e => e.decode ring.toNat (fun d => d.opcode == 0x05) Engine.resumeDesc

/-- RELEASE. -/
def Engine.releaseDesc (d : Staged) (e : Engine) : Engine :=
  e.onRequest d fun slot r e =>
    if r.state.live || r.state == .cancelling then (e.releaseRequest slot r).ack d Status.ok else e.ack d Status.malformed

def execRelease (ring : BitVec 12) (s : State) : Host.Outcome State Fault Refusal :=
  s.cross Isl.sb (.release ring) fun e => e.decode ring.toNat (fun d => d.opcode == 0x06) Engine.releaseDesc

/-! ### QUERY results (R82) -/

/-- Writes a result of `size` bytes to the buffer, or the largest multiple of 64 that fits, and acknowledges. -/
def Engine.answerQuery (e : Engine) (d : Staged) (size value : Nat) : Engine :=
  let room := d.f 32 0 32
  let n := if size ≤ room then size else room / 64 * 64
  let e := if n = 0 then e else e.emit (.hostWrite (BitVec.ofNat 64 (d.f 24 0 64)) n (BitVec.ofNat 2560 (value % 2 ^ (8 * n))))
  e.ackWith d (d.handle true) Status.ok n

/-- QUERY of kind 0x01, in every state but ADMITTING; a kind no table names fails the range check of decoding. -/
def Engine.queryRequestDesc (d : Staged) (e : Engine) : Engine :=
  match e.target d with
  | none => e.ack d Status.stale
  | some (_, r) => e.answerQuery d 256 r.image

/-- The row's descriptors: a QUERY whose kind is not one of the other rows'. -/
def isQueryRequest (d : Staged) : Bool := d.opcode == 0x30 && !([2, 3, 4, 5].contains (d.f 16 0 8))

def execQueryRequest (ring : BitVec 12) (s : State) : Host.Outcome State Fault Refusal :=
  s.cross Isl.sb (.queryRequest ring) fun e => e.decode ring.toNat isQueryRequest Engine.queryRequestDesc

end Sys2Proof.Machine
end

