-- ==== Sys2Proof/Machine/Manage.lean ====
section
/-!
DEFINITION. Machine/Manage.lean: the management descriptors: families, additions, prefixes, tenants, the other QUERY kinds
and FENCE (R39, R92, R169 to R186, R395, R396).
-/

namespace Sys2Proof.Machine

/-- Image of a tenant record (Table 4.3). -/
def Tenant.image (t : Tenant) : Nat :=
  place (ofSigned 48 t.level) 0 48 + place t.stamp 48 32 + place t.rate 80 27 + place t.burst 107 27 + place (bit t.enable) 134 1 +
    place t.cap 136 18 + place t.live 154 19 + place t.pquota 176 23 + place t.pheld 199 23 + place t.aquota 224 13 +
    place t.aheld 237 14

/-! ### TENANT_SET (R92) -/

/-- A tenant record as a TENANT_SET leaves it. -/
def Tenant.set (t : Tenant) (enable : Bool) (rate burst cap pquota aquota us : Nat) : Tenant :=
  let full : Int := (burst * 1000000 : Nat)
  { t with enable := enable, rate := rate, burst := burst, cap := cap, pquota := pquota, aquota := aquota, stamp := us % 2 ^ 32,
           level := if enable && !t.enable then full else min full t.level }

/-- TENANT_SET: the record, the salt with its purge (R151), and the held requests of a tenant disabled (R89). -/
def Engine.tenantSetDesc (d : Staged) (e : Engine) : Engine :=
  if e.eventsFull then e.bump Cnt.fltEvtFull
  else
    let t := d.f 16 0 16
    let enable := d.f 18 0 1 == 1
    let salt := BitVec.ofNat 64 (d.f 40 0 64)
    let old := Table.getD e.pgm.salts t 0
    let e := e.refill t
    let e := e.putTenant t ((e.tenant t).set enable (d.f 20 0 32) (d.f 24 0 32) (d.f 28 0 18) (d.f 32 0 23) (d.f 36 0 13) e.us)
    let e := if old != salt || !enable then e.purge fun p => p.salt == old && !(e.family p.family).share else e
    let e : Engine := { e with pgm := { e.pgm with salts := Table.put e.pgm.salts t salt } }
    let e := (if enable then e else e.refuseTenant t).wake fun r => r.tenant == t
    ((e.jevent 0x0A 0 t 0).mirrorEvent Mirror.tenant (leBytes 2 t ++ leBytes 32 (e.tenant t).image)).ack d Status.ok

def execTenantSet (ring : BitVec 12) (s : State) : Host.Outcome State Fault Refusal :=
  s.cross Isl.sb (.tenantSet ring) fun e => e.decode ring.toNat (fun d => d.opcode == 0x20) Engine.tenantSetDesc

/-! ### FAMILY_CONFIG (R169 to R172) -/

/-- Fields of a configuration block, as (byte, bit, width) (Tables 7.2 and 4.5). -/
def blockFields : List (Nat × Nat × Nat) :=
  [(0, 0, 32), (4, 0, 16), (6, 0, 16), (8, 0, 24), (12, 0, 24), (16, 0, 8), (17, 0, 3), (18, 0, 16), (20, 0, 32), (24, 0, 64),
   (32, 0, 64), (40, 0, 1), (44, 0, 32), (48, 0, 8), (64, 0, 64), (72, 0, 32), (76, 0, 32), (80, 0, 64), (88, 0, 32), (92, 0, 32),
   (128, 0, 208), (252, 0, 32)]

/-- Every field of a block in range (Table 7.2). -/
def Family.inRange (f : Family) : Bool :=
  let b := fun (lo hi x : Nat) => decide (lo ≤ x ∧ x ≤ hi)
  let kappa := toSigned 16 (fb f.block 152 0 16)
  b 1 1024 f.layers && b 256 0xFFFFFF f.vocab && b 64 0xFFFFFF f.maxContext && b 1 255 f.kvHeads && b 0 4 f.specHeads &&
    b 1 4096 f.laneWidth && f.pageBytes != 0 && f.pageBytes % (64 * f.kvHeads) == 0 && f.weightSrc.toNat % 4096 == 0 &&
    (if f.addUnitBytes = 0 then f.addMaxRank == 0 else f.addMaxRank != 0) && decide (f.layerBytes ≤ f.layerStride) &&
    decide (f.layer0Off + (f.layers - 1) * f.layerStride + f.layerBytes ≤ f.weightBytes) && decide (-256 ≤ kappa ∧ kappa ≤ 256)

/-- Check 1 of Table 7.4 on a block that was read. -/
def Engine.blockOk (e : Engine) (f : Family) : Bool :=
  fb f.block 0 0 32 == 0x5E4B4643 && fb f.block 4 0 16 == 0x0302 &&
    crc32c (leBytes 252 f.block.toNat) == BitVec.ofNat 32 (fb f.block 252 0 32) && onlyFields f.block.toNat blockFields &&
    f.inRange && (f.weightSrcT2 || e.canonical f.weightSrc.toNat)

/-- The identity fields: everything but bytes 88 to 95, the predictor section and CHECK (R172). -/
def identityOf (x : BitVec 2048) : Nat × Nat × Nat :=
  (bitsOf x.toNat 0 (8 * 88), bitsOf x.toNat (8 * 96) (8 * 32), bitsOf x.toNat (8 * 192) (8 * 60))

/-- Reads a FAMILY_CONFIG's block. -/
def Engine.familyConfigDesc (d : Staged) (e : Engine) : Engine :=
  let (turn, e) := e.takeJobTurn
  (e.restage { d with phase := .waiting, reads := .waiting, turn := turn }).emit (.hostRead (BitVec.ofNat 64 (d.f 24 0 64)) 256)

def execFamilyConfig (ring : BitVec 12) (s : State) : Host.Outcome State Fault Refusal :=
  s.cross Isl.pg (.familyConfig ring) fun e => e.decode ring.toNat (fun d => d.opcode == 0x13 && d.f 17 1 1 == 0) Engine.familyConfigDesc

/-- Chunks of 2 MiB of a number of bytes. -/
def chunksOf (bytes : Nat) : Nat := ceilDiv bytes 2097152

/-- A family's block, as the group's replicas are told: the record and eight of the block (R244). -/
def Engine.opsFamily (e : Engine) (i : Nat) : Engine :=
  (List.range 8).foldl (fun e k => e.ops (bitsOf (e.family i).block.toNat (256 * k) 256)) (e.ops (0x08 + place i 8 8))

/-- A CONFIGURED family takes a block that changes no identity field (R172): κ is reset and the family regraded. -/
def Engine.reconfigure (e : Engine) (i : Nat) (f : Family) : Engine :=
  let e := e.putFamily i { e.family i with block := f.block }
  let e : Engine := { e with adm := { e.adm with predictors := Table.put e.adm.predictors i f.predictor } }
  ((e.gradeFamily i).opsFamily i).updateOvercommit.wakeAll

/-- Starts the load of an UNCONFIGURED family at a run of granules (R171); one of no bytes has nothing to copy. -/
def Engine.loadFamily (e : Engine) (d : Staged) (i granule : Nat) (f : Family) : Engine :=
  let n := chunksOf f.weightBytes
  let x : Family := { f with state := 1, granule := granule, granules := n, ack := some (d.ring, d.pos) }
  let e := (((e.putFamily i x).gradeFamily i).opsFamily i).restage { d with phase := .waiting, reads := .none }
  if n = 0 then e.jobDone (.family i false) else (e.addJobAt d.turn (.family i false) n).nextLoadBurst

/-- The checks of Table 7.4 on a block, in order. -/
def Engine.familyBlock (e : Engine) (d : Staged) (ok : Bool) (block : BitVec 2048) : Engine :=
  let i := d.f 16 0 8
  let old := e.family i
  let share := d.f 17 0 1 == 1
  let f : Family := { Family.none with block := block, share := share }
  let grade := (f.grade e.halfWindow).grade
  let same := old.state = 2 && identityOf old.block == identityOf block && old.share == share
  if !ok || !e.blockOk f || (e.leadsGroup && !f.weightSrcT2) then e.ack d Status.malformed
  else if old.state ≠ 0 && !same then e.ack d Status.malformed
  else if 2097152 < f.pageBytes then e.ack d Status.noFit
  else if !conforms f.kvHeads f.laneWidth then e.ack d Status.layout
  else if grade = 3 then e.ack d Status.noFit
  else if old.state = 2 then (e.reconfigure i f).ack d Status.ok
  else match findRun e.weightRuns (e.get Fld.varWtSizeMib / 2) (chunksOf f.weightBytes) with
    | none => e.ack d Status.noFit
    | some g => e.loadFamily d i g f

/-- A configuration block returns. -/
def Engine.blockReadDone (e : Engine) (i slot : Nat) (ok : Bool) (block : BitVec 2048) : Engine :=
  match e.reading? i slot with
  | none => e
  | some d =>
    if d.opcode = 0x13 then
      let e := if ok then e else e.log Ev.hostReadError [i, slot]
      e.familyBlock d ok block
    else e

def execFamilyConfigBlockReadDone (ring : BitVec 12) (slot : BitVec 16) (ok : Bool) (block : BitVec 2048) (s : State) :
    Host.Outcome State Fault Refusal :=
  s.cross Isl.pg (.familyConfigBlockReadDone ring slot ok block) fun e => e.blockReadDone ring.toNat slot.toNat ok block

/-- FAMILY_CONFIG with REMOVE = 1 (R174). -/
def Engine.familyRemoveDesc (d : Staged) (e : Engine) : Engine :=
  let i := d.f 16 0 8
  if (e.family i).servable then (e.restage { d with phase := .waiting }).removeFamily i (some (d.ring, d.pos))
  else e.ack d Status.malformed

def execFamilyRemove (ring : BitVec 12) (s : State) : Host.Outcome State Fault Refusal :=
  s.cross Isl.pg (.familyRemove ring) fun e => e.decode ring.toNat (fun d => d.opcode == 0x13 && d.f 17 1 1 == 1) Engine.familyRemoveDesc

/-! ### ADDITION_LOAD and ADDITION_RETIRE (R177, R178, R181) -/

/-- An addition directory entry as a first load opens it. -/
def Addition.fresh (family owner : Nat) : Addition :=
  { family := family, valid := true, currentValid := false, owner := owner, current := 0, records := [], retires := [] }

/-- Checks 1 to 6 of Table 7.6. -/
def Engine.additionCheck (e : Engine) (a v family owner rank size : Nat) : Option Nat :=
  let f := e.family family
  let held := (e.addition? a).filter (·.valid)
  if !f.servable || f.addUnitBytes = 0 then some Status.malformed
  else if rank = 0 || f.addMaxRank < rank || size ≠ ceilDiv (rank * f.addUnitBytes) 4096 then some Status.malformed
  else if !(e.tenant owner).enable then some Status.quota
  else match held with
    | none => none
    | some x =>
      if x.family ≠ family || x.owner ≠ owner then some Status.malformed
      else if x.records.any (fun r => r.version == v) then some Status.malformed
      else if 7 ≤ x.records.length then some Status.quota
      else none

/-- The lowest EMPTY record of an entry (log entry 23). -/
def Addition.emptyIndex (x : Addition) : Nat := ((List.range 7).find? fun i => !(x.records.any fun r => r.index == i)).getD 0

/-- A record in LOADING. -/
def VersionRec.loading (d : Staged) (index slot : Nat) : VersionRec :=
  { index := index, version := d.f 18 0 8, vstate := 1, srcT2 := d.f 20 1 1 == 1, inT0 := false, rebindReq := d.f 20 0 1 == 1, hostRetire := false,
    rank := d.f 38 0 8, size := d.f 32 0 32, source := BitVec.ofNat 64 (d.f 24 0 64), slot := some slot, bound := 0, lastUsed := 0,
    uses := [], ack := some (d.ring, d.pos), lost := false }

/-- ADDITION_LOAD. -/
def Engine.additionLoadDesc (d : Staged) (e : Engine) : Engine :=
  let a := d.f 16 0 16
  let v := d.f 18 0 8
  let family := d.f 19 0 8
  let owner := d.f 36 0 16
  let size := d.f 32 0 32
  match e.additionCheck a v family owner (d.f 38 0 8) size with
  | some st => e.ack d st
  | none => match e.placeVersion a v family owner size with
    | (false, _) => e.ack d Status.quota
    | (true, none) => e.ack d Status.noFit
    | (true, some (slot, e)) =>
      let x := ((e.addition? a).filter (·.valid)).getD (Addition.fresh family owner)
      let e := e.putAddition a { x with records := x.records ++ [VersionRec.loading d x.emptyIndex slot] }
      let e := match Table.get? e.var.slots slot with | some y => e.opsSlot slot y | none => e
      ((e.restage { d with phase := .waiting }).addJob (.addition a v false) (chunksOf (size * 4096))).nextLoadBurst

def execAdditionLoad (ring : BitVec 12) (s : State) : Host.Outcome State Fault Refusal :=
  s.cross Isl.pg (.additionLoad ring) fun e => e.decode ring.toNat (fun d => d.opcode == 0x10) Engine.additionLoadDesc

/-- ADDITION_RETIRE. -/
def Engine.additionRetireDesc (d : Staged) (e : Engine) : Engine :=
  let a := d.f 16 0 16
  let v := d.f 18 0 8
  let take := fun (vs : List Nat) => (e.restage { d with phase := .waiting }).retireVersions a vs (some (d.ring, d.pos))
  match (e.addition? a).filter (·.valid) with
  | none => e.ack d Status.malformed
  | some x =>
    if d.f 19 0 1 = 1 then take (x.records.map (·.version))
    else if x.records.any fun r => r.version == v && r.vstate != 4 && r.vstate != 5 then take [v]
    else e.ack d Status.malformed

def execAdditionRetire (ring : BitVec 12) (s : State) : Host.Outcome State Fault Refusal :=
  s.cross Isl.pg (.additionRetire ring) fun e => e.decode ring.toNat (fun d => d.opcode == 0x11) Engine.additionRetireDesc

/-! ### PREFIX_LOAD (R183, R186) -/

/-- One page of a prefix that is loading: an entry and a frame. -/
def Engine.prefixPage (e : Engine) (family : Nat) : Option (Nat × Engine) :=
  let c := (e.family family).cls
  match e.pgm.entries.take, e.bindFrame c with
  | some (p, f), some (t, k, e) =>
    let x : Page := { Page.blank with state := .inTransit, before := .full, tier := t, frame := k, holders := 1, cls := c, family := family }
    some (p, (({ e with pgm := { e.pgm with entries := f } } : Engine).opsBind p t c).putPage p x)
  | _, _ => none

/-- n pages of a prefix. -/
def Engine.prefixPages : Nat → Nat → Engine → Option (List Nat × Engine)
  | 0, _, e => some ([], e)
  | n + 1, family, e => match e.prefixPage family with
    | none => none
    | some (p, e) => (Engine.prefixPages n family e).map fun (ps, e) => (p :: ps, e)

/-- A prefix record in LOADING, with its pages. -/
def PrefixRec.loading (d : Staged) (pages : List Nat) : PrefixRec :=
  { family := d.f 20 0 8, state := 1, tenant := d.f 22 0 16, tokens := d.f 32 0 32, head := pages.headD 0, pages := pages, bound := 0,
    source := BitVec.ofNat 64 (d.f 24 0 64), srcT2 := d.f 21 0 1 == 1, lapse := none, resident := false, ack := some (d.ring, d.pos) }

/-- PREFIX_LOAD with a token count. -/
def Engine.prefixLoadDesc (d : Staged) (e : Engine) : Engine :=
  let p := d.f 16 0 20
  let family := d.f 20 0 8
  let f := e.family family
  let t := e.tenant (d.f 22 0 16)
  let n := ceilDiv (d.f 32 0 32) 32
  if f.state ≠ 2 then e.ack d Status.malformed
  else if !t.enable then e.ack d Status.quota
  else if Table.has e.var.prefixes p then e.ack d Status.malformed
  else if t.pquota ≠ 0 && t.pquota < t.pheld + n then e.ack d Status.quota
  else if (e.reservePages f.cls n n).isNone then e.ack d Status.noFit
  else match Engine.prefixPages n family e with
    | none => e.ack d Status.noFit
    | some (ps, e) =>
      let e : Engine := { e with var := { e.var with prefixes := Table.put e.var.prefixes p (PrefixRec.loading d ps) } }
      let e := (e.opsPrefix p family 1).addPheld (d.f 22 0 16) n true
      ((e.restage { d with phase := .waiting }).addJob (.learned p) n).nextLoadBurst

def execPrefixLoad (ring : BitVec 12) (s : State) : Host.Outcome State Fault Refusal :=
  s.cross Isl.pg (.prefixLoad ring) fun e => e.decode ring.toNat (fun d => d.opcode == 0x12 && d.f 32 0 32 != 0) Engine.prefixLoadDesc

/-- PREFIX_LOAD with token count 0. -/
def Engine.prefixRetireDesc (d : Staged) (e : Engine) : Engine :=
  let p := d.f 16 0 20
  if ((Table.get? e.var.prefixes p).map (·.state)) = some 2 then
    (e.restage { d with phase := .waiting }).retirePrefix p (some (d.ring, d.pos))
  else e.ack d Status.malformed

def execPrefixRetire (ring : BitVec 12) (s : State) : Host.Outcome State Fault Refusal :=
  s.cross Isl.pg (.prefixRetire ring) fun e => e.decode ring.toNat (fun d => d.opcode == 0x12 && d.f 32 0 32 == 0) Engine.prefixRetireDesc

/-! ### QUERY of the other kinds -/

/-- QUERY of kind 0x02 (R395). -/
def Engine.queryTenantDesc (d : Staged) (e : Engine) : Engine :=
  let t := d.f 20 0 16
  let x := e.tenant t
  let e := if x.enable && x.metered then e.refill t else e
  e.answerQuery d 64 (e.tenant t).image

def execQueryTenant (ring : BitVec 12) (s : State) : Host.Outcome State Fault Refusal :=
  s.cross Isl.sb (.queryTenant ring) fun e => e.decode ring.toNat (fun d => d.opcode == 0x30 && d.f 16 0 8 == 2) Engine.queryTenantDesc

/-- The 320 B of a family (R175); all zero when it is UNCONFIGURED. -/
def Engine.familyImage (e : Engine) (i : Nat) : Nat :=
  let f := e.family i
  let g := e.fitOf i
  if f.state = 0 then 0
  else
    f.block.toNat + place f.state 2048 3 + place (bit f.share) 2051 1 + place g.grade 2056 2 + place g.depth 2058 3 +
      place g.maxPos 2080 17 + place (ofSigned 32 (e.kappa i)) 2112 32 +
      place ((e.rafter.filter fun x => x.2.family == i && x.2.state != .free && x.2.state != .admitting).length) 2144 19 +
      place ((e.var.slots.filter fun x => x.2.family == i).length) 2176 14 + place (if g.grade = 2 then e.thinNs i else 0) 2208 32

/-- QUERY of kind 0x03. -/
def Engine.queryFamilyDesc (d : Staged) (e : Engine) : Engine := e.answerQuery d 320 (e.familyImage (d.f 20 0 8))

def execQueryFamily (ring : BitVec 12) (s : State) : Host.Outcome State Fault Refusal :=
  s.cross Isl.pg (.queryFamily ring) fun e => e.decode ring.toNat (fun d => d.opcode == 0x30 && d.f 16 0 8 == 3) Engine.queryFamilyDesc

/-- Image of a version record (Table 7.5). -/
def VersionRec.image (r : VersionRec) : Nat :=
  place r.version 0 8 + place r.vstate 8 3 + place (bit r.srcT2) 11 1 + place (bit r.inT0) 12 1 + place (bit r.rebindReq) 13 1 +
    place (bit r.hostRetire) 14 1 + place r.rank 16 8 + place r.size 32 32 + place r.source.toNat 64 64 +
    place (r.slot.getD 0) 128 13 + place (bit r.slot.isSome) 143 1 + place r.bound 160 19 + place r.lastUsed 192 32

/-- Image of an addition directory entry (Table 7.5). -/
def Addition.image (a : Nat) (x : Addition) : Nat :=
  place a 0 16 + place x.family 16 8 + place (bit x.valid) 24 1 + place (bit x.currentValid) 25 1 + place x.owner 32 16 +
    place x.current 48 8 + sumBy x.records fun r => r.image * 2 ^ (256 * (r.index + 1))

/-- QUERY of kind 0x04; an id never loaded has a zeroed entry (R380). -/
def Engine.queryAdditionDesc (d : Staged) (e : Engine) : Engine :=
  let a := d.f 20 0 16
  e.answerQuery d 256 (((e.addition? a).map (Addition.image a)).getD 0)

def execQueryAddition (ring : BitVec 12) (s : State) : Host.Outcome State Fault Refusal :=
  s.cross Isl.pg (.queryAddition ring) fun e => e.decode ring.toNat (fun d => d.opcode == 0x30 && d.f 16 0 8 == 4) Engine.queryAdditionDesc

/-- The 128 B of a ring (R396). -/
def Engine.ringImage (e : Engine) (event : Bool) (i : Nat) : Nat :=
  if event then
    let r := e.evt i
    (if r.enabled then r.ctx.toNat else 0) + place r.hostHead 512 16 + place r.tail 528 16 + place (bit r.enabled) 544 1 +
      place (bit r.phase) 545 1 + place (bit r.stalled) 546 1 + place (bit (e.ringBusy true i)) 547 1 + place r.bound 576 18 +
      place (r.bound + r.ackRes + r.tokRes) 608 17
  else
    let r := e.sub i
    (if r.enabled then r.ctx.toNat else 0) + place r.head 512 16 + place r.tail 528 16 + place (bit r.enabled) 544 1 +
      place (bit (e.ringBusy false i)) 547 1 + place (e.sharedOf i + if i = 0 then e.reserveUsed else 0) 576 14

/-- QUERY of kind 0x05. -/
def Engine.queryRingDesc (d : Staged) (e : Engine) : Engine :=
  let t := d.f 20 0 32
  e.answerQuery d 128 (e.ringImage (decide (4096 ≤ t)) (t % 4096))

def execQueryRing (ring : BitVec 12) (s : State) : Host.Outcome State Fault Refusal :=
  s.actIn Isl.hi fun e => e.decode ring.toNat (fun d => d.opcode == 0x30 && d.f 16 0 8 == 5) Engine.queryRingDesc

/-! ### FENCE (R39) -/

def execFence (ring : BitVec 12) (s : State) : Host.Outcome State Fault Refusal :=
  s.cross Isl.sb (.fence ring) fun e => e.decode ring.toNat (fun d => d.opcode == 0x3F && d.f 16 0 1 == 0) fun d e => e.ack d Status.ok

/-- A FENCE with BOUNDARY waits for the first boundary that opens after its decode to close. -/
def execFenceBoundary (ring : BitVec 12) (s : State) : Host.Outcome State Fault Refusal :=
  s.cross Isl.sb (.fenceBoundary ring) fun e => e.decode ring.toNat (fun d => d.opcode == 0x3F && d.f 16 0 1 == 1) fun d e =>
    e.restage { d with phase := .fenced false }

/-- A boundary opens: the fences decoded before it are armed. -/
def Engine.armFences (e : Engine) : Engine :=
  { e with hru := { e.hru with staging := e.hru.staging.map fun d => match d.phase with
      | .fenced _ => { d with phase := .fenced true } | _ => d } }

/-- A boundary closes: the fences it armed complete. -/
def Engine.endFences (e : Engine) : Engine :=
  (e.hru.staging.filter fun d => d.phase == .fenced true).foldl (fun e d => e.ack d Status.ok) e

end Sys2Proof.Machine
end

