-- ==== Sys2Proof/Machine/Composer.lean ====
section
/-!
DEFINITION. Machine/Composer.lean: the yealm composer up to sealing: projected counters, readiness, limits, BULK fill,
shedding, courses and the price of a yealm (R110 to R124, R359).
-/

namespace Sys2Proof.Machine

/-! ### Drafts and their steps (R22, R25, R113) -/

/-- The newest step whose boundary has closed. -/
def Engine.closedTo (e : Engine) : Nat := max e.stepNo 1 - 1

/-- The newest sealed yealm: the one that waits, or the one in compute. -/
def Engine.newest (e : Engine) : Option Yealm := e.ylm.next.orElse fun _ => e.ylm.current

/-- Step of the next yealm to draft. -/
def Engine.draftStep (e : Engine) : Nat := match e.newest with
  | some y => y.step + 1
  | none => e.closedTo + 1

/-- Do a request's own counters fit the work a member does (R25, R113)? A decode member's may stand further on, by the guesses
of the step before (R212). -/
def Member.suits (m : Member) (r : Rafter) : Bool :=
  r.handle == m.handle &&
    (match m.kind with
     | 0 => decide (m.start ≤ r.kvEnd ∧ r.kvEnd ≤ m.start + 4) && r.seqEnd == r.kvEnd + 1
     | 1 => r.kvEnd == m.start && decide (m.start + m.count < r.seqEnd)
     | _ => r.kvEnd == m.start && m.start + m.count == r.seqEnd)

/-- Does a member sealed and not yet begun face a request that will not run it? -/
def Engine.willVacate (e : Engine) (m : Member) : Bool :=
  match e.req? m.slot with
  | none => true
  | some r => m.vacated || !(r.state.running || r.state == .cancelling) || !m.suits r

/-- The member by which the yealm before serves a request, unless it is vacated there. -/
def Engine.servedBefore (e : Engine) (slot : Nat) : Option Member :=
  (e.newest.bind fun y => y.members.find? fun m => m.slot == slot).filter fun m =>
    !(if e.ylm.next.isNone then m.vacated else e.willVacate m)

/-- Projected KV_END and SEQ_END of a request (R113). -/
def Engine.projected (e : Engine) (slot : Nat) (r : Rafter) : Nat × Nat :=
  match e.servedBefore slot with
  | none => (r.kvEnd, r.seqEnd)
  | some m =>
    (r.kvEnd + (if m.kind = 0 then 1 else m.count),
      (if e.ylm.next.isNone then m.seqStart else r.seqEnd) + (if m.kind = 1 then 0 else 1))

/-! ### Members of a draft -/

/-- Draws a member yields (R112). -/
def Member.draws (m : Member) : Nat := match m.kind with
  | 0 => 1 + m.spec
  | 2 => 1
  | _ => 0

/-- Records one draw may need on the event ring (R53). -/
def Rafter.recordsPerDraw (r : Rafter) : Nat := 1 + ceilDiv r.logprobN 2

/-- KV pages a member touches. -/
def Member.touches (m : Member) : Nat := ceilDiv (m.start + m.count) 32

def positionsOf (ms : List Member) : Nat := sumBy ms (·.count)

def inFamily (ms : List Member) (f : Nat) : List Member := ms.filter fun m => m.family == f

def familiesOf (ms : List Member) : List Nat := (ms.map (·.family)).eraseDups

/-- Segments a family's members need: one a distinct slot, one for the null addition (R117). -/
def segmentKeys (ms : List Member) : List (Option (Nat × Nat × Nat)) := (ms.map (·.addition)).eraseDups

/-- Courses a draft takes, split courses each (R117). -/
def coursesOf (ms : List Member) : Nat := sumBy (familiesOf ms) fun f => ceilDiv (segmentKeys (inFamily ms f)).length 1024

/-- The load of members in one family (R99). -/
def memberLoad (ms : List Member) (f : Nat) : Load :=
  let l := inFamily ms f
  { d := sumBy (l.filter fun m => m.kind == 0) (·.count), p := sumBy (l.filter fun m => m.kind != 0) (·.count),
    k := sumBy l Member.touches, a := ((segmentKeys l).filter (·.isSome)).length }

/-- T̂ of members (R99). -/
def Engine.predictMembers (e : Engine) (ms : List Member) : Nat :=
  e.predict ((familiesOf ms).map fun f => (f, memberLoad ms f))

/-- Logits of members' draws (R116). -/
def Engine.logitsOf (e : Engine) (ms : List Member) : Nat := sumBy ms fun m => m.draws * (e.family m.family).vocab

/-! ### Readiness (R111, R112, R114, R388) -/

/-- Grade, depth and maximum of a family for this draft (R123). -/
def Engine.draftFit (e : Engine) (f : Nat) : Fit := Table.getD e.ylm.draftFits f Fit.none

/-- Table 5.2: may a member join? -/
def Engine.withinLimits (e : Engine) (ms : List Member) (m : Member) : Bool :=
  let fit := e.draftFit m.family
  let own := inFamily ms m.family
  decide (0 < m.count) && decide (ms.length < 16384) && decide (positionsOf ms + m.count ≤ 65536) &&
    decide (positionsOf own + m.count ≤ fit.maxPos) && decide (own.length < min fit.maxPos 16384) &&
    decide (coursesOf (ms ++ [m]) ≤ 64)

/-- The work a request would do in a draft (R112): a chunk is shortened only to the room left, to a multiple of 32. -/
def Engine.placeMember (e : Engine) (ms : List Member) (slot : Nat) (r : Rafter) : Member :=
  let (kv, sq) := e.projected slot r
  let gap := sq - kv
  let decode := decide (gap ≤ 1)
  let room := min (65536 - positionsOf ms) ((e.draftFit r.family).maxPos - positionsOf (inFamily ms r.family))
  let spec := if decode && e.flag Fld.ylmCtlSpecEn then r.specDepth else 0
  let whole := if decode then 1 + spec else min 2048 gap
  let count := if decode || decide (whole ≤ room) then whole else room / 32 * 32
  let kind := if decode then 0 else if count = gap then 2 else 1
  let slotOfAdd := if r.addValid then (e.versionSlot r.addition r.version).map fun s => (r.addition, r.version, s) else none
  let m : Member :=
    { handle := r.handle, slot := slot, family := r.family, cls := r.cls, kind := kind, spec := spec, start := kv, count := count,
      addition := slotOfAdd, pageHead := r.pageHead, pageCount := r.pageCount, seed := r.seed, order := ms.length, firstPos := 0,
      segment := 0, vacated := false, deferred := false, baseOnly := false, failed := false, ringRes := 0, seqStart := sq,
      accepted := 0, emitted := false, pins := [], firstDraw := 0, advance := 0, projected := (e.servedBefore slot).isSome, guesses := [], delivered := 0 }
  { m with ringRes := m.draws * r.recordsPerDraw }

/-- End of the positions a member may write: a decode member's next ADVANCE reaches up to 4 further (R212). -/
def Member.pageEnd (m : Member) (r : Rafter) : Nat :=
  let last := m.start + max 1 m.count
  if m.kind = 0 then max last (min (last + 4) r.endPos) else last

/-- Entries a draft's members reserve on a ring. -/
def Engine.ringNeed (e : Engine) (ms : List Member) (ring : Nat) : Nat :=
  sumBy (ms.filter fun m => ((e.req? m.slot).map (·.eventRing)) == some ring) (·.ringRes)

/-- Tokens of a prefill chunk that are known, in order: its COMPUTE inputs (R244). -/
def Engine.chunkTokens (e : Engine) (m : Member) : List Nat :=
  match e.req? m.slot with
  | none => []
  | some r => if m.kind = 0 then [] else (((List.range m.count).map fun i => r.tokenAt (m.start + i)).takeWhile (·.isSome)).filterMap id

/-- Records of a member's COMPUTE inputs, five tokens each, where a group is owed them. -/
def Engine.inputRecords (e : Engine) (m : Member) : Nat := if e.leadsGroup then ceilDiv (e.chunkTokens m).length 5 else 0

/-- Records that an OPS message holds at most (R244). -/
def opsRoom : Nat := 16384

/-- Would the changes that a member brings, pages bound and inputs, take the OPS message beyond 512 KiB with those of the draft (R244)? -/
def Engine.opsOverflow (e e' : Engine) (ms : List Member) (m : Member) : Bool :=
  let own := e'.mdv.opsDue.length - e.mdv.opsDue.length + e'.inputRecords m
  own != 0 && decide (opsRoom < e.mdv.opsDue.length + sumBy ms e.inputRecords + own)

/-- Tests a request against Table 5.1, in the order of its rows; the first that fails is counted (R388). A group's manager
also defers a member whose changes would take the OPS message beyond 512 KiB (R244). -/
def Engine.tryMember (e : Engine) (ms : List Member) (slot : Nat) (r : Rafter) : Option Member × Engine :=
  let m := e.placeMember ms slot r
  let (up, e') := e.confirmPages slot (m.pageEnd r - 1)
  if e.opsOverflow e' ms m then (none, e.bump Cnt.mdvOpsDefer)
  else
    let e := e'
    let r := (e.req? slot).getD r
    let m := { m with pageHead := r.pageHead, pageCount := r.pageCount }
    let state := (e.family r.family).state
    if !up then (none, e.bump Cnt.ylmDeferPage)
    else if r.addValid && !e.residentVersion r.addition r.version then
      (none, (e.wantReload r.addition r.version 2).bump Cnt.ylmDeferAdd)
    else if e.ringFree r.eventRing < e.ringNeed ms r.eventRing + m.ringRes then (none, e.bump Cnt.ylmDeferRing)
    else if !((state == 2 || state == 4) && (e.draftFit r.family).grade != 3) || !e.withinLimits ms m then
      (none, e.bump Cnt.ylmDeferLimit)
    else (some m, e)

/-- Has a request a passed deadline (R75)? -/
def Engine.overdue (e : Engine) (r : Rafter) : Bool := e.flag Fld.sbCtlDeadlineEn && (r.passedDeadline e.us).isSome

/-- May a request be drafted at all (R23, R110)? -/
def Engine.draftable (e : Engine) (r : Rafter) : Bool := r.state.running && !r.pausePending && !e.overdue r

/-! ### Composition (R110, R115) -/

/-- A committed class, taken whole in list order. -/
def Engine.takeClass (e : Engine) (cls : Nat) (ms : List Member) : List Member × Engine :=
  (e.readyList cls).foldl (fun (acc : List Member × Engine) s =>
    match acc.2.req? s with
    | none => acc
    | some r =>
      if !acc.2.draftable r then acc
      else match acc.2.tryMember acc.1 s r with
        | (some m, e) => (acc.1 ++ [m], e)
        | (none, e) => (acc.1, e)) (ms, e)

/-- Pacing debt of a BULK request (R115). -/
def Rafter.debt (r : Rafter) (step : Nat) : Nat := step - (if r.lastServed = 0 then r.admitStep else r.lastServed)

/-- A list turned to start at the first request that does not stand before the cursor. -/
def Engine.fromCursor (e : Engine) (l : List Nat) : List Nat :=
  match e.ylm.cursor with
  | none => l
  | some c => if (e.req? c).isNone then l
    else l.dropWhile (fun s => e.readyOrder s c) ++ l.takeWhile (fun s => e.readyOrder s c)

/-- Bulk order: the aged requests, then the rest from the cursor (R115). -/
def Engine.bulkOrder (e : Engine) : List Nat :=
  let aged := fun (s : Nat) => match e.req? s with
    | some r => decide (e.get Fld.ylmBulkAgeSteps ≤ r.debt e.draftStep)
    | none => false
  (e.ready2.filter aged) ++ e.fromCursor (e.ready2.filter fun s => !aged s)

/-- bulk_limit() in ns: the lesser of YLM_STEP_CAP and the committed ceiling as it stands. -/
def Engine.bulkLimit (e : Engine) : Nat := 1000 * (match e.ceiling with
  | none => e.get Fld.ylmStepCapUs
  | some c => min c (e.get Fld.ylmStepCapUs))

/-- The fill: members, the request that stopped it, the last one tested, and the engine. -/
def Engine.fillBulk : List Nat → List Member → Option Nat → Engine → List Member × Option Nat × Option Nat × Engine
  | [], ms, last, e => (ms, none, last, e)
  | s :: l, ms, last, e =>
    match e.req? s with
    | none => Engine.fillBulk l ms last e
    | some r =>
      if !e.draftable r then Engine.fillBulk l ms last e
      else match e.tryMember ms s r with
        | (none, e) => Engine.fillBulk l ms (some s) e
        | (some m, e) =>
          if e.bulkLimit < e.predictMembers (ms ++ [m]) then (ms, some s, some s, e)
          else Engine.fillBulk l (ms ++ [m]) (some s) e

/-- The request after one in the BULK ready list. -/
def Engine.afterBulk (e : Engine) (s : Nat) : Option Nat := ((e.ready2.dropWhile (· != s)).drop 1).head?

/-- BULK fills what remains, unless the engine is overcommitted (R106, R115); the request that stopped the fill. -/
def Engine.takeBulk (e : Engine) (ms : List Member) : List Member × Option Nat × Engine :=
  if e.adm.overcommit then (ms, none, e)
  else
    let (ms, stop, last, e) := Engine.fillBulk e.bulkOrder ms none e
    let cursor := match stop, last with
      | some s, _ => some s
      | none, some s => e.afterBulk s
      | none, none => e.ylm.cursor
    (ms, stop, { e with ylm := { e.ylm with cursorNext := cursor } })

/-! ### Shedding (R116, Table 5.3) -/

/-- A member without speculation. -/
def Member.plain (m : Member) : Member :=
  if m.kind = 0 then { m with spec := 0, count := 1, ringRes := m.ringRes / (1 + m.spec) } else m

/-- d set to 0 for every member of a class. -/
def plainClass (cls : Nat) (ms : List Member) : List Member := ms.map fun m => if m.cls == cls then m.plain else m

/-- Does any member of a class speculate? -/
def speculates (cls : Nat) (ms : List Member) : Bool := ms.any fun m => m.cls == cls && m.spec != 0

/-- Removes the BULK member added last. -/
def dropLastBulk (ms : List Member) : List Member :=
  match (ms.filter fun m => m.cls == 2).foldl (fun (b : Option Member) m => match b with
      | none => some m
      | some x => if x.order < m.order then some m else b) none with
  | none => ms
  | some x => ms.filter fun m => m.order != x.order

/-- SMP_LANES.ACTIVE: 16 lanes in every group not retired, and four for each active spar core, the lesser (R216, R217, R230). -/
def Engine.lanesActive (e : Engine) : Nat :=
  let retired := (e.smp.groups.filter fun g => g.2.retired).length
  let cores := (e.spg.cores.filter fun c => c.2.active).length
  min (1024 - 16 * retired) (4 * cores)

/-- Is a draft within the logit budget (R116)? -/
def Engine.logitsFit (e : Engine) (ms : List Member) : Bool :=
  decide (e.logitsOf ms * 1024 ≤ 1228800 * (e.predictMembers ms / 1000) * e.lanesActive)

/-- Removes BULK members until the draft fits; each removal is counted. -/
def Engine.shedBulk : Nat → List Member → Engine → List Member × Engine
  | 0, ms, e => (ms, e)
  | n + 1, ms, e =>
    if e.logitsFit ms || !(ms.any fun m => m.cls == 2) then (ms, e)
    else Engine.shedBulk n (dropLastBulk ms) (e.bump Cnt.ylmSpecShed)

/-- The order of R116. YLM_CNT_SPEC_SHED counts one for each class whose speculation is shed and one for each BULK member removed
(log entry 34). -/
def Engine.shedSpeculation (e : Engine) (ms : List Member) : List Member × Engine :=
  let stage := fun (acc : List Member × Engine) (cls : Nat) =>
    if acc.2.logitsFit acc.1 || !speculates cls acc.1 then acc
    else (plainClass cls acc.1, acc.2.bump Cnt.ylmSpecShed)
  let (ms, e) := [2, 1, 0].foldl stage (ms, e)
  Engine.shedBulk ms.length ms e

/-! ### Price (R359) -/

/-- The price of members in credits. -/
def Engine.priceOf (e : Engine) (ms : List Member) : Nat :=
  let w := sumBy (familiesOf ms) fun f => (e.family f).layers * (e.family f).layerBytes
  let k := sumBy ms fun m => m.pageCount * (e.family m.family).pageBytes
  e.credits (e.energy 0 * e.predictMembers ms * 1000 + e.energy 1 * e.logitsOf ms + e.energy 2 * (w + k))

/-- Pacing margin of a committed member (R124), in µs against a step's end; none is infinite. -/
def Engine.margin (e : Engine) (m : Member) (endUs : Nat) : Option Int :=
  match e.req? m.slot with
  | none => none
  | some r =>
    let d := if r.firstEmitted then r.nextDl else r.ttft
    if d = 0 then none else some ((d : Int) - endUs)

/-- Does a member go before another: the larger margin, then the higher slot? -/
def Engine.shedsFirst (e : Engine) (endUs : Nat) (a b : Member) : Bool :=
  match e.margin a endUs, e.margin b endUs with
  | none, none => decide (b.slot < a.slot)
  | none, some _ => true
  | some _, none => false
  | some x, some y => decide (y < x) || (x == y && decide (b.slot < a.slot))

/-- Removes one member of a class, as Table 5.3 picks it. -/
def Engine.shedOne (e : Engine) (cls : Nat) (ms : List Member) : List Member :=
  if cls = 2 then dropLastBulk ms
  else
    let endUs := (e.stepEndNs + e.predictMembers ms) / 1000
    match sortBy (e.shedsFirst endUs) (ms.filter fun m => m.cls == cls) with
    | [] => ms
    | x :: _ => ms.filter fun m => m.order != x.order

/-- Sheds members of a class until the price is within an offer. -/
def Engine.shedMembers (offer cls : Nat) : Nat → List Member → Engine → List Member × Engine
  | 0, ms, e => (ms, e)
  | n + 1, ms, e =>
    if e.priceOf ms ≤ offer || !(ms.any fun m => m.cls == cls) then (ms, e)
    else Engine.shedMembers offer cls n (e.shedOne cls ms) (e.bump Cnt.ylmShedLeave)

/-- Table 5.3. -/
def Engine.shedLeave (e : Engine) (offer : Nat) (ms : List Member) : List Member × Engine :=
  let plain := fun (cls : Nat) (acc : List Member × Engine) =>
    if acc.2.priceOf acc.1 ≤ offer then acc else (plainClass cls acc.1, acc.2)
  let members := fun (cls : Nat) (acc : List Member × Engine) => Engine.shedMembers offer cls acc.1.length acc.1 acc.2
  members 0 (members 1 (plain 0 (plain 1 (members 2 (plain 2 (ms, e))))))

/-! ### Courses and the gather map (R117 to R120) -/

/-- Order of members within a course (R118). -/
def memberBefore (a b : Member) : Bool :=
  match a.addition, b.addition with
  | none, none => decide (a.slot < b.slot)
  | none, some _ => true
  | some _, none => false
  | some (x, v, _), some (y, w, _) =>
    decide (x < y) || (x == y && (decide (v < w) || (v == w && decide (a.slot < b.slot))))

/-- Families in course order: most logits first, then the lower id. -/
def Engine.courseOrder (e : Engine) (ms : List Member) : List Nat :=
  sortBy (fun a b =>
    let x := e.logitsOf (inFamily ms a)
    let y := e.logitsOf (inFamily ms b)
    decide (y < x) || (x == y && decide (a < b))) (familiesOf ms)

/-- Runs of members with the same addition slot. -/
def runsOf : List Member → List (List Member)
  | [] => []
  | m :: ms => match runsOf ms with
    | [] => [[m]]
    | r :: rs => if (r.head?.map (·.addition)) == some m.addition then (m :: r) :: rs else [m] :: r :: rs

/-- Pieces of at most n elements. -/
def chunkList {α : Type} (n : Nat) : Nat → List α → List (List α)
  | 0, _ => []
  | fuel + 1, l => if l.isEmpty then [] else l.take n :: chunkList n fuel (l.drop n)

/-- What a layout has numbered so far. -/
structure Layout where
  members  : List Member
  segments : List Segment
  courses  : List Course
  pos      : Nat
  draw     : Nat

/-- One run as a segment: its members take their positions and draws in order (R119). -/
def Layout.segment (l : Layout) (run : List Member) : Layout :=
  let k := l.segments.length
  let add := run.head?.bind (·.addition)
  let seg : Segment := { slot := (add.map fun a => a.2.2).getD 0, null := add.isNone, members := run.length, firstPos := l.pos }
  run.foldl (fun l m =>
    { l with members := l.members ++ [{ m with firstPos := l.pos, segment := k, firstDraw := l.draw }], pos := l.pos + m.count,
             draw := l.draw + m.draws }) { l with segments := l.segments ++ [seg] }

/-- One split course of a family. -/
def Layout.course (l : Layout) (family split bank : Nat) (fit : Fit) (predNs : Nat) (runs : List (List Member)) : Layout :=
  let l' := runs.foldl Layout.segment l
  let c : Course :=
    { family := family, split := split, grade := fit.grade, depth := fit.depth, bank := bank, firstMember := l.members.length,
      members := l'.members.length - l.members.length, firstSegment := l.segments.length,
      segments := l'.segments.length - l.segments.length, firstPos := l.pos, positions := l'.pos - l.pos, draws := l'.draw - l.draw,
      firstDraw := l.draw, predNs := if split = 0 then predNs else 0 }
  { l' with courses := l'.courses ++ [c] }

/-- The courses of a family, with the bank of their first split (R120). -/
def Engine.layFamily (e : Engine) (ms : List Member) (l : Layout) (f : Nat) : Layout :=
  let own := sortBy memberBefore (inFamily ms f)
  let pieces := chunkList 1024 own.length (runsOf own)
  let bank := l.courses.length % 2
  (pieces.zipIdx).foldl (fun l (runs, i) => l.course f i bank (e.draftFit f) (e.adjNs f (memberLoad ms f)) runs) l

/-- The yealm of members: courses, segments, positions and draws (R117 to R119). -/
def Engine.arrange (e : Engine) (step : Nat) (ms : List Member) : Yealm :=
  let l := (e.courseOrder ms).foldl (e.layFamily ms) { members := [], segments := [], courses := [], pos := 0, draw := 0 }
  { step := step, mode := e.get Fld.ylmCtlMode, members := l.members, courses := l.courses, segments := l.segments,
    positions := l.pos, draws := l.draw, epoch := BitVec.ofNat 32 (e.get Fld.spgEpochValue), sealTime := e.now,
    predNs := e.predictMembers ms, credits := 0, digest := 0, waited := none }

/-! ### The draft (R22, R110) -/

/-- Composes the draft anew from the ready lists; the answer names the BULK request that stopped the fill. -/
def Engine.composeAll (e : Engine) : Option Nat × Engine :=
  let e : Engine := { e with ylm := { e.ylm with cursorNext := e.ylm.cursor } }
  let (ms, e) := e.takeClass 0 []
  let (ms, e) := e.takeClass 1 ms
  let (ms, stop, e) := e.takeBulk ms
  let (ms, e) := e.shedSpeculation ms
  (stop, { e with ylm := { e.ylm with draft := some (e.arrange e.draftStep ms) } })

def Engine.compose (e : Engine) : Engine := e.composeAll.2

/-- Grades as a draft finds them (R123, R129): with MODE at SERVICE again, lowered families take back theirs. -/
def Engine.freezeFits (e : Engine) : Engine :=
  let lowered := if e.get Fld.ylmCtlMode = 0 then [] else e.ylm.lowered
  let e : Engine := { e with ylm := { e.ylm with lowered := lowered } }
  { e with ylm := { e.ylm with draftFits := e.ylm.fits.map fun x => (x.1, e.fitOf x.1) } }

/-- A draft begins once the boundary two steps before it has closed and the yealm before it is sealed (R22). A worker or a
standby drafts nothing (R239). -/
def Engine.beginDraft (e : Engine) : Engine :=
  if e.glb.opened && !e.follows && e.ylm.draft.isNone && !e.ylm.composing && e.draftStep ≤ e.closedTo + 2 then e.freezeFits.compose
  else e

/-! ### The seal point (R23, R124) -/

/-- BULK members of a draft, in fill order. -/
def Yealm.bulkSlots (y : Yealm) : List Nat :=
  (sortBy (fun (a b : Member) => decide (a.order < b.order)) (y.members.filter fun m => m.cls == 2)).map Member.slot

/-- The finishing pass: the draft is made again; BULK members that the new limit or OVERCOMMIT removes set the cursor, and those
beyond the limit are counted (Table 5.8). -/
def Engine.finishDraft (e : Engine) : Engine :=
  let before := (e.ylm.draft.map Yealm.bulkSlots).getD []
  let order := e.bulkOrder
  let (stop, e) := e.composeAll
  let beyond := if e.adm.overcommit then order else match stop with
    | some s => order.dropWhile (· != s)
    | none => []
  let gone := before.filter beyond.contains
  let e := if e.adm.overcommit then e else e.bumpBy Cnt.ylmDeferLimit gone.length
  match gone with
  | [] => e
  | s :: _ => { e with ylm := { e.ylm with cursorNext := some s } }

/-- Asks leave for the draft's members (R124). -/
def Engine.askStepLeave (e : Engine) (y : Yealm) : Engine :=
  let (tag, e) := e.askLeave false 1 (e.priceOf y.members) (.step y.step)
  { e with ylm := { e.ylm with leaveWait := true, leaveTag := tag } }

end Sys2Proof.Machine
end

