-- ==== Sys2Proof/Machine/Manifest.lean ====
section
/-!
DEFINITION. Machine/Manifest.lean: sealing of a yealm, and delivery of its manifest to the tile sequencers and the group
(R23 to R25, R53, R125, R135, R136, R244).
-/

namespace Sys2Proof.Machine

/-! ### Delivery (R135, R136, R244) -/

/-- Emits a sealed manifest to the tile sequencers; its acknowledgement is awaited. -/
def Engine.emitManifest (e : Engine) (y : Yealm) : Engine :=
  ({ e with ylm := { e.ylm with mfStep := some y.step, mfDelivered := false } } : Engine).emit (.manifest y.step (e.manifestBytes y))

/-- Records that belong to one: the block of a FAMILY record, the parameter block and bias store of a REQ_OPEN (Table 10.6). -/
def opsFollowers (x : BitVec 256) : Nat :=
  match bitsOf x.toNat 0 8 with
  | 0x08 => if bitsOf x.toNat 16 1 = 1 then 0 else 8
  | 0x0B => 20
  | _ => 0

/-- The records that go into an OPS message with some room left, and those that wait for the next packet; `open_` counts records that belong
to one taken already. What no deferral could keep below 512 KiB waits (log entry 52). -/
def packetSplit : Nat → Nat → List (BitVec 256) → List (BitVec 256) × List (BitVec 256)
  | _, _, [] => ([], [])
  | room, open_, x :: l =>
    let follow := if open_ = 0 then opsFollowers x else open_ - 1
    if room ≤ follow then ([], x :: l)
    else
      let (now, later) := packetSplit (room - 1) follow l
      (x :: now, later)

/-- The step packet: one OPS message and one MANIFEST message to every rank below. -/
def Engine.sendPacket (e : Engine) (y : Yealm) : Engine :=
  if !e.leadsGroup then e
  else
    let (now, later) := packetSplit opsRoom 0 e.mdv.opsDue
    let e := (e.send 0x10 0xFFFF y.step (opsBody now)).send 0x11 0xFFFF y.step (e.manifestBytes y)
    ({ e with mdv := { e.mdv with opsDue := later } } : Engine).bump Cnt.mdvPkt

/-! ### Sealing (R23 to R25, R53, R72, R129) -/

/-- Does a draft member stay at sealing (R23, R74)? Its request runs and is due, its pages are up and its slot stands. One placed from
its own counters must still fit its work; one that the yealm before serves stays, whatever that yealm made of its counters: R113 gives it
ADVANCE, or vacates it as the step begins. A member whose pages leave T0 and T1 between the seal point and the grant goes with no
deferral counted (log entry 51). -/
def Engine.stays (e : Engine) (m : Member) : Bool :=
  match e.req? m.slot with
  | none => false
  | some r =>
    let (kv, sq) := e.projected m.slot r
    let fits := if m.kind = 0 then decide (sq ≤ kv + 1) else if m.kind = 2 then m.start + m.count == sq else decide (m.start + m.count < sq)
    r.handle == m.handle && e.draftable r && (m.projected || (kv == m.start && fits)) && e.listUp m.slot &&
      !(m.cls == 2 && e.adm.overcommit) &&
      (match m.addition with
       | none => !r.addValid
       | some (a, v, s) => r.addValid && r.addition == a && r.version == v && e.versionSlot a v == some s && e.residentVersion a v)

/-- The members whose event rings can still reserve what they may write (R53), in the draft's order. -/
def Engine.withRing (e : Engine) (ms : List Member) : List Member :=
  ms.foldl (fun kept m => match e.req? m.slot with
    | none => kept
    | some r => if e.ringFree r.eventRing < e.ringNeed kept r.eventRing + m.ringRes then kept else kept ++ [m]) []

/-- COMPUTE records for the tile inputs of a prefill chunk, as far as its tokens are known (R244). -/
def Engine.opsChunk (e : Engine) (m : Member) : Engine :=
  let ts := e.chunkTokens m
  Engine.opsInput m.handle.toNat 1 ts.length m.start ts e

/-- One member is sealed: pages pinned, ring entries reserved, its request's state and LAST_SERVED_STEP. -/
def Engine.sealMember (e : Engine) (step : Nat) (m : Member) : Member × Engine :=
  match e.req? m.slot with
  | none => (m, e)
  | some r =>
    let pins := (e.primaries m.slot).eraseDups
    let e : Engine := pins.foldl Engine.pinPage e
    let ring := e.evt r.eventRing
    let e := e.putEvt r.eventRing { ring with tokRes := ring.tokRes + m.ringRes }
    let state := if m.kind = 0 then ReqState.decode else ReqState.prefill
    let e := e.modReq m.slot fun r => { r with state := state, lastServed := step }
    ({ m with pins := pins }, e.opsChunk m)

/-- Every member, in order. -/
def Engine.sealMembers (step : Nat) : List Member → Engine → List Member × Engine
  | [], e => ([], e)
  | m :: ms, e =>
    let (m, e) := e.sealMember step m
    let (ms, e) := Engine.sealMembers step ms e
    (m :: ms, e)

/-- RECOVERY counts the yealms sealed in it (R129). -/
def Engine.countRecovery (e : Engine) : Engine :=
  if e.get Fld.ylmCtlMode = 3 then { e with ylm := { e.ylm with recoverLeft := e.ylm.recoverLeft - 1 } } else e

/-- Seals the draft with the credits granted: what has left it is dropped, and an emptied yealm releases its grant (R125). -/
def Engine.sealYealm (e : Engine) (credits : Nat) (tag : Option Nat) : Engine :=
  match e.ylm.draft with
  | none => e
  | some d =>
    let members := sortBy (fun (a b : Member) => decide (a.order < b.order)) d.members
    let standing := members.filter e.stays
    let kept := e.withRing standing
    let e := e.bumpBy Cnt.ylmDeferRing (standing.length - kept.length)
    let bulkGone := (members.filter fun m => m.cls == 2 && e.adm.overcommit && !e.stays m).map Member.slot
    let cursor := match bulkGone with | s :: _ => some s | [] => e.ylm.cursorNext
    let e : Engine := { e with ylm := { e.ylm with cursor := cursor } }
    let e : Engine := match tag with
      | some t => if kept.isEmpty then e.endGrant false t else e
      | none => e
    let y := e.arrange d.step kept
    let (ms, e) := Engine.sealMembers y.step y.members e
    let slots := (ms.filterMap fun m => m.addition.map fun a => a.2.2).eraseDups
    let e : Engine := slots.foldl (fun e s => e.useSlot y.step s) e
    let y := { y with members := ms, credits := if ms.isEmpty then 0 else credits }
    let y := { y with digest := crc64 (e.manifestBody y) }
    let depth := e.get Fld.fltJrnlDepthN
    let archive := Table.keep (Table.put e.ylm.archive y.step y) fun k _ => decide (y.step < k + depth + 2)
    let e : Engine :=
      { e with ylm := { e.ylm with draft := none, next := some y, composing := false, leaveWait := false, archive := archive,
                                   composeNs := e.now - e.ylm.sealPointAt, mfRetried := false, mfFailures := 0 } }
    (((e.countRecovery.bump Cnt.ylmSealed).sendPacket y).emitManifest y).beginDraft

/-- The composer asks leave for what the draft holds now, or seals it empty (R23, R125). -/
def Engine.askOrSeal (e : Engine) : Engine :=
  match e.ylm.draft with
  | none => e
  | some y => if y.members.isEmpty then e.sealYealm 0 none else e.askStepLeave y

/-- A manifest that the archive of a manager gone holds for the step is sealed as it stands (R277, step 2). -/
def Engine.sealArchived (e : Engine) (y : Yealm) : Engine :=
  ({ e with ylm := { e.ylm with draft := none, next := some y, mfRetried := false, mfFailures := 0 } } : Engine).emitManifest y

/-- The seal point of the next yealm (R23). -/
def Engine.sealPoint (e : Engine) : Engine :=
  if e.follows || e.ylm.next.isSome || e.ylm.composing || e.err.fatal then e
  else match Table.get? e.ylm.archive e.draftStep with
  | some y => e.sealArchived y
  | none =>
    let e := if e.ylm.draft.isNone then e.freezeFits else e
    let e := e.finishDraft
    ({ e with ylm := { e.ylm with composing := true, sealPointAt := e.now } } : Engine).askOrSeal

/-- The leave for a step is granted: the draft is sealed with it. -/
def Engine.stepGranted (e : Engine) (tag cred : Nat) : Engine :=
  if e.ylm.composing && e.ylm.leaveWait && e.ylm.leaveTag == tag then e.sealYealm cred (some tag) else e.endGrant false tag

/-- The leave for a step is refused: the composer sheds to the offer and asks again (R124). -/
def Engine.stepRefused (e : Engine) (tag offer : Nat) : Engine :=
  if e.ylm.composing && e.ylm.leaveWait && e.ylm.leaveTag == tag then
    match e.ylm.draft with
    | none => e
    | some y =>
      let e := e.log Ev.leaveRefused [y.step, offer]
      let (ms, e) := e.shedLeave offer y.members
      let e : Engine := { e with ylm := { e.ylm with draft := some { y with members := ms }, leaveWait := false } }
      e.askOrSeal
  else e

end Sys2Proof.Machine
end

