-- ==== Sys2Proof/Machine/Journal.lean ====
section
/-!
DEFINITION. Machine/Journal.lean: the step records of the underlay journal (R260 to R262): the slot of a step, what enters it
during the step, its bytes, and the comparison of a regenerated token with the one it holds (R270).
-/

namespace Sys2Proof.Machine

/-! ### The running step's record (R260, R262) -/

/-- The record a step opens with. -/
def Engine.freshRecord (e : Engine) (y : Yealm) : StepRecord :=
  { step := y.step, committed := false, damaged := false, mode := y.mode, epoch := e.epochFor y.step, digest := y.digest,
    session := y.epoch, members := [], tokens := [], guesses := [], late := [], failedSeg := [], baseFail := [],
    courses := y.courses.length, draws := y.draws, rings := [], events := [], commitTime := 0 }

/-- The step's slot is taken: what it held is overwritten, unless it is this step's own uncommitted record. -/
def Engine.beginRecord (e : Engine) (y : Yealm) : Engine :=
  match e.stepRec? y.step with
  | some r => if r.committed then { e with flt := { e.flt with journal := Table.put e.flt.journal (e.jslot y.step) (e.freshRecord y) } } else e
  | none => { e with flt := { e.flt with journal := Table.put e.flt.journal (e.jslot y.step) (e.freshRecord y) } }

/-! ### Tokens (R249, R270) -/

/-- Token entry: [23:0] token id, [24] COUNTED, [25] VOID, [26] FINAL. -/
def tokenEntry (token : Nat) (counted final : Bool) : Nat := place token 0 24 + place (bit counted) 24 1 + place (bit final) 26 1

def voidEntry : Nat := place 1 25 1

def entryVoid (x : Nat) : Bool := bitsOf x 25 1 == 1

def entryToken (x : Nat) : Nat := bitsOf x 0 24

/-- Writes a draw's entry into the running step's slot. -/
def Engine.putToken (e : Engine) (step draw entry : Nat) : Engine :=
  e.modStepRec step fun r => { r with tokens := Table.put r.tokens draw entry }

/-- The token the slot already holds for a draw; after a takeover also one found in host memory (R277). -/
def Engine.heldToken (e : Engine) (step draw : Nat) (handle : Handle) (pos : Nat) : Option Nat :=
  match ((e.stepRec? step).bind fun r => Table.get? r.tokens draw).filter fun x => !entryVoid x with
  | some x => some (entryToken x)
  | none => (e.flt.scanTokens.find? fun x => x.1 == handle && x.2.1 == pos).map (·.2.2)

/-- DIVERGENCE (R270): the record of code 0x7801, and FATAL. -/
def Engine.diverge (e : Engine) (handle : Handle) (pos old new step : Nat) : Engine :=
  (e.log Ev.divergence [handle.toNat, pos, old, new, step % 2 ^ 32, bitsOf step 32 16]).raiseFatal Det.divergence handle pos

/-- The draw's void entry. -/
def Engine.putVoid (e : Engine) (step draw : Nat) : Engine := (e.putToken step draw voidEntry).bump Cnt.smpVoid

/-! ### The record's bytes (R261, Table 11.2, Table 11.3) -/

/-- A set of segment numbers as a 128 B bitmap. -/
def segBitmap (l : List Nat) : Nat := (l.map fun s => 2 ^ s).sum

/-- Member entry. -/
def JMember.bytes (m : JMember) : List Byte :=
  leBytes 8 (place m.handle.toNat 0 32 + place m.accepted 32 3 + place (bit m.vacated) 35 1 + place (bit m.deferred) 36 1 +
    place (bit m.baseOnly) 37 1 + place (bit m.failed) 38 1)

/-- Guess-store image (R212). -/
def GuessStore.image (g : GuessStore) : Nat :=
  ((g.tokens.take 4).zipIdx.map fun x => place x.1 (24 * x.2) 24).sum + place g.count 96 3

/-- The six sections, in order. -/
def StepRecord.sections (r : StepRecord) : List (List Byte) :=
  [r.members.flatMap JMember.bytes,
   (List.range r.draws).flatMap fun d => leBytes 4 (Table.getD r.tokens d voidEntry),
   (Table.vals r.guesses).flatMap fun g => leBytes 16 g.image,
   (List.range r.courses).flatMap fun k =>
     leBytes 128 (segBitmap (Table.getD r.late k [])) ++ leBytes 128 (segBitmap (Table.getD r.failedSeg k [])),
   r.rings.flatMap fun x => leBytes 4 (place x.2.1 0 16 + place (bit x.2.2) 16 1),
   r.events.flatMap JEvent.bytes]

/-- Section offsets from a list of section lengths. -/
def offsetsFrom : Nat → List Nat → List Nat
  | _, [] => []
  | at_, n :: ns => at_ :: offsetsFrom (at_ + up64 n) ns

/-- Header (Table 11.2). -/
def StepRecord.header (r : StepRecord) : List Byte :=
  let offs := offsetsFrom 256 (r.sections.map List.length)
  leBytes 256 (place 0x5E4B4A52 0 32 + place 0x0302 32 16 + place (bit r.committed) 48 1 + place r.mode 49 2 + place r.step 64 48 +
    place r.epoch 112 16 + place r.digest.toNat 128 64 + place r.session.toNat 192 32 + place r.members.length 224 15 +
    place r.draws 256 17 + place r.events.length 288 18 + place r.guesses.length 320 15 + place r.courses 352 7 +
    (offs.zipIdx.map fun x => place x.1 (384 + 32 * x.2) 32).sum + place r.commitTime 576 64 +
    place ((r.baseFail.map fun k => 2 ^ k).sum) 640 64)

/-- The whole record, CHECK and STEP in its trailer. -/
def StepRecord.bytes (r : StepRecord) : List Byte :=
  let body := r.header ++ r.sections.flatMap pad64
  body ++ leBytes 8 (crc64 body).toNat ++ leBytes 8 (place r.step 0 48)

end Sys2Proof.Machine
end

