-- ==== Sys2Proof/Machine/Draws.lean ====
section
/-!
DEFINITION. Machine/Draws.lean: the arithmetic of a draw as functions of its context: scoring, folding, partials and finishing
(R190 to R205, R214, R215).
-/

namespace Sys2Proof.Machine

/-- −∞. -/
def negInf : BitVec 32 := infBits true

/-! ### Orders (R200) -/

/-- Does a candidate (y, id) beat another: the greater y, ties to the lower id? -/
def beats (a b : BitVec 32 × Nat) : Bool := ltF b.1 a.1 || (eqF b.1 a.1 && decide (a.2 < b.2))

/-- The better of two candidates. -/
def better (a b : BitVec 32 × Nat) : BitVec 32 × Nat := if beats b a then b else a

/-- HEAP with one more entry: the first 64 in the order q descending, then id ascending. -/
def heapAdd (h : List (BitVec 32 × Nat)) (x : BitVec 32 × Nat) : List (BitVec 32 × Nat) := (insertBy beats x h).take 64

/-! ### Scoring (R194, R195) -/

/-- What a request's parameter block and stores say of one token. -/
structure TokenTerms where
  bias  : BitVec 32
  count : Nat

/-- Steps 1 to 3: the logit with bias and penalties. -/
def penalised (r : Rafter) (t : TokenTerms) (l : BitVec 32) : BitVec 32 :=
  let x := if t.bias = 0 then l else addF l t.bias
  if t.count = 0 then x
  else
    let x := if ltF 0 x then divF x r.repRho else mulF x r.repRho
    subF (subF x (mulF r.freqAlpha (natF t.count))) r.presBeta

/-- Steps 1 to 5: q and y, with the noise of the token; none when a NaN arises. -/
def scoreOf (r : Rafter) (greedy : Bool) (t : TokenTerms) (noise : BitVec 32) (l : BitVec 32) : Option (BitVec 32 × BitVec 32) :=
  let x := penalised r t l
  let q := if greedy then x else mulF x r.invTemp
  let y := if greedy then q else addF q noise
  if isNan q || isNan y then none else some (q, y)

/-! ### Folding (R200, R201) -/

/-- A scored token enters BEST, HEAP and ACC. -/
def DrawCtx.fold (c : DrawCtx) (token : Nat) (q y : BitVec 32) : DrawCtx :=
  let first := beats (y, token) (c.bestY, c.bestId)
  let t := log2Of q
  { c with bestY := if first then y else c.bestY, bestQ := if first then q else c.bestQ, bestId := if first then token else c.bestId,
           heap := heapAdd c.heap (q, token), sat := c.sat || saturates t,
           acc := if saturates t then c.acc else c.acc + termOf t }

/-- GUESS[j] of a context; head 1 stands first. -/
def DrawCtx.guessAt (c : DrawCtx) (head : Nat) : BitVec 32 × Nat := c.guess.getD (head - 1) (negInf, pad)

/-- A guess head's scored token. -/
def DrawCtx.foldGuess (c : DrawCtx) (head token : Nat) (y : BitVec 32) : DrawCtx :=
  { c with guess := c.guess.set (head - 1) (better (c.guessAt head) (y, token)) }

/-- The key of a tile enters the two sums (R192). -/
def tileKey (head tile : Nat) : Nat := head * 65536 + tile + 1

def DrawCtx.count (c : DrawCtx) (head tile : Nat) : DrawCtx :=
  let k := tileKey head tile
  { c with received := c.received + 1, sum1 := (c.sum1 + k) % 2 ^ 32, sum2 := (c.sum2 + k * k) % 2 ^ 32 }

/-- The sums the expected keys have: n tiles from `first`, for heads 0 to h. -/
def keySums (first n h : Nat) : Nat × Nat :=
  let keys := (List.range (h + 1)).flatMap fun j => (List.range n).map fun i => tileKey j (first + i)
  (keys.sum % 2 ^ 32, (keys.map fun k => k * k).sum % 2 ^ 32)

/-! ### Partials (R214, R215) -/

/-- A draw's partial, with HEAP and ACC when FULL. -/
def DrawCtx.partial_ (c : DrawCtx) (full : Bool) : PartialRec :=
  { draw := BitVec.ofNat 17 c.draw, full := full, sat := c.sat, bestY := c.bestY, bestQ := c.bestQ, bestId := BitVec.ofNat 24 c.bestId,
    guess := c.guess.map fun g => (g.1, BitVec.ofNat 24 g.2),
    heap := if full then c.heap.map fun g => (g.1, BitVec.ofNat 24 g.2) else [], acc := if full then c.acc else 0 }

/-- Guess by guess, the better. -/
def mergeGuess (a b : List (BitVec 32 × Nat)) : List (BitVec 32 × Nat) :=
  (List.range (max a.length b.length)).map fun i => better (a.getD i (negInf, pad)) (b.getD i (negInf, pad))

/-- A partial is reduced into a context. -/
def DrawCtx.merge (c : DrawCtx) (p : PartialRec) : DrawCtx :=
  let first := beats (p.bestY, p.bestId.toNat) (c.bestY, c.bestId)
  { c with bestY := if first then p.bestY else c.bestY, bestQ := if first then p.bestQ else c.bestQ,
           bestId := if first then p.bestId.toNat else c.bestId,
           heap := (p.heap.map fun x => (x.1, x.2.toNat)).foldl heapAdd c.heap, sat := c.sat || p.sat, acc := c.acc + p.acc,
           guess := mergeGuess c.guess (p.guess.map fun x => (x.1, x.2.toNat)) }

/-! ### Finishing (R203 to R205) -/

/-- LSE: the FP32 value nearest to ln(S). -/
def DrawCtx.lse (c : DrawCtx) : Option (BitVec 32) := if c.sat || c.acc = 0 then none else some (lnF c.acc (-280))

/-- n_min: entries of the heap at or within ln(MIN_P) of the first. -/
def minCount (minP : BitVec 32) (h : List (BitVec 32 × Nat)) : Nat :=
  match f32 minP, h with
  | .fin false m e, (q0, _) :: _ =>
    if m = 0 then 64 else (h.filter fun x => eqF x.1 q0 || geF (subF x.1 q0) (lnF m e)).length
  | _, _ => 64

/-- The least n whose first n terms reach a target, both in units of 2^−280 × 2^−s. -/
def reach (target s : Nat) : Nat → Nat → List (BitVec 32 × Nat) → Nat
  | _, _, [] => 64
  | n, sum, (q, _) :: h =>
    let sum := sum + termOf (log2Of q)
    if target ≤ sum * 2 ^ s then n + 1 else reach target s (n + 1) sum h

/-- n_p. -/
def topCount (topP : BitVec 32) (c : DrawCtx) : Nat :=
  if c.sat then (c.heap.filter fun x => saturates (log2Of x.1)).length
  else if c.acc = 0 then 64
  else match f32 topP with
    | .fin false m e => reach (m * c.acc * 2 ^ e.toNat) (-e).toNat 0 0 c.heap
    | _ => 64

/-- The candidates of a truncated draw. -/
def DrawCtx.candidates (c : DrawCtx) (r : Rafter) : List (BitVec 32 × Nat) :=
  let nk := if r.topK = 0 then 64 else r.topK
  c.heap.take (max 1 (min nk (min (minCount r.minP c.heap) (topCount r.topP c))))

/-- The token chosen, with its y (R204). -/
def DrawCtx.choose (c : DrawCtx) (r : Rafter) (noise : Nat → BitVec 32) : BitVec 32 × Nat :=
  if c.greedy || !c.trunc then (c.bestY, c.bestId)
  else (c.candidates r).foldl (fun b x => better b (addF x.1 (noise x.2), x.2)) (negInf, pad)

/-- The log-probability of a score. -/
def DrawCtx.logprobOf (c : DrawCtx) (q : BitVec 32) : Option (BitVec 32) := c.lse.map fun l => subF q l

/-- The score of a chosen token: from HEAP, else BEST. -/
def DrawCtx.scoreFor (c : DrawCtx) (token : Nat) : BitVec 32 := ((c.heap.find? fun x => x.2 == token).map (·.1)).getD c.bestQ

/-- The finished draw: a token with its log-probabilities, or void with its error (R195, R204, R205). -/
def DrawCtx.finish (c : DrawCtx) (r : Rafter) (noise : Nat → BitVec 32) : DrawCtx :=
  let (y, token) := c.choose r noise
  if c.void || eqF y negInf then { c with done := true, void := true, error := true, token := none }
  else
    { c with done := true, token := some token,
             logprob := if r.logprobChosen then c.logprobOf (c.scoreFor token) else none,
             alternates := (c.heap.take r.logprobN).map fun x => (x.2, (c.logprobOf x.1).getD canonNan) }

end Sys2Proof.Machine
end

