-- ==== Sys2Proof/Machine/Sampler.lean ====
section
/-!
DEFINITION. Machine/Sampler.lean: the legget: tiles and draw contexts, finishing, partials, emission with verification, and count
updates (chapter 8).
-/

namespace Sys2Proof.Machine

/-! ### Draws of the step (R119, R192) -/

/-- The member that yields a draw, with its manifest index. -/
def Yealm.drawMember (y : Yealm) (d : Nat) : Option (Nat × Member) :=
  (y.members.zipIdx.find? fun x => decide (x.1.firstDraw ≤ d ∧ d < x.1.firstDraw + x.1.draws)).map fun x => (x.2, x.1)

/-- The course a draw belongs to. -/
def Yealm.courseOfDraw (y : Yealm) (d : Nat) : Option (Nat × Course) :=
  (y.courses.zipIdx.find? fun x => decide (x.1.firstDraw ≤ d ∧ d < x.1.firstDraw + x.1.draws)).map fun x => (x.2, x.1)

/-- Has a course begun in this run of the step? -/
def Engine.courseBegan (e : Engine) (k : Nat) : Bool := ((Table.get? e.ylm.runs k).map (·.begun)).getD false

/-- First tile and number of tiles of this chip's shard of T tiles (R235). -/
def Engine.shardTiles (e : Engine) (t : Nat) : Nat × Nat :=
  if !e.mdv.joined && !e.shadows then (0, t)
  else match Table.get? e.mdv.map (if e.shadows then e.flt.shadow.rank else e.mdv.rank) with
    | none => (0, 0)
    | some x =>
      if x.shard < e.mdv.shards then
        let first := x.shard * t / e.mdv.shards
        (first, (x.shard + 1) * t / e.mdv.shards - first)
      else (0, 0)

/-- Does the group divide the vocabulary (R214)? -/
def Engine.sharded (e : Engine) : Bool := (e.mdv.joined || e.shadows) && decide (1 < e.mdv.shards)

/-- Does the engine execute the manifests that come to it? -/
def Engine.executes (e : Engine) : Bool := e.flt.shadow.running || (e.mdv.joined && e.mdv.role == Role.worker)

/-- A follower that executes none, a standby: what its children send up passes through it (R236, R247, R248, R250). -/
def Engine.bystands (e : Engine) : Bool := e.follows && !e.shadows && !e.executes

/-- The yealm that messages of a step speak of: the one in compute, or on an engine that executes none the one kept for the step. -/
def Engine.yealmFor (e : Engine) (step : Nat) : Option Yealm :=
  match e.ylm.current.filter fun y => y.step == step with
  | some y => some y
  | none => if e.executes then none else Table.get? e.ylm.archive step

/-- SMP_CTL as captured for the step (R220). -/
def Engine.strictNan (e : Engine) : Bool := e.smp.ctl.testBit 0
def Engine.headTest (e : Engine) : Bool := e.smp.ctl.testBit 1 && (e.ylm.current.map (·.mode)) == some 2
def Engine.guessEn (e : Engine) : Bool := e.smp.ctl.testBit 2

/-- Guess heads draw `i` of a member carries (R209). -/
def Engine.headsOf (e : Engine) (m : Member) (i : Nat) : Nat := if e.guessEn && m.kind = 0 && i = 0 then m.spec else 0

/-- Tiles a draw expects: its shard for head 0 and for each guess head. -/
def Engine.expectedTiles (e : Engine) (m : Member) (i : Nat) : Nat :=
  (e.shardTiles (tilesOf (e.family m.family).vocab)).2 * (1 + e.headsOf m i)

/-! ### Contexts (R191, R193, R202) -/

/-- The context a draw opens with. -/
def Engine.openCtx (e : Engine) (r : Rafter) (member : Nat) (m : Member) (d : Nat) : DrawCtx :=
  let i := d - m.firstDraw
  let greedy := r.invTemp == 0#32
  let h := e.headsOf m i
  let vocab := (e.family m.family).vocab
  let exclStop := decide (r.generated + i < r.minNew)
  let stops := if exclStop then r.stopIds else []
  let bias := e.biasOf m.slot
  let pending := m.guesses.take i
  { draw := d, member := member, index := i, heap := [], bestY := negInf, bestQ := negInf, bestId := pad, received := 0, greedy := greedy,
    trunc := !greedy && (r.topK != 0 || ltF r.topP oneF || ltF 0 r.minP), exclStop := exclStop, sat := false,
    void := false, error := false, acc := 0, guess := List.replicate h (negInf, pad),
    map := mapOf vocab (e.countTokens m.slot ++ bias.map Prod.fst ++ pending.filter (· != pad) ++ stops), biasDir := biasDirOf bias,
    stopIds := stops, pending := pending, sum1 := 0, sum2 := 0,
    done := false, token := none, logprob := none, alternates := [] }

/-- The context of a draw, opened when a tile or partial first needs it. -/
def Engine.ctxOf (e : Engine) (r : Rafter) (member : Nat) (m : Member) (d : Nat) : DrawCtx :=
  (Table.get? e.smp.ctxs d).getD (e.openCtx r member m d)

def Engine.putCtx (e : Engine) (c : DrawCtx) : Engine := { e with smp := { e.smp with ctxs := Table.put e.smp.ctxs c.draw c } }

/-- Has this chip folded all it expects of a draw? Contexts are kept until emission passes them. -/
def Engine.folded (e : Engine) (m : Member) (d : Nat) : Bool :=
  let n := e.expectedTiles m (d - m.firstDraw)
  decide (d < e.smp.nextEmit) || n == 0 || (match Table.get? e.smp.ctxs d with
    | some c => c.received == n
    | none => false)

/-! ### Folding a tile (R190, R194 to R201) -/

/-- Noise of a token at a position. -/
def noiseAt (seed : BitVec 64) (epoch : BitVec 32) (purpose position token : Nat) : BitVec 32 :=
  gumbel (drawWord seed purpose token position epoch)

/-- Bias and count of a token for a draw: a token whose bucket is clear in MAP has none; counts saturate, pending tokens included
(R194, R197, R198, R210). -/
def Engine.termsOf (e : Engine) (m : Member) (vocab : Nat) (c : DrawCtx) (token : Nat) : TokenTerms :=
  if c.map.getLsbD (bucketOf vocab token) then
    { bias := (((biasLines c.biasDir (e.biasOf m.slot) (token / 256)).find? fun x => x.1 == token).map (·.2)).getD 0,
      count := min 255 (e.countOf m.slot vocab token + (c.pending.filter (· == token)).length) }
  else { bias := 0, count := 0 }

/-- One entry of a main tile; the flag tells a NaN logit (R195). -/
def Engine.foldEntry (e : Engine) (r : Rafter) (m : Member) (vocab position : Nat) (epoch : BitVec 32) (c : DrawCtx) (token : Nat)
    (l : BitVec 32) : Bool × DrawCtx :=
  if isNan l then (true, if e.strictNan then { c with void := true, error := true } else c)
  else if c.exclStop && c.stopIds.contains token then (false, c)
  else
    let noise := if c.greedy then 0 else noiseAt m.seed epoch 1 position token
    match scoreOf r c.greedy (e.termsOf m vocab c token) noise l with
    | none => (false, c)
    | some (q, y) => (false, c.fold token q y)

/-- One entry of a guess tile (R201, R213). -/
def Engine.foldHead (e : Engine) (r : Rafter) (m : Member) (head position : Nat) (epoch : BitVec 32) (c : DrawCtx) (token : Nat)
    (l : BitVec 32) : Bool × DrawCtx :=
  if isNan l then (true, c)
  else
    let y := if c.greedy then l
      else addF (mulF l r.invTemp) (noiseAt m.seed epoch (if e.headTest then 2 else 1) (position + head) token)
    (false, if isNan y then c else c.foldGuess head token y)

/-- The entries of a tile below VOCAB, as FP32; the number of NaN logits and the context. -/
def Engine.foldTile (e : Engine) (r : Rafter) (m : Member) (epoch : BitVec 32) (c : DrawCtx) (head tile fmt : Nat) (scale : Int)
    (entries : List (BitVec 16)) : Nat × DrawCtx :=
  let vocab := (e.family m.family).vocab
  let position := m.seqStart + c.index
  ((entries.take 256).zipIdx.filter fun x => decide (256 * tile + x.2 < vocab)).foldl (fun (acc : Nat × DrawCtx) x =>
    let token := 256 * tile + x.2
    let l := logitF fmt scale x.1
    let (nan, c) := if head = 0 then e.foldEntry r m vocab position epoch acc.2 token l
      else e.foldHead r m head position epoch acc.2 token l
    (acc.1 + bit nan, c)) (0, c)

/-! ### Finishing (R202 to R205) and partials (R214, R248) -/

/-- A draw is finished. -/
def Engine.finishDraw (e : Engine) (r : Rafter) (m : Member) (epoch : BitVec 32) (c : DrawCtx) : Engine :=
  let again := if c.greedy || !c.trunc then 0 else (c.candidates r).length
  let c := c.finish r (noiseAt m.seed epoch 1 (m.seqStart + c.index))
  let e := ((e.evaluations false again).putCtx c).bump Cnt.smpDraws
  if c.sat then e.bump Cnt.smpLseSat else e

/-- Does a draw send a full partial? -/
def DrawCtx.needsFull (c : DrawCtx) (r : Rafter) : Bool := c.trunc || r.logprobChosen || r.logprobN != 0

/-- A course's merged partials at this engine. -/
def PartMerge.empty : PartMerge := { children := [], cover := 0, records := [], own := false, sent := false }

def Engine.partsOf (e : Engine) (k : Nat) : PartMerge := Table.getD e.mdv.parts k .empty

/-- Shards this chip's own fold covers. -/
def Engine.ownCover (e : Engine) : Nat :=
  match Table.get? e.mdv.map e.mdv.rank with
  | some x => if x.shard < e.mdv.shards && x.role != Role.standby then 1 else 0
  | none => 0

/-- The draws of a course. -/
def Course.drawList (c : Course) : List Nat := (List.range c.draws).map (c.firstDraw + ·)

/-- A member whose draws are void whatever its tiles say: its segment is deferred, its read failed, or no request stands behind it.
No tile of it is waited for (R207). -/
def Engine.skips (e : Engine) (m : Member) : Bool := m.deferred || m.failed || (e.anyReq? m.slot).isNone

/-- Is every draw of a course folded here? -/
def Engine.courseFolded (e : Engine) (y : Yealm) (c : Course) : Bool :=
  c.drawList.all fun d => match y.drawMember d with
    | none => true
    | some (_, m) => e.skips m || e.folded m d

/-- The courses with draws that have begun, in manifest order. -/
def Engine.begunCourses (e : Engine) (y : Yealm) : List (Nat × Course) :=
  (y.courses.zipIdx.filter fun x => x.1.draws != 0 && e.courseBegan x.2).map fun x => (x.2, x.1)

/-- The course being sampled (R27): in manifest order the first begun that is not yet folded, whether or not the draws before it are
emitted; with all folded, the last begun. -/
def Engine.sampledCourse (e : Engine) : Option (Nat × Course) :=
  match e.ylm.current with
  | none => none
  | some y =>
    let begun := e.begunCourses y
    (begun.find? fun x => !e.courseFolded y x.2).orElse fun _ => begun.getLast?

/-- The manager finishes every draw of a course whose own fold is complete, once the records cover every shard. -/
def Engine.finishCovered (e : Engine) (y : Yealm) (k : Nat) (c : Course) : Engine :=
  let p := e.partsOf k
  if p.cover + e.ownCover < e.mdv.shards then e
  else
    c.drawList.foldl (fun e d => match y.drawMember d with
      | none => e
      | some (i, m) => match e.anyReq? m.slot with
        | none => e
        | some r =>
          let x := e.ctxOf r i m d
          if x.done || !e.folded m d then e
          else e.finishDraw r m y.epoch ((p.records.filter fun q => q.draw.toNat == d).foldl DrawCtx.merge x)) e

/-- Children whose subtree holds an executing rank: they report and acknowledge. -/
def Engine.reporters (e : Engine) : List Nat :=
  e.children.filter fun c => e.mdv.map.any fun x =>
    x.2.role != Role.standby && !e.mdv.fencedRanks.contains x.1 && (e.pathUp 17 x.1).contains c

/-- The gutter is ready again once a context it waits for is free (R191). -/
def Engine.passCourses (e : Engine) (next : Nat) : Engine :=
  ({ e with smp := { e.smp with nextEmit := next, ctxs := Table.keep e.smp.ctxs fun d _ => decide (next ≤ d) } } : Engine).releaseGutter

/-- Draws of the leading courses whose partials are sent. -/
def Engine.sentTo (e : Engine) (y : Yealm) : Nat :=
  sumBy ((y.courses.zipIdx).takeWhile fun x => x.1.draws == 0 || (e.partsOf x.2).sent) fun x => x.1.draws

/-- A forwarding engine sends the partials of a course up once it has folded its own, of which a standby has none, and holds its children's;
its contexts are then free. -/
def Engine.sendPartials (e : Engine) (y : Yealm) (k : Nat) (c : Course) : Engine :=
  let p := e.partsOf k
  if p.sent || !e.courseFolded y c || !(e.reporters.all p.children.contains) then e
  else
    let records := c.drawList.filterMap fun d => match y.drawMember d with
      | none => none
      | some (i, m) => (e.anyReq? m.slot).map fun r =>
        let x := (p.records.filter fun q => q.draw.toNat == d).foldl DrawCtx.merge (e.ctxOf r i m d)
        x.partial_ (x.needsFull r)
    let e := e.send 0x18 e.parentRank y.step (partialsBody k (p.cover + e.ownCover) c.firstDraw records)
    let e : Engine := { e with mdv := { e.mdv with parts := Table.put e.mdv.parts k { p with own := true, sent := true } } }
    e.passCourses (max e.smp.nextEmit (e.sentTo y))

/-! ### ACK (R250) -/

/-- A shadowing engine's samples pass a course once it is folded: its partials go nowhere (R279). -/
def Engine.shadowEmit (e : Engine) : Engine :=
  match e.shadows, e.ylm.current with
  | true, some y =>
    let done := y.courses.takeWhile fun c => e.courseFolded y c
    e.passCourses (max e.smp.nextEmit (sumBy done (·.draws)))
  | _, _ => e

/-- Has the chip's legget sent every partial of the step? The manager, an engine of one shard and a shadowing one send none. -/
def Engine.partialsOut (e : Engine) (y : Yealm) : Bool :=
  !e.follows || e.shadows || !e.sharded || ((List.range y.courses.length).all fun k => match y.courses[k]? with
    | some c => c.draws == 0 || (e.partsOf k).sent
    | none => true)

/-- Ranks of the subtree vouched for, with this one. -/
def Engine.ownRanks (e : Engine) : Nat := if e.mdv.role == Role.standby then 0 else 1

/-- Own work of a step is done: its tiles report it complete, its partials are sent (R250). -/
def Engine.ownAck (e : Engine) : Engine :=
  match e.ylm.current with
  | none => e
  | some y =>
    if e.ylm.stepDone && e.partialsOut y then
      { e with mdv := { e.mdv with acks := Table.modify e.mdv.acks y.step fun a =>
          { a with own := true, waitUs := max a.waitUs (y.waited.getD 0), leaveWait := a.leaveWait || y.waited.isSome } } }
    else e

/-- The body of a merged ACK. -/
def Engine.mergedAck (e : Engine) (a : AckMerge) : List Byte :=
  ackBody (a.cover + e.ownRanks) (bit a.error + 2 * bit a.mismatch + 4 * bit a.leaveWait) a.digest.toNat a.waitUs
    (if a.missing = noRank then e.mdv.silentSubtrees.headD noRank else a.missing)

/-- An engine forwards the merged ACK of its subtree for a step once its own work is done and every child has answered or is
missing (R250). -/
def Engine.forwardAck (e : Engine) (step : Nat) : Engine :=
  match Table.get? e.mdv.acks step with
  | none => e
  | some a =>
    if !e.follows || a.sent || !a.own || !(e.reporters.all a.children.contains) then e
    else
      ({ e with mdv := { e.mdv with acks := Table.put e.mdv.acks step { a with sent := true }, silentSubtrees := [] } } : Engine).send 0x02
        e.parentRank step (e.mergedAck a)

/-- What a finished step or a sent partial moves on. -/
def Engine.passAck (e : Engine) : Engine := let e := e.ownAck; e.forwardAck e.stepNo

/-- What a completed draw or a partial of the step moves on: finishing on the manager, sending up the tree elsewhere. -/
def Engine.sampleOn (e : Engine) (k : Nat) : Engine :=
  match e.yealmFor e.stepNo with
  | none => e
  | some y => match y.courses[k]? with
    | none => e
    | some c =>
      if !e.sharded || e.shadows then e
      else if e.follows then (e.sendPartials y k c).passAck
      else e.finishCovered y k c

/-! ### Tiles (R189, R191, R192) -/

/-- Fields of a tile header (Table 8.1). -/
def tileDraw (h : BitVec 64) : Nat := bitsOf h.toNat 0 17
def tileIndex (h : BitVec 64) : Nat := bitsOf h.toNat 17 16
def tileHead (h : BitVec 64) : Nat := bitsOf h.toNat 33 3
def tileFmt (h : BitVec 64) : Nat := bitsOf h.toNat 36 2
def tileScale (h : BitVec 64) : Int := toSigned 7 (bitsOf h.toNat 38 7)

/-- Even parity over all 64 bits. -/
def tileParity (h : BitVec 64) : Bool := ((List.range 64).filter fun i => h.getLsbD i).length % 2 == 0

/-- The checks of R192: the draw's course and member when all pass. A void draw whose course has been passed already may still have
tiles to come (R207, R219). -/
def Engine.checkTile (e : Engine) (h : BitVec 64) : Option (Nat × Nat × Member) :=
  match e.ylm.current, e.sampledCourse with
  | some y, some (_, c) =>
    let d := tileDraw h
    if !tileParity h || h.getLsbD 45 != (y.step % 2 == 1) || c.firstDraw + c.draws ≤ d then none
    else match y.drawMember d, y.courseOfDraw d with
      | some (i, m), some (k, _) =>
        let (first, n) := e.shardTiles (tilesOf (e.family m.family).vocab)
        let t := tileIndex h
        if (d < c.firstDraw && !e.skips m) || t < first || first + n ≤ t || e.headsOf m (d - m.firstDraw) < tileHead h then none
        else some (k, i, m)
      | _, _ => none
  | _, _ => none

/-- A failed check, or sums that disagree: STEP class, naming the course being sampled. -/
def Engine.tileError (e : Engine) (detail : Nat) (injected : Bool) : Engine :=
  let courses := (e.sampledCourse.map (·.1)).toList
  (e.log Ev.tileCheck [detail]).stepError Det.tileCheck courses detail (some injected)

/-- The gutter is held while the context a tile needs is in use (R191): the tile is not taken. -/
def Engine.holdGutter (e : Engine) : Engine :=
  let e := e.bump Cnt.smpGutWait
  if e.smp.gutHeld then e else ({ e with smp := { e.smp with gutHeld := true } } : Engine).emit (.gutReady false)

/-- A shadowing engine and its source keep their own partial records of the step (R279). -/
def Engine.notePartial (e : Engine) (r : Rafter) (c : DrawCtx) : Engine :=
  if e.flt.shadow.phase = 2 || !e.flt.shadow.watching.isEmpty then
    { e with flt := { e.flt with shadow := { e.flt.shadow with
        partials := Table.put e.flt.shadow.partials c.draw (c.partial_ (c.needsFull r)) } } }
  else e

/-- The last tile of a draw is in: the sums are compared, and the draw is finished or its partial moves on. -/
def Engine.completeDraw (e : Engine) (y : Yealm) (k : Nat) (r : Rafter) (m : Member) (c : DrawCtx) : Engine :=
  let (first, n) := e.shardTiles (tilesOf (e.family m.family).vocab)
  if (c.sum1, c.sum2) ≠ keySums first n (e.headsOf m c.index) then e.tileError c.draw false
  else if e.sharded then ((e.notePartial r c).sampleOn k).shadowEmit
  else (e.finishDraw r m y.epoch c).shadowEmit

/-- The noise words a tile takes of the generator: four entries a word (R190). -/
def DrawCtx.tileWords (c : DrawCtx) : Nat := if c.greedy then 0 else 64

/-- The NaN logits of a tile count, but where one has voided its draw instead (R195). -/
def Engine.countNans (e : Engine) (head nans : Nat) : Engine := if head = 0 && e.strictNan then e else e.bumpBy Cnt.smpNan nans

/-- The tiles of a draw that is void whatever they say, and that emission has passed, are folded and discarded (R207, R219). -/
def Engine.foldAway (e : Engine) (y : Yealm) (i : Nat) (r : Rafter) (m : Member) (h : BitVec 64) (entries : List (BitVec 16)) : Engine :=
  let (nans, c) := e.foldTile r m y.epoch (e.openCtx r i m (tileDraw h)) (tileHead h) (tileIndex h) (tileFmt h) (tileScale h) entries
  (e.countNans (tileHead h) nans).evaluations false c.tileWords

/-- A tile that passes its checks is folded; one for a draw already complete is not folded again. -/
def Engine.takeTile (e : Engine) (y : Yealm) (k i : Nat) (m : Member) (h : BitVec 64) (entries : List (BitVec 16)) : Engine :=
  let d := tileDraw h
  match e.anyReq? m.slot with
  | none => e
  | some r =>
    if e.folded m d then (if e.skips m then e.foldAway y i r m h entries else e)
    else if e.smp.nextEmit + 16384 ≤ d then e.holdGutter
    else
      let (nans, c) := e.foldTile r m y.epoch (e.ctxOf r i m d) (tileHead h) (tileIndex h) (tileFmt h) (tileScale h) entries
      let c := c.count (tileHead h) (tileIndex h)
      let e := ((e.countNans (tileHead h) nans).evaluations false c.tileWords).putCtx c
      if c.received = e.expectedTiles m c.index then e.completeDraw y k r m c else e

/-- A logit tile arrives. -/
def Engine.logitTile (e : Engine) (h : BitVec 64) (entries : List (BitVec 16)) : Engine :=
  let (injected, e) := e.evaluate Det.tileCheck
  match injected, e.checkTile h, e.ylm.current with
  | false, some (k, i, m), some y => e.takeTile y k i m h entries
  | _, _, _ => (e.bump Cnt.smpTileErr).tileError (tileDraw h) injected

def execLogitTile (header : BitVec 64) (entries : List (BitVec 16)) (s : State) : Host.Outcome State Fault Refusal :=
  s.cross Isl.sm (.logitTile header entries) fun e => e.logitTile header entries

/-! ### Verification (R211) -/

/-- Accepted guesses after draw i of a member, and whether the draw after the last accepted one is reached and void. `token` is
draw i's, `stops` tells a token after which no draw is accepted. -/
def verifyFrom (stops : Nat → Nat → Bool) : Nat → Nat → List Nat → List (Option Nat) → Nat × Bool
  | i, token, g :: gs, t :: ts =>
    if stops i token || g == pad || token != g then (i, false)
    else match t with
      | none => (i, true)
      | some t => verifyFrom stops (i + 1) t gs ts
  | i, _, _, _ => (i, false)

/-! ### What happens to an emitted token (R58, R77, R78) -/

inductive Fate where
  | deliver | late | discard
  deriving DecidableEq, Repr

/-- The state a request acts in: that it will leave FENCED for, with its stop bit applied (R269, Table 3.3). -/
def Engine.actingState (e : Engine) (slot : Nat) (r : Rafter) : ReqState :=
  if r.state == .fenced then (if e.stop.contains slot && r.fencedFrom != .retiring then .cancelling else r.fencedFrom) else r.state

/-- The fate of its tokens: a request with a REQUEST-class error discards them as R78 says. -/
def Engine.fateOf (e : Engine) (slot : Nat) (r : Rafter) : Fate :=
  let s := e.actingState slot r
  if s.running then .deliver
  else if s == .retiring && r.pendReason == Reason.deadline && r.deliverLate then .late
  else .discard

/-- Does a token drawn after `generated` others match a stop id that counts (R78)? -/
def Rafter.stopsAt (r : Rafter) (generated token : Nat) : Bool := r.stopIds.contains token && decide (r.minNew ≤ generated)

/-- Does it reach MAX_NEW, or its position MAX_CONTEXT? -/
def Rafter.fullAt (r : Rafter) (generated position : Nat) : Bool :=
  decide (r.maxNew ≤ generated + 1) || decide (r.maxContext ≤ position + 1)

/-- A generation charge, with its undo entry (R93, R266). -/
def Engine.chargeDraw (e : Engine) (t : Nat) : Engine :=
  let e := e.refill t
  let before := (e.tenant t).level
  let e := e.chargeToken t
  e.logUndo (.bucket t (before - (e.tenant t).level))

/-- The request's end by a FINAL token; a FENCED one will leave for RETIRING. -/
def Engine.endByToken (e : Engine) (slot status reason : Nat) : Engine :=
  match e.req? slot with
  | none => e
  | some r =>
    if r.state == .fenced then e.putReq slot { r with fencedFrom := .retiring, pendStatus := status, pendReason := reason }
    else e.endRequest slot status reason

/-- SB's part of an emission: FIRST_EMITTED and NEXT_DEADLINE, and for a delivered token the sequence and its count (R70, R76). -/
def Engine.takeToken (e : Engine) (slot position token : Nat) (delivered : Bool) : Engine :=
  match e.req? slot with
  | none => e
  | some r =>
    let e := e.logUndo (.rafter slot r)
    let r' := { r with firstEmitted := true, nextDl := if r.itlUs = 0 then 0 else us48 (e.us + r.itlUs) }
    let r' := if delivered then { r' with seqEnd := r.seqEnd + 1, generated := r.generated + 1, later := Table.put r.later position token }
      else r'
    let e := e.putReq slot r'
    if ((Table.get? e.adm.shares slot).bind (·.ttftBin)).isNone then e
    else ({ e with adm := { e.adm with shares := Table.modify e.adm.shares slot fun x => { x with ttftBin := none } } } : Engine).updateOvercommit

/-- The token event and its alternates, or their suppression when the position was delivered before (R50, R51, R56). -/
def Engine.tokenRecords (e : Engine) (slot : Nat) (m : Member) (c : DrawCtx) (step position token accepted reason : Nat) (late : Bool) :
    Engine :=
  match e.req? slot with
  | none => e
  | some r =>
    let pairs := ceilDiv r.logprobN 2
    if r.handedPos ≠ pad && position ≤ r.handedPos then
      (e.putReq slot { r with suppressNote := true }).bumpBy Cnt.fltSuppressed (1 + pairs)
    else
      let flags := place (bit late) 0 1 + place (bit (reason != 0)) 1 1 + place (bit r.suppressNote) 2 1 +
        place (bit c.logprob.isSome) 3 1 + place (bit m.baseOnly) 4 1 + place (bit r.mixedVersion) 5 1
      let e := e.putReq slot { r with suppressNote := false, handedPos := position }
      let e := if late then e.bump Cnt.sbLate else e
      let body := tokenBytes r.handle.toNat position token reason accepted flags (c.logprob.getD 0) step r.userTag.toNat
      let e := e.writeRecord { ring := r.eventRing, rtype := 2, body := body }
      (List.range pairs).foldl (fun e j =>
        e.writeRecord { ring := r.eventRing, rtype := 3, body := altBytes r.handle.toNat position j c.alternates }) e

/-! ### Emission (R206, R207) -/

/-- One accepted token of a member, the k-th of a + 1. -/
def Engine.emitToken (e : Engine) (y : Yealm) (m : Member) (a k : Nat) (c : DrawCtx) : Engine :=
  match e.req? m.slot, c.token with
  | some r, some token =>
    let d := m.firstDraw + k
    let position := m.seqStart + k
    match (e.heldToken y.step d r.handle position).filter (· != token) with
    | some old => e.diverge r.handle position old token y.step
    | none =>
      let fate := e.fateOf m.slot r
      let delivered := fate != .discard
      let reason := if fate != .deliver then 0 else if r.stopsAt r.generated token then Reason.stopToken
        else if r.fullAt r.generated position then Reason.length else 0
      let e := (e.chargeDraw r.tenant).takeToken m.slot position token delivered
      let e := if delivered then e.tokenRecords m.slot m c y.step position token (a - k) reason (fate == .late) else e.bump Cnt.sbDiscarded
      let e := if reason = 0 then e else e.endByToken m.slot (if reason = Reason.stopToken then Status.ok else Status.length) reason
      let counted := fate == .deliver && reason == 0
      let e := (e.putToken y.step d (tokenEntry token counted (reason != 0))).bump Cnt.smpTokens
      if counted then { e with smp := { e.smp with updates := e.smp.updates ++ [{ draw := d, slot := m.slot, token := token }] } } else e
  | _, _ => e

/-- The k-th accepted tokens in order; a divergence stops the engine. -/
def Engine.emitTokens (y : Yealm) (m : Member) (a : Nat) : List (Nat × DrawCtx) → Engine → Engine
  | [], e => e
  | (k, c) :: l, e => if e.err.fatal then e else Engine.emitTokens y m a l (e.emitToken y m a k c)

/-- Releases the entries a member reserved on its event ring (R53). -/
def Engine.releaseRing (e : Engine) (m : Member) : Engine :=
  match e.req? m.slot with
  | none => e
  | some r =>
    let ring := e.evt r.eventRing
    e.putEvt r.eventRing { ring with tokRes := ring.tokRes - m.ringRes }

/-- Changes a member of the yealm in compute, and its entry in the step's record. -/
def Engine.modMember (e : Engine) (i : Nat) (f : Member → Member) : Engine :=
  ({ e with ylm := { e.ylm with current := e.ylm.current.map fun y => { y with members := y.members.modify i f } } } : Engine).journalMembers

/-- A speculative member's store after verification enters the step's record (R212, R261). -/
def Engine.journalGuesses (e : Engine) (step i slot : Nat) : Engine :=
  e.modStepRec step fun r => { r with guesses := Table.put r.guesses i (e.guessStore slot) }

/-- Keeps a store's new guesses, and the old ones in the undo log (R211, R212). -/
def Engine.keepGuesses (e : Engine) (m : Member) (tokens : List Nat) : Engine :=
  let g : GuessStore := { tokens := (tokens ++ [pad, pad, pad, pad]).take 4, count := tokens.length }
  let e := e.logUndo (.guess m.slot (e.guessStore m.slot))
  { e with smp := { e.smp with guesses := Table.put e.smp.guesses m.slot g } }

/-- The REQUEST-class error of a void draw that emission reaches (R195, R204). -/
def Engine.voidError (e : Engine) (m : Member) (d : Nat) : Engine :=
  match e.req? m.slot with
  | none => e
  | some _ => e.requestError Det.nanLogit m.slot Status.malformed d

/-- A member all of whose draws are void. -/
def Engine.voidMember (e : Engine) (y : Yealm) (m : Member) : Engine :=
  (List.range m.draws).foldl (fun e k => e.putVoid y.step (m.firstDraw + k)) e

/-- The member's draws as verification leaves them. -/
def Engine.emitVerified (e : Engine) (y : Yealm) (i : Nat) (m : Member) (r : Rafter) (cs : List DrawCtx) : Engine :=
  let tokens := cs.map fun c => if c.void then none else c.token
  match tokens with
  | some first :: rest =>
    let live := e.fateOf m.slot r == .deliver
    let stops := fun k t => r.fullAt (r.generated + k) (m.seqStart + k) || (live && r.stopsAt (r.generated + k) t)
    let (a, reached) := verifyFrom stops 0 first m.guesses rest
    let before := r.generated
    let e := Engine.emitTokens y m a (((List.range (a + 1)).zip cs)) e
    let delivered := ((e.req? m.slot).map (·.generated)).getD before - before
    let e := (List.range m.draws).foldl (fun e k => if k ≤ a then e else e.putVoid y.step (m.firstDraw + k)) e
    let e := e.bumpBy Cnt.smpAccept a
    let heads := ((cs.head?.map (·.guess)).getD []).map (·.2)
    let e := if m.kind = 0 then e.keepGuesses m (heads.drop a) else e
    let e := e.modMember i fun x => { x with accepted := a, delivered := delivered }
    if reached then e.voidError m (m.firstDraw + a + 1) else e
  | _ => (e.voidMember y m).voidError m m.firstDraw

/-! ### Count updates (R208) -/

/-- A token that is not counted after all loses COUNTED in the step's record. -/
def Engine.uncount (e : Engine) (step draw : Nat) : Engine :=
  e.modStepRec step fun r => { r with tokens := Table.modify r.tokens draw fun x => x - place (bitsOf x 24 1) 24 1 }

/-- One update. A request that has become RETIRING since is passed over; in a group the TOKENS message has fixed the set (R249). -/
def Engine.applyUpdate (e : Engine) (step : Nat) (u : CountUpdate) : Engine :=
  match e.anyReq? u.slot with
  | none => e
  | some r =>
    if e.actingState u.slot r == .retiring && !e.leadsGroup && !e.follows then e.uncount step u.draw
    else e.addCount true u.slot (e.family r.family).vocab u.token

/-- After the last emission of the step, the count updates in draw order. -/
def Engine.applyUpdates (e : Engine) (step : Nat) : Engine :=
  let us := e.smp.updates
  us.foldl (fun e u => e.applyUpdate step u) { e with smp := { e.smp with updates := [], emittedAt := e.now } }

/-! ### TOKENS (R249) -/

/-- A course's TOKENS message. -/
def Engine.sendTokens (e : Engine) (y : Yealm) (k : Nat) (c : Course) : Engine :=
  if !e.leadsGroup then e
  else
    let tokens := ((e.stepRec? y.step).map (·.tokens)).getD []
    let members := (y.members.drop c.firstMember).take c.members
    let stores := (members.filter fun m => m.kind == 0 && m.spec != 0).map fun m => (e.guessStore m.slot).image
    e.send 0x12 0xFFFF y.step (tokensBody k c.draws c.firstDraw (c.drawList.map fun d => Table.getD tokens d voidEntry) stores)

/-- Emission passes a member's draws: their contexts are free, a course's end is told, the step's end counts. -/
def Engine.passDraws (e : Engine) (y : Yealm) (m : Member) : Engine :=
  let next := m.firstDraw + m.draws
  let e := e.passCourses next
  let e := match y.courseOfDraw m.firstDraw with
    | some (k, c) => if c.firstDraw + c.draws = next then e.sendTokens y k c else e
    | none => e
  if next = y.draws then e.applyUpdates y.step else e

/-- Guess inputs offered other than pad (R211). -/
def Member.offered (m : Member) : Nat := (m.guesses.filter (· != pad)).length

/-- The draws of a member are emitted together, in draw order, after its last draw is finished (R206). Deferred and failed members
have no tiles to wait for. -/
def Engine.drawEmit (e : Engine) (i : Nat) : Engine :=
  match e.ylm.current with
  | none => e
  | some y => match y.members[i]? with
    | none => e
    | some m =>
      let draws := (List.range m.draws).map (m.firstDraw + ·)
      let ready := e.skips m || draws.all fun d => ((Table.get? e.smp.ctxs d).map (·.done)).getD false
      let began := match y.courseOfDraw m.firstDraw with | some (k, _) => e.courseBegan k | none => false
      if m.emitted || m.draws = 0 || e.smp.nextEmit ≠ m.firstDraw || !ready || !began || e.follows || e.err.fatal then e
      else
        let e := e.modMember i fun x => { x with emitted := true, ringRes := 0 }
        let e := (e.releaseRing m).bumpBy Cnt.smpGuess m.offered
        let cs := draws.filterMap fun d => Table.get? e.smp.ctxs d
        let e := match e.req? m.slot with
          | none => e.voidMember y m
          | some r => if m.vacated || m.deferred || m.failed || r.handle != m.handle then e.voidMember y m else e.emitVerified y i m r cs
        let e := if m.kind = 0 && m.spec ≠ 0 then e.journalGuesses y.step i m.slot else e
        if e.err.fatal then e else e.passDraws y m

def execDrawEmit (member : BitVec 14) (s : State) : Host.Outcome State Fault Refusal :=
  s.actIn Isl.sm fun e => e.drawEmit member.toNat

/-! ### Watchdogs and lanes (R217, R218) -/

/-- Are draws of the course being sampled incomplete? -/
def Engine.samplingOpen (e : Engine) : Bool :=
  match e.ylm.current, e.sampledCourse with
  | some y, some (_, c) => !e.courseFolded y c
  | _, _ => false

/-- No tile for SMP_GUT_TO.US. -/
def execGutterTimeout (s : State) : Host.Outcome State Fault Refusal :=
  s.actIn Isl.sm fun e =>
    if e.samplingOpen then
      let courses := (e.sampledCourse.map (·.1)).toList
      (e.log Ev.gutterStall courses).stepError Det.gutter courses (unitDetail Det.gutter)
    else e

/-- A request for random words unanswered for SMP_SPG_TO.US. -/
def execRandomWordTimeout (s : State) : Host.Outcome State Fault Refusal :=
  s.actIn Isl.sm fun e =>
    let courses := (e.sampledCourse.map (·.1)).toList
    if courses.isEmpty then e
    else (e.log Ev.randomStall courses).stepError Det.randomWord courses (unitDetail Det.randomWord)

/-- A lane fault in service: STEP class, and a health event of the group. -/
def Engine.laneFault (e : Engine) (g lane : Nat) : Engine :=
  let x := e.laneGroup g
  if 17 ≤ lane || x.retired || x.fault.getLsbD lane then e
  else
    let e := e.putLaneGroup g (x.hit lane)
    let courses := (e.sampledCourse.map (·.1)).toList
    e.stepError Det.laneParity courses (place g 8 6 + place lane 0 5)

def execLaneFault (group : BitVec 6) (lane : BitVec 5) (s : State) : Host.Outcome State Fault Refusal :=
  s.actIn Isl.sm fun e => e.laneFault group.toNat lane.toNat

end Sys2Proof.Machine
end

