-- ==== Sys2Proof/Machine/Leave.lean ====
section
/-!
DEFINITION. Machine/Leave.lean: the leave arbiter: one handshake at a time on each channel, answers, refusals, timeouts and
releases (R358 to R362).
-/

namespace Sys2Proof.Machine

/-- No handshake on the channel's pins, and RSP low. -/
def Channel.free (c : Channel) : Bool := c.asking.isNone && c.releasing.isNone && !c.closing

/-- The request that goes next: in arrival order, and on channel 1 in the order of the classes. -/
def Channel.next (c : Channel) : Option LeaveReq :=
  (sortBy (fun (a b : LeaveReq) => decide (leaveOrder a.cls < leaveOrder b.cls)) (c.waiting.filter fun r => !r.retry)).head?

/-- Drives a request, unless a release is due. -/
def Engine.leaveDrive (e : Engine) (ch1 : Bool) : Engine :=
  let c := e.channel ch1
  if !c.free || !c.due.isEmpty then e
  else match c.next with
    | none => e
    | some r =>
      let e := e.putChannel ch1 { c with waiting := c.waiting.erase r, asking := some r }
      (e.bump Cnt.cpcLeaveReq).emit (.leaveReq ch1 r.cred r.cls r.tag)

def execLeaveRequest (channel : Bool) (s : State) : Host.Outcome State Fault Refusal :=
  s.actIn Isl.ao fun e => e.leaveDrive channel

/-! ### Replicas and accepted manifests (R238, R244, R245) -/

/-- A request's replica. -/
def Engine.replica? (e : Engine) (h : Handle) : Option Rafter :=
  (Table.get? e.mdv.replicas (slotOf h)).filter fun r => r.handle == h

def Engine.putReplica (e : Engine) (slot : Nat) (r : Rafter) : Engine :=
  { e with mdv := { e.mdv with replicas := Table.put e.mdv.replicas slot r } }

/-- A replica of whose family nothing has told yet. -/
def noFamily : Nat := 256

/-- Counts tokens of a replica, or keeps them until a manifest tells its family. -/
def Engine.countReplica (e : Engine) (slot : Nat) (tokens : List Nat) : Engine :=
  match Table.get? e.mdv.replicas slot with
  | none => e
  | some r =>
    if r.family = noFamily then e.putReplica slot { r with listTokens := r.listTokens ++ tokens }
    else tokens.foldl (fun e t => e.addCount false slot (e.family r.family).vocab t) e

/-- A manifest tells the families of its members' replicas: what was to be counted is counted. -/
def Engine.tellFamilies (e : Engine) (y : Yealm) : Engine :=
  y.members.foldl (fun e m => match e.replica? m.handle with
    | none => e
    | some r =>
      if r.family ≠ noFamily then e.putReplica m.slot { r with pageHead := m.pageHead, pageCount := m.pageCount }
      else (e.putReplica m.slot { r with family := m.family, cls := m.cls, seed := m.seed, listTokens := [],
                                            pageHead := m.pageHead, pageCount := m.pageCount }).countReplica m.slot r.listTokens) e

/-- A sound manifest on an executing engine: its leave is asked. -/
def Engine.acceptManifest (e : Engine) (y : Yealm) : Engine :=
  let e := e.tellFamilies y
  let phase := if e.glb.phase = 5 then 7 else e.glb.phase
  let e : Engine := { e with mdv := { e.mdv with manifestIn := some y, distNs := e.now - e.mdv.packetAt },
                             ylm := { e.ylm with sealPointAt := e.now }, glb := { e.glb with phase := phase } }
  (e.askLeave false 1 y.credits (.workerStep y.step)).2

/-! ### What a grant or a refusal starts -/

/-- A worker's manifest has its leave: it goes to the tile sequencers (R238, R245). -/
def Engine.workerGranted (e : Engine) (tag n : Nat) : Engine :=
  match e.mdv.manifestIn.filter fun y => y.step == n with
  | none => e.endGrant false tag
  | some y =>
    let waited := if e.ylm.leaveWait then some ((e.now - e.ylm.sealPointAt) / 1000) else none
    let y := { y with waited := waited }
    let e : Engine := { e with mdv := { e.mdv with manifestIn := none },
                               ylm := { e.ylm with next := some y, leaveWait := false, mfRetried := false, mfFailures := 0 } }
    e.emitManifest y

/-- Records a mirror burst carries: every committed record the partner has not acknowledged (R263). -/
def Engine.unmirrored (e : Engine) : List StepRecord :=
  sortBy (fun (a b : StepRecord) => decide (a.step < b.step))
    ((Table.vals e.flt.journal).filter fun r => r.committed && !r.damaged && decide (e.flt.mirrorStep < r.step))

/-- The body of a JOURNAL (Table 11.9): its head, the record, and a manifest at the next 64 B boundary of the body. -/
def journalBody (step origin : Nat) (record manifest : List Byte) : List Byte :=
  let check := leNat ((record.drop (record.length - 16)).take 8)
  let head := leBytes 32 (place step 0 48 + place origin 48 9 + place (bit (!manifest.isEmpty)) 64 1 + place record.length 96 32 +
    place manifest.length 128 32 + check * 2 ^ 192)
  if manifest.isEmpty then head ++ record else pad64 (head ++ record) ++ manifest

/-- One JOURNAL message (R263, Table 11.9); a manager's carries the manifest archived for the step. -/
def Engine.sendJournal (e : Engine) (dst : Nat) (r : StepRecord) : Engine :=
  let bytes := r.bytes
  let manifest := if e.manages then ((Table.get? e.ylm.archive r.step).map e.manifestBytes).getD [] else []
  e.send 0x13 dst e.stepNo (journalBody r.step e.mdv.rank bytes manifest)

/-- The rank that the map gives a node. -/
def Engine.rankOfNode (e : Engine) (node : Nat) : Option Nat := (e.mdv.given.find? fun x => x.2.node == node).map Prod.fst

/-- The ranks that mirror this engine: its partner, and an engine that shadows it. -/
def Engine.mirrorTo (e : Engine) : List Nat :=
  e.partner.toList ++ ((e.flt.shadow.watching.filter fun w => w.1 == e.mdv.rank).filterMap fun w => e.rankOfNode w.2.1)

/-- A mirror burst runs and ends. -/
def Engine.mirrorGranted (e : Engine) (tag : Nat) : Engine :=
  let records := e.unmirrored
  let e := e.mirrorTo.foldl (fun e dst => records.foldl (fun e r => e.sendJournal dst r) e) e
  e.endGrant true tag

/-- A grant begins its operation; one whose requester is held in reset ends at once. -/
def Engine.leaveTaken (e : Engine) (ch1 : Bool) (r : LeaveReq) : Engine :=
  if e.glb.mainReset then e.endGrant ch1 r.tag
  else match r.for_ with
    | .step _ => e.stepGranted r.tag r.cred
    | .workerStep n => e.workerGranted r.tag n
    | .move => e.moveGranted r.tag
    | .load => e.loadGranted r.tag
    | .mirror => e.mirrorGranted r.tag
    | .bist => e

/-- The request stays, and asks again after CPC_LEAVE_RETRY.US. -/
def Engine.leaveAgain (e : Engine) (ch1 : Bool) (r : LeaveReq) : Engine :=
  let c := e.channel ch1
  e.putChannel ch1 { c with waiting := { r with retry := true } :: c.waiting }

/-- A refusal with an offer (R361). -/
def Engine.leaveRefused (e : Engine) (ch1 : Bool) (r : LeaveReq) (offer : Nat) : Engine :=
  match r.for_ with
  | .step _ => e.stepRefused r.tag offer
  | .move => e.moveRefused
  | .workerStep _ =>
    let e := if e.ylm.leaveWait then e else e.bump Cnt.mdvLeaveWait
    let e : Engine := { e with ylm := { e.ylm with leaveWait := true } }
    e.leaveAgain ch1 r
  | _ => e.leaveAgain ch1 r

/-! ### Answers (R360, R361) -/

/-- RSP rises, with OK and OFFER. -/
def Engine.leaveAnswer (e : Engine) (ch1 ok : Bool) (offer : Nat) : Engine :=
  let c := e.channel ch1
  match c.releasing, c.asking with
  | some _, _ => (e.putChannel ch1 { c with releasing := none, closing := true }).emit (.leaveDrop ch1)
  | none, some r =>
    let e := (e.putChannel ch1 { c with asking := none, closing := true }).emit (.leaveDrop ch1)
    if ok then
      let c := e.channel ch1
      ((e.putChannel ch1 { c with grants := c.grants ++ [r] }).bump Cnt.cpcLeaveGrant).leaveTaken ch1 r
    else if e.glb.mainReset then e
    else if offer < r.cred then (e.bump Cnt.cpcLeaveRefuse).leaveRefused ch1 r offer
    else ((e.bump Cnt.cpcLeaveBad).log Ev.leaveBad [r.cls, offer, r.cred]).leaveAgain ch1 r
  | none, none => e

def execLeaveResponse (channel ok : Bool) (offer : BitVec 32) (s : State) : Host.Outcome State Fault Refusal :=
  s.actIn Isl.ao fun e => e.leaveAnswer channel ok offer.toNat

/-- The power manager drops RSP. -/
def execRspLow (channel : Bool) (s : State) : Host.Outcome State Fault Refusal :=
  s.actIn Isl.ao fun e => e.putChannel channel { e.channel channel with closing := false }

/-- No RSP within CPC_LEAVE_TO.US: REQ drops, and the channel is free; a request is refused with OFFER 0, a RELEASE is done. -/
def Engine.leaveSilent (e : Engine) (ch1 : Bool) : Engine :=
  let c := e.channel ch1
  match c.releasing, c.asking with
  | some tag, _ =>
    let e := (e.putChannel ch1 { c with releasing := none }).emit (.leaveDrop ch1)
    (e.bump Cnt.cpcLeaveTo).corrected Det.leaveWatchdog tag
  | none, some r =>
    let e := (e.putChannel ch1 { c with asking := none }).emit (.leaveDrop ch1)
    let e := (e.bump Cnt.cpcLeaveTo).corrected Det.leaveWatchdog r.tag
    if e.glb.mainReset then e else e.leaveRefused ch1 r 0
  | none, none => e

def execLeaveTimeout (channel : Bool) (s : State) : Host.Outcome State Fault Refusal :=
  s.actIn Isl.ao fun e => e.leaveSilent channel

/-- CPC_LEAVE_RETRY.US has passed for the request that waits longest: it may be driven again. -/
def retryFirst : List LeaveReq → List LeaveReq
  | [] => []
  | r :: l => if r.retry then { r with retry := false } :: l else r :: retryFirst l

def execLeaveRetry (channel : Bool) (s : State) : Host.Outcome State Fault Refusal :=
  s.actIn Isl.ao fun e =>
    let c := e.channel channel
    e.putChannel channel { c with waiting := retryFirst c.waiting }

/-- A release that is due goes on the channel: CLS 0, the grant's TAG, CRED 0 (R362). -/
def Engine.leaveEnds (e : Engine) (ch1 : Bool) : Engine :=
  let c := e.channel ch1
  match c.due with
  | [] => e
  | tag :: due =>
    if c.free then (e.putChannel ch1 { c with due := due, releasing := some tag }).emit (.leaveReq ch1 0 0 tag) else e

def execLeaveRelease (channel : Bool) (s : State) : Host.Outcome State Fault Refusal :=
  s.actIn Isl.ao fun e => e.leaveEnds channel

end Sys2Proof.Machine
end

