-- ==== Sys2Proof/Machine/Random.lean ====
section
/-!
DEFINITION. Machine/Random.lean: the commands of the spar generator: the tile port, shadow checks and known answers (chapter 9,
R377).
-/

namespace Sys2Proof.Machine

/-! ### The tile port (R229, R377) -/

/-- Does an instance field name a course and a layer of the manifest in force (R222)? -/
def Engine.siteFits (e : Engine) (y : Yealm) (site : Nat) : Bool :=
  match y.courses[bitsOf site 18 6]? with
  | none => false
  | some c => decide (bitsOf site 8 10 < (e.family c.family).layers)

/-- Is a request slot served? -/
def Engine.servesTile (e : Engine) (purpose site step : Nat) : Option Yealm :=
  match e.ylm.current with
  | none => none
  | some y =>
    if e.flag Fld.spgCtlTileEn && (purpose == 0x10 || purpose == 0x11) && step == y.step % 65536 && e.siteFits y site then some y else none

/-- A request slot of the tile port: four words, or zero words and the error flag. -/
def Engine.tileRequest (e : Engine) (purpose : Nat) (c0 c1 : BitVec 32) (site : BitVec 24) (step : Nat) : Engine :=
  let (injected, e) := e.evaluate Det.sparReject
  match injected, e.servesTile purpose site.toNat step with
  | false, some y =>
    let q := tileWords y.step purpose c0 c1 (site.setWidth 32) y.epoch
    (e.evaluations true 1).emit (.spgWords [q.x0, q.x1, q.x2, q.x3] false)
  | _, _ =>
    let e := (e.emit (.spgWords [0, 0, 0, 0] true)).bump Cnt.spgTileReject
    e.stepError Det.sparReject [] purpose (some injected)

def execSpgTileRequest (purpose : BitVec 8) (c0 c1 : BitVec 32) (site : BitVec 24) (step : BitVec 16) (s : State) :
    Host.Outcome State Fault Refusal :=
  s.cross Isl.sp (.spgTileRequest purpose c0 c1 site step) fun e => e.tileRequest purpose.toNat c0 c1 site step.toNat

/-! ### Shadow checks (R230) -/

/-- A spare not in service recomputes an evaluation of an active core; the fixed evaluations name the culprit of a mismatch. -/
def Engine.shadowCore (e : Engine) (active : Nat) (agrees : Bool) (culprit : Nat) : Engine :=
  let checked := ((Table.get? e.spg.cores active).map (·.active)).getD false
  if !e.flag Fld.spgCtlShadowEn || !checked || !(e.spg.cores.any fun c => c.2.spare) then e
  else
    let (injected, e) := e.evaluate Det.sparShadow
    let e := e.bump Cnt.spgShadow
    if agrees && !injected then e
    else
      let e : Engine := { e with spg := { e.spg with culprits := if agrees then e.spg.culprits else insertNat culprit e.spg.culprits } }
      (e.bump Cnt.spgMismatch).stepError Det.sparShadow [] active (some injected)

def execShadowCheck (active : BitVec 9) (agrees : Bool) (culprit : BitVec 9) (s : State) : Host.Outcome State Fault Refusal :=
  s.actIn Isl.sp fun e => e.shadowCore active.toNat agrees culprit.toNat

/-! ### Known answers (R233) -/

/-- Output registers of a known-answer command. -/
def katOut (n : Nat) : Field := { off := 0x07003C + 4 * n, lsb := 0, width := 32, reset := 0, signed := false, lo := 0, hi := 4294967295 }

def katG : Field := { off := 0x07004C, lsb := 0, width := 32, reset := 0, signed := false, lo := 0, hi := 4294967295 }

/-- The evaluation with the key and counter of the SPG_KAT registers. -/
def Engine.katRun (e : Engine) (withG : Bool) : Engine :=
  let word := fun (f : Field) => BitVec.ofNat 32 (e.get f)
  let q := spar (word Fld.spgKatKey0K0) (word Fld.spgKatKey1K1)
    { x0 := word Fld.spgKatCtr0C, x1 := word Fld.spgKatCtr1C, x2 := word Fld.spgKatCtr2C, x3 := word Fld.spgKatCtr3C }
  let e := (((e.put (katOut 0) q.x0.toNat).put (katOut 1) q.x1.toNat).put (katOut 2) q.x2.toNat).put (katOut 3) q.x3.toNat
  let e : Engine := { e with spg := { e.spg with katBusy := false } }
  if withG then e.put katG (gumbel q.x0).toNat else e

/-- A write of GO = 1: on an active core with a step in compute it waits for the next boundary (Table 9.3). -/
def Engine.katStart (e : Engine) (withG : Bool) : Engine :=
  let active := ((Table.get? e.spg.cores (e.get Fld.spgCoreSelCore)).map (·.active)).getD false
  if active && e.ylm.current.isSome && !e.boundaryOpen then { e with spg := { e.spg with katBusy := true, katGumbel := withG } }
  else e.katRun withG

/-- The command that waits runs when a boundary opens. -/
def Engine.katOpen (e : Engine) : Engine := if e.spg.katBusy then e.katRun e.spg.katGumbel else e

def execKatCommand (gumbel : Bool) (s : State) : Host.Outcome State Fault Refusal := s.cross Isl.sp (.katCommand gumbel) fun e => e.katStart gumbel

end Sys2Proof.Machine
end

