-- ==== Sys2Proof/Machine/StepCycle.lean ====
section
/-!
DEFINITION. Machine/StepCycle.lean: a step from its manifest's acknowledgement to its completion: the begin of a step, courses and
their segment sets, base stalls, failed reads, and the composer's mode (R5, R23, R26, R113, R126 to R129, R135, R212, R247, R375).
-/

namespace Sys2Proof.Machine

/-! ### The begin of a step (R5, R26, R113, R209, R212) -/

/-- Does the engine work in a group of more than one rank, under course-start orders (R247)? -/
def Engine.grouped (e : Engine) : Bool := (e.mdv.joined || e.shadows) && decide (1 < e.mdv.map.length)

/-- SEQ_END at the start of a step for a member: its request's, or on a worker that has seen no token of it yet, the one its
manifest entry gives (R244). -/
def Engine.seqAtStart (e : Engine) (m : Member) (r : Rafter) : Nat :=
  if e.follows && (m.kind != 0 || r.seqEnd == 0) then m.start + (if m.kind = 0 then 1 else m.count) else r.seqEnd

/-- Will a member not run in the step that begins (R25, R113)? A worker judges by what the TOKENS messages have told it (R249). -/
def Engine.beginsVacated (e : Engine) (m : Member) : Bool :=
  if e.follows then
    match e.anyReq? m.slot with
    | none => true
    | some r => m.kind = 0 && (r.state == .retiring || (r.seqEnd != 0 && !m.suits r))
  else e.willVacate m

/-- A member as its step begins: SEQ_END, ADVANCE and the guesses its speculative positions run on. -/
def Engine.beginMember (e : Engine) (m : Member) : Member :=
  let pads := List.replicate m.spec pad
  match e.anyReq? m.slot with
  | none => { m with vacated := true, guesses := pads }
  | some r =>
    if e.beginsVacated m then { m with vacated := true, seqStart := e.seqAtStart m r, guesses := pads }
    else if m.kind ≠ 0 then { m with seqStart := e.seqAtStart m r }
    else { m with seqStart := e.seqAtStart m r, advance := r.kvEnd - m.start,
                  guesses := if e.guessEn then ((e.guessStore m.slot).tokens ++ pads).take m.spec else pads }

/-- SMP_CTL as a step captures it (R220). -/
def Engine.smpCtl (e : Engine) : Nat :=
  e.get Fld.smpCtlStrictNan + 2 * e.get Fld.smpCtlHeadTest + 4 * e.get Fld.smpCtlGuessEn

/-- No ACK of a step yet; the step runs a manifest of this digest. -/
def AckMerge.open (digest : BitVec 64) : AckMerge :=
  { digest := digest, children := [], cover := 0, error := false, mismatch := false, leaveWait := false, waitUs := 0, missing := noRank,
    own := false, sent := false }

/-- The step's units start from nothing: its times, stalls, draws and messages. -/
def Engine.openStep (e : Engine) (y : Yealm) : Engine :=
  { e with stepNo := y.step, adm := { e.adm with stepEnd := e.now + y.predNs, measured := [] },
           smp := { e.smp with nextEmit := 0, ctxs := [], updates := [] },
           flt := { e.flt with shadow := { e.flt.shadow with partials := [] } },
           ylm := { e.ylm with current := some y, next := none, runs := [], stepDone := false, stallNs := 0, stallFrom := none,
                               mfDelivered := false, reStep := none, reRetried := false },
           mdv := { e.mdv with acks := Table.put (Table.keep e.mdv.acks fun k _ => decide (y.step ≤ k + 1)) y.step (.open y.digest), parts := [], tokensSeen := [],
                               segs := Table.keep e.mdv.segs fun k _ => decide (64 * y.step ≤ k) } }

/-- A compose stall that ends as the step begins is recorded with its ns (R26). -/
def Engine.endStall (e : Engine) (step : Nat) : Engine :=
  match e.ylm.stallFrom with
  | none => e
  | some t => e.log Ev.composeStall [step, e.now - t]

/-- A partner that took a rank in the middle of a step had kept the manifest of the next one as a standby: it is executed in its turn (R273). -/
def Engine.takeKept (e : Engine) : Engine :=
  match Table.get? e.ylm.archive (e.stepNo + 1) with
  | some y => if e.executes && e.mdv.manifestIn.isNone then e.acceptManifest y else e
  | none => e

/-- Step n + 1 begins: the legget gives the tiles the inputs of its decode members. An empty yealm has no course whose begin could
be the next seal point: its own is. -/
def Engine.beginStep (e : Engine) (y : Yealm) : Engine :=
  let e : Engine := { e with smp := { e.smp with ctl := e.smpCtl } }
  let y := { y with members := y.members.map e.beginMember }
  let e := (((e.endStall y.step).openStep y).beginRecord y).journalMembers
  let e := ((e.bumpBy Cnt.sbVacated (y.members.filter (·.vacated)).length).decodeInputs y).takeKept
  if y.courses.isEmpty then e.sealPoint else e

/-- A step begins once its manifest is delivered and the boundary before it has closed. -/
def Engine.tryBegin (e : Engine) : Engine :=
  match e.ylm.next with
  | none => e
  | some y =>
    if e.ylm.current.isNone && !e.boundaryOpen && e.ylm.mfDelivered && !e.err.fatal && !e.mdv.fenced then e.beginStep y else e

/-! ### Delivery of a manifest (R135, R136, R375) -/

/-- Is an acknowledgement for the manifest outstanding? -/
def Engine.awaitsAck (e : Engine) (step : Nat) : Bool :=
  match e.ylm.mfStep with
  | none => false
  | some n => n % 65536 == step

/-- The manifest is delivered, and archived. -/
def Engine.manifestDelivered (e : Engine) : Engine :=
  match e.ylm.next with
  | none => e
  | some y =>
    ({ e with ylm := { e.ylm with mfStep := none, mfDelivered := true, mfRetried := false, mfFailures := 0,
                                  archive := Table.put e.ylm.archive y.step y } } : Engine).tryBegin

/-- DETAIL of a failed delivery (Table 15.2): the watchdog's unit; of a failed check the sequencer, which no signal names: it is
a free value. -/
def Engine.manifestDetail (e : Engine) (det : Nat) : Nat × Engine :=
  if det = Det.manifestCheck then
    let (v, e) := e.free
    (v.toNat, e)
  else (unitDetail det, e)

/-- A failed delivery: the step in compute, when there is one uncommitted, is aborted; the manifest is emitted again. One beyond
FLT_REPLAY_MAX.N is FATAL. -/
def Engine.manifestLost (e : Engine) (det : Nat) : Engine :=
  match e.ylm.next with
  | none => e
  | some y =>
    let n := e.ylm.mfFailures + 1
    let e : Engine := { e with ylm := { e.ylm with mfRetried := false, mfFailures := n } }
    let (detail, e) := e.manifestDetail det
    if e.get Fld.fltReplayMaxN < n then e.raiseFatal det nullHandle detail
    else
      let busy := e.ylm.current.any fun x => decide (e.flt.commitStep < x.step)
      let e := if busy then e.stepError det [] detail else (e.sendAbort y.step det).report det Cls.step nullHandle detail
      if e.err.fatal then e else e.emitManifest y

/-- RETRY: one re-emission; the second is a failed delivery. -/
def Engine.manifestRetry (e : Engine) : Engine :=
  match e.ylm.next with
  | none => e
  | some y =>
    if e.ylm.mfRetried then e.manifestLost Det.manifestCheck
    else ({ e with ylm := { e.ylm with mfRetried := true } } : Engine).emitManifest y

/-- Is an acknowledgement outstanding for the manifest of the step replayed? -/
def Engine.awaitsAgain (e : Engine) (step : Nat) : Bool :=
  match e.ylm.reStep with
  | none => false
  | some n => n % 65536 == step

/-- The replayed step's manifest is delivered. -/
def Engine.againDelivered (e : Engine) : Engine := { e with ylm := { e.ylm with reStep := none, reRetried := false, reFailures := 0 } }

/-- Its delivery fails: the step is replayed again. One beyond FLT_REPLAY_MAX.N is FATAL. -/
def Engine.againLost (e : Engine) (det : Nat) : Engine :=
  let n := e.ylm.reFailures + 1
  let e : Engine := { e with ylm := { e.ylm with reRetried := false, reFailures := n } }
  let (detail, e) := e.manifestDetail det
  if e.get Fld.fltReplayMaxN < n then e.raiseFatal det nullHandle detail else e.stepError det [] detail

/-- RETRY of the replayed step's manifest: one re-emission. -/
def Engine.againRetry (e : Engine) : Engine :=
  match e.ylm.current with
  | none => e
  | some y =>
    if e.ylm.reRetried then e.againLost Det.manifestCheck else ({ e with ylm := { e.ylm with reRetried := true } } : Engine).emitAgain y

/-- An acknowledgement: of the manifest outstanding for the next step, or of the one emitted again for a replay; one that names neither is
recorded and ignored. -/
def Engine.manifestAck (e : Engine) (step : Nat) (f g : Engine → Engine) : Engine :=
  if e.awaitsAck step then f e else if e.awaitsAgain step then g e else e.log Ev.manifestAckIgnored [step]

/-- A sequencer's OK, which an injected check turns into a RETRY. -/
def Engine.checkedOk (e : Engine) (ok retry : Engine → Engine) : Engine :=
  let (bad, e) := e.evaluate Det.manifestCheck
  if bad then retry e else ok e

def execManifestAckOk (step : BitVec 16) (s : State) : Host.Outcome State Fault Refusal :=
  s.cross Isl.sb (.manifestAckOk step) fun e => e.manifestAck step.toNat
    (fun e => e.checkedOk Engine.manifestDelivered Engine.manifestRetry) fun e => e.checkedOk Engine.againDelivered Engine.againRetry

def execManifestAckRetry (step : BitVec 16) (s : State) : Host.Outcome State Fault Refusal :=
  s.cross Isl.sb (.manifestAckRetry step) fun e => e.manifestAck step.toNat Engine.manifestRetry Engine.againRetry

/-- No acknowledgement within YLM_MF_TO.US; with two manifests outstanding, of the one emitted first. -/
def execManifestAckTimeout (s : State) : Host.Outcome State Fault Refusal :=
  s.actIn Isl.sb fun e => if e.ylm.mfStep.isSome then e.manifestLost Det.manifestWatchdog
    else if e.ylm.reStep.isSome then e.againLost Det.manifestWatchdog else e

/-! ### Courses (R23, R247, Table 17.3) -/

/-- A course not yet touched in this run of the step. -/
def CourseRun.fresh : CourseRun :=
  { begun := false, late := [], failedSeg := [], reported := false, ordered := false, baseFail := false }

def Engine.run (e : Engine) (k : Nat) : CourseRun := Table.getD e.ylm.runs k .fresh

def Engine.putRun (e : Engine) (k : Nat) (x : CourseRun) : Engine := { e with ylm := { e.ylm with runs := Table.put e.ylm.runs k x } }

/-- A tile report of a course that the manifest in compute has not is ignored and recorded (R375). -/
def Engine.ignoreReport (e : Engine) (k : Nat) : Engine := e.log Ev.tileReportIgnored [k]

/-- Runs f with the yealm in compute and one of its courses. -/
def Engine.onCourse (e : Engine) (k : Nat) (f : Yealm → Course → Engine → Engine) : Engine :=
  match e.ylm.current with
  | none => e.ignoreReport k
  | some y => match y.courses[k]? with
    | none => e.ignoreReport k
    | some c => f y c e

/-- May course k begin: those before it have, and in a group its order has come? -/
def Engine.mayBegin (e : Engine) (k : Nat) : Bool :=
  !e.ylm.stepDone && !(e.run k).begun && ((List.range k).all fun j => (e.run j).begun) && (!e.grouped || (e.run k).ordered)

/-- A course has begun; the last one's begin is the seal point of the next yealm. -/
def Engine.courseBegins (e : Engine) (k : Nat) : Engine :=
  e.onCourse k fun y _ e =>
    if e.mayBegin k then
      let e := e.putRun k { e.run k with begun := true }
      if k + 1 = y.courses.length then e.sealPoint else e
    else e

def execCourseBegun (course : BitVec 6) (s : State) : Host.Outcome State Fault Refusal :=
  s.cross Isl.sb (.courseBegun course) fun e => e.courseBegins course.toNat

/-- A course's measured time (R100). -/
def execCourseTime (course : BitVec 6) (ns : BitVec 32) (s : State) : Host.Outcome State Fault Refusal :=
  s.cross Isl.sb (.courseTime course ns) fun e => e.onCourse course.toNat fun _ _ e =>
    { e with adm := { e.adm with measured := Table.put e.adm.measured course.toNat ns.toNat } }

/-! ### Members that a failure or a late segment touches (R127 to R129) -/

/-- Changes the members of the yealm in compute that a test names. -/
def Engine.changeMembers (e : Engine) (hit : Nat → Member → Bool) (f : Member → Member) : Engine :=
  ({ e with ylm := { e.ylm with current := e.ylm.current.map fun y =>
      { y with members := (y.members.zipIdx).map fun x => if hit x.2 x.1 then f x.1 else x.1 } } } : Engine).journalMembers

/-- The members of the yealm in compute that a test names. -/
def Engine.membersWhere (e : Engine) (hit : Nat → Member → Bool) : List Member :=
  match e.ylm.current with
  | none => []
  | some y => (y.members.zipIdx.filter fun x => hit x.2 x.1).map Prod.fst

/-- Is member i of a course? -/
def Course.has (c : Course) (i : Nat) : Bool := decide (c.firstMember ≤ i ∧ i < c.firstMember + c.members)

/-- Is a member of the course in one of the named segments of it? -/
def Course.inSegments (c : Course) (js : List Nat) (i : Nat) (m : Member) : Bool :=
  c.has i && decide (c.firstSegment ≤ m.segment) && js.contains (m.segment - c.firstSegment)

/-- Members lose their step to a failed read: their requests end TIER_FAILED (R128). A worker holds no requests. -/
def Engine.failMembers (e : Engine) (hit : Nat → Member → Bool) (det detail : Nat) : Engine :=
  let slots := (e.membersWhere fun i m => hit i m && !m.failed).map Member.slot
  let e := e.changeMembers hit fun m => { m with failed := true }
  if e.follows then e else slots.foldl (fun e s => e.requestError det s Status.tierFailed detail) e

/-- An addition slot's read has failed: its version is known and not resident; a RETIRING one goes on retiring, without reload (R128, Table
7.7). -/
def Engine.loseSlot (e : Engine) (s : Nat) : Engine :=
  match Table.get? e.var.slots s with
  | none => e
  | some x =>
    let e := e.modRecord x.addition x.version fun r => { r with vstate := if r.vstate = 2 then 3 else r.vstate, lost := r.vstate == 4 }
    ((e.freeSlot s).settleRecord x.addition x.version).log Ev.slotFailed [s]

/-- A family's weights have failed: it is copied again into the same granules (R173). -/
def Engine.loseFamily (e : Engine) (f : Nat) : Engine :=
  let x := e.family f
  if x.state = 2 then
    if x.weightBytes = 0 then e
    else ((e.putFamily f { x with state := 3 }).addJob (.family f true) (chunksOf x.weightBytes)).nextLoadBurst
  else e

/-- The failed segments of a course: their members end, their slots are lost. -/
def Engine.failSegments (e : Engine) (y : Yealm) (c : Course) (js : List Nat) : Engine :=
  if js.isEmpty then e
  else
    let e := e.failMembers (c.inSegments js) Det.slotRead (js.headD 0)
    let slots := js.filterMap fun j => (y.segments[c.firstSegment + j]?).map (·.slot)
    if e.follows then e else slots.foldl (fun e s => e.loseSlot s) e

/-- The late segments of a course: deferred in SERVICE, else served from the base (R127, R129). The counts are those of a set
decided now, not of one a replay repeats. -/
def Engine.lateSegments (e : Engine) (y : Yealm) (c : Course) (js : List Nat) (counted : Bool) : Engine :=
  let hit := fun (i : Nat) (m : Member) => c.inSegments js i m && !m.failed
  if y.mode = 0 then
    let e := e.changeMembers hit fun m => { m with deferred := true }
    if counted then e.bumpBy Cnt.ylmSegLate js.length else e
  else
    let ms := e.membersWhere hit
    let e := e.changeMembers hit fun m => { m with baseOnly := true }
    let e := ms.foldl (fun e m => e.markBaseOnly m.slot (m.start + m.advance) (m.start + m.advance + m.count - 1)) e
    if counted then e.bumpBy Cnt.ylmBaseOnly ms.length else e

/-- The failed base read of a course (R128). -/
def Engine.failCourse (e : Engine) (k : Nat) (c : Course) : Engine :=
  let e := e.failMembers (fun i _ => c.has i) Det.baseRead k
  if e.follows then e else e.loseFamily c.family

/-! ### The set a course runs with (R127, R247, R269) -/

/-- The set a record already holds for a course. -/
def Engine.recordedSet (e : Engine) (step k : Nat) : Option (List Nat × List Nat × Bool) :=
  (e.stepRec? step).bind fun r => match Table.get? r.late k, Table.get? r.failedSeg k with
    | some l, some f => some (l, f, r.baseFail.contains k)
    | _, _ => none

/-- The words of a course-start order (R375): kind 1 with the course, then one for each late segment, by its place in the manifest (log
entry 51), told to run base-only in a mode that serves it so (R129). -/
def Course.startWords (c : Course) (k : Nat) (late : List Nat) (baseOnly : Bool) : List (BitVec 128) :=
  BitVec.ofNat 128 (place 1 0 4 + place k 4 6) ::
    late.map fun j => BitVec.ofNat 128 (place 1 0 4 + place (c.firstSegment + j) 4 14 + place (bit baseOnly) 18 1)

/-- The set of a course is fixed: it enters the step's record and is applied, and the tiles may start the course. -/
def Engine.applySet (e : Engine) (y : Yealm) (k : Nat) (c : Course) (late failed : List Nat) (baseFail counted : Bool) : Engine :=
  let late := late.filter fun j => !failed.contains j
  let e := e.modStepRec y.step fun r =>
    { r with late := Table.put r.late k late, failedSeg := Table.put r.failedSeg k failed,
             baseFail := if baseFail then insertNat k r.baseFail else r.baseFail }
  let e := e.putRun k { e.run k with reported := true, ordered := true, late := late, failedSeg := failed, baseFail := baseFail }
  let e := if baseFail then e.failCourse k c else e
  let e := (e.failSegments y c failed).lateSegments y c late counted
  e.emitCtl (c.startWords k late (y.mode != 0))

/-- The set, from the record when it holds one, else as it is decided now. -/
def Engine.decideSet (e : Engine) (y : Yealm) (k : Nat) (c : Course) (late failed : List Nat) (baseFail : Bool) : Engine :=
  match e.recordedSet y.step k with
  | some (l, f, b) => e.applySet y k c l f b false
  | none => e.applySet y k c late failed baseFail true

/-! Bitmaps of a course's segments (Table 10.5). -/

/-- The segments a bitmap names. -/
def bitmapSegs (b : BitVec 1024) : List Nat := (List.range 1024).filter fun j => b.getLsbD j

/-- The bitmap of a list of segments. -/
def segsBitmap (l : List Nat) : BitVec 1024 := BitVec.ofNat 1024 (segBitmap l)

/-- Key of a course's merged reports. -/
def segKey (step k : Nat) : Nat := 64 * step + k

def SegMerge.empty : SegMerge := { children := [], late := 0, failed := 0, baseFail := false, own := false, sent := false }

def Engine.segMerge (e : Engine) (step k : Nat) : SegMerge := Table.getD e.mdv.segs (segKey step k) .empty

def Engine.putSegMerge (e : Engine) (step k : Nat) (g : SegMerge) : Engine :=
  { e with mdv := { e.mdv with segs := Table.put e.mdv.segs (segKey step k) g } }

/-- The manager's order for a course: the set its record holds, or the union, to every rank below, and for its own chip. -/
def Engine.orderCourse (e : Engine) (y : Yealm) (k : Nat) (c : Course) (g : SegMerge) : Engine :=
  let e := e.decideSet y k c (bitmapSegs g.late) (bitmapSegs g.failed) g.baseFail
  let x := e.run k
  e.send 0x04 0xFFFF y.step (segBody k (segBitmap x.late) (segBitmap x.failedSeg) x.baseFail)

/-- Are the reports of a course's subtree all here, and not passed on yet? A standby has none of its own. -/
def Engine.reportsWhole (e : Engine) (g : SegMerge) : Bool := !g.sent && (g.own || e.bystands) && e.reporters.all g.children.contains

/-- The merged report of a course goes up. -/
def Engine.relayReport (e : Engine) (step k : Nat) : Engine :=
  let g := e.segMerge step k
  if !e.reportsWhole g then e
  else (e.putSegMerge step k { g with sent := true }).send 0x03 e.parentRank step (segBody k g.late.toNat g.failed.toNat g.baseFail)

/-- Once an engine holds its own report and every child's, the merged one goes up; the manager orders the course. -/
def Engine.passReports (e : Engine) (y : Yealm) (k : Nat) (c : Course) : Engine :=
  let g := e.segMerge y.step k
  if !e.manages then e.relayReport y.step k
  else if !e.reportsWhole g then e
  else (e.putSegMerge y.step k { g with sent := true }).orderCourse y k c g

/-- The chip's own report of a course. -/
def Engine.ownReport (e : Engine) (y : Yealm) (k : Nat) (c : Course) : Engine :=
  let x := e.run k
  let g := e.segMerge y.step k
  let e := e.putRun k { x with reported := true }
  (e.putSegMerge y.step k { g with own := true, late := g.late ||| segsBitmap x.late, failed := g.failed ||| segsBitmap x.failedSeg,
                                   baseFail := g.baseFail || x.baseFail }).passReports y k c

/-- The chip's report of a course is complete: alone it fixes the set, in a group it goes up. -/
def Engine.fixSet (e : Engine) (k : Nat) : Engine :=
  e.onCourse k fun y c e =>
    let x := e.run k
    if x.reported then e
    else if e.grouped then e.ownReport y k c
    else e.decideSet y k c x.late x.failedSeg x.baseFail

def execSegDone (course : BitVec 6) (s : State) : Host.Outcome State Fault Refusal := s.cross Isl.sb (.segDone course) fun e => e.fixSet course.toNat

/-- YLM_ADD_WAIT.US has passed since a course's due start: what has been reported late by then is the set (R127). -/
def execSegmentWaitExpiry (course : BitVec 6) (s : State) : Host.Outcome State Fault Refusal :=
  s.actIn Isl.sb fun e => if (e.run course.toNat).reported then e else e.fixSet course.toNat

/-- A segment is late, or its slot read has failed. After the set is fixed only a failure counts: its members end (R128). -/
def Engine.segReported (e : Engine) (k j : Nat) (failed : Bool) : Engine :=
  e.onCourse k fun y c e =>
    let x := e.run k
    let real := match y.segments[c.firstSegment + j]? with | some g => !g.null | none => false
    if c.segments ≤ j || !real then e
    else
      if x.reported then
        if !failed then e
        else if e.manages || !e.grouped then e.failSegments y c [j]
        else e.send 0x03 e.parentRank y.step (segBody k 0 (segBitmap [j]) false)
      else if failed then e.putRun k { x with failedSeg := insertNat j x.failedSeg }
      else e.putRun k { x with late := insertNat j x.late }

def execSegLate (course : BitVec 6) (segment : BitVec 10) (failed : Bool) (s : State) : Host.Outcome State Fault Refusal :=
  s.cross Isl.sb (.segLate course segment failed) fun e => e.segReported course.toNat segment.toNat failed

/-! ### Base weights (R126, R128, R129) -/

/-- A base stall of a course is counted, accumulated and recorded. YLM_CNT_STALL_US takes its whole µs (log entry 51). -/
def Engine.baseStalls (e : Engine) (k ns : Nat) : Engine :=
  e.onCourse k fun _ _ e =>
    let e : Engine := { e with ylm := { e.ylm with stallNs := e.ylm.stallNs + ns } }
    ((e.bump Cnt.ylmBaseStall).bumpBy Cnt.ylmStallUs (ns / 1000)).log Ev.baseStall [k, ns]

def execBaseStall (course : BitVec 6) (ns : BitVec 32) (s : State) : Host.Outcome State Fault Refusal :=
  s.cross Isl.sb (.baseStall course ns) fun e => e.baseStalls course.toNat ns.toNat

/-- The step's stall is beyond YLM_STALL_LIMIT.US: STEP class in SERVICE; in the other modes the step waits, and the family's
depth falls as the boundary closes. -/
def Engine.stallLimit (e : Engine) (k : Nat) : Engine :=
  e.onCourse k fun y c e =>
    if e.ylm.stallNs ≤ e.get Fld.ylmStallLimitUs * 1000 then e
    else if y.mode = 0 then e.stepError Det.baseStall [k] (unitDetail Det.baseStall)
    else { e with ylm := { e.ylm with lowerDue := insertNat c.family e.ylm.lowerDue } }

def execBaseStallLimitExceeded (course : BitVec 6) (s : State) : Host.Outcome State Fault Refusal :=
  s.actIn Isl.sb fun e => e.stallLimit course.toNat

/-- A failed base-weight read of a course. Alone it is applied at once; in a group it travels with the course's report. -/
def Engine.baseFails (e : Engine) (k : Nat) : Engine :=
  e.onCourse k fun y c e =>
    if e.grouped then
      let e := e.putRun k { e.run k with baseFail := true }
      if !(e.run k).reported then e
      else if e.manages then e.failCourse k c
      else e.send 0x03 e.parentRank y.step (segBody k 0 0 true)
    else
      let e := e.modStepRec y.step fun r => { r with baseFail := insertNat k r.baseFail }
      (e.putRun k { e.run k with baseFail := true }).failCourse k c

def execBaseFailed (course : BitVec 6) (s : State) : Host.Outcome State Fault Refusal :=
  s.cross Isl.sb (.baseFailed course) fun e => e.baseFails course.toNat

/-- One grade step down: A to B at depth 3, depth 3 to 2, depth 2 to C; C stays (R129). -/
def Engine.lowerFit (e : Engine) (f : Nat) : Option Fit :=
  let x := e.fitOf f
  let w := match x.grade, x.depth with
    | 0, _ => some 3
    | 1, 3 => some 2
    | 1, _ => some 0
    | _, _ => none
  w.map fun w => { grade := if w = 0 then 2 else 1, depth := w, maxPos := (e.family f).maxPos e.halfWindow w }

/-- The families whose step stalled too long fall one grade step. -/
def Engine.lowerDepths (e : Engine) : Engine :=
  let due := e.ylm.lowerDue
  due.foldl (fun e f => match e.lowerFit f with
    | none => e
    | some x =>
      let e : Engine := { e with ylm := { e.ylm with lowered := Table.put e.ylm.lowered f x } }
      e.bump Cnt.ylmWinReduce) { e with ylm := { e.ylm with lowerDue := [] } }

/-! ### KV pages (R128, R164, R247) -/

/-- An uncorrectable KV page read: the members that hold the page fail, and the page is lost. A worker tells its manager. -/
def Engine.kvFails (e : Engine) (p : Nat) : Engine :=
  if e.follows then e.send 0x05 e.parentRank e.stepNo (pageFailBody p)
  else
    let holders := e.holdersOf p
    let e := e.changeMembers (fun _ m => holders.contains m.slot && !m.vacated) fun m => { m with failed := true }
    e.failPage p

def execKvFailed (entry : BitVec 22) (s : State) : Host.Outcome State Fault Refusal := s.cross Isl.pg (.kvFailed entry) fun e => e.kvFails entry.toNat

/-! ### The end of a step's compute (R5, R250) -/

/-- Every course of the step has begun. -/
def Engine.allBegun (e : Engine) (y : Yealm) : Bool := (List.range y.courses.length).all fun k => (e.run k).begun

/-- The tile sequencers report the step complete. -/
def Engine.stepDoneBy (e : Engine) (step : Nat) : Engine :=
  match e.ylm.current with
  | none => e
  | some y =>
    if y.step % 65536 = step && !e.ylm.stepDone && e.allBegun y then
      ({ e with ylm := { e.ylm with stepDone := true, stepDoneAt := e.now } } : Engine).passAck
    else e

def execStepDone (step : BitVec 16) (s : State) : Host.Outcome State Fault Refusal := s.cross Isl.sb (.stepDone step) fun e => e.stepDoneBy step.toNat

/-! ### The composer's mode and admission (R109, R129, R383) -/

/-- RECOVERY has lasted YLM_RECOVER_STEPS.N sealed yealms: SERVICE returns. -/
def execRecoveryEnd (s : State) : Host.Outcome State Fault Refusal :=
  s.actIn Isl.sb fun e => if e.get Fld.ylmCtlMode = 3 && e.ylm.recoverLeft = 0 then e.put Fld.ylmCtlMode 0 else e

/-- MODE takes a value; RECOVERY counts the yealms sealed from now on. -/
def Engine.enterMode (e : Engine) (mode : Nat) : Engine :=
  let e := e.put Fld.ylmCtlMode mode
  if mode = 3 then { e with ylm := { e.ylm with recoverLeft := e.get Fld.ylmRecoverStepsN } } else e

/-- A write of YLM_CTL. STARTUP after a self-test that passed ends phase SELFTEST (Table 19.4). -/
def Engine.writeYlmCtl (e : Engine) (value : Nat) : Engine :=
  let e := (e.enterMode (bitsOf value 0 2)).put Fld.ylmCtlSpecEn (bitsOf value 2 1)
  if bitsOf value 0 2 = 1 && e.glb.phase = 3 && e.glb.bistDone && !e.glb.bistFail then { e with glb := { e.glb with phase := 4 } } else e

def execModeWrite (value : BitVec 32) (s : State) : Host.Outcome State Fault Refusal :=
  s.cross Isl.sb (.modeWrite value) fun e => e.writeYlmCtl value.toNat

/-- ADM_CTL.OPEN takes a value; a change of it retries the held requests (R88). -/
def Engine.setOpen (e : Engine) (v : Nat) : Engine :=
  if e.get Fld.admCtlOpen = v then e else (e.put Fld.admCtlOpen v).wakeAll

/-- The first opening on an engine that composes is the seal point of yealm 1 (R383). -/
def Engine.openAdmission (e : Engine) : Engine :=
  let e := e.setOpen 1
  if e.follows || e.glb.opened then e
  else
    let phase := if e.glb.phase = 4 || e.glb.phase = 5 then 7 else e.glb.phase
    ({ e with glb := { e.glb with opened := true, phase := phase } } : Engine).sealPoint

def execAdmissionOpen (s : State) : Host.Outcome State Fault Refusal := s.cross Isl.sb .admissionOpen Engine.openAdmission

def execAdmissionClose (s : State) : Host.Outcome State Fault Refusal := s.cross Isl.sb .admissionClose fun e => e.setOpen 0

end Sys2Proof.Machine
end

