-- ==== Sys2Proof/Machine/Promote.lean ====
section
/-!
DEFINITION. Machine/Promote.lean: a partner's replicas become the state of the manager it replaces (R273, R275, R277).
-/

namespace Sys2Proof.Machine

/-- A free list from which a set of numbers is in use: those never used above the highest of them, then the unused ones below. -/
def FreeList.without (used : List Nat) (limit : Nat) : FreeList :=
  let top := used.foldl (fun a u => max a (u + 1)) 0
  { fresh := top, limit := limit, freed := (List.range top).filter fun k => !used.contains k }

/-- An event ring as its live requests bind it, before it is enabled here. -/
def Engine.rebindRing (e : Engine) (ring : Nat) : Engine :=
  let n := (e.rafter.filter fun x => x.2.eventRing == ring).length
  e.putEvt ring { e.evt ring with bound := n }

/-- A tenant's live count follows the requests that stand. -/
def Engine.recountTenants (e : Engine) : Engine :=
  { e with adm := { e.adm with tenants := Table.mapV e.adm.tenants fun t x =>
      { x with live := (e.rafter.filter fun y => y.2.tenant == t).length } } }

/-- One request of the replica takes its place: ready list and committed share. -/
def Engine.placeReplica (e : Engine) (slot : Nat) (r : Rafter) : Engine :=
  let e := if r.state.running && !r.pausePending then e.link slot else e
  if r.state.running || r.state == .restoring then e.commitShare slot r else e

/-- A prefix's pages, as its list gives them. -/
def Engine.replicaPrefix (e : Engine) (x : PrefixRec) : PrefixRec :=
  if x.pages.isEmpty && x.state != 0 then { x with pages := (e.chain (ceilDiv x.tokens 32) x.head).map e.primaryOf } else x

/-- The replicas become the engine's own requests, and its free lists what they leave. -/
def Engine.adoptReplicas (e : Engine) : Engine :=
  let rs := Table.keep e.mdv.replicas fun _ r => r.state != .free
  let e : Engine := { e with rafter := rs, mdv := { e.mdv with replicas := [] }, slots := .without (Table.keys rs) 262144,
                             pgm := { e.pgm with entries := .without (Table.keys e.pgm.pages) 4194304 },
                             smp := { e.smp with cellFree := .without (Table.keys e.smp.cells) 131072 },
                             var := { e.var with prefixes := Table.mapV e.var.prefixes fun _ x => e.replicaPrefix x },
                             glb := { e.glb with opened := true } }
  let e : Engine := rs.foldl (fun e x => e.placeReplica x.1 x.2) e
  let rings := (rs.map fun x => x.2.eventRing).eraseDups
  (rings.foldl Engine.rebindRing e).recountTenants

/-- Undo logs of steps after r, newest first, then that of the step whose tokens came last: the replicas are as at boundary r. -/
def Engine.rewindTo (e : Engine) (r : Nat) : Engine :=
  let e := e.applyUndo
  let later := (e.flt.heldUndo.filter fun x => decide (r < x.1)).reverse
  let e : Engine := later.foldl (fun e x => x.2.foldl Engine.undoOne e) e
  { e with flt := { e.flt with heldUndo := [] }, mdv := { e.mdv with tokensSeen := [] } }

end Sys2Proof.Machine
end

