-- ==== Sys2Proof/Machine/Fabric.lean ====
section
/-!
DEFINITION. Machine/Fabric.lean: the group's shared operations: forwarding, leases and their lapse, fences, and the partner that takes a
rank (R251 to R254, R263, R273, R274).
-/

namespace Sys2Proof.Machine

/-! ### The map and the tree -/

/-- Ranks of the group that are not fenced. -/
def Engine.liveRanks (e : Engine) : List Nat := (Table.keys e.mdv.map).filter fun r => !e.mdv.fencedRanks.contains r

/-- A message that travels down passes to the ranks below. -/
def Engine.passDown (e : Engine) (type step : Nat) (body : List Byte) : Engine := e.send type 0xFFFF step body

/-- A message to one rank passes along the tree path (R263). -/
def Engine.passTo (e : Engine) (type dst step : Nat) (body : List Byte) : Engine :=
  if dst = e.mdv.rank then e else e.send type dst step body

/-- A message for rank 0 passes up. -/
def Engine.passUp (e : Engine) (type step : Nat) (body : List Byte) : Engine := if e.manages then e else e.send type 0 step body

/-! ### Leases (R251, R252) -/

/-- The manager licenses a step to every rank that is not fenced, over a ring's closure too. -/
def Engine.sendLease (e : Engine) (step : Nat) : Engine :=
  if !e.leadsGroup then e
  else ({ e with mdv := { e.mdv with licensed := step, leaseAt := e.now } } : Engine).flood 0x01 step (leaseBody e.liveRanks.length) noRank

/-- An engine's lease lapses: STEP class, but its action is the self-fence (R252, R338). -/
def Engine.lapse (e : Engine) : Engine :=
  if !e.mdv.joined || e.mdv.fenced then e
  else
    let e : Engine := { e with mdv := { e.mdv with lapsed := true } }
    (((e.fenceSelf.bump Cnt.mdvFence).log Ev.fence [e.mdv.rank, 0]).report Det.lapse Cls.step nullHandle e.mdv.misses)

/-- A follower counts its renewal at effect 4 of its boundary of a step. -/
def Engine.countRenewal (e : Engine) (step : Nat) : Engine :=
  if !e.follows || step ≤ e.mdv.licensed then e
  else
    let e := ({ e with mdv := { e.mdv with misses := e.mdv.misses + 1 } } : Engine).bump Cnt.mdvRenewMiss
    if e.get Fld.mdvLapseSteps ≤ e.mdv.misses then e.lapse else e

/-! ### A rank leaves, and its partner takes it (R253, R254, R273, R274) -/

/-- The standby that takes a rank, while it is free to. -/
def Engine.taker (e : Engine) (r : Nat) : Option (Nat × Rank) :=
  match e.rank? r with
  | none => none
  | some x => match e.rank? x.partner with
    | none => none
    | some p => if p.role = Role.standby && !e.mdv.fencedRanks.contains x.partner then some (x.partner, p) else none

/-- The step in compute is the partner's own from now on: its replicas are as at the boundary before, and the manifest it kept is executed
(R269, R273). -/
def Engine.adoptStep (e : Engine) : Engine :=
  let e : Engine := { e.applyUndo with mdv := { e.mdv with tokensSeen := [], parts := [] } }
  match Table.get? e.ylm.archive e.stepNo with
  | none => e
  | some y => e.acceptManifest y

/-- This engine takes a rank: it serves it from now on, and partners no other; a worker's with the step in compute. -/
def Engine.takeRank (e : Engine) (r : Nat) (x : Rank) : Engine :=
  let e := (Table.keys e.pgm.mirrors).foldl Engine.dropMirrors e
  let e := ({ e with mdv := { e.mdv with rank := r, role := x.role }, flt := { e.flt with takenOver := true } } : Engine).bump Cnt.fltTakeover
  if x.role = Role.worker then e.adoptStep else e

/-- A rank's engine is gone: its partner's node serves the rank and partners nobody else; without one the rank is unserved. -/
def Engine.passRank (e : Engine) (r : Nat) : Engine :=
  match e.rank? r, e.taker r with
  | some x, some (p, y) =>
    let map := Table.mapV e.mdv.map fun _ z => if z.partner = p then { z with partner := noRank } else z
    let own := e.mdv.rank == p
    let e : Engine := { e with mdv := { e.mdv with map := Table.put map r { x with node := y.node, partner := noRank },
                                                   fencedRanks := insertNat p e.mdv.fencedRanks } }
    if own then e.takeRank r x else e
  | some _, none => { e with mdv := { e.mdv with fencedRanks := insertNat r e.mdv.fencedRanks } }
  | none, _ => e

/-- Without the KV mirror the loss of a rank that executes, and so holds slices of every page, ends every request that has pages (R274). -/
def Engine.endHeld (e : Engine) : Engine :=
  if e.flag Fld.fltCtlKvMirror || e.follows then e
  else
    ((e.rafter.filter fun x => x.2.pageCount != 0).map Prod.fst).foldl (fun e s => e.failRequest s Status.fenced) e

/-! ### Shadowing, as the group's changes touch it (R279, R280, Table 11.6) -/

/-- A shadowing engine is in no group yet: what it sends goes out all the same, to its parent (R280). -/
def Engine.shadowSend (e : Engine) (type dst : Nat) (body : List Byte) : Engine := e.post type dst e.stepNo body

/-- The load starts again: nothing of it stands, and SHADOW_REQ goes toward rank 0. -/
def Engine.restartLoad (e : Engine) : Engine :=
  let x := e.flt.shadow
  let x := { x with phase := 1, source := noRank, matched := 0, nextSeq := 0, crcState := 0xFFFFFFFFFFFFFFFF, partials := [], own := [], acked := [], loadAt := e.now,
                    running := false, held := [] }
  let e : Engine := { e with flt := { e.flt with shadow := x } }
  (e.emit .stateRestart).shadowSend 0x16 0 (shadowReqBody x.rank x.role e.mdv.node e.mdv.check.toNat)

/-- The shadow is over; PHASE has no change for it (Table 19.4). -/
def Engine.endShadow (e : Engine) : Engine :=
  if e.shadows then
    { e with flt := { e.flt with shadow := { e.flt.shadow with phase := 0, running := false, held := [] } } }
  else e

/-- A rank that was shadowed is gone: its engine shadows again from the request on, and nobody watches for it. -/
def Engine.loseSource (e : Engine) (r : Nat) : Engine :=
  let e : Engine := { e with flt := { e.flt with shadow := { e.flt.shadow with watching := e.flt.shadow.watching.filter fun w => w.1 != r } } }
  if e.shadows && e.flt.shadow.source == r then e.restartLoad else e

/-- GROUP_EPOCH rises: steps up to `step` keep the old one (R253). -/
def Engine.raiseEpoch (e : Engine) (step : Nat) : Engine :=
  { e with mdv := { e.mdv with oldEpoch := e.mdv.epoch, epoch := (e.mdv.epoch + 1) % 65536, epochStep := step } }

/-- The epoch that begins after a boundary: once for every change at it, and not again where a LEASE has told of it. -/
def Engine.raiseEpochAt (e : Engine) (step : Nat) : Engine :=
  if e.mdv.epochStep = step && e.mdv.epoch != e.mdv.oldEpoch then e else e.raiseEpoch step

/-- The records that wait for events up to the acknowledged one are written, in their order; all of them once no partner acknowledges any
more or ACK_GATE is 0 (R265). -/
def Engine.openGate (e : Engine) : Engine :=
  let open_ := !(e.mirrors && e.flag Fld.fltCtlAckGate)
  let wait := fun (g : GatedRecord) => !open_ &&
    decide (0 < (g.sequence + 1 + 65536 - e.flt.gateAcked) % 65536 ∧ (g.sequence + 1 + 65536 - e.flt.gateAcked) % 65536 ≤ 32768)
  let out := e.hru.gated.takeWhile fun g => !wait g
  let e : Engine := { e with hru := { e.hru with gated := e.hru.gated.drop out.length } }
  out.foldl (fun e g => e.passRecord g.record) e

/-- A rank is gone: what is still ordered for it is void, and a node that shadowed under its rank is known no more. -/
def Engine.dropRank (e : Engine) (r : Nat) : Engine :=
  let held := ((e.rank? r).map (·.executes)).getD false
  let e : Engine := { e with mdv := { e.mdv with pendFences := e.mdv.pendFences.filter fun x => x.rank != r || x.admitted.isSome,
                                                 guests := Table.del e.mdv.guests r } }
  let e := e.passRank r
  ((if held then e.endHeld else e).loseSource r).openGate

/-- The engine obeys a fence (R254). -/
def Engine.obeyFence (e : Engine) (reason : Nat) : Engine :=
  if e.mdv.fenced then e
  else
    let e : Engine := { e with mdv := { e.mdv with reason := reason } }
    (e.fenceSelf.endShadow.bump Cnt.mdvFence).log Ev.fence [e.mdv.rank, reason]

/-! ### Admission of a shadowing engine (R279) -/

/-- The partners that the map gives, where they stand by. -/
def Engine.restorePartners (e : Engine) : Engine :=
  let stands := fun (p : Nat) => ((e.rank? p).map (·.role)) == some Role.standby && !e.mdv.fencedRanks.contains p
  { e with mdv := { e.mdv with map := Table.mapV e.mdv.map fun r x =>
      let p := ((Table.get? e.mdv.given r).map (·.partner)).getD noRank
      if x.role != Role.standby && stands p then { x with partner := p } else x } }

/-- The rank that the map gives this engine's node, without a fence on it any more. -/
def Engine.standAgain (e : Engine) (node : Nat) : Engine :=
  match e.mdv.given.find? fun x => x.2.node == node && x.2.role == Role.standby with
  | none => e
  | some (p, x) => { e with mdv := { e.mdv with map := Table.put e.mdv.map p x, fencedRanks := e.mdv.fencedRanks.filter (· != p) } }

/-- The engine that shadowed becomes a member: it serves the rank, or stands by. -/
def Engine.becomeMember (e : Engine) (r role : Nat) : Engine :=
  let e : Engine := { e with mdv := { e.mdv with joined := true, rank := r, role := role, leaseAt := e.now, misses := 0 },
                             flt := { e.flt with shadow := { e.flt.shadow with phase := 3 } },
                             glb := { e.glb with phase := if e.glb.phase = 6 then 7 else e.glb.phase } }
  if role = Role.manager then e.adoptReplicas else e

/-- The engine that served the rank returns to the standby rank of its node, or leaves the group. -/
def Engine.stepDown (e : Engine) : Engine :=
  match e.mdv.given.find? fun x => x.2.node == e.mdv.node && x.2.role == Role.standby with
  | none => { e with mdv := { e.mdv with joined := false } }
  | some (p, _) => { e with mdv := { e.mdv with rank := p, role := Role.standby, replicas := e.rafter }, rafter := [] }

/-- A rank is mapped to the node admitted for it; the node it leaves stands by again. -/
def Engine.admitRank (e : Engine) (r node : Nat) : Engine :=
  match e.rank? r with
  | none => e
  | some x =>
    let down := e.mdv.joined && e.mdv.rank == r && x.node != node
    let e : Engine := { e with mdv := { e.mdv with map := Table.put e.mdv.map r { x with node := node },
                                                   fencedRanks := e.mdv.fencedRanks.filter (· != r), guests := Table.del e.mdv.guests r },
                               flt := { e.flt with shadow := { e.flt.shadow with watching := e.flt.shadow.watching.filter fun w => w.2.1 != node } } }
    let e := (if x.node = node then e else e.standAgain x.node).restorePartners
    let e := if node = e.mdv.node && e.flt.shadow.phase = 2 then e.becomeMember r x.role else e
    if down then e.stepDown else e

/-- The manager orders a fence for the first boundary whose following yealm is not yet sealed. -/
def Engine.orderFence (e : Engine) (r reason : Nat) : Engine :=
  if !e.manages || (r = e.mdv.rank && reason ≠ 5) || !e.liveRanks.contains r || e.mdv.pendFences.any (fun x => x.rank == r) then e
  else
    let m := e.draftStep - 1
    let e := e.send 0x06 r e.stepNo (fenceBody m reason)
    let e : Engine := { e with mdv := { e.mdv with pendFences := e.mdv.pendFences ++ [{ rank := r, at_ := m, reason := reason, admitted := none }] } }
    (e.bump Cnt.mdvFence).log Ev.fence [r, reason]

/-! ### The expulsion governor (R283) -/

/-- Standbys that neither serve, nor shadow, nor are fenced. -/
def Engine.freeStandbys (e : Engine) : List Nat :=
  e.liveRanks.filter fun r => match e.rank? r with
    | some x => x.role == Role.standby && !(e.flt.shadow.watching.any fun w => w.2.1 == x.node)
    | none => false

/-- Free standbys that an expulsion would leave. -/
def Engine.standbysAfter (e : Engine) (r : Nat) : Nat :=
  let free := e.freeStandbys
  let gone := if free.contains r then some r else (e.taker r).map Prod.fst
  (free.filter fun p => gone != some p).length

/-- Expulsions of the past hour. -/
def Engine.expelledNow (e : Engine) : List Nat := e.flt.expelled.filter fun t => decide (e.now < t + 3600000000000)

/-- An engine's HEALTH asks to expel it; a request held already is not counted again. A rank for which a change of the map is ordered already
is left to it (Table 11.6). -/
def Engine.govern (e : Engine) (r level : Nat) (counted : Bool) : Engine :=
  let pending := e.mdv.pendFences.any fun x => x.rank == r
  if !e.manages || !e.liveRanks.contains r || pending then e
  else if decide (e.expelledNow.length < e.get Fld.fltGovPerHour) && decide (e.get Fld.fltGovFloor ≤ e.standbysAfter r) then
    let e := (e.orderFence r 5).bump Cnt.fltExpel
    { e with flt := { e.flt with expelled := e.expelledNow ++ [e.now] } }
  else
    let e := if counted then e.bump Cnt.fltGoverned else e
    { e with flt := { e.flt with governed := true, heldExpel := (e.flt.heldExpel.filter fun x => x.1 != r) ++ [(r, level)] } }

/-- The requests held are considered again: when a standby is freed or admitted, and when the hour window moves. -/
def Engine.reconsider (e : Engine) : Engine :=
  if e.flt.heldExpel.isEmpty then e
  else
    let l := e.flt.heldExpel
    l.foldl (fun e x => e.govern x.1 x.2 false)
      { e with flt := { e.flt with heldExpel := [], governed := false, expelled := e.expelledNow } }

/-- A change of the map at a boundary: a fence, of this engine or another, or an admission. -/
def Engine.applyChange (step : Nat) (e : Engine) (x : PendFence) : Engine :=
  match x.admitted with
  | some node => ((e.raiseEpochAt step).admitRank x.rank node).reconsider
  | none => if x.rank == e.mdv.rank && e.mdv.joined then e.obeyFence x.reason else (e.raiseEpochAt step).dropRank x.rank

/-- The fences and admissions due at a boundary take effect. -/
def Engine.dueFences (e : Engine) (step : Nat) : Engine :=
  let due := e.mdv.pendFences.filter fun x => decide (x.at_ ≤ step)
  due.foldl (Engine.applyChange step)
    { e with mdv := { e.mdv with pendFences := e.mdv.pendFences.filter fun x => decide (step < x.at_) } }

/-- The manager fences a rank at once: collective abort with cause 2, and replay (R253, Table 10.7). -/
def Engine.fenceNow (e : Engine) (r reason : Nat) : Engine :=
  if !e.manages || r = e.mdv.rank || !e.liveRanks.contains r then e
  else
    let e := ((e.send 0x06 r e.stepNo (fenceBody 0 reason)).bump Cnt.mdvFence).log Ev.fence [r, reason]
    let e := ((e.raiseEpoch e.flt.commitStep).dropRank r).sendAbort e.stepNo r 2
    (e.stepAction [] Det.missingAck false r).stepReport e.err.fatal Det.missingAck r

end Sys2Proof.Machine
end

