-- ==== Sys2Proof/Machine/Load.lean ====
section
/-!
DEFINITION. Machine/Load.lean: what the source of a shadow sends: the load of its tables, and the comparison of the steps both execute
(R248, R279, R280, Tables 11.10, 11.11 and 11.14).
-/

namespace Sys2Proof.Machine

/-! ### Images of the items (Table 11.11) -/

/-- A count set as its 2 KiB: 32 lines of 16 entries, token in [23:0] and count in [31:24]. -/
def CountSet.image (s : CountSet) : Nat :=
  sumBy (List.range 32) fun l => sumBy ((CountSet.line s l).zipIdx) fun x =>
    (place x.1.1 0 24 + place x.1.2 24 8) * 2 ^ (512 * l + 32 * x.2)

/-- An overflow cell with its link. -/
def cellImage (s : CountSet) (link : Option Nat) : Nat :=
  CountSet.image s + (match link with | some c => (place c 0 17 + 2 ^ 31) * 2 ^ (512 * 31 + 32 * 15) | none => 0)

/-- The spec gives a prefix record's fields and 32 B, not their places: these are the model's (log entry 25). -/
def PrefixRec.image (x : PrefixRec) : Nat :=
  place x.family 0 8 + place x.state 8 2 + place (bit x.srcT2) 10 1 + place (bit x.resident) 11 1 + place x.tenant 16 16 +
    place x.tokens 32 24 + place x.head 64 22 + place x.bound 96 19 + place x.source.toNat 128 64 + place (x.lapse.getD 0) 192 48

/-- A slot record of Table 11.11, kind 0x0C. -/
def Slot.image (s : Nat) (x : Slot) (size : Nat) : Nat :=
  place s 0 13 + place (bit x.t0) 15 1 + place x.addition 16 16 + place x.version 32 8 + place x.family 40 8 + place size 64 32 +
    place x.granule 96 32

/-! ### STATE messages (R280, Tables 11.10 and 11.11) -/

/-- Bytes of an item of a kind. -/
def itemBytes (kind : Nat) : Nat :=
  match kind with
  | 1 => 256 | 2 => 16 | 3 => 32 | 4 => 256 | 5 => 320 | 6 => 32 | 7 => 32 | 8 => 2048 | 9 => 2048 | 10 => 512 | 11 => 16 | 12 => 16 | _ => 0

/-- The requests a source holds: its own, or the replicas of one that follows. -/
def Engine.requests (e : Engine) : Table Rafter := if e.follows then e.mdv.replicas else e.rafter

/-- The size of a slot's version, in units of 4 KiB. -/
def Engine.slotSize (e : Engine) (x : Slot) : Nat :=
  (((e.addition? x.addition).bind fun a => a.records.find? fun r => r.version == x.version).map (·.size)).getD (16 * x.granules)

/-- The items of each kind, images by index. -/
def Engine.loadItems (e : Engine) : List (Nat × Table Nat) :=
  [(1, (e.requests.filter fun x => x.2.state != .free).map fun x => (x.1, x.2.image)),
   (2, e.pgm.pages.map fun x => (x.1, x.2.image (e.residentOf x.1))),
   (3, e.pgm.index.map fun x => (x.1, x.2.1.image + x.2.2.image * 2 ^ 128)),
   (4, e.var.additions.map fun x => (x.1, Addition.image x.1 x.2)),
   (5, (e.var.families.filter fun x => x.2.state != 0).map fun x => (x.1, e.familyImage x.1)),
   (6, (e.var.prefixes.filter fun x => x.2.state != 0).map fun x => (x.1, x.2.image)),
   (7, e.adm.tenants.map fun x => (x.1, x.2.image)),
   (8, e.smp.homes.map fun x => (x.1, CountSet.image x.2)),
   (9, e.smp.cells.map fun x => (x.1, cellImage x.2 (Table.get? e.smp.links x.1))),
   (10, e.smp.biases.map fun x => (x.1, biasImage x.2)),
   (11, e.smp.guesses.map fun x => (x.1, x.2.image)),
   (12, e.var.slots.map fun x => (x.1, Slot.image x.1 x.2 (e.slotSize x.2)))]

/-- Items of consecutive indices travel in one message: first index and images. -/
def itemRuns : Table Nat → List (Nat × List Nat)
  | [] => []
  | (i, x) :: t => match itemRuns t with
    | (j, xs) :: rest => if j = i + 1 then (i, x :: xs) :: rest else (i, [x]) :: (j, xs) :: rest
    | [] => [(i, [x])]

/-- The head of a STATE message (Table 11.10). -/
def stateHead (kind sequence index count step : Nat) (crc : BitVec 64) : List Byte :=
  leBytes 32 (place kind 0 8 + place sequence 16 16 + place index 32 32 + place count 64 32 + place step 128 48 + crc.toNat * 2 ^ 192)

/-- The bodies of a load, END last, whose CRC runs over those before it. -/
def loadBodies (step : Nat) (items : List (Nat × Table Nat)) : List (List Byte) :=
  let messages := items.flatMap fun k => (itemRuns k.2).map fun r => (k.1, r)
  let bodies := messages.zipIdx.map fun m =>
    stateHead m.1.1 m.2 m.1.2.1 m.1.2.2.length step 0 ++ m.1.2.2.flatMap fun x => leBytes (itemBytes m.1.1) x
  bodies ++ [stateHead 0xFF bodies.length 0 0 step (crc64 bodies.flatten)]

/-- Page-mover copies of every page bound here to an engine that loads: whole frames, whose bytes the class gives (R279). -/
def Engine.sliceCopies (e : Engine) (node : Nat) : List Output :=
  (e.pgm.pages.filter fun x => x.2.state != .free && x.2.state != .aliasEntry && decide (x.2.tier < 3)).map fun x =>
    .kvCopy node x.1 x.2.tier (e.frameAddr x.2.tier x.2.cls x.2.frame) (frameBytes x.2.cls)

/-- The load for one engine: the tables in STATE messages, and page-mover copies of the rank's KV slices (R279, step 4; R280). -/
def Engine.sendLoad (e : Engine) (step : Nat) (node : Nat) : Engine :=
  match e.rankOfNode node with
  | none => e
  | some dst =>
    let e := (loadBodies step e.loadItems).foldl (fun e b => e.send 0x15 dst e.stepNo b) e
    (e.sliceCopies node).foldl Engine.emit e

/-- The boundary that a grant names has closed: its state goes to those who shadow this rank. -/
def Engine.sendLoads (e : Engine) (step : Nat) : Engine :=
  if e.flt.shadow.loadStep = step && !e.shadows then
    (e.flt.shadow.watching.filter fun w => w.1 == e.mdv.rank).foldl (fun e w => e.sendLoad step w.2.1) e
  else e

/-! ### The values that must agree (R279, Table 11.14) -/

/-- A token entry with the token this engine's own legget drew, where it drew one. -/
def Engine.ownEntry (e : Engine) (draw x : Nat) : Nat :=
  match (Table.get? e.smp.ctxs draw).bind fun c => if c.done then c.token else none with
  | some t => if e.shadows && !entryVoid x then setBits x 0 24 t else x
  | none => x

/-- Digest executed, CRC of the partial records in draw order and, for rank 0, of the token entries. -/
def Engine.stepValues (e : Engine) (y : Yealm) (r : Nat) : BitVec 64 × BitVec 64 × BitVec 64 :=
  let parts := crc64 ((Table.vals e.flt.shadow.partials).flatMap PartialRec.bytes)
  let tokens := ((e.stepRec? y.step).map (·.tokens)).getD []
  let entries := (List.range y.draws).flatMap fun d => leBytes 4 (e.ownEntry d (Table.getD tokens d voidEntry))
  (y.digest, parts, if r = 0 then crc64 entries else 0)

/-- What a SHADOW_GRANT says. -/
structure Grant where
  rank    : Nat
  granted : Bool
  admitted : Bool
  reason  : Nat
  source  : Nat
  step    : Nat
  node    : Nat
  epoch   : Nat
  deriving DecidableEq, Repr

/-- Its body (Table 11.13). -/
def shadowGrantBody (g : Grant) : List Byte :=
  leBytes 16 (place g.rank 0 9 + place (bit g.granted) 16 1 + place (bit g.admitted) 17 1 + place g.reason 24 8 + place g.source 32 9 +
    place g.step 48 48 + place g.node 96 16 + place g.epoch 112 16)

/-- The engine that shadows a rank, as its source and the manager know it. -/
def Engine.watcher (e : Engine) (r : Nat) : Option (Nat × Nat) := (e.flt.shadow.watching.find? fun w => w.1 == r).map (·.2)

/-- The manager admits an engine: at the first boundary whose following yealm is not yet sealed. One that is to stand by is admitted
to its node's own rank. -/
def Engine.orderAdmission (e : Engine) (r : Nat) : Engine :=
  match e.watcher r with
  | none => e
  | some (node, role) =>
    let rank := if role = Role.standby then (e.rankOfNode node).getD r else r
    if e.mdv.pendFences.any fun x => x.admitted == some node then e
    else
      let m := e.draftStep - 1
      let epoch := (e.mdv.epoch + 1) % 65536
      let g : Grant := { rank := rank, granted := true, admitted := true, reason := 0, source := r, step := m, node := node, epoch := epoch }
      let e := e.flood 0x17 e.stepNo (shadowGrantBody g) noRank
      { e with mdv := { e.mdv with pendFences := e.mdv.pendFences ++ [{ rank := rank, at_ := m, reason := 0, admitted := some node }] } }

/-- Enough steps agree: the manager admits; another source tells it by passing the SHADOW_ACK up. -/
def Engine.shadowAgrees (e : Engine) (step : Nat) (v : BitVec 64 × BitVec 64 × BitVec 64) : Engine :=
  let n := e.flt.shadow.matched + 1
  let e : Engine := { e with flt := { e.flt with shadow := { e.flt.shadow with matched := min 4095 n } } }
  if n < e.get Fld.fltShadowStepsN then e
  else if e.manages then e.orderAdmission e.mdv.rank
  else e.passUp 0x14 e.stepNo (shadowAckBody step e.mdv.rank v)

/-- Values differ: counted, and the fourth time the shadow ends with a fence of its engine. -/
def Engine.shadowDiffers (e : Engine) : Engine :=
  let n := e.flt.shadow.mismatches + 1
  let e : Engine := { e with flt := { e.flt with shadow := { e.flt.shadow with matched := 0, mismatches := min 15 n } } }
  if n < 4 then e
  else match (e.watcher e.mdv.rank).bind fun w => e.rankOfNode w.1 with
    | none => e
    | some dst =>
      let e := e.send 0x06 dst e.stepNo (fenceBody 0 3)
      { e with flt := { e.flt with shadow := { e.flt.shadow with watching := e.flt.shadow.watching.filter fun w => w.1 != e.mdv.rank } } }

/-- A step of which both values are here is compared, once. -/
def Engine.compareShadow (e : Engine) (step : Nat) : Engine :=
  match Table.get? e.flt.shadow.own step, Table.get? e.flt.shadow.acked step with
  | some a, some b =>
    let x := e.flt.shadow
    let e : Engine := { e with flt := { e.flt with shadow := { x with own := Table.del x.own step, acked := Table.del x.acked step } } }
    if a == b then e.shadowAgrees step a else e.shadowDiffers
  | _, _ => e

/-- A step is committed: a shadowing engine reports its values, a source keeps its own. -/
def Engine.shadowCommit (e : Engine) (y : Yealm) : Engine :=
  let x := e.flt.shadow
  if x.running then e.shadowSend 0x14 x.source (shadowAckBody y.step x.rank (e.stepValues y x.rank))
  else if (e.watcher e.mdv.rank).isSome && decide (x.loadStep < y.step) then
    let own := Table.keep (Table.put x.own y.step (e.stepValues y e.mdv.rank)) fun k _ => decide (y.step < k + 64)
    ({ e with flt := { e.flt with shadow := { x with own := own } } } : Engine).compareShadow y.step
  else e

end Sys2Proof.Machine
end

