-- ==== Sys2Proof/Machine/Boundary.lean ====
section
/-!
DEFINITION. Machine/Boundary.lean: the step boundary: what it opens on, its six effects in order, a failed effect, and its close (R5, R6,
R24 to R30, R70, R72, R79, R80, R102, R182, R251, R262, R269).
-/

namespace Sys2Proof.Machine

/-! ### Opening (R5, R6, R27, R70, R142, R212, R245) -/

/-- A worker has applied the TOKENS of every course that draws. -/
def Engine.tokensApplied (e : Engine) (y : Yealm) : Bool :=
  (List.range y.courses.length).all fun k => match y.courses[k]? with
    | some c => c.draws == 0 || e.mdv.tokensSeen.contains k
    | none => true

/-- May the boundary of the step in compute open: its tiles are done, and its legget has emitted every token (R5, R245)? -/
def Engine.boundaryDue (e : Engine) (y : Yealm) : Bool :=
  e.ylm.stepDone && e.smp.nextEmit == y.draws && !e.mdv.fenced && !e.err.fatal &&
    (!e.follows || (e.partialsOut y && e.tokensApplied y))

/-- KV_END of a member's request at the boundary: over the positions computed, short of those whose token was discarded or whose
draw was void (R70, R213). -/
def Member.kvAfter (m : Member) (kv : Nat) : Nat :=
  if m.vacated || m.deferred || m.failed then kv
  else match m.kind with
    | 0 => kv + m.delivered
    | 1 => m.start + m.count
    | _ => if 0 < m.delivered then m.start + m.count else m.start + m.count - 1

/-- KV_END advances, with its undo entry, and the pages it has passed are full. -/
def Engine.advanceKv (e : Engine) (m : Member) : Engine :=
  match e.anyReq? m.slot with
  | none => e
  | some r =>
    if r.handle != m.handle || m.kvAfter r.kvEnd == r.kvEnd then e
    else
      let e := (e.logUndo (.rafter m.slot r)).modAny m.slot fun r => { r with kvEnd := m.kvAfter r.kvEnd }
      e.fillPages m.slot

/-- The guesses of a request whose main draw was discarded no longer stand, on every chip of a group (R212, R249). -/
def Engine.dropGuesses (e : Engine) (m : Member) : Engine :=
  if m.draws ≠ 0 && m.emitted && !m.vacated && !m.deferred && !m.failed && m.delivered = 0 then e.emptyGuesses true m.slot else e

/-- The boundary opens: spares switch, FENCEs and a waiting known-answer command meet it, members leave FENCED, KV_END advances. -/
def Engine.openBoundary (e : Engine) (y : Yealm) : Engine :=
  let e := ((e.switchSpares).katOpen).armFences
  let tail := if y.draws = 0 then 0 else e.smp.emittedAt - e.ylm.stepDoneAt
  let e : Engine := { e with boundaryOpen := true, smp := { e.smp with tailNs := tail } }
  let e : Engine := y.members.foldl (fun e m => e.unfenceRequest m.slot) e
  let e := y.members.foldl (fun e m => e.advanceKv m) e
  y.members.foldl (fun e m => e.dropGuesses m) e

/-! ### Effect 1: journal commit (R260 to R263) -/

/-- Tail and phase of every event ring of the table; one never enabled has tail 0 and phase 0. -/
def Engine.ringTails (e : Engine) : List (Nat × Nat × Bool) :=
  (List.range (e.get Fld.hruRctSizeNe)).map fun i => match Table.get? e.hru.evts i with
    | some x => (i, x.tail, x.phase)
    | none => (i, 0, false)

/-- The record as the commit leaves it. -/
def Engine.sealRecord (e : Engine) (y : Yealm) (r : StepRecord) : StepRecord :=
  { r with committed := true, members := y.members.map Member.entry, events := e.flt.events, commitTime := e.now,
           rings := if e.follows then [] else e.ringTails }

/-- A mirror burst asks for leave when the engine mirrors to another and none is asked yet (R263, R358). -/
def Engine.askMirror (e : Engine) : Engine :=
  let pending := (e.cpc.ch1.waiting ++ e.cpc.ch1.asking.toList).any fun r => r.for_ == .mirror
  if e.mirrorTo.isEmpty || !e.flag Fld.fltCtlMirrorEn || pending then e
  else
    let bytes := sumBy e.unmirrored fun r => r.bytes.length
    (e.askLeave true 4 (e.credits (e.energy 4 * bytes)) .mirror).2

/-- SPILLED and RESTORED that a full event section held are applied at the boundary (R262). -/
def Engine.releaseEvents (e : Engine) : Engine :=
  let l := e.flt.heldEvents
  l.foldl (fun e s => (e.restoreDone s).checkSpilled s) { e with flt := { e.flt with heldEvents := [] } }

/-- The step's record is committed; its undo log is discarded, and what the full event section kept back is recorded next. -/
def Engine.commitEffect (e : Engine) (y : Yealm) : Engine :=
  let e := (e.modStepRec y.step (e.sealRecord y)).bump Cnt.fltCommit
  let e : Engine := { e with flt := { e.flt with commitStep := y.step, undo := [], failCount := 0, failCourses := [],
                                                 events := e.flt.eventsNext, eventsNext := [] } }
  (e.shadowCommit y).releaseEvents.askMirror

/-! ### Effect 2: retirements and cancellations (R25, R52, R72, R74, R79) -/

/-- A request in CANCELLING whose stop bit is set retires. -/
def Engine.cancelDue (e : Engine) (slot : Nat) : Engine :=
  if e.stateOf slot == .cancelling && e.stop.contains slot then e.endRequest slot Status.cancelled Reason.cancelled else e

/-- Position of the last token delivered, or of the last prompt token (Table 2.10). -/
def Rafter.lastPos (r : Rafter) : Nat := if r.handedPos = pad then r.inputEnd - 1 else r.handedPos

/-- New tokens delivered (Table 2.10): the tokens of the sequence, and those whose events a replay did not take back (R56, R271). -/
def Rafter.delivered (r : Rafter) : Nat :=
  if r.handedPos = pad then r.generated else r.generated + (r.handedPos + 1 - r.seqEnd)

/-- The completion record, and the RETIRE event. -/
def Engine.complete (e : Engine) (slot : Nat) (r : Rafter) : Engine :=
  let e := (e.putReq slot { r with completed := true }).jevent 0x02 r.pendStatus r.handle.toNat (r.pendStatus + 256 * r.pendReason)
  let e := if r.pendStatus = Status.replayed then e.bump Cnt.fltReplayedEnd else e
  let body := completionBytes r.handle.toNat r.lastPos r.userTag.toNat r.pendStatus r.pendReason e.stepNo r.delivered
  e.writeRecord { ring := r.eventRing, rtype := 4, body := body }

/-- The descriptors held for a freed request complete with its status (R74). -/
def Engine.ackHeld (e : Engine) (handle : Handle) (status : Nat) : Engine :=
  (e.hru.staging.filter fun d => d.phase == .held handle).foldl (fun e d => e.ack d status) e

/-- The slot's generation rises (R63). -/
def Engine.nextGeneration (e : Engine) (slot : Nat) : Engine :=
  let g := nextGen slot (e.gen slot)
  let e : Engine := { e with gens := Table.put e.gens slot g }
  if g = 0 then e.bump Cnt.sbGenWrap else e

/-- A retired request's slot and everything it held are freed (R79). -/
def Engine.freeRequest (e : Engine) (slot : Nat) (r : Rafter) : Engine :=
  let e := ((((e.closeStores slot).detachList slot).dropShare slot).unlink slot).dropDraft slot
  let ring := e.evt r.eventRing
  let e := e.putEvt r.eventRing { ring with bound := ring.bound - 1 }
  let t := e.tenant r.tenant
  let e := if Table.has e.adm.tenants r.tenant then e.putTenant r.tenant { t with live := t.live - 1, pheld := t.pheld - r.pagesCharged } else e
  let e := (e.ackWaiting r.handle 4 r.pendStatus).ackHeld r.handle r.pendStatus
  let e := (e.nextGeneration slot).bump Cnt.sbRetired
  let e : Engine := { e with rafter := Table.del e.rafter slot, stop := e.stop.filter (· != slot), slots := e.slots.give slot }
  e.unbindVariants r

/-- One retiring request: its completion record at the first boundary; its slot is freed there too, unless it is a member of the
next sealed yealm (R25). -/
def Engine.retire (e : Engine) (slot : Nat) : Engine :=
  match e.req? slot with
  | none => e
  | some r =>
    if r.state != .retiring then e
    else
      let e := if r.completed then e else e.complete slot r
      if !r.completed && e.inNext slot then e else e.freeRequest slot r

/-- A paused request in no sealed yealm parks (R72). -/
def Engine.parkDue (e : Engine) (slot : Nat) : Engine :=
  match e.req? slot with
  | none => e
  | some r => if r.state.running && r.pausePending && !e.inNext slot then e.park slot r else e

def Engine.retireEffect (e : Engine) : Engine :=
  let slots := Table.keys e.rafter
  let e : Engine := slots.foldl Engine.cancelDue e
  let e : Engine := slots.foldl Engine.retire e
  slots.foldl Engine.parkDue e

/-! ### Effect 4: leases (R251, R252) -/

/-- The manager's fences take effect and its LEASE goes out; a follower counts its renewal. -/
def Engine.leaseEffect (e : Engine) (step : Nat) : Engine := ((e.dueFences step).sendLease (step + 1)).countRenewal step

/-! ### Effect 5: admission into the ready lists (R80, R102, R159) -/

/-- The prefix lookup of a request ends with its splice: its matched blocks count as computed. -/
def Rafter.endLookup (r : Rafter) : Rafter :=
  if r.lookupOpen then { r with lookupOpen := false, kvEnd := max r.pfxLen (32 * (r.firstBlock + r.matched)) } else r

/-- One pending request joins its ready list. -/
def Engine.spliceOne (e : Engine) (slot : Nat) : Engine :=
  let e := e.modReq slot Rafter.endLookup
  match e.req? slot with
  | none => e
  | some r => if (r.state.running || r.state == .cancelling) && !r.pausePending then e.link slot else e

/-- A class's pending list is spliced onto its ready list. -/
def Engine.spliceClass (e : Engine) (cls : Nat) : Engine :=
  let l := e.spliceList cls
  l.foldl Engine.spliceOne (e.setSplice cls [])

/-- A committed share follows its request's counters and version (R102). -/
def Engine.refreshShare (e : Engine) (slot : Nat) : Engine :=
  match e.req? slot with
  | none => e
  | some r =>
    let e := e.reshare slot r
    { e with adm := { e.adm with shares := Table.modify e.adm.shares slot fun x =>
        { x with addKey := if r.addValid then some (r.addition, r.version) else none } } }

def Engine.spliceEffect (e : Engine) : Engine :=
  let e := ((e.spliceClass 0).spliceClass 1).spliceClass 2
  let slots := Table.keys e.adm.shares
  (slots.foldl Engine.refreshShare e).updateOvercommit

/-! ### Effect 6: statistics latch (R83, R100, R109, R139, R258, R285, R300) -/

/-- A member as the load that ran counts it: one served from the base has no delta applied (R129). -/
def Member.asRan (m : Member) : Member := if m.baseOnly then { m with addition := none } else m

/-- A family's measured course time and the prediction for the load that ran: κ follows (R100). -/
def Engine.correctCourse (y : Yealm) (e : Engine) (f : Nat) : Engine :=
  let ks := (List.range y.courses.length).filter fun k => (y.courses[k]?.map (·.family)) == some f
  let times := ks.filterMap fun k => Table.get? e.adm.measured k
  if times.length < ks.length then e
  else e.correctFamily f times.sum (e.rawNs f (memberLoad ((y.members.filter fun m => !m.deferred).map Member.asRan) f))

/-- Requests in each state. -/
def Engine.countStates (e : Engine) : Table Nat :=
  (List.range 11).map fun c =>
    (c, if c = 0 then 262144 - e.rafter.length else (e.rafter.filter fun x => x.2.state.code == c).length)

/-- Tasks READY at each priority. -/
def Engine.countReady (e : Engine) : Table Nat :=
  (List.range 32).map fun p => (p, (e.tsk.tasks.filter fun x => x.2.state == .ready && x.2.priority == p).length)

/-- Running time of each logical core since the last latch. -/
def Engine.coreLoads (e : Engine) : Table Nat := (List.range 16).map fun l => (l, ((e.core l).account e.now).busyNs)

/-- Every per-step counter is copied into its shadow. -/
def Engine.latchAll (e : Engine) : Engine :=
  let loads := e.coreLoads
  let cores := Table.mapV e.tsk.cores fun _ c => { c.account e.now with busyNs := 0 }
  { e with latched := e.cnt, stateCnt := e.countStates,
           adm := { e.adm with latchCeiling := (e.ceiling.map sat32).getD 0xFFFFFFFF, latchPred := sat32 (e.predictShares e.shares) },
           ylm := { e.ylm with latchCompose := e.ylm.composeNs }, smp := { e.smp with latchTail := e.smp.tailNs, penEmpty := false }, pgm := { e.pgm with stageFull := false },
           mdv := { e.mdv with latchDist := e.mdv.distNs }, flt := { e.flt with evtFull := e.eventsFull },
           tsk := { e.tsk with cores := cores, latchHist := e.tsk.hist, latchReady := e.countReady, latchLoad := loads } }

def Engine.latchEffect (e : Engine) (y : Yealm) : Engine :=
  let fs := (y.courses.map (·.family)).eraseDups
  ((fs.foldl (Engine.correctCourse y) e).updateOvercommit).latchAll

/-! ### The six effects, and a failure among them (R6, R29) -/

/-- Effect k. A worker has no retirement, rebinding or admission of its own (R245). -/
def Engine.effect (y : Yealm) (e : Engine) (k : Nat) : Engine :=
  match k with
  | 1 => e.commitEffect y
  | 2 => if e.follows then e else e.retireEffect.wakeAll
  | 3 => if e.follows then e else e.rebindAll
  | 4 => e.leaseEffect y.step
  | 5 => if e.follows then e else e.spliceEffect.wakeAll
  | 6 => e.latchEffect y
  | _ => e

/-- Effects a to b, in order. -/
def Engine.effects (e : Engine) (y : Yealm) (a b : Nat) : Engine := ((List.range (b + 1)).drop a).foldl (Engine.effect y) e

/-- Effect 1 fails: the step is replayed. Another one stays to be applied again; FLT_REPLAY_MAX.N failures of it are FATAL. -/
def Engine.effectFails (e : Engine) (y : Yealm) (k : Nat) : Engine :=
  let e := e.log Ev.effectFailed [y.step, k]
  if k = 1 then e.stepError Det.boundaryEffect [] (unitDetail Det.boundaryEffect)
  else
    let n := if e.flt.effectFail = k then e.flt.effectCount + 1 else 1
    let e : Engine := { e with flt := { e.flt with effectFail := k, effectCount := n } }
    if e.get Fld.fltReplayMaxN ≤ n then e.raiseFatal Det.boundaryEffect nullHandle (unitDetail Det.boundaryEffect)
    else e.report Det.boundaryEffect Cls.step nullHandle (unitDetail Det.boundaryEffect)

/-! ### Closing (R24, R26, R39, R129, R269) -/

/-- The pins of a yealm are released. -/
def Engine.unpinYealm (e : Engine) (y : Yealm) : Engine :=
  let e : Engine := y.members.foldl (fun e m => m.pins.foldl Engine.unpinPage e) e
  let slots := (y.members.filterMap fun m => m.addition.map fun a => a.2.2).eraseDups
  if e.follows then e else slots.foldl (fun e s => e.unpinSlot s) e

/-- The step's leave ends (R362). -/
def Engine.endStepLeave (e : Engine) (step : Nat) : Engine :=
  let tags := (e.cpc.ch0.grants.filter fun g => g.for_ == .step step || g.for_ == .workerStep step).map (·.tag)
  tags.foldl (fun e t => e.endGrant false t) e

/-- A replay is complete: RECOVERY begins (R269, step 6). -/
def Engine.endReplay (e : Engine) : Engine :=
  if e.flt.replaying then
    ({ e with flt := { e.flt with replaying := false, vacateReplay := false } } : Engine).enterMode 3
  else e

/-- A next yealm not yet delivered when the boundary closes is a compose stall (R26, R135). -/
def Engine.startStall (e : Engine) : Engine :=
  if e.ylm.next.isSome && e.ylm.mfDelivered then e
  else ({ e with ylm := { e.ylm with stallFrom := some e.now } } : Engine).bump Cnt.ylmComposeStall

/-- The boundary closes, and the next step begins if it can. -/
def Engine.closeBoundary (e : Engine) (y : Yealm) : Engine :=
  let e := ((e.unpinYealm y).endStepLeave y.step).endFences
  let e : Engine := { e with boundaryOpen := false, stepNo := y.step + 1, ylm := { e.ylm with current := none, reStep := none },
                             flt := { e.flt with effectFail := 0, effectCount := 0 } }
  let e := e.sendLoads y.step
  (((((e.endReplay.lowerDepths).retryBurst).serveReloads).startStall).tryBegin).beginDraft

/-- The boundary goes on from effect k, to the effect that fails or to its close. How much of a failing effect 2 to 6 its first attempt
applied is open (R29): the model applies none of it before the repetition (log entry 51). -/
def Engine.runBoundary (e : Engine) (y : Yealm) (k failing : Nat) : Engine :=
  if k ≤ failing && failing ≤ 6 then (e.effects y k (failing - 1)).effectFails y failing
  else (e.effects y k 6).closeBoundary y

/-- The boundary opens, or takes up the effect that failed. `failing` is the effect whose unit cannot complete its share, 0 when
none fails. -/
def Engine.stepBoundary (e : Engine) (failing : Nat) : Engine :=
  match e.ylm.current with
  | none => e
  | some y =>
    if e.boundaryOpen then e.runBoundary y e.flt.effectFail failing
    else if e.boundaryDue y then
      let (injected, e) := if failing = 0 then e.tryDetector Det.boundaryEffect else (false, e)
      let e := e.openBoundary y
      let y := e.ylm.current.getD y
      e.runBoundary y 1 (if injected then 1 else failing)
    else e

def execStepBoundaryOpen (failing : BitVec 3) (s : State) : Host.Outcome State Fault Refusal :=
  s.actIn Isl.sb fun e => e.stepBoundary failing.toNat

end Sys2Proof.Machine
end

