-- ==== Sys2Proof/Machine/Join.lean ====
section
/-!
DEFINITION. Machine/Join.lean: the group map, the join, and the check of every received frame (R234 to R237, R243, R246).
-/

namespace Sys2Proof.Machine

/-! ### The map (R234 to R236, Tables 10.1 and 10.2) -/

/-- Field of a 16 B map entry. -/
def f128 (x : BitVec 128) (b w : Nat) : Nat := bitsOf x.toNat (8 * b) w

def rankOf (x : BitVec 128) : Rank :=
  { node := f128 x 0 16, parent := f128 x 2 9, ringPeer := f128 x 4 9, partner := f128 x 6 9, role := f128 x 8 2, shard := f128 x 10 10 }

/-- The map as a table by rank. -/
def ranksOf (entries : List (BitVec 128)) : Table Rank := (entries.zipIdx).map fun x => (x.2, rankOf x.1)

/-- CHECK as the map's bytes give it. -/
def mapCheck (header : BitVec 512) (entries : List (BitVec 128)) : BitVec 32 :=
  crc32c (leBytes 60 header.toNat ++ entries.flatMap fun x => leBytes 16 x.toNat)

/-- A shard field: an index below S, or none. -/
def shardInRange (s : Nat) (x : Rank) : Bool := decide (x.shard < s) || x.shard == 0x3FF

/-- TAG, FORMAT, CHECK, reserved fields and ranges (reason 0x2). -/
def mapSound (header : BitVec 512) (entries : List (BitVec 128)) : Bool :=
  let n := f512 header 8 0 10
  let s := f512 header 12 0 10
  f512 header 0 0 32 == 0x5E4B474D && f512 header 4 0 16 == 0x0302 && mapCheck header entries == BitVec.ofNat 32 (f512 header 60 0 32) &&
    onlyFields header.toNat [(0, 0, 64), (8, 0, 10), (10, 0, 2), (12, 0, 10), (60, 0, 32)] &&
    decide (1 ≤ n ∧ n ≤ 512) && decide (1 ≤ s ∧ s ≤ 512) && f512 header 10 0 2 != 3 && entries.length == n &&
    entries.all fun x => onlyFields x.toNat [(0, 0, 16), (2, 0, 9), (4, 0, 9), (6, 0, 9), (8, 0, 2), (10, 0, 10)] &&
      (rankOf x).role != 3 && shardInRange s (rankOf x)

/-- Children of a rank in a map. -/
def childrenIn (m : Table Rank) (r : Nat) : List Nat := (m.filter fun x => x.2.parent == r).map Prod.fst

/-- Hops from a rank up to rank 0, below the bound. -/
def hopsIn (m : Table Rank) : Nat → Nat → Option Nat
  | 0, _ => none
  | n + 1, r => if r = 0 then some 0 else match Table.get? m r with
    | none => none
    | some x => (hopsIn m n x.parent).map (· + 1)

/-- Partners: every rank that executes names a standby, a standby names none. -/
def partnersSound (m : Table Rank) : Bool :=
  m.all fun x => if x.2.executes then ((Table.get? m x.2.partner).map (·.role)) == some Role.standby else x.2.partner == noRank

/-- Shards: with S > 1 each index at exactly one executing rank; with S = 1 rank 0 holds shard 0. -/
def shardsSound (m : Table Rank) (s : Nat) : Bool :=
  if s = 1 then ((Table.get? m 0).map (·.shard)) == some 0
  else (List.range s).all fun i => (m.filter fun x => x.2.executes && x.2.shard == i).length == 1

/-- The two ends of a ring: the ranks without a child, and rank 0 where it has one child only. -/
def ringEnds (m : Table Rank) : List Nat :=
  (if (childrenIn m 0).length = 1 then [0] else []) ++ (m.filter fun x => (childrenIn m x.1).isEmpty).map Prod.fst

/-- RING_PEER: the ends of a ring name each other, and nobody else names a rank. -/
def peersSound (m : Table Rank) (topology : Nat) : Bool :=
  let peer := fun (r : Nat) => ((Table.get? m r).map (·.ringPeer)).getD noRank
  if topology = 2 then
    match ringEnds m with
    | [a, b] => peer a == b && peer b == a && m.all fun x => x.1 == a || x.1 == b || x.2.ringPeer == noRank
    | _ => false
  else m.all fun x => x.2.ringPeer == noRank

/-- Fan-out that a topology allows a rank. -/
def fanOutLimit (topology r : Nat) : Nat :=
  match topology with
  | 0 => 32
  | 1 => 1
  | _ => if r = 0 then 2 else 1

/-- R234, R235 and R236 (reason 0x3). -/
def treeSound (m : Table Rank) (topology s : Nat) : Bool :=
  (m.all fun x => (x.1 == 0) == (x.2.role == Role.manager)) && ((Table.get? m 0).map (·.parent)) == some noRank &&
    (m.all fun x => (hopsIn m 17 x.1).isSome && decide ((childrenIn m x.1).length ≤ fanOutLimit topology x.1)) &&
    partnersSound m && shardsSound m s && peersSound m topology

/-! ### The worst-case distribution time (R246) -/

/-- Largest fan-out among the ranks of a level. -/
def levelFan (m : Table Rank) (level : Nat) : Nat :=
  (m.filter fun x => hopsIn m 17 x.1 == some level).foldl (fun a x => max a (childrenIn m x.1).length) 0

/-- Depth of the tree. -/
def treeDepth (m : Table Rank) : Nat := m.foldl (fun a x => max a ((hopsIn m 17 x.1).getD 0)) 0

/-- Largest fan-out of the tree. -/
def treeFan (m : Table Rank) : Nat := m.foldl (fun a x => max a (childrenIn m x.1).length) 0

/-- T_down of a message of so many frames, in units of 10 ps. -/
def distTime (m : Table Rank) (frames : Nat) : Nat :=
  sumBy (List.range (treeDepth m)) (fun l => 90000 + levelFan m l * 4116) + (frames - 1) * treeFan m * 4116

/-- T_down of the largest packet: 1,572,864 B, 384 frames. -/
def worstDist (m : Table Rank) : Nat := distTime m 384

/-! ### Joining (R237, Table 10.3) -/

/-- The reason a map is not taken, 0 for none; no header is a read that the host port answered with an error. -/
def Engine.mapReason (e : Engine) (header : Option (BitVec 512)) (entries : List (BitVec 128)) : Nat :=
  match header with
  | none => 1
  | some h =>
    let m := ranksOf entries
    if !mapSound h entries then 2
    else if !treeSound m (f512 h 10 0 2) (f512 h 12 0 10) then 3
    else if e.get Fld.mdvDistBudgetUs * 100000 < worstDist m then 4
    else if (m.filter fun x => x.2.node == e.mdv.node).length ≠ 1 then 5
    else 0

/-- Address of the map in host memory. -/
def Engine.mapBase (e : Engine) : Nat := place (e.get Fld.mdvMapBaseLoAddr) 6 26 + 2 ^ 32 * e.get Fld.mdvMapBaseHiAddr

/-- Takes a map that has been read. -/
def Engine.loadMap (e : Engine) (header : BitVec 512) (entries : List (BitVec 128)) : Engine :=
  let m := ranksOf entries
  let own := m.find? fun x => x.2.node == e.mdv.node
  { e with mdv := { e.mdv with map := m, given := m, groupId := f512 header 6 0 16, shards := f512 header 12 0 10, topology := f512 header 10 0 2,
                               check := BitVec.ofNat 32 (f512 header 60 0 32), distWorst := sat32 (ceilDiv (worstDist m) 100),
                               rank := (own.map Prod.fst).getD 0, role := (own.map (·.2.role)).getD Role.none } }

/-- A JOIN toward rank 0, from an engine in no group yet. -/
def Engine.sendJoin (e : Engine) (check rank : Nat) : Engine := e.post 0x09 0 0 (joinBody check rank)

/-- The JOIN goes out; the manager holds its own. -/
def Engine.startJoin (e : Engine) : Engine :=
  let own := if e.mdv.rank = 0 then [0] else []
  let e : Engine := { e with mdv := { e.mdv with joining := true, joinAt := e.now, joins := own, reason := 0, fencedRanks := [], epoch := 0,
                                                 oldEpoch := 0, epochStep := 0, licensed := 0, misses := 0 },
                             glb := { e.glb with phase := if e.glb.phase = 4 then 5 else e.glb.phase } }
  if e.mdv.rank = 0 then e else e.sendJoin e.mdv.check.toNat e.mdv.rank

/-- The engine's own NODE, which its pins give with the command, and the read of the map's entries, whose number the header gives; the
header's own read went out with the write of MDV_CMD (R235, R237). -/
def Engine.readEntries (e : Engine) (node : Nat) (header : Option (BitVec 512)) : Engine :=
  let e : Engine := { e with mdv := { e.mdv with node := node } }
  match header with
  | some h => e.emit (.hostRead (BitVec.ofNat 64 (e.mapBase + 64)) (16 * f512 h 8 0 10))
  | none => e

/-- A map that is refused: its reason stays, and with a tree that stands its distribution time (R246, Table 10.3). -/
def Engine.refuseMap (e : Engine) (reason : Nat) (entries : List (BitVec 128)) : Engine :=
  let worst := if reason = 4 || reason = 5 then sat32 (ceilDiv (worstDist (ranksOf entries)) 100) else e.mdv.distWorst
  { e with mdv := { e.mdv with reason := reason, distWorst := worst } }

/-- A JOIN that comes while admission is open or slots are held (reason 0x6): it is no command. -/
def Engine.joinBusy (e : Engine) : Engine := (e.refuseMap 6 []).badAccess 0x080008

/-- MDV_CMD with OP = JOIN, with what its map read returns. -/
def Engine.joinCommand (e : Engine) (node : Nat) (header : Option (BitVec 512)) (entries : List (BitVec 128)) : Engine :=
  if e.mdv.joined || e.mdv.joining then e.badAccess 0x080008
  else if !e.quiet then e.joinBusy
  else
    let e := e.readEntries node header
    let reason := e.mapReason header entries
    if reason = 0 then (e.loadMap (header.getD 0) entries).startJoin else e.refuseMap reason entries

def execJoinCommand (node : BitVec 16) (header : Option (BitVec 512)) (entries : List (BitVec 128)) (s : State) : Host.Outcome State Fault Refusal :=
  s.cross Isl.md (.joinCommand node header entries) fun e => e.joinCommand node.toNat header entries

/-- No LEASE, or on the manager a JOIN missing or with another CHECK, within MDV_JOIN_TO.MS. -/
def execJoinTimeout (s : State) : Host.Outcome State Fault Refusal :=
  s.actIn Isl.md fun e =>
    if e.mdv.joining && e.mdv.joinAt + e.get Fld.mdvJoinToMs * 1000000 ≤ e.now then
      ({ e with mdv := { e.mdv with joining := false, reason := 7 } } : Engine).log Ev.joinTimeout []
    else e

/-! ### Received frames (R243) -/

/-- Is the engine in a group, on its way in, or shadowing? -/
def Engine.inGroup (e : Engine) : Bool := e.mdv.joined || e.mdv.joining || e.shadows

/-- The ranks a frame may come from; a node that shadows under a rank below is one of them once its grant has passed (R280). -/
def Engine.neighbours (e : Engine) : List Nat :=
  (e.down ++ [e.parentRank, e.ringPeer]).filter (· != noRank)

/-- Largest body of a type: a VC0 frame holds 260 B of it (R241), OPS 512 KiB and a manifest 1 MiB (R244, R246). -/
def maxBody (type : Nat) (up : Bool) : Option Nat :=
  if channelOf type up = 0 then some 260 else match type with | 0x10 => some 524288 | 0x11 => some 1048576 | _ => none

/-- LENGTH of the last frame of a message. -/
def lastPiece (n : Nat) : Nat := if n = 0 then 0 else (n - 1) % 4096 + 1

/-- Is the last frame LAST, and are LENGTH and the body in their ranges? -/
def wholeFrame (f : Frame) (type : Nat) (body : List Byte) : Bool :=
  f.last && f.length.toNat == lastPiece body.length && (match maxBody type f.up with | some n => decide (body.length ≤ n) | none => true)

/-- The checks of a header that need the engine's state. -/
def Engine.frameOk (e : Engine) (f : Frame) (epochs : List Nat) : Bool :=
  let step := f.step.toNat
  e.inGroup && f.group.toNat == e.mdv.groupId && e.neighbours.contains f.src.toNat && epochs.contains f.epoch.toNat &&
    decide (step ≤ e.stepNo + 2 ∧ e.stepNo ≤ step + 2)

/-- A frame that fails a check is discarded. -/
def Engine.discard (e : Engine) (why : Nat) : Engine := (e.bump Cnt.mdvMsgDiscard).log Ev.discard [why]

/-- A frame from rank 0, or passed on by the parent or the closure, ends its silence. -/
def Engine.hear (e : Engine) (f : Frame) : Engine :=
  if f.src.toNat = e.parentRank || f.src.toNat = e.ringPeer then { e with mdv := { e.mdv with heardAt := e.now } } else e

/-- Takes a message whose frames pass a check of their header; a fenced engine discards those of virtual channel 1 (R254). -/
def Engine.onChecked (e : Engine) (f : Frame) (type : Nat) (body : List Byte) (ok : Engine → Bool) (act : Engine → Engine) : Engine :=
  let (injected, e) := e.evaluate Det.frameCheck
  if injected then (e.discard 0).corrected Det.frameCheck f.src.toNat (some true)
  else if !(wholeFrame f type body && ok e) then e.discard 1
  else if e.mdv.fenced && channelOf type f.up == 1 then e
  else act (e.hear f)

/-- Takes a message whose frames pass every check of R243. -/
def Engine.onFrame (e : Engine) (f : Frame) (type : Nat) (body : List Byte) (act : Engine → Engine) : Engine :=
  e.onChecked f type body (fun e => e.frameOk f [e.epochFor f.step.toNat]) act

/-- The received frame fails a check: its CRC (0), its type or length, or another (R243). A CRC that fails is CORRECTED. -/
def execFrameDiscard (check : BitVec 3) (s : State) : Host.Outcome State Fault Refusal :=
  s.cross Isl.md (.frameDiscard check) fun e => if check = 0 then (e.discard 0).corrected Det.frameCheck 0 else e.discard check.toNat

/-! ### JOIN at the manager (R237) -/

/-- Every rank has joined with the manager's CHECK: the first LEASE licenses step 1. -/
def Engine.allJoined (e : Engine) : Engine :=
  if e.mdv.joins.length = e.mdv.map.length then
    ({ e with mdv := { e.mdv with joined := true, joining := false, coverAt := e.now, leaseAt := e.now, reason := 0 } } : Engine).sendLease 1
  else e

/-- A JOIN: counted by the manager, passed on by an engine on the way. -/
def Engine.takeJoin (e : Engine) (check : BitVec 32) (rank : Nat) : Engine :=
  if !e.mdv.joining then e
  else if e.mdv.rank ≠ 0 then e.sendJoin check.toNat rank
  else if check = e.mdv.check && Table.has e.mdv.map rank then
    ({ e with mdv := { e.mdv with joins := insertNat rank e.mdv.joins } } : Engine).allJoined
  else e

def execJoin (f : Frame) (check : BitVec 32) (rank : BitVec 9) (s : State) : Host.Outcome State Fault Refusal :=
  s.cross Isl.md (.join f check rank) fun e => e.onFrame f 0x09 (joinBody check.toNat rank.toNat) fun e => e.takeJoin check rank.toNat

end Sys2Proof.Machine
end

