-- ==== Sys2Proof/Machine/Group.lean ====
section
/-!
DEFINITION. Machine/Group.lean: leases, fences, probes, the fabric's status, ACKs, segment reports and course starts (R247, R250 to
R257).
-/

namespace Sys2Proof.Machine

/-! ### Leases (R251, R252) -/

/-- A LEASE goes on over every link but the one it came by: down, and round a ring over its closure (R251). -/
def Engine.forwardLease (e : Engine) (f : Frame) (ranks : Nat) : Engine := e.flood 0x01 f.step.toNat (leaseBody ranks) f.src.toNat

/-- A LEASE tells of a new epoch, from the step it licenses on (R253). -/
def Engine.adoptEpoch (e : Engine) (epoch step : Nat) : Engine :=
  if epoch = e.epochFor step then e
  else { e with mdv := { e.mdv with oldEpoch := e.mdv.epoch, epoch := epoch, epochStep := step - 1 } }

/-- A standby's replicas pass the boundary of a step: the chunks of its prefill members are computed, what its tokens wrote can be undone
until the record of the step is here, a replay is over, and the statistics are latched (R258). -/
def Engine.passBoundary (e : Engine) (step : Nat) : Engine :=
  let chunks := (((Table.get? e.ylm.archive step).map (·.members)).getD []).filter fun m => m.kind == 1
  let e := chunks.foldl (fun e m => match e.anyReq? m.slot with
    | none => e
    | some r => if r.handle == m.handle && r.kvEnd == m.start then
        (e.logUndo (.rafter m.slot r)).modAny m.slot fun r => { r with kvEnd := m.start + m.count } else e) e
  let past := Table.keep (Table.put e.mdv.tokensPast step e.mdv.tokensSeen) fun k _ => decide (step < k + 66)
  let held := Table.keep (Table.put e.flt.heldUndo step e.flt.undo) fun k _ => decide (step < k + 66)
  let mdv := { e.mdv with tokensSeen := [], tokensPast := past, parts := [], acks := Table.keep e.mdv.acks fun k _ => decide (step ≤ k),
                          segs := Table.keep e.mdv.segs fun k _ => decide (64 * (step + 1) ≤ k) }
  (({ e with flt := { e.flt with heldUndo := held, undo := [] }, mdv := mdv } : Engine).endReplay).latchAll

/-! ### Steps without a boundary of one's own -/

/-- A loading engine keeps what it receives until its load ends. -/
def Engine.holdMsg (e : Engine) (x : HeldMsg) : Engine :=
  { e with flt := { e.flt with shadow := { e.flt.shadow with held := e.flt.shadow.held ++ [x] } } }

/-- The boundary after the load has passed: the engine executes from now on, first the manifest it has. A load that has not ended
within the journal's depth starts again. -/
def Engine.shadowRuns (e : Engine) : Engine :=
  let x := e.flt.shadow
  if x.phase = 2 && !x.running then
    let e : Engine := { e with flt := { e.flt with shadow := { x with running := true } } }
    match Table.get? e.ylm.archive e.stepNo with
    | none => e
    | some y => e.acceptManifest y
  else if x.phase = 1 && x.source ≠ noRank && x.loadStep + e.get Fld.fltJrnlDepthN < e.stepNo then e.restartLoad
  else e

/-- An engine without steps of its own follows the group's: the boundary before a step licensed, or before one of which tokens come, has
passed. Its renewal counts there, and a fence due there takes effect (R252). -/
def Engine.followSteps (e : Engine) (step : Nat) : Engine :=
  let waits := if e.shadows then !e.flt.shadow.running else e.mdv.role == Role.standby
  if waits && decide (e.stepNo < step) then
    let e := e.countRenewal (step - 1)
    if e.mdv.fenced then e
    else
      let e := if e.flt.shadow.phase = 1 then e.holdMsg (.boundary (step - 1)) else e.passBoundary (step - 1)
      (({ e with stepNo := step } : Engine).dueFences (step - 1)).shadowRuns
  else e

/-- A later copy of a LEASE that a ring brings: one that licenses the newest step, not yet old enough to be its repetition, or one of
the same epoch that licenses a step before it. -/
def Engine.leaseCopy (e : Engine) (epoch step : Nat) : Bool :=
  e.mdv.topology == 2 && e.mdv.joined && epoch == e.epochFor step &&
    (decide (step < e.mdv.licensed) || (e.mdv.licensed == step && decide (e.now < e.mdv.leaseAt + e.get Fld.mdvLapseMs * 500000)))

/-- A first copy of a LEASE: it renews, makes a joining engine a member, and goes on. -/
def Engine.takeLease (e : Engine) (f : Frame) (ranks : Nat) : Engine :=
  let step := f.step.toNat
  if e.mdv.fenced || e.manages || e.leaseCopy f.epoch.toNat step then e
  else
    let e := e.adoptEpoch f.epoch.toNat step
    let e : Engine := { e with mdv := { e.mdv with joined := e.mdv.joined || e.mdv.joining, joining := false, misses := 0,
                                                   licensed := max e.mdv.licensed step, leaseAt := e.now, heardAt := e.now } }
    (e.forwardLease f ranks).followSteps step

/-- A LEASE may be the first message of a new epoch. -/
def Engine.onLease (e : Engine) (f : Frame) (ranks : Nat) : Engine :=
  if wholeFrame f 0x01 (leaseBody ranks) && e.frameOk f [e.epochFor f.step.toNat, (e.mdv.epoch + 1) % 65536] then e.takeLease f ranks else e.discard 1

def execLease (f : Frame) (ranks : BitVec 10) (s : State) : Host.Outcome State Fault Refusal :=
  s.cross Isl.md (.lease f ranks) fun e => e.onLease f ranks.toNat

/-- The manager repeats its last LEASE in a long step. -/
def execLeaseRepeat (s : State) : Host.Outcome State Fault Refusal :=
  s.actIn Isl.md fun e =>
    if e.leadsGroup && e.ylm.current.isSome && e.mdv.licensed != 0 && decide (e.mdv.leaseAt + e.get Fld.mdvLapseMs * 500000 ≤ e.now) then
      e.sendLease e.mdv.licensed
    else e

/-- The miss count has reached MDV_LAPSE.STEPS. -/
def execLeaseMissLimit (s : State) : Host.Outcome State Fault Refusal :=
  s.actIn Isl.md fun e => if e.follows && e.get Fld.mdvLapseSteps ≤ e.mdv.misses then e.lapse else e

/-- MDV_LAPSE.MS has passed without a LEASE. -/
def execLeaseLapseTimeout (s : State) : Host.Outcome State Fault Refusal :=
  s.actIn Isl.md fun e => if e.follows && e.mdv.leaseAt + e.get Fld.mdvLapseMs * 1000000 ≤ e.now then e.lapse else e

/-- A manager without a covering ACK for MDV_LAPSE.MS fences itself (R276). -/
def execManagerIsolationTimeout (s : State) : Host.Outcome State Fault Refusal :=
  s.actIn Isl.md fun e =>
    if e.leadsGroup && !e.mdv.fenced && decide (e.mdv.coverAt + e.get Fld.mdvLapseMs * 1000000 ≤ e.now) then
      (e.fenceSelf.bump Cnt.mdvFence).log Ev.fence [e.mdv.rank, 0]
    else e

/-! ### Fences (R253, R254) -/

/-- MDV_CMD with OP = FENCE_RANK, manager only: reason 4. -/
def execFenceRankCommand (rank : BitVec 9) (s : State) : Host.Outcome State Fault Refusal :=
  s.cross Isl.md (.fenceRankCommand rank) fun e => if e.manages then e.orderFence rank.toNat 4 else e.badAccess 0x080008

/-- A fence of a rank is noted for its boundary, or takes effect now. -/
def Engine.noteFence (e : Engine) (r at_ reason : Nat) : Engine :=
  if r = e.mdv.rank && at_ = 0 then e.obeyFence reason
  else if at_ = 0 then if e.liveRanks.contains r then (e.raiseEpoch e.flt.commitStep).dropRank r else e
  else if e.mdv.pendFences.any (fun x => x.rank == r) then e
  else { e with mdv := { e.mdv with pendFences := e.mdv.pendFences ++ [{ rank := r, at_ := at_, reason := reason, admitted := none }] } }

/-- A FENCE on its way to the rank it names. -/
def Engine.takeFence (e : Engine) (f : Frame) (at_ reason : Nat) : Engine :=
  (e.passTo 0x06 f.dst.toNat f.step.toNat (fenceBody at_ reason)).noteFence f.dst.toNat at_ reason

def execFenceMessage (f : Frame) (atBoundary : BitVec 48) (reason : BitVec 8) (s : State) : Host.Outcome State Fault Refusal :=
  s.cross Isl.md (.fenceMessage f atBoundary reason) fun e =>
    e.onFrame f 0x06 (fenceBody atBoundary.toNat reason.toNat) fun e => e.takeFence f atBoundary.toNat reason.toNat

/-! ### Probes (R242, R255, R256) -/

/-- MDV_STAT, bits [7:0]. -/
def Engine.mdvStat (e : Engine) : Nat :=
  (if e.mdv.joined then e.mdv.role else 3) + 4 * bit e.mdv.joined + 8 * bit e.mdv.fenced + 16 * bit e.mdv.lapsed

/-- The engine's health score: the highest of its parts. -/
def Engine.topScore (e : Engine) : Nat := (Table.vals e.flt.parts).foldl (fun m p => max m p.score) 0

/-- A PROBE is answered by the rank it names, fenced or not. -/
def Engine.takeProbe (e : Engine) (f : Frame) : Engine :=
  if f.dst.toNat ≠ e.mdv.rank then e.passTo 0x07 f.dst.toNat f.step.toNat []
  else
    let ms := (e.now - e.mdv.leaseAt) / 1000000
    e.send 0x08 0 e.stepNo (replyBody e.flt.commitStep e.mdvStat e.topScore (place e.mdv.misses 0 16 + place ms 16 16))

def execProbe (f : Frame) (s : State) : Host.Outcome State Fault Refusal :=
  s.cross Isl.md (.probe f) fun e => e.onFrame f 0x07 [] fun e => e.takeProbe f

/-- The probe a reply answers: the first outstanding whose rank lies in the subtree it came from; the body names no rank. -/
def Engine.probeOf (e : Engine) (src : Nat) : Option Nat := e.mdv.probes.find? fun r => (e.pathUp 17 r).contains src

def Engine.takeReply (e : Engine) (f : Frame) (last stat score misses : Nat) : Engine :=
  if !e.manages then e.send 0x08 0 f.step.toNat (replyBody last stat score misses)
  else match e.probeOf f.src.toNat with
    | none => e
    | some r =>
      ({ e with mdv := { e.mdv with probes := e.mdv.probes.erase r, replies := Table.put e.mdv.replies r (last, stat) } } : Engine).log
        Ev.probe [r, last, stat, score, misses]

def execProbeReply (f : Frame) (last : BitVec 48) (stat : BitVec 8) (score misses : BitVec 32) (s : State) : Host.Outcome State Fault Refusal :=
  s.cross Isl.md (.probeReply f last stat score misses) fun e =>
    e.onFrame f 0x08 (replyBody last.toNat stat.toNat score.toNat misses.toNat) fun e => e.takeReply f last.toNat stat.toNat score.toNat misses.toNat

/-- A PROBE stays unanswered: it is recorded, and the fence stands. -/
def execProbeTimeout (rank : BitVec 9) (s : State) : Host.Outcome State Fault Refusal :=
  s.actIn Isl.md fun e =>
    if e.mdv.probes.contains rank.toNat then
      ({ e with mdv := { e.mdv with probes := e.mdv.probes.erase rank.toNat } } : Engine).log Ev.probe [rank.toNat]
    else e

/-! ### Fabric status against the evidence of a step (R255, Table 10.7) -/

/-- Executing ranks that are not fenced. -/
def Engine.liveExecuting (e : Engine) : List Nat :=
  e.liveRanks.filter fun r => ((e.rank? r).map (·.executes)).getD false

/-- A rank that the fabric calls down and an ACK vouches for: probed, and fenced at the next boundary. -/
def Engine.doubt (e : Engine) (r : Nat) : Engine :=
  if r = e.mdv.rank || e.mdv.pendFences.any (fun x => x.rank == r) then e
  else
    let e := (e.bump Cnt.mdvHbDisagree).send 0x07 r e.stepNo []
    let e := ({ e with mdv := { e.mdv with probes := e.mdv.probes ++ [r] } } : Engine).bump Cnt.mdvProbe
    e.orderFence r 1

/-- Every such rank. -/
def Engine.heartbeat (e : Engine) : Engine :=
  if !e.manages || !e.flag Fld.mdvCtlHbEn then e
  else
    let down := e.liveExecuting.filter fun r => match e.rank? r with
      | some x => e.mdv.nodesDown.contains x.node
      | none => false
    down.foldl (fun e r => e.doubt r) e

/-- Does the manager hold a covering ACK of the step in compute or the one before it? -/
def Engine.covered (e : Engine) : Bool := e.mdv.acks.any fun x => x.2.sent

/-- A node status update. -/
def Engine.fabricStatus (e : Engine) (node : Nat) (up : Bool) : Engine :=
  if !e.flag Fld.mdvCtlHbEn then e
  else if !(e.mdv.map.any fun x => x.2.node == node) then e.log Ev.fabricUnknown [node, bit up]
  else
    let gone := e.mdv.map.any fun x => x.2.node == node && e.mdv.fencedRanks.contains x.1
    let down := if up then e.mdv.nodesDown.filter (· != node) else insertNat node e.mdv.nodesDown
    let e : Engine := { e with mdv := { e.mdv with nodesDown := down } }
    let e := if gone && up then e.log Ev.fabricUp [node] else e
    if e.covered then e.heartbeat else e

def execFabricStatus (node : BitVec 16) (up : Bool) (s : State) : Host.Outcome State Fault Refusal :=
  s.cross Isl.md (.fabricStatus node up) fun e => e.fabricStatus node.toNat up

/-! ### ACK (R250, R256) -/

/-- The body of a received ACK. -/
def ackBodyOf (b : AckBody) : List Byte :=
  ackBody b.cover.toNat (bit b.error + 2 * bit b.mismatch + 4 * bit b.leaveWait) b.digest.toNat b.waitUs.toNat b.missing.toNat

/-- One child's ACK merged in; a digest that differs from the engine's own names that child. -/
def AckMerge.merge (a : AckMerge) (src : Nat) (b : AckBody) : AckMerge :=
  let differs := b.digest != a.digest
  { a with children := insertNat src a.children, cover := a.cover + b.cover.toNat, error := a.error || b.error,
           mismatch := a.mismatch || b.mismatch || differs, leaveWait := a.leaveWait || b.leaveWait, waitUs := max a.waitUs b.waitUs.toNat,
           missing := if a.missing ≠ noRank then a.missing else if differs then src else b.missing.toNat }

/-- What the manager makes of a merged ACK: a rank missing or differing is fenced at once; a covering one ends its isolation. -/
def Engine.judgeAck (e : Engine) (step : Nat) : Engine :=
  match Table.get? e.mdv.acks step with
  | none => e
  | some a =>
    let missing := if a.missing = noRank then e.mdv.silentSubtrees.headD noRank else a.missing
    if missing ≠ noRank then
      ({ e with mdv := { e.mdv with silentSubtrees := [] } } : Engine).fenceNow missing (if a.mismatch then 3 else 2)
    else if e.liveExecuting.length ≤ a.cover + 1 then
      ({ e with mdv := { e.mdv with acks := Table.put e.mdv.acks step { a with sent := true }, coverAt := e.now } } : Engine).heartbeat
    else e

/-- On a standby the ACK of its subtree opens with the first child's: it has no work of its own, and the digest is that of the manifest it
kept for the step. -/
def Engine.openAck (e : Engine) (step : Nat) (digest : BitVec 64) : Engine :=
  if !e.bystands || Table.has e.mdv.acks step then e
  else
    let a := { AckMerge.open (((e.yealmFor step).map (·.digest)).getD digest) with own := true }
    { e with mdv := { e.mdv with acks := Table.put e.mdv.acks step a } }

/-- A child's ACK for a step. -/
def Engine.takeAck (e : Engine) (f : Frame) (b : AckBody) : Engine :=
  let step := f.step.toNat
  let e := e.openAck step b.digest
  match Table.get? e.mdv.acks step with
  | none => e
  | some a =>
    if a.sent || a.children.contains f.src.toNat || !e.reporters.contains f.src.toNat then e
    else
      let (injected, e) := if e.manages then e.tryDetector Det.missingAck else (false, e)
      let b := if injected then { b with missing := f.src } else b
      let e : Engine := { e with mdv := { e.mdv with acks := Table.put e.mdv.acks step (a.merge f.src.toNat b) } }
      if e.manages then e.judgeAck step else e.forwardAck step

def execAck (f : Frame) (body : AckBody) (s : State) : Host.Outcome State Fault Refusal :=
  s.cross Isl.md (.ack f body) fun e => e.onFrame f 0x02 (ackBodyOf body) fun e => e.takeAck f body

/-- The first step whose own work is done and that a child has not answered. -/
def Engine.silentStep (e : Engine) (child : Nat) : Option Nat :=
  (e.mdv.acks.find? fun x => x.2.own && !x.2.sent && !x.2.children.contains child).map Prod.fst

/-- A child is silent for MDV_ACK_TO.US: named missing, and the ACK goes on without it. -/
def Engine.childSilent (e : Engine) (child : Nat) : Engine :=
  match (if e.reporters.contains child then e.silentStep child else none) with
  | none => e
  | some step =>
    let name := fun (a : AckMerge) => { a with children := insertNat child a.children, missing := if a.missing = noRank then child else a.missing }
    let e := ({ e with mdv := { e.mdv with acks := Table.modify e.mdv.acks step name } } : Engine).log Ev.ackMissing [child, step]
    if e.manages then e.judgeAck step else e.forwardAck step

def execChildAckTimeout (child : BitVec 9) (s : State) : Host.Outcome State Fault Refusal :=
  s.actIn Isl.md fun e => e.childSilent child.toNat

/-! ### Segment reports and course starts (R247) -/

/-- A base read that fails after the course's report has gone up. -/
def Engine.lateBaseFail (e : Engine) (step k : Nat) : Engine :=
  if e.manages then e.onCourse k fun y c e => if y.step = step then e.failCourse k c else e
  else e.passUp 0x03 step (segBody k 0 0 true)

/-- Slot reads that fail after the course's report has gone up: told the same way; the manager ends their members (R128). -/
def Engine.lateSegFail (e : Engine) (step k : Nat) (failed : BitVec 1024) : Engine :=
  if e.manages then e.onCourse k fun y c e => if y.step = step then e.failSegments y c (bitmapSegs failed) else e
  else e.passUp 0x03 step (segBody k 0 failed.toNat false)

/-- A child's report of a course. -/
def Engine.takeSegReport (e : Engine) (f : Frame) (k : Nat) (baseFail : Bool) (late failed : BitVec 1024) : Engine :=
  let step := f.step.toNat
  let g := e.segMerge step k
  if !e.reporters.contains f.src.toNat then e
  else if g.sent then
    let e := if baseFail then e.lateBaseFail step k else e
    if failed = 0 then e else e.lateSegFail step k failed
  else
    let e := e.putSegMerge step k { g with children := insertNat f.src.toNat g.children, late := g.late ||| late, failed := g.failed ||| failed,
                                           baseFail := g.baseFail || baseFail }
    if e.bystands then e.relayReport step k
    else match e.ylm.current with
    | none => e
    | some y => match y.courses[k]? with
      | none => e
      | some c => if y.step = step then e.passReports y k c else e

def execSegReport (f : Frame) (course : BitVec 6) (baseFail : Bool) (late failed : BitVec 1024) (s : State) : Host.Outcome State Fault Refusal :=
  s.cross Isl.md (.segReport f course baseFail late failed) fun e =>
    e.onFrame f 0x03 (segBody course.toNat late.toNat failed.toNat baseFail) fun e => e.takeSegReport f course.toNat baseFail late failed

/-- The manager's order for a course: applied once, and passed on. -/
def Engine.takeOrder (e : Engine) (f : Frame) (k : Nat) (baseFail : Bool) (late failed : BitVec 1024) : Engine :=
  let step := f.step.toNat
  let e := e.passDown 0x04 step (segBody k late.toNat failed.toNat baseFail)
  match e.ylm.current with
  | none => e
  | some y => match y.courses[k]? with
    | none => e
    | some c =>
      if y.step ≠ step || (e.run k).ordered then e
      else e.applySet y k c (bitmapSegs late) (bitmapSegs failed) baseFail (e.recordedSet step k).isNone

def execCourseStart (f : Frame) (course : BitVec 6) (baseFail : Bool) (late failed : BitVec 1024) (s : State) :
    Host.Outcome State Fault Refusal :=
  s.cross Isl.md (.courseStart f course baseFail late failed) fun e =>
    e.onFrame f 0x04 (segBody course.toNat late.toNat failed.toNat baseFail) fun e => e.takeOrder f course.toNat baseFail late failed

/-- No order within MDV_CS_TO.US of the chip's own report. -/
def execCourseStartTimeout (course : BitVec 6) (s : State) : Host.Outcome State Fault Refusal :=
  s.actIn Isl.md fun e =>
    let k := course.toNat
    if e.grouped && (e.run k).reported && !(e.run k).ordered then e.stepError Det.courseStart [k] (unitDetail Det.courseStart) else e

/-- A failed KV page of a worker (R128, R164). -/
def Engine.takePageFail (e : Engine) (f : Frame) (p : Nat) : Engine :=
  if e.manages then e.kvFails p else e.passUp 0x05 f.step.toNat (pageFailBody p)

def execPageFail (f : Frame) (entry : BitVec 22) (s : State) : Host.Outcome State Fault Refusal :=
  s.cross Isl.md (.pageFail f entry) fun e => e.onFrame f 0x05 (pageFailBody entry.toNat) fun e => e.takePageFail f entry.toNat

end Sys2Proof.Machine
end

