-- ==== Sys2Proof/Machine/Images.lean ====
section
/-!
DEFINITION. Machine/Images.lean: the table entries that travel between engines, read back from their images (R198, R212, R244, R264,
R280): the encoders stand with their tables.
-/

namespace Sys2Proof.Machine

/-! ### Requests (Table 3.1) -/

/-- The state of a code (Table 3.9). -/
def ReqState.ofCode : Nat → ReqState
  | 1 => .admitting | 2 => .queued | 3 => .prefill | 4 => .decode | 5 => .parked | 6 => .spilled | 7 => .restoring
  | 8 => .cancelling | 9 => .retiring | 10 => .fenced | _ => .free

/-- Field of w bits at a bit of an image. -/
abbrev imageBits := bitsOf

/-- A rafter entry from its 256 B image; what the image does not carry is as a request without it. -/
def Rafter.ofImage (x : Nat) : Rafter :=
  let g := fun (lo w : Nat) => imageBits x lo w
  let b := fun (lo : Nat) => imageBits x lo 1 == 1
  { handle := BitVec.ofNat 32 (g 0 32), tenant := g 32 16, family := g 48 8, state := .ofCode (g 56 4), cls := g 60 2, priority := g 64 5,
    addValid := b 69, pfxValid := b 70, deliverLate := b 71, version := g 72 8, addition := g 80 16, pfx := g 96 20, eventRing := g 116 12,
    seed := BitVec.ofNat 64 (g 128 64), pfxLen := g 192 24, returnState := .ofCode (g 216 4), inputEnd := g 224 24,
    srcKind := b 248, stopSeen := b 249, pausePending := b 250, rebindPending := b 251, mixedVersion := b 252, firstEmitted := b 253,
    suppressNote := b 254, bindCurrent := b 255, seqEnd := g 256 24, pendStatus := g 280 8, kvEnd := g 288 24, pendReason := g 312 3,
    generated := g 320 24, deliveredPos := g 352 24, handedPos := g 352 24, maxNew := g 384 32, maxContext := g 416 32, ttft := g 448 48, nextDl := g 496 48,
    total := g 544 48, parkExpiry := g 592 48, itlUs := g 640 18, pageHead := g 672 22, pageCount := g 704 20, penOvfHead := g 736 17,
    penOvfValid := b 753, paramSrc := BitVec.ofNat 64 (g 768 64), userTag := BitVec.ofNat 64 (g 832 64), admitStep := g 896 48,
    lastServed := g 944 48, replaySeq := g 992 32, params := BitVec.ofNat 1024 (g 1024 1024), arrival := 0, ackRing := 0, ackPos := 0,
    completed := false, promptTokens := 0, matched := 0, lookupOpen := false, listTokens := [], later := [], importLoc := 0, bias := [],
    chainSalt := 0, reAdmit := false, reserved := 0, entriesRes := 0, bindFailed := false, restoreAt := 0,
    pagesCharged := 0, parkedAt := 0, fencedFrom := .free }

/-! ### Pages and the index (Table 6.1, R157) -/

def PageState.ofCode : Nat → PageState
  | 1 => .openPage | 2 => .full | 3 => .cached | 4 => .inTransit | 5 => .copying | 6 => .aliasEntry | 7 => .failed | _ => .free

/-- A page entry from its 16 B image. -/
def Page.ofImage (x : Nat) : Page :=
  let g := fun (lo w : Nat) => imageBits x lo w
  let b := fun (lo : Nat) => imageBits x lo 1 == 1
  let state := PageState.ofCode (g 22 4)
  if state == .aliasEntry then { Page.blank with next := g 0 22, state := state, tier := 0, primary := g 32 22 }
  else
    let cached := state == .cached
    { Page.blank with next := g 0 22, state := state, tier := g 26 2, indexed := b 28, mixed := b 29, baseOnly := b 30,
                      holders := if cached then 0 else g 32 16, prev := if cached then g 32 22 else 0, frame := g 64 32, pins := g 96 2,
                      cls := g 98 3, bucket := g 101 22, way := g 123 1, before := if state == .inTransit then .full else state }

def Way.ofImage (x : Nat) : Way :=
  { hash := BitVec.ofNat 64 (imageBits x 0 64), page := imageBits x 64 22, block := imageBits x 86 19, valid := imageBits x 105 1 == 1 }

/-! ### Tenants, guesses, biases and counts (Table 4.3, R198, R212) -/

def Tenant.ofImage (x : Nat) : Tenant :=
  let g := fun (lo w : Nat) => imageBits x lo w
  { level := toSigned 48 (g 0 48), stamp := g 48 32, rate := g 80 27, burst := g 107 27, enable := g 134 1 == 1, cap := g 136 18,
    live := g 154 19, pquota := g 176 23, pheld := g 199 23, aquota := g 224 13, aheld := g 237 14 }

def GuessStore.ofImage (x : Nat) : GuessStore :=
  { tokens := (List.range 4).map fun i => imageBits x (24 * i) 24, count := imageBits x 96 3 }

/-- A bias store's 64 entries; unused ones are token 0xFF_FFFF. -/
def biasOfImage (x : Nat) : List (Nat × BitVec 32) :=
  ((List.range 64).map fun i => (imageBits x (64 * i) 24, BitVec.ofNat 32 (imageBits x (64 * i + 32) 32))).filter fun e => e.1 != pad

def lineOfImage (x l : Nat) (room : Nat) : List (Nat × Nat) :=
  ((List.range room).map fun i => imageBits x (512 * l + 32 * i) 32).filterMap fun w =>
    if bitsOf w 24 8 = 0 then none else some (bitsOf w 0 24, bitsOf w 24 8)

/-- A count set from its image; in a cell, entry 15 of line 31 is the link. -/
def CountSet.ofImage (x : Nat) (cell : Bool) : CountSet :=
  ((List.range 32).map fun l => (l, lineOfImage x l (if cell then cellRoom l else 16))).filter fun p => !p.2.isEmpty

def cellLink (x : Nat) : Option Nat :=
  let w := imageBits x (512 * 31 + 32 * 15) 32
  if w.testBit 31 then some (bitsOf w 0 17) else none

/-! ### Variants (Tables 7.5 and 7.2, R175, R183, Table 11.11) -/

def VersionRec.ofImage (i x : Nat) : VersionRec :=
  let g := fun (lo w : Nat) => imageBits x lo w
  let b := fun (lo : Nat) => imageBits x lo 1 == 1
  { index := i, version := g 0 8, vstate := g 8 3, srcT2 := b 11, inT0 := b 12, rebindReq := b 13, hostRetire := b 14, rank := g 16 8,
    size := g 32 32, source := BitVec.ofNat 64 (g 64 64), slot := if b 143 then some (g 128 13) else none, bound := g 160 19,
    lastUsed := g 192 32, uses := [], ack := none, lost := false }

def Addition.ofImage (x : Nat) : Addition :=
  { family := imageBits x 16 8, valid := imageBits x 24 1 == 1, currentValid := imageBits x 25 1 == 1, owner := imageBits x 32 16,
    current := imageBits x 48 8, retires := [],
    records := ((List.range 7).map fun r => VersionRec.ofImage r (imageBits x (256 * (r + 1)) 256)).filter fun r => r.vstate != 0 }

def PrefixRec.ofImage (x : Nat) : PrefixRec :=
  let g := fun (lo w : Nat) => imageBits x lo w
  { family := g 0 8, state := g 8 2, tenant := g 16 16, tokens := g 32 24, head := g 64 22, pages := [], bound := g 96 19,
    source := BitVec.ofNat 64 (g 128 64), srcT2 := g 10 1 == 1, lapse := if g 192 48 = 0 then none else some (g 192 48), resident := g 11 1 == 1,
    ack := none }

def Slot.ofImage (x : Nat) : Slot :=
  { addition := imageBits x 16 16, version := imageBits x 32 8, family := imageBits x 40 8, t0 := imageBits x 15 1 == 1, granule := imageBits x 96 32,
    granules := ceilDiv (imageBits x 64 32) 16, pins := 0 }

/-! ### Manifests (Tables 5.4 to 5.6, R133) -/

/-- n bytes at an offset, as a number. -/
def numAt (bs : List Byte) (off n : Nat) : Nat := leNat ((bs.drop off).take n)

/-- A course from its 128 B; its first draw follows those of the courses before it. -/
def Course.ofImage (x firstDraw : Nat) : Course :=
  let g := fun (lo w : Nat) => imageBits x lo w
  { family := g 0 8, split := g 8 6, grade := g 16 2, depth := g 18 3, bank := g 21 1, firstMember := g 32 14, members := g 64 15,
    firstSegment := g 96 14, segments := g 128 11, firstPos := g 160 17, positions := g 192 17, draws := g 224 17, firstDraw := firstDraw,
    predNs := g 448 32 }

/-- Courses in order, each after the draws of those before it. -/
def coursesFrom (bs : List Byte) : Nat → Nat → Nat → List Course
  | 0, _, _ => []
  | n + 1, off, firstDraw =>
    let c := Course.ofImage (numAt bs off 128) firstDraw
    c :: coursesFrom bs n (off + 128) (firstDraw + c.draws)

def Segment.ofImage (x : Nat) : Segment :=
  { slot := imageBits x 0 13, null := imageBits x 15 1 == 1, members := imageBits x 16 15, firstPos := imageBits x 32 17 }

/-- A member from its 48 B: family and addition are those of its course and segment. -/
def Member.ofImage (x i firstDraw family : Nat) (addition : Option (Nat × Nat × Nat)) : Member :=
  let g := fun (lo w : Nat) => imageBits x lo w
  let handle := BitVec.ofNat 32 (g 0 32)
  { handle := handle, slot := slotOf handle, family := family, cls := g 32 2, kind := g 34 2, spec := g 36 3, start := g 96 24, count := g 128 12,
    addition := addition, pageHead := g 160 22, pageCount := g 192 20, seed := BitVec.ofNat 64 (g 256 64), order := i, firstPos := g 64 17,
    segment := g 144 14, vacated := false, deferred := false, baseOnly := false, failed := false, ringRes := 0, seqStart := 0, accepted := 0,
    emitted := false, pins := [], firstDraw := firstDraw, advance := 0, guesses := [], delivered := 0, projected := false }

/-- The addition a segment stands for, by the slot map. -/
def Engine.segmentAddition (e : Engine) (g : Segment) : Option (Nat × Nat × Nat) :=
  if g.null then none else (Table.get? e.var.slots g.slot).map fun s => (s.addition, s.version, g.slot)

/-- Members in order. -/
def Engine.membersFrom (e : Engine) (bs : List Byte) (courses : List Course) (segments : List Segment) : Nat → Nat → Nat → Nat → List Member
  | 0, _, _, _ => []
  | n + 1, i, off, firstDraw =>
    let x := numAt bs off 48
    let family := ((courses.find? fun c => decide (c.firstMember ≤ i ∧ i < c.firstMember + c.members)).map (·.family)).getD 0
    let addition := (segments[imageBits x 144 14]?).bind e.segmentAddition
    let m := Member.ofImage x i firstDraw family addition
    m :: Engine.membersFrom e bs courses segments n (i + 1) (off + 48) (firstDraw + m.draws)

/-- The yealm that a manifest's bytes fix. -/
def Engine.yealmOf (e : Engine) (bs : List Byte) : Yealm :=
  let h := numAt bs 0 256
  let g := fun (lo w : Nat) => imageBits h lo w
  let courses := coursesFrom bs (g 160 7) 256 0
  let segmentOff := g 576 32
  let segments := (List.range (g 224 15)).map fun i => Segment.ofImage (numAt bs (segmentOff + 8 * i) 8)
  let members := e.membersFrom bs courses segments (g 192 15) 0 (g 544 32) 0
  { step := g 64 48, mode := g 48 2, members := members, courses := courses, segments := segments, positions := g 256 17, draws := g 288 17,
    epoch := BitVec.ofNat 32 (g 320 32), sealTime := g 384 64, predNs := g 448 32, credits := g 480 32,
    digest := BitVec.ofNat 64 (numAt bs (g 608 32) 8), waited := none }

/-- A manifest whose TAG, FORMAT, length, DIGEST and trailer stand (R135, R245). -/
def Engine.parseManifest (e : Engine) (bs : List Byte) : Option Yealm :=
  let h := numAt bs 0 256
  let y := e.yealmOf bs
  if imageBits h 0 32 = 0x5E4B4D46 && imageBits h 32 16 = 0x0302 && bs.length = y.size && imageBits h 608 32 = y.trailerOff &&
      crc64 (bs.take y.trailerOff) == y.digest && numAt bs (y.trailerOff + 8) 6 = y.step then some y
  else none

end Sys2Proof.Machine
end

