-- ==== Sys2Proof/Machine/Followers.lean ====
section
/-!
DEFINITION. Machine/Followers.lean: what a worker, a standby and a shadowing engine make of a step packet and of tokens, and how
partials are merged (R215, R239, R244, R245, R248, R249, R256).
-/

namespace Sys2Proof.Machine

/-! ### OPS records (Table 10.6) -/

/-- Field of w bits at bit lo of byte b of a record. -/
def opf (x : BitVec 256) (b lo w : Nat) : Nat := bitsOf x.toNat (8 * b + lo) w

/-- The free entry list of the replica follows its manager's (R163). -/
def Engine.useEntry (e : Engine) (p : Nat) : Engine :=
  if (Table.get? e.pgm.pages p).isSome then e else { e with pgm := { e.pgm with entries := e.pgm.entries.use p } }

/-- Ranks that this engine partners. -/
def Engine.partnered (e : Engine) : Nat := (e.mdv.map.filter fun x => x.2.partner == e.mdv.rank && !e.mdv.fencedRanks.contains x.1).length

/-- PAGE_BIND: a frame from the engine's own pool; under the KV mirror a standby binds one for each rank it partners (R274). -/
def Engine.opsPageBind (e : Engine) (p tier cls : Nat) : Engine :=
  match e.frameOf tier cls with
  | none => e
  | some (k, e) =>
    let x := e.page p
    let e := (e.useEntry p).putPage p { x with tier := tier, cls := cls, frame := k, state := if x.state == .free then .openPage else x.state }
    if e.bystands && e.flag Fld.fltCtlKvMirror then e.takeMirrors p (e.partnered - 1) else e

/-- PAGE_IMAGE: the replica keeps its own frame and the tier that frame lies in; IN_TRANSIT is the engine's own move's. -/
def Engine.opsPageImage (e : Engine) (p : Nat) (y : Page) : Engine :=
  let x := e.page p
  let bound := x.state != .free && x.state != .aliasEntry && x.tier != 3
  let keep := x.state == .inTransit || (y.state == .inTransit && bound)
  let state := if keep && y.state != .aliasEntry then x.state else y.state
  let y := { y with tier := if bound then x.tier else y.tier, frame := if bound then x.frame else 0, cls := if bound then x.cls else y.cls,
                    state := state, before := if y.state == .inTransit then x.before else y.state, owner := x.owner, family := x.family,
                    salt := x.salt, cachedAt := if y.state == .cached && x.state != .cached then e.now else x.cachedAt }
  let e := (e.useEntry p).putPage p y
  let rest := e.pgm.cached.filter (· != p)
  { e with pgm := { e.pgm with cached := if y.state == .cached then (if e.pgm.cached.contains p then e.pgm.cached else rest ++ [p]) else if y.state == .inTransit then e.pgm.cached else rest } }

/-- PAGE_MOVE: the engine moves its own head slices. -/
def Engine.opsPageMove (e : Engine) (p tier : Nat) : Engine :=
  let x := e.page p
  let why := if x.state == .copying then MoveWhy.copyOnWrite
    else if x.state == .inTransit && x.tier == 3 then .importPage
    else if tier = 2 then .spill else if tier = 1 && x.tier = 0 then .relief else .promote
  e.want { why := why, page := p, slot := none, retried := false, timed := false }

/-- PAGE_RELEASE: its frame returns to the engine's own pool. -/
def Engine.opsPageRelease (e : Engine) (p : Nat) : Engine :=
  if (Table.get? e.pgm.pages p).isNone then e
  else
    let x := e.page p
    let e : Engine := { e with pgm := { e.pgm with cached := e.pgm.cached.filter (· != p) } }
    ((e.dropMirrors p).giveFrame x.tier x.cls x.frame).freeEntry p

/-- A slot is placed in the engine's own pool, and its share is loaded. -/
def Engine.placeSlot (e : Engine) (s : Nat) (t0 : Bool) (size a v family : Nat) (source : BitVec 64) : Engine :=
  let e : Engine := { e with var := { e.var with slots := Table.del e.var.slots s } }
  match findRun (e.slotRuns t0) (e.poolGranules t0) (ceilDiv size 16) with
  | none => e.log Ev.slotFailed [s]
  | some g =>
    let y : Slot := { addition := a, version := v, family := family, t0 := t0, granule := g, granules := ceilDiv size 16, pins := 0 }
    let entry := (e.addition? a).getD { family := family, valid := true, currentValid := false, owner := 0, current := 0, records := [], retires := [] }
    let index := ((List.range 7).find? fun i => !(entry.records.any fun r => r.index == i)).getD 0
    let fresh : VersionRec :=
      { index := index, version := v, vstate := 1, srcT2 := true, inT0 := t0, rebindReq := false, hostRetire := false, rank := 0, size := size,
        source := source, slot := some s, bound := 0, lastUsed := 0, uses := [], ack := none, lost := false }
    let rest := entry.records.filter fun r => r.version != v
    let r := match entry.records.find? fun r => r.version == v with
      | some old => { old with vstate := 1, slot := some s, inT0 := t0 }
      | none => fresh
    let e := e.putAddition a { entry with records := rest ++ [r] }
    let e : Engine := { e with var := { e.var with slots := Table.put e.var.slots s y } }
    (e.addJob (.addition a v true) (ceilDiv (size * 4096) chunkBytes)).nextLoadBurst

/-- SLOT_BIND. -/
def Engine.opsSlotBind (e : Engine) (x : BitVec 256) : Engine :=
  e.placeSlot (opf x 1 0 13) (opf x 3 0 1 == 1) (opf x 4 0 32) (opf x 8 0 16) (opf x 10 0 8) (opf x 11 0 8) (BitVec.ofNat 64 (opf x 16 0 64))

/-- SLOT_RELEASE. -/
def Engine.opsSlotRelease (e : Engine) (s : Nat) : Engine :=
  match Table.get? e.var.slots s with
  | none => e
  | some x => (e.modRecord x.addition x.version fun r => { r with vstate := 3 }).freeSlot s

/-- FAMILY with its block: configured, and loaded into the engine's own granules; a block for a family it has replaces the old one. -/
def Engine.opsFamilyBlock (e : Engine) (i : Nat) (block : BitVec 2048) : Engine :=
  let f : Family := { Family.none with block := block }
  let old := e.family i
  if old.state ≠ 0 then
    let e := e.putFamily i { old with block := block }
    ({ e with adm := { e.adm with predictors := Table.put e.adm.predictors i f.predictor } } : Engine).gradeFamily i
  else match findRun e.weightRuns (e.get Fld.varWtSizeMib / 2) (chunksOf f.weightBytes) with
    | none => e.log Ev.loadFailed [0, i]
    | some g =>
      let n := chunksOf f.weightBytes
      let e := (e.putFamily i { f with state := 1, granule := g, granules := n }).gradeFamily i
      if n = 0 then e.jobDone (.family i false) else (e.addJob (.family i false) n).nextLoadBurst

/-- FAMILY with REMOVE. -/
def Engine.opsFamilyRemove (e : Engine) (f : Nat) : Engine :=
  let jobs := e.var.jobs.filter fun j => match j.what with | .family g _ => g == f | _ => false
  let e : Engine := jobs.foldl (fun e j => e.dropJob j.id) e
  { e with var := { e.var with families := Table.del e.var.families f }, ylm := { e.ylm with fits := Table.del e.ylm.fits f, lowered := Table.del e.ylm.lowered f } }

/-- PREFIX. -/
def Engine.opsPrefixState (e : Engine) (p family state : Nat) : Engine :=
  let x : PrefixRec := (Table.get? e.var.prefixes p).getD
    { family := family, state := state, tenant := 0, tokens := 0, head := 0, pages := [], bound := 0, source := 0, srcT2 := true, lapse := none,
      resident := false, ack := none }
  { e with var := { e.var with prefixes := if state = 0 then Table.del e.var.prefixes p
                                            else Table.put e.var.prefixes p { x with family := family, state := state } } }

/-- INPUT: COMPUTE gives tile inputs, COUNT adds to the count set. -/
def Engine.opsInputRecord (e : Engine) (x : BitVec 256) : Engine :=
  let h := BitVec.ofNat 32 (opf x 4 0 32)
  let tokens := (List.range (min 5 (opf x 11 0 8))).map fun i => opf x (12 + 4 * i) 0 24
  let position := opf x 8 0 24
  match e.replica? h with
  | none => e
  | some r =>
    let later := (tokens.zipIdx).foldl (fun t y => Table.put t (position + y.2) y.1) r.later
    let e := if opf x 1 0 1 = 1 then e.putReplica (slotOf h) { r with later := later } else e
    let e := if opf x 1 0 1 = 1 then e.emptyGuesses false (slotOf h) else e
    if opf x 1 1 1 = 1 then e.countReplica (slotOf h) tokens else e

/-- REQ_OPEN with its parameter block and bias store: an empty count set and guess store. -/
def Engine.opsReqOpen (e : Engine) (h : Handle) (params bias : Nat) : Engine :=
  let slot := slotOf h
  let base := (e.replica? h).getD { Rafter.ofImage 0 with handle := h, state := .queued, family := noFamily, deliveredPos := pad, handedPos := pad }
  let r := { base with params := BitVec.ofNat 1024 params }
  let e : Engine := { e with gens := Table.put e.gens slot (h.toNat / 2 ^ 18) }
  let smp := { e.smp with homes := Table.del e.smp.homes slot, biases := Table.put e.smp.biases slot (biasOfImage bias),
                          guesses := Table.put e.smp.guesses slot .empty }
  ({ e with smp := smp } : Engine).putReplica slot r

/-- REQ_CLOSE. -/
def Engine.opsReqClose (e : Engine) (h : Handle) : Engine :=
  match e.replica? h with
  | none => e
  | some _ =>
    let e := (e.closeStores (slotOf h)).nextGeneration (slotOf h)
    { e with mdv := { e.mdv with replicas := Table.del e.mdv.replicas (slotOf h) } }

/-- A number from records that follow one another. -/
def joinRecords (l : List (BitVec 256)) : Nat := sumBy l.zipIdx fun x => x.1.toNat * 2 ^ (256 * x.2)

/-- One record with those that belong to it: how many follow it, and its action. -/
def Engine.opsRecord (e : Engine) (x : BitVec 256) (more : List (BitVec 256)) : Nat × Engine :=
  match opf x 0 0 8 with
  | 0x01 => (0, e.opsPageBind (opf x 1 0 22) (opf x 4 0 2) (opf x 5 0 3))
  | 0x02 => (0, e.opsPageImage (opf x 1 0 22) (Page.ofImage (opf x 8 0 128)))
  | 0x03 => (0, e.opsPageMove (opf x 1 0 22) (opf x 4 0 2))
  | 0x04 => (0, e.opsPageRelease (opf x 1 0 22))
  | 0x05 => (0, e.putWay (opf x 1 0 24) (opf x 4 0 1) (Way.ofImage (opf x 8 0 128)))
  | 0x06 => (0, e.opsSlotBind x)
  | 0x07 => (0, e.opsSlotRelease (opf x 1 0 13))
  | 0x08 =>
    if opf x 2 0 1 = 1 then (0, e.opsFamilyRemove (opf x 1 0 8))
    else (8, e.opsFamilyBlock (opf x 1 0 8) (BitVec.ofNat 2048 (joinRecords (more.take 8))))
  | 0x09 => (0, e.opsPrefixState (opf x 4 0 20) (opf x 8 0 8) (opf x 9 0 8))
  | 0x0A => (0, e.opsInputRecord x)
  | 0x0B => (20, e.opsReqOpen (BitVec.ofNat 32 (opf x 4 0 32)) (joinRecords (more.take 4)) (joinRecords ((more.drop 4).take 16)))
  | 0x0C => (0, e.opsReqClose (BitVec.ofNat 32 (opf x 4 0 32)))
  | _ => (0, e)

/-- Every record, in order; `skip` counts records that belong to the one before. -/
def Engine.applyOps : List (BitVec 256) → Nat → Engine → Engine
  | [], _, e => e
  | _ :: l, skip + 1, e => Engine.applyOps l skip e
  | x :: l, 0, e =>
    let (n, e) := e.opsRecord x l
    Engine.applyOps l n e

/-- A step packet's records are applied to the replicas. -/
def Engine.opsPacket (e : Engine) (records : List (BitVec 256)) : Engine :=
  let e : Engine := ({ e with mdv := { e.mdv with packetAt := e.now } } : Engine).bump Cnt.mdvPkt
  Engine.applyOps records 0 e

/-- An OPS message: forwarded, and applied; while a load runs it is kept. -/
def Engine.takeOps (e : Engine) (f : Frame) (records : List (BitVec 256)) : Engine :=
  let e := e.passDown 0x10 f.step.toNat (opsBody records)
  if e.manages then e
  else if e.flt.shadow.phase = 1 then e.holdMsg (.ops f.step.toNat records)
  else e.opsPacket records

def execOps (f : Frame) (records : List (BitVec 256)) (s : State) : Host.Outcome State Fault Refusal :=
  s.cross Isl.md (.ops f records) fun e => e.onFrame f 0x10 (opsBody records) fun e => e.takeOps f records

/-! ### MANIFEST (R238, R245) -/

/-- The step of the next manifest. -/
def Engine.nextManifest (e : Engine) : Nat := match e.mdv.manifestIn with
  | some y => y.step + 1
  | none => e.draftStep

/-- A standby keeps the manifest only for the rank it may take. -/
def Engine.keepManifest (e : Engine) (y : Yealm) : Engine :=
  let e := e.tellFamilies y
  let phase := if e.glb.phase = 5 then 7 else e.glb.phase
  let depth := e.get Fld.fltJrnlDepthN
  { e with ylm := { e.ylm with archive := Table.keep (Table.put e.ylm.archive y.step y) fun k _ => decide (y.step < k + depth + 2) },
           mdv := { e.mdv with distNs := e.now - e.mdv.packetAt }, glb := { e.glb with phase := phase } }

/-- A manifest that fails its checks: STEP class, though no step be in compute. -/
def Engine.badManifest (e : Engine) (step : Nat) (injected : Bool) : Engine :=
  if e.ylm.current.isSome then e.stepError Det.manifestCheck [] step (some injected)
  else (e.sendAbort step Det.manifestCheck).report Det.manifestCheck Cls.step nullHandle step (some injected)

/-- Does a manifest of the step and digest stand here already? -/
def Engine.holdsManifest (e : Engine) (y : Yealm) : Bool :=
  (e.ylm.current.toList ++ e.ylm.next.toList ++ e.mdv.manifestIn.toList ++ (Table.get? e.ylm.archive y.step).toList).any fun z =>
    z.step == y.step && z.digest == y.digest

/-- A manifest is checked, and executed or kept. On an engine that executes, one of another step than the expected fails, but for a second
copy of one that stands, which is nothing new. -/
def Engine.checkManifest (e : Engine) (step : Nat) (bytes : List Byte) : Engine :=
  let (injected, e) := e.evaluate Det.manifestCheck
  match (e.parseManifest bytes).filter fun y => !injected && y.step % 2 ^ 48 == step with
  | none => e.badManifest step injected
  | some y =>
    if !e.executes then e.keepManifest y
    else if y.step = e.nextManifest then e.acceptManifest y
    else if e.holdsManifest y then e
    else e.badManifest y.step false

/-- A MANIFEST message. -/
def Engine.takeManifest (e : Engine) (f : Frame) (bytes : List Byte) : Engine :=
  let e := e.passDown 0x11 f.step.toNat bytes
  if e.manages then e
  else if e.flt.shadow.phase = 1 then e.holdMsg (.manifest f.step.toNat bytes)
  else e.checkManifest f.step.toNat bytes

def execManifest (f : Frame) (bytes : List (BitVec 8)) (s : State) : Host.Outcome State Fault Refusal :=
  s.cross Isl.md (.manifest f bytes) fun e => e.onFrame f 0x11 bytes fun e => e.takeManifest f bytes

/-! ### TOKENS (R249) -/

def entryCounted (x : Nat) : Bool := bitsOf x 24 1 == 1
def entryFinal (x : Nat) : Bool := bitsOf x 26 1 == 1

/-- A member's entries: its request's sequence follows the counted and final tokens, and the counted ones enter the count updates. -/
def Engine.takeMember (e : Engine) (y : Yealm) (i : Nat) (m : Member) (entries : List Nat) : Engine :=
  let taken := entries.takeWhile fun x => entryCounted x || entryFinal x
  let accepted := (entries.filter fun x => !entryVoid x).length - 1
  let draws := (List.range m.draws).map (m.firstDraw + ·)
  let e := (draws.zip entries).foldl (fun e x => e.putToken y.step x.1 x.2) e
  match e.anyReq? m.slot with
  | none => e
  | some r =>
    if r.handle ≠ m.handle then e
    else
      let start := e.seqAtStart m r
      let later := (taken.zipIdx).foldl (fun t x => Table.put t (start + x.2) (entryToken x.1)) r.later
      let ends := taken.any entryFinal
      let kv := if e.executes then r.kvEnd else Member.kvAfter { m with delivered := taken.length } r.kvEnd
      let e := (e.logUndo (.rafter m.slot r)).modAny m.slot fun r =>
        { r with seqEnd := start + taken.length, generated := r.generated + taken.length, later := later, kvEnd := kv,
                 state := if ends then .retiring else r.state }
      let counted := (draws.zip entries).filter fun x => entryCounted x.2
      let updates := counted.map fun x => ({ draw := x.1, slot := m.slot, token := entryToken x.2 } : CountUpdate)
      let e : Engine := { e with smp := { e.smp with updates := e.smp.updates ++ updates } }
      if e.executes then e.modMember i fun z => { z with emitted := true, accepted := accepted, delivered := taken.length } else e

/-- The members of a course with their entries, in draw order. -/
def Engine.takeMembers (y : Yealm) (entries : List Nat) (first : Nat) : List (Member × Nat) → Engine → Engine
  | [], e => e
  | (m, i) :: l, e =>
    let own := (entries.drop (m.firstDraw - first)).take m.draws
    Engine.takeMembers y entries first l (if m.draws = 0 then e else e.takeMember y i m own)

/-- The guess stores of the course's speculative members, in member order. -/
def Engine.takeGuesses (y : Yealm) : List (Member × Nat) → List (BitVec 128) → Engine → Engine
  | (m, i) :: l, g :: gs, e =>
    let s := GuessStore.ofImage g.toNat
    let e := e.logUndo (.guess m.slot (e.guessStore m.slot))
    let e : Engine := { e with smp := { e.smp with guesses := Table.put e.smp.guesses m.slot s } }
    Engine.takeGuesses y l gs (e.modStepRec y.step fun r => { r with guesses := Table.put r.guesses i s })
  | _, _, e => e

/-- Has every course that draws had its tokens? -/
def Engine.allTokens (e : Engine) (y : Yealm) : Bool :=
  (y.courses.zipIdx).all fun x => x.1.draws == 0 || e.mdv.tokensSeen.contains x.2

/-- On an engine that executes no step, a guess store is emptied with the tokens that tell its main draw was discarded (R212). -/
def Engine.replicaGuesses (e : Engine) (c : Course) (entries : List Nat) (ms : List (Member × Nat)) : Engine :=
  if e.executes || e.shadows then e
  else ms.foldl (fun e x =>
    let own := (entries.drop (x.1.firstDraw - c.firstDraw)).take x.1.draws
    if x.1.draws ≠ 0 && !x.1.vacated && !(own.any fun y => entryCounted y || entryFinal y) then e.emptyGuesses true x.1.slot else e) e

/-- A course's tokens are applied. -/
def Engine.applyTokens (e : Engine) (y : Yealm) (k : Nat) (c : Course) (entries : List Nat) (guesses : List (BitVec 128)) : Engine :=
  let ms := ((y.members.zipIdx).drop c.firstMember).take c.members
  let e := Engine.takeMembers y entries c.firstDraw ms e
  let e := (Engine.takeGuesses y (ms.filter fun x => x.1.kind == 0 && x.1.spec != 0) guesses e).replicaGuesses c entries ms
  let next := max e.smp.nextEmit (c.firstDraw + c.draws)
  let e : Engine := { e with mdv := { e.mdv with tokensSeen := insertNat k e.mdv.tokensSeen } }
  let e := if e.shadows then e.shadowEmit else e.passCourses next
  if e.allTokens y then e.applyUpdates y.step else e

/-- A course's tokens meet its yealm. -/
def Engine.courseTokens (e : Engine) (step k first : Nat) (entries : List (BitVec 32)) (guesses : List (BitVec 128)) : Engine :=
  match e.yealmFor step with
  | none => e
  | some y => match y.courses[k]? with
    | none => e.discard 2
    | some c =>
      if e.mdv.tokensSeen.contains k then e
      else if first ≠ c.firstDraw || entries.length ≠ c.draws then e.discard 2
      else e.applyTokens y k c (entries.map BitVec.toNat) guesses

/-- The body of a received TOKENS message. -/
def tokensBytes (k first : Nat) (entries : List (BitVec 32)) (guesses : List (BitVec 128)) : List Byte :=
  tokensBody k entries.length first (entries.map BitVec.toNat) (guesses.map BitVec.toNat)

/-- A TOKENS message. On a standby, one of a later step tells that the boundary before it has passed. -/
def Engine.takeTokens (e : Engine) (f : Frame) (k first : Nat) (entries : List (BitVec 32)) (guesses : List (BitVec 128)) : Engine :=
  let step := f.step.toNat
  let e := e.passDown 0x12 step (tokensBytes k first entries guesses)
  let e := e.followSteps step
  if e.manages || e.mdv.fenced then e
  else if e.flt.shadow.phase = 1 then e.holdMsg (.tokens step k first entries guesses)
  else e.courseTokens step k first entries guesses

def execTokens (f : Frame) (course : BitVec 6) (first : BitVec 17) (entries : List (BitVec 32)) (guesses : List (BitVec 128)) (s : State) :
    Host.Outcome State Fault Refusal :=
  s.cross Isl.md (.tokens f course first entries guesses) fun e =>
    e.onFrame f 0x12 (tokensBytes course.toNat first.toNat entries guesses) fun e => e.takeTokens f course.toNat first.toNat entries guesses

/-! ### What a load kept (R279) -/

/-- One message kept; what belongs to the boundary loaded, or lies before it, is in the load already. -/
def Engine.releaseMsg (e : Engine) (x : HeldMsg) : Engine :=
  let s := e.flt.shadow.loadStep
  match x with
  | .ops step records => if step ≤ s + 1 then e else e.opsPacket records
  | .manifest step bytes => if step ≤ s then e else e.checkManifest step bytes
  | .tokens step k first entries guesses => if step ≤ s then e else e.courseTokens step k first entries guesses
  | .boundary step => if step ≤ s then e else e.passBoundary step

/-- The load has ended: what it kept is applied in order. -/
def Engine.releaseHeld (e : Engine) : Engine :=
  let l := e.flt.shadow.held
  l.foldl Engine.releaseMsg { e with flt := { e.flt with shadow := { e.flt.shadow with held := [] } } }

/-! ### PARTIALS (R248, R256) -/

/-- A child's partials of a course. -/
def Engine.takePartials (e : Engine) (f : Frame) (k cover : Nat) (records : List PartialRec) : Engine :=
  let p := e.partsOf k
  let src := f.src.toNat
  if f.step.toNat ≠ e.stepNo || (e.yealmFor e.stepNo).isNone || p.children.contains src || !e.reporters.contains src || p.sent then e
  else
    let p := { p with children := insertNat src p.children, cover := p.cover + cover, records := p.records ++ records }
    ({ e with mdv := { e.mdv with parts := Table.put e.mdv.parts k p } } : Engine).sampleOn k

def execPartials (f : Frame) (course : BitVec 6) (cover : BitVec 10) (first : BitVec 17) (records : List PartialRec) (s : State) :
    Host.Outcome State Fault Refusal :=
  s.cross Isl.md (.partials f course cover first records) fun e =>
    e.onFrame f 0x18 (partialsBody course.toNat cover.toNat first.toNat records) fun e =>
    if first.toNat = (((e.yealmFor f.step.toNat).bind fun y => y.courses[course.toNat]?).map (·.firstDraw)).getD first.toNat then
      e.takePartials f course.toNat cover.toNat records
    else e.discard 2

/-- A child's partials have not come within MDV_PART_TO.US of the engine's own. -/
def Engine.partialsSilent (e : Engine) (k child : Nat) : Engine :=
  match e.ylm.current with
  | none => e
  | some y => match y.courses[k]? with
    | none => e
    | some c =>
      if !e.sharded || !e.reporters.contains child || (e.partsOf k).children.contains child || !e.courseFolded y c || c.draws = 0 then e
      else
        let e := e.stepError Det.partials [k] (unitDetail Det.partials)
        { e with mdv := { e.mdv with silentSubtrees := insertNat child e.mdv.silentSubtrees } }

def execPartialsTimeout (course : BitVec 6) (child : BitVec 9) (s : State) : Host.Outcome State Fault Refusal :=
  s.actIn Isl.md fun e => e.partialsSilent course.toNat child.toNat

end Sys2Proof.Machine
end

