-- ==== Sys2Proof/Machine/Shadow.lean ====
section
/-!
DEFINITION. Machine/Shadow.lean: repair and shadow admission: the command, the request and its grant, the load, the acknowledgement of a
step, and the withdrawal (R279, R280).
-/

namespace Sys2Proof.Machine

/-! ### Frames of an engine that shadows -/

/-- A SHADOW_REQ may come from an engine below that is no member yet and does not know the group's step and epoch; a SHADOW_GRANT is the
first message that tells an engine of them. Neither is held to the checks of step and epoch (R243, log entry 45). -/
def Engine.onShadowFrame (e : Engine) (f : Frame) (type : Nat) (body : List Byte) (act : Engine → Engine) : Engine :=
  let ok := fun (e : Engine) => e.inGroup && f.group.toNat == e.mdv.groupId && (e.neighbours.contains f.src.toNat || e.below.contains f.src.toNat)
  e.onChecked f type body ok act

/-- Is the engine one that waits for its grant? -/
def Engine.awaitsGrant (e : Engine) : Bool := e.flt.shadow.phase == 1 && e.flt.shadow.source == noRank

/-! ### The start (R279, steps 2 and 3) -/

/-- The engine's tables as a load finds them: nothing of an earlier life stands (R280, R380). -/
def Engine.clearTables (e : Engine) : Engine :=
  let e : Engine := (Table.keys e.var.slots).foldl (fun e s => e.opsSlotRelease s) e
  let e : Engine := (Table.keys e.var.families).foldl (fun e f => e.opsFamilyRemove f) e
  let bound := e.pgm.pages.filter fun x => x.2.state != .free && x.2.state != .aliasEntry && x.2.tier != 3
  let e : Engine := bound.foldl (fun e x => (e.dropMirrors x.1).giveFrame x.2.tier x.2.cls x.2.frame) e
  { e with rafter := [], slots := .full 262144, gens := [], stop := [], ready0 := [], ready1 := [], ready2 := [], splice0 := [], splice1 := [], splice2 := [],
           adm := { e.adm with tenants := [], candidates := [], held := [], shares := [] }, ylm := .reset,
           pgm := { e.pgm with pages := [], entries := .full 4194304, index := [], cached := [], mirrors := [] },
           var := { e.var with additions := [], prefixes := [] },
           smp := { e.smp with ctxs := [], nextEmit := 0, homes := [], cells := [], links := [], cellFree := .full 131072, biases := [],
                               guesses := [], updates := [] },
           mdv := { e.mdv with replicas := [], manifestIn := none, tokensSeen := [] },
           flt := { e.flt with undo := [], heldUndo := [], mirrored := [], replaying := false } }

/-- FLT_CMD with OP = SHADOW, with what its map read returns. A fenced engine may come back only this way (R254). -/
def Engine.shadowCommand (e : Engine) (r role node : Nat) (header : Option (BitVec 512)) (entries : List (BitVec 128)) : Engine :=
  if (role ≠ 1 && role ≠ 2) || (e.mdv.joined && !e.mdv.fenced) || e.mdv.joining || e.shadows then e.badAccess 0x09002C
  else
    let e := e.readEntries node header
    let reason := e.mapReason header entries
    if reason ≠ 0 then e.refuseMap reason entries
    else
      let e := (e.clearTables).loadMap (header.getD 0) entries
      let x := { e.flt.shadow with rank := r, role := role, mismatches := 0, watching := [] }
      let e : Engine := { e with mdv := { e.mdv with joined := false, fenced := false, lapsed := false, fencedRanks := [], pendFences := [], reason := 0,
                                                     role := Role.standby, epoch := 0, oldEpoch := 0, epochStep := 0, licensed := 0, misses := 0 },
                                 flt := { e.flt with shadow := x },
                                 glb := { e.glb with phase := if e.glb.phase = 4 then 6 else e.glb.phase } }
      e.restartLoad

def execShadowCommand (rank : BitVec 9) (role : BitVec 2) (node : BitVec 16) (header : Option (BitVec 512)) (entries : List (BitVec 128))
    (s : State) : Host.Outcome State Fault Refusal :=
  s.cross Isl.md (.shadowCommand rank role node header entries) fun e => e.shadowCommand rank.toNat role.toNat node.toNat header entries

/-- FLT_CMD with OP = WITHDRAW. -/
def execWithdrawCommand (s : State) : Host.Outcome State Fault Refusal := s.cross Isl.md .withdrawCommand Engine.endShadow

/-! ### The request and its grant (Tables 11.12 and 11.13) -/

/-- Why the manager refuses, 0 when it grants: rank r shadowed by another, unserved, or another map. -/
def Engine.grantReason (e : Engine) (r node check : Nat) : Nat :=
  if check ≠ e.mdv.check.toNat then 3
  else if !e.liveRanks.contains r then 2
  else match e.watcher r with
    | some (n, _) => if n = node then 0 else 1
    | none => 0

/-- A node that shadows under the rank of a child: from its grant on the child's link leads to it too (R280, log entry 52). -/
def Engine.noteGuest (e : Engine) (dst node : Nat) (granted : Bool) : Engine :=
  if granted && e.below.contains dst && ((e.rank? dst).map (·.node)) != some node then
    { e with mdv := { e.mdv with guests := Table.put e.mdv.guests dst node } }
  else e

/-- The manager's answer, to the shadowing engine and to the source. The load is taken at the boundary of the next step to be drafted. -/
def Engine.grantShadow (e : Engine) (r role node check : Nat) : Engine :=
  match e.rankOfNode node with
  | none => e.discard 3
  | some dst =>
    let reason := e.grantReason r node check
    let step := e.draftStep
    let body := shadowGrantBody { rank := r, granted := reason == 0, admitted := false, reason := reason, source := r, step := step, node := node, epoch := 0 }
    let e := (e.noteGuest dst node (reason == 0)).send 0x17 dst e.stepNo body
    if reason ≠ 0 then e
    else
      let x := e.flt.shadow
      let watching := (x.watching.filter fun w => w.1 != r) ++ [(r, node, role)]
      let x := { x with watching := watching, loadStep := if r = e.mdv.rank then step else x.loadStep,
                        matched := if r = e.mdv.rank then 0 else x.matched, mismatches := if r = e.mdv.rank then 0 else x.mismatches }
      let e : Engine := { e with flt := { e.flt with shadow := x } }
      if r = e.mdv.rank then e else e.send 0x17 r e.stepNo body

def execShadowReq (f : Frame) (rank : BitVec 9) (role : BitVec 8) (node : BitVec 16) (check : BitVec 32) (s : State) :
    Host.Outcome State Fault Refusal :=
  s.cross Isl.md (.shadowReq f rank role node check) fun e =>
    let body := shadowReqBody rank.toNat role.toNat node.toNat check.toNat
    e.onShadowFrame f 0x16 body fun e =>
      if e.manages then e.grantShadow rank.toNat role.toNat node.toNat check.toNat else e.passUp 0x16 f.step.toNat body

/-- The shadowing engine's own grant: it follows the group from now on; a refusal ends its shadow. -/
def Engine.grantArrives (e : Engine) (f : Frame) (g : Grant) : Engine :=
  if !g.granted then e.endShadow
  else
    let e := e.clearTables
    { e with stepNo := f.step.toNat,
             mdv := { e.mdv with epoch := f.epoch.toNat, oldEpoch := f.epoch.toNat, epochStep := 0, licensed := f.step.toNat, leaseAt := e.now, heardAt := e.now },
             flt := { e.flt with shadow := { e.flt.shadow with source := g.source, loadStep := g.step, loadAt := e.now } } }

/-- The source learns for whom it will load. -/
def Engine.sourceLearns (e : Engine) (g : Grant) : Engine :=
  if !g.granted || g.rank ≠ e.mdv.rank then e
  else
    let x := e.flt.shadow
    let watching := (x.watching.filter fun w => w.1 != g.rank) ++ [(g.rank, g.node, 0)]
    { e with flt := { e.flt with shadow := { x with watching := watching, loadStep := g.step, matched := 0, mismatches := 0, own := [], acked := [] } } }

/-- The first copy of an announced admission goes on over the other links; the admission is due at its boundary on every engine. -/
def Engine.noteAdmission (e : Engine) (f : Frame) (g : Grant) : Engine :=
  if e.mdv.pendFences.any fun x => x.admitted == some g.node then e
  else
    let e := e.flood 0x17 e.stepNo (shadowGrantBody g) f.src.toNat
    { e with mdv := { e.mdv with pendFences := e.mdv.pendFences ++ [{ rank := g.rank, at_ := g.step, reason := 0, admitted := some g.node }] } }

/-- A SHADOW_GRANT. -/
def Engine.takeGrant (e : Engine) (f : Frame) (g : Grant) : Engine :=
  if g.admitted then (if e.manages then e else e.noteAdmission f g)
  else if f.dst.toNat ≠ e.mdv.rank then
    (e.noteGuest f.dst.toNat g.node (g.granted && e.rankOfNode g.node == some f.dst.toNat)).passTo 0x17 f.dst.toNat f.step.toNat (shadowGrantBody g)
  else if e.flt.shadow.phase = 1 && g.node = e.mdv.node then e.grantArrives f g
  else e.sourceLearns g

def execShadowGrant (f : Frame) (rank : BitVec 9) (granted admitted : Bool) (reason : BitVec 8) (source : BitVec 9) (step : BitVec 48)
    (node epoch : BitVec 16) (s : State) : Host.Outcome State Fault Refusal :=
  s.cross Isl.md (.shadowGrant f rank granted admitted reason source step node epoch) fun e =>
    let g : Grant := { rank := rank.toNat, granted := granted, admitted := admitted, reason := reason.toNat, source := source.toNat, step := step.toNat,
                       node := node.toNat, epoch := epoch.toNat }
    if e.awaitsGrant then e.onShadowFrame f 0x17 (shadowGrantBody g) fun e => e.takeGrant f g
    else e.onFrame f 0x17 (shadowGrantBody g) fun e => e.takeGrant f g

/-! ### The load (Tables 11.10 and 11.11) -/

/-- A page entry: a primary with a frame at the source takes one of the engine's own. -/
def Engine.loadPage (e : Engine) (p : Nat) (x : Page) : Engine :=
  let bound := x.state != .free && x.state != .aliasEntry && x.tier != 3
  (if bound then e.opsPageBind p x.tier x.cls else e).opsPageImage p x

/-- A slot record: the slot is placed here, and its version's share is loaded from its source. -/
def Engine.loadSlot (e : Engine) (s : Nat) (size : Nat) (x : Slot) : Engine :=
  let source := (((e.addition? x.addition).bind fun a => a.records.find? fun r => r.version == x.version).map (·.source)).getD 0
  e.placeSlot s x.t0 size x.addition x.version x.family source

/-- What a family's image carries beyond its block: SHARE, κ, and grade and depth where RECOVERY or a configuration has set others than
grading gives here (R175). -/
def Engine.loadFamilyState (e : Engine) (i x : Nat) : Engine :=
  let fit : Fit := { grade := bitsOf x 8 2, depth := bitsOf x 10 3, maxPos := bitsOf x 32 17 }
  let kappa := toSigned 32 (bitsOf x 64 32)
  let own := e.fitOf i
  let e := e.putFamily i { e.family i with share := bitsOf x 3 1 == 1 }
  let e : Engine := { e with adm := { e.adm with predictors := Table.modify e.adm.predictors i fun p => { p with kappa := kappa } } }
  if (own.grade, own.depth) = (fit.grade, fit.depth) then e else { e with ylm := { e.ylm with lowered := Table.put e.ylm.lowered i fit } }

/-- One item of a STATE message. -/
def Engine.loadItem (kind : Nat) (e : Engine) (i x : Nat) : Engine :=
  let smp := e.smp
  match kind with
  | 1 =>
    let r := Rafter.ofImage x
    ({ e with gens := Table.put e.gens i (r.handle.toNat / 2 ^ 18) } : Engine).putReplica i r
  | 2 => e.loadPage i (Page.ofImage x)
  | 3 => (e.putWay i 0 (Way.ofImage (x % 2 ^ 128))).putWay i 1 (Way.ofImage (x / 2 ^ 128))
  | 4 => e.putAddition i (Addition.ofImage x)
  | 5 => (e.opsFamilyBlock i (BitVec.ofNat 2048 x)).loadFamilyState i (x / 2 ^ 2048)
  | 6 => { e with var := { e.var with prefixes := Table.put e.var.prefixes i (PrefixRec.ofImage x) } }
  | 7 => { e with adm := { e.adm with tenants := Table.put e.adm.tenants i (Tenant.ofImage x) } }
  | 8 => { e with smp := { smp with homes := Table.put smp.homes i (CountSet.ofImage x false) } }
  | 9 => { e with smp := { smp with cells := Table.put smp.cells i (CountSet.ofImage x true), links := Table.set smp.links i (cellLink x) } }
  | 10 => { e with smp := { smp with biases := Table.put smp.biases i (biasOfImage x) } }
  | 11 => { e with smp := { smp with guesses := Table.put smp.guesses i (GuessStore.ofImage x) } }
  | 12 => e.loadSlot (bitsOf x 0 13) (bitsOf x 64 32) (Slot.ofImage x)
  | _ => e

/-- The items of a message, from its first index on. -/
def Engine.loadItems' (e : Engine) (kind index count : Nat) (items : List Byte) : Engine :=
  let n := itemBytes kind
  (List.range count).foldl (fun e i => Engine.loadItem kind e (index + i) (numAt items (n * i) n)) e

/-- Each body before END runs through the load's CRC. -/
def Engine.runCrc (e : Engine) (body : List Byte) : Engine :=
  let x := e.flt.shadow
  { e with flt := { e.flt with shadow := { x with crcState := body.foldl crc64Byte x.crcState, nextSeq := x.nextSeq + 1 } } }

/-- END: with its CRC the load stands, and what was kept meanwhile is applied; the engine shadows from the next boundary on. -/
def Engine.endLoad (e : Engine) (crc : BitVec 64) : Engine :=
  if e.flt.shadow.crcState ^^^ 0xFFFFFFFFFFFFFFFF ≠ crc then e.restartLoad
  else
    let e : Engine := { e with flt := { e.flt with shadow := { e.flt.shadow with phase := 2 } } }
    e.releaseHeld

/-- A STATE message at the engine that loads. One out of sequence, or of the wrong length, is not applied: END will not match. -/
def Engine.takeState (e : Engine) (kind sequence index count step : Nat) (crc : BitVec 64) (items : List Byte) : Engine :=
  let x := e.flt.shadow
  if x.phase ≠ 1 || x.source = noRank || step ≠ x.loadStep then e
  else if sequence ≠ x.nextSeq || items.length ≠ itemBytes kind * count then e.discard 2
  else if kind = 0xFF then e.endLoad crc
  else (e.loadItems' kind index count items).runCrc (stateHead kind sequence index count step 0 ++ items)

def execState (f : Frame) (kind : BitVec 8) (sequence : BitVec 16) (index count : BitVec 32) (step : BitVec 48) (crc : BitVec 64)
    (items : List (BitVec 8)) (s : State) : Host.Outcome State Fault Refusal :=
  s.cross Isl.md (.state f kind sequence index count step crc items) fun e =>
    let body := stateHead kind.toNat sequence.toNat index.toNat count.toNat step.toNat crc ++ items
    e.onFrame f 0x15 body fun e =>
    if f.dst.toNat ≠ e.mdv.rank then e.passTo 0x15 f.dst.toNat f.step.toNat body
    else e.takeState kind.toNat sequence.toNat index.toNat count.toNat step.toNat crc items

/-- FLT_LOAD_TO.MS has passed before the load ended. -/
def execStateLoadTimeout (s : State) : Host.Outcome State Fault Refusal :=
  s.actIn Isl.md fun e =>
    if e.flt.shadow.phase = 1 && decide (e.flt.shadow.loadAt + e.get Fld.fltLoadToMs * 1000000 ≤ e.now) then e.restartLoad else e

/-! ### SHADOW_ACK (R279, step 5) -/

/-- The source compares; the manager takes one that a worker source passes up as the wish for an admission. -/
def Engine.takeShadowAck (e : Engine) (f : Frame) (step r : Nat) (v : BitVec 64 × BitVec 64 × BitVec 64) : Engine :=
  if f.dst.toNat ≠ e.mdv.rank then e.passTo 0x14 f.dst.toNat f.step.toNat (shadowAckBody step r v)
  else if r = e.mdv.rank then
    let x := e.flt.shadow
    if (e.watcher r).isNone then e
    else
      let acked := Table.keep (Table.put x.acked step v) fun k _ => decide (step < k + 64)
      ({ e with flt := { e.flt with shadow := { x with acked := acked } } } : Engine).compareShadow step
  else if e.manages then e.orderAdmission r
  else e

def execShadowAck (f : Frame) (step : BitVec 48) (rank : BitVec 9) (digest partialCrc tokenCrc : BitVec 64) (s : State) :
    Host.Outcome State Fault Refusal :=
  s.cross Isl.md (.shadowAck f step rank digest partialCrc tokenCrc) fun e =>
    e.onFrame f 0x14 (shadowAckBody step.toNat rank.toNat (digest, partialCrc, tokenCrc)) fun e =>
      e.takeShadowAck f step.toNat rank.toNat (digest, partialCrc, tokenCrc)

end Sys2Proof.Machine
end

