-- ==== Sys2Proof/Machine/Faults.lean ====
section
/-!
DEFINITION. Machine/Faults.lean: collective abort, the mirrors of events and records, takeover, health and its governor, and the late
inputs of one unit to another (R31, R261 to R267, R273 to R284).
-/

namespace Sys2Proof.Machine

/-! ### ABORT (R267, Table 11.6) -/

/-- Is a replay of the step under way of which no course has begun? Another origin's ABORT for the step finds it so, since no course begins
before every engine has reported (R269, Table 11.6; log entry 52). -/
def Engine.replayFresh (e : Engine) (step : Nat) : Bool :=
  e.flt.replaying && e.flt.failStep == step && e.ylm.runs.all fun x => !x.2.begun

/-- FLT_STAT.REPLAYING is set (R267). -/
def Engine.setReplaying (e : Engine) : Engine := { e with flt := { e.flt with replaying := true } }

/-- The replicas of an engine that executes none are undone, and what its children have sent of the step is dropped. -/
def Engine.undoReplicas (e : Engine) (step : Nat) : Engine :=
  let e := e.applyUndo
  let mdv := { e.mdv with tokensSeen := [], parts := [], acks := Table.modify e.mdv.acks step fun a => { a.again with own := a.own },
                          segs := Table.keep e.mdv.segs fun k _ => decide (k / 64 ≠ step) }
  ({ e with mdv := mdv } : Engine).setReplaying.log Ev.replay [step]

/-- A step is aborted here: replayed where it is in compute, undone in a standby's replicas, ignored once committed or when its replay has
only started. A manifest delivered or on its way for the step is emitted again. -/
def Engine.abortHere (e : Engine) (step : Nat) : Engine :=
  match e.ylm.current with
  | some y => if y.step = step && !e.replayFresh step then e.stepAction [] Det.abortReceived false else e.log Ev.abortIgnored [step]
  | none =>
    if e.follows && !e.executes then
      if step = e.stepNo then e.undoReplicas step else e.log Ev.abortIgnored [step]
    else match (e.ylm.next.toList ++ e.mdv.manifestIn.toList).find? fun y => y.step == step with
      | none => e.log Ev.abortIgnored [step]
      | some y => if e.ylm.next.isSome then ((e.emit .haltTiles).emitManifest y).setReplaying else (e.emit .haltTiles).setReplaying

/-- A worker could not take the manifest of the step not yet begun: the manager sends the packet's manifest again. -/
def Engine.resendManifest (e : Engine) (step : Nat) : Engine :=
  match e.ylm.next.filter fun y => e.leadsGroup && y.step == step with
  | some y => e.send 0x11 0xFFFF y.step (e.manifestBytes y)
  | none => e

/-- The body of a received ABORT. -/
def abortBodyOf (b : AbortBody) : List Byte := abortBody b.step.toNat b.cause.toNat b.origin.toNat b.sequence.toNat b.code.toNat

/-- The first copy of an ABORT: counted, passed on over every other link, and acted on. -/
def Engine.takeAbort (e : Engine) (f : Frame) (b : AbortBody) : Engine :=
  let key := (b.origin.toNat, b.sequence.toNat)
  if e.mdv.fenced || e.flt.seenAborts.contains key then e
  else
    let e := ({ e with flt := { e.flt with seenAborts := key :: e.flt.seenAborts } } : Engine).bump Cnt.fltAbort
    let e := e.floodAbort b.step.toNat (abortBodyOf b) f.src.toNat
    let e := if b.cause = 2 then e.noteFence b.code.toNat 0 2 else e
    if e.mdv.fenced then e else (e.resendManifest b.step.toNat).abortHere b.step.toNat

def execAbort (f : Frame) (body : AbortBody) (s : State) : Host.Outcome State Fault Refusal :=
  s.cross Isl.md (.abort f body) fun e => e.onFrame f 0x0A (abortBodyOf body) fun e => e.takeAbort f body

/-! ### EVENT at the partner (R264, R275) -/

/-- What an event does to a request's replica (Table 11.3). -/
def JEvent.onReplica (x : JEvent) (r : Rafter) : Rafter :=
  match x.kind with
  | 0x01 => { r with matched := x.detail }
  | 0x02 => { r with state := .retiring, completed := true, pendStatus := bitsOf x.detail 0 8, pendReason := bitsOf x.detail 8 3 }
  | 0x05 => r.appended x.detail
  | 0x06 => { r with pausePending := true, parkExpiry := x.detail }
  | 0x07 => { r with pausePending := false, state := if r.state == .parked || r.state == .spilled then .restoring else r.state, parkExpiry := 0 }
  | 0x08 => { r with state := .retiring, pendStatus := Status.ok, pendReason := Reason.none }
  | 0x09 => { r with version := x.detail }
  | 0x0B => { r with state := .parked, pausePending := false, ttft := 0, nextDl := 0, total := 0 }
  | 0x0C => { r with state := .spilled }
  | 0x0D => { r with state := .queued }
  | _ => r

/-- An event-section entry from its 16 B. -/
def jeventOf (bs : List Byte) : JEvent :=
  { kind := numAt bs 0 1, status := numAt bs 1 1, who := numAt bs 4 4, detail := numAt bs 8 4, us := numAt bs 12 4 }

/-- An event of the manager's, applied to the replicas. -/
def Engine.applyJEvent (e : Engine) (x : JEvent) : Engine :=
  let h := BitVec.ofNat 32 x.who
  let e : Engine := match x.kind with
    | 0x03 => { e with stop := insertNat (slotOf h) e.stop }
    | 0x04 => { e with stop := e.stop.filter (· != slotOf h) }
    | _ => e
  match e.replica? h with
  | some r => if x.kind = 0x0A then e else e.putReplica (slotOf h) (x.onReplica r)
  | none => e

/-- A full rafter entry: what a replica has learnt of its tokens stays. -/
def Engine.rafterArrives (e : Engine) (image : Nat) : Engine :=
  let r := Rafter.ofImage image
  let slot := slotOf r.handle
  let e : Engine := { e with gens := Table.put e.gens slot (r.handle.toNat / 2 ^ 18) }
  match e.replica? r.handle with
  | some old => (e.putReplica slot { r with later := old.later, listTokens := [] }).countReplica slot old.listTokens
  | none => e.putReplica slot r

/-- An effect the manager mirrors. -/
def Engine.applyEvent (e : Engine) (kind : Nat) (payload : List Byte) : Engine :=
  if kind = Mirror.keepalive then e
  else if kind = Mirror.rafter then e.rafterArrives (numAt payload 0 256)
  else if kind = Mirror.tenant then
    { e with adm := { e.adm with tenants := Table.put e.adm.tenants (numAt payload 0 2) (Tenant.ofImage (numAt payload 2 32)) } }
  else if kind = Mirror.descriptor then
    { e with flt := { e.flt with takeHeads := Table.put e.flt.takeHeads (numAt payload 0 2) (numAt payload 2 2 + 1) } }
  else e.applyJEvent (jeventOf payload)

/-- An EVENT for this engine, or passed on along the tree. -/
def Engine.takeEvent (e : Engine) (f : Frame) (kind sequence : Nat) (payload : List Byte) : Engine :=
  if f.dst.toNat ≠ e.mdv.rank then e.passTo 0x0B f.dst.toNat f.step.toNat (eventBody kind sequence payload)
  else if e.manages || e.mdv.fenced then e
  else
    e.applyEvent kind payload

def execEvent (f : Frame) (kind : BitVec 8) (sequence : BitVec 16) (payload : List (BitVec 8)) (s : State) : Host.Outcome State Fault Refusal :=
  s.cross Isl.md (.event f kind sequence payload) fun e =>
    e.onFrame f 0x0B (eventBody kind.toNat sequence.toNat payload) fun e => e.takeEvent f kind.toNat sequence.toNat payload

/-- An empty EVENT, once every FLT_TAKE_TO.US / 4. -/
def execEventKeepalive (s : State) : Host.Outcome State Fault Refusal := s.actIn Isl.md fun e => e.mirrorEvent Mirror.keepalive []

/-- The partner has acknowledged the EVENT of a sequence and those before it. -/
def execEventMirrorAck (sequence : BitVec 16) (s : State) : Host.Outcome State Fault Refusal :=
  s.cross Isl.md (.eventMirrorAck sequence) fun e =>
    if e.manages then
      ({ e with flt := { e.flt with gateAcked := (sequence.toNat + 1) % 65536 } } : Engine).openGate
    else e

/-! ### JOURNAL and MIRROR_ACK (R263, R280, Table 11.9) -/

/-- Key of a mirrored record: origin and step. -/
def mirrorKey (origin step : Nat) : Nat := origin * 2 ^ 48 + step

/-- Does a record stand: its TAG, its CHECK, and the step it names? -/
def recordSound (step : Nat) (bs : List Byte) : Bool :=
  let n := bs.length - 16
  decide (272 ≤ bs.length) && numAt bs 0 4 == 0x5E4B4A52 && numAt bs 8 6 == step && BitVec.ofNat 64 (numAt bs n 8) == crc64 (bs.take n) &&
    numAt bs (n + 8) 6 == step

/-- A whole record: it is held, its manifest archived; what undoes its step and the events before it are no more needed. -/
def Engine.holdRecord (e : Engine) (step origin : Nat) (bs manifest : List Byte) : Engine :=
  let depth := e.get Fld.fltJrnlDepthN
  let kept := Table.keep (Table.put e.flt.mirrored (mirrorKey origin step) (bs, manifest)) fun k _ =>
    k / 2 ^ 48 != origin || decide (step < k % 2 ^ 48 + depth)
  let e : Engine := { e with flt := { e.flt with mirrored := kept } }
  let e : Engine := if origin = 0 then
      { e with flt := { e.flt with heldUndo := Table.keep e.flt.heldUndo fun k _ => decide (step < k) } }
    else e
  match if manifest.isEmpty || Table.has e.ylm.archive step then none else e.parseManifest manifest with
  | some y => { e with ylm := { e.ylm with archive := Table.put e.ylm.archive step y } }
  | none => e

/-- Newest step of an origin whose record is held whole. -/
def Engine.newestMirrored (e : Engine) (origin : Nat) : Nat :=
  (Table.keys e.flt.mirrored).foldl (fun a k => if k / 2 ^ 48 = origin then max a (k % 2 ^ 48) else a) 0

/-- The token entries and guess stores of a course in a record's bytes, its guess section beginning with the first speculative member (Tables
11.2 and 11.3). -/
def recordTokens (bs : List Byte) (y : Yealm) (c : Course) : List Nat × List (BitVec 128) :=
  let speculative := fun (ms : List Member) => (ms.filter fun m => m.kind == 0 && m.spec != 0).length
  let before := speculative (y.members.take c.firstMember)
  let own := speculative ((y.members.drop c.firstMember).take c.members)
  (c.drawList.map fun d => numAt bs (numAt bs 52 4 + 4 * d) 4,
   (List.range own).map fun i => BitVec.ofNat 128 (numAt bs (numAt bs 56 4 + 16 * (before + i)) 16))

/-- The tokens of a JOURNAL enter the replicas where no TOKENS message has brought them: those of the step they follow, or of the step just
passed while none of the next are here (R275). -/
def Engine.journalTokens (e : Engine) (step : Nat) (bs : List Byte) : Engine :=
  match Table.get? e.ylm.archive step with
  | none => e
  | some y =>
    let past := step + 1 == e.stepNo && e.mdv.tokensSeen.isEmpty
    if !e.bystands || !(step == e.stepNo || past) then e
    else
      let seen := if past then Table.getD e.mdv.tokensPast step [] else e.mdv.tokensSeen
      let due := y.courses.zipIdx.filter fun x => x.1.draws != 0 && !seen.contains x.2
      let e := due.foldl (fun e x => let t := recordTokens bs y x.1; e.applyTokens y x.2 x.1 t.1 t.2) { e with mdv := { e.mdv with tokensSeen := seen } }
      if past then { e with mdv := { e.mdv with tokensSeen := [], tokensPast := Table.put e.mdv.tokensPast step e.mdv.tokensSeen } } else e

/-- A JOURNAL for this engine, or passed on. A record or manifest that fails its check is not counted. -/
def Engine.takeJournal (e : Engine) (f : Frame) (step origin : Nat) (bs manifest : List Byte) : Engine :=
  let dst := f.dst.toNat
  if dst ≠ e.mdv.rank then e.passTo 0x13 dst f.step.toNat (journalBody step origin bs manifest)
  else if !recordSound step bs || (!manifest.isEmpty && (e.parseManifest manifest).isNone) then e.discard 3
  else
    let e := e.holdRecord step origin bs manifest
    let e := if origin = 0 then e.journalTokens step bs else e
    let body := mirrorAckBody (e.newestMirrored origin)
    if e.shadows then e.shadowSend 0x0C origin body else e.send 0x0C origin e.stepNo body

def execJournal (f : Frame) (step : BitVec 48) (origin : BitVec 9) (record manifestBytes : List (BitVec 8)) (s : State) :
    Host.Outcome State Fault Refusal :=
  s.cross Isl.md (.journal f step origin record manifestBytes) fun e =>
    e.onFrame f 0x13 (journalBody step.toNat origin.toNat record manifestBytes) fun e => e.takeJournal f step.toNat origin.toNat record manifestBytes

/-- A MIRROR_ACK: FLT_MIRROR_STEP is the partner's, and the link it comes by tells it from a shadow's (log entry 52). -/
def Engine.takeMirrorAck (e : Engine) (f : Frame) (step : Nat) : Engine :=
  if f.dst.toNat ≠ e.mdv.rank then e.passTo 0x0C f.dst.toNat f.step.toNat (mirrorAckBody step)
  else match e.partner with
    | none => e
    | some p => if f.src.toNat = (e.hop p).1 then { e with flt := { e.flt with mirrorStep := max e.flt.mirrorStep step } } else e

def execMirrorAck (f : Frame) (step : BitVec 48) (s : State) : Host.Outcome State Fault Refusal :=
  s.cross Isl.md (.mirrorAck f step) fun e => e.onFrame f 0x0C (mirrorAckBody step.toNat) fun e => e.takeMirrorAck f step.toNat

/-! ### Takeover (R276, R277) -/

/-- May the partner take rank 0: nothing heard from it long enough, and its node down or twice as long? -/
def Engine.takeoverDue (e : Engine) : Bool :=
  let limit := e.get Fld.fltTakeToUs * 1000
  let silence := e.now - e.mdv.heardAt
  match e.rank? 0 with
  | none => false
  | some x => e.mdv.joined && !e.mdv.fenced && e.mdv.role == Role.standby && x.partner == e.mdv.rank && decide (limit ≤ silence) &&
      (e.mdv.nodesDown.contains x.node || decide (2 * limit ≤ silence))

/-- The token events found in host memory: each request's DELIVERED_POS, and the tokens to compare (R270). -/
def Engine.takeScan (e : Engine) (scan : List ScanRec) : Engine :=
  let e : Engine := { e with flt := { e.flt with scanTokens := scan.map fun x => (x.handle, x.position.toNat, x.token.toNat) } }
  scan.foldl (fun e x => match e.lookup x.handle with
    | some r => e.modReq (slotOf r.handle) fun r =>
        let last := if r.deliveredPos = pad then x.position.toNat else max r.deliveredPos x.position.toNat
        { r with deliveredPos := last, handedPos := last }
    | none => e) e

/-- Tail and phase of every event ring that the ring section of a record gives; a ring never enabled has neither. -/
def recordRings (bs : List Byte) (n : Nat) : List (Nat × Nat × Bool) :=
  let at_ := numAt bs 64 4
  let room := (numAt bs 68 4 - at_) / 4
  ((List.range (min n room)).map fun i => (i, numAt bs (at_ + 4 * i) 4)).filterMap fun x =>
    if x.2 = 0 then none else some (x.1, bitsOf x.2 0 16, bitsOf x.2 16 1 == 1)

/-- The rings of the host are enabled again, from their context entries: event rings where the scan from the record's tail left them, and
submission rings at the head that the mirrored descriptors give (R277, steps 3 and 4). -/
def Engine.resumeRings (e : Engine) (record : List Byte) (tails : List TailRec) : Engine :=
  let rings := recordRings record (e.get Fld.hruRctSizeNe)
  let from_ := rings.foldl (fun t x => Table.put t x.1 x.2.1) []
  let last := rings.foldl (fun t x => Table.put t x.1 x.2) []
  let last := tails.foldl (fun t x => Table.put t x.ring.toNat (x.tail.toNat, x.phase)) last
  let e : Engine := { e with flt := { e.flt with takeTails := last, takeFrom := from_ } }
  let e : Engine := (Table.keys e.flt.takeTails).foldl (fun e i => e.ringEnable true i) e
  (Table.keys e.flt.takeHeads).foldl (fun e i => e.ringEnable false i) e

/-- Steps r + 1 onward are replayed from the archive. -/
def Engine.replayFrom (e : Engine) (r : Nat) : Engine :=
  match Table.get? e.ylm.archive (r + 1) with
  | none => e.sealPoint
  | some y =>
    let e := e.beginStep y
    let e : Engine := y.members.foldl (fun e m => e.fenceRequest m.slot) e
    let e : Engine := { e with flt := { e.flt with replaying := true, failStep := y.step, failCount := 0, failCourses := [] } }
    let e := ((e.bump Cnt.fltReplay).log Ev.replay [y.step, 0])
    if !e.manifestSound y then e.raiseFatal Det.manifestCheck nullHandle (unitDetail Det.manifestCheck)
    else
      let e := e.emitAgain y
      match Table.get? e.ylm.archive (r + 2) with
      | none => e
      | some z => e.sealArchived z

/-- The partner becomes the manager. -/
def Engine.takeover (e : Engine) (scan : List ScanRec) (tails : List TailRec) : Engine :=
  let r := e.newestMirrored 0
  let e := (((e.rewindTo r).raiseEpoch r).dropRank 0).adoptReplicas
  let e : Engine := { e with stepNo := r + 1, ylm := { e.ylm with current := none, next := none },
                             mdv := { e.mdv with coverAt := e.now, leaseAt := e.now, pendFences := [] },
                             flt := { e.flt with commitStep := r, undo := [] } }
  let record := ((Table.get? e.flt.mirrored (mirrorKey 0 r)).map (·.1)).getD []
  let e := e.flood 0x0E (r + 1) (takeoverBody 0 e.mdv.node e.mdv.epoch (r + 1)) noRank
  let e := (((e.takeScan scan).endHeld).resumeRings record tails).replayFrom r
  (((e.sendLease (e.stepNo + 1)).emit (.irq 59)).log Ev.takeover [r, e.mdv.node])

def execTakeoverTimeout (scan : List ScanRec) (tails : List TailRec) (s : State) : Host.Outcome State Fault Refusal :=
  s.actIn Isl.md fun e => if e.takeoverDue then e.takeover scan tails else e

/-- The first TAKEOVER that names rank 0 and the next epoch: an abort of cause 3, and a new node for rank 0. -/
def Engine.takeTakeover (e : Engine) (f : Frame) (node epoch step : Nat) : Engine :=
  if e.mdv.fenced || epoch ≠ (e.mdv.epoch + 1) % 65536 || ((e.rank? 0).map (·.node)) == some node then e
  else
    let e := e.flood 0x0E step (takeoverBody 0 node epoch step) f.src.toNat
    let void := e.mdv.pendFences.any fun x => x.rank == 0
    let e := (if void then e.log Ev.fence [0, 5] else e).raiseEpoch (step - 1)
    let e : Engine := { e with mdv := { e.mdv with heardAt := e.now, licensed := min e.mdv.licensed step } }
    let e := (e.dropRank 0).log Ev.takeover [step, node]
    (e.bump Cnt.fltAbort).abortHere step

def execTakeover (f : Frame) (rank : BitVec 9) (node epoch : BitVec 16) (step : BitVec 48) (s : State) : Host.Outcome State Fault Refusal :=
  s.cross Isl.md (.takeover f rank node epoch step) fun e =>
    if wholeFrame f 0x0E (takeoverBody rank.toNat node.toNat epoch.toNat step.toNat) && e.frameOk f [e.epochFor f.step.toNat, (e.mdv.epoch + 1) % 65536] then
      (if rank = 0 then (e.hear f).takeTakeover f node.toNat epoch.toNat step.toNat else e)
    else e.discard 1

/-! ### Health (R281 to R283) -/

/-- Effective weight of an event kind: factory and trim, within 0 to 255. -/
def Engine.weight (e : Engine) (k : Nat) : Nat :=
  let trim := match k with | 0 => Fld.fltWEccTrim | 1 => Fld.fltWRetryTrim | 2 => Fld.fltWRetrainTrim | _ => Fld.fltWSwapTrim
  (clampInt 0 255 ((Table.getD e.cal.weights k 0 : Nat) + e.getS trim)).toNat

/-- Score after a second with weighted events. -/
def nextScore (shift score events : Nat) : Nat := min 65535 (score - score / 2 ^ shift + events)

/-- Threshold of a level. -/
def Engine.threshold (e : Engine) (level : Nat) : Nat :=
  match level with | 1 => e.get Fld.fltThreshLoWatch | 2 => e.get Fld.fltThreshLoDegrade | _ => e.get Fld.fltThreshHiExpel

/-- Level of a score: reached from below at its threshold, left below the threshold less the hysteresis. -/
def Engine.levelOf (e : Engine) (old score : Nat) : Nat :=
  let hyst := e.get Fld.fltThreshHiHyst
  let holds := fun (l : Nat) => decide (e.threshold l ≤ score) || (decide (l ≤ old) && decide (e.threshold l ≤ score + hyst))
  if holds 3 then 3 else if holds 2 then 2 else if holds 1 then 1 else 0

/-- A control core leaves service: its task starts again elsewhere, and a spare takes its number at the next boundary. -/
def Engine.retirePhys (e : Engine) (p : Nat) : Engine :=
  match logicalCores.find? fun l => (e.core l).inService && (e.core l).phys == some p with
  | none => { e with tsk := { e.tsk with sparePhys := e.tsk.sparePhys.filter (· != p), retiredPhys := e.tsk.retiredPhys ++ [p] } }
  | some l =>
    let e := e.restartTask l
    let none_ := e.tsk.sparePhys.length ≤ e.tsk.spareDue.length
    let e := e.putCore l { Core.idle none with retired := none_, busyNs := ((e.core l).account e.now).busyNs }
    { e with tsk := { e.tsk with retiredPhys := e.tsk.retiredPhys ++ [p], override := e.tsk.override || none_,
                                 spareDue := if none_ then e.tsk.spareDue else e.tsk.spareDue ++ [(l, p)] } }

/-- Is there a spare for a part (Table 11.4)? -/
def Engine.spareFor (e : Engine) (kind index : Nat) : Bool :=
  match kind with
  | 0 => decide (2 < e.flt.portLanes)
  | 1 => !(e.laneGroup index).spareUsed && !(e.laneGroup index).pendSwitch
  | 2 => e.spg.cores.any fun c => c.2.spare && c.1 != index
  | 3 => decide (e.tsk.spareDue.length < (e.tsk.sparePhys.filter (· != index)).length)
  | _ => false

/-- The part leaves service: at the next boundary its spare takes its place. -/
def Engine.sparePart (e : Engine) (kind index : Nat) : Engine :=
  match kind with
  | 0 => { e with flt := { e.flt with laneSwitch := e.flt.laneSwitch ++ [index] } }
  | 1 => e.putLaneGroup index { e.laneGroup index with pendSwitch := true }
  | 2 => { e with spg := { e.spg with culprits := e.spg.culprits ++ [index] } }
  | _ => e.retirePhys index

/-- Marks a part spared out or retired. -/
def Engine.markPart (e : Engine) (k : Nat) : Engine := { e with flt := { e.flt with parts := Table.modify e.flt.parts k fun p => { p with retired := true } } }

/-- An EXPEL level: a lane group, spar core or control core retires; any other part asks the manager to expel the engine. -/
def Engine.expelPart (e : Engine) (kind index score : Nat) : Engine :=
  let gone := e.markPart (512 * kind + index)
  match kind with
  | 1 => gone.putLaneGroup index { e.laneGroup index with pendRetire := true }
  | 2 => { gone with spg := { e.spg with culprits := e.spg.culprits ++ [index] } }
  | 3 => gone.retirePhys index
  | _ =>
    if e.manages then e.govern e.mdv.rank 3 true
    else e.send 0x0D 0 e.stepNo (healthBody e.mdv.rank 3 score kind index)

/-- What a level does when a part enters it. -/
def Engine.enterLevel (kind index score : Nat) (e : Engine) (level : Nat) : Engine :=
  match level with
  | 1 => (((e.log Ev.healthLevel [kind, index, 1, score]).emit (.irq 59)).corrected Det.healthLevel (place kind 0 3 + place index 4 9))
  | 2 =>
    if e.spareFor kind index then (e.sparePart kind index).markPart (512 * kind + index) else e
  | _ => e.expelPart kind index score

/-- A part's score after a second; each level it newly reaches acts. -/
def Engine.scorePart (e : Engine) (k events : Nat) : Engine :=
  let p := Table.getD e.flt.parts k { score := 0, level := 0, retired := false }
  let score := nextScore (e.get Fld.fltDecayShift) p.score events
  let level := e.levelOf p.level score
  let e : Engine := { e with flt := { e.flt with parts := Table.put e.flt.parts k { p with score := score, level := level } } }
  ((List.range (level + 1)).drop (p.level + 1)).foldl (Engine.enterLevel (k / 512) (k % 512) score) e

/-- Weighted events of a part: those the engine has seen itself and those counted outside it. -/
def Engine.weighted (e : Engine) (fed : Table (Nat × Nat × Nat × Nat)) (counts : List HealthCount) (k : Nat) : Nat :=
  let (a, b, c, d) := Table.getD fed k (0, 0, 0, 0)
  let own := a * e.weight 0 + b * e.weight 1 + c * e.weight 2 + d * e.weight 3
  own + sumBy (counts.filter fun x => 512 * x.kind.toNat + x.index.toNat == k) fun x =>
    x.ecc * e.weight 0 + x.retry * e.weight 1 + x.retrain * e.weight 2 + x.swap * e.weight 3

/-- Once a second every part's score is updated; rows of SRAM arrays that corrected errors are noted (Table 11.4). -/
def Engine.healthUpdate (e : Engine) (counts : List HealthCount) : Engine :=
  let e := (counts.filter fun x => x.kind.toNat == 4).foldl (fun e x => x.rows.foldl (fun e r => e.rowCorrected (rowKey x.index.toNat r.toNat)) e) e
  let fed := e.flt.fed
  let keys := (counts.map fun x => 512 * x.kind.toNat + x.index.toNat).foldl (fun l k => insertNat k l)
    ((Table.keys fed).foldl (fun l k => insertNat k l) (Table.keys e.flt.parts))
  let e : Engine := { e with flt := { e.flt with fed := [] } }
  keys.foldl (fun e k => e.scorePart k (e.weighted fed counts k)) e

def execHealthUpdate (counts : List HealthCount) (s : State) : Host.Outcome State Fault Refusal :=
  s.actIn Isl.ao fun e => e.healthUpdate counts

/-- HEALTH: passed up to rank 0, where the governor decides. -/
def execHealth (f : Frame) (rank : BitVec 9) (level : BitVec 8) (score : BitVec 16) (kind : BitVec 8) (index : BitVec 16) (s : State) :
    Host.Outcome State Fault Refusal :=
  s.cross Isl.md (.health f rank level score kind index) fun e =>
    let body := healthBody rank.toNat level.toNat score.toNat kind.toNat index.toNat
    e.onFrame f 0x0D body fun e =>
    if !e.manages then e.passUp 0x0D f.step.toNat body
    else if level = 3 then e.govern rank.toNat level.toNat true
    else e

/-- The hour window of the governor moves. -/
def execHourWindowMove (s : State) : Host.Outcome State Fault Refusal :=
  s.actIn Isl.md fun e => ({ e with flt := { e.flt with expelled := e.expelledNow } } : Engine).reconsider

/-- A control-port lane's retraining fails: its spare takes its place at the next boundary (Table 11.4). -/
def execRetrainingFailure (lane : BitVec 2) (s : State) : Host.Outcome State Fault Refusal :=
  s.actIn Isl.md fun e =>
    if lane = 3 then e
    else { e with flt := { e.flt with laneSwitch := e.flt.laneSwitch ++ [lane.toNat] } }

/-! ### Late inputs of one unit to another (R31, Table 1.8) -/

/-- The condition a late decision holds a request at: its addition's residency, else its page fit. -/
def Engine.lateCondition (e : Engine) (slot : Nat) : Nat :=
  if (e.req? slot).any fun r => r.addValid && !e.residentVersion r.addition r.version then 15 else 5

/-- A request of Table 1.8 whose input is late, by row: the asking unit takes the outcome of the last column. -/
def Engine.unitLate (e : Engine) (row subject : Nat) : Engine :=
  let e := e.log Ev.unitLate [row, subject]
  match row with
  | 0 => if e.stateOf subject == .admitting && !(e.adm.held.any fun h => h.slot == subject) then e.hold subject (e.lateCondition subject) else e
  | 1 => e.dropDraft subject
  | 2 => e.stepRefused e.ylm.leaveTag 0
  | 4 => e.stepError Det.interUnit ((e.sampledCourse.map (·.1)).toList) subject
  | 6 => e.stepError Det.journalWatchdog [] (unitDetail Det.journalWatchdog)
  | _ => e

def execInterUnitWatchdog (request : BitVec 4) (subject : BitVec 32) (s : State) : Host.Outcome State Fault Refusal :=
  s.actIn Isl.sb fun e => e.unitLate request.toNat subject.toNat

end Sys2Proof.Machine
end

