-- ==== Sys2Proof/Machine/ReadRegs.lean ====
section
/-!
DEFINITION. Machine/ReadRegs.lean: what the registers of each unit read as (R11 to R13, R389 and the field table of each
unit's chapter). A field the tables do not list reads zero.
-/

namespace Sys2Proof.Machine

/-! ### The window (Table 19.1) -/

/-- The island of the unit at an offset; none where nothing is assigned. -/
def regIsland (off : Nat) : Option Nat :=
  if off < 0x8000 then some Isl.ao
  else if off < 0xA000 then some Isl.cc
  else if off < 0x010000 then some Isl.bp
  else if off < 0x020000 then some Isl.hi
  else if off < 0x040000 then some Isl.sb
  else if off < 0x060000 then some Isl.pg
  else if off < 0x070000 then some Isl.sm
  else if off < 0x080000 then some Isl.sp
  else if off < 0x0A0000 then some Isl.md
  else if 0x100000 ≤ off && off < 0x140000 then some Isl.hi
  else if 0x180000 ≤ off && off < 0x190000 then some Isl.sb
  else none

/-- The RW and UT fields at an offset, as last written. -/
def Engine.plainFields (e : Engine) (off : Nat) : Nat :=
  (regFields.filter fun f => f.off == off).foldl (fun n f => n + place (e.get f) f.lsb f.width) 0

/-- Bits of a list of flags, the first lowest. -/
def bitsFrom : List Bool → Nat
  | [] => 0
  | b :: bs => bit b + 2 * bitsFrom bs

/-! ### GLB, CAL, CPC, ERR and EVR, in AO -/

/-- GLB_HOST: exactly one of bits [4:0] names the port (R391). -/
def HostLink.value (h : HostLink) : Nat := place 1 (min 4 h.port.toNat) 1 + place (bit h.cache) 5 1

/-- GLB (Table 19.3); reserved bits read as zero (R8), GLB_CAP1 [15] and [19:18] among them. -/
def Engine.readGlb (e : Engine) (off : Nat) : Nat :=
  match off with
  | 0x00 => 0x5E4B0302
  | 0x04 => bitsOf e.cal.stepping 0 16
  | 0x08 => place 18 0 5 + place 12 8 5 + place 255 16 8 + place 4 24 4
  | 0x0C => e.cal.caps &&& 0xFFF37FFF
  | 0x10 => (e.glb.host.map HostLink.value).getD 0
  | 0x14 => bit e.glb.bistBusy
  | 0x18 => place e.glb.phase 0 4 + place (bit e.glb.bistDone) 4 1 + place (bit e.glb.bistFail) 5 1
  | 0x1C => place e.glb.fail.toNat 0 15 + place e.glb.repaired.toNat 16 15
  | _ => 0

/-- Register i of a run of n at 4-byte steps from a base. -/
def slotAt (off base n : Nat) : Option Nat :=
  if base ≤ off && off < base + 4 * n && off % 4 = 0 then some ((off - base) / 4) else none

/-- CAL (Table 16.6): every effective value is readable at once (R367). -/
def Engine.readCal (e : Engine) (off : Nat) : Nat :=
  match slotAt off 0x1010 9, slotAt off 0x1040 8, slotAt off 0x1080 12 with
  | some i, _, _ => place (Table.getD e.cal.osc i 0) 0 10 + place (e.get (oscTrim i)) 12 6 + place (Table.getD e.cal.oscEff i 0) 20 10
  | _, some n, _ =>
    place (ofSigned 8 (Table.getD e.cal.sensor n 0)) 0 8 + place (e.get (sensorTrim n)) 8 8 + place (ofSigned 8 (e.sensorEff n)) 16 8
  | _, _, some j =>
    if j % 2 = 1 then e.plainFields off
    else place (Table.getD e.cal.energy (j / 2) 0) 0 16 + place (if e.cal.loaded then e.energy (j / 2) else 0) 16 16
  | _, _, _ =>
    match off with
    | 0x1000 => place (bit e.cal.loaded) 0 1 + place (bit e.cal.fuseBad) 1 1
    | 0x1060 => place (ofSigned 16 e.cal.xtal) 0 16 + place (ofSigned 16 e.xtalEff) 16 16
    | 0x1070 => place e.cal.bin 0 11 + place (e.get Fld.calBinTrim) 12 8 + place e.binEff 20 11
    | 0x1074 => place e.cal.crit 0 11
    | _ => e.plainFields off

/-- A request stands on the pins or waits for them. -/
def Channel.outstanding (c : Channel) : Bool := c.asking.isSome || !c.waiting.isEmpty

/-- CPC (Table 16.8). -/
def Engine.readCpc (e : Engine) (off : Nat) : Nat :=
  match off with
  | 0x2004 => place e.cpc.running.toNat 0 9 + place e.cpc.monFail.toNat 16 9
  | 0x2014 => place e.cal.crit 0 11 + e.plainFields off
  | 0x201C => ofSigned 11 (Table.getD e.cpc.temps (e.get Fld.cpcTempSelSensor) 0)
  | 0x2020 =>
    place e.cpc.level 0 2 + place (bit e.cpc.ch0.outstanding) 2 1 + place (bit e.cpc.ch1.outstanding) 3 1 + place (bit e.cpc.tbLost) 4 1
  | 0x2024 => bitsOf e.now 0 32
  | 0x2028 => bitsOf e.now 32 32
  | 0x2038 => place (Table.getD e.cpc.freqs (e.get Fld.cpcIslSelIsland) 0) 0 21
  | _ => e.plainFields off

/-- The entry ERR_CTX_SEL shows. -/
def Engine.shownError (e : Engine) : Option ErrEntry :=
  match e.get Fld.errCtxSelEntry with
  | 0 => e.err.active
  | 1 => e.err.suspended
  | n => e.err.pending[n - 2]?

/-- Word n of the entry shown: Table 15.3, with the repeat count last. -/
def Engine.errCtx (e : Engine) (n : Nat) : Nat :=
  match e.shownError with
  | none => 0
  | some x => if n = 7 then place x.rep 0 16 else ((x.words false false).getD n 0).toNat

/-- The injection slot selected. -/
def Engine.injSlot (e : Engine) : InjSlot := Table.getD e.err.slots (e.get Fld.errInjSelSlot) InjSlot.reset

/-- ERR (Table 15.7), ERR_UNLOCK_CHAL apart. -/
def Engine.readErr (e : Engine) (off : Nat) : Nat :=
  let x := e.injSlot
  match slotAt off 0x4040 8 with
  | some n => e.errCtx n
  | none =>
    match off with
    | 0x4004 =>
      bitsFrom [e.err.active.isSome, e.err.suspended.isSome, e.err.ringFull, e.err.unlocked, e.err.fatal] + place e.err.pending.length 8 5
    | 0x4018 => place e.err.ringTail 0 16
    | 0x406C => place x.detector 0 16
    | 0x4070 => bitsFrom [x.arm, x.nth, x.uncorr] + place x.n 16 16
    | 0x4074 => place x.fired 0 16
    | _ => e.plainFields off

/-- Word n of an emergency entry (Table 14.3). -/
def EmergEntry.wordAt (x : EmergEntry) (n : Nat) : Nat :=
  match n with
  | 0 => place x.code 0 16 + place x.island 16 4 + place (bit x.injected) 20 1
  | 1 => place x.opTime 0 32
  | 2 => place x.cycles 0 24
  | _ => x.word.toNat

/-- EVR (Table 14.6). -/
def Engine.readEvr (e : Engine) (off : Nat) : Nat :=
  match slotAt off 0x602C 4 with
  | some n => ((e.evr.emerg[e.get Fld.evrEmergSelIndex]?).map fun x => x.wordAt n).getD 0
  | none =>
    match off with
    | 0x6000 => bit e.evr.enabled + place (e.get Fld.evrCtlFlood) 1 2 + place (e.get Fld.evrCtlFreeze) 3 1
    | 0x6004 => bitsFrom [e.evr.frozen, e.evr.full, e.evr.memFail, e.evr.emergFail]
    | 0x600C => place e.evr.wrPtr 0 26
    | 0x6010 => place e.evr.opTime 0 32
    | 0x6014 => place e.evr.cycles 0 24
    | 0x6028 => place e.evr.emerg.length 0 7
    | _ => e.plainFields off

/-! ### TSK and BPL -/

/-- TSK_CORE for a physical core: in service under a logical number, a spare, or halted. -/
def Engine.readCore (e : Engine) (p : Nat) : Nat :=
  match logicalCores.find? fun l => (e.core l).inService && (e.core l).phys == some p with
  | none => place (bit (e.tsk.sparePhys.contains p)) 1 1 + place (bit (e.tsk.retiredPhys.contains p)) 2 1 + place 1 3 1
  | some l =>
    match (e.core l).running with
    | none => place 1 0 1 + place 1 3 1 + place l 4 4
    | some t => place 1 0 1 + place l 4 4 + place t 16 12

/-- CC cycles in a number of ns, in units of 1,024 (R300; 1.8 GHz, Table 1.2). -/
def loadUnits (ns : Nat) : Nat := ns * 18 / 10 / 1024

/-- TSK (Table 12.9). -/
def Engine.readTsk (e : Engine) (off : Nat) : Nat :=
  match slotAt off 0x8040 16, slotAt off 0x8080 16 with
  | some b, _ => sat32 (Table.getD e.tsk.latchHist (16 * e.get Fld.tskHistSelBand + b) 0)
  | _, some l => sat32 (loadUnits (Table.getD e.tsk.latchLoad l 0))
  | _, _ =>
    match off with
    | 0x8004 => bitsFrom [e.tsk.override, e.tsk.tasks.any fun x => x.2.state == .ready]
    | 0x8008 => place (logicalCores.filter fun l => (e.core l).inService).length 0 5 + place e.tsk.sparePhys.length 8 2
    | 0x8010 => e.readCore (e.get Fld.tskCoreSelCore)
    | 0x8024 => place (Table.getD e.tsk.latchReady (e.get Fld.tskReadySelPrio) 0) 0 13
    | _ => e.plainFields off

/-- BPL (Table 13.7): the BPL_Q registers show the queue selected. -/
def Engine.readBpl (e : Engine) (off : Nat) : Nat :=
  let q := e.queue (e.get Fld.bplQSelQueue)
  match off with
  | 0xA004 => bit (decide (e.bpl.free < 1024))
  | 0xA008 => place e.bpl.free 0 17
  | 0xA010 => q.cfg
  | 0xA014 => place q.maxDepth 0 17
  | 0xA018 => place q.high 0 16 + place q.low 16 16
  | 0xA01C => place q.depth 0 17 + place (bit q.gapTail) 17 1 + place (bit q.xoff) 18 1 + place (bit q.failed.isSome) 19 1
  | 0xA024 => sat32 q.drops
  | 0xA02C => e.xoffLines.toNat
  | _ => e.plainFields off

/-! ### HRU, the stop vector, ADM, SB and YLM -/

/-- HRU (Table 2.13). -/
def Engine.readHru (e : Engine) (off : Nat) : Nat :=
  let event := decide (4096 ≤ e.hru.statRing)
  match off with
  | 0x010018 =>
    place (bit (e.ringBusy event (e.hru.statRing % 4096))) 0 1 + place (bit e.hru.statEnabled) 1 1 + place e.hru.statReason 4 4 +
      place e.hru.statRing 12 13
  | _ => e.plainFields off

/-- STOP_MAP: the stop bits of 32 slots (R57). -/
def Engine.stopMap (e : Engine) (k : Nat) : Nat :=
  bitsFrom ((List.range 32).map fun i => e.stop.contains (32 * k + i))

def Engine.readStop (e : Engine) (off : Nat) : Nat := ((slotAt off 0x181000 8192).map e.stopMap).getD 0

/-- ADM (Table 4.8). -/
def Engine.readAdm (e : Engine) (off : Nat) : Nat :=
  match off with
  | 0x020004 => bitsFrom [e.adm.overcommit, decide (e.smp.cellFree.count < e.get Fld.admPenReserveN)]
  | 0x020018 => place e.binEff 0 11
  | 0x02001C => sat32 e.adm.latchCeiling
  | 0x020020 => sat32 e.adm.latchPred
  | 0x020024 => place e.adm.held.length 0 19
  | _ => e.plainFields off

/-- SB (Table 3.8). -/
def Engine.readSb (e : Engine) (off : Nat) : Nat :=
  match slotAt off 0x028040 11 with
  | some c => place (Table.getD e.stateCnt c 0) 0 19
  | none => if off = 0x028004 then place e.slots.count 0 19 else e.plainFields off

/-- YLM (Table 5.12). -/
def Engine.readYlm (e : Engine) (off : Nat) : Nat :=
  let f := e.get Fld.ylmFitSelFamily
  let valid := ((Table.get? e.var.families f).map fun x => Family.servable x).getD false
  let g := e.fitOf f
  match off with
  | 0x030004 => bitsFrom [e.ylm.composing, e.ylm.leaveWait]
  | 0x030034 => if valid then place g.grade 0 2 + place g.depth 2 3 + place 1 5 1 + place g.maxPos 8 17 else 0
  | 0x030038 => if valid && g.grade = 2 then sat32 (e.thinNs f) else 0
  | 0x03003C => sat32 e.ylm.latchCompose
  | _ => e.plainFields off

/-! ### PGM and VAR -/

/-- The frame pool and the T2 extent selected. -/
def Engine.poolKey (e : Engine) : Nat := 8 * e.get Fld.pgmPoolSelTier + e.get Fld.pgmPoolSelClass
def Engine.shownPool (e : Engine) : Pool := e.pool (e.get Fld.pgmPoolSelTier) (e.get Fld.pgmPoolSelClass)
def Engine.shownExtent (e : Engine) : Extent :=
  Table.getD e.pgm.extents (e.get Fld.pgmT2SelExtent) { node := 0, base := 0, cls := 0, frames := .full 0 }

/-- A pool of a tier is below its low watermark. -/
def Engine.tierLow (e : Engine) (tier : Nat) (low : Field) : Bool :=
  (List.range 8).any fun c => !e.atMark tier c (e.get low)

/-- PGM (Table 6.10). -/
def Engine.readPgm (e : Engine) (off : Nat) : Nat :=
  let p := e.shownPool
  let x := e.shownExtent
  match off with
  | 0x040004 => bitsFrom [e.tierLow 0 Fld.pgmT0WmLow, e.tierLow 1 Fld.pgmT1WmLow, e.pgm.stageFull]
  | 0x040010 => bitsOf p.base.toNat 0 32
  | 0x040014 => bitsOf p.base.toNat 32 32
  | 0x040018 => place p.count 0 28
  | 0x04001C => place p.frames.count 0 28
  | 0x04002C => place x.node 0 16
  | 0x040030 => bitsOf x.base 0 32
  | 0x040034 => bitsOf x.base 32 16
  | 0x040038 => place x.frames.limit 0 26 + place x.cls 26 3
  | 0x04004C => place e.pgm.entries.count 0 23
  | _ => e.plainFields off

/-- VAR (Table 7.9). -/
def Engine.readVar (e : Engine) (off : Nat) : Nat :=
  let free := 8192 - e.var.slots.length
  match off with
  | 0x050004 => bitsFrom [!e.var.jobs.isEmpty, decide (free < 64)]
  | 0x050040 => place free 0 14
  | _ => e.plainFields off

/-! ### SMP and SPG -/

/-- Is a course being sampled: begun in this run, with a draw that emission has not passed (R27, R206; log entry 51)? -/
def Engine.samplingNow (e : Engine) : Bool :=
  match e.ylm.current with
  | some y => (e.begunCourses y).any fun x => decide (e.smp.nextEmit < x.2.firstDraw + x.2.draws)
  | none => false

/-- SMP (R220, R230). -/
def Engine.readSmp (e : Engine) (off : Nat) : Nat :=
  let g := Table.getD e.smp.groups (e.get Fld.smpGroupSelGroup)
    { fault := 0, spareUsed := false, retired := false, pendSwitch := false, pendRetire := false }
  match off with
  | 0x060004 => bitsFrom [e.samplingNow, e.smp.groups.any fun x => x.2.retired, e.smp.penEmpty]
  | 0x060008 => place e.lanesActive 0 11 + place (64 - (e.smp.groups.filter fun x => x.2.spareUsed).length) 16 7
  | 0x060010 => place g.fault.toNat 0 17 + place (bit g.spareUsed) 17 1 + place (bit g.retired) 18 1
  | 0x06001C => place e.smp.cellFree.count 0 18
  | 0x060020 => sat32 e.smp.latchTail
  | _ => e.plainFields off

/-- SPG (Table 9.5). -/
def Engine.readSpg (e : Engine) (off : Nat) : Nat :=
  let active := (e.spg.cores.filter fun c => c.2.active).length
  match off with
  | 0x070004 => bitsFrom [decide (active < 256), e.spg.katBusy]
  | 0x070010 => place active 0 9 + place (e.spg.cores.filter fun c => c.2.spare).length 16 5
  | 0x070018 =>
    match Table.get? e.spg.cores (e.get Fld.spgCoreSelCore) with
    | none => 0
    | some c => bitsFrom [c.active, c.spare, c.retired] + place (if c.active then c.logical else 0) 8 9
  | 0x07004C => e.get katG
  | _ => match slotAt off 0x07003C 4 with
    | some n => e.get (katOut n)
    | none => e.plainFields off

/-! ### MDV and FLT -/

/-- MDV (Table 10.11). -/
def Engine.readMdv (e : Engine) (off : Nat) : Nat :=
  let m := e.mdv
  match off with
  | 0x080004 =>
    place (if m.joined then m.role else Role.none) 0 2 + place (bit m.joined) 2 1 + place (bit m.fenced) 3 1 + place (bit m.lapsed) 4 1 +
      place m.reason 8 4
  | 0x080018 => place (if m.joined then m.rank else 0x1FF) 0 9 + place m.node 16 16
  | 0x08001C => place m.epoch 0 16
  | 0x080040 => sat32 m.latchDist
  | 0x080044 => sat32 m.distWorst
  | _ => e.plainFields off

/-- The part FLT_HEALTH_SEL names. -/
def Engine.shownPart (e : Engine) : Part :=
  Table.getD e.flt.parts (512 * e.get Fld.fltHealthSelKind + e.get Fld.fltHealthSelIndex) { score := 0, level := 0, retired := false }

/-- FLT (Table 11.8). -/
def Engine.readFlt (e : Engine) (off : Nat) : Nat :=
  let x := e.flt
  let p := e.shownPart
  match off with
  | 0x090004 =>
    bitsFrom [x.replaying, x.takenOver, e.shadows, x.governed, e.partner.isSome && decide (x.mirrorStep + 1 < x.commitStep), x.evtFull]
  | 0x090010 => bitsOf x.commitStep 0 32
  | 0x090014 => bitsOf x.commitStep 32 16
  | 0x090018 => bitsOf x.mirrorStep 0 32
  | 0x09001C => bitsOf x.mirrorStep 32 16
  | 0x090030 => place (min 4095 x.shadow.matched) 0 12 + place (min 15 x.shadow.mismatches) 16 4 + place x.shadow.phase 20 2
  | 0x09003C => place p.score 0 16 + place p.level 16 2 + place (bit p.retired) 18 1
  | 0x090060 =>
    if e.manages then place (min 255 e.expelledNow.length) 0 8 + place (min 1023 e.freeStandbys.length) 8 10 else 0
  | _ => match slotAt off 0x090040 4 with
    | some k => place (Table.getD e.cal.weights k 0) 0 8 + e.plainFields off + place (e.weight k) 16 8
    | none => e.plainFields off

/-! ### One register -/

/-- A counter: live in EVR, ERR and CPC, else as last latched (R60, R334, R355, R370). -/
def Engine.readCounter (e : Engine) (off : Nat) : Nat :=
  if off < 0x8000 then (e.count off).toNat else (Table.getD e.latched off (0 : BitVec 32)).toNat

/-- The value of the 32-bit register at an offset. -/
def Engine.regValue (e : Engine) (off : Nat) : Nat :=
  if counterOffsets.contains off then e.readCounter off
  else if off < 0x001000 then e.readGlb off
  else if off < 0x002000 then e.readCal off
  else if off < 0x004000 then e.readCpc off
  else if off < 0x006000 then e.readErr off
  else if off < 0x008000 then e.readEvr off
  else if off < 0x00A000 then e.readTsk off
  else if off < 0x010000 then e.readBpl off
  else if off < 0x020000 then e.readHru off
  else if off < 0x028000 then e.readAdm off
  else if off < 0x030000 then e.readSb off
  else if off < 0x040000 then e.readYlm off
  else if off < 0x050000 then e.readPgm off
  else if off < 0x060000 then e.readVar off
  else if off < 0x070000 then e.readSmp off
  else if off < 0x080000 then e.readSpg off
  else if off < 0x090000 then e.readMdv off
  else if off < 0x0A0000 then e.readFlt off
  else if off < 0x180000 then 0
  else e.readStop off

/-- Low halves of the 64-bit quantities (R12). -/
def pairOffsets : List Nat :=
  [0x002024, 0x004008, 0x010008, 0x030008, 0x040010, 0x040030, 0x050008, 0x050018, 0x050028, 0x080010, 0x090010, 0x090018]

/-- A 32-bit read. The low half of a pair latches the high half, which the next read of the high half answers (R12). -/
def Engine.readWord (e : Engine) (off : Nat) : Nat × Engine :=
  if off = 0x004060 then e.challenge
  else if pairOffsets.contains off then
    (e.regValue off, { e with highs := Table.put e.highs (off + 4) (BitVec.ofNat 32 (e.regValue (off + 4))) })
  else match Table.get? e.highs off with
    | some v => (v.toNat, { e with highs := Table.del e.highs off })
    | none => (e.regValue off, e)

/-- A 64-bit read: of a pair both halves at once, else of two registers. -/
def Engine.readDouble (e : Engine) (off : Nat) : Nat × Engine :=
  if pairOffsets.contains off then
    (e.regValue off + 2 ^ 32 * e.regValue (off + 4), { e with highs := Table.del e.highs (off + 4) })
  else
    let (lo, e) := e.readWord off
    let (hi, e) := e.readWord (off + 4)
    (lo + 2 ^ 32 * hi, e)

/-- May an access have this size and place (R12)? -/
def accessOk (off size : Nat) : Bool := (size == 4 && off % 4 == 0) || (size == 8 && off % 8 == 0)

/-- A register read of a legal size and alignment. -/
def Engine.regRead (e : Engine) (off size : Nat) : Engine :=
  let (v, e) := if size = 8 then e.readDouble off else e.readWord off
  e.emit (.regData (BitVec.ofNat 64 v))

end Sys2Proof.Machine
end

