-- ==== Sys2Proof/Machine/CoreMap.lean ====
section
/-!
DEFINITION. Machine/CoreMap.lean: the address map every control core sees (R287): its areas, the images of task records and flow table
entries, the memories, the ports, and what an access outside the map or against its access column does.
-/

namespace Sys2Proof.Machine

/-- The areas of Table 12.1. -/
inductive CoreArea where
  | own | shared | tasks | flows | bootRom | window | port | queues | view | t0
  deriving DecidableEq, Repr

/-- First byte and size of each area (Table 12.1). -/
def coreMap : List (CoreArea × Nat × Nat) :=
  [(.own, 0x00000000, 0x40000), (.shared, 0x00100000, 0x5B8000), (.tasks, 0x006B8000, 0x40000), (.flows, 0x006F8000, 0x208000),
   (.bootRom, 0x00F00000, 0x10000), (.window, 0x01000000, 0x200000), (.port, 0x02000000, 0x1000), (.queues, 0x03000000, 0x10000),
   (.view, 0x04000000, 0x400000), (.t0, 0x100000000, 0x80000000)]

/-- The logical core and the address of its map that the operand of a register command names, outside the host's window (log entry 50):
bits [30:27] are the core and [26:0] the address; with bit 31, the other bits are an offset of the T0 partition, which core 0 reads. -/
def accessPoint (operand : Nat) : Nat × Nat :=
  if operand < 2 ^ 31 then (operand / 2 ^ 27, operand % 2 ^ 27) else (0, 0x100000000 + (operand - 2 ^ 31))

/-- The area an access lies in whole, and its offset there; a core makes accesses of 1, 2, 4 and 8 bytes. -/
def coreArea (address size : Nat) : Option (CoreArea × Nat) :=
  if !([1, 2, 4, 8].contains size) then none
  else (coreMap.find? fun x => decide (x.2.1 ≤ address ∧ address + size ≤ x.2.1 + x.2.2)).map fun x => (x.1, address - x.2.1)

/-! ### Images (R290, R296) -/

def TaskState.code : TaskState → Nat
  | .free => 0 | .waiting => 1 | .ready => 2 | .running => 3

/-- The 64 B record of a task (Table 12.2). -/
def Task.image (t : Task) : Nat :=
  place t.entry.toNat 0 64 + place t.arg.toNat 64 64 + place t.ctx.toNat 128 64 + place t.latched.toNat 192 32 +
    place t.mask.toNat 224 32 + place t.state.code 256 3 + place (bit t.all) 259 1 + place (bit t.started) 260 1 +
    place (bit t.cancelSeen) 261 1 + place (bit t.restarted) 262 1 + place (bit t.destroyPending) 263 1 + place t.priority 264 5 +
    place t.affinity.toNat 272 16 + place (t.lastCore.getD 0) 288 4 + place (bit t.lastCore.isSome) 295 1 +
    place t.readyTime 320 64 + place t.runs.toNat 384 32

/-- The 8 B entry of a flow (R296); the cell of its item is one the batten pool picks (log entry 2). -/
def Flow.image (x : Flow) (cell : Nat) : Nat :=
  place (bit x.busy) 0 1 + place x.owner 1 12 + place (bit x.retry) 13 1 + place cell 32 16 + place x.queue 48 10

/-- A byte of the task records; record i lies at 64 i, and one that is FREE is zero (R290). -/
def Engine.taskByte (e : Engine) (off : Nat) : Nat :=
  match e.task? (off / 64) with
  | some t => bitsOf t.image (8 * (off % 64)) 8
  | none => 0

/-- A byte of the flow table; an entry never used is zero. -/
def Engine.flowByte (e : Engine) (cell off : Nat) : Nat :=
  match Table.get? e.tsk.flows (off / 8) with
  | some x => bitsOf (x.image cell) (8 * (off % 8)) 8
  | none => 0

/-- A value of consecutive bytes, lowest first. -/
def bytesFrom (f : Nat → Nat) (off size : Nat) : Nat :=
  ((List.range size).map fun i => f (off + i) * 256 ^ i).sum

/-- The item of a table of the T0 partition that holds an offset: its kind in Table 11.11 (Tables 1.5 and 1.9). -/
def T0Region.kind : T0Region → Option Nat
  | .rafterTable => some 1 | .pageTables => some 2 | .prefixHash => some 3 | .additionDir => some 4 | .prefixTable => some 6
  | .countSets => some 8 | .overflowPool => some 9 | .biasStores => some 10 | .guessStores => some 11
  | .journal | .eavesLog | .reserved | .undoSb | .undoSmp | .undoPgm | .chainStage | .manifestArchive | .moveStaging | .stateLoading => none

/-- The bytes of the T0 partition whose layout a rule gives: the tables, whose unused entries are zero (R380), the journal's records and
the eaves log. -/
def Engine.t0Byte (e : Engine) (off : Nat) : Option Nat :=
  (regionAt off).bind fun r =>
    let rel := off - r.2
    match r.1.kind with
    | some k =>
      let item := ((e.loadItems.find? fun x => x.1 == k).bind fun x => Table.get? x.2 (rel / itemBytes k)).getD 0
      some (bitsOf item (8 * (rel % itemBytes k)) 8)
    | none => match r.1 with
      | .eavesLog => some (Memory.read e.mem rel).toNat
      | .journal => ((Table.get? e.flt.journal (rel / 0x400000)).bind fun x => x.bytes[rel % 0x400000]?).map BitVec.toNat
      | _ => none

/-- The local memory of a logical core; a byte nothing has written reads 0 (log entry 5). -/
def Engine.localByte (e : Engine) (l off : Nat) : Nat := (Memory.read (Table.getD e.tsk.locals l []) off).toNat

/-! ### Accesses of a core -/

/-- An access outside the map, or against its access column: the exception on the core, a register-access error, and no other effect
(R287); on the handler's core while an error is active, R349 applies. -/
def Engine.coreFault (e : Engine) (l address : Nat) : Engine :=
  let fault := e.emit (.accessFault l address)
  if e.runsHandler l then fault.escalate Det.registerAccess else fault.badAccess address

/-- The data of a load that has no effect are open (log entry 2). -/
def Engine.answerOpen (e : Engine) (core : BitVec 4) (size : Nat) : Engine :=
  let (v, e) := e.free
  e.answer core (bitsOf v.toNat 0 (8 * size))

/-- Offsets of the scheduler port that load, and those that store (Table 12.4). -/
def portLoads : List Nat := [0x000, 0x010, 0x098]
def portStores : List Nat := [0x008, 0x018, 0x020, 0x028, 0x030, 0x038, 0x040, 0x048, 0x050, 0x058, 0x060, 0x068, 0x070, 0x078, 0x080, 0x088, 0x090]

/-- An access of a port is aligned and of 64 bits (R293, R308). -/
def portSized (off size : Nat) : Bool := size == 8 && off % 8 == 0

/-- A core's load from the scheduler port: an operation of Table 12.4, an offset not listed (R13), or a miss, which is recorded (R293). -/
def Engine.portLoad (e : Engine) (core : BitVec 4) (off size : Nat) : Engine :=
  if !portSized off size || portStores.contains off then (e.answerOpen core size).badAccess (0x2000000 + off)
  else match off with
    | 0x000 => e.loadSelf core
    | 0x010 => e.loadTake core
    | 0x098 => e.storeNext core
    | _ => e.answer core 0

/-- A core's store to the scheduler port. -/
def Engine.portStore (e : Engine) (core : BitVec 4) (off size : Nat) (value : BitVec 64) : Engine :=
  let t := portTask value
  if !portSized off size || portLoads.contains off then e.badAccess (0x2000000 + off)
  else match off with
    | 0x008 => e.storeWait core value
    | 0x018 => e.storePost value
    | 0x020 => e.onTask t 0x2000020 fun r => e.cancelTask t r
    | 0x028 => e.storeYield core
    | 0x030 => e.storeDone core value
    | 0x038 => e.storeCheckin core
    | 0x080 => e.storeCreate core value
    | 0x088 => e.onTask t 0x2000088 fun r => e.destroyTask t r
    | 0x090 => e.onTask t 0x2000090 fun r => e.storePrio t value r
    | _ => if 0x040 ≤ off && off < 0x080 then e.storeStage core ((off - 0x040) / 8) value else e

/-- A core's load from the queue ports (Table 13.1). -/
def Engine.queueLoad (e : Engine) (core : BitVec 4) (off size : Nat) : Engine :=
  if !portSized off size then (e.answerOpen core size).badAccess (0x3000000 + off)
  else if off % 64 = 0 then e.popPort core (off / 64)
  else e.loadPopped core (off / 64) (off % 64 / 8 - 1)

/-- A core's store to the queue ports. -/
def Engine.queueStore (e : Engine) (core : BitVec 4) (off size : Nat) (value : BitVec 64) : Engine :=
  if !portSized off size then e.badAccess (0x3000000 + off)
  else if off % 64 = 0 then e.pushPort core (off / 64) value
  else e.stagePort core (off / 64) (off % 64 / 8 - 1) value

/-- A core's load, outside the window and the queue ports. What the boot ROM holds is a constant of the part; what no rule lays out of the
T0 partition is open (log entry 2). -/
def Engine.coreLoad (e : Engine) (l address size : Nat) : Engine :=
  let core := BitVec.ofNat 4 l
  match coreArea address size with
  | some (.own, off) => e.answer core (bytesFrom (e.localByte l) off size)
  | some (.view, off) => e.answer core (bytesFrom (fun a => e.localByte (a / 0x40000) (a % 0x40000)) off size)
  | some (.shared, off) => e.answer core (bytesFrom (fun a => (Memory.read e.tsk.shared a).toNat) off size)
  | some (.tasks, off) => e.answer core (bytesFrom e.taskByte off size)
  | some (.flows, off) =>
    let (v, e) := e.free
    e.answer core (bytesFrom (e.flowByte (bitsOf v.toNat 0 16)) off size)
  | some (.bootRom, off) => e.answer core (bytesFrom (fun a => (Config.bootRom a).toNat) off size)
  | some (.t0, off) =>
    let (v, e) := e.free
    e.answer core (bytesFrom (fun a => (e.t0Byte a).getD (bitsOf v.toNat (8 * (a - off)) 8)) off size)
  | some (.port, off) => e.portLoad core off size
  | some (.window, _) | some (.queues, _) | none => e.coreFault l address

/-- A core's store, outside the window and the queue ports. -/
def Engine.coreStore (e : Engine) (l address size : Nat) (value : BitVec 64) : Engine :=
  let bytes := leBytes size value.toNat
  match coreArea address size with
  | some (.own, off) =>
    let m := Memory.writeBytes (Table.getD e.tsk.locals l []) off bytes
    { e with tsk := { e.tsk with locals := Table.put e.tsk.locals l m } }
  | some (.shared, off) => { e with tsk := { e.tsk with shared := Memory.writeBytes e.tsk.shared off bytes } }
  | some (.port, off) => e.portStore (BitVec.ofNat 4 l) off size value
  | some (.tasks, _) | some (.flows, _) | some (.bootRom, _) | some (.view, _) | some (.t0, _) | some (.window, _) | some (.queues, _) | none =>
    e.coreFault l address

end Sys2Proof.Machine
end

