-- ==== Sys2Proof/Machine/Registers.lean ====
section
/-!
DEFINITION. Machine/Registers.lean: register writes (R11 to R13, R384 and the rules of each unit's register table) and the
two commands REGISTER_WRITE and REGISTER_READ.
-/

namespace Sys2Proof.Machine

/-! ### Conditions and ranges -/

/-- Does a written value keep a field within its stated range? -/
def Field.admits (f : Field) (v : Nat) : Bool :=
  let x := bitsOf v f.lsb f.width
  let n : Int := if f.signed then toSigned f.width x else (x : Int)
  decide (f.lo ≤ n) && decide (n ≤ f.hi)

/-- Writes every plain field at an offset. -/
def Engine.putFields (e : Engine) (off v : Nat) : Engine :=
  (regFields.filter fun f => f.off == off).foldl (fun e f => e.put f (bitsOf v f.lsb f.width)) e

/-- Registers written only while admission is closed and every slot is free (Table 17.6). -/
def quietOffsets : List Nat :=
  [0x030008, 0x03000C, 0x030010, 0x040010, 0x040014, 0x040018, 0x04002C, 0x040030, 0x040034, 0x040038, 0x050008, 0x05000C, 0x050010,
   0x050018, 0x05001C, 0x050020, 0x050028, 0x05002C, 0x050030, 0x070008, 0x090008]

/-- Bytes of T1 (Table 0.2): 432 GB from address 0. -/
def t1Bytes : Nat := 432000000000

/-- A region of T1 by its base halves and size in MiB. -/
def inT1 (lo hi mib : Nat) : Bool := mib == 0 || decide (lo + 2 ^ 32 * hi + mib * 1048576 ≤ t1Bytes)

/-- The register as it would read if this offset held v. -/
def Engine.wouldRead (e : Engine) (off v k : Nat) : Nat :=
  if k = off then sumBy (regFields.filter fun f => f.off == off) fun f => place (bitsOf v f.lsb f.width) f.lsb f.width else e.plainFields k

/-- The weight region and the T1 addition pool lie within T1. -/
def Engine.regionFits (e : Engine) (off v base : Nat) : Bool :=
  inT1 (e.wouldRead off v base) (e.wouldRead off v (base + 4)) (e.wouldRead off v (base + 8))

/-- The health thresholds rise (R282). -/
def Engine.thresholdsRise (e : Engine) (off v : Nat) : Bool :=
  let lo := e.wouldRead off v 0x090050
  let hi := e.wouldRead off v 0x090054
  decide (bitsOf lo 0 16 < bitsOf lo 16 16) && decide (bitsOf lo 16 16 < bitsOf hi 0 16)

/-- Conditions of a write beyond the ranges of its fields. -/
def Engine.writeOk (e : Engine) (off v : Nat) : Bool :=
  (!quietOffsets.contains off || e.quiet) && (!(decide (0x080004 ≤ off) && decide (off < 0x090000)) || !e.mdv.joined) &&
  match off with
  | 0x002010 => decide (bitsOf v 0 11 < bitsOf v 16 11) && decide (bitsOf v 16 11 < e.cal.crit)
  | 0x004008 => !e.flag Fld.errCtlRingEn
  | 0x00400C => !e.flag Fld.errCtlRingEn
  | 0x004010 => !e.flag Fld.errCtlRingEn
  | 0x010010 => !(e.hru.subs.any fun r => r.2.enabled) && !(e.hru.evts.any fun r => r.2.enabled)
  | 0x028000 => v % 2 = 1 || e.err.unlocked
  | 0x030010 => let n := bitsOf v 0 16
                n = 0 || (decide (64 ≤ n) && n % 2 = 0)
  | 0x040020 => decide (bitsOf v 0 10 < bitsOf v 16 10)
  | 0x040024 => decide (bitsOf v 0 10 < bitsOf v 16 10)
  | 0x050008 => e.regionFits off v 0x050008
  | 0x05000C => e.regionFits off v 0x050008
  | 0x050010 => v % 2 = 0 && e.regionFits off v 0x050008
  | 0x050028 => e.regionFits off v 0x050028
  | 0x05002C => e.regionFits off v 0x050028
  | 0x050030 => e.regionFits off v 0x050028
  | 0x090050 => e.thresholdsRise off v
  | 0x090054 => e.thresholdsRise off v
  | _ => true

/-- A write of a register of plain fields: ignored and recorded when it breaks a range or a condition. -/
def Engine.writePlain (e : Engine) (off v : Nat) : Engine :=
  let fs := regFields.filter fun f => f.off == off
  if fs.isEmpty then e
  else if fs.all (fun f => f.admits v) && e.writeOk off v then e.putFields off v
  else e.badAccess off

/-! ### Registers whose copies a select register chooses -/

/-- A pool's free list after its frame count is written: frames in use stay in use. -/
def FreeList.resize (f : FreeList) (n : Nat) : FreeList :=
  { fresh := min f.fresh n, limit := n, freed := f.freed.filter fun k => decide (k < n) }

/-- Is an address aligned to the frames of a class (R167)? -/
def frameAligned (cls address : Nat) : Bool := address % (16384 * 2 ^ cls) = 0

/-- A write of a register of the selected frame pool (R144, R167). -/
def Engine.writePool (e : Engine) (off v : Nat) : Engine :=
  let p := e.shownPool
  let cls := e.get Fld.pgmPoolSelClass
  let store := fun (q : Pool) => { e with pgm := { e.pgm with pools := Table.put e.pgm.pools e.poolKey q } }
  if !e.quiet then e.badAccess off
  else match off with
    | 0x040010 =>
      let base := place (bitsOf v 14 18) 14 18 + 2 ^ 32 * bitsOf p.base.toNat 32 32
      if frameAligned cls base then store { p with base := BitVec.ofNat 64 base } else e.badAccess off
    | 0x040014 => store { p with base := BitVec.ofNat 64 (bitsOf p.base.toNat 0 32 + 2 ^ 32 * bitsOf v 0 32) }
    | _ => store { p with count := bitsOf v 0 28, frames := p.frames.resize (bitsOf v 0 28) }

/-- A write of a register of the selected T2 extent. -/
def Engine.writeExtent (e : Engine) (off v : Nat) : Engine :=
  let x := e.shownExtent
  let store := fun (q : Extent) => { e with pgm := { e.pgm with extents := Table.put e.pgm.extents (e.get Fld.pgmT2SelExtent) q } }
  if !e.quiet then e.badAccess off
  else match off with
    | 0x04002C => store { x with node := bitsOf v 0 16 }
    | 0x040030 =>
      let base := place (bitsOf v 14 18) 14 18 + 2 ^ 32 * bitsOf x.base 32 16
      if frameAligned x.cls base then store { x with base := base } else e.badAccess off
    | 0x040034 => store { x with base := bitsOf x.base 0 32 + 2 ^ 32 * bitsOf v 0 16 }
    | _ =>
      let cls := bitsOf v 26 3
      if frameAligned cls x.base then store { x with cls := cls, frames := x.frames.resize (bitsOf v 0 26) } else e.badAccess off

/-- A write of BPL_Q_CFG: ENABLE goes by R306 and R319, the other fields only while the queue is disabled. -/
def Engine.writeQueueCfg (e : Engine) (v : Nat) : Engine :=
  let i := e.get Fld.bplQSelQueue
  let q := e.queue i
  if bitsOf v 0 1 = 1 then e.enableQueue v
  else if bitsOf v 1 2 = 3 then e.badAccess 0xA010
  else if q.enabled then (if q.withCfg v = q then e.disableQueue else e.badAccess 0xA010)
  else e.putQueue i (q.withCfg v)

/-- A write of BPL_Q_LIMIT or BPL_Q_WM (Table 13.7). -/
def Engine.writeQueueLimit (e : Engine) (off v : Nat) : Engine :=
  let i := e.get Fld.bplQSelQueue
  let q := e.queue i
  let high := bitsOf v 0 16
  let low := bitsOf v 16 16
  if q.enabled then e.badAccess off
  else if off = 0xA014 then
    let n := bitsOf v 0 17
    if 1 ≤ n && n ≤ 65535 then e.putQueue i { q with maxDepth := n } else e.badAccess off
  else if 1 ≤ high && high ≤ q.maxDepth && low < high then e.putQueue i { q with high := high, low := low } else e.badAccess off

/-- A write of a register of the selected injection slot, ignored while locked (R353). -/
def Engine.writeInjection (e : Engine) (off v : Nat) : Engine :=
  let x := e.injSlot
  let store := fun (y : InjSlot) => { e with err := { e.err with slots := Table.put e.err.slots (e.get Fld.errInjSelSlot) y } }
  if !e.err.unlocked then e.badAccess off
  else if off = 0x00406C then store { x with detector := bitsOf v 0 16 }
  else if bitsOf v 16 16 = 0 then e.badAccess off
  else
    let arm := bitsOf v 0 1 == 1
    store { x with arm := arm, nth := bitsOf v 1 1 == 1, uncorr := bitsOf v 2 1 == 1, n := bitsOf v 16 16,
                   seen := if arm && !x.arm then 0 else x.seen }

/-! ### Registers that act -/

/-- A write of EVR_CTL: FLOOD, then FREEZE, then ENABLE, which a 0 does not clear (R334). -/
def Engine.writeEvrCtl (e : Engine) (v : Nat) : Engine :=
  if bitsOf v 1 2 = 3 then e.badAccess 0x6000
  else
    let e := e.put Fld.evrCtlFlood (bitsOf v 1 2)
    let freeze := bitsOf v 3 1
    let e := if freeze = e.get Fld.evrCtlFreeze then e else if freeze = 1 then e.freezeLog else e.thawLog false
    if v % 2 = 1 then e.logEnableOn else e

/-- EVR_OPTIME and EVR_PWRCYC, restored before ENABLE is first set (R334). -/
def Engine.writeEvrRestore (e : Engine) (off v : Nat) : Engine :=
  if e.evr.enabled then e.badAccess off
  else if off = 0x6010 then { e with evr := { e.evr with opTime := bitsOf v 0 32 } }
  else { e with evr := { e.evr with cycles := bitsOf v 0 24 } }

/-- A write of ERR_CTL: RING_EN from 0 to 1 starts the ring (R342). -/
def Engine.writeErrCtl (e : Engine) (v : Nat) : Engine :=
  let e := (e.put Fld.errCtlCorrHandle (bitsOf v 1 1)).put Fld.errCtlInjHealth (bitsOf v 2 1)
  if v % 2 = 1 then e.errRingOn else e.put Fld.errCtlRingEn 0

/-- A write of ERR_RING_HEAD frees entries: RING_FULL clears (R343). -/
def Engine.writeErrHead (e : Engine) (v : Nat) : Engine :=
  let e := e.put Fld.errRingHeadIndex (bitsOf v 0 16)
  if (e.err.ringTail + 1) % e.errRingSize = e.get Fld.errRingHeadIndex then e else { e with err := { e.err with ringFull := false } }

/-- The host read of the map's header with which a join or a shadow begins (R237, R279). -/
def Engine.readMap (e : Engine) : Engine := e.emit (.hostRead (BitVec.ofNat 64 e.mapBase) 64)

/-- A write of MDV_CMD (Table 10.11). A JOIN goes on when its map read returns: the JOIN command. -/
def Engine.writeMdvCmd (e : Engine) (v : Nat) : Engine :=
  match bitsOf v 0 2 with
  | 1 => if e.mdv.joined || e.mdv.joining then e.badAccess 0x080008 else if e.quiet then e.readMap else e.joinBusy
  | 2 => if e.manages then e.orderFence (bitsOf v 16 9) 4 else e.badAccess 0x080008
  | _ => e

/-- A write of FLT_CMD (Table 11.8). A SHADOW goes on when its map read returns. -/
def Engine.writeFltCmd (e : Engine) (v : Nat) : Engine :=
  match bitsOf v 0 3 with
  | 1 => e.readMap
  | 2 => e.endShadow
  | _ => e

/-- A write of EVR_FW_WORD: 64 words are staged at most (R323). -/
def Engine.stageFwWord (e : Engine) (v : Nat) : Engine :=
  if e.evr.fwWords.length < 64 then { e with evr := { e.evr with fwWords := e.evr.fwWords ++ [BitVec.ofNat 32 v] } } else e

/-- HRU_RING_CMD (Table 2.13). -/
def Engine.writeRingCmd (e : Engine) (v : Nat) : Engine :=
  match bitsOf v 13 2 with
  | 1 => e.ringEnable (bitsOf v 12 1 == 1) (bitsOf v 0 12)
  | 2 => e.ringDisable (bitsOf v 12 1 == 1) (bitsOf v 0 12)
  | _ => e

/-- EVR_CMD (Table 14.6). -/
def Engine.writeEvrCmd (e : Engine) (v : Nat) : Engine :=
  match bitsOf v 0 2 with
  | 1 => e.clearLog
  | 2 => e.clearEmergency
  | _ => e

/-! ### Writes, by island -/

/-- GLB, CAL, CPC, ERR and EVR. -/
def Engine.writeAo (e : Engine) (off v : Nat) : Engine :=
  let b := BitVec.ofNat 32 v
  match off with
  | 0x000014 => if v % 2 = 1 then e.requestBist else e
  | 0x002000 => e.enableClocks b
  | 0x004000 => e.writeErrCtl v
  | 0x004014 => e.writeErrHead v
  | 0x00402C => if v % 2 = 1 then e.ctxDone else e
  | 0x004034 => e.fwRaise b
  | 0x004064 => e.tryUnlock b
  | 0x00406C => e.writeInjection off v
  | 0x004070 => e.writeInjection off v
  | 0x006000 => e.writeEvrCtl v
  | 0x006008 => e.writeEvrCmd v
  | 0x006010 => e.writeEvrRestore off v
  | 0x006014 => e.writeEvrRestore off v
  | 0x006040 => e.stageFwWord v
  | 0x006044 => e.fwCommit b
  | _ => e.writePlain off v

/-- A doorbell slot (R43). -/
def Engine.writeDoorbell (e : Engine) (off v : Nat) : Engine :=
  let i := (off - 0x100000) / 64
  if off % 64 = 0 then e.doorbell false false i v else if off % 64 = 8 then e.doorbell true false i v else e

/-- The other units. -/
def Engine.writeUnit (e : Engine) (off v : Nat) : Engine :=
  let b := BitVec.ofNat 32 v
  match off with
  | 0x00A010 => e.writeQueueCfg v
  | 0x00A014 => e.writeQueueLimit off v
  | 0x00A018 => e.writeQueueLimit off v
  | 0x00A020 => if bitsOf v 0 2 = 1 then e.resetQueue (e.get Fld.bplQSelQueue) else e
  | 0x010014 => e.writeRingCmd v
  | 0x020000 => if v % 2 = 1 then e.openAdmission else e.setOpen 0
  | 0x030000 => e.writeYlmCtl v
  | 0x040010 => e.writePool off v
  | 0x040014 => e.writePool off v
  | 0x040018 => e.writePool off v
  | 0x04002C => e.writeExtent off v
  | 0x040030 => e.writeExtent off v
  | 0x040034 => e.writeExtent off v
  | 0x040038 => e.writeExtent off v
  | 0x070038 => if v % 2 = 1 then e.katStart (bitsOf v 1 1 == 1) else e
  | 0x080008 => e.writeMdvCmd v
  | 0x090004 => if bitsOf v 1 1 = 1 then { e with flt := { e.flt with takenOver := false } } else e
  | 0x09002C => e.writeFltCmd v
  | 0x180000 => e.stopWrite b true
  | 0x180004 => e.stopWrite b false
  | _ => if 0x100000 ≤ off && off < 0x140000 then e.writeDoorbell off v else e.writePlain off v

/-- What admission makes of a register that changed: a slack or the bin's trim moves the ceiling
or the prediction (R106), and FLT_CTL may open the gate of R265. -/
def Engine.afterWrite (e : Engine) (off : Nat) : Engine :=
  if off = 0x02000C || off = 0x001070 then e.updateOvercommit
  else if off = 0x090000 then e.openGate else e

/-- A 32-bit register write to a unit whose island runs. -/
def Engine.writeWord (e : Engine) (off v : Nat) : Engine :=
  match regIsland off with
  | none => e
  | some isl => if e.live isl then (if off < 0x8000 then e.writeAo off v else e.writeUnit off v).afterWrite off else e

/-- A register write of a legal size and alignment; a 64-bit one writes the lower register first. -/
def Engine.regWrite (e : Engine) (off size : Nat) (value : BitVec 64) : Engine :=
  if size = 8 then (e.writeWord off (bitsOf value.toNat 0 32)).writeWord (off + 4) (bitsOf value.toNat 32 32)
  else e.writeWord off (bitsOf value.toNat 0 32)

/-- Bytes of the register window (R389). -/
def windowBytes : Nat := 0x200000

/-- An access inside the window. One of a wrong size or alignment is AO's to record, whatever it names (R12); another crosses into
the island of its unit, and one that names no unit is AO's too (R13). -/
def State.access (s : State) (c : Instr) (off size : Nat) (bad good : Engine → Engine) : Host.Outcome State Fault Refusal :=
  if !accessOk off size then s.actIn Isl.ao bad
  else match regIsland off with
    | none => s.actIn Isl.ao good
    | some isl => if isl = Isl.ao then s.actIn Isl.ao good else s.cross isl c good

/-- An access of a control core at an address of its map (R287): the window there is the window, and a queue port stands in BP. A core
out of service makes none. -/
def State.coreAccess (s : State) (c : Instr) (l address size : Nat) (bad : Engine → Engine) (good queue : Nat → Engine → Engine)
    (other : Engine → Engine) : Host.Outcome State Fault Refusal :=
  let by_ := fun (f : Engine → Engine) (e : Engine) => e.onCore (BitVec.ofNat 4 l) f
  match coreArea address size with
  | some (.window, off) => s.access c off size (by_ bad) (by_ (good off))
  | some (.queues, off) => s.cross Isl.bp c (by_ (queue off))
  | _ => s.actIn Isl.cc (by_ other)

def execRegisterWrite (offset : BitVec 32) (size : Nat) (value : BitVec 64) (s : State) : Host.Outcome State Fault Refusal :=
  let bad := fun (e : Engine) => e.badAccess offset.toNat
  let good := fun (off : Nat) (e : Engine) => e.regWrite off size value
  if offset.toNat < windowBytes then s.access (.registerWrite offset size value) offset.toNat size bad (good offset.toNat)
  else
    let (l, address) := accessPoint offset.toNat
    s.coreAccess (.registerWrite offset size value) l address size bad good (fun off e => e.queueStore (BitVec.ofNat 4 l) off size value)
      fun e => e.coreStore l address size value

def execRegisterRead (offset : BitVec 32) (size : Nat) (s : State) : Host.Outcome State Fault Refusal :=
  let bad := fun (e : Engine) => (e.emit (.regData 0)).badAccess offset.toNat
  let good := fun (off : Nat) (e : Engine) => e.regRead off size
  if offset.toNat < windowBytes then s.access (.registerRead offset size) offset.toNat size bad (good offset.toNat)
  else
    let (l, address) := accessPoint offset.toNat
    s.coreAccess (.registerRead offset size) l address size bad good (fun off e => e.queueLoad (BitVec.ofNat 4 l) off size)
      fun e => e.coreLoad l address size

end Sys2Proof.Machine
end

