-- ==== Sys2Proof/Machine/Dispatch.lean ====
section
/-!
DEFINITION. Machine/Dispatch.lean: one arm per command, each one direct call of its meaning.
-/

namespace Sys2Proof.Machine

/-- The effect of a command on everything but the queue. -/
def exec (i : Instr) (s : State) : Host.Outcome State Fault Refusal :=
  match i with
  | .ringEnable event index => Sys2Proof.Machine.execRingEnable event index s
  | .ringContextReadDone event index ok entry => Sys2Proof.Machine.execRingContextReadDone event index ok entry s
  | .ringContextReadTimeout event index => Sys2Proof.Machine.execRingContextReadTimeout event index s
  | .ringDisable event index => Sys2Proof.Machine.execRingDisable event index s
  | .sqTail ring value => Sys2Proof.Machine.execSqTail ring value s
  | .eqHead ring value => Sys2Proof.Machine.execEqHead ring value s
  | .watchLineSnoop event ring value => Sys2Proof.Machine.execWatchLineSnoop event ring value s
  | .watchLineReadTimeout event ring => Sys2Proof.Machine.execWatchLineReadTimeout event ring s
  | .descriptorFetch ring => Sys2Proof.Machine.execDescriptorFetch ring s
  | .descriptorFetchReturn ring ok descs => Sys2Proof.Machine.execDescriptorFetchReturn ring ok descs s
  | .descriptorReadTimeout ring => Sys2Proof.Machine.execDescriptorReadTimeout ring s
  | .tokenListReadDone ring slot data => Sys2Proof.Machine.execTokenListReadDone ring slot data s
  | .tokenListReadTimeout ring slot => Sys2Proof.Machine.execTokenListReadTimeout ring slot s
  | .nop ring => Sys2Proof.Machine.execNop ring s
  | .submit ring => Sys2Proof.Machine.execSubmit ring s
  | .append ring => Sys2Proof.Machine.execAppend ring s
  | .cancel ring => Sys2Proof.Machine.execCancel ring s
  | .pause ring => Sys2Proof.Machine.execPause ring s
  | .resume ring => Sys2Proof.Machine.execResume ring s
  | .release ring => Sys2Proof.Machine.execRelease ring s
  | .additionLoad ring => Sys2Proof.Machine.execAdditionLoad ring s
  | .additionRetire ring => Sys2Proof.Machine.execAdditionRetire ring s
  | .prefixLoad ring => Sys2Proof.Machine.execPrefixLoad ring s
  | .prefixRetire ring => Sys2Proof.Machine.execPrefixRetire ring s
  | .familyConfig ring => Sys2Proof.Machine.execFamilyConfig ring s
  | .familyConfigBlockReadDone ring slot ok block => Sys2Proof.Machine.execFamilyConfigBlockReadDone ring slot ok block s
  | .familyRemove ring => Sys2Proof.Machine.execFamilyRemove ring s
  | .tenantSet ring => Sys2Proof.Machine.execTenantSet ring s
  | .queryRequest ring => Sys2Proof.Machine.execQueryRequest ring s
  | .queryTenant ring => Sys2Proof.Machine.execQueryTenant ring s
  | .queryFamily ring => Sys2Proof.Machine.execQueryFamily ring s
  | .queryAddition ring => Sys2Proof.Machine.execQueryAddition ring s
  | .queryRing ring => Sys2Proof.Machine.execQueryRing ring s
  | .fence ring => Sys2Proof.Machine.execFence ring s
  | .fenceBoundary ring => Sys2Proof.Machine.execFenceBoundary ring s
  | .hostWriteCreditReturn => Sys2Proof.Machine.execHostWriteCreditReturn s
  | .hostWriteCreditTimeout => Sys2Proof.Machine.execHostWriteCreditTimeout s
  | .modTimeExpiry ring => Sys2Proof.Machine.execModTimeExpiry ring s
  | .eventRingStallTimeout ring => Sys2Proof.Machine.execEventRingStallTimeout ring s
  | .stopSet handle => Sys2Proof.Machine.execStopSet handle s
  | .stopClear handle => Sys2Proof.Machine.execStopClear handle s
  | .deadlineTick => Sys2Proof.Machine.execDeadlineTick s
  | .deadlinePass slot => Sys2Proof.Machine.execDeadlinePass slot s
  | .parkExpiryPass slot => Sys2Proof.Machine.execParkExpiryPass slot s
  | .restoreTimeout slot => Sys2Proof.Machine.execRestoreTimeout slot s
  | .restoreConfirmed slot => Sys2Proof.Machine.execRestoreConfirmed slot s
  | .admissionDecision slot => Sys2Proof.Machine.execAdmissionDecision slot s
  | .admissionRetry slot => Sys2Proof.Machine.execAdmissionRetry slot s
  | .holdLimitExpiry slot => Sys2Proof.Machine.execHoldLimitExpiry slot s
  | .bucketSweep tenant => Sys2Proof.Machine.execBucketSweep tenant s
  | .admissionOpen => Sys2Proof.Machine.execAdmissionOpen s
  | .admissionClose => Sys2Proof.Machine.execAdmissionClose s
  | .courseBegun course => Sys2Proof.Machine.execCourseBegun course s
  | .manifestAckOk step => Sys2Proof.Machine.execManifestAckOk step s
  | .manifestAckRetry step => Sys2Proof.Machine.execManifestAckRetry step s
  | .manifestAckTimeout => Sys2Proof.Machine.execManifestAckTimeout s
  | .stepDone step => Sys2Proof.Machine.execStepDone step s
  | .courseTime course ns => Sys2Proof.Machine.execCourseTime course ns s
  | .segLate course segment failed => Sys2Proof.Machine.execSegLate course segment failed s
  | .segDone course => Sys2Proof.Machine.execSegDone course s
  | .segmentWaitExpiry course => Sys2Proof.Machine.execSegmentWaitExpiry course s
  | .baseStall course ns => Sys2Proof.Machine.execBaseStall course ns s
  | .baseStallLimitExceeded course => Sys2Proof.Machine.execBaseStallLimitExceeded course s
  | .baseFailed course => Sys2Proof.Machine.execBaseFailed course s
  | .kvFailed entry => Sys2Proof.Machine.execKvFailed entry s
  | .recoveryEnd => Sys2Proof.Machine.execRecoveryEnd s
  | .modeWrite value => Sys2Proof.Machine.execModeWrite value s
  | .stepBoundaryOpen failing => Sys2Proof.Machine.execStepBoundaryOpen failing s
  | .pageFreeWalk => Sys2Proof.Machine.execPageFreeWalk s
  | .logitTile header entries => Sys2Proof.Machine.execLogitTile header entries s
  | .drawEmit member => Sys2Proof.Machine.execDrawEmit member s
  | .gutterTimeout => Sys2Proof.Machine.execGutterTimeout s
  | .randomWordTimeout => Sys2Proof.Machine.execRandomWordTimeout s
  | .laneFault group lane => Sys2Proof.Machine.execLaneFault group lane s
  | .spgTileRequest purpose c0 c1 site step => Sys2Proof.Machine.execSpgTileRequest purpose c0 c1 site step s
  | .shadowCheck active agrees culprit => Sys2Proof.Machine.execShadowCheck active agrees culprit s
  | .katCommand gumbel => Sys2Proof.Machine.execKatCommand gumbel s
  | .pageMoveIssue => Sys2Proof.Machine.execPageMoveIssue s
  | .pageMoveCompletion tag status => Sys2Proof.Machine.execPageMoveCompletion tag status s
  | .pageMoveTimeout tag => Sys2Proof.Machine.execPageMoveTimeout tag s
  | .spillDelayExpiry entry => Sys2Proof.Machine.execSpillDelayExpiry entry s
  | .cacheTtlExpiry entry => Sys2Proof.Machine.execCacheTtlExpiry entry s
  | .loadTimeout job => Sys2Proof.Machine.execLoadTimeout job s
  | .prefixHoldExpiry pfx => Sys2Proof.Machine.execPrefixHoldExpiry pfx s
  | .joinCommand node header entries => Sys2Proof.Machine.execJoinCommand node header entries s
  | .fenceRankCommand rank => Sys2Proof.Machine.execFenceRankCommand rank s
  | .fabricStatus node up => Sys2Proof.Machine.execFabricStatus node up s
  | .lease f ranks => Sys2Proof.Machine.execLease f ranks s
  | .leaseRepeat => Sys2Proof.Machine.execLeaseRepeat s
  | .leaseMissLimit => Sys2Proof.Machine.execLeaseMissLimit s
  | .leaseLapseTimeout => Sys2Proof.Machine.execLeaseLapseTimeout s
  | .managerIsolationTimeout => Sys2Proof.Machine.execManagerIsolationTimeout s
  | .ack f body => Sys2Proof.Machine.execAck f body s
  | .childAckTimeout child => Sys2Proof.Machine.execChildAckTimeout child s
  | .segReport f course baseFail late failed => Sys2Proof.Machine.execSegReport f course baseFail late failed s
  | .courseStart f course baseFail late failed => Sys2Proof.Machine.execCourseStart f course baseFail late failed s
  | .courseStartTimeout course => Sys2Proof.Machine.execCourseStartTimeout course s
  | .pageFail f entry => Sys2Proof.Machine.execPageFail f entry s
  | .fenceMessage f atBoundary reason => Sys2Proof.Machine.execFenceMessage f atBoundary reason s
  | .probe f => Sys2Proof.Machine.execProbe f s
  | .probeReply f last stat score misses => Sys2Proof.Machine.execProbeReply f last stat score misses s
  | .probeTimeout rank => Sys2Proof.Machine.execProbeTimeout rank s
  | .join f check rank => Sys2Proof.Machine.execJoin f check rank s
  | .joinTimeout => Sys2Proof.Machine.execJoinTimeout s
  | .abort f body => Sys2Proof.Machine.execAbort f body s
  | .event f kind sequence payload => Sys2Proof.Machine.execEvent f kind sequence payload s
  | .eventKeepalive => Sys2Proof.Machine.execEventKeepalive s
  | .mirrorAck f step => Sys2Proof.Machine.execMirrorAck f step s
  | .health f rank level score kind index => Sys2Proof.Machine.execHealth f rank level score kind index s
  | .takeoverTimeout scan tails => Sys2Proof.Machine.execTakeoverTimeout scan tails s
  | .takeover f rank node epoch step => Sys2Proof.Machine.execTakeover f rank node epoch step s
  | .ops f records => Sys2Proof.Machine.execOps f records s
  | .manifest f bytes => Sys2Proof.Machine.execManifest f bytes s
  | .tokens f course first entries guesses => Sys2Proof.Machine.execTokens f course first entries guesses s
  | .partials f course cover first records => Sys2Proof.Machine.execPartials f course cover first records s
  | .partialsTimeout course child => Sys2Proof.Machine.execPartialsTimeout course child s
  | .journal f step origin record manifestBytes => Sys2Proof.Machine.execJournal f step origin record manifestBytes s
  | .shadowCommand rank role node header entries => Sys2Proof.Machine.execShadowCommand rank role node header entries s
  | .withdrawCommand => Sys2Proof.Machine.execWithdrawCommand s
  | .shadowReq f rank role node check => Sys2Proof.Machine.execShadowReq f rank role node check s
  | .shadowGrant f rank granted admitted reason source step node epoch => Sys2Proof.Machine.execShadowGrant f rank granted admitted reason source step node epoch s
  | .state f kind sequence index count step crc items => Sys2Proof.Machine.execState f kind sequence index count step crc items s
  | .shadowAck f step rank digest partialCrc tokenCrc => Sys2Proof.Machine.execShadowAck f step rank digest partialCrc tokenCrc s
  | .stateLoadTimeout => Sys2Proof.Machine.execStateLoadTimeout s
  | .healthUpdate counts => Sys2Proof.Machine.execHealthUpdate counts s
  | .selfLoad core => Sys2Proof.Machine.execSelfLoad core s
  | .waitStore core value => Sys2Proof.Machine.execWaitStore core value s
  | .takeLoad core => Sys2Proof.Machine.execTakeLoad core s
  | .postStore value => Sys2Proof.Machine.execPostStore value s
  | .cancelTask value => Sys2Proof.Machine.execCancelTask value s
  | .yieldStore core => Sys2Proof.Machine.execYieldStore core s
  | .doneStore core value => Sys2Proof.Machine.execDoneStore core value s
  | .checkin core => Sys2Proof.Machine.execCheckin core s
  | .createStore core value => Sys2Proof.Machine.execCreateStore core value s
  | .destroyStore value => Sys2Proof.Machine.execDestroyStore value s
  | .prioStore value => Sys2Proof.Machine.execPrioStore value s
  | .nextLoad core => Sys2Proof.Machine.execNextLoad core s
  | .dispatch => Sys2Proof.Machine.execDispatch s
  | .coreWatchdogExpiry core => Sys2Proof.Machine.execCoreWatchdogExpiry core s
  | .preemptTimeout core => Sys2Proof.Machine.execPreemptTimeout core s
  | .coreFault core => Sys2Proof.Machine.execCoreFault core s
  | .schedulerEnable => Sys2Proof.Machine.execSchedulerEnable s
  | .unitPush queue words => Sys2Proof.Machine.execUnitPush queue words s
  | .push core queue value => Sys2Proof.Machine.execPush core queue value s
  | .pop core queue => Sys2Proof.Machine.execPop core queue s
  | .popStallTimeout core => Sys2Proof.Machine.execPopStallTimeout core s
  | .queueEnable value => Sys2Proof.Machine.execQueueEnable value s
  | .queueDisable => Sys2Proof.Machine.execQueueDisable s
  | .queueReset => Sys2Proof.Machine.execQueueReset s
  | .logRecord code injected island payload dropped => Sys2Proof.Machine.execLogRecord code injected island payload dropped s
  | .fwCommit value => Sys2Proof.Machine.execFwCommit value s
  | .logEnable => Sys2Proof.Machine.execLogEnable s
  | .freeze => Sys2Proof.Machine.execFreeze s
  | .unfreeze => Sys2Proof.Machine.execUnfreeze s
  | .freezeTimeout => Sys2Proof.Machine.execFreezeTimeout s
  | .clear => Sys2Proof.Machine.execClear s
  | .emergClear => Sys2Proof.Machine.execEmergClear s
  | .rateSweep => Sys2Proof.Machine.execRateSweep s
  | .optimeTick => Sys2Proof.Machine.execOptimeTick s
  | .logWriteFail => Sys2Proof.Machine.execLogWriteFail s
  | .logWriteTimeout => Sys2Proof.Machine.execLogWriteTimeout s
  | .errorReport detector cls island handle detail => Sys2Proof.Machine.execErrorReport detector cls island handle detail s
  | .errCtxDone => Sys2Proof.Machine.execErrCtxDone s
  | .errRaise value => Sys2Proof.Machine.execErrRaise value s
  | .handlingTimeout => Sys2Proof.Machine.execHandlingTimeout s
  | .errorRingEnable => Sys2Proof.Machine.execErrorRingEnable s
  | .unlockChallenge => Sys2Proof.Machine.execUnlockChallenge s
  | .unlock value => Sys2Proof.Machine.execUnlock value s
  | .lock => Sys2Proof.Machine.execLock s
  | .islandClockEnable value => Sys2Proof.Machine.execIslandClockEnable value s
  | .clockMonitorWindow island khz => Sys2Proof.Machine.execClockMonitorWindow island khz s
  | .leaveRequest channel => Sys2Proof.Machine.execLeaveRequest channel s
  | .leaveResponse channel ok offer => Sys2Proof.Machine.execLeaveResponse channel ok offer s
  | .leaveTimeout channel => Sys2Proof.Machine.execLeaveTimeout channel s
  | .leaveRetry channel => Sys2Proof.Machine.execLeaveRetry channel s
  | .leaveRelease channel => Sys2Proof.Machine.execLeaveRelease channel s
  | .sensorRead readings => Sys2Proof.Machine.execSensorRead readings s
  | .timebaseStrobe count => Sys2Proof.Machine.execTimebaseStrobe count s
  | .timebaseTimeout => Sys2Proof.Machine.execTimebaseTimeout s
  | .oscTrimStep island => Sys2Proof.Machine.execOscTrimStep island s
  | .fuseLoadDone image => Sys2Proof.Machine.execFuseLoadDone image s
  | .fuseLoadTimeout => Sys2Proof.Machine.execFuseLoadTimeout s
  | .refClockLoss => Sys2Proof.Machine.execRefClockLoss s
  | .t0PortTimeout address => Sys2Proof.Machine.execT0PortTimeout address s
  | .aoResetAssert => Sys2Proof.Machine.execAoResetAssert s
  | .aoResetRelease => Sys2Proof.Machine.execAoResetRelease s
  | .mainResetAssert => Sys2Proof.Machine.execMainResetAssert s
  | .mainResetRelease link => Sys2Proof.Machine.execMainResetRelease link s
  | .bistRequest => Sys2Proof.Machine.execBistRequest s
  | .bistEnd result => Sys2Proof.Machine.execBistEnd result s
  | .registerWrite offset size value => Sys2Proof.Machine.execRegisterWrite offset size value s
  | .registerRead offset size => Sys2Proof.Machine.execRegisterRead offset size s
  | .rspLow channel => Sys2Proof.Machine.execRspLow channel s
  | .eventMirrorAck sequence => Sys2Proof.Machine.execEventMirrorAck sequence s
  | .interUnitWatchdog request subject => Sys2Proof.Machine.execInterUnitWatchdog request subject s
  | .frameDiscard check => Sys2Proof.Machine.execFrameDiscard check s
  | .retrainingFailure lane => Sys2Proof.Machine.execRetrainingFailure lane s
  | .hourWindowMove => Sys2Proof.Machine.execHourWindowMove s
  | .stageStore core word value => Sys2Proof.Machine.execStageStore core word value s
  | .stagePayloadWord core queue word value => Sys2Proof.Machine.execStagePayloadWord core queue word value s

end Sys2Proof.Machine
end

