-- ==== Sys2Proof/Machine/Step.lean ====
section
/-!
DEFINITION. Machine/Step.lean: one step takes the command at the front of the queue and answers its outcome. With
nothing waiting, a crossing delivers what it has held, or one cycle of AO passes: the timebase advances (log entries 3 and 4).
-/

namespace Sys2Proof.Machine

/-- One step of the block. With nothing commanded, an item that waits in the crossing into an island that runs again is delivered
(R16), and when there is none a cycle of AO passes. -/
def step (s : State) : Host.Outcome State Fault Refusal :=
  match s.pending with
  | c :: cs => exec c { s with pending := cs }
  | [] => match s.delivery with
    | none => .next s.cycle
    | some (c, rest) => keepCrossing rest (exec c { s with crossing := [] })

/-- s with the command a word spells at the front of its queue. No row of the table has bits, so no word spells one. -/
def State.withFetchWord (s : State) (nbits w : Nat) : State :=
  match decodeTableWord nbits w with
  | some c => { s with pending := c :: s.pending }
  | none => s

end Sys2Proof.Machine
end

