-- ==== Sys2Proof/WellFormed.lean ====
section
/-!
DEFINITION. WellFormed.lean: the bounds the spec puts on a command's operands beyond their widths. The machine gives
every command a meaning, well-formed or not.
-/

namespace Sys2Proof

/-- Does a command keep the bounds the spec states for its operands? -/
def Instr.wf : Instr → Bool
  | .ringEnable _ _ => true
  | .ringContextReadDone _ _ _ _ => true
  | .ringContextReadTimeout _ _ => true
  | .ringDisable _ _ => true
  | .sqTail _ _ => true
  | .eqHead _ _ => true
  | .watchLineSnoop _ _ _ => true
  | .watchLineReadTimeout _ _ => true
  | .descriptorFetch _ => true
  -- One fetch reads at most 512 B: 16 descriptors of version 1, 8 of version 2 (R47).
  | .descriptorFetchReturn _ _ descs => decide (descs.length ≤ 16)
  | .descriptorReadTimeout _ => true
  -- A bias list holds at most 64 entries (R69, R198).
  | .tokenListReadDone _ _ data => decide (data.bias.length ≤ 64)
  | .tokenListReadTimeout _ _ => true
  | .nop _ => true
  | .submit _ => true
  | .append _ => true
  | .cancel _ => true
  | .pause _ => true
  | .resume _ => true
  | .release _ => true
  | .additionLoad _ => true
  | .additionRetire _ => true
  | .prefixLoad _ => true
  | .prefixRetire _ => true
  | .familyConfig _ => true
  | .familyConfigBlockReadDone _ _ _ _ => true
  | .familyRemove _ => true
  | .tenantSet _ => true
  | .queryRequest _ => true
  | .queryTenant _ => true
  | .queryFamily _ => true
  | .queryAddition _ => true
  | .queryRing _ => true
  | .fence _ => true
  | .fenceBoundary _ => true
  | .hostWriteCreditReturn => true
  | .hostWriteCreditTimeout => true
  | .modTimeExpiry _ => true
  | .eventRingStallTimeout _ => true
  | .stopSet _ => true
  | .stopClear _ => true
  | .deadlineTick => true
  | .deadlinePass _ => true
  | .parkExpiryPass _ => true
  | .restoreTimeout _ => true
  | .restoreConfirmed _ => true
  | .admissionDecision _ => true
  | .admissionRetry _ => true
  | .holdLimitExpiry _ => true
  | .bucketSweep _ => true
  | .admissionOpen => true
  | .admissionClose => true
  | .courseBegun _ => true
  | .manifestAckOk _ => true
  | .manifestAckRetry _ => true
  | .manifestAckTimeout => true
  | .stepDone _ => true
  | .courseTime _ _ => true
  | .segLate _ _ _ => true
  | .segDone _ => true
  | .segmentWaitExpiry _ => true
  | .baseStall _ _ => true
  | .baseStallLimitExceeded _ => true
  | .baseFailed _ => true
  | .kvFailed _ => true
  | .recoveryEnd => true
  | .modeWrite _ => true
  -- The six effects of a boundary (R6).
  | .stepBoundaryOpen failing => decide (failing.toNat ≤ 6)
  | .pageFreeWalk => true
  -- A tile holds 256 vocabulary entries (Table 8.1).
  | .logitTile _ entries => decide (entries.length = 256)
  | .drawEmit _ => true
  | .gutterTimeout => true
  | .randomWordTimeout => true
  -- A group has 16 lanes and a spare (R216).
  | .laneFault _ lane => decide (lane.toNat < 17)
  | .spgTileRequest _ _ _ _ _ => true
  -- The spar has 272 physical cores (R229).
  | .shadowCheck active _ culprit => decide (active.toNat < 272) && decide (culprit.toNat < 272)
  | .katCommand _ => true
  | .pageMoveIssue => true
  | .pageMoveCompletion _ _ => true
  | .pageMoveTimeout _ => true
  | .spillDelayExpiry _ => true
  | .cacheTtlExpiry _ => true
  | .loadTimeout _ => true
  | .prefixHoldExpiry _ => true
  -- A map lists at most 512 ranks (R234).
  | .joinCommand _ _ entries => decide (entries.length ≤ 512)
  | .fenceRankCommand _ => true
  | .fabricStatus _ _ => true
  -- A group has at most 512 ranks (R234).
  | .lease _ ranks => decide (ranks.toNat ≤ 512)
  | .leaseRepeat => true
  | .leaseMissLimit => true
  | .leaseLapseTimeout => true
  | .managerIsolationTimeout => true
  -- COVER counts ranks of the group (R234).
  | .ack _ body => decide (body.cover.toNat ≤ 512)
  | .childAckTimeout _ => true
  | .segReport _ _ _ _ _ => true
  | .courseStart _ _ _ _ _ => true
  | .courseStartTimeout _ => true
  | .pageFail _ _ => true
  | .fenceMessage _ _ _ => true
  | .probe _ => true
  | .probeReply _ _ _ _ _ => true
  | .probeTimeout _ => true
  | .join _ _ _ => true
  | .joinTimeout => true
  | .abort _ _ => true
  | .event _ _ _ _ => true
  | .eventKeepalive => true
  | .mirrorAck _ _ => true
  | .health _ _ _ _ _ _ => true
  | .takeoverTimeout _ _ => true
  | .takeover _ _ _ _ _ => true
  | .ops _ _ => true
  | .manifest _ _ => true
  | .tokens _ _ _ _ _ => true
  -- COVER counts ranks; a draw carries at most four guess heads (R213).
  | .partials _ _ cover _ records => decide (cover.toNat ≤ 512) && records.all fun r => decide (r.guess.length ≤ 4)
  | .partialsTimeout _ _ => true
  | .journal _ _ _ _ _ => true
  -- A map lists at most 512 ranks (R234).
  | .shadowCommand _ _ _ _ entries => decide (entries.length ≤ 512)
  | .withdrawCommand => true
  | .shadowReq _ _ _ _ _ => true
  | .shadowGrant _ _ _ _ _ _ _ _ _ => true
  | .state _ _ _ _ _ _ _ _ => true
  | .shadowAck _ _ _ _ _ _ => true
  | .stateLoadTimeout => true
  -- Kinds of part (Table 11.5).
  | .healthUpdate counts => counts.all fun c => decide (c.kind.toNat ≤ 5)
  | .selfLoad _ => true
  | .waitStore _ _ => true
  | .takeLoad _ => true
  | .postStore _ => true
  | .cancelTask _ => true
  | .yieldStore _ => true
  | .doneStore _ _ => true
  | .checkin _ => true
  | .createStore _ _ => true
  | .destroyStore _ => true
  | .prioStore _ => true
  | .nextLoad _ => true
  | .dispatch => true
  | .coreWatchdogExpiry _ => true
  | .preemptTimeout _ => true
  | .coreFault _ => true
  | .schedulerEnable => true
  -- A payload is 1 to 7 words (R302).
  | .unitPush _ words => decide (1 ≤ words.length) && decide (words.length ≤ 7)
  | .push _ _ _ => true
  | .pop _ _ => true
  | .popStallTimeout _ => true
  | .queueEnable _ => true
  | .queueDisable => true
  | .queueReset => true
  -- Nine islands (R321); at most 64 payload words (Table 14.1).
  | .logRecord _ _ island payload _ => decide (island.toNat ≤ 8) && decide (payload.length ≤ 64)
  | .fwCommit _ => true
  | .logEnable => true
  | .freeze => true
  | .unfreeze => true
  | .freezeTimeout => true
  | .clear => true
  | .emergClear => true
  | .rateSweep => true
  | .optimeTick => true
  | .logWriteFail => true
  | .logWriteTimeout => true
  -- Nine islands (R321).
  | .errorReport _ _ island _ _ => decide (island.toNat ≤ 8)
  | .errCtxDone => true
  | .errRaise _ => true
  | .handlingTimeout => true
  | .errorRingEnable => true
  | .unlockChallenge => true
  | .unlock _ => true
  | .lock => true
  | .islandClockEnable _ => true
  -- Nine islands (R321).
  | .clockMonitorWindow island _ => decide (island.toNat ≤ 8)
  | .leaveRequest _ => true
  | .leaveResponse _ _ _ => true
  | .leaveTimeout _ => true
  | .leaveRetry _ => true
  | .leaveRelease _ => true
  -- CPC reads 8 sensors (R363).
  | .sensorRead readings => decide (readings.length = 8)
  | .timebaseStrobe _ => true
  | .timebaseTimeout => true
  -- Nine islands (R321).
  | .oscTrimStep island => decide (island.toNat ≤ 8)
  -- Words of the fuse macro (Table 16.3).
  | .fuseLoadDone image => decide (image.osc.length = 9) && decide (image.sensor.length = 8) && decide (image.energy.length = 6) && decide (image.weights.length = 4)
  | .fuseLoadTimeout => true
  | .refClockLoss => true
  | .t0PortTimeout _ => true
  | .aoResetAssert => true
  | .aoResetRelease => true
  | .mainResetAssert => true
  -- Five kinds of port (R391).
  | .mainResetRelease link => decide (link.port.toNat ≤ 4)
  | .bistRequest => true
  | .bistEnd _ => true
  | .registerWrite _ _ _ => true
  | .registerRead _ _ => true
  | .rspLow _ => true
  | .eventMirrorAck _ => true
  -- The requests of Table 1.8.
  | .interUnitWatchdog request _ => decide (request.toNat ≤ 9)
  | .frameDiscard _ => true
  -- Two lanes and a spare (Table 11.4).
  | .retrainingFailure lane => decide (lane.toNat ≤ 2)
  | .hourWindowMove => true
  | .stageStore _ _ _ => true
  -- A payload has words 0 to 6 (R302).
  | .stagePayloadWord _ _ word _ => decide (word.toNat ≤ 6)

end Sys2Proof
end

