-- ==== Sys2Proof/Safety.lean ====
section
/-!
DEFINITION. Safety.lean: what counts as a safe run, and the words the claims use for the states and engines they speak
of.
-/

namespace Sys2Proof.Machine

/-- The state that n steps lead to; none when a step among them stops. -/
def State.run : Nat → State → Option State
  | 0, s => some s
  | n + 1, s =>
    match step s with
    | .next t => State.run n t
    | _ => none

/-- No step of n ends in a fault or a refusal. -/
def State.safe (n : Nat) (s : State) : Prop := (State.run n s).isSome

/-- The engine as a command to it sees it: the timebase's count stands in `now`. -/
def State.seen (s : State) : Engine := { s.eng with now := s.tb.count }

/-- An island is out of reset with its clock running, so that its unit works (R356, R379). -/
def State.serves (s : State) (isl : Nat) : Prop := s.eng.live isl = true

/-- An island runs and nothing waits in its crossing, so that it takes at once what comes from outside it (R16). -/
def State.receives (s : State) (isl : Nat) : Prop := s.serves isl ∧ s.waits isl = false

/-- The timebase copy as every step keeps it (R364): less than 1 ns of correction is carried, at most 20 ns is still to
slew, and nothing is slewed while the copy holds. -/
def Timebase.sound (t : Timebase) : Prop :=
  0 ≤ t.frac ∧ t.frac < 1000000000 ∧ -20 ≤ t.slew ∧ t.slew ≤ 20 ∧ (0 < t.hold → t.slew = 0)

/-- Every cell of the pool is free or held by an enabled queue (R303, R306). -/
def Engine.cellsHeld (e : Engine) : Nat := sumBy (Table.vals e.bpl.queues) Queue.cells

/-- The pool is accounted for: no cell is lost and none is counted twice, and the queue table is in order. -/
def Engine.poolSound (e : Engine) : Prop := Table.sorted e.bpl.queues ∧ e.bpl.free + e.cellsHeld = 65536

/-- Two tables that read alike at every key. -/
def Table.alike {α : Type} (a b : Table α) : Prop := ∀ k, Table.get? a k = Table.get? b k

/-- Nothing stands between a record and its event ring: no partner is mirrored to, nothing is gated, write credit is
present, FATAL is not latched, and the ring is enabled (R48, R61, R265, R339). -/
def Engine.ringOpen (e : Engine) (ring : Nat) : Prop :=
  e.mirrors = false ∧ e.hru.gated = [] ∧ e.hru.credit = true ∧ e.err.fatal = false ∧ (e.evt ring).enabled = true

/-- The event ring of a descriptor's acknowledgement. -/
def Engine.ackRingOf (e : Engine) (d : Staged) : Nat := (e.sub d.ring).ackRing

/-- The 256 bits of a record in its slot: its body, its type and the ring's phase (R48). -/
def Engine.recordWord (e : Engine) (x : EventRecord) : BitVec 256 :=
  BitVec.ofNat 256 (x.body.toNat + (place x.rtype 0 4 + place (bit (e.evt x.ring).phase) 31 1) * 2 ^ 224)

/-- A record stands in the next slot of its event ring among what engine t has written (R48). -/
def Engine.wrote (e t : Engine) (x : EventRecord) : Prop :=
  Output.hostRecord x.ring (e.evt x.ring).tail (e.recordWord x) ∈ t.out

/-- The ring, slot and bits of an output that is a record of an event ring. -/
def Output.record? : Output → Option (Nat × Nat × BitVec 256)
  | .hostRecord r i w => some (r, i, w)
  | _ => none

/-- The j-th record from now on of an event ring: its slot, and its bits with the phase that the wraps before it leave (R48). -/
def Engine.recordAt (e : Engine) (k j : Nat) (x : EventRecord) : Nat × Nat × BitVec 256 :=
  let r := e.evt k
  (k, (r.tail + j) % r.size,
    BitVec.ofNat 256 (x.body.toNat + (place x.rtype 0 4 + place (bit (r.phase != decide ((r.tail + j) / r.size % 2 = 1))) 31 1) * 2 ^ 224))

/-- The acknowledgement of a descriptor with a status and its QUERY_BYTES, as engine e numbers the step (Table 2.8). -/
def Engine.ackRecord (e : Engine) (d : Staged) (status qbytes : Nat) : EventRecord :=
  { ring := e.ackRingOf d, rtype := 1,
    body := ackBytes (d.handle (e.sub d.ring).v2) d.slot d.ring (d.tag (e.sub d.ring).v2) status d.opcode e.stepNo qbytes }

/-- Engine t has acknowledged a descriptor that engine e held: its record is written, its staging slot returned and its place in the
ring no longer outstanding; an ORDERED descriptor behind it that has failed already may be acknowledged with it (R49, R55). -/
def Engine.acked (e t : Engine) (d : Staged) (status qbytes : Nat) : Prop :=
  e.wrote t (e.ackRecord d status qbytes) ∧ t.staged? d.ring d.pos = none ∧
    (t.sub d.ring).unacked.Sublist ((e.sub d.ring).unacked.erase d.pos)

/-- The k-th descriptor of a fetch return of ring i as it is staged at a time in µs, the first `own` of them with credits of the reserve
(R42, R47). -/
def Engine.stagedAs (e : Engine) (us i own k : Nat) (x : BitVec 512) : Staged :=
  let r := e.sub i
  { ring := i, slot := (r.head + k) % r.size, pos := r.consumed + k, desc := x, arrival := Table.getD r.arrivals ((r.head + k) % r.size) us,
    phase := .fresh, reads := .none, reserve := decide (k < own), turn := 0 }

/-- Engine t has answered a QUERY of engine e with an image of `size` bytes: all of it where the buffer has room, else the largest multiple
of 64 B that fits; it is acknowledged OK with the bytes written (R82). -/
def Engine.answersQuery (e t : Engine) (d : Staged) (size value : Nat) : Prop :=
  let n := if size ≤ d.f 32 0 32 then size else d.f 32 0 32 / 64 * 64
  e.acked t d Status.ok n ∧ t.rafter = e.rafter ∧ t.var = e.var ∧
    (n ≠ 0 → Output.hostWrite (BitVec.ofNat 64 (d.f 24 0 64)) n (BitVec.ofNat 2560 (value % 2 ^ (8 * n))) ∈ t.out)

/-- The next descriptor of a ring is d, with an opcode, and it passes checks 1 to 6 (R39, R41). -/
def Engine.decodes (e : Engine) (ring : Nat) (d : Staged) (opcode : Nat) : Prop :=
  e.nextDue ring = some d ∧ d.opcode = opcode ∧ e.checkUpTo6 d = none

/-- An engine that is in no group and shadows none: it manages itself (R239, R279). -/
def Engine.alone (e : Engine) : Prop := e.mdv.joined = false ∧ e.shadows = false

/-- A deadline of a running or restoring request has passed at the timebase's µs (R76, R77). -/
def State.overdue (s : State) (r : Rafter) (k : Nat) : Prop :=
  s.eng.flag Fld.sbCtlDeadlineEn = true ∧ (r.state.running = true ∨ r.state = .restoring) ∧
    r.passedDeadline (s.tb.count / 1000) = some k

/-- The engine that a decision on a request starts from: its tenant's bucket refilled, the request no longer a candidate
(R84, R93). -/
def State.deciding (s : State) (slot : Nat) (r : Rafter) : Engine :=
  let e : Engine := s.seen.refill r.tenant
  { e with adm := { e.adm with candidates := e.adm.candidates.filter (· != slot) } }

/-- A decision has ended a SUBMIT without admission: its slot and its staging slot are back, its generation unchanged (R63, R87). -/
def State.turnedDown (s : State) (t : Engine) (slot : Nat) (r : Rafter) : Prop :=
  t.req? slot = none ∧ t.staged? r.ackRing r.ackPos = none ∧ t.slots.freed = s.eng.slots.freed ++ [slot] ∧ t.gens = s.eng.gens ∧
    slot ∉ t.adm.candidates ∧ ∀ j, j ≠ slot → t.req? j = s.eng.req? j

/-- A decision has held a SUBMIT at a condition: it keeps its slot and its descriptor waits (R87, R88). -/
def State.heldAt (s : State) (t : Engine) (slot condition : Nat) : Prop :=
  (∃ h ∈ t.adm.held, h.slot = slot ∧ h.condition = condition) ∧ (t.req? slot).isSome = true ∧ slot ∉ t.adm.candidates ∧ t.hru = s.eng.hru

/-- A decision has admitted a SUBMIT: it is QUEUED, acknowledged, and counted against its tenant and its event ring (R87). -/
def State.admitted (s : State) (t : Engine) (slot : Nat) (r : Rafter) : Prop :=
  (∃ r', t.req? slot = some r' ∧ r'.state = .queued ∧ r'.admitStep = s.eng.stepNo ∧ r'.handle = r.handle) ∧
    t.staged? r.ackRing r.ackPos = none ∧ (t.tenant r.tenant).live = (s.eng.tenant r.tenant).live + 1 ∧
    (t.evt r.eventRing).bound = (s.eng.evt r.eventRing).bound + 1 ∧ t.count Cnt.admAdmitted = s.eng.count Cnt.admAdmitted + 1#32

/-- The running step can be replayed: it is in compute, uncommitted, not in the replay that vacated members, and its manifest is as
journalled (R136, R269, R271, R284). -/
def Engine.mayReplay (e : Engine) (y : Yealm) : Prop :=
  e.ylm.current = some y ∧ e.flt.commitStep < y.step ∧ e.flt.vacateReplay = false ∧ e.manifestSound y = true

/-- Engine t replays the step that engine e computed, after one STEP-class error: no course has begun, no context is open, and
emission is back at draw 0 (R269, R338). -/
def Engine.replays (e t : Engine) : Prop :=
  t.flt.replaying = true ∧ t.ylm.runs = [] ∧ t.smp.ctxs = [] ∧ t.smp.nextEmit = 0 ∧
    t.count Cnt.fltReplay = e.count Cnt.fltReplay + 1#32 ∧ t.count Cnt.errStep = e.count Cnt.errStep + 1#32

/-- Engine t has fixed the set of course k of the yealm in compute, no read having failed: the words that start it are on their way to the
tiles, and the members of its late segments are deferred in SERVICE, served from the base in another mode (R127, R129, R375). -/
def Engine.fixesSet (e t : Engine) (y : Yealm) (k : Nat) (c : Course) : Prop :=
  (t.run k).reported = true ∧ (t.run k).late = (e.run k).late ∧
    t.out = (c.startWords k (e.run k).late (y.mode != 0)).reverse.map Output.ctl ++ e.out ∧
    ∃ y', t.ylm.current = some y' ∧ y'.members = (y.members.zipIdx).map fun x =>
      if c.inSegments (e.run k).late x.2 x.1 && !x.1.failed then
        (if y.mode = 0 then { x.1 with deferred := true } else { x.1 with baseOnly := true }) else x.1

/-- Engine t has halted logical core l of engine e: it has no physical core, runs nothing, is chosen for nothing, and its spare is due at
the next boundary; the task it ran is READY, to start again at ENTRY with RESTARTED set (R297). -/
def Engine.haltsCore (e t : Engine) (l : Nat) : Prop :=
  (t.core l).phys = none ∧ (t.core l).running = none ∧ (t.core l).chosen = none ∧ (t.core l).retired = false ∧
    t.tsk.spareDue = e.tsk.spareDue ++ [(l, (e.core l).phys.getD 0)] ∧
    (∀ k r, (e.core l).running = some k → e.task? k = some r →
      ∃ r', t.task? k = some r' ∧ r'.state = .ready ∧ r'.started = false ∧ r'.restarted = true)

/-- No injection slot is armed for a detector (R351). -/
def Engine.unarmed (e : Engine) (det : Nat) : Prop := ∀ x ∈ e.err.slots, ¬(x.2.arm = true ∧ x.2.detector = det)

/-- A message's last frame passes the checks of its header and has the length of its type, and none is made to fail (R243, R351). -/
def Engine.takes (e : Engine) (f : Frame) (type : Nat) (body : List Byte) : Prop :=
  e.unarmed Det.frameCheck ∧ wholeFrame f type body = true ∧ e.frameOk f [e.epochFor f.step.toNat] = true

/-- A frame of a shadow's start passes the checks it is held to: all but those of step and epoch, from a neighbour or an engine below that is
no member yet (R243, log entry 45). -/
def Engine.takesEarly (e : Engine) (f : Frame) (type : Nat) (body : List Byte) : Prop :=
  e.unarmed Det.frameCheck ∧ wholeFrame f type body = true ∧ e.inGroup = true ∧ f.group.toNat = e.mdv.groupId ∧
    (f.src.toNat ∈ e.neighbours ∨ f.src.toNat ∈ e.below)

/-- A frame fails them, and none is made to fail. -/
def Engine.turnsAway (e : Engine) (f : Frame) (type : Nat) (body : List Byte) : Prop :=
  e.unarmed Det.frameCheck ∧ (wholeFrame f type body && e.frameOk f [e.epochFor f.step.toNat]) = false

/-- The frames of a message that engine e sends, as outputs, newest first (R240, R263). -/
def Engine.frames (e : Engine) (type dst step : Nat) (body : List Byte) : List Output :=
  (({ e with out := [] } : Engine).send type dst step body).out

/-- Engine t has put every frame of a message of engine e on its links. -/
def Engine.sends (e t : Engine) (type dst step : Nat) (body : List Byte) : Prop := ∀ o ∈ e.frames type dst step body, o ∈ t.out

/-- An engine that sends: joined and not fenced (R254). -/
def Engine.speaks (e : Engine) : Prop := e.mdv.joined = true ∧ e.mdv.fenced = false

/-- A discarded frame is counted, and nothing of the group, the step, the requests or the outputs changes (R243). -/
def Engine.discards (e t : Engine) : Prop :=
  t.count Cnt.mdvMsgDiscard = e.count Cnt.mdvMsgDiscard + 1#32 ∧ t.mdv = e.mdv ∧ t.ylm = e.ylm ∧ t.smp = e.smp ∧ t.flt = e.flt ∧
    t.rafter = e.rafter ∧ t.out = e.out

/-- The numbers on a free list, head first: those never used, then those freed (R64). -/
def FreeList.listing (f : FreeList) : List Nat := List.range' f.fresh (f.limit - f.fresh) ++ f.freed

end Sys2Proof.Machine
end

