-- ==== Sys2Proof/Certificates/Slice0/Obligations.lean ====
section
/-!
DEFINITION. Certificates/Slice0/Obligations.lean: the statements for the provers. A clause "the command completes" says
that exec answers a next state, and what that state holds, under hypotheses on the state and the operands alone.
-/

open Sys2Proof Sys2Proof.Machine

/-! ### The block as a machine -/

/-- For every command c and state s, a step of s with c at the front of its queue is exec of c on s with the queue's
rest. The queue is the model's; the spec's crossings are first in, first out. (R8, R16) -/
def Obligations.StepTakesTheFrontCommand : Prop :=
  ∀ (c : Instr) (s : State) (rest : List Instr),
    step { s with pending := c :: rest } = exec c { s with pending := rest }

/-- The model's choice (log entries 3 and 4): on an empty queue a step delivers the oldest item that a crossing holds
into an island that runs again; with none to deliver it is one cycle of AO. The engine is then unchanged; with no
slew, no hold and no crystal offset in force the 64-bit copy advances by exactly 5 ns; while it holds, the count
does not move and the hold runs down by 5. A command from outside whose island does not run, or behind which items
wait, joins the end of its crossing and changes nothing else (shown for ADMISSION_OPEN, RING_ENABLE, KAT_COMMAND and
UNIT_PUSH). (R16, R356, R364, R379) -/
def Obligations.IdleStepAdvancesTheTimebase : Prop :=
  (∀ s : State, s.pending = [] → s.delivery = none → ∃ t, step s = .next t ∧ t.eng = s.eng ∧ t.pending = [] ∧
    t.crossing = s.crossing ∧ t.tb = s.tb.cycle s.eng.xtalEff) ∧
  (∀ s : State, s.pending = [] → s.delivery = none → s.tb.slew = 0 → s.tb.hold = 0 → s.eng.xtalEff = 0 → 0 ≤ s.tb.frac →
    s.tb.frac < 1000000000 →
    ∃ t, step s = .next t ∧ t.tb.count = (s.tb.count + 5) % 2 ^ 64 ∧ t.tb.slew = 0 ∧ t.tb.frac = s.tb.frac) ∧
  (∀ s : State, s.pending = [] → s.delivery = none → 0 < s.tb.hold →
    ∃ t, step s = .next t ∧ t.tb.count = s.tb.count ∧ t.tb.hold = s.tb.hold - 5) ∧
  (∀ (s : State) (c : Instr) (rest : List (Nat × Instr)), s.pending = [] → s.delivery = some (c, rest) →
    step s = keepCrossing rest (exec c { s with crossing := [] })) ∧
  (∀ (s : State) (isl : Nat) (c : Instr), ¬ s.receives isl →
    (c = .admissionOpen ∧ isl = Isl.sb ∨ (∃ ev i, c = .ringEnable ev i) ∧ isl = Isl.hi ∨ (∃ g, c = .katCommand g) ∧ isl = Isl.sp ∨
      (∃ q ws, c = .unitPush q ws) ∧ isl = Isl.bp) →
    exec c s = .next { s with crossing := s.crossing ++ [(isl, c)], eng := s.seen })

/-- For every command and state, exec answers a next state with the same queue: no command of the table stops, whatever
its operands. (R8, R12, R13, R287, R356, R389) -/
def Obligations.EveryCommandCompletes : Prop :=
  ∀ (c : Instr) (s : State), ∃ t, exec c s = .next t ∧ t.pending = s.pending

/-- When exec of any command other than TIMEBASE_STROBE and AO_RESET_ASSERT answers a next state, the timebase copy and
the queue are unchanged. (R364, R379) -/
def Obligations.OnlyStrobesAndResetMoveTheTimebase : Prop :=
  ∀ (c : Instr) (s t : State), (∀ n, c ≠ .timebaseStrobe n) → c ≠ .aoResetAssert → exec c s = .next t →
    t.tb = s.tb ∧ t.pending = s.pending

/-- From every state with a sound copy whose count is not within 8 ns of wrapping, whatever command stands at the front
of the queue, or none, or in a crossing, the next state's count is at least the count before, except for
AO_RESET_ASSERT, which restarts the copy at 0. So no deadline that has passed becomes unpassed. (R364) -/
def Obligations.TimebaseNeverRunsBackward : Prop :=
  ∀ s t : State, s.tb.sound → s.tb.count + 8 ≤ 2 ^ 64 → step s = .next t → (∀ rest, s.pending ≠ .aoResetAssert :: rest) →
    (∀ x ∈ s.crossing, x.2 ≠ .aoResetAssert) → s.tb.count ≤ t.tb.count

/-- For every state whose timebase copy carries less than 1 ns of correction, has at most 20 ns to slew and slews
nothing while it holds, every step that answers a next state leaves the copy so. The bound of 20 ns is R364's; the
fractional accumulator's range is the model's. (R364) -/
def Obligations.TimebaseStaysSound : Prop :=
  ∀ s t : State, s.tb.sound → step s = .next t → t.tb.sound

/-- The invariant of TimebaseStaysSound holds in the state after reset, whose count is 0. (R364) -/
def Obligations.TimebaseSoundAtReset : Prop :=
  State.reset.tb.sound ∧ State.reset.tb.count = 0

/-! ### Resets, fuses and self-test -/

/-- AO_RESET_ASSERT leaves every register, counter and unit of the engine as reset gives them, with PHASE 0 and the log
pointer 0, empties the crossings and restarts the timebase: of the engine only the bytes of the log region and the
pins stay (ske_rst_req is dropped). AO_RESET_RELEASE from reset leaves it and shows PHASE 1. MAIN_RESET_ASSERT
empties the requests, rings, queues and tasks, drops ske_rst_req, keeps the log, the error unit and the calibration
values, and releases every leave grant. MAIN_RESET_RELEASE with the fuses loaded and AO running ends the main reset
with PHASE 2 and takes the host link. (R366, R379, R380, R381, R382, R393) -/
def Obligations.ResetsAndTheirReleases : Prop :=
  (∀ s : State, ∃ t, exec .aoResetAssert s = .next t ∧ t.tb = Timebase.reset ∧ t.pending = s.pending ∧ t.crossing = [] ∧
    t.eng = { Engine.reset with taken := s.eng.taken, mem := s.eng.mem, glb := { Glb.reset with mainReset := s.eng.glb.mainReset },
                                hru := { Hru.reset with link := s.eng.hru.link }, out := t.eng.out } ∧
    t.eng.glb.phase = 0 ∧ t.eng.evr.wrPtr = 0 ∧
    t.eng.out = if s.eng.glb.rstReq then .rstReq false :: s.eng.out else s.eng.out) ∧
  (∀ s : State, s.eng.glb.aoReset = true →
    exec .aoResetRelease s =
      .next { s with eng := { s.seen with glb := { s.eng.glb with aoReset := false, phase := 1 } } }) ∧
  (∀ s : State, ∃ t, exec .mainResetAssert s = .next t ∧ t.tb = s.tb ∧ t.eng.rafter = [] ∧ t.eng.hru.subs = [] ∧
    t.eng.hru.evts = [] ∧ t.eng.bpl = Engine.reset.bpl ∧ t.eng.tsk.tasks = [] ∧ t.eng.mem = s.eng.mem ∧
    t.eng.evr = s.eng.evr ∧ t.eng.err = s.eng.err ∧ t.eng.cal = s.eng.cal ∧ t.eng.glb.mainReset = true ∧
    t.eng.glb.rstReq = false ∧ (∀ ch, (t.eng.channel ch).grants = [] ∧ (t.eng.channel ch).waiting = [] ∧
      (t.eng.channel ch).due = (s.eng.channel ch).due ++ (s.eng.channel ch).grants.map (·.tag))) ∧
  (∀ (s : State) (link : HostLink), s.eng.glb.mainReset = true → s.eng.glb.aoReset = false → s.eng.cal.loaded = true →
    ∃ t, exec (.mainResetRelease link) s = .next t ∧ t.eng.glb.mainReset = false ∧ t.eng.glb.phase = 2 ∧
      t.eng.hru.link = some link ∧ t.eng.regs = s.eng.regs ∧ t.eng.cal = s.eng.cal ∧
      (s.eng.cpc.running.getLsbD 0 = true → t.eng.glb.host = some link))

/-- While AO serves and no load has completed, FUSE_LOAD_DONE sets CAL_STAT.LOADED and FUSE_BAD when a word failed, and
loads each word's value or Table 16.3's fallback (shown for the crystal, the speed bin, the CRIT threshold and every
energy coefficient). FUSE_LOAD_TIMEOUT loads every fallback with FUSE_BAD set: bin 1,279, E_TILE and E_BIST 65,535,
the other coefficients 64, CRIT 800. After either, with CRIT at 80 or more, WARN and HOT in force lie below CRIT.
(R366, R371, R363) -/
def Obligations.FuseLoads : Prop :=
  (∀ (s : State) (m : FuseImage), s.serves Isl.ao → s.eng.cal.loaded = false →
    ∃ t, exec (.fuseLoadDone m) s = .next t ∧ t.eng.cal.loaded = true ∧
      t.eng.cal.fuseBad = ((fuseWords m).any fun w => !w.good) ∧
      t.eng.cal.xtal = toSigned 16 (if m.xtal.good then m.xtal.value else 0) ∧
      t.eng.cal.bin = (if m.bin.good then m.bin.value else 1279) % 2048 ∧
      t.eng.cal.crit = (if m.crit.good then m.crit.value else 800) % 2048 ∧
      (∀ i < 6, Table.getD t.eng.cal.energy i 0 =
        (if (fuseAt m.energy i).good then (fuseAt m.energy i).value else energyFallback i) % 65536) ∧
      (80 ≤ t.eng.cal.crit →
        t.eng.get Fld.cpcThermWarn < t.eng.cal.crit ∧ t.eng.get Fld.cpcThermHot < t.eng.cal.crit)) ∧
  (∀ s : State, s.serves Isl.ao → s.eng.cal.loaded = false →
    ∃ t, exec .fuseLoadTimeout s = .next t ∧ t.eng.cal.loaded = true ∧ t.eng.cal.fuseBad = true ∧
      t.eng.cal.bin = 1279 ∧ t.eng.cal.crit = 800 ∧ t.eng.cal.xtal = 0 ∧
      (List.range 6).map (fun i => Table.getD t.eng.cal.energy i 0) = [65535, 64, 64, 64, 64, 65535] ∧
      t.eng.get Fld.cpcThermWarn < 800 ∧ t.eng.get Fld.cpcThermHot < 800)

/-- With admission closed, every slot free, MODE TEST and no self-test running, BIST_REQUEST clears the results of the
last run and puts a request of class 5 on channel 1, channel 0 unchanged. BIST_END while a self-test holds its grant
sets BIST_DONE, latches GLB_BIST's fields and BIST_FAIL, and makes the grant's release due. (R382, R392, R358) -/
def Obligations.SelfTestCommands : Prop :=
  (∀ s : State, s.serves Isl.ao → s.eng.get Fld.admCtlOpen = 0 → s.eng.slots.count = 262144 →
    s.eng.get Fld.ylmCtlMode = 2 → s.eng.glb.bistBusy = false → s.eng.glb.mainReset = false →
    ∃ t, exec .bistRequest s = .next t ∧ t.eng.glb.bistBusy = true ∧ t.eng.glb.bistDone = false ∧
      t.eng.glb.fail = 0 ∧ t.eng.glb.repaired = 0 ∧ t.eng.channel false = s.eng.channel false ∧
      ∃ r : LeaveReq, (t.eng.channel true).waiting = (s.eng.channel true).waiting ++ [r] ∧ r.cls = 5 ∧
        r.for_ = .bist ∧ r.cred = s.eng.credits (s.eng.energy 5 * 1000000) ∧ t.eng.regs = s.eng.regs) ∧
  (∀ (s : State) (r : BistResult) (g : LeaveReq), s.serves Isl.ao → s.eng.glb.bistBusy = true →
    s.eng.cpc.ch1.grants = [g] → g.for_ = .bist →
    ∃ t, exec (.bistEnd r) s = .next t ∧ t.eng.glb = { s.eng.glb with
        bistBusy := false, bistDone := true, bistFail := r.fail != 0, fail := r.fail, repaired := r.repaired } ∧
      t.eng.cpc.ch1.grants = [] ∧ t.eng.cpc.ch1.due = s.eng.cpc.ch1.due ++ [g.tag] ∧ t.eng.cpc.ch0 = s.eng.cpc.ch0)

/-! ### Clocks, temperature and the timebase -/

/-- While AO serves: ISLAND_CLOCK_ENABLE of a value that stops no running island sets the running islands to the value
with CC and AO on. One that would stop an island while a request or open admission exists is ignored, the running
islands unchanged. CLOCK_MONITOR_WINDOW of a running island notes its frequency, and a deviation of more than 1 % is
FATAL: ERR_STAT.FATAL and the island's monitor bit are set and PHASE is 8. SENSOR_READ keeps the eight corrected
readings and the level of the hottest. OSC_TRIM_STEP moves the effective code one step towards a higher target that
the margin admits. REF_CLOCK_LOSS is FATAL and raises the chip-reset request outside a main reset. (R356, R357,
R363, R367, R371) -/
def Obligations.ClocksAndSensors : Prop :=
  (∀ (s : State) (v : BitVec 32), s.serves Isl.ao → s.eng.cpc.running &&& ~~~(v.setWidth 9 ||| 0x0A0#9) = 0#9 →
    ∃ t, exec (.islandClockEnable v) s = .next t ∧ t.eng.cpc = { s.eng.cpc with running := v.setWidth 9 ||| 0x0A0#9 } ∧
      t.eng.get Fld.cpcClkEnIslands = (v.setWidth 9 ||| 0x0A0#9).toNat) ∧
  (∀ (s : State) (v : BitVec 32), s.serves Isl.ao → s.eng.cpc.running &&& ~~~(v.setWidth 9 ||| 0x0A0#9) ≠ 0#9 →
    ¬(s.eng.get Fld.admCtlOpen = 0 ∧ s.eng.slots.count = 262144) →
    ∃ t, exec (.islandClockEnable v) s = .next t ∧ t.eng.cpc = s.eng.cpc ∧ t.eng.regs = s.eng.regs) ∧
  (∀ (s : State) (i : BitVec 4) (khz : BitVec 21), s.serves Isl.ao → s.eng.cpc.running.getLsbD i.toNat = true →
    ∃ t, exec (.clockMonitorWindow i khz) s = .next t ∧ Table.get? t.eng.cpc.freqs i.toNat = some khz.toNat ∧
      (offNominal i.toNat khz.toNat = true →
        t.eng.err.fatal = true ∧ t.eng.cpc.monFail.getLsbD i.toNat = true ∧ (s.eng.glb.phase ≠ 0 → t.eng.glb.phase = 8))) ∧
  (∀ (s : State) (l : List (BitVec 11)) (x : BitVec 11) (rest : List (BitVec 11)), s.serves Isl.ao → l = x :: rest →
    ∃ t, exec (.sensorRead l) s = .next t ∧
      t.eng.cpc.temps = ((List.range 8).zip l).map (fun (n, r) => (n, s.eng.corrected8 n r)) ∧
      t.eng.cpc.level = s.eng.levelAt (((t.eng.cpc.temps.drop 1).map (·.2)).foldl max (s.eng.corrected8 0 x))) ∧
  (∀ (s : State) (i : BitVec 4), s.serves Isl.ao → s.eng.cal.loaded = true → i.toNat < 9 →
    s.eng.oscEff i.toNat < s.eng.oscTarget i.toNat → s.eng.stepsOut i.toNat true = false →
    ∃ t, exec (.oscTrimStep i) s = .next t ∧ t.eng.oscEff i.toNat = s.eng.oscEff i.toNat + 1 ∧ t.eng.regs = s.eng.regs) ∧
  (∀ s : State, s.serves Isl.ao →
    ∃ t, exec .refClockLoss s = .next t ∧ t.eng.err.fatal = true ∧ t.eng.glb.rstReq = !s.eng.glb.mainReset)

/-- While AO serves, a strobe within CPC_TB_STEP_MAX clears TB_LOST and the run of rejections and slews by a difference
of at most 20 ns, steps forward to a chip count further ahead, and holds for one further behind; a difference above
CPC_TB_STEP_MAX after fewer than two rejections is rejected and counted, the copy unchanged; after two it is
accepted. TIMEBASE_TIMEOUT sets TB_LOST and counts a CORRECTED-class error. T0_PORT_TIMEOUT of a word that a region
holds, outside the log region and with no step in compute, counts a CORRECTED-class error (the class there is log
entry 12's choice); of reserved space it changes nothing. (R19, R364, R365, R371) -/
def Obligations.StrobesAndTimebaseLoss : Prop :=
  (∀ (s : State) (c : BitVec 64), s.serves Isl.ao →
    s.tb.distance c.toNat ≤ s.eng.get Fld.cpcTbStepMaxUs * 1000 ∨ 2 ≤ s.eng.cpc.tbRejects →
    ∃ t, exec (.timebaseStrobe c) s = .next t ∧ t.eng.cpc = { s.eng.cpc with tbRejects := 0, tbLost := false } ∧
      t.tb.frac = s.tb.frac ∧
      (if s.tb.count ≤ c.toNat ∧ c.toNat - s.tb.count ≤ 20 then
         t.tb.count = s.tb.count ∧ t.tb.slew = ((c.toNat - s.tb.count : Nat) : Int) ∧ t.tb.hold = 0
       else if s.tb.count < c.toNat then t.tb.count = c.toNat ∧ t.tb.slew = 0 ∧ t.tb.hold = 0
       else if s.tb.count - c.toNat ≤ 20 then
         t.tb.count = s.tb.count ∧ t.tb.slew = -((s.tb.count - c.toNat : Nat) : Int) ∧ t.tb.hold = 0
       else t.tb.count = s.tb.count ∧ t.tb.slew = 0 ∧ t.tb.hold = s.tb.count - c.toNat)) ∧
  (∀ (s : State) (c : BitVec 64), s.serves Isl.ao →
    s.eng.get Fld.cpcTbStepMaxUs * 1000 < s.tb.distance c.toNat → s.eng.cpc.tbRejects < 2 →
    ∃ t, exec (.timebaseStrobe c) s = .next t ∧ t.tb = s.tb ∧
      t.eng.cpc = { s.eng.cpc with tbRejects := s.eng.cpc.tbRejects + 1 } ∧
      t.eng.count Cnt.cpcTbReject = s.eng.count Cnt.cpcTbReject + 1#32) ∧
  (∀ s : State, s.serves Isl.ao →
    ∃ t, exec .timebaseTimeout s = .next t ∧ t.eng.cpc = { s.eng.cpc with tbLost := true } ∧
      t.eng.err.sequence = s.eng.err.sequence + 1 ∧ t.eng.count Cnt.errCorr = s.eng.count Cnt.errCorr + 1#32 ∧
      t.eng.regs = s.eng.regs ∧ t.eng.rafter = s.eng.rafter) ∧
  (∀ (s : State) (a : BitVec 31) (r : T0Region) (base : Nat), s.serves Isl.ao → s.eng.ylm.current = none →
    regionAt a.toNat = some (r, base) → r ≠ .reserved → r ≠ .eavesLog →
    ∃ t, exec (.t0PortTimeout a) s = .next t ∧ t.eng.err.sequence = s.eng.err.sequence + 1 ∧
      t.eng.count Cnt.errCorr = s.eng.count Cnt.errCorr + 1#32 ∧ t.eng.regs = s.eng.regs ∧ t.eng.rafter = s.eng.rafter) ∧
  (∀ (s : State) (a : BitVec 31), s.serves Isl.ao → (∀ r base, regionAt a.toNat = some (r, base) → r = .reserved) →
    exec (.t0PortTimeout a) s = .next { s with eng := s.seen })

/-! ### Leave -/

/-- While AO serves, for either channel: LEAVE_REQUEST on a free channel with no release due drives the request that
goes next, with its CRED, CLS and TAG. LEAVE_RELEASE on a free channel drives the oldest release due, with CLS 0 and
CRED 0. LEAVE_RESPONSE to a release ends it and drops REQ; a grant of self-test is held; a refusal whose OFFER is
not below CRED is counted inconsistent and the request waits to ask again; one below it is counted and, for a LOAD,
a MIRROR or a BIST, waits to ask again. RSP_LOW ends the closing of the handshake. LEAVE_RETRY makes the longest
waiting refused request due again. LEAVE_TIMEOUT of a release frees the channel and counts an error; of such a
request it also puts it back to ask again. The other channel is unchanged in every one of these. (R358, R360, R361,
R362) -/
def Obligations.LeaveHandshakes : Prop :=
  (∀ (s : State) (ch : Bool) (r : LeaveReq), s.serves Isl.ao → (s.eng.channel ch).free = true →
    (s.eng.channel ch).due = [] → (s.eng.channel ch).next = some r →
    ∃ t, exec (.leaveRequest ch) s = .next t ∧
      t.eng.channel ch = { s.eng.channel ch with waiting := (s.eng.channel ch).waiting.erase r, asking := some r } ∧
      t.eng.channel (!ch) = s.eng.channel (!ch) ∧ t.eng.out = .leaveReq ch r.cred r.cls r.tag :: s.eng.out ∧
      t.eng.count Cnt.cpcLeaveReq = s.eng.count Cnt.cpcLeaveReq + 1#32) ∧
  (∀ (s : State) (ch : Bool) (tag : Nat) (due : List Nat), s.serves Isl.ao → (s.eng.channel ch).free = true →
    (s.eng.channel ch).due = tag :: due →
    ∃ t, exec (.leaveRelease ch) s = .next t ∧
      t.eng.channel ch = { s.eng.channel ch with due := due, releasing := some tag } ∧
      t.eng.channel (!ch) = s.eng.channel (!ch) ∧ t.eng.out = .leaveReq ch 0 0 tag :: s.eng.out) ∧
  (∀ (s : State) (ch ok : Bool) (offer : BitVec 32) (tag : Nat), s.serves Isl.ao → (s.eng.channel ch).releasing = some tag →
    ∃ t, exec (.leaveResponse ch ok offer) s = .next t ∧
      t.eng.channel ch = { s.eng.channel ch with releasing := none, closing := true } ∧
      t.eng.channel (!ch) = s.eng.channel (!ch) ∧ t.eng.out = .leaveDrop ch :: s.eng.out) ∧
  (∀ (s : State) (ch : Bool) (offer : BitVec 32) (r : LeaveReq), s.serves Isl.ao → (s.eng.channel ch).releasing = none →
    (s.eng.channel ch).asking = some r → r.for_ = .bist → s.eng.glb.mainReset = false →
    ∃ t, exec (.leaveResponse ch true offer) s = .next t ∧
      t.eng.channel ch = { s.eng.channel ch with
        asking := none, closing := true, grants := (s.eng.channel ch).grants ++ [r] } ∧
      t.eng.channel (!ch) = s.eng.channel (!ch) ∧
      t.eng.count Cnt.cpcLeaveGrant = s.eng.count Cnt.cpcLeaveGrant + 1#32) ∧
  (∀ (s : State) (ch : Bool) (offer : BitVec 32) (r : LeaveReq), s.serves Isl.ao → (s.eng.channel ch).releasing = none →
    (s.eng.channel ch).asking = some r → r.for_ = .load ∨ r.for_ = .mirror ∨ r.for_ = .bist ∨ r.cred ≤ offer.toNat → s.eng.glb.mainReset = false →
    ∃ t, exec (.leaveResponse ch false offer) s = .next t ∧
      t.eng.channel ch = { s.eng.channel ch with
        asking := none, closing := true, waiting := { r with retry := true } :: (s.eng.channel ch).waiting } ∧
      t.eng.channel (!ch) = s.eng.channel (!ch) ∧
      (if offer.toNat < r.cred then t.eng.count Cnt.cpcLeaveRefuse = s.eng.count Cnt.cpcLeaveRefuse + 1#32
       else t.eng.count Cnt.cpcLeaveBad = s.eng.count Cnt.cpcLeaveBad + 1#32)) ∧
  (∀ (s : State) (ch : Bool), s.serves Isl.ao →
    ∃ t, exec (.rspLow ch) s = .next t ∧ t.eng.channel ch = { s.eng.channel ch with closing := false } ∧
      t.eng.channel (!ch) = s.eng.channel (!ch) ∧ t.eng.out = s.eng.out) ∧
  (∀ (s : State) (ch : Bool) (a b : List LeaveReq) (r : LeaveReq), s.serves Isl.ao →
    (s.eng.channel ch).waiting = a ++ r :: b → (∀ x ∈ a, x.retry = false) → r.retry = true →
    ∃ t, exec (.leaveRetry ch) s = .next t ∧
      t.eng.channel ch = { s.eng.channel ch with waiting := a ++ { r with retry := false } :: b } ∧
      t.eng.channel (!ch) = s.eng.channel (!ch)) ∧
  (∀ (s : State) (ch : Bool) (tag : Nat), s.serves Isl.ao → (s.eng.channel ch).releasing = some tag →
    ∃ t, exec (.leaveTimeout ch) s = .next t ∧ t.eng.channel ch = { s.eng.channel ch with releasing := none } ∧
      t.eng.channel (!ch) = s.eng.channel (!ch) ∧ t.eng.err.sequence = s.eng.err.sequence + 1 ∧
      t.eng.count Cnt.cpcLeaveTo = s.eng.count Cnt.cpcLeaveTo + 1#32) ∧
  (∀ (s : State) (ch : Bool) (r : LeaveReq), s.serves Isl.ao → (s.eng.channel ch).releasing = none →
    (s.eng.channel ch).asking = some r → r.for_ = .load ∨ r.for_ = .mirror ∨ r.for_ = .bist → s.eng.glb.mainReset = false →
    ∃ t, exec (.leaveTimeout ch) s = .next t ∧
      t.eng.channel ch = { s.eng.channel ch with asking := none, waiting := { r with retry := true } :: (s.eng.channel ch).waiting } ∧
      t.eng.channel (!ch) = s.eng.channel (!ch) ∧ t.eng.err.sequence = s.eng.err.sequence + 1 ∧
      t.eng.count Cnt.cpcLeaveTo = s.eng.count Cnt.cpcLeaveTo + 1#32)

/-! ### The eaves log -/

/-- While AO serves and the log is enabled, not frozen, not full and its memory has not failed, LOG_RECORD with no
dropped records, a code that flood control never folds or with flood control off, and a payload of at most 64 words
that fits below the record limit, writes the record stamped with OP_TIME and the power cycle at the write pointer,
advances the pointer by 20 + 4 words, counts one record, and changes no other byte of the region. (R320, R321, R323,
R325) -/
def Obligations.LogRecordReachesTheRegion : Prop :=
  ∀ (s : State) (code : BitVec 16) (inj : Bool) (isl : BitVec 4) (pl : List (BitVec 32)),
    s.serves Isl.ao → Memory.wf s.eng.mem = true → s.eng.evr.enabled = true → s.eng.evr.frozen = false →
    s.eng.evr.full = false → s.eng.evr.memFail = false →
    exemptCode code.toNat = true ∨ s.eng.get Fld.evrCtlFlood = 0 → pl.length ≤ 64 →
    s.eng.evr.wrPtr + 20 + 4 * pl.length ≤ 0x03FFFFE0 →
    ∃ t, exec (.logRecord code inj isl pl 0) s = .next t ∧
      t.eng.evr.wrPtr = s.eng.evr.wrPtr + 20 + 4 * pl.length ∧
      t.eng.count Cnt.evrRec = s.eng.count Cnt.evrRec + 1#32 ∧
      (∀ i, (h : i < (s.eng.logStamp code.toNat inj isl.toNat pl).bytes.length) →
        Memory.read t.eng.mem (s.eng.evr.wrPtr + i) = (s.eng.logStamp code.toNat inj isl.toNat pl).bytes[i]) ∧
      (∀ a, a < s.eng.evr.wrPtr ∨ s.eng.evr.wrPtr + 20 + 4 * pl.length ≤ a →
        Memory.read t.eng.mem a = Memory.read s.eng.mem a) ∧
      t.eng.rafter = s.eng.rafter ∧ t.eng.regs = s.eng.regs ∧ t.eng.err = s.eng.err

/-- While AO serves: LOG_ENABLE of a disabled log enables it and counts a power cycle modulo 2^24. FREEZE sets FROZEN
and its register field and touches nothing else. UNFREEZE, and FREEZE_TIMEOUT while frozen, of an enabled log end
the freeze with no record left in staging and the count of records lost from staging back at 0. CLEAR while frozen
restarts the log: LOG_START's 28 bytes stand at its start with the pointer behind them, no other byte of the region
changes, FULL and MEM_FAIL are clear and LOST is 0. EMERG_CLEAR empties the emergency area alone. FW_COMMIT of a
firmware code with every word staged consumes the staged words and logs the record from island CC. A record that
arrives while frozen and does not fold is held in staging with the pointer and the region unchanged. (R323, R324,
R326, R328, R329, R331) -/
def Obligations.LogModesAndCommands : Prop :=
  (∀ s : State, s.serves Isl.ao → s.eng.evr.enabled = false →
    ∃ t, exec .logEnable s = .next t ∧ t.eng.evr.enabled = true ∧ t.eng.evr.cycles = (s.eng.evr.cycles + 1) % 2 ^ 24 ∧
      t.eng.regs = s.eng.regs ∧ t.eng.rafter = s.eng.rafter) ∧
  (∀ s : State, s.serves Isl.ao →
    exec .freeze s = .next { s with eng :=
      { s.seen.put Fld.evrCtlFreeze 1 with evr := { s.eng.evr with frozen := true } } }) ∧
  (∀ s : State, s.serves Isl.ao → s.eng.evr.enabled = true → s.eng.evr.frozen = true →
    ∃ t, exec .unfreeze s = .next t ∧ t.eng.evr.frozen = false ∧ t.eng.evr.staging = [] ∧ t.eng.evr.stagingLost = 0 ∧
      t.eng.get Fld.evrCtlFreeze = 0) ∧
  (∀ s : State, s.serves Isl.ao → s.eng.evr.enabled = true → s.eng.evr.frozen = true →
    ∃ t, exec .freezeTimeout s = .next t ∧ t.eng.evr.frozen = false ∧ t.eng.evr.staging = [] ∧
      t.eng.evr.stagingLost = 0 ∧ t.eng.get Fld.evrCtlFreeze = 0) ∧
  (∀ s : State, s.serves Isl.ao → s.eng.evr.frozen = true → Memory.wf s.eng.mem = true →
    ∃ t, exec .clear s = .next t ∧ t.eng.evr.wrPtr = 28 ∧ t.eng.evr.full = false ∧ t.eng.evr.memFail = false ∧
      (∀ a, (h : a < s.seen.logStart.bytes.length) → a < 28 ∧ Memory.read t.eng.mem a = s.seen.logStart.bytes[a]) ∧
      t.eng.count Cnt.evrLost = 0#32 ∧ (∀ a, 28 ≤ a → Memory.read t.eng.mem a = Memory.read s.eng.mem a)) ∧
  (∀ s : State, s.serves Isl.ao →
    exec .emergClear s = .next { s with eng := { s.seen with evr := { s.eng.evr with emerg := [] } } }) ∧
  (∀ (s : State) (v : BitVec 32), s.serves Isl.ao → bitsOf v.toNat 12 4 = 15 →
    bitsOf v.toNat 16 7 ≤ 64 → bitsOf v.toNat 16 7 = s.eng.evr.fwWords.length →
    exec (.fwCommit v) s = .next { s with eng :=
      (({ s.seen with evr := { s.eng.evr with fwWords := [] } } : Engine).logArrive (bitsOf v.toNat 0 16) false Isl.cc
        s.eng.evr.fwWords) }) ∧
  (∀ (s : State) (code : BitVec 16) (inj : Bool) (isl : BitVec 4) (pl : List (BitVec 32)), s.serves Isl.ao →
    s.eng.evr.enabled = true → s.eng.evr.frozen = true → exemptCode code.toNat = true →
    s.eng.evr.stagedBytes + (s.eng.logStamp code.toNat inj isl.toNat pl).size ≤ 65536 →
    ∃ t, exec (.logRecord code inj isl pl 0) s = .next t ∧
      t.eng.evr.staging = s.eng.evr.staging ++ [s.eng.logStamp code.toNat inj isl.toNat pl] ∧
      t.eng.evr.wrPtr = s.eng.evr.wrPtr ∧ t.eng.mem = s.eng.mem)

/-- While AO serves: OPTIME_TICK advances OP_TIME by one, modulo 2^32, and changes nothing else. RATE_SWEEP under RATE
visits one entry, moves to the next code, and drops the entry unless it counts the window in progress.
LOG_WRITE_FAIL and LOG_WRITE_TIMEOUT of the last write set MEM_FAIL, take the write pointer back to where it stood,
report an error, and write a MEM_FAIL entry to the emergency area when it has room. (R324, R327, R331) -/
def Obligations.LogUpkeepAndFailure : Prop :=
  (∀ s : State, s.serves Isl.ao →
    exec .optimeTick s = .next { s with eng :=
      { s.seen with evr := { s.eng.evr with opTime := (s.eng.evr.opTime + 1) % 2 ^ 32 } } }) ∧
  (∀ s : State, s.serves Isl.ao → s.eng.get Fld.evrCtlFlood = 2 →
    ∃ t, exec .rateSweep s = .next t ∧ t.eng.evr.sweepAt = (s.eng.evr.sweepAt + 1) % 65536 ∧
      t.eng.evr.rates = (if (Table.getD s.eng.evr.rates s.eng.evr.sweepAt (0, 0)).2 = s.seen.logWindow % 16 then s.eng.evr.rates
        else Table.del s.eng.evr.rates s.eng.evr.sweepAt)) ∧
  (∀ (s : State) (c : Instr) (back at_ : Nat) (counted : Bool), c = .logWriteFail ∨ c = .logWriteTimeout →
    s.serves Isl.ao → s.eng.evr.lastWrite = some (back, at_, counted) →
    ∃ t, exec c s = .next t ∧ t.eng.evr.memFail = true ∧ t.eng.evr.wrPtr = back ∧
      t.eng.err.sequence = s.eng.err.sequence + 1 ∧
      (s.eng.evr.emergFail = false → s.eng.evr.emerg.length < 64 →
        ∃ x ∈ t.eng.evr.emerg, x.code = 0x0806 ∧ x.word = BitVec.ofNat 32 at_))

/-- For each of these commands, from any state whose log region is in canonical form (addresses strictly rising, no
listed byte equal to what an unlisted byte reads as), the next state's region is canonical too: LOG_RECORD,
FW_COMMIT, LOG_ENABLE, FREEZE, UNFREEZE, FREEZE_TIMEOUT, CLEAR, EMERG_CLEAR, RATE_SWEEP, OPTIME_TICK,
LOG_WRITE_FAIL, LOG_WRITE_TIMEOUT; ERR_CTX_DONE, HANDLING_TIMEOUT, ERROR_RING_ENABLE, UNLOCK_CHALLENGE, UNLOCK,
LOCK; and TIMEBASE_TIMEOUT. A core's store to shared firmware memory, or to its own local memory, keeps that memory
canonical in the same way, and after reset all are. The form is the model's own (plain data), the bytes are the
spec's. (R320, R323, R328, R331, R348, R352) -/
def Obligations.LogRegionStaysCanonical : Prop :=
  (∀ (s t : State) (c : Instr),
    (∃ code i isl pl d, c = .logRecord code i isl pl d) ∨ (∃ v, c = .fwCommit v) ∨ (∃ v, c = .unlock v) ∨
      c ∈ [.logEnable, .freeze, .unfreeze, .freezeTimeout, .clear, .emergClear, .rateSweep, .optimeTick, .logWriteFail, .logWriteTimeout,
           .errCtxDone, .handlingTimeout, .errorRingEnable, .unlockChallenge, .lock, .timebaseTimeout] →
    Memory.wf s.eng.mem = true → exec c s = .next t → Memory.wf t.eng.mem = true) ∧
  (∀ (s t : State) (a : BitVec 32) (size : Nat) (v : BitVec 64) (l p o : Nat), 0x200000 ≤ a.toNat → accessPoint a.toNat = (l, p) →
    exec (.registerWrite a size v) s = .next t →
    (coreArea p size = some (.shared, o) → Memory.wf s.eng.tsk.shared = true → Memory.wf t.eng.tsk.shared = true) ∧
    (coreArea p size = some (.own, o) → Memory.wf (Table.getD s.eng.tsk.locals l []) = true →
      Memory.wf (Table.getD t.eng.tsk.locals l []) = true)) ∧
  Memory.wf State.reset.eng.mem = true ∧ Memory.wf State.reset.eng.tsk.shared = true ∧ State.reset.eng.tsk.locals = []

/-! ### Errors -/

/-- While AO serves and no injection slot is armed: an ERROR_REPORT of class CORRECTED from a detector of a unit other
than ECC and the pool counts it, takes the next sequence number and leaves requests and registers alone. One of
class REQUEST naming a live request in QUEUED, PREFILL or DECODE makes that request RETIRING with reason ERROR and
TIER_FAILED, or MALFORMED for a range check. One of class STEP replays a step in compute that can be replayed, and
with no step in compute leaves the requests. One of class FATAL sets ERR_STAT.FATAL and STOPPED and raises the
chip-reset request. An ERR_RAISE of class CORRECTED, not from a handler, is counted and takes a sequence number.
(R335, R336, R337, R338, R339, R345) -/
def Obligations.ErrorReportsByClass : Prop :=
  (∀ (s : State) (det : BitVec 16) (isl : BitVec 4) (h : BitVec 32) (d : BitVec 64), s.serves Isl.ao → s.eng.err.slots = [] →
    bitsOf det.toNat 8 4 ≠ 1 → det.toNat ≠ Det.contextParity → det.toNat ≠ Det.emergReadback →
    ∃ t, exec (.errorReport det 0 isl h d) s = .next t ∧ t.eng.err.sequence = s.eng.err.sequence + 1 ∧
      t.eng.count Cnt.errCorr = s.eng.count Cnt.errCorr + 1#32 ∧ t.eng.rafter = s.eng.rafter ∧ t.eng.regs = s.eng.regs ∧
      t.eng.err.fatal = s.eng.err.fatal) ∧
  (∀ (s : State) (det : BitVec 16) (isl : BitVec 4) (h : BitVec 32) (d : BitVec 64) (r : Rafter), s.serves Isl.ao →
    s.eng.err.slots = [] → bitsOf det.toNat 8 4 ≠ 1 → det.toNat ≠ Det.contextParity → det.toNat ≠ Det.emergReadback →
    s.eng.lookup h = some r → r.state.running = true →
    ∃ t r', exec (.errorReport det 1 isl h d) s = .next t ∧ t.eng.req? (slotOf h) = some r' ∧ r'.state = .retiring ∧
      r'.pendReason = Reason.error ∧
      r'.pendStatus = (if bitsOf det.toNat 8 4 = 3 then Status.malformed else Status.tierFailed) ∧
      t.eng.err.sequence = s.eng.err.sequence + 1) ∧
  (∀ (s : State) (det : BitVec 16) (isl : BitVec 4) (h : BitVec 32) (d : BitVec 64), s.serves Isl.ao → s.eng.err.slots = [] →
    det.toNat / 4096 ≠ 12 → det.toNat ≠ Det.contextParity → det.toNat ≠ Det.emergReadback →
    (∀ y, s.eng.mayReplay y →
      ∃ t, exec (.errorReport det 2 isl h d) s = .next t ∧ s.eng.replays t.eng ∧ t.eng.err.sequence = s.eng.err.sequence + 1) ∧
    (s.eng.ylm.current = none →
      ∃ t, exec (.errorReport det 2 isl h d) s = .next t ∧ t.eng.rafter = s.eng.rafter ∧
        t.eng.count Cnt.errStep = s.eng.count Cnt.errStep + 1#32 ∧ t.eng.err.sequence = s.eng.err.sequence + 1)) ∧
  (∀ (s : State) (det : BitVec 16) (isl : BitVec 4) (h : BitVec 32) (d : BitVec 64), s.serves Isl.ao → s.eng.err.slots = [] →
    bitsOf det.toNat 8 4 ≠ 1 → det.toNat ≠ Det.contextParity → det.toNat ≠ Det.emergReadback → s.eng.glb.phase ≠ 0 →
    ∃ t, exec (.errorReport det 3 isl h d) s = .next t ∧ t.eng.err.fatal = true ∧ t.eng.glb.phase = 8 ∧
      t.eng.glb.rstReq = !s.eng.glb.mainReset ∧ t.eng.err.sequence = s.eng.err.sequence + 1) ∧
  (∀ (s : State) (v : BitVec 32), s.serves Isl.ao → bitsOf v.toNat 0 3 = 0 →
    ∃ t, exec (.errRaise v) s = .next t ∧ t.eng.err.sequence = s.eng.err.sequence + 1 ∧ t.eng.rafter = s.eng.rafter ∧
      t.eng.count Cnt.errCorr = s.eng.count Cnt.errCorr + 1#32)

/-- While AO serves: ERR_CTX_DONE with a suspended error makes it active again with the queue unchanged; with none it
makes the first pending error active; with none of either the context is empty. HANDLING_TIMEOUT while an error is
active is FATAL and takes a new sequence number; with none active it changes nothing. ERROR_RING_ENABLE from
disabled starts the ring at tail 0 with phase 1, not full, head 0. (R342, R348, R349) -/
def Obligations.ErrorHandlingOrder : Prop :=
  (∀ (s : State) (a x : ErrEntry), s.serves Isl.ao → s.eng.err.active = some a → s.eng.err.suspended = some x →
    ∃ t, exec .errCtxDone s = .next t ∧ t.eng.err = { s.eng.err with active := some x, suspended := none }) ∧
  (∀ (s : State) (a p : ErrEntry) (ps : List ErrEntry), s.serves Isl.ao → s.eng.err.active = some a →
    s.eng.err.suspended = none → s.eng.err.pending = p :: ps →
    ∃ t, exec .errCtxDone s = .next t ∧ t.eng.err = { s.eng.err with active := some p, pending := ps }) ∧
  (∀ (s : State) (a : ErrEntry), s.serves Isl.ao → s.eng.err.active = some a → s.eng.err.suspended = none →
    s.eng.err.pending = [] →
    ∃ t, exec .errCtxDone s = .next t ∧ t.eng.err = { s.eng.err with active := none } ∧ t.eng.tsk = s.eng.tsk) ∧
  (∀ (s : State) (a : ErrEntry), s.serves Isl.ao → s.eng.err.active = some a →
    ∃ t, exec .handlingTimeout s = .next t ∧ t.eng.err.fatal = true ∧ t.eng.err.sequence = s.eng.err.sequence + 1 ∧
      t.eng.glb.rstReq = !s.eng.glb.mainReset) ∧
  (∀ s : State, s.serves Isl.ao → s.eng.err.active = none → exec .handlingTimeout s = .next { s with eng := s.seen }) ∧
  (∀ s : State, s.serves Isl.ao → s.eng.get Fld.errCtlRingEn = 0 →
    ∃ t, exec .errorRingEnable s = .next t ∧ t.eng.err = { s.eng.err with ringTail := 0, phase := true, ringFull := false } ∧
      t.eng.get Fld.errCtlRingEn = 1 ∧ t.eng.get Fld.errRingHeadIndex = 0)

/-- While AO serves: UNLOCK_CHALLENGE returns the next free value and opens a window that ends 1 ms from now, the lock
unchanged. UNLOCK inside the window with the challenge XOR 0x5E4B_0302 unlocks and uses the challenge up. A non-zero
value that is wrong, late or without a challenge leaves the lock as it was and reports a register-access error.
LOCK, and UNLOCK with 0, lock the engine, drop the challenge and disarm every injection slot. (R352, R353) -/
def Obligations.UnlockProtocol : Prop :=
  (∀ s : State, s.serves Isl.ao →
    exec .unlockChallenge s = .next { s with eng := { s.seen with
      taken := s.eng.taken + 1,
      err := { s.eng.err with challenge := some ((Config.freeValue s.eng.taken).setWidth 32, s.tb.count + 1000000) },
      out := .regData (BitVec.ofNat 64 ((Config.freeValue s.eng.taken).setWidth 32 : BitVec 32).toNat) :: s.eng.out } }) ∧
  (∀ (s : State) (c : BitVec 32) (limit : Nat), s.serves Isl.ao → s.eng.err.challenge = some (c, limit) →
    s.tb.count ≤ limit → c ^^^ 0x5E4B0302#32 ≠ 0#32 →
    ∃ t, exec (.unlock (c ^^^ 0x5E4B0302#32)) s = .next t ∧
      t.eng.err = { s.eng.err with unlocked := true, challenge := none }) ∧
  (∀ (s : State) (v : BitVec 32), s.serves Isl.ao → v ≠ 0#32 →
    (∀ c limit, s.eng.err.challenge = some (c, limit) → limit < s.tb.count ∨ v ≠ c ^^^ 0x5E4B0302#32) →
    ∃ t, exec (.unlock v) s = .next t ∧ t.eng.err.unlocked = s.eng.err.unlocked ∧
      t.eng.err.sequence = s.eng.err.sequence + 1 ∧ t.eng.count Cnt.errCorr = s.eng.count Cnt.errCorr + 1#32) ∧
  (∀ s : State, s.serves Isl.ao →
    ∃ t, exec .lock s = .next t ∧ t.eng.err.unlocked = false ∧ t.eng.err.challenge = none ∧
      (∀ x ∈ t.eng.err.slots, x.2.arm = false) ∧ t.eng.err.slots.length = s.eng.err.slots.length) ∧
  (∀ s : State, s.serves Isl.ao → exec (.unlock 0#32) s = exec .lock s)

/-! ### Control cores -/

/-- While CC serves and the core is in service. SELF returns the running task, the core and the task's CANCEL_SEEN and
RESTARTED, and clears those two. TAKE returns LATCHED AND MASK and clears exactly those flags. WAIT ends the run
with MASK and MODE set: READY if the condition holds already, else WAITING. YIELD ends the run with the task READY
now. CHECKIN restarts the core's watchdog at the present count. STAGE replaces one 64-bit word of the core's staging
record. NEXT with no dispatch pending returns 0xFFF. (R290, R292, R293, R295, R297, R308) -/
def Obligations.TaskPortLoadsAndStores : Prop :=
  (∀ (s : State) (c : BitVec 4) (k : Nat) (r : Task), s.serves Isl.cc → (s.eng.core c.toNat).inService = true →
    (s.eng.core c.toNat).running = some k → s.eng.task? k = some r →
    ∃ t, exec (.selfLoad c) s = .next t ∧ t.eng.task? k = some { r with cancelSeen := false, restarted := false } ∧
      t.eng.tsk.cores = s.eng.tsk.cores ∧
      t.eng.out = .portData c.toNat (BitVec.ofNat 64 (place k 0 12 + place c.toNat 16 4 + place (bit r.cancelSeen) 20 1 +
        place (bit r.restarted) 21 1)) :: s.eng.out) ∧
  (∀ (s : State) (c : BitVec 4) (k : Nat) (r : Task), s.serves Isl.cc → (s.eng.core c.toNat).inService = true →
    (s.eng.core c.toNat).running = some k → s.eng.task? k = some r →
    ∃ t, exec (.takeLoad c) s = .next t ∧ t.eng.task? k = some { r with latched := r.latched &&& ~~~r.mask } ∧
      t.eng.tsk.cores = s.eng.tsk.cores ∧
      t.eng.out = .portData c.toNat (BitVec.ofNat 64 (r.latched &&& r.mask).toNat) :: s.eng.out) ∧
  (∀ (s : State) (c : BitVec 4) (v : BitVec 64) (k : Nat) (r : Task), s.serves Isl.cc →
    (s.eng.core c.toNat).inService = true → (s.eng.core c.toNat).running = some k → s.eng.task? k = some r →
    r.destroyPending = false →
    ∃ t r', exec (.waitStore c v) s = .next t ∧ (t.eng.core c.toNat).running = none ∧ t.eng.task? k = some r' ∧
      r'.mask = v.setWidth 32 ∧ r'.all = v.getLsbD 32 ∧ r'.latched = r.latched ∧
      r'.state = (if ({ r with mask := v.setWidth 32, all := v.getLsbD 32 } : Task).satisfied then .ready else .waiting)) ∧
  (∀ (s : State) (c : BitVec 4) (k : Nat) (r : Task), s.serves Isl.cc → (s.eng.core c.toNat).inService = true →
    (s.eng.core c.toNat).running = some k → s.eng.task? k = some r → r.destroyPending = false →
    ∃ t, exec (.yieldStore c) s = .next t ∧ (t.eng.core c.toNat).running = none ∧
      t.eng.task? k = some (r.toReady s.tb.count)) ∧
  (∀ (s : State) (c : BitVec 4), s.serves Isl.cc → (s.eng.core c.toNat).inService = true →
    ∃ t, exec (.checkin c) s = .next t ∧ t.eng.core c.toNat = { s.eng.core c.toNat with wdFrom := s.tb.count } ∧
      t.eng.tsk.tasks = s.eng.tsk.tasks) ∧
  (∀ (s : State) (c : BitVec 4) (w : BitVec 3) (v : BitVec 64), s.serves Isl.cc → (s.eng.core c.toNat).inService = true →
    ∃ t, exec (.stageStore c w v) s = .next t ∧
      bitsOf (t.eng.stageOf c).toNat (64 * w.toNat) 64 = v.toNat ∧ (∀ i < 8, i ≠ w.toNat →
        bitsOf (t.eng.stageOf c).toNat (64 * i) 64 = bitsOf (s.eng.stageOf c).toNat (64 * i) 64) ∧
      (∀ c', c' ≠ c → t.eng.stageOf c' = s.eng.stageOf c')) ∧
  (∀ (s : State) (c : BitVec 4), s.serves Isl.cc → (s.eng.core c.toNat).inService = true →
    (s.eng.core c.toNat).chosen = none →
    ∃ t, exec (.nextLoad c) s = .next t ∧ t.eng.core c.toNat = { s.eng.core c.toNat with irq := false } ∧
      t.eng.out = .portData c.toNat 0xFFF#64 :: s.eng.out ∧ t.eng.tsk.tasks = s.eng.tsk.tasks)

/-- While CC serves. CREATE on a FREE record makes it WAITING with ENTRY, ARG, CTX, priority and affinity from the
staged record and nothing latched; on a live one it reports a register-access error and changes no task. POST to a
waiting task whose condition the flag completes makes it READY with the flag latched. CANCEL of a running task
clears its latched flags and sets CANCEL_SEEN; of any other it clears them and leaves the task WAITING, chosen for
no core. DESTROY of a waiting task frees it; of a running one it is marked. PRIO of a task not running sets its
priority and affinity. DISPATCH with one READY task without affinity or home, and core 0 idle, dispatches it to core
0 with its interrupt raised; NEXT then makes it RUNNING there. SCHEDULER_ENABLE sets TSK_CTL.ENABLE alone. (R291,
R292, R293, R294, R295, R301) -/
def Obligations.TaskRecordsAndDispatch : Prop :=
  (∀ (s : State) (c : BitVec 4) (v : BitVec 64), s.serves Isl.cc → (s.eng.core c.toNat).inService = true →
    s.eng.task? (portTask v) = none →
    ∃ t r, exec (.createStore c v) s = .next t ∧ t.eng.task? (portTask v) = some r ∧ r.state = .waiting ∧ r.latched = 0#32 ∧
      r.entry = (s.eng.stageOf c).setWidth 64 ∧ r.arg = ((s.eng.stageOf c) >>> 64).setWidth 64 ∧
      r.ctx = ((s.eng.stageOf c) >>> 128).setWidth 64 ∧
      r.priority = f512 (s.eng.stageOf c) 33 0 5 ∧ r.affinity.toNat = f512 (s.eng.stageOf c) 34 0 16 ∧
      (∀ j, j ≠ portTask v → t.eng.task? j = s.eng.task? j)) ∧
  (∀ (s : State) (c : BitVec 4) (v : BitVec 64) (r : Task), s.serves Isl.cc → (s.eng.core c.toNat).inService = true →
    s.eng.task? (portTask v) = some r → s.eng.get Fld.errNotifyEn = 0 →
    ∃ t, exec (.createStore c v) s = .next t ∧ t.eng.tsk.tasks = s.eng.tsk.tasks ∧
      t.eng.err.sequence = s.eng.err.sequence + 1) ∧
  (∀ (s : State) (v : BitVec 64) (r : Task), s.serves Isl.cc → s.eng.task? (portTask v) = some r → r.state = .waiting →
    ({ r with latched := r.latched ||| BitVec.twoPow 32 (bitsOf v.toNat 16 5) } : Task).satisfied = true →
    ∃ t r', exec (.postStore v) s = .next t ∧ t.eng.task? (portTask v) = some r' ∧ r'.state = .ready ∧
      r'.latched = r.latched ||| BitVec.twoPow 32 (bitsOf v.toNat 16 5) ∧ r'.readyTime = s.tb.count ∧
      (∀ j, j ≠ portTask v → t.eng.task? j = s.eng.task? j)) ∧
  (∀ (s : State) (v : BitVec 64) (r : Task), s.serves Isl.cc → s.eng.task? (portTask v) = some r → r.state = .running →
    ∃ t, exec (.cancelTask v) s = .next t ∧ t.eng.tsk.cores = s.eng.tsk.cores ∧
      t.eng.task? (portTask v) = some { r with latched := 0, cancelSeen := true }) ∧
  (∀ (s : State) (v : BitVec 64) (r : Task), s.serves Isl.cc → s.eng.task? (portTask v) = some r → r.state ≠ .running →
    ∃ t, exec (.cancelTask v) s = .next t ∧ t.eng.task? (portTask v) = some { r with latched := 0, state := .waiting } ∧
      (∀ l < 16, (∀ l' < 16, (s.eng.core l').chosen = some (portTask v) → l' = l) →
        (t.eng.core l).chosen ≠ some (portTask v)) ∧
      (∀ l, (t.eng.core l).running = (s.eng.core l).running)) ∧
  (∀ (s : State) (v : BitVec 64) (r : Task), s.serves Isl.cc → s.eng.task? (portTask v) = some r →
    ∃ t, exec (.destroyStore v) s = .next t ∧
      (r.state = .waiting → t.eng.task? (portTask v) = none) ∧
      (r.state = .running → t.eng.task? (portTask v) = some { r with destroyPending := true })) ∧
  (∀ (s : State) (v : BitVec 64) (r : Task), s.serves Isl.cc → s.eng.task? (portTask v) = some r → r.state ≠ .running →
    ∃ t, exec (.prioStore v) s = .next t ∧ t.eng.tsk.cores = s.eng.tsk.cores ∧ t.eng.task? (portTask v) = some { r with
      priority := bitsOf v.toNat 16 5, affinity := BitVec.ofNat 16 (bitsOf v.toNat 48 16) }) ∧
  (∀ (s : State) (k : Nat) (r : Task), s.serves Isl.cc → s.eng.get Fld.tskCtlEnable = 1 → s.eng.readyTasks = [(k, r)] →
    r.affinity = 0#16 → r.lastCore = none → (s.eng.core 0).isIdle = true → (s.eng.core 0).stalled = none →
    ∃ t, exec .dispatch s = .next t ∧ (t.eng.core 0).chosen = some k ∧ (t.eng.core 0).irq = true ∧
      t.eng.out = .coreIrq 0 :: s.eng.out ∧ t.eng.tsk.tasks = s.eng.tsk.tasks) ∧
  (∀ (s : State) (c : BitVec 4) (k : Nat) (r : Task), s.serves Isl.cc → (s.eng.core c.toNat).inService = true →
    (s.eng.core c.toNat).chosen = some k → (s.eng.core c.toNat).running = none → s.eng.task? k = some r →
    ∃ t r', exec (.nextLoad c) s = .next t ∧ (t.eng.core c.toNat).running = some k ∧ (t.eng.core c.toNat).chosen = none ∧
      (t.eng.core c.toNat).wdFrom = s.tb.count ∧ t.eng.task? k = some r' ∧ r'.state = .running ∧ r'.latched = r.latched ∧
      r'.lastCore = some c.toNat ∧ t.eng.out = .portData c.toNat (BitVec.ofNat 64 k) :: s.eng.out) ∧
  (∀ s : State, s.receives Isl.cc → exec .schedulerEnable s = .next { s with eng := s.seen.put Fld.tskCtlEnable 1 })

/-- While CC serves and a core is in service, not running the error handler's task during an active error, and a spare
core is not yet spoken for. CORE_FAULT leaves the core without a physical core, running and chosen for nothing, its
spare due at the next boundary; the task it ran is READY, to start again at ENTRY with RESTARTED set.
CORE_WATCHDOG_EXPIRY after TSK_CORE_WD of running, and PREEMPT_TIMEOUT after TSK_PREEMPT_TO with a dispatch pending,
complete and halt the core the same way; before that they change nothing. DONE by the task that owns a busy flow,
with no load stalled, ends the flow and its item in service; DONE of any other flow reports a register-access error
and leaves the flows alone. (R295, R296, R297) -/
def Obligations.CoreFaultsRestartTheTask : Prop :=
  (∀ (s : State) (c : BitVec 4), s.serves Isl.cc → (s.eng.core c.toNat).inService = true → s.eng.err.active = none →
    s.eng.tsk.spareDue.length < s.eng.tsk.sparePhys.length → ∃ t, exec (.coreFault c) s = .next t ∧ s.eng.haltsCore t.eng c.toNat) ∧
  (∀ (s : State) (c : BitVec 4), s.serves Isl.cc → (s.eng.core c.toNat).inService = true → s.eng.err.active = none →
    s.eng.tsk.spareDue.length < s.eng.tsk.sparePhys.length → (s.eng.core c.toNat).running.isSome = true →
    (s.eng.core c.toNat).wdFrom + s.eng.get Fld.tskCoreWdUs * 1000 ≤ s.tb.count →
    ∃ t, exec (.coreWatchdogExpiry c) s = .next t ∧ s.eng.haltsCore t.eng c.toNat) ∧
  (∀ (s : State) (c : BitVec 4), s.serves Isl.cc → (s.eng.core c.toNat).inService = true → s.eng.err.active = none →
    s.eng.tsk.spareDue.length < s.eng.tsk.sparePhys.length → (s.eng.core c.toNat).chosen.isSome = true →
    (s.eng.core c.toNat).irqAt + s.eng.get Fld.tskPreemptToUs * 1000 ≤ s.tb.count →
    ∃ t, exec (.preemptTimeout c) s = .next t ∧ s.eng.haltsCore t.eng c.toNat) ∧
  (∀ (s : State) (c : BitVec 4), s.serves Isl.cc →
    (s.tb.count < (s.eng.core c.toNat).wdFrom + s.eng.get Fld.tskCoreWdUs * 1000 →
      exec (.coreWatchdogExpiry c) s = .next { s with eng := s.seen }) ∧
    (s.tb.count < (s.eng.core c.toNat).irqAt + s.eng.get Fld.tskPreemptToUs * 1000 →
      exec (.preemptTimeout c) s = .next { s with eng := s.seen })) ∧
  (∀ (s : State) (c : BitVec 4) (v : BitVec 64) (k : Nat), s.serves Isl.cc → (s.eng.core c.toNat).inService = true →
    (s.eng.core c.toNat).running = some k → (s.eng.flow (bitsOf v.toNat 0 19)).busy = true →
    (s.eng.flow (bitsOf v.toNat 0 19)).owner = k → (∀ l < 16, (s.eng.core l).stalled = none) →
    ∃ t, exec (.doneStore c v) s = .next t ∧ (t.eng.flow (bitsOf v.toNat 0 19)).busy = false ∧
      Table.get? t.eng.tsk.service (bitsOf v.toNat 0 19) = none ∧
      (∀ f, f ≠ bitsOf v.toNat 0 19 → t.eng.flow f = s.eng.flow f)) ∧
  (∀ (s : State) (c : BitVec 4) (v : BitVec 64), s.serves Isl.cc → (s.eng.core c.toNat).inService = true →
    (s.eng.flow (bitsOf v.toNat 0 19)).busy = false ∨
      (s.eng.core c.toNat).running ≠ some (s.eng.flow (bitsOf v.toNat 0 19)).owner →
    ∃ t, exec (.doneStore c v) s = .next t ∧ t.eng.tsk.flows = s.eng.tsk.flows ∧
      t.eng.err.sequence = s.eng.err.sequence + 1)

/-! ### The batten pool -/

/-- While BP serves and BPL_CTL.ENABLE is set. UNIT_PUSH to an enabled queue that accepts it, with no load stalled,
appends its first 7 words; to one that is not failed and does not accept, it is dropped and the queue ends in a gap
marker. PUSH by a core in service appends the words it staged. STAGE_PAYLOAD_WORD stages one of words 0 to 6. POP of
an enabled, non-atomic, unbroken queue takes the oldest item, or gap marker, and answers with its words; of an empty
one it stalls the load in class DATA and answers VALID 0 in the others. POP_STALL_TIMEOUT of a load held for
BPL_STALL_TO releases the core with STALL_TO set. (R304, R305, R308, R309, R310, R311, R312) -/
def Obligations.BattenPushesAndPops : Prop :=
  (∀ (s : State) (q : BitVec 10) (ws : List (BitVec 64)), s.receives Isl.bp → s.eng.get Fld.bplCtlEnable = 1 →
    q.toNat < 128 → ws ≠ [] → (s.eng.queue q.toNat).enabled = true → (∀ l < 16, (s.eng.core l).stalled = none) →
    (s.eng.accepts (s.eng.queue q.toNat) = true →
      ∃ t, exec (.unitPush q ws) s = .next t ∧
        (t.eng.queue q.toNat).items = (s.eng.queue q.toNat).items ++ [.words (ws.take 7) false] ∧
        (∀ j, j ≠ q.toNat → t.eng.queue j = s.eng.queue j)) ∧
    (s.eng.accepts (s.eng.queue q.toNat) = false → (s.eng.queue q.toNat).failed = none →
      ∃ t, exec (.unitPush q ws) s = .next t ∧ (t.eng.queue q.toNat).items = dropItem (s.eng.queue q.toNat).items ∧
        (t.eng.queue q.toNat).gapTail = true ∧ (t.eng.queue q.toNat).drops = (s.eng.queue q.toNat).drops + 1 ∧
        (∀ j, j ≠ q.toNat → t.eng.queue j = s.eng.queue j))) ∧
  (∀ (s : State) (c : BitVec 4) (q : BitVec 10) (v : BitVec 64), s.receives Isl.bp → s.eng.get Fld.bplCtlEnable = 1 →
    (s.eng.core c.toNat).inService = true → (s.eng.queue q.toNat).enabled = true → bitsOf v.toNat 0 3 ≠ 0 →
    s.eng.accepts (s.eng.queue q.toNat) = true → (∀ l < 16, (s.eng.core l).stalled = none) →
    ∃ t, exec (.push c q v) s = .next t ∧ (t.eng.queue q.toNat).items = (s.eng.queue q.toNat).items ++
        [.words ((List.range (bitsOf v.toNat 0 3)).map fun i => Table.getD (s.eng.view c.toNat q.toNat).staged i 0) false] ∧
      (∀ j, j ≠ q.toNat → t.eng.queue j = s.eng.queue j)) ∧
  (∀ (s : State) (c : BitVec 4) (q : BitVec 10) (w : BitVec 3) (v : BitVec 64), s.receives Isl.bp →
    s.eng.get Fld.bplCtlEnable = 1 → (s.eng.core c.toNat).inService = true → w.toNat < 7 →
    ∃ t, exec (.stagePayloadWord c q w v) s = .next t ∧
      Table.get? (t.eng.view c.toNat q.toNat).staged w.toNat = some v ∧ t.eng.bpl.queues = s.eng.bpl.queues ∧
      (∀ i, i ≠ w.toNat → Table.get? (t.eng.view c.toNat q.toNat).staged i =
        Table.get? (s.eng.view c.toNat q.toNat).staged i)) ∧
  (∀ (s : State) (c : BitVec 4) (q : BitVec 10) (x : Item) (rest : List Item), s.receives Isl.bp →
    s.eng.get Fld.bplCtlEnable = 1 → (s.eng.core c.toNat).inService = true → (s.eng.queue q.toNat).enabled = true →
    (s.eng.queue q.toNat).atomic = false → (s.eng.queue q.toNat).failed = none →
    (s.eng.queue q.toNat).items = x :: rest →
    ∃ t, exec (.pop c q) s = .next t ∧ (t.eng.queue q.toNat).items = rest ∧ (t.eng.view c.toNat q.toNat).popped = x.payload ∧
      t.eng.out.head? = some (.portData c.toNat
        (BitVec.ofNat 64 (popStatus x.payload.length true x.isGap false x.bad false false false))) ∧
      (∀ j, j ≠ q.toNat → t.eng.queue j = s.eng.queue j)) ∧
  (∀ (s : State) (c : BitVec 4) (q : BitVec 10), s.receives Isl.bp → s.eng.get Fld.bplCtlEnable = 1 →
    (s.eng.core c.toNat).inService = true → (s.eng.queue q.toNat).enabled = true → (s.eng.queue q.toNat).atomic = false →
    (s.eng.queue q.toNat).failed = none → (s.eng.queue q.toNat).items = [] →
    ∃ t, exec (.pop c q) s = .next t ∧ t.eng.bpl.queues = s.eng.bpl.queues ∧
      ((s.eng.queue q.toNat).cls = 0 → (t.eng.core c.toNat).stalled = some (q.toNat, s.tb.count) ∧ t.eng.out = s.eng.out) ∧
      ((s.eng.queue q.toNat).cls ≠ 0 → t.eng.out = .portData c.toNat 0#64 :: s.eng.out ∧
        t.eng.tsk.cores = s.eng.tsk.cores)) ∧
  (∀ (s : State) (c : BitVec 4) (q k : Nat), s.serves Isl.bp → (s.eng.core c.toNat).stalled = some (q, k) →
    k + s.eng.get Fld.bplStallToUs * 1000 ≤ s.tb.count →
    ∃ t, exec (.popStallTimeout c) s = .next t ∧ (t.eng.core c.toNat).stalled = none ∧
      t.eng.out = .portData c.toNat 0x80#64 :: s.eng.out ∧ t.eng.bpl.queues = s.eng.bpl.queues ∧
      t.eng.count Cnt.bplStallTo = s.eng.count Cnt.bplStallTo + 1#32)

/-- While BP serves, with queue i selected. QUEUE_ENABLE of a disabled queue with a legal class, a free cell and its
watermarks in order enables it empty, with the class and options written, and takes one cell from the pool. With no
free cell it is ignored and reported. QUEUE_DISABLE of an enabled queue without items, none of whose items waits for
re-delivery, disables it and returns its cell. QUEUE_RESET of an enabled queue that no load waits for leaves it one
gap marker of unknown count, unbroken; the one load that waits for it takes that marker. (R306, R312, R313, R317,
R319) -/
def Obligations.QueueSetUpAndReset : Prop :=
  (∀ (s : State) (v : BitVec 32) (q : Queue), s.receives Isl.bp → s.eng.queue (s.eng.get Fld.bplQSelQueue) = q → q.enabled = false →
    bitsOf (setBits v.toNat 0 1 1) 1 2 ≠ 3 → 0 < s.eng.bpl.free → q.low < q.high → q.high ≤ q.maxDepth →
    ∃ t, exec (.queueEnable v) s = .next t ∧ t.eng.queue (s.eng.get Fld.bplQSelQueue) =
        { q.withCfg (setBits v.toNat 0 1 1) with enabled := true, items := [], drops := 0, failed := none, xoff := false } ∧
      t.eng.bpl.free = s.eng.bpl.free - 1 ∧
      (∀ j, j ≠ s.eng.get Fld.bplQSelQueue → t.eng.queue j = s.eng.queue j)) ∧
  (∀ (s : State) (v : BitVec 32), s.receives Isl.bp → (s.eng.queue (s.eng.get Fld.bplQSelQueue)).enabled = false →
    s.eng.bpl.free = 0 →
    ∃ t, exec (.queueEnable v) s = .next t ∧ t.eng.bpl = s.eng.bpl ∧ t.eng.err.sequence = s.eng.err.sequence + 1) ∧
  (∀ s : State, s.receives Isl.bp → (s.eng.queue (s.eng.get Fld.bplQSelQueue)).enabled = true →
    (s.eng.queue (s.eng.get Fld.bplQSelQueue)).items = [] → (∀ x ∈ s.eng.tsk.redeliver, x.2.1 ≠ s.eng.get Fld.bplQSelQueue) →
    ∃ t, exec .queueDisable s = .next t ∧ (t.eng.queue (s.eng.get Fld.bplQSelQueue)).enabled = false ∧
      t.eng.bpl.free = s.eng.bpl.free + 1) ∧
  (∀ s : State, s.receives Isl.bp → (s.eng.queue (s.eng.get Fld.bplQSelQueue)).enabled = true →
    (∀ l < 16, ∀ x, (s.eng.core l).stalled = some x → x.1 ≠ s.eng.get Fld.bplQSelQueue) →
    ∃ t, exec .queueReset s = .next t ∧ (t.eng.queue (s.eng.get Fld.bplQSelQueue)).items = [.gap 0xFFFFFFFF] ∧
      (t.eng.queue (s.eng.get Fld.bplQSelQueue)).failed = none ∧
      (t.eng.queue (s.eng.get Fld.bplQSelQueue)).enabled = true) ∧
  (∀ (s : State) (c k : Nat), s.receives Isl.bp → (s.eng.queue (s.eng.get Fld.bplQSelQueue)).enabled = true → c < 16 →
    (s.eng.core c).stalled = some (s.eng.get Fld.bplQSelQueue, k) → (∀ l < 16, l ≠ c → (s.eng.core l).stalled = none) →
    ∃ t, exec .queueReset s = .next t ∧ (t.eng.queue (s.eng.get Fld.bplQSelQueue)).items = [] ∧
      (t.eng.core c).stalled = none ∧ (t.eng.view c (s.eng.get Fld.bplQSelQueue)).popped = [0xFFFFFFFF#64] ∧
      t.eng.out.head? = some (.portData c (BitVec.ofNat 64 (popStatus 1 true true false false false false false))))

/-- From every state whose queue table is in order and whose 65,536 cells are all either free or held by an enabled
queue (one an item, and its reserve unless its tail is a gap marker), each of UNIT_PUSH, PUSH, POP,
POP_STALL_TIMEOUT, STAGE_PAYLOAD_WORD, QUEUE_ENABLE, QUEUE_DISABLE, QUEUE_RESET and DONE leaves them so accounted
for. (R303, R306, R309, R310, R311, R317, R319) -/
def Obligations.BattenCellsAreConserved : Prop :=
  ∀ (s t : State) (c : Instr),
    (∃ q ws, c = .unitPush q ws) ∨ (∃ k q v, c = .push k q v) ∨ (∃ k q, c = .pop k q) ∨ (∃ k, c = .popStallTimeout k) ∨
      (∃ k q w v, c = .stagePayloadWord k q w v) ∨ (∃ v, c = .queueEnable v) ∨ c = .queueDisable ∨ c = .queueReset ∨
      (∃ k v, c = .doneStore k v) →
    s.eng.poolSound → exec c s = .next t → t.eng.poolSound

/-- The state after reset satisfies the accounting of BattenCellsAreConserved, with all 65,536 cells free. (R303, R306) -/
def Obligations.BattenCellsAtReset : Prop :=
  State.reset.eng.poolSound ∧ State.reset.eng.bpl.free = 65536

/-! ### Host rings -/

/-- While HI serves. RING_ENABLE of a ring outside the table gives reason 6 and reads nothing; of a ring neither enabled
nor busy it reads its 64 B entry at the table address, and HRU_RING_STAT shows that ring not enabled with no reason.
A good entry enables a submission ring at head and tail 0 (no takeover left it elsewhere) and an event ring at tail
0, host head 0, phase 1, and one with a coherent doorbell starts with a read of its watch line (the model's reading,
log entry 32); a read that failed, or timed out, gives reason 7 and leaves every ring as it was. RING_DISABLE of an
enabled submission ring disables it and discards its doorbell value; of an event ring with live requests bound it is
refused with reason 8; of one without, it is disabled. (R32, R35) -/
def Obligations.RingContextCommands : Prop :=
  (∀ (s : State) (event : Bool) (i : BitVec 12), s.receives Isl.hi → s.eng.ringCount event ≤ i.toNat →
    ∃ t, exec (.ringEnable event i) s = .next t ∧ t.eng.hru.statReason = 6 ∧ t.eng.hru.statEnabled = false ∧
      t.eng.hru.statRing = ringCode event i.toNat ∧ t.eng.hru.subs = s.eng.hru.subs ∧ t.eng.hru.evts = s.eng.hru.evts ∧
      t.eng.hru.ctxReads = s.eng.hru.ctxReads ∧ t.eng.out = s.eng.out) ∧
  (∀ (s : State) (event : Bool) (i : BitVec 12), s.receives Isl.hi → i.toNat < s.eng.ringCount event →
    s.eng.ringOn event i.toNat = false → s.eng.ringBusy event i.toNat = false →
    ∃ t, exec (.ringEnable event i) s = .next t ∧ t.eng.hru.ctxReads = s.eng.hru.ctxReads ++ [(event, i.toNat)] ∧
      t.eng.hru.statEnabled = false ∧ t.eng.hru.statReason = 0 ∧ t.eng.hru.statRing = ringCode event i.toNat ∧
      t.eng.out = .hostRead (BitVec.ofNat 64 (s.eng.contextAddr event i.toNat)) 64 :: s.eng.out ∧
      t.eng.hru.subs = s.eng.hru.subs ∧ t.eng.hru.evts = s.eng.hru.evts) ∧
  (∀ (s : State) (i : BitVec 12) (x : BitVec 512), s.receives Isl.hi → s.eng.hru.ctxReads.contains (false, i.toNat) = true →
    s.eng.contextReason false i.toNat x = 0 → Table.get? s.eng.flt.takeHeads i.toNat = none →
    ∃ t, exec (.ringContextReadDone false i true x) s = .next t ∧ (t.eng.sub i.toNat).enabled = true ∧
      (t.eng.sub i.toNat).ctx = x ∧ (t.eng.sub i.toNat).head = 0 ∧ (t.eng.sub i.toNat).tail = 0 ∧
      t.eng.hru.statReason = 0 ∧ t.eng.hru.statEnabled = true ∧ (false, i.toNat) ∉ t.eng.hru.ctxReads ∧
      t.eng.hru.evts = s.eng.hru.evts ∧ (∀ j, j ≠ i.toNat → t.eng.sub j = s.eng.sub j) ∧
      (f512 x 9 1 1 = 1 → .hostRead (BitVec.ofNat 64 (f512 x 24 0 64)) 64 ∈ t.eng.out ∧ (false, i.toNat) ∈ t.eng.hru.watches)) ∧
  (∀ (s : State) (i : BitVec 12) (x : BitVec 512), s.receives Isl.hi → s.eng.hru.ctxReads.contains (true, i.toNat) = true →
    s.eng.contextReason true i.toNat x = 0 → Table.get? s.eng.flt.takeTails i.toNat = none →
    ∃ t, exec (.ringContextReadDone true i true x) s = .next t ∧ (t.eng.evt i.toNat).enabled = true ∧
      (t.eng.evt i.toNat).ctx = x ∧ (t.eng.evt i.toNat).tail = 0 ∧ (t.eng.evt i.toNat).hostHead = 0 ∧
      (t.eng.evt i.toNat).phase = true ∧ t.eng.hru.statReason = 0 ∧ t.eng.hru.statEnabled = true ∧
      t.eng.hru.subs = s.eng.hru.subs ∧ (∀ j, j ≠ i.toNat → t.eng.evt j = s.eng.evt j) ∧
      (f512 x 9 1 1 = 1 → .hostRead (BitVec.ofNat 64 (f512 x 24 0 64)) 64 ∈ t.eng.out ∧ (true, i.toNat) ∈ t.eng.hru.watches)) ∧
  (∀ (s : State) (event : Bool) (i : BitVec 12) (x : BitVec 512), s.receives Isl.hi →
    s.eng.hru.ctxReads.contains (event, i.toNat) = true →
    ∃ t, exec (.ringContextReadDone event i false x) s = .next t ∧ t.eng.hru.statReason = 7 ∧ t.eng.hru.statEnabled = false ∧
      t.eng.hru.statRing = ringCode event i.toNat ∧ (event, i.toNat) ∉ t.eng.hru.ctxReads ∧
      t.eng.hru.subs = s.eng.hru.subs ∧ t.eng.hru.evts = s.eng.hru.evts) ∧
  (∀ (s : State) (event : Bool) (i : BitVec 12), s.serves Isl.hi → s.eng.hru.ctxReads.contains (event, i.toNat) = true →
    ∃ t, exec (.ringContextReadTimeout event i) s = .next t ∧ t.eng.hru.statReason = 7 ∧ t.eng.hru.statEnabled = false ∧
      t.eng.hru.statRing = ringCode event i.toNat ∧ (event, i.toNat) ∉ t.eng.hru.ctxReads ∧
      t.eng.hru.subs = s.eng.hru.subs ∧ t.eng.hru.evts = s.eng.hru.evts) ∧
  (∀ (s : State) (i : BitVec 12), s.receives Isl.hi → i.toNat < s.eng.ringCount false → (s.eng.sub i.toNat).enabled = true →
    ∃ t, exec (.ringDisable false i) s = .next t ∧ (t.eng.sub i.toNat).enabled = false ∧
      (t.eng.sub i.toNat).tail = (s.eng.sub i.toNat).fetched ∧ t.eng.hru.statReason = 0 ∧ t.eng.hru.evts = s.eng.hru.evts ∧
      t.eng.hru.staging = s.eng.hru.staging ∧ (∀ j, j ≠ i.toNat → t.eng.sub j = s.eng.sub j)) ∧
  (∀ (s : State) (i : BitVec 12), s.receives Isl.hi → i.toNat < s.eng.ringCount true → (s.eng.evt i.toNat).enabled = true →
    ∃ t, exec (.ringDisable true i) s = .next t ∧ t.eng.hru.subs = s.eng.hru.subs ∧
      ((s.eng.evt i.toNat).bound ≠ 0 → (t.eng.evt i.toNat).enabled = true ∧ t.eng.hru.statReason = 8) ∧
      ((s.eng.evt i.toNat).bound = 0 → (t.eng.evt i.toNat).enabled = false ∧ t.eng.hru.statReason = 0))

/-- While HI serves. SQ_TAIL with an index that passes R44 makes it the ring's tail; EQ_HEAD likewise the host head;
both move nothing else but arrival stamps and a stall. A doorbell that fails R44 counts in HRU_CNT_DB_INVALID and
leaves every ring. WATCH_LINE_SNOOP on an enabled ring with a coherent doorbell reads the line again, where no read
of it is out, and does the same with the index it reads; while that read does not return, the line stays out and no
ring changes. WATCH_LINE_READ_TIMEOUT of a line that is out disables its ring with reason 9. (R43, R44, R46, R61) -/
def Obligations.DoorbellsStateTheIndex : Prop :=
  (∀ (s : State) (i : BitVec 12) (v : BitVec 32), s.receives Isl.hi → s.eng.doorbellOk false false i.toNat v.toNat = true →
    ∃ t, exec (.sqTail i v) s = .next t ∧ (t.eng.sub i.toNat).tail = v.toNat ∧
      (t.eng.sub i.toNat).head = (s.eng.sub i.toNat).head ∧ (t.eng.sub i.toNat).fetched = (s.eng.sub i.toNat).fetched ∧
      t.eng.hru.evts = s.eng.hru.evts ∧ t.eng.cnt = s.eng.cnt ∧ (∀ j, j ≠ i.toNat → t.eng.sub j = s.eng.sub j)) ∧
  (∀ (s : State) (i : BitVec 12) (v : BitVec 32), s.receives Isl.hi → s.eng.doorbellOk true false i.toNat v.toNat = true →
    ∃ t, exec (.eqHead i v) s = .next t ∧ (t.eng.evt i.toNat).hostHead = v.toNat ∧
      (t.eng.evt i.toNat).tail = (s.eng.evt i.toNat).tail ∧ (t.eng.evt i.toNat).phase = (s.eng.evt i.toNat).phase ∧
      t.eng.hru.subs = s.eng.hru.subs ∧ t.eng.cnt = s.eng.cnt ∧ (∀ j, j ≠ i.toNat → t.eng.evt j = s.eng.evt j)) ∧
  (∀ (s : State) (event : Bool) (i : BitVec 12) (v : BitVec 32) (c : Instr), s.receives Isl.hi →
    s.eng.doorbellOk event false i.toNat v.toNat = false →
    (event = false ∧ c = .sqTail i v) ∨ (event = true ∧ c = .eqHead i v) →
    ∃ t, exec c s = .next t ∧ t.eng.hru = s.eng.hru ∧ t.eng.out = s.eng.out ∧
      t.eng.count Cnt.hruDbInvalid = s.eng.count Cnt.hruDbInvalid + 1#32) ∧
  (∀ (s : State) (i : BitVec 12) (v : BitVec 32), s.receives Isl.hi → s.eng.watched false i.toNat = true →
    s.eng.doorbellOk false true i.toNat v.toNat = true →
    ∃ t, exec (.watchLineSnoop false i (some v)) s = .next t ∧ (t.eng.sub i.toNat).tail = v.toNat ∧
      (t.eng.sub i.toNat).head = (s.eng.sub i.toNat).head ∧ t.eng.hru.evts = s.eng.hru.evts ∧
      (false, i.toNat) ∉ t.eng.hru.watches ∧
      t.eng.out = if s.eng.hru.watches.contains (false, i.toNat) then s.eng.out else .hostRead (s.eng.watchAddr false i.toNat) 64 :: s.eng.out) ∧
  (∀ (s : State) (i : BitVec 12) (v : BitVec 32), s.receives Isl.hi → s.eng.watched true i.toNat = true →
    s.eng.doorbellOk true true i.toNat v.toNat = true →
    ∃ t, exec (.watchLineSnoop true i (some v)) s = .next t ∧ (t.eng.evt i.toNat).hostHead = v.toNat ∧
      t.eng.hru.subs = s.eng.hru.subs ∧ (true, i.toNat) ∉ t.eng.hru.watches ∧
      t.eng.out = if s.eng.hru.watches.contains (true, i.toNat) then s.eng.out else .hostRead (s.eng.watchAddr true i.toNat) 64 :: s.eng.out) ∧
  (∀ (s : State) (event : Bool) (i : BitVec 12) (v : BitVec 32), s.receives Isl.hi → s.eng.watched event i.toNat = true →
    s.eng.doorbellOk event true i.toNat v.toNat = false →
    ∃ t, exec (.watchLineSnoop event i (some v)) s = .next t ∧ t.eng.hru.subs = s.eng.hru.subs ∧ t.eng.hru.evts = s.eng.hru.evts ∧
      t.eng.count Cnt.hruDbInvalid = s.eng.count Cnt.hruDbInvalid + 1#32) ∧
  (∀ (s : State) (event : Bool) (i : BitVec 12), s.receives Isl.hi → s.eng.watched event i.toNat = true →
    ∃ t, exec (.watchLineSnoop event i none) s = .next t ∧ (event, i.toNat) ∈ t.eng.hru.watches ∧
      t.eng.hru.subs = s.eng.hru.subs ∧ t.eng.hru.evts = s.eng.hru.evts ∧ t.eng.out =
        if s.eng.hru.watches.contains (event, i.toNat) then s.eng.out else .hostRead (s.eng.watchAddr event i.toNat) 64 :: s.eng.out) ∧
  (∀ (s : State) (event : Bool) (i : BitVec 12), s.serves Isl.hi → s.eng.hru.watches.contains (event, i.toNat) = true →
    s.eng.watched event i.toNat = true →
    ∃ t, exec (.watchLineReadTimeout event i) s = .next t ∧ t.eng.ringOn event i.toNat = false ∧ t.eng.hru.statReason = 9 ∧
      t.eng.hru.statEnabled = false ∧ t.eng.hru.statRing = ringCode event i.toNat ∧
      (if event then t.eng.hru.subs = s.eng.hru.subs else t.eng.hru.evts = s.eng.hru.evts))

/-- While HI serves. DESCRIPTOR_FETCH by ring 0 with room in its reserve, or by the ring whose turn it is, reads what a
fetch may cover now and reserves one acknowledgement entry for each descriptor. A fetch whose descriptors need no
host read stages all of them in order, moves the head by their number and counts them. A fetch that returns an error
or another number of descriptors, or times out, stages none: the head stays, the reservations return and the ring is
disabled with reason 9. TOKEN_LIST_READ_DONE with data that passes check 7 is kept with its descriptor, and of a
SUBMIT its further reads are issued; bad data, or a read that times out, completes the descriptor MALFORMED, an
ORDERED one behind others when its turn comes. (R41, R42, R47, R55, R69) -/
def Obligations.FetchesAreAllOrNothing : Prop :=
  (∀ (s : State) (i : BitVec 12), s.serves Isl.hi → s.eng.fetchable i.toNat ≠ 0 →
    (s.eng.reserveFree i.toNat = 0 → s.eng.fetchTurn = some i.toNat) →
    ∃ t, exec (.descriptorFetch i) s = .next t ∧
      (t.eng.sub i.toNat).fetched =
        ((s.eng.sub i.toNat).fetched + s.eng.fetchable i.toNat) % (s.eng.sub i.toNat).size ∧
      (t.eng.sub i.toNat).flights = (s.eng.sub i.toNat).flights ++ [((s.eng.sub i.toNat).fetched, s.eng.fetchable i.toNat,
        min (s.eng.reserveFree i.toNat) (s.eng.fetchable i.toNat))] ∧
      (t.eng.sub i.toNat).head = (s.eng.sub i.toNat).head ∧
      (t.eng.evt (s.eng.sub i.toNat).ackRing).ackRes =
        (s.eng.evt (s.eng.sub i.toNat).ackRing).ackRes + s.eng.fetchable i.toNat ∧
      t.eng.hru.staging = s.eng.hru.staging ∧
      t.eng.out = .hostRead (BitVec.ofNat 64 ((s.eng.sub i.toNat).base +
        (s.eng.sub i.toNat).slotBytes * (s.eng.sub i.toNat).fetched))
        ((s.eng.sub i.toNat).slotBytes * s.eng.fetchable i.toNat) :: s.eng.out) ∧
  (∀ (s : State) (i : BitVec 12) (f own : Nat) (rest : List (Nat × Nat × Nat)) (xs : List (BitVec 512)) (ds : List Staged),
    s.receives Isl.hi → (s.eng.sub i.toNat).flights = (f, xs.length, own) :: rest →
    (s.eng.sub i.toNat).head < (s.eng.sub i.toNat).size → xs.length ≤ (s.eng.sub i.toNat).size →
    (∀ d ∈ s.eng.hru.staging, d.ring = i.toNat → d.pos < (s.eng.sub i.toNat).consumed) →
    ds = xs.zipIdx.map (fun x => s.eng.stagedAs (s.tb.count / 1000) i.toNat own x.2 x.1) →
    (∀ d ∈ ds, d.known (s.eng.sub i.toNat) = true ∧ d.reader = false) →
    ∃ t, exec (.descriptorFetchReturn i true xs) s = .next t ∧ t.eng.hru.staging = s.eng.hru.staging ++ ds ∧
      (t.eng.sub i.toNat).head = ((s.eng.sub i.toNat).head + xs.length) % (s.eng.sub i.toNat).size ∧
      (t.eng.sub i.toNat).unacked = (s.eng.sub i.toNat).unacked ++ ds.map (·.pos) ∧
      (t.eng.sub i.toNat).flights = rest ∧ t.eng.hru.evts = s.eng.hru.evts ∧
      t.eng.count Cnt.hruDesc = s.eng.count Cnt.hruDesc + BitVec.ofNat 32 xs.length) ∧
  (∀ (s : State) (i : BitVec 12) (n : Nat) (x : Nat × Nat × Nat) (rest : List (Nat × Nat × Nat)) (ok : Bool) (l : List (BitVec 512)),
    s.receives Isl.hi → (s.eng.sub i.toNat).flights = x :: rest → n = sumBy (x :: rest) (fun y => y.2.1) →
    ok = false ∨ l.length ≠ x.2.1 →
    ∃ t, exec (.descriptorFetchReturn i ok l) s = .next t ∧ (t.eng.sub i.toNat).enabled = false ∧ (t.eng.sub i.toNat).flights = [] ∧
      (t.eng.sub i.toNat).head = (s.eng.sub i.toNat).head ∧ t.eng.hru.staging = s.eng.hru.staging ∧
      t.eng.hru.statReason = 9 ∧ (t.eng.sub i.toNat).unacked = (s.eng.sub i.toNat).unacked ∧
      (t.eng.evt (s.eng.sub i.toNat).ackRing).ackRes = (s.eng.evt (s.eng.sub i.toNat).ackRing).ackRes - n) ∧
  (∀ (s : State) (i : BitVec 12) (n : Nat), s.serves Isl.hi → (s.eng.sub i.toNat).flights ≠ [] →
    n = sumBy (s.eng.sub i.toNat).flights (fun y => y.2.1) →
    ∃ t, exec (.descriptorReadTimeout i) s = .next t ∧ (t.eng.sub i.toNat).enabled = false ∧ (t.eng.sub i.toNat).flights = [] ∧
      (t.eng.sub i.toNat).head = (s.eng.sub i.toNat).head ∧ t.eng.hru.staging = s.eng.hru.staging ∧
      t.eng.hru.statReason = 9 ∧ (t.eng.sub i.toNat).unacked = (s.eng.sub i.toNat).unacked ∧
      (t.eng.evt (s.eng.sub i.toNat).ackRing).ackRes = (s.eng.evt (s.eng.sub i.toNat).ackRing).ackRes - n) ∧
  (∀ (s : State) (i : BitVec 12) (slot : BitVec 16) (x : ListRead) (d : Staged), s.receives Isl.hi →
    s.eng.reading? i.toNat slot.toNat = some d →
    (d.opcode = 1 ∧ s.eng.submitReadOk d x = true) ∨ (d.opcode = 2 ∧ s.eng.appendReadOk d x = true) →
    ∃ t, exec (.tokenListReadDone i slot x) s = .next t ∧ t.eng.staged? i.toNat d.pos = some { d with reads := .done x } ∧
      t.eng.out = if d.opcode = 1 then (s.eng.listReads (d.submitOf (s.eng.sub i.toNat)) x).out else s.eng.out) ∧
  (∀ (s : State) (i : BitVec 12) (slot : BitVec 16) (x : ListRead) (d : Staged), s.receives Isl.hi →
    s.eng.reading? i.toNat slot.toNat = some d → s.eng.ringOpen (s.eng.ackRingOf d) →
    (d.opcode = 1 ∧ s.eng.submitReadOk d x = false) ∨ (d.opcode = 2 ∧ s.eng.appendReadOk d x = false) →
    ∃ t, exec (.tokenListReadDone i slot x) s = .next t ∧
      if s.eng.inOrder d then s.eng.acked t.eng d Status.malformed 0
      else t.eng.staged? i.toNat d.pos = some { d with reads := .failed } ∧ t.eng.hru.evts = s.eng.hru.evts) ∧
  (∀ (s : State) (i : BitVec 12) (slot : BitVec 16) (d : Staged), s.serves Isl.hi →
    s.eng.reading? i.toNat slot.toNat = some d → s.eng.ringOpen (s.eng.ackRingOf d) →
    ∃ t, exec (.tokenListReadTimeout i slot) s = .next t ∧
      if s.eng.inOrder d then s.eng.acked t.eng d Status.malformed 0
      else t.eng.staged? i.toNat d.pos = some { d with reads := .failed } ∧ t.eng.hru.evts = s.eng.hru.evts)

/-- While HI serves. HOST_WRITE_CREDIT_TIMEOUT marks the credit absent and keeps the staged records; while it is absent
a NOP's acknowledgement joins them and no ring is written. HOST_WRITE_CREDIT_RETURN marks it present and leaves none
staged; the records staged for an open ring stand in its next slots in their order, each with the ring's phase.
MOD_TIME_EXPIRY of an enabled ring whose first unsignalled record is MOD_TIME old raises its vector and starts the
count again. EVENT_RING_STALL_TIMEOUT of an enabled ring with unread records or reservations marks it stalled and
raises its vector; each of these commands completes so. (R48, R54, R61) -/
def Obligations.EventRingsKeepEveryRecord : Prop :=
  (∀ s : State, s.serves Isl.hi →
    ∃ t, exec .hostWriteCreditTimeout s = .next t ∧ t.eng.hru = { s.eng.hru with credit := false }) ∧
  (∀ (s : State) (i : BitVec 12) (d : Staged), s.receives Isl.hi → s.eng.decodes i.toNat d 0 → s.eng.mirrors = false →
    s.eng.hru.gated = [] → s.eng.hru.credit = false → s.eng.err.fatal = false →
    ∃ t more, exec (.nop i) s = .next t ∧
      t.eng.hru.unwritten = s.eng.hru.unwritten ++ s.eng.ackRecord d Status.ok 0 :: more ∧
      t.eng.out = s.eng.out) ∧
  (∀ s : State, s.receives Isl.hi →
    ∃ t, exec .hostWriteCreditReturn s = .next t ∧ t.eng.hru.credit = true ∧ t.eng.hru.unwritten = []) ∧
  (∀ (s : State) (k : Nat) (l : List EventRecord), s.receives Isl.hi → s.eng.hru.unwritten = l → (∀ x ∈ l, x.ring = k) →
    s.eng.err.fatal = false → (s.eng.evt k).enabled = true → (s.eng.evt k).tail < (s.eng.evt k).size →
    ∃ t, exec .hostWriteCreditReturn s = .next t ∧
      t.eng.out.filterMap Output.record? =
        (l.zipIdx.map fun x => s.eng.recordAt k x.2 x.1).reverse ++ s.eng.out.filterMap Output.record? ∧
      (t.eng.evt k).tail = ((s.eng.evt k).tail + l.length) % (s.eng.evt k).size) ∧
  (∀ (s : State) (i : BitVec 12) (k : Nat), s.serves Isl.hi → (s.eng.evt i.toNat).enabled = true →
    (s.eng.evt i.toNat).firstUnsig = some k → (s.eng.evt i.toNat).modTime ≠ 0 →
    k + (s.eng.evt i.toNat).modTime ≤ s.tb.count / 1000 →
    ∃ t, exec (.modTimeExpiry i) s = .next t ∧ t.eng.out = .irq (s.eng.evt i.toNat).vector :: s.eng.out ∧
      t.eng.evt i.toNat = { s.eng.evt i.toNat with unsignaled := 0, firstUnsig := none } ∧ t.eng.hru.subs = s.eng.hru.subs) ∧
  (∀ (s : State) (i : BitVec 12), s.serves Isl.hi → (s.eng.evt i.toNat).enabled = true →
    (s.eng.evt i.toNat).stalled = false →
    (s.eng.evt i.toNat).unread ≠ 0 ∨ (s.eng.evt i.toNat).ackRes ≠ 0 ∨ (s.eng.evt i.toNat).tokRes ≠ 0 →
    ∃ t, exec (.eventRingStallTimeout i) s = .next t ∧ (t.eng.evt i.toNat).stalled = true ∧
      (t.eng.evt i.toNat).tail = (s.eng.evt i.toNat).tail ∧ Output.irq (s.eng.evt i.toNat).vector ∈ t.eng.out ∧
      (∀ j, j ≠ i.toNat → t.eng.evt j = s.eng.evt j))

/-! ### Descriptors -/

/-- While HI, SB and PG serve and the acknowledgement ring is open: when the next descriptor of a ring is one of the
row's and fails a check up to order 6 with a status, the row that decodes it, whichever it is, acknowledges it with
that status, returns its staging slot, and leaves every request, tenant, family, addition and prefix as it was.
(R38, R40, R41, R49, R65) -/
def Obligations.DescriptorsThatFailActOnNothing : Prop :=
  ∀ (s : State) (i : BitVec 12) (d : Staged) (st : Nat) (c : Instr), s.receives Isl.hi → s.receives Isl.sb → s.receives Isl.pg →
    s.eng.nextDue i.toNat = some d → s.eng.checkUpTo6 d = some st → s.eng.ringOpen (s.eng.ackRingOf d) →
    (c = .submit i ∧ d.opcode = 0x01) ∨ (c = .append i ∧ d.opcode = 0x02) ∨ (c = .cancel i ∧ d.opcode = 0x03) ∨
      (c = .pause i ∧ d.opcode = 0x04) ∨ (c = .resume i ∧ d.opcode = 0x05) ∨ (c = .release i ∧ d.opcode = 0x06) ∨
      (c = .nop i ∧ d.opcode = 0x00) ∨ (c = .additionLoad i ∧ d.opcode = 0x10) ∨ (c = .additionRetire i ∧ d.opcode = 0x11) ∨
      (c = .prefixLoad i ∧ d.opcode = 0x12 ∧ d.f 32 0 32 ≠ 0) ∨ (c = .prefixRetire i ∧ d.opcode = 0x12 ∧ d.f 32 0 32 = 0) ∨
      (c = .familyConfig i ∧ d.opcode = 0x13 ∧ d.f 17 1 1 = 0) ∨ (c = .familyRemove i ∧ d.opcode = 0x13 ∧ d.f 17 1 1 = 1) ∨
      (c = .tenantSet i ∧ d.opcode = 0x20) ∨ (c = .queryRequest i ∧ isQueryRequest d = true) ∨
      (c = .queryTenant i ∧ d.opcode = 0x30 ∧ d.f 16 0 8 = 2) ∨ (c = .queryFamily i ∧ d.opcode = 0x30 ∧ d.f 16 0 8 = 3) ∨
      (c = .queryAddition i ∧ d.opcode = 0x30 ∧ d.f 16 0 8 = 4) ∨ (c = .queryRing i ∧ d.opcode = 0x30 ∧ d.f 16 0 8 = 5) ∨
      (c = .fence i ∧ d.opcode = 0x3F ∧ d.f 16 0 1 = 0) ∨ (c = .fenceBoundary i ∧ d.opcode = 0x3F ∧ d.f 16 0 1 = 1) →
    ∃ t, exec c s = .next t ∧ s.eng.acked t.eng d st 0 ∧ t.eng.rafter = s.eng.rafter ∧ t.eng.adm = s.eng.adm ∧
      t.eng.var = s.eng.var ∧ t.eng.stop = s.eng.stop ∧ t.eng.pgm = s.eng.pgm

/-- While HI, respectively SB, serves and the acknowledgement ring is open, the next descriptor of a ring that passes
checks 1 to 6 is, for NOP and for FENCE without BOUNDARY, acknowledged OK with no other effect on requests or memory
objects; a FENCE with BOUNDARY stays staged, to end with the first boundary that opens after it. (R37, R39, R55) -/
def Obligations.NopsAndFences : Prop :=
  (∀ (s : State) (i : BitVec 12) (d : Staged), s.receives Isl.hi → s.eng.ringOpen (s.eng.ackRingOf d) → s.eng.decodes i.toNat d 0 →
    ∃ t, exec (.nop i) s = .next t ∧ s.eng.acked t.eng d Status.ok 0 ∧ t.eng.rafter = s.eng.rafter ∧ t.eng.adm = s.eng.adm ∧
      t.eng.var = s.eng.var ∧ t.eng.pgm = s.eng.pgm) ∧
  (∀ (s : State) (i : BitVec 12) (d : Staged), s.receives Isl.sb → s.eng.ringOpen (s.eng.ackRingOf d) →
    s.eng.decodes i.toNat d 0x3F → d.f 16 0 1 = 0 →
    ∃ t, exec (.fence i) s = .next t ∧ s.eng.acked t.eng d Status.ok 0 ∧ t.eng.rafter = s.eng.rafter ∧ t.eng.adm = s.eng.adm ∧
      t.eng.var = s.eng.var ∧ t.eng.pgm = s.eng.pgm) ∧
  (∀ (s : State) (i : BitVec 12) (d : Staged), s.receives Isl.sb → s.eng.decodes i.toNat d 0x3F → d.f 16 0 1 = 1 →
    ∃ t, exec (.fenceBoundary i) s = .next t ∧ t.eng.staged? d.ring d.pos = some { d with phase := .fenced false } ∧
      t.eng.out = s.eng.out ∧ t.eng.rafter = s.eng.rafter)

/-- While the unit's island serves and the acknowledgement ring is open, a QUERY that passes checks 1 to 6 completes: it
writes to the buffer the whole image when the size field allows it, else the largest multiple of 64 bytes that fits
(nothing when that is 0), and is acknowledged OK with that number of bytes: 256 B of a request or an addition, 64 B
of a tenant with its bucket refilled, 320 B of a family, 128 B of a ring. (R82, R175, R395, R396) -/
def Obligations.QueriesWriteTheImage : Prop :=
  (∀ (s : State) (i : BitVec 12) (d : Staged) (k : Nat) (r : Rafter), s.receives Isl.sb → s.eng.decodes i.toNat d 0x30 →
    s.eng.ringOpen (s.eng.ackRingOf d) → d.f 16 0 8 = 1 → s.eng.target d = some (k, r) →
    ∃ t, exec (.queryRequest i) s = .next t ∧ s.eng.answersQuery t.eng d 256 r.image) ∧
  (∀ (s : State) (i : BitVec 12) (d : Staged), s.receives Isl.sb → s.eng.decodes i.toNat d 0x30 →
    s.eng.ringOpen (s.eng.ackRingOf d) → d.f 16 0 8 = 2 →
    ∃ t, exec (.queryTenant i) s = .next t ∧ s.eng.answersQuery t.eng d 64
      (if (s.eng.tenant (d.f 20 0 16)).enable && (s.eng.tenant (d.f 20 0 16)).metered then
        (s.eng.tenant (d.f 20 0 16)).refill (s.tb.count / 1000) else s.eng.tenant (d.f 20 0 16)).image) ∧
  (∀ (s : State) (i : BitVec 12) (d : Staged), s.receives Isl.pg → s.eng.decodes i.toNat d 0x30 →
    s.eng.ringOpen (s.eng.ackRingOf d) → d.f 16 0 8 = 3 →
    ∃ t, exec (.queryFamily i) s = .next t ∧ s.eng.answersQuery t.eng d 320 (s.eng.familyImage (d.f 20 0 8))) ∧
  (∀ (s : State) (i : BitVec 12) (d : Staged), s.receives Isl.pg → s.eng.decodes i.toNat d 0x30 →
    s.eng.ringOpen (s.eng.ackRingOf d) → d.f 16 0 8 = 4 →
    ∃ t, exec (.queryAddition i) s = .next t ∧ s.eng.answersQuery t.eng d 256
      (((s.eng.addition? (d.f 20 0 16)).map (Addition.image (d.f 20 0 16))).getD 0)) ∧
  (∀ (s : State) (i : BitVec 12) (d : Staged), s.serves Isl.hi → s.eng.decodes i.toNat d 0x30 →
    s.eng.ringOpen (s.eng.ackRingOf d) → d.f 16 0 8 = 5 →
    ∃ t, exec (.queryRing i) s = .next t ∧ s.eng.answersQuery t.eng d 128
      (s.eng.ringImage (decide (4096 ≤ d.f 20 0 32)) (d.f 20 0 32 % 4096)))

/-- While SB serves and a SUBMIT, next on its ring and past checks 1 to 6, has its reads done. If checks 7 to 9 pass and
a slot is free, the head of the free slots holds a new entry in state ADMITTING with the fields the descriptor and
its lists give, the slot is the last candidate, and the descriptor waits for its decision. If one of them fails, the
descriptor is acknowledged with that status and no slot is taken. (R42, R64, R66, R70, R72, R84) -/
def Obligations.SubmitsOpenAnEntry : Prop :=
  (∀ (s : State) (i : BitVec 12) (d : Staged) (data : ListRead) (slot : Nat) (free : FreeList), s.receives Isl.sb →
    s.eng.decodes i.toNat d 1 → d.reads = .done data →
    s.eng.submitCheck d (d.submitOf (s.eng.sub d.ring)) data = none → s.eng.slots.take = some (slot, free) →
    ∃ t, exec (.submit i) s = .next t ∧ t.eng.slots = free ∧ t.eng.adm.candidates = s.eng.adm.candidates ++ [slot] ∧
      t.eng.req? slot = some (s.eng.newEntry slot d (d.submitOf (s.eng.sub d.ring)) data) ∧
      t.eng.staged? d.ring d.pos = some { d with phase := .admitting slot } ∧
      (∀ j, j ≠ slot → t.eng.req? j = s.eng.req? j) ∧ t.eng.out = s.eng.out ∧ t.eng.gens = s.eng.gens) ∧
  (∀ (s : State) (i : BitVec 12) (d : Staged) (data : ListRead) (st : Nat), s.receives Isl.sb → s.eng.decodes i.toNat d 1 →
    d.reads = .done data → s.eng.submitCheck d (d.submitOf (s.eng.sub d.ring)) data = some st →
    s.eng.ringOpen (s.eng.ackRingOf d) →
    ∃ t, exec (.submit i) s = .next t ∧ s.eng.acked t.eng d st 0 ∧ t.eng.rafter = s.eng.rafter ∧
      t.eng.slots = s.eng.slots ∧ t.eng.adm = s.eng.adm)

/-- While SB serves, the acknowledgement ring is open, the record's event section has room and the named request is not
FENCED. APPEND with room and quota extends SEQ_END and INPUT_END by its tokens; one that would reach MAX_CONTEXT is
MALFORMED. CANCEL sets the stop bit, and the request is CANCELLING with the state it left. PAUSE of a running
request marks it and keeps the descriptor; of a parked one it sets the expiry. RESUME of a parked one makes it
RESTORING with fresh deadlines; of one with a pause pending it withdraws the pause, and the PAUSE descriptors of the
request that wait are acknowledged. RELEASE makes a live request RETIRING with OK, and a cancelling one return to
RETIRING. (R58, R74, R76, R77, R93, R95) -/
def Obligations.RequestDescriptorsAct : Prop :=
  ∀ (s : State) (i : BitVec 12) (d : Staged) (k : Nat) (r : Rafter), s.receives Isl.sb → s.eng.target d = some (k, r) →
    s.eng.eventsFull = false → r.state ≠ .fenced → s.eng.ringOpen (s.eng.ackRingOf d) →
    (∀ data, s.eng.decodes i.toNat d 2 → d.reads = .done data → s.eng.appendReadOk d data = true →
      r.state = .queued ∨ r.state.paused = true →
      (r.maxContext ≤ r.seqEnd + data.tokens.length →
        ∃ t, exec (.append i) s = .next t ∧ s.eng.acked t.eng d Status.malformed 0 ∧ t.eng.rafter = s.eng.rafter) ∧
      ((s.seen.appendRequest k r (data.tokens.map BitVec.toNat)).1 = Status.ok →
        ∃ t r', exec (.append i) s = .next t ∧ s.eng.acked t.eng d Status.ok 0 ∧ t.eng.req? k = some r' ∧
          r'.seqEnd = r.seqEnd + data.tokens.length ∧ r'.inputEnd = r.seqEnd + data.tokens.length ∧
          r'.state = r.state ∧ r'.kvEnd = r.kvEnd)) ∧
    (s.eng.decodes i.toNat d 3 → r.state.live = true →
      ∃ t, exec (.cancel i) s = .next t ∧ s.eng.acked t.eng d Status.ok 0 ∧ k ∈ t.eng.stop ∧
        t.eng.req? k = some { r with state := .cancelling, returnState := r.state, stopSeen := true }) ∧
    (s.eng.decodes i.toNat d 4 → r.state.running = true →
      ∃ t, exec (.pause i) s = .next t ∧ t.eng.staged? d.ring d.pos = some { d with phase := .waiting } ∧
        t.eng.req? k = some { r with pausePending := true, parkExpiry := d.f 16 0 20 } ∧
        (∀ cls, k ∉ t.eng.readyList cls) ∧ t.eng.hru.evts = s.eng.hru.evts) ∧
    (s.eng.decodes i.toNat d 4 → r.state = .parked ∨ r.state = .spilled →
      ∃ t, exec (.pause i) s = .next t ∧ s.eng.acked t.eng d Status.ok 0 ∧
        t.eng.req? k = some { r with parkExpiry := us48 (s.tb.count / 1000 + d.f 16 0 20 * 1000000) }) ∧
    (s.eng.decodes i.toNat d 5 → r.state = .parked ∨ r.state = .spilled →
      (∀ p ∈ s.eng.primaries k, (s.eng.page p).state ≠ .failed) →
      ∃ t, exec (.resume i) s = .next t ∧ s.eng.acked t.eng d Status.ok 0 ∧ t.eng.req? k = some { r with
        state := .restoring, firstEmitted := false, parkExpiry := 0, nextDl := 0, total := 0,
        ttft := (if d.f 56 0 24 = 0 then 0 else us48 (d.arrival + d.f 56 0 24)), itlUs := d.f 59 0 16 * 4,
        restoreAt := s.tb.count }) ∧
    (s.eng.decodes i.toNat d 5 → r.state.running = true → r.pausePending = true →
      ∃ t, exec (.resume i) s = .next t ∧ t.eng.staged? d.ring d.pos = none ∧
        t.eng.req? k = some { r with pausePending := false, parkExpiry := 0 } ∧
        (∀ p ∈ s.eng.hru.staging, p.phase = .waiting → p.opcode = 4 → p.handle true = r.handle.toNat →
          t.eng.staged? p.ring p.pos = none)) ∧
    (s.eng.decodes i.toNat d 6 → r.state.live = true →
      ∃ t, exec (.release i) s = .next t ∧ s.eng.acked t.eng d Status.ok 0 ∧
        t.eng.req? k = some { r with state := .retiring, pendStatus := Status.ok, pendReason := Reason.none }) ∧
    (s.eng.decodes i.toNat d 6 → r.state = .cancelling →
      ∃ t, exec (.release i) s = .next t ∧ s.eng.acked t.eng d Status.ok 0 ∧
        t.eng.req? k = some { r with returnState := .retiring })

/-- While SB, for a family PG, serves and the acknowledgement ring is open. TENANT_SET, with no held request of the
tenant to refuse, writes every field of the record and the salt and is acknowledged OK; other tenants keep theirs.
One that clears ENABLE is acknowledged and ends every held request of the tenant. FAMILY_CONFIG reads 256 B. A block
that fails its checks is MALFORMED and leaves the family; a good one for an UNCONFIGURED family with room is graded
and starts its load at the run found, or is CONFIGURED at once where it has no weight bytes; for a CONFIGURED one of
the same identity it replaces the block, resets kappa and regrades. A removal leaves the family REMOVING while a
live request uses it, and UNCONFIGURED at once when nothing does. (R92, R123, R171, R172, R174) -/
def Obligations.TenantsAndFamilies : Prop :=
  (∀ (s : State) (i : BitVec 12) (d : Staged), s.receives Isl.sb → s.eng.decodes i.toNat d 0x20 → s.eng.eventsFull = false →
    s.eng.ringOpen (s.eng.ackRingOf d) →
    d.f 18 0 1 = 1 ∨ (∀ h ∈ s.eng.adm.held, (s.eng.req? h.slot).map (·.tenant) ≠ some (d.f 16 0 16)) →
    ∃ t, exec (.tenantSet i) s = .next t ∧
      t.eng.tenant (d.f 16 0 16) = ((s.seen.refill (d.f 16 0 16)).tenant (d.f 16 0 16)).set (d.f 18 0 1 == 1) (d.f 20 0 32)
        (d.f 24 0 32) (d.f 28 0 18) (d.f 32 0 23) (d.f 36 0 13) (s.tb.count / 1000) ∧
      (∀ j, j ≠ d.f 16 0 16 → t.eng.tenant j = s.eng.tenant j) ∧
      Table.get? t.eng.pgm.salts (d.f 16 0 16) = some (BitVec.ofNat 64 (d.f 40 0 64)) ∧
      s.eng.acked t.eng d Status.ok 0) ∧
  (∀ (s : State) (i : BitVec 12) (d : Staged), s.receives Isl.sb → s.eng.decodes i.toNat d 0x20 → s.eng.eventsFull = false →
    s.eng.ringOpen (s.eng.ackRingOf d) → d.f 18 0 1 = 0 →
    ∃ t, exec (.tenantSet i) s = .next t ∧ (t.eng.tenant (d.f 16 0 16)).enable = false ∧ t.eng.staged? d.ring d.pos = none ∧
      (∀ h ∈ s.eng.adm.held, (s.eng.req? h.slot).map (·.tenant) = some (d.f 16 0 16) → t.eng.req? h.slot = none)) ∧
  (∀ (s : State) (i : BitVec 12) (d : Staged), s.receives Isl.pg → s.eng.decodes i.toNat d 0x13 → d.f 17 1 1 = 0 →
    ∃ t, exec (.familyConfig i) s = .next t ∧ t.eng.out = .hostRead (BitVec.ofNat 64 (d.f 24 0 64)) 256 :: s.eng.out ∧
      t.eng.staged? d.ring d.pos = some { d with phase := .waiting, reads := .waiting, turn := s.eng.var.nextJob } ∧
      t.eng.var.families = s.eng.var.families) ∧
  (∀ (s : State) (i : BitVec 12) (slot : BitVec 16) (ok : Bool) (x : BitVec 2048) (d : Staged) (f : Family),
    s.receives Isl.pg → s.eng.reading? i.toNat slot.toNat = some d → d.opcode = 0x13 →
    s.eng.ringOpen (s.eng.ackRingOf d) → f = { Family.none with block := x, share := d.f 17 0 1 == 1 } →
    (ok = false ∨ s.eng.blockOk f = false →
      ∃ t, exec (.familyConfigBlockReadDone i slot ok x) s = .next t ∧ s.eng.acked t.eng d Status.malformed 0 ∧
        t.eng.var = s.eng.var ∧ t.eng.ylm = s.eng.ylm) ∧
    (ok = true → s.eng.blockOk f = true → (s.eng.leadsGroup = true → f.weightSrcT2 = true) → f.pageBytes ≤ 2097152 →
      conforms f.kvHeads f.laneWidth = true → (f.grade s.eng.halfWindow).grade ≠ 3 →
      (∀ g, (s.eng.family (d.f 16 0 8)).state = 0 →
        findRun s.eng.weightRuns (s.eng.get Fld.varWtSizeMib / 2) (chunksOf f.weightBytes) = some g →
        ∃ t, exec (.familyConfigBlockReadDone i slot ok x) s = .next t ∧ t.eng.fitOf (d.f 16 0 8) = f.grade s.eng.halfWindow ∧
          (∀ j, j ≠ d.f 16 0 8 → t.eng.family j = s.eng.family j) ∧
          (chunksOf f.weightBytes ≠ 0 → t.eng.family (d.f 16 0 8) = { f with
              state := 1, granule := g, granules := chunksOf f.weightBytes, ack := some (d.ring, d.pos) } ∧
            t.eng.staged? d.ring d.pos = some { d with phase := .waiting, reads := .none } ∧
            (∃ j ∈ t.eng.var.jobs, j.id = d.turn ∧ j.what = .family (d.f 16 0 8) false ∧ j.total = chunksOf f.weightBytes)) ∧
          (chunksOf f.weightBytes = 0 → t.eng.family (d.f 16 0 8) = { f with state := 2, granule := g } ∧
            s.eng.acked t.eng d Status.ok 0)) ∧
      ((s.eng.family (d.f 16 0 8)).state = 2 → identityOf (s.eng.family (d.f 16 0 8)).block = identityOf x →
        (s.eng.family (d.f 16 0 8)).share = f.share →
        ∃ t, exec (.familyConfigBlockReadDone i slot ok x) s = .next t ∧ s.eng.acked t.eng d Status.ok 0 ∧
          t.eng.family (d.f 16 0 8) = { s.eng.family (d.f 16 0 8) with block := x } ∧
          t.eng.fitOf (d.f 16 0 8) = f.grade s.eng.halfWindow ∧
          Table.get? t.eng.adm.predictors (d.f 16 0 8) = some f.predictor ∧
          (∀ j, j ≠ d.f 16 0 8 → t.eng.family j = s.eng.family j)))) ∧
  (∀ (s : State) (i : BitVec 12) (d : Staged), s.receives Isl.pg → s.eng.decodes i.toNat d 0x13 → d.f 17 1 1 = 1 →
    (s.eng.family (d.f 16 0 8)).servable = true →
    (∀ k r, (k, r) ∈ s.eng.rafter → r.family = d.f 16 0 8 → r.state ≠ .free → r.state ≠ .admitting →
      ∃ t, exec (.familyRemove i) s = .next t ∧ (t.eng.family (d.f 16 0 8)).state = 4) ∧
    ((∀ x ∈ s.eng.rafter, x.2.family ≠ d.f 16 0 8) → (∀ x ∈ s.eng.var.slots, x.2.family ≠ d.f 16 0 8) →
      (∀ x ∈ s.eng.var.prefixes, x.2.family ≠ d.f 16 0 8) → (∀ x ∈ s.eng.var.additions, x.2.family ≠ d.f 16 0 8) →
      s.eng.var.jobs = [] → s.eng.ringOpen (s.eng.ackRingOf d) →
      ∃ t, exec (.familyRemove i) s = .next t ∧ s.eng.acked t.eng d Status.ok 0 ∧
        t.eng.family (d.f 16 0 8) = Family.none))

/-- While PG serves. ADDITION_LOAD that passes its checks and finds a place, no reload being wanted, opens the version's
record in LOADING with its slot and queues its copy; the descriptor waits. ADDITION_RETIRE makes each bound RESIDENT
version it names, or all of them, RETIRING by the host, and waits. PREFIX_LOAD that passes its checks and finds its
pages opens the record in LOADING with them and waits. Retiring a READY prefix that requests still use, or that a
SUBMIT not yet decided names, makes it RETIRING; an unused one is removed and its descriptor acknowledged OK. (R177,
R178, R181, R183, R186) -/
def Obligations.AdditionsAndPrefixes : Prop :=
  (∀ (s : State) (i : BitVec 12) (d : Staged) (slot : Nat) (e' : Engine), s.receives Isl.pg → s.eng.decodes i.toNat d 0x10 →
    s.eng.additionCheck (d.f 16 0 16) (d.f 18 0 8) (d.f 19 0 8) (d.f 36 0 16) (d.f 38 0 8) (d.f 32 0 32) = none →
    s.seen.placeVersion (d.f 16 0 16) (d.f 18 0 8) (d.f 19 0 8) (d.f 36 0 16) (d.f 32 0 32) = (true, some (slot, e')) →
    s.eng.var.wanted = [] →
    ∃ t r, exec (.additionLoad i) s = .next t ∧ t.eng.record? (d.f 16 0 16) (d.f 18 0 8) = some r ∧ r.vstate = 1 ∧
      r.slot = some slot ∧ r.bound = 0 ∧ r.ack = some (d.ring, d.pos) ∧ r.rank = d.f 38 0 8 ∧ r.size = d.f 32 0 32 ∧ r.source = BitVec.ofNat 64 (d.f 24 0 64) ∧
      (∃ j ∈ t.eng.var.jobs, j.what = .addition (d.f 16 0 16) (d.f 18 0 8) false) ∧
      t.eng.staged? d.ring d.pos = some { d with phase := .waiting }) ∧
  (∀ (s : State) (i : BitVec 12) (d : Staged) (x : Addition), s.receives Isl.pg → s.eng.decodes i.toNat d 0x11 →
    s.eng.addition? (d.f 16 0 16) = some x → x.valid = true →
    (∀ r, d.f 19 0 1 = 0 → s.eng.record? (d.f 16 0 16) (d.f 18 0 8) = some r → r.vstate = 2 → r.bound ≠ 0 →
      ∃ t r', exec (.additionRetire i) s = .next t ∧ t.eng.record? (d.f 16 0 16) (d.f 18 0 8) = some r' ∧ r'.vstate = 4 ∧
        r'.hostRetire = true ∧ r'.bound = r.bound ∧
        t.eng.staged? d.ring d.pos = some { d with phase := .waiting }) ∧
    (d.f 19 0 1 = 1 → (∀ r ∈ x.records, r.vstate = 2 ∧ r.bound ≠ 0) →
      ∃ t y, exec (.additionRetire i) s = .next t ∧ t.eng.addition? (d.f 16 0 16) = some y ∧
        y.records.map (·.version) = x.records.map (·.version) ∧
        (∀ r ∈ y.records, r.vstate = 4 ∧ r.hostRetire = true) ∧
        t.eng.staged? d.ring d.pos = some { d with phase := .waiting })) ∧
  (∀ (s : State) (i : BitVec 12) (d : Staged) (ps : List Nat) (e' : Engine), s.receives Isl.pg →
    s.eng.decodes i.toNat d 0x12 → d.f 32 0 32 ≠ 0 → (s.eng.family (d.f 20 0 8)).state = 2 →
    (s.eng.tenant (d.f 22 0 16)).enable = true →
    (s.eng.tenant (d.f 22 0 16)).pquota = 0 ∨
      (s.eng.tenant (d.f 22 0 16)).pheld + ceilDiv (d.f 32 0 32) 32 ≤ (s.eng.tenant (d.f 22 0 16)).pquota →
    Table.has s.eng.var.prefixes (d.f 16 0 20) = false →
    (s.eng.reservePages (s.eng.family (d.f 20 0 8)).cls (ceilDiv (d.f 32 0 32) 32)
      (ceilDiv (d.f 32 0 32) 32)).isSome = true →
    Engine.prefixPages (ceilDiv (d.f 32 0 32) 32) (d.f 20 0 8) s.seen = some (ps, e') →
    ∃ t x, exec (.prefixLoad i) s = .next t ∧ Table.get? t.eng.var.prefixes (d.f 16 0 20) = some x ∧ x.state = 1 ∧
      x.pages = ps ∧ x.tokens = d.f 32 0 32 ∧ x.family = d.f 20 0 8 ∧ x.tenant = d.f 22 0 16 ∧
      (∃ j ∈ t.eng.var.jobs, j.what = .learned (d.f 16 0 20)) ∧
      t.eng.staged? d.ring d.pos = some { d with phase := .waiting }) ∧
  (∀ (s : State) (i : BitVec 12) (d : Staged) (x : PrefixRec), s.receives Isl.pg → s.eng.decodes i.toNat d 0x12 →
    d.f 32 0 32 = 0 → Table.get? s.eng.var.prefixes (d.f 16 0 20) = some x → x.state = 2 →
    (x.bound ≠ 0 ∨ (∃ y ∈ s.eng.rafter, y.2.state = .admitting ∧ y.2.pfxValid = true ∧ y.2.pfx = d.f 16 0 20) →
      ∃ t, exec (.prefixRetire i) s = .next t ∧
      Table.get? t.eng.var.prefixes (d.f 16 0 20) = some { x with state := 3, ack := some (d.ring, d.pos) } ∧
      t.eng.staged? d.ring d.pos = some { d with phase := .waiting }) ∧
    (x.bound = 0 → (∀ y ∈ s.eng.rafter, ¬(y.2.state = .admitting ∧ y.2.pfxValid = true ∧ y.2.pfx = d.f 16 0 20)) →
      s.eng.ringOpen (s.eng.ackRingOf d) → ∃ t, exec (.prefixRetire i) s = .next t ∧
      Table.get? t.eng.var.prefixes (d.f 16 0 20) = none ∧ s.eng.acked t.eng d Status.ok 0))

/-! ### Requests: the stop vector, deadlines, restoring and admission -/

/-- While SB serves. STOP_SET of a live request's handle, on an engine that composes, makes it CANCELLING with the state
it left; of one fenced or ending it sets the bit alone. STOP_CLEAR returns a cancelling one to the state it left,
RETIRING with OK where a RELEASE had come; of another it clears the bit alone. A stale handle, or any on a worker,
counts in HRU_CNT_STOP_STALE and changes no request. DEADLINE_PASS of an overdue request makes it RETIRING with
DEADLINE and counts it; one of a held SUBMIT ends it. PARK_EXPIRY_PASS ends a parked one likewise. With nothing
held, DEADLINE_TICK does so for every overdue request and every one past its park expiry, and leaves every other one
as it was. (R57, R58, R59, R76, R77, R78) -/
def Obligations.StopBitsAndTimers : Prop :=
  (∀ (s : State) (h : BitVec 32) (r : Rafter), s.receives Isl.sb → s.eng.follows = false → s.eng.lookup h = some r →
    r.state.live = true →
    ∃ t, exec (.stopSet h) s = .next t ∧ slotOf h ∈ t.eng.stop ∧
      t.eng.req? (slotOf h) = some { r with state := .cancelling, returnState := r.state, stopSeen := true } ∧
      (∀ j, j ≠ slotOf h → t.eng.req? j = s.eng.req? j)) ∧
  (∀ (s : State) (h : BitVec 32) (r : Rafter), s.receives Isl.sb → s.eng.follows = false → s.eng.lookup h = some r →
    r.state = .cancelling → r.returnState ≠ .retiring →
    ∃ t, exec (.stopClear h) s = .next t ∧ slotOf h ∉ t.eng.stop ∧
      t.eng.req? (slotOf h) = some { r with state := r.returnState, stopSeen := false } ∧
      (∀ j, j ≠ slotOf h → t.eng.req? j = s.eng.req? j)) ∧
  (∀ (s : State) (h : BitVec 32) (r : Rafter), s.receives Isl.sb → s.eng.follows = false → s.eng.lookup h = some r →
    r.state = .cancelling → r.returnState = .retiring →
    ∃ t, exec (.stopClear h) s = .next t ∧ slotOf h ∉ t.eng.stop ∧ t.eng.req? (slotOf h) = some { r with
      state := .retiring, stopSeen := false, pendStatus := Status.ok, pendReason := Reason.none }) ∧
  (∀ (s : State) (h : BitVec 32) (r : Rafter), s.receives Isl.sb → s.eng.follows = false → s.eng.lookup h = some r →
    r.state.live = false →
    (∃ t, exec (.stopSet h) s = .next t ∧ slotOf h ∈ t.eng.stop ∧ t.eng.rafter = s.eng.rafter) ∧
    (r.state ≠ .cancelling → ∃ t, exec (.stopClear h) s = .next t ∧ slotOf h ∉ t.eng.stop ∧ t.eng.rafter = s.eng.rafter)) ∧
  (∀ (s : State) (h : BitVec 32) (c : Instr), s.receives Isl.sb → s.eng.follows = true ∨ s.eng.lookup h = none →
    c = .stopSet h ∨ c = .stopClear h →
    ∃ t, exec c s = .next t ∧ t.eng.rafter = s.eng.rafter ∧ t.eng.stop = s.eng.stop ∧
      t.eng.count Cnt.hruStopStale = s.eng.count Cnt.hruStopStale + 1#32) ∧
  (∀ (s : State) (k : BitVec 18) (r : Rafter) (j : Nat), s.serves Isl.sb → s.eng.req? k.toNat = some r → s.overdue r j →
    (∀ x ∈ s.eng.adm.held, x.slot ≠ k.toNat) →
    ∃ t, exec (.deadlinePass k) s = .next t ∧ t.eng.req? k.toNat = some { r with
        state := .retiring, pendStatus := Status.deadline, pendReason := Reason.deadline } ∧
      t.eng.count (deadlineCounter j) = s.eng.count (deadlineCounter j) + 1#32 ∧
      (∀ i, i ≠ k.toNat → t.eng.req? i = s.eng.req? i)) ∧
  (∀ (s : State) (k : BitVec 18) (r : Rafter), s.serves Isl.sb → s.eng.req? k.toNat = some r → r.state = .admitting →
    (s.eng.adm.held.any fun h => h.slot == k.toNat) = true → s.eng.flag Fld.sbCtlDeadlineEn = true →
    passed r.ttft (s.tb.count / 1000) = true ∨ passed r.total (s.tb.count / 1000) = true →
    ∃ t, exec (.deadlinePass k) s = .next t ∧ t.eng.req? k.toNat = none ∧ (∀ h ∈ t.eng.adm.held, h.slot ≠ k.toNat) ∧
      t.eng.staged? r.ackRing r.ackPos = none ∧ t.eng.count Cnt.admHoldDl = s.eng.count Cnt.admHoldDl + 1#32) ∧
  (∀ (s : State) (k : BitVec 18) (r : Rafter), s.serves Isl.sb → s.eng.req? k.toNat = some r →
    s.eng.flag Fld.sbCtlDeadlineEn = true → r.state = .parked ∨ r.state = .spilled →
    passed r.parkExpiry (s.tb.count / 1000) = true →
    ∃ t, exec (.parkExpiryPass k) s = .next t ∧ t.eng.req? k.toNat = some { r with
        state := .retiring, pendStatus := Status.deadline, pendReason := Reason.deadline } ∧
      t.eng.count Cnt.sbParkExpired = s.eng.count Cnt.sbParkExpired + 1#32) ∧
  (∀ s : State, s.serves Isl.sb → s.eng.adm.held = [] →
    ∃ t, exec .deadlineTick s = .next t ∧ ∀ k r, s.eng.req? k = some r →
      (∀ j, s.overdue r j → t.eng.req? k = some { r with
        state := .retiring, pendStatus := Status.deadline, pendReason := Reason.deadline }) ∧
      (r.state = .parked ∨ r.state = .spilled → s.eng.flag Fld.sbCtlDeadlineEn = true →
        passed r.parkExpiry (s.tb.count / 1000) = true → t.eng.req? k = some { r with
          state := .retiring, pendStatus := Status.deadline, pendReason := Reason.deadline }) ∧
      ((∀ j, ¬ s.overdue r j) → ¬((r.state = .parked ∨ r.state = .spilled) ∧ s.eng.flag Fld.sbCtlDeadlineEn = true ∧
        passed r.parkExpiry (s.tb.count / 1000) = true) → t.eng.req? k = some r))

/-- While SB serves, for a request in RESTORING. With its pages in T0 or T1 and its addition resident RESTORE_CONFIRMED
makes it QUEUED; it joins its pending list if its load is admitted again, and else waits for that. RESTORE_TIMEOUT
once SB_RESTORE_TO has passed makes it RETIRING with TIER_FAILED and reason ERROR. (R72, R107, R150, R337) -/
def Obligations.RestoringEnds : Prop :=
  (∀ (s : State) (k : BitVec 18) (r : Rafter), s.receives Isl.sb → s.eng.req? k.toNat = some r → r.state = .restoring →
    s.eng.listUp k.toNat = true → r.addValid = false ∨ s.eng.residentVersion r.addition r.version = true →
    ∃ t r', exec (.restoreConfirmed k) s = .next t ∧ t.eng.req? k.toNat = some { r' with
        reAdmit := !(s.eng.roomCommitted r' && s.seen.feasible k.toNat r') } ∧
      r' = { r with state := .queued, reAdmit := true } ∧
      (s.eng.roomCommitted r' = true → s.seen.feasible k.toNat r' = true → k.toNat ∈ t.eng.spliceList r.cls)) ∧
  (∀ (s : State) (k : BitVec 18) (r : Rafter), s.serves Isl.sb → s.eng.req? k.toNat = some r → r.state = .restoring →
    r.restoreAt + s.eng.get Fld.sbRestoreToMs * 1000000 ≤ s.tb.count →
    ∃ t, exec (.restoreTimeout k) s = .next t ∧ t.eng.req? k.toNat = some { r with
        state := .retiring, pendStatus := Status.tierFailed, pendReason := Reason.error } ∧
      (∀ i, i ≠ k.toNat → t.eng.req? i = s.eng.req? i))

/-- While SB serves and the event section has room, for a SUBMIT at the head of the candidates, or held and the next one
due a retry. If one of conditions 1 to 8 fails, its slot and staging slot return. If one of 9 to 18 fails, it is
held at that condition. If none does it is QUEUED, its tenant's live count and its event ring's bound count rise by
one, and it is counted. A held request past ADM_HOLD_TO is refused and counted. BUCKET_SWEEP refills an enabled
tenant's bucket and no other's. ADMISSION_RETRY of a resumed request that is next and whose load now fits admits it;
one of a slot that is not next does nothing. ADMISSION_OPEN sets ADM_CTL.OPEN; the first on an engine that composes
is the seal point of its first yealm. ADMISSION_CLOSE clears it; a change of the bit makes every held request due a
retry. (R84, R86, R87, R88, R89, R93) -/
def Obligations.AdmissionDecides : Prop :=
  (∀ (s : State) (k : BitVec 18) (r : Rafter), s.serves Isl.sb → s.eng.adm.candidates.head? = some k.toNat →
    s.eng.req? k.toNat = some r → s.eng.eventsFull = false →
    (∀ v, (s.deciding k.toNat r).refusal r = some v →
      ∃ t, exec (.admissionDecision k) s = .next t ∧ s.turnedDown t.eng k.toNat r) ∧
    (∀ v e', (s.deciding k.toNat r).refusal r = none → (s.deciding k.toNat r).holdTest k.toNat r = (some v, e') →
      ∃ t, exec (.admissionDecision k) s = .next t ∧ s.heldAt t.eng k.toNat v.condition) ∧
    (∀ e', (s.deciding k.toNat r).refusal r = none → (s.deciding k.toNat r).holdTest k.toNat r = (none, e') →
      ∃ t, exec (.admissionDecision k) s = .next t ∧ s.admitted t.eng k.toNat r)) ∧
  (∀ (s u : State) (k : BitVec 18) (r : Rafter), s.serves Isl.sb → s.seen.retries.head? = some k.toNat →
    (s.eng.adm.held.any fun h => h.slot == k.toNat) = true → s.eng.req? k.toNat = some r → s.eng.eventsFull = false →
    u = { s with eng := s.eng.notDue k.toNat } →
    (∀ v, (u.deciding k.toNat r).refusal r = some v →
      ∃ t, exec (.admissionRetry k) s = .next t ∧ s.turnedDown t.eng k.toNat r) ∧
    (∀ v e', (u.deciding k.toNat r).refusal r = none → (u.deciding k.toNat r).holdTest k.toNat r = (some v, e') →
      ∃ t, exec (.admissionRetry k) s = .next t ∧ s.heldAt t.eng k.toNat v.condition) ∧
    (∀ e', (u.deciding k.toNat r).refusal r = none → (u.deciding k.toNat r).holdTest k.toNat r = (none, e') →
      ∃ t, exec (.admissionRetry k) s = .next t ∧ s.admitted t.eng k.toNat r)) ∧
  (∀ (s : State) (k : BitVec 18), s.serves Isl.sb → s.seen.retries.head? ≠ some k.toNat →
    exec (.admissionRetry k) s = .next { s with eng := s.seen }) ∧
  (∀ (s : State) (k : BitVec 18) (r : Rafter), s.serves Isl.sb → (s.eng.adm.held.any fun h => h.slot == k.toNat) = true →
    s.eng.req? k.toNat = some r → r.arrival + s.eng.get Fld.admHoldToMs * 1000 ≤ s.tb.count / 1000 →
    ∃ t, exec (.holdLimitExpiry k) s = .next t ∧ t.eng.req? k.toNat = none ∧ (∀ h ∈ t.eng.adm.held, h.slot ≠ k.toNat) ∧
      t.eng.staged? r.ackRing r.ackPos = none ∧ t.eng.count Cnt.admHoldTo = s.eng.count Cnt.admHoldTo + 1#32) ∧
  (∀ (s : State) (k : BitVec 18) (r : Rafter), s.serves Isl.sb → s.seen.retries.head? = some k.toNat →
    (s.eng.adm.held.any fun h => h.slot == k.toNat) = false → s.eng.req? k.toNat = some r → r.reAdmit = true → r.state = .queued → s.eng.roomCommitted r = true →
    s.seen.feasible k.toNat r = true →
    ∃ t, exec (.admissionRetry k) s = .next t ∧ t.eng.req? k.toNat = some { r with reAdmit := false } ∧
      k.toNat ∈ t.eng.spliceList r.cls) ∧
  (∀ (s : State) (k : BitVec 16), s.serves Isl.sb → (s.eng.tenant k.toNat).enable = true →
    ∃ t, exec (.bucketSweep k) s = .next t ∧
      t.eng.tenant k.toNat = (s.eng.tenant k.toNat).refill (s.tb.count / 1000) ∧
      (∀ j, j ≠ k.toNat → t.eng.tenant j = s.eng.tenant j) ∧ t.eng.rafter = s.eng.rafter) ∧
  (∀ s : State, s.receives Isl.sb →
    exec .admissionClose s = .next { s with eng := s.seen.setOpen 0 }) ∧
  (∀ s : State, s.receives Isl.sb → s.eng.follows = true ∨ s.eng.glb.opened = true →
    exec .admissionOpen s = .next { s with eng := s.seen.setOpen 1 }) ∧
  (∀ s : State, s.receives Isl.sb → s.eng.follows = false → s.eng.glb.opened = false →
    exec .admissionOpen s = .next { s with eng := ({ s.seen.setOpen 1 with glb := { s.eng.glb with
      opened := true, phase := (if s.eng.glb.phase = 4 ∨ s.eng.glb.phase = 5 then 7 else s.eng.glb.phase) } } :
        Engine).sealPoint }) ∧
  (∀ (e : Engine) (v : Nat), v < 2 → (e.setOpen v).get Fld.admCtlOpen = v ∧
    (e.get Fld.admCtlOpen ≠ v → ∀ h ∈ e.adm.held, (e.req? h.slot).isSome = true → h.slot ∈ (e.setOpen v).adm.due))

/-- For a metered tenant whose level is at most its depth: two refills less than 2^32 µs apart in all give the same
record as one at the later time; no refill takes the level above BURST tokens; and a charge takes off what it
charges down to the floor of minus BURST tokens, never below it. (R93) -/
def Obligations.BucketsRefillAtTheRate : Prop :=
  (∀ (t : Tenant) (a b : Nat), t.metered = true → t.stamp < 2 ^ 32 → t.stamp ≤ a → a ≤ b → b < t.stamp + 2 ^ 32 →
    (t.refill a).refill b = t.refill b) ∧
  (∀ (t : Tenant) (us : Nat), t.level ≤ ((t.burst * 1000000 : Nat) : Int) →
    (t.refill us).level ≤ ((t.burst * 1000000 : Nat) : Int)) ∧
  (∀ (t : Tenant) (n : Nat), t.metered = true → t.floor ≤ t.level →
    t.floor ≤ (t.charge n).level ∧ (t.charge n).level ≤ t.level ∧
      (t.floor ≤ t.level - ((n * 1000000 : Nat) : Int) → (t.charge n).level = t.level - ((n * 1000000 : Nat) : Int)))

/-! ### The step cycle -/

/-- While SB serves, with a sealed yealm's manifest outstanding and no injection armed. MANIFEST_ACK_OK while another
step computes notes the delivery and archives the yealm; with none in compute, no boundary open and no FATAL or
fence, step n begins: the yealm, if it has a course, is in compute and STEP is its number. MANIFEST_ACK_RETRY gives
its bytes once more, and is then noted; MANIFEST_ACK_TIMEOUT on a lone engine with no step in compute counts a STEP
error and gives it again, and beyond FLT_REPLAY_MAX.N failures either of them is FATAL. The manifest a replay has
emitted again is awaited and repeated likewise. An acknowledgement of another step changes nothing but the log. (R5,
R26, R135, R375) -/
def Obligations.ManifestsAreAcknowledged : Prop :=
  (∀ (s : State) (y : Yealm), s.receives Isl.sb → s.eng.ylm.next = some y → s.eng.ylm.mfStep = some y.step →
    (s.eng.evaluate Det.manifestCheck).1 = false →
    (∀ x, s.eng.ylm.current = some x →
      ∃ t, exec (.manifestAckOk (BitVec.ofNat 16 y.step)) s = .next t ∧ t.eng.ylm.mfStep = none ∧
        t.eng.ylm.mfDelivered = true ∧ t.eng.ylm.next = some y ∧ t.eng.ylm.current = some x ∧
        Table.get? t.eng.ylm.archive y.step = some y ∧ t.eng.stepNo = s.eng.stepNo) ∧
    (s.eng.ylm.current = none → s.eng.boundaryOpen = false → s.eng.err.fatal = false → s.eng.mdv.fenced = false →
      y.courses ≠ [] →
      ∃ t y', exec (.manifestAckOk (BitVec.ofNat 16 y.step)) s = .next t ∧ t.eng.ylm.current = some y' ∧
        y'.step = y.step ∧ y'.courses = y.courses ∧ t.eng.ylm.next = none ∧ t.eng.stepNo = y.step ∧
        t.eng.ylm.runs = [] ∧ t.eng.ylm.stepDone = false)) ∧
  (∀ (s : State) (y : Yealm), s.receives Isl.sb → s.eng.ylm.next = some y → s.eng.ylm.mfStep = some y.step →
    s.eng.ylm.mfRetried = false →
    ∃ t, exec (.manifestAckRetry (BitVec.ofNat 16 y.step)) s = .next t ∧ t.eng.ylm.mfRetried = true ∧
      t.eng.out = .manifest y.step (s.eng.manifestBytes y) :: s.eng.out ∧ t.eng.ylm.mfStep = some y.step ∧
      t.eng.err = s.eng.err) ∧
  (∀ (s : State) (y : Yealm), s.serves Isl.sb → s.eng.ylm.next = some y → s.eng.ylm.mfStep = some y.step →
    s.eng.ylm.current = none → s.eng.alone → s.eng.err.fatal = false →
    s.eng.ylm.mfFailures + 1 ≤ s.eng.get Fld.fltReplayMaxN →
    ∃ t, exec .manifestAckTimeout s = .next t ∧ t.eng.ylm.mfFailures = s.eng.ylm.mfFailures + 1 ∧
      t.eng.out.head? = some (.manifest y.step (s.eng.manifestBytes y)) ∧ t.eng.ylm.mfStep = some y.step ∧
      t.eng.count Cnt.errStep = s.eng.count Cnt.errStep + 1#32 ∧ t.eng.err.fatal = false) ∧
  (∀ (s : State) (y : Yealm), s.serves Isl.sb → s.eng.ylm.next = some y → s.eng.ylm.mfStep = some y.step →
    s.eng.get Fld.fltReplayMaxN < s.eng.ylm.mfFailures + 1 →
    ∃ t, exec .manifestAckTimeout s = .next t ∧ t.eng.err.fatal = true ∧
      t.eng.count Cnt.errFatal = s.eng.count Cnt.errFatal + 1#32) ∧
  (∀ (s : State) (y : Yealm), s.receives Isl.sb → s.eng.ylm.next = some y → s.eng.ylm.mfStep = some y.step →
    s.eng.get Fld.fltReplayMaxN < s.eng.ylm.mfFailures + 1 → s.eng.ylm.mfRetried = true →
    ∃ t, exec (.manifestAckRetry (BitVec.ofNat 16 y.step)) s = .next t ∧ t.eng.err.fatal = true ∧
      t.eng.count Cnt.errFatal = s.eng.count Cnt.errFatal + 1#32) ∧
  (∀ (s : State) (y : Yealm), s.receives Isl.sb → s.eng.ylm.current = some y → s.eng.ylm.mfStep = none →
    s.eng.ylm.reStep = some y.step →
    ((s.eng.evaluate Det.manifestCheck).1 = false →
      ∃ t, exec (.manifestAckOk (BitVec.ofNat 16 y.step)) s = .next t ∧ t.eng.ylm.reStep = none ∧ t.eng.ylm.current = some y ∧
        t.eng.out = s.eng.out) ∧
    (s.eng.ylm.reRetried = false →
      ∃ t, exec (.manifestAckRetry (BitVec.ofNat 16 y.step)) s = .next t ∧ t.eng.ylm.reRetried = true ∧
        t.eng.ylm.reStep = some y.step ∧ t.eng.out = .manifest y.step (s.eng.manifestBytes y) :: s.eng.out)) ∧
  (∀ (s : State) (n : BitVec 16) (c : Instr), s.receives Isl.sb → s.eng.awaitsAck n.toNat = false →
    s.eng.awaitsAgain n.toNat = false → c = .manifestAckOk n ∨ c = .manifestAckRetry n →
    ∃ t, exec c s = .next t ∧ t.eng.ylm = s.eng.ylm ∧ t.eng.out = s.eng.out ∧ t.eng.err = s.eng.err ∧
      t.eng.rafter = s.eng.rafter)

/-- While SB serves, with a yealm in compute on a lone engine and a course of it. COURSE_BEGUN in order marks it begun;
the last one's is the seal point. COURSE_TIME records the time. SEG_LATE of a real segment before the set is fixed
adds it to the late ones, or to the failed ones. SEG_DONE, or SEGMENT_WAIT_EXPIRY, with no failure and no recorded
set fixes the set: the words that start the course with the late segments go to the tiles, and the members of those
segments are deferred in SERVICE and served from the base in another mode. BASE_STALL adds to the step's stall and
is counted, YLM_CNT_STALL_US by its whole microseconds (the model's choice, log entry 51). BASE_FAILED fails every
member of the course. STEP_DONE when every course has begun ends the compute. (R23, R100, R126, R127, R128, R247) -/
def Obligations.CoursesOfAStep : Prop :=
  (∀ (s : State) (y : Yealm) (k : BitVec 6) (c : Course), s.receives Isl.sb → s.eng.alone → s.eng.ylm.current = some y →
    y.courses[k.toNat]? = some c →
    (s.eng.mayBegin k.toNat = true →
      exec (.courseBegun k) s = .next { s with eng := (if k.toNat + 1 = y.courses.length then
        (s.seen.putRun k.toNat { s.eng.run k.toNat with begun := true }).sealPoint
        else s.seen.putRun k.toNat { s.eng.run k.toNat with begun := true }) }) ∧
    (∀ ns : BitVec 32, ∃ t, exec (.courseTime k ns) s = .next t ∧
      Table.get? t.eng.adm.measured k.toNat = some ns.toNat ∧ t.eng.ylm = s.eng.ylm) ∧
    (∀ (j : BitVec 10) (g : Segment), j.toNat < c.segments → y.segments[c.firstSegment + j.toNat]? = some g →
      g.null = false → (s.eng.run k.toNat).reported = false →
      (∃ t, exec (.segLate k j false) s = .next t ∧ t.eng.run k.toNat = { s.eng.run k.toNat with
          late := insertNat j.toNat (s.eng.run k.toNat).late } ∧ t.eng.ylm.current = some y) ∧
      (∃ t, exec (.segLate k j true) s = .next t ∧ t.eng.run k.toNat = { s.eng.run k.toNat with
          failedSeg := insertNat j.toNat (s.eng.run k.toNat).failedSeg } ∧ t.eng.ylm.current = some y)) ∧
    ((s.eng.run k.toNat).reported = false → (s.eng.run k.toNat).failedSeg = [] → (s.eng.run k.toNat).baseFail = false →
      s.eng.recordedSet y.step k.toNat = none →
      ∃ t, exec (.segDone k) s = .next t ∧ s.eng.fixesSet t.eng y k.toNat c) ∧
    ((s.eng.run k.toNat).reported = false → (s.eng.run k.toNat).failedSeg = [] → (s.eng.run k.toNat).baseFail = false →
      s.eng.recordedSet y.step k.toNat = none →
      ∃ t, exec (.segmentWaitExpiry k) s = .next t ∧ s.eng.fixesSet t.eng y k.toNat c) ∧
    (∀ ns : BitVec 32, ∃ t, exec (.baseStall k ns) s = .next t ∧ t.eng.ylm.stallNs = s.eng.ylm.stallNs + ns.toNat ∧
      t.eng.count Cnt.ylmBaseStall = s.eng.count Cnt.ylmBaseStall + 1#32 ∧
      t.eng.count Cnt.ylmStallUs = s.eng.count Cnt.ylmStallUs + BitVec.ofNat 32 (ns.toNat / 1000)) ∧
    (∃ t y', exec (.baseFailed k) s = .next t ∧ (t.eng.run k.toNat).baseFail = true ∧ t.eng.ylm.current = some y' ∧
      y'.members = (y.members.zipIdx).map fun x => if c.has x.2 then { x.1 with failed := true } else x.1)) ∧
  (∀ (s : State) (y : Yealm), s.receives Isl.sb → s.eng.alone → s.eng.ylm.current = some y → s.eng.ylm.stepDone = false →
    s.eng.allBegun y = true →
    ∃ t, exec (.stepDone (BitVec.ofNat 16 y.step)) s = .next t ∧ t.eng.ylm.stepDone = true ∧
      t.eng.ylm.stepDoneAt = s.tb.count ∧ t.eng.ylm.current = some y ∧ t.eng.rafter = s.eng.rafter)

/-- While the unit's island serves, on a lone engine. BASE_STALL_LIMIT_EXCEEDED in a mode other than SERVICE marks the
course's family to fall one grade step; in SERVICE a first failure replays the step. KV_FAILED of a page with
holders, none of which is still matching it, makes it FAILED, counts it and ends with TIER_FAILED each holder that
runs or restores. RECOVERY_END returns the composer to SERVICE only when RECOVERY has run out. MODE_WRITE sets MODE
and SPEC_EN. PAGE_FREE_WALK of a waiting list takes one entry: an alias is freed and its primary loses a holder; a
primary that others hold loses one. (R109, R128, R129, R153, R164) -/
def Obligations.StallsPagesAndModes : Prop :=
  (∀ (s : State) (y : Yealm) (k : BitVec 6) (c : Course), s.serves Isl.sb → s.eng.alone → s.eng.ylm.current = some y →
    y.courses[k.toNat]? = some c → s.eng.get Fld.ylmStallLimitUs * 1000 < s.eng.ylm.stallNs →
    (y.mode ≠ 0 → ∃ t, exec (.baseStallLimitExceeded k) s = .next t ∧
      t.eng.ylm = { s.eng.ylm with lowerDue := insertNat c.family s.eng.ylm.lowerDue } ∧ t.eng.rafter = s.eng.rafter) ∧
    (y.mode = 0 → s.eng.mayReplay y → ∃ t, exec (.baseStallLimitExceeded k) s = .next t ∧ s.eng.replays t.eng)) ∧
  (∀ (s : State) (p : BitVec 22), s.receives Isl.pg → s.eng.alone → (s.eng.page p.toNat).state = .openPage ∨
      (s.eng.page p.toNat).state = .full → (s.eng.page p.toNat).holders ≠ 0 →
    (∀ k ∈ s.eng.holdersOf p.toNat, s.eng.matching k p.toNat = false) →
    ∃ t, exec (.kvFailed p) s = .next t ∧ (t.eng.page p.toNat).state = .failed ∧
      (t.eng.page p.toNat).holders = (s.eng.page p.toNat).holders ∧
      t.eng.count Cnt.pgmTierFail = s.eng.count Cnt.pgmTierFail + 1#32 ∧
      (∀ k r, k ∈ s.eng.holdersOf p.toNat → s.eng.req? k = some r → r.state.running = true ∨ r.state = .restoring →
        t.eng.req? k = some { r with state := .retiring, pendStatus := Status.tierFailed, pendReason := Reason.error })) ∧
  (∀ s : State, s.serves Isl.sb →
    exec .recoveryEnd s = .next { s with eng := (if s.eng.get Fld.ylmCtlMode = 3 ∧ s.eng.ylm.recoverLeft = 0 then
      s.seen.put Fld.ylmCtlMode 0 else s.seen) }) ∧
  (∀ (s : State) (v : BitVec 32), s.receives Isl.sb →
    ∃ t, exec (.modeWrite v) s = .next t ∧ t.eng.get Fld.ylmCtlMode = v.toNat % 4 ∧
      t.eng.get Fld.ylmCtlSpecEn = v.toNat / 4 % 2 ∧
      (v.toNat % 4 = 3 → t.eng.ylm.recoverLeft = s.eng.get Fld.ylmRecoverStepsN) ∧
      t.eng.ylm.current = s.eng.ylm.current ∧ t.eng.rafter = s.eng.rafter) ∧
  (∀ (s : State) (w : WalkItem) (ws : List WalkItem), s.serves Isl.pg → s.eng.pgm.walk = w :: ws →
    (1 < w.count → ∃ t, exec .pageFreeWalk s = .next t ∧
      t.eng.pgm.walk = { w with head := (s.eng.page w.head).next, count := w.count - 1 } :: ws) ∧
    (w.count ≤ 1 → ∃ t, exec .pageFreeWalk s = .next t ∧ t.eng.pgm.walk = ws) ∧
    ((s.eng.page w.head).state = .aliasEntry → 1 < (s.eng.page (s.eng.page w.head).primary).holders →
      (s.eng.page w.head).primary ≠ w.head →
      ∃ t, exec .pageFreeWalk s = .next t ∧ Table.get? t.eng.pgm.pages w.head = none ∧
        t.eng.pgm.entries = s.eng.pgm.entries.give w.head ∧
        (t.eng.page (s.eng.page w.head).primary).holders = (s.eng.page (s.eng.page w.head).primary).holders - 1) ∧
    ((s.eng.page w.head).state ≠ .aliasEntry → 1 < (s.eng.page w.head).holders →
      ∃ t, exec .pageFreeWalk s = .next t ∧ (t.eng.page w.head).holders = (s.eng.page w.head).holders - 1 ∧
        (t.eng.page w.head).owner = none))

/-- While SB serves. STEP_BOUNDARY_OPEN changes nothing while no boundary is open and none is due. A due one without
failure opens, applies effects 1 to 6 in order and closes; with effect k failing it applies those before k and stops
there, still open, to go on from k. Effect 1 on a lone engine that mirrors to nobody and holds no event back commits
the record, empties the undo log and counts the commit. Retiring a completed request at effect 2 frees its slot
under the next generation and takes it from the stop vector. (R5, R6, R27, R29, R63, R79, R260) -/
def Obligations.BoundariesRunTheirEffects : Prop :=
  (∀ (s : State) (k : BitVec 3), s.serves Isl.sb → s.eng.boundaryOpen = false →
    s.eng.ylm.current = none ∨ (∃ y, s.eng.ylm.current = some y ∧ s.eng.boundaryDue y = false) →
    exec (.stepBoundaryOpen k) s = .next { s with eng := s.seen }) ∧
  (∀ (s : State) (y y' : Yealm) (o : Engine), s.serves Isl.sb → s.eng.boundaryOpen = false →
    s.eng.ylm.current = some y → s.eng.boundaryDue y = true → (s.eng.evaluate Det.boundaryEffect).1 = false →
    o = (s.seen.tryDetector Det.boundaryEffect).2.openBoundary y → y' = o.ylm.current.getD y →
    exec (.stepBoundaryOpen 0#3) s = .next { s with eng :=
      ((((((Engine.effect y' o 1 |> (Engine.effect y' · 2)) |> (Engine.effect y' · 3)) |> (Engine.effect y' · 4)) |>
        (Engine.effect y' · 5)) |> (Engine.effect y' · 6)).closeBoundary y') }) ∧
  (∀ (s : State) (y y' : Yealm) (o : Engine) (k : BitVec 3), s.serves Isl.sb → s.eng.boundaryOpen = false →
    s.eng.ylm.current = some y → s.eng.boundaryDue y = true → k ≠ 0#3 → k ≠ 7#3 →
    o = s.seen.openBoundary y → y' = o.ylm.current.getD y →
    exec (.stepBoundaryOpen k) s = .next { s with eng := (o.effects y' 1 (k.toNat - 1)).effectFails y' k.toNat }) ∧
  (∀ (e : Engine) (y : Yealm), e.alone → e.flt.heldEvents = [] → e.flt.shadow.running = false → e.flt.shadow.watching = [] →
    (e.commitEffect y).flt.commitStep = y.step ∧ (e.commitEffect y).flt.undo = [] ∧
      (e.commitEffect y).flt.events = e.flt.eventsNext ∧
      (e.commitEffect y).count Cnt.fltCommit = e.count Cnt.fltCommit + 1#32 ∧
      (∀ r, e.stepRec? y.step = some r → ∃ r', (e.commitEffect y).stepRec? y.step = some r' ∧ r'.committed = true ∧
        r'.events = e.flt.events ∧ r'.commitTime = e.now ∧ r'.tokens = r.tokens)) ∧
  (∀ (e : Engine) (slot : Nat) (r : Rafter), e.req? slot = some r → r.state = .retiring → r.completed = true →
    (e.retire slot).req? slot = none ∧ (e.retire slot).gen slot = nextGen slot (e.gen slot) ∧
      (e.retire slot).slots = e.slots.give slot ∧ slot ∉ (e.retire slot).stop ∧
      ((e.retire slot).evt r.eventRing).bound = (e.evt r.eventRing).bound - 1)

/-! ### The legget, the spar generator and the page mover -/

/-- While SM serves on a lone engine. A LOGIT_TILE that fails a check is counted and is a STEP-class error, which
replays a step that can be. One that passes with no injection armed: a tile of a draw emitted or complete changes no
context, and only one of a void draw is folded at all, to be discarded; one 16,384 draws ahead is held and counted,
and the gutter is not ready; any other is folded into its draw's context, opened if need be, and its NaN logits are
counted; the last tile of a draw, with the key sums right, leaves the draw finished, and it is counted. (R190, R191,
R192, R193, R202, R338) -/
def Obligations.TilesFoldIntoTheirDraws : Prop :=
  (∀ (s : State) (h : BitVec 64) (l : List (BitVec 16)), s.receives Isl.sm → s.eng.checkTile h = none →
    (s.eng.ylm.current = none → ∃ t, exec (.logitTile h l) s = .next t ∧ t.eng.smp = s.eng.smp ∧ t.eng.rafter = s.eng.rafter ∧
      t.eng.count Cnt.smpTileErr = s.eng.count Cnt.smpTileErr + 1#32 ∧
      t.eng.count Cnt.errStep = s.eng.count Cnt.errStep + 1#32) ∧
    (∀ y, s.eng.mayReplay y → ∃ t, exec (.logitTile h l) s = .next t ∧ s.eng.replays t.eng ∧
      t.eng.count Cnt.smpTileErr = s.eng.count Cnt.smpTileErr + 1#32)) ∧
  (∀ (s : State) (h : BitVec 64) (l : List (BitVec 16)) (y : Yealm) (k i : Nat) (m : Member) (r : Rafter),
    s.receives Isl.sm → s.eng.alone → (s.eng.evaluate Det.tileCheck).1 = false → s.eng.ylm.current = some y →
    s.eng.checkTile h = some (k, i, m) → s.eng.anyReq? m.slot = some r →
    (∀ c, Table.get? s.eng.smp.ctxs (tileDraw h) = some c → c.draw = tileDraw h) →
    (s.eng.folded m (tileDraw h) = true → s.eng.skips m = true →
      ∃ t, exec (.logitTile h l) s = .next t ∧ t.eng.smp = s.eng.smp ∧ t.eng.rafter = s.eng.rafter ∧ t.eng.ylm = s.eng.ylm ∧
        t.eng.out = s.eng.out) ∧
    (s.eng.folded m (tileDraw h) = true → s.eng.skips m = false →
      ∃ t, exec (.logitTile h l) s = .next t ∧ t.eng.smp = s.eng.smp ∧ t.eng.out = s.eng.out ∧ t.eng.cnt = s.eng.cnt) ∧
    (s.eng.smp.nextEmit + 16384 ≤ tileDraw h → s.eng.folded m (tileDraw h) = false →
      ∃ t, exec (.logitTile h l) s = .next t ∧ t.eng.smp.gutHeld = true ∧ t.eng.smp.ctxs = s.eng.smp.ctxs ∧
        t.eng.count Cnt.smpGutWait = s.eng.count Cnt.smpGutWait + 1#32 ∧
        (s.eng.smp.gutHeld = false → t.eng.out = .gutReady false :: s.eng.out)) ∧
    (∀ (nans : Nat) (x c : DrawCtx), s.eng.smp.nextEmit ≤ tileDraw h → tileDraw h < s.eng.smp.nextEmit + 16384 →
      s.eng.folded m (tileDraw h) = false →
      s.eng.foldTile r m y.epoch (s.eng.ctxOf r i m (tileDraw h)) (tileHead h) (tileIndex h) (tileFmt h) (tileScale h) l = (nans, x) →
      c = x.count (tileHead h) (tileIndex h) →
      (c.received ≠ s.eng.expectedTiles m c.index → ∃ t, exec (.logitTile h l) s = .next t ∧
        Table.get? t.eng.smp.ctxs (tileDraw h) = some c ∧ c.received = (s.eng.ctxOf r i m (tileDraw h)).received + 1 ∧
        t.eng.ylm = s.eng.ylm ∧ t.eng.rafter = s.eng.rafter ∧ t.eng.out = s.eng.out ∧
        t.eng.count Cnt.smpNan = s.eng.count Cnt.smpNan +
          BitVec.ofNat 32 (if tileHead h = 0 ∧ s.eng.strictNan = true then 0 else nans)) ∧
      (c.received = s.eng.expectedTiles m c.index →
        (c.sum1, c.sum2) = keySums (s.eng.shardTiles (tilesOf (s.eng.family m.family).vocab)).1
          (s.eng.shardTiles (tilesOf (s.eng.family m.family).vocab)).2 (s.eng.headsOf m c.index) →
        ∃ t, exec (.logitTile h l) s = .next t ∧
          Table.get? t.eng.smp.ctxs (tileDraw h) = some (c.finish r (noiseAt m.seed y.epoch 1 (m.seqStart + c.index))) ∧
          t.eng.count Cnt.smpDraws = s.eng.count Cnt.smpDraws + 1#32 ∧ t.eng.rafter = s.eng.rafter ∧ t.eng.out = s.eng.out)))

/-- For a context whose HEAP is in its order and holds no NaN, and two different tokens that are neither its best one
nor in its HEAP, with scores that are no NaN: folding one and then the other leaves the very same context as folding
them the other way round: BEST, HEAP, SAT and ACC alike. (R193, R200, R201, R202) -/
def Obligations.FoldsCommute : Prop :=
  ∀ (c : DrawCtx) (t1 t2 : Nat) (q1 y1 q2 y2 : BitVec 32), t1 ≠ t2 → c.bestId ≠ t1 → c.bestId ≠ t2 →
    isNan c.bestY = false → isNan q1 = false → isNan y1 = false → isNan q2 = false → isNan y2 = false →
    (∀ x ∈ c.heap, isNan x.1 = false ∧ x.2 ≠ t1 ∧ x.2 ≠ t2) → c.heap.Pairwise (fun a b => beats a b = true) →
    c.heap.length ≤ 64 →
    (c.fold t1 q1 y1).fold t2 q2 y2 = (c.fold t2 q2 y2).fold t1 q1 y1

/-- While SM serves. DRAW_EMIT of a member out of turn, or not ready, or emitted, and any on a worker or after FATAL,
changes nothing. In turn on a lone engine: a member deferred, failed or vacated leaves its draws void, and emission
moves on past them. A single finished draw whose token neither ends the request nor diverges, of a running request
on an open event ring, writes its token event, moves SEQ_END and GENERATED on, sets FIRST_EMITTED and, the record
being written, DELIVERED_POS, and counts the token. Verification accepts guesses as long as each is the token drawn
before it, not pad, at a draw that does not stop and is followed by another; REACHED says that the draw after the
last accepted one is void. (R27, R50, R70, R76, R206, R207, R211) -/
def Obligations.EmissionInDrawOrder : Prop :=
  (∀ (s : State) (i : BitVec 14), s.serves Isl.sm →
    s.eng.ylm.current = none ∨ (∃ y, s.eng.ylm.current = some y ∧ (y.members[i.toNat]? = none ∨
      ∃ m, y.members[i.toNat]? = some m ∧ (m.emitted = true ∨ m.draws = 0 ∨ s.eng.smp.nextEmit ≠ m.firstDraw ∨
        (s.eng.skips m = false ∧ ∃ j, j < m.draws ∧ Table.get? s.eng.smp.ctxs (m.firstDraw + j) = none)))) ∨
      s.eng.follows = true ∨ s.eng.err.fatal = true →
    exec (.drawEmit i) s = .next { s with eng := s.seen }) ∧
  (∀ (s : State) (i : BitVec 14) (y : Yealm) (m : Member) (k : Nat) (c : Course), s.serves Isl.sm → s.eng.alone →
    s.eng.err.fatal = false → s.eng.ylm.current = some y → y.members[i.toNat]? = some m → m.emitted = false → m.draws ≠ 0 →
    s.eng.smp.nextEmit = m.firstDraw → y.courseOfDraw m.firstDraw = some (k, c) → s.eng.courseBegan k = true →
    (m.deferred = true ∨ m.failed = true ∨ (m.vacated = true ∧
        ∀ j, j < m.draws → ∃ x, Table.get? s.eng.smp.ctxs (m.firstDraw + j) = some x ∧ x.done = true) →
      ∃ t y', exec (.drawEmit i) s = .next t ∧ t.eng.smp.nextEmit = m.firstDraw + m.draws ∧ t.eng.ylm.current = some y' ∧
        y'.members = y.members.modify i.toNat (fun x => { x with emitted := true, ringRes := 0 }) ∧
        t.eng.count Cnt.smpVoid = s.eng.count Cnt.smpVoid + BitVec.ofNat 32 m.draws ∧
        t.eng.count Cnt.smpTokens = s.eng.count Cnt.smpTokens) ∧
    (∀ (r : Rafter) (x : DrawCtx) (token : Nat) (body : BitVec 224), m.deferred = false → m.failed = false → m.vacated = false → m.draws = 1 →
      s.eng.req? m.slot = some r → r.handle = m.handle → r.state.running = true →
      Table.get? s.eng.smp.ctxs m.firstDraw = some x → x.done = true → x.void = false → x.token = some token →
      (∀ old, s.eng.heldToken y.step m.firstDraw r.handle m.seqStart = some old → old = token) →
      r.stopsAt r.generated token = false → r.fullAt r.generated m.seqStart = false →
      r.handedPos = pad ∨ r.handedPos < m.seqStart → r.logprobN = 0 → s.eng.ringOpen r.eventRing →
      body = tokenBytes r.handle.toNat m.seqStart token 0 0 (place (bit r.suppressNote) 2 1 + place (bit x.logprob.isSome) 3 1 +
        place (bit m.baseOnly) 4 1 + place (bit r.mixedVersion) 5 1) (x.logprob.getD 0) y.step r.userTag.toNat →
      ∃ t r', exec (.drawEmit i) s = .next t ∧ t.eng.smp.nextEmit = m.firstDraw + 1 ∧ t.eng.req? m.slot = some r' ∧
        r'.seqEnd = r.seqEnd + 1 ∧ r'.generated = r.generated + 1 ∧ r'.firstEmitted = true ∧ r'.handedPos = m.seqStart ∧
        (slotOf r.handle = m.slot → m.seqStart < 2 ^ 24 → r'.deliveredPos = m.seqStart) ∧
        r'.state = r.state ∧ t.eng.count Cnt.smpTokens = s.eng.count Cnt.smpTokens + 1#32 ∧
        s.eng.wrote t.eng { ring := r.eventRing, rtype := 2, body := body })) ∧
  (∀ (stops : Nat → Nat → Bool) (token : Nat) (gs : List Nat) (ts : List (Option Nat)) (a : Nat) (reached : Bool),
    verifyFrom stops 0 token gs ts = (a, reached) →
    (∀ j, j < a → ∃ g, gs[j]? = some g ∧ (some token :: ts)[j]? = some (some g) ∧ g ≠ pad ∧ stops j g = false ∧
      ∃ u, ts[j]? = some (some u)) ∧
    (reached = true → ts[a]? = some none ∧ ∃ g, gs[a]? = some g ∧ (some token :: ts)[a]? = some (some g) ∧ g ≠ pad ∧ stops a g = false) ∧
    (reached = false → ∀ g, (some token :: ts)[a]? = some (some g) → gs[a]? = some g → g ≠ pad → stops a g = false → ts[a]? = none))

/-- While the unit's island serves. GUTTER_TIMEOUT with draws open, and RANDOM_WORD_TIMEOUT with a course sampled,
replay a step that can be, and otherwise change nothing. LANE_FAULT outside a step marks the lane: the first fault
waits for the spare, where it is not the spare's own; a further one, or one without a spare, for the group's
retirement. SPG_TILE_REQUEST that fits answers the words of its key and counter; one that does not answers zero
words and is counted. SHADOW_CHECK that agrees is counted; one that disagrees names its culprit. KAT_COMMAND writes
the evaluation's words, or waits while a step uses an active core. (R217, R218, R221, R229, R230, R233, R377) -/
def Obligations.LeggetWatchdogsAndSparPorts : Prop :=
  (∀ (s : State) (y : Yealm), s.serves Isl.sm →
    (s.eng.samplingOpen = false → exec .gutterTimeout s = .next { s with eng := s.seen }) ∧
    (s.eng.samplingOpen = true → s.eng.mayReplay y → ∃ t, exec .gutterTimeout s = .next t ∧ s.eng.replays t.eng) ∧
    (s.eng.sampledCourse = none → exec .randomWordTimeout s = .next { s with eng := s.seen }) ∧
    (s.eng.sampledCourse ≠ none → s.eng.mayReplay y → ∃ t, exec .randomWordTimeout s = .next t ∧ s.eng.replays t.eng)) ∧
  (∀ (s : State) (g : BitVec 6) (lane : BitVec 5) (x : LaneGroup), s.serves Isl.sm → x = s.eng.laneGroup g.toNat →
    (17 ≤ lane.toNat ∨ x.retired = true ∨ x.fault.getLsbD lane.toNat = true →
      exec (.laneFault g lane) s = .next { s with eng := s.seen }) ∧
    (lane.toNat < 17 → x.retired = false → x.fault.getLsbD lane.toNat = false → s.eng.ylm.current = none →
      ∃ t z, exec (.laneFault g lane) s = .next t ∧ t.eng.laneGroup g.toNat = z ∧
        z.fault = x.fault ||| BitVec.twoPow 17 lane.toNat ∧ z.spareUsed = x.spareUsed ∧ z.retired = false ∧
        (x.spareUsed = false → x.pendSwitch = false → x.fault.getLsbD 16 = false → lane.toNat ≠ 16 →
          z.pendSwitch = true ∧ z.pendRetire = x.pendRetire) ∧
        (x.spareUsed = false → x.pendSwitch = false → x.fault.getLsbD 16 = false → lane.toNat = 16 →
          z.pendSwitch = false ∧ z.pendRetire = x.pendRetire) ∧
        (x.spareUsed = true ∨ x.pendSwitch = true ∨ x.fault.getLsbD 16 = true → z.pendRetire = true ∧ z.pendSwitch = x.pendSwitch) ∧
        t.eng.count Cnt.errStep = s.eng.count Cnt.errStep + 1#32)) ∧
  (∀ (s : State) (purpose : BitVec 8) (c0 c1 : BitVec 32) (site : BitVec 24) (step : BitVec 16), s.receives Isl.sp →
    (∀ (y : Yealm) (q : Quad), (s.eng.evaluate Det.sparReject).1 = false → s.eng.ylm.current = some y → s.eng.flag Fld.spgCtlTileEn = true →
      purpose = 0x10#8 ∨ purpose = 0x11#8 → step.toNat = y.step % 65536 → s.eng.siteFits y site.toNat = true →
      q = tileWords y.step purpose.toNat c0 c1 (site.setWidth 32) y.epoch →
      ∃ t, exec (.spgTileRequest purpose c0 c1 site step) s = .next t ∧
        t.eng.out = .spgWords [q.x0, q.x1, q.x2, q.x3] false :: s.eng.out ∧
        t.eng.spg.evalTile = (s.eng.spg.evalTile + 1) % 65536 ∧ t.eng.ylm = s.eng.ylm) ∧
    (s.eng.ylm.current = none → ∃ t, exec (.spgTileRequest purpose c0 c1 site step) s = .next t ∧
      Output.spgWords [0#32, 0#32, 0#32, 0#32] true ∈ t.eng.out ∧ t.eng.spg = s.eng.spg ∧
      t.eng.count Cnt.spgTileReject = s.eng.count Cnt.spgTileReject + 1#32 ∧
      t.eng.count Cnt.errStep = s.eng.count Cnt.errStep + 1#32)) ∧
  (∀ (s : State) (active culprit : BitVec 9) (agrees : Bool) (x : SparCore), s.serves Isl.sp →
    (s.eng.flag Fld.spgCtlShadowEn = false → exec (.shadowCheck active agrees culprit) s = .next { s with eng := s.seen }) ∧
    (s.eng.flag Fld.spgCtlShadowEn = true → Table.get? s.eng.spg.cores active.toNat = some x → x.active = true →
      (s.eng.spg.cores.any fun c => c.2.spare) = true → (s.eng.evaluate Det.sparShadow).1 = false →
      (agrees = true → ∃ t, exec (.shadowCheck active agrees culprit) s = .next t ∧ t.eng.spg = s.eng.spg ∧
        t.eng.count Cnt.spgShadow = s.eng.count Cnt.spgShadow + 1#32 ∧ t.eng.out = s.eng.out) ∧
      (agrees = false → s.eng.ylm.current = none → ∃ t, exec (.shadowCheck active agrees culprit) s = .next t ∧
        t.eng.spg = { s.eng.spg with culprits := insertNat culprit.toNat s.eng.spg.culprits } ∧
        t.eng.count Cnt.spgMismatch = s.eng.count Cnt.spgMismatch + 1#32 ∧
        t.eng.count Cnt.errStep = s.eng.count Cnt.errStep + 1#32))) ∧
  (∀ (s : State) (g : Bool) (busy : Bool) (w : Field → BitVec 32) (q : Quad), s.receives Isl.sp →
    busy = (((Table.get? s.eng.spg.cores (s.eng.get Fld.spgCoreSelCore)).map (·.active)).getD false && s.eng.ylm.current.isSome &&
      !s.eng.boundaryOpen) → w = (fun f => BitVec.ofNat 32 (s.eng.get f)) →
    q = spar (w Fld.spgKatKey0K0) (w Fld.spgKatKey1K1)
      { x0 := w Fld.spgKatCtr0C, x1 := w Fld.spgKatCtr1C, x2 := w Fld.spgKatCtr2C, x3 := w Fld.spgKatCtr3C } →
    (busy = true → ∃ t, exec (.katCommand g) s = .next t ∧ t.eng.spg = { s.eng.spg with katBusy := true, katGumbel := g } ∧
      t.eng.regs = s.eng.regs) ∧
    (busy = false → ∃ t, exec (.katCommand g) s = .next t ∧ t.eng.spg = { s.eng.spg with katBusy := false } ∧
      t.eng.get (katOut 0) = q.x0.toNat ∧ t.eng.get (katOut 1) = q.x1.toNat ∧ t.eng.get (katOut 2) = q.x2.toNat ∧
      t.eng.get (katOut 3) = q.x3.toNat ∧ (g = true → t.eng.get katG = (gumbel q.x0).toNat) ∧
      (g = false → t.eng.get katG = s.eng.get katG)))

/-- While PG serves on a lone engine. PAGE_MOVE_ISSUE without a granted burst changes nothing, and with 1,024 moves
outstanding issues none; else it issues the next copy of a load, or the first of the burst's moves that can begin,
shown for a spill, whose page goes IN_TRANSIT. PAGE_MOVE_COMPLETION of an unknown tag is only logged. Of a move of
an IN_TRANSIT page with holders, none still matching it: STATUS 0 gives it its new tier and frame and counts it, 1
makes it FAILED, 2 and 3 leave it as it was. PAGE_MOVE_TIMEOUT first cancels the move and is counted; the second
time the page is FAILED. SPILL_DELAY_EXPIRY wants a page that no holder needs up moved to T2. CACHE_TTL_EXPIRY frees
an old CACHED page. LOAD_TIMEOUT fails a started load. PREFIX_HOLD_EXPIRY ends an unbound prefix's residency. (R145,
R146, R147, R148, R151, R164, R185, R376) -/
def Obligations.MovesAreTrackedToTheirEnd : Prop :=
  (∀ s : State, s.serves Isl.pg → s.eng.alone →
    (s.eng.pgm.burstTag = none → s.eng.var.asked = true ∨ s.eng.var.burst = 0 ∨ s.eng.var.active = none ∨ 1024 ≤ s.eng.pgm.moves.length →
      exec .pageMoveIssue s = .next { s with eng := s.seen }) ∧
    (1024 ≤ s.eng.pgm.moves.length → ∃ t, exec .pageMoveIssue s = .next t ∧ t.eng.pgm.moves = s.eng.pgm.moves) ∧
    (∀ (id : Nat) (j : Job), s.eng.pgm.burstTag = none → s.eng.var.asked = false → 0 < s.eng.var.burst →
      s.eng.pgm.moves.length < 1024 → s.eng.var.active = some id → (s.eng.var.jobs.find? fun j => j.id == id) = some j →
      ∃ t m, exec .pageMoveIssue s = .next t ∧ t.eng.pgm.moves = s.eng.pgm.moves ++ [m] ∧ m.why = .variantLoad id ∧
        m.tag = s.eng.moveTag ∧ m.bytes = s.eng.partBytes j j.issued ∧ t.eng.var.burst = s.eng.var.burst - 1 ∧
        t.eng.out = .pageMove 1 m.tag m.srcTier m.srcAddr m.dstTier m.dstAddr m.bytes 0 0 :: s.eng.out) ∧
    (∀ (tag k : Nat) (w : WantedMove) (ws : List WantedMove) (e : Engine), s.eng.pgm.burstTag = some tag →
      s.eng.pgm.moves.length < 1024 → s.eng.pgm.burst.filter s.seen.canBegin = w :: ws → w.why = .spill →
      s.eng.takeT2 (s.eng.page w.page).cls = some (k, e) →
      ∃ t m, exec .pageMoveIssue s = .next t ∧ t.eng.pgm.moves = s.eng.pgm.moves ++ [m] ∧ m.why = .spill ∧ m.page = w.page ∧
        m.tag = s.eng.moveTag ∧ m.dstTier = 2 ∧ m.dstFrame = k ∧ t.eng.pgm.burst = ws ∧
        t.eng.page w.page = { s.eng.page w.page with state := .inTransit, before := (s.eng.page w.page).state } ∧
        t.eng.out = .pageMove 1 m.tag m.srcTier m.srcAddr m.dstTier m.dstAddr m.bytes 0 0 :: s.eng.out)) ∧
  (∀ (s : State) (tag : BitVec 32) (status : BitVec 2), s.receives Isl.pg → s.eng.alone →
    ((s.eng.pgm.moves.find? fun m => m.tag == tag.toNat) = none →
      (∃ t, exec (.pageMoveCompletion tag status) s = .next t ∧ t.eng.pgm = s.eng.pgm ∧ t.eng.var = s.eng.var ∧
        t.eng.rafter = s.eng.rafter ∧ t.eng.out = s.eng.out) ∧
      exec (.pageMoveTimeout tag) s = .next { s with eng := s.seen }) ∧
    (∀ (m : Move) (x : Page) (c : Nat), (s.eng.pgm.moves.find? fun m => m.tag == tag.toNat) = some m → x = s.eng.page m.page →
      moveCounter m.why = some c → m.why ≠ .copyOnWrite → x.state = .inTransit → x.holders ≠ 0 →
      (x.before = .openPage ∨ x.before = .full) → (∀ k ∈ s.eng.holdersOf m.page, s.eng.matching k m.page = false) →
      (∃ t, exec (.pageMoveCompletion tag 0) s = .next t ∧
        t.eng.page m.page = { x with state := x.before, tier := m.dstTier, frame := m.dstFrame } ∧
        t.eng.count c = s.eng.count c + 1#32 ∧ t.eng.pgm.moves = s.eng.pgm.moves.filter (fun y => y.tag != m.tag)) ∧
      (∃ t, exec (.pageMoveCompletion tag 1) s = .next t ∧ (t.eng.page m.page).state = .failed ∧
        t.eng.count Cnt.pgmTierFail = s.eng.count Cnt.pgmTierFail + 1#32) ∧
      (∃ t, exec (.pageMoveCompletion tag 2) s = .next t ∧ t.eng.page m.page = { x with state := x.before } ∧
        t.eng.count Cnt.pgmTierFail = s.eng.count Cnt.pgmTierFail + 1#32) ∧
      (∃ t, exec (.pageMoveCompletion tag 3) s = .next t ∧ t.eng.page m.page = { x with state := x.before } ∧
        t.eng.count c = s.eng.count c ∧ t.eng.count Cnt.pgmTierFail = s.eng.count Cnt.pgmTierFail) ∧
      (m.timed = false → m.expired = false → ∃ t, exec (.pageMoveTimeout tag) s = .next t ∧
        t.eng.pgm = { s.eng.pgm with moves := s.eng.pgm.moves.map fun y =>
          if y.tag == m.tag then { y with cancelled := true, expired := true } else y } ∧
        Output.pageMove 3 m.tag 0 0 0 0 0 0 0 ∈ t.eng.out ∧ t.eng.count Cnt.pgmMoveTo = s.eng.count Cnt.pgmMoveTo + 1#32 ∧
        t.eng.count Cnt.errCorr = s.eng.count Cnt.errCorr + 1#32) ∧
      (m.timed = true ∨ m.expired = true → ∃ t, exec (.pageMoveTimeout tag) s = .next t ∧
        (t.eng.page m.page).state = .failed ∧ t.eng.count Cnt.pgmMoveTo = s.eng.count Cnt.pgmMoveTo + 1#32))) ∧
  (∀ (s : State) (p : BitVec 22) (x : Page), s.serves Isl.pg → s.eng.alone → x = s.eng.page p.toNat →
    (2 ≤ x.tier ∨ s.eng.residentOf p.toNat ≠ 0 → exec (.spillDelayExpiry p) s = .next { s with eng := s.seen }) ∧
    (x.tier < 2 → x.state = .openPage ∨ x.state = .full → 0 < x.holders → s.eng.holdersOf p.toNat ≠ [] →
      s.eng.residentOf p.toNat = 0 → (∀ h ∈ s.eng.holdersOf p.toNat,
        ((s.eng.req? h).map (·.parkedAt)).getD 0 + s.eng.get Fld.pgmSpillDelayS * 1000000000 ≤ s.tb.count) →
      s.eng.get Fld.pgmSpillDelayS * 1000000000 ≤ s.tb.count →
      s.eng.hasT2 x.cls = true → s.eng.moving p.toNat = false → s.eng.pgm.burst ≠ [] →
      exec (.spillDelayExpiry p) s = .next { s with eng := { s.seen with pgm := { s.eng.pgm with
        wanted := s.eng.pgm.wanted ++ [{ why := .spill, page := p.toNat, slot := none, retried := false, timed := false }] } } }) ∧
    (x.state = .cached → x.pins = 0 → s.eng.get Fld.pgmCacheTtlS ≠ 0 →
      (x.cachedAt + s.eng.get Fld.pgmCacheTtlS * 1000000000 ≤ s.tb.count →
        ∃ t, exec (.cacheTtlExpiry p) s = .next t ∧ Table.get? t.eng.pgm.pages p.toNat = none ∧
          t.eng.pgm.entries = s.eng.pgm.entries.give p.toNat ∧
          t.eng.pgm.cached = s.eng.pgm.cached.filter (fun k => k != p.toNat) ∧
          t.eng.count Cnt.pgmCacheExpired = s.eng.count Cnt.pgmCacheExpired + 1#32) ∧
      (s.tb.count < x.cachedAt + s.eng.get Fld.pgmCacheTtlS * 1000000000 →
        exec (.cacheTtlExpiry p) s = .next { s with eng := s.seen }))) ∧
  (∀ (s : State) (job : BitVec 32) (pfx : BitVec 20), s.serves Isl.pg → s.eng.alone →
    (∀ (j : Job), (s.eng.var.jobs.find? fun j => j.id == job.toNat) = some j →
      (j.started = false → exec (.loadTimeout job) s = .next { s with eng := s.seen }) ∧
      (∀ f, j.started = true → j.what = .family f false → ∃ t, exec (.loadTimeout job) s = .next t ∧
        Table.get? t.eng.var.families f = none ∧ t.eng.count Cnt.varLoadTo = s.eng.count Cnt.varLoadTo + 1#32 ∧
        t.eng.count Cnt.varLoadFail = s.eng.count Cnt.varLoadFail + 1#32 ∧
        t.eng.count Cnt.errReq = s.eng.count Cnt.errReq + 1#32)) ∧
    (∀ (x : PrefixRec) (at_ : Nat), Table.get? s.eng.var.prefixes pfx.toNat = some x → x.lapse = some at_ →
      (x.bound ≠ 0 ∨ x.resident = false ∨ s.tb.count < at_ → exec (.prefixHoldExpiry pfx) s = .next { s with eng := s.seen }) ∧
      (x.bound = 0 → x.resident = true → at_ ≤ s.tb.count → ∃ t, exec (.prefixHoldExpiry pfx) s = .next t ∧
        t.eng.var = { s.eng.var with prefixes := Table.put s.eng.var.prefixes pfx.toNat { x with resident := false, lapse := none } })))

/-! ### The group -/

/-- While MD serves. JOIN_COMMAND on an engine joined or joining is a register-access error; one with admission open or
slots held also sets reason 6; with a map that fails a check it sets the reason, and the distribution time of a tree
that stands; with a good one the engine reads the entries, takes the map, its own rank and role, and is joining: any
rank but 0 sends JOIN. JOIN_TIMEOUT after MDV_JOIN_TO ends the join with reason 7. At rank 0 a JOIN with the same
CHECK is counted; with the last one the group stands and a leader's LEASE of step 1 goes out; a joining engine on
the way passes a JOIN on. FRAME_DISCARD is counted, a CRC failure as a CORRECTED error too. A frame that fails the
common checks of its header is discarded, whatever its type. The NODE that comes with the command, and frames as
whole messages, are the model's choice (log entry 52). (R234, R237, R240, R243, R246, R254) -/
def Obligations.JoiningAGroup : Prop :=
  (∀ (s : State) (node : BitVec 16) (h : Option (BitVec 512)) (es : List (BitVec 128)) (e : Engine) (reason : Nat), s.receives Isl.md →
    e = { s.eng with mdv := { s.eng.mdv with node := node.toNat } } → reason = e.mapReason h es →
    (s.eng.mdv.joined = true ∨ s.eng.mdv.joining = true → ∃ t, exec (.joinCommand node h es) s = .next t ∧ t.eng.mdv = s.eng.mdv ∧
      t.eng.glb = s.eng.glb ∧ t.eng.count Cnt.errCorr = s.eng.count Cnt.errCorr + 1#32) ∧
    (s.eng.mdv.joined = false → s.eng.mdv.joining = false → s.eng.quiet = false →
      ∃ t, exec (.joinCommand node h es) s = .next t ∧ t.eng.mdv = { s.eng.mdv with reason := 6 } ∧ t.eng.glb = s.eng.glb ∧
        t.eng.count Cnt.errCorr = s.eng.count Cnt.errCorr + 1#32) ∧
    (s.eng.mdv.joined = false → s.eng.mdv.joining = false → s.eng.quiet = true → reason ≠ 0 →
      ∃ t, exec (.joinCommand node h es) s = .next t ∧ t.eng.mdv = { s.eng.mdv with node := node.toNat, reason := reason, distWorst :=
          (if reason = 4 ∨ reason = 5 then sat32 (ceilDiv (worstDist (ranksOf es)) 100) else s.eng.mdv.distWorst) } ∧
        t.eng.glb = s.eng.glb) ∧
    (s.eng.mdv.joined = false → s.eng.mdv.joining = false → s.eng.quiet = true → reason = 0 →
      ∃ t r x read, exec (.joinCommand node h es) s = .next t ∧ (r, x) ∈ ranksOf es ∧ x.node = node.toNat ∧ t.eng.mdv.rank = r ∧
        t.eng.mdv.role = x.role ∧ t.eng.mdv.map = ranksOf es ∧ t.eng.mdv.node = node.toNat ∧ t.eng.mdv.joining = true ∧
        t.eng.mdv.joined = false ∧ t.eng.mdv.joinAt = s.tb.count ∧ t.eng.mdv.reason = 0 ∧ t.eng.mdv.joins = (if r = 0 then [0] else []) ∧
        t.eng.mdv.distWorst = sat32 (ceilDiv (worstDist (ranksOf es)) 100) ∧
        t.eng.glb.phase = (if s.eng.glb.phase = 4 then 5 else s.eng.glb.phase) ∧
        read = Output.hostRead (BitVec.ofNat 64 (s.eng.mapBase + 64)) (16 * f512 (h.getD 0) 8 0 10) :: s.eng.out ∧
        (r ≠ 0 → t.eng.out = (({ t.eng with out := read } : Engine).post 0x09 0 0 (joinBody t.eng.mdv.check.toNat r)).out) ∧
        (r = 0 → t.eng.out = read))) ∧
  (∀ s : State, s.serves Isl.md →
    (s.eng.mdv.joining = true → s.eng.mdv.joinAt + s.eng.get Fld.mdvJoinToMs * 1000000 ≤ s.tb.count →
      ∃ t, exec .joinTimeout s = .next t ∧ t.eng.mdv = { s.eng.mdv with joining := false, reason := 7 } ∧ t.eng.out = s.eng.out) ∧
    (s.eng.mdv.joining = false ∨ s.tb.count < s.eng.mdv.joinAt + s.eng.get Fld.mdvJoinToMs * 1000000 →
      exec .joinTimeout s = .next { s with eng := s.seen })) ∧
  (∀ (s : State) (f : Frame) (check : BitVec 32) (rank : BitVec 9), s.receives Isl.md →
    s.eng.takes f 0x09 (joinBody check.toNat rank.toNat) →
    (s.eng.mdv.joining = false → ∃ t, exec (.join f check rank) s = .next t ∧ t.eng.mdv.joins = s.eng.mdv.joins ∧
      t.eng.mdv.joined = s.eng.mdv.joined ∧ t.eng.out = s.eng.out) ∧
    (s.eng.mdv.joining = true → s.eng.mdv.rank ≠ 0 → ∃ t, exec (.join f check rank) s = .next t ∧
      t.eng.mdv.joins = s.eng.mdv.joins ∧ t.eng.out = (s.eng.post 0x09 0 0 (joinBody check.toNat rank.toNat)).out) ∧
    (s.eng.mdv.joining = true → s.eng.mdv.rank = 0 → check = s.eng.mdv.check → Table.has s.eng.mdv.map rank.toNat = true →
      ((insertNat rank.toNat s.eng.mdv.joins).length ≠ s.eng.mdv.map.length →
        ∃ t, exec (.join f check rank) s = .next t ∧ t.eng.mdv.joins = insertNat rank.toNat s.eng.mdv.joins ∧
          t.eng.mdv.joining = true ∧ t.eng.mdv.joined = s.eng.mdv.joined ∧ t.eng.out = s.eng.out) ∧
      ((insertNat rank.toNat s.eng.mdv.joins).length = s.eng.mdv.map.length →
        ∃ t, exec (.join f check rank) s = .next t ∧ t.eng.mdv.joined = true ∧ t.eng.mdv.joining = false ∧
          t.eng.mdv.coverAt = s.tb.count ∧ t.eng.mdv.leaseAt = s.tb.count ∧
          (s.eng.mdv.role = Role.manager → 1 < s.eng.mdv.map.length → t.eng.mdv.licensed = 1 ∧ t.eng.out =
            (({ s.eng with mdv := t.eng.mdv } : Engine).flood 0x01 1 (leaseBody s.eng.liveRanks.length) noRank).out)))) ∧
  (∀ (s : State) (check : BitVec 3), s.receives Isl.md →
    (check = 0#3 → ∃ t, exec (.frameDiscard check) s = .next t ∧ t.eng.mdv = s.eng.mdv ∧ t.eng.rafter = s.eng.rafter ∧
      t.eng.count Cnt.mdvMsgDiscard = s.eng.count Cnt.mdvMsgDiscard + 1#32 ∧
      t.eng.count Cnt.errCorr = s.eng.count Cnt.errCorr + 1#32) ∧
    (check ≠ 0#3 → ∃ t, exec (.frameDiscard check) s = .next t ∧ s.eng.discards t.eng)) ∧
  (∀ (s : State) (f : Frame) (c : Instr), s.receives Isl.md →
    (∃ b, c = .ack f b ∧ s.eng.turnsAway f 0x02 (ackBodyOf b)) ∨
      (∃ k b l g, c = .segReport f k b l g ∧ s.eng.turnsAway f 0x03 (segBody k.toNat l.toNat g.toNat b)) ∨
      (∃ k b l g, c = .courseStart f k b l g ∧ s.eng.turnsAway f 0x04 (segBody k.toNat l.toNat g.toNat b)) ∨
      (∃ p, c = .pageFail f p ∧ s.eng.turnsAway f 0x05 (pageFailBody p.toNat)) ∨
      (∃ m r, c = .fenceMessage f m r ∧ s.eng.turnsAway f 0x06 (fenceBody m.toNat r.toNat)) ∨
      (c = .probe f ∧ s.eng.turnsAway f 0x07 []) ∨
      (∃ a b d g, c = .probeReply f a b d g ∧ s.eng.turnsAway f 0x08 (replyBody a.toNat b.toNat d.toNat g.toNat)) ∨
      (∃ k r, c = .join f k r ∧ s.eng.turnsAway f 0x09 (joinBody k.toNat r.toNat)) ∨
      (∃ b, c = .abort f b ∧ s.eng.turnsAway f 0x0A (abortBodyOf b)) ∨
      (∃ k n p, c = .event f k n p ∧ s.eng.turnsAway f 0x0B (eventBody k.toNat n.toNat p)) ∨
      (∃ n, c = .mirrorAck f n ∧ s.eng.turnsAway f 0x0C (mirrorAckBody n.toNat)) ∨
      (∃ r l d k i, c = .health f r l d k i ∧ s.eng.turnsAway f 0x0D (healthBody r.toNat l.toNat d.toNat k.toNat i.toNat)) ∨
      (∃ l, c = .ops f l ∧ s.eng.turnsAway f 0x10 (opsBody l)) ∨ (∃ l, c = .manifest f l ∧ s.eng.turnsAway f 0x11 l) ∨
      (∃ k d l g, c = .tokens f k d l g ∧ s.eng.turnsAway f 0x12 (tokensBytes k.toNat d.toNat l g)) ∨
      (∃ n o b m, c = .journal f n o b m ∧ s.eng.turnsAway f 0x13 (journalBody n.toNat o.toNat b m)) ∨
      (∃ n r a b d, c = .shadowAck f n r a b d ∧ s.eng.turnsAway f 0x14 (shadowAckBody n.toNat r.toNat (a, b, d))) ∨
      (∃ k q i n m x l, c = .state f k q i n m x l ∧
        s.eng.turnsAway f 0x15 (stateHead k.toNat q.toNat i.toNat n.toNat m.toNat x ++ l)) ∨
      (∃ k v d l, c = .partials f k v d l ∧ s.eng.turnsAway f 0x18 (partialsBody k.toNat v.toNat d.toNat l)) →
    ∃ t, exec c s = .next t ∧ s.eng.discards t.eng)

/-- While MD serves. A first copy of a LEASE renews a worker: no misses, its step licensed, the time and a new epoch
noted, a joining engine joined, and it goes on over every other link; a fenced engine, the manager and one that has
the copy ignore it; one that fails its checks is discarded. The manager repeats its LEASE in a long step. At the
miss limit, or MDV_LAPSE.MS without a LEASE, a following engine fences itself with LAPSED and a STEP error; a
manager without cover for that time fences itself. FENCE_RANK on a manager sends FENCE and orders it; elsewhere it
is a register-access error. A FENCE of the engine itself for now is obeyed, one for a boundary is noted, one for
another rank passed on. A PROBE of the engine is answered, of another rank passed on; a reply at the manager ends
the probe it answers, elsewhere it goes up; a timeout ends a probe. FABRIC_STATUS notes a node, and a node down
against the ACKs' evidence is probed and fenced. How a later copy of a LEASE is told is the model's reading (log
entry 44). (R251, R252, R253, R254, R255, R256, R276, R338) -/
def Obligations.LeasesFencesAndProbes : Prop :=
  (∀ (s : State) (f : Frame) (ranks : BitVec 10) (ok : Bool), s.receives Isl.md →
    ok = (wholeFrame f 0x01 (leaseBody ranks.toNat) && s.eng.frameOk f [s.eng.epochFor f.step.toNat, (s.eng.mdv.epoch + 1) % 65536]) →
    (ok = false → ∃ t, exec (.lease f ranks) s = .next t ∧ s.eng.discards t.eng) ∧
    (ok = true → s.eng.mdv.fenced = true ∨ s.eng.manages = true ∨ s.seen.leaseCopy f.epoch.toNat f.step.toNat = true →
      exec (.lease f ranks) s = .next { s with eng := s.seen }) ∧
    (ok = true → s.eng.mdv.fenced = false → s.eng.manages = false → s.seen.leaseCopy f.epoch.toNat f.step.toNat = false →
      s.eng.mdv.role = Role.worker → s.eng.shadows = false →
      ∃ t, exec (.lease f ranks) s = .next t ∧ t.eng.mdv.misses = 0 ∧ t.eng.mdv.licensed = max s.eng.mdv.licensed f.step.toNat ∧
        t.eng.mdv.leaseAt = s.tb.count ∧ t.eng.mdv.heardAt = s.tb.count ∧ t.eng.mdv.joining = false ∧
        t.eng.mdv.joined = (s.eng.mdv.joined || s.eng.mdv.joining) ∧ t.eng.mdv.rank = s.eng.mdv.rank ∧
        t.eng.mdv.epoch = (if f.epoch.toNat = s.eng.epochFor f.step.toNat then s.eng.mdv.epoch else f.epoch.toNat) ∧
        t.eng.out = (({ s.eng with mdv := t.eng.mdv } : Engine).flood 0x01 f.step.toNat (leaseBody ranks.toNat) f.src.toNat).out ∧
        t.eng.ylm = s.eng.ylm ∧ t.eng.stepNo = s.eng.stepNo)) ∧
  (∀ s : State, s.serves Isl.md →
    (s.eng.leadsGroup = true → s.eng.ylm.current ≠ none → s.eng.mdv.licensed ≠ 0 →
      s.eng.mdv.leaseAt + s.eng.get Fld.mdvLapseMs * 500000 ≤ s.tb.count →
      ∃ t, exec .leaseRepeat s = .next t ∧ t.eng.mdv = { s.eng.mdv with leaseAt := s.tb.count } ∧
        t.eng.out = (s.eng.flood 0x01 s.eng.mdv.licensed (leaseBody s.eng.liveRanks.length) noRank).out) ∧
    (s.eng.leadsGroup = false ∨ s.eng.ylm.current = none ∨ s.eng.mdv.licensed = 0 ∨
        s.tb.count < s.eng.mdv.leaseAt + s.eng.get Fld.mdvLapseMs * 500000 →
      exec .leaseRepeat s = .next { s with eng := s.seen }) ∧
    (∀ c, (c = .leaseMissLimit ∧ s.eng.get Fld.mdvLapseSteps ≤ s.eng.mdv.misses) ∨
        (c = .leaseLapseTimeout ∧ s.eng.mdv.leaseAt + s.eng.get Fld.mdvLapseMs * 1000000 ≤ s.tb.count) →
      s.eng.follows = true → s.eng.speaks →
      ∃ t, exec c s = .next t ∧ t.eng.mdv = { s.eng.mdv with fenced := true, lapsed := true } ∧ Output.haltTiles ∈ t.eng.out ∧
        t.eng.count Cnt.mdvFence = s.eng.count Cnt.mdvFence + 1#32 ∧ t.eng.count Cnt.errStep = s.eng.count Cnt.errStep + 1#32) ∧
    (s.eng.mdv.misses < s.eng.get Fld.mdvLapseSteps ∨ s.eng.follows = false →
      exec .leaseMissLimit s = .next { s with eng := s.seen }) ∧
    (s.tb.count < s.eng.mdv.leaseAt + s.eng.get Fld.mdvLapseMs * 1000000 ∨ s.eng.follows = false →
      exec .leaseLapseTimeout s = .next { s with eng := s.seen }) ∧
    (s.eng.leadsGroup = true → s.eng.mdv.fenced = false →
      s.eng.mdv.coverAt + s.eng.get Fld.mdvLapseMs * 1000000 ≤ s.tb.count →
      ∃ t, exec .managerIsolationTimeout s = .next t ∧ t.eng.mdv = { s.eng.mdv with fenced := true } ∧ Output.haltTiles ∈ t.eng.out ∧
        t.eng.count Cnt.mdvFence = s.eng.count Cnt.mdvFence + 1#32)) ∧
  (∀ (s : State) (r : BitVec 9), s.receives Isl.md →
    (s.eng.manages = false → ∃ t, exec (.fenceRankCommand r) s = .next t ∧ t.eng.mdv = s.eng.mdv ∧
      t.eng.count Cnt.errCorr = s.eng.count Cnt.errCorr + 1#32) ∧
    (s.eng.manages = true → r.toNat ≠ s.eng.mdv.rank → r.toNat ∈ s.eng.liveRanks →
      (s.eng.mdv.pendFences.any fun x => x.rank == r.toNat) = false →
      ∃ t, exec (.fenceRankCommand r) s = .next t ∧ t.eng.mdv = { s.eng.mdv with pendFences := s.eng.mdv.pendFences ++
          [{ rank := r.toNat, at_ := s.eng.draftStep - 1, reason := 4, admitted := none }] } ∧
        t.eng.count Cnt.mdvFence = s.eng.count Cnt.mdvFence + 1#32 ∧
        t.eng.out = (s.eng.send 0x06 r.toNat s.eng.stepNo (fenceBody (s.eng.draftStep - 1) 4)).out)) ∧
  (∀ (s : State) (f : Frame) (m : BitVec 48) (reason : BitVec 8), s.receives Isl.md → s.eng.takes f 0x06 (fenceBody m.toNat reason.toNat) →
    (f.dst.toNat = s.eng.mdv.rank → m = 0#48 → s.eng.mdv.fenced = false → s.eng.shadows = false →
      ∃ t, exec (.fenceMessage f m reason) s = .next t ∧ t.eng.mdv.fenced = true ∧ t.eng.mdv.reason = reason.toNat ∧
        t.eng.count Cnt.mdvFence = s.eng.count Cnt.mdvFence + 1#32 ∧ Output.haltTiles ∈ t.eng.out) ∧
    (m ≠ 0#48 → (s.eng.mdv.pendFences.any fun x => x.rank == f.dst.toNat) = false →
      ∃ t, exec (.fenceMessage f m reason) s = .next t ∧ t.eng.mdv.fenced = s.eng.mdv.fenced ∧ t.eng.mdv.pendFences =
          s.eng.mdv.pendFences ++ [{ rank := f.dst.toNat, at_ := m.toNat, reason := reason.toNat, admitted := none }] ∧
        (f.dst.toNat = s.eng.mdv.rank → t.eng.out = s.eng.out) ∧
        (f.dst.toNat ≠ s.eng.mdv.rank → t.eng.out = (s.eng.send 0x06 f.dst.toNat f.step.toNat (fenceBody m.toNat reason.toNat)).out))) ∧
  (∀ (s : State) (f : Frame), s.receives Isl.md → s.eng.takes f 0x07 [] →
    (f.dst.toNat = s.eng.mdv.rank → ∃ t, exec (.probe f) s = .next t ∧ t.eng.out = (s.eng.send 0x08 0 s.eng.stepNo
        (replyBody s.eng.flt.commitStep s.eng.mdvStat s.eng.topScore
          (place s.eng.mdv.misses 0 16 + place ((s.tb.count - s.eng.mdv.leaseAt) / 1000000) 16 16))).out) ∧
    (f.dst.toNat ≠ s.eng.mdv.rank → ∃ t, exec (.probe f) s = .next t ∧
      t.eng.out = (s.eng.send 0x07 f.dst.toNat f.step.toNat []).out)) ∧
  (∀ (s : State) (f : Frame) (last : BitVec 48) (stat : BitVec 8) (score misses : BitVec 32), s.receives Isl.md →
    s.eng.takes f 0x08 (replyBody last.toNat stat.toNat score.toNat misses.toNat) →
    (∀ r, s.eng.manages = true → s.eng.probeOf f.src.toNat = some r →
      ∃ t, exec (.probeReply f last stat score misses) s = .next t ∧ t.eng.mdv.probes = s.eng.mdv.probes.erase r ∧
        Table.get? t.eng.mdv.replies r = some (last.toNat, stat.toNat) ∧ t.eng.out = s.eng.out) ∧
    (s.eng.manages = true → s.eng.probeOf f.src.toNat = none →
      ∃ t, exec (.probeReply f last stat score misses) s = .next t ∧ t.eng.mdv.probes = s.eng.mdv.probes ∧
        t.eng.mdv.replies = s.eng.mdv.replies ∧ t.eng.out = s.eng.out) ∧
    (s.eng.manages = false → ∃ t, exec (.probeReply f last stat score misses) s = .next t ∧ t.eng.mdv.probes = s.eng.mdv.probes ∧
      t.eng.out = (s.eng.send 0x08 0 f.step.toNat (replyBody last.toNat stat.toNat score.toNat misses.toNat)).out)) ∧
  (∀ (s : State) (r : BitVec 9), s.serves Isl.md →
    (r.toNat ∈ s.eng.mdv.probes → ∃ t, exec (.probeTimeout r) s = .next t ∧
      t.eng.mdv = { s.eng.mdv with probes := s.eng.mdv.probes.erase r.toNat }) ∧
    (r.toNat ∉ s.eng.mdv.probes → exec (.probeTimeout r) s = .next { s with eng := s.seen })) ∧
  (∀ (s : State) (node : BitVec 16) (up : Bool), s.receives Isl.md →
    (s.eng.flag Fld.mdvCtlHbEn = false → exec (.fabricStatus node up) s = .next { s with eng := s.seen }) ∧
    (s.eng.flag Fld.mdvCtlHbEn = true → (s.eng.mdv.map.any fun x => x.2.node == node.toNat) = false →
      ∃ t, exec (.fabricStatus node up) s = .next t ∧ t.eng.mdv = s.eng.mdv ∧ t.eng.out = s.eng.out) ∧
    (s.eng.flag Fld.mdvCtlHbEn = true → (s.eng.mdv.map.any fun x => x.2.node == node.toNat) = true →
      (s.eng.manages = false ∨ s.eng.covered = false → ∃ t, exec (.fabricStatus node up) s = .next t ∧ t.eng.mdv =
        { s.eng.mdv with nodesDown := if up then s.eng.mdv.nodesDown.filter (fun n => n != node.toNat) else insertNat node.toNat s.eng.mdv.nodesDown }) ∧
      (∀ r x, s.eng.manages = true → s.eng.covered = true → up = false → r ∈ s.eng.liveExecuting → s.eng.rank? r = some x →
        x.node = node.toNat → r ≠ s.eng.mdv.rank → (s.eng.mdv.pendFences.any fun x => x.rank == r) = false →
        ∃ t, exec (.fabricStatus node up) s = .next t ∧ r ∈ t.eng.mdv.probes ∧ s.eng.sends t.eng 0x07 r s.eng.stepNo [] ∧
          { rank := r, at_ := s.eng.draftStep - 1, reason := 1, admitted := none } ∈ t.eng.mdv.pendFences)))

/-- While MD serves, for frames that pass their checks. A child's first ACK of a step is merged, on a standby with the
first one opening it; the manager marks it covering when it covers every executing rank, a follower with its own
work done and every child heard sends it up; other ACKs change nothing. A silent child is named missing, and the
manager fences it. A child's SEG_REPORT is merged; with all reports a follower sends one up and the manager orders
the course. COURSE_START fixes a course's set once and goes on down; its timeout replays the step. PAGE_FAIL fails
the page at the manager, its holders past matching, and goes up elsewhere. OPS goes on down and is applied, or kept
by a loading engine; a MANIFEST in turn is accepted, one that stands already ignored, and by a standby kept (log
entry 43); one that fails its checks is a STEP error. TOKENS of a course, of no later step, move its requests on,
once. PARTIALS are merged, and with all of them a follower sends its own up; their timeout replays the step. (R238,
R245, R247, R248, R249, R250, R256) -/
def Obligations.StepsOfAGroup : Prop :=
  (∀ (s : State) (f : Frame) (b : AckBody) (a m : AckMerge) (n : Nat), s.receives Isl.md → s.eng.takes f 0x02 (ackBodyOf b) → n = f.step.toNat →
    m = a.merge f.src.toNat b →
    (Table.get? s.eng.mdv.acks n = some a → a.sent = true ∨ f.src.toNat ∈ a.children ∨ f.src.toNat ∉ s.eng.reporters →
      ∃ t, exec (.ack f b) s = .next t ∧ t.eng.mdv.acks = s.eng.mdv.acks ∧ t.eng.out = s.eng.out) ∧
    (Table.get? s.eng.mdv.acks n = some a ∨ (Table.get? s.eng.mdv.acks n = none ∧ s.eng.bystands = true ∧
        a = { AckMerge.open (((s.eng.yealmFor n).map (·.digest)).getD b.digest) with own := true }) →
      a.sent = false → f.src.toNat ∉ a.children → f.src.toNat ∈ s.eng.reporters →
      (s.eng.manages = true → s.eng.unarmed Det.missingAck → m.missing = noRank → s.eng.mdv.silentSubtrees = [] →
        (s.eng.liveExecuting.length ≤ m.cover + 1 → ∃ t, exec (.ack f b) s = .next t ∧
          Table.get? t.eng.mdv.acks n = some { m with sent := true } ∧ t.eng.mdv.coverAt = s.tb.count) ∧
        (m.cover + 1 < s.eng.liveExecuting.length → ∃ t, exec (.ack f b) s = .next t ∧ Table.get? t.eng.mdv.acks n = some m ∧
          t.eng.mdv.coverAt = s.eng.mdv.coverAt ∧ t.eng.out = s.eng.out)) ∧
      (s.eng.manages = false → s.eng.follows = true →
        (a.own = true → (∀ c ∈ s.eng.reporters, c ∈ m.children) → ∃ t, exec (.ack f b) s = .next t ∧
          Table.get? t.eng.mdv.acks n = some { m with sent := true } ∧ t.eng.mdv.silentSubtrees = [] ∧
          t.eng.out = (s.eng.send 0x02 s.eng.parentRank n (s.eng.mergedAck m)).out) ∧
        (a.own = false ∨ (∃ c ∈ s.eng.reporters, c ∉ m.children) → ∃ t, exec (.ack f b) s = .next t ∧
          Table.get? t.eng.mdv.acks n = some m ∧ t.eng.out = s.eng.out)))) ∧
  (∀ (s : State) (child : BitVec 9) (n : Nat) (a : AckMerge), s.serves Isl.md → child.toNat ∈ s.eng.reporters →
    (s.eng.silentStep child.toNat = none → exec (.childAckTimeout child) s = .next { s with eng := s.seen }) ∧
    (s.eng.silentStep child.toNat = some n → Table.get? s.eng.mdv.acks n = some a →
      (s.eng.manages = false → ∃ t a', exec (.childAckTimeout child) s = .next t ∧ Table.get? t.eng.mdv.acks n = some a' ∧
        a'.children = insertNat child.toNat a.children ∧
        a'.missing = (if a.missing = noRank then child.toNat else a.missing) ∧ a'.cover = a.cover) ∧
      (s.eng.manages = true → a.missing = noRank → child.toNat ≠ noRank → child.toNat ≠ s.eng.mdv.rank → child.toNat ∈ s.eng.liveRanks →
        s.eng.ylm.current = none → ∃ t, exec (.childAckTimeout child) s = .next t ∧ t.eng.mdv.epoch = (s.eng.mdv.epoch + 1) % 65536 ∧
          t.eng.count Cnt.mdvFence = s.eng.count Cnt.mdvFence + 1#32 ∧ t.eng.count Cnt.errStep = s.eng.count Cnt.errStep + 1#32))) ∧
  (∀ (s : State) (f : Frame) (k : BitVec 6) (base : Bool) (late failed : BitVec 1024) (g g' : SegMerge) (n : Nat), s.receives Isl.md →
    s.eng.takes f 0x03 (segBody k.toNat late.toNat failed.toNat base) → n = f.step.toNat → f.src.toNat ∈ s.eng.reporters →
    g = s.eng.segMerge n k.toNat → g.sent = false →
    g' = { g with children := insertNat f.src.toNat g.children, late := g.late ||| late, failed := g.failed ||| failed, baseFail := g.baseFail || base } →
    ((s.eng.bystands = false ∧ (g.own = false ∨ s.eng.ylm.current = none)) ∨ (∃ c ∈ s.eng.reporters, c ∉ g'.children) →
      ∃ t, exec (.segReport f k base late failed) s = .next t ∧ t.eng.segMerge n k.toNat = g' ∧ t.eng.out = s.eng.out ∧
        t.eng.ylm = s.eng.ylm) ∧
    ((∀ c ∈ s.eng.reporters, c ∈ g'.children) →
      s.eng.bystands = true ∨ (s.eng.manages = false ∧ g.own = true ∧
        ∃ y c, s.eng.ylm.current = some y ∧ y.step = n ∧ y.courses[k.toNat]? = some c) →
      ∃ t, exec (.segReport f k base late failed) s = .next t ∧ t.eng.segMerge n k.toNat = { g' with sent := true } ∧
        t.eng.out = (s.eng.send 0x03 s.eng.parentRank n (segBody k.toNat g'.late.toNat g'.failed.toNat g'.baseFail)).out) ∧
    (∀ (y : Yealm) (c : Course), g.own = true → (∀ c ∈ s.eng.reporters, c ∈ g'.children) → s.eng.ylm.current = some y → y.step = n →
      y.courses[k.toNat]? = some c → s.eng.manages = true → s.eng.shadows = false → s.eng.recordedSet n k.toNat = none →
      ∃ t l, exec (.segReport f k base late failed) s = .next t ∧
        l = (bitmapSegs g'.late).filter (fun j => !(bitmapSegs g'.failed).contains j) ∧
        (t.eng.run k.toNat).ordered = true ∧ (t.eng.run k.toNat).late = l ∧ (t.eng.run k.toNat).failedSeg = bitmapSegs g'.failed ∧
        s.eng.sends t.eng 0x04 0xFFFF n (segBody k.toNat (segBitmap l) (segBitmap (bitmapSegs g'.failed)) g'.baseFail))) ∧
  (∀ (s : State) (f : Frame) (k : BitVec 6) (base : Bool) (late failed : BitVec 1024) (y : Yealm) (c : Course), s.receives Isl.md →
    s.eng.ylm.current = some y → y.courses[k.toNat]? = some c →
    (s.eng.takes f 0x04 (segBody k.toNat late.toNat failed.toNat base) → y.step = f.step.toNat → (s.eng.run k.toNat).ordered = false →
      ∃ t l, exec (.courseStart f k base late failed) s = .next t ∧
        l = (bitmapSegs late).filter (fun j => !(bitmapSegs failed).contains j) ∧ (t.eng.run k.toNat).ordered = true ∧
        (t.eng.run k.toNat).reported = true ∧ (t.eng.run k.toNat).late = l ∧ (t.eng.run k.toNat).failedSeg = bitmapSegs failed ∧
        List.IsPrefix ((c.startWords k.toNat l (y.mode != 0)).reverse.map Output.ctl) t.eng.out ∧
        s.eng.sends t.eng 0x04 0xFFFF f.step.toNat (segBody k.toNat late.toNat failed.toNat base)) ∧
    (s.eng.takes f 0x04 (segBody k.toNat late.toNat failed.toNat base) → (s.eng.run k.toNat).ordered = true →
      ∃ t, exec (.courseStart f k base late failed) s = .next t ∧ t.eng.ylm = s.eng.ylm ∧ t.eng.rafter = s.eng.rafter) ∧
    (s.eng.mayReplay y → s.eng.grouped = true → (s.eng.run k.toNat).reported = true → (s.eng.run k.toNat).ordered = false →
      ∃ t, exec (.courseStartTimeout k) s = .next t ∧ s.eng.replays t.eng) ∧
    (s.eng.grouped = false ∨ (s.eng.run k.toNat).reported = false ∨ (s.eng.run k.toNat).ordered = true →
      exec (.courseStartTimeout k) s = .next { s with eng := s.seen })) ∧
  (∀ (s : State) (f : Frame) (p : BitVec 22) (x : Page), s.receives Isl.md → s.eng.takes f 0x05 (pageFailBody p.toNat) → x = s.eng.page p.toNat →
    (s.eng.manages = true → s.eng.shadows = false → x.state = .openPage ∨ x.state = .full → x.holders ≠ 0 →
      (∀ j ∈ s.eng.holdersOf p.toNat, s.eng.matching j p.toNat = false) →
      ∃ t, exec (.pageFail f p) s = .next t ∧ (t.eng.page p.toNat).state = .failed ∧
        t.eng.count Cnt.pgmTierFail = s.eng.count Cnt.pgmTierFail + 1#32) ∧
    (s.eng.manages = false → ∃ t, exec (.pageFail f p) s = .next t ∧ t.eng.pgm = s.eng.pgm ∧
      t.eng.out = (s.eng.send 0x05 0 f.step.toNat (pageFailBody p.toNat)).out)) ∧
  (∀ (s : State) (f : Frame) (l : List (BitVec 256)), s.receives Isl.md → s.eng.takes f 0x10 (opsBody l) → s.eng.mdv.fenced = false →
    s.eng.manages = false →
    (s.eng.flt.shadow.phase = 1 → ∃ t, exec (.ops f l) s = .next t ∧
      t.eng.flt.shadow.held = s.eng.flt.shadow.held ++ [.ops f.step.toNat l] ∧ t.eng.pgm = s.eng.pgm ∧ t.eng.var = s.eng.var) ∧
    (s.eng.flt.shadow.phase ≠ 1 → ∃ t, exec (.ops f l) s = .next t ∧ t.eng.mdv.packetAt = s.tb.count ∧
      s.eng.sends t.eng 0x10 0xFFFF f.step.toNat (opsBody l) ∧ t.eng.count Cnt.mdvPkt = s.eng.count Cnt.mdvPkt + 1#32) ∧
    (∀ x, s.eng.flt.shadow.phase ≠ 1 → l = [x] → opf x 0 0 8 = 0x0C → s.eng.replica? (BitVec.ofNat 32 (opf x 4 0 32)) ≠ none →
      ∃ t, exec (.ops f l) s = .next t ∧
        Table.get? t.eng.mdv.replicas (slotOf (BitVec.ofNat 32 (opf x 4 0 32))) = none)) ∧
  (∀ (s : State) (f : Frame) (bs : List Byte), s.receives Isl.md → s.eng.takes f 0x11 bs → s.eng.mdv.fenced = false → s.eng.manages = false →
    s.eng.unarmed Det.manifestCheck → s.eng.flt.shadow.phase ≠ 1 →
    (∀ y, s.eng.parseManifest bs = some y → y.step % 2 ^ 48 = f.step.toNat →
      (s.eng.executes = true → y.step = s.eng.nextManifest → ∃ t g, exec (.manifest f bs) s = .next t ∧
        t.eng.mdv.manifestIn = some y ∧ t.eng.mdv.distNs = s.tb.count - s.eng.mdv.packetAt ∧
        t.eng.cpc.ch0.waiting = s.eng.cpc.ch0.waiting ++ [g] ∧ g.cls = 1 ∧ g.cred = y.credits ∧ t.eng.ylm.current = s.eng.ylm.current) ∧
      (s.eng.executes = true → y.step ≠ s.eng.nextManifest → s.eng.holdsManifest y = true → ∃ t, exec (.manifest f bs) s = .next t ∧
        t.eng.mdv.manifestIn = s.eng.mdv.manifestIn ∧ t.eng.ylm = s.eng.ylm ∧ t.eng.cpc = s.eng.cpc) ∧
      (s.eng.executes = false → ∃ t, exec (.manifest f bs) s = .next t ∧ Table.get? t.eng.ylm.archive y.step = some y ∧
        t.eng.ylm.current = s.eng.ylm.current ∧ t.eng.mdv.manifestIn = s.eng.mdv.manifestIn)) ∧
    (s.eng.parseManifest bs = none ∨ (∃ y, s.eng.parseManifest bs = some y ∧ (y.step % 2 ^ 48 ≠ f.step.toNat ∨
        (s.eng.executes = true ∧ y.step ≠ s.eng.nextManifest ∧ s.eng.holdsManifest y = false))) →
      (s.eng.ylm.current = none → ∃ t, exec (.manifest f bs) s = .next t ∧ t.eng.mdv.manifestIn = s.eng.mdv.manifestIn ∧
        t.eng.ylm = s.eng.ylm ∧ t.eng.count Cnt.errStep = s.eng.count Cnt.errStep + 1#32) ∧
      (∀ y, s.eng.mayReplay y → ∃ t, exec (.manifest f bs) s = .next t ∧ s.eng.replays t.eng))) ∧
  (∀ (s : State) (f : Frame) (k : BitVec 6) (first : BitVec 17) (xs : List (BitVec 32)) (gs : List (BitVec 128)) (y : Yealm) (c : Course),
    s.receives Isl.md → s.eng.takes f 0x12 (tokensBytes k.toNat first.toNat xs gs) → s.eng.mdv.fenced = false → s.eng.manages = false →
    s.eng.flt.shadow.phase ≠ 1 → f.step.toNat ≤ s.eng.stepNo → s.eng.yealmFor f.step.toNat = some y → y.courses[k.toNat]? = some c →
    (k.toNat ∈ s.eng.mdv.tokensSeen → ∃ t, exec (.tokens f k first xs gs) s = .next t ∧ t.eng.ylm = s.eng.ylm ∧ t.eng.smp = s.eng.smp ∧
      t.eng.rafter = s.eng.rafter ∧ t.eng.mdv.replicas = s.eng.mdv.replicas) ∧
    (k.toNat ∉ s.eng.mdv.tokensSeen → first.toNat ≠ c.firstDraw ∨ xs.length ≠ c.draws → ∃ t, exec (.tokens f k first xs gs) s = .next t ∧
      t.eng.count Cnt.mdvMsgDiscard = s.eng.count Cnt.mdvMsgDiscard + 1#32 ∧ t.eng.ylm = s.eng.ylm ∧ t.eng.rafter = s.eng.rafter) ∧
    (k.toNat ∉ s.eng.mdv.tokensSeen → first.toNat = c.firstDraw → xs.length = c.draws →
      (∃ t, exec (.tokens f k first xs gs) s = .next t ∧ t.eng.mdv.tokensSeen = insertNat k.toNat s.eng.mdv.tokensSeen ∧
        (s.eng.shadows = false → t.eng.smp.nextEmit = max s.eng.smp.nextEmit (c.firstDraw + c.draws))) ∧
      (∀ (m : Member) (r : Rafter) (x : BitVec 32), c.members = 1 → y.members[c.firstMember]? = some m → m.draws = 1 → xs = [x] →
        m.firstDraw = c.firstDraw → entryCounted x.toNat = true → entryVoid x.toNat = false → entryFinal x.toNat = false →
        s.eng.anyReq? m.slot = some r → r.handle = m.handle →
        ∃ t r', exec (.tokens f k first xs gs) s = .next t ∧ t.eng.anyReq? m.slot = some r' ∧
          r'.seqEnd = s.eng.seqAtStart m r + 1 ∧ r'.generated = r.generated + 1 ∧ r'.state = r.state))) ∧
  (∀ (s : State) (f : Frame) (k : BitVec 6) (cover : BitVec 10) (first : BitVec 17) (l : List PartialRec) (y : Yealm) (c : Course)
      (p p' : PartMerge), s.receives Isl.md → s.eng.takes f 0x18 (partialsBody k.toNat cover.toNat first.toNat l) →
    s.eng.yealmFor f.step.toNat = some y → y.courses[k.toNat]? = some c → p = s.eng.partsOf k.toNat →
    p' = { p with children := insertNat f.src.toNat p.children, cover := p.cover + cover.toNat, records := p.records ++ l } →
    (first.toNat ≠ c.firstDraw → ∃ t, exec (.partials f k cover first l) s = .next t ∧
      t.eng.count Cnt.mdvMsgDiscard = s.eng.count Cnt.mdvMsgDiscard + 1#32 ∧ t.eng.mdv.parts = s.eng.mdv.parts ∧ t.eng.smp = s.eng.smp) ∧
    (first.toNat = c.firstDraw → f.step.toNat = s.eng.stepNo → f.src.toNat ∉ p.children → f.src.toNat ∈ s.eng.reporters → p.sent = false →
      (s.eng.follows = false ∨ s.eng.courseFolded y c = false ∨ (∃ j ∈ s.eng.reporters, j ∉ p'.children) →
        ∃ t, exec (.partials f k cover first l) s = .next t ∧ t.eng.partsOf k.toNat = p') ∧
      (s.eng.follows = true → s.eng.shadows = false → s.eng.sharded = true → s.eng.courseFolded y c = true →
        (∀ j ∈ s.eng.reporters, j ∈ p'.children) →
        ∃ t own, exec (.partials f k cover first l) s = .next t ∧ t.eng.partsOf k.toNat = { p' with own := true, sent := true } ∧
          s.eng.sends t.eng 0x18 s.eng.parentRank y.step (partialsBody k.toNat (p'.cover + s.eng.ownCover) c.firstDraw own)))) ∧
  (∀ (s : State) (k : BitVec 6) (child : BitVec 9) (y : Yealm) (c : Course), s.serves Isl.md → s.eng.ylm.current = some y →
    y.courses[k.toNat]? = some c →
    (s.eng.mayReplay y → s.eng.sharded = true → child.toNat ∈ s.eng.reporters → child.toNat ∉ (s.eng.partsOf k.toNat).children →
      s.eng.courseFolded y c = true → c.draws ≠ 0 → ∃ t, exec (.partialsTimeout k child) s = .next t ∧ s.eng.replays t.eng ∧
        child.toNat ∈ t.eng.mdv.silentSubtrees) ∧
    (s.eng.sharded = false ∨ child.toNat ∉ s.eng.reporters ∨ child.toNat ∈ (s.eng.partsOf k.toNat).children ∨
        s.eng.courseFolded y c = false ∨ c.draws = 0 → exec (.partialsTimeout k child) s = .next { s with eng := s.seen }))

/-! ### Aborts, mirrors, takeover, shadows and health -/

/-- While MD serves, for frames that pass their checks. A second copy of an ABORT, or one at a fenced engine, changes
nothing; the first copy goes on over every other link, twice on each; for the step in compute it replays it without
an error of its own, unless a replay of it has only started (log entry 52), and a standby undoes what its step's
tokens wrote. An EVENT for another rank is passed on; the partner applies one of its own to the replica it names;
keepalives are numbered; an acknowledged event lets the record that waits for it be written. A JOURNAL for another
rank is passed on; one whose record and manifest are sound is held and answered, any other is discarded; the
partner's MIRROR_ACK raises the mirrored step, one by another link does not (log entry 52). TAKEOVER_TIMEOUT changes
nothing until it is due; then the partner takes rank 0 with a new epoch, from the newest record it holds. A TAKEOVER
of the next epoch raises the epoch and goes on, one failing its checks is discarded. (R263, R264, R265, R267, R276,
R277, R284) -/
def Obligations.AbortsMirrorsAndTakeover : Prop :=
  (∀ (s : State) (f : Frame) (b : AbortBody) (key : Nat × Nat), s.receives Isl.md → s.eng.takes f 0x0A (abortBodyOf b) →
    key = (b.origin.toNat, b.sequence.toNat) →
    (s.eng.mdv.fenced = true ∨ key ∈ s.eng.flt.seenAborts → ∃ t, exec (.abort f b) s = .next t ∧ t.eng.flt = s.eng.flt ∧
      t.eng.ylm = s.eng.ylm ∧ t.eng.rafter = s.eng.rafter ∧ t.eng.out = s.eng.out ∧ t.eng.cnt = s.eng.cnt) ∧
    (s.eng.mdv.fenced = false → key ∉ s.eng.flt.seenAborts → b.cause ≠ 2 →
      (∃ t, exec (.abort f b) s = .next t ∧ key ∈ t.eng.flt.seenAborts ∧
        ∀ o ∈ (s.eng.floodAbort b.step.toNat (abortBodyOf b) f.src.toNat).out, o ∈ t.eng.out) ∧
      (∀ y, s.eng.mayReplay y → y.step = b.step.toNat → s.eng.replayFresh y.step = false →
        ∃ t, exec (.abort f b) s = .next t ∧ t.eng.flt.replaying = true ∧ t.eng.ylm.runs = [] ∧ t.eng.smp.ctxs = [] ∧ t.eng.smp.nextEmit = 0 ∧ key ∈ t.eng.flt.seenAborts ∧
        t.eng.count Cnt.fltAbort = s.eng.count Cnt.fltAbort + 1#32 ∧ t.eng.count Cnt.fltReplay = s.eng.count Cnt.fltReplay + 1#32 ∧
        t.eng.count Cnt.errStep = s.eng.count Cnt.errStep) ∧
      (∀ y, s.eng.ylm.current = some y → y.step ≠ b.step.toNat ∨ y.step ≤ s.eng.flt.commitStep ∨ s.eng.replayFresh y.step = true →
        ∃ t, exec (.abort f b) s = .next t ∧ t.eng.ylm.current = some y ∧ t.eng.smp = s.eng.smp ∧ t.eng.rafter = s.eng.rafter ∧
          t.eng.flt.replaying = s.eng.flt.replaying) ∧
      (s.eng.ylm.current = none → s.eng.follows = true → s.eng.executes = false → b.step.toNat = s.eng.stepNo →
        ∃ t, exec (.abort f b) s = .next t ∧ t.eng.flt.undo = [] ∧ t.eng.mdv.tokensSeen = [] ∧ t.eng.flt.replaying = true))) ∧
  (∀ (s : State) (f : Frame) (kind : BitVec 8) (n : BitVec 16) (bs : List Byte), s.receives Isl.md →
    s.eng.takes f 0x0B (eventBody kind.toNat n.toNat bs) →
    (f.dst.toNat ≠ s.eng.mdv.rank → ∃ t, exec (.event f kind n bs) s = .next t ∧
      t.eng.out = (s.eng.send 0x0B f.dst.toNat f.step.toNat (eventBody kind.toNat n.toNat bs)).out ∧
      t.eng.mdv.replicas = s.eng.mdv.replicas) ∧
    (f.dst.toNat = s.eng.mdv.rank → s.eng.manages = true ∨ s.eng.mdv.fenced = true → ∃ t, exec (.event f kind n bs) s = .next t ∧
      t.eng.mdv.replicas = s.eng.mdv.replicas ∧ t.eng.adm = s.eng.adm ∧ t.eng.flt = s.eng.flt) ∧
    (f.dst.toNat = s.eng.mdv.rank → s.eng.manages = false → s.eng.mdv.fenced = false →
      (kind.toNat = Mirror.tenant → ∃ t, exec (.event f kind n bs) s = .next t ∧
        Table.get? t.eng.adm.tenants (numAt bs 0 2) = some (Tenant.ofImage (numAt bs 2 32))) ∧
      (∀ (x : JEvent) (r : Rafter), kind.toNat ≠ Mirror.keepalive → kind.toNat ≠ Mirror.rafter → kind.toNat ≠ Mirror.tenant →
        kind.toNat ≠ Mirror.descriptor → x = jeventOf bs → x.kind ≠ 0x0A → s.eng.replica? (BitVec.ofNat 32 x.who) = some r →
        ∃ t, exec (.event f kind n bs) s = .next t ∧
          Table.get? t.eng.mdv.replicas (slotOf (BitVec.ofNat 32 x.who)) = some (x.onReplica r)))) ∧
  (∀ s : State, s.serves Isl.md →
    (s.eng.mirrors = false → exec .eventKeepalive s = .next { s with eng := s.seen }) ∧
    (s.eng.mirrors = true → ∃ t, exec .eventKeepalive s = .next t ∧
      t.eng.flt = { s.eng.flt with eventSeq := (s.eng.flt.eventSeq + 1) % 65536 } ∧
      t.eng.out = (s.eng.send 0x0B (s.eng.partner.getD noRank) s.eng.stepNo (eventBody 0 s.eng.flt.eventSeq [])).out)) ∧
  (∀ (s : State) (n : BitVec 16), s.receives Isl.md →
    (s.eng.manages = false → exec (.eventMirrorAck n) s = .next { s with eng := s.seen }) ∧
    (∀ g, s.eng.manages = true → s.eng.hru.gated = [g] → g.sequence = n.toNat → s.eng.err.fatal = false → s.eng.hru.credit = true →
      (s.eng.evt g.record.ring).enabled = true → ∃ t, exec (.eventMirrorAck n) s = .next t ∧ t.eng.hru.gated = [] ∧
        t.eng.flt.gateAcked = (n.toNat + 1) % 65536 ∧ s.eng.wrote t.eng g.record) ∧
    (s.eng.manages = true → s.eng.hru.gated = [] → exec (.eventMirrorAck n) s =
      .next { s with eng := { s.seen with flt := { s.eng.flt with gateAcked := (n.toNat + 1) % 65536 } } })) ∧
  (∀ (s : State) (f : Frame) (n : BitVec 48), s.receives Isl.md → s.eng.takes f 0x0C (mirrorAckBody n.toNat) →
    (∀ p, f.dst.toNat = s.eng.mdv.rank → s.eng.partner = some p → f.src.toNat = (s.eng.hop p).1 →
      ∃ t, exec (.mirrorAck f n) s = .next t ∧
        t.eng.flt = { s.eng.flt with mirrorStep := max s.eng.flt.mirrorStep n.toNat } ∧ t.eng.out = s.eng.out) ∧
    (f.dst.toNat = s.eng.mdv.rank → (∀ p, s.eng.partner = some p → f.src.toNat ≠ (s.eng.hop p).1) →
      ∃ t, exec (.mirrorAck f n) s = .next t ∧ t.eng.flt = s.eng.flt ∧ t.eng.out = s.eng.out) ∧
    (f.dst.toNat ≠ s.eng.mdv.rank → ∃ t, exec (.mirrorAck f n) s = .next t ∧ t.eng.flt = s.eng.flt ∧
      t.eng.out = (s.eng.send 0x0C f.dst.toNat f.step.toNat (mirrorAckBody n.toNat)).out)) ∧
  (∀ (s : State) (f : Frame) (n : BitVec 48) (origin : BitVec 9) (bs m : List Byte), s.receives Isl.md →
    s.eng.takes f 0x13 (journalBody n.toNat origin.toNat bs m) → s.eng.mdv.fenced = false →
    (f.dst.toNat ≠ s.eng.mdv.rank → ∃ t, exec (.journal f n origin bs m) s = .next t ∧ t.eng.flt = s.eng.flt ∧
      t.eng.out = (s.eng.send 0x13 f.dst.toNat f.step.toNat (journalBody n.toNat origin.toNat bs m)).out) ∧
    (f.dst.toNat = s.eng.mdv.rank → recordSound n.toNat bs = true → m = [] ∨ s.eng.parseManifest m ≠ none →
      0 < s.eng.get Fld.fltJrnlDepthN → s.eng.shadows = false →
      ∃ t, exec (.journal f n origin bs m) s = .next t ∧
        Table.get? t.eng.flt.mirrored (mirrorKey origin.toNat n.toNat) = some (bs, m) ∧
        s.eng.sends t.eng 0x0C origin.toNat s.eng.stepNo (mirrorAckBody (t.eng.newestMirrored origin.toNat))) ∧
    (f.dst.toNat = s.eng.mdv.rank → recordSound n.toNat bs = false ∨ (m ≠ [] ∧ s.eng.parseManifest m = none) →
      ∃ t, exec (.journal f n origin bs m) s = .next t ∧ t.eng.flt = s.eng.flt ∧
      t.eng.out = s.eng.out ∧ t.eng.count Cnt.mdvMsgDiscard = s.eng.count Cnt.mdvMsgDiscard + 1#32)) ∧
  (∀ (s : State) (scan : List ScanRec) (tails : List TailRec), s.serves Isl.md →
    (s.seen.takeoverDue = false → exec (.takeoverTimeout scan tails) s = .next { s with eng := s.seen }) ∧
    (∀ x p, s.seen.takeoverDue = true → s.eng.rank? 0 = some x → s.eng.rank? s.eng.mdv.rank = some p → p.role = Role.standby →
      s.eng.mdv.rank ∉ s.eng.mdv.fencedRanks → s.eng.shadows = false →
      ∃ t, exec (.takeoverTimeout scan tails) s = .next t ∧ t.eng.mdv.rank = 0 ∧ t.eng.mdv.role = x.role ∧
        t.eng.mdv.epoch = (s.eng.mdv.epoch + 1) % 65536 ∧ t.eng.flt.takenOver = true ∧
        t.eng.flt.commitStep = s.eng.newestMirrored 0 ∧ t.eng.count Cnt.fltTakeover = s.eng.count Cnt.fltTakeover + 1#32 ∧
        Output.irq 59 ∈ t.eng.out)) ∧
  (∀ (s : State) (f : Frame) (rank : BitVec 9) (node epoch : BitVec 16) (n : BitVec 48) (ok : Bool), s.receives Isl.md →
    ok = (wholeFrame f 0x0E (takeoverBody rank.toNat node.toNat epoch.toNat n.toNat) &&
      s.eng.frameOk f [s.eng.epochFor f.step.toNat, (s.eng.mdv.epoch + 1) % 65536]) →
    (ok = false → ∃ t, exec (.takeover f rank node epoch n) s = .next t ∧ s.eng.discards t.eng) ∧
    (ok = true → rank ≠ 0#9 → exec (.takeover f rank node epoch n) s = .next { s with eng := s.seen }) ∧
    (ok = true → rank = 0#9 → s.eng.mdv.fenced = false → epoch.toNat = (s.eng.mdv.epoch + 1) % 65536 →
      (s.eng.rank? 0).map (·.node) ≠ some node.toNat → ∃ t, exec (.takeover f rank node epoch n) s = .next t ∧
        t.eng.mdv.epoch = epoch.toNat ∧ t.eng.mdv.heardAt = s.tb.count ∧
        (∀ o ∈ (s.eng.flood 0x0E n.toNat (takeoverBody 0 node.toNat epoch.toNat n.toNat) f.src.toNat).out, o ∈ t.eng.out) ∧
        t.eng.count Cnt.fltAbort = s.eng.count Cnt.fltAbort + 1#32))

/-- While the unit's island serves. SHADOW_COMMAND with a good map clears the tables and asks rank 0; otherwise it is an
error or sets the reason; WITHDRAW_COMMAND ends the shadow. The manager answers SHADOW_REQ, an engine on the way
passes it up; SHADOW_GRANT starts the load or ends the shadow, tells a source, notes an admission, or is passed on;
STATE items enter the tables, END with its CRC ends the load, a wrong one or STATE_LOAD_TIMEOUT restarts it;
SHADOW_ACK's values are compared, once. HEALTH_UPDATE decays a score and adds its events; HEALTH asks the governor,
which expels or holds; HOUR_WINDOW_MOVE lets it think again. RETRAINING_FAILURE orders a lane's spare.
INTER_UNIT_WATCHDOG takes the outcome of Table 1.8's row. The checks of SHADOW_REQ and SHADOW_GRANT are the model's
reading (log entry 45). (R31, R217, R279, R280, R281, R282, R283) -/
def Obligations.ShadowsAndHealth : Prop :=
  (∀ (s : State) (r : BitVec 9) (role : BitVec 2) (node : BitVec 16) (h : Option (BitVec 512)) (es : List (BitVec 128)) (e : Engine)
      (reason : Nat), s.receives Isl.md → e = { s.eng with mdv := { s.eng.mdv with node := node.toNat } } → reason = e.mapReason h es →
    (s.eng.mdv.joining = true ∨ s.eng.shadows = true ∨ s.eng.speaks ∨ (role ≠ 1#2 ∧ role ≠ 2#2) →
      ∃ t, exec (.shadowCommand r role node h es) s = .next t ∧ t.eng.mdv = s.eng.mdv ∧ t.eng.flt = s.eng.flt ∧
        t.eng.count Cnt.errCorr = s.eng.count Cnt.errCorr + 1#32) ∧
    (s.eng.mdv.joining = false → s.eng.shadows = false → s.eng.mdv.joined = false ∨ s.eng.mdv.fenced = true →
      role = 1#2 ∨ role = 2#2 →
      (reason ≠ 0 → ∃ t, exec (.shadowCommand r role node h es) s = .next t ∧ t.eng.flt = s.eng.flt ∧
        t.eng.mdv = { s.eng.mdv with node := node.toNat, reason := reason, distWorst :=
          (if reason = 4 ∨ reason = 5 then sat32 (ceilDiv (worstDist (ranksOf es)) 100) else s.eng.mdv.distWorst) } ∧
        t.eng.rafter = s.eng.rafter) ∧
      (reason = 0 → ∃ t, exec (.shadowCommand r role node h es) s = .next t ∧ t.eng.flt.shadow.phase = 1 ∧
        t.eng.flt.shadow.rank = r.toNat ∧ t.eng.flt.shadow.role = role.toNat ∧ t.eng.flt.shadow.source = noRank ∧
        t.eng.flt.shadow.nextSeq = 0 ∧ t.eng.rafter = [] ∧ t.eng.pgm.pages = [] ∧ t.eng.mdv.map = ranksOf es ∧ t.eng.mdv.joined = false ∧
        t.eng.mdv.fenced = false ∧ t.eng.mdv.node = node.toNat ∧ Output.stateRestart ∈ t.eng.out ∧
        ∃ o, t.eng.out = (({ t.eng with out := o } : Engine).post 0x16 0 s.eng.stepNo
          (shadowReqBody r.toNat role.toNat node.toNat t.eng.mdv.check.toNat)).out))) ∧
  (∀ s : State, s.receives Isl.md →
    (s.eng.shadows = false → exec .withdrawCommand s = .next { s with eng := s.seen }) ∧
    (s.eng.shadows = true → ∃ t, exec .withdrawCommand s = .next t ∧ t.eng.mdv = s.eng.mdv ∧ t.eng.flt.shadow.held = [] ∧
      t.eng.flt.shadow.phase = 0 ∧ t.eng.flt.shadow.running = false ∧ t.eng.glb = s.eng.glb) ∧
    (s.eng.flt.shadow.phase ≠ 1 ∨ s.tb.count < s.eng.flt.shadow.loadAt + s.eng.get Fld.fltLoadToMs * 1000000 →
      exec .stateLoadTimeout s = .next { s with eng := s.seen }) ∧
    (s.eng.flt.shadow.phase = 1 → s.eng.flt.shadow.loadAt + s.eng.get Fld.fltLoadToMs * 1000000 ≤ s.tb.count →
      ∃ t, exec .stateLoadTimeout s = .next t ∧ t.eng.flt.shadow.phase = 1 ∧ t.eng.flt.shadow.nextSeq = 0 ∧
        t.eng.flt.shadow.source = noRank ∧ t.eng.flt.shadow.loadAt = s.tb.count ∧ Output.stateRestart ∈ t.eng.out)) ∧
  (∀ (s : State) (f : Frame) (r : BitVec 9) (role : BitVec 8) (node : BitVec 16) (check : BitVec 32) (body : List Byte), s.receives Isl.md →
    body = shadowReqBody r.toNat role.toNat node.toNat check.toNat → s.eng.takesEarly f 0x16 body →
    (s.eng.manages = false → ∃ t, exec (.shadowReq f r role node check) s = .next t ∧ t.eng.flt = s.eng.flt ∧
      t.eng.out = (s.eng.send 0x16 0 f.step.toNat body).out) ∧
    (s.eng.manages = true → s.eng.rankOfNode node.toNat = none → ∃ t, exec (.shadowReq f r role node check) s = .next t ∧
      t.eng.flt = s.eng.flt ∧ t.eng.out = s.eng.out ∧ t.eng.count Cnt.mdvMsgDiscard = s.eng.count Cnt.mdvMsgDiscard + 1#32) ∧
    (∀ (dst g : Nat) (e : Engine) (answer : List Byte), s.eng.manages = true → s.eng.rankOfNode node.toNat = some dst →
      g = s.eng.grantReason r.toNat node.toNat check.toNat → e = s.eng.noteGuest dst node.toNat (g == 0) →
      answer = shadowGrantBody
        { rank := r.toNat, granted := g == 0, admitted := false, reason := g, source := r.toNat,
          step := s.eng.draftStep, node := node.toNat, epoch := 0 } → ∃ t, exec (.shadowReq f r role node check) s = .next t ∧
        e.sends t.eng 0x17 dst s.eng.stepNo answer ∧ (g ≠ 0 → t.eng.flt = s.eng.flt) ∧
        (g = 0 → (r.toNat, node.toNat, role.toNat) ∈ t.eng.flt.shadow.watching) ∧
        (g = 0 → r.toNat ≠ s.eng.mdv.rank → e.sends t.eng 0x17 r.toNat s.eng.stepNo answer))) ∧
  (∀ (s : State) (f : Frame) (r : BitVec 9) (granted admitted : Bool) (reason : BitVec 8) (source : BitVec 9) (n : BitVec 48)
      (node epoch : BitVec 16) (g : Grant), s.receives Isl.md →
    g = { rank := r.toNat, granted := granted, admitted := admitted, reason := reason.toNat, source := source.toNat, step := n.toNat,
          node := node.toNat, epoch := epoch.toNat } →
    (s.eng.awaitsGrant = true → s.eng.takesEarly f 0x17 (shadowGrantBody g)) →
    (s.eng.awaitsGrant = false → s.eng.takes f 0x17 (shadowGrantBody g)) →
    (admitted = true → s.eng.manages = false → (s.eng.mdv.pendFences.any fun x => x.admitted == some node.toNat) = false →
      ∃ t, exec (.shadowGrant f r granted true reason source n node epoch) s = .next t ∧ t.eng.mdv.pendFences = s.eng.mdv.pendFences ++
          [{ rank := r.toNat, at_ := n.toNat, reason := 0, admitted := some node.toNat }] ∧
        t.eng.out = (s.eng.flood 0x17 s.eng.stepNo (shadowGrantBody g) f.src.toNat).out) ∧
    (admitted = false → f.dst.toNat ≠ s.eng.mdv.rank → ∃ t, exec (.shadowGrant f r granted false reason source n node epoch) s = .next t ∧
      t.eng.flt = s.eng.flt ∧ t.eng.out = ((s.eng.noteGuest f.dst.toNat node.toNat
        (granted && s.eng.rankOfNode node.toNat == some f.dst.toNat)).send 0x17 f.dst.toNat f.step.toNat (shadowGrantBody g)).out) ∧
    (admitted = false → f.dst.toNat = s.eng.mdv.rank → s.eng.flt.shadow.phase = 1 → node.toNat = s.eng.mdv.node →
      (granted = false → ∃ t, exec (.shadowGrant f r granted false reason source n node epoch) s = .next t ∧
        t.eng.flt.shadow.phase = 0 ∧ t.eng.flt.shadow.held = []) ∧
      (granted = true → ∃ t, exec (.shadowGrant f r granted false reason source n node epoch) s = .next t ∧
        t.eng.flt.shadow.phase = 1 ∧ t.eng.flt.shadow.source = source.toNat ∧ t.eng.flt.shadow.loadStep = n.toNat ∧
        t.eng.stepNo = f.step.toNat ∧ t.eng.mdv.epoch = f.epoch.toNat ∧ t.eng.rafter = [])) ∧
    (admitted = false → f.dst.toNat = s.eng.mdv.rank → s.eng.flt.shadow.phase ≠ 1 → granted = true → r.toNat = s.eng.mdv.rank →
      ∃ t, exec (.shadowGrant f r granted false reason source n node epoch) s = .next t ∧ t.eng.flt.shadow.loadStep = n.toNat ∧
        (r.toNat, node.toNat, 0) ∈ t.eng.flt.shadow.watching ∧ t.eng.flt.shadow.matched = 0)) ∧
  (∀ (s : State) (f : Frame) (kind : BitVec 8) (q : BitVec 16) (i count : BitVec 32) (n : BitVec 48) (crc : BitVec 64) (bs : List Byte),
    s.receives Isl.md → s.eng.takes f 0x15 (stateHead kind.toNat q.toNat i.toNat count.toNat n.toNat crc ++ bs) → s.eng.mdv.fenced = false →
    f.dst.toNat = s.eng.mdv.rank → s.eng.flt.shadow.phase = 1 →
    s.eng.flt.shadow.source ≠ noRank → n.toNat = s.eng.flt.shadow.loadStep →
    (q.toNat ≠ s.eng.flt.shadow.nextSeq → ∃ t, exec (.state f kind q i count n crc bs) s = .next t ∧ t.eng.flt = s.eng.flt ∧
      t.eng.adm = s.eng.adm ∧ t.eng.count Cnt.mdvMsgDiscard = s.eng.count Cnt.mdvMsgDiscard + 1#32) ∧
    (q.toNat = s.eng.flt.shadow.nextSeq → kind = 7#8 → count = 1#32 → bs.length = 32 →
      ∃ t, exec (.state f kind q i count n crc bs) s = .next t ∧
        Table.get? t.eng.adm.tenants i.toNat = some (Tenant.ofImage (numAt bs 0 32)) ∧
        t.eng.flt.shadow.nextSeq = s.eng.flt.shadow.nextSeq + 1 ∧ t.eng.flt.shadow.phase = 1) ∧
    (q.toNat = s.eng.flt.shadow.nextSeq → kind = 0xFF#8 → bs = [] → s.eng.flt.shadow.held = [] →
      (s.eng.flt.shadow.crcState ^^^ 0xFFFFFFFFFFFFFFFF#64 = crc → ∃ t, exec (.state f kind q i count n crc bs) s = .next t ∧
        t.eng.flt.shadow.phase = 2 ∧ t.eng.flt.shadow.running = s.eng.flt.shadow.running ∧ t.eng.adm = s.eng.adm) ∧
      (s.eng.flt.shadow.crcState ^^^ 0xFFFFFFFFFFFFFFFF#64 ≠ crc → ∃ t, exec (.state f kind q i count n crc bs) s = .next t ∧
        t.eng.flt.shadow.phase = 1 ∧ t.eng.flt.shadow.nextSeq = 0 ∧ Output.stateRestart ∈ t.eng.out))) ∧
  (∀ (s : State) (f : Frame) (n : BitVec 48) (r : BitVec 9) (a b c : BitVec 64), s.receives Isl.md →
    s.eng.takes f 0x14 (shadowAckBody n.toNat r.toNat (a, b, c)) →
    f.dst.toNat = s.eng.mdv.rank → r.toNat = s.eng.mdv.rank →
    (s.eng.watcher r.toNat = none → ∃ t, exec (.shadowAck f n r a b c) s = .next t ∧ t.eng.flt = s.eng.flt ∧ t.eng.out = s.eng.out) ∧
    (s.eng.watcher r.toNat ≠ none →
      (Table.get? s.eng.flt.shadow.own n.toNat = none → ∃ t, exec (.shadowAck f n r a b c) s = .next t ∧
        Table.get? t.eng.flt.shadow.acked n.toNat = some (a, b, c) ∧ t.eng.flt.shadow.matched = s.eng.flt.shadow.matched) ∧
      (∀ v, Table.get? s.eng.flt.shadow.own n.toNat = some v → v = (a, b, c) → s.eng.flt.shadow.matched + 1 < s.eng.get Fld.fltShadowStepsN →
        ∃ t, exec (.shadowAck f n r a b c) s = .next t ∧ t.eng.flt.shadow.matched = min 4095 (s.eng.flt.shadow.matched + 1) ∧
          t.eng.flt.shadow.mismatches = s.eng.flt.shadow.mismatches ∧ Table.get? t.eng.flt.shadow.own n.toNat = none) ∧
      (∀ v, Table.get? s.eng.flt.shadow.own n.toNat = some v → v ≠ (a, b, c) → s.eng.flt.shadow.mismatches + 1 < 4 →
        ∃ t, exec (.shadowAck f n r a b c) s = .next t ∧ t.eng.flt.shadow.matched = 0 ∧
          t.eng.flt.shadow.mismatches = s.eng.flt.shadow.mismatches + 1 ∧ t.eng.flt.shadow.watching = s.eng.flt.shadow.watching))) ∧
  (∀ (s : State) (k : Nat) (p : Part), s.serves Isl.ao → s.eng.flt.parts = [(k, p)] → s.eng.flt.fed = [] →
    ∃ t p', exec (.healthUpdate []) s = .next t ∧ Table.get? t.eng.flt.parts k = some p' ∧
      p'.score = min 65535 (p.score - p.score / 2 ^ s.eng.get Fld.fltDecayShift) ∧ p'.level = s.eng.levelOf p.level p'.score) ∧
  (∀ (s : State) (f : Frame) (r : BitVec 9) (level : BitVec 8) (score : BitVec 16) (kind : BitVec 8) (index : BitVec 16) (body : List Byte), s.receives Isl.md →
    body = healthBody r.toNat level.toNat score.toNat kind.toNat index.toNat → s.eng.takes f 0x0D body →
    (s.eng.manages = false → ∃ t, exec (.health f r level score kind index) s = .next t ∧
      t.eng.out = (s.eng.send 0x0D 0 f.step.toNat body).out) ∧
    (s.eng.manages = true → level ≠ 3#8 → ∃ t, exec (.health f r level score kind index) s = .next t ∧ t.eng.flt = s.eng.flt ∧
      t.eng.out = s.eng.out) ∧
    (s.eng.manages = true → level = 3#8 → r.toNat ∈ s.eng.liveRanks → (s.eng.mdv.pendFences.any fun x => x.rank == r.toNat) = false →
      (s.seen.expelledNow.length < s.eng.get Fld.fltGovPerHour → s.eng.get Fld.fltGovFloor ≤ s.eng.standbysAfter r.toNat →
        ∃ t, exec (.health f r level score kind index) s = .next t ∧ t.eng.flt.expelled = s.seen.expelledNow ++ [s.tb.count] ∧
          t.eng.mdv.pendFences = s.eng.mdv.pendFences ++ [{ rank := r.toNat, at_ := s.eng.draftStep - 1, reason := 5, admitted := none }] ∧
          t.eng.count Cnt.fltExpel = s.eng.count Cnt.fltExpel + 1#32) ∧
      (s.eng.get Fld.fltGovPerHour ≤ s.seen.expelledNow.length ∨ s.eng.standbysAfter r.toNat < s.eng.get Fld.fltGovFloor →
        ∃ t, exec (.health f r level score kind index) s = .next t ∧ t.eng.flt.governed = true ∧ (r.toNat, 3) ∈ t.eng.flt.heldExpel ∧
          t.eng.mdv.pendFences = s.eng.mdv.pendFences ∧ t.eng.count Cnt.fltGoverned = s.eng.count Cnt.fltGoverned + 1#32))) ∧
  (∀ (s : State) (lane : BitVec 2), s.serves Isl.md →
    (s.eng.flt.heldExpel = [] → exec .hourWindowMove s =
      .next { s with eng := { s.seen with flt := { s.eng.flt with expelled := s.seen.expelledNow } } }) ∧
    (lane = 3#2 → exec (.retrainingFailure lane) s = .next { s with eng := s.seen }) ∧
    (lane ≠ 3#2 → ∃ t, exec (.retrainingFailure lane) s = .next t ∧
      t.eng.flt = { s.eng.flt with laneSwitch := s.eng.flt.laneSwitch ++ [lane.toNat] } ∧ t.eng.out = s.eng.out)) ∧
  (∀ (s : State) (x : BitVec 32), s.serves Isl.sb →
    (s.eng.stateOf x.toNat = .admitting → (s.eng.adm.held.any fun h => h.slot == x.toNat) = false →
      ∃ t, exec (.interUnitWatchdog 0 x) s = .next t ∧ (t.eng.adm.held.any fun h => h.slot == x.toNat) = true ∧
        t.eng.count Cnt.admHeld = s.eng.count Cnt.admHeld + 1#32 ∧ t.eng.rafter = s.eng.rafter) ∧
    (∃ t, exec (.interUnitWatchdog 1 x) s = .next t ∧ t.eng.rafter = s.eng.rafter ∧ t.eng.ylm.draft = s.eng.ylm.draft.map fun y =>
      { y with members := y.members.filter fun m => m.slot != x.toNat }) ∧
    (∀ row : BitVec 4, row = 3 ∨ row = 5 ∨ 6 < row → ∃ t, exec (.interUnitWatchdog row x) s = .next t ∧ t.eng.ylm = s.eng.ylm ∧
      t.eng.adm = s.eng.adm ∧ t.eng.rafter = s.eng.rafter ∧ t.eng.err = s.eng.err ∧ t.eng.out = s.eng.out) ∧
    (∀ (row : BitVec 4) (y : Yealm), row = 4 ∨ row = 6 → s.eng.mayReplay y →
      ∃ t, exec (.interUnitWatchdog row x) s = .next t ∧ s.eng.replays t.eng))

/-! ### The register window, and rules stated whole -/

/-- An access of another size or place than R12 allows is a register-access error, a read answering zero, whatever the
unit's state. A 32-bit write of a register with one plain field, in fourteen of them that take in every island's
units, writes the field when the value is in its range, and is otherwise ignored and recorded. A write where nothing
is assigned changes nothing, and an access to a unit whose island is stopped or held in reset waits in its crossing.
A 32-bit read answers the register; one of the low half of a 64-bit quantity latches the high half, which the next
read of the high half answers. Above 2 MiB an operand names a core in service and an address of its map: the window
there is the window; shared memory and the core's own local memory take a store, and a load reads them or the task
records; a load or a store outside the map, or a store against its column, is an access fault on that core and a
register-access error; a wrong access of a port is recorded; and an operation of the scheduler port or of a queue
port is what its own command does, a load of a payload word answering that word of the core's last pop (which
operand names which core and address is the model's choice, log entry 50). (R11, R12, R13, R16, R220, R287, R389) -/
def Obligations.RegistersAnswerInTheWindow : Prop :=
  (∀ (s : State) (off : BitVec 32) (size : Nat) (v : BitVec 64), off.toNat < 0x200000 → accessOk off.toNat size = false → s.serves Isl.ao →
    exec (.registerWrite off size v) s = .next { s with eng := s.seen.badAccess off.toNat } ∧
    ∃ t, exec (.registerRead off size) s = .next t ∧ Output.regData 0 ∈ t.eng.out ∧ t.eng.regs = s.eng.regs ∧ t.eng.highs = s.eng.highs ∧
      t.eng.count Cnt.errCorr = s.eng.count Cnt.errCorr + 1#32) ∧
  (∀ (s : State) (f : Field) (isl : Nat) (off v : BitVec 32), f ∈ [Fld.hruRdToUs, Fld.admHoldToMs, Fld.ylmStallLimitUs, Fld.pgmMoveToUs,
      Fld.varLoadToMs, Fld.smpGutToUs, Fld.spgCoreSelCore, Fld.mdvCsToUs, Fld.fltReplayMaxN, Fld.tskMigrateUs, Fld.bplStallToUs,
      Fld.evrFreezeToMs, Fld.errCtxSelEntry, Fld.cpcTbToUs] →
    off.toNat = f.off → regIsland f.off = some isl → s.receives isl → s.eng.mdv.joined = false →
    (f.admits v.toNat = true → exec (.registerWrite off 4 (v.setWidth 64)) s =
      .next { s with eng := s.seen.put f (bitsOf v.toNat f.lsb f.width) }) ∧
    (f.admits v.toNat = false → exec (.registerWrite off 4 (v.setWidth 64)) s = .next { s with eng := s.seen.badAccess f.off })) ∧
  (∀ (s : State) (off : BitVec 32) (size : Nat) (v : BitVec 64), off.toNat < 0x200000 → accessOk off.toNat size = true →
    (size = 4 → regIsland off.toNat = none → exec (.registerWrite off size v) s = .next { s with eng := s.seen }) ∧
    (∀ isl, regIsland off.toNat = some isl → isl ≠ Isl.ao → s.eng.live isl = false →
      exec (.registerWrite off size v) s =
        .next { s with crossing := s.crossing ++ [(isl, .registerWrite off size v)], eng := s.seen } ∧
      exec (.registerRead off size) s =
        .next { s with crossing := s.crossing ++ [(isl, .registerRead off size)], eng := s.seen })) ∧
  (∀ (s : State) (off : BitVec 32), off.toNat < 0x200000 → accessOk off.toNat 4 = true →
    s.receives ((regIsland off.toNat).getD Isl.ao) → off.toNat ≠ 0x004060 →
    (off.toNat ∈ pairOffsets → ∃ t, exec (.registerRead off 4) s = .next t ∧
      t.eng.out = .regData (BitVec.ofNat 64 (s.seen.regValue off.toNat)) :: s.eng.out ∧
      Table.get? t.eng.highs (off.toNat + 4) = some (BitVec.ofNat 32 (s.seen.regValue (off.toNat + 4))) ∧ t.eng.regs = s.eng.regs) ∧
    (∀ w, off.toNat ∉ pairOffsets → Table.get? s.eng.highs off.toNat = some w → ∃ t, exec (.registerRead off 4) s = .next t ∧
      t.eng.out = .regData (BitVec.ofNat 64 w.toNat) :: s.eng.out ∧ Table.get? t.eng.highs off.toNat = none) ∧
    (off.toNat ∉ pairOffsets → Table.get? s.eng.highs off.toNat = none → exec (.registerRead off 4) s =
      .next { s with eng := s.seen.emit (.regData (BitVec.ofNat 64 (s.seen.regValue off.toNat))) })) ∧
  (∀ (s : State) (a : BitVec 32) (size : Nat) (v : BitVec 64) (l p : Nat), 0x200000 ≤ a.toNat → accessPoint a.toNat = (l, p) →
    (s.eng.core l).inService = true →
    (∀ o, coreArea p size = some (.window, o) → accessOk o size = true → s.receives ((regIsland o).getD Isl.ao) →
      exec (.registerWrite a size v) s = exec (.registerWrite (BitVec.ofNat 32 o) size v) s ∧
      exec (.registerRead a size) s = exec (.registerRead (BitVec.ofNat 32 o) size) s) ∧
    (∀ o, coreArea p size = some (.shared, o) → s.serves Isl.cc → Memory.wf s.eng.tsk.shared = true →
      (∃ t, exec (.registerWrite a size v) s = .next t ∧ t.eng.out = s.eng.out ∧
        (∀ i, i < size → (Memory.read t.eng.tsk.shared (o + i)).toNat = bitsOf v.toNat (8 * i) 8) ∧
        (∀ b, b < o ∨ o + size ≤ b → Memory.read t.eng.tsk.shared b = Memory.read s.eng.tsk.shared b)) ∧
      ∃ x, x = bytesFrom (fun b => (Memory.read s.eng.tsk.shared b).toNat) o size ∧
        exec (.registerRead a size) s = .next { s with eng := s.seen.emit (.portData l (BitVec.ofNat 64 x)) }) ∧
    (∀ o, coreArea p size = some (.own, o) → s.serves Isl.cc → Memory.wf (Table.getD s.eng.tsk.locals l []) = true →
      (∃ t, exec (.registerWrite a size v) s = .next t ∧ t.eng.out = s.eng.out ∧
        (∀ i, i < size → t.eng.localByte l (o + i) = bitsOf v.toNat (8 * i) 8) ∧
        (∀ b, b < o ∨ o + size ≤ b → t.eng.localByte l b = s.eng.localByte l b) ∧
        (∀ k b, k ≠ l → t.eng.localByte k b = s.eng.localByte k b)) ∧
      exec (.registerRead a size) s =
        .next { s with eng := s.seen.emit (.portData l (BitVec.ofNat 64 (bytesFrom (s.eng.localByte l) o size))) }) ∧
    (∀ o, coreArea p size = some (.tasks, o) → s.serves Isl.cc → exec (.registerRead a size) s =
        .next { s with eng := s.seen.emit (.portData l (BitVec.ofNat 64 (bytesFrom s.eng.taskByte o size))) }) ∧
    (coreArea p size = none → s.serves Isl.cc →
      exec (.registerWrite a size v) s = .next { s with eng := s.seen.coreFault l p } ∧
      exec (.registerRead a size) s = .next { s with eng := s.seen.coreFault l p }) ∧
    (∀ area o, coreArea p size = some (area, o) → area ∈ [.tasks, .flows, .bootRom, .view, .t0] → s.serves Isl.cc →
      exec (.registerWrite a size v) s = .next { s with eng := s.seen.coreFault l p }) ∧
    (∀ o, coreArea p size = some (.port, o) → s.serves Isl.cc →
      (portSized o size = false → exec (.registerWrite a size v) s = .next { s with eng := s.seen.badAccess (0x2000000 + o) }) ∧
      (∀ c, portSized o size = true → (o, c) ∈ [(0x008, Instr.waitStore (BitVec.ofNat 4 l) v), (0x018, .postStore v), (0x020, .cancelTask v),
          (0x028, .yieldStore (BitVec.ofNat 4 l)), (0x030, .doneStore (BitVec.ofNat 4 l) v), (0x038, .checkin (BitVec.ofNat 4 l)),
          (0x040, .stageStore (BitVec.ofNat 4 l) 0 v), (0x078, .stageStore (BitVec.ofNat 4 l) 7 v), (0x080, .createStore (BitVec.ofNat 4 l) v),
          (0x088, .destroyStore v), (0x090, .prioStore v)] → exec (.registerWrite a size v) s = exec c s) ∧
      (∀ c, portSized o size = true → (o, c) ∈ [(0x000, Instr.selfLoad (BitVec.ofNat 4 l)), (0x010, .takeLoad (BitVec.ofNat 4 l)),
          (0x098, .nextLoad (BitVec.ofNat 4 l))] → exec (.registerRead a size) s = exec c s)) ∧
    (∀ o q, coreArea p size = some (.queues, o) → s.receives Isl.bp → q = BitVec.ofNat 10 (o / 64) →
      (portSized o size = false → exec (.registerWrite a size v) s = .next { s with eng := s.seen.badAccess (0x3000000 + o) }) ∧
      (portSized o size = true → o % 64 = 0 → exec (.registerWrite a size v) s = exec (.push (BitVec.ofNat 4 l) q v) s ∧
        exec (.registerRead a size) s = exec (.pop (BitVec.ofNat 4 l) q) s) ∧
      (portSized o size = true → o % 64 ≠ 0 →
        exec (.registerWrite a size v) s = exec (.stagePayloadWord (BitVec.ofNat 4 l) q (BitVec.ofNat 3 (o % 64 / 8 - 1)) v) s ∧
        (∀ w, s.eng.flag Fld.bplCtlEnable = true → (s.eng.view l (o / 64)).popped[o % 64 / 8 - 1]? = some w →
          exec (.registerRead a size) s = .next { s with eng := s.seen.emit (.portData l w) }))))

/-- While HI serves. A doorbell write whose index is not below the ring's size, or has a bit in [31:16] set, or whose
ring is disabled, or with HRU_CTL.ENABLE = 0, or whose ring has DB_KIND 1, or an EQ_HEAD value that claims more
records consumed than the engine has written, is counted in HRU_CNT_DB_INVALID and recorded in the eaves log, and
does nothing else. (R44) -/
def Obligations.InvalidDoorbellsAreIgnored : Prop :=
  (∀ (s : State) (i : BitVec 12) (v : BitVec 32) (r : SubRing), s.receives Isl.hi → r = s.eng.sub i.toNat →
    r.size ≤ v.toNat ∨ 65536 ≤ v.toNat ∨ r.enabled = false ∨ s.eng.flag Fld.hruCtlEnable = false ∨ r.coherent = true →
    exec (.sqTail i v) s =
      .next { s with eng := (s.seen.bump Cnt.hruDbInvalid).log Ev.doorbellInvalid [ringCode false i.toNat, v.toNat] }) ∧
  (∀ (s : State) (i : BitVec 12) (v : BitVec 32) (r : EvtRing), s.receives Isl.hi → r = s.eng.evt i.toNat →
    r.size ≤ v.toNat ∨ 65536 ≤ v.toNat ∨ r.enabled = false ∨ s.eng.flag Fld.hruCtlEnable = false ∨ r.coherent = true ∨
      (r.tail + r.size - r.hostHead) % r.size < (v.toNat + r.size - r.hostHead) % r.size →
    exec (.eqHead i v) s =
      .next { s with eng := (s.seen.bump Cnt.hruDbInvalid).log Ev.doorbellInvalid [ringCode true i.toNat, v.toNat] })

/-- While AO serves. ERR_CTX_DONE with an active error: a suspended error becomes active and nothing is suspended; with
none suspended the first pending entry becomes active and leaves the queue; with none pending either, no error is
active. With no error active it does nothing but record a register-access error. A write of ERR_CTX_DONE with bit 0
set does the same. (R348) -/
def Obligations.DoneEndsTheActiveError : Prop :=
  (∀ (s : State) (a x : ErrEntry), s.serves Isl.ao → s.eng.err.active = some a → s.eng.err.suspended = some x →
    ∃ t, exec .errCtxDone s = .next t ∧ t.eng.err = { s.eng.err with active := some x, suspended := none }) ∧
  (∀ (s : State) (a p : ErrEntry) (ps : List ErrEntry), s.serves Isl.ao → s.eng.err.active = some a →
    s.eng.err.suspended = none → s.eng.err.pending = p :: ps →
    ∃ t, exec .errCtxDone s = .next t ∧ t.eng.err = { s.eng.err with active := some p, pending := ps }) ∧
  (∀ (s : State) (a : ErrEntry), s.serves Isl.ao → s.eng.err.active = some a → s.eng.err.suspended = none →
    s.eng.err.pending = [] → ∃ t, exec .errCtxDone s = .next t ∧ t.eng.err = { s.eng.err with active := none }) ∧
  (∀ s : State, s.serves Isl.ao → s.eng.err.active = none →
    exec .errCtxDone s = .next { s with eng := s.seen.badAccess 0x402C }) ∧
  (∀ (s : State) (v : BitVec 64), v.getLsbD 0 = true → exec (.registerWrite 0x402C#32 4 v) s = exec .errCtxDone s)

/-- The free list after reset is 0 to 262,143 in order. A freed slot joins its tail, so that every slot on the list
before it is taken first; a take removes its head, and fails only on an empty list. Freeing a request at effect 2,
and refusing a SUBMIT, give the slot back so. A SUBMIT that passes its checks takes the head. When a freed slot's
generation wraps, SB_CNT_GEN_WRAP counts it, and otherwise not. (R64) -/
def Obligations.SlotsAreReusedInOrder : Prop :=
  State.reset.eng.slots.listing = List.range 262144 ∧
  (∀ (f : FreeList) (k : Nat), (f.give k).listing = f.listing ++ [k]) ∧
  (∀ (f g : FreeList) (k : Nat), f.take = some (k, g) → f.listing = k :: g.listing) ∧
  (∀ f : FreeList, f.take = none ↔ f.listing = []) ∧
  (∀ (e : Engine) (slot : Nat) (r : Rafter), (e.freeRequest slot r).slots = e.slots.give slot) ∧
  (∀ (e : Engine) (slot status : Nat), e.req? slot ≠ none → (e.refuse slot status).slots = e.slots.give slot) ∧
  (∀ (s : State) (i : BitVec 12) (d : Staged) (data : ListRead), s.receives Isl.sb → s.eng.decodes i.toNat d 1 →
    d.reads = .done data → s.eng.submitCheck d (d.submitOf (s.eng.sub d.ring)) data = none → s.eng.slots.listing ≠ [] →
    ∃ t slot rest, exec (.submit i) s = .next t ∧ s.eng.slots.listing = slot :: rest ∧ t.eng.slots.listing = rest ∧
      (t.eng.req? slot).map (·.state) = some .admitting) ∧
  (∀ (e : Engine) (slot : Nat), (e.nextGeneration slot).gen slot = nextGen slot (e.gen slot) ∧
    (e.nextGeneration slot).count Cnt.sbGenWrap = e.count Cnt.sbGenWrap + (if nextGen slot (e.gen slot) = 0 then 1#32 else 0#32))
end

