-- ==== Sys2Proof/Laws/Memory.lean ====
section
/-!
SUPPORT. Laws/Memory.lean: every write of the eaves-log region keeps the canonical form, reads back, and leaves every
other byte alone.
-/

namespace Sys2Proof.Machine

/-- A canonical tail stays canonical from a lower start. -/
theorem Memory.wfFrom_mono {m : List Host.Cell} {lo lo' : Nat} (h : lo' ≤ lo) (w : Memory.wfFrom lo m = true) :
    Memory.wfFrom lo' m = true := by
  cases m with
  | nil => rfl
  | cons x m =>
    obtain ⟨a, b⟩ := x
    simp only [Memory.wfFrom, Bool.and_eq_true, decide_eq_true_eq] at w ⊢
    exact ⟨⟨by omega, w.1.2⟩, w.2⟩

/-- A byte written at or above the start keeps the form. -/
theorem Memory.wfFrom_write {m : List Host.Cell} {lo : Nat} (a : Nat) (b : Byte) (h : lo ≤ a)
    (w : Memory.wfFrom lo m = true) : Memory.wfFrom lo (Memory.write m a b) = true := by
  induction m generalizing lo with
  | nil =>
    simp only [Memory.write]
    split
    · rfl
    · simp [Memory.wfFrom, *]
  | cons x m ih =>
    obtain ⟨a', b'⟩ := x
    simp only [Memory.wfFrom, Bool.and_eq_true, decide_eq_true_eq] at w
    simp only [Memory.write]
    split
    · subst_vars
      split
      · exact Memory.wfFrom_mono (by omega) w.2
      · simp [Memory.wfFrom, w.2, *]
    · split
      · split
        · simp [Memory.wfFrom, w.1.1, w.1.2, w.2]
        · rename_i hlt hb
          have : Memory.wfFrom (a + 1) ((a', b') :: m) = true := by
            simp only [Memory.wfFrom, Bool.and_eq_true, decide_eq_true_eq]
            exact ⟨⟨by omega, w.1.2⟩, w.2⟩
          rw [Memory.wfFrom]
          simp [h, hb, this]
      · have : Memory.wfFrom (a' + 1) (Memory.write m a b) = true := ih (by omega) w.2
        simp [Memory.wfFrom, w.1.1, w.1.2, this]

/-- One byte written keeps the canonical form. -/
theorem Memory.wf_write {m : List Host.Cell} (a : Nat) (b : Byte) (w : Memory.wf m = true) :
    Memory.wf (Memory.write m a b) = true := Memory.wfFrom_write a b (Nat.zero_le a) w

/-- Bytes written keep the canonical form. -/
theorem Memory.wf_writeBytes {m : List Host.Cell} (a : Nat) (bs : List Byte) (w : Memory.wf m = true) :
    Memory.wf (Memory.writeBytes m a bs) = true := by
  induction bs generalizing m a with
  | nil => exact w
  | cons b bs ih => exact ih (a + 1) (Memory.wf_write a b w)

/-- Below the start nothing is listed. -/
theorem Memory.read_below {m : List Host.Cell} {lo a : Nat} (w : Memory.wfFrom lo m = true) (h : a < lo) :
    Memory.read m a = Memory.unlisted := by
  induction m generalizing lo with
  | nil => rfl
  | cons x m ih =>
    obtain ⟨a', b'⟩ := x
    simp only [Memory.wfFrom, Bool.and_eq_true, decide_eq_true_eq] at w
    simp only [Memory.read]
    split
    · omega
    · exact ih w.2 (by omega)

/-- A byte written reads as written. -/
theorem Memory.read_write_self {m : List Host.Cell} {lo : Nat} (a : Nat) (b : Byte) (w : Memory.wfFrom lo m = true) :
    Memory.read (Memory.write m a b) a = b := by
  induction m generalizing lo with
  | nil =>
    simp only [Memory.write]
    split
    · simp [Memory.read, *]
    · simp [Memory.read]
  | cons x m ih =>
    obtain ⟨a', b'⟩ := x
    simp only [Memory.wfFrom, Bool.and_eq_true, decide_eq_true_eq] at w
    simp only [Memory.write]
    split
    · subst_vars
      split
      · rw [Memory.read_below w.2 (by omega)]; simp [*]
      · simp [Memory.read]
    · split
      · split
        · rename_i hne hlt hb
          simp only [Memory.read, if_neg hne]
          rw [Memory.read_below w.2 (by omega), hb]
        · simp [Memory.read]
      · rename_i hne hlt
        simp only [Memory.read, if_neg hne]
        exact ih w.2

/-- A write leaves every other byte alone. -/
theorem Memory.read_write_ne {m : List Host.Cell} {a c : Nat} (b : Byte) (h : c ≠ a) :
    Memory.read (Memory.write m a b) c = Memory.read m c := by
  induction m with
  | nil =>
    simp only [Memory.write]
    split
    · rfl
    · simp [Memory.read, h.symm]
  | cons x m ih =>
    obtain ⟨a', b'⟩ := x
    simp only [Memory.write]
    split
    · subst_vars
      split <;> simp [Memory.read, h.symm]
    · split
      · split
        · rfl
        · simp [Memory.read, h.symm]
      · simp [Memory.read, ih]

/-- Bytes written from an address on leave the bytes outside them alone. -/
theorem Memory.read_writeBytes_outside {m : List Host.Cell} {a c : Nat} (bs : List Byte) (h : c < a ∨ a + bs.length ≤ c) :
    Memory.read (Memory.writeBytes m a bs) c = Memory.read m c := by
  induction bs generalizing m a with
  | nil => rfl
  | cons b bs ih =>
    simp only [List.length_cons] at h
    rw [Memory.writeBytes, ih (by omega), Memory.read_write_ne b (by omega)]

/-- Bytes written read back in order. -/
theorem Memory.read_writeBytes {m : List Host.Cell} {a i : Nat} {bs : List Byte} (w : Memory.wf m = true) (h : i < bs.length) :
    Memory.read (Memory.writeBytes m a bs) (a + i) = bs[i] := by
  induction bs generalizing m a i with
  | nil => simp at h
  | cons b bs ih =>
    rw [Memory.writeBytes]
    cases i with
    | zero =>
      rw [Memory.read_writeBytes_outside bs (by omega)]
      simpa using Memory.read_write_self a b w
    | succ i =>
      have := ih (a := a + 1) (Memory.wf_write a b w) (by simpa using h)
      simpa [Nat.add_assoc, Nat.add_comm 1 i] using this

end Sys2Proof.Machine
end

