-- ==== Sys2Proof/Laws/State.lean ====
section
/-!
SUPPORT. Laws/State.lean: what each update of the state leaves alone and what it writes, one lemma for each field.
-/

namespace Sys2Proof.Machine

variable (e : Engine)

/-! ### Engine.put -/

@[simp] theorem Engine.put_now (f : Field) (v : Nat) : (e.put f v).now = e.now := rfl
@[simp] theorem Engine.put_taken (f : Field) (v : Nat) : (e.put f v).taken = e.taken := rfl
@[simp] theorem Engine.put_cnt (f : Field) (v : Nat) : (e.put f v).cnt = e.cnt := rfl
@[simp] theorem Engine.put_latched (f : Field) (v : Nat) : (e.put f v).latched = e.latched := rfl
@[simp] theorem Engine.put_highs (f : Field) (v : Nat) : (e.put f v).highs = e.highs := rfl
@[simp] theorem Engine.put_mem (f : Field) (v : Nat) : (e.put f v).mem = e.mem := rfl
@[simp] theorem Engine.put_rafter (f : Field) (v : Nat) : (e.put f v).rafter = e.rafter := rfl
@[simp] theorem Engine.put_gens (f : Field) (v : Nat) : (e.put f v).gens = e.gens := rfl
@[simp] theorem Engine.put_slots (f : Field) (v : Nat) : (e.put f v).slots = e.slots := rfl
@[simp] theorem Engine.put_stop (f : Field) (v : Nat) : (e.put f v).stop = e.stop := rfl
@[simp] theorem Engine.put_ready0 (f : Field) (v : Nat) : (e.put f v).ready0 = e.ready0 := rfl
@[simp] theorem Engine.put_ready1 (f : Field) (v : Nat) : (e.put f v).ready1 = e.ready1 := rfl
@[simp] theorem Engine.put_ready2 (f : Field) (v : Nat) : (e.put f v).ready2 = e.ready2 := rfl
@[simp] theorem Engine.put_splice0 (f : Field) (v : Nat) : (e.put f v).splice0 = e.splice0 := rfl
@[simp] theorem Engine.put_splice1 (f : Field) (v : Nat) : (e.put f v).splice1 = e.splice1 := rfl
@[simp] theorem Engine.put_splice2 (f : Field) (v : Nat) : (e.put f v).splice2 = e.splice2 := rfl
@[simp] theorem Engine.put_actAt (f : Field) (v : Nat) : (e.put f v).actAt = e.actAt := rfl
@[simp] theorem Engine.put_acted (f : Field) (v : Nat) : (e.put f v).acted = e.acted := rfl
@[simp] theorem Engine.put_stepNo (f : Field) (v : Nat) : (e.put f v).stepNo = e.stepNo := rfl
@[simp] theorem Engine.put_stateCnt (f : Field) (v : Nat) : (e.put f v).stateCnt = e.stateCnt := rfl
@[simp] theorem Engine.put_boundaryOpen (f : Field) (v : Nat) : (e.put f v).boundaryOpen = e.boundaryOpen := rfl
@[simp] theorem Engine.put_hru (f : Field) (v : Nat) : (e.put f v).hru = e.hru := rfl
@[simp] theorem Engine.put_adm (f : Field) (v : Nat) : (e.put f v).adm = e.adm := rfl
@[simp] theorem Engine.put_ylm (f : Field) (v : Nat) : (e.put f v).ylm = e.ylm := rfl
@[simp] theorem Engine.put_pgm (f : Field) (v : Nat) : (e.put f v).pgm = e.pgm := rfl
@[simp] theorem Engine.put_var (f : Field) (v : Nat) : (e.put f v).var = e.var := rfl
@[simp] theorem Engine.put_smp (f : Field) (v : Nat) : (e.put f v).smp = e.smp := rfl
@[simp] theorem Engine.put_spg (f : Field) (v : Nat) : (e.put f v).spg = e.spg := rfl
@[simp] theorem Engine.put_mdv (f : Field) (v : Nat) : (e.put f v).mdv = e.mdv := rfl
@[simp] theorem Engine.put_flt (f : Field) (v : Nat) : (e.put f v).flt = e.flt := rfl
@[simp] theorem Engine.put_tsk (f : Field) (v : Nat) : (e.put f v).tsk = e.tsk := rfl
@[simp] theorem Engine.put_bpl (f : Field) (v : Nat) : (e.put f v).bpl = e.bpl := rfl
@[simp] theorem Engine.put_evr (f : Field) (v : Nat) : (e.put f v).evr = e.evr := rfl
@[simp] theorem Engine.put_err (f : Field) (v : Nat) : (e.put f v).err = e.err := rfl
@[simp] theorem Engine.put_cpc (f : Field) (v : Nat) : (e.put f v).cpc = e.cpc := rfl
@[simp] theorem Engine.put_cal (f : Field) (v : Nat) : (e.put f v).cal = e.cal := rfl
@[simp] theorem Engine.put_glb (f : Field) (v : Nat) : (e.put f v).glb = e.glb := rfl
@[simp] theorem Engine.put_out (f : Field) (v : Nat) : (e.put f v).out = e.out := rfl

/-! ### Engine.bumpBy -/

@[simp] theorem Engine.bumpBy_now (c n : Nat) : (e.bumpBy c n).now = e.now := rfl
@[simp] theorem Engine.bumpBy_taken (c n : Nat) : (e.bumpBy c n).taken = e.taken := rfl
@[simp] theorem Engine.bumpBy_regs (c n : Nat) : (e.bumpBy c n).regs = e.regs := rfl
@[simp] theorem Engine.bumpBy_latched (c n : Nat) : (e.bumpBy c n).latched = e.latched := rfl
@[simp] theorem Engine.bumpBy_highs (c n : Nat) : (e.bumpBy c n).highs = e.highs := rfl
@[simp] theorem Engine.bumpBy_mem (c n : Nat) : (e.bumpBy c n).mem = e.mem := rfl
@[simp] theorem Engine.bumpBy_rafter (c n : Nat) : (e.bumpBy c n).rafter = e.rafter := rfl
@[simp] theorem Engine.bumpBy_gens (c n : Nat) : (e.bumpBy c n).gens = e.gens := rfl
@[simp] theorem Engine.bumpBy_slots (c n : Nat) : (e.bumpBy c n).slots = e.slots := rfl
@[simp] theorem Engine.bumpBy_stop (c n : Nat) : (e.bumpBy c n).stop = e.stop := rfl
@[simp] theorem Engine.bumpBy_ready0 (c n : Nat) : (e.bumpBy c n).ready0 = e.ready0 := rfl
@[simp] theorem Engine.bumpBy_ready1 (c n : Nat) : (e.bumpBy c n).ready1 = e.ready1 := rfl
@[simp] theorem Engine.bumpBy_ready2 (c n : Nat) : (e.bumpBy c n).ready2 = e.ready2 := rfl
@[simp] theorem Engine.bumpBy_splice0 (c n : Nat) : (e.bumpBy c n).splice0 = e.splice0 := rfl
@[simp] theorem Engine.bumpBy_splice1 (c n : Nat) : (e.bumpBy c n).splice1 = e.splice1 := rfl
@[simp] theorem Engine.bumpBy_splice2 (c n : Nat) : (e.bumpBy c n).splice2 = e.splice2 := rfl
@[simp] theorem Engine.bumpBy_actAt (c n : Nat) : (e.bumpBy c n).actAt = e.actAt := rfl
@[simp] theorem Engine.bumpBy_acted (c n : Nat) : (e.bumpBy c n).acted = e.acted := rfl
@[simp] theorem Engine.bumpBy_stepNo (c n : Nat) : (e.bumpBy c n).stepNo = e.stepNo := rfl
@[simp] theorem Engine.bumpBy_stateCnt (c n : Nat) : (e.bumpBy c n).stateCnt = e.stateCnt := rfl
@[simp] theorem Engine.bumpBy_boundaryOpen (c n : Nat) : (e.bumpBy c n).boundaryOpen = e.boundaryOpen := rfl
@[simp] theorem Engine.bumpBy_hru (c n : Nat) : (e.bumpBy c n).hru = e.hru := rfl
@[simp] theorem Engine.bumpBy_adm (c n : Nat) : (e.bumpBy c n).adm = e.adm := rfl
@[simp] theorem Engine.bumpBy_ylm (c n : Nat) : (e.bumpBy c n).ylm = e.ylm := rfl
@[simp] theorem Engine.bumpBy_pgm (c n : Nat) : (e.bumpBy c n).pgm = e.pgm := rfl
@[simp] theorem Engine.bumpBy_var (c n : Nat) : (e.bumpBy c n).var = e.var := rfl
@[simp] theorem Engine.bumpBy_smp (c n : Nat) : (e.bumpBy c n).smp = e.smp := rfl
@[simp] theorem Engine.bumpBy_spg (c n : Nat) : (e.bumpBy c n).spg = e.spg := rfl
@[simp] theorem Engine.bumpBy_mdv (c n : Nat) : (e.bumpBy c n).mdv = e.mdv := rfl
@[simp] theorem Engine.bumpBy_flt (c n : Nat) : (e.bumpBy c n).flt = e.flt := rfl
@[simp] theorem Engine.bumpBy_tsk (c n : Nat) : (e.bumpBy c n).tsk = e.tsk := rfl
@[simp] theorem Engine.bumpBy_bpl (c n : Nat) : (e.bumpBy c n).bpl = e.bpl := rfl
@[simp] theorem Engine.bumpBy_evr (c n : Nat) : (e.bumpBy c n).evr = e.evr := rfl
@[simp] theorem Engine.bumpBy_err (c n : Nat) : (e.bumpBy c n).err = e.err := rfl
@[simp] theorem Engine.bumpBy_cpc (c n : Nat) : (e.bumpBy c n).cpc = e.cpc := rfl
@[simp] theorem Engine.bumpBy_cal (c n : Nat) : (e.bumpBy c n).cal = e.cal := rfl
@[simp] theorem Engine.bumpBy_glb (c n : Nat) : (e.bumpBy c n).glb = e.glb := rfl
@[simp] theorem Engine.bumpBy_out (c n : Nat) : (e.bumpBy c n).out = e.out := rfl

/-! ### Engine.bump -/

@[simp] theorem Engine.bump_now (c : Nat) : (e.bump c).now = e.now := rfl
@[simp] theorem Engine.bump_taken (c : Nat) : (e.bump c).taken = e.taken := rfl
@[simp] theorem Engine.bump_regs (c : Nat) : (e.bump c).regs = e.regs := rfl
@[simp] theorem Engine.bump_latched (c : Nat) : (e.bump c).latched = e.latched := rfl
@[simp] theorem Engine.bump_highs (c : Nat) : (e.bump c).highs = e.highs := rfl
@[simp] theorem Engine.bump_mem (c : Nat) : (e.bump c).mem = e.mem := rfl
@[simp] theorem Engine.bump_rafter (c : Nat) : (e.bump c).rafter = e.rafter := rfl
@[simp] theorem Engine.bump_gens (c : Nat) : (e.bump c).gens = e.gens := rfl
@[simp] theorem Engine.bump_slots (c : Nat) : (e.bump c).slots = e.slots := rfl
@[simp] theorem Engine.bump_stop (c : Nat) : (e.bump c).stop = e.stop := rfl
@[simp] theorem Engine.bump_ready0 (c : Nat) : (e.bump c).ready0 = e.ready0 := rfl
@[simp] theorem Engine.bump_ready1 (c : Nat) : (e.bump c).ready1 = e.ready1 := rfl
@[simp] theorem Engine.bump_ready2 (c : Nat) : (e.bump c).ready2 = e.ready2 := rfl
@[simp] theorem Engine.bump_splice0 (c : Nat) : (e.bump c).splice0 = e.splice0 := rfl
@[simp] theorem Engine.bump_splice1 (c : Nat) : (e.bump c).splice1 = e.splice1 := rfl
@[simp] theorem Engine.bump_splice2 (c : Nat) : (e.bump c).splice2 = e.splice2 := rfl
@[simp] theorem Engine.bump_actAt (c : Nat) : (e.bump c).actAt = e.actAt := rfl
@[simp] theorem Engine.bump_acted (c : Nat) : (e.bump c).acted = e.acted := rfl
@[simp] theorem Engine.bump_stepNo (c : Nat) : (e.bump c).stepNo = e.stepNo := rfl
@[simp] theorem Engine.bump_stateCnt (c : Nat) : (e.bump c).stateCnt = e.stateCnt := rfl
@[simp] theorem Engine.bump_boundaryOpen (c : Nat) : (e.bump c).boundaryOpen = e.boundaryOpen := rfl
@[simp] theorem Engine.bump_hru (c : Nat) : (e.bump c).hru = e.hru := rfl
@[simp] theorem Engine.bump_adm (c : Nat) : (e.bump c).adm = e.adm := rfl
@[simp] theorem Engine.bump_ylm (c : Nat) : (e.bump c).ylm = e.ylm := rfl
@[simp] theorem Engine.bump_pgm (c : Nat) : (e.bump c).pgm = e.pgm := rfl
@[simp] theorem Engine.bump_var (c : Nat) : (e.bump c).var = e.var := rfl
@[simp] theorem Engine.bump_smp (c : Nat) : (e.bump c).smp = e.smp := rfl
@[simp] theorem Engine.bump_spg (c : Nat) : (e.bump c).spg = e.spg := rfl
@[simp] theorem Engine.bump_mdv (c : Nat) : (e.bump c).mdv = e.mdv := rfl
@[simp] theorem Engine.bump_flt (c : Nat) : (e.bump c).flt = e.flt := rfl
@[simp] theorem Engine.bump_tsk (c : Nat) : (e.bump c).tsk = e.tsk := rfl
@[simp] theorem Engine.bump_bpl (c : Nat) : (e.bump c).bpl = e.bpl := rfl
@[simp] theorem Engine.bump_evr (c : Nat) : (e.bump c).evr = e.evr := rfl
@[simp] theorem Engine.bump_err (c : Nat) : (e.bump c).err = e.err := rfl
@[simp] theorem Engine.bump_cpc (c : Nat) : (e.bump c).cpc = e.cpc := rfl
@[simp] theorem Engine.bump_cal (c : Nat) : (e.bump c).cal = e.cal := rfl
@[simp] theorem Engine.bump_glb (c : Nat) : (e.bump c).glb = e.glb := rfl
@[simp] theorem Engine.bump_out (c : Nat) : (e.bump c).out = e.out := rfl

/-! ### Engine.emit -/

@[simp] theorem Engine.emit_now (o : Output) : (e.emit o).now = e.now := rfl
@[simp] theorem Engine.emit_taken (o : Output) : (e.emit o).taken = e.taken := rfl
@[simp] theorem Engine.emit_regs (o : Output) : (e.emit o).regs = e.regs := rfl
@[simp] theorem Engine.emit_cnt (o : Output) : (e.emit o).cnt = e.cnt := rfl
@[simp] theorem Engine.emit_latched (o : Output) : (e.emit o).latched = e.latched := rfl
@[simp] theorem Engine.emit_highs (o : Output) : (e.emit o).highs = e.highs := rfl
@[simp] theorem Engine.emit_mem (o : Output) : (e.emit o).mem = e.mem := rfl
@[simp] theorem Engine.emit_rafter (o : Output) : (e.emit o).rafter = e.rafter := rfl
@[simp] theorem Engine.emit_gens (o : Output) : (e.emit o).gens = e.gens := rfl
@[simp] theorem Engine.emit_slots (o : Output) : (e.emit o).slots = e.slots := rfl
@[simp] theorem Engine.emit_stop (o : Output) : (e.emit o).stop = e.stop := rfl
@[simp] theorem Engine.emit_ready0 (o : Output) : (e.emit o).ready0 = e.ready0 := rfl
@[simp] theorem Engine.emit_ready1 (o : Output) : (e.emit o).ready1 = e.ready1 := rfl
@[simp] theorem Engine.emit_ready2 (o : Output) : (e.emit o).ready2 = e.ready2 := rfl
@[simp] theorem Engine.emit_splice0 (o : Output) : (e.emit o).splice0 = e.splice0 := rfl
@[simp] theorem Engine.emit_splice1 (o : Output) : (e.emit o).splice1 = e.splice1 := rfl
@[simp] theorem Engine.emit_splice2 (o : Output) : (e.emit o).splice2 = e.splice2 := rfl
@[simp] theorem Engine.emit_actAt (o : Output) : (e.emit o).actAt = e.actAt := rfl
@[simp] theorem Engine.emit_acted (o : Output) : (e.emit o).acted = e.acted := rfl
@[simp] theorem Engine.emit_stepNo (o : Output) : (e.emit o).stepNo = e.stepNo := rfl
@[simp] theorem Engine.emit_stateCnt (o : Output) : (e.emit o).stateCnt = e.stateCnt := rfl
@[simp] theorem Engine.emit_boundaryOpen (o : Output) : (e.emit o).boundaryOpen = e.boundaryOpen := rfl
@[simp] theorem Engine.emit_hru (o : Output) : (e.emit o).hru = e.hru := rfl
@[simp] theorem Engine.emit_adm (o : Output) : (e.emit o).adm = e.adm := rfl
@[simp] theorem Engine.emit_ylm (o : Output) : (e.emit o).ylm = e.ylm := rfl
@[simp] theorem Engine.emit_pgm (o : Output) : (e.emit o).pgm = e.pgm := rfl
@[simp] theorem Engine.emit_var (o : Output) : (e.emit o).var = e.var := rfl
@[simp] theorem Engine.emit_smp (o : Output) : (e.emit o).smp = e.smp := rfl
@[simp] theorem Engine.emit_spg (o : Output) : (e.emit o).spg = e.spg := rfl
@[simp] theorem Engine.emit_mdv (o : Output) : (e.emit o).mdv = e.mdv := rfl
@[simp] theorem Engine.emit_flt (o : Output) : (e.emit o).flt = e.flt := rfl
@[simp] theorem Engine.emit_tsk (o : Output) : (e.emit o).tsk = e.tsk := rfl
@[simp] theorem Engine.emit_bpl (o : Output) : (e.emit o).bpl = e.bpl := rfl
@[simp] theorem Engine.emit_evr (o : Output) : (e.emit o).evr = e.evr := rfl
@[simp] theorem Engine.emit_err (o : Output) : (e.emit o).err = e.err := rfl
@[simp] theorem Engine.emit_cpc (o : Output) : (e.emit o).cpc = e.cpc := rfl
@[simp] theorem Engine.emit_cal (o : Output) : (e.emit o).cal = e.cal := rfl
@[simp] theorem Engine.emit_glb (o : Output) : (e.emit o).glb = e.glb := rfl

/-! ### Engine.putReq -/

@[simp] theorem Engine.putReq_now (i : Nat) (x : Rafter) : (e.putReq i x).now = e.now := rfl
@[simp] theorem Engine.putReq_taken (i : Nat) (x : Rafter) : (e.putReq i x).taken = e.taken := rfl
@[simp] theorem Engine.putReq_regs (i : Nat) (x : Rafter) : (e.putReq i x).regs = e.regs := rfl
@[simp] theorem Engine.putReq_cnt (i : Nat) (x : Rafter) : (e.putReq i x).cnt = e.cnt := rfl
@[simp] theorem Engine.putReq_latched (i : Nat) (x : Rafter) : (e.putReq i x).latched = e.latched := rfl
@[simp] theorem Engine.putReq_highs (i : Nat) (x : Rafter) : (e.putReq i x).highs = e.highs := rfl
@[simp] theorem Engine.putReq_mem (i : Nat) (x : Rafter) : (e.putReq i x).mem = e.mem := rfl
@[simp] theorem Engine.putReq_gens (i : Nat) (x : Rafter) : (e.putReq i x).gens = e.gens := rfl
@[simp] theorem Engine.putReq_slots (i : Nat) (x : Rafter) : (e.putReq i x).slots = e.slots := rfl
@[simp] theorem Engine.putReq_stop (i : Nat) (x : Rafter) : (e.putReq i x).stop = e.stop := rfl
@[simp] theorem Engine.putReq_ready0 (i : Nat) (x : Rafter) : (e.putReq i x).ready0 = e.ready0 := rfl
@[simp] theorem Engine.putReq_ready1 (i : Nat) (x : Rafter) : (e.putReq i x).ready1 = e.ready1 := rfl
@[simp] theorem Engine.putReq_ready2 (i : Nat) (x : Rafter) : (e.putReq i x).ready2 = e.ready2 := rfl
@[simp] theorem Engine.putReq_splice0 (i : Nat) (x : Rafter) : (e.putReq i x).splice0 = e.splice0 := rfl
@[simp] theorem Engine.putReq_splice1 (i : Nat) (x : Rafter) : (e.putReq i x).splice1 = e.splice1 := rfl
@[simp] theorem Engine.putReq_splice2 (i : Nat) (x : Rafter) : (e.putReq i x).splice2 = e.splice2 := rfl
@[simp] theorem Engine.putReq_actAt (i : Nat) (x : Rafter) : (e.putReq i x).actAt = e.actAt := rfl
@[simp] theorem Engine.putReq_acted (i : Nat) (x : Rafter) : (e.putReq i x).acted = e.acted := rfl
@[simp] theorem Engine.putReq_stepNo (i : Nat) (x : Rafter) : (e.putReq i x).stepNo = e.stepNo := rfl
@[simp] theorem Engine.putReq_stateCnt (i : Nat) (x : Rafter) : (e.putReq i x).stateCnt = e.stateCnt := rfl
@[simp] theorem Engine.putReq_boundaryOpen (i : Nat) (x : Rafter) : (e.putReq i x).boundaryOpen = e.boundaryOpen := rfl
@[simp] theorem Engine.putReq_hru (i : Nat) (x : Rafter) : (e.putReq i x).hru = e.hru := rfl
@[simp] theorem Engine.putReq_adm (i : Nat) (x : Rafter) : (e.putReq i x).adm = e.adm := rfl
@[simp] theorem Engine.putReq_ylm (i : Nat) (x : Rafter) : (e.putReq i x).ylm = e.ylm := rfl
@[simp] theorem Engine.putReq_pgm (i : Nat) (x : Rafter) : (e.putReq i x).pgm = e.pgm := rfl
@[simp] theorem Engine.putReq_var (i : Nat) (x : Rafter) : (e.putReq i x).var = e.var := rfl
@[simp] theorem Engine.putReq_smp (i : Nat) (x : Rafter) : (e.putReq i x).smp = e.smp := rfl
@[simp] theorem Engine.putReq_spg (i : Nat) (x : Rafter) : (e.putReq i x).spg = e.spg := rfl
@[simp] theorem Engine.putReq_mdv (i : Nat) (x : Rafter) : (e.putReq i x).mdv = e.mdv := rfl
@[simp] theorem Engine.putReq_flt (i : Nat) (x : Rafter) : (e.putReq i x).flt = e.flt := rfl
@[simp] theorem Engine.putReq_tsk (i : Nat) (x : Rafter) : (e.putReq i x).tsk = e.tsk := rfl
@[simp] theorem Engine.putReq_bpl (i : Nat) (x : Rafter) : (e.putReq i x).bpl = e.bpl := rfl
@[simp] theorem Engine.putReq_evr (i : Nat) (x : Rafter) : (e.putReq i x).evr = e.evr := rfl
@[simp] theorem Engine.putReq_err (i : Nat) (x : Rafter) : (e.putReq i x).err = e.err := rfl
@[simp] theorem Engine.putReq_cpc (i : Nat) (x : Rafter) : (e.putReq i x).cpc = e.cpc := rfl
@[simp] theorem Engine.putReq_cal (i : Nat) (x : Rafter) : (e.putReq i x).cal = e.cal := rfl
@[simp] theorem Engine.putReq_glb (i : Nat) (x : Rafter) : (e.putReq i x).glb = e.glb := rfl
@[simp] theorem Engine.putReq_out (i : Nat) (x : Rafter) : (e.putReq i x).out = e.out := rfl

/-! ### Engine.putSub -/

@[simp] theorem Engine.putSub_now (i : Nat) (x : SubRing) : (e.putSub i x).now = e.now := rfl
@[simp] theorem Engine.putSub_taken (i : Nat) (x : SubRing) : (e.putSub i x).taken = e.taken := rfl
@[simp] theorem Engine.putSub_regs (i : Nat) (x : SubRing) : (e.putSub i x).regs = e.regs := rfl
@[simp] theorem Engine.putSub_cnt (i : Nat) (x : SubRing) : (e.putSub i x).cnt = e.cnt := rfl
@[simp] theorem Engine.putSub_latched (i : Nat) (x : SubRing) : (e.putSub i x).latched = e.latched := rfl
@[simp] theorem Engine.putSub_highs (i : Nat) (x : SubRing) : (e.putSub i x).highs = e.highs := rfl
@[simp] theorem Engine.putSub_mem (i : Nat) (x : SubRing) : (e.putSub i x).mem = e.mem := rfl
@[simp] theorem Engine.putSub_rafter (i : Nat) (x : SubRing) : (e.putSub i x).rafter = e.rafter := rfl
@[simp] theorem Engine.putSub_gens (i : Nat) (x : SubRing) : (e.putSub i x).gens = e.gens := rfl
@[simp] theorem Engine.putSub_slots (i : Nat) (x : SubRing) : (e.putSub i x).slots = e.slots := rfl
@[simp] theorem Engine.putSub_stop (i : Nat) (x : SubRing) : (e.putSub i x).stop = e.stop := rfl
@[simp] theorem Engine.putSub_ready0 (i : Nat) (x : SubRing) : (e.putSub i x).ready0 = e.ready0 := rfl
@[simp] theorem Engine.putSub_ready1 (i : Nat) (x : SubRing) : (e.putSub i x).ready1 = e.ready1 := rfl
@[simp] theorem Engine.putSub_ready2 (i : Nat) (x : SubRing) : (e.putSub i x).ready2 = e.ready2 := rfl
@[simp] theorem Engine.putSub_splice0 (i : Nat) (x : SubRing) : (e.putSub i x).splice0 = e.splice0 := rfl
@[simp] theorem Engine.putSub_splice1 (i : Nat) (x : SubRing) : (e.putSub i x).splice1 = e.splice1 := rfl
@[simp] theorem Engine.putSub_splice2 (i : Nat) (x : SubRing) : (e.putSub i x).splice2 = e.splice2 := rfl
@[simp] theorem Engine.putSub_actAt (i : Nat) (x : SubRing) : (e.putSub i x).actAt = e.actAt := rfl
@[simp] theorem Engine.putSub_acted (i : Nat) (x : SubRing) : (e.putSub i x).acted = e.acted := rfl
@[simp] theorem Engine.putSub_stepNo (i : Nat) (x : SubRing) : (e.putSub i x).stepNo = e.stepNo := rfl
@[simp] theorem Engine.putSub_stateCnt (i : Nat) (x : SubRing) : (e.putSub i x).stateCnt = e.stateCnt := rfl
@[simp] theorem Engine.putSub_boundaryOpen (i : Nat) (x : SubRing) : (e.putSub i x).boundaryOpen = e.boundaryOpen := rfl
@[simp] theorem Engine.putSub_adm (i : Nat) (x : SubRing) : (e.putSub i x).adm = e.adm := rfl
@[simp] theorem Engine.putSub_ylm (i : Nat) (x : SubRing) : (e.putSub i x).ylm = e.ylm := rfl
@[simp] theorem Engine.putSub_pgm (i : Nat) (x : SubRing) : (e.putSub i x).pgm = e.pgm := rfl
@[simp] theorem Engine.putSub_var (i : Nat) (x : SubRing) : (e.putSub i x).var = e.var := rfl
@[simp] theorem Engine.putSub_smp (i : Nat) (x : SubRing) : (e.putSub i x).smp = e.smp := rfl
@[simp] theorem Engine.putSub_spg (i : Nat) (x : SubRing) : (e.putSub i x).spg = e.spg := rfl
@[simp] theorem Engine.putSub_mdv (i : Nat) (x : SubRing) : (e.putSub i x).mdv = e.mdv := rfl
@[simp] theorem Engine.putSub_flt (i : Nat) (x : SubRing) : (e.putSub i x).flt = e.flt := rfl
@[simp] theorem Engine.putSub_tsk (i : Nat) (x : SubRing) : (e.putSub i x).tsk = e.tsk := rfl
@[simp] theorem Engine.putSub_bpl (i : Nat) (x : SubRing) : (e.putSub i x).bpl = e.bpl := rfl
@[simp] theorem Engine.putSub_evr (i : Nat) (x : SubRing) : (e.putSub i x).evr = e.evr := rfl
@[simp] theorem Engine.putSub_err (i : Nat) (x : SubRing) : (e.putSub i x).err = e.err := rfl
@[simp] theorem Engine.putSub_cpc (i : Nat) (x : SubRing) : (e.putSub i x).cpc = e.cpc := rfl
@[simp] theorem Engine.putSub_cal (i : Nat) (x : SubRing) : (e.putSub i x).cal = e.cal := rfl
@[simp] theorem Engine.putSub_glb (i : Nat) (x : SubRing) : (e.putSub i x).glb = e.glb := rfl
@[simp] theorem Engine.putSub_out (i : Nat) (x : SubRing) : (e.putSub i x).out = e.out := rfl

/-! ### Engine.putEvt -/

@[simp] theorem Engine.putEvt_now (i : Nat) (x : EvtRing) : (e.putEvt i x).now = e.now := rfl
@[simp] theorem Engine.putEvt_taken (i : Nat) (x : EvtRing) : (e.putEvt i x).taken = e.taken := rfl
@[simp] theorem Engine.putEvt_regs (i : Nat) (x : EvtRing) : (e.putEvt i x).regs = e.regs := rfl
@[simp] theorem Engine.putEvt_cnt (i : Nat) (x : EvtRing) : (e.putEvt i x).cnt = e.cnt := rfl
@[simp] theorem Engine.putEvt_latched (i : Nat) (x : EvtRing) : (e.putEvt i x).latched = e.latched := rfl
@[simp] theorem Engine.putEvt_highs (i : Nat) (x : EvtRing) : (e.putEvt i x).highs = e.highs := rfl
@[simp] theorem Engine.putEvt_mem (i : Nat) (x : EvtRing) : (e.putEvt i x).mem = e.mem := rfl
@[simp] theorem Engine.putEvt_rafter (i : Nat) (x : EvtRing) : (e.putEvt i x).rafter = e.rafter := rfl
@[simp] theorem Engine.putEvt_gens (i : Nat) (x : EvtRing) : (e.putEvt i x).gens = e.gens := rfl
@[simp] theorem Engine.putEvt_slots (i : Nat) (x : EvtRing) : (e.putEvt i x).slots = e.slots := rfl
@[simp] theorem Engine.putEvt_stop (i : Nat) (x : EvtRing) : (e.putEvt i x).stop = e.stop := rfl
@[simp] theorem Engine.putEvt_ready0 (i : Nat) (x : EvtRing) : (e.putEvt i x).ready0 = e.ready0 := rfl
@[simp] theorem Engine.putEvt_ready1 (i : Nat) (x : EvtRing) : (e.putEvt i x).ready1 = e.ready1 := rfl
@[simp] theorem Engine.putEvt_ready2 (i : Nat) (x : EvtRing) : (e.putEvt i x).ready2 = e.ready2 := rfl
@[simp] theorem Engine.putEvt_splice0 (i : Nat) (x : EvtRing) : (e.putEvt i x).splice0 = e.splice0 := rfl
@[simp] theorem Engine.putEvt_splice1 (i : Nat) (x : EvtRing) : (e.putEvt i x).splice1 = e.splice1 := rfl
@[simp] theorem Engine.putEvt_splice2 (i : Nat) (x : EvtRing) : (e.putEvt i x).splice2 = e.splice2 := rfl
@[simp] theorem Engine.putEvt_actAt (i : Nat) (x : EvtRing) : (e.putEvt i x).actAt = e.actAt := rfl
@[simp] theorem Engine.putEvt_acted (i : Nat) (x : EvtRing) : (e.putEvt i x).acted = e.acted := rfl
@[simp] theorem Engine.putEvt_stepNo (i : Nat) (x : EvtRing) : (e.putEvt i x).stepNo = e.stepNo := rfl
@[simp] theorem Engine.putEvt_stateCnt (i : Nat) (x : EvtRing) : (e.putEvt i x).stateCnt = e.stateCnt := rfl
@[simp] theorem Engine.putEvt_boundaryOpen (i : Nat) (x : EvtRing) : (e.putEvt i x).boundaryOpen = e.boundaryOpen := rfl
@[simp] theorem Engine.putEvt_adm (i : Nat) (x : EvtRing) : (e.putEvt i x).adm = e.adm := rfl
@[simp] theorem Engine.putEvt_ylm (i : Nat) (x : EvtRing) : (e.putEvt i x).ylm = e.ylm := rfl
@[simp] theorem Engine.putEvt_pgm (i : Nat) (x : EvtRing) : (e.putEvt i x).pgm = e.pgm := rfl
@[simp] theorem Engine.putEvt_var (i : Nat) (x : EvtRing) : (e.putEvt i x).var = e.var := rfl
@[simp] theorem Engine.putEvt_smp (i : Nat) (x : EvtRing) : (e.putEvt i x).smp = e.smp := rfl
@[simp] theorem Engine.putEvt_spg (i : Nat) (x : EvtRing) : (e.putEvt i x).spg = e.spg := rfl
@[simp] theorem Engine.putEvt_mdv (i : Nat) (x : EvtRing) : (e.putEvt i x).mdv = e.mdv := rfl
@[simp] theorem Engine.putEvt_flt (i : Nat) (x : EvtRing) : (e.putEvt i x).flt = e.flt := rfl
@[simp] theorem Engine.putEvt_tsk (i : Nat) (x : EvtRing) : (e.putEvt i x).tsk = e.tsk := rfl
@[simp] theorem Engine.putEvt_bpl (i : Nat) (x : EvtRing) : (e.putEvt i x).bpl = e.bpl := rfl
@[simp] theorem Engine.putEvt_evr (i : Nat) (x : EvtRing) : (e.putEvt i x).evr = e.evr := rfl
@[simp] theorem Engine.putEvt_err (i : Nat) (x : EvtRing) : (e.putEvt i x).err = e.err := rfl
@[simp] theorem Engine.putEvt_cpc (i : Nat) (x : EvtRing) : (e.putEvt i x).cpc = e.cpc := rfl
@[simp] theorem Engine.putEvt_cal (i : Nat) (x : EvtRing) : (e.putEvt i x).cal = e.cal := rfl
@[simp] theorem Engine.putEvt_glb (i : Nat) (x : EvtRing) : (e.putEvt i x).glb = e.glb := rfl
@[simp] theorem Engine.putEvt_out (i : Nat) (x : EvtRing) : (e.putEvt i x).out = e.out := rfl

/-! ### Engine.putTask -/

@[simp] theorem Engine.putTask_now (i : Nat) (x : Task) : (e.putTask i x).now = e.now := rfl
@[simp] theorem Engine.putTask_taken (i : Nat) (x : Task) : (e.putTask i x).taken = e.taken := rfl
@[simp] theorem Engine.putTask_regs (i : Nat) (x : Task) : (e.putTask i x).regs = e.regs := rfl
@[simp] theorem Engine.putTask_cnt (i : Nat) (x : Task) : (e.putTask i x).cnt = e.cnt := rfl
@[simp] theorem Engine.putTask_latched (i : Nat) (x : Task) : (e.putTask i x).latched = e.latched := rfl
@[simp] theorem Engine.putTask_highs (i : Nat) (x : Task) : (e.putTask i x).highs = e.highs := rfl
@[simp] theorem Engine.putTask_mem (i : Nat) (x : Task) : (e.putTask i x).mem = e.mem := rfl
@[simp] theorem Engine.putTask_rafter (i : Nat) (x : Task) : (e.putTask i x).rafter = e.rafter := rfl
@[simp] theorem Engine.putTask_gens (i : Nat) (x : Task) : (e.putTask i x).gens = e.gens := rfl
@[simp] theorem Engine.putTask_slots (i : Nat) (x : Task) : (e.putTask i x).slots = e.slots := rfl
@[simp] theorem Engine.putTask_stop (i : Nat) (x : Task) : (e.putTask i x).stop = e.stop := rfl
@[simp] theorem Engine.putTask_ready0 (i : Nat) (x : Task) : (e.putTask i x).ready0 = e.ready0 := rfl
@[simp] theorem Engine.putTask_ready1 (i : Nat) (x : Task) : (e.putTask i x).ready1 = e.ready1 := rfl
@[simp] theorem Engine.putTask_ready2 (i : Nat) (x : Task) : (e.putTask i x).ready2 = e.ready2 := rfl
@[simp] theorem Engine.putTask_splice0 (i : Nat) (x : Task) : (e.putTask i x).splice0 = e.splice0 := rfl
@[simp] theorem Engine.putTask_splice1 (i : Nat) (x : Task) : (e.putTask i x).splice1 = e.splice1 := rfl
@[simp] theorem Engine.putTask_splice2 (i : Nat) (x : Task) : (e.putTask i x).splice2 = e.splice2 := rfl
@[simp] theorem Engine.putTask_actAt (i : Nat) (x : Task) : (e.putTask i x).actAt = e.actAt := rfl
@[simp] theorem Engine.putTask_acted (i : Nat) (x : Task) : (e.putTask i x).acted = e.acted := rfl
@[simp] theorem Engine.putTask_stepNo (i : Nat) (x : Task) : (e.putTask i x).stepNo = e.stepNo := rfl
@[simp] theorem Engine.putTask_stateCnt (i : Nat) (x : Task) : (e.putTask i x).stateCnt = e.stateCnt := rfl
@[simp] theorem Engine.putTask_boundaryOpen (i : Nat) (x : Task) : (e.putTask i x).boundaryOpen = e.boundaryOpen := rfl
@[simp] theorem Engine.putTask_hru (i : Nat) (x : Task) : (e.putTask i x).hru = e.hru := rfl
@[simp] theorem Engine.putTask_adm (i : Nat) (x : Task) : (e.putTask i x).adm = e.adm := rfl
@[simp] theorem Engine.putTask_ylm (i : Nat) (x : Task) : (e.putTask i x).ylm = e.ylm := rfl
@[simp] theorem Engine.putTask_pgm (i : Nat) (x : Task) : (e.putTask i x).pgm = e.pgm := rfl
@[simp] theorem Engine.putTask_var (i : Nat) (x : Task) : (e.putTask i x).var = e.var := rfl
@[simp] theorem Engine.putTask_smp (i : Nat) (x : Task) : (e.putTask i x).smp = e.smp := rfl
@[simp] theorem Engine.putTask_spg (i : Nat) (x : Task) : (e.putTask i x).spg = e.spg := rfl
@[simp] theorem Engine.putTask_mdv (i : Nat) (x : Task) : (e.putTask i x).mdv = e.mdv := rfl
@[simp] theorem Engine.putTask_flt (i : Nat) (x : Task) : (e.putTask i x).flt = e.flt := rfl
@[simp] theorem Engine.putTask_bpl (i : Nat) (x : Task) : (e.putTask i x).bpl = e.bpl := rfl
@[simp] theorem Engine.putTask_evr (i : Nat) (x : Task) : (e.putTask i x).evr = e.evr := rfl
@[simp] theorem Engine.putTask_err (i : Nat) (x : Task) : (e.putTask i x).err = e.err := rfl
@[simp] theorem Engine.putTask_cpc (i : Nat) (x : Task) : (e.putTask i x).cpc = e.cpc := rfl
@[simp] theorem Engine.putTask_cal (i : Nat) (x : Task) : (e.putTask i x).cal = e.cal := rfl
@[simp] theorem Engine.putTask_glb (i : Nat) (x : Task) : (e.putTask i x).glb = e.glb := rfl
@[simp] theorem Engine.putTask_out (i : Nat) (x : Task) : (e.putTask i x).out = e.out := rfl

/-! ### Engine.putCore -/

@[simp] theorem Engine.putCore_now (i : Nat) (x : Core) : (e.putCore i x).now = e.now := rfl
@[simp] theorem Engine.putCore_taken (i : Nat) (x : Core) : (e.putCore i x).taken = e.taken := rfl
@[simp] theorem Engine.putCore_regs (i : Nat) (x : Core) : (e.putCore i x).regs = e.regs := rfl
@[simp] theorem Engine.putCore_cnt (i : Nat) (x : Core) : (e.putCore i x).cnt = e.cnt := rfl
@[simp] theorem Engine.putCore_latched (i : Nat) (x : Core) : (e.putCore i x).latched = e.latched := rfl
@[simp] theorem Engine.putCore_highs (i : Nat) (x : Core) : (e.putCore i x).highs = e.highs := rfl
@[simp] theorem Engine.putCore_mem (i : Nat) (x : Core) : (e.putCore i x).mem = e.mem := rfl
@[simp] theorem Engine.putCore_rafter (i : Nat) (x : Core) : (e.putCore i x).rafter = e.rafter := rfl
@[simp] theorem Engine.putCore_gens (i : Nat) (x : Core) : (e.putCore i x).gens = e.gens := rfl
@[simp] theorem Engine.putCore_slots (i : Nat) (x : Core) : (e.putCore i x).slots = e.slots := rfl
@[simp] theorem Engine.putCore_stop (i : Nat) (x : Core) : (e.putCore i x).stop = e.stop := rfl
@[simp] theorem Engine.putCore_ready0 (i : Nat) (x : Core) : (e.putCore i x).ready0 = e.ready0 := rfl
@[simp] theorem Engine.putCore_ready1 (i : Nat) (x : Core) : (e.putCore i x).ready1 = e.ready1 := rfl
@[simp] theorem Engine.putCore_ready2 (i : Nat) (x : Core) : (e.putCore i x).ready2 = e.ready2 := rfl
@[simp] theorem Engine.putCore_splice0 (i : Nat) (x : Core) : (e.putCore i x).splice0 = e.splice0 := rfl
@[simp] theorem Engine.putCore_splice1 (i : Nat) (x : Core) : (e.putCore i x).splice1 = e.splice1 := rfl
@[simp] theorem Engine.putCore_splice2 (i : Nat) (x : Core) : (e.putCore i x).splice2 = e.splice2 := rfl
@[simp] theorem Engine.putCore_actAt (i : Nat) (x : Core) : (e.putCore i x).actAt = e.actAt := rfl
@[simp] theorem Engine.putCore_acted (i : Nat) (x : Core) : (e.putCore i x).acted = e.acted := rfl
@[simp] theorem Engine.putCore_stepNo (i : Nat) (x : Core) : (e.putCore i x).stepNo = e.stepNo := rfl
@[simp] theorem Engine.putCore_stateCnt (i : Nat) (x : Core) : (e.putCore i x).stateCnt = e.stateCnt := rfl
@[simp] theorem Engine.putCore_boundaryOpen (i : Nat) (x : Core) : (e.putCore i x).boundaryOpen = e.boundaryOpen := rfl
@[simp] theorem Engine.putCore_hru (i : Nat) (x : Core) : (e.putCore i x).hru = e.hru := rfl
@[simp] theorem Engine.putCore_adm (i : Nat) (x : Core) : (e.putCore i x).adm = e.adm := rfl
@[simp] theorem Engine.putCore_ylm (i : Nat) (x : Core) : (e.putCore i x).ylm = e.ylm := rfl
@[simp] theorem Engine.putCore_pgm (i : Nat) (x : Core) : (e.putCore i x).pgm = e.pgm := rfl
@[simp] theorem Engine.putCore_var (i : Nat) (x : Core) : (e.putCore i x).var = e.var := rfl
@[simp] theorem Engine.putCore_smp (i : Nat) (x : Core) : (e.putCore i x).smp = e.smp := rfl
@[simp] theorem Engine.putCore_spg (i : Nat) (x : Core) : (e.putCore i x).spg = e.spg := rfl
@[simp] theorem Engine.putCore_mdv (i : Nat) (x : Core) : (e.putCore i x).mdv = e.mdv := rfl
@[simp] theorem Engine.putCore_flt (i : Nat) (x : Core) : (e.putCore i x).flt = e.flt := rfl
@[simp] theorem Engine.putCore_bpl (i : Nat) (x : Core) : (e.putCore i x).bpl = e.bpl := rfl
@[simp] theorem Engine.putCore_evr (i : Nat) (x : Core) : (e.putCore i x).evr = e.evr := rfl
@[simp] theorem Engine.putCore_err (i : Nat) (x : Core) : (e.putCore i x).err = e.err := rfl
@[simp] theorem Engine.putCore_cpc (i : Nat) (x : Core) : (e.putCore i x).cpc = e.cpc := rfl
@[simp] theorem Engine.putCore_cal (i : Nat) (x : Core) : (e.putCore i x).cal = e.cal := rfl
@[simp] theorem Engine.putCore_glb (i : Nat) (x : Core) : (e.putCore i x).glb = e.glb := rfl
@[simp] theorem Engine.putCore_out (i : Nat) (x : Core) : (e.putCore i x).out = e.out := rfl

/-! ### Engine.putTenant -/

@[simp] theorem Engine.putTenant_now (i : Nat) (x : Tenant) : (e.putTenant i x).now = e.now := rfl
@[simp] theorem Engine.putTenant_taken (i : Nat) (x : Tenant) : (e.putTenant i x).taken = e.taken := rfl
@[simp] theorem Engine.putTenant_regs (i : Nat) (x : Tenant) : (e.putTenant i x).regs = e.regs := rfl
@[simp] theorem Engine.putTenant_cnt (i : Nat) (x : Tenant) : (e.putTenant i x).cnt = e.cnt := rfl
@[simp] theorem Engine.putTenant_latched (i : Nat) (x : Tenant) : (e.putTenant i x).latched = e.latched := rfl
@[simp] theorem Engine.putTenant_highs (i : Nat) (x : Tenant) : (e.putTenant i x).highs = e.highs := rfl
@[simp] theorem Engine.putTenant_mem (i : Nat) (x : Tenant) : (e.putTenant i x).mem = e.mem := rfl
@[simp] theorem Engine.putTenant_rafter (i : Nat) (x : Tenant) : (e.putTenant i x).rafter = e.rafter := rfl
@[simp] theorem Engine.putTenant_gens (i : Nat) (x : Tenant) : (e.putTenant i x).gens = e.gens := rfl
@[simp] theorem Engine.putTenant_slots (i : Nat) (x : Tenant) : (e.putTenant i x).slots = e.slots := rfl
@[simp] theorem Engine.putTenant_stop (i : Nat) (x : Tenant) : (e.putTenant i x).stop = e.stop := rfl
@[simp] theorem Engine.putTenant_ready0 (i : Nat) (x : Tenant) : (e.putTenant i x).ready0 = e.ready0 := rfl
@[simp] theorem Engine.putTenant_ready1 (i : Nat) (x : Tenant) : (e.putTenant i x).ready1 = e.ready1 := rfl
@[simp] theorem Engine.putTenant_ready2 (i : Nat) (x : Tenant) : (e.putTenant i x).ready2 = e.ready2 := rfl
@[simp] theorem Engine.putTenant_splice0 (i : Nat) (x : Tenant) : (e.putTenant i x).splice0 = e.splice0 := rfl
@[simp] theorem Engine.putTenant_splice1 (i : Nat) (x : Tenant) : (e.putTenant i x).splice1 = e.splice1 := rfl
@[simp] theorem Engine.putTenant_splice2 (i : Nat) (x : Tenant) : (e.putTenant i x).splice2 = e.splice2 := rfl
@[simp] theorem Engine.putTenant_actAt (i : Nat) (x : Tenant) : (e.putTenant i x).actAt = e.actAt := rfl
@[simp] theorem Engine.putTenant_acted (i : Nat) (x : Tenant) : (e.putTenant i x).acted = e.acted := rfl
@[simp] theorem Engine.putTenant_stepNo (i : Nat) (x : Tenant) : (e.putTenant i x).stepNo = e.stepNo := rfl
@[simp] theorem Engine.putTenant_stateCnt (i : Nat) (x : Tenant) : (e.putTenant i x).stateCnt = e.stateCnt := rfl
@[simp] theorem Engine.putTenant_boundaryOpen (i : Nat) (x : Tenant) : (e.putTenant i x).boundaryOpen = e.boundaryOpen := rfl
@[simp] theorem Engine.putTenant_hru (i : Nat) (x : Tenant) : (e.putTenant i x).hru = e.hru := rfl
@[simp] theorem Engine.putTenant_ylm (i : Nat) (x : Tenant) : (e.putTenant i x).ylm = e.ylm := rfl
@[simp] theorem Engine.putTenant_pgm (i : Nat) (x : Tenant) : (e.putTenant i x).pgm = e.pgm := rfl
@[simp] theorem Engine.putTenant_var (i : Nat) (x : Tenant) : (e.putTenant i x).var = e.var := rfl
@[simp] theorem Engine.putTenant_smp (i : Nat) (x : Tenant) : (e.putTenant i x).smp = e.smp := rfl
@[simp] theorem Engine.putTenant_spg (i : Nat) (x : Tenant) : (e.putTenant i x).spg = e.spg := rfl
@[simp] theorem Engine.putTenant_mdv (i : Nat) (x : Tenant) : (e.putTenant i x).mdv = e.mdv := rfl
@[simp] theorem Engine.putTenant_flt (i : Nat) (x : Tenant) : (e.putTenant i x).flt = e.flt := rfl
@[simp] theorem Engine.putTenant_tsk (i : Nat) (x : Tenant) : (e.putTenant i x).tsk = e.tsk := rfl
@[simp] theorem Engine.putTenant_bpl (i : Nat) (x : Tenant) : (e.putTenant i x).bpl = e.bpl := rfl
@[simp] theorem Engine.putTenant_evr (i : Nat) (x : Tenant) : (e.putTenant i x).evr = e.evr := rfl
@[simp] theorem Engine.putTenant_err (i : Nat) (x : Tenant) : (e.putTenant i x).err = e.err := rfl
@[simp] theorem Engine.putTenant_cpc (i : Nat) (x : Tenant) : (e.putTenant i x).cpc = e.cpc := rfl
@[simp] theorem Engine.putTenant_cal (i : Nat) (x : Tenant) : (e.putTenant i x).cal = e.cal := rfl
@[simp] theorem Engine.putTenant_glb (i : Nat) (x : Tenant) : (e.putTenant i x).glb = e.glb := rfl
@[simp] theorem Engine.putTenant_out (i : Nat) (x : Tenant) : (e.putTenant i x).out = e.out := rfl

/-! ### Engine.putFamily -/

@[simp] theorem Engine.putFamily_now (i : Nat) (x : Family) : (e.putFamily i x).now = e.now := rfl
@[simp] theorem Engine.putFamily_taken (i : Nat) (x : Family) : (e.putFamily i x).taken = e.taken := rfl
@[simp] theorem Engine.putFamily_regs (i : Nat) (x : Family) : (e.putFamily i x).regs = e.regs := rfl
@[simp] theorem Engine.putFamily_cnt (i : Nat) (x : Family) : (e.putFamily i x).cnt = e.cnt := rfl
@[simp] theorem Engine.putFamily_latched (i : Nat) (x : Family) : (e.putFamily i x).latched = e.latched := rfl
@[simp] theorem Engine.putFamily_highs (i : Nat) (x : Family) : (e.putFamily i x).highs = e.highs := rfl
@[simp] theorem Engine.putFamily_mem (i : Nat) (x : Family) : (e.putFamily i x).mem = e.mem := rfl
@[simp] theorem Engine.putFamily_rafter (i : Nat) (x : Family) : (e.putFamily i x).rafter = e.rafter := rfl
@[simp] theorem Engine.putFamily_gens (i : Nat) (x : Family) : (e.putFamily i x).gens = e.gens := rfl
@[simp] theorem Engine.putFamily_slots (i : Nat) (x : Family) : (e.putFamily i x).slots = e.slots := rfl
@[simp] theorem Engine.putFamily_stop (i : Nat) (x : Family) : (e.putFamily i x).stop = e.stop := rfl
@[simp] theorem Engine.putFamily_ready0 (i : Nat) (x : Family) : (e.putFamily i x).ready0 = e.ready0 := rfl
@[simp] theorem Engine.putFamily_ready1 (i : Nat) (x : Family) : (e.putFamily i x).ready1 = e.ready1 := rfl
@[simp] theorem Engine.putFamily_ready2 (i : Nat) (x : Family) : (e.putFamily i x).ready2 = e.ready2 := rfl
@[simp] theorem Engine.putFamily_splice0 (i : Nat) (x : Family) : (e.putFamily i x).splice0 = e.splice0 := rfl
@[simp] theorem Engine.putFamily_splice1 (i : Nat) (x : Family) : (e.putFamily i x).splice1 = e.splice1 := rfl
@[simp] theorem Engine.putFamily_splice2 (i : Nat) (x : Family) : (e.putFamily i x).splice2 = e.splice2 := rfl
@[simp] theorem Engine.putFamily_actAt (i : Nat) (x : Family) : (e.putFamily i x).actAt = e.actAt := rfl
@[simp] theorem Engine.putFamily_acted (i : Nat) (x : Family) : (e.putFamily i x).acted = e.acted := rfl
@[simp] theorem Engine.putFamily_stepNo (i : Nat) (x : Family) : (e.putFamily i x).stepNo = e.stepNo := rfl
@[simp] theorem Engine.putFamily_stateCnt (i : Nat) (x : Family) : (e.putFamily i x).stateCnt = e.stateCnt := rfl
@[simp] theorem Engine.putFamily_boundaryOpen (i : Nat) (x : Family) : (e.putFamily i x).boundaryOpen = e.boundaryOpen := rfl
@[simp] theorem Engine.putFamily_hru (i : Nat) (x : Family) : (e.putFamily i x).hru = e.hru := rfl
@[simp] theorem Engine.putFamily_adm (i : Nat) (x : Family) : (e.putFamily i x).adm = e.adm := rfl
@[simp] theorem Engine.putFamily_ylm (i : Nat) (x : Family) : (e.putFamily i x).ylm = e.ylm := rfl
@[simp] theorem Engine.putFamily_pgm (i : Nat) (x : Family) : (e.putFamily i x).pgm = e.pgm := rfl
@[simp] theorem Engine.putFamily_smp (i : Nat) (x : Family) : (e.putFamily i x).smp = e.smp := rfl
@[simp] theorem Engine.putFamily_spg (i : Nat) (x : Family) : (e.putFamily i x).spg = e.spg := rfl
@[simp] theorem Engine.putFamily_mdv (i : Nat) (x : Family) : (e.putFamily i x).mdv = e.mdv := rfl
@[simp] theorem Engine.putFamily_flt (i : Nat) (x : Family) : (e.putFamily i x).flt = e.flt := rfl
@[simp] theorem Engine.putFamily_tsk (i : Nat) (x : Family) : (e.putFamily i x).tsk = e.tsk := rfl
@[simp] theorem Engine.putFamily_bpl (i : Nat) (x : Family) : (e.putFamily i x).bpl = e.bpl := rfl
@[simp] theorem Engine.putFamily_evr (i : Nat) (x : Family) : (e.putFamily i x).evr = e.evr := rfl
@[simp] theorem Engine.putFamily_err (i : Nat) (x : Family) : (e.putFamily i x).err = e.err := rfl
@[simp] theorem Engine.putFamily_cpc (i : Nat) (x : Family) : (e.putFamily i x).cpc = e.cpc := rfl
@[simp] theorem Engine.putFamily_cal (i : Nat) (x : Family) : (e.putFamily i x).cal = e.cal := rfl
@[simp] theorem Engine.putFamily_glb (i : Nat) (x : Family) : (e.putFamily i x).glb = e.glb := rfl
@[simp] theorem Engine.putFamily_out (i : Nat) (x : Family) : (e.putFamily i x).out = e.out := rfl

/-! ### Engine.putReplica -/

@[simp] theorem Engine.putReplica_now (i : Nat) (x : Rafter) : (e.putReplica i x).now = e.now := rfl
@[simp] theorem Engine.putReplica_taken (i : Nat) (x : Rafter) : (e.putReplica i x).taken = e.taken := rfl
@[simp] theorem Engine.putReplica_regs (i : Nat) (x : Rafter) : (e.putReplica i x).regs = e.regs := rfl
@[simp] theorem Engine.putReplica_cnt (i : Nat) (x : Rafter) : (e.putReplica i x).cnt = e.cnt := rfl
@[simp] theorem Engine.putReplica_latched (i : Nat) (x : Rafter) : (e.putReplica i x).latched = e.latched := rfl
@[simp] theorem Engine.putReplica_highs (i : Nat) (x : Rafter) : (e.putReplica i x).highs = e.highs := rfl
@[simp] theorem Engine.putReplica_mem (i : Nat) (x : Rafter) : (e.putReplica i x).mem = e.mem := rfl
@[simp] theorem Engine.putReplica_rafter (i : Nat) (x : Rafter) : (e.putReplica i x).rafter = e.rafter := rfl
@[simp] theorem Engine.putReplica_gens (i : Nat) (x : Rafter) : (e.putReplica i x).gens = e.gens := rfl
@[simp] theorem Engine.putReplica_slots (i : Nat) (x : Rafter) : (e.putReplica i x).slots = e.slots := rfl
@[simp] theorem Engine.putReplica_stop (i : Nat) (x : Rafter) : (e.putReplica i x).stop = e.stop := rfl
@[simp] theorem Engine.putReplica_ready0 (i : Nat) (x : Rafter) : (e.putReplica i x).ready0 = e.ready0 := rfl
@[simp] theorem Engine.putReplica_ready1 (i : Nat) (x : Rafter) : (e.putReplica i x).ready1 = e.ready1 := rfl
@[simp] theorem Engine.putReplica_ready2 (i : Nat) (x : Rafter) : (e.putReplica i x).ready2 = e.ready2 := rfl
@[simp] theorem Engine.putReplica_splice0 (i : Nat) (x : Rafter) : (e.putReplica i x).splice0 = e.splice0 := rfl
@[simp] theorem Engine.putReplica_splice1 (i : Nat) (x : Rafter) : (e.putReplica i x).splice1 = e.splice1 := rfl
@[simp] theorem Engine.putReplica_splice2 (i : Nat) (x : Rafter) : (e.putReplica i x).splice2 = e.splice2 := rfl
@[simp] theorem Engine.putReplica_actAt (i : Nat) (x : Rafter) : (e.putReplica i x).actAt = e.actAt := rfl
@[simp] theorem Engine.putReplica_acted (i : Nat) (x : Rafter) : (e.putReplica i x).acted = e.acted := rfl
@[simp] theorem Engine.putReplica_stepNo (i : Nat) (x : Rafter) : (e.putReplica i x).stepNo = e.stepNo := rfl
@[simp] theorem Engine.putReplica_stateCnt (i : Nat) (x : Rafter) : (e.putReplica i x).stateCnt = e.stateCnt := rfl
@[simp] theorem Engine.putReplica_boundaryOpen (i : Nat) (x : Rafter) : (e.putReplica i x).boundaryOpen = e.boundaryOpen := rfl
@[simp] theorem Engine.putReplica_hru (i : Nat) (x : Rafter) : (e.putReplica i x).hru = e.hru := rfl
@[simp] theorem Engine.putReplica_adm (i : Nat) (x : Rafter) : (e.putReplica i x).adm = e.adm := rfl
@[simp] theorem Engine.putReplica_ylm (i : Nat) (x : Rafter) : (e.putReplica i x).ylm = e.ylm := rfl
@[simp] theorem Engine.putReplica_pgm (i : Nat) (x : Rafter) : (e.putReplica i x).pgm = e.pgm := rfl
@[simp] theorem Engine.putReplica_var (i : Nat) (x : Rafter) : (e.putReplica i x).var = e.var := rfl
@[simp] theorem Engine.putReplica_smp (i : Nat) (x : Rafter) : (e.putReplica i x).smp = e.smp := rfl
@[simp] theorem Engine.putReplica_spg (i : Nat) (x : Rafter) : (e.putReplica i x).spg = e.spg := rfl
@[simp] theorem Engine.putReplica_flt (i : Nat) (x : Rafter) : (e.putReplica i x).flt = e.flt := rfl
@[simp] theorem Engine.putReplica_tsk (i : Nat) (x : Rafter) : (e.putReplica i x).tsk = e.tsk := rfl
@[simp] theorem Engine.putReplica_bpl (i : Nat) (x : Rafter) : (e.putReplica i x).bpl = e.bpl := rfl
@[simp] theorem Engine.putReplica_evr (i : Nat) (x : Rafter) : (e.putReplica i x).evr = e.evr := rfl
@[simp] theorem Engine.putReplica_err (i : Nat) (x : Rafter) : (e.putReplica i x).err = e.err := rfl
@[simp] theorem Engine.putReplica_cpc (i : Nat) (x : Rafter) : (e.putReplica i x).cpc = e.cpc := rfl
@[simp] theorem Engine.putReplica_cal (i : Nat) (x : Rafter) : (e.putReplica i x).cal = e.cal := rfl
@[simp] theorem Engine.putReplica_glb (i : Nat) (x : Rafter) : (e.putReplica i x).glb = e.glb := rfl
@[simp] theorem Engine.putReplica_out (i : Nat) (x : Rafter) : (e.putReplica i x).out = e.out := rfl

/-! ### Engine.putRun -/

@[simp] theorem Engine.putRun_now (i : Nat) (x : CourseRun) : (e.putRun i x).now = e.now := rfl
@[simp] theorem Engine.putRun_taken (i : Nat) (x : CourseRun) : (e.putRun i x).taken = e.taken := rfl
@[simp] theorem Engine.putRun_regs (i : Nat) (x : CourseRun) : (e.putRun i x).regs = e.regs := rfl
@[simp] theorem Engine.putRun_cnt (i : Nat) (x : CourseRun) : (e.putRun i x).cnt = e.cnt := rfl
@[simp] theorem Engine.putRun_latched (i : Nat) (x : CourseRun) : (e.putRun i x).latched = e.latched := rfl
@[simp] theorem Engine.putRun_highs (i : Nat) (x : CourseRun) : (e.putRun i x).highs = e.highs := rfl
@[simp] theorem Engine.putRun_mem (i : Nat) (x : CourseRun) : (e.putRun i x).mem = e.mem := rfl
@[simp] theorem Engine.putRun_rafter (i : Nat) (x : CourseRun) : (e.putRun i x).rafter = e.rafter := rfl
@[simp] theorem Engine.putRun_gens (i : Nat) (x : CourseRun) : (e.putRun i x).gens = e.gens := rfl
@[simp] theorem Engine.putRun_slots (i : Nat) (x : CourseRun) : (e.putRun i x).slots = e.slots := rfl
@[simp] theorem Engine.putRun_stop (i : Nat) (x : CourseRun) : (e.putRun i x).stop = e.stop := rfl
@[simp] theorem Engine.putRun_ready0 (i : Nat) (x : CourseRun) : (e.putRun i x).ready0 = e.ready0 := rfl
@[simp] theorem Engine.putRun_ready1 (i : Nat) (x : CourseRun) : (e.putRun i x).ready1 = e.ready1 := rfl
@[simp] theorem Engine.putRun_ready2 (i : Nat) (x : CourseRun) : (e.putRun i x).ready2 = e.ready2 := rfl
@[simp] theorem Engine.putRun_splice0 (i : Nat) (x : CourseRun) : (e.putRun i x).splice0 = e.splice0 := rfl
@[simp] theorem Engine.putRun_splice1 (i : Nat) (x : CourseRun) : (e.putRun i x).splice1 = e.splice1 := rfl
@[simp] theorem Engine.putRun_splice2 (i : Nat) (x : CourseRun) : (e.putRun i x).splice2 = e.splice2 := rfl
@[simp] theorem Engine.putRun_actAt (i : Nat) (x : CourseRun) : (e.putRun i x).actAt = e.actAt := rfl
@[simp] theorem Engine.putRun_acted (i : Nat) (x : CourseRun) : (e.putRun i x).acted = e.acted := rfl
@[simp] theorem Engine.putRun_stepNo (i : Nat) (x : CourseRun) : (e.putRun i x).stepNo = e.stepNo := rfl
@[simp] theorem Engine.putRun_stateCnt (i : Nat) (x : CourseRun) : (e.putRun i x).stateCnt = e.stateCnt := rfl
@[simp] theorem Engine.putRun_boundaryOpen (i : Nat) (x : CourseRun) : (e.putRun i x).boundaryOpen = e.boundaryOpen := rfl
@[simp] theorem Engine.putRun_hru (i : Nat) (x : CourseRun) : (e.putRun i x).hru = e.hru := rfl
@[simp] theorem Engine.putRun_adm (i : Nat) (x : CourseRun) : (e.putRun i x).adm = e.adm := rfl
@[simp] theorem Engine.putRun_pgm (i : Nat) (x : CourseRun) : (e.putRun i x).pgm = e.pgm := rfl
@[simp] theorem Engine.putRun_var (i : Nat) (x : CourseRun) : (e.putRun i x).var = e.var := rfl
@[simp] theorem Engine.putRun_smp (i : Nat) (x : CourseRun) : (e.putRun i x).smp = e.smp := rfl
@[simp] theorem Engine.putRun_spg (i : Nat) (x : CourseRun) : (e.putRun i x).spg = e.spg := rfl
@[simp] theorem Engine.putRun_mdv (i : Nat) (x : CourseRun) : (e.putRun i x).mdv = e.mdv := rfl
@[simp] theorem Engine.putRun_flt (i : Nat) (x : CourseRun) : (e.putRun i x).flt = e.flt := rfl
@[simp] theorem Engine.putRun_tsk (i : Nat) (x : CourseRun) : (e.putRun i x).tsk = e.tsk := rfl
@[simp] theorem Engine.putRun_bpl (i : Nat) (x : CourseRun) : (e.putRun i x).bpl = e.bpl := rfl
@[simp] theorem Engine.putRun_evr (i : Nat) (x : CourseRun) : (e.putRun i x).evr = e.evr := rfl
@[simp] theorem Engine.putRun_err (i : Nat) (x : CourseRun) : (e.putRun i x).err = e.err := rfl
@[simp] theorem Engine.putRun_cpc (i : Nat) (x : CourseRun) : (e.putRun i x).cpc = e.cpc := rfl
@[simp] theorem Engine.putRun_cal (i : Nat) (x : CourseRun) : (e.putRun i x).cal = e.cal := rfl
@[simp] theorem Engine.putRun_glb (i : Nat) (x : CourseRun) : (e.putRun i x).glb = e.glb := rfl
@[simp] theorem Engine.putRun_out (i : Nat) (x : CourseRun) : (e.putRun i x).out = e.out := rfl

/-! ### Engine.logUndo -/

@[simp] theorem Engine.logUndo_now (u : UndoEntry) : (e.logUndo u).now = e.now := rfl
@[simp] theorem Engine.logUndo_taken (u : UndoEntry) : (e.logUndo u).taken = e.taken := rfl
@[simp] theorem Engine.logUndo_regs (u : UndoEntry) : (e.logUndo u).regs = e.regs := rfl
@[simp] theorem Engine.logUndo_cnt (u : UndoEntry) : (e.logUndo u).cnt = e.cnt := rfl
@[simp] theorem Engine.logUndo_latched (u : UndoEntry) : (e.logUndo u).latched = e.latched := rfl
@[simp] theorem Engine.logUndo_highs (u : UndoEntry) : (e.logUndo u).highs = e.highs := rfl
@[simp] theorem Engine.logUndo_mem (u : UndoEntry) : (e.logUndo u).mem = e.mem := rfl
@[simp] theorem Engine.logUndo_rafter (u : UndoEntry) : (e.logUndo u).rafter = e.rafter := rfl
@[simp] theorem Engine.logUndo_gens (u : UndoEntry) : (e.logUndo u).gens = e.gens := rfl
@[simp] theorem Engine.logUndo_slots (u : UndoEntry) : (e.logUndo u).slots = e.slots := rfl
@[simp] theorem Engine.logUndo_stop (u : UndoEntry) : (e.logUndo u).stop = e.stop := rfl
@[simp] theorem Engine.logUndo_ready0 (u : UndoEntry) : (e.logUndo u).ready0 = e.ready0 := rfl
@[simp] theorem Engine.logUndo_ready1 (u : UndoEntry) : (e.logUndo u).ready1 = e.ready1 := rfl
@[simp] theorem Engine.logUndo_ready2 (u : UndoEntry) : (e.logUndo u).ready2 = e.ready2 := rfl
@[simp] theorem Engine.logUndo_splice0 (u : UndoEntry) : (e.logUndo u).splice0 = e.splice0 := rfl
@[simp] theorem Engine.logUndo_splice1 (u : UndoEntry) : (e.logUndo u).splice1 = e.splice1 := rfl
@[simp] theorem Engine.logUndo_splice2 (u : UndoEntry) : (e.logUndo u).splice2 = e.splice2 := rfl
@[simp] theorem Engine.logUndo_actAt (u : UndoEntry) : (e.logUndo u).actAt = e.actAt := rfl
@[simp] theorem Engine.logUndo_acted (u : UndoEntry) : (e.logUndo u).acted = e.acted := rfl
@[simp] theorem Engine.logUndo_stepNo (u : UndoEntry) : (e.logUndo u).stepNo = e.stepNo := rfl
@[simp] theorem Engine.logUndo_stateCnt (u : UndoEntry) : (e.logUndo u).stateCnt = e.stateCnt := rfl
@[simp] theorem Engine.logUndo_boundaryOpen (u : UndoEntry) : (e.logUndo u).boundaryOpen = e.boundaryOpen := rfl
@[simp] theorem Engine.logUndo_hru (u : UndoEntry) : (e.logUndo u).hru = e.hru := rfl
@[simp] theorem Engine.logUndo_adm (u : UndoEntry) : (e.logUndo u).adm = e.adm := rfl
@[simp] theorem Engine.logUndo_ylm (u : UndoEntry) : (e.logUndo u).ylm = e.ylm := rfl
@[simp] theorem Engine.logUndo_pgm (u : UndoEntry) : (e.logUndo u).pgm = e.pgm := rfl
@[simp] theorem Engine.logUndo_var (u : UndoEntry) : (e.logUndo u).var = e.var := rfl
@[simp] theorem Engine.logUndo_smp (u : UndoEntry) : (e.logUndo u).smp = e.smp := rfl
@[simp] theorem Engine.logUndo_spg (u : UndoEntry) : (e.logUndo u).spg = e.spg := rfl
@[simp] theorem Engine.logUndo_mdv (u : UndoEntry) : (e.logUndo u).mdv = e.mdv := rfl
@[simp] theorem Engine.logUndo_tsk (u : UndoEntry) : (e.logUndo u).tsk = e.tsk := rfl
@[simp] theorem Engine.logUndo_bpl (u : UndoEntry) : (e.logUndo u).bpl = e.bpl := rfl
@[simp] theorem Engine.logUndo_evr (u : UndoEntry) : (e.logUndo u).evr = e.evr := rfl
@[simp] theorem Engine.logUndo_err (u : UndoEntry) : (e.logUndo u).err = e.err := rfl
@[simp] theorem Engine.logUndo_cpc (u : UndoEntry) : (e.logUndo u).cpc = e.cpc := rfl
@[simp] theorem Engine.logUndo_cal (u : UndoEntry) : (e.logUndo u).cal = e.cal := rfl
@[simp] theorem Engine.logUndo_glb (u : UndoEntry) : (e.logUndo u).glb = e.glb := rfl
@[simp] theorem Engine.logUndo_out (u : UndoEntry) : (e.logUndo u).out = e.out := rfl

@[simp] theorem Engine.putReq_rafter (i : Nat) (x : Rafter) : (e.putReq i x).rafter = Table.put e.rafter i x := rfl
@[simp] theorem Engine.putSub_subs (i : Nat) (x : SubRing) : (e.putSub i x).hru.subs = Table.put e.hru.subs i x := rfl
@[simp] theorem Engine.putEvt_evts (i : Nat) (x : EvtRing) : (e.putEvt i x).hru.evts = Table.put e.hru.evts i x := rfl
@[simp] theorem Engine.putTask_tasks (i : Nat) (x : Task) : (e.putTask i x).tsk.tasks = Table.put e.tsk.tasks i x := rfl
@[simp] theorem Engine.putCore_cores (i : Nat) (x : Core) : (e.putCore i x).tsk.cores = Table.put e.tsk.cores i x := rfl
@[simp] theorem Engine.putTenant_tenants (i : Nat) (x : Tenant) : (e.putTenant i x).adm.tenants = Table.put e.adm.tenants i x := rfl
@[simp] theorem Engine.putFamily_families (i : Nat) (x : Family) : (e.putFamily i x).var.families = Table.put e.var.families i x := rfl
@[simp] theorem Engine.putReplica_replicas (i : Nat) (x : Rafter) : (e.putReplica i x).mdv.replicas = Table.put e.mdv.replicas i x := rfl
@[simp] theorem Engine.putRun_runs (i : Nat) (x : CourseRun) : (e.putRun i x).ylm.runs = Table.put e.ylm.runs i x := rfl
@[simp] theorem Engine.logUndo_undo (u : UndoEntry) : (e.logUndo u).flt.undo = u :: e.flt.undo := rfl

@[simp] theorem Engine.put_regs (f : Field) (v : Nat) : (e.put f v).regs = Table.put e.regs f.key v := rfl
@[simp] theorem Engine.bumpBy_cnt (c n : Nat) :
    (e.bumpBy c n).cnt = Table.put e.cnt c (e.count c + BitVec.ofNat 32 n) := rfl
@[simp] theorem Engine.bump_cnt (c : Nat) : (e.bump c).cnt = Table.put e.cnt c (e.count c + 1#32) := rfl
@[simp] theorem Engine.emit_out (o : Output) : (e.emit o).out = o :: e.out := rfl

/-! ### Engine.putChannel -/

@[simp] theorem Engine.putChannel_now (ch : Bool) (c : Channel) : (e.putChannel ch c).now = e.now := by
  cases ch <;> rfl
@[simp] theorem Engine.putChannel_taken (ch : Bool) (c : Channel) : (e.putChannel ch c).taken = e.taken := by
  cases ch <;> rfl
@[simp] theorem Engine.putChannel_regs (ch : Bool) (c : Channel) : (e.putChannel ch c).regs = e.regs := by
  cases ch <;> rfl
@[simp] theorem Engine.putChannel_cnt (ch : Bool) (c : Channel) : (e.putChannel ch c).cnt = e.cnt := by
  cases ch <;> rfl
@[simp] theorem Engine.putChannel_latched (ch : Bool) (c : Channel) : (e.putChannel ch c).latched = e.latched := by
  cases ch <;> rfl
@[simp] theorem Engine.putChannel_highs (ch : Bool) (c : Channel) : (e.putChannel ch c).highs = e.highs := by
  cases ch <;> rfl
@[simp] theorem Engine.putChannel_mem (ch : Bool) (c : Channel) : (e.putChannel ch c).mem = e.mem := by
  cases ch <;> rfl
@[simp] theorem Engine.putChannel_rafter (ch : Bool) (c : Channel) : (e.putChannel ch c).rafter = e.rafter := by
  cases ch <;> rfl
@[simp] theorem Engine.putChannel_gens (ch : Bool) (c : Channel) : (e.putChannel ch c).gens = e.gens := by
  cases ch <;> rfl
@[simp] theorem Engine.putChannel_slots (ch : Bool) (c : Channel) : (e.putChannel ch c).slots = e.slots := by
  cases ch <;> rfl
@[simp] theorem Engine.putChannel_stop (ch : Bool) (c : Channel) : (e.putChannel ch c).stop = e.stop := by
  cases ch <;> rfl
@[simp] theorem Engine.putChannel_ready0 (ch : Bool) (c : Channel) : (e.putChannel ch c).ready0 = e.ready0 := by
  cases ch <;> rfl
@[simp] theorem Engine.putChannel_ready1 (ch : Bool) (c : Channel) : (e.putChannel ch c).ready1 = e.ready1 := by
  cases ch <;> rfl
@[simp] theorem Engine.putChannel_ready2 (ch : Bool) (c : Channel) : (e.putChannel ch c).ready2 = e.ready2 := by
  cases ch <;> rfl
@[simp] theorem Engine.putChannel_splice0 (ch : Bool) (c : Channel) : (e.putChannel ch c).splice0 = e.splice0 := by
  cases ch <;> rfl
@[simp] theorem Engine.putChannel_splice1 (ch : Bool) (c : Channel) : (e.putChannel ch c).splice1 = e.splice1 := by
  cases ch <;> rfl
@[simp] theorem Engine.putChannel_splice2 (ch : Bool) (c : Channel) : (e.putChannel ch c).splice2 = e.splice2 := by
  cases ch <;> rfl
@[simp] theorem Engine.putChannel_actAt (ch : Bool) (c : Channel) : (e.putChannel ch c).actAt = e.actAt := by
  cases ch <;> rfl
@[simp] theorem Engine.putChannel_acted (ch : Bool) (c : Channel) : (e.putChannel ch c).acted = e.acted := by
  cases ch <;> rfl
@[simp] theorem Engine.putChannel_stepNo (ch : Bool) (c : Channel) : (e.putChannel ch c).stepNo = e.stepNo := by
  cases ch <;> rfl
@[simp] theorem Engine.putChannel_stateCnt (ch : Bool) (c : Channel) : (e.putChannel ch c).stateCnt = e.stateCnt := by
  cases ch <;> rfl
@[simp] theorem Engine.putChannel_boundaryOpen (ch : Bool) (c : Channel) : (e.putChannel ch c).boundaryOpen = e.boundaryOpen := by
  cases ch <;> rfl
@[simp] theorem Engine.putChannel_hru (ch : Bool) (c : Channel) : (e.putChannel ch c).hru = e.hru := by
  cases ch <;> rfl
@[simp] theorem Engine.putChannel_adm (ch : Bool) (c : Channel) : (e.putChannel ch c).adm = e.adm := by
  cases ch <;> rfl
@[simp] theorem Engine.putChannel_ylm (ch : Bool) (c : Channel) : (e.putChannel ch c).ylm = e.ylm := by
  cases ch <;> rfl
@[simp] theorem Engine.putChannel_pgm (ch : Bool) (c : Channel) : (e.putChannel ch c).pgm = e.pgm := by
  cases ch <;> rfl
@[simp] theorem Engine.putChannel_var (ch : Bool) (c : Channel) : (e.putChannel ch c).var = e.var := by
  cases ch <;> rfl
@[simp] theorem Engine.putChannel_smp (ch : Bool) (c : Channel) : (e.putChannel ch c).smp = e.smp := by
  cases ch <;> rfl
@[simp] theorem Engine.putChannel_spg (ch : Bool) (c : Channel) : (e.putChannel ch c).spg = e.spg := by
  cases ch <;> rfl
@[simp] theorem Engine.putChannel_mdv (ch : Bool) (c : Channel) : (e.putChannel ch c).mdv = e.mdv := by
  cases ch <;> rfl
@[simp] theorem Engine.putChannel_flt (ch : Bool) (c : Channel) : (e.putChannel ch c).flt = e.flt := by
  cases ch <;> rfl
@[simp] theorem Engine.putChannel_tsk (ch : Bool) (c : Channel) : (e.putChannel ch c).tsk = e.tsk := by
  cases ch <;> rfl
@[simp] theorem Engine.putChannel_bpl (ch : Bool) (c : Channel) : (e.putChannel ch c).bpl = e.bpl := by
  cases ch <;> rfl
@[simp] theorem Engine.putChannel_evr (ch : Bool) (c : Channel) : (e.putChannel ch c).evr = e.evr := by
  cases ch <;> rfl
@[simp] theorem Engine.putChannel_err (ch : Bool) (c : Channel) : (e.putChannel ch c).err = e.err := by
  cases ch <;> rfl
@[simp] theorem Engine.putChannel_cal (ch : Bool) (c : Channel) : (e.putChannel ch c).cal = e.cal := by
  cases ch <;> rfl
@[simp] theorem Engine.putChannel_glb (ch : Bool) (c : Channel) : (e.putChannel ch c).glb = e.glb := by
  cases ch <;> rfl
@[simp] theorem Engine.putChannel_out (ch : Bool) (c : Channel) : (e.putChannel ch c).out = e.out := by
  cases ch <;> rfl

/-- A channel written reads as written. -/
@[simp] theorem Engine.channel_putChannel (ch : Bool) (c : Channel) : (e.putChannel ch c).channel ch = c := by
  cases ch <;> rfl

/-- Writing one channel leaves the other alone. -/
@[simp] theorem Engine.channel_putChannel_not (ch : Bool) (c : Channel) : (e.putChannel ch c).channel (!ch) = e.channel (!ch) := by
  cases ch <;> rfl

@[simp] theorem Engine.put_channel (f : Field) (v : Nat) (ch : Bool) : (e.put f v).channel ch = e.channel ch := rfl
@[simp] theorem Engine.bumpBy_channel (c n : Nat) (ch : Bool) : (e.bumpBy c n).channel ch = e.channel ch := rfl
@[simp] theorem Engine.bump_channel (c : Nat) (ch : Bool) : (e.bump c).channel ch = e.channel ch := rfl
@[simp] theorem Engine.emit_channel (o : Output) (ch : Bool) : (e.emit o).channel ch = e.channel ch := rfl

/-! ### How a command acts -/

/-- A command's next state: the queue and the timebase stay. -/
@[simp] theorem State.act_eq (s : State) (f : Engine → Engine) :
    s.act f = .next { s with eng := f { s.eng with now := s.tb.count } } := rfl

/-- The engine a command sees is live where the stored one is. -/
@[simp] theorem Engine.live_now (t isl : Nat) : ({ e with now := t } : Engine).live isl = e.live isl := rfl

/-- A command to a live island acts. -/
theorem State.actIn_live (s : State) (isl : Nat) (f : Engine → Engine) (h : s.eng.live isl = true) :
    s.actIn isl f = .next { s with eng := f { s.eng with now := s.tb.count } } := by
  simp [State.actIn, h]

/-- A command to an island held in reset or without its clock changes nothing but the count it saw. -/
theorem State.actIn_dead (s : State) (isl : Nat) (f : Engine → Engine) (h : s.eng.live isl = false) :
    s.actIn isl f = .next { s with eng := { s.eng with now := s.tb.count } } := by
  simp [State.actIn, h]

/-- What comes from outside a live island with nothing in its crossing acts at once (R16). -/
theorem State.cross_live (s : State) (isl : Nat) (c : Instr) (f : Engine → Engine) (h : s.eng.live isl = true) (w : s.waits isl = false) :
    s.cross isl c f = .next { s with eng := f { s.eng with now := s.tb.count } } := by
  simp [State.cross, h, w]

/-- What comes from outside an island that does not run, or behind what waits, waits in its crossing (R16). -/
theorem State.cross_waits (s : State) (isl : Nat) (c : Instr) (f : Engine → Engine) (h : (s.eng.live isl && !s.waits isl) = false) :
    s.cross isl c f = .next { s with crossing := s.crossing ++ [(isl, c)], eng := { s.eng with now := s.tb.count } } := by
  simp [State.cross, h]

end Sys2Proof.Machine
end

