-- ==== Sys2Proof/Laws/Table.lean ====
section
/-!
SUPPORT. Laws/Table.lean: the sparse tables and the register fields: what a write reads back as, what it leaves alone,
and that the keys keep rising.
-/

namespace Sys2Proof.Machine

variable {α : Type}

/-- A key written reads as written. -/
@[simp] theorem Table.get?_put_self (t : Table α) (k : Nat) (v : α) : Table.get? (Table.put t k v) k = some v := by
  induction t with
  | nil => simp [Table.put, Table.get?]
  | cons x t ih =>
    obtain ⟨k', v'⟩ := x
    simp only [Table.put]
    split
    · simp [Table.get?]
    · split
      · simp [Table.get?]
      · simp [Table.get?, *]

/-- A write leaves every other key alone. -/
theorem Table.get?_put_ne (t : Table α) {k j : Nat} (v : α) (h : j ≠ k) :
    Table.get? (Table.put t k v) j = Table.get? t j := by
  induction t with
  | nil => simp [Table.put, Table.get?, h.symm]
  | cons x t ih =>
    obtain ⟨k', v'⟩ := x
    simp only [Table.put]
    split
    · subst_vars; simp [Table.get?, h.symm]
    · split
      · simp [Table.get?, h.symm]
      · simp [Table.get?, ih]

/-- The same with a default. -/
@[simp] theorem Table.getD_put_self (t : Table α) (k : Nat) (v d : α) : Table.getD (Table.put t k v) k d = v := by
  simp [Table.getD]

theorem Table.getD_put_ne (t : Table α) {k j : Nat} (v d : α) (h : j ≠ k) :
    Table.getD (Table.put t k v) j d = Table.getD t j d := by
  simp [Table.getD, Table.get?_put_ne t v h]

/-- A key removed is absent. -/
@[simp] theorem Table.get?_del_self (t : Table α) (k : Nat) : Table.get? (Table.del t k) k = none := by
  induction t with
  | nil => rfl
  | cons x t ih =>
    obtain ⟨k', v'⟩ := x
    simp only [Table.del]
    split
    · exact ih
    · simp [Table.get?, *]

/-- A removal leaves every other key alone. -/
theorem Table.get?_del_ne (t : Table α) {k j : Nat} (h : j ≠ k) : Table.get? (Table.del t k) j = Table.get? t j := by
  induction t with
  | nil => rfl
  | cons x t ih =>
    obtain ⟨k', v'⟩ := x
    simp only [Table.del]
    split
    · subst_vars; simp [Table.get?, ih, h.symm]
    · simp [Table.get?, ih]

/-- Applying a function at one key, read back at any. -/
theorem Table.get?_modify (t : Table α) (k j : Nat) (f : α → α) :
    Table.get? (Table.modify t k f) j = if j = k then (Table.get? t k).map f else Table.get? t j := by
  unfold Table.modify
  split
  · rename_i v hv
    by_cases h : j = k
    · subst h; simp [hv]
    · simp [h, Table.get?_put_ne]
  · rename_i hv
    by_cases h : j = k
    · subst h; simp [hv]
    · simp [h]

/-- Every key of a written table is the key written or an old one. -/
theorem Table.mem_put {t : Table α} {k : Nat} {v : α} {x : Nat × α} (h : x ∈ Table.put t k v) : x = (k, v) ∨ x ∈ t := by
  induction t with
  | nil => simpa [Table.put] using h
  | cons y t ih =>
    obtain ⟨k', v'⟩ := y
    simp only [Table.put] at h
    split at h
    · rcases List.mem_cons.1 h with h | h
      · exact .inl h
      · exact .inr (List.mem_cons_of_mem _ h)
    · split at h
      · rcases List.mem_cons.1 h with h | h
        · exact .inl h
        · exact .inr h
      · rcases List.mem_cons.1 h with h | h
        · exact .inr (h ▸ List.mem_cons_self)
        · exact (ih h).imp id (List.mem_cons_of_mem _)

/-- A write keeps the keys rising. -/
theorem Table.sorted_put {t : Table α} (k : Nat) (v : α) (h : Table.sorted t) : Table.sorted (Table.put t k v) := by
  unfold Table.sorted at *
  induction t with
  | nil => simp [Table.put]
  | cons y t ih =>
    obtain ⟨k', v'⟩ := y
    simp only [List.map_cons, List.pairwise_cons] at h
    simp only [Table.put]
    split
    · subst_vars; simpa using h
    · split
      · rename_i hne hlt
        simp only [List.map_cons, List.pairwise_cons]
        refine ⟨?_, h⟩
        intro a ha
        rcases List.mem_cons.1 ha with ha | ha
        · omega
        · have := h.1 a ha; omega
      · rename_i hne hlt
        simp only [List.map_cons, List.pairwise_cons]
        refine ⟨?_, ih h.2⟩
        intro a ha
        obtain ⟨x, hx, rfl⟩ := List.mem_map.1 ha
        rcases Table.mem_put hx with hx | hx
        · subst hx; simp only; omega
        · exact h.1 _ (List.mem_map.2 ⟨x, hx, rfl⟩)

/-! ### Register fields and counters -/

/-- A field written reads as written. -/
@[simp] theorem Engine.get_put_self (e : Engine) (f : Field) (v : Nat) : (e.put f v).get f = v := by
  simp [Engine.get, Engine.put]

/-- A write to one field leaves another field alone. -/
theorem Engine.get_put_ne (e : Engine) {f g : Field} (v : Nat) (h : g.key ≠ f.key) : (e.put f v).get g = e.get g := by
  simp [Engine.get, Engine.put, Table.getD_put_ne _ _ _ h]

/-- A field reads from the register table alone. -/
theorem Engine.get_congr {e e' : Engine} (h : e'.regs = e.regs) (f : Field) : e'.get f = e.get f := by
  simp [Engine.get, h]

theorem Engine.flag_congr {e e' : Engine} (h : e'.regs = e.regs) (f : Field) : e'.flag f = e.flag f := by
  simp [Engine.flag, Engine.get_congr h]

/-- A counter counts. -/
@[simp] theorem Engine.count_bump_self (e : Engine) (c : Nat) : (e.bump c).count c = e.count c + 1#32 := by
  simp [Engine.count, Engine.bump, Engine.bumpBy]

/-- It counts alone. -/
theorem Engine.count_bump_ne (e : Engine) {c d : Nat} (h : d ≠ c) : (e.bump c).count d = e.count d := by
  simp [Engine.count, Engine.bump, Engine.bumpBy, Table.getD_put_ne _ _ _ h]

/-- A counter reads from the counters alone. -/
theorem Engine.count_congr {e e' : Engine} (h : e'.cnt = e.cnt) (c : Nat) : e'.count c = e.count c := by
  simp [Engine.count, h]

end Sys2Proof.Machine
end

