-- ==== Sys2Proof/Laws/Log.lean ====
section
/-!
SUPPORT. Laws/Log.lean: everything the eaves log can touch: the region's bytes, its own registers and its counters; and
that every write of it keeps the region's canonical form.
-/

namespace Sys2Proof.Machine

/-- What no record changes in the log unit: ENABLE, the freeze, the stamps, the staged words and the sweep. -/
def Evr.sameMode (a b : Evr) : Prop :=
  b.enabled = a.enabled ∧ b.frozen = a.frozen ∧ b.opTime = a.opTime ∧ b.cycles = a.cycles ∧ b.fwWords = a.fwWords ∧
    b.sweepAt = a.sweepAt ∧ b.emergFail = a.emergFail

/-- e' differs from e in the log region, the log unit and the log's own counters alone, and the region stays canonical. -/
def LogOnly (e e' : Engine) : Prop :=
  e' = { e with mem := e'.mem, evr := e'.evr, cnt := e'.cnt } ∧ (Memory.wf e.mem = true → Memory.wf e'.mem = true) ∧
    ∀ c, c < 0x6000 ∨ 0x7000 ≤ c → e'.count c = e.count c

/-- The same, and the log unit stays in its mode: everything a record that arrives can do. -/
def LogSteady (e e' : Engine) : Prop := LogOnly e e' ∧ e.evr.sameMode e'.evr

theorem Evr.sameMode_refl (a : Evr) : a.sameMode a := ⟨rfl, rfl, rfl, rfl, rfl, rfl, rfl⟩

theorem Evr.sameMode_trans {a b c : Evr} (h : a.sameMode b) (k : b.sameMode c) : a.sameMode c := by
  obtain ⟨h1, h2, h3, h4, h5, h6, h7⟩ := h
  obtain ⟨k1, k2, k3, k4, k5, k6, k7⟩ := k
  exact ⟨k1.trans h1, k2.trans h2, k3.trans h3, k4.trans h4, k5.trans h5, k6.trans h6, k7.trans h7⟩

theorem LogOnly.refl (e : Engine) : LogOnly e e := ⟨rfl, id, fun _ _ => rfl⟩

theorem LogOnly.trans {a b c : Engine} (h : LogOnly a b) (k : LogOnly b c) : LogOnly a c := by
  refine ⟨?_, fun w => k.2.1 (h.2.1 w), fun n hn => (k.2.2 n hn).trans (h.2.2 n hn)⟩
  rw [k.1, h.1]

theorem LogOnly.counts (e : Engine) (c : Nat) (v : BitVec 32) (h : 0x6000 ≤ c ∧ c < 0x7000) :
    LogOnly e { e with cnt := Table.put e.cnt c v } := by
  refine ⟨rfl, id, fun n hn => ?_⟩
  have hne : n ≠ c := by omega
  simp [Engine.count, Table.getD_put_ne _ _ _ hne]

theorem LogOnly.evr (e : Engine) (v : Evr) : LogOnly e { e with evr := v } := ⟨rfl, id, fun _ _ => rfl⟩

theorem LogSteady.refl (e : Engine) : LogSteady e e := ⟨.refl e, e.evr.sameMode_refl⟩

theorem LogSteady.trans {a b c : Engine} (h : LogSteady a b) (k : LogSteady b c) : LogSteady a c :=
  ⟨h.1.trans k.1, Evr.sameMode_trans h.2 k.2⟩

theorem LogSteady.bump (e : Engine) (c : Nat) (h : 0x6000 ≤ c ∧ c < 0x7000) : LogSteady e (e.bump c) :=
  ⟨.counts e c _ h, e.evr.sameMode_refl⟩

theorem LogSteady.evr (e : Engine) (v : Evr) (h : e.evr.sameMode v) : LogSteady e { e with evr := v } := ⟨.evr e v, h⟩

theorem LogSteady.write (e : Engine) (a : Nat) (bs : List Byte) (v : Evr) (h : e.evr.sameMode v) :
    LogSteady e { e with mem := Memory.writeBytes e.mem a bs, evr := v } :=
  ⟨⟨rfl, fun w => Memory.wf_writeBytes a bs w, fun _ _ => rfl⟩, h⟩

theorem Engine.emergency_steady (e : Engine) (x : EmergEntry) : LogSteady e (e.emergency x) := by
  unfold Engine.emergency
  split
  · exact .bump e _ (by decide)
  · exact .evr e _ (by exact ⟨rfl, rfl, rfl, rfl, rfl, rfl, rfl⟩)

theorem Engine.logPut_steady (e : Engine) (r : LogRec) (a : Nat) : LogSteady e (e.logPut r a) :=
  (LogSteady.write e a _ _ (by exact ⟨rfl, rfl, rfl, rfl, rfl, rfl, rfl⟩)).trans (.bump _ _ (by decide))

theorem Engine.logT0_steady (e : Engine) (r : LogRec) : LogSteady e (e.logT0 r) := by
  unfold Engine.logT0
  split
  · exact .bump e _ (by decide)
  · split
    · exact e.logPut_steady r _
    · exact ((LogSteady.evr e _ (by exact ⟨rfl, rfl, rfl, rfl, rfl, rfl, rfl⟩)).trans (.bump _ _ (by decide))).trans (Engine.logPut_steady _ _ _)

theorem Engine.logWrite_steady (e : Engine) (r : LogRec) : LogSteady e (e.logWrite r) := by
  unfold Engine.logWrite
  split
  · exact e.emergency_steady _
  · exact e.logT0_steady r

theorem Engine.logHold_steady (e : Engine) (r : LogRec) : LogSteady e (e.logHold r) := by
  unfold Engine.logHold
  split
  · exact .evr e _ (by exact ⟨rfl, rfl, rfl, rfl, rfl, rfl, rfl⟩)
  · exact (LogSteady.evr e _ (by exact ⟨rfl, rfl, rfl, rfl, rfl, rfl, rfl⟩)).trans (.bump _ _ (by decide))

theorem Engine.logPass_steady (e : Engine) (r : LogRec) : LogSteady e (e.logPass r) := by
  unfold Engine.logPass
  split
  · exact e.logHold_steady _
  · split
    · exact e.logHold_steady r
    · exact e.logWrite_steady r

theorem Engine.logFold_steady (e : Engine) (n : Nat) : LogSteady e (e.logFold n) := by
  unfold Engine.logFold
  split
  · exact .refl e
  · exact LogSteady.write e _ _ _ (by exact ⟨rfl, rfl, rfl, rfl, rfl, rfl, rfl⟩)

theorem Engine.logRepeat_steady (e : Engine) (r : LogRec) : LogSteady e (e.logRepeat r) := by
  unfold Engine.logRepeat
  split
  · exact e.logPass_steady r
  · split
    · split
      · exact (LogSteady.evr e _ (by exact ⟨rfl, rfl, rfl, rfl, rfl, rfl, rfl⟩)).trans (.bump _ _ (by decide))
      · exact (e.logFold_steady 1).trans (.bump _ _ (by decide))
    · exact e.logPass_steady r

theorem Engine.logSuppressed_steady (e : Engine) (code extra : Nat) : LogSteady e (e.logSuppressed code extra) :=
  e.logPass_steady _

theorem Engine.logRate_steady (e : Engine) (r : LogRec) : LogSteady e (e.logRate r) := by
  unfold Engine.logRate
  extract_lets tag prev n
  split
  rename_i count old heq
  extract_lets e1 c2 v2 e2
  have h1 : LogSteady e e1 := by
    show LogSteady e (if _ then _ else _)
    split
    · exact e.logSuppressed_steady _ _
    · exact .refl e
  have h2 : LogSteady e e2 := h1.trans (.evr _ _ (by exact ⟨rfl, rfl, rfl, rfl, rfl, rfl, rfl⟩))
  split
  · exact h2.trans (e2.logPass_steady r)
  · exact h2.trans (.bump _ _ (by decide))

/-- A record that arrives. -/
theorem Engine.logArrive_steady (e : Engine) (code : Nat) (injected : Bool) (island : Nat) (payload : List (BitVec 32)) :
    LogSteady e (e.logArrive code injected island payload) := by
  unfold Engine.logArrive
  extract_lets r
  split
  · exact e.logPass_steady r
  · split
    · exact e.logRepeat_steady r
    · exact e.logRate_steady r
    · exact e.logPass_steady r

/-- A unit's own event. -/
theorem Engine.log_steady (e : Engine) (code : Nat) (payload : List Nat) : LogSteady e (e.log code payload) :=
  e.logArrive_steady _ _ _ _

theorem Engine.logFold_foldl_steady (l : List LogRec) (e : Engine) : LogSteady e (l.foldl (fun e r => e.logWrite r) e) := by
  induction l generalizing e with
  | nil => exact .refl e
  | cons r l ih => exact (e.logWrite_steady r).trans (ih _)

theorem Engine.logRelease_steady (e : Engine) : LogSteady e e.logRelease :=
  (LogSteady.evr e _ (by exact ⟨rfl, rfl, rfl, rfl, rfl, rfl, rfl⟩)).trans (Engine.logFold_foldl_steady _ _)

/-- The last record lost in staging is recorded when there was one. -/
theorem Engine.logLost_steady (e : Engine) (n : Nat) (r : LogRec) : LogSteady e (if n > 0 then e.logWrite r else e) := by
  split
  · exact e.logWrite_steady r
  · exact .refl e

theorem Engine.logThaw_only (e : Engine) (timeout : Bool) : LogOnly e (e.logThaw timeout) := by
  unfold Engine.logThaw
  split
  · exact .refl e
  · split
    · extract_lets v1 e1
      have h1 : LogOnly e e1 := .evr e _
      split
      · exact (h1.trans (e1.logPass_steady _).1).trans (.counts _ _ _ (by decide))
      · exact h1
    · extract_lets held e1 v2 e2 e3 e4 lost v5 e5
      have h1 : LogOnly e e1 := by
        show LogOnly e (if _ then _ else _)
        split
        · exact e.logFold_steady _ |>.1
        · exact .refl e
      have h2 : LogOnly e e2 := h1.trans (.evr _ _)
      have h3 : LogOnly e e3 := by
        show LogOnly e (if _ then _ else _)
        split
        · exact (h2.trans (e2.logWrite_steady _).1).trans (.counts _ _ _ (by decide))
        · exact h2
      have h5 : LogOnly e e5 := (h3.trans e3.logRelease_steady.1).trans (.evr _ _)
      exact h5.trans (e5.logLost_steady _ _).1

theorem Engine.logEnableOn_only (e : Engine) : LogOnly e e.logEnableOn := by
  unfold Engine.logEnableOn
  split
  · exact .refl e
  · extract_lets cycles held size v1 e1 v2 e2 lost v3 e3
    have h1 : LogOnly e e1 := .evr e _
    split
    · exact h1.trans (.evr _ _)
    · have h3 : LogOnly e e3 := ((h1.trans (e1.logWrite_steady _).1).trans (Engine.logRelease_steady _).1).trans (.evr _ _)
      exact h3.trans (e3.logLost_steady _ _).1

theorem Engine.logClear_only (e : Engine) : LogOnly e e.logClear := by
  exact ((LogOnly.evr e _).trans (Engine.logPut_steady _ _ _).1).trans (.counts _ _ _ (by decide))

theorem Engine.logFailed_only (e : Engine) (injected : Bool) : LogOnly e (e.logFailed injected) := by
  unfold Engine.logFailed
  split
  · exact .refl e
  · extract_lets e1 v2 e2
    have h1 : LogOnly e e1 := by
      show LogOnly e (if _ then _ else _)
      split
      · exact .counts e _ _ (by decide)
      · exact .refl e
    exact (h1.trans (.evr _ _)).trans (Engine.emergency_steady _ _).1

end Sys2Proof.Machine
end

