-- ==== Sys2Proof/Laws/Reports.lean ====
section
/-!
SUPPORT. Laws/Reports.lean: everything a report to the error unit can touch: the eaves log, the error unit, its
counters, what it drives, and the handler task's flags.
-/

namespace Sys2Proof.Machine

/-- What a report leaves of the error unit: the lock and its challenge, FATAL, and the injection slots but for their run. -/
def Err.sameLock (a b : Err) : Prop := b.unlocked = a.unlocked ∧ b.challenge = a.challenge ∧ b.fatal = a.fatal

/-- e' differs from e in the log, the error unit, their counters, the tasks and what has been driven, alone; the log
region stays canonical, the log unit stays in its mode, and nothing driven is taken back. -/
def ReportOnly (e e' : Engine) : Prop :=
  e' = { e with mem := e'.mem, evr := e'.evr, cnt := e'.cnt, err := e'.err, tsk := { e.tsk with tasks := e'.tsk.tasks }, out := e'.out } ∧
    (Memory.wf e.mem = true → Memory.wf e'.mem = true) ∧ e.out <:+ e'.out ∧ e.err.sameLock e'.err ∧
    e.evr.sameMode e'.evr ∧ ∀ c, c < 0x4000 ∨ 0x7000 ≤ c → e'.count c = e.count c

theorem Err.sameLock_refl (a : Err) : a.sameLock a := ⟨rfl, rfl, rfl⟩

theorem ReportOnly.refl (e : Engine) : ReportOnly e e :=
  ⟨rfl, id, List.suffix_refl _, e.err.sameLock_refl, e.evr.sameMode_refl, fun _ _ => rfl⟩

theorem ReportOnly.trans {a b c : Engine} (h : ReportOnly a b) (k : ReportOnly b c) : ReportOnly a c := by
  obtain ⟨h1, h2, h3, ⟨h4, h5, h6⟩, h7, h8⟩ := h
  obtain ⟨k1, k2, k3, ⟨k4, k5, k6⟩, k7, k8⟩ := k
  refine ⟨?_, fun w => k2 (h2 w), h3.trans k3, ⟨k4.trans h4, k5.trans h5, k6.trans h6⟩, Evr.sameMode_trans h7 k7,
    fun n hn => (k8 n hn).trans (h8 n hn)⟩
  rw [k1, h1]

theorem LogSteady.reports {e e' : Engine} (h : LogSteady e e') : ReportOnly e e' := by
  obtain ⟨⟨h1, h2, h3⟩, h4⟩ := h
  refine ⟨?_, h2, ?_, ?_, h4, fun n hn => h3 n (by omega)⟩
  · rw [h1]
  · rw [h1]
  · rw [h1]; exact Err.sameLock_refl _

theorem ReportOnly.err (e : Engine) (x : Err) (h : e.err.sameLock x) : ReportOnly e { e with err := x } :=
  ⟨rfl, id, List.suffix_refl _, h, e.evr.sameMode_refl, fun _ _ => rfl⟩

theorem ReportOnly.emit (e : Engine) (o : Output) : ReportOnly e (e.emit o) :=
  ⟨rfl, id, List.suffix_cons _ _, e.err.sameLock_refl, e.evr.sameMode_refl, fun _ _ => rfl⟩

theorem ReportOnly.bump (e : Engine) (c : Nat) (h : 0x4000 ≤ c ∧ c < 0x7000) : ReportOnly e (e.bump c) :=
  ⟨rfl, id, List.suffix_refl _, e.err.sameLock_refl, e.evr.sameMode_refl,
    fun n hn => Engine.count_bump_ne e (by omega)⟩

theorem ReportOnly.log (e : Engine) (code : Nat) (payload : List Nat) : ReportOnly e (e.log code payload) :=
  (e.log_steady code payload).reports

theorem ReportOnly.putTask (e : Engine) (i : Nat) (t : Task) : ReportOnly e (e.putTask i t) :=
  ⟨rfl, id, List.suffix_refl _, e.err.sameLock_refl, e.evr.sameMode_refl, fun _ _ => rfl⟩

theorem Engine.postFlag_only (e : Engine) (task flag : Nat) : ReportOnly e (e.postFlag task flag) := by
  unfold Engine.postFlag
  split
  · exact .refl e
  · exact .putTask e _ _

theorem Engine.notifyError_only (e : Engine) : ReportOnly e e.notifyError := by
  unfold Engine.notifyError
  split
  · exact e.postFlag_only _ _
  · exact .refl e

theorem Engine.evaluate_only (e : Engine) (det : Nat) : ReportOnly e (e.evaluate det).2 := by
  unfold Engine.evaluate
  simp only
  split
  · exact .err e _ ⟨rfl, rfl, rfl⟩
  · exact .refl e

theorem Engine.judge_only (e : Engine) (det : Nat) (given : Option Bool) : ReportOnly e (e.judge det given).2 := by
  cases given
  · exact e.evaluate_only det
  · exact .refl e

theorem Engine.errPend_only (e : Engine) (x : ErrEntry) : ReportOnly e (e.errPend x).2 := by
  unfold Engine.errPend
  split
  · exact .err e _ ⟨rfl, rfl, rfl⟩
  · exact .bump e _ (by decide)

theorem Engine.errReturn_only (e : Engine) (s : Option ErrEntry) : ReportOnly e (e.errReturn s) := by
  cases s with
  | none => exact .refl e
  | some x => exact e.errPend_only x

theorem Engine.errEnter_only (e : Engine) (x : ErrEntry) : ReportOnly e (e.errEnter x).2 := by
  unfold Engine.errEnter
  extract_lets r
  split
  · exact .err e _ ⟨rfl, rfl, rfl⟩
  · split
    · exact (ReportOnly.err e _ ⟨rfl, rfl, rfl⟩).trans (Engine.notifyError_only _)
    · split
      · exact ((e.errReturn_only _).trans (.err _ _ ⟨rfl, rfl, rfl⟩)).trans (Engine.notifyError_only _)
      · exact e.errPend_only x

theorem Engine.errDone_only (e : Engine) : ReportOnly e e.errDone := by
  unfold Engine.errDone
  extract_lets r
  split
  · exact (ReportOnly.err e _ ⟨rfl, rfl, rfl⟩).trans (Engine.notifyError_only _)
  · split
    · exact (ReportOnly.err e _ ⟨rfl, rfl, rfl⟩).trans (Engine.notifyError_only _)
    · exact .err e _ ⟨rfl, rfl, rfl⟩

/-- The ring's part of a record. -/
theorem Engine.errRecord_only (e : Engine) (x : ErrEntry) (escalated unhandled : Bool) :
    ReportOnly e (e.errRecord x escalated unhandled) := by
  unfold Engine.errRecord
  extract_lets words next v0 body record e0 v1 e1 code e2
  have h1 : ReportOnly e e1 := by
    show ReportOnly e (if _ then _ else _)
    split
    · exact .refl e
    · split
      · exact (ReportOnly.err e _ ⟨rfl, rfl, rfl⟩).trans (.bump _ _ (by decide))
      · exact (ReportOnly.emit e _).trans (.err _ _ ⟨rfl, rfl, rfl⟩)
  have h2 : ReportOnly e e2 := h1.trans (Engine.logArrive_steady _ _ _ _ _).reports
  split
  · exact h2.trans (.emit _ _)
  · exact h2

/-- ERR takes a report. -/
theorem Engine.errTake_only (e : Engine) (det cls : Nat) (injected : Bool) (island : Nat) (handle : Handle) (detail : Nat) :
    ReportOnly e (e.errTake det cls injected island handle detail) := by
  unfold Engine.errTake
  extract_lets x v1 e1 e2 e3
  have h1 : ReportOnly e e1 := .err e _ ⟨rfl, rfl, rfl⟩
  have h2 : ReportOnly e e2 := h1.trans (.bump _ _ (by split <;> decide))
  have h3 : ReportOnly e e3 := by
    show ReportOnly e (if _ then _ else _)
    split
    · exact h2.trans (.bump _ _ (by decide))
    · exact h2
  split
  rename_i u e4 heq
  have h4 : ReportOnly e e4 := by
    have : e4 = (u, e4).2 := rfl
    rw [this, ← heq]
    split
    · exact h3.trans (e3.errEnter_only x)
    · exact h3
  exact h4.trans (e4.errRecord_only x _ _)

theorem Engine.report_only (e : Engine) (det cls : Nat) (handle : Handle) (detail : Nat) (given : Option Bool) :
    ReportOnly e (e.report det cls handle detail given) := by
  unfold Engine.report
  exact (e.judge_only det given).trans (Engine.errTake_only _ _ _ _ _ _ _)

/-- A CORRECTED-class error. -/
theorem Engine.corrected_only (e : Engine) (det detail : Nat) (given : Option Bool) :
    ReportOnly e (e.corrected det detail given) := e.report_only _ _ _ _ _

/-- An ignored register access. -/
theorem Engine.badAccess_only (e : Engine) (offset : Nat) : ReportOnly e (e.badAccess offset) := e.corrected_only _ _ _

/-! ### The error sequence (Table 15.3) -/

theorem Engine.notifyError_err (e : Engine) : e.notifyError.err = e.err := by
  unfold Engine.notifyError Engine.postFlag
  split
  · split <;> rfl
  · rfl

theorem Engine.logArrive_err (e : Engine) (code : Nat) (injected : Bool) (island : Nat) (payload : List (BitVec 32)) :
    (e.logArrive code injected island payload).err = e.err := by
  rw [(e.logArrive_steady code injected island payload).1.1]

theorem Engine.evaluate_sequence (e : Engine) (det : Nat) : (e.evaluate det).2.err.sequence = e.err.sequence := by
  unfold Engine.evaluate
  simp only
  split <;> rfl

theorem Engine.judge_sequence (e : Engine) (det : Nat) (given : Option Bool) :
    (e.judge det given).2.err.sequence = e.err.sequence := by
  cases given
  · exact e.evaluate_sequence det
  · rfl

theorem Engine.errPend_sequence (e : Engine) (x : ErrEntry) : (e.errPend x).2.err.sequence = e.err.sequence := by
  unfold Engine.errPend
  split <;> rfl

theorem Engine.errReturn_sequence (e : Engine) (s : Option ErrEntry) : (e.errReturn s).err.sequence = e.err.sequence := by
  cases s with
  | none => rfl
  | some x => exact e.errPend_sequence x

theorem Engine.errEnter_sequence (e : Engine) (x : ErrEntry) : (e.errEnter x).2.err.sequence = e.err.sequence := by
  unfold Engine.errEnter
  extract_lets r
  split
  · rfl
  · split
    · rw [Engine.notifyError_err]
    · split
      · rw [Engine.notifyError_err]
        exact e.errReturn_sequence r.suspended
      · exact e.errPend_sequence x

theorem Engine.errRecord_sequence (e : Engine) (x : ErrEntry) (escalated unhandled : Bool) :
    (e.errRecord x escalated unhandled).err.sequence = e.err.sequence := by
  unfold Engine.errRecord
  extract_lets words next v0 body record e0 v1 e1 code e2
  have h1 : e1.err.sequence = e.err.sequence := by
    show (if _ then _ else _ : Engine).err.sequence = _
    split
    · rfl
    · split <;> rfl
  have h2 : e2.err = e1.err := Engine.logArrive_err _ _ _ _ _
  split
  · simp [h2, h1]
  · rw [h2, h1]

/-- A report takes the next sequence number. -/
theorem Engine.errTake_sequence (e : Engine) (det cls : Nat) (injected : Bool) (island : Nat) (handle : Handle) (detail : Nat) :
    (e.errTake det cls injected island handle detail).err.sequence = e.err.sequence + 1 := by
  unfold Engine.errTake
  extract_lets x v1 e1 e2 e3
  have h3 : e3.err.sequence = e.err.sequence + 1 := by
    show (if _ then _ else _ : Engine).err.sequence = _
    split <;> rfl
  split
  rename_i u e4 heq
  have h4 : e4.err.sequence = e3.err.sequence := by
    have : e4 = (u, e4).2 := rfl
    rw [this, ← heq]
    split
    · exact e3.errEnter_sequence x
    · rfl
  rw [Engine.errRecord_sequence, h4, h3]

theorem Engine.report_sequence (e : Engine) (det cls : Nat) (handle : Handle) (detail : Nat) (given : Option Bool) :
    (e.report det cls handle detail given).err.sequence = e.err.sequence + 1 := by
  unfold Engine.report
  simp only [Engine.errTake_sequence, Engine.judge_sequence]

theorem Engine.corrected_sequence (e : Engine) (det detail : Nat) (given : Option Bool) :
    (e.corrected det detail given).err.sequence = e.err.sequence + 1 := e.report_sequence _ _ _ _ _

theorem Engine.badAccess_sequence (e : Engine) (offset : Nat) : (e.badAccess offset).err.sequence = e.err.sequence + 1 :=
  e.corrected_sequence _ _ _

end Sys2Proof.Machine
end

