-- ==== Sys2Proof/Tests/Slice0.lean ====
section
/-!
SUPPORT. Tests/Slice0.lean: for every obligation with hypotheses, states and operands that meet them; worked examples of the
spec; and an ill-formed term for each check of WellFormed.
-/

namespace Sys2Proof

/-- The last frame of a message with that body. -/
def Frame.of (f : Frame) (body : List Byte) : Frame := { f with length := BitVec.ofNat 13 (Machine.lastPiece body.length) }

end Sys2Proof

namespace Sys2Proof.Machine

/-- A state with its engine, or its group membership, changed. -/
def State.but (s : State) (f : Engine → Engine) : State := { s with eng := f s.eng }
def State.mdv (s : State) (f : Mdv → Mdv) : State := s.but fun e => { e with mdv := f e.mdv }

end Sys2Proof.Machine

namespace Sys2Proof.Tests

set_option Elab.async false

open Sys2Proof.Machine

/-! ### Small states -/

/-- An engine out of both resets with every island running, 5 s after power-on. -/
def lit : State :=
  { State.reset with
    tb := { Timebase.reset with count := 5000000000 }
    eng := { Engine.reset with
      glb := { Glb.reset with aoReset := false, mainReset := false, phase := 7 }
      cal := { Cal.reset with loaded := true }
      cpc := { Cpc.reset with running := 0x1FF#9 } } }

/-- That state with its engine changed. -/
def on (f : Engine → Engine) : State := { lit with eng := f lit.eng }


/-- A self-test's leave request, asking for 100 credits. -/
def bistGrant : LeaveReq := { cls := 5, cred := 100, tag := 3, for_ := .bist, retry := false }

/-- A copy's leave request. -/
def loadGrant : LeaveReq := { cls := 3, cred := 100, tag := 4, for_ := .load, retry := false }

/-- A self-test that holds its grant. -/
def testing : State :=
  on fun e => { e with glb := { e.glb with bistBusy := true }, cpc := { e.cpc with ch1 := { Channel.reset with grants := [bistGrant] } } }

/-- A self-test that waits for its grant. -/
def asked : State := on fun e => { e with cpc := { e.cpc with ch1 := { Channel.reset with waiting := [bistGrant] } } }

/-- An engine whose log is on. -/
def logging : State := on fun e => { e with evr := { e.evr with enabled := true } }

/-- An engine whose log is frozen with one record in staging. -/
def frozenLog : State :=
  on fun e => { e with evr := { e.evr with
    enabled := true, frozen := true, wrPtr := 28, full := true, stagedBytes := 20
    staging := [{ code := 1, injected := false, early := false, opTime := 0, cycles := 0, island := 0, rep := 0, payload := [] }] } }

/-- An error entry. -/
def err1 : ErrEntry :=
  { detector := 0x0803, cls := 0, injected := false, island := 5, handle := nullHandle, detail := 9, sequence := 1, step := 0
    time := 4, rep := 0 }

/-- A second one. -/
def err2 : ErrEntry := { err1 with sequence := 2 }

/-- A request in DECODE with four tokens, in slot 5. -/
def req5 : Rafter :=
  { handle := 0x00040005#32, tenant := 1, family := 0, state := .decode, cls := 0, priority := 0, addValid := false
    pfxValid := false, deliverLate := false, version := 0, addition := 0, pfx := 0, eventRing := 3, seed := 1, pfxLen := 0
    returnState := .free, inputEnd := 4, srcKind := false, stopSeen := false, pausePending := false, rebindPending := false
    mixedVersion := false, firstEmitted := false, suppressNote := false, bindCurrent := false, seqEnd := 4, pendStatus := 0
    kvEnd := 3, pendReason := 0, generated := 0, deliveredPos := pad, handedPos := pad, maxNew := 100, maxContext := 1000, ttft := 0, nextDl := 0
    total := 0, parkExpiry := 0, itlUs := 0, pageHead := 0, pageCount := 0, penOvfHead := 0, penOvfValid := false, paramSrc := 0
    userTag := 0, admitStep := 0, lastServed := 0, replaySeq := 0, params := 0, arrival := 1000, ackRing := 2, ackPos := 6
    completed := false, promptTokens := 4, matched := 0, lookupOpen := false, listTokens := [], later := [], importLoc := 0
    bias := [], chainSalt := 0, reAdmit := false, reserved := 0, entriesRes := 0, bindFailed := false, restoreAt := 0
    pagesCharged := 0, parkedAt := 0, fencedFrom := .free }

/-- An engine that serves one request. -/
def decoding : State := on fun e => { e with rafter := [(5, req5)], gens := [(5, 1)], slots := { e.slots with fresh := 6, freed := [0, 1, 2, 3, 4] } }

/-- A running task. -/
def task7 : Task :=
  { entry := 0x100, arg := 1, ctx := 2, latched := 0x06, mask := 0x02, state := .running, all := false, started := true
    cancelSeen := true, restarted := true, destroyPending := false, priority := 4, affinity := 0, lastCore := none, readyTime := 0
    runs := 1, band := 0 }

/-- The core it runs on. -/
def core2 : Core :=
  { phys := some 2, running := some 7, chosen := none, irq := false, retired := false, stalled := none, irqAt := 0, wdFrom := 0
    runFrom := 0, busyNs := 0 }

/-- Control core 2 runs task 7. -/
def tasking : State := on fun e => { e with tsk := { e.tsk with cores := [(2, core2)], tasks := [(7, task7)] } }

/-- The same with a physical core to spare. -/
def sparing : State := on fun e => { e with tsk := { e.tsk with cores := [(2, core2)], tasks := [(7, task7)], sparePhys := [15] } }

/-- Task 7 waits for flags 1, 2 and 3, of which 1 and 2 are latched. -/
def waiting : State :=
  on fun e => { e with tsk := { e.tsk with
    tasks := [(7, { task7 with state := .waiting, mask := 0x0E#32, latched := 0x06#32, all := true })] } }

/-- Task 7 is READY, core 0 idle and the scheduler on. -/
def readying : State :=
  on fun e => { e.put Fld.tskCtlEnable 1 with tsk := { e.tsk with
    cores := [(0, { core2 with phys := some 0, running := none })], tasks := [(7, { task7 with state := .ready })] } }

/-- Fields at (byte, bit), put together. -/
def pack (l : List (Nat × Nat × Nat)) : Nat := l.foldl (fun n x => n + x.2.2 <<< (8 * x.1 + x.2.1)) 0

/-- A version-2 management ring of 64 slots whose records go to event ring 3. -/
def ctx0 : BitVec 512 :=
  BitVec.ofNat 512 (pack [(0, 0, 0x400000), (8, 0, 6), (8, 5, 1), (8, 6, 1), (8, 7, 1), (10, 0, 3), (10, 4, 0), (10, 12, 4), (32, 0, 0x800000), (40, 0, 4)])

/-- The same for a version-1 ring. -/
def ctx1 : BitVec 512 :=
  BitVec.ofNat 512 (pack [(0, 0, 0x500000), (8, 0, 6), (8, 7, 1), (10, 0, 3), (10, 12, 4), (32, 0, 0x900000), (40, 0, 1), (42, 0, 3)])

/-- A coherent version-2 ring. -/
def ctx2 : BitVec 512 := ctx0 ||| BitVec.ofNat 512 (pack [(9, 1, 1), (24, 0, 0x1000)])

/-- An event ring of 64 slots, vector 5, MOD_TIME 100 µs. -/
def ctx3 : BitVec 512 := BitVec.ofNat 512 (pack [(0, 0, 0x600000), (8, 0, 6), (8, 7, 1), (9, 0, 1), (10, 0, 5), (14, 0, 100)])

/-- A coherent event ring. -/
def ctx4 : BitVec 512 := ctx3 ||| BitVec.ofNat 512 (pack [(9, 1, 1), (24, 0, 0x2000)])

def sub0 : SubRing := { SubRing.off with enabled := true, ctx := ctx0 }
def evt3 : EvtRing := { EvtRing.off with enabled := true, ctx := ctx3, tail := 5, hostHead := 2 }

/-- Rings 0 to 2 and event rings 3 and 4 are enabled. -/
def withRings (e : Engine) : Engine :=
  { ((e.put Fld.hruCtlEnable 1).put Fld.hruRctSizeNs 8).put Fld.hruRctSizeNe 8 with
    hru := { e.hru with
      subs := [(0, sub0), (1, { sub0 with ctx := ctx1 }), (2, { sub0 with ctx := ctx2 })]
      evts := [(3, evt3), (4, { evt3 with ctx := ctx4 })] } }

def ringed : State := on withRings

/-- Two context reads are out. -/
def reading : State := on fun e => { withRings e with hru := { (withRings e).hru with ctxReads := [(true, 7), (false, 5)] } }

/-- A read of the one descriptor in slot 63 of ring 0 is out. -/
def flying : State :=
  on fun e => { withRings e with hru := { (withRings e).hru with subs := [(0, { sub0 with tail := 0, fetched := 0, head := 63, flights := [(63, 1, 1)] })] } }

/-- Two records wait for write credit, event ring 3 at its last slot. -/
def uncredited : State := on fun e => { withRings e with hru := { (withRings e).hru with
  credit := false, evts := [(3, { evt3 with tail := 63, hostHead := 60 })]
  unwritten := [{ ring := 3, rtype := 2, body := 7 }, { ring := 3, rtype := 4, body := 9 }] } }

/-- A descriptor in slot 6 of ring 0. -/
def d0 (op : Nat) (l : List (Nat × Nat × Nat)) : Staged :=
  { ring := 0, slot := 6, pos := 6, desc := BitVec.ofNat 512 (pack ((0, 0, op) :: (4, 0, 0xFFFFFFFF) :: l)), arrival := 5000, phase := .fresh
    reads := .none, reserve := false, turn := 0 }

/-- A descriptor that names the request of slot 5. -/
def d5 (op : Nat) (l : List (Nat × Nat × Nat)) : Staged :=
  { d0 op [] with desc := BitVec.ofNat 512 (pack ((0, 0, op) :: (4, 0, 0x00040005) :: l)) }

/-- One descriptor is staged. -/
def stage (e : Engine) (d : Staged) : Engine :=
  { e with hru := { e.hru with subs := Table.put e.hru.subs d.ring { e.sub d.ring with unacked := [d.pos], head := 7, consumed := 7 }, staging := [d] } }

/-- The configuration block of a small family. -/
def block3 : BitVec 2048 :=
  BitVec.ofNat 2048 (pack [(0, 0, 0x5E4B4643), (4, 0, 0x0302), (6, 0, 4), (8, 0, 300), (12, 0, 4096), (16, 0, 8), (17, 0, 2), (18, 0, 8),
    (20, 0, 16384), (24, 0, 77), (32, 0, 0x10000000), (44, 0, 4096), (48, 0, 16), (64, 0, 4194304), (72, 0, 1048576), (76, 0, 1048576),
    (88, 0, 65536), (92, 0, 1024), (128, 0, 10000), (132, 0, 1000), (136, 0, 5000), (140, 0, 5000), (144, 0, 1000)])

/-- The same with its CHECK. -/
def block3c : BitVec 2048 := block3 ||| BitVec.ofNat 2048 ((crc32c (leBytes 252 block3.toNat)).toNat <<< 2016)

def family3 : Family := { Family.none with state := 2, block := block3c, granules := 2 }

def tenant1 : Tenant :=
  { level := 5000000, stamp := 4000000, rate := 1000, burst := 10, enable := true, cap := 100, live := 1, pquota := 0, pheld := 0
    aquota := 8, aheld := 0 }

/-- Family 3 is CONFIGURED, tenant 1 enabled, the request of slot 5 in DECODE, and pages, weights and additions have room. -/
def furnish (e : Engine) : Engine :=
  let e : Engine := withRings e
  { (e.put Fld.ylmWinSizeMib 64).put Fld.varWtSizeMib 64 with
    rafter := [(5, { req5 with family := 3 })], gens := [(5, 1)], slots := { e.slots with fresh := 6, freed := [0, 1, 2, 3, 4] }
    adm := { e.adm with tenants := [(1, tenant1)] }
    var := { e.var with families := [(3, family3)] }
    pgm := { e.pgm with pools := [(0, { base := 0, count := 256, frames := .full 256, reserved := 0 })] } }

def furnished : State := on furnish

/-- The furnished engine with a descriptor staged. -/
def given (d : Staged) : State := on fun e => stage (furnish e) d

/-- An ORDERED descriptor whose reads wait, behind one that is not acknowledged. -/
def ordering : State := on fun e =>
  let e := stage (furnish e) { d5 0x02 [(1, 0, 1), (24, 0, 0x700000), (36, 0, 2)] with reads := .waiting }
  { e with hru := { e.hru with
    subs := Table.put e.hru.subs 0 { e.sub 0 with unacked := [5, 6] }, staging := { d0 0x3F [] with pos := 5, slot := 5 } :: e.hru.staging } }

/-- An enabled queue. -/
def queue127 : Queue :=
  { enabled := true, cls := 0, atomic := false, notifyEn := false, notifyTask := 0, notifyFlag := 0, xoffLine := 0, xoffEn := false
    maxDepth := 4, high := 3, low := 1, items := [], xoff := false, failed := none, drops := 0 }

/-- The pool is on, queue 127 enabled and core 2 in service. -/
def pooled : State :=
  on fun e => { e.put Fld.bplCtlEnable 1 with
    bpl := { queues := [(127, queue127)], free := 65535, views := [] }, tsk := { e.tsk with cores := [(2, core2)] } }

/-- A version-1 NOP on ring 1. -/
def nop1 : Staged := { d0 0 [] with ring := 1, desc := BitVec.ofNat 512 (pack [(16, 0, 77)]) }

/-- It is staged on ring 1. -/
def nopping : State := on fun e => { furnish e with hru := { (furnish e).hru with
  subs := [(1, { sub0 with ctx := ctx1, head := 7, unacked := [6], consumed := 7 })], staging := [nop1] } }

/-- A SUBMIT of three tokens for family 3 and tenant 1. -/
def submit0 : Staged :=
  d0 0x01 [(16, 0, 1), (18, 0, 3), (19, 0, 1), (24, 0, 0x700000), (32, 20, 3), (36, 0, 3), (40, 0, 0x1234), (50, 0, 100), (53, 0, 1000)]

/-- What its reads return. -/
def tokens2 : ListRead :=
  { ok := true, tokens := [1, 299, 2], bias := [], object := 0
    params := BitVec.ofNat 1024 (pack [(0, 0, 0x3F800000), (4, 0, 0x3F800000), (12, 0, 0x3F800000)]) }

/-- The furnished engine with a request in slot 5 and a descriptor staged. -/
def serving (r : Rafter) (d : Staged) : State := on fun e => { stage (furnish e) d with rafter := [(5, r)] }

def req5f : Rafter := { req5 with family := 3 }

/-- Version 2 of addition 9, RESIDENT in slot 4 and bound once. -/
def version2 : VersionRec :=
  { index := 0, version := 2, vstate := 2, srcT2 := false, inT0 := false, rebindReq := false, hostRetire := false, rank := 16
    size := 16, source := 0x800000, slot := some 4, bound := 1, lastUsed := 0, uses := [], ack := none, lost := false }

def addition9 : Addition :=
  { family := 3, valid := true, currentValid := true, owner := 1, current := 2, records := [version2], retires := [] }

def prefix9 : PrefixRec :=
  { family := 3, state := 2, tenant := 1, tokens := 32, head := 0, pages := [], bound := 0, source := 0, srcT2 := true, lapse := none
    resident := true, ack := none }

/-- The furnished engine, with an addition, a prefix and a descriptor staged. -/
def supplied (d : Staged) : State :=
  on fun e => let e := stage (furnish e) d
    { (e.put Fld.varAdd1SizeMib 64) with var := { e.var with additions := [(9, addition9)], prefixes := [(9, prefix9)] } }

def load9 : Staged :=
  d0 0x10 [(16, 0, 10), (18, 0, 3), (19, 0, 3), (20, 0, 1), (24, 0, 0x800000), (32, 0, 16), (36, 0, 1), (38, 0, 16)]

def prefixLoad8 : Staged := d0 0x12 [(16, 0, 8), (20, 0, 3), (21, 0, 1), (22, 0, 1), (24, 0, 0x800000), (32, 0, 33)]

def config3 : Staged := { d0 0x13 [(16, 0, 3), (24, 0, 0x800000), (32, 0, 256)] with reads := .waiting, phase := .waiting }

def tenantSet9 : Staged :=
  d0 0x20 [(16, 0, 9), (18, 0, 1), (20, 0, 1000), (24, 0, 10), (28, 0, 3), (32, 0, 0), (36, 0, 2), (40, 0, 0x55)]

/-- A SUBMIT's request waiting for its decision in slot 5. -/
def req5a : Rafter := { req5f with state := .admitting, ackRing := 0, ackPos := 6 }

/-- The furnished engine with a candidate. -/
def deciding5 (open_ : Nat) : State :=
  on fun e => let e := stage (furnish e) { submit0 with phase := .admitting 5 }
    { (e.put Fld.admCtlOpen open_) with rafter := [(5, req5a)], adm := { e.adm with candidates := [5] } }

/-- The same held at condition 18. -/
def held5 : State :=
  on fun e => let e := stage (furnish e) { submit0 with phase := .admitting 5 }
    { (e.put Fld.admCtlOpen 1) with rafter := [(5, req5a)], adm := { e.adm with held := [{ slot := 5, condition := 18 }] } }

/-- The same, due to be decided again. -/
def due5 : State := held5.but fun e => { e with adm := { e.adm with due := [5] } }

/-- The same past its TTFT deadline. -/
def expiring : State := held5.but fun e => { e.put Fld.sbCtlDeadlineEn 1 with rafter := [(5, { req5a with ttft := 4999999 })] }

def two : ListRead := { tokens2 with tokens := [298, 299] }

/-- An APPEND of two tokens whose reads are done. -/
def appended : Staged := { d5 2 [(24, 0, 0x700000), (36, 0, 2)] with reads := .done two }

/-- A member that decodes one token at position 3. -/
def member5 : Member :=
  { handle := 0x00040005#32, slot := 5, family := 3, cls := 0, kind := 0, spec := 0, start := 3, count := 1, addition := some (9, 2, 4)
    pageHead := 0, pageCount := 0, seed := 1, order := 0, firstPos := 0, segment := 1, vacated := false, deferred := false
    baseOnly := false, failed := false, ringRes := 0, seqStart := 4, accepted := 0, emitted := false, pins := [], firstDraw := 0
    advance := 0, projected := false, guesses := [], delivered := 0 }

def course0 : Course :=
  { family := 3, split := 0, grade := 0, depth := 4, bank := 0, firstMember := 0, members := 1, firstSegment := 0, segments := 2
    firstPos := 0, positions := 1, draws := 1, firstDraw := 0, predNs := 10000 }

/-- The yealm of step 7. -/
def yealm7 : Yealm :=
  { step := 7, mode := 0, members := [member5], courses := [course0]
    segments := [{ slot := 0, null := true, members := 0, firstPos := 0 }, { slot := 4, null := false, members := 1, firstPos := 0 }]
    positions := 1, draws := 1, epoch := 3, sealTime := 0, predNs := 10000, credits := 5, digest := 9, waited := none }

def record7 : StepRecord :=
  { step := 7, committed := false, damaged := false, mode := 0, epoch := 0, digest := 9, session := 3, members := [], tokens := []
    guesses := [], late := [], failedSeg := [], baseFail := [], courses := 1, draws := 1, rings := [], events := [], commitTime := 0 }

/-- Step 7 is in compute. -/
def compute (y : Yealm) (e : Engine) : Engine :=
  let e := furnish e
  { e with stepNo := 7, ylm := { e.ylm with current := some y, composing := true }
           flt := { e.flt with commitStep := 6, journal := [(7, { record7 with digest := y.digest })] } }

def computing (y : Yealm) : State := on (compute y)

/-- A yealm with the DIGEST of its manifest's bytes. -/
def sound (y : Yealm) : Yealm := { y with digest := crc64 ((furnish lit.eng).manifestBody y) }

/-- The manifest of step 7 is outstanding. -/
def manifested (e : Engine) : Engine :=
  let e := furnish e
  { e with stepNo := 6, ylm := { e.ylm with next := some yealm7, mfStep := some 7 } }

/-- Its manifest has failed three times and been emitted again. -/
def failing7 : State :=
  on fun e => let e := (manifested e).put Fld.fltReplayMaxN 3; { e with ylm := { e.ylm with mfFailures := 3, mfRetried := true } }

/-- A replay has emitted the manifest of step 7 again. -/
def again7 : State := (computing yealm7).but fun e => { e with ylm := { e.ylm with reStep := some 7 } }

/-- The furnished engine with one page. -/
def paged (x : Page) : State := on fun e => let e := furnish e; { e with pgm := { e.pgm with pages := [(8, x)] } }

def page8 : Page :=
  { next := 0, state := .full, tier := 0, indexed := false, mixed := false, baseOnly := false, holders := 1, prev := 0, primary := 0
    frame := 2, pins := 0, cls := 0, bucket := 0, way := 0, before := .full, owner := some 5, cachedAt := 0, salt := 0, family := 3 }

/-- A detached list of pages 8 and 9 waits for the walk. -/
def walking (n : Nat) (p8 p9 : Page) : State :=
  on fun e => let e := furnish e
    { e with pgm := { e.pgm with pages := [(8, p8), (9, p9)], walk := [{ head := 8, count := n, slot := 5, resident := true }] } }

/-- Step 7 is done and its draw emitted. -/
def stepEnding : State :=
  on fun e => let e := compute { yealm7 with members := [{ member5 with emitted := true, delivered := 1 }] } e
    { e with ylm := { e.ylm with stepDone := true, runs := [(0, { begun := true, late := [], failedSeg := [], reported := true, ordered := true, baseFail := false })] }
             smp := { e.smp with nextEmit := 1 } }

def ending7 : Yealm := { yealm7 with members := [{ member5 with emitted := true, delivered := 1 }] }

/-- Step 7 is in compute and its course begun. -/
def sampling (y : Yealm) (ctxs : Table DrawCtx) : State :=
  on fun e => let e := compute y e
    { e with ylm := { e.ylm with runs := [(0, { begun := true, late := [], failedSeg := [], reported := true, ordered := true, baseFail := false })] }
             smp := { e.smp with ctxs := ctxs } }

/-- The one draw of step 7 was deferred and has been passed. -/
def ending7d : Yealm := { yealm7 with members := [{ member5 with deferred := true, emitted := true }] }
def passing : State := (sampling ending7d []).but fun e => { e with smp := { e.smp with nextEmit := 1 } }

/-- A finished context of draw 0, its token 42. -/
def ctx42 : DrawCtx :=
  { (sampling yealm7 []).eng.openCtx req5f 0 member5 0 with done := true, token := some 42, received := 2 }

/-- A context of draw 0 that has folded tile 0. -/
def ctxHalf : DrawCtx := ((sampling yealm7 []).eng.openCtx req5f 0 member5 0).count 0 0

/-- A yealm with a draw 16,384 draws ahead. -/
def yealmFar : Yealm :=
  { yealm7 with courses := [{ course0 with members := 2, draws := 16385 }], draws := 16385, members := [member5, { member5 with firstDraw := 16384 }] }

/-- The context after tile 1 of draw 0 with one logit. -/
def tile1 (c : Option DrawCtx) : Nat × DrawCtx :=
  let e := (sampling yealm7 (c.map (fun c => (0, c))).toList).eng
  e.foldTile req5f member5 3 (e.ctxOf req5f 0 member5 0) 0 1 0 0 [0x4200]

def sparCore : SparCore := { active := true, spare := false, retired := false, logical := 0 }

/-- Core 0 of the generator is active, core 256 a spare. -/
def sparred (e : Engine) : Engine :=
  { e.put Fld.spgCtlShadowEn 1 with spg := { e.spg with cores := [(0, sparCore), (256, { sparCore with active := false, spare := true })] } }

/-- A job that has begun. -/
def job6 : Job := { id := 6, what := .family 3 false, total := 2, issued := 0, landed := 0, started := true }

/-- A copy job's burst holds leave. -/
def bursting : State := on fun e => let e := furnish e
  { e with var := { e.var with jobs := [job6], active := some 6, burst := 2, burstTag := some 1 } }

def spill8 : WantedMove := { why := .spill, page := 8, slot := none, retried := false, timed := false }

def extent0 : Extent := { node := 9, base := 0, cls := 0, frames := .full 4 }

/-- A spill of page 8 holds leave. -/
def spilling (x : Page) : State := on fun _ => let e := (paged x).eng
  { e with pgm := { e.pgm with burst := [spill8], burstTag := some 1, extents := [(0, extent0)] } }

/-- A move of page 8. -/
def move8 : Move :=
  { tag := 77, why := .spill, page := 8, srcTier := 0, srcAddr := 0, dstTier := 2, dstFrame := 1, dstAddr := 0, bytes := 16384, slot := none, cls := 0
    retried := false, timed := false, cancelled := false, expired := false }

def moving8 (m : Move) : State := on fun _ => let e := (paged { page8 with state := .inTransit }).eng
  { e with pgm := { e.pgm with moves := [m], extents := [(0, extent0)] } }

/-- A parked request's page 8, old enough to spill. -/
def parkedPage : State := on fun _ => let e := (paged page8).eng
  { e.put Fld.pgmSpillDelayS 5 with
    rafter := [(5, { req5f with state := .parked, pageHead := 8, pageCount := 1 })]
    pgm := { e.pgm with burst := [{ spill8 with page := 9 }], extents := [(0, extent0)] } }

def cachedPage (at_ : Nat) : State := on fun _ => let e := (paged { page8 with state := .cached, holders := 0, cachedAt := at_ }).eng
  { e.put Fld.pgmCacheTtlS 4 with pgm := { e.pgm with cached := [8] } }

def lapsing (x : PrefixRec) : State := on fun e => let e := furnish e; { e with var := { e.var with prefixes := [(9, x)] } }

/-- A lane group that has used its spare. -/
def lanes0 : LaneGroup := { fault := 1, spareUsed := true, retired := false, pendSwitch := false, pendRetire := false }

def rankAt (node parent partner role shard : Nat) : Rank :=
  { node := node, parent := parent, ringPeer := noRank, partner := partner, role := role, shard := shard }

/-- Rank 0 manages, 1 and 2 work in a chain below it, 3 stands by. -/
def map4 : Table Rank :=
  [(0, rankAt 10 noRank 3 0 0), (1, rankAt 11 0 3 1 0x3FF), (2, rankAt 12 1 3 1 0x3FF), (3, rankAt 13 0 noRank 2 0x3FF)]

/-- An engine joined as one of those ranks. -/
def joinAs (r role : Nat) (e : Engine) : Engine :=
  { e.put Fld.fltJrnlDepthN 8 with mdv := { Mdv.reset with
    map := map4, given := map4, groupId := 6, shards := 1, rank := r, role := role, node := 10 + r, joined := true, epoch := 3, oldEpoch := 3 } }

def managing : State := on fun e => joinAs 0 0 (furnish e)
def working : State := on fun e => joinAs 1 1 (furnish e)
def leafing : State := on fun e => joinAs 2 1 (furnish e)
def standing : State := on fun e => joinAs 3 2 (furnish e)

/-- A frame of that group. -/
def frameOf (src : BitVec 9) (dst : BitVec 16) (step : BitVec 48) : Frame :=
  { up := src != 0, last := true, length := 0, src := src, dst := dst, step := step, epoch := 3, group := 6 }

/-- An engine in no group takes no frame. -/
theorem lit_turns_away (f : Frame) (n : Nat) (b : List Byte) : lit.eng.turnsAway f n b := by
  unfold Engine.turnsAway Engine.unarmed
  exact ⟨by decide +kernel, by simp [Engine.frameOk, show lit.eng.inGroup = false by decide +kernel]⟩

/-- Step 7 in compute at a rank. -/
def busy (s : State) (y : Yealm) : State := s.but fun e =>
  { e with stepNo := 7, ylm := { e.ylm with current := some y }, flt := { e.flt with commitStep := 6, journal := [(7, { record7 with digest := y.digest })] } }

def acks7 (own sent : Bool) (children : List Nat) : Table AckMerge := [(7, { AckMerge.open 9 with own := own, sent := sent, children := children })]
def seg7 (own : Bool) : Table SegMerge := [(448, { SegMerge.empty with own := own })]
def ackOf (cover : BitVec 10) : AckBody :=
  { cover := cover, error := false, mismatch := false, leaveWait := false, digest := 9, waitUs := 5, missing := 0x1FF }

/-- A request replica in slot 5. -/
def replicated (s : State) : State := s.mdv fun m => { m with replicas := [(5, req5f)] }

/-- A map of two ranks: this node manages, node 1 stands by. -/
def mapEntries : List (BitVec 128) :=
  [BitVec.ofNat 128 (pack [(0, 0, 0), (2, 0, 0x1FF), (4, 0, 0x1FF), (6, 0, 1), (8, 0, 0), (10, 0, 0)]),
   BitVec.ofNat 128 (pack [(0, 0, 1), (2, 0, 0), (4, 0, 0x1FF), (6, 0, 0x1FF), (8, 0, 2), (10, 0, 0x3FF)])]
def mapHead0 : BitVec 512 := BitVec.ofNat 512 (pack [(0, 0, 0x5E4B474D), (4, 0, 0x0302), (6, 0, 6), (8, 0, 2), (10, 0, 0), (12, 0, 1)])
def mapHead : BitVec 512 := mapHead0 ||| BitVec.ofNat 512 (pack [(60, 0, (mapCheck mapHead0 mapEntries).toNat)])

/-- An engine that answers a map's budget. -/
def mappable : State := on fun e => { e.put Fld.mdvDistBudgetUs 1000 with slots := e.slots }

/-- The bytes of the empty manifest of a step. -/
def emptyYealm (step : Nat) : Yealm := { yealm7 with step := step, members := [], courses := [], segments := [], positions := 0, draws := 0 }
def manifestOf (step : Nat) : List Byte :=
  let y := { emptyYealm step with digest := crc64 (lit.eng.manifestBody (emptyYealm step)) }
  lit.eng.manifestBytes y

/-- The bytes of an empty step record. -/
def recordOf (step : Nat) : List Byte :=
  let b := leBytes 256 (pack [(0, 0, 0x5E4B4A52), (8, 0, step)])
  b ++ leBytes 16 (pack [(0, 0, (crc64 b).toNat), (8, 0, step)])

/-- A spare node that shadows rank 1. -/
def shadowing (phase : Nat) : State := (on furnish).but fun e =>
  let e := joinAs 1 1 e
  { e with mdv := { e.mdv with joined := false }
           flt := { e.flt with shadow := { e.flt.shadow with phase := phase, rank := 1, role := 1, source := 2, loadStep := 7 } } }

def ack7 (own sent : Bool) (children : List Nat) : AckMerge := { AckMerge.open 9 with own := own, sent := sent, children := children }
def acked7 (s : State) (a : AckMerge) : State := s.mdv fun m => { m with acks := [(7, a)] }
def seg (own : Bool) (child : List Nat) (late : BitVec 1024) : SegMerge := { SegMerge.empty with own := own, children := child, late := late }
def segged (s : State) (g : SegMerge) : State := s.mdv fun m => { m with segs := [(448, g)] }

/-- The course of step 7 has begun, reported and been ordered, or not. -/
def ran (s : State) (reported ordered : Bool) : State := s.but fun e =>
  { e with ylm := { e.ylm with runs := [(0, { begun := true, late := [], failedSeg := [], reported := reported, ordered := ordered, baseFail := false })] } }

def withPage (s : State) (x : Page) : State := s.but fun e => { e with pgm := { e.pgm with pages := [(8, x)] } }
def abort2 (step : BitVec 48) : AbortBody := { step := step, cause := 1, origin := 2, sequence := 9, code := 0x40 }
def ops0C : BitVec 256 := BitVec.ofNat 256 (pack [(0, 0, 0x0C), (4, 0, 0x00040005)])
def jevent3 : List Byte := leBytes 16 (pack [(0, 0, 3), (4, 0, 0x00040005)])
def gate4 : GatedRecord := { sequence := 4, record := { ring := 3, rtype := 2, body := 0 } }

/-- A manager with a record held behind the gate. -/
def gating : State := managing.but fun e => { e with hru := { e.hru with credit := true, gated := [gate4] } }

def watched (own : Table (BitVec 64 × BitVec 64 × BitVec 64)) : State := working.but fun e =>
  { e with flt := { e.flt with shadow := { e.flt.shadow with watching := [(1, 20, 1)], own := own } } }

/-- An engine with errors. -/
def erring (a x : Option ErrEntry) (ps : List ErrEntry) : State :=
  on fun e => { e with err := { e.err with active := a, suspended := x, pending := ps } }

/-- The state a command leaves. -/
def after (c : Instr) (s : State) : State := match exec c s with
  | .next t => t
  | _ => s

/-- A standby of rank 3 with a worker below it. -/
def between : State := standing.mdv fun m =>
  { m with map := [(0, rankAt 10 noRank 3 0 0), (1, rankAt 11 0 3 1 0x3FF), (2, rankAt 12 3 3 1 0x3FF), (3, rankAt 13 0 noRank 2 0x3FF)] }

/-- The manifest of step 1 as a worker reads it, and a worker that holds it. -/
def parsed1 : Yealm := (working.eng.parseManifest (manifestOf 1)).getD yealm7
def holding1 : State := working.mdv fun m => { m with manifestIn := some parsed1 }

/-- A group of two shards computes a step whose one draw is deferred. -/
def deferred7 : Yealm := sound { yealm7 with members := [{ member5 with deferred := true }] }
def sharing (s : State) : State := (busy s deferred7).mdv fun m => { m with shards := 2 }

/-- The mirrored entry of tenant 9. -/
def tenantEvent : List Byte := leBytes 34 (pack [(0, 0, 9), (2, 0, 77)])

/-- The answer to a shadow's request, and the word of its admission. -/
def grantOf (rank : Nat) (granted admitted : Bool) (reason source step node epoch : Nat) : Grant :=
  { rank := rank, granted := granted, admitted := admitted, reason := reason, source := source, step := step, node := node, epoch := epoch }

/-- A manager whose rank 2 has been fenced. -/
def gone2 : State := managing.mdv fun m => { m with fencedRanks := [2] }
/-! ### Worked examples of the spec -/

/-- Table 9.1: the first two rounds for key (0, 0) and counter (0, 0, 0, 0). -/
theorem test_spar_first_rounds :
    let q : Quad := Quad.inject { x0 := 0, x1 := 0, x2 := 0, x3 := 0 } 0 0 0
    q = { x0 := 0, x1 := 0x6A5D3C17, x2 := 0, x3 := 0 } ∧ q.round 0 = { x0 := 0x6A5D3C17, x1 := 0, x2 := 0, x3 := 0x83BD8745 } ∧
      (q.round 0).round 1 = { x0 := 0x6A5D3C17, x1 := 0xF8B30C42, x2 := 0x83BD8745, x3 := 0x6A5D3C17 } := by decide +kernel

/-- The example under R226: the last row's noise is the v of the first row, and its own v is 2^−25. -/
theorem test_gumbel_ends : gumbelV 0xFFFFFFFF#32 = 0x33000000#32 ∧ gumbel 0xFFFFFFFF#32 = gumbelV 0 := by decide +kernel

/-- Family 40's predictor section. -/
def block40 : BitVec 2048 :=
  BitVec.ofNat 2048 (pack [(128, 0, 9200000), (132, 0, 150000), (136, 0, 600000), (140, 0, 150000), (144, 0, 10000), (148, 0, 2000000)])

/-- An engine with family 40's coefficients and κ. -/
def predicting (e : Engine) : Engine :=
  { e with var := { e.var with families := [(40, { family3 with block := block40 })] }
           adm := { e.adm with predictors := [(40, { kappa := 64, clampRun := 0 })] } }

/-- The example of chapter 4: family 40's adjusted prediction is 18,753,125 ns. -/
theorem test_prediction : (predicting lit.eng).adjNs 40 { d := 5000, p := 6000, k := 300000, a := 700 } = 18753125 := by decide +kernel

/-- The example under R362: 7,210,976,601,920 pJ cost 7,210,977 credits, and 7,208,730,189,120 pJ cost 7,208,731. -/
theorem test_price : lit.eng.credits 7210976601920 = 7210977 ∧ lit.eng.credits 7208730189120 = 7208731 := by decide +kernel

/-- The example under R134: two courses, six members and their segments take 960 B. -/
theorem test_manifest_size :
    ({ yealm7 with members := List.replicate 6 member5, courses := [course0, course0]
                   segments := List.replicate 6 { slot := 0, null := true, members := 1, firstPos := 0 } } : Yealm).size = 960 := by
  decide +kernel

/-- The example under R246: a packet of 161 frames takes 21.64416 µs down a chain of 17 engines. -/
theorem test_chain_distribution :
    distTime ((List.range 17).map fun r => (r, rankAt r (if r = 0 then noRank else r - 1) noRank (min r 1) 0x3FF)) 161 = 2164416 := by
  decide +kernel

/-- The example of chapter 0: a deadline of 62,501,030,481 µs passes with the count 62,501,030,482,000 ns. -/
theorem test_deadline_passes :
    passed 62501030481 (62501030481999 / 1000) = false ∧ passed 62501030481 (62501030482000 / 1000) = true := by decide

/-- The example under R198: token 5,120 with its penalties has q = 5.3125 and y = 7.8125. -/
theorem test_penalties :
    scoreOf { req5 with params := BitVec.ofNat 1024 (pack [(0, 0, 0x3FA00000), (12, 0, 0x3FA00000), (16, 0, 0x3F000000), (20, 0, 0x3E800000)]) }
      false { bias := 0, count := 3 } 0x40200000#32 0x40F00000#32 = some (0x40AA0000#32, 0x40FA0000#32) := by decide +kernel

/-- The same example: 902 and 1,037 tie, and the lower id is drawn. -/
theorem test_tie_goes_to_the_lower_id : beats (0x41060000#32, 902) (0x41060000#32, 1037) = true ∧
    beats (0x41060000#32, 1037) (0x41060000#32, 902) = false := by decide +kernel

/-- The example under R324: the first bytes of LOG_START. -/
theorem test_log_start_bytes :
    (List.range 24).map (Memory.read (after .logEnable (on fun e => { e with evr := { e.evr with opTime := 0x02710800, cycles := 311 } })).eng.mem) =
      [0x1C, 0x10, 0x80, 0x00, 0x00, 0x08, 0x71, 0x02, 0x38, 0x01, 0x00, 0x07, 0x00, 0x00, 0x00, 0x00, 0x02, 0x03, 0x4B, 0x5E, 0, 0, 0, 0] := by
  decide +kernel

/-- The example under R389: the stop bit of handle 0x000C_2A40 is bit 0 of STOP_MAP at 0x18_1548. -/
theorem test_stop_bit_address :
    (after (.registerRead 0x181548 4) (after (.registerWrite 0x181000 4 0x000C2A40)
      (on fun e => { e with stop := [0x02A40] }))).eng.out.head? = some (.regData 1) := by decide +kernel

/-- The same example: 0x10_0440 is the SQ_TAIL doorbell of ring 17. -/
theorem test_doorbell_address :
    ((after (.registerWrite 0x100440 4 5) (ringed.but fun e => { e with hru := { e.hru with subs := [(17, sub0)] } })).eng.sub 17).tail = 5 := by
  decide +kernel

/-! ### The front of the queue, and a refused access -/

/-- A step takes the first of two waiting commands. -/
theorem test_first_in_first_out :
    (match step { lit with pending := [.optimeTick, .clear] } with
      | .next t => t.pending == [.clear] && t.eng.evr.opTime == 1
      | _ => false) = true := by decide +kernel

/-- Core 2 stores a byte into its local memory, and core 1 reads it in its view of that memory (Table 12.1). -/
theorem test_local_memory :
    (after (.registerRead 0x0C080005 1) (after (.registerWrite 0x10000005 1 0xA5) lit)).eng.out = [.portData 1 0xA5] := by decide +kernel

/-- A core reads a task's ENTRY at the record's first bytes (Tables 12.1 and 12.2), and may store nothing there. -/
theorem test_task_record_is_read_only :
    (after (.registerRead 0x086B81C0 8) (on fun e => { e with tsk := { e.tsk with tasks := [(7, { task7 with entry := 77 })] } })).eng.out =
        [.portData 1 77] ∧
      (after (.registerWrite 0x086B81C0 8 1) lit).eng.out = [.accessFault 1 0x6B81C0] := by decide +kernel

/-! ### WellFormed: one ill-formed term for each check -/

def word0 : FuseWord := { value := 0, good := true }
def fuses : FuseImage :=
  { osc := List.replicate 9 word0, sensor := List.replicate 8 word0, xtal := word0, bin := word0, energy := List.replicate 6 word0, crit := word0
    weights := List.replicate 4 word0, stepping := word0, caps := word0, sparCores := word0, coreMap := word0 }
def partial0 : PartialRec :=
  { draw := 0, full := false, sat := false, bestY := 0, bestQ := 0, bestId := 0, guess := [], heap := [], acc := 0 }
def count0 : HealthCount := { kind := 0, index := 0, ecc := 0, retry := 0, retrain := 0, swap := 0, rows := [] }

theorem test_refuses_long_fetch : (Instr.descriptorFetchReturn 0 true (List.replicate 17 0)).wf = false := by decide
theorem test_refuses_long_bias : (Instr.tokenListReadDone 0 0 { tokens2 with bias := List.replicate 65 0 }).wf = false := by decide
theorem test_refuses_effect_7 : (Instr.stepBoundaryOpen 7).wf = false := by decide
theorem test_refuses_short_tile : (Instr.logitTile 0 [0]).wf = false := by decide
theorem test_refuses_lane_17 : (Instr.laneFault 0 17).wf = false := by decide
theorem test_refuses_spar_core_272 : (Instr.shadowCheck 272 true 0).wf = false ∧ (Instr.shadowCheck 0 true 272).wf = false := by decide
theorem test_refuses_long_map : (Instr.joinCommand 0 none (List.replicate 513 0)).wf = false := by decide +kernel
theorem test_refuses_long_shadow_map : (Instr.shadowCommand 0 1 0 none (List.replicate 513 0)).wf = false := by decide +kernel
theorem test_refuses_lease_of_513 : (Instr.lease (frameOf 0 0 0) 513).wf = false := by decide
theorem test_refuses_ack_of_513 : (Instr.ack (frameOf 0 0 0) (ackOf 513)).wf = false := by decide
theorem test_refuses_cover_of_513 : (Instr.partials (frameOf 0 0 0) 0 513 0 []).wf = false := by decide
theorem test_refuses_fifth_guess :
    (Instr.partials (frameOf 0 0 0) 0 1 0 [{ partial0 with guess := List.replicate 5 (0, 0) }]).wf = false := by decide
theorem test_refuses_part_kind_6 : (Instr.healthUpdate [{ count0 with kind := 6 }]).wf = false := by decide
theorem test_refuses_empty_item : (Instr.unitPush 0 []).wf = false ∧ (Instr.unitPush 0 (List.replicate 8 0)).wf = false := by decide
theorem test_refuses_log_island_9 : (Instr.logRecord 0 false 9 [] 0).wf = false := by decide
theorem test_refuses_long_payload : (Instr.logRecord 0 false 0 (List.replicate 65 0) 0).wf = false := by decide
theorem test_refuses_error_island_9 : (Instr.errorReport 0 0 9 0 0).wf = false := by decide
theorem test_refuses_monitor_island_9 : (Instr.clockMonitorWindow 9 0).wf = false := by decide
theorem test_refuses_trim_island_9 : (Instr.oscTrimStep 9).wf = false := by decide
theorem test_refuses_seven_sensors : (Instr.sensorRead (List.replicate 7 0)).wf = false := by decide
theorem test_refuses_short_fuses :
    (Instr.fuseLoadDone { fuses with osc := [] }).wf = false ∧ (Instr.fuseLoadDone { fuses with sensor := [] }).wf = false ∧
      (Instr.fuseLoadDone { fuses with energy := [] }).wf = false ∧ (Instr.fuseLoadDone { fuses with weights := [] }).wf = false := by decide
theorem test_refuses_port_5 : (Instr.mainResetRelease { port := 5, cache := false }).wf = false := by decide
theorem test_refuses_unit_request_10 : (Instr.interUnitWatchdog 10 0).wf = false := by decide
theorem test_refuses_port_lane_3 : (Instr.retrainingFailure 3).wf = false := by decide
theorem test_refuses_seventh_word : (Instr.stagePayloadWord 0 0 7 0).wf = false := by decide
theorem test_accepts_good_operands :
    (Instr.fuseLoadDone fuses).wf = true ∧ (Instr.unitPush 0 [0]).wf = true ∧ (Instr.registerRead 0x2000000 4).wf = true ∧
      (Instr.logitTile 0 (List.replicate 256 0)).wf = true := by decide +kernel

/-- The table gives no row a bit, so no word spells a command. -/
theorem test_no_word_decodes : decodeTableWord 32 0x13 = none ∧ (State.reset.withFetchWord 32 0x13).pending = [] := by decide +kernel

/-! ### The hypotheses of every obligation are met -/

set_option maxRecDepth 100000 in
theorem met_IdleStepAdvancesTheTimebase :
    (∃ (s : State), s.pending = [] ∧ s.delivery = none) ∧
    (∃ (s : State), s.pending = [] ∧ s.delivery = none ∧ s.tb.slew = 0 ∧ s.tb.hold = 0 ∧ s.eng.xtalEff = 0 ∧ 0 ≤ s.tb.frac ∧ s.tb.frac < 1000000000) ∧
    (∃ (s : State), s.pending = [] ∧ s.delivery = none ∧ 0 < s.tb.hold) ∧
    (∃ (s : State) (c : Instr) (rest : List (Nat × Instr)), s.pending = [] ∧ s.delivery = some (c, rest)) ∧
    (∃ (s : State) (isl : Nat) (c : Instr), ¬ s.receives isl ∧ (c = .admissionOpen ∧ isl = Isl.sb ∨ (∃ ev i, c = .ringEnable ev i) ∧ isl = Isl.hi ∨ (∃ g, c = .katCommand g) ∧ isl = Isl.sp ∨ (∃ q ws, c = .unitPush q ws) ∧ isl = Isl.bp)) ∧
    (∃ (s : State) (isl : Nat) (c : Instr), ¬ s.receives isl ∧ (c = .admissionOpen ∧ isl = Isl.sb ∨ (∃ ev i, c = .ringEnable ev i) ∧ isl = Isl.hi ∨ (∃ g, c = .katCommand g) ∧ isl = Isl.sp ∨ (∃ q ws, c = .unitPush q ws) ∧ isl = Isl.bp)) ∧
    (∃ (s : State) (isl : Nat) (c : Instr), ¬ s.receives isl ∧ (c = .admissionOpen ∧ isl = Isl.sb ∨ (∃ ev i, c = .ringEnable ev i) ∧ isl = Isl.hi ∨ (∃ g, c = .katCommand g) ∧ isl = Isl.sp ∨ (∃ q ws, c = .unitPush q ws) ∧ isl = Isl.bp)) ∧
    (∃ (s : State) (isl : Nat) (c : Instr), ¬ s.receives isl ∧ (c = .admissionOpen ∧ isl = Isl.sb ∨ (∃ ev i, c = .ringEnable ev i) ∧ isl = Isl.hi ∨ (∃ g, c = .katCommand g) ∧ isl = Isl.sp ∨ (∃ q ws, c = .unitPush q ws) ∧ isl = Isl.bp)) :=
  ⟨⟨lit, by decide +kernel⟩,
   ⟨lit, by decide +kernel⟩,
   ⟨{ lit with tb := { lit.tb with hold := 3 } }, by decide +kernel⟩,
   ⟨{ lit with crossing := [(Isl.sb, .admissionOpen)] }, .admissionOpen, [], by decide +kernel⟩,
   ⟨State.reset, Isl.sb, .admissionOpen, ⟨by unfold State.receives State.serves; decide +kernel, .inl ⟨rfl, rfl⟩⟩⟩,
   ⟨State.reset, Isl.hi, .ringEnable false 0, ⟨by unfold State.receives State.serves; decide +kernel, .inr (.inl ⟨⟨_, _, rfl⟩, rfl⟩)⟩⟩,
   ⟨State.reset, Isl.sp, .katCommand true, ⟨by unfold State.receives State.serves; decide +kernel, .inr (.inr (.inl ⟨⟨_, rfl⟩, rfl⟩))⟩⟩,
   ⟨{ lit with crossing := [(Isl.bp, .unitPush 0 [1])] }, Isl.bp, .unitPush 0 [2], ⟨by unfold State.receives State.serves; decide +kernel, .inr (.inr (.inr ⟨⟨_, _, rfl⟩, rfl⟩))⟩⟩⟩

set_option maxRecDepth 100000 in
theorem met_OnlyStrobesAndResetMoveTheTimebase :
    ∃ (c : Instr) (s : State) (t : State), (∀ n, c ≠ .timebaseStrobe n) ∧ c ≠ .aoResetAssert ∧ exec c s = .next t :=
  ⟨.clear, frozenLog, after .clear frozenLog, ⟨(by intro n h; cases h), (by intro h; cases h), rfl⟩⟩

set_option maxRecDepth 100000 in
theorem met_TimebaseNeverRunsBackward :
    ∃ (s : State) (t : State), s.tb.sound ∧ s.tb.count + 8 ≤ 2 ^ 64 ∧ step s = .next t ∧ (∀ rest, s.pending ≠ .aoResetAssert :: rest) ∧ (∀ x ∈ s.crossing, x.2 ≠ .aoResetAssert) :=
  ⟨lit, lit.cycle, ⟨by unfold Timebase.sound; decide +kernel, by decide +kernel, rfl, (by intro rest h; cases h), by decide +kernel⟩⟩

set_option maxRecDepth 100000 in
theorem met_TimebaseStaysSound :
    ∃ (s : State) (t : State), s.tb.sound ∧ step s = .next t :=
  ⟨lit, lit.cycle, ⟨by unfold Timebase.sound; decide +kernel, rfl⟩⟩

set_option maxRecDepth 100000 in
theorem met_ResetsAndTheirReleases :
    (∃ (s : State), s.eng.glb.aoReset = true) ∧
    (∃ (s : State), s.eng.glb.mainReset = true ∧ s.eng.glb.aoReset = false ∧ s.eng.cal.loaded = true) :=
  ⟨⟨State.reset, by decide +kernel⟩,
   ⟨{ lit with eng := { lit.eng with glb := { lit.eng.glb with mainReset := true } } }, by decide +kernel⟩⟩

set_option maxRecDepth 100000 in
theorem met_FuseLoads :
    (∃ (s : State), s.serves Isl.ao ∧ s.eng.cal.loaded = false) ∧
    (∃ (s : State), s.serves Isl.ao ∧ s.eng.cal.loaded = false) ∧
    (∃ (s : State), s.serves Isl.ao ∧ s.eng.cal.loaded = false) :=
  ⟨⟨on fun e => { e with cal := { e.cal with loaded := false } }, by unfold State.serves; decide +kernel⟩,
   ⟨on fun e => { e with cal := { e.cal with loaded := false } }, by unfold State.serves; decide +kernel⟩,
   ⟨on fun e => { e with cal := { e.cal with loaded := false } }, by unfold State.serves; decide +kernel⟩⟩

set_option maxRecDepth 100000 in
theorem met_SelfTestCommands :
    (∃ (s : State), s.serves Isl.ao ∧ s.eng.get Fld.admCtlOpen = 0 ∧ s.eng.slots.count = 262144 ∧ s.eng.get Fld.ylmCtlMode = 2 ∧ s.eng.glb.bistBusy = false ∧ s.eng.glb.mainReset = false) ∧
    (∃ (s : State) (g : LeaveReq), s.serves Isl.ao ∧ s.eng.glb.bistBusy = true ∧ s.eng.cpc.ch1.grants = [g] ∧ g.for_ = .bist) :=
  ⟨⟨on fun e => e.put Fld.ylmCtlMode 2, by unfold State.serves; decide +kernel⟩,
   ⟨testing, bistGrant, by unfold State.serves; decide +kernel⟩⟩

set_option maxRecDepth 100000 in
theorem met_ClocksAndSensors :
    (∃ (s : State) (v : BitVec 32), s.serves Isl.ao ∧ s.eng.cpc.running &&& ~~~(v.setWidth 9 ||| 0x0A0#9) = 0#9) ∧
    (∃ (s : State) (v : BitVec 32), s.serves Isl.ao ∧ s.eng.cpc.running &&& ~~~(v.setWidth 9 ||| 0x0A0#9) ≠ 0#9 ∧ ¬(s.eng.get Fld.admCtlOpen = 0 ∧ s.eng.slots.count = 262144)) ∧
    (∃ (s : State) (i : BitVec 4), s.serves Isl.ao ∧ s.eng.cpc.running.getLsbD i.toNat = true) ∧
    (∃ (s : State) (i : BitVec 4), s.serves Isl.ao ∧ s.eng.cpc.running.getLsbD i.toNat = true) ∧
    (∃ (s : State) (l : List (BitVec 11)) (x : BitVec 11) (rest : List (BitVec 11)), s.serves Isl.ao ∧ l = x :: rest) ∧
    (∃ (s : State) (i : BitVec 4), s.serves Isl.ao ∧ s.eng.cal.loaded = true ∧ i.toNat < 9 ∧ s.eng.oscEff i.toNat < s.eng.oscTarget i.toNat ∧ s.eng.stepsOut i.toNat true = false) ∧
    (∃ (s : State), s.serves Isl.ao) :=
  ⟨⟨on fun e => { e with cpc := { e.cpc with running := 0x0A1#9 } }, 0x001#32, by unfold State.serves; decide +kernel⟩,
   ⟨on fun e => e.put Fld.admCtlOpen 1, 0x0FE#32, by unfold State.serves; decide +kernel⟩,
   ⟨lit, 0, by unfold State.serves; decide +kernel⟩,
   ⟨lit, 8, by unfold State.serves; decide +kernel⟩,
   ⟨lit, [100, 200, 300], 100, [200, 300], by unfold State.serves; decide +kernel⟩,
   ⟨on fun e => ({ e with cal := { e.cal with osc := [(0, 300)], oscEff := [(0, 299)] } }), 0, by unfold State.serves; decide +kernel⟩,
   ⟨lit, by unfold State.serves; decide +kernel⟩⟩

set_option maxRecDepth 100000 in
theorem met_StrobesAndTimebaseLoss :
    (∃ (s : State) (c : BitVec 64), s.serves Isl.ao ∧ (s.tb.distance c.toNat ≤ s.eng.get Fld.cpcTbStepMaxUs * 1000 ∨ 2 ≤ s.eng.cpc.tbRejects)) ∧
    (∃ (s : State) (c : BitVec 64), s.serves Isl.ao ∧ (s.tb.distance c.toNat ≤ s.eng.get Fld.cpcTbStepMaxUs * 1000 ∨ 2 ≤ s.eng.cpc.tbRejects)) ∧
    (∃ (s : State) (c : BitVec 64), s.serves Isl.ao ∧ (s.tb.distance c.toNat ≤ s.eng.get Fld.cpcTbStepMaxUs * 1000 ∨ 2 ≤ s.eng.cpc.tbRejects)) ∧
    (∃ (s : State) (c : BitVec 64), s.serves Isl.ao ∧ (s.tb.distance c.toNat ≤ s.eng.get Fld.cpcTbStepMaxUs * 1000 ∨ 2 ≤ s.eng.cpc.tbRejects)) ∧
    (∃ (s : State) (c : BitVec 64), s.serves Isl.ao ∧ (s.tb.distance c.toNat ≤ s.eng.get Fld.cpcTbStepMaxUs * 1000 ∨ 2 ≤ s.eng.cpc.tbRejects)) ∧
    (∃ (s : State) (c : BitVec 64), s.serves Isl.ao ∧ s.eng.get Fld.cpcTbStepMaxUs * 1000 < s.tb.distance c.toNat ∧ s.eng.cpc.tbRejects < 2) ∧
    (∃ (s : State), s.serves Isl.ao) ∧
    (∃ (s : State) (a : BitVec 31) (r : T0Region) (base : Nat), s.serves Isl.ao ∧ s.eng.ylm.current = none ∧ regionAt a.toNat = some (r, base) ∧ r ≠ .reserved ∧ r ≠ .eavesLog) ∧
    (∃ (s : State) (a : BitVec 31) (r : T0Region) (base : Nat), s.serves Isl.ao ∧ s.eng.ylm.current = none ∧ regionAt a.toNat = some (r, base) ∧ r ≠ .reserved ∧ r ≠ .eavesLog) ∧
    (∃ (s : State) (a : BitVec 31) (r : T0Region) (base : Nat), s.serves Isl.ao ∧ s.eng.ylm.current = none ∧ regionAt a.toNat = some (r, base) ∧ r ≠ .reserved ∧ r ≠ .eavesLog) ∧
    (∃ (s : State) (a : BitVec 31), s.serves Isl.ao ∧ (∀ r base, regionAt a.toNat = some (r, base) → r = .reserved)) :=
  ⟨⟨lit, 5000000020, by unfold State.serves; decide +kernel⟩,
   ⟨lit, 5000000021, by unfold State.serves; decide +kernel⟩,
   ⟨lit, 4999999980, by unfold State.serves; decide +kernel⟩,
   ⟨lit, 4999999979, by unfold State.serves; decide +kernel⟩,
   ⟨on fun e => { e with cpc := { e.cpc with tbRejects := 2 } }, 9000000000, by unfold State.serves; decide +kernel⟩,
   ⟨lit, 9000000000, by unfold State.serves; decide +kernel⟩,
   ⟨lit, by unfold State.serves; decide +kernel⟩,
   ⟨lit, 0x50FFFFFF#31, .journal, 0x41000000, by unfold State.serves; decide +kernel⟩,
   ⟨lit, 0x55000000#31, .prefixTable, 0x55000000, by unfold State.serves; decide +kernel⟩,
   ⟨on fun e => { e with ylm := { e.ylm with current := none } }, 0x6E000000#31, .stateLoading, 0x6E000000, by unfold State.serves; decide +kernel⟩,
   ⟨lit, 0x5F400000#31, by unfold State.serves; exact ⟨by decide +kernel, by intro r base h; cases h; rfl⟩⟩⟩

set_option maxRecDepth 100000 in
theorem met_LeaveHandshakes :
    (∃ (s : State) (ch : Bool) (r : LeaveReq), s.serves Isl.ao ∧ (s.eng.channel ch).free = true ∧ (s.eng.channel ch).due = [] ∧ (s.eng.channel ch).next = some r) ∧
    (∃ (s : State) (ch : Bool) (tag : Nat) (due : List Nat), s.serves Isl.ao ∧ (s.eng.channel ch).free = true ∧ (s.eng.channel ch).due = tag :: due) ∧
    (∃ (s : State) (ch : Bool) (tag : Nat), s.serves Isl.ao ∧ (s.eng.channel ch).releasing = some tag) ∧
    (∃ (s : State) (ch : Bool) (r : LeaveReq), s.serves Isl.ao ∧ (s.eng.channel ch).releasing = none ∧ (s.eng.channel ch).asking = some r ∧ r.for_ = .bist ∧ s.eng.glb.mainReset = false) ∧
    (∃ (s : State) (ch : Bool) (offer : BitVec 32) (r : LeaveReq), s.serves Isl.ao ∧ (s.eng.channel ch).releasing = none ∧ (s.eng.channel ch).asking = some r ∧ (r.for_ = .load ∨ r.for_ = .mirror ∨ r.for_ = .bist ∨ r.cred ≤ offer.toNat) ∧ s.eng.glb.mainReset = false) ∧
    (∃ (s : State) (ch : Bool) (offer : BitVec 32) (r : LeaveReq), s.serves Isl.ao ∧ (s.eng.channel ch).releasing = none ∧ (s.eng.channel ch).asking = some r ∧ (r.for_ = .load ∨ r.for_ = .mirror ∨ r.for_ = .bist ∨ r.cred ≤ offer.toNat) ∧ s.eng.glb.mainReset = false) ∧
    (∃ (s : State), s.serves Isl.ao) ∧
    (∃ (s : State) (ch : Bool) (a : List LeaveReq) (b : List LeaveReq) (r : LeaveReq), s.serves Isl.ao ∧ (s.eng.channel ch).waiting = a ++ r :: b ∧ (∀ x ∈ a, x.retry = false) ∧ r.retry = true) ∧
    (∃ (s : State) (ch : Bool) (tag : Nat), s.serves Isl.ao ∧ (s.eng.channel ch).releasing = some tag) ∧
    (∃ (s : State) (ch : Bool) (r : LeaveReq), s.serves Isl.ao ∧ (s.eng.channel ch).releasing = none ∧ (s.eng.channel ch).asking = some r ∧ (r.for_ = .load ∨ r.for_ = .mirror ∨ r.for_ = .bist) ∧ s.eng.glb.mainReset = false) :=
  ⟨⟨asked, true, bistGrant, by unfold State.serves; decide +kernel⟩,
   ⟨on fun e => e.putChannel false { Channel.reset with due := [7, 9] }, false, 7, [9], by unfold State.serves; decide +kernel⟩,
   ⟨on fun e => e.putChannel true { Channel.reset with releasing := some 7 }, true, 7, by unfold State.serves; decide +kernel⟩,
   ⟨on fun e => e.putChannel true { Channel.reset with asking := some bistGrant }, true, bistGrant, by unfold State.serves; decide +kernel⟩,
   ⟨on fun e => e.putChannel true { Channel.reset with asking := some loadGrant }, true, 99, loadGrant, by unfold State.serves; decide +kernel⟩,
   ⟨on fun e => e.putChannel true { Channel.reset with asking := some bistGrant }, true, 100, bistGrant, by unfold State.serves; decide +kernel⟩,
   ⟨on fun e => e.putChannel true { Channel.reset with closing := true }, by unfold State.serves; decide +kernel⟩,
   ⟨on fun e => e.putChannel true { Channel.reset with waiting := [bistGrant, { loadGrant with retry := true }] }, true, [bistGrant], [], { loadGrant with retry := true }, by unfold State.serves; decide +kernel⟩,
   ⟨on fun e => e.putChannel true { Channel.reset with releasing := some 7 }, true, 7, by unfold State.serves; decide +kernel⟩,
   ⟨on fun e => e.putChannel true { Channel.reset with asking := some bistGrant }, true, bistGrant, by unfold State.serves; decide +kernel⟩⟩

set_option maxRecDepth 100000 in
theorem met_LogRecordReachesTheRegion :
    (∃ (s : State) (code : BitVec 16) (pl : List (BitVec 32)), s.serves Isl.ao ∧ Memory.wf s.eng.mem = true ∧ s.eng.evr.enabled = true ∧ s.eng.evr.frozen = false ∧ s.eng.evr.full = false ∧ s.eng.evr.memFail = false ∧ (exemptCode code.toNat = true ∨ s.eng.get Fld.evrCtlFlood = 0) ∧ pl.length ≤ 64 ∧ s.eng.evr.wrPtr + 20 + 4 * pl.length ≤ 0x03FFFFE0) ∧
    (∃ (s : State) (code : BitVec 16) (pl : List (BitVec 32)), s.serves Isl.ao ∧ Memory.wf s.eng.mem = true ∧ s.eng.evr.enabled = true ∧ s.eng.evr.frozen = false ∧ s.eng.evr.full = false ∧ s.eng.evr.memFail = false ∧ (exemptCode code.toNat = true ∨ s.eng.get Fld.evrCtlFlood = 0) ∧ pl.length ≤ 64 ∧ s.eng.evr.wrPtr + 20 + 4 * pl.length ≤ 0x03FFFFE0) :=
  ⟨⟨on fun e => { e.put Fld.evrCtlFlood 0 with evr := { e.evr with enabled := true } }, 0x0123#16, [7, 8], by unfold State.serves; decide +kernel⟩,
   ⟨on fun e => { e with evr := { e.evr with enabled := true, wrPtr := 0x03FFFFE0 - 28 } }, 0x0801#16, [7, 8], by unfold State.serves; decide +kernel⟩⟩

set_option maxRecDepth 100000 in
theorem met_LogModesAndCommands :
    (∃ (s : State), s.serves Isl.ao ∧ s.eng.evr.enabled = false) ∧
    (∃ (s : State), s.serves Isl.ao) ∧
    (∃ (s : State), s.serves Isl.ao ∧ s.eng.evr.enabled = true ∧ s.eng.evr.frozen = true) ∧
    (∃ (s : State), s.serves Isl.ao ∧ s.eng.evr.enabled = true ∧ s.eng.evr.frozen = true) ∧
    (∃ (s : State), s.serves Isl.ao ∧ s.eng.evr.frozen = true ∧ Memory.wf s.eng.mem = true) ∧
    (∃ (s : State), s.serves Isl.ao) ∧
    (∃ (s : State) (v : BitVec 32), s.serves Isl.ao ∧ bitsOf v.toNat 12 4 = 15 ∧ bitsOf v.toNat 16 7 ≤ 64 ∧ bitsOf v.toNat 16 7 = s.eng.evr.fwWords.length) ∧
    (∃ (s : State) (code : BitVec 16) (inj : Bool) (isl : BitVec 4) (pl : List (BitVec 32)), s.serves Isl.ao ∧ s.eng.evr.enabled = true ∧ s.eng.evr.frozen = true ∧ exemptCode code.toNat = true ∧ s.eng.evr.stagedBytes + (s.eng.logStamp code.toNat inj isl.toNat pl).size ≤ 65536) :=
  ⟨⟨lit, by unfold State.serves; decide +kernel⟩,
   ⟨logging, by unfold State.serves; decide +kernel⟩,
   ⟨frozenLog, by unfold State.serves; decide +kernel⟩,
   ⟨frozenLog, by unfold State.serves; decide +kernel⟩,
   ⟨frozenLog, by unfold State.serves; decide +kernel⟩,
   ⟨logging, by unfold State.serves; decide +kernel⟩,
   ⟨on fun e => { e with evr := { e.evr with fwWords := [5] } }, 0x0001F001#32, by unfold State.serves; decide +kernel⟩,
   ⟨frozenLog, 0x0801#16, false, 3, [], by unfold State.serves; decide +kernel⟩⟩

set_option maxRecDepth 100000 in
theorem met_LogUpkeepAndFailure :
    (∃ (s : State), s.serves Isl.ao) ∧
    (∃ (s : State), s.serves Isl.ao ∧ s.eng.get Fld.evrCtlFlood = 2) ∧
    (∃ (s : State) (c : Instr) (back : Nat) (at_ : Nat) (counted : Bool), (c = .logWriteFail ∨ c = .logWriteTimeout) ∧ s.serves Isl.ao ∧ s.eng.evr.lastWrite = some (back, at_, counted)) ∧
    (∃ (s : State) (c : Instr) (back : Nat) (at_ : Nat) (counted : Bool), (c = .logWriteFail ∨ c = .logWriteTimeout) ∧ s.serves Isl.ao ∧ s.eng.evr.lastWrite = some (back, at_, counted)) :=
  ⟨⟨on fun e => { e with evr := { e.evr with opTime := 0xFFFFFFFF } }, by unfold State.serves; decide +kernel⟩,
   ⟨on fun e => (e.put Fld.evrCtlFlood 2), by unfold State.serves; decide +kernel⟩,
   ⟨on fun e => { e with evr := { e.evr with enabled := true, lastWrite := some (0, 4, true), wrPtr := 28 } }, .logWriteFail, 0, 4, true, by unfold State.serves; decide +kernel⟩,
   ⟨on fun e => { e with evr := { e.evr with enabled := true, lastWrite := some (0, 4, true), wrPtr := 28 } }, .logWriteTimeout, 0, 4, true, by unfold State.serves; decide +kernel⟩⟩

set_option maxRecDepth 100000 in
theorem met_LogRegionStaysCanonical :
    (∃ (s : State) (t : State) (c : Instr), ((∃ code i isl pl d, c = .logRecord code i isl pl d) ∨ (∃ v, c = .fwCommit v) ∨ (∃ v, c = .unlock v) ∨ c ∈ [.logEnable, .freeze, .unfreeze, .freezeTimeout, .clear, .emergClear, .rateSweep, .optimeTick, .logWriteFail, .logWriteTimeout, .errCtxDone, .handlingTimeout, .errorRingEnable, .unlockChallenge, .lock, .timebaseTimeout]) ∧ Memory.wf s.eng.mem = true ∧ exec c s = .next t) ∧
    (∃ (s : State) (t : State) (c : Instr), ((∃ code i isl pl d, c = .logRecord code i isl pl d) ∨ (∃ v, c = .fwCommit v) ∨ (∃ v, c = .unlock v) ∨ c ∈ [.logEnable, .freeze, .unfreeze, .freezeTimeout, .clear, .emergClear, .rateSweep, .optimeTick, .logWriteFail, .logWriteTimeout, .errCtxDone, .handlingTimeout, .errorRingEnable, .unlockChallenge, .lock, .timebaseTimeout]) ∧ Memory.wf s.eng.mem = true ∧ exec c s = .next t) ∧
    (∃ (s : State) (t : State) (a : BitVec 32) (size : Nat) (v : BitVec 64) (l : Nat) (p : Nat) (o : Nat), 0x200000 ≤ a.toNat ∧ accessPoint a.toNat = (l, p) ∧ exec (.registerWrite a size v) s = .next t ∧ coreArea p size = some (.shared, o) ∧ Memory.wf s.eng.tsk.shared = true) ∧
    (∃ (s : State) (t : State) (a : BitVec 32) (size : Nat) (v : BitVec 64) (l : Nat) (p : Nat) (o : Nat), 0x200000 ≤ a.toNat ∧ accessPoint a.toNat = (l, p) ∧ exec (.registerWrite a size v) s = .next t ∧ coreArea p size = some (.own, o) ∧ Memory.wf (Table.getD s.eng.tsk.locals l []) = true) :=
  ⟨⟨frozenLog, after .logWriteFail frozenLog, .logWriteFail, ⟨.inr (.inr (.inr (by simp))), by decide +kernel, rfl⟩⟩,
   ⟨logging, after (.fwCommit 0x0001F001) logging, .fwCommit 0x0001F001, ⟨.inr (.inl ⟨_, rfl⟩), by decide +kernel, rfl⟩⟩,
   ⟨lit, after (.registerWrite 0x200004 4 5) lit, 0x200004, 4, 5, 0, 0x200004, 0x100004, ⟨by decide, rfl, rfl, by decide +kernel, by decide +kernel⟩⟩,
   ⟨lit, after (.registerWrite 0x10000004 4 5) lit, 0x10000004, 4, 5, 2, 4, 4, ⟨by decide, rfl, rfl, by decide +kernel, by decide +kernel⟩⟩⟩

set_option maxRecDepth 100000 in
theorem met_ErrorReportsByClass :
    (∃ (s : State) (det : BitVec 16), s.serves Isl.ao ∧ s.eng.err.slots = [] ∧ bitsOf det.toNat 8 4 ≠ 1 ∧ det.toNat ≠ Det.contextParity ∧ det.toNat ≠ Det.emergReadback) ∧
    (∃ (s : State) (det : BitVec 16) (h : BitVec 32) (r : Rafter), s.serves Isl.ao ∧ s.eng.err.slots = [] ∧ bitsOf det.toNat 8 4 ≠ 1 ∧ det.toNat ≠ Det.contextParity ∧ det.toNat ≠ Det.emergReadback ∧ s.eng.lookup h = some r ∧ r.state.running = true) ∧
    (∃ (s : State) (det : BitVec 16) (h : BitVec 32) (r : Rafter), s.serves Isl.ao ∧ s.eng.err.slots = [] ∧ bitsOf det.toNat 8 4 ≠ 1 ∧ det.toNat ≠ Det.contextParity ∧ det.toNat ≠ Det.emergReadback ∧ s.eng.lookup h = some r ∧ r.state.running = true) ∧
    (∃ (s : State) (det : BitVec 16) (y : Yealm), s.serves Isl.ao ∧ s.eng.err.slots = [] ∧ det.toNat / 4096 ≠ 12 ∧ det.toNat ≠ Det.contextParity ∧ det.toNat ≠ Det.emergReadback ∧ s.eng.mayReplay y) ∧
    (∃ (s : State) (det : BitVec 16), s.serves Isl.ao ∧ s.eng.err.slots = [] ∧ det.toNat / 4096 ≠ 12 ∧ det.toNat ≠ Det.contextParity ∧ det.toNat ≠ Det.emergReadback ∧ s.eng.ylm.current = none) ∧
    (∃ (s : State) (det : BitVec 16), s.serves Isl.ao ∧ s.eng.err.slots = [] ∧ bitsOf det.toNat 8 4 ≠ 1 ∧ det.toNat ≠ Det.contextParity ∧ det.toNat ≠ Det.emergReadback ∧ s.eng.glb.phase ≠ 0) ∧
    (∃ (s : State) (det : BitVec 16), s.serves Isl.ao ∧ s.eng.err.slots = [] ∧ bitsOf det.toNat 8 4 ≠ 1 ∧ det.toNat ≠ Det.contextParity ∧ det.toNat ≠ Det.emergReadback ∧ s.eng.glb.phase ≠ 0) ∧
    (∃ (s : State) (v : BitVec 32), s.serves Isl.ao ∧ bitsOf v.toNat 0 3 = 0) :=
  ⟨⟨lit, 0x0803#16, by unfold State.serves; decide +kernel⟩,
   ⟨decoding, 0x0305#16, 0x00040005#32, req5, by unfold State.serves; decide +kernel⟩,
   ⟨decoding, 0x0405#16, 0x00040005#32, req5, by unfold State.serves; decide +kernel⟩,
   ⟨computing (sound yealm7), 0x0403#16, sound yealm7, by unfold Engine.mayReplay State.serves; decide +kernel⟩,
   ⟨lit, 0x0403#16, by unfold State.serves; decide +kernel⟩,
   ⟨lit, 0x0403#16, by unfold State.serves; decide +kernel⟩,
   ⟨testing, 0x0C03#16, by unfold State.serves; decide +kernel⟩,
   ⟨lit, 0x00010000#32, by unfold State.serves; decide +kernel⟩⟩

set_option maxRecDepth 100000 in
theorem met_ErrorHandlingOrder :
    (∃ (s : State) (a : ErrEntry) (x : ErrEntry), s.serves Isl.ao ∧ s.eng.err.active = some a ∧ s.eng.err.suspended = some x) ∧
    (∃ (s : State) (a : ErrEntry) (p : ErrEntry) (ps : List ErrEntry), s.serves Isl.ao ∧ s.eng.err.active = some a ∧ s.eng.err.suspended = none ∧ s.eng.err.pending = p :: ps) ∧
    (∃ (s : State) (a : ErrEntry), s.serves Isl.ao ∧ s.eng.err.active = some a ∧ s.eng.err.suspended = none ∧ s.eng.err.pending = []) ∧
    (∃ (s : State) (a : ErrEntry), s.serves Isl.ao ∧ s.eng.err.active = some a) ∧
    (∃ (s : State), s.serves Isl.ao ∧ s.eng.err.active = none) ∧
    (∃ (s : State), s.serves Isl.ao ∧ s.eng.get Fld.errCtlRingEn = 0) :=
  ⟨⟨on fun e => { e with err := { e.err with active := some err1, suspended := some err2 } }, err1, err2, by unfold State.serves; decide +kernel⟩,
   ⟨on fun e => { e with err := { e.err with active := some err1, pending := [err2, err1] } }, err1, err2, [err1], by unfold State.serves; decide +kernel⟩,
   ⟨on fun e => { e with err := { e.err with active := some err1 } }, err1, by unfold State.serves; decide +kernel⟩,
   ⟨on fun e => { e with err := { e.err with active := some err1 } }, err1, by unfold State.serves; decide +kernel⟩,
   ⟨lit, by unfold State.serves; decide +kernel⟩,
   ⟨lit, by unfold State.serves; decide +kernel⟩⟩

set_option maxRecDepth 100000 in
theorem met_UnlockProtocol :
    (∃ (s : State), s.serves Isl.ao) ∧
    (∃ (s : State) (c : BitVec 32) (limit : Nat), s.serves Isl.ao ∧ s.eng.err.challenge = some (c, limit) ∧ s.tb.count ≤ limit ∧ c ^^^ 0x5E4B0302#32 ≠ 0#32) ∧
    (∃ (s : State) (v : BitVec 32), s.serves Isl.ao ∧ v ≠ 0#32 ∧ (∀ c limit, s.eng.err.challenge = some (c, limit) → limit < s.tb.count ∨ v ≠ c ^^^ 0x5E4B0302#32)) ∧
    (∃ (s : State) (v : BitVec 32), s.serves Isl.ao ∧ v ≠ 0#32 ∧ (∀ c limit, s.eng.err.challenge = some (c, limit) → limit < s.tb.count ∨ v ≠ c ^^^ 0x5E4B0302#32)) ∧
    (∃ (s : State), s.serves Isl.ao) ∧
    (∃ (s : State), s.serves Isl.ao) :=
  ⟨⟨lit, by unfold State.serves; decide +kernel⟩,
   ⟨on fun e => { e with err := { e.err with challenge := some (1, 5000000000) } }, 1, 5000000000, by unfold State.serves; decide +kernel⟩,
   ⟨on fun e => { e with err := { e.err with challenge := some (1, 4999999999) } }, (1#32 ^^^ 0x5E4B0302#32), ⟨rfl, by decide +kernel, by intro c limit h; left; cases h; decide⟩⟩,
   ⟨lit, 9, ⟨rfl, by decide +kernel, by intro c limit h; cases h⟩⟩,
   ⟨on fun e => { e with err := { e.err with unlocked := true, slots := [(0, { detector := 1, arm := true, nth := false, uncorr := false, n := 1, fired := 0, seen := 0 })] } }, by unfold State.serves; decide +kernel⟩,
   ⟨on fun e => { e with err := { e.err with unlocked := true, slots := [(0, { detector := 1, arm := true, nth := false, uncorr := false, n := 1, fired := 0, seen := 0 })] } }, by unfold State.serves; decide +kernel⟩⟩

set_option maxRecDepth 100000 in
theorem met_TaskPortLoadsAndStores :
    (∃ (s : State) (c : BitVec 4) (k : Nat) (r : Task), s.serves Isl.cc ∧ (s.eng.core c.toNat).inService = true ∧ (s.eng.core c.toNat).running = some k ∧ s.eng.task? k = some r) ∧
    (∃ (s : State) (c : BitVec 4) (k : Nat) (r : Task), s.serves Isl.cc ∧ (s.eng.core c.toNat).inService = true ∧ (s.eng.core c.toNat).running = some k ∧ s.eng.task? k = some r) ∧
    (∃ (s : State) (c : BitVec 4) (k : Nat) (r : Task), s.serves Isl.cc ∧ (s.eng.core c.toNat).inService = true ∧ (s.eng.core c.toNat).running = some k ∧ s.eng.task? k = some r ∧ r.destroyPending = false) ∧
    (∃ (s : State) (c : BitVec 4) (k : Nat) (r : Task), s.serves Isl.cc ∧ (s.eng.core c.toNat).inService = true ∧ (s.eng.core c.toNat).running = some k ∧ s.eng.task? k = some r ∧ r.destroyPending = false) ∧
    (∃ (s : State) (c : BitVec 4) (k : Nat) (r : Task), s.serves Isl.cc ∧ (s.eng.core c.toNat).inService = true ∧ (s.eng.core c.toNat).running = some k ∧ s.eng.task? k = some r ∧ r.destroyPending = false) ∧
    (∃ (s : State) (c : BitVec 4), s.serves Isl.cc ∧ (s.eng.core c.toNat).inService = true) ∧
    (∃ (s : State) (c : BitVec 4), s.serves Isl.cc ∧ (s.eng.core c.toNat).inService = true) ∧
    (∃ (s : State) (c : BitVec 4), s.serves Isl.cc ∧ (s.eng.core c.toNat).inService = true) ∧
    (∃ (s : State) (c : BitVec 4), s.serves Isl.cc ∧ (s.eng.core c.toNat).inService = true ∧ (s.eng.core c.toNat).chosen = none) :=
  ⟨⟨tasking, 2, 7, task7, by unfold State.serves; decide +kernel⟩,
   ⟨tasking, 2, 7, task7, by unfold State.serves; decide +kernel⟩,
   ⟨tasking, 2, 7, task7, by unfold State.serves; decide +kernel⟩,
   ⟨tasking, 2, 7, task7, by unfold State.serves; decide +kernel⟩,
   ⟨tasking, 2, 7, task7, by unfold State.serves; decide +kernel⟩,
   ⟨tasking, 2, by unfold State.serves; decide +kernel⟩,
   ⟨tasking, 2, by unfold State.serves; decide +kernel⟩,
   ⟨tasking, 0, by unfold State.serves; decide +kernel⟩,
   ⟨tasking, 2, by unfold State.serves; decide +kernel⟩⟩

set_option maxRecDepth 100000 in
theorem met_TaskRecordsAndDispatch :
    (∃ (s : State) (c : BitVec 4) (v : BitVec 64), s.serves Isl.cc ∧ (s.eng.core c.toNat).inService = true ∧ s.eng.task? (portTask v) = none) ∧
    (∃ (s : State) (c : BitVec 4) (v : BitVec 64), s.serves Isl.cc ∧ (s.eng.core c.toNat).inService = true ∧ s.eng.task? (portTask v) = none) ∧
    (∃ (s : State) (c : BitVec 4) (v : BitVec 64) (r : Task), s.serves Isl.cc ∧ (s.eng.core c.toNat).inService = true ∧ s.eng.task? (portTask v) = some r ∧ s.eng.get Fld.errNotifyEn = 0) ∧
    (∃ (s : State) (v : BitVec 64) (r : Task), s.serves Isl.cc ∧ s.eng.task? (portTask v) = some r ∧ r.state = .waiting ∧ ({ r with latched := r.latched ||| BitVec.twoPow 32 (bitsOf v.toNat 16 5) } : Task).satisfied = true) ∧
    (∃ (s : State) (v : BitVec 64) (r : Task), s.serves Isl.cc ∧ s.eng.task? (portTask v) = some r ∧ r.state = .running) ∧
    (∃ (s : State) (v : BitVec 64) (r : Task), s.serves Isl.cc ∧ s.eng.task? (portTask v) = some r ∧ r.state ≠ .running) ∧
    (∃ (s : State) (v : BitVec 64) (r : Task), s.serves Isl.cc ∧ s.eng.task? (portTask v) = some r) ∧
    (∃ (s : State) (v : BitVec 64) (r : Task), s.serves Isl.cc ∧ s.eng.task? (portTask v) = some r) ∧
    (∃ (s : State) (v : BitVec 64) (r : Task), s.serves Isl.cc ∧ s.eng.task? (portTask v) = some r) ∧
    (∃ (s : State) (v : BitVec 64) (r : Task), s.serves Isl.cc ∧ s.eng.task? (portTask v) = some r ∧ r.state ≠ .running) ∧
    (∃ (s : State) (k : Nat) (r : Task), s.serves Isl.cc ∧ s.eng.get Fld.tskCtlEnable = 1 ∧ s.eng.readyTasks = [(k, r)] ∧ r.affinity = 0#16 ∧ r.lastCore = none ∧ (s.eng.core 0).isIdle = true ∧ (s.eng.core 0).stalled = none) ∧
    (∃ (s : State) (c : BitVec 4) (k : Nat) (r : Task), s.serves Isl.cc ∧ (s.eng.core c.toNat).inService = true ∧ (s.eng.core c.toNat).chosen = some k ∧ (s.eng.core c.toNat).running = none ∧ s.eng.task? k = some r) ∧
    (∃ (s : State), s.receives Isl.cc) :=
  ⟨⟨tasking, 2, 9#64, by unfold State.serves; decide +kernel⟩,
   ⟨tasking, 2, 4094#64, by unfold State.serves; decide +kernel⟩,
   ⟨tasking, 2, 7#64, task7, by unfold State.serves; decide +kernel⟩,
   ⟨waiting, 0x00030007#64, { task7 with state := .waiting, mask := 0x0E#32, latched := 0x06#32, all := true }, by unfold State.serves; decide +kernel⟩,
   ⟨tasking, 7#64, task7, by unfold State.serves; decide +kernel⟩,
   ⟨waiting, 7#64, { task7 with state := .waiting, mask := 0x0E#32, latched := 0x06#32, all := true }, by unfold State.serves; decide +kernel⟩,
   ⟨waiting, 7#64, { task7 with state := .waiting, mask := 0x0E#32, latched := 0x06#32, all := true }, by unfold State.serves; decide +kernel⟩,
   ⟨tasking, 7#64, task7, by unfold State.serves; decide +kernel⟩,
   ⟨readying, 7#64, { task7 with state := .ready }, by unfold State.serves; decide +kernel⟩,
   ⟨waiting, 0xFFFF0000001F0007#64, { task7 with state := .waiting, mask := 0x0E#32, latched := 0x06#32, all := true }, by unfold State.serves; decide +kernel⟩,
   ⟨readying, 7, { task7 with state := .ready }, by unfold State.serves; decide +kernel⟩,
   ⟨on fun e => { e with tsk := { e.tsk with cores := [(2, { core2 with running := none, chosen := some 7 })], tasks := [(7, { task7 with state := .ready })] } }, 2, 7, { task7 with state := .ready }, by unfold State.serves; decide +kernel⟩,
   ⟨tasking, by unfold State.receives State.serves; decide +kernel⟩⟩

set_option maxRecDepth 100000 in
theorem met_CoreFaultsRestartTheTask :
    (∃ (s : State) (c : BitVec 4), s.serves Isl.cc ∧ (s.eng.core c.toNat).inService = true ∧ s.eng.err.active = none ∧ s.eng.tsk.spareDue.length < s.eng.tsk.sparePhys.length) ∧
    (∃ (s : State) (c : BitVec 4), s.serves Isl.cc ∧ (s.eng.core c.toNat).inService = true ∧ s.eng.err.active = none ∧ s.eng.tsk.spareDue.length < s.eng.tsk.sparePhys.length ∧ (s.eng.core c.toNat).running.isSome = true ∧ (s.eng.core c.toNat).wdFrom + s.eng.get Fld.tskCoreWdUs * 1000 ≤ s.tb.count) ∧
    (∃ (s : State) (c : BitVec 4), s.serves Isl.cc ∧ (s.eng.core c.toNat).inService = true ∧ s.eng.err.active = none ∧ s.eng.tsk.spareDue.length < s.eng.tsk.sparePhys.length ∧ (s.eng.core c.toNat).chosen.isSome = true ∧ (s.eng.core c.toNat).irqAt + s.eng.get Fld.tskPreemptToUs * 1000 ≤ s.tb.count) ∧
    (∃ (s : State) (c : BitVec 4), s.serves Isl.cc ∧ s.tb.count < (s.eng.core c.toNat).wdFrom + s.eng.get Fld.tskCoreWdUs * 1000) ∧
    (∃ (s : State) (c : BitVec 4), s.serves Isl.cc ∧ s.tb.count < (s.eng.core c.toNat).irqAt + s.eng.get Fld.tskPreemptToUs * 1000) ∧
    (∃ (s : State) (c : BitVec 4) (v : BitVec 64) (k : Nat), s.serves Isl.cc ∧ (s.eng.core c.toNat).inService = true ∧ (s.eng.core c.toNat).running = some k ∧ (s.eng.flow (bitsOf v.toNat 0 19)).busy = true ∧ (s.eng.flow (bitsOf v.toNat 0 19)).owner = k ∧ (∀ l < 16, (s.eng.core l).stalled = none)) ∧
    (∃ (s : State) (c : BitVec 4) (v : BitVec 64), s.serves Isl.cc ∧ (s.eng.core c.toNat).inService = true ∧ ((s.eng.flow (bitsOf v.toNat 0 19)).busy = false ∨ (s.eng.core c.toNat).running ≠ some (s.eng.flow (bitsOf v.toNat 0 19)).owner)) ∧
    (∃ (s : State) (c : BitVec 4) (v : BitVec 64), s.serves Isl.cc ∧ (s.eng.core c.toNat).inService = true ∧ ((s.eng.flow (bitsOf v.toNat 0 19)).busy = false ∨ (s.eng.core c.toNat).running ≠ some (s.eng.flow (bitsOf v.toNat 0 19)).owner)) :=
  ⟨⟨sparing, 2, by unfold State.serves; decide +kernel⟩,
   ⟨sparing, 2, by unfold State.serves; decide +kernel⟩,
   ⟨on fun e => { e with tsk := { e.tsk with cores := [(2, { core2 with chosen := some 8, irq := true })], tasks := [(7, task7), (8, { task7 with state := .ready })], sparePhys := [15] } }, 2, by unfold State.serves; decide +kernel⟩,
   ⟨on fun e => { e with tsk := { e.tsk with cores := [(2, { core2 with wdFrom := 5000000000 })], tasks := [(7, task7)] } }, 2, by unfold State.serves; decide +kernel⟩,
   ⟨on fun e => { e with tsk := { e.tsk with cores := [(2, { core2 with chosen := some 8, irqAt := 5000000000 })], tasks := [(7, task7), (8, { task7 with state := .ready })] } }, 2, by unfold State.serves; decide +kernel⟩,
   ⟨on fun e => { e with tsk := { e.tsk with cores := [(2, core2)], tasks := [(7, task7)], flows := [(5, { busy := true, owner := 7, retry := false, queue := 1 })], service := [(5, (1, .words [3] false))] } }, 2, 5, 7, by unfold State.serves; decide +kernel⟩,
   ⟨tasking, 2, 0x7FFFF#64, by unfold State.serves; decide +kernel⟩,
   ⟨on fun e => { e with tsk := { e.tsk with cores := [(2, core2)], tasks := [(7, task7)], flows := [(5, { busy := true, owner := 8, retry := false, queue := 1 })] } }, 2, 5, by unfold State.serves; decide +kernel⟩⟩

set_option maxRecDepth 100000 in
theorem met_BattenPushesAndPops :
    (∃ (s : State) (q : BitVec 10) (ws : List (BitVec 64)), s.receives Isl.bp ∧ s.eng.get Fld.bplCtlEnable = 1 ∧ q.toNat < 128 ∧ ws ≠ [] ∧ (s.eng.queue q.toNat).enabled = true ∧ (∀ l < 16, (s.eng.core l).stalled = none) ∧ s.eng.accepts (s.eng.queue q.toNat) = true) ∧
    (∃ (s : State) (q : BitVec 10) (ws : List (BitVec 64)), s.receives Isl.bp ∧ s.eng.get Fld.bplCtlEnable = 1 ∧ q.toNat < 128 ∧ ws ≠ [] ∧ (s.eng.queue q.toNat).enabled = true ∧ (∀ l < 16, (s.eng.core l).stalled = none) ∧ s.eng.accepts (s.eng.queue q.toNat) = false ∧ (s.eng.queue q.toNat).failed = none) ∧
    (∃ (s : State) (c : BitVec 4) (q : BitVec 10) (v : BitVec 64), s.receives Isl.bp ∧ s.eng.get Fld.bplCtlEnable = 1 ∧ (s.eng.core c.toNat).inService = true ∧ (s.eng.queue q.toNat).enabled = true ∧ bitsOf v.toNat 0 3 ≠ 0 ∧ s.eng.accepts (s.eng.queue q.toNat) = true ∧ (∀ l < 16, (s.eng.core l).stalled = none)) ∧
    (∃ (s : State) (c : BitVec 4) (w : BitVec 3), s.receives Isl.bp ∧ s.eng.get Fld.bplCtlEnable = 1 ∧ (s.eng.core c.toNat).inService = true ∧ w.toNat < 7) ∧
    (∃ (s : State) (c : BitVec 4) (q : BitVec 10) (x : Item) (rest : List Item), s.receives Isl.bp ∧ s.eng.get Fld.bplCtlEnable = 1 ∧ (s.eng.core c.toNat).inService = true ∧ (s.eng.queue q.toNat).enabled = true ∧ (s.eng.queue q.toNat).atomic = false ∧ (s.eng.queue q.toNat).failed = none ∧ (s.eng.queue q.toNat).items = x :: rest) ∧
    (∃ (s : State) (c : BitVec 4) (q : BitVec 10) (x : Item) (rest : List Item), s.receives Isl.bp ∧ s.eng.get Fld.bplCtlEnable = 1 ∧ (s.eng.core c.toNat).inService = true ∧ (s.eng.queue q.toNat).enabled = true ∧ (s.eng.queue q.toNat).atomic = false ∧ (s.eng.queue q.toNat).failed = none ∧ (s.eng.queue q.toNat).items = x :: rest) ∧
    (∃ (s : State) (c : BitVec 4) (q : BitVec 10), s.receives Isl.bp ∧ s.eng.get Fld.bplCtlEnable = 1 ∧ (s.eng.core c.toNat).inService = true ∧ (s.eng.queue q.toNat).enabled = true ∧ (s.eng.queue q.toNat).atomic = false ∧ (s.eng.queue q.toNat).failed = none ∧ (s.eng.queue q.toNat).items = []) ∧
    (∃ (s : State) (c : BitVec 4) (q : BitVec 10), s.receives Isl.bp ∧ s.eng.get Fld.bplCtlEnable = 1 ∧ (s.eng.core c.toNat).inService = true ∧ (s.eng.queue q.toNat).enabled = true ∧ (s.eng.queue q.toNat).atomic = false ∧ (s.eng.queue q.toNat).failed = none ∧ (s.eng.queue q.toNat).items = []) ∧
    (∃ (s : State) (c : BitVec 4) (q : Nat) (k : Nat), s.serves Isl.bp ∧ (s.eng.core c.toNat).stalled = some (q, k) ∧ k + s.eng.get Fld.bplStallToUs * 1000 ≤ s.tb.count) :=
  ⟨⟨pooled, 127#10, [1, 2, 3, 4, 5, 6, 7, 8], by unfold State.receives State.serves; decide +kernel⟩,
   ⟨on fun _ => { pooled.eng with bpl := { pooled.eng.bpl with free := 0 } }, 127#10, [1], by unfold State.receives State.serves; decide +kernel⟩,
   ⟨pooled, 2, 127#10, 7#64, by unfold State.receives State.serves; decide +kernel⟩,
   ⟨pooled, 2, 6, by unfold State.receives State.serves; decide +kernel⟩,
   ⟨on fun _ => { pooled.eng with bpl := { pooled.eng.bpl with queues := [(127, { queue127 with items := [.words [1, 2] true, .gap 1] })] } }, 2, 127#10, .words [1, 2] true, [.gap 1], by unfold State.receives State.serves; decide +kernel⟩,
   ⟨on fun _ => { pooled.eng with bpl := { pooled.eng.bpl with queues := [(127, { queue127 with items := [.gap 1] })] } }, 2, 127#10, .gap 1, [], by unfold State.receives State.serves; decide +kernel⟩,
   ⟨pooled, 2, 127#10, by unfold State.receives State.serves; decide +kernel⟩,
   ⟨on fun _ => { pooled.eng with bpl := { pooled.eng.bpl with queues := [(127, { queue127 with cls := 1 })] } }, 2, 127#10, by unfold State.receives State.serves; decide +kernel⟩,
   ⟨on fun e => { pooled.eng with tsk := { e.tsk with cores := [(2, { core2 with stalled := some (127, 0) })] } }, 2, 127, 0, by unfold State.serves; decide +kernel⟩⟩

set_option maxRecDepth 100000 in
theorem met_QueueSetUpAndReset :
    (∃ (s : State) (v : BitVec 32) (q : Queue), s.receives Isl.bp ∧ s.eng.queue (s.eng.get Fld.bplQSelQueue) = q ∧ q.enabled = false ∧ bitsOf (setBits v.toNat 0 1 1) 1 2 ≠ 3 ∧ 0 < s.eng.bpl.free ∧ q.low < q.high ∧ q.high ≤ q.maxDepth) ∧
    (∃ (s : State), s.receives Isl.bp ∧ (s.eng.queue (s.eng.get Fld.bplQSelQueue)).enabled = false ∧ s.eng.bpl.free = 0) ∧
    (∃ (s : State), s.receives Isl.bp ∧ (s.eng.queue (s.eng.get Fld.bplQSelQueue)).enabled = true ∧ (s.eng.queue (s.eng.get Fld.bplQSelQueue)).items = [] ∧ (∀ x ∈ s.eng.tsk.redeliver, x.2.1 ≠ s.eng.get Fld.bplQSelQueue)) ∧
    (∃ (s : State), s.receives Isl.bp ∧ (s.eng.queue (s.eng.get Fld.bplQSelQueue)).enabled = true ∧ (∀ l < 16, ∀ x, (s.eng.core l).stalled = some x → x.1 ≠ s.eng.get Fld.bplQSelQueue)) ∧
    (∃ (s : State) (c : Nat) (k : Nat), s.receives Isl.bp ∧ (s.eng.queue (s.eng.get Fld.bplQSelQueue)).enabled = true ∧ c < 16 ∧ (s.eng.core c).stalled = some (s.eng.get Fld.bplQSelQueue, k) ∧ (∀ l < 16, l ≠ c → (s.eng.core l).stalled = none)) :=
  ⟨⟨on fun e => { e with bpl := { e.bpl with queues := [(0, { queue127 with enabled := false, cls := 1 })] } }, 0x00000003#32, { queue127 with enabled := false, cls := 1 }, by unfold State.receives State.serves; decide +kernel⟩,
   ⟨on fun e => { e with bpl := { e.bpl with free := 0 } }, by unfold State.receives State.serves; decide +kernel⟩,
   ⟨on fun _ => pooled.eng.put Fld.bplQSelQueue 127, by unfold State.receives State.serves; decide +kernel⟩,
   ⟨on fun _ => pooled.eng.put Fld.bplQSelQueue 127, by unfold State.receives State.serves; exact ⟨by decide +kernel, by decide +kernel, by intro l hl x h; revert h; revert x; revert hl; revert l; decide +kernel⟩⟩,
   ⟨on fun e => { pooled.eng.put Fld.bplQSelQueue 127 with tsk := { e.tsk with cores := [(2, { core2 with stalled := some (127, 0) })] } }, 2, 0, by unfold State.receives State.serves; decide +kernel⟩⟩

set_option maxRecDepth 100000 in
theorem met_BattenCellsAreConserved :
    ∃ (s : State) (t : State) (c : Instr), ((∃ q ws, c = .unitPush q ws) ∨ (∃ k q v, c = .push k q v) ∨ (∃ k q, c = .pop k q) ∨ (∃ k, c = .popStallTimeout k) ∨ (∃ k q w v, c = .stagePayloadWord k q w v) ∨ (∃ v, c = .queueEnable v) ∨ c = .queueDisable ∨ c = .queueReset ∨ (∃ k v, c = .doneStore k v)) ∧ s.eng.poolSound ∧ exec c s = .next t :=
  ⟨pooled, after .queueReset pooled, .queueReset, ⟨by simp, by unfold Engine.poolSound Table.sorted; decide +kernel, rfl⟩⟩

set_option maxRecDepth 100000 in
theorem met_RingContextCommands :
    (∃ (s : State) (event : Bool) (i : BitVec 12), s.receives Isl.hi ∧ s.eng.ringCount event ≤ i.toNat) ∧
    (∃ (s : State) (event : Bool) (i : BitVec 12), s.receives Isl.hi ∧ i.toNat < s.eng.ringCount event ∧ s.eng.ringOn event i.toNat = false ∧ s.eng.ringBusy event i.toNat = false) ∧
    (∃ (s : State) (i : BitVec 12) (x : BitVec 512), s.receives Isl.hi ∧ s.eng.hru.ctxReads.contains (false, i.toNat) = true ∧ s.eng.contextReason false i.toNat x = 0 ∧ Table.get? s.eng.flt.takeHeads i.toNat = none) ∧
    (∃ (s : State) (i : BitVec 12) (x : BitVec 512), s.receives Isl.hi ∧ s.eng.hru.ctxReads.contains (false, i.toNat) = true ∧ s.eng.contextReason false i.toNat x = 0 ∧ Table.get? s.eng.flt.takeHeads i.toNat = none) ∧
    (∃ (s : State) (i : BitVec 12) (x : BitVec 512), s.receives Isl.hi ∧ s.eng.hru.ctxReads.contains (true, i.toNat) = true ∧ s.eng.contextReason true i.toNat x = 0 ∧ Table.get? s.eng.flt.takeTails i.toNat = none) ∧
    (∃ (s : State) (i : BitVec 12) (x : BitVec 512), s.receives Isl.hi ∧ s.eng.hru.ctxReads.contains (true, i.toNat) = true ∧ s.eng.contextReason true i.toNat x = 0 ∧ Table.get? s.eng.flt.takeTails i.toNat = none) ∧
    (∃ (s : State) (event : Bool) (i : BitVec 12), s.receives Isl.hi ∧ s.eng.hru.ctxReads.contains (event, i.toNat) = true) ∧
    (∃ (s : State) (event : Bool) (i : BitVec 12), s.receives Isl.hi ∧ s.eng.hru.ctxReads.contains (event, i.toNat) = true) ∧
    (∃ (s : State) (event : Bool) (i : BitVec 12), s.serves Isl.hi ∧ s.eng.hru.ctxReads.contains (event, i.toNat) = true) ∧
    (∃ (s : State) (i : BitVec 12), s.receives Isl.hi ∧ i.toNat < s.eng.ringCount false ∧ (s.eng.sub i.toNat).enabled = true) ∧
    (∃ (s : State) (i : BitVec 12), s.receives Isl.hi ∧ i.toNat < s.eng.ringCount true ∧ (s.eng.evt i.toNat).enabled = true) ∧
    (∃ (s : State) (i : BitVec 12), s.receives Isl.hi ∧ i.toNat < s.eng.ringCount true ∧ (s.eng.evt i.toNat).enabled = true) :=
  ⟨⟨ringed, true, 8, by unfold State.receives State.serves; decide +kernel⟩,
   ⟨ringed, false, 7, by unfold State.receives State.serves; decide +kernel⟩,
   ⟨reading, 5, ctx0, by unfold State.receives State.serves; decide +kernel⟩,
   ⟨reading.but fun e => { e with glb := { e.glb with host := some { port := 0, cache := true } } }, 5, ctx2, by unfold State.receives State.serves; decide +kernel⟩,
   ⟨reading, 7, ctx3, by unfold State.receives State.serves; decide +kernel⟩,
   ⟨reading.but fun e => { e with glb := { e.glb with host := some { port := 0, cache := true } } }, 7, ctx4, by unfold State.receives State.serves; decide +kernel⟩,
   ⟨reading, true, 7, by unfold State.receives State.serves; decide +kernel⟩,
   ⟨reading, false, 5, by unfold State.receives State.serves; decide +kernel⟩,
   ⟨reading, true, 7, by unfold State.serves; decide +kernel⟩,
   ⟨ringed, 0, by unfold State.receives State.serves; decide +kernel⟩,
   ⟨ringed, 3, by unfold State.receives State.serves; decide +kernel⟩,
   ⟨on fun e => { (withRings e) with hru := { (withRings e).hru with evts := [(3, { evt3 with bound := 1 })] } }, 3, by unfold State.receives State.serves; decide +kernel⟩⟩

set_option maxRecDepth 100000 in
theorem met_DoorbellsStateTheIndex :
    (∃ (s : State) (i : BitVec 12) (v : BitVec 32), s.receives Isl.hi ∧ s.eng.doorbellOk false false i.toNat v.toNat = true) ∧
    (∃ (s : State) (i : BitVec 12) (v : BitVec 32), s.receives Isl.hi ∧ s.eng.doorbellOk true false i.toNat v.toNat = true) ∧
    (∃ (s : State) (event : Bool) (i : BitVec 12) (v : BitVec 32) (c : Instr), s.receives Isl.hi ∧ s.eng.doorbellOk event false i.toNat v.toNat = false ∧ ((event = false ∧ c = .sqTail i v) ∨ (event = true ∧ c = .eqHead i v))) ∧
    (∃ (s : State) (event : Bool) (i : BitVec 12) (v : BitVec 32) (c : Instr), s.receives Isl.hi ∧ s.eng.doorbellOk event false i.toNat v.toNat = false ∧ ((event = false ∧ c = .sqTail i v) ∨ (event = true ∧ c = .eqHead i v))) ∧
    (∃ (s : State) (i : BitVec 12) (v : BitVec 32), s.receives Isl.hi ∧ s.eng.watched false i.toNat = true ∧ s.eng.doorbellOk false true i.toNat v.toNat = true) ∧
    (∃ (s : State) (i : BitVec 12) (v : BitVec 32), s.receives Isl.hi ∧ s.eng.watched true i.toNat = true ∧ s.eng.doorbellOk true true i.toNat v.toNat = true) ∧
    (∃ (s : State) (event : Bool) (i : BitVec 12) (v : BitVec 32), s.receives Isl.hi ∧ s.eng.watched event i.toNat = true ∧ s.eng.doorbellOk event true i.toNat v.toNat = false) ∧
    (∃ (s : State) (event : Bool) (i : BitVec 12) (v : BitVec 32), s.receives Isl.hi ∧ s.eng.watched event i.toNat = true ∧ s.eng.doorbellOk event true i.toNat v.toNat = false) ∧
    (∃ (s : State) (event : Bool) (i : BitVec 12), s.receives Isl.hi ∧ s.eng.watched event i.toNat = true) ∧
    (∃ (s : State) (event : Bool) (i : BitVec 12), s.serves Isl.hi ∧ s.eng.hru.watches.contains (event, i.toNat) = true ∧ s.eng.watched event i.toNat = true) ∧
    (∃ (s : State) (event : Bool) (i : BitVec 12), s.serves Isl.hi ∧ s.eng.hru.watches.contains (event, i.toNat) = true ∧ s.eng.watched event i.toNat = true) :=
  ⟨⟨ringed, 0, 63#32, by unfold State.receives State.serves; decide +kernel⟩,
   ⟨ringed, 3, 5#32, by unfold State.receives State.serves; decide +kernel⟩,
   ⟨ringed, true, 3, 6#32, .eqHead 3 6#32, by unfold State.receives State.serves; decide +kernel⟩,
   ⟨ringed, false, 0, 64#32, .sqTail 0 64#32, by unfold State.receives State.serves; decide +kernel⟩,
   ⟨ringed, 2, 63#32, by unfold State.receives State.serves; decide +kernel⟩,
   ⟨ringed, 4, 5#32, by unfold State.receives State.serves; decide +kernel⟩,
   ⟨ringed, false, 2, 64#32, by unfold State.receives State.serves; decide +kernel⟩,
   ⟨ringed, true, 4, 6#32, by unfold State.receives State.serves; decide +kernel⟩,
   ⟨ringed, true, 4, by unfold State.receives State.serves; decide +kernel⟩,
   ⟨on fun e => { (withRings e) with hru := { (withRings e).hru with watches := [(false, 2)] } }, false, 2, by unfold State.serves; decide +kernel⟩,
   ⟨on fun e => { (withRings e) with hru := { (withRings e).hru with watches := [(true, 4)] } }, true, 4, by unfold State.serves; decide +kernel⟩⟩

set_option maxRecDepth 100000 in
theorem met_FetchesAreAllOrNothing :
    (∃ (s : State) (i : BitVec 12), s.serves Isl.hi ∧ s.eng.fetchable i.toNat ≠ 0 ∧ (s.eng.reserveFree i.toNat = 0 → s.eng.fetchTurn = some i.toNat)) ∧
    (∃ (s : State) (i : BitVec 12) (f : Nat) (own : Nat) (rest : List (Nat × Nat × Nat)) (xs : List (BitVec 512)) (ds : List Staged), s.receives Isl.hi ∧ (s.eng.sub i.toNat).flights = (f, xs.length, own) :: rest ∧ (s.eng.sub i.toNat).head < (s.eng.sub i.toNat).size ∧ xs.length ≤ (s.eng.sub i.toNat).size ∧ (∀ d ∈ s.eng.hru.staging, d.ring = i.toNat → d.pos < (s.eng.sub i.toNat).consumed) ∧ ds = xs.zipIdx.map (fun x => s.eng.stagedAs (s.tb.count / 1000) i.toNat own x.2 x.1) ∧ (∀ d ∈ ds, d.known (s.eng.sub i.toNat) = true ∧ d.reader = false)) ∧
    (∃ (s : State) (i : BitVec 12) (n : Nat) (x : Nat × Nat × Nat) (rest : List (Nat × Nat × Nat)) (ok : Bool) (l : List (BitVec 512)), s.receives Isl.hi ∧ (s.eng.sub i.toNat).flights = x :: rest ∧ n = sumBy (x :: rest) (fun y => y.2.1) ∧ (ok = false ∨ l.length ≠ x.2.1)) ∧
    (∃ (s : State) (i : BitVec 12) (n : Nat) (x : Nat × Nat × Nat) (rest : List (Nat × Nat × Nat)) (ok : Bool) (l : List (BitVec 512)), s.receives Isl.hi ∧ (s.eng.sub i.toNat).flights = x :: rest ∧ n = sumBy (x :: rest) (fun y => y.2.1) ∧ (ok = false ∨ l.length ≠ x.2.1)) ∧
    (∃ (s : State) (i : BitVec 12) (n : Nat), s.serves Isl.hi ∧ (s.eng.sub i.toNat).flights ≠ [] ∧ n = sumBy (s.eng.sub i.toNat).flights (fun y => y.2.1)) ∧
    (∃ (s : State) (i : BitVec 12) (slot : BitVec 16) (x : ListRead) (d : Staged), s.receives Isl.hi ∧ s.eng.reading? i.toNat slot.toNat = some d ∧ ((d.opcode = 1 ∧ s.eng.submitReadOk d x = true) ∨ (d.opcode = 2 ∧ s.eng.appendReadOk d x = true))) ∧
    (∃ (s : State) (i : BitVec 12) (slot : BitVec 16) (x : ListRead) (d : Staged), s.receives Isl.hi ∧ s.eng.reading? i.toNat slot.toNat = some d ∧ ((d.opcode = 1 ∧ s.eng.submitReadOk d x = true) ∨ (d.opcode = 2 ∧ s.eng.appendReadOk d x = true))) ∧
    (∃ (s : State) (i : BitVec 12) (slot : BitVec 16) (x : ListRead) (d : Staged), s.receives Isl.hi ∧ s.eng.reading? i.toNat slot.toNat = some d ∧ s.eng.ringOpen (s.eng.ackRingOf d) ∧ ((d.opcode = 1 ∧ s.eng.submitReadOk d x = false) ∨ (d.opcode = 2 ∧ s.eng.appendReadOk d x = false))) ∧
    (∃ (s : State) (i : BitVec 12) (slot : BitVec 16) (x : ListRead) (d : Staged), s.receives Isl.hi ∧ s.eng.reading? i.toNat slot.toNat = some d ∧ s.eng.ringOpen (s.eng.ackRingOf d) ∧ ((d.opcode = 1 ∧ s.eng.submitReadOk d x = false) ∨ (d.opcode = 2 ∧ s.eng.appendReadOk d x = false))) ∧
    (∃ (s : State) (i : BitVec 12) (slot : BitVec 16) (d : Staged), s.serves Isl.hi ∧ s.eng.reading? i.toNat slot.toNat = some d ∧ s.eng.ringOpen (s.eng.ackRingOf d)) ∧
    (∃ (s : State) (i : BitVec 12) (slot : BitVec 16) (d : Staged), s.serves Isl.hi ∧ s.eng.reading? i.toNat slot.toNat = some d ∧ s.eng.ringOpen (s.eng.ackRingOf d)) :=
  ⟨⟨on fun e => { withRings e with hru := { (withRings e).hru with subs := [(0, { sub0 with tail := 63, fetched := 60, head := 60 })] } }, 0, by unfold State.serves; decide +kernel⟩,
   ⟨flying, 0, 63, 1, [], [(d0 0x3F []).desc], [{ d0 0x3F [] with slot := 63, pos := 0, arrival := 5000000, reserve := true }], by unfold State.receives State.serves; decide +kernel⟩,
   ⟨flying, 0, 1, (63, 1, 1), [], false, [], by unfold State.receives State.serves; decide +kernel⟩,
   ⟨flying, 0, 1, (63, 1, 1), [], true, [0, 0], by unfold State.receives State.serves; decide +kernel⟩,
   ⟨flying, 0, 1, by unfold State.serves; decide +kernel⟩,
   ⟨given { d5 0x02 [(24, 0, 0x700000), (36, 0, 2)] with reads := .waiting }, 0, 6, { tokens2 with tokens := [299, 0] }, { d5 0x02 [(24, 0, 0x700000), (36, 0, 2)] with reads := .waiting }, by unfold State.receives State.serves; decide +kernel⟩,
   ⟨given { submit0 with reads := .waiting }, 0, 6, tokens2, { submit0 with reads := .waiting }, by unfold State.receives State.serves; decide +kernel⟩,
   ⟨given { d5 0x02 [(24, 0, 0x700000), (36, 0, 2)] with reads := .waiting }, 0, 6, { tokens2 with tokens := [300, 0] }, { d5 0x02 [(24, 0, 0x700000), (36, 0, 2)] with reads := .waiting }, by unfold State.receives Engine.ringOpen State.serves; decide +kernel⟩,
   ⟨ordering, 0, 6, { tokens2 with tokens := [300, 0] }, { d5 0x02 [(1, 0, 1), (24, 0, 0x700000), (36, 0, 2)] with reads := .waiting }, by unfold State.receives Engine.ringOpen State.serves; decide +kernel⟩,
   ⟨given { d5 0x02 [(24, 0, 0x700000), (36, 0, 2)] with reads := .waiting }, 0, 6, { d5 0x02 [(24, 0, 0x700000), (36, 0, 2)] with reads := .waiting }, by unfold Engine.ringOpen State.serves; decide +kernel⟩,
   ⟨ordering, 0, 6, { d5 0x02 [(1, 0, 1), (24, 0, 0x700000), (36, 0, 2)] with reads := .waiting }, by unfold Engine.ringOpen State.serves; decide +kernel⟩⟩

set_option maxRecDepth 100000 in
theorem met_EventRingsKeepEveryRecord :
    (∃ (s : State), s.serves Isl.hi) ∧
    (∃ (s : State) (i : BitVec 12) (d : Staged), s.receives Isl.hi ∧ s.eng.decodes i.toNat d 0 ∧ s.eng.mirrors = false ∧ s.eng.hru.gated = [] ∧ s.eng.hru.credit = false ∧ s.eng.err.fatal = false) ∧
    (∃ (s : State), s.receives Isl.hi) ∧
    (∃ (s : State) (k : Nat) (l : List EventRecord), s.receives Isl.hi ∧ s.eng.hru.unwritten = l ∧ (∀ x ∈ l, x.ring = k) ∧ s.eng.err.fatal = false ∧ (s.eng.evt k).enabled = true ∧ (s.eng.evt k).tail < (s.eng.evt k).size) ∧
    (∃ (s : State) (i : BitVec 12) (k : Nat), s.serves Isl.hi ∧ (s.eng.evt i.toNat).enabled = true ∧ (s.eng.evt i.toNat).firstUnsig = some k ∧ (s.eng.evt i.toNat).modTime ≠ 0 ∧ k + (s.eng.evt i.toNat).modTime ≤ s.tb.count / 1000) ∧
    (∃ (s : State) (i : BitVec 12), s.serves Isl.hi ∧ (s.eng.evt i.toNat).enabled = true ∧ (s.eng.evt i.toNat).stalled = false ∧ ((s.eng.evt i.toNat).unread ≠ 0 ∨ (s.eng.evt i.toNat).ackRes ≠ 0 ∨ (s.eng.evt i.toNat).tokRes ≠ 0)) :=
  ⟨⟨ringed, by unfold State.serves; decide +kernel⟩,
   ⟨nopping.but fun e => { e with hru := { e.hru with credit := false } }, 1, nop1, by unfold State.receives Engine.decodes State.serves; decide +kernel⟩,
   ⟨uncredited, by unfold State.receives State.serves; decide +kernel⟩,
   ⟨uncredited, 3, [{ ring := 3, rtype := 2, body := 7 }, { ring := 3, rtype := 4, body := 9 }], by unfold State.receives State.serves; decide +kernel⟩,
   ⟨on fun e => { withRings e with hru := { (withRings e).hru with evts := [(3, { evt3 with unsignaled := 1, firstUnsig := some 4999900 })] } }, 3, 4999900, by unfold State.serves; decide +kernel⟩,
   ⟨ringed, 3, by unfold State.serves; decide +kernel⟩⟩

set_option maxRecDepth 100000 in
theorem met_DescriptorsThatFailActOnNothing :
    (∃ (s : State) (i : BitVec 12) (d : Staged) (st : Nat) (c : Instr), s.receives Isl.hi ∧ s.receives Isl.sb ∧ s.receives Isl.pg ∧ s.eng.nextDue i.toNat = some d ∧ s.eng.checkUpTo6 d = some st ∧ s.eng.ringOpen (s.eng.ackRingOf d) ∧ ((c = .submit i ∧ d.opcode = 0x01) ∨ (c = .append i ∧ d.opcode = 0x02) ∨ (c = .cancel i ∧ d.opcode = 0x03) ∨ (c = .pause i ∧ d.opcode = 0x04) ∨ (c = .resume i ∧ d.opcode = 0x05) ∨ (c = .release i ∧ d.opcode = 0x06) ∨ (c = .nop i ∧ d.opcode = 0x00) ∨ (c = .additionLoad i ∧ d.opcode = 0x10) ∨ (c = .additionRetire i ∧ d.opcode = 0x11) ∨ (c = .prefixLoad i ∧ d.opcode = 0x12 ∧ d.f 32 0 32 ≠ 0) ∨ (c = .prefixRetire i ∧ d.opcode = 0x12 ∧ d.f 32 0 32 = 0) ∨ (c = .familyConfig i ∧ d.opcode = 0x13 ∧ d.f 17 1 1 = 0) ∨ (c = .familyRemove i ∧ d.opcode = 0x13 ∧ d.f 17 1 1 = 1) ∨ (c = .tenantSet i ∧ d.opcode = 0x20) ∨ (c = .queryRequest i ∧ isQueryRequest d = true) ∨ (c = .queryTenant i ∧ d.opcode = 0x30 ∧ d.f 16 0 8 = 2) ∨ (c = .queryFamily i ∧ d.opcode = 0x30 ∧ d.f 16 0 8 = 3) ∨ (c = .queryAddition i ∧ d.opcode = 0x30 ∧ d.f 16 0 8 = 4) ∨ (c = .queryRing i ∧ d.opcode = 0x30 ∧ d.f 16 0 8 = 5) ∨ (c = .fence i ∧ d.opcode = 0x3F ∧ d.f 16 0 1 = 0) ∨ (c = .fenceBoundary i ∧ d.opcode = 0x3F ∧ d.f 16 0 1 = 1))) ∧
    (∃ (s : State) (i : BitVec 12) (d : Staged) (st : Nat) (c : Instr), s.receives Isl.hi ∧ s.receives Isl.sb ∧ s.receives Isl.pg ∧ s.eng.nextDue i.toNat = some d ∧ s.eng.checkUpTo6 d = some st ∧ s.eng.ringOpen (s.eng.ackRingOf d) ∧ ((c = .submit i ∧ d.opcode = 0x01) ∨ (c = .append i ∧ d.opcode = 0x02) ∨ (c = .cancel i ∧ d.opcode = 0x03) ∨ (c = .pause i ∧ d.opcode = 0x04) ∨ (c = .resume i ∧ d.opcode = 0x05) ∨ (c = .release i ∧ d.opcode = 0x06) ∨ (c = .nop i ∧ d.opcode = 0x00) ∨ (c = .additionLoad i ∧ d.opcode = 0x10) ∨ (c = .additionRetire i ∧ d.opcode = 0x11) ∨ (c = .prefixLoad i ∧ d.opcode = 0x12 ∧ d.f 32 0 32 ≠ 0) ∨ (c = .prefixRetire i ∧ d.opcode = 0x12 ∧ d.f 32 0 32 = 0) ∨ (c = .familyConfig i ∧ d.opcode = 0x13 ∧ d.f 17 1 1 = 0) ∨ (c = .familyRemove i ∧ d.opcode = 0x13 ∧ d.f 17 1 1 = 1) ∨ (c = .tenantSet i ∧ d.opcode = 0x20) ∨ (c = .queryRequest i ∧ isQueryRequest d = true) ∨ (c = .queryTenant i ∧ d.opcode = 0x30 ∧ d.f 16 0 8 = 2) ∨ (c = .queryFamily i ∧ d.opcode = 0x30 ∧ d.f 16 0 8 = 3) ∨ (c = .queryAddition i ∧ d.opcode = 0x30 ∧ d.f 16 0 8 = 4) ∨ (c = .queryRing i ∧ d.opcode = 0x30 ∧ d.f 16 0 8 = 5) ∨ (c = .fence i ∧ d.opcode = 0x3F ∧ d.f 16 0 1 = 0) ∨ (c = .fenceBoundary i ∧ d.opcode = 0x3F ∧ d.f 16 0 1 = 1))) ∧
    (∃ (s : State) (i : BitVec 12) (d : Staged) (st : Nat) (c : Instr), s.receives Isl.hi ∧ s.receives Isl.sb ∧ s.receives Isl.pg ∧ s.eng.nextDue i.toNat = some d ∧ s.eng.checkUpTo6 d = some st ∧ s.eng.ringOpen (s.eng.ackRingOf d) ∧ ((c = .submit i ∧ d.opcode = 0x01) ∨ (c = .append i ∧ d.opcode = 0x02) ∨ (c = .cancel i ∧ d.opcode = 0x03) ∨ (c = .pause i ∧ d.opcode = 0x04) ∨ (c = .resume i ∧ d.opcode = 0x05) ∨ (c = .release i ∧ d.opcode = 0x06) ∨ (c = .nop i ∧ d.opcode = 0x00) ∨ (c = .additionLoad i ∧ d.opcode = 0x10) ∨ (c = .additionRetire i ∧ d.opcode = 0x11) ∨ (c = .prefixLoad i ∧ d.opcode = 0x12 ∧ d.f 32 0 32 ≠ 0) ∨ (c = .prefixRetire i ∧ d.opcode = 0x12 ∧ d.f 32 0 32 = 0) ∨ (c = .familyConfig i ∧ d.opcode = 0x13 ∧ d.f 17 1 1 = 0) ∨ (c = .familyRemove i ∧ d.opcode = 0x13 ∧ d.f 17 1 1 = 1) ∨ (c = .tenantSet i ∧ d.opcode = 0x20) ∨ (c = .queryRequest i ∧ isQueryRequest d = true) ∨ (c = .queryTenant i ∧ d.opcode = 0x30 ∧ d.f 16 0 8 = 2) ∨ (c = .queryFamily i ∧ d.opcode = 0x30 ∧ d.f 16 0 8 = 3) ∨ (c = .queryAddition i ∧ d.opcode = 0x30 ∧ d.f 16 0 8 = 4) ∨ (c = .queryRing i ∧ d.opcode = 0x30 ∧ d.f 16 0 8 = 5) ∨ (c = .fence i ∧ d.opcode = 0x3F ∧ d.f 16 0 1 = 0) ∨ (c = .fenceBoundary i ∧ d.opcode = 0x3F ∧ d.f 16 0 1 = 1))) ∧
    (∃ (s : State) (i : BitVec 12) (d : Staged) (st : Nat) (c : Instr), s.receives Isl.hi ∧ s.receives Isl.sb ∧ s.receives Isl.pg ∧ s.eng.nextDue i.toNat = some d ∧ s.eng.checkUpTo6 d = some st ∧ s.eng.ringOpen (s.eng.ackRingOf d) ∧ ((c = .submit i ∧ d.opcode = 0x01) ∨ (c = .append i ∧ d.opcode = 0x02) ∨ (c = .cancel i ∧ d.opcode = 0x03) ∨ (c = .pause i ∧ d.opcode = 0x04) ∨ (c = .resume i ∧ d.opcode = 0x05) ∨ (c = .release i ∧ d.opcode = 0x06) ∨ (c = .nop i ∧ d.opcode = 0x00) ∨ (c = .additionLoad i ∧ d.opcode = 0x10) ∨ (c = .additionRetire i ∧ d.opcode = 0x11) ∨ (c = .prefixLoad i ∧ d.opcode = 0x12 ∧ d.f 32 0 32 ≠ 0) ∨ (c = .prefixRetire i ∧ d.opcode = 0x12 ∧ d.f 32 0 32 = 0) ∨ (c = .familyConfig i ∧ d.opcode = 0x13 ∧ d.f 17 1 1 = 0) ∨ (c = .familyRemove i ∧ d.opcode = 0x13 ∧ d.f 17 1 1 = 1) ∨ (c = .tenantSet i ∧ d.opcode = 0x20) ∨ (c = .queryRequest i ∧ isQueryRequest d = true) ∨ (c = .queryTenant i ∧ d.opcode = 0x30 ∧ d.f 16 0 8 = 2) ∨ (c = .queryFamily i ∧ d.opcode = 0x30 ∧ d.f 16 0 8 = 3) ∨ (c = .queryAddition i ∧ d.opcode = 0x30 ∧ d.f 16 0 8 = 4) ∨ (c = .queryRing i ∧ d.opcode = 0x30 ∧ d.f 16 0 8 = 5) ∨ (c = .fence i ∧ d.opcode = 0x3F ∧ d.f 16 0 1 = 0) ∨ (c = .fenceBoundary i ∧ d.opcode = 0x3F ∧ d.f 16 0 1 = 1))) ∧
    (∃ (s : State) (i : BitVec 12) (d : Staged) (st : Nat) (c : Instr), s.receives Isl.hi ∧ s.receives Isl.sb ∧ s.receives Isl.pg ∧ s.eng.nextDue i.toNat = some d ∧ s.eng.checkUpTo6 d = some st ∧ s.eng.ringOpen (s.eng.ackRingOf d) ∧ ((c = .submit i ∧ d.opcode = 0x01) ∨ (c = .append i ∧ d.opcode = 0x02) ∨ (c = .cancel i ∧ d.opcode = 0x03) ∨ (c = .pause i ∧ d.opcode = 0x04) ∨ (c = .resume i ∧ d.opcode = 0x05) ∨ (c = .release i ∧ d.opcode = 0x06) ∨ (c = .nop i ∧ d.opcode = 0x00) ∨ (c = .additionLoad i ∧ d.opcode = 0x10) ∨ (c = .additionRetire i ∧ d.opcode = 0x11) ∨ (c = .prefixLoad i ∧ d.opcode = 0x12 ∧ d.f 32 0 32 ≠ 0) ∨ (c = .prefixRetire i ∧ d.opcode = 0x12 ∧ d.f 32 0 32 = 0) ∨ (c = .familyConfig i ∧ d.opcode = 0x13 ∧ d.f 17 1 1 = 0) ∨ (c = .familyRemove i ∧ d.opcode = 0x13 ∧ d.f 17 1 1 = 1) ∨ (c = .tenantSet i ∧ d.opcode = 0x20) ∨ (c = .queryRequest i ∧ isQueryRequest d = true) ∨ (c = .queryTenant i ∧ d.opcode = 0x30 ∧ d.f 16 0 8 = 2) ∨ (c = .queryFamily i ∧ d.opcode = 0x30 ∧ d.f 16 0 8 = 3) ∨ (c = .queryAddition i ∧ d.opcode = 0x30 ∧ d.f 16 0 8 = 4) ∨ (c = .queryRing i ∧ d.opcode = 0x30 ∧ d.f 16 0 8 = 5) ∨ (c = .fence i ∧ d.opcode = 0x3F ∧ d.f 16 0 1 = 0) ∨ (c = .fenceBoundary i ∧ d.opcode = 0x3F ∧ d.f 16 0 1 = 1))) ∧
    (∃ (s : State) (i : BitVec 12) (d : Staged) (st : Nat) (c : Instr), s.receives Isl.hi ∧ s.receives Isl.sb ∧ s.receives Isl.pg ∧ s.eng.nextDue i.toNat = some d ∧ s.eng.checkUpTo6 d = some st ∧ s.eng.ringOpen (s.eng.ackRingOf d) ∧ ((c = .submit i ∧ d.opcode = 0x01) ∨ (c = .append i ∧ d.opcode = 0x02) ∨ (c = .cancel i ∧ d.opcode = 0x03) ∨ (c = .pause i ∧ d.opcode = 0x04) ∨ (c = .resume i ∧ d.opcode = 0x05) ∨ (c = .release i ∧ d.opcode = 0x06) ∨ (c = .nop i ∧ d.opcode = 0x00) ∨ (c = .additionLoad i ∧ d.opcode = 0x10) ∨ (c = .additionRetire i ∧ d.opcode = 0x11) ∨ (c = .prefixLoad i ∧ d.opcode = 0x12 ∧ d.f 32 0 32 ≠ 0) ∨ (c = .prefixRetire i ∧ d.opcode = 0x12 ∧ d.f 32 0 32 = 0) ∨ (c = .familyConfig i ∧ d.opcode = 0x13 ∧ d.f 17 1 1 = 0) ∨ (c = .familyRemove i ∧ d.opcode = 0x13 ∧ d.f 17 1 1 = 1) ∨ (c = .tenantSet i ∧ d.opcode = 0x20) ∨ (c = .queryRequest i ∧ isQueryRequest d = true) ∨ (c = .queryTenant i ∧ d.opcode = 0x30 ∧ d.f 16 0 8 = 2) ∨ (c = .queryFamily i ∧ d.opcode = 0x30 ∧ d.f 16 0 8 = 3) ∨ (c = .queryAddition i ∧ d.opcode = 0x30 ∧ d.f 16 0 8 = 4) ∨ (c = .queryRing i ∧ d.opcode = 0x30 ∧ d.f 16 0 8 = 5) ∨ (c = .fence i ∧ d.opcode = 0x3F ∧ d.f 16 0 1 = 0) ∨ (c = .fenceBoundary i ∧ d.opcode = 0x3F ∧ d.f 16 0 1 = 1))) ∧
    (∃ (s : State) (i : BitVec 12) (d : Staged) (st : Nat) (c : Instr), s.receives Isl.hi ∧ s.receives Isl.sb ∧ s.receives Isl.pg ∧ s.eng.nextDue i.toNat = some d ∧ s.eng.checkUpTo6 d = some st ∧ s.eng.ringOpen (s.eng.ackRingOf d) ∧ ((c = .submit i ∧ d.opcode = 0x01) ∨ (c = .append i ∧ d.opcode = 0x02) ∨ (c = .cancel i ∧ d.opcode = 0x03) ∨ (c = .pause i ∧ d.opcode = 0x04) ∨ (c = .resume i ∧ d.opcode = 0x05) ∨ (c = .release i ∧ d.opcode = 0x06) ∨ (c = .nop i ∧ d.opcode = 0x00) ∨ (c = .additionLoad i ∧ d.opcode = 0x10) ∨ (c = .additionRetire i ∧ d.opcode = 0x11) ∨ (c = .prefixLoad i ∧ d.opcode = 0x12 ∧ d.f 32 0 32 ≠ 0) ∨ (c = .prefixRetire i ∧ d.opcode = 0x12 ∧ d.f 32 0 32 = 0) ∨ (c = .familyConfig i ∧ d.opcode = 0x13 ∧ d.f 17 1 1 = 0) ∨ (c = .familyRemove i ∧ d.opcode = 0x13 ∧ d.f 17 1 1 = 1) ∨ (c = .tenantSet i ∧ d.opcode = 0x20) ∨ (c = .queryRequest i ∧ isQueryRequest d = true) ∨ (c = .queryTenant i ∧ d.opcode = 0x30 ∧ d.f 16 0 8 = 2) ∨ (c = .queryFamily i ∧ d.opcode = 0x30 ∧ d.f 16 0 8 = 3) ∨ (c = .queryAddition i ∧ d.opcode = 0x30 ∧ d.f 16 0 8 = 4) ∨ (c = .queryRing i ∧ d.opcode = 0x30 ∧ d.f 16 0 8 = 5) ∨ (c = .fence i ∧ d.opcode = 0x3F ∧ d.f 16 0 1 = 0) ∨ (c = .fenceBoundary i ∧ d.opcode = 0x3F ∧ d.f 16 0 1 = 1))) ∧
    (∃ (s : State) (i : BitVec 12) (d : Staged) (st : Nat) (c : Instr), s.receives Isl.hi ∧ s.receives Isl.sb ∧ s.receives Isl.pg ∧ s.eng.nextDue i.toNat = some d ∧ s.eng.checkUpTo6 d = some st ∧ s.eng.ringOpen (s.eng.ackRingOf d) ∧ ((c = .submit i ∧ d.opcode = 0x01) ∨ (c = .append i ∧ d.opcode = 0x02) ∨ (c = .cancel i ∧ d.opcode = 0x03) ∨ (c = .pause i ∧ d.opcode = 0x04) ∨ (c = .resume i ∧ d.opcode = 0x05) ∨ (c = .release i ∧ d.opcode = 0x06) ∨ (c = .nop i ∧ d.opcode = 0x00) ∨ (c = .additionLoad i ∧ d.opcode = 0x10) ∨ (c = .additionRetire i ∧ d.opcode = 0x11) ∨ (c = .prefixLoad i ∧ d.opcode = 0x12 ∧ d.f 32 0 32 ≠ 0) ∨ (c = .prefixRetire i ∧ d.opcode = 0x12 ∧ d.f 32 0 32 = 0) ∨ (c = .familyConfig i ∧ d.opcode = 0x13 ∧ d.f 17 1 1 = 0) ∨ (c = .familyRemove i ∧ d.opcode = 0x13 ∧ d.f 17 1 1 = 1) ∨ (c = .tenantSet i ∧ d.opcode = 0x20) ∨ (c = .queryRequest i ∧ isQueryRequest d = true) ∨ (c = .queryTenant i ∧ d.opcode = 0x30 ∧ d.f 16 0 8 = 2) ∨ (c = .queryFamily i ∧ d.opcode = 0x30 ∧ d.f 16 0 8 = 3) ∨ (c = .queryAddition i ∧ d.opcode = 0x30 ∧ d.f 16 0 8 = 4) ∨ (c = .queryRing i ∧ d.opcode = 0x30 ∧ d.f 16 0 8 = 5) ∨ (c = .fence i ∧ d.opcode = 0x3F ∧ d.f 16 0 1 = 0) ∨ (c = .fenceBoundary i ∧ d.opcode = 0x3F ∧ d.f 16 0 1 = 1))) ∧
    (∃ (s : State) (i : BitVec 12) (d : Staged) (st : Nat) (c : Instr), s.receives Isl.hi ∧ s.receives Isl.sb ∧ s.receives Isl.pg ∧ s.eng.nextDue i.toNat = some d ∧ s.eng.checkUpTo6 d = some st ∧ s.eng.ringOpen (s.eng.ackRingOf d) ∧ ((c = .submit i ∧ d.opcode = 0x01) ∨ (c = .append i ∧ d.opcode = 0x02) ∨ (c = .cancel i ∧ d.opcode = 0x03) ∨ (c = .pause i ∧ d.opcode = 0x04) ∨ (c = .resume i ∧ d.opcode = 0x05) ∨ (c = .release i ∧ d.opcode = 0x06) ∨ (c = .nop i ∧ d.opcode = 0x00) ∨ (c = .additionLoad i ∧ d.opcode = 0x10) ∨ (c = .additionRetire i ∧ d.opcode = 0x11) ∨ (c = .prefixLoad i ∧ d.opcode = 0x12 ∧ d.f 32 0 32 ≠ 0) ∨ (c = .prefixRetire i ∧ d.opcode = 0x12 ∧ d.f 32 0 32 = 0) ∨ (c = .familyConfig i ∧ d.opcode = 0x13 ∧ d.f 17 1 1 = 0) ∨ (c = .familyRemove i ∧ d.opcode = 0x13 ∧ d.f 17 1 1 = 1) ∨ (c = .tenantSet i ∧ d.opcode = 0x20) ∨ (c = .queryRequest i ∧ isQueryRequest d = true) ∨ (c = .queryTenant i ∧ d.opcode = 0x30 ∧ d.f 16 0 8 = 2) ∨ (c = .queryFamily i ∧ d.opcode = 0x30 ∧ d.f 16 0 8 = 3) ∨ (c = .queryAddition i ∧ d.opcode = 0x30 ∧ d.f 16 0 8 = 4) ∨ (c = .queryRing i ∧ d.opcode = 0x30 ∧ d.f 16 0 8 = 5) ∨ (c = .fence i ∧ d.opcode = 0x3F ∧ d.f 16 0 1 = 0) ∨ (c = .fenceBoundary i ∧ d.opcode = 0x3F ∧ d.f 16 0 1 = 1))) ∧
    (∃ (s : State) (i : BitVec 12) (d : Staged) (st : Nat) (c : Instr), s.receives Isl.hi ∧ s.receives Isl.sb ∧ s.receives Isl.pg ∧ s.eng.nextDue i.toNat = some d ∧ s.eng.checkUpTo6 d = some st ∧ s.eng.ringOpen (s.eng.ackRingOf d) ∧ ((c = .submit i ∧ d.opcode = 0x01) ∨ (c = .append i ∧ d.opcode = 0x02) ∨ (c = .cancel i ∧ d.opcode = 0x03) ∨ (c = .pause i ∧ d.opcode = 0x04) ∨ (c = .resume i ∧ d.opcode = 0x05) ∨ (c = .release i ∧ d.opcode = 0x06) ∨ (c = .nop i ∧ d.opcode = 0x00) ∨ (c = .additionLoad i ∧ d.opcode = 0x10) ∨ (c = .additionRetire i ∧ d.opcode = 0x11) ∨ (c = .prefixLoad i ∧ d.opcode = 0x12 ∧ d.f 32 0 32 ≠ 0) ∨ (c = .prefixRetire i ∧ d.opcode = 0x12 ∧ d.f 32 0 32 = 0) ∨ (c = .familyConfig i ∧ d.opcode = 0x13 ∧ d.f 17 1 1 = 0) ∨ (c = .familyRemove i ∧ d.opcode = 0x13 ∧ d.f 17 1 1 = 1) ∨ (c = .tenantSet i ∧ d.opcode = 0x20) ∨ (c = .queryRequest i ∧ isQueryRequest d = true) ∨ (c = .queryTenant i ∧ d.opcode = 0x30 ∧ d.f 16 0 8 = 2) ∨ (c = .queryFamily i ∧ d.opcode = 0x30 ∧ d.f 16 0 8 = 3) ∨ (c = .queryAddition i ∧ d.opcode = 0x30 ∧ d.f 16 0 8 = 4) ∨ (c = .queryRing i ∧ d.opcode = 0x30 ∧ d.f 16 0 8 = 5) ∨ (c = .fence i ∧ d.opcode = 0x3F ∧ d.f 16 0 1 = 0) ∨ (c = .fenceBoundary i ∧ d.opcode = 0x3F ∧ d.f 16 0 1 = 1))) ∧
    (∃ (s : State) (i : BitVec 12) (d : Staged) (st : Nat) (c : Instr), s.receives Isl.hi ∧ s.receives Isl.sb ∧ s.receives Isl.pg ∧ s.eng.nextDue i.toNat = some d ∧ s.eng.checkUpTo6 d = some st ∧ s.eng.ringOpen (s.eng.ackRingOf d) ∧ ((c = .submit i ∧ d.opcode = 0x01) ∨ (c = .append i ∧ d.opcode = 0x02) ∨ (c = .cancel i ∧ d.opcode = 0x03) ∨ (c = .pause i ∧ d.opcode = 0x04) ∨ (c = .resume i ∧ d.opcode = 0x05) ∨ (c = .release i ∧ d.opcode = 0x06) ∨ (c = .nop i ∧ d.opcode = 0x00) ∨ (c = .additionLoad i ∧ d.opcode = 0x10) ∨ (c = .additionRetire i ∧ d.opcode = 0x11) ∨ (c = .prefixLoad i ∧ d.opcode = 0x12 ∧ d.f 32 0 32 ≠ 0) ∨ (c = .prefixRetire i ∧ d.opcode = 0x12 ∧ d.f 32 0 32 = 0) ∨ (c = .familyConfig i ∧ d.opcode = 0x13 ∧ d.f 17 1 1 = 0) ∨ (c = .familyRemove i ∧ d.opcode = 0x13 ∧ d.f 17 1 1 = 1) ∨ (c = .tenantSet i ∧ d.opcode = 0x20) ∨ (c = .queryRequest i ∧ isQueryRequest d = true) ∨ (c = .queryTenant i ∧ d.opcode = 0x30 ∧ d.f 16 0 8 = 2) ∨ (c = .queryFamily i ∧ d.opcode = 0x30 ∧ d.f 16 0 8 = 3) ∨ (c = .queryAddition i ∧ d.opcode = 0x30 ∧ d.f 16 0 8 = 4) ∨ (c = .queryRing i ∧ d.opcode = 0x30 ∧ d.f 16 0 8 = 5) ∨ (c = .fence i ∧ d.opcode = 0x3F ∧ d.f 16 0 1 = 0) ∨ (c = .fenceBoundary i ∧ d.opcode = 0x3F ∧ d.f 16 0 1 = 1))) ∧
    (∃ (s : State) (i : BitVec 12) (d : Staged) (st : Nat) (c : Instr), s.receives Isl.hi ∧ s.receives Isl.sb ∧ s.receives Isl.pg ∧ s.eng.nextDue i.toNat = some d ∧ s.eng.checkUpTo6 d = some st ∧ s.eng.ringOpen (s.eng.ackRingOf d) ∧ ((c = .submit i ∧ d.opcode = 0x01) ∨ (c = .append i ∧ d.opcode = 0x02) ∨ (c = .cancel i ∧ d.opcode = 0x03) ∨ (c = .pause i ∧ d.opcode = 0x04) ∨ (c = .resume i ∧ d.opcode = 0x05) ∨ (c = .release i ∧ d.opcode = 0x06) ∨ (c = .nop i ∧ d.opcode = 0x00) ∨ (c = .additionLoad i ∧ d.opcode = 0x10) ∨ (c = .additionRetire i ∧ d.opcode = 0x11) ∨ (c = .prefixLoad i ∧ d.opcode = 0x12 ∧ d.f 32 0 32 ≠ 0) ∨ (c = .prefixRetire i ∧ d.opcode = 0x12 ∧ d.f 32 0 32 = 0) ∨ (c = .familyConfig i ∧ d.opcode = 0x13 ∧ d.f 17 1 1 = 0) ∨ (c = .familyRemove i ∧ d.opcode = 0x13 ∧ d.f 17 1 1 = 1) ∨ (c = .tenantSet i ∧ d.opcode = 0x20) ∨ (c = .queryRequest i ∧ isQueryRequest d = true) ∨ (c = .queryTenant i ∧ d.opcode = 0x30 ∧ d.f 16 0 8 = 2) ∨ (c = .queryFamily i ∧ d.opcode = 0x30 ∧ d.f 16 0 8 = 3) ∨ (c = .queryAddition i ∧ d.opcode = 0x30 ∧ d.f 16 0 8 = 4) ∨ (c = .queryRing i ∧ d.opcode = 0x30 ∧ d.f 16 0 8 = 5) ∨ (c = .fence i ∧ d.opcode = 0x3F ∧ d.f 16 0 1 = 0) ∨ (c = .fenceBoundary i ∧ d.opcode = 0x3F ∧ d.f 16 0 1 = 1))) ∧
    (∃ (s : State) (i : BitVec 12) (d : Staged) (st : Nat) (c : Instr), s.receives Isl.hi ∧ s.receives Isl.sb ∧ s.receives Isl.pg ∧ s.eng.nextDue i.toNat = some d ∧ s.eng.checkUpTo6 d = some st ∧ s.eng.ringOpen (s.eng.ackRingOf d) ∧ ((c = .submit i ∧ d.opcode = 0x01) ∨ (c = .append i ∧ d.opcode = 0x02) ∨ (c = .cancel i ∧ d.opcode = 0x03) ∨ (c = .pause i ∧ d.opcode = 0x04) ∨ (c = .resume i ∧ d.opcode = 0x05) ∨ (c = .release i ∧ d.opcode = 0x06) ∨ (c = .nop i ∧ d.opcode = 0x00) ∨ (c = .additionLoad i ∧ d.opcode = 0x10) ∨ (c = .additionRetire i ∧ d.opcode = 0x11) ∨ (c = .prefixLoad i ∧ d.opcode = 0x12 ∧ d.f 32 0 32 ≠ 0) ∨ (c = .prefixRetire i ∧ d.opcode = 0x12 ∧ d.f 32 0 32 = 0) ∨ (c = .familyConfig i ∧ d.opcode = 0x13 ∧ d.f 17 1 1 = 0) ∨ (c = .familyRemove i ∧ d.opcode = 0x13 ∧ d.f 17 1 1 = 1) ∨ (c = .tenantSet i ∧ d.opcode = 0x20) ∨ (c = .queryRequest i ∧ isQueryRequest d = true) ∨ (c = .queryTenant i ∧ d.opcode = 0x30 ∧ d.f 16 0 8 = 2) ∨ (c = .queryFamily i ∧ d.opcode = 0x30 ∧ d.f 16 0 8 = 3) ∨ (c = .queryAddition i ∧ d.opcode = 0x30 ∧ d.f 16 0 8 = 4) ∨ (c = .queryRing i ∧ d.opcode = 0x30 ∧ d.f 16 0 8 = 5) ∨ (c = .fence i ∧ d.opcode = 0x3F ∧ d.f 16 0 1 = 0) ∨ (c = .fenceBoundary i ∧ d.opcode = 0x3F ∧ d.f 16 0 1 = 1))) ∧
    (∃ (s : State) (i : BitVec 12) (d : Staged) (st : Nat) (c : Instr), s.receives Isl.hi ∧ s.receives Isl.sb ∧ s.receives Isl.pg ∧ s.eng.nextDue i.toNat = some d ∧ s.eng.checkUpTo6 d = some st ∧ s.eng.ringOpen (s.eng.ackRingOf d) ∧ ((c = .submit i ∧ d.opcode = 0x01) ∨ (c = .append i ∧ d.opcode = 0x02) ∨ (c = .cancel i ∧ d.opcode = 0x03) ∨ (c = .pause i ∧ d.opcode = 0x04) ∨ (c = .resume i ∧ d.opcode = 0x05) ∨ (c = .release i ∧ d.opcode = 0x06) ∨ (c = .nop i ∧ d.opcode = 0x00) ∨ (c = .additionLoad i ∧ d.opcode = 0x10) ∨ (c = .additionRetire i ∧ d.opcode = 0x11) ∨ (c = .prefixLoad i ∧ d.opcode = 0x12 ∧ d.f 32 0 32 ≠ 0) ∨ (c = .prefixRetire i ∧ d.opcode = 0x12 ∧ d.f 32 0 32 = 0) ∨ (c = .familyConfig i ∧ d.opcode = 0x13 ∧ d.f 17 1 1 = 0) ∨ (c = .familyRemove i ∧ d.opcode = 0x13 ∧ d.f 17 1 1 = 1) ∨ (c = .tenantSet i ∧ d.opcode = 0x20) ∨ (c = .queryRequest i ∧ isQueryRequest d = true) ∨ (c = .queryTenant i ∧ d.opcode = 0x30 ∧ d.f 16 0 8 = 2) ∨ (c = .queryFamily i ∧ d.opcode = 0x30 ∧ d.f 16 0 8 = 3) ∨ (c = .queryAddition i ∧ d.opcode = 0x30 ∧ d.f 16 0 8 = 4) ∨ (c = .queryRing i ∧ d.opcode = 0x30 ∧ d.f 16 0 8 = 5) ∨ (c = .fence i ∧ d.opcode = 0x3F ∧ d.f 16 0 1 = 0) ∨ (c = .fenceBoundary i ∧ d.opcode = 0x3F ∧ d.f 16 0 1 = 1))) ∧
    (∃ (s : State) (i : BitVec 12) (d : Staged) (st : Nat) (c : Instr), s.receives Isl.hi ∧ s.receives Isl.sb ∧ s.receives Isl.pg ∧ s.eng.nextDue i.toNat = some d ∧ s.eng.checkUpTo6 d = some st ∧ s.eng.ringOpen (s.eng.ackRingOf d) ∧ ((c = .submit i ∧ d.opcode = 0x01) ∨ (c = .append i ∧ d.opcode = 0x02) ∨ (c = .cancel i ∧ d.opcode = 0x03) ∨ (c = .pause i ∧ d.opcode = 0x04) ∨ (c = .resume i ∧ d.opcode = 0x05) ∨ (c = .release i ∧ d.opcode = 0x06) ∨ (c = .nop i ∧ d.opcode = 0x00) ∨ (c = .additionLoad i ∧ d.opcode = 0x10) ∨ (c = .additionRetire i ∧ d.opcode = 0x11) ∨ (c = .prefixLoad i ∧ d.opcode = 0x12 ∧ d.f 32 0 32 ≠ 0) ∨ (c = .prefixRetire i ∧ d.opcode = 0x12 ∧ d.f 32 0 32 = 0) ∨ (c = .familyConfig i ∧ d.opcode = 0x13 ∧ d.f 17 1 1 = 0) ∨ (c = .familyRemove i ∧ d.opcode = 0x13 ∧ d.f 17 1 1 = 1) ∨ (c = .tenantSet i ∧ d.opcode = 0x20) ∨ (c = .queryRequest i ∧ isQueryRequest d = true) ∨ (c = .queryTenant i ∧ d.opcode = 0x30 ∧ d.f 16 0 8 = 2) ∨ (c = .queryFamily i ∧ d.opcode = 0x30 ∧ d.f 16 0 8 = 3) ∨ (c = .queryAddition i ∧ d.opcode = 0x30 ∧ d.f 16 0 8 = 4) ∨ (c = .queryRing i ∧ d.opcode = 0x30 ∧ d.f 16 0 8 = 5) ∨ (c = .fence i ∧ d.opcode = 0x3F ∧ d.f 16 0 1 = 0) ∨ (c = .fenceBoundary i ∧ d.opcode = 0x3F ∧ d.f 16 0 1 = 1))) ∧
    (∃ (s : State) (i : BitVec 12) (d : Staged) (st : Nat) (c : Instr), s.receives Isl.hi ∧ s.receives Isl.sb ∧ s.receives Isl.pg ∧ s.eng.nextDue i.toNat = some d ∧ s.eng.checkUpTo6 d = some st ∧ s.eng.ringOpen (s.eng.ackRingOf d) ∧ ((c = .submit i ∧ d.opcode = 0x01) ∨ (c = .append i ∧ d.opcode = 0x02) ∨ (c = .cancel i ∧ d.opcode = 0x03) ∨ (c = .pause i ∧ d.opcode = 0x04) ∨ (c = .resume i ∧ d.opcode = 0x05) ∨ (c = .release i ∧ d.opcode = 0x06) ∨ (c = .nop i ∧ d.opcode = 0x00) ∨ (c = .additionLoad i ∧ d.opcode = 0x10) ∨ (c = .additionRetire i ∧ d.opcode = 0x11) ∨ (c = .prefixLoad i ∧ d.opcode = 0x12 ∧ d.f 32 0 32 ≠ 0) ∨ (c = .prefixRetire i ∧ d.opcode = 0x12 ∧ d.f 32 0 32 = 0) ∨ (c = .familyConfig i ∧ d.opcode = 0x13 ∧ d.f 17 1 1 = 0) ∨ (c = .familyRemove i ∧ d.opcode = 0x13 ∧ d.f 17 1 1 = 1) ∨ (c = .tenantSet i ∧ d.opcode = 0x20) ∨ (c = .queryRequest i ∧ isQueryRequest d = true) ∨ (c = .queryTenant i ∧ d.opcode = 0x30 ∧ d.f 16 0 8 = 2) ∨ (c = .queryFamily i ∧ d.opcode = 0x30 ∧ d.f 16 0 8 = 3) ∨ (c = .queryAddition i ∧ d.opcode = 0x30 ∧ d.f 16 0 8 = 4) ∨ (c = .queryRing i ∧ d.opcode = 0x30 ∧ d.f 16 0 8 = 5) ∨ (c = .fence i ∧ d.opcode = 0x3F ∧ d.f 16 0 1 = 0) ∨ (c = .fenceBoundary i ∧ d.opcode = 0x3F ∧ d.f 16 0 1 = 1))) ∧
    (∃ (s : State) (i : BitVec 12) (d : Staged) (st : Nat) (c : Instr), s.receives Isl.hi ∧ s.receives Isl.sb ∧ s.receives Isl.pg ∧ s.eng.nextDue i.toNat = some d ∧ s.eng.checkUpTo6 d = some st ∧ s.eng.ringOpen (s.eng.ackRingOf d) ∧ ((c = .submit i ∧ d.opcode = 0x01) ∨ (c = .append i ∧ d.opcode = 0x02) ∨ (c = .cancel i ∧ d.opcode = 0x03) ∨ (c = .pause i ∧ d.opcode = 0x04) ∨ (c = .resume i ∧ d.opcode = 0x05) ∨ (c = .release i ∧ d.opcode = 0x06) ∨ (c = .nop i ∧ d.opcode = 0x00) ∨ (c = .additionLoad i ∧ d.opcode = 0x10) ∨ (c = .additionRetire i ∧ d.opcode = 0x11) ∨ (c = .prefixLoad i ∧ d.opcode = 0x12 ∧ d.f 32 0 32 ≠ 0) ∨ (c = .prefixRetire i ∧ d.opcode = 0x12 ∧ d.f 32 0 32 = 0) ∨ (c = .familyConfig i ∧ d.opcode = 0x13 ∧ d.f 17 1 1 = 0) ∨ (c = .familyRemove i ∧ d.opcode = 0x13 ∧ d.f 17 1 1 = 1) ∨ (c = .tenantSet i ∧ d.opcode = 0x20) ∨ (c = .queryRequest i ∧ isQueryRequest d = true) ∨ (c = .queryTenant i ∧ d.opcode = 0x30 ∧ d.f 16 0 8 = 2) ∨ (c = .queryFamily i ∧ d.opcode = 0x30 ∧ d.f 16 0 8 = 3) ∨ (c = .queryAddition i ∧ d.opcode = 0x30 ∧ d.f 16 0 8 = 4) ∨ (c = .queryRing i ∧ d.opcode = 0x30 ∧ d.f 16 0 8 = 5) ∨ (c = .fence i ∧ d.opcode = 0x3F ∧ d.f 16 0 1 = 0) ∨ (c = .fenceBoundary i ∧ d.opcode = 0x3F ∧ d.f 16 0 1 = 1))) ∧
    (∃ (s : State) (i : BitVec 12) (d : Staged) (st : Nat) (c : Instr), s.receives Isl.hi ∧ s.receives Isl.sb ∧ s.receives Isl.pg ∧ s.eng.nextDue i.toNat = some d ∧ s.eng.checkUpTo6 d = some st ∧ s.eng.ringOpen (s.eng.ackRingOf d) ∧ ((c = .submit i ∧ d.opcode = 0x01) ∨ (c = .append i ∧ d.opcode = 0x02) ∨ (c = .cancel i ∧ d.opcode = 0x03) ∨ (c = .pause i ∧ d.opcode = 0x04) ∨ (c = .resume i ∧ d.opcode = 0x05) ∨ (c = .release i ∧ d.opcode = 0x06) ∨ (c = .nop i ∧ d.opcode = 0x00) ∨ (c = .additionLoad i ∧ d.opcode = 0x10) ∨ (c = .additionRetire i ∧ d.opcode = 0x11) ∨ (c = .prefixLoad i ∧ d.opcode = 0x12 ∧ d.f 32 0 32 ≠ 0) ∨ (c = .prefixRetire i ∧ d.opcode = 0x12 ∧ d.f 32 0 32 = 0) ∨ (c = .familyConfig i ∧ d.opcode = 0x13 ∧ d.f 17 1 1 = 0) ∨ (c = .familyRemove i ∧ d.opcode = 0x13 ∧ d.f 17 1 1 = 1) ∨ (c = .tenantSet i ∧ d.opcode = 0x20) ∨ (c = .queryRequest i ∧ isQueryRequest d = true) ∨ (c = .queryTenant i ∧ d.opcode = 0x30 ∧ d.f 16 0 8 = 2) ∨ (c = .queryFamily i ∧ d.opcode = 0x30 ∧ d.f 16 0 8 = 3) ∨ (c = .queryAddition i ∧ d.opcode = 0x30 ∧ d.f 16 0 8 = 4) ∨ (c = .queryRing i ∧ d.opcode = 0x30 ∧ d.f 16 0 8 = 5) ∨ (c = .fence i ∧ d.opcode = 0x3F ∧ d.f 16 0 1 = 0) ∨ (c = .fenceBoundary i ∧ d.opcode = 0x3F ∧ d.f 16 0 1 = 1))) ∧
    (∃ (s : State) (i : BitVec 12) (d : Staged) (st : Nat) (c : Instr), s.receives Isl.hi ∧ s.receives Isl.sb ∧ s.receives Isl.pg ∧ s.eng.nextDue i.toNat = some d ∧ s.eng.checkUpTo6 d = some st ∧ s.eng.ringOpen (s.eng.ackRingOf d) ∧ ((c = .submit i ∧ d.opcode = 0x01) ∨ (c = .append i ∧ d.opcode = 0x02) ∨ (c = .cancel i ∧ d.opcode = 0x03) ∨ (c = .pause i ∧ d.opcode = 0x04) ∨ (c = .resume i ∧ d.opcode = 0x05) ∨ (c = .release i ∧ d.opcode = 0x06) ∨ (c = .nop i ∧ d.opcode = 0x00) ∨ (c = .additionLoad i ∧ d.opcode = 0x10) ∨ (c = .additionRetire i ∧ d.opcode = 0x11) ∨ (c = .prefixLoad i ∧ d.opcode = 0x12 ∧ d.f 32 0 32 ≠ 0) ∨ (c = .prefixRetire i ∧ d.opcode = 0x12 ∧ d.f 32 0 32 = 0) ∨ (c = .familyConfig i ∧ d.opcode = 0x13 ∧ d.f 17 1 1 = 0) ∨ (c = .familyRemove i ∧ d.opcode = 0x13 ∧ d.f 17 1 1 = 1) ∨ (c = .tenantSet i ∧ d.opcode = 0x20) ∨ (c = .queryRequest i ∧ isQueryRequest d = true) ∨ (c = .queryTenant i ∧ d.opcode = 0x30 ∧ d.f 16 0 8 = 2) ∨ (c = .queryFamily i ∧ d.opcode = 0x30 ∧ d.f 16 0 8 = 3) ∨ (c = .queryAddition i ∧ d.opcode = 0x30 ∧ d.f 16 0 8 = 4) ∨ (c = .queryRing i ∧ d.opcode = 0x30 ∧ d.f 16 0 8 = 5) ∨ (c = .fence i ∧ d.opcode = 0x3F ∧ d.f 16 0 1 = 0) ∨ (c = .fenceBoundary i ∧ d.opcode = 0x3F ∧ d.f 16 0 1 = 1))) ∧
    (∃ (s : State) (i : BitVec 12) (d : Staged) (st : Nat) (c : Instr), s.receives Isl.hi ∧ s.receives Isl.sb ∧ s.receives Isl.pg ∧ s.eng.nextDue i.toNat = some d ∧ s.eng.checkUpTo6 d = some st ∧ s.eng.ringOpen (s.eng.ackRingOf d) ∧ ((c = .submit i ∧ d.opcode = 0x01) ∨ (c = .append i ∧ d.opcode = 0x02) ∨ (c = .cancel i ∧ d.opcode = 0x03) ∨ (c = .pause i ∧ d.opcode = 0x04) ∨ (c = .resume i ∧ d.opcode = 0x05) ∨ (c = .release i ∧ d.opcode = 0x06) ∨ (c = .nop i ∧ d.opcode = 0x00) ∨ (c = .additionLoad i ∧ d.opcode = 0x10) ∨ (c = .additionRetire i ∧ d.opcode = 0x11) ∨ (c = .prefixLoad i ∧ d.opcode = 0x12 ∧ d.f 32 0 32 ≠ 0) ∨ (c = .prefixRetire i ∧ d.opcode = 0x12 ∧ d.f 32 0 32 = 0) ∨ (c = .familyConfig i ∧ d.opcode = 0x13 ∧ d.f 17 1 1 = 0) ∨ (c = .familyRemove i ∧ d.opcode = 0x13 ∧ d.f 17 1 1 = 1) ∨ (c = .tenantSet i ∧ d.opcode = 0x20) ∨ (c = .queryRequest i ∧ isQueryRequest d = true) ∨ (c = .queryTenant i ∧ d.opcode = 0x30 ∧ d.f 16 0 8 = 2) ∨ (c = .queryFamily i ∧ d.opcode = 0x30 ∧ d.f 16 0 8 = 3) ∨ (c = .queryAddition i ∧ d.opcode = 0x30 ∧ d.f 16 0 8 = 4) ∨ (c = .queryRing i ∧ d.opcode = 0x30 ∧ d.f 16 0 8 = 5) ∨ (c = .fence i ∧ d.opcode = 0x3F ∧ d.f 16 0 1 = 0) ∨ (c = .fenceBoundary i ∧ d.opcode = 0x3F ∧ d.f 16 0 1 = 1))) ∧
    (∃ (s : State) (i : BitVec 12) (d : Staged) (st : Nat) (c : Instr), s.receives Isl.hi ∧ s.receives Isl.sb ∧ s.receives Isl.pg ∧ s.eng.nextDue i.toNat = some d ∧ s.eng.checkUpTo6 d = some st ∧ s.eng.ringOpen (s.eng.ackRingOf d) ∧ ((c = .submit i ∧ d.opcode = 0x01) ∨ (c = .append i ∧ d.opcode = 0x02) ∨ (c = .cancel i ∧ d.opcode = 0x03) ∨ (c = .pause i ∧ d.opcode = 0x04) ∨ (c = .resume i ∧ d.opcode = 0x05) ∨ (c = .release i ∧ d.opcode = 0x06) ∨ (c = .nop i ∧ d.opcode = 0x00) ∨ (c = .additionLoad i ∧ d.opcode = 0x10) ∨ (c = .additionRetire i ∧ d.opcode = 0x11) ∨ (c = .prefixLoad i ∧ d.opcode = 0x12 ∧ d.f 32 0 32 ≠ 0) ∨ (c = .prefixRetire i ∧ d.opcode = 0x12 ∧ d.f 32 0 32 = 0) ∨ (c = .familyConfig i ∧ d.opcode = 0x13 ∧ d.f 17 1 1 = 0) ∨ (c = .familyRemove i ∧ d.opcode = 0x13 ∧ d.f 17 1 1 = 1) ∨ (c = .tenantSet i ∧ d.opcode = 0x20) ∨ (c = .queryRequest i ∧ isQueryRequest d = true) ∨ (c = .queryTenant i ∧ d.opcode = 0x30 ∧ d.f 16 0 8 = 2) ∨ (c = .queryFamily i ∧ d.opcode = 0x30 ∧ d.f 16 0 8 = 3) ∨ (c = .queryAddition i ∧ d.opcode = 0x30 ∧ d.f 16 0 8 = 4) ∨ (c = .queryRing i ∧ d.opcode = 0x30 ∧ d.f 16 0 8 = 5) ∨ (c = .fence i ∧ d.opcode = 0x3F ∧ d.f 16 0 1 = 0) ∨ (c = .fenceBoundary i ∧ d.opcode = 0x3F ∧ d.f 16 0 1 = 1))) :=
  ⟨⟨given (d0 0x01 []), 0, d0 0x01 [], Status.malformed, .submit 0, by unfold Engine.ringOpen State.receives State.serves; exact ⟨by decide +kernel, by decide +kernel, by decide +kernel, by decide +kernel, by decide +kernel, by decide +kernel, by simp; decide +kernel⟩⟩,
   ⟨given (d5 0x02 []), 0, d5 0x02 [], Status.malformed, .append 0, by unfold Engine.ringOpen State.receives State.serves; exact ⟨by decide +kernel, by decide +kernel, by decide +kernel, by decide +kernel, by decide +kernel, by decide +kernel, by simp; decide +kernel⟩⟩,
   ⟨given (d0 0x03 [(16, 0, 1)]), 0, d0 0x03 [(16, 0, 1)], Status.malformed, .cancel 0, by unfold Engine.ringOpen State.receives State.serves; exact ⟨by decide +kernel, by decide +kernel, by decide +kernel, by decide +kernel, by decide +kernel, by decide +kernel, by simp; decide +kernel⟩⟩,
   ⟨given (d5 0x04 []), 0, d5 0x04 [], Status.malformed, .pause 0, by unfold Engine.ringOpen State.receives State.serves; exact ⟨by decide +kernel, by decide +kernel, by decide +kernel, by decide +kernel, by decide +kernel, by decide +kernel, by simp; decide +kernel⟩⟩,
   ⟨given (d0 0x05 []), 0, d0 0x05 [], Status.stale, .resume 0, by unfold Engine.ringOpen State.receives State.serves; exact ⟨by decide +kernel, by decide +kernel, by decide +kernel, by decide +kernel, by decide +kernel, by decide +kernel, by simp; decide +kernel⟩⟩,
   ⟨given (d0 0x06 []), 0, d0 0x06 [], Status.stale, .release 0, by unfold Engine.ringOpen State.receives State.serves; exact ⟨by decide +kernel, by decide +kernel, by decide +kernel, by decide +kernel, by decide +kernel, by decide +kernel, by simp; decide +kernel⟩⟩,
   ⟨given (d0 0x00 [(24, 0, 1)]), 0, d0 0x00 [(24, 0, 1)], Status.malformed, .nop 0, by unfold Engine.ringOpen State.receives State.serves; exact ⟨by decide +kernel, by decide +kernel, by decide +kernel, by decide +kernel, by decide +kernel, by decide +kernel, by simp; decide +kernel⟩⟩,
   ⟨given (d0 0x10 [(24, 0, 1)]), 0, d0 0x10 [(24, 0, 1)], Status.malformed, .additionLoad 0, by unfold Engine.ringOpen State.receives State.serves; exact ⟨by decide +kernel, by decide +kernel, by decide +kernel, by decide +kernel, by decide +kernel, by decide +kernel, by simp; decide +kernel⟩⟩,
   ⟨given (d0 0x11 [(24, 0, 1)]), 0, d0 0x11 [(24, 0, 1)], Status.malformed, .additionRetire 0, by unfold Engine.ringOpen State.receives State.serves; exact ⟨by decide +kernel, by decide +kernel, by decide +kernel, by decide +kernel, by decide +kernel, by decide +kernel, by simp; decide +kernel⟩⟩,
   ⟨given (d0 0x12 [(32, 0, 1), (60, 0, 1)]), 0, d0 0x12 [(32, 0, 1), (60, 0, 1)], Status.malformed, .prefixLoad 0, by unfold Engine.ringOpen State.receives State.serves; exact ⟨by decide +kernel, by decide +kernel, by decide +kernel, by decide +kernel, by decide +kernel, by decide +kernel, by simp; decide +kernel⟩⟩,
   ⟨given (d0 0x12 [(60, 0, 1)]), 0, d0 0x12 [(60, 0, 1)], Status.malformed, .prefixRetire 0, by unfold Engine.ringOpen State.receives State.serves; exact ⟨by decide +kernel, by decide +kernel, by decide +kernel, by decide +kernel, by decide +kernel, by decide +kernel, by simp; decide +kernel⟩⟩,
   ⟨given (d0 0x13 [(60, 0, 1)]), 0, d0 0x13 [(60, 0, 1)], Status.malformed, .familyConfig 0, by unfold Engine.ringOpen State.receives State.serves; exact ⟨by decide +kernel, by decide +kernel, by decide +kernel, by decide +kernel, by decide +kernel, by decide +kernel, by simp; decide +kernel⟩⟩,
   ⟨given (d0 0x13 [(17, 1, 1), (60, 0, 1)]), 0, d0 0x13 [(17, 1, 1), (60, 0, 1)], Status.malformed, .familyRemove 0, by unfold Engine.ringOpen State.receives State.serves; exact ⟨by decide +kernel, by decide +kernel, by decide +kernel, by decide +kernel, by decide +kernel, by decide +kernel, by simp; decide +kernel⟩⟩,
   ⟨given (d0 0x20 [(20, 0, 1)]), 0, d0 0x20 [(20, 0, 1)], Status.malformed, .tenantSet 0, by unfold Engine.ringOpen State.receives State.serves; exact ⟨by decide +kernel, by decide +kernel, by decide +kernel, by decide +kernel, by decide +kernel, by decide +kernel, by simp; decide +kernel⟩⟩,
   ⟨given (d0 0x30 [(16, 0, 1), (60, 0, 1)]), 0, d0 0x30 [(16, 0, 1), (60, 0, 1)], Status.malformed, .queryRequest 0, by unfold Engine.ringOpen State.receives State.serves; exact ⟨by decide +kernel, by decide +kernel, by decide +kernel, by decide +kernel, by decide +kernel, by decide +kernel, by simp; decide +kernel⟩⟩,
   ⟨given (d0 0x30 [(16, 0, 2), (60, 0, 1)]), 0, d0 0x30 [(16, 0, 2), (60, 0, 1)], Status.malformed, .queryTenant 0, by unfold Engine.ringOpen State.receives State.serves; exact ⟨by decide +kernel, by decide +kernel, by decide +kernel, by decide +kernel, by decide +kernel, by decide +kernel, by simp; decide +kernel⟩⟩,
   ⟨given (d0 0x30 [(16, 0, 3), (60, 0, 1)]), 0, d0 0x30 [(16, 0, 3), (60, 0, 1)], Status.malformed, .queryFamily 0, by unfold Engine.ringOpen State.receives State.serves; exact ⟨by decide +kernel, by decide +kernel, by decide +kernel, by decide +kernel, by decide +kernel, by decide +kernel, by simp; decide +kernel⟩⟩,
   ⟨given (d0 0x30 [(16, 0, 4), (60, 0, 1)]), 0, d0 0x30 [(16, 0, 4), (60, 0, 1)], Status.malformed, .queryAddition 0, by unfold Engine.ringOpen State.receives State.serves; exact ⟨by decide +kernel, by decide +kernel, by decide +kernel, by decide +kernel, by decide +kernel, by decide +kernel, by simp; decide +kernel⟩⟩,
   ⟨given (d0 0x30 [(16, 0, 5), (60, 0, 1)]), 0, d0 0x30 [(16, 0, 5), (60, 0, 1)], Status.malformed, .queryRing 0, by unfold Engine.ringOpen State.receives State.serves; exact ⟨by decide +kernel, by decide +kernel, by decide +kernel, by decide +kernel, by decide +kernel, by decide +kernel, by simp; decide +kernel⟩⟩,
   ⟨given (d0 0x3F [(60, 0, 1)]), 0, d0 0x3F [(60, 0, 1)], Status.malformed, .fence 0, by unfold Engine.ringOpen State.receives State.serves; exact ⟨by decide +kernel, by decide +kernel, by decide +kernel, by decide +kernel, by decide +kernel, by decide +kernel, by simp; decide +kernel⟩⟩,
   ⟨given (d0 0x3F [(16, 0, 1), (60, 0, 1)]), 0, d0 0x3F [(16, 0, 1), (60, 0, 1)], Status.malformed, .fenceBoundary 0, by unfold Engine.ringOpen State.receives State.serves; exact ⟨by decide +kernel, by decide +kernel, by decide +kernel, by decide +kernel, by decide +kernel, by decide +kernel, by simp; decide +kernel⟩⟩⟩

set_option maxRecDepth 100000 in
theorem met_NopsAndFences :
    (∃ (s : State) (i : BitVec 12) (d : Staged), s.receives Isl.hi ∧ s.eng.ringOpen (s.eng.ackRingOf d) ∧ s.eng.decodes i.toNat d 0) ∧
    (∃ (s : State) (i : BitVec 12) (d : Staged), s.receives Isl.sb ∧ s.eng.ringOpen (s.eng.ackRingOf d) ∧ s.eng.decodes i.toNat d 0x3F ∧ d.f 16 0 1 = 0) ∧
    (∃ (s : State) (i : BitVec 12) (d : Staged), s.receives Isl.sb ∧ s.eng.decodes i.toNat d 0x3F ∧ d.f 16 0 1 = 1) :=
  ⟨⟨nopping, 1, nop1, by unfold State.receives Engine.ringOpen Engine.decodes State.serves; decide +kernel⟩,
   ⟨given (d0 0x3F []), 0, d0 0x3F [], by unfold State.receives Engine.ringOpen Engine.decodes State.serves; decide +kernel⟩,
   ⟨given (d0 0x3F [(16, 0, 1)]), 0, d0 0x3F [(16, 0, 1)], by unfold State.receives Engine.decodes State.serves; decide +kernel⟩⟩

set_option maxRecDepth 100000 in
theorem met_QueriesWriteTheImage :
    (∃ (s : State) (i : BitVec 12) (d : Staged) (k : Nat) (r : Rafter), s.receives Isl.sb ∧ s.eng.decodes i.toNat d 0x30 ∧ s.eng.ringOpen (s.eng.ackRingOf d) ∧ d.f 16 0 8 = 1 ∧ s.eng.target d = some (k, r)) ∧
    (∃ (s : State) (i : BitVec 12) (d : Staged), s.receives Isl.sb ∧ s.eng.decodes i.toNat d 0x30 ∧ s.eng.ringOpen (s.eng.ackRingOf d) ∧ d.f 16 0 8 = 2) ∧
    (∃ (s : State) (i : BitVec 12) (d : Staged), s.receives Isl.pg ∧ s.eng.decodes i.toNat d 0x30 ∧ s.eng.ringOpen (s.eng.ackRingOf d) ∧ d.f 16 0 8 = 3) ∧
    (∃ (s : State) (i : BitVec 12) (d : Staged), s.receives Isl.pg ∧ s.eng.decodes i.toNat d 0x30 ∧ s.eng.ringOpen (s.eng.ackRingOf d) ∧ d.f 16 0 8 = 4) ∧
    (∃ (s : State) (i : BitVec 12) (d : Staged), s.serves Isl.hi ∧ s.eng.decodes i.toNat d 0x30 ∧ s.eng.ringOpen (s.eng.ackRingOf d) ∧ d.f 16 0 8 = 5) :=
  ⟨⟨given (d5 0x30 [(16, 0, 1), (24, 0, 0x40), (32, 0, 255)]), 0, d5 0x30 [(16, 0, 1), (24, 0, 0x40), (32, 0, 255)], 5, req5f, by unfold State.receives Engine.decodes Engine.ringOpen State.serves; decide +kernel⟩,
   ⟨given (d0 0x30 [(16, 0, 2), (20, 0, 1), (24, 0, 0x40), (32, 0, 64)]), 0, d0 0x30 [(16, 0, 2), (20, 0, 1), (24, 0, 0x40), (32, 0, 64)], by unfold State.receives Engine.decodes Engine.ringOpen State.serves; decide +kernel⟩,
   ⟨given (d0 0x30 [(16, 0, 3), (20, 0, 3), (24, 0, 0x40), (32, 0, 320)]), 0, d0 0x30 [(16, 0, 3), (20, 0, 3), (24, 0, 0x40), (32, 0, 320)], by unfold State.receives Engine.decodes Engine.ringOpen State.serves; decide +kernel⟩,
   ⟨given (d0 0x30 [(16, 0, 4), (20, 0, 9), (24, 0, 0x40), (32, 0, 64)]), 0, d0 0x30 [(16, 0, 4), (20, 0, 9), (24, 0, 0x40), (32, 0, 64)], by unfold State.receives Engine.decodes Engine.ringOpen State.serves; decide +kernel⟩,
   ⟨given (d0 0x30 [(16, 0, 5), (20, 0, 4099), (24, 0, 0x40), (32, 0, 63)]), 0, d0 0x30 [(16, 0, 5), (20, 0, 4099), (24, 0, 0x40), (32, 0, 63)], by unfold Engine.decodes Engine.ringOpen State.serves; decide +kernel⟩⟩

set_option maxRecDepth 100000 in
theorem met_SubmitsOpenAnEntry :
    (∃ (s : State) (i : BitVec 12) (d : Staged) (data : ListRead) (slot : Nat) (free : FreeList), s.receives Isl.sb ∧ s.eng.decodes i.toNat d 1 ∧ d.reads = .done data ∧ s.eng.submitCheck d (d.submitOf (s.eng.sub d.ring)) data = none ∧ s.eng.slots.take = some (slot, free)) ∧
    (∃ (s : State) (i : BitVec 12) (d : Staged) (data : ListRead) (st : Nat), s.receives Isl.sb ∧ s.eng.decodes i.toNat d 1 ∧ d.reads = .done data ∧ s.eng.submitCheck d (d.submitOf (s.eng.sub d.ring)) data = some st ∧ s.eng.ringOpen (s.eng.ackRingOf d)) :=
  ⟨⟨given { submit0 with reads := .done tokens2 }, 0, { submit0 with reads := .done tokens2 }, tokens2, 6, { fresh := 7, limit := 262144, freed := [0, 1, 2, 3, 4] }, by unfold State.receives Engine.decodes State.serves; decide +kernel⟩,
   ⟨given { submit0 with reads := .done { tokens2 with tokens := [300, 1, 2] } }, 0, { submit0 with reads := .done { tokens2 with tokens := [300, 1, 2] } }, { tokens2 with tokens := [300, 1, 2] }, Status.malformed, by unfold State.receives Engine.decodes Engine.ringOpen State.serves; decide +kernel⟩⟩

set_option maxRecDepth 100000 in
theorem met_RequestDescriptorsAct :
    (∃ (s : State) (i : BitVec 12) (d : Staged) (k : Nat) (r : Rafter) (data : ListRead), s.receives Isl.sb ∧ s.eng.target d = some (k, r) ∧ s.eng.eventsFull = false ∧ r.state ≠ .fenced ∧ s.eng.ringOpen (s.eng.ackRingOf d) ∧ s.eng.decodes i.toNat d 2 ∧ d.reads = .done data ∧ s.eng.appendReadOk d data = true ∧ (r.state = .queued ∨ r.state.paused = true) ∧ r.maxContext ≤ r.seqEnd + data.tokens.length) ∧
    (∃ (s : State) (i : BitVec 12) (d : Staged) (k : Nat) (r : Rafter) (data : ListRead), s.receives Isl.sb ∧ s.eng.target d = some (k, r) ∧ s.eng.eventsFull = false ∧ r.state ≠ .fenced ∧ s.eng.ringOpen (s.eng.ackRingOf d) ∧ s.eng.decodes i.toNat d 2 ∧ d.reads = .done data ∧ s.eng.appendReadOk d data = true ∧ (r.state = .queued ∨ r.state.paused = true) ∧ (s.seen.appendRequest k r (data.tokens.map BitVec.toNat)).1 = Status.ok) ∧
    (∃ (s : State) (i : BitVec 12) (d : Staged) (k : Nat) (r : Rafter) (data : ListRead), s.receives Isl.sb ∧ s.eng.target d = some (k, r) ∧ s.eng.eventsFull = false ∧ r.state ≠ .fenced ∧ s.eng.ringOpen (s.eng.ackRingOf d) ∧ s.eng.decodes i.toNat d 2 ∧ d.reads = .done data ∧ s.eng.appendReadOk d data = true ∧ (r.state = .queued ∨ r.state.paused = true) ∧ (s.seen.appendRequest k r (data.tokens.map BitVec.toNat)).1 = Status.ok) ∧
    (∃ (s : State) (i : BitVec 12) (d : Staged) (k : Nat) (r : Rafter), s.receives Isl.sb ∧ s.eng.target d = some (k, r) ∧ s.eng.eventsFull = false ∧ r.state ≠ .fenced ∧ s.eng.ringOpen (s.eng.ackRingOf d) ∧ s.eng.decodes i.toNat d 3 ∧ r.state.live = true) ∧
    (∃ (s : State) (i : BitVec 12) (d : Staged) (k : Nat) (r : Rafter), s.receives Isl.sb ∧ s.eng.target d = some (k, r) ∧ s.eng.eventsFull = false ∧ r.state ≠ .fenced ∧ s.eng.ringOpen (s.eng.ackRingOf d) ∧ s.eng.decodes i.toNat d 4 ∧ r.state.running = true) ∧
    (∃ (s : State) (i : BitVec 12) (d : Staged) (k : Nat) (r : Rafter), s.receives Isl.sb ∧ s.eng.target d = some (k, r) ∧ s.eng.eventsFull = false ∧ r.state ≠ .fenced ∧ s.eng.ringOpen (s.eng.ackRingOf d) ∧ s.eng.decodes i.toNat d 4 ∧ (r.state = .parked ∨ r.state = .spilled)) ∧
    (∃ (s : State) (i : BitVec 12) (d : Staged) (k : Nat) (r : Rafter), s.receives Isl.sb ∧ s.eng.target d = some (k, r) ∧ s.eng.eventsFull = false ∧ r.state ≠ .fenced ∧ s.eng.ringOpen (s.eng.ackRingOf d) ∧ s.eng.decodes i.toNat d 5 ∧ (r.state = .parked ∨ r.state = .spilled) ∧ (∀ p ∈ s.eng.primaries k, (s.eng.page p).state ≠ .failed)) ∧
    (∃ (s : State) (i : BitVec 12) (d : Staged) (k : Nat) (r : Rafter), s.receives Isl.sb ∧ s.eng.target d = some (k, r) ∧ s.eng.eventsFull = false ∧ r.state ≠ .fenced ∧ s.eng.ringOpen (s.eng.ackRingOf d) ∧ s.eng.decodes i.toNat d 5 ∧ r.state.running = true ∧ r.pausePending = true) ∧
    (∃ (s : State) (i : BitVec 12) (d : Staged) (k : Nat) (r : Rafter), s.receives Isl.sb ∧ s.eng.target d = some (k, r) ∧ s.eng.eventsFull = false ∧ r.state ≠ .fenced ∧ s.eng.ringOpen (s.eng.ackRingOf d) ∧ s.eng.decodes i.toNat d 6 ∧ r.state.live = true) ∧
    (∃ (s : State) (i : BitVec 12) (d : Staged) (k : Nat) (r : Rafter), s.receives Isl.sb ∧ s.eng.target d = some (k, r) ∧ s.eng.eventsFull = false ∧ r.state ≠ .fenced ∧ s.eng.ringOpen (s.eng.ackRingOf d) ∧ s.eng.decodes i.toNat d 6 ∧ r.state = .cancelling) :=
  ⟨⟨serving { req5f with state := .queued, maxContext := 6 } appended, 0, appended, 5, { req5f with state := .queued, maxContext := 6 }, two, by unfold State.receives Engine.ringOpen Engine.decodes State.serves; decide +kernel⟩,
   ⟨serving { req5f with state := .queued, maxContext := 7 } appended, 0, appended, 5, { req5f with state := .queued, maxContext := 7 }, two, by unfold State.receives Engine.ringOpen Engine.decodes State.serves; decide +kernel⟩,
   ⟨serving { req5f with state := .parked } appended, 0, appended, 5, { req5f with state := .parked }, two, by unfold State.receives Engine.ringOpen Engine.decodes State.serves; decide +kernel⟩,
   ⟨serving req5f (d5 3 []), 0, d5 3 [], 5, req5f, by unfold State.receives Engine.ringOpen Engine.decodes State.serves; decide +kernel⟩,
   ⟨serving req5f (d5 4 [(16, 0, 604800)]), 0, d5 4 [(16, 0, 604800)], 5, req5f, by unfold State.receives Engine.ringOpen Engine.decodes State.serves; decide +kernel⟩,
   ⟨serving { req5f with state := .spilled } (d5 4 [(16, 0, 1)]), 0, d5 4 [(16, 0, 1)], 5, { req5f with state := .spilled }, by unfold State.receives Engine.ringOpen Engine.decodes State.serves; decide +kernel⟩,
   ⟨serving { req5f with state := .parked } (d5 5 [(56, 0, 9), (59, 0, 65535)]), 0, d5 5 [(56, 0, 9), (59, 0, 65535)], 5, { req5f with state := .parked }, by unfold State.receives Engine.ringOpen Engine.decodes State.serves; decide +kernel⟩,
   ⟨serving { req5f with pausePending := true } (d5 5 []), 0, d5 5 [], 5, { req5f with pausePending := true }, by unfold State.receives Engine.ringOpen Engine.decodes State.serves; decide +kernel⟩,
   ⟨serving req5f (d5 6 []), 0, d5 6 [], 5, req5f, by unfold State.receives Engine.ringOpen Engine.decodes State.serves; decide +kernel⟩,
   ⟨serving { req5f with state := .cancelling, returnState := .decode } (d5 6 []), 0, d5 6 [], 5, { req5f with state := .cancelling, returnState := .decode }, by unfold State.receives Engine.ringOpen Engine.decodes State.serves; decide +kernel⟩⟩

set_option maxRecDepth 100000 in
theorem met_TenantsAndFamilies :
    (∃ (s : State) (i : BitVec 12) (d : Staged), s.receives Isl.sb ∧ s.eng.decodes i.toNat d 0x20 ∧ s.eng.eventsFull = false ∧ s.eng.ringOpen (s.eng.ackRingOf d) ∧ (d.f 18 0 1 = 1 ∨ (∀ h ∈ s.eng.adm.held, (s.eng.req? h.slot).map (·.tenant) ≠ some (d.f 16 0 16)))) ∧
    (∃ (s : State) (i : BitVec 12) (d : Staged), s.receives Isl.sb ∧ s.eng.decodes i.toNat d 0x20 ∧ s.eng.eventsFull = false ∧ s.eng.ringOpen (s.eng.ackRingOf d) ∧ (d.f 18 0 1 = 1 ∨ (∀ h ∈ s.eng.adm.held, (s.eng.req? h.slot).map (·.tenant) ≠ some (d.f 16 0 16)))) ∧
    (∃ (s : State) (i : BitVec 12) (d : Staged), s.receives Isl.sb ∧ s.eng.decodes i.toNat d 0x20 ∧ s.eng.eventsFull = false ∧ s.eng.ringOpen (s.eng.ackRingOf d) ∧ d.f 18 0 1 = 0) ∧
    (∃ (s : State) (i : BitVec 12) (d : Staged), s.receives Isl.pg ∧ s.eng.decodes i.toNat d 0x13 ∧ d.f 17 1 1 = 0) ∧
    (∃ (s : State) (i : BitVec 12) (slot : BitVec 16) (ok : Bool) (x : BitVec 2048) (d : Staged) (f : Family), s.receives Isl.pg ∧ s.eng.reading? i.toNat slot.toNat = some d ∧ d.opcode = 0x13 ∧ s.eng.ringOpen (s.eng.ackRingOf d) ∧ f = { Family.none with block := x, share := d.f 17 0 1 == 1 } ∧ (ok = false ∨ s.eng.blockOk f = false)) ∧
    (∃ (s : State) (i : BitVec 12) (slot : BitVec 16) (ok : Bool) (x : BitVec 2048) (d : Staged) (f : Family), s.receives Isl.pg ∧ s.eng.reading? i.toNat slot.toNat = some d ∧ d.opcode = 0x13 ∧ s.eng.ringOpen (s.eng.ackRingOf d) ∧ f = { Family.none with block := x, share := d.f 17 0 1 == 1 } ∧ (ok = false ∨ s.eng.blockOk f = false)) ∧
    (∃ (s : State) (i : BitVec 12) (slot : BitVec 16) (ok : Bool) (x : BitVec 2048) (d : Staged) (f : Family) (g : Nat), s.receives Isl.pg ∧ s.eng.reading? i.toNat slot.toNat = some d ∧ d.opcode = 0x13 ∧ s.eng.ringOpen (s.eng.ackRingOf d) ∧ f = { Family.none with block := x, share := d.f 17 0 1 == 1 } ∧ ok = true ∧ s.eng.blockOk f = true ∧ (s.eng.leadsGroup = true → f.weightSrcT2 = true) ∧ f.pageBytes ≤ 2097152 ∧ conforms f.kvHeads f.laneWidth = true ∧ (f.grade s.eng.halfWindow).grade ≠ 3 ∧ (s.eng.family (d.f 16 0 8)).state = 0 ∧ findRun s.eng.weightRuns (s.eng.get Fld.varWtSizeMib / 2) (chunksOf f.weightBytes) = some g) ∧
    (∃ (s : State) (i : BitVec 12) (slot : BitVec 16) (ok : Bool) (x : BitVec 2048) (d : Staged) (f : Family), s.receives Isl.pg ∧ s.eng.reading? i.toNat slot.toNat = some d ∧ d.opcode = 0x13 ∧ s.eng.ringOpen (s.eng.ackRingOf d) ∧ f = { Family.none with block := x, share := d.f 17 0 1 == 1 } ∧ ok = true ∧ s.eng.blockOk f = true ∧ (s.eng.leadsGroup = true → f.weightSrcT2 = true) ∧ f.pageBytes ≤ 2097152 ∧ conforms f.kvHeads f.laneWidth = true ∧ (f.grade s.eng.halfWindow).grade ≠ 3 ∧ (s.eng.family (d.f 16 0 8)).state = 2 ∧ identityOf (s.eng.family (d.f 16 0 8)).block = identityOf x ∧ (s.eng.family (d.f 16 0 8)).share = f.share) ∧
    (∃ (s : State) (i : BitVec 12) (d : Staged) (k : Nat) (r : Rafter), s.receives Isl.pg ∧ s.eng.decodes i.toNat d 0x13 ∧ d.f 17 1 1 = 1 ∧ (s.eng.family (d.f 16 0 8)).servable = true ∧ (k, r) ∈ s.eng.rafter ∧ r.family = d.f 16 0 8 ∧ r.state ≠ .free ∧ r.state ≠ .admitting) ∧
    (∃ (s : State) (i : BitVec 12) (d : Staged), s.receives Isl.pg ∧ s.eng.decodes i.toNat d 0x13 ∧ d.f 17 1 1 = 1 ∧ (s.eng.family (d.f 16 0 8)).servable = true ∧ (∀ x ∈ s.eng.rafter, x.2.family ≠ d.f 16 0 8) ∧ (∀ x ∈ s.eng.var.slots, x.2.family ≠ d.f 16 0 8) ∧ (∀ x ∈ s.eng.var.prefixes, x.2.family ≠ d.f 16 0 8) ∧ (∀ x ∈ s.eng.var.additions, x.2.family ≠ d.f 16 0 8) ∧ s.eng.var.jobs = [] ∧ s.eng.ringOpen (s.eng.ackRingOf d)) :=
  ⟨⟨given tenantSet9, 0, tenantSet9, by unfold State.receives Engine.decodes Engine.ringOpen State.serves; decide +kernel⟩,
   ⟨given (d0 0x20 [(16, 0, 1)]), 0, d0 0x20 [(16, 0, 1)], by unfold State.receives Engine.decodes Engine.ringOpen State.serves; decide +kernel⟩,
   ⟨given (d0 0x20 [(16, 0, 1)]), 0, d0 0x20 [(16, 0, 1)], by unfold State.receives Engine.decodes Engine.ringOpen State.serves; decide +kernel⟩,
   ⟨given { config3 with reads := .none, phase := .fresh }, 0, { config3 with reads := .none, phase := .fresh }, by unfold State.receives Engine.decodes State.serves; decide +kernel⟩,
   ⟨given config3, 0, 6, true, block3, config3, { Family.none with block := block3 }, by unfold State.receives Engine.ringOpen State.serves; decide +kernel⟩,
   ⟨given config3, 0, 6, false, block3c, config3, { Family.none with block := block3c }, by unfold State.receives Engine.ringOpen State.serves; decide +kernel⟩,
   ⟨on fun e => { stage (furnish e) config3 with rafter := [], var := e.var }, 0, 6, true, block3c, config3, { Family.none with block := block3c }, 0, by unfold State.receives Engine.ringOpen State.serves; decide +kernel⟩,
   ⟨given config3, 0, 6, true, block3c, config3, { Family.none with block := block3c }, by unfold State.receives Engine.ringOpen State.serves; decide +kernel⟩,
   ⟨given (d0 0x13 [(16, 0, 3), (17, 1, 1)]), 0, d0 0x13 [(16, 0, 3), (17, 1, 1)], 5, req5f, by unfold State.receives Engine.decodes State.serves; decide +kernel⟩,
   ⟨on fun e => { stage (furnish e) (d0 0x13 [(16, 0, 3), (17, 1, 1)]) with rafter := [] }, 0, d0 0x13 [(16, 0, 3), (17, 1, 1)], by unfold State.receives Engine.decodes Engine.ringOpen State.serves; decide +kernel⟩⟩

set_option maxRecDepth 100000 in
theorem met_AdditionsAndPrefixes :
    (∃ (s : State) (i : BitVec 12) (d : Staged) (slot : Nat) (e' : Engine), s.receives Isl.pg ∧ s.eng.decodes i.toNat d 0x10 ∧ s.eng.additionCheck (d.f 16 0 16) (d.f 18 0 8) (d.f 19 0 8) (d.f 36 0 16) (d.f 38 0 8) (d.f 32 0 32) = none ∧ s.seen.placeVersion (d.f 16 0 16) (d.f 18 0 8) (d.f 19 0 8) (d.f 36 0 16) (d.f 32 0 32) = (true, some (slot, e')) ∧ s.eng.var.wanted = []) ∧
    (∃ (s : State) (i : BitVec 12) (d : Staged) (x : Addition) (r : VersionRec), s.receives Isl.pg ∧ s.eng.decodes i.toNat d 0x11 ∧ s.eng.addition? (d.f 16 0 16) = some x ∧ x.valid = true ∧ d.f 19 0 1 = 0 ∧ s.eng.record? (d.f 16 0 16) (d.f 18 0 8) = some r ∧ r.vstate = 2 ∧ r.bound ≠ 0) ∧
    (∃ (s : State) (i : BitVec 12) (d : Staged) (x : Addition), s.receives Isl.pg ∧ s.eng.decodes i.toNat d 0x11 ∧ s.eng.addition? (d.f 16 0 16) = some x ∧ x.valid = true ∧ d.f 19 0 1 = 1 ∧ (∀ r ∈ x.records, r.vstate = 2 ∧ r.bound ≠ 0)) ∧
    (∃ (s : State) (i : BitVec 12) (d : Staged) (ps : List Nat) (e' : Engine), s.receives Isl.pg ∧ s.eng.decodes i.toNat d 0x12 ∧ d.f 32 0 32 ≠ 0 ∧ (s.eng.family (d.f 20 0 8)).state = 2 ∧ (s.eng.tenant (d.f 22 0 16)).enable = true ∧ ((s.eng.tenant (d.f 22 0 16)).pquota = 0 ∨ (s.eng.tenant (d.f 22 0 16)).pheld + ceilDiv (d.f 32 0 32) 32 ≤ (s.eng.tenant (d.f 22 0 16)).pquota) ∧ Table.has s.eng.var.prefixes (d.f 16 0 20) = false ∧ (s.eng.reservePages (s.eng.family (d.f 20 0 8)).cls (ceilDiv (d.f 32 0 32) 32) (ceilDiv (d.f 32 0 32) 32)).isSome = true ∧ Engine.prefixPages (ceilDiv (d.f 32 0 32) 32) (d.f 20 0 8) s.seen = some (ps, e')) ∧
    (∃ (s : State) (i : BitVec 12) (d : Staged) (x : PrefixRec), s.receives Isl.pg ∧ s.eng.decodes i.toNat d 0x12 ∧ d.f 32 0 32 = 0 ∧ Table.get? s.eng.var.prefixes (d.f 16 0 20) = some x ∧ x.state = 2 ∧ (x.bound ≠ 0 ∨ (∃ y ∈ s.eng.rafter, y.2.state = .admitting ∧ y.2.pfxValid = true ∧ y.2.pfx = d.f 16 0 20))) ∧
    (∃ (s : State) (i : BitVec 12) (d : Staged) (x : PrefixRec), s.receives Isl.pg ∧ s.eng.decodes i.toNat d 0x12 ∧ d.f 32 0 32 = 0 ∧ Table.get? s.eng.var.prefixes (d.f 16 0 20) = some x ∧ x.state = 2 ∧ x.bound = 0 ∧ (∀ y ∈ s.eng.rafter, ¬(y.2.state = .admitting ∧ y.2.pfxValid = true ∧ y.2.pfx = d.f 16 0 20)) ∧ s.eng.ringOpen (s.eng.ackRingOf d)) :=
  ⟨⟨supplied load9, 0, load9, 0, (((supplied load9).seen.placeVersion 10 3 3 1 16).2.map (·.2)).getD lit.eng, by unfold State.receives Engine.decodes State.serves; decide +kernel⟩,
   ⟨supplied (d0 0x11 [(16, 0, 9), (18, 0, 2)]), 0, d0 0x11 [(16, 0, 9), (18, 0, 2)], addition9, version2, by unfold State.receives Engine.decodes State.serves; decide +kernel⟩,
   ⟨supplied (d0 0x11 [(16, 0, 9), (19, 0, 1)]), 0, d0 0x11 [(16, 0, 9), (19, 0, 1)], addition9, by unfold State.receives Engine.decodes State.serves; decide +kernel⟩,
   ⟨supplied prefixLoad8, 0, prefixLoad8, [0, 1], ((Engine.prefixPages 2 3 (supplied prefixLoad8).seen).map (·.2)).getD lit.eng, by unfold State.receives Engine.decodes State.serves; decide +kernel⟩,
   ⟨on fun e => let e := (supplied (d0 0x12 [(16, 0, 9)])).eng; { e with var := { e.var with prefixes := [(9, { prefix9 with bound := 1 })] } }, 0, d0 0x12 [(16, 0, 9)], { prefix9 with bound := 1 }, by unfold State.receives Engine.decodes State.serves; decide +kernel⟩,
   ⟨supplied (d0 0x12 [(16, 0, 9)]), 0, d0 0x12 [(16, 0, 9)], prefix9, by unfold State.receives Engine.decodes Engine.ringOpen State.serves; decide +kernel⟩⟩

set_option maxRecDepth 100000 in
theorem met_StopBitsAndTimers :
    (∃ (s : State) (h : BitVec 32) (r : Rafter), s.receives Isl.sb ∧ s.eng.follows = false ∧ s.eng.lookup h = some r ∧ r.state.live = true) ∧
    (∃ (s : State) (h : BitVec 32) (r : Rafter), s.receives Isl.sb ∧ s.eng.follows = false ∧ s.eng.lookup h = some r ∧ r.state = .cancelling ∧ r.returnState ≠ .retiring) ∧
    (∃ (s : State) (h : BitVec 32) (r : Rafter), s.receives Isl.sb ∧ s.eng.follows = false ∧ s.eng.lookup h = some r ∧ r.state = .cancelling ∧ r.returnState = .retiring) ∧
    (∃ (s : State) (h : BitVec 32) (r : Rafter), s.receives Isl.sb ∧ s.eng.follows = false ∧ s.eng.lookup h = some r ∧ r.state.live = false) ∧
    (∃ (s : State) (h : BitVec 32) (r : Rafter), s.receives Isl.sb ∧ s.eng.follows = false ∧ s.eng.lookup h = some r ∧ r.state.live = false ∧ r.state ≠ .cancelling) ∧
    (∃ (s : State) (h : BitVec 32) (c : Instr), s.receives Isl.sb ∧ (s.eng.follows = true ∨ s.eng.lookup h = none) ∧ (c = .stopSet h ∨ c = .stopClear h)) ∧
    (∃ (s : State) (h : BitVec 32) (c : Instr), s.receives Isl.sb ∧ (s.eng.follows = true ∨ s.eng.lookup h = none) ∧ (c = .stopSet h ∨ c = .stopClear h)) ∧
    (∃ (s : State) (k : BitVec 18) (r : Rafter) (j : Nat), s.serves Isl.sb ∧ s.eng.req? k.toNat = some r ∧ s.overdue r j ∧ (∀ x ∈ s.eng.adm.held, x.slot ≠ k.toNat)) ∧
    (∃ (s : State) (k : BitVec 18) (r : Rafter), s.serves Isl.sb ∧ s.eng.req? k.toNat = some r ∧ r.state = .admitting ∧ (s.eng.adm.held.any fun h => h.slot == k.toNat) = true ∧ s.eng.flag Fld.sbCtlDeadlineEn = true ∧ (passed r.ttft (s.tb.count / 1000) = true ∨ passed r.total (s.tb.count / 1000) = true)) ∧
    (∃ (s : State) (k : BitVec 18) (r : Rafter), s.serves Isl.sb ∧ s.eng.req? k.toNat = some r ∧ s.eng.flag Fld.sbCtlDeadlineEn = true ∧ (r.state = .parked ∨ r.state = .spilled) ∧ passed r.parkExpiry (s.tb.count / 1000) = true) ∧
    (∃ (s : State), s.serves Isl.sb ∧ s.eng.adm.held = []) :=
  ⟨⟨furnished, 0x00040005#32, req5f, by unfold State.receives State.serves; decide +kernel⟩,
   ⟨serving { req5f with state := .cancelling, returnState := .queued } submit0, 0x00040005#32, { req5f with state := .cancelling, returnState := .queued }, by unfold State.receives State.serves; decide +kernel⟩,
   ⟨serving { req5f with state := .cancelling, returnState := .retiring } submit0, 0x00040005#32, { req5f with state := .cancelling, returnState := .retiring }, by unfold State.receives State.serves; decide +kernel⟩,
   ⟨serving { req5f with state := .retiring } submit0, 0x00040005#32, { req5f with state := .retiring }, by unfold State.receives State.serves; decide +kernel⟩,
   ⟨serving { req5f with state := .retiring } submit0, 0x00040005#32, { req5f with state := .retiring }, by unfold State.receives State.serves; decide +kernel⟩,
   ⟨furnished, 0x00080005#32, .stopSet 0x00080005#32, by unfold State.receives State.serves; decide +kernel⟩,
   ⟨furnished, 0x00040006#32, .stopClear 0x00040006#32, by unfold State.receives State.serves; decide +kernel⟩,
   ⟨on fun e => { (furnish e).put Fld.sbCtlDeadlineEn 1 with rafter := [(5, { req5f with total := 4999999 })] }, 5, { req5f with total := 4999999 }, 2, by unfold State.overdue State.serves; decide +kernel⟩,
   ⟨expiring, 5, { req5a with ttft := 4999999 }, by unfold State.serves; decide +kernel⟩,
   ⟨on fun e => { (furnish e).put Fld.sbCtlDeadlineEn 1 with rafter := [(5, { req5f with state := .parked, parkExpiry := 4999999 })] }, 5, { req5f with state := .parked, parkExpiry := 4999999 }, by unfold State.serves; decide +kernel⟩,
   ⟨on fun e => { (furnish e).put Fld.sbCtlDeadlineEn 1 with rafter := [(5, { req5f with ttft := 5000000 })] }, by unfold State.serves; decide +kernel⟩⟩

set_option maxRecDepth 100000 in
theorem met_RestoringEnds :
    (∃ (s : State) (k : BitVec 18) (r : Rafter), s.receives Isl.sb ∧ s.eng.req? k.toNat = some r ∧ r.state = .restoring ∧ s.eng.listUp k.toNat = true ∧ (r.addValid = false ∨ s.eng.residentVersion r.addition r.version = true)) ∧
    (∃ (s : State) (k : BitVec 18) (r : Rafter), s.serves Isl.sb ∧ s.eng.req? k.toNat = some r ∧ r.state = .restoring ∧ r.restoreAt + s.eng.get Fld.sbRestoreToMs * 1000000 ≤ s.tb.count) :=
  ⟨⟨on fun e => { furnish e with rafter := [(5, { req5f with state := .restoring })] }, 5, { req5f with state := .restoring }, by unfold State.receives State.serves; decide +kernel⟩,
   ⟨on fun e => { (furnish e).put Fld.sbRestoreToMs 5000 with rafter := [(5, { req5f with state := .restoring })] }, 5, { req5f with state := .restoring }, by unfold State.serves; decide +kernel⟩⟩

set_option maxRecDepth 100000 in
theorem met_AdmissionDecides :
    (∃ (s : State) (k : BitVec 18) (r : Rafter) (v : Verdict), s.serves Isl.sb ∧ s.eng.adm.candidates.head? = some k.toNat ∧ s.eng.req? k.toNat = some r ∧ s.eng.eventsFull = false ∧ (s.deciding k.toNat r).refusal r = some v) ∧
    (∃ (s : State) (k : BitVec 18) (r : Rafter) (v : Verdict) (e' : Engine), s.serves Isl.sb ∧ s.eng.adm.candidates.head? = some k.toNat ∧ s.eng.req? k.toNat = some r ∧ s.eng.eventsFull = false ∧ (s.deciding k.toNat r).refusal r = none ∧ (s.deciding k.toNat r).holdTest k.toNat r = (some v, e')) ∧
    (∃ (s : State) (k : BitVec 18) (r : Rafter) (e' : Engine), s.serves Isl.sb ∧ s.eng.adm.candidates.head? = some k.toNat ∧ s.eng.req? k.toNat = some r ∧ s.eng.eventsFull = false ∧ (s.deciding k.toNat r).refusal r = none ∧ (s.deciding k.toNat r).holdTest k.toNat r = (none, e')) ∧
    (∃ (s : State) (u : State) (k : BitVec 18) (r : Rafter) (v : Verdict), s.serves Isl.sb ∧ s.seen.retries.head? = some k.toNat ∧ (s.eng.adm.held.any fun h => h.slot == k.toNat) = true ∧ s.eng.req? k.toNat = some r ∧ s.eng.eventsFull = false ∧ u = { s with eng := s.eng.notDue k.toNat } ∧ (u.deciding k.toNat r).refusal r = some v) ∧
    (∃ (s : State) (u : State) (k : BitVec 18) (r : Rafter) (v : Verdict) (e' : Engine), s.serves Isl.sb ∧ s.seen.retries.head? = some k.toNat ∧ (s.eng.adm.held.any fun h => h.slot == k.toNat) = true ∧ s.eng.req? k.toNat = some r ∧ s.eng.eventsFull = false ∧ u = { s with eng := s.eng.notDue k.toNat } ∧ (u.deciding k.toNat r).refusal r = none ∧ (u.deciding k.toNat r).holdTest k.toNat r = (some v, e')) ∧
    (∃ (s : State) (u : State) (k : BitVec 18) (r : Rafter) (e' : Engine), s.serves Isl.sb ∧ s.seen.retries.head? = some k.toNat ∧ (s.eng.adm.held.any fun h => h.slot == k.toNat) = true ∧ s.eng.req? k.toNat = some r ∧ s.eng.eventsFull = false ∧ u = { s with eng := s.eng.notDue k.toNat } ∧ (u.deciding k.toNat r).refusal r = none ∧ (u.deciding k.toNat r).holdTest k.toNat r = (none, e')) ∧
    (∃ (s : State) (k : BitVec 18), s.serves Isl.sb ∧ s.seen.retries.head? ≠ some k.toNat) ∧
    (∃ (s : State) (k : BitVec 18) (r : Rafter), s.serves Isl.sb ∧ (s.eng.adm.held.any fun h => h.slot == k.toNat) = true ∧ s.eng.req? k.toNat = some r ∧ r.arrival + s.eng.get Fld.admHoldToMs * 1000 ≤ s.tb.count / 1000) ∧
    (∃ (s : State) (k : BitVec 18) (r : Rafter), s.serves Isl.sb ∧ s.seen.retries.head? = some k.toNat ∧ (s.eng.adm.held.any fun h => h.slot == k.toNat) = false ∧ s.eng.req? k.toNat = some r ∧ r.reAdmit = true ∧ r.state = .queued ∧ s.eng.roomCommitted r = true ∧ s.seen.feasible k.toNat r = true) ∧
    (∃ (s : State) (k : BitVec 16), s.serves Isl.sb ∧ (s.eng.tenant k.toNat).enable = true) ∧
    (∃ (s : State), s.receives Isl.sb) ∧
    (∃ (s : State), s.receives Isl.sb ∧ (s.eng.follows = true ∨ s.eng.glb.opened = true)) ∧
    (∃ (s : State), s.receives Isl.sb ∧ s.eng.follows = false ∧ s.eng.glb.opened = false) ∧
    (∃ (v : Nat), v < 2) ∧
    (∃ (e : Engine) (v : Nat) (h : Held), v < 2 ∧ e.get Fld.admCtlOpen ≠ v ∧ h ∈ e.adm.held ∧ (e.req? h.slot).isSome = true) :=
  ⟨⟨on fun _ => let e := (deciding5 1).eng; { e with adm := { e.adm with tenants := [] } }, 5, req5a, { condition := 1, hold := false, status := conditionStatus 1 }, by unfold State.serves; decide +kernel⟩,
   ⟨deciding5 0, 5, req5a, { condition := 18, hold := true, status := conditionStatus 18 }, (((deciding5 0).deciding 5 req5a).holdTest 5 req5a).2, by unfold State.serves; decide +kernel⟩,
   ⟨deciding5 1, 5, req5a, (((deciding5 1).deciding 5 req5a).holdTest 5 req5a).2, by unfold State.serves; decide +kernel⟩,
   ⟨due5.but fun e => { e with adm := { e.adm with tenants := [] } }, (due5.but fun e => { e with adm := { e.adm with tenants := [] } }).but fun e => e.notDue 5, 5, req5a, { condition := 1, hold := false, status := conditionStatus 1 }, by unfold State.serves; decide +kernel⟩,
   ⟨due5.but fun e => e.put Fld.admCtlOpen 0, (due5.but fun e => e.put Fld.admCtlOpen 0).but fun e => e.notDue 5, 5, req5a, { condition := 18, hold := true, status := conditionStatus 18 }, ((((due5.but fun e => e.put Fld.admCtlOpen 0).but fun e => e.notDue 5).deciding 5 req5a).holdTest 5 req5a).2, by unfold State.serves; decide +kernel⟩,
   ⟨due5, due5.but fun e => e.notDue 5, 5, req5a, (((due5.but fun e => e.notDue 5).deciding 5 req5a).holdTest 5 req5a).2, by unfold State.serves; decide +kernel⟩,
   ⟨held5, 5, by unfold State.serves; decide +kernel⟩,
   ⟨on fun _ => held5.eng.put Fld.admHoldToMs 4, 5, req5a, by unfold State.serves; decide +kernel⟩,
   ⟨on fun e => let e := furnish e; { e with rafter := [(5, { req5f with state := .queued, reAdmit := true })], adm := { e.adm with due := [5] } }, 5, { req5f with state := .queued, reAdmit := true }, by unfold State.serves; decide +kernel⟩,
   ⟨furnished, 1, by unfold State.serves; decide +kernel⟩,
   ⟨lit, by unfold State.receives State.serves; decide +kernel⟩,
   ⟨on fun e => { e with glb := { e.glb with opened := true } }, by unfold State.receives State.serves; decide +kernel⟩,
   ⟨lit, by unfold State.receives State.serves; decide +kernel⟩,
   ⟨1, by decide +kernel⟩,
   ⟨held5.eng, 0, { slot := 5, condition := 18 }, by decide +kernel⟩⟩

set_option maxRecDepth 100000 in
theorem met_BucketsRefillAtTheRate :
    (∃ (t : Tenant) (a : Nat) (b : Nat), t.metered = true ∧ t.stamp < 2 ^ 32 ∧ t.stamp ≤ a ∧ a ≤ b ∧ b < t.stamp + 2 ^ 32) ∧
    (∃ (t : Tenant), t.level ≤ ((t.burst * 1000000 : Nat) : Int)) ∧
    (∃ (t : Tenant), t.metered = true ∧ t.floor ≤ t.level) ∧
    (∃ (t : Tenant), t.metered = true ∧ t.floor ≤ t.level) ∧
    (∃ (t : Tenant) (n : Nat), t.metered = true ∧ t.floor ≤ t.level ∧ t.floor ≤ t.level - ((n * 1000000 : Nat) : Int)) :=
  ⟨⟨{ tenant1 with stamp := 0 }, 1, 0xFFFFFFFF, by decide +kernel⟩,
   ⟨{ tenant1 with level := 10000000 }, by decide +kernel⟩,
   ⟨{ tenant1 with level := -10000000 }, by decide +kernel⟩,
   ⟨{ tenant1 with level := -10000000 }, by decide +kernel⟩,
   ⟨{ tenant1 with level := 0 }, 10, by decide +kernel⟩⟩

set_option maxRecDepth 100000 in
theorem met_ManifestsAreAcknowledged :
    (∃ (s : State) (y : Yealm) (x : Yealm), s.receives Isl.sb ∧ s.eng.ylm.next = some y ∧ s.eng.ylm.mfStep = some y.step ∧ (s.eng.evaluate Det.manifestCheck).1 = false ∧ s.eng.ylm.current = some x) ∧
    (∃ (s : State) (y : Yealm), s.receives Isl.sb ∧ s.eng.ylm.next = some y ∧ s.eng.ylm.mfStep = some y.step ∧ (s.eng.evaluate Det.manifestCheck).1 = false ∧ s.eng.ylm.current = none ∧ s.eng.boundaryOpen = false ∧ s.eng.err.fatal = false ∧ s.eng.mdv.fenced = false ∧ y.courses ≠ []) ∧
    (∃ (s : State) (y : Yealm), s.receives Isl.sb ∧ s.eng.ylm.next = some y ∧ s.eng.ylm.mfStep = some y.step ∧ s.eng.ylm.mfRetried = false) ∧
    (∃ (s : State) (y : Yealm), s.serves Isl.sb ∧ s.eng.ylm.next = some y ∧ s.eng.ylm.mfStep = some y.step ∧ s.eng.ylm.current = none ∧ s.eng.alone ∧ s.eng.err.fatal = false ∧ s.eng.ylm.mfFailures + 1 ≤ s.eng.get Fld.fltReplayMaxN) ∧
    (∃ (s : State) (y : Yealm), s.serves Isl.sb ∧ s.eng.ylm.next = some y ∧ s.eng.ylm.mfStep = some y.step ∧ s.eng.get Fld.fltReplayMaxN < s.eng.ylm.mfFailures + 1) ∧
    (∃ (s : State) (y : Yealm), s.receives Isl.sb ∧ s.eng.ylm.next = some y ∧ s.eng.ylm.mfStep = some y.step ∧ s.eng.get Fld.fltReplayMaxN < s.eng.ylm.mfFailures + 1 ∧ s.eng.ylm.mfRetried = true) ∧
    (∃ (s : State) (y : Yealm), s.receives Isl.sb ∧ s.eng.ylm.current = some y ∧ s.eng.ylm.mfStep = none ∧ s.eng.ylm.reStep = some y.step ∧ (s.eng.evaluate Det.manifestCheck).1 = false) ∧
    (∃ (s : State) (y : Yealm), s.receives Isl.sb ∧ s.eng.ylm.current = some y ∧ s.eng.ylm.mfStep = none ∧ s.eng.ylm.reStep = some y.step ∧ s.eng.ylm.reRetried = false) ∧
    (∃ (s : State) (n : BitVec 16) (c : Instr), s.receives Isl.sb ∧ s.eng.awaitsAck n.toNat = false ∧ s.eng.awaitsAgain n.toNat = false ∧ (c = .manifestAckOk n ∨ c = .manifestAckRetry n)) ∧
    (∃ (s : State) (n : BitVec 16) (c : Instr), s.receives Isl.sb ∧ s.eng.awaitsAck n.toNat = false ∧ s.eng.awaitsAgain n.toNat = false ∧ (c = .manifestAckOk n ∨ c = .manifestAckRetry n)) :=
  ⟨⟨on fun e => let e := manifested e; { e with ylm := { e.ylm with current := some { yealm7 with step := 6 } } }, yealm7, { yealm7 with step := 6 }, by unfold State.receives State.serves; decide +kernel⟩,
   ⟨on manifested, yealm7, by unfold State.receives State.serves; decide +kernel⟩,
   ⟨on manifested, yealm7, by unfold State.receives State.serves; decide +kernel⟩,
   ⟨on fun e => let e := (manifested e).put Fld.fltReplayMaxN 3; { e with ylm := { e.ylm with mfFailures := 2 } }, yealm7, by unfold Engine.alone State.serves; decide +kernel⟩,
   ⟨failing7, yealm7, by unfold State.serves; decide +kernel⟩,
   ⟨failing7, yealm7, by unfold State.receives State.serves; decide +kernel⟩,
   ⟨again7, yealm7, by unfold State.receives State.serves; decide +kernel⟩,
   ⟨again7, yealm7, by unfold State.receives State.serves; decide +kernel⟩,
   ⟨on manifested, 8, .manifestAckOk 8, by unfold State.receives State.serves; decide +kernel⟩,
   ⟨lit, 0, .manifestAckRetry 0, by unfold State.receives State.serves; decide +kernel⟩⟩

set_option maxRecDepth 100000 in
theorem met_CoursesOfAStep :
    (∃ (s : State) (y : Yealm) (k : BitVec 6) (c : Course), s.receives Isl.sb ∧ s.eng.alone ∧ s.eng.ylm.current = some y ∧ y.courses[k.toNat]? = some c ∧ s.eng.mayBegin k.toNat = true) ∧
    (∃ (s : State) (y : Yealm) (k : BitVec 6) (c : Course), s.receives Isl.sb ∧ s.eng.alone ∧ s.eng.ylm.current = some y ∧ y.courses[k.toNat]? = some c) ∧
    (∃ (s : State) (y : Yealm) (k : BitVec 6) (c : Course) (j : BitVec 10) (g : Segment), s.receives Isl.sb ∧ s.eng.alone ∧ s.eng.ylm.current = some y ∧ y.courses[k.toNat]? = some c ∧ j.toNat < c.segments ∧ y.segments[c.firstSegment + j.toNat]? = some g ∧ g.null = false ∧ (s.eng.run k.toNat).reported = false) ∧
    (∃ (s : State) (y : Yealm) (k : BitVec 6) (c : Course) (j : BitVec 10) (g : Segment), s.receives Isl.sb ∧ s.eng.alone ∧ s.eng.ylm.current = some y ∧ y.courses[k.toNat]? = some c ∧ j.toNat < c.segments ∧ y.segments[c.firstSegment + j.toNat]? = some g ∧ g.null = false ∧ (s.eng.run k.toNat).reported = false) ∧
    (∃ (s : State) (y : Yealm) (k : BitVec 6) (c : Course), s.receives Isl.sb ∧ s.eng.alone ∧ s.eng.ylm.current = some y ∧ y.courses[k.toNat]? = some c ∧ (s.eng.run k.toNat).reported = false ∧ (s.eng.run k.toNat).failedSeg = [] ∧ (s.eng.run k.toNat).baseFail = false ∧ s.eng.recordedSet y.step k.toNat = none) ∧
    (∃ (s : State) (y : Yealm) (k : BitVec 6) (c : Course), s.receives Isl.sb ∧ s.eng.alone ∧ s.eng.ylm.current = some y ∧ y.courses[k.toNat]? = some c ∧ (s.eng.run k.toNat).reported = false ∧ (s.eng.run k.toNat).failedSeg = [] ∧ (s.eng.run k.toNat).baseFail = false ∧ s.eng.recordedSet y.step k.toNat = none) ∧
    (∃ (s : State) (y : Yealm) (k : BitVec 6) (c : Course), s.receives Isl.sb ∧ s.eng.alone ∧ s.eng.ylm.current = some y ∧ y.courses[k.toNat]? = some c ∧ (s.eng.run k.toNat).reported = false ∧ (s.eng.run k.toNat).failedSeg = [] ∧ (s.eng.run k.toNat).baseFail = false ∧ s.eng.recordedSet y.step k.toNat = none) ∧
    (∃ (s : State) (y : Yealm) (k : BitVec 6) (c : Course), s.receives Isl.sb ∧ s.eng.alone ∧ s.eng.ylm.current = some y ∧ y.courses[k.toNat]? = some c) ∧
    (∃ (s : State) (y : Yealm) (k : BitVec 6) (c : Course), s.receives Isl.sb ∧ s.eng.alone ∧ s.eng.ylm.current = some y ∧ y.courses[k.toNat]? = some c) ∧
    (∃ (s : State) (y : Yealm), s.receives Isl.sb ∧ s.eng.alone ∧ s.eng.ylm.current = some y ∧ s.eng.ylm.stepDone = false ∧ s.eng.allBegun y = true) :=
  ⟨⟨computing yealm7, yealm7, 0, course0, by unfold State.receives Engine.alone State.serves; decide +kernel⟩,
   ⟨computing yealm7, yealm7, 0, course0, by unfold State.receives Engine.alone State.serves; decide +kernel⟩,
   ⟨computing yealm7, yealm7, 0, course0, 1, { slot := 4, null := false, members := 1, firstPos := 0 }, by unfold State.receives Engine.alone State.serves; decide +kernel⟩,
   ⟨computing yealm7, yealm7, 0, course0, 1, { slot := 4, null := false, members := 1, firstPos := 0 }, by unfold State.receives Engine.alone State.serves; decide +kernel⟩,
   ⟨on fun e => let e := compute yealm7 e; { e with ylm := { e.ylm with runs := [(0, { begun := true, late := [1], failedSeg := [], reported := false, ordered := false, baseFail := false })] } }, yealm7, 0, course0, by unfold State.receives Engine.alone State.serves; decide +kernel⟩,
   ⟨on fun e => let e := compute { yealm7 with mode := 1 } e; { e with ylm := { e.ylm with runs := [(0, { begun := true, late := [1], failedSeg := [], reported := false, ordered := false, baseFail := false })] } }, { yealm7 with mode := 1 }, 0, course0, by unfold State.receives Engine.alone State.serves; decide +kernel⟩,
   ⟨computing yealm7, yealm7, 0, course0, by unfold State.receives Engine.alone State.serves; decide +kernel⟩,
   ⟨computing yealm7, yealm7, 0, course0, by unfold State.receives Engine.alone State.serves; decide +kernel⟩,
   ⟨computing yealm7, yealm7, 0, course0, by unfold State.receives Engine.alone State.serves; decide +kernel⟩,
   ⟨on fun e => let e := compute yealm7 e; { e with ylm := { e.ylm with runs := [(0, { begun := true, late := [], failedSeg := [], reported := true, ordered := true, baseFail := false })] } }, yealm7, by unfold State.receives Engine.alone State.serves; decide +kernel⟩⟩

set_option maxRecDepth 100000 in
theorem met_StallsPagesAndModes :
    (∃ (s : State) (y : Yealm) (k : BitVec 6) (c : Course), s.serves Isl.sb ∧ s.eng.alone ∧ s.eng.ylm.current = some y ∧ y.courses[k.toNat]? = some c ∧ s.eng.get Fld.ylmStallLimitUs * 1000 < s.eng.ylm.stallNs ∧ y.mode ≠ 0) ∧
    (∃ (s : State) (y : Yealm) (k : BitVec 6) (c : Course), s.serves Isl.sb ∧ s.eng.alone ∧ s.eng.ylm.current = some y ∧ y.courses[k.toNat]? = some c ∧ s.eng.get Fld.ylmStallLimitUs * 1000 < s.eng.ylm.stallNs ∧ y.mode = 0 ∧ s.eng.mayReplay y) ∧
    (∃ (s : State) (p : BitVec 22), s.receives Isl.pg ∧ s.eng.alone ∧ ((s.eng.page p.toNat).state = .openPage ∨ (s.eng.page p.toNat).state = .full) ∧ (s.eng.page p.toNat).holders ≠ 0 ∧ (∀ k ∈ s.eng.holdersOf p.toNat, s.eng.matching k p.toNat = false)) ∧
    (∃ (s : State) (p : BitVec 22), s.receives Isl.pg ∧ s.eng.alone ∧ ((s.eng.page p.toNat).state = .openPage ∨ (s.eng.page p.toNat).state = .full) ∧ (s.eng.page p.toNat).holders ≠ 0 ∧ (∀ k ∈ s.eng.holdersOf p.toNat, s.eng.matching k p.toNat = false)) ∧
    (∃ (s : State), s.serves Isl.sb) ∧
    (∃ (s : State), s.receives Isl.sb) ∧
    (∃ (s : State) (w : WalkItem) (ws : List WalkItem), s.serves Isl.pg ∧ s.eng.pgm.walk = w :: ws ∧ 1 < w.count) ∧
    (∃ (s : State) (w : WalkItem) (ws : List WalkItem), s.serves Isl.pg ∧ s.eng.pgm.walk = w :: ws ∧ w.count ≤ 1) ∧
    (∃ (s : State) (w : WalkItem) (ws : List WalkItem), s.serves Isl.pg ∧ s.eng.pgm.walk = w :: ws ∧ (s.eng.page w.head).state = .aliasEntry ∧ 1 < (s.eng.page (s.eng.page w.head).primary).holders ∧ (s.eng.page w.head).primary ≠ w.head) ∧
    (∃ (s : State) (w : WalkItem) (ws : List WalkItem), s.serves Isl.pg ∧ s.eng.pgm.walk = w :: ws ∧ (s.eng.page w.head).state ≠ .aliasEntry ∧ 1 < (s.eng.page w.head).holders) :=
  ⟨⟨on fun e => let e := compute { yealm7 with mode := 1 } e; { e.put Fld.ylmStallLimitUs 10 with ylm := { e.ylm with stallNs := 10001 } }, { yealm7 with mode := 1 }, 0, course0, by unfold Engine.alone State.serves; decide +kernel⟩,
   ⟨on fun e => let e := compute (sound yealm7) e; { e.put Fld.ylmStallLimitUs 10 with ylm := { e.ylm with stallNs := 10001 } }, sound yealm7, 0, course0, by unfold Engine.alone Engine.mayReplay State.serves; decide +kernel⟩,
   ⟨paged page8, 8, by unfold State.receives Engine.alone State.serves; decide +kernel⟩,
   ⟨paged { page8 with state := .openPage }, 8, by unfold State.receives Engine.alone State.serves; decide +kernel⟩,
   ⟨on fun e => e.put Fld.ylmCtlMode 3, by unfold State.serves; decide +kernel⟩,
   ⟨lit, by unfold State.receives State.serves; decide +kernel⟩,
   ⟨walking 2 { page8 with next := 9 } page8, { head := 8, count := 2, slot := 5, resident := true }, [], by unfold State.serves; decide +kernel⟩,
   ⟨walking 1 page8 page8, { head := 8, count := 1, slot := 5, resident := true }, [], by unfold State.serves; decide +kernel⟩,
   ⟨walking 1 { page8 with state := .aliasEntry, primary := 9 } { page8 with holders := 2 }, { head := 8, count := 1, slot := 5, resident := true }, [], by unfold State.serves; decide +kernel⟩,
   ⟨walking 1 { page8 with holders := 2 } page8, { head := 8, count := 1, slot := 5, resident := true }, [], by unfold State.serves; decide +kernel⟩⟩

set_option maxRecDepth 100000 in
theorem met_BoundariesRunTheirEffects :
    (∃ (s : State), s.serves Isl.sb ∧ s.eng.boundaryOpen = false ∧ (s.eng.ylm.current = none ∨ (∃ y, s.eng.ylm.current = some y ∧ s.eng.boundaryDue y = false))) ∧
    (∃ (s : State), s.serves Isl.sb ∧ s.eng.boundaryOpen = false ∧ (s.eng.ylm.current = none ∨ (∃ y, s.eng.ylm.current = some y ∧ s.eng.boundaryDue y = false))) ∧
    (∃ (s : State) (y : Yealm) (y' : Yealm) (o : Engine), s.serves Isl.sb ∧ s.eng.boundaryOpen = false ∧ s.eng.ylm.current = some y ∧ s.eng.boundaryDue y = true ∧ (s.eng.evaluate Det.boundaryEffect).1 = false ∧ o = (s.seen.tryDetector Det.boundaryEffect).2.openBoundary y ∧ y' = o.ylm.current.getD y) ∧
    (∃ (s : State) (y : Yealm) (y' : Yealm) (o : Engine) (k : BitVec 3), s.serves Isl.sb ∧ s.eng.boundaryOpen = false ∧ s.eng.ylm.current = some y ∧ s.eng.boundaryDue y = true ∧ k ≠ 0#3 ∧ k ≠ 7#3 ∧ o = s.seen.openBoundary y ∧ y' = o.ylm.current.getD y) ∧
    (∃ (s : State) (y : Yealm) (y' : Yealm) (o : Engine) (k : BitVec 3), s.serves Isl.sb ∧ s.eng.boundaryOpen = false ∧ s.eng.ylm.current = some y ∧ s.eng.boundaryDue y = true ∧ k ≠ 0#3 ∧ k ≠ 7#3 ∧ o = s.seen.openBoundary y ∧ y' = o.ylm.current.getD y) ∧
    (∃ (e : Engine), e.alone ∧ e.flt.heldEvents = [] ∧ e.flt.shadow.running = false ∧ e.flt.shadow.watching = []) ∧
    (∃ (e : Engine), e.alone ∧ e.flt.heldEvents = [] ∧ e.flt.shadow.running = false ∧ e.flt.shadow.watching = []) ∧
    (∃ (e : Engine), e.alone ∧ e.flt.heldEvents = [] ∧ e.flt.shadow.running = false ∧ e.flt.shadow.watching = []) ∧
    (∃ (e : Engine), e.alone ∧ e.flt.heldEvents = [] ∧ e.flt.shadow.running = false ∧ e.flt.shadow.watching = []) ∧
    (∃ (e : Engine) (y : Yealm) (r : StepRecord), e.alone ∧ e.flt.heldEvents = [] ∧ e.flt.shadow.running = false ∧ e.flt.shadow.watching = [] ∧ e.stepRec? y.step = some r) ∧
    (∃ (e : Engine) (slot : Nat) (r : Rafter), e.req? slot = some r ∧ r.state = .retiring ∧ r.completed = true) :=
  ⟨⟨lit, by unfold State.serves; exact ⟨by decide +kernel, by decide +kernel, .inl rfl⟩⟩,
   ⟨computing yealm7, by unfold State.serves; exact ⟨by decide +kernel, by decide +kernel, .inr ⟨yealm7, by decide +kernel⟩⟩⟩,
   ⟨stepEnding, ending7, ((stepEnding.seen.tryDetector Det.boundaryEffect).2.openBoundary ending7).ylm.current.getD ending7, (stepEnding.seen.tryDetector Det.boundaryEffect).2.openBoundary ending7, by unfold State.serves; decide +kernel⟩,
   ⟨stepEnding, ending7, (stepEnding.seen.openBoundary ending7).ylm.current.getD ending7, stepEnding.seen.openBoundary ending7, 6, by unfold State.serves; decide +kernel⟩,
   ⟨stepEnding, ending7, (stepEnding.seen.openBoundary ending7).ylm.current.getD ending7, stepEnding.seen.openBoundary ending7, 1, by unfold State.serves; decide +kernel⟩,
   ⟨stepEnding.eng, by unfold Engine.alone; decide +kernel⟩,
   ⟨stepEnding.eng, by unfold Engine.alone; decide +kernel⟩,
   ⟨stepEnding.eng, by unfold Engine.alone; decide +kernel⟩,
   ⟨stepEnding.eng, by unfold Engine.alone; decide +kernel⟩,
   ⟨stepEnding.eng, ending7, record7, by unfold Engine.alone; decide +kernel⟩,
   ⟨(serving { req5f with state := .retiring, completed := true } submit0).eng, 5, { req5f with state := .retiring, completed := true }, by decide +kernel⟩⟩

set_option maxRecDepth 100000 in
theorem met_TilesFoldIntoTheirDraws :
    (∃ (s : State) (h : BitVec 64), s.receives Isl.sm ∧ s.eng.checkTile h = none ∧ s.eng.ylm.current = none) ∧
    (∃ (s : State) (h : BitVec 64) (y : Yealm), s.receives Isl.sm ∧ s.eng.checkTile h = none ∧ s.eng.mayReplay y) ∧
    (∃ (s : State) (h : BitVec 64) (y : Yealm), s.receives Isl.sm ∧ s.eng.checkTile h = none ∧ s.eng.mayReplay y) ∧
    (∃ (s : State) (h : BitVec 64) (y : Yealm), s.receives Isl.sm ∧ s.eng.checkTile h = none ∧ s.eng.mayReplay y) ∧
    (∃ (s : State) (h : BitVec 64) (y : Yealm), s.receives Isl.sm ∧ s.eng.checkTile h = none ∧ s.eng.mayReplay y) ∧
    (∃ (s : State) (h : BitVec 64) (y : Yealm), s.receives Isl.sm ∧ s.eng.checkTile h = none ∧ s.eng.mayReplay y) ∧
    (∃ (s : State) (h : BitVec 64) (y : Yealm), s.receives Isl.sm ∧ s.eng.checkTile h = none ∧ s.eng.mayReplay y) ∧
    (∃ (s : State) (h : BitVec 64) (y : Yealm) (k : Nat) (i : Nat) (m : Member) (r : Rafter), s.receives Isl.sm ∧ s.eng.alone ∧ (s.eng.evaluate Det.tileCheck).1 = false ∧ s.eng.ylm.current = some y ∧ s.eng.checkTile h = some (k, i, m) ∧ s.eng.anyReq? m.slot = some r ∧ (∀ c, Table.get? s.eng.smp.ctxs (tileDraw h) = some c → c.draw = tileDraw h) ∧ s.eng.folded m (tileDraw h) = true ∧ s.eng.skips m = true) ∧
    (∃ (s : State) (h : BitVec 64) (y : Yealm) (k : Nat) (i : Nat) (m : Member) (r : Rafter), s.receives Isl.sm ∧ s.eng.alone ∧ (s.eng.evaluate Det.tileCheck).1 = false ∧ s.eng.ylm.current = some y ∧ s.eng.checkTile h = some (k, i, m) ∧ s.eng.anyReq? m.slot = some r ∧ (∀ c, Table.get? s.eng.smp.ctxs (tileDraw h) = some c → c.draw = tileDraw h) ∧ s.eng.folded m (tileDraw h) = true ∧ s.eng.skips m = false) ∧
    (∃ (s : State) (h : BitVec 64) (y : Yealm) (k : Nat) (i : Nat) (m : Member) (r : Rafter), s.receives Isl.sm ∧ s.eng.alone ∧ (s.eng.evaluate Det.tileCheck).1 = false ∧ s.eng.ylm.current = some y ∧ s.eng.checkTile h = some (k, i, m) ∧ s.eng.anyReq? m.slot = some r ∧ (∀ c, Table.get? s.eng.smp.ctxs (tileDraw h) = some c → c.draw = tileDraw h) ∧ s.eng.smp.nextEmit + 16384 ≤ tileDraw h ∧ s.eng.folded m (tileDraw h) = false) ∧
    (∃ (s : State) (h : BitVec 64) (l : List (BitVec 16)) (y : Yealm) (k : Nat) (i : Nat) (m : Member) (r : Rafter) (nans : Nat) (x : DrawCtx) (c : DrawCtx), s.receives Isl.sm ∧ s.eng.alone ∧ (s.eng.evaluate Det.tileCheck).1 = false ∧ s.eng.ylm.current = some y ∧ s.eng.checkTile h = some (k, i, m) ∧ s.eng.anyReq? m.slot = some r ∧ (∀ c, Table.get? s.eng.smp.ctxs (tileDraw h) = some c → c.draw = tileDraw h) ∧ s.eng.smp.nextEmit ≤ tileDraw h ∧ tileDraw h < s.eng.smp.nextEmit + 16384 ∧ s.eng.folded m (tileDraw h) = false ∧ s.eng.foldTile r m y.epoch (s.eng.ctxOf r i m (tileDraw h)) (tileHead h) (tileIndex h) (tileFmt h) (tileScale h) l = (nans, x) ∧ c = x.count (tileHead h) (tileIndex h) ∧ c.received ≠ s.eng.expectedTiles m c.index) ∧
    (∃ (s : State) (h : BitVec 64) (l : List (BitVec 16)) (y : Yealm) (k : Nat) (i : Nat) (m : Member) (r : Rafter) (nans : Nat) (x : DrawCtx) (c : DrawCtx), s.receives Isl.sm ∧ s.eng.alone ∧ (s.eng.evaluate Det.tileCheck).1 = false ∧ s.eng.ylm.current = some y ∧ s.eng.checkTile h = some (k, i, m) ∧ s.eng.anyReq? m.slot = some r ∧ (∀ c, Table.get? s.eng.smp.ctxs (tileDraw h) = some c → c.draw = tileDraw h) ∧ s.eng.smp.nextEmit ≤ tileDraw h ∧ tileDraw h < s.eng.smp.nextEmit + 16384 ∧ s.eng.folded m (tileDraw h) = false ∧ s.eng.foldTile r m y.epoch (s.eng.ctxOf r i m (tileDraw h)) (tileHead h) (tileIndex h) (tileFmt h) (tileScale h) l = (nans, x) ∧ c = x.count (tileHead h) (tileIndex h) ∧ c.received = s.eng.expectedTiles m c.index ∧ (c.sum1, c.sum2) = keySums (s.eng.shardTiles (tilesOf (s.eng.family m.family).vocab)).1 (s.eng.shardTiles (tilesOf (s.eng.family m.family).vocab)).2 (s.eng.headsOf m c.index)) :=
  ⟨⟨furnished, 0x8000200000000000#64, by unfold State.receives State.serves; decide +kernel⟩,
   ⟨sampling (sound yealm7) [], 0x8000200000000001#64, sound yealm7, by unfold State.receives Engine.mayReplay State.serves; decide +kernel⟩,
   ⟨sampling (sound yealm7) [], 0x8000000000000000#64, sound yealm7, by unfold State.receives Engine.mayReplay State.serves; decide +kernel⟩,
   ⟨sampling (sound yealm7) [], 0x0000000000000000#64, sound yealm7, by unfold State.receives Engine.mayReplay State.serves; decide +kernel⟩,
   ⟨sampling (sound yealm7) [], 0x0000200000040000#64, sound yealm7, by unfold State.receives Engine.mayReplay State.serves; decide +kernel⟩,
   ⟨sampling (sound yealm7) [], 0x0000200000000001#64, sound yealm7, by unfold State.receives Engine.mayReplay State.serves; decide +kernel⟩,
   ⟨sampling (sound yealm7) [], 0x0000200200000000#64, sound yealm7, by unfold State.receives Engine.mayReplay State.serves; decide +kernel⟩,
   ⟨passing, 0x8000200000000000#64, ending7d, 0, 0, { member5 with deferred := true, emitted := true }, req5f, by unfold State.receives Engine.alone State.serves; decide +kernel⟩,
   ⟨sampling yealm7 [(0, ctx42)], 0x8000200000000000#64, yealm7, 0, 0, member5, req5f, by unfold State.receives Engine.alone State.serves; decide +kernel⟩,
   ⟨sampling yealmFar [], 0x0000200000004000#64, yealmFar, 0, 1, { member5 with firstDraw := 16384 }, req5f, by unfold State.receives Engine.alone State.serves; decide +kernel⟩,
   ⟨sampling yealm7 [], 0x0000200000020000#64, [0x4200], yealm7, 0, 0, member5, req5f, (tile1 none).1, (tile1 none).2, (tile1 none).2.count 0 1, by unfold State.receives Engine.alone State.serves; decide +kernel⟩,
   ⟨sampling yealm7 [(0, ctxHalf)], 0x0000200000020000#64, [0x4200], yealm7, 0, 0, member5, req5f, (tile1 (some ctxHalf)).1, (tile1 (some ctxHalf)).2, (tile1 (some ctxHalf)).2.count 0 1, by unfold State.receives Engine.alone State.serves; decide +kernel⟩⟩

set_option maxRecDepth 100000 in
theorem met_FoldsCommute :
    ∃ (c : DrawCtx) (t1 : Nat) (t2 : Nat) (q1 : BitVec 32) (y1 : BitVec 32) (q2 : BitVec 32) (y2 : BitVec 32), t1 ≠ t2 ∧ c.bestId ≠ t1 ∧ c.bestId ≠ t2 ∧ isNan c.bestY = false ∧ isNan q1 = false ∧ isNan y1 = false ∧ isNan q2 = false ∧ isNan y2 = false ∧ (∀ x ∈ c.heap, isNan x.1 = false ∧ x.2 ≠ t1 ∧ x.2 ≠ t2) ∧ c.heap.Pairwise (fun a b => beats a b = true) ∧ c.heap.length ≤ 64 :=
  ⟨{ ctx42 with heap := [(0x40000000#32, 7), (0x3F800000#32, 8)], bestY := 0x40000000#32, bestId := 7 }, 1, 2, 0x3F000000#32, 0x3F000000#32, 0x3F000000#32, 0x3F000000#32, by decide +kernel⟩

set_option maxRecDepth 100000 in
theorem met_EmissionInDrawOrder :
    (∃ (s : State) (i : BitVec 14), s.serves Isl.sm ∧ (s.eng.ylm.current = none ∨ (∃ y, s.eng.ylm.current = some y ∧ (y.members[i.toNat]? = none ∨ ∃ m, y.members[i.toNat]? = some m ∧ (m.emitted = true ∨ m.draws = 0 ∨ s.eng.smp.nextEmit ≠ m.firstDraw ∨ (s.eng.skips m = false ∧ ∃ j, j < m.draws ∧ Table.get? s.eng.smp.ctxs (m.firstDraw + j) = none)))) ∨ s.eng.follows = true ∨ s.eng.err.fatal = true)) ∧
    (∃ (s : State) (i : BitVec 14), s.serves Isl.sm ∧ (s.eng.ylm.current = none ∨ (∃ y, s.eng.ylm.current = some y ∧ (y.members[i.toNat]? = none ∨ ∃ m, y.members[i.toNat]? = some m ∧ (m.emitted = true ∨ m.draws = 0 ∨ s.eng.smp.nextEmit ≠ m.firstDraw ∨ (s.eng.skips m = false ∧ ∃ j, j < m.draws ∧ Table.get? s.eng.smp.ctxs (m.firstDraw + j) = none)))) ∨ s.eng.follows = true ∨ s.eng.err.fatal = true)) ∧
    (∃ (s : State) (i : BitVec 14), s.serves Isl.sm ∧ (s.eng.ylm.current = none ∨ (∃ y, s.eng.ylm.current = some y ∧ (y.members[i.toNat]? = none ∨ ∃ m, y.members[i.toNat]? = some m ∧ (m.emitted = true ∨ m.draws = 0 ∨ s.eng.smp.nextEmit ≠ m.firstDraw ∨ (s.eng.skips m = false ∧ ∃ j, j < m.draws ∧ Table.get? s.eng.smp.ctxs (m.firstDraw + j) = none)))) ∨ s.eng.follows = true ∨ s.eng.err.fatal = true)) ∧
    (∃ (s : State) (i : BitVec 14), s.serves Isl.sm ∧ (s.eng.ylm.current = none ∨ (∃ y, s.eng.ylm.current = some y ∧ (y.members[i.toNat]? = none ∨ ∃ m, y.members[i.toNat]? = some m ∧ (m.emitted = true ∨ m.draws = 0 ∨ s.eng.smp.nextEmit ≠ m.firstDraw ∨ (s.eng.skips m = false ∧ ∃ j, j < m.draws ∧ Table.get? s.eng.smp.ctxs (m.firstDraw + j) = none)))) ∨ s.eng.follows = true ∨ s.eng.err.fatal = true)) ∧
    (∃ (s : State) (i : BitVec 14) (y : Yealm) (m : Member) (k : Nat) (c : Course), s.serves Isl.sm ∧ s.eng.alone ∧ s.eng.err.fatal = false ∧ s.eng.ylm.current = some y ∧ y.members[i.toNat]? = some m ∧ m.emitted = false ∧ m.draws ≠ 0 ∧ s.eng.smp.nextEmit = m.firstDraw ∧ y.courseOfDraw m.firstDraw = some (k, c) ∧ s.eng.courseBegan k = true ∧ (m.deferred = true ∨ m.failed = true ∨ (m.vacated = true ∧ ∀ j, j < m.draws → ∃ x, Table.get? s.eng.smp.ctxs (m.firstDraw + j) = some x ∧ x.done = true))) ∧
    (∃ (s : State) (i : BitVec 14) (y : Yealm) (m : Member) (k : Nat) (c : Course), s.serves Isl.sm ∧ s.eng.alone ∧ s.eng.err.fatal = false ∧ s.eng.ylm.current = some y ∧ y.members[i.toNat]? = some m ∧ m.emitted = false ∧ m.draws ≠ 0 ∧ s.eng.smp.nextEmit = m.firstDraw ∧ y.courseOfDraw m.firstDraw = some (k, c) ∧ s.eng.courseBegan k = true ∧ (m.deferred = true ∨ m.failed = true ∨ (m.vacated = true ∧ ∀ j, j < m.draws → ∃ x, Table.get? s.eng.smp.ctxs (m.firstDraw + j) = some x ∧ x.done = true))) ∧
    (∃ (s : State) (i : BitVec 14) (y : Yealm) (m : Member) (k : Nat) (c : Course), s.serves Isl.sm ∧ s.eng.alone ∧ s.eng.err.fatal = false ∧ s.eng.ylm.current = some y ∧ y.members[i.toNat]? = some m ∧ m.emitted = false ∧ m.draws ≠ 0 ∧ s.eng.smp.nextEmit = m.firstDraw ∧ y.courseOfDraw m.firstDraw = some (k, c) ∧ s.eng.courseBegan k = true ∧ (m.deferred = true ∨ m.failed = true ∨ (m.vacated = true ∧ ∀ j, j < m.draws → ∃ x, Table.get? s.eng.smp.ctxs (m.firstDraw + j) = some x ∧ x.done = true))) ∧
    (∃ (s : State) (i : BitVec 14) (y : Yealm) (m : Member) (k : Nat) (c : Course) (r : Rafter) (x : DrawCtx) (token : Nat) (body : BitVec 224), s.serves Isl.sm ∧ s.eng.alone ∧ s.eng.err.fatal = false ∧ s.eng.ylm.current = some y ∧ y.members[i.toNat]? = some m ∧ m.emitted = false ∧ m.draws ≠ 0 ∧ s.eng.smp.nextEmit = m.firstDraw ∧ y.courseOfDraw m.firstDraw = some (k, c) ∧ s.eng.courseBegan k = true ∧ m.deferred = false ∧ m.failed = false ∧ m.vacated = false ∧ m.draws = 1 ∧ s.eng.req? m.slot = some r ∧ r.handle = m.handle ∧ r.state.running = true ∧ Table.get? s.eng.smp.ctxs m.firstDraw = some x ∧ x.done = true ∧ x.void = false ∧ x.token = some token ∧ (∀ old, s.eng.heldToken y.step m.firstDraw r.handle m.seqStart = some old → old = token) ∧ r.stopsAt r.generated token = false ∧ r.fullAt r.generated m.seqStart = false ∧ (r.handedPos = pad ∨ r.handedPos < m.seqStart) ∧ r.logprobN = 0 ∧ s.eng.ringOpen r.eventRing ∧ body = tokenBytes r.handle.toNat m.seqStart token 0 0 (place (bit r.suppressNote) 2 1 + place (bit x.logprob.isSome) 3 1 + place (bit m.baseOnly) 4 1 + place (bit r.mixedVersion) 5 1) (x.logprob.getD 0) y.step r.userTag.toNat) ∧
    (∃ (stops : Nat → Nat → Bool) (token : Nat) (gs : List Nat) (ts : List (Option Nat)) (a : Nat) (reached : Bool) (j : Nat), verifyFrom stops 0 token gs ts = (a, reached) ∧ j < a) ∧
    (∃ (stops : Nat → Nat → Bool) (token : Nat) (gs : List Nat) (ts : List (Option Nat)) (a : Nat) (reached : Bool), verifyFrom stops 0 token gs ts = (a, reached) ∧ reached = true) ∧
    (∃ (stops : Nat → Nat → Bool) (token : Nat) (gs : List Nat) (ts : List (Option Nat)) (a : Nat) (reached : Bool) (g : Nat), verifyFrom stops 0 token gs ts = (a, reached) ∧ reached = false ∧ (some token :: ts)[a]? = some (some g) ∧ gs[a]? = some g ∧ g ≠ pad ∧ stops a g = false) :=
  ⟨⟨lit, 0, by unfold State.serves; exact ⟨by decide +kernel, .inl rfl⟩⟩,
   ⟨sampling yealm7 [], 0, by unfold State.serves; exact ⟨by decide +kernel, .inr (.inl ⟨yealm7, rfl, .inr ⟨member5, rfl, .inr (.inr (.inr ⟨by decide +kernel, 0, by decide +kernel, rfl⟩))⟩⟩)⟩⟩,
   ⟨sampling yealm7 [], 1, by unfold State.serves; exact ⟨by decide +kernel, .inr (.inl ⟨yealm7, rfl, .inl rfl⟩)⟩⟩,
   ⟨working.but fun e => { e with ylm := { e.ylm with current := some yealm7 } }, 0, by unfold State.serves; exact ⟨by decide +kernel, .inr (.inr (.inl (by decide +kernel)))⟩⟩,
   ⟨sampling { yealm7 with members := [{ member5 with deferred := true }] } [], 0, { yealm7 with members := [{ member5 with deferred := true }] }, { member5 with deferred := true }, 0, course0, by unfold Engine.alone State.serves; decide +kernel⟩,
   ⟨sampling { yealm7 with members := [{ member5 with failed := true }] } [], 0, { yealm7 with members := [{ member5 with failed := true }] }, { member5 with failed := true }, 0, course0, by unfold Engine.alone State.serves; decide +kernel⟩,
   ⟨sampling { yealm7 with members := [{ member5 with vacated := true }] } [(0, ctx42)], 0, { yealm7 with members := [{ member5 with vacated := true }] }, { member5 with vacated := true }, 0, course0, by unfold Engine.alone State.serves; decide +kernel⟩,
   ⟨sampling yealm7 [(0, ctx42)], 0, yealm7, member5, 0, course0, req5f, ctx42, 42, tokenBytes 0x00040005 4 42 0 0 0 0 7 0, by unfold Engine.alone Engine.ringOpen State.serves; decide +kernel⟩,
   ⟨fun _ _ => false, 1, [1, 2], [some 2, some 3], 2, false, 1, by decide +kernel⟩,
   ⟨fun _ _ => false, 1, [1], [none], 0, true, by decide +kernel⟩,
   ⟨fun _ _ => false, 1, [1], [], 0, false, 1, by decide +kernel⟩⟩

set_option maxRecDepth 100000 in
theorem met_LeggetWatchdogsAndSparPorts :
    (∃ (s : State), s.serves Isl.sm ∧ s.eng.samplingOpen = false) ∧
    (∃ (s : State) (y : Yealm), s.serves Isl.sm ∧ s.eng.samplingOpen = true ∧ s.eng.mayReplay y) ∧
    (∃ (s : State), s.serves Isl.sm ∧ s.eng.sampledCourse = none) ∧
    (∃ (s : State) (y : Yealm), s.serves Isl.sm ∧ s.eng.sampledCourse ≠ none ∧ s.eng.mayReplay y) ∧
    (∃ (s : State) (g : BitVec 6) (lane : BitVec 5) (x : LaneGroup), s.serves Isl.sm ∧ x = s.eng.laneGroup g.toNat ∧ (17 ≤ lane.toNat ∨ x.retired = true ∨ x.fault.getLsbD lane.toNat = true)) ∧
    (∃ (s : State) (g : BitVec 6) (lane : BitVec 5) (x : LaneGroup), s.serves Isl.sm ∧ x = s.eng.laneGroup g.toNat ∧ (17 ≤ lane.toNat ∨ x.retired = true ∨ x.fault.getLsbD lane.toNat = true)) ∧
    (∃ (s : State) (g : BitVec 6) (lane : BitVec 5) (x : LaneGroup), s.serves Isl.sm ∧ x = s.eng.laneGroup g.toNat ∧ lane.toNat < 17 ∧ x.retired = false ∧ x.fault.getLsbD lane.toNat = false ∧ s.eng.ylm.current = none) ∧
    (∃ (s : State) (g : BitVec 6) (lane : BitVec 5) (x : LaneGroup), s.serves Isl.sm ∧ x = s.eng.laneGroup g.toNat ∧ lane.toNat < 17 ∧ x.retired = false ∧ x.fault.getLsbD lane.toNat = false ∧ s.eng.ylm.current = none) ∧
    (∃ (s : State) (purpose : BitVec 8) (c0 : BitVec 32) (c1 : BitVec 32) (site : BitVec 24) (step : BitVec 16) (y : Yealm) (q : Quad), s.receives Isl.sp ∧ (s.eng.evaluate Det.sparReject).1 = false ∧ s.eng.ylm.current = some y ∧ s.eng.flag Fld.spgCtlTileEn = true ∧ (purpose = 0x10#8 ∨ purpose = 0x11#8) ∧ step.toNat = y.step % 65536 ∧ s.eng.siteFits y site.toNat = true ∧ q = tileWords y.step purpose.toNat c0 c1 (site.setWidth 32) y.epoch) ∧
    (∃ (s : State) (purpose : BitVec 8) (c0 : BitVec 32) (c1 : BitVec 32) (site : BitVec 24) (step : BitVec 16) (y : Yealm) (q : Quad), s.receives Isl.sp ∧ (s.eng.evaluate Det.sparReject).1 = false ∧ s.eng.ylm.current = some y ∧ s.eng.flag Fld.spgCtlTileEn = true ∧ (purpose = 0x10#8 ∨ purpose = 0x11#8) ∧ step.toNat = y.step % 65536 ∧ s.eng.siteFits y site.toNat = true ∧ q = tileWords y.step purpose.toNat c0 c1 (site.setWidth 32) y.epoch) ∧
    (∃ (s : State), s.receives Isl.sp ∧ s.eng.ylm.current = none) ∧
    (∃ (s : State), s.serves Isl.sp ∧ s.eng.flag Fld.spgCtlShadowEn = false) ∧
    (∃ (s : State) (active : BitVec 9) (agrees : Bool) (x : SparCore), s.serves Isl.sp ∧ s.eng.flag Fld.spgCtlShadowEn = true ∧ Table.get? s.eng.spg.cores active.toNat = some x ∧ x.active = true ∧ (s.eng.spg.cores.any fun c => c.2.spare) = true ∧ (s.eng.evaluate Det.sparShadow).1 = false ∧ agrees = true) ∧
    (∃ (s : State) (active : BitVec 9) (agrees : Bool) (x : SparCore), s.serves Isl.sp ∧ s.eng.flag Fld.spgCtlShadowEn = true ∧ Table.get? s.eng.spg.cores active.toNat = some x ∧ x.active = true ∧ (s.eng.spg.cores.any fun c => c.2.spare) = true ∧ (s.eng.evaluate Det.sparShadow).1 = false ∧ agrees = false ∧ s.eng.ylm.current = none) ∧
    (∃ (s : State) (busy : Bool) (w : Field → BitVec 32) (q : Quad), s.receives Isl.sp ∧ busy = (((Table.get? s.eng.spg.cores (s.eng.get Fld.spgCoreSelCore)).map (·.active)).getD false && s.eng.ylm.current.isSome && !s.eng.boundaryOpen) ∧ w = (fun f => BitVec.ofNat 32 (s.eng.get f)) ∧ q = spar (w Fld.spgKatKey0K0) (w Fld.spgKatKey1K1) { x0 := w Fld.spgKatCtr0C, x1 := w Fld.spgKatCtr1C, x2 := w Fld.spgKatCtr2C, x3 := w Fld.spgKatCtr3C } ∧ busy = true) ∧
    (∃ (s : State) (busy : Bool) (w : Field → BitVec 32) (q : Quad), s.receives Isl.sp ∧ busy = (((Table.get? s.eng.spg.cores (s.eng.get Fld.spgCoreSelCore)).map (·.active)).getD false && s.eng.ylm.current.isSome && !s.eng.boundaryOpen) ∧ w = (fun f => BitVec.ofNat 32 (s.eng.get f)) ∧ q = spar (w Fld.spgKatKey0K0) (w Fld.spgKatKey1K1) { x0 := w Fld.spgKatCtr0C, x1 := w Fld.spgKatCtr1C, x2 := w Fld.spgKatCtr2C, x3 := w Fld.spgKatCtr3C } ∧ busy = false) :=
  ⟨⟨lit, by unfold State.serves; decide +kernel⟩,
   ⟨sampling (sound yealm7) [], sound yealm7, by unfold Engine.mayReplay State.serves; decide +kernel⟩,
   ⟨lit, by unfold State.serves; decide +kernel⟩,
   ⟨sampling (sound yealm7) [], sound yealm7, by unfold Engine.mayReplay State.serves; decide +kernel⟩,
   ⟨lit, 0, 17, lit.eng.laneGroup 0, by unfold State.serves; decide +kernel⟩,
   ⟨on fun e => { e with smp := { e.smp with groups := [(0, lanes0)] } }, 0, 0, lanes0, by unfold State.serves; decide +kernel⟩,
   ⟨lit, 63, 16, lit.eng.laneGroup 63, by unfold State.serves; decide +kernel⟩,
   ⟨on fun e => { e with smp := { e.smp with groups := [(0, lanes0)] } }, 0, 1, lanes0, by unfold State.serves; decide +kernel⟩,
   ⟨on fun e => (compute yealm7 e).put Fld.spgCtlTileEn 1, 0x11#8, 1, 2, 0x300#24, 7, yealm7, tileWords 7 0x11 1 2 0x300 3, by unfold State.receives State.serves; decide +kernel⟩,
   ⟨on fun e => (compute yealm7 e).put Fld.spgCtlTileEn 1, 0x10#8, 1, 2, 0#24, 7, yealm7, tileWords 7 0x10 1 2 0 3, by unfold State.receives State.serves; decide +kernel⟩,
   ⟨lit, by unfold State.receives State.serves; decide +kernel⟩,
   ⟨on fun e => e.put Fld.spgCtlShadowEn 0, by unfold State.serves; decide +kernel⟩,
   ⟨on sparred, 0, true, sparCore, by unfold State.serves; decide +kernel⟩,
   ⟨on sparred, 0, false, sparCore, by unfold State.serves; decide +kernel⟩,
   ⟨on fun e => sparred (compute yealm7 e), true, fun f => BitVec.ofNat 32 ((sparred (compute yealm7 lit.eng)).get f), spar 0 0 { x0 := 0, x1 := 0, x2 := 0, x3 := 0 }, by unfold State.receives State.serves; exact ⟨by decide +kernel, by decide +kernel, rfl, by decide +kernel, rfl⟩⟩,
   ⟨lit, false, fun f => BitVec.ofNat 32 (lit.eng.get f), spar 0 0 { x0 := 0, x1 := 0, x2 := 0, x3 := 0 }, by unfold State.receives State.serves; exact ⟨by decide +kernel, by decide +kernel, rfl, by decide +kernel, rfl⟩⟩⟩

set_option maxRecDepth 100000 in
theorem met_MovesAreTrackedToTheirEnd :
    (∃ (s : State), s.serves Isl.pg ∧ s.eng.alone ∧ s.eng.pgm.burstTag = none ∧ (s.eng.var.asked = true ∨ s.eng.var.burst = 0 ∨ s.eng.var.active = none ∨ 1024 ≤ s.eng.pgm.moves.length)) ∧
    (∃ (s : State), s.serves Isl.pg ∧ s.eng.alone ∧ 1024 ≤ s.eng.pgm.moves.length) ∧
    (∃ (s : State) (id : Nat) (j : Job), s.serves Isl.pg ∧ s.eng.alone ∧ s.eng.pgm.burstTag = none ∧ s.eng.var.asked = false ∧ 0 < s.eng.var.burst ∧ s.eng.pgm.moves.length < 1024 ∧ s.eng.var.active = some id ∧ (s.eng.var.jobs.find? fun j => j.id == id) = some j) ∧
    (∃ (s : State) (tag : Nat) (k : Nat) (w : WantedMove) (ws : List WantedMove) (e : Engine), s.serves Isl.pg ∧ s.eng.alone ∧ s.eng.pgm.burstTag = some tag ∧ s.eng.pgm.moves.length < 1024 ∧ s.eng.pgm.burst.filter s.seen.canBegin = w :: ws ∧ w.why = .spill ∧ s.eng.takeT2 (s.eng.page w.page).cls = some (k, e)) ∧
    (∃ (s : State) (tag : BitVec 32), s.receives Isl.pg ∧ s.eng.alone ∧ (s.eng.pgm.moves.find? fun m => m.tag == tag.toNat) = none) ∧
    (∃ (s : State) (tag : BitVec 32), s.receives Isl.pg ∧ s.eng.alone ∧ (s.eng.pgm.moves.find? fun m => m.tag == tag.toNat) = none) ∧
    (∃ (s : State) (tag : BitVec 32) (m : Move) (x : Page) (c : Nat), s.receives Isl.pg ∧ s.eng.alone ∧ (s.eng.pgm.moves.find? fun m => m.tag == tag.toNat) = some m ∧ x = s.eng.page m.page ∧ moveCounter m.why = some c ∧ m.why ≠ .copyOnWrite ∧ x.state = .inTransit ∧ x.holders ≠ 0 ∧ (x.before = .openPage ∨ x.before = .full) ∧ (∀ k ∈ s.eng.holdersOf m.page, s.eng.matching k m.page = false)) ∧
    (∃ (s : State) (tag : BitVec 32) (m : Move) (x : Page) (c : Nat), s.receives Isl.pg ∧ s.eng.alone ∧ (s.eng.pgm.moves.find? fun m => m.tag == tag.toNat) = some m ∧ x = s.eng.page m.page ∧ moveCounter m.why = some c ∧ m.why ≠ .copyOnWrite ∧ x.state = .inTransit ∧ x.holders ≠ 0 ∧ (x.before = .openPage ∨ x.before = .full) ∧ (∀ k ∈ s.eng.holdersOf m.page, s.eng.matching k m.page = false)) ∧
    (∃ (s : State) (tag : BitVec 32) (m : Move) (x : Page) (c : Nat), s.receives Isl.pg ∧ s.eng.alone ∧ (s.eng.pgm.moves.find? fun m => m.tag == tag.toNat) = some m ∧ x = s.eng.page m.page ∧ moveCounter m.why = some c ∧ m.why ≠ .copyOnWrite ∧ x.state = .inTransit ∧ x.holders ≠ 0 ∧ (x.before = .openPage ∨ x.before = .full) ∧ (∀ k ∈ s.eng.holdersOf m.page, s.eng.matching k m.page = false)) ∧
    (∃ (s : State) (tag : BitVec 32) (m : Move) (x : Page) (c : Nat), s.receives Isl.pg ∧ s.eng.alone ∧ (s.eng.pgm.moves.find? fun m => m.tag == tag.toNat) = some m ∧ x = s.eng.page m.page ∧ moveCounter m.why = some c ∧ m.why ≠ .copyOnWrite ∧ x.state = .inTransit ∧ x.holders ≠ 0 ∧ (x.before = .openPage ∨ x.before = .full) ∧ (∀ k ∈ s.eng.holdersOf m.page, s.eng.matching k m.page = false)) ∧
    (∃ (s : State) (tag : BitVec 32) (m : Move) (x : Page) (c : Nat), s.receives Isl.pg ∧ s.eng.alone ∧ (s.eng.pgm.moves.find? fun m => m.tag == tag.toNat) = some m ∧ x = s.eng.page m.page ∧ moveCounter m.why = some c ∧ m.why ≠ .copyOnWrite ∧ x.state = .inTransit ∧ x.holders ≠ 0 ∧ (x.before = .openPage ∨ x.before = .full) ∧ (∀ k ∈ s.eng.holdersOf m.page, s.eng.matching k m.page = false)) ∧
    (∃ (s : State) (tag : BitVec 32) (m : Move) (x : Page) (c : Nat), s.receives Isl.pg ∧ s.eng.alone ∧ (s.eng.pgm.moves.find? fun m => m.tag == tag.toNat) = some m ∧ x = s.eng.page m.page ∧ moveCounter m.why = some c ∧ m.why ≠ .copyOnWrite ∧ x.state = .inTransit ∧ x.holders ≠ 0 ∧ (x.before = .openPage ∨ x.before = .full) ∧ (∀ k ∈ s.eng.holdersOf m.page, s.eng.matching k m.page = false) ∧ m.timed = false ∧ m.expired = false) ∧
    (∃ (s : State) (tag : BitVec 32) (m : Move) (x : Page) (c : Nat), s.receives Isl.pg ∧ s.eng.alone ∧ (s.eng.pgm.moves.find? fun m => m.tag == tag.toNat) = some m ∧ x = s.eng.page m.page ∧ moveCounter m.why = some c ∧ m.why ≠ .copyOnWrite ∧ x.state = .inTransit ∧ x.holders ≠ 0 ∧ (x.before = .openPage ∨ x.before = .full) ∧ (∀ k ∈ s.eng.holdersOf m.page, s.eng.matching k m.page = false) ∧ (m.timed = true ∨ m.expired = true)) ∧
    (∃ (s : State) (tag : BitVec 32) (m : Move) (x : Page) (c : Nat), s.receives Isl.pg ∧ s.eng.alone ∧ (s.eng.pgm.moves.find? fun m => m.tag == tag.toNat) = some m ∧ x = s.eng.page m.page ∧ moveCounter m.why = some c ∧ m.why ≠ .copyOnWrite ∧ x.state = .inTransit ∧ x.holders ≠ 0 ∧ (x.before = .openPage ∨ x.before = .full) ∧ (∀ k ∈ s.eng.holdersOf m.page, s.eng.matching k m.page = false) ∧ (m.timed = true ∨ m.expired = true)) ∧
    (∃ (s : State) (p : BitVec 22) (x : Page), s.serves Isl.pg ∧ s.eng.alone ∧ x = s.eng.page p.toNat ∧ (2 ≤ x.tier ∨ s.eng.residentOf p.toNat ≠ 0)) ∧
    (∃ (s : State) (p : BitVec 22) (x : Page), s.serves Isl.pg ∧ s.eng.alone ∧ x = s.eng.page p.toNat ∧ x.tier < 2 ∧ (x.state = .openPage ∨ x.state = .full) ∧ 0 < x.holders ∧ s.eng.holdersOf p.toNat ≠ [] ∧ s.eng.residentOf p.toNat = 0 ∧ (∀ h ∈ s.eng.holdersOf p.toNat, ((s.eng.req? h).map (·.parkedAt)).getD 0 + s.eng.get Fld.pgmSpillDelayS * 1000000000 ≤ s.tb.count) ∧ s.eng.get Fld.pgmSpillDelayS * 1000000000 ≤ s.tb.count ∧ s.eng.hasT2 x.cls = true ∧ s.eng.moving p.toNat = false ∧ s.eng.pgm.burst ≠ []) ∧
    (∃ (s : State) (p : BitVec 22) (x : Page), s.serves Isl.pg ∧ s.eng.alone ∧ x = s.eng.page p.toNat ∧ x.state = .cached ∧ x.pins = 0 ∧ s.eng.get Fld.pgmCacheTtlS ≠ 0 ∧ x.cachedAt + s.eng.get Fld.pgmCacheTtlS * 1000000000 ≤ s.tb.count) ∧
    (∃ (s : State) (p : BitVec 22) (x : Page), s.serves Isl.pg ∧ s.eng.alone ∧ x = s.eng.page p.toNat ∧ x.state = .cached ∧ x.pins = 0 ∧ s.eng.get Fld.pgmCacheTtlS ≠ 0 ∧ s.tb.count < x.cachedAt + s.eng.get Fld.pgmCacheTtlS * 1000000000) ∧
    (∃ (s : State) (job : BitVec 32) (j : Job), s.serves Isl.pg ∧ s.eng.alone ∧ (s.eng.var.jobs.find? fun j => j.id == job.toNat) = some j ∧ j.started = false) ∧
    (∃ (s : State) (job : BitVec 32) (j : Job) (f : Nat), s.serves Isl.pg ∧ s.eng.alone ∧ (s.eng.var.jobs.find? fun j => j.id == job.toNat) = some j ∧ j.started = true ∧ j.what = .family f false) ∧
    (∃ (s : State) (pfx : BitVec 20) (x : PrefixRec) (at_ : Nat), s.serves Isl.pg ∧ s.eng.alone ∧ Table.get? s.eng.var.prefixes pfx.toNat = some x ∧ x.lapse = some at_ ∧ (x.bound ≠ 0 ∨ x.resident = false ∨ s.tb.count < at_)) ∧
    (∃ (s : State) (pfx : BitVec 20) (x : PrefixRec) (at_ : Nat), s.serves Isl.pg ∧ s.eng.alone ∧ Table.get? s.eng.var.prefixes pfx.toNat = some x ∧ x.lapse = some at_ ∧ (x.bound ≠ 0 ∨ x.resident = false ∨ s.tb.count < at_)) ∧
    (∃ (s : State) (pfx : BitVec 20) (x : PrefixRec) (at_ : Nat), s.serves Isl.pg ∧ s.eng.alone ∧ Table.get? s.eng.var.prefixes pfx.toNat = some x ∧ x.lapse = some at_ ∧ x.bound = 0 ∧ x.resident = true ∧ at_ ≤ s.tb.count) :=
  ⟨⟨lit, by unfold Engine.alone State.serves; decide +kernel⟩,
   ⟨on fun e => let e := furnish e; { e with pgm := { e.pgm with moves := List.replicate 1024 move8 } }, by unfold Engine.alone State.serves; decide +kernel⟩,
   ⟨bursting, 6, job6, by unfold Engine.alone State.serves; decide +kernel⟩,
   ⟨spilling page8, 1, 0, spill8, [], (((spilling page8).eng.takeT2 0).map (·.2)).getD lit.eng, by unfold Engine.alone State.serves; decide +kernel⟩,
   ⟨lit, 9, by unfold State.receives Engine.alone State.serves; decide +kernel⟩,
   ⟨lit, 9, by unfold State.receives Engine.alone State.serves; decide +kernel⟩,
   ⟨moving8 move8, 77, move8, { page8 with state := .inTransit }, Cnt.pgmSpill, by unfold State.receives Engine.alone State.serves; decide +kernel⟩,
   ⟨moving8 { move8 with why := .relief, dstTier := 1 }, 77, { move8 with why := .relief, dstTier := 1 }, { page8 with state := .inTransit }, Cnt.pgmDemote, by unfold State.receives Engine.alone State.serves; decide +kernel⟩,
   ⟨moving8 move8, 77, move8, { page8 with state := .inTransit }, Cnt.pgmSpill, by unfold State.receives Engine.alone State.serves; decide +kernel⟩,
   ⟨moving8 move8, 77, move8, { page8 with state := .inTransit }, Cnt.pgmSpill, by unfold State.receives Engine.alone State.serves; decide +kernel⟩,
   ⟨moving8 move8, 77, move8, { page8 with state := .inTransit }, Cnt.pgmSpill, by unfold State.receives Engine.alone State.serves; decide +kernel⟩,
   ⟨moving8 move8, 77, move8, { page8 with state := .inTransit }, Cnt.pgmSpill, by unfold State.receives Engine.alone State.serves; decide +kernel⟩,
   ⟨moving8 { move8 with expired := true }, 77, { move8 with expired := true }, { page8 with state := .inTransit }, Cnt.pgmSpill, by unfold State.receives Engine.alone State.serves; decide +kernel⟩,
   ⟨moving8 { move8 with timed := true }, 77, { move8 with timed := true }, { page8 with state := .inTransit }, Cnt.pgmSpill, by unfold State.receives Engine.alone State.serves; decide +kernel⟩,
   ⟨paged { page8 with tier := 2 }, 8, { page8 with tier := 2 }, by unfold Engine.alone State.serves; decide +kernel⟩,
   ⟨parkedPage, 8, page8, by unfold Engine.alone State.serves; decide +kernel⟩,
   ⟨cachedPage 1000000000, 8, { page8 with state := .cached, holders := 0, cachedAt := 1000000000 }, by unfold Engine.alone State.serves; decide +kernel⟩,
   ⟨cachedPage 1000000001, 8, { page8 with state := .cached, holders := 0, cachedAt := 1000000001 }, by unfold Engine.alone State.serves; decide +kernel⟩,
   ⟨on fun _ => { bursting.eng with var := { bursting.eng.var with jobs := [{ job6 with started := false }] } }, 6, { job6 with started := false }, by unfold Engine.alone State.serves; decide +kernel⟩,
   ⟨bursting, 6, job6, 3, by unfold Engine.alone State.serves; decide +kernel⟩,
   ⟨lapsing { prefix9 with bound := 1, lapse := some 0 }, 9, { prefix9 with bound := 1, lapse := some 0 }, 0, by unfold Engine.alone State.serves; decide +kernel⟩,
   ⟨lapsing { prefix9 with lapse := some 5000000001 }, 9, { prefix9 with lapse := some 5000000001 }, 5000000001, by unfold Engine.alone State.serves; decide +kernel⟩,
   ⟨lapsing { prefix9 with lapse := some 5000000000 }, 9, { prefix9 with lapse := some 5000000000 }, 5000000000, by unfold Engine.alone State.serves; decide +kernel⟩⟩

set_option maxRecDepth 100000 in
theorem met_JoiningAGroup :
    (∃ (s : State) (node : BitVec 16) (h : Option (BitVec 512)) (es : List (BitVec 128)) (e : Engine) (reason : Nat), s.receives Isl.md ∧ e = { s.eng with mdv := { s.eng.mdv with node := node.toNat } } ∧ reason = e.mapReason h es ∧ (s.eng.mdv.joined = true ∨ s.eng.mdv.joining = true)) ∧
    (∃ (s : State) (node : BitVec 16) (h : Option (BitVec 512)) (es : List (BitVec 128)) (e : Engine) (reason : Nat), s.receives Isl.md ∧ e = { s.eng with mdv := { s.eng.mdv with node := node.toNat } } ∧ reason = e.mapReason h es ∧ s.eng.mdv.joined = false ∧ s.eng.mdv.joining = false ∧ s.eng.quiet = false) ∧
    (∃ (s : State) (node : BitVec 16) (h : Option (BitVec 512)) (es : List (BitVec 128)) (e : Engine) (reason : Nat), s.receives Isl.md ∧ e = { s.eng with mdv := { s.eng.mdv with node := node.toNat } } ∧ reason = e.mapReason h es ∧ s.eng.mdv.joined = false ∧ s.eng.mdv.joining = false ∧ s.eng.quiet = true ∧ reason ≠ 0) ∧
    (∃ (s : State) (node : BitVec 16) (h : Option (BitVec 512)) (es : List (BitVec 128)) (e : Engine) (reason : Nat), s.receives Isl.md ∧ e = { s.eng with mdv := { s.eng.mdv with node := node.toNat } } ∧ reason = e.mapReason h es ∧ s.eng.mdv.joined = false ∧ s.eng.mdv.joining = false ∧ s.eng.quiet = true ∧ reason ≠ 0) ∧
    (∃ (s : State) (node : BitVec 16) (h : Option (BitVec 512)) (es : List (BitVec 128)) (e : Engine) (reason : Nat), s.receives Isl.md ∧ e = { s.eng with mdv := { s.eng.mdv with node := node.toNat } } ∧ reason = e.mapReason h es ∧ s.eng.mdv.joined = false ∧ s.eng.mdv.joining = false ∧ s.eng.quiet = true ∧ reason = 0) ∧
    (∃ (s : State) (node : BitVec 16) (h : Option (BitVec 512)) (es : List (BitVec 128)) (e : Engine) (reason : Nat), s.receives Isl.md ∧ e = { s.eng with mdv := { s.eng.mdv with node := node.toNat } } ∧ reason = e.mapReason h es ∧ s.eng.mdv.joined = false ∧ s.eng.mdv.joining = false ∧ s.eng.quiet = true ∧ reason = 0) ∧
    (∃ (s : State), s.serves Isl.md ∧ s.eng.mdv.joining = true ∧ s.eng.mdv.joinAt + s.eng.get Fld.mdvJoinToMs * 1000000 ≤ s.tb.count) ∧
    (∃ (s : State), s.serves Isl.md ∧ (s.eng.mdv.joining = false ∨ s.tb.count < s.eng.mdv.joinAt + s.eng.get Fld.mdvJoinToMs * 1000000)) ∧
    (∃ (s : State) (f : Frame) (check : BitVec 32) (rank : BitVec 9), s.receives Isl.md ∧ s.eng.takes f 0x09 (joinBody check.toNat rank.toNat) ∧ s.eng.mdv.joining = false) ∧
    (∃ (s : State) (f : Frame) (check : BitVec 32) (rank : BitVec 9), s.receives Isl.md ∧ s.eng.takes f 0x09 (joinBody check.toNat rank.toNat) ∧ s.eng.mdv.joining = true ∧ s.eng.mdv.rank ≠ 0) ∧
    (∃ (s : State) (f : Frame) (check : BitVec 32) (rank : BitVec 9), s.receives Isl.md ∧ s.eng.takes f 0x09 (joinBody check.toNat rank.toNat) ∧ s.eng.mdv.joining = true ∧ s.eng.mdv.rank = 0 ∧ check = s.eng.mdv.check ∧ Table.has s.eng.mdv.map rank.toNat = true ∧ (insertNat rank.toNat s.eng.mdv.joins).length ≠ s.eng.mdv.map.length) ∧
    (∃ (s : State) (f : Frame) (check : BitVec 32) (rank : BitVec 9), s.receives Isl.md ∧ s.eng.takes f 0x09 (joinBody check.toNat rank.toNat) ∧ s.eng.mdv.joining = true ∧ s.eng.mdv.rank = 0 ∧ check = s.eng.mdv.check ∧ Table.has s.eng.mdv.map rank.toNat = true ∧ (insertNat rank.toNat s.eng.mdv.joins).length = s.eng.mdv.map.length) ∧
    (∃ (s : State) (check : BitVec 3), s.receives Isl.md ∧ check = 0#3) ∧
    (∃ (s : State) (check : BitVec 3), s.receives Isl.md ∧ check ≠ 0#3) ∧
    (∃ (s : State) (f : Frame) (c : Instr), s.receives Isl.md ∧ ((∃ b, c = .ack f b ∧ s.eng.turnsAway f 0x02 (ackBodyOf b)) ∨ (∃ k b l g, c = .segReport f k b l g ∧ s.eng.turnsAway f 0x03 (segBody k.toNat l.toNat g.toNat b)) ∨ (∃ k b l g, c = .courseStart f k b l g ∧ s.eng.turnsAway f 0x04 (segBody k.toNat l.toNat g.toNat b)) ∨ (∃ p, c = .pageFail f p ∧ s.eng.turnsAway f 0x05 (pageFailBody p.toNat)) ∨ (∃ m r, c = .fenceMessage f m r ∧ s.eng.turnsAway f 0x06 (fenceBody m.toNat r.toNat)) ∨ (c = .probe f ∧ s.eng.turnsAway f 0x07 []) ∨ (∃ a b d g, c = .probeReply f a b d g ∧ s.eng.turnsAway f 0x08 (replyBody a.toNat b.toNat d.toNat g.toNat)) ∨ (∃ k r, c = .join f k r ∧ s.eng.turnsAway f 0x09 (joinBody k.toNat r.toNat)) ∨ (∃ b, c = .abort f b ∧ s.eng.turnsAway f 0x0A (abortBodyOf b)) ∨ (∃ k n p, c = .event f k n p ∧ s.eng.turnsAway f 0x0B (eventBody k.toNat n.toNat p)) ∨ (∃ n, c = .mirrorAck f n ∧ s.eng.turnsAway f 0x0C (mirrorAckBody n.toNat)) ∨ (∃ r l d k i, c = .health f r l d k i ∧ s.eng.turnsAway f 0x0D (healthBody r.toNat l.toNat d.toNat k.toNat i.toNat)) ∨ (∃ l, c = .ops f l ∧ s.eng.turnsAway f 0x10 (opsBody l)) ∨ (∃ l, c = .manifest f l ∧ s.eng.turnsAway f 0x11 l) ∨ (∃ k d l g, c = .tokens f k d l g ∧ s.eng.turnsAway f 0x12 (tokensBytes k.toNat d.toNat l g)) ∨ (∃ n o b m, c = .journal f n o b m ∧ s.eng.turnsAway f 0x13 (journalBody n.toNat o.toNat b m)) ∨ (∃ n r a b d, c = .shadowAck f n r a b d ∧ s.eng.turnsAway f 0x14 (shadowAckBody n.toNat r.toNat (a, b, d))) ∨ (∃ k q i n m x l, c = .state f k q i n m x l ∧ s.eng.turnsAway f 0x15 (stateHead k.toNat q.toNat i.toNat n.toNat m.toNat x ++ l)) ∨ (∃ k v d l, c = .partials f k v d l ∧ s.eng.turnsAway f 0x18 (partialsBody k.toNat v.toNat d.toNat l)))) ∧
    (∃ (s : State) (f : Frame) (c : Instr), s.receives Isl.md ∧ ((∃ b, c = .ack f b ∧ s.eng.turnsAway f 0x02 (ackBodyOf b)) ∨ (∃ k b l g, c = .segReport f k b l g ∧ s.eng.turnsAway f 0x03 (segBody k.toNat l.toNat g.toNat b)) ∨ (∃ k b l g, c = .courseStart f k b l g ∧ s.eng.turnsAway f 0x04 (segBody k.toNat l.toNat g.toNat b)) ∨ (∃ p, c = .pageFail f p ∧ s.eng.turnsAway f 0x05 (pageFailBody p.toNat)) ∨ (∃ m r, c = .fenceMessage f m r ∧ s.eng.turnsAway f 0x06 (fenceBody m.toNat r.toNat)) ∨ (c = .probe f ∧ s.eng.turnsAway f 0x07 []) ∨ (∃ a b d g, c = .probeReply f a b d g ∧ s.eng.turnsAway f 0x08 (replyBody a.toNat b.toNat d.toNat g.toNat)) ∨ (∃ k r, c = .join f k r ∧ s.eng.turnsAway f 0x09 (joinBody k.toNat r.toNat)) ∨ (∃ b, c = .abort f b ∧ s.eng.turnsAway f 0x0A (abortBodyOf b)) ∨ (∃ k n p, c = .event f k n p ∧ s.eng.turnsAway f 0x0B (eventBody k.toNat n.toNat p)) ∨ (∃ n, c = .mirrorAck f n ∧ s.eng.turnsAway f 0x0C (mirrorAckBody n.toNat)) ∨ (∃ r l d k i, c = .health f r l d k i ∧ s.eng.turnsAway f 0x0D (healthBody r.toNat l.toNat d.toNat k.toNat i.toNat)) ∨ (∃ l, c = .ops f l ∧ s.eng.turnsAway f 0x10 (opsBody l)) ∨ (∃ l, c = .manifest f l ∧ s.eng.turnsAway f 0x11 l) ∨ (∃ k d l g, c = .tokens f k d l g ∧ s.eng.turnsAway f 0x12 (tokensBytes k.toNat d.toNat l g)) ∨ (∃ n o b m, c = .journal f n o b m ∧ s.eng.turnsAway f 0x13 (journalBody n.toNat o.toNat b m)) ∨ (∃ n r a b d, c = .shadowAck f n r a b d ∧ s.eng.turnsAway f 0x14 (shadowAckBody n.toNat r.toNat (a, b, d))) ∨ (∃ k q i n m x l, c = .state f k q i n m x l ∧ s.eng.turnsAway f 0x15 (stateHead k.toNat q.toNat i.toNat n.toNat m.toNat x ++ l)) ∨ (∃ k v d l, c = .partials f k v d l ∧ s.eng.turnsAway f 0x18 (partialsBody k.toNat v.toNat d.toNat l)))) ∧
    (∃ (s : State) (f : Frame) (c : Instr), s.receives Isl.md ∧ ((∃ b, c = .ack f b ∧ s.eng.turnsAway f 0x02 (ackBodyOf b)) ∨ (∃ k b l g, c = .segReport f k b l g ∧ s.eng.turnsAway f 0x03 (segBody k.toNat l.toNat g.toNat b)) ∨ (∃ k b l g, c = .courseStart f k b l g ∧ s.eng.turnsAway f 0x04 (segBody k.toNat l.toNat g.toNat b)) ∨ (∃ p, c = .pageFail f p ∧ s.eng.turnsAway f 0x05 (pageFailBody p.toNat)) ∨ (∃ m r, c = .fenceMessage f m r ∧ s.eng.turnsAway f 0x06 (fenceBody m.toNat r.toNat)) ∨ (c = .probe f ∧ s.eng.turnsAway f 0x07 []) ∨ (∃ a b d g, c = .probeReply f a b d g ∧ s.eng.turnsAway f 0x08 (replyBody a.toNat b.toNat d.toNat g.toNat)) ∨ (∃ k r, c = .join f k r ∧ s.eng.turnsAway f 0x09 (joinBody k.toNat r.toNat)) ∨ (∃ b, c = .abort f b ∧ s.eng.turnsAway f 0x0A (abortBodyOf b)) ∨ (∃ k n p, c = .event f k n p ∧ s.eng.turnsAway f 0x0B (eventBody k.toNat n.toNat p)) ∨ (∃ n, c = .mirrorAck f n ∧ s.eng.turnsAway f 0x0C (mirrorAckBody n.toNat)) ∨ (∃ r l d k i, c = .health f r l d k i ∧ s.eng.turnsAway f 0x0D (healthBody r.toNat l.toNat d.toNat k.toNat i.toNat)) ∨ (∃ l, c = .ops f l ∧ s.eng.turnsAway f 0x10 (opsBody l)) ∨ (∃ l, c = .manifest f l ∧ s.eng.turnsAway f 0x11 l) ∨ (∃ k d l g, c = .tokens f k d l g ∧ s.eng.turnsAway f 0x12 (tokensBytes k.toNat d.toNat l g)) ∨ (∃ n o b m, c = .journal f n o b m ∧ s.eng.turnsAway f 0x13 (journalBody n.toNat o.toNat b m)) ∨ (∃ n r a b d, c = .shadowAck f n r a b d ∧ s.eng.turnsAway f 0x14 (shadowAckBody n.toNat r.toNat (a, b, d))) ∨ (∃ k q i n m x l, c = .state f k q i n m x l ∧ s.eng.turnsAway f 0x15 (stateHead k.toNat q.toNat i.toNat n.toNat m.toNat x ++ l)) ∨ (∃ k v d l, c = .partials f k v d l ∧ s.eng.turnsAway f 0x18 (partialsBody k.toNat v.toNat d.toNat l)))) ∧
    (∃ (s : State) (f : Frame) (c : Instr), s.receives Isl.md ∧ ((∃ b, c = .ack f b ∧ s.eng.turnsAway f 0x02 (ackBodyOf b)) ∨ (∃ k b l g, c = .segReport f k b l g ∧ s.eng.turnsAway f 0x03 (segBody k.toNat l.toNat g.toNat b)) ∨ (∃ k b l g, c = .courseStart f k b l g ∧ s.eng.turnsAway f 0x04 (segBody k.toNat l.toNat g.toNat b)) ∨ (∃ p, c = .pageFail f p ∧ s.eng.turnsAway f 0x05 (pageFailBody p.toNat)) ∨ (∃ m r, c = .fenceMessage f m r ∧ s.eng.turnsAway f 0x06 (fenceBody m.toNat r.toNat)) ∨ (c = .probe f ∧ s.eng.turnsAway f 0x07 []) ∨ (∃ a b d g, c = .probeReply f a b d g ∧ s.eng.turnsAway f 0x08 (replyBody a.toNat b.toNat d.toNat g.toNat)) ∨ (∃ k r, c = .join f k r ∧ s.eng.turnsAway f 0x09 (joinBody k.toNat r.toNat)) ∨ (∃ b, c = .abort f b ∧ s.eng.turnsAway f 0x0A (abortBodyOf b)) ∨ (∃ k n p, c = .event f k n p ∧ s.eng.turnsAway f 0x0B (eventBody k.toNat n.toNat p)) ∨ (∃ n, c = .mirrorAck f n ∧ s.eng.turnsAway f 0x0C (mirrorAckBody n.toNat)) ∨ (∃ r l d k i, c = .health f r l d k i ∧ s.eng.turnsAway f 0x0D (healthBody r.toNat l.toNat d.toNat k.toNat i.toNat)) ∨ (∃ l, c = .ops f l ∧ s.eng.turnsAway f 0x10 (opsBody l)) ∨ (∃ l, c = .manifest f l ∧ s.eng.turnsAway f 0x11 l) ∨ (∃ k d l g, c = .tokens f k d l g ∧ s.eng.turnsAway f 0x12 (tokensBytes k.toNat d.toNat l g)) ∨ (∃ n o b m, c = .journal f n o b m ∧ s.eng.turnsAway f 0x13 (journalBody n.toNat o.toNat b m)) ∨ (∃ n r a b d, c = .shadowAck f n r a b d ∧ s.eng.turnsAway f 0x14 (shadowAckBody n.toNat r.toNat (a, b, d))) ∨ (∃ k q i n m x l, c = .state f k q i n m x l ∧ s.eng.turnsAway f 0x15 (stateHead k.toNat q.toNat i.toNat n.toNat m.toNat x ++ l)) ∨ (∃ k v d l, c = .partials f k v d l ∧ s.eng.turnsAway f 0x18 (partialsBody k.toNat v.toNat d.toNat l)))) ∧
    (∃ (s : State) (f : Frame) (c : Instr), s.receives Isl.md ∧ ((∃ b, c = .ack f b ∧ s.eng.turnsAway f 0x02 (ackBodyOf b)) ∨ (∃ k b l g, c = .segReport f k b l g ∧ s.eng.turnsAway f 0x03 (segBody k.toNat l.toNat g.toNat b)) ∨ (∃ k b l g, c = .courseStart f k b l g ∧ s.eng.turnsAway f 0x04 (segBody k.toNat l.toNat g.toNat b)) ∨ (∃ p, c = .pageFail f p ∧ s.eng.turnsAway f 0x05 (pageFailBody p.toNat)) ∨ (∃ m r, c = .fenceMessage f m r ∧ s.eng.turnsAway f 0x06 (fenceBody m.toNat r.toNat)) ∨ (c = .probe f ∧ s.eng.turnsAway f 0x07 []) ∨ (∃ a b d g, c = .probeReply f a b d g ∧ s.eng.turnsAway f 0x08 (replyBody a.toNat b.toNat d.toNat g.toNat)) ∨ (∃ k r, c = .join f k r ∧ s.eng.turnsAway f 0x09 (joinBody k.toNat r.toNat)) ∨ (∃ b, c = .abort f b ∧ s.eng.turnsAway f 0x0A (abortBodyOf b)) ∨ (∃ k n p, c = .event f k n p ∧ s.eng.turnsAway f 0x0B (eventBody k.toNat n.toNat p)) ∨ (∃ n, c = .mirrorAck f n ∧ s.eng.turnsAway f 0x0C (mirrorAckBody n.toNat)) ∨ (∃ r l d k i, c = .health f r l d k i ∧ s.eng.turnsAway f 0x0D (healthBody r.toNat l.toNat d.toNat k.toNat i.toNat)) ∨ (∃ l, c = .ops f l ∧ s.eng.turnsAway f 0x10 (opsBody l)) ∨ (∃ l, c = .manifest f l ∧ s.eng.turnsAway f 0x11 l) ∨ (∃ k d l g, c = .tokens f k d l g ∧ s.eng.turnsAway f 0x12 (tokensBytes k.toNat d.toNat l g)) ∨ (∃ n o b m, c = .journal f n o b m ∧ s.eng.turnsAway f 0x13 (journalBody n.toNat o.toNat b m)) ∨ (∃ n r a b d, c = .shadowAck f n r a b d ∧ s.eng.turnsAway f 0x14 (shadowAckBody n.toNat r.toNat (a, b, d))) ∨ (∃ k q i n m x l, c = .state f k q i n m x l ∧ s.eng.turnsAway f 0x15 (stateHead k.toNat q.toNat i.toNat n.toNat m.toNat x ++ l)) ∨ (∃ k v d l, c = .partials f k v d l ∧ s.eng.turnsAway f 0x18 (partialsBody k.toNat v.toNat d.toNat l)))) ∧
    (∃ (s : State) (f : Frame) (c : Instr), s.receives Isl.md ∧ ((∃ b, c = .ack f b ∧ s.eng.turnsAway f 0x02 (ackBodyOf b)) ∨ (∃ k b l g, c = .segReport f k b l g ∧ s.eng.turnsAway f 0x03 (segBody k.toNat l.toNat g.toNat b)) ∨ (∃ k b l g, c = .courseStart f k b l g ∧ s.eng.turnsAway f 0x04 (segBody k.toNat l.toNat g.toNat b)) ∨ (∃ p, c = .pageFail f p ∧ s.eng.turnsAway f 0x05 (pageFailBody p.toNat)) ∨ (∃ m r, c = .fenceMessage f m r ∧ s.eng.turnsAway f 0x06 (fenceBody m.toNat r.toNat)) ∨ (c = .probe f ∧ s.eng.turnsAway f 0x07 []) ∨ (∃ a b d g, c = .probeReply f a b d g ∧ s.eng.turnsAway f 0x08 (replyBody a.toNat b.toNat d.toNat g.toNat)) ∨ (∃ k r, c = .join f k r ∧ s.eng.turnsAway f 0x09 (joinBody k.toNat r.toNat)) ∨ (∃ b, c = .abort f b ∧ s.eng.turnsAway f 0x0A (abortBodyOf b)) ∨ (∃ k n p, c = .event f k n p ∧ s.eng.turnsAway f 0x0B (eventBody k.toNat n.toNat p)) ∨ (∃ n, c = .mirrorAck f n ∧ s.eng.turnsAway f 0x0C (mirrorAckBody n.toNat)) ∨ (∃ r l d k i, c = .health f r l d k i ∧ s.eng.turnsAway f 0x0D (healthBody r.toNat l.toNat d.toNat k.toNat i.toNat)) ∨ (∃ l, c = .ops f l ∧ s.eng.turnsAway f 0x10 (opsBody l)) ∨ (∃ l, c = .manifest f l ∧ s.eng.turnsAway f 0x11 l) ∨ (∃ k d l g, c = .tokens f k d l g ∧ s.eng.turnsAway f 0x12 (tokensBytes k.toNat d.toNat l g)) ∨ (∃ n o b m, c = .journal f n o b m ∧ s.eng.turnsAway f 0x13 (journalBody n.toNat o.toNat b m)) ∨ (∃ n r a b d, c = .shadowAck f n r a b d ∧ s.eng.turnsAway f 0x14 (shadowAckBody n.toNat r.toNat (a, b, d))) ∨ (∃ k q i n m x l, c = .state f k q i n m x l ∧ s.eng.turnsAway f 0x15 (stateHead k.toNat q.toNat i.toNat n.toNat m.toNat x ++ l)) ∨ (∃ k v d l, c = .partials f k v d l ∧ s.eng.turnsAway f 0x18 (partialsBody k.toNat v.toNat d.toNat l)))) ∧
    (∃ (s : State) (f : Frame) (c : Instr), s.receives Isl.md ∧ ((∃ b, c = .ack f b ∧ s.eng.turnsAway f 0x02 (ackBodyOf b)) ∨ (∃ k b l g, c = .segReport f k b l g ∧ s.eng.turnsAway f 0x03 (segBody k.toNat l.toNat g.toNat b)) ∨ (∃ k b l g, c = .courseStart f k b l g ∧ s.eng.turnsAway f 0x04 (segBody k.toNat l.toNat g.toNat b)) ∨ (∃ p, c = .pageFail f p ∧ s.eng.turnsAway f 0x05 (pageFailBody p.toNat)) ∨ (∃ m r, c = .fenceMessage f m r ∧ s.eng.turnsAway f 0x06 (fenceBody m.toNat r.toNat)) ∨ (c = .probe f ∧ s.eng.turnsAway f 0x07 []) ∨ (∃ a b d g, c = .probeReply f a b d g ∧ s.eng.turnsAway f 0x08 (replyBody a.toNat b.toNat d.toNat g.toNat)) ∨ (∃ k r, c = .join f k r ∧ s.eng.turnsAway f 0x09 (joinBody k.toNat r.toNat)) ∨ (∃ b, c = .abort f b ∧ s.eng.turnsAway f 0x0A (abortBodyOf b)) ∨ (∃ k n p, c = .event f k n p ∧ s.eng.turnsAway f 0x0B (eventBody k.toNat n.toNat p)) ∨ (∃ n, c = .mirrorAck f n ∧ s.eng.turnsAway f 0x0C (mirrorAckBody n.toNat)) ∨ (∃ r l d k i, c = .health f r l d k i ∧ s.eng.turnsAway f 0x0D (healthBody r.toNat l.toNat d.toNat k.toNat i.toNat)) ∨ (∃ l, c = .ops f l ∧ s.eng.turnsAway f 0x10 (opsBody l)) ∨ (∃ l, c = .manifest f l ∧ s.eng.turnsAway f 0x11 l) ∨ (∃ k d l g, c = .tokens f k d l g ∧ s.eng.turnsAway f 0x12 (tokensBytes k.toNat d.toNat l g)) ∨ (∃ n o b m, c = .journal f n o b m ∧ s.eng.turnsAway f 0x13 (journalBody n.toNat o.toNat b m)) ∨ (∃ n r a b d, c = .shadowAck f n r a b d ∧ s.eng.turnsAway f 0x14 (shadowAckBody n.toNat r.toNat (a, b, d))) ∨ (∃ k q i n m x l, c = .state f k q i n m x l ∧ s.eng.turnsAway f 0x15 (stateHead k.toNat q.toNat i.toNat n.toNat m.toNat x ++ l)) ∨ (∃ k v d l, c = .partials f k v d l ∧ s.eng.turnsAway f 0x18 (partialsBody k.toNat v.toNat d.toNat l)))) ∧
    (∃ (s : State) (f : Frame) (c : Instr), s.receives Isl.md ∧ ((∃ b, c = .ack f b ∧ s.eng.turnsAway f 0x02 (ackBodyOf b)) ∨ (∃ k b l g, c = .segReport f k b l g ∧ s.eng.turnsAway f 0x03 (segBody k.toNat l.toNat g.toNat b)) ∨ (∃ k b l g, c = .courseStart f k b l g ∧ s.eng.turnsAway f 0x04 (segBody k.toNat l.toNat g.toNat b)) ∨ (∃ p, c = .pageFail f p ∧ s.eng.turnsAway f 0x05 (pageFailBody p.toNat)) ∨ (∃ m r, c = .fenceMessage f m r ∧ s.eng.turnsAway f 0x06 (fenceBody m.toNat r.toNat)) ∨ (c = .probe f ∧ s.eng.turnsAway f 0x07 []) ∨ (∃ a b d g, c = .probeReply f a b d g ∧ s.eng.turnsAway f 0x08 (replyBody a.toNat b.toNat d.toNat g.toNat)) ∨ (∃ k r, c = .join f k r ∧ s.eng.turnsAway f 0x09 (joinBody k.toNat r.toNat)) ∨ (∃ b, c = .abort f b ∧ s.eng.turnsAway f 0x0A (abortBodyOf b)) ∨ (∃ k n p, c = .event f k n p ∧ s.eng.turnsAway f 0x0B (eventBody k.toNat n.toNat p)) ∨ (∃ n, c = .mirrorAck f n ∧ s.eng.turnsAway f 0x0C (mirrorAckBody n.toNat)) ∨ (∃ r l d k i, c = .health f r l d k i ∧ s.eng.turnsAway f 0x0D (healthBody r.toNat l.toNat d.toNat k.toNat i.toNat)) ∨ (∃ l, c = .ops f l ∧ s.eng.turnsAway f 0x10 (opsBody l)) ∨ (∃ l, c = .manifest f l ∧ s.eng.turnsAway f 0x11 l) ∨ (∃ k d l g, c = .tokens f k d l g ∧ s.eng.turnsAway f 0x12 (tokensBytes k.toNat d.toNat l g)) ∨ (∃ n o b m, c = .journal f n o b m ∧ s.eng.turnsAway f 0x13 (journalBody n.toNat o.toNat b m)) ∨ (∃ n r a b d, c = .shadowAck f n r a b d ∧ s.eng.turnsAway f 0x14 (shadowAckBody n.toNat r.toNat (a, b, d))) ∨ (∃ k q i n m x l, c = .state f k q i n m x l ∧ s.eng.turnsAway f 0x15 (stateHead k.toNat q.toNat i.toNat n.toNat m.toNat x ++ l)) ∨ (∃ k v d l, c = .partials f k v d l ∧ s.eng.turnsAway f 0x18 (partialsBody k.toNat v.toNat d.toNat l)))) ∧
    (∃ (s : State) (f : Frame) (c : Instr), s.receives Isl.md ∧ ((∃ b, c = .ack f b ∧ s.eng.turnsAway f 0x02 (ackBodyOf b)) ∨ (∃ k b l g, c = .segReport f k b l g ∧ s.eng.turnsAway f 0x03 (segBody k.toNat l.toNat g.toNat b)) ∨ (∃ k b l g, c = .courseStart f k b l g ∧ s.eng.turnsAway f 0x04 (segBody k.toNat l.toNat g.toNat b)) ∨ (∃ p, c = .pageFail f p ∧ s.eng.turnsAway f 0x05 (pageFailBody p.toNat)) ∨ (∃ m r, c = .fenceMessage f m r ∧ s.eng.turnsAway f 0x06 (fenceBody m.toNat r.toNat)) ∨ (c = .probe f ∧ s.eng.turnsAway f 0x07 []) ∨ (∃ a b d g, c = .probeReply f a b d g ∧ s.eng.turnsAway f 0x08 (replyBody a.toNat b.toNat d.toNat g.toNat)) ∨ (∃ k r, c = .join f k r ∧ s.eng.turnsAway f 0x09 (joinBody k.toNat r.toNat)) ∨ (∃ b, c = .abort f b ∧ s.eng.turnsAway f 0x0A (abortBodyOf b)) ∨ (∃ k n p, c = .event f k n p ∧ s.eng.turnsAway f 0x0B (eventBody k.toNat n.toNat p)) ∨ (∃ n, c = .mirrorAck f n ∧ s.eng.turnsAway f 0x0C (mirrorAckBody n.toNat)) ∨ (∃ r l d k i, c = .health f r l d k i ∧ s.eng.turnsAway f 0x0D (healthBody r.toNat l.toNat d.toNat k.toNat i.toNat)) ∨ (∃ l, c = .ops f l ∧ s.eng.turnsAway f 0x10 (opsBody l)) ∨ (∃ l, c = .manifest f l ∧ s.eng.turnsAway f 0x11 l) ∨ (∃ k d l g, c = .tokens f k d l g ∧ s.eng.turnsAway f 0x12 (tokensBytes k.toNat d.toNat l g)) ∨ (∃ n o b m, c = .journal f n o b m ∧ s.eng.turnsAway f 0x13 (journalBody n.toNat o.toNat b m)) ∨ (∃ n r a b d, c = .shadowAck f n r a b d ∧ s.eng.turnsAway f 0x14 (shadowAckBody n.toNat r.toNat (a, b, d))) ∨ (∃ k q i n m x l, c = .state f k q i n m x l ∧ s.eng.turnsAway f 0x15 (stateHead k.toNat q.toNat i.toNat n.toNat m.toNat x ++ l)) ∨ (∃ k v d l, c = .partials f k v d l ∧ s.eng.turnsAway f 0x18 (partialsBody k.toNat v.toNat d.toNat l)))) ∧
    (∃ (s : State) (f : Frame) (c : Instr), s.receives Isl.md ∧ ((∃ b, c = .ack f b ∧ s.eng.turnsAway f 0x02 (ackBodyOf b)) ∨ (∃ k b l g, c = .segReport f k b l g ∧ s.eng.turnsAway f 0x03 (segBody k.toNat l.toNat g.toNat b)) ∨ (∃ k b l g, c = .courseStart f k b l g ∧ s.eng.turnsAway f 0x04 (segBody k.toNat l.toNat g.toNat b)) ∨ (∃ p, c = .pageFail f p ∧ s.eng.turnsAway f 0x05 (pageFailBody p.toNat)) ∨ (∃ m r, c = .fenceMessage f m r ∧ s.eng.turnsAway f 0x06 (fenceBody m.toNat r.toNat)) ∨ (c = .probe f ∧ s.eng.turnsAway f 0x07 []) ∨ (∃ a b d g, c = .probeReply f a b d g ∧ s.eng.turnsAway f 0x08 (replyBody a.toNat b.toNat d.toNat g.toNat)) ∨ (∃ k r, c = .join f k r ∧ s.eng.turnsAway f 0x09 (joinBody k.toNat r.toNat)) ∨ (∃ b, c = .abort f b ∧ s.eng.turnsAway f 0x0A (abortBodyOf b)) ∨ (∃ k n p, c = .event f k n p ∧ s.eng.turnsAway f 0x0B (eventBody k.toNat n.toNat p)) ∨ (∃ n, c = .mirrorAck f n ∧ s.eng.turnsAway f 0x0C (mirrorAckBody n.toNat)) ∨ (∃ r l d k i, c = .health f r l d k i ∧ s.eng.turnsAway f 0x0D (healthBody r.toNat l.toNat d.toNat k.toNat i.toNat)) ∨ (∃ l, c = .ops f l ∧ s.eng.turnsAway f 0x10 (opsBody l)) ∨ (∃ l, c = .manifest f l ∧ s.eng.turnsAway f 0x11 l) ∨ (∃ k d l g, c = .tokens f k d l g ∧ s.eng.turnsAway f 0x12 (tokensBytes k.toNat d.toNat l g)) ∨ (∃ n o b m, c = .journal f n o b m ∧ s.eng.turnsAway f 0x13 (journalBody n.toNat o.toNat b m)) ∨ (∃ n r a b d, c = .shadowAck f n r a b d ∧ s.eng.turnsAway f 0x14 (shadowAckBody n.toNat r.toNat (a, b, d))) ∨ (∃ k q i n m x l, c = .state f k q i n m x l ∧ s.eng.turnsAway f 0x15 (stateHead k.toNat q.toNat i.toNat n.toNat m.toNat x ++ l)) ∨ (∃ k v d l, c = .partials f k v d l ∧ s.eng.turnsAway f 0x18 (partialsBody k.toNat v.toNat d.toNat l)))) ∧
    (∃ (s : State) (f : Frame) (c : Instr), s.receives Isl.md ∧ ((∃ b, c = .ack f b ∧ s.eng.turnsAway f 0x02 (ackBodyOf b)) ∨ (∃ k b l g, c = .segReport f k b l g ∧ s.eng.turnsAway f 0x03 (segBody k.toNat l.toNat g.toNat b)) ∨ (∃ k b l g, c = .courseStart f k b l g ∧ s.eng.turnsAway f 0x04 (segBody k.toNat l.toNat g.toNat b)) ∨ (∃ p, c = .pageFail f p ∧ s.eng.turnsAway f 0x05 (pageFailBody p.toNat)) ∨ (∃ m r, c = .fenceMessage f m r ∧ s.eng.turnsAway f 0x06 (fenceBody m.toNat r.toNat)) ∨ (c = .probe f ∧ s.eng.turnsAway f 0x07 []) ∨ (∃ a b d g, c = .probeReply f a b d g ∧ s.eng.turnsAway f 0x08 (replyBody a.toNat b.toNat d.toNat g.toNat)) ∨ (∃ k r, c = .join f k r ∧ s.eng.turnsAway f 0x09 (joinBody k.toNat r.toNat)) ∨ (∃ b, c = .abort f b ∧ s.eng.turnsAway f 0x0A (abortBodyOf b)) ∨ (∃ k n p, c = .event f k n p ∧ s.eng.turnsAway f 0x0B (eventBody k.toNat n.toNat p)) ∨ (∃ n, c = .mirrorAck f n ∧ s.eng.turnsAway f 0x0C (mirrorAckBody n.toNat)) ∨ (∃ r l d k i, c = .health f r l d k i ∧ s.eng.turnsAway f 0x0D (healthBody r.toNat l.toNat d.toNat k.toNat i.toNat)) ∨ (∃ l, c = .ops f l ∧ s.eng.turnsAway f 0x10 (opsBody l)) ∨ (∃ l, c = .manifest f l ∧ s.eng.turnsAway f 0x11 l) ∨ (∃ k d l g, c = .tokens f k d l g ∧ s.eng.turnsAway f 0x12 (tokensBytes k.toNat d.toNat l g)) ∨ (∃ n o b m, c = .journal f n o b m ∧ s.eng.turnsAway f 0x13 (journalBody n.toNat o.toNat b m)) ∨ (∃ n r a b d, c = .shadowAck f n r a b d ∧ s.eng.turnsAway f 0x14 (shadowAckBody n.toNat r.toNat (a, b, d))) ∨ (∃ k q i n m x l, c = .state f k q i n m x l ∧ s.eng.turnsAway f 0x15 (stateHead k.toNat q.toNat i.toNat n.toNat m.toNat x ++ l)) ∨ (∃ k v d l, c = .partials f k v d l ∧ s.eng.turnsAway f 0x18 (partialsBody k.toNat v.toNat d.toNat l)))) ∧
    (∃ (s : State) (f : Frame) (c : Instr), s.receives Isl.md ∧ ((∃ b, c = .ack f b ∧ s.eng.turnsAway f 0x02 (ackBodyOf b)) ∨ (∃ k b l g, c = .segReport f k b l g ∧ s.eng.turnsAway f 0x03 (segBody k.toNat l.toNat g.toNat b)) ∨ (∃ k b l g, c = .courseStart f k b l g ∧ s.eng.turnsAway f 0x04 (segBody k.toNat l.toNat g.toNat b)) ∨ (∃ p, c = .pageFail f p ∧ s.eng.turnsAway f 0x05 (pageFailBody p.toNat)) ∨ (∃ m r, c = .fenceMessage f m r ∧ s.eng.turnsAway f 0x06 (fenceBody m.toNat r.toNat)) ∨ (c = .probe f ∧ s.eng.turnsAway f 0x07 []) ∨ (∃ a b d g, c = .probeReply f a b d g ∧ s.eng.turnsAway f 0x08 (replyBody a.toNat b.toNat d.toNat g.toNat)) ∨ (∃ k r, c = .join f k r ∧ s.eng.turnsAway f 0x09 (joinBody k.toNat r.toNat)) ∨ (∃ b, c = .abort f b ∧ s.eng.turnsAway f 0x0A (abortBodyOf b)) ∨ (∃ k n p, c = .event f k n p ∧ s.eng.turnsAway f 0x0B (eventBody k.toNat n.toNat p)) ∨ (∃ n, c = .mirrorAck f n ∧ s.eng.turnsAway f 0x0C (mirrorAckBody n.toNat)) ∨ (∃ r l d k i, c = .health f r l d k i ∧ s.eng.turnsAway f 0x0D (healthBody r.toNat l.toNat d.toNat k.toNat i.toNat)) ∨ (∃ l, c = .ops f l ∧ s.eng.turnsAway f 0x10 (opsBody l)) ∨ (∃ l, c = .manifest f l ∧ s.eng.turnsAway f 0x11 l) ∨ (∃ k d l g, c = .tokens f k d l g ∧ s.eng.turnsAway f 0x12 (tokensBytes k.toNat d.toNat l g)) ∨ (∃ n o b m, c = .journal f n o b m ∧ s.eng.turnsAway f 0x13 (journalBody n.toNat o.toNat b m)) ∨ (∃ n r a b d, c = .shadowAck f n r a b d ∧ s.eng.turnsAway f 0x14 (shadowAckBody n.toNat r.toNat (a, b, d))) ∨ (∃ k q i n m x l, c = .state f k q i n m x l ∧ s.eng.turnsAway f 0x15 (stateHead k.toNat q.toNat i.toNat n.toNat m.toNat x ++ l)) ∨ (∃ k v d l, c = .partials f k v d l ∧ s.eng.turnsAway f 0x18 (partialsBody k.toNat v.toNat d.toNat l)))) ∧
    (∃ (s : State) (f : Frame) (c : Instr), s.receives Isl.md ∧ ((∃ b, c = .ack f b ∧ s.eng.turnsAway f 0x02 (ackBodyOf b)) ∨ (∃ k b l g, c = .segReport f k b l g ∧ s.eng.turnsAway f 0x03 (segBody k.toNat l.toNat g.toNat b)) ∨ (∃ k b l g, c = .courseStart f k b l g ∧ s.eng.turnsAway f 0x04 (segBody k.toNat l.toNat g.toNat b)) ∨ (∃ p, c = .pageFail f p ∧ s.eng.turnsAway f 0x05 (pageFailBody p.toNat)) ∨ (∃ m r, c = .fenceMessage f m r ∧ s.eng.turnsAway f 0x06 (fenceBody m.toNat r.toNat)) ∨ (c = .probe f ∧ s.eng.turnsAway f 0x07 []) ∨ (∃ a b d g, c = .probeReply f a b d g ∧ s.eng.turnsAway f 0x08 (replyBody a.toNat b.toNat d.toNat g.toNat)) ∨ (∃ k r, c = .join f k r ∧ s.eng.turnsAway f 0x09 (joinBody k.toNat r.toNat)) ∨ (∃ b, c = .abort f b ∧ s.eng.turnsAway f 0x0A (abortBodyOf b)) ∨ (∃ k n p, c = .event f k n p ∧ s.eng.turnsAway f 0x0B (eventBody k.toNat n.toNat p)) ∨ (∃ n, c = .mirrorAck f n ∧ s.eng.turnsAway f 0x0C (mirrorAckBody n.toNat)) ∨ (∃ r l d k i, c = .health f r l d k i ∧ s.eng.turnsAway f 0x0D (healthBody r.toNat l.toNat d.toNat k.toNat i.toNat)) ∨ (∃ l, c = .ops f l ∧ s.eng.turnsAway f 0x10 (opsBody l)) ∨ (∃ l, c = .manifest f l ∧ s.eng.turnsAway f 0x11 l) ∨ (∃ k d l g, c = .tokens f k d l g ∧ s.eng.turnsAway f 0x12 (tokensBytes k.toNat d.toNat l g)) ∨ (∃ n o b m, c = .journal f n o b m ∧ s.eng.turnsAway f 0x13 (journalBody n.toNat o.toNat b m)) ∨ (∃ n r a b d, c = .shadowAck f n r a b d ∧ s.eng.turnsAway f 0x14 (shadowAckBody n.toNat r.toNat (a, b, d))) ∨ (∃ k q i n m x l, c = .state f k q i n m x l ∧ s.eng.turnsAway f 0x15 (stateHead k.toNat q.toNat i.toNat n.toNat m.toNat x ++ l)) ∨ (∃ k v d l, c = .partials f k v d l ∧ s.eng.turnsAway f 0x18 (partialsBody k.toNat v.toNat d.toNat l)))) ∧
    (∃ (s : State) (f : Frame) (c : Instr), s.receives Isl.md ∧ ((∃ b, c = .ack f b ∧ s.eng.turnsAway f 0x02 (ackBodyOf b)) ∨ (∃ k b l g, c = .segReport f k b l g ∧ s.eng.turnsAway f 0x03 (segBody k.toNat l.toNat g.toNat b)) ∨ (∃ k b l g, c = .courseStart f k b l g ∧ s.eng.turnsAway f 0x04 (segBody k.toNat l.toNat g.toNat b)) ∨ (∃ p, c = .pageFail f p ∧ s.eng.turnsAway f 0x05 (pageFailBody p.toNat)) ∨ (∃ m r, c = .fenceMessage f m r ∧ s.eng.turnsAway f 0x06 (fenceBody m.toNat r.toNat)) ∨ (c = .probe f ∧ s.eng.turnsAway f 0x07 []) ∨ (∃ a b d g, c = .probeReply f a b d g ∧ s.eng.turnsAway f 0x08 (replyBody a.toNat b.toNat d.toNat g.toNat)) ∨ (∃ k r, c = .join f k r ∧ s.eng.turnsAway f 0x09 (joinBody k.toNat r.toNat)) ∨ (∃ b, c = .abort f b ∧ s.eng.turnsAway f 0x0A (abortBodyOf b)) ∨ (∃ k n p, c = .event f k n p ∧ s.eng.turnsAway f 0x0B (eventBody k.toNat n.toNat p)) ∨ (∃ n, c = .mirrorAck f n ∧ s.eng.turnsAway f 0x0C (mirrorAckBody n.toNat)) ∨ (∃ r l d k i, c = .health f r l d k i ∧ s.eng.turnsAway f 0x0D (healthBody r.toNat l.toNat d.toNat k.toNat i.toNat)) ∨ (∃ l, c = .ops f l ∧ s.eng.turnsAway f 0x10 (opsBody l)) ∨ (∃ l, c = .manifest f l ∧ s.eng.turnsAway f 0x11 l) ∨ (∃ k d l g, c = .tokens f k d l g ∧ s.eng.turnsAway f 0x12 (tokensBytes k.toNat d.toNat l g)) ∨ (∃ n o b m, c = .journal f n o b m ∧ s.eng.turnsAway f 0x13 (journalBody n.toNat o.toNat b m)) ∨ (∃ n r a b d, c = .shadowAck f n r a b d ∧ s.eng.turnsAway f 0x14 (shadowAckBody n.toNat r.toNat (a, b, d))) ∨ (∃ k q i n m x l, c = .state f k q i n m x l ∧ s.eng.turnsAway f 0x15 (stateHead k.toNat q.toNat i.toNat n.toNat m.toNat x ++ l)) ∨ (∃ k v d l, c = .partials f k v d l ∧ s.eng.turnsAway f 0x18 (partialsBody k.toNat v.toNat d.toNat l)))) ∧
    (∃ (s : State) (f : Frame) (c : Instr), s.receives Isl.md ∧ ((∃ b, c = .ack f b ∧ s.eng.turnsAway f 0x02 (ackBodyOf b)) ∨ (∃ k b l g, c = .segReport f k b l g ∧ s.eng.turnsAway f 0x03 (segBody k.toNat l.toNat g.toNat b)) ∨ (∃ k b l g, c = .courseStart f k b l g ∧ s.eng.turnsAway f 0x04 (segBody k.toNat l.toNat g.toNat b)) ∨ (∃ p, c = .pageFail f p ∧ s.eng.turnsAway f 0x05 (pageFailBody p.toNat)) ∨ (∃ m r, c = .fenceMessage f m r ∧ s.eng.turnsAway f 0x06 (fenceBody m.toNat r.toNat)) ∨ (c = .probe f ∧ s.eng.turnsAway f 0x07 []) ∨ (∃ a b d g, c = .probeReply f a b d g ∧ s.eng.turnsAway f 0x08 (replyBody a.toNat b.toNat d.toNat g.toNat)) ∨ (∃ k r, c = .join f k r ∧ s.eng.turnsAway f 0x09 (joinBody k.toNat r.toNat)) ∨ (∃ b, c = .abort f b ∧ s.eng.turnsAway f 0x0A (abortBodyOf b)) ∨ (∃ k n p, c = .event f k n p ∧ s.eng.turnsAway f 0x0B (eventBody k.toNat n.toNat p)) ∨ (∃ n, c = .mirrorAck f n ∧ s.eng.turnsAway f 0x0C (mirrorAckBody n.toNat)) ∨ (∃ r l d k i, c = .health f r l d k i ∧ s.eng.turnsAway f 0x0D (healthBody r.toNat l.toNat d.toNat k.toNat i.toNat)) ∨ (∃ l, c = .ops f l ∧ s.eng.turnsAway f 0x10 (opsBody l)) ∨ (∃ l, c = .manifest f l ∧ s.eng.turnsAway f 0x11 l) ∨ (∃ k d l g, c = .tokens f k d l g ∧ s.eng.turnsAway f 0x12 (tokensBytes k.toNat d.toNat l g)) ∨ (∃ n o b m, c = .journal f n o b m ∧ s.eng.turnsAway f 0x13 (journalBody n.toNat o.toNat b m)) ∨ (∃ n r a b d, c = .shadowAck f n r a b d ∧ s.eng.turnsAway f 0x14 (shadowAckBody n.toNat r.toNat (a, b, d))) ∨ (∃ k q i n m x l, c = .state f k q i n m x l ∧ s.eng.turnsAway f 0x15 (stateHead k.toNat q.toNat i.toNat n.toNat m.toNat x ++ l)) ∨ (∃ k v d l, c = .partials f k v d l ∧ s.eng.turnsAway f 0x18 (partialsBody k.toNat v.toNat d.toNat l)))) ∧
    (∃ (s : State) (f : Frame) (c : Instr), s.receives Isl.md ∧ ((∃ b, c = .ack f b ∧ s.eng.turnsAway f 0x02 (ackBodyOf b)) ∨ (∃ k b l g, c = .segReport f k b l g ∧ s.eng.turnsAway f 0x03 (segBody k.toNat l.toNat g.toNat b)) ∨ (∃ k b l g, c = .courseStart f k b l g ∧ s.eng.turnsAway f 0x04 (segBody k.toNat l.toNat g.toNat b)) ∨ (∃ p, c = .pageFail f p ∧ s.eng.turnsAway f 0x05 (pageFailBody p.toNat)) ∨ (∃ m r, c = .fenceMessage f m r ∧ s.eng.turnsAway f 0x06 (fenceBody m.toNat r.toNat)) ∨ (c = .probe f ∧ s.eng.turnsAway f 0x07 []) ∨ (∃ a b d g, c = .probeReply f a b d g ∧ s.eng.turnsAway f 0x08 (replyBody a.toNat b.toNat d.toNat g.toNat)) ∨ (∃ k r, c = .join f k r ∧ s.eng.turnsAway f 0x09 (joinBody k.toNat r.toNat)) ∨ (∃ b, c = .abort f b ∧ s.eng.turnsAway f 0x0A (abortBodyOf b)) ∨ (∃ k n p, c = .event f k n p ∧ s.eng.turnsAway f 0x0B (eventBody k.toNat n.toNat p)) ∨ (∃ n, c = .mirrorAck f n ∧ s.eng.turnsAway f 0x0C (mirrorAckBody n.toNat)) ∨ (∃ r l d k i, c = .health f r l d k i ∧ s.eng.turnsAway f 0x0D (healthBody r.toNat l.toNat d.toNat k.toNat i.toNat)) ∨ (∃ l, c = .ops f l ∧ s.eng.turnsAway f 0x10 (opsBody l)) ∨ (∃ l, c = .manifest f l ∧ s.eng.turnsAway f 0x11 l) ∨ (∃ k d l g, c = .tokens f k d l g ∧ s.eng.turnsAway f 0x12 (tokensBytes k.toNat d.toNat l g)) ∨ (∃ n o b m, c = .journal f n o b m ∧ s.eng.turnsAway f 0x13 (journalBody n.toNat o.toNat b m)) ∨ (∃ n r a b d, c = .shadowAck f n r a b d ∧ s.eng.turnsAway f 0x14 (shadowAckBody n.toNat r.toNat (a, b, d))) ∨ (∃ k q i n m x l, c = .state f k q i n m x l ∧ s.eng.turnsAway f 0x15 (stateHead k.toNat q.toNat i.toNat n.toNat m.toNat x ++ l)) ∨ (∃ k v d l, c = .partials f k v d l ∧ s.eng.turnsAway f 0x18 (partialsBody k.toNat v.toNat d.toNat l)))) ∧
    (∃ (s : State) (f : Frame) (c : Instr), s.receives Isl.md ∧ ((∃ b, c = .ack f b ∧ s.eng.turnsAway f 0x02 (ackBodyOf b)) ∨ (∃ k b l g, c = .segReport f k b l g ∧ s.eng.turnsAway f 0x03 (segBody k.toNat l.toNat g.toNat b)) ∨ (∃ k b l g, c = .courseStart f k b l g ∧ s.eng.turnsAway f 0x04 (segBody k.toNat l.toNat g.toNat b)) ∨ (∃ p, c = .pageFail f p ∧ s.eng.turnsAway f 0x05 (pageFailBody p.toNat)) ∨ (∃ m r, c = .fenceMessage f m r ∧ s.eng.turnsAway f 0x06 (fenceBody m.toNat r.toNat)) ∨ (c = .probe f ∧ s.eng.turnsAway f 0x07 []) ∨ (∃ a b d g, c = .probeReply f a b d g ∧ s.eng.turnsAway f 0x08 (replyBody a.toNat b.toNat d.toNat g.toNat)) ∨ (∃ k r, c = .join f k r ∧ s.eng.turnsAway f 0x09 (joinBody k.toNat r.toNat)) ∨ (∃ b, c = .abort f b ∧ s.eng.turnsAway f 0x0A (abortBodyOf b)) ∨ (∃ k n p, c = .event f k n p ∧ s.eng.turnsAway f 0x0B (eventBody k.toNat n.toNat p)) ∨ (∃ n, c = .mirrorAck f n ∧ s.eng.turnsAway f 0x0C (mirrorAckBody n.toNat)) ∨ (∃ r l d k i, c = .health f r l d k i ∧ s.eng.turnsAway f 0x0D (healthBody r.toNat l.toNat d.toNat k.toNat i.toNat)) ∨ (∃ l, c = .ops f l ∧ s.eng.turnsAway f 0x10 (opsBody l)) ∨ (∃ l, c = .manifest f l ∧ s.eng.turnsAway f 0x11 l) ∨ (∃ k d l g, c = .tokens f k d l g ∧ s.eng.turnsAway f 0x12 (tokensBytes k.toNat d.toNat l g)) ∨ (∃ n o b m, c = .journal f n o b m ∧ s.eng.turnsAway f 0x13 (journalBody n.toNat o.toNat b m)) ∨ (∃ n r a b d, c = .shadowAck f n r a b d ∧ s.eng.turnsAway f 0x14 (shadowAckBody n.toNat r.toNat (a, b, d))) ∨ (∃ k q i n m x l, c = .state f k q i n m x l ∧ s.eng.turnsAway f 0x15 (stateHead k.toNat q.toNat i.toNat n.toNat m.toNat x ++ l)) ∨ (∃ k v d l, c = .partials f k v d l ∧ s.eng.turnsAway f 0x18 (partialsBody k.toNat v.toNat d.toNat l)))) ∧
    (∃ (s : State) (f : Frame) (c : Instr), s.receives Isl.md ∧ ((∃ b, c = .ack f b ∧ s.eng.turnsAway f 0x02 (ackBodyOf b)) ∨ (∃ k b l g, c = .segReport f k b l g ∧ s.eng.turnsAway f 0x03 (segBody k.toNat l.toNat g.toNat b)) ∨ (∃ k b l g, c = .courseStart f k b l g ∧ s.eng.turnsAway f 0x04 (segBody k.toNat l.toNat g.toNat b)) ∨ (∃ p, c = .pageFail f p ∧ s.eng.turnsAway f 0x05 (pageFailBody p.toNat)) ∨ (∃ m r, c = .fenceMessage f m r ∧ s.eng.turnsAway f 0x06 (fenceBody m.toNat r.toNat)) ∨ (c = .probe f ∧ s.eng.turnsAway f 0x07 []) ∨ (∃ a b d g, c = .probeReply f a b d g ∧ s.eng.turnsAway f 0x08 (replyBody a.toNat b.toNat d.toNat g.toNat)) ∨ (∃ k r, c = .join f k r ∧ s.eng.turnsAway f 0x09 (joinBody k.toNat r.toNat)) ∨ (∃ b, c = .abort f b ∧ s.eng.turnsAway f 0x0A (abortBodyOf b)) ∨ (∃ k n p, c = .event f k n p ∧ s.eng.turnsAway f 0x0B (eventBody k.toNat n.toNat p)) ∨ (∃ n, c = .mirrorAck f n ∧ s.eng.turnsAway f 0x0C (mirrorAckBody n.toNat)) ∨ (∃ r l d k i, c = .health f r l d k i ∧ s.eng.turnsAway f 0x0D (healthBody r.toNat l.toNat d.toNat k.toNat i.toNat)) ∨ (∃ l, c = .ops f l ∧ s.eng.turnsAway f 0x10 (opsBody l)) ∨ (∃ l, c = .manifest f l ∧ s.eng.turnsAway f 0x11 l) ∨ (∃ k d l g, c = .tokens f k d l g ∧ s.eng.turnsAway f 0x12 (tokensBytes k.toNat d.toNat l g)) ∨ (∃ n o b m, c = .journal f n o b m ∧ s.eng.turnsAway f 0x13 (journalBody n.toNat o.toNat b m)) ∨ (∃ n r a b d, c = .shadowAck f n r a b d ∧ s.eng.turnsAway f 0x14 (shadowAckBody n.toNat r.toNat (a, b, d))) ∨ (∃ k q i n m x l, c = .state f k q i n m x l ∧ s.eng.turnsAway f 0x15 (stateHead k.toNat q.toNat i.toNat n.toNat m.toNat x ++ l)) ∨ (∃ k v d l, c = .partials f k v d l ∧ s.eng.turnsAway f 0x18 (partialsBody k.toNat v.toNat d.toNat l)))) ∧
    (∃ (s : State) (f : Frame) (c : Instr), s.receives Isl.md ∧ ((∃ b, c = .ack f b ∧ s.eng.turnsAway f 0x02 (ackBodyOf b)) ∨ (∃ k b l g, c = .segReport f k b l g ∧ s.eng.turnsAway f 0x03 (segBody k.toNat l.toNat g.toNat b)) ∨ (∃ k b l g, c = .courseStart f k b l g ∧ s.eng.turnsAway f 0x04 (segBody k.toNat l.toNat g.toNat b)) ∨ (∃ p, c = .pageFail f p ∧ s.eng.turnsAway f 0x05 (pageFailBody p.toNat)) ∨ (∃ m r, c = .fenceMessage f m r ∧ s.eng.turnsAway f 0x06 (fenceBody m.toNat r.toNat)) ∨ (c = .probe f ∧ s.eng.turnsAway f 0x07 []) ∨ (∃ a b d g, c = .probeReply f a b d g ∧ s.eng.turnsAway f 0x08 (replyBody a.toNat b.toNat d.toNat g.toNat)) ∨ (∃ k r, c = .join f k r ∧ s.eng.turnsAway f 0x09 (joinBody k.toNat r.toNat)) ∨ (∃ b, c = .abort f b ∧ s.eng.turnsAway f 0x0A (abortBodyOf b)) ∨ (∃ k n p, c = .event f k n p ∧ s.eng.turnsAway f 0x0B (eventBody k.toNat n.toNat p)) ∨ (∃ n, c = .mirrorAck f n ∧ s.eng.turnsAway f 0x0C (mirrorAckBody n.toNat)) ∨ (∃ r l d k i, c = .health f r l d k i ∧ s.eng.turnsAway f 0x0D (healthBody r.toNat l.toNat d.toNat k.toNat i.toNat)) ∨ (∃ l, c = .ops f l ∧ s.eng.turnsAway f 0x10 (opsBody l)) ∨ (∃ l, c = .manifest f l ∧ s.eng.turnsAway f 0x11 l) ∨ (∃ k d l g, c = .tokens f k d l g ∧ s.eng.turnsAway f 0x12 (tokensBytes k.toNat d.toNat l g)) ∨ (∃ n o b m, c = .journal f n o b m ∧ s.eng.turnsAway f 0x13 (journalBody n.toNat o.toNat b m)) ∨ (∃ n r a b d, c = .shadowAck f n r a b d ∧ s.eng.turnsAway f 0x14 (shadowAckBody n.toNat r.toNat (a, b, d))) ∨ (∃ k q i n m x l, c = .state f k q i n m x l ∧ s.eng.turnsAway f 0x15 (stateHead k.toNat q.toNat i.toNat n.toNat m.toNat x ++ l)) ∨ (∃ k v d l, c = .partials f k v d l ∧ s.eng.turnsAway f 0x18 (partialsBody k.toNat v.toNat d.toNat l)))) :=
  ⟨⟨working, 11, some mapHead, mapEntries, (working.mdv fun m => { m with node := 11 }).eng, (working.mdv fun m => { m with node := 11 }).eng.mapReason (some mapHead) mapEntries, by unfold State.receives State.serves; decide +kernel⟩,
   ⟨on fun e => e.put Fld.admCtlOpen 1, 0, some mapHead, mapEntries, (lit.but fun e => e.put Fld.admCtlOpen 1).eng, (lit.but fun e => e.put Fld.admCtlOpen 1).eng.mapReason (some mapHead) mapEntries, by unfold State.receives State.serves; decide +kernel⟩,
   ⟨lit, 0, none, [], lit.eng, 1, by unfold State.receives State.serves; decide +kernel⟩,
   ⟨mappable, 5, some mapHead, mapEntries, (mappable.mdv fun m => { m with node := 5 }).eng, 5, by unfold State.receives State.serves; decide +kernel⟩,
   ⟨mappable, 0, some mapHead, mapEntries, mappable.eng, 0, by unfold State.receives State.serves; decide +kernel⟩,
   ⟨mappable, 1, some mapHead, mapEntries, (mappable.mdv fun m => { m with node := 1 }).eng, 0, by unfold State.receives State.serves; decide +kernel⟩,
   ⟨on fun e => { e with mdv := { e.mdv with joining := true } }, by unfold State.serves; decide +kernel⟩,
   ⟨lit, by unfold State.serves; decide +kernel⟩,
   ⟨managing, (frameOf 1 0 0).of (joinBody 0 1), 0, 1, by unfold State.receives Engine.takes State.serves Engine.unarmed; decide +kernel⟩,
   ⟨working.mdv fun m => { m with joined := false, joining := true }, (frameOf 2 0 0).of (joinBody 0 2), 0, 2, by unfold State.receives Engine.takes State.serves Engine.unarmed; decide +kernel⟩,
   ⟨managing.mdv fun m => { m with joined := false, joining := true, joins := [0] }, (frameOf 1 0 0).of (joinBody 0 1), 0, 1, by unfold State.receives Engine.takes State.serves Engine.unarmed; decide +kernel⟩,
   ⟨managing.mdv fun m => { m with joined := false, joining := true, joins := [0, 2, 3] }, (frameOf 1 0 0).of (joinBody 0 1), 0, 1, by unfold State.receives Engine.takes State.serves Engine.unarmed; decide +kernel⟩,
   ⟨lit, 0, by unfold State.receives State.serves; decide +kernel⟩,
   ⟨lit, 7, by unfold State.receives State.serves; decide +kernel⟩,
   ⟨lit, frameOf 1 0 0, .ack (frameOf 1 0 0) (ackOf 1), ⟨by unfold State.receives State.serves; decide +kernel, by simp [lit_turns_away]⟩⟩,
   ⟨lit, frameOf 1 0 0, .segReport (frameOf 1 0 0) 0 false 0 0, ⟨by unfold State.receives State.serves; decide +kernel, by simp [lit_turns_away]⟩⟩,
   ⟨lit, frameOf 1 0 0, .courseStart (frameOf 1 0 0) 0 false 0 0, ⟨by unfold State.receives State.serves; decide +kernel, by simp [lit_turns_away]⟩⟩,
   ⟨lit, frameOf 1 0 0, .pageFail (frameOf 1 0 0) 8, ⟨by unfold State.receives State.serves; decide +kernel, by simp [lit_turns_away]⟩⟩,
   ⟨lit, frameOf 1 0 0, .fenceMessage (frameOf 1 0 0) 0 2, ⟨by unfold State.receives State.serves; decide +kernel, by simp [lit_turns_away]⟩⟩,
   ⟨lit, frameOf 1 0 0, .probe (frameOf 1 0 0), ⟨by unfold State.receives State.serves; decide +kernel, by simp [lit_turns_away]⟩⟩,
   ⟨lit, frameOf 1 0 0, .probeReply (frameOf 1 0 0) 0 0 0 0, ⟨by unfold State.receives State.serves; decide +kernel, by simp [lit_turns_away]⟩⟩,
   ⟨lit, frameOf 1 0 0, .join (frameOf 1 0 0) 0 1, ⟨by unfold State.receives State.serves; decide +kernel, by simp [lit_turns_away]⟩⟩,
   ⟨lit, frameOf 1 0 0, .abort (frameOf 1 0 0) (abort2 7), ⟨by unfold State.receives State.serves; decide +kernel, by simp [lit_turns_away]⟩⟩,
   ⟨lit, frameOf 1 0 0, .event (frameOf 1 0 0) 3 0 [], ⟨by unfold State.receives State.serves; decide +kernel, by simp [lit_turns_away]⟩⟩,
   ⟨lit, frameOf 1 0 0, .mirrorAck (frameOf 1 0 0) 4, ⟨by unfold State.receives State.serves; decide +kernel, by simp [lit_turns_away]⟩⟩,
   ⟨lit, frameOf 1 0 0, .health (frameOf 1 0 0) 1 0 0 0 0, ⟨by unfold State.receives State.serves; decide +kernel, by simp [lit_turns_away]⟩⟩,
   ⟨lit, frameOf 1 0 0, .ops (frameOf 1 0 0) [], ⟨by unfold State.receives State.serves; decide +kernel, by simp [lit_turns_away]⟩⟩,
   ⟨lit, frameOf 1 0 0, .manifest (frameOf 1 0 0) [], ⟨by unfold State.receives State.serves; decide +kernel, by simp [lit_turns_away]⟩⟩,
   ⟨lit, frameOf 1 0 0, .tokens (frameOf 1 0 0) 0 0 [] [], ⟨by unfold State.receives State.serves; decide +kernel, by simp [lit_turns_away]⟩⟩,
   ⟨lit, frameOf 1 0 0, .journal (frameOf 1 0 0) 4 0 [] [], ⟨by unfold State.receives State.serves; decide +kernel, by simp [lit_turns_away]⟩⟩,
   ⟨lit, frameOf 1 0 0, .shadowAck (frameOf 1 0 0) 4 1 0 0 0, ⟨by unfold State.receives State.serves; decide +kernel, by simp [lit_turns_away]⟩⟩,
   ⟨lit, frameOf 1 0 0, .state (frameOf 1 0 0) 1 0 0 1 0 0 [], ⟨by unfold State.receives State.serves; decide +kernel, by simp [lit_turns_away]⟩⟩,
   ⟨lit, frameOf 1 0 0, .partials (frameOf 1 0 0) 0 1 0 [], ⟨by unfold State.receives State.serves; decide +kernel, by simp [lit_turns_away]⟩⟩⟩

set_option maxRecDepth 100000 in
theorem met_LeasesFencesAndProbes :
    (∃ (s : State) (f : Frame) (ranks : BitVec 10) (ok : Bool), s.receives Isl.md ∧ ok = (wholeFrame f 0x01 (leaseBody ranks.toNat) && s.eng.frameOk f [s.eng.epochFor f.step.toNat, (s.eng.mdv.epoch + 1) % 65536]) ∧ ok = false) ∧
    (∃ (s : State) (f : Frame) (ranks : BitVec 10) (ok : Bool), s.receives Isl.md ∧ ok = (wholeFrame f 0x01 (leaseBody ranks.toNat) && s.eng.frameOk f [s.eng.epochFor f.step.toNat, (s.eng.mdv.epoch + 1) % 65536]) ∧ ok = true ∧ (s.eng.mdv.fenced = true ∨ s.eng.manages = true ∨ s.seen.leaseCopy f.epoch.toNat f.step.toNat = true)) ∧
    (∃ (s : State) (f : Frame) (ranks : BitVec 10) (ok : Bool), s.receives Isl.md ∧ ok = (wholeFrame f 0x01 (leaseBody ranks.toNat) && s.eng.frameOk f [s.eng.epochFor f.step.toNat, (s.eng.mdv.epoch + 1) % 65536]) ∧ ok = true ∧ (s.eng.mdv.fenced = true ∨ s.eng.manages = true ∨ s.seen.leaseCopy f.epoch.toNat f.step.toNat = true)) ∧
    (∃ (s : State) (f : Frame) (ranks : BitVec 10) (ok : Bool), s.receives Isl.md ∧ ok = (wholeFrame f 0x01 (leaseBody ranks.toNat) && s.eng.frameOk f [s.eng.epochFor f.step.toNat, (s.eng.mdv.epoch + 1) % 65536]) ∧ ok = true ∧ s.eng.mdv.fenced = false ∧ s.eng.manages = false ∧ s.seen.leaseCopy f.epoch.toNat f.step.toNat = false ∧ s.eng.mdv.role = Role.worker ∧ s.eng.shadows = false) ∧
    (∃ (s : State), s.serves Isl.md ∧ s.eng.leadsGroup = true ∧ s.eng.ylm.current ≠ none ∧ s.eng.mdv.licensed ≠ 0 ∧ s.eng.mdv.leaseAt + s.eng.get Fld.mdvLapseMs * 500000 ≤ s.tb.count) ∧
    (∃ (s : State), s.serves Isl.md ∧ (s.eng.leadsGroup = false ∨ s.eng.ylm.current = none ∨ s.eng.mdv.licensed = 0 ∨ s.tb.count < s.eng.mdv.leaseAt + s.eng.get Fld.mdvLapseMs * 500000)) ∧
    (∃ (s : State) (c : Instr), s.serves Isl.md ∧ ((c = .leaseMissLimit ∧ s.eng.get Fld.mdvLapseSteps ≤ s.eng.mdv.misses) ∨ (c = .leaseLapseTimeout ∧ s.eng.mdv.leaseAt + s.eng.get Fld.mdvLapseMs * 1000000 ≤ s.tb.count)) ∧ s.eng.follows = true ∧ s.eng.speaks) ∧
    (∃ (s : State) (c : Instr), s.serves Isl.md ∧ ((c = .leaseMissLimit ∧ s.eng.get Fld.mdvLapseSteps ≤ s.eng.mdv.misses) ∨ (c = .leaseLapseTimeout ∧ s.eng.mdv.leaseAt + s.eng.get Fld.mdvLapseMs * 1000000 ≤ s.tb.count)) ∧ s.eng.follows = true ∧ s.eng.speaks) ∧
    (∃ (s : State), s.serves Isl.md ∧ (s.eng.mdv.misses < s.eng.get Fld.mdvLapseSteps ∨ s.eng.follows = false)) ∧
    (∃ (s : State), s.serves Isl.md ∧ (s.tb.count < s.eng.mdv.leaseAt + s.eng.get Fld.mdvLapseMs * 1000000 ∨ s.eng.follows = false)) ∧
    (∃ (s : State), s.serves Isl.md ∧ s.eng.leadsGroup = true ∧ s.eng.mdv.fenced = false ∧ s.eng.mdv.coverAt + s.eng.get Fld.mdvLapseMs * 1000000 ≤ s.tb.count) ∧
    (∃ (s : State), s.receives Isl.md ∧ s.eng.manages = false) ∧
    (∃ (s : State) (r : BitVec 9), s.receives Isl.md ∧ s.eng.manages = true ∧ r.toNat ≠ s.eng.mdv.rank ∧ r.toNat ∈ s.eng.liveRanks ∧ (s.eng.mdv.pendFences.any fun x => x.rank == r.toNat) = false) ∧
    (∃ (s : State) (f : Frame) (m : BitVec 48) (reason : BitVec 8), s.receives Isl.md ∧ s.eng.takes f 0x06 (fenceBody m.toNat reason.toNat) ∧ f.dst.toNat = s.eng.mdv.rank ∧ m = 0#48 ∧ s.eng.mdv.fenced = false ∧ s.eng.shadows = false) ∧
    (∃ (s : State) (f : Frame) (m : BitVec 48) (reason : BitVec 8), s.receives Isl.md ∧ s.eng.takes f 0x06 (fenceBody m.toNat reason.toNat) ∧ m ≠ 0#48 ∧ (s.eng.mdv.pendFences.any fun x => x.rank == f.dst.toNat) = false) ∧
    (∃ (s : State) (f : Frame), s.receives Isl.md ∧ s.eng.takes f 0x07 [] ∧ f.dst.toNat = s.eng.mdv.rank) ∧
    (∃ (s : State) (f : Frame), s.receives Isl.md ∧ s.eng.takes f 0x07 [] ∧ f.dst.toNat ≠ s.eng.mdv.rank) ∧
    (∃ (s : State) (f : Frame) (last : BitVec 48) (stat : BitVec 8) (score : BitVec 32) (misses : BitVec 32) (r : Nat), s.receives Isl.md ∧ s.eng.takes f 0x08 (replyBody last.toNat stat.toNat score.toNat misses.toNat) ∧ s.eng.manages = true ∧ s.eng.probeOf f.src.toNat = some r) ∧
    (∃ (s : State) (f : Frame) (last : BitVec 48) (stat : BitVec 8) (score : BitVec 32) (misses : BitVec 32), s.receives Isl.md ∧ s.eng.takes f 0x08 (replyBody last.toNat stat.toNat score.toNat misses.toNat) ∧ s.eng.manages = true ∧ s.eng.probeOf f.src.toNat = none) ∧
    (∃ (s : State) (f : Frame) (last : BitVec 48) (stat : BitVec 8) (score : BitVec 32) (misses : BitVec 32), s.receives Isl.md ∧ s.eng.takes f 0x08 (replyBody last.toNat stat.toNat score.toNat misses.toNat) ∧ s.eng.manages = false) ∧
    (∃ (s : State) (r : BitVec 9), s.serves Isl.md ∧ r.toNat ∈ s.eng.mdv.probes) ∧
    (∃ (s : State) (r : BitVec 9), s.serves Isl.md ∧ r.toNat ∉ s.eng.mdv.probes) ∧
    (∃ (s : State), s.receives Isl.md ∧ s.eng.flag Fld.mdvCtlHbEn = false) ∧
    (∃ (s : State) (node : BitVec 16), s.receives Isl.md ∧ s.eng.flag Fld.mdvCtlHbEn = true ∧ (s.eng.mdv.map.any fun x => x.2.node == node.toNat) = false) ∧
    (∃ (s : State) (node : BitVec 16), s.receives Isl.md ∧ s.eng.flag Fld.mdvCtlHbEn = true ∧ (s.eng.mdv.map.any fun x => x.2.node == node.toNat) = true ∧ (s.eng.manages = false ∨ s.eng.covered = false)) ∧
    (∃ (s : State) (node : BitVec 16) (up : Bool) (r : Nat) (x : Rank), s.receives Isl.md ∧ s.eng.flag Fld.mdvCtlHbEn = true ∧ (s.eng.mdv.map.any fun x => x.2.node == node.toNat) = true ∧ s.eng.manages = true ∧ s.eng.covered = true ∧ up = false ∧ r ∈ s.eng.liveExecuting ∧ s.eng.rank? r = some x ∧ x.node = node.toNat ∧ r ≠ s.eng.mdv.rank ∧ (s.eng.mdv.pendFences.any fun x => x.rank == r) = false) :=
  ⟨⟨lit, frameOf 0 0 0, 0, false, by unfold State.receives State.serves; decide +kernel⟩,
   ⟨managing, (frameOf 1 0 0).of (leaseBody 3), 3, true, by unfold State.receives State.serves; decide +kernel⟩,
   ⟨working.mdv fun m => { m with topology := 2, licensed := 2 }, (frameOf 0 0xFFFF 1).of (leaseBody 4), 4, true, by unfold State.receives State.serves; decide +kernel⟩,
   ⟨working, (frameOf 0 0xFFFF 1).of (leaseBody 4), 4, true, by unfold State.receives State.serves; decide +kernel⟩,
   ⟨(busy managing yealm7).mdv fun m => { m with licensed := 7 }, by unfold State.serves; decide +kernel⟩,
   ⟨lit, by unfold State.serves; decide +kernel⟩,
   ⟨working.mdv fun m => { m with misses := 4095 }, .leaseMissLimit, by unfold Engine.speaks State.serves; decide +kernel⟩,
   ⟨working, .leaseLapseTimeout, by unfold Engine.speaks State.serves; decide +kernel⟩,
   ⟨lit, by unfold State.serves; decide +kernel⟩,
   ⟨lit, by unfold State.serves; decide +kernel⟩,
   ⟨managing, by unfold State.serves; decide +kernel⟩,
   ⟨lit, by unfold State.receives State.serves; decide +kernel⟩,
   ⟨managing, 1, by unfold State.receives State.serves; decide +kernel⟩,
   ⟨working, (frameOf 0 1 0).of (fenceBody 0 2), 0, 2, by unfold State.receives Engine.takes State.serves Engine.unarmed; decide +kernel⟩,
   ⟨working, (frameOf 0 2 0).of (fenceBody 5 2), 5, 2, by unfold State.receives Engine.takes State.serves Engine.unarmed; decide +kernel⟩,
   ⟨working, frameOf 0 1 0, by unfold State.receives Engine.takes State.serves Engine.unarmed; decide +kernel⟩,
   ⟨working, frameOf 0 2 0, by unfold State.receives Engine.takes State.serves Engine.unarmed; decide +kernel⟩,
   ⟨managing.mdv fun m => { m with probes := [2] }, (frameOf 1 0 0).of (replyBody 4 0 7 8), 4, 0, 7, 8, 2, by unfold State.receives Engine.takes State.serves Engine.unarmed; decide +kernel⟩,
   ⟨managing, (frameOf 1 0 0).of (replyBody 4 0 7 8), 4, 0, 7, 8, by unfold State.receives Engine.takes State.serves Engine.unarmed; decide +kernel⟩,
   ⟨working, (frameOf 2 0 0).of (replyBody 4 0 7 8), 4, 0, 7, 8, by unfold State.receives Engine.takes State.serves Engine.unarmed; decide +kernel⟩,
   ⟨managing.mdv fun m => { m with probes := [2] }, 2, by unfold State.serves; decide +kernel⟩,
   ⟨lit, 2, by unfold State.serves; decide +kernel⟩,
   ⟨on fun e => e.put Fld.mdvCtlHbEn 0, by unfold State.receives State.serves; decide +kernel⟩,
   ⟨lit, 12, by unfold State.receives State.serves; decide +kernel⟩,
   ⟨working, 12, by unfold State.receives State.serves; decide +kernel⟩,
   ⟨acked7 managing (ack7 true true []), 12, false, 2, rankAt 12 1 3 1 0x3FF, by unfold State.receives State.serves; decide +kernel⟩⟩

set_option maxRecDepth 100000 in
theorem met_StepsOfAGroup :
    (∃ (s : State) (f : Frame) (b : AckBody) (a : AckMerge) (m : AckMerge) (n : Nat), s.receives Isl.md ∧ s.eng.takes f 0x02 (ackBodyOf b) ∧ n = f.step.toNat ∧ m = a.merge f.src.toNat b ∧ Table.get? s.eng.mdv.acks n = some a ∧ (a.sent = true ∨ f.src.toNat ∈ a.children ∨ f.src.toNat ∉ s.eng.reporters)) ∧
    (∃ (s : State) (f : Frame) (b : AckBody) (a : AckMerge) (m : AckMerge) (n : Nat), s.receives Isl.md ∧ s.eng.takes f 0x02 (ackBodyOf b) ∧ n = f.step.toNat ∧ m = a.merge f.src.toNat b ∧ (Table.get? s.eng.mdv.acks n = some a ∨ (Table.get? s.eng.mdv.acks n = none ∧ s.eng.bystands = true ∧ a = { AckMerge.open (((s.eng.yealmFor n).map (·.digest)).getD b.digest) with own := true })) ∧ a.sent = false ∧ f.src.toNat ∉ a.children ∧ f.src.toNat ∈ s.eng.reporters ∧ s.eng.manages = true ∧ s.eng.unarmed Det.missingAck ∧ m.missing = noRank ∧ s.eng.mdv.silentSubtrees = [] ∧ s.eng.liveExecuting.length ≤ m.cover + 1) ∧
    (∃ (s : State) (f : Frame) (b : AckBody) (a : AckMerge) (m : AckMerge) (n : Nat), s.receives Isl.md ∧ s.eng.takes f 0x02 (ackBodyOf b) ∧ n = f.step.toNat ∧ m = a.merge f.src.toNat b ∧ (Table.get? s.eng.mdv.acks n = some a ∨ (Table.get? s.eng.mdv.acks n = none ∧ s.eng.bystands = true ∧ a = { AckMerge.open (((s.eng.yealmFor n).map (·.digest)).getD b.digest) with own := true })) ∧ a.sent = false ∧ f.src.toNat ∉ a.children ∧ f.src.toNat ∈ s.eng.reporters ∧ s.eng.manages = true ∧ s.eng.unarmed Det.missingAck ∧ m.missing = noRank ∧ s.eng.mdv.silentSubtrees = [] ∧ m.cover + 1 < s.eng.liveExecuting.length) ∧
    (∃ (s : State) (f : Frame) (b : AckBody) (a : AckMerge) (m : AckMerge) (n : Nat), s.receives Isl.md ∧ s.eng.takes f 0x02 (ackBodyOf b) ∧ n = f.step.toNat ∧ m = a.merge f.src.toNat b ∧ (Table.get? s.eng.mdv.acks n = some a ∨ (Table.get? s.eng.mdv.acks n = none ∧ s.eng.bystands = true ∧ a = { AckMerge.open (((s.eng.yealmFor n).map (·.digest)).getD b.digest) with own := true })) ∧ a.sent = false ∧ f.src.toNat ∉ a.children ∧ f.src.toNat ∈ s.eng.reporters ∧ s.eng.manages = false ∧ s.eng.follows = true ∧ a.own = true ∧ (∀ c ∈ s.eng.reporters, c ∈ m.children)) ∧
    (∃ (s : State) (f : Frame) (b : AckBody) (a : AckMerge) (m : AckMerge) (n : Nat), s.receives Isl.md ∧ s.eng.takes f 0x02 (ackBodyOf b) ∧ n = f.step.toNat ∧ m = a.merge f.src.toNat b ∧ (Table.get? s.eng.mdv.acks n = some a ∨ (Table.get? s.eng.mdv.acks n = none ∧ s.eng.bystands = true ∧ a = { AckMerge.open (((s.eng.yealmFor n).map (·.digest)).getD b.digest) with own := true })) ∧ a.sent = false ∧ f.src.toNat ∉ a.children ∧ f.src.toNat ∈ s.eng.reporters ∧ s.eng.manages = false ∧ s.eng.follows = true ∧ a.own = true ∧ (∀ c ∈ s.eng.reporters, c ∈ m.children)) ∧
    (∃ (s : State) (f : Frame) (b : AckBody) (a : AckMerge) (m : AckMerge) (n : Nat), s.receives Isl.md ∧ s.eng.takes f 0x02 (ackBodyOf b) ∧ n = f.step.toNat ∧ m = a.merge f.src.toNat b ∧ (Table.get? s.eng.mdv.acks n = some a ∨ (Table.get? s.eng.mdv.acks n = none ∧ s.eng.bystands = true ∧ a = { AckMerge.open (((s.eng.yealmFor n).map (·.digest)).getD b.digest) with own := true })) ∧ a.sent = false ∧ f.src.toNat ∉ a.children ∧ f.src.toNat ∈ s.eng.reporters ∧ s.eng.manages = false ∧ s.eng.follows = true ∧ (a.own = false ∨ (∃ c ∈ s.eng.reporters, c ∉ m.children))) ∧
    (∃ (s : State) (child : BitVec 9), s.serves Isl.md ∧ child.toNat ∈ s.eng.reporters ∧ s.eng.silentStep child.toNat = none) ∧
    (∃ (s : State) (child : BitVec 9) (n : Nat) (a : AckMerge), s.serves Isl.md ∧ child.toNat ∈ s.eng.reporters ∧ s.eng.silentStep child.toNat = some n ∧ Table.get? s.eng.mdv.acks n = some a ∧ s.eng.manages = false) ∧
    (∃ (s : State) (child : BitVec 9) (n : Nat) (a : AckMerge), s.serves Isl.md ∧ child.toNat ∈ s.eng.reporters ∧ s.eng.silentStep child.toNat = some n ∧ Table.get? s.eng.mdv.acks n = some a ∧ s.eng.manages = true ∧ a.missing = noRank ∧ child.toNat ≠ noRank ∧ child.toNat ≠ s.eng.mdv.rank ∧ child.toNat ∈ s.eng.liveRanks ∧ s.eng.ylm.current = none) ∧
    (∃ (s : State) (f : Frame) (k : BitVec 6) (base : Bool) (late : BitVec 1024) (failed : BitVec 1024) (g : SegMerge) (g' : SegMerge) (n : Nat), s.receives Isl.md ∧ s.eng.takes f 0x03 (segBody k.toNat late.toNat failed.toNat base) ∧ n = f.step.toNat ∧ f.src.toNat ∈ s.eng.reporters ∧ g = s.eng.segMerge n k.toNat ∧ g.sent = false ∧ g' = { g with children := insertNat f.src.toNat g.children, late := g.late ||| late, failed := g.failed ||| failed, baseFail := g.baseFail || base } ∧ ((s.eng.bystands = false ∧ (g.own = false ∨ s.eng.ylm.current = none)) ∨ (∃ c ∈ s.eng.reporters, c ∉ g'.children))) ∧
    (∃ (s : State) (f : Frame) (k : BitVec 6) (base : Bool) (late : BitVec 1024) (failed : BitVec 1024) (g : SegMerge) (g' : SegMerge) (n : Nat), s.receives Isl.md ∧ s.eng.takes f 0x03 (segBody k.toNat late.toNat failed.toNat base) ∧ n = f.step.toNat ∧ f.src.toNat ∈ s.eng.reporters ∧ g = s.eng.segMerge n k.toNat ∧ g.sent = false ∧ g' = { g with children := insertNat f.src.toNat g.children, late := g.late ||| late, failed := g.failed ||| failed, baseFail := g.baseFail || base } ∧ (∀ c ∈ s.eng.reporters, c ∈ g'.children) ∧ (s.eng.bystands = true ∨ (s.eng.manages = false ∧ g.own = true ∧ ∃ y c, s.eng.ylm.current = some y ∧ y.step = n ∧ y.courses[k.toNat]? = some c))) ∧
    (∃ (s : State) (f : Frame) (k : BitVec 6) (base : Bool) (late : BitVec 1024) (failed : BitVec 1024) (g : SegMerge) (g' : SegMerge) (n : Nat), s.receives Isl.md ∧ s.eng.takes f 0x03 (segBody k.toNat late.toNat failed.toNat base) ∧ n = f.step.toNat ∧ f.src.toNat ∈ s.eng.reporters ∧ g = s.eng.segMerge n k.toNat ∧ g.sent = false ∧ g' = { g with children := insertNat f.src.toNat g.children, late := g.late ||| late, failed := g.failed ||| failed, baseFail := g.baseFail || base } ∧ (∀ c ∈ s.eng.reporters, c ∈ g'.children) ∧ (s.eng.bystands = true ∨ (s.eng.manages = false ∧ g.own = true ∧ ∃ y c, s.eng.ylm.current = some y ∧ y.step = n ∧ y.courses[k.toNat]? = some c))) ∧
    (∃ (s : State) (f : Frame) (k : BitVec 6) (base : Bool) (late : BitVec 1024) (failed : BitVec 1024) (g : SegMerge) (g' : SegMerge) (n : Nat) (y : Yealm) (c : Course), s.receives Isl.md ∧ s.eng.takes f 0x03 (segBody k.toNat late.toNat failed.toNat base) ∧ n = f.step.toNat ∧ f.src.toNat ∈ s.eng.reporters ∧ g = s.eng.segMerge n k.toNat ∧ g.sent = false ∧ g' = { g with children := insertNat f.src.toNat g.children, late := g.late ||| late, failed := g.failed ||| failed, baseFail := g.baseFail || base } ∧ g.own = true ∧ (∀ c ∈ s.eng.reporters, c ∈ g'.children) ∧ s.eng.ylm.current = some y ∧ y.step = n ∧ y.courses[k.toNat]? = some c ∧ s.eng.manages = true ∧ s.eng.shadows = false ∧ s.eng.recordedSet n k.toNat = none) ∧
    (∃ (s : State) (f : Frame) (k : BitVec 6) (base : Bool) (late : BitVec 1024) (failed : BitVec 1024) (y : Yealm) (c : Course), s.receives Isl.md ∧ s.eng.ylm.current = some y ∧ y.courses[k.toNat]? = some c ∧ s.eng.takes f 0x04 (segBody k.toNat late.toNat failed.toNat base) ∧ y.step = f.step.toNat ∧ (s.eng.run k.toNat).ordered = false) ∧
    (∃ (s : State) (f : Frame) (k : BitVec 6) (base : Bool) (late : BitVec 1024) (failed : BitVec 1024) (y : Yealm) (c : Course), s.receives Isl.md ∧ s.eng.ylm.current = some y ∧ y.courses[k.toNat]? = some c ∧ s.eng.takes f 0x04 (segBody k.toNat late.toNat failed.toNat base) ∧ (s.eng.run k.toNat).ordered = true) ∧
    (∃ (s : State) (k : BitVec 6) (y : Yealm) (c : Course), s.receives Isl.md ∧ s.eng.ylm.current = some y ∧ y.courses[k.toNat]? = some c ∧ s.eng.mayReplay y ∧ s.eng.grouped = true ∧ (s.eng.run k.toNat).reported = true ∧ (s.eng.run k.toNat).ordered = false) ∧
    (∃ (s : State) (k : BitVec 6) (y : Yealm) (c : Course), s.receives Isl.md ∧ s.eng.ylm.current = some y ∧ y.courses[k.toNat]? = some c ∧ (s.eng.grouped = false ∨ (s.eng.run k.toNat).reported = false ∨ (s.eng.run k.toNat).ordered = true)) ∧
    (∃ (s : State) (f : Frame) (p : BitVec 22) (x : Page), s.receives Isl.md ∧ s.eng.takes f 0x05 (pageFailBody p.toNat) ∧ x = s.eng.page p.toNat ∧ s.eng.manages = true ∧ s.eng.shadows = false ∧ (x.state = .openPage ∨ x.state = .full) ∧ x.holders ≠ 0 ∧ (∀ j ∈ s.eng.holdersOf p.toNat, s.eng.matching j p.toNat = false)) ∧
    (∃ (s : State) (f : Frame) (p : BitVec 22) (x : Page), s.receives Isl.md ∧ s.eng.takes f 0x05 (pageFailBody p.toNat) ∧ x = s.eng.page p.toNat ∧ s.eng.manages = false) ∧
    (∃ (s : State) (f : Frame) (l : List (BitVec 256)), s.receives Isl.md ∧ s.eng.takes f 0x10 (opsBody l) ∧ s.eng.mdv.fenced = false ∧ s.eng.manages = false ∧ s.eng.flt.shadow.phase = 1) ∧
    (∃ (s : State) (f : Frame) (l : List (BitVec 256)), s.receives Isl.md ∧ s.eng.takes f 0x10 (opsBody l) ∧ s.eng.mdv.fenced = false ∧ s.eng.manages = false ∧ s.eng.flt.shadow.phase ≠ 1) ∧
    (∃ (s : State) (f : Frame) (l : List (BitVec 256)) (x : BitVec 256), s.receives Isl.md ∧ s.eng.takes f 0x10 (opsBody l) ∧ s.eng.mdv.fenced = false ∧ s.eng.manages = false ∧ s.eng.flt.shadow.phase ≠ 1 ∧ l = [x] ∧ opf x 0 0 8 = 0x0C ∧ s.eng.replica? (BitVec.ofNat 32 (opf x 4 0 32)) ≠ none) ∧
    (∃ (s : State) (f : Frame) (bs : List Byte) (y : Yealm), s.receives Isl.md ∧ s.eng.takes f 0x11 bs ∧ s.eng.mdv.fenced = false ∧ s.eng.manages = false ∧ s.eng.unarmed Det.manifestCheck ∧ s.eng.flt.shadow.phase ≠ 1 ∧ s.eng.parseManifest bs = some y ∧ y.step % 2 ^ 48 = f.step.toNat ∧ s.eng.executes = true ∧ y.step = s.eng.nextManifest) ∧
    (∃ (s : State) (f : Frame) (bs : List Byte) (y : Yealm), s.receives Isl.md ∧ s.eng.takes f 0x11 bs ∧ s.eng.mdv.fenced = false ∧ s.eng.manages = false ∧ s.eng.unarmed Det.manifestCheck ∧ s.eng.flt.shadow.phase ≠ 1 ∧ s.eng.parseManifest bs = some y ∧ y.step % 2 ^ 48 = f.step.toNat ∧ s.eng.executes = true ∧ y.step ≠ s.eng.nextManifest ∧ s.eng.holdsManifest y = true) ∧
    (∃ (s : State) (f : Frame) (bs : List Byte) (y : Yealm), s.receives Isl.md ∧ s.eng.takes f 0x11 bs ∧ s.eng.mdv.fenced = false ∧ s.eng.manages = false ∧ s.eng.unarmed Det.manifestCheck ∧ s.eng.flt.shadow.phase ≠ 1 ∧ s.eng.parseManifest bs = some y ∧ y.step % 2 ^ 48 = f.step.toNat ∧ s.eng.executes = false) ∧
    (∃ (s : State) (f : Frame) (bs : List Byte), s.receives Isl.md ∧ s.eng.takes f 0x11 bs ∧ s.eng.mdv.fenced = false ∧ s.eng.manages = false ∧ s.eng.unarmed Det.manifestCheck ∧ s.eng.flt.shadow.phase ≠ 1 ∧ (s.eng.parseManifest bs = none ∨ (∃ y, s.eng.parseManifest bs = some y ∧ (y.step % 2 ^ 48 ≠ f.step.toNat ∨ (s.eng.executes = true ∧ y.step ≠ s.eng.nextManifest ∧ s.eng.holdsManifest y = false)))) ∧ s.eng.ylm.current = none) ∧
    (∃ (s : State) (f : Frame) (bs : List Byte), s.receives Isl.md ∧ s.eng.takes f 0x11 bs ∧ s.eng.mdv.fenced = false ∧ s.eng.manages = false ∧ s.eng.unarmed Det.manifestCheck ∧ s.eng.flt.shadow.phase ≠ 1 ∧ (s.eng.parseManifest bs = none ∨ (∃ y, s.eng.parseManifest bs = some y ∧ (y.step % 2 ^ 48 ≠ f.step.toNat ∨ (s.eng.executes = true ∧ y.step ≠ s.eng.nextManifest ∧ s.eng.holdsManifest y = false)))) ∧ s.eng.ylm.current = none) ∧
    (∃ (s : State) (f : Frame) (bs : List Byte) (y : Yealm), s.receives Isl.md ∧ s.eng.takes f 0x11 bs ∧ s.eng.mdv.fenced = false ∧ s.eng.manages = false ∧ s.eng.unarmed Det.manifestCheck ∧ s.eng.flt.shadow.phase ≠ 1 ∧ (s.eng.parseManifest bs = none ∨ (∃ y, s.eng.parseManifest bs = some y ∧ (y.step % 2 ^ 48 ≠ f.step.toNat ∨ (s.eng.executes = true ∧ y.step ≠ s.eng.nextManifest ∧ s.eng.holdsManifest y = false)))) ∧ s.eng.mayReplay y) ∧
    (∃ (s : State) (f : Frame) (k : BitVec 6) (first : BitVec 17) (xs : List (BitVec 32)) (gs : List (BitVec 128)) (y : Yealm) (c : Course), s.receives Isl.md ∧ s.eng.takes f 0x12 (tokensBytes k.toNat first.toNat xs gs) ∧ s.eng.mdv.fenced = false ∧ s.eng.manages = false ∧ s.eng.flt.shadow.phase ≠ 1 ∧ f.step.toNat ≤ s.eng.stepNo ∧ s.eng.yealmFor f.step.toNat = some y ∧ y.courses[k.toNat]? = some c ∧ k.toNat ∈ s.eng.mdv.tokensSeen) ∧
    (∃ (s : State) (f : Frame) (k : BitVec 6) (first : BitVec 17) (xs : List (BitVec 32)) (gs : List (BitVec 128)) (y : Yealm) (c : Course), s.receives Isl.md ∧ s.eng.takes f 0x12 (tokensBytes k.toNat first.toNat xs gs) ∧ s.eng.mdv.fenced = false ∧ s.eng.manages = false ∧ s.eng.flt.shadow.phase ≠ 1 ∧ f.step.toNat ≤ s.eng.stepNo ∧ s.eng.yealmFor f.step.toNat = some y ∧ y.courses[k.toNat]? = some c ∧ k.toNat ∉ s.eng.mdv.tokensSeen ∧ (first.toNat ≠ c.firstDraw ∨ xs.length ≠ c.draws)) ∧
    (∃ (s : State) (f : Frame) (k : BitVec 6) (first : BitVec 17) (xs : List (BitVec 32)) (gs : List (BitVec 128)) (y : Yealm) (c : Course), s.receives Isl.md ∧ s.eng.takes f 0x12 (tokensBytes k.toNat first.toNat xs gs) ∧ s.eng.mdv.fenced = false ∧ s.eng.manages = false ∧ s.eng.flt.shadow.phase ≠ 1 ∧ f.step.toNat ≤ s.eng.stepNo ∧ s.eng.yealmFor f.step.toNat = some y ∧ y.courses[k.toNat]? = some c ∧ k.toNat ∉ s.eng.mdv.tokensSeen ∧ first.toNat = c.firstDraw ∧ xs.length = c.draws) ∧
    (∃ (s : State) (f : Frame) (k : BitVec 6) (first : BitVec 17) (xs : List (BitVec 32)) (gs : List (BitVec 128)) (y : Yealm) (c : Course) (m : Member) (r : Rafter) (x : BitVec 32), s.receives Isl.md ∧ s.eng.takes f 0x12 (tokensBytes k.toNat first.toNat xs gs) ∧ s.eng.mdv.fenced = false ∧ s.eng.manages = false ∧ s.eng.flt.shadow.phase ≠ 1 ∧ f.step.toNat ≤ s.eng.stepNo ∧ s.eng.yealmFor f.step.toNat = some y ∧ y.courses[k.toNat]? = some c ∧ k.toNat ∉ s.eng.mdv.tokensSeen ∧ first.toNat = c.firstDraw ∧ xs.length = c.draws ∧ c.members = 1 ∧ y.members[c.firstMember]? = some m ∧ m.draws = 1 ∧ xs = [x] ∧ m.firstDraw = c.firstDraw ∧ entryCounted x.toNat = true ∧ entryVoid x.toNat = false ∧ entryFinal x.toNat = false ∧ s.eng.anyReq? m.slot = some r ∧ r.handle = m.handle) ∧
    (∃ (s : State) (f : Frame) (k : BitVec 6) (cover : BitVec 10) (first : BitVec 17) (l : List PartialRec) (y : Yealm) (c : Course) (p : PartMerge) (p' : PartMerge), s.receives Isl.md ∧ s.eng.takes f 0x18 (partialsBody k.toNat cover.toNat first.toNat l) ∧ s.eng.yealmFor f.step.toNat = some y ∧ y.courses[k.toNat]? = some c ∧ p = s.eng.partsOf k.toNat ∧ p' = { p with children := insertNat f.src.toNat p.children, cover := p.cover + cover.toNat, records := p.records ++ l } ∧ first.toNat ≠ c.firstDraw) ∧
    (∃ (s : State) (f : Frame) (k : BitVec 6) (cover : BitVec 10) (first : BitVec 17) (l : List PartialRec) (y : Yealm) (c : Course) (p : PartMerge) (p' : PartMerge), s.receives Isl.md ∧ s.eng.takes f 0x18 (partialsBody k.toNat cover.toNat first.toNat l) ∧ s.eng.yealmFor f.step.toNat = some y ∧ y.courses[k.toNat]? = some c ∧ p = s.eng.partsOf k.toNat ∧ p' = { p with children := insertNat f.src.toNat p.children, cover := p.cover + cover.toNat, records := p.records ++ l } ∧ first.toNat = c.firstDraw ∧ f.step.toNat = s.eng.stepNo ∧ f.src.toNat ∉ p.children ∧ f.src.toNat ∈ s.eng.reporters ∧ p.sent = false ∧ (s.eng.follows = false ∨ s.eng.courseFolded y c = false ∨ (∃ j ∈ s.eng.reporters, j ∉ p'.children))) ∧
    (∃ (s : State) (f : Frame) (k : BitVec 6) (cover : BitVec 10) (first : BitVec 17) (l : List PartialRec) (y : Yealm) (c : Course) (p : PartMerge) (p' : PartMerge), s.receives Isl.md ∧ s.eng.takes f 0x18 (partialsBody k.toNat cover.toNat first.toNat l) ∧ s.eng.yealmFor f.step.toNat = some y ∧ y.courses[k.toNat]? = some c ∧ p = s.eng.partsOf k.toNat ∧ p' = { p with children := insertNat f.src.toNat p.children, cover := p.cover + cover.toNat, records := p.records ++ l } ∧ first.toNat = c.firstDraw ∧ f.step.toNat = s.eng.stepNo ∧ f.src.toNat ∉ p.children ∧ f.src.toNat ∈ s.eng.reporters ∧ p.sent = false ∧ s.eng.follows = true ∧ s.eng.shadows = false ∧ s.eng.sharded = true ∧ s.eng.courseFolded y c = true ∧ (∀ j ∈ s.eng.reporters, j ∈ p'.children)) ∧
    (∃ (s : State) (k : BitVec 6) (child : BitVec 9) (y : Yealm) (c : Course), s.serves Isl.md ∧ s.eng.ylm.current = some y ∧ y.courses[k.toNat]? = some c ∧ s.eng.mayReplay y ∧ s.eng.sharded = true ∧ child.toNat ∈ s.eng.reporters ∧ child.toNat ∉ (s.eng.partsOf k.toNat).children ∧ s.eng.courseFolded y c = true ∧ c.draws ≠ 0) ∧
    (∃ (s : State) (k : BitVec 6) (child : BitVec 9) (y : Yealm) (c : Course), s.serves Isl.md ∧ s.eng.ylm.current = some y ∧ y.courses[k.toNat]? = some c ∧ (s.eng.sharded = false ∨ child.toNat ∉ s.eng.reporters ∨ child.toNat ∈ (s.eng.partsOf k.toNat).children ∨ s.eng.courseFolded y c = false ∨ c.draws = 0)) :=
  ⟨⟨acked7 (busy managing yealm7) (ack7 true true []), (frameOf 1 0 7).of (ackBodyOf (ackOf 2)), ackOf 2, ack7 true true [], (ack7 true true []).merge 1 (ackOf 2), 7, by unfold State.receives Engine.takes State.serves Engine.unarmed; decide +kernel⟩,
   ⟨acked7 (busy managing yealm7) (ack7 true false []), (frameOf 1 0 7).of (ackBodyOf (ackOf 2)), ackOf 2, ack7 true false [], (ack7 true false []).merge 1 (ackOf 2), 7, by unfold State.receives Engine.takes State.serves Engine.unarmed; decide +kernel⟩,
   ⟨acked7 (busy managing yealm7) (ack7 true false []), (frameOf 1 0 7).of (ackBodyOf (ackOf 1)), ackOf 1, ack7 true false [], (ack7 true false []).merge 1 (ackOf 1), 7, by unfold State.receives Engine.takes State.serves Engine.unarmed; decide +kernel⟩,
   ⟨acked7 (busy working yealm7) (ack7 true false []), (frameOf 2 1 7).of (ackBodyOf (ackOf 1)), ackOf 1, ack7 true false [], (ack7 true false []).merge 2 (ackOf 1), 7, by unfold State.receives Engine.takes State.serves Engine.unarmed; decide +kernel⟩,
   ⟨between, (frameOf 2 3 1).of (ackBodyOf (ackOf 1)), ackOf 1, ack7 true false [], (ack7 true false []).merge 2 (ackOf 1), 1, by unfold State.receives Engine.takes State.serves Engine.unarmed; decide +kernel⟩,
   ⟨acked7 (busy working yealm7) (ack7 false false []), (frameOf 2 1 7).of (ackBodyOf (ackOf 1)), ackOf 1, ack7 false false [], (ack7 false false []).merge 2 (ackOf 1), 7, by unfold State.receives Engine.takes State.serves Engine.unarmed; decide +kernel⟩,
   ⟨managing, 1, by unfold State.serves; decide +kernel⟩,
   ⟨acked7 (busy working yealm7) (ack7 true false []), 2, 7, ack7 true false [], by unfold State.serves; decide +kernel⟩,
   ⟨acked7 managing (ack7 true false []), 1, 7, ack7 true false [], by unfold State.serves; decide +kernel⟩,
   ⟨busy managing yealm7, (frameOf 1 0 7).of (segBody 0 2 0 false), 0, false, 2, 0, seg false [] 0, seg false [1] 2, 7, by unfold State.receives Engine.takes State.serves Engine.unarmed; decide +kernel⟩,
   ⟨segged (busy working yealm7) (seg true [] 0), (frameOf 2 1 7).of (segBody 0 2 0 false), 0, false, 2, 0, seg true [] 0, seg true [2] 2, 7, by unfold State.receives State.serves Engine.takes Engine.unarmed; exact ⟨by decide +kernel, by decide +kernel, rfl, by decide +kernel, by decide +kernel, rfl, by decide +kernel, by decide +kernel, .inr ⟨by decide +kernel, rfl, yealm7, course0, rfl, rfl, rfl⟩⟩⟩,
   ⟨between, (frameOf 2 3 1).of (segBody 0 2 0 true), 0, true, 2, 0, SegMerge.empty, { seg false [2] 2 with baseFail := true }, 1, by unfold State.receives State.serves Engine.takes Engine.unarmed; exact ⟨by decide +kernel, by decide +kernel, rfl, by decide +kernel, by decide +kernel, rfl, by decide +kernel, by decide +kernel, .inl (by decide +kernel)⟩⟩,
   ⟨segged (busy managing yealm7) (seg true [] 0), (frameOf 1 0 7).of (segBody 0 2 0 false), 0, false, 2, 0, seg true [] 0, seg true [1] 2, 7, yealm7, course0, by unfold State.receives Engine.takes State.serves Engine.unarmed; decide +kernel⟩,
   ⟨ran (busy working yealm7) true false, (frameOf 0 0xFFFF 7).of (segBody 0 2 0 false), 0, false, 2, 0, yealm7, course0, by unfold State.receives Engine.takes State.serves Engine.unarmed; decide +kernel⟩,
   ⟨ran (busy working yealm7) true true, (frameOf 0 0xFFFF 7).of (segBody 0 2 0 false), 0, false, 2, 0, yealm7, course0, by unfold State.receives Engine.takes State.serves Engine.unarmed; decide +kernel⟩,
   ⟨ran (busy working (sound yealm7)) true false, 0, sound yealm7, course0, by unfold State.receives Engine.mayReplay State.serves; decide +kernel⟩,
   ⟨busy working yealm7, 0, yealm7, course0, by unfold State.receives State.serves; decide +kernel⟩,
   ⟨withPage managing page8, (frameOf 1 0 0).of (pageFailBody 8), 8, page8, by unfold State.receives Engine.takes State.serves Engine.unarmed; decide +kernel⟩,
   ⟨withPage working page8, (frameOf 2 1 0).of (pageFailBody 8), 8, page8, by unfold State.receives Engine.takes State.serves Engine.unarmed; decide +kernel⟩,
   ⟨shadowing 1, (frameOf 0 0xFFFF 0).of (opsBody [ops0C]), [ops0C], by unfold State.receives Engine.takes State.serves Engine.unarmed; decide +kernel⟩,
   ⟨working, (frameOf 0 0xFFFF 0).of (opsBody []), [], by unfold State.receives Engine.takes State.serves Engine.unarmed; decide +kernel⟩,
   ⟨replicated working, (frameOf 0 0xFFFF 0).of (opsBody [ops0C]), [ops0C], ops0C, by unfold State.receives Engine.takes State.serves Engine.unarmed; decide +kernel⟩,
   ⟨working, (frameOf 0 0xFFFF 1).of (manifestOf 1), manifestOf 1, (working.eng.parseManifest (manifestOf 1)).getD yealm7, by unfold State.receives Engine.takes State.serves Engine.unarmed; decide +kernel⟩,
   ⟨holding1, (frameOf 0 0xFFFF 1).of (manifestOf 1), manifestOf 1, parsed1, by unfold State.receives Engine.takes State.serves Engine.unarmed; decide +kernel⟩,
   ⟨standing, (frameOf 0 0xFFFF 1).of (manifestOf 1), manifestOf 1, (standing.eng.parseManifest (manifestOf 1)).getD yealm7, by unfold State.receives Engine.takes State.serves Engine.unarmed; decide +kernel⟩,
   ⟨working, frameOf 0 0xFFFF 1, [], by unfold State.receives State.serves Engine.takes Engine.unarmed; exact ⟨by decide +kernel, by decide +kernel, rfl, by decide +kernel, by decide +kernel, by decide +kernel, .inl (by decide +kernel), rfl⟩⟩,
   ⟨working, (frameOf 0 0xFFFF 2).of (manifestOf 1), manifestOf 1, by unfold State.receives State.serves Engine.takes Engine.unarmed; exact ⟨by decide +kernel, by decide +kernel, rfl, by decide +kernel, by decide +kernel, by decide +kernel, .inr ⟨(working.eng.parseManifest (manifestOf 1)).getD yealm7, by decide +kernel, .inl (by decide +kernel)⟩, rfl⟩⟩,
   ⟨busy working (sound yealm7), frameOf 0 0xFFFF 7, [], sound yealm7, by unfold State.receives State.serves Engine.takes Engine.mayReplay Engine.unarmed; exact ⟨by decide +kernel, by decide +kernel, rfl, by decide +kernel, by decide +kernel, by decide +kernel, .inl (by decide +kernel), by decide +kernel⟩⟩,
   ⟨(busy working yealm7).mdv fun m => { m with tokensSeen := [0] }, (frameOf 0 0xFFFF 7).of (tokensBytes 0 0 [0x0100002A] []), 0, 0, [0x0100002A], [], yealm7, course0, by unfold State.receives Engine.takes State.serves Engine.unarmed; decide +kernel⟩,
   ⟨busy working yealm7, (frameOf 0 0xFFFF 7).of (tokensBytes 0 5 [] []), 0, 5, [], [], yealm7, course0, by unfold State.receives Engine.takes State.serves Engine.unarmed; decide +kernel⟩,
   ⟨busy working yealm7, (frameOf 0 0xFFFF 7).of (tokensBytes 0 0 [0x0100002A] []), 0, 0, [0x0100002A], [], yealm7, course0, by unfold State.receives Engine.takes State.serves Engine.unarmed; decide +kernel⟩,
   ⟨busy working yealm7, (frameOf 0 0xFFFF 7).of (tokensBytes 0 0 [0x0100002A] []), 0, 0, [0x0100002A], [], yealm7, course0, member5, req5f, 0x0100002A, by unfold State.receives Engine.takes State.serves Engine.unarmed; decide +kernel⟩,
   ⟨busy managing yealm7, (frameOf 1 0 7).of (partialsBody 0 1 5 []), 0, 1, 5, [], yealm7, course0, PartMerge.empty, { PartMerge.empty with children := [1], cover := 1 }, by unfold State.receives Engine.takes State.serves Engine.unarmed; decide +kernel⟩,
   ⟨busy managing yealm7, (frameOf 1 0 7).of (partialsBody 0 1 0 []), 0, 1, 0, [], yealm7, course0, PartMerge.empty, { PartMerge.empty with children := [1], cover := 1 }, by unfold State.receives Engine.takes State.serves Engine.unarmed; decide +kernel⟩,
   ⟨sharing working, (frameOf 2 1 7).of (partialsBody 0 1 0 []), 0, 1, 0, [], deferred7, course0, PartMerge.empty, { PartMerge.empty with children := [2], cover := 1 }, by unfold State.receives Engine.takes State.serves Engine.unarmed; decide +kernel⟩,
   ⟨sharing managing, 0, 1, deferred7, course0, by unfold Engine.mayReplay State.serves; decide +kernel⟩,
   ⟨busy managing yealm7, 0, 1, yealm7, course0, by unfold State.serves; decide +kernel⟩⟩

set_option maxRecDepth 100000 in
theorem met_AbortsMirrorsAndTakeover :
    (∃ (s : State) (f : Frame) (b : AbortBody) (key : Nat × Nat), s.receives Isl.md ∧ s.eng.takes f 0x0A (abortBodyOf b) ∧ key = (b.origin.toNat, b.sequence.toNat) ∧ (s.eng.mdv.fenced = true ∨ key ∈ s.eng.flt.seenAborts)) ∧
    (∃ (s : State) (f : Frame) (b : AbortBody) (key : Nat × Nat), s.receives Isl.md ∧ s.eng.takes f 0x0A (abortBodyOf b) ∧ key = (b.origin.toNat, b.sequence.toNat) ∧ s.eng.mdv.fenced = false ∧ key ∉ s.eng.flt.seenAborts ∧ b.cause ≠ 2) ∧
    (∃ (s : State) (f : Frame) (b : AbortBody) (key : Nat × Nat) (y : Yealm), s.receives Isl.md ∧ s.eng.takes f 0x0A (abortBodyOf b) ∧ key = (b.origin.toNat, b.sequence.toNat) ∧ s.eng.mdv.fenced = false ∧ key ∉ s.eng.flt.seenAborts ∧ b.cause ≠ 2 ∧ s.eng.mayReplay y ∧ y.step = b.step.toNat ∧ s.eng.replayFresh y.step = false) ∧
    (∃ (s : State) (f : Frame) (b : AbortBody) (key : Nat × Nat) (y : Yealm), s.receives Isl.md ∧ s.eng.takes f 0x0A (abortBodyOf b) ∧ key = (b.origin.toNat, b.sequence.toNat) ∧ s.eng.mdv.fenced = false ∧ key ∉ s.eng.flt.seenAborts ∧ b.cause ≠ 2 ∧ s.eng.ylm.current = some y ∧ (y.step ≠ b.step.toNat ∨ y.step ≤ s.eng.flt.commitStep ∨ s.eng.replayFresh y.step = true)) ∧
    (∃ (s : State) (f : Frame) (b : AbortBody) (key : Nat × Nat) (y : Yealm), s.receives Isl.md ∧ s.eng.takes f 0x0A (abortBodyOf b) ∧ key = (b.origin.toNat, b.sequence.toNat) ∧ s.eng.mdv.fenced = false ∧ key ∉ s.eng.flt.seenAborts ∧ b.cause ≠ 2 ∧ s.eng.ylm.current = some y ∧ (y.step ≠ b.step.toNat ∨ y.step ≤ s.eng.flt.commitStep ∨ s.eng.replayFresh y.step = true)) ∧
    (∃ (s : State) (f : Frame) (b : AbortBody) (key : Nat × Nat), s.receives Isl.md ∧ s.eng.takes f 0x0A (abortBodyOf b) ∧ key = (b.origin.toNat, b.sequence.toNat) ∧ s.eng.mdv.fenced = false ∧ key ∉ s.eng.flt.seenAborts ∧ b.cause ≠ 2 ∧ s.eng.ylm.current = none ∧ s.eng.follows = true ∧ s.eng.executes = false ∧ b.step.toNat = s.eng.stepNo) ∧
    (∃ (s : State) (f : Frame) (kind : BitVec 8) (n : BitVec 16) (bs : List Byte), s.receives Isl.md ∧ s.eng.takes f 0x0B (eventBody kind.toNat n.toNat bs) ∧ f.dst.toNat ≠ s.eng.mdv.rank) ∧
    (∃ (s : State) (f : Frame) (kind : BitVec 8) (n : BitVec 16) (bs : List Byte), s.receives Isl.md ∧ s.eng.takes f 0x0B (eventBody kind.toNat n.toNat bs) ∧ f.dst.toNat = s.eng.mdv.rank ∧ (s.eng.manages = true ∨ s.eng.mdv.fenced = true)) ∧
    (∃ (s : State) (f : Frame) (kind : BitVec 8) (n : BitVec 16) (bs : List Byte), s.receives Isl.md ∧ s.eng.takes f 0x0B (eventBody kind.toNat n.toNat bs) ∧ f.dst.toNat = s.eng.mdv.rank ∧ s.eng.manages = false ∧ s.eng.mdv.fenced = false ∧ kind.toNat = Mirror.tenant) ∧
    (∃ (s : State) (f : Frame) (kind : BitVec 8) (n : BitVec 16) (bs : List Byte) (x : JEvent) (r : Rafter), s.receives Isl.md ∧ s.eng.takes f 0x0B (eventBody kind.toNat n.toNat bs) ∧ f.dst.toNat = s.eng.mdv.rank ∧ s.eng.manages = false ∧ s.eng.mdv.fenced = false ∧ kind.toNat ≠ Mirror.keepalive ∧ kind.toNat ≠ Mirror.rafter ∧ kind.toNat ≠ Mirror.tenant ∧ kind.toNat ≠ Mirror.descriptor ∧ x = jeventOf bs ∧ x.kind ≠ 0x0A ∧ s.eng.replica? (BitVec.ofNat 32 x.who) = some r) ∧
    (∃ (s : State), s.serves Isl.md ∧ s.eng.mirrors = false) ∧
    (∃ (s : State), s.serves Isl.md ∧ s.eng.mirrors = true) ∧
    (∃ (s : State), s.receives Isl.md ∧ s.eng.manages = false) ∧
    (∃ (s : State) (n : BitVec 16) (g : GatedRecord), s.receives Isl.md ∧ s.eng.manages = true ∧ s.eng.hru.gated = [g] ∧ g.sequence = n.toNat ∧ s.eng.err.fatal = false ∧ s.eng.hru.credit = true ∧ (s.eng.evt g.record.ring).enabled = true) ∧
    (∃ (s : State), s.receives Isl.md ∧ s.eng.manages = true ∧ s.eng.hru.gated = []) ∧
    (∃ (s : State) (f : Frame) (n : BitVec 48) (p : Nat), s.receives Isl.md ∧ s.eng.takes f 0x0C (mirrorAckBody n.toNat) ∧ f.dst.toNat = s.eng.mdv.rank ∧ s.eng.partner = some p ∧ f.src.toNat = (s.eng.hop p).1) ∧
    (∃ (s : State) (f : Frame) (n : BitVec 48), s.receives Isl.md ∧ s.eng.takes f 0x0C (mirrorAckBody n.toNat) ∧ f.dst.toNat = s.eng.mdv.rank ∧ (∀ p, s.eng.partner = some p → f.src.toNat ≠ (s.eng.hop p).1)) ∧
    (∃ (s : State) (f : Frame) (n : BitVec 48), s.receives Isl.md ∧ s.eng.takes f 0x0C (mirrorAckBody n.toNat) ∧ f.dst.toNat ≠ s.eng.mdv.rank) ∧
    (∃ (s : State) (f : Frame) (n : BitVec 48) (origin : BitVec 9) (bs : List Byte) (m : List Byte), s.receives Isl.md ∧ s.eng.takes f 0x13 (journalBody n.toNat origin.toNat bs m) ∧ s.eng.mdv.fenced = false ∧ f.dst.toNat ≠ s.eng.mdv.rank) ∧
    (∃ (s : State) (f : Frame) (n : BitVec 48) (origin : BitVec 9) (bs : List Byte) (m : List Byte), s.receives Isl.md ∧ s.eng.takes f 0x13 (journalBody n.toNat origin.toNat bs m) ∧ s.eng.mdv.fenced = false ∧ f.dst.toNat = s.eng.mdv.rank ∧ recordSound n.toNat bs = true ∧ (m = [] ∨ s.eng.parseManifest m ≠ none) ∧ 0 < s.eng.get Fld.fltJrnlDepthN ∧ s.eng.shadows = false) ∧
    (∃ (s : State) (f : Frame) (n : BitVec 48) (origin : BitVec 9) (bs : List Byte) (m : List Byte), s.receives Isl.md ∧ s.eng.takes f 0x13 (journalBody n.toNat origin.toNat bs m) ∧ s.eng.mdv.fenced = false ∧ f.dst.toNat = s.eng.mdv.rank ∧ (recordSound n.toNat bs = false ∨ (m ≠ [] ∧ s.eng.parseManifest m = none))) ∧
    (∃ (s : State) (f : Frame) (n : BitVec 48) (origin : BitVec 9) (bs : List Byte) (m : List Byte), s.receives Isl.md ∧ s.eng.takes f 0x13 (journalBody n.toNat origin.toNat bs m) ∧ s.eng.mdv.fenced = false ∧ f.dst.toNat = s.eng.mdv.rank ∧ (recordSound n.toNat bs = false ∨ (m ≠ [] ∧ s.eng.parseManifest m = none))) ∧
    (∃ (s : State), s.serves Isl.md ∧ s.seen.takeoverDue = false) ∧
    (∃ (s : State) (x : Rank) (p : Rank), s.serves Isl.md ∧ s.seen.takeoverDue = true ∧ s.eng.rank? 0 = some x ∧ s.eng.rank? s.eng.mdv.rank = some p ∧ p.role = Role.standby ∧ s.eng.mdv.rank ∉ s.eng.mdv.fencedRanks ∧ s.eng.shadows = false) ∧
    (∃ (s : State) (f : Frame) (rank : BitVec 9) (node : BitVec 16) (epoch : BitVec 16) (n : BitVec 48) (ok : Bool), s.receives Isl.md ∧ ok = (wholeFrame f 0x0E (takeoverBody rank.toNat node.toNat epoch.toNat n.toNat) && s.eng.frameOk f [s.eng.epochFor f.step.toNat, (s.eng.mdv.epoch + 1) % 65536]) ∧ ok = false) ∧
    (∃ (s : State) (f : Frame) (rank : BitVec 9) (node : BitVec 16) (epoch : BitVec 16) (n : BitVec 48) (ok : Bool), s.receives Isl.md ∧ ok = (wholeFrame f 0x0E (takeoverBody rank.toNat node.toNat epoch.toNat n.toNat) && s.eng.frameOk f [s.eng.epochFor f.step.toNat, (s.eng.mdv.epoch + 1) % 65536]) ∧ ok = true ∧ rank ≠ 0#9) ∧
    (∃ (s : State) (f : Frame) (rank : BitVec 9) (node : BitVec 16) (epoch : BitVec 16) (n : BitVec 48) (ok : Bool), s.receives Isl.md ∧ ok = (wholeFrame f 0x0E (takeoverBody rank.toNat node.toNat epoch.toNat n.toNat) && s.eng.frameOk f [s.eng.epochFor f.step.toNat, (s.eng.mdv.epoch + 1) % 65536]) ∧ ok = true ∧ rank = 0#9 ∧ s.eng.mdv.fenced = false ∧ epoch.toNat = (s.eng.mdv.epoch + 1) % 65536 ∧ (s.eng.rank? 0).map (·.node) ≠ some node.toNat) :=
  ⟨⟨working.mdv fun m => { m with fenced := true }, (frameOf 0 1 0).of (abortBodyOf (abort2 0)), abort2 0, (2, 9), by unfold State.receives Engine.takes State.serves Engine.unarmed; decide +kernel⟩,
   ⟨busy working yealm7, (frameOf 0 0xFFFF 7).of (abortBodyOf (abort2 7)), abort2 7, (2, 9), by unfold State.receives Engine.takes State.serves Engine.unarmed; decide +kernel⟩,
   ⟨busy working (sound yealm7), (frameOf 0 0xFFFF 7).of (abortBodyOf (abort2 7)), abort2 7, (2, 9), sound yealm7, by unfold State.receives Engine.takes Engine.mayReplay State.serves Engine.unarmed; decide +kernel⟩,
   ⟨busy working yealm7, (frameOf 0 0xFFFF 7).of (abortBodyOf (abort2 6)), abort2 6, (2, 9), yealm7, by unfold State.receives Engine.takes State.serves Engine.unarmed; decide +kernel⟩,
   ⟨(busy working yealm7).but fun e => { e with flt := { e.flt with replaying := true, failStep := 7 }, ylm := { e.ylm with runs := e.ylm.runs.map fun x => (x.1, { x.2 with begun := false }) } }, (frameOf 0 0xFFFF 7).of (abortBodyOf (abort2 7)), abort2 7, (2, 9), yealm7, by unfold State.receives Engine.takes State.serves Engine.unarmed; decide +kernel⟩,
   ⟨standing.but fun e => { e with stepNo := 7 }, (frameOf 0 0xFFFF 7).of (abortBodyOf (abort2 7)), abort2 7, (2, 9), by unfold State.receives Engine.takes State.serves Engine.unarmed; decide +kernel⟩,
   ⟨working, (frameOf 0 2 0).of (eventBody 1 3 []), 1, 3, [], by unfold State.receives Engine.takes State.serves Engine.unarmed; decide +kernel⟩,
   ⟨managing, (frameOf 1 0 0).of (eventBody 1 3 []), 1, 3, [], by unfold State.receives Engine.takes State.serves Engine.unarmed; decide +kernel⟩,
   ⟨standing, (frameOf 0 3 0).of (eventBody 0x12 4 tenantEvent), 0x12, 4, tenantEvent, by unfold State.receives Engine.takes State.serves Engine.unarmed; decide +kernel⟩,
   ⟨replicated standing, (frameOf 0 3 0).of (eventBody 3 4 jevent3), 3, 4, jevent3, jeventOf jevent3, req5f, by unfold State.receives Engine.takes State.serves Engine.unarmed; decide +kernel⟩,
   ⟨lit, by unfold State.serves; decide +kernel⟩,
   ⟨managing, by unfold State.serves; decide +kernel⟩,
   ⟨lit, by unfold State.receives State.serves; decide +kernel⟩,
   ⟨gating, 4, gate4, by unfold State.receives State.serves; decide +kernel⟩,
   ⟨managing, by unfold State.receives State.serves; decide +kernel⟩,
   ⟨managing, (frameOf 3 0 0).of (mirrorAckBody 4), 4, 3, by unfold State.receives Engine.takes State.serves Engine.unarmed; decide +kernel⟩,
   ⟨managing, (frameOf 1 0 0).of (mirrorAckBody 4), 4, by unfold State.receives Engine.takes State.serves Engine.unarmed; decide +kernel⟩,
   ⟨working, (frameOf 2 0 0).of (mirrorAckBody 4), 4, by unfold State.receives Engine.takes State.serves Engine.unarmed; decide +kernel⟩,
   ⟨working, (frameOf 0 2 0).of (journalBody 5 0 [] []), 5, 0, [], [], by unfold State.receives Engine.takes State.serves Engine.unarmed; decide +kernel⟩,
   ⟨standing, (frameOf 0 3 0).of (journalBody 5 0 (recordOf 5) []), 5, 0, recordOf 5, [], by unfold State.receives Engine.takes State.serves Engine.unarmed; decide +kernel⟩,
   ⟨standing, (frameOf 0 3 0).of (journalBody 5 0 [] []), 5, 0, [], [], by unfold State.receives Engine.takes State.serves Engine.unarmed; decide +kernel⟩,
   ⟨standing, (frameOf 0 3 0).of (journalBody 5 0 (recordOf 5) [7]), 5, 0, recordOf 5, [7], by unfold State.receives Engine.takes State.serves Engine.unarmed; decide +kernel⟩,
   ⟨lit, by unfold State.serves; decide +kernel⟩,
   ⟨standing, rankAt 10 noRank 3 0 0, rankAt 13 0 noRank 2 0x3FF, by unfold State.serves; decide +kernel⟩,
   ⟨lit, frameOf 0 0xFFFF 0, 0, 13, 4, 0, false, by unfold State.receives State.serves; decide +kernel⟩,
   ⟨working, (frameOf 0 0xFFFF 0).of (takeoverBody 2 13 4 0), 2, 13, 4, 0, true, by unfold State.receives State.serves; decide +kernel⟩,
   ⟨working, (frameOf 0 0xFFFF 0).of (takeoverBody 0 13 4 0), 0, 13, 4, 0, true, by unfold State.receives State.serves; decide +kernel⟩⟩

set_option maxRecDepth 100000 in
theorem met_ShadowsAndHealth :
    (∃ (s : State) (role : BitVec 2) (node : BitVec 16) (h : Option (BitVec 512)) (es : List (BitVec 128)) (e : Engine) (reason : Nat), s.receives Isl.md ∧ e = { s.eng with mdv := { s.eng.mdv with node := node.toNat } } ∧ reason = e.mapReason h es ∧ (s.eng.mdv.joining = true ∨ s.eng.shadows = true ∨ s.eng.speaks ∨ (role ≠ 1#2 ∧ role ≠ 2#2))) ∧
    (∃ (s : State) (role : BitVec 2) (node : BitVec 16) (h : Option (BitVec 512)) (es : List (BitVec 128)) (e : Engine) (reason : Nat), s.receives Isl.md ∧ e = { s.eng with mdv := { s.eng.mdv with node := node.toNat } } ∧ reason = e.mapReason h es ∧ (s.eng.mdv.joining = true ∨ s.eng.shadows = true ∨ s.eng.speaks ∨ (role ≠ 1#2 ∧ role ≠ 2#2))) ∧
    (∃ (s : State) (role : BitVec 2) (node : BitVec 16) (h : Option (BitVec 512)) (es : List (BitVec 128)) (e : Engine) (reason : Nat), s.receives Isl.md ∧ e = { s.eng with mdv := { s.eng.mdv with node := node.toNat } } ∧ reason = e.mapReason h es ∧ s.eng.mdv.joining = false ∧ s.eng.shadows = false ∧ (s.eng.mdv.joined = false ∨ s.eng.mdv.fenced = true) ∧ (role = 1#2 ∨ role = 2#2) ∧ reason ≠ 0) ∧
    (∃ (s : State) (role : BitVec 2) (node : BitVec 16) (h : Option (BitVec 512)) (es : List (BitVec 128)) (e : Engine) (reason : Nat), s.receives Isl.md ∧ e = { s.eng with mdv := { s.eng.mdv with node := node.toNat } } ∧ reason = e.mapReason h es ∧ s.eng.mdv.joining = false ∧ s.eng.shadows = false ∧ (s.eng.mdv.joined = false ∨ s.eng.mdv.fenced = true) ∧ (role = 1#2 ∨ role = 2#2) ∧ reason = 0) ∧
    (∃ (s : State), s.receives Isl.md ∧ s.eng.shadows = false) ∧
    (∃ (s : State), s.receives Isl.md ∧ s.eng.shadows = true) ∧
    (∃ (s : State), s.receives Isl.md ∧ (s.eng.flt.shadow.phase ≠ 1 ∨ s.tb.count < s.eng.flt.shadow.loadAt + s.eng.get Fld.fltLoadToMs * 1000000)) ∧
    (∃ (s : State), s.receives Isl.md ∧ s.eng.flt.shadow.phase = 1 ∧ s.eng.flt.shadow.loadAt + s.eng.get Fld.fltLoadToMs * 1000000 ≤ s.tb.count) ∧
    (∃ (s : State) (f : Frame) (r : BitVec 9) (role : BitVec 8) (node : BitVec 16) (check : BitVec 32) (body : List Byte), s.receives Isl.md ∧ body = shadowReqBody r.toNat role.toNat node.toNat check.toNat ∧ s.eng.takesEarly f 0x16 body ∧ s.eng.manages = false) ∧
    (∃ (s : State) (f : Frame) (r : BitVec 9) (role : BitVec 8) (node : BitVec 16) (check : BitVec 32) (body : List Byte), s.receives Isl.md ∧ body = shadowReqBody r.toNat role.toNat node.toNat check.toNat ∧ s.eng.takesEarly f 0x16 body ∧ s.eng.manages = true ∧ s.eng.rankOfNode node.toNat = none) ∧
    (∃ (s : State) (f : Frame) (r : BitVec 9) (role : BitVec 8) (node : BitVec 16) (check : BitVec 32) (body : List Byte) (dst : Nat) (g : Nat) (e : Engine) (answer : List Byte), s.receives Isl.md ∧ body = shadowReqBody r.toNat role.toNat node.toNat check.toNat ∧ s.eng.takesEarly f 0x16 body ∧ s.eng.manages = true ∧ s.eng.rankOfNode node.toNat = some dst ∧ g = s.eng.grantReason r.toNat node.toNat check.toNat ∧ e = s.eng.noteGuest dst node.toNat (g == 0) ∧ answer = shadowGrantBody { rank := r.toNat, granted := g == 0, admitted := false, reason := g, source := r.toNat, step := s.eng.draftStep, node := node.toNat, epoch := 0 }) ∧
    (∃ (s : State) (f : Frame) (r : BitVec 9) (role : BitVec 8) (node : BitVec 16) (check : BitVec 32) (body : List Byte) (dst : Nat) (g : Nat) (e : Engine) (answer : List Byte), s.receives Isl.md ∧ body = shadowReqBody r.toNat role.toNat node.toNat check.toNat ∧ s.eng.takesEarly f 0x16 body ∧ s.eng.manages = true ∧ s.eng.rankOfNode node.toNat = some dst ∧ g = s.eng.grantReason r.toNat node.toNat check.toNat ∧ e = s.eng.noteGuest dst node.toNat (g == 0) ∧ answer = shadowGrantBody { rank := r.toNat, granted := g == 0, admitted := false, reason := g, source := r.toNat, step := s.eng.draftStep, node := node.toNat, epoch := 0 }) ∧
    (∃ (s : State) (f : Frame) (r : BitVec 9) (granted : Bool) (admitted : Bool) (reason : BitVec 8) (source : BitVec 9) (n : BitVec 48) (node : BitVec 16) (epoch : BitVec 16) (g : Grant), s.receives Isl.md ∧ g = { rank := r.toNat, granted := granted, admitted := admitted, reason := reason.toNat, source := source.toNat, step := n.toNat, node := node.toNat, epoch := epoch.toNat } ∧ (s.eng.awaitsGrant = true → s.eng.takesEarly f 0x17 (shadowGrantBody g)) ∧ (s.eng.awaitsGrant = false → s.eng.takes f 0x17 (shadowGrantBody g)) ∧ admitted = true ∧ s.eng.manages = false ∧ (s.eng.mdv.pendFences.any fun x => x.admitted == some node.toNat) = false) ∧
    (∃ (s : State) (f : Frame) (r : BitVec 9) (granted : Bool) (admitted : Bool) (reason : BitVec 8) (source : BitVec 9) (n : BitVec 48) (node : BitVec 16) (epoch : BitVec 16) (g : Grant), s.receives Isl.md ∧ g = { rank := r.toNat, granted := granted, admitted := admitted, reason := reason.toNat, source := source.toNat, step := n.toNat, node := node.toNat, epoch := epoch.toNat } ∧ (s.eng.awaitsGrant = true → s.eng.takesEarly f 0x17 (shadowGrantBody g)) ∧ (s.eng.awaitsGrant = false → s.eng.takes f 0x17 (shadowGrantBody g)) ∧ admitted = false ∧ f.dst.toNat ≠ s.eng.mdv.rank) ∧
    (∃ (s : State) (f : Frame) (r : BitVec 9) (granted : Bool) (admitted : Bool) (reason : BitVec 8) (source : BitVec 9) (n : BitVec 48) (node : BitVec 16) (epoch : BitVec 16) (g : Grant), s.receives Isl.md ∧ g = { rank := r.toNat, granted := granted, admitted := admitted, reason := reason.toNat, source := source.toNat, step := n.toNat, node := node.toNat, epoch := epoch.toNat } ∧ (s.eng.awaitsGrant = true → s.eng.takesEarly f 0x17 (shadowGrantBody g)) ∧ (s.eng.awaitsGrant = false → s.eng.takes f 0x17 (shadowGrantBody g)) ∧ admitted = false ∧ f.dst.toNat = s.eng.mdv.rank ∧ s.eng.flt.shadow.phase = 1 ∧ node.toNat = s.eng.mdv.node ∧ granted = false) ∧
    (∃ (s : State) (f : Frame) (r : BitVec 9) (granted : Bool) (admitted : Bool) (reason : BitVec 8) (source : BitVec 9) (n : BitVec 48) (node : BitVec 16) (epoch : BitVec 16) (g : Grant), s.receives Isl.md ∧ g = { rank := r.toNat, granted := granted, admitted := admitted, reason := reason.toNat, source := source.toNat, step := n.toNat, node := node.toNat, epoch := epoch.toNat } ∧ (s.eng.awaitsGrant = true → s.eng.takesEarly f 0x17 (shadowGrantBody g)) ∧ (s.eng.awaitsGrant = false → s.eng.takes f 0x17 (shadowGrantBody g)) ∧ admitted = false ∧ f.dst.toNat = s.eng.mdv.rank ∧ s.eng.flt.shadow.phase = 1 ∧ node.toNat = s.eng.mdv.node ∧ granted = true) ∧
    (∃ (s : State) (f : Frame) (r : BitVec 9) (granted : Bool) (admitted : Bool) (reason : BitVec 8) (source : BitVec 9) (n : BitVec 48) (node : BitVec 16) (epoch : BitVec 16) (g : Grant), s.receives Isl.md ∧ g = { rank := r.toNat, granted := granted, admitted := admitted, reason := reason.toNat, source := source.toNat, step := n.toNat, node := node.toNat, epoch := epoch.toNat } ∧ (s.eng.awaitsGrant = true → s.eng.takesEarly f 0x17 (shadowGrantBody g)) ∧ (s.eng.awaitsGrant = false → s.eng.takes f 0x17 (shadowGrantBody g)) ∧ admitted = false ∧ f.dst.toNat = s.eng.mdv.rank ∧ s.eng.flt.shadow.phase ≠ 1 ∧ granted = true ∧ r.toNat = s.eng.mdv.rank) ∧
    (∃ (s : State) (f : Frame) (kind : BitVec 8) (q : BitVec 16) (i : BitVec 32) (count : BitVec 32) (n : BitVec 48) (crc : BitVec 64) (bs : List Byte), s.receives Isl.md ∧ s.eng.takes f 0x15 (stateHead kind.toNat q.toNat i.toNat count.toNat n.toNat crc ++ bs) ∧ s.eng.mdv.fenced = false ∧ f.dst.toNat = s.eng.mdv.rank ∧ s.eng.flt.shadow.phase = 1 ∧ s.eng.flt.shadow.source ≠ noRank ∧ n.toNat = s.eng.flt.shadow.loadStep ∧ q.toNat ≠ s.eng.flt.shadow.nextSeq) ∧
    (∃ (s : State) (f : Frame) (kind : BitVec 8) (q : BitVec 16) (i : BitVec 32) (count : BitVec 32) (n : BitVec 48) (crc : BitVec 64) (bs : List Byte), s.receives Isl.md ∧ s.eng.takes f 0x15 (stateHead kind.toNat q.toNat i.toNat count.toNat n.toNat crc ++ bs) ∧ s.eng.mdv.fenced = false ∧ f.dst.toNat = s.eng.mdv.rank ∧ s.eng.flt.shadow.phase = 1 ∧ s.eng.flt.shadow.source ≠ noRank ∧ n.toNat = s.eng.flt.shadow.loadStep ∧ q.toNat = s.eng.flt.shadow.nextSeq ∧ kind = 7#8 ∧ count = 1#32 ∧ bs.length = 32) ∧
    (∃ (s : State) (f : Frame) (kind : BitVec 8) (q : BitVec 16) (i : BitVec 32) (count : BitVec 32) (n : BitVec 48) (crc : BitVec 64) (bs : List Byte), s.receives Isl.md ∧ s.eng.takes f 0x15 (stateHead kind.toNat q.toNat i.toNat count.toNat n.toNat crc ++ bs) ∧ s.eng.mdv.fenced = false ∧ f.dst.toNat = s.eng.mdv.rank ∧ s.eng.flt.shadow.phase = 1 ∧ s.eng.flt.shadow.source ≠ noRank ∧ n.toNat = s.eng.flt.shadow.loadStep ∧ q.toNat = s.eng.flt.shadow.nextSeq ∧ kind = 0xFF#8 ∧ bs = [] ∧ s.eng.flt.shadow.held = [] ∧ s.eng.flt.shadow.crcState ^^^ 0xFFFFFFFFFFFFFFFF#64 = crc) ∧
    (∃ (s : State) (f : Frame) (kind : BitVec 8) (q : BitVec 16) (i : BitVec 32) (count : BitVec 32) (n : BitVec 48) (crc : BitVec 64) (bs : List Byte), s.receives Isl.md ∧ s.eng.takes f 0x15 (stateHead kind.toNat q.toNat i.toNat count.toNat n.toNat crc ++ bs) ∧ s.eng.mdv.fenced = false ∧ f.dst.toNat = s.eng.mdv.rank ∧ s.eng.flt.shadow.phase = 1 ∧ s.eng.flt.shadow.source ≠ noRank ∧ n.toNat = s.eng.flt.shadow.loadStep ∧ q.toNat = s.eng.flt.shadow.nextSeq ∧ kind = 0xFF#8 ∧ bs = [] ∧ s.eng.flt.shadow.held = [] ∧ s.eng.flt.shadow.crcState ^^^ 0xFFFFFFFFFFFFFFFF#64 ≠ crc) ∧
    (∃ (s : State) (f : Frame) (n : BitVec 48) (r : BitVec 9) (a : BitVec 64) (b : BitVec 64) (c : BitVec 64), s.receives Isl.md ∧ s.eng.takes f 0x14 (shadowAckBody n.toNat r.toNat (a, b, c)) ∧ f.dst.toNat = s.eng.mdv.rank ∧ r.toNat = s.eng.mdv.rank ∧ s.eng.watcher r.toNat = none) ∧
    (∃ (s : State) (f : Frame) (n : BitVec 48) (r : BitVec 9) (a : BitVec 64) (b : BitVec 64) (c : BitVec 64), s.receives Isl.md ∧ s.eng.takes f 0x14 (shadowAckBody n.toNat r.toNat (a, b, c)) ∧ f.dst.toNat = s.eng.mdv.rank ∧ r.toNat = s.eng.mdv.rank ∧ s.eng.watcher r.toNat ≠ none ∧ Table.get? s.eng.flt.shadow.own n.toNat = none) ∧
    (∃ (s : State) (f : Frame) (n : BitVec 48) (r : BitVec 9) (a : BitVec 64) (b : BitVec 64) (c : BitVec 64) (v : BitVec 64 × BitVec 64 × BitVec 64), s.receives Isl.md ∧ s.eng.takes f 0x14 (shadowAckBody n.toNat r.toNat (a, b, c)) ∧ f.dst.toNat = s.eng.mdv.rank ∧ r.toNat = s.eng.mdv.rank ∧ s.eng.watcher r.toNat ≠ none ∧ Table.get? s.eng.flt.shadow.own n.toNat = some v ∧ v = (a, b, c) ∧ s.eng.flt.shadow.matched + 1 < s.eng.get Fld.fltShadowStepsN) ∧
    (∃ (s : State) (f : Frame) (n : BitVec 48) (r : BitVec 9) (a : BitVec 64) (b : BitVec 64) (c : BitVec 64) (v : BitVec 64 × BitVec 64 × BitVec 64), s.receives Isl.md ∧ s.eng.takes f 0x14 (shadowAckBody n.toNat r.toNat (a, b, c)) ∧ f.dst.toNat = s.eng.mdv.rank ∧ r.toNat = s.eng.mdv.rank ∧ s.eng.watcher r.toNat ≠ none ∧ Table.get? s.eng.flt.shadow.own n.toNat = some v ∧ v ≠ (a, b, c) ∧ s.eng.flt.shadow.mismatches + 1 < 4) ∧
    (∃ (s : State) (k : Nat) (p : Part), s.serves Isl.ao ∧ s.eng.flt.parts = [(k, p)] ∧ s.eng.flt.fed = []) ∧
    (∃ (s : State) (k : Nat) (p : Part), s.serves Isl.ao ∧ s.eng.flt.parts = [(k, p)] ∧ s.eng.flt.fed = []) ∧
    (∃ (s : State) (f : Frame) (r : BitVec 9) (level : BitVec 8) (score : BitVec 16) (kind : BitVec 8) (index : BitVec 16) (body : List Byte), s.receives Isl.md ∧ body = healthBody r.toNat level.toNat score.toNat kind.toNat index.toNat ∧ s.eng.takes f 0x0D body ∧ s.eng.manages = false) ∧
    (∃ (s : State) (f : Frame) (r : BitVec 9) (level : BitVec 8) (score : BitVec 16) (kind : BitVec 8) (index : BitVec 16) (body : List Byte), s.receives Isl.md ∧ body = healthBody r.toNat level.toNat score.toNat kind.toNat index.toNat ∧ s.eng.takes f 0x0D body ∧ s.eng.manages = true ∧ level ≠ 3#8) ∧
    (∃ (s : State) (f : Frame) (r : BitVec 9) (level : BitVec 8) (score : BitVec 16) (kind : BitVec 8) (index : BitVec 16) (body : List Byte), s.receives Isl.md ∧ body = healthBody r.toNat level.toNat score.toNat kind.toNat index.toNat ∧ s.eng.takes f 0x0D body ∧ s.eng.manages = true ∧ level = 3#8 ∧ r.toNat ∈ s.eng.liveRanks ∧ (s.eng.mdv.pendFences.any fun x => x.rank == r.toNat) = false ∧ s.seen.expelledNow.length < s.eng.get Fld.fltGovPerHour ∧ s.eng.get Fld.fltGovFloor ≤ s.eng.standbysAfter r.toNat) ∧
    (∃ (s : State) (f : Frame) (r : BitVec 9) (level : BitVec 8) (score : BitVec 16) (kind : BitVec 8) (index : BitVec 16) (body : List Byte), s.receives Isl.md ∧ body = healthBody r.toNat level.toNat score.toNat kind.toNat index.toNat ∧ s.eng.takes f 0x0D body ∧ s.eng.manages = true ∧ level = 3#8 ∧ r.toNat ∈ s.eng.liveRanks ∧ (s.eng.mdv.pendFences.any fun x => x.rank == r.toNat) = false ∧ (s.eng.get Fld.fltGovPerHour ≤ s.seen.expelledNow.length ∨ s.eng.standbysAfter r.toNat < s.eng.get Fld.fltGovFloor)) ∧
    (∃ (s : State), s.serves Isl.md ∧ s.eng.flt.heldExpel = []) ∧
    (∃ (s : State) (lane : BitVec 2), s.serves Isl.md ∧ lane = 3#2) ∧
    (∃ (s : State) (lane : BitVec 2), s.serves Isl.md ∧ lane ≠ 3#2) ∧
    (∃ (s : State) (x : BitVec 32), s.serves Isl.sb ∧ s.eng.stateOf x.toNat = .admitting ∧ (s.eng.adm.held.any fun h => h.slot == x.toNat) = false) ∧
    (∃ (s : State), s.serves Isl.sb) ∧
    (∃ (s : State) (row : BitVec 4), s.serves Isl.sb ∧ (row = 3 ∨ row = 5 ∨ 6 < row)) ∧
    (∃ (s : State) (row : BitVec 4), s.serves Isl.sb ∧ (row = 3 ∨ row = 5 ∨ 6 < row)) ∧
    (∃ (s : State) (row : BitVec 4), s.serves Isl.sb ∧ (row = 3 ∨ row = 5 ∨ 6 < row)) ∧
    (∃ (s : State) (row : BitVec 4) (y : Yealm), s.serves Isl.sb ∧ (row = 4 ∨ row = 6) ∧ s.eng.mayReplay y) ∧
    (∃ (s : State) (row : BitVec 4) (y : Yealm), s.serves Isl.sb ∧ (row = 4 ∨ row = 6) ∧ s.eng.mayReplay y) :=
  ⟨⟨working, 1, 11, some mapHead, mapEntries, working.eng, working.eng.mapReason (some mapHead) mapEntries, by unfold State.receives Engine.speaks State.serves; decide +kernel⟩,
   ⟨lit, 3, 0, some mapHead, mapEntries, lit.eng, lit.eng.mapReason (some mapHead) mapEntries, by unfold State.receives Engine.speaks State.serves; decide +kernel⟩,
   ⟨lit, 1, 0, none, [], lit.eng, 1, by unfold State.receives State.serves; decide +kernel⟩,
   ⟨mappable, 2, 1, some mapHead, mapEntries, (mappable.mdv fun m => { m with node := 1 }).eng, 0, by unfold State.receives State.serves; decide +kernel⟩,
   ⟨lit, by unfold State.receives State.serves; decide +kernel⟩,
   ⟨shadowing 1, by unfold State.receives State.serves; decide +kernel⟩,
   ⟨lit, by unfold State.receives State.serves; decide +kernel⟩,
   ⟨(shadowing 1).but fun e => e.put Fld.fltLoadToMs 1, by unfold State.receives State.serves; decide +kernel⟩,
   ⟨working, (frameOf 2 0 0).of (shadowReqBody 2 1 20 0), 2, 1, 20, 0, shadowReqBody 2 1 20 0, by unfold State.receives Engine.takesEarly State.serves Engine.unarmed; decide +kernel⟩,
   ⟨managing, (frameOf 1 0 0).of (shadowReqBody 2 1 20 0), 2, 1, 20, 0, shadowReqBody 2 1 20 0, by unfold State.receives Engine.takesEarly State.serves Engine.unarmed; decide +kernel⟩,
   ⟨managing, (frameOf 1 0 0).of (shadowReqBody 2 1 12 0), 2, 1, 12, 0, shadowReqBody 2 1 12 0, 2, managing.eng.grantReason 2 12 0, managing.eng.noteGuest 2 12 (managing.eng.grantReason 2 12 0 == 0), shadowGrantBody (grantOf 2 (managing.eng.grantReason 2 12 0 == 0) false (managing.eng.grantReason 2 12 0) 2 managing.eng.draftStep 12 0), by unfold State.receives Engine.takesEarly State.serves Engine.unarmed; decide +kernel⟩,
   ⟨gone2, (frameOf 1 0 0).of (shadowReqBody 2 1 12 0), 2, 1, 12, 0, shadowReqBody 2 1 12 0, 2, 2, gone2.eng, shadowGrantBody (grantOf 2 false false 2 2 gone2.eng.draftStep 12 0), by unfold State.receives Engine.takesEarly State.serves Engine.unarmed; decide +kernel⟩,
   ⟨working, (frameOf 0 0xFFFF 0).of (shadowGrantBody (grantOf 2 true true 0 0 7 20 3)), 2, true, true, 0, 0, 7, 20, 3, grantOf 2 true true 0 0 7 20 3, by unfold State.receives Engine.takesEarly Engine.takes State.serves Engine.unarmed; decide +kernel⟩,
   ⟨working, (frameOf 0 2 0).of (shadowGrantBody (grantOf 1 true false 0 2 7 20 3)), 1, true, false, 0, 2, 7, 20, 3, grantOf 1 true false 0 2 7 20 3, by unfold State.receives Engine.takesEarly Engine.takes State.serves Engine.unarmed; decide +kernel⟩,
   ⟨shadowing 1, (frameOf 0 1 0).of (shadowGrantBody (grantOf 1 false false 1 2 7 11 3)), 1, false, false, 1, 2, 7, 11, 3, grantOf 1 false false 1 2 7 11 3, by unfold State.receives Engine.takesEarly Engine.takes State.serves Engine.unarmed; decide +kernel⟩,
   ⟨shadowing 1, (frameOf 0 1 0).of (shadowGrantBody (grantOf 1 true false 0 2 7 11 3)), 1, true, false, 0, 2, 7, 11, 3, grantOf 1 true false 0 2 7 11 3, by unfold State.receives Engine.takesEarly Engine.takes State.serves Engine.unarmed; decide +kernel⟩,
   ⟨working, (frameOf 0 1 0).of (shadowGrantBody (grantOf 1 true false 0 1 7 20 3)), 1, true, false, 0, 1, 7, 20, 3, grantOf 1 true false 0 1 7 20 3, by unfold State.receives Engine.takesEarly Engine.takes State.serves Engine.unarmed; decide +kernel⟩,
   ⟨shadowing 1, (frameOf 0 1 0).of (stateHead 1 5 0 1 7 0 ++ []), 1, 5, 0, 1, 7, 0, [], by unfold State.receives Engine.takes State.serves Engine.unarmed; decide +kernel⟩,
   ⟨shadowing 1, (frameOf 0 1 0).of (stateHead 7 0 3 1 7 0 ++ leBytes 32 (pack [(0, 0, 77)])), 7, 0, 3, 1, 7, 0, leBytes 32 (pack [(0, 0, 77)]), by unfold State.receives Engine.takes State.serves Engine.unarmed; decide +kernel⟩,
   ⟨shadowing 1, (frameOf 0 1 0).of (stateHead 0xFF 0 0 0 7 0 ++ []), 0xFF, 0, 0, 0, 7, 0, [], by unfold State.receives Engine.takes State.serves Engine.unarmed; decide +kernel⟩,
   ⟨shadowing 1, (frameOf 0 1 0).of (stateHead 0xFF 0 0 0 7 1 ++ []), 0xFF, 0, 0, 0, 7, 1, [], by unfold State.receives Engine.takes State.serves Engine.unarmed; decide +kernel⟩,
   ⟨working, (frameOf 2 1 0).of (shadowAckBody 7 1 (1, 2, 3)), 7, 1, 1, 2, 3, by unfold State.receives Engine.takes State.serves Engine.unarmed; decide +kernel⟩,
   ⟨watched [], (frameOf 2 1 0).of (shadowAckBody 7 1 (1, 2, 3)), 7, 1, 1, 2, 3, by unfold State.receives Engine.takes State.serves Engine.unarmed; decide +kernel⟩,
   ⟨watched [(7, (1, 2, 3))], (frameOf 2 1 0).of (shadowAckBody 7 1 (1, 2, 3)), 7, 1, 1, 2, 3, (1, 2, 3), by unfold State.receives Engine.takes State.serves Engine.unarmed; decide +kernel⟩,
   ⟨watched [(7, (1, 2, 3))], (frameOf 2 1 0).of (shadowAckBody 7 1 (1, 2, 4)), 7, 1, 1, 2, 4, (1, 2, 3), by unfold State.receives Engine.takes State.serves Engine.unarmed; decide +kernel⟩,
   ⟨on fun e => { e with flt := { e.flt with parts := [(5, { score := 1000, level := 1, retired := false })] } }, 5, { score := 1000, level := 1, retired := false }, by unfold State.serves; decide +kernel⟩,
   ⟨on fun e => { e with flt := { e.flt with parts := [(5, { score := 70000, level := 3, retired := false })] } }, 5, { score := 70000, level := 3, retired := false }, by unfold State.serves; decide +kernel⟩,
   ⟨working, (frameOf 2 0 0).of (healthBody 2 2 100 1 3), 2, 2, 100, 1, 3, healthBody 2 2 100 1 3, by unfold State.receives Engine.takes State.serves Engine.unarmed; decide +kernel⟩,
   ⟨managing, (frameOf 1 0 0).of (healthBody 2 1 100 1 3), 2, 1, 100, 1, 3, healthBody 2 1 100 1 3, by unfold State.receives Engine.takes State.serves Engine.unarmed; decide +kernel⟩,
   ⟨managing.but fun e => e.put Fld.fltGovFloor 0, (frameOf 1 0 0).of (healthBody 2 3 100 1 3), 2, 3, 100, 1, 3, healthBody 2 3 100 1 3, by unfold State.receives Engine.takes State.serves Engine.unarmed; decide +kernel⟩,
   ⟨managing.but fun e => e.put Fld.fltGovPerHour 0, (frameOf 1 0 0).of (healthBody 2 3 100 1 3), 2, 3, 100, 1, 3, healthBody 2 3 100 1 3, by unfold State.receives Engine.takes State.serves Engine.unarmed; decide +kernel⟩,
   ⟨lit, by unfold State.serves; decide +kernel⟩,
   ⟨lit, 3, by unfold State.serves; decide +kernel⟩,
   ⟨lit, 1, by unfold State.serves; decide +kernel⟩,
   ⟨deciding5 1, 5, by unfold State.serves; decide +kernel⟩,
   ⟨lit, by unfold State.serves; decide +kernel⟩,
   ⟨lit, 3, by unfold State.serves; decide +kernel⟩,
   ⟨lit, 5, by unfold State.serves; decide +kernel⟩,
   ⟨lit, 7, by unfold State.serves; decide +kernel⟩,
   ⟨computing (sound yealm7), 4, sound yealm7, by unfold Engine.mayReplay State.serves; decide +kernel⟩,
   ⟨computing (sound yealm7), 6, sound yealm7, by unfold Engine.mayReplay State.serves; decide +kernel⟩⟩

set_option maxRecDepth 100000 in
theorem met_RegistersAnswerInTheWindow :
    (∃ (s : State) (off : BitVec 32) (size : Nat), off.toNat < 0x200000 ∧ accessOk off.toNat size = false ∧ s.serves Isl.ao) ∧
    (∃ (s : State) (off : BitVec 32) (size : Nat), off.toNat < 0x200000 ∧ accessOk off.toNat size = false ∧ s.serves Isl.ao) ∧
    (∃ (s : State) (f : Field) (isl : Nat) (off : BitVec 32) (v : BitVec 32), f ∈ [Fld.hruRdToUs, Fld.admHoldToMs, Fld.ylmStallLimitUs, Fld.pgmMoveToUs, Fld.varLoadToMs, Fld.smpGutToUs, Fld.spgCoreSelCore, Fld.mdvCsToUs, Fld.fltReplayMaxN, Fld.tskMigrateUs, Fld.bplStallToUs, Fld.evrFreezeToMs, Fld.errCtxSelEntry, Fld.cpcTbToUs] ∧ off.toNat = f.off ∧ regIsland f.off = some isl ∧ s.receives isl ∧ s.eng.mdv.joined = false ∧ f.admits v.toNat = true) ∧
    (∃ (s : State) (f : Field) (isl : Nat) (off : BitVec 32) (v : BitVec 32), f ∈ [Fld.hruRdToUs, Fld.admHoldToMs, Fld.ylmStallLimitUs, Fld.pgmMoveToUs, Fld.varLoadToMs, Fld.smpGutToUs, Fld.spgCoreSelCore, Fld.mdvCsToUs, Fld.fltReplayMaxN, Fld.tskMigrateUs, Fld.bplStallToUs, Fld.evrFreezeToMs, Fld.errCtxSelEntry, Fld.cpcTbToUs] ∧ off.toNat = f.off ∧ regIsland f.off = some isl ∧ s.receives isl ∧ s.eng.mdv.joined = false ∧ f.admits v.toNat = true) ∧
    (∃ (s : State) (f : Field) (isl : Nat) (off : BitVec 32) (v : BitVec 32), f ∈ [Fld.hruRdToUs, Fld.admHoldToMs, Fld.ylmStallLimitUs, Fld.pgmMoveToUs, Fld.varLoadToMs, Fld.smpGutToUs, Fld.spgCoreSelCore, Fld.mdvCsToUs, Fld.fltReplayMaxN, Fld.tskMigrateUs, Fld.bplStallToUs, Fld.evrFreezeToMs, Fld.errCtxSelEntry, Fld.cpcTbToUs] ∧ off.toNat = f.off ∧ regIsland f.off = some isl ∧ s.receives isl ∧ s.eng.mdv.joined = false ∧ f.admits v.toNat = false) ∧
    (∃ (off : BitVec 32) (size : Nat), off.toNat < 0x200000 ∧ accessOk off.toNat size = true ∧ size = 4 ∧ regIsland off.toNat = none) ∧
    (∃ (s : State) (off : BitVec 32) (size : Nat) (isl : Nat), off.toNat < 0x200000 ∧ accessOk off.toNat size = true ∧ regIsland off.toNat = some isl ∧ isl ≠ Isl.ao ∧ s.eng.live isl = false) ∧
    (∃ (s : State) (off : BitVec 32), off.toNat < 0x200000 ∧ accessOk off.toNat 4 = true ∧ s.receives ((regIsland off.toNat).getD Isl.ao) ∧ off.toNat ≠ 0x004060 ∧ off.toNat ∈ pairOffsets) ∧
    (∃ (s : State) (off : BitVec 32), off.toNat < 0x200000 ∧ accessOk off.toNat 4 = true ∧ s.receives ((regIsland off.toNat).getD Isl.ao) ∧ off.toNat ≠ 0x004060 ∧ off.toNat ∈ pairOffsets) ∧
    (∃ (s : State) (off : BitVec 32) (w : BitVec 32), off.toNat < 0x200000 ∧ accessOk off.toNat 4 = true ∧ s.receives ((regIsland off.toNat).getD Isl.ao) ∧ off.toNat ≠ 0x004060 ∧ off.toNat ∉ pairOffsets ∧ Table.get? s.eng.highs off.toNat = some w) ∧
    (∃ (s : State) (off : BitVec 32), off.toNat < 0x200000 ∧ accessOk off.toNat 4 = true ∧ s.receives ((regIsland off.toNat).getD Isl.ao) ∧ off.toNat ≠ 0x004060 ∧ off.toNat ∉ pairOffsets ∧ Table.get? s.eng.highs off.toNat = none) ∧
    (∃ (s : State) (a : BitVec 32) (size : Nat) (l : Nat) (p : Nat) (o : Nat), 0x200000 ≤ a.toNat ∧ accessPoint a.toNat = (l, p) ∧ (s.eng.core l).inService = true ∧ coreArea p size = some (.window, o) ∧ accessOk o size = true ∧ s.receives ((regIsland o).getD Isl.ao)) ∧
    (∃ (s : State) (a : BitVec 32) (size : Nat) (l : Nat) (p : Nat) (o : Nat), 0x200000 ≤ a.toNat ∧ accessPoint a.toNat = (l, p) ∧ (s.eng.core l).inService = true ∧ coreArea p size = some (.shared, o) ∧ s.serves Isl.cc ∧ Memory.wf s.eng.tsk.shared = true) ∧
    (∃ (s : State) (a : BitVec 32) (size : Nat) (l : Nat) (p : Nat) (o : Nat), 0x200000 ≤ a.toNat ∧ accessPoint a.toNat = (l, p) ∧ (s.eng.core l).inService = true ∧ coreArea p size = some (.shared, o) ∧ s.serves Isl.cc ∧ Memory.wf s.eng.tsk.shared = true) ∧
    (∃ (s : State) (a : BitVec 32) (size : Nat) (l : Nat) (p : Nat) (o : Nat), 0x200000 ≤ a.toNat ∧ accessPoint a.toNat = (l, p) ∧ (s.eng.core l).inService = true ∧ coreArea p size = some (.own, o) ∧ s.serves Isl.cc ∧ Memory.wf (Table.getD s.eng.tsk.locals l []) = true) ∧
    (∃ (s : State) (a : BitVec 32) (size : Nat) (l : Nat) (p : Nat) (o : Nat), 0x200000 ≤ a.toNat ∧ accessPoint a.toNat = (l, p) ∧ (s.eng.core l).inService = true ∧ coreArea p size = some (.own, o) ∧ s.serves Isl.cc ∧ Memory.wf (Table.getD s.eng.tsk.locals l []) = true) ∧
    (∃ (s : State) (a : BitVec 32) (size : Nat) (l : Nat) (p : Nat) (o : Nat), 0x200000 ≤ a.toNat ∧ accessPoint a.toNat = (l, p) ∧ (s.eng.core l).inService = true ∧ coreArea p size = some (.tasks, o) ∧ s.serves Isl.cc) ∧
    (∃ (s : State) (a : BitVec 32) (size : Nat) (l : Nat) (p : Nat), 0x200000 ≤ a.toNat ∧ accessPoint a.toNat = (l, p) ∧ (s.eng.core l).inService = true ∧ coreArea p size = none ∧ s.serves Isl.cc) ∧
    (∃ (s : State) (a : BitVec 32) (size : Nat) (l : Nat) (p : Nat) (area : CoreArea) (o : Nat), 0x200000 ≤ a.toNat ∧ accessPoint a.toNat = (l, p) ∧ (s.eng.core l).inService = true ∧ coreArea p size = some (area, o) ∧ area ∈ [.tasks, .flows, .bootRom, .view, .t0] ∧ s.serves Isl.cc) ∧
    (∃ (s : State) (a : BitVec 32) (size : Nat) (l : Nat) (p : Nat) (area : CoreArea) (o : Nat), 0x200000 ≤ a.toNat ∧ accessPoint a.toNat = (l, p) ∧ (s.eng.core l).inService = true ∧ coreArea p size = some (area, o) ∧ area ∈ [.tasks, .flows, .bootRom, .view, .t0] ∧ s.serves Isl.cc) ∧
    (∃ (s : State) (a : BitVec 32) (size : Nat) (l : Nat) (p : Nat) (area : CoreArea) (o : Nat), 0x200000 ≤ a.toNat ∧ accessPoint a.toNat = (l, p) ∧ (s.eng.core l).inService = true ∧ coreArea p size = some (area, o) ∧ area ∈ [.tasks, .flows, .bootRom, .view, .t0] ∧ s.serves Isl.cc) ∧
    (∃ (s : State) (a : BitVec 32) (size : Nat) (l : Nat) (p : Nat) (area : CoreArea) (o : Nat), 0x200000 ≤ a.toNat ∧ accessPoint a.toNat = (l, p) ∧ (s.eng.core l).inService = true ∧ coreArea p size = some (area, o) ∧ area ∈ [.tasks, .flows, .bootRom, .view, .t0] ∧ s.serves Isl.cc) ∧
    (∃ (s : State) (a : BitVec 32) (size : Nat) (l : Nat) (p : Nat) (area : CoreArea) (o : Nat), 0x200000 ≤ a.toNat ∧ accessPoint a.toNat = (l, p) ∧ (s.eng.core l).inService = true ∧ coreArea p size = some (area, o) ∧ area ∈ [.tasks, .flows, .bootRom, .view, .t0] ∧ s.serves Isl.cc) ∧
    (∃ (s : State) (a : BitVec 32) (size : Nat) (l : Nat) (p : Nat) (o : Nat), 0x200000 ≤ a.toNat ∧ accessPoint a.toNat = (l, p) ∧ (s.eng.core l).inService = true ∧ coreArea p size = some (.port, o) ∧ s.serves Isl.cc ∧ portSized o size = false) ∧
    (∃ (s : State) (a : BitVec 32) (size : Nat) (v : BitVec 64) (l : Nat) (p : Nat) (o : Nat) (c : Instr), 0x200000 ≤ a.toNat ∧ accessPoint a.toNat = (l, p) ∧ (s.eng.core l).inService = true ∧ coreArea p size = some (.port, o) ∧ s.serves Isl.cc ∧ portSized o size = true ∧ (o, c) ∈ [(0x008, Instr.waitStore (BitVec.ofNat 4 l) v), (0x018, .postStore v), (0x020, .cancelTask v), (0x028, .yieldStore (BitVec.ofNat 4 l)), (0x030, .doneStore (BitVec.ofNat 4 l) v), (0x038, .checkin (BitVec.ofNat 4 l)), (0x040, .stageStore (BitVec.ofNat 4 l) 0 v), (0x078, .stageStore (BitVec.ofNat 4 l) 7 v), (0x080, .createStore (BitVec.ofNat 4 l) v), (0x088, .destroyStore v), (0x090, .prioStore v)]) ∧
    (∃ (s : State) (a : BitVec 32) (size : Nat) (v : BitVec 64) (l : Nat) (p : Nat) (o : Nat) (c : Instr), 0x200000 ≤ a.toNat ∧ accessPoint a.toNat = (l, p) ∧ (s.eng.core l).inService = true ∧ coreArea p size = some (.port, o) ∧ s.serves Isl.cc ∧ portSized o size = true ∧ (o, c) ∈ [(0x008, Instr.waitStore (BitVec.ofNat 4 l) v), (0x018, .postStore v), (0x020, .cancelTask v), (0x028, .yieldStore (BitVec.ofNat 4 l)), (0x030, .doneStore (BitVec.ofNat 4 l) v), (0x038, .checkin (BitVec.ofNat 4 l)), (0x040, .stageStore (BitVec.ofNat 4 l) 0 v), (0x078, .stageStore (BitVec.ofNat 4 l) 7 v), (0x080, .createStore (BitVec.ofNat 4 l) v), (0x088, .destroyStore v), (0x090, .prioStore v)]) ∧
    (∃ (s : State) (a : BitVec 32) (size : Nat) (l : Nat) (p : Nat) (o : Nat) (c : Instr), 0x200000 ≤ a.toNat ∧ accessPoint a.toNat = (l, p) ∧ (s.eng.core l).inService = true ∧ coreArea p size = some (.port, o) ∧ s.serves Isl.cc ∧ portSized o size = true ∧ (o, c) ∈ [(0x000, Instr.selfLoad (BitVec.ofNat 4 l)), (0x010, .takeLoad (BitVec.ofNat 4 l)), (0x098, .nextLoad (BitVec.ofNat 4 l))]) ∧
    (∃ (s : State) (a : BitVec 32) (size : Nat) (l : Nat) (p : Nat) (o : Nat) (q : BitVec 10), 0x200000 ≤ a.toNat ∧ accessPoint a.toNat = (l, p) ∧ (s.eng.core l).inService = true ∧ coreArea p size = some (.queues, o) ∧ s.receives Isl.bp ∧ q = BitVec.ofNat 10 (o / 64) ∧ portSized o size = false) ∧
    (∃ (s : State) (a : BitVec 32) (size : Nat) (l : Nat) (p : Nat) (o : Nat) (q : BitVec 10), 0x200000 ≤ a.toNat ∧ accessPoint a.toNat = (l, p) ∧ (s.eng.core l).inService = true ∧ coreArea p size = some (.queues, o) ∧ s.receives Isl.bp ∧ q = BitVec.ofNat 10 (o / 64) ∧ portSized o size = true ∧ o % 64 = 0) ∧
    (∃ (s : State) (a : BitVec 32) (size : Nat) (l : Nat) (p : Nat) (o : Nat) (q : BitVec 10), 0x200000 ≤ a.toNat ∧ accessPoint a.toNat = (l, p) ∧ (s.eng.core l).inService = true ∧ coreArea p size = some (.queues, o) ∧ s.receives Isl.bp ∧ q = BitVec.ofNat 10 (o / 64) ∧ portSized o size = true ∧ o % 64 ≠ 0) ∧
    (∃ (s : State) (a : BitVec 32) (size : Nat) (l : Nat) (p : Nat) (o : Nat) (q : BitVec 10) (w : BitVec 64), 0x200000 ≤ a.toNat ∧ accessPoint a.toNat = (l, p) ∧ (s.eng.core l).inService = true ∧ coreArea p size = some (.queues, o) ∧ s.receives Isl.bp ∧ q = BitVec.ofNat 10 (o / 64) ∧ portSized o size = true ∧ o % 64 ≠ 0 ∧ s.eng.flag Fld.bplCtlEnable = true ∧ (s.eng.view l (o / 64)).popped[o % 64 / 8 - 1]? = some w) :=
  ⟨⟨lit, 3, 4, by unfold State.serves; decide +kernel⟩,
   ⟨lit, 0x1FFFFC, 8, by unfold State.serves; decide +kernel⟩,
   ⟨lit, Fld.hruRdToUs, Isl.hi, 0x010028, 1, by unfold State.receives State.serves; decide +kernel⟩,
   ⟨lit, Fld.hruRdToUs, Isl.hi, 0x010028, 65535, by unfold State.receives State.serves; decide +kernel⟩,
   ⟨lit, Fld.hruRdToUs, Isl.hi, 0x010028, 0, by unfold State.receives State.serves; decide +kernel⟩,
   ⟨0x1FFFFC, 4, by decide +kernel⟩,
   ⟨State.reset, 0x010028, 4, Isl.hi, by decide +kernel⟩,
   ⟨lit, 0x002024, by unfold State.receives State.serves; decide +kernel⟩,
   ⟨lit, 0x090018, by unfold State.receives State.serves; decide +kernel⟩,
   ⟨on fun e => { e with highs := [(0x010028, 5)] }, 0x010028, 5, by unfold State.receives State.serves; decide +kernel⟩,
   ⟨lit, 0x010028, by unfold State.receives State.serves; decide +kernel⟩,
   ⟨lit, 0x11010028, 4, 2, 0x1010028, 0x010028, by unfold State.receives State.serves; decide +kernel⟩,
   ⟨lit, 0x200001, 2, 0, 0x200001, 0x100001, by unfold State.serves; decide +kernel⟩,
   ⟨lit, 0x200001, 2, 0, 0x200001, 0x100001, by unfold State.serves; decide +kernel⟩,
   ⟨lit, 0x1003FFFF, 1, 2, 0x3FFFF, 0x3FFFF, by unfold State.serves; decide +kernel⟩,
   ⟨lit, 0x1003FFFF, 1, 2, 0x3FFFF, 0x3FFFF, by unfold State.serves; decide +kernel⟩,
   ⟨lit, 0x106B81C0, 8, 2, 0x6B81C0, 0x1C0, by unfold State.serves; decide +kernel⟩,
   ⟨lit, 0x5000000, 4, 0, 0x5000000, by unfold State.serves; decide +kernel⟩,
   ⟨lit, 0x86B8004, 4, 1, 0x6B8004, .tasks, 4, by unfold State.serves; decide +kernel⟩,
   ⟨lit, 0x86F8004, 4, 1, 0x6F8004, .flows, 4, by unfold State.serves; decide +kernel⟩,
   ⟨lit, 0x8F00004, 4, 1, 0xF00004, .bootRom, 4, by unfold State.serves; decide +kernel⟩,
   ⟨lit, 0xC000004, 4, 1, 0x4000004, .view, 4, by unfold State.serves; decide +kernel⟩,
   ⟨lit, 0x80000004, 4, 0, 0x100000004, .t0, 4, by unfold State.serves; decide +kernel⟩,
   ⟨lit, 0xA000008, 4, 1, 0x2000008, 8, by unfold State.serves; decide +kernel⟩,
   ⟨lit, 0xA000008, 8, 0, 1, 0x2000008, 8, .waitStore 1 0, by unfold State.serves; decide +kernel⟩,
   ⟨lit, 0xA000078, 8, 5, 1, 0x2000078, 0x78, .stageStore 1 7 5, by unfold State.serves; decide +kernel⟩,
   ⟨lit, 0xA000000, 8, 1, 0x2000000, 0, .selfLoad 1, by unfold State.serves; decide +kernel⟩,
   ⟨lit, 0xB000008, 4, 1, 0x3000008, 8, 0, by unfold State.receives State.serves; decide +kernel⟩,
   ⟨lit, 0xB000040, 8, 1, 0x3000040, 0x40, 1, by unfold State.receives State.serves; decide +kernel⟩,
   ⟨lit, 0xB000048, 8, 1, 0x3000048, 0x48, 1, by unfold State.receives State.serves; decide +kernel⟩,
   ⟨on fun e => (e.put Fld.bplCtlEnable 1).putView 1 1 { staged := [], popped := [9] }, 0xB000048, 8, 1, 0x3000048, 0x48, 1, 9, by unfold State.receives State.serves; decide +kernel⟩⟩

set_option maxRecDepth 100000 in
theorem met_InvalidDoorbellsAreIgnored :
    (∃ (s : State) (i : BitVec 12) (v : BitVec 32) (r : SubRing), s.receives Isl.hi ∧ r = s.eng.sub i.toNat ∧ (r.size ≤ v.toNat ∨ 65536 ≤ v.toNat ∨ r.enabled = false ∨ s.eng.flag Fld.hruCtlEnable = false ∨ r.coherent = true)) ∧
    (∃ (s : State) (i : BitVec 12) (v : BitVec 32) (r : SubRing), s.receives Isl.hi ∧ r = s.eng.sub i.toNat ∧ (r.size ≤ v.toNat ∨ 65536 ≤ v.toNat ∨ r.enabled = false ∨ s.eng.flag Fld.hruCtlEnable = false ∨ r.coherent = true)) ∧
    (∃ (s : State) (i : BitVec 12) (v : BitVec 32) (r : SubRing), s.receives Isl.hi ∧ r = s.eng.sub i.toNat ∧ (r.size ≤ v.toNat ∨ 65536 ≤ v.toNat ∨ r.enabled = false ∨ s.eng.flag Fld.hruCtlEnable = false ∨ r.coherent = true)) ∧
    (∃ (s : State) (i : BitVec 12) (v : BitVec 32) (r : SubRing), s.receives Isl.hi ∧ r = s.eng.sub i.toNat ∧ (r.size ≤ v.toNat ∨ 65536 ≤ v.toNat ∨ r.enabled = false ∨ s.eng.flag Fld.hruCtlEnable = false ∨ r.coherent = true)) ∧
    (∃ (s : State) (i : BitVec 12) (v : BitVec 32) (r : SubRing), s.receives Isl.hi ∧ r = s.eng.sub i.toNat ∧ (r.size ≤ v.toNat ∨ 65536 ≤ v.toNat ∨ r.enabled = false ∨ s.eng.flag Fld.hruCtlEnable = false ∨ r.coherent = true)) ∧
    (∃ (s : State) (i : BitVec 12) (v : BitVec 32) (r : EvtRing), s.receives Isl.hi ∧ r = s.eng.evt i.toNat ∧ (r.size ≤ v.toNat ∨ 65536 ≤ v.toNat ∨ r.enabled = false ∨ s.eng.flag Fld.hruCtlEnable = false ∨ r.coherent = true ∨ (r.tail + r.size - r.hostHead) % r.size < (v.toNat + r.size - r.hostHead) % r.size)) ∧
    (∃ (s : State) (i : BitVec 12) (v : BitVec 32) (r : EvtRing), s.receives Isl.hi ∧ r = s.eng.evt i.toNat ∧ (r.size ≤ v.toNat ∨ 65536 ≤ v.toNat ∨ r.enabled = false ∨ s.eng.flag Fld.hruCtlEnable = false ∨ r.coherent = true ∨ (r.tail + r.size - r.hostHead) % r.size < (v.toNat + r.size - r.hostHead) % r.size)) ∧
    (∃ (s : State) (i : BitVec 12) (v : BitVec 32) (r : EvtRing), s.receives Isl.hi ∧ r = s.eng.evt i.toNat ∧ (r.size ≤ v.toNat ∨ 65536 ≤ v.toNat ∨ r.enabled = false ∨ s.eng.flag Fld.hruCtlEnable = false ∨ r.coherent = true ∨ (r.tail + r.size - r.hostHead) % r.size < (v.toNat + r.size - r.hostHead) % r.size)) ∧
    (∃ (s : State) (i : BitVec 12) (v : BitVec 32) (r : EvtRing), s.receives Isl.hi ∧ r = s.eng.evt i.toNat ∧ (r.size ≤ v.toNat ∨ 65536 ≤ v.toNat ∨ r.enabled = false ∨ s.eng.flag Fld.hruCtlEnable = false ∨ r.coherent = true ∨ (r.tail + r.size - r.hostHead) % r.size < (v.toNat + r.size - r.hostHead) % r.size)) ∧
    (∃ (s : State) (i : BitVec 12) (v : BitVec 32) (r : EvtRing), s.receives Isl.hi ∧ r = s.eng.evt i.toNat ∧ (r.size ≤ v.toNat ∨ 65536 ≤ v.toNat ∨ r.enabled = false ∨ s.eng.flag Fld.hruCtlEnable = false ∨ r.coherent = true ∨ (r.tail + r.size - r.hostHead) % r.size < (v.toNat + r.size - r.hostHead) % r.size)) ∧
    (∃ (s : State) (i : BitVec 12) (v : BitVec 32) (r : EvtRing), s.receives Isl.hi ∧ r = s.eng.evt i.toNat ∧ (r.size ≤ v.toNat ∨ 65536 ≤ v.toNat ∨ r.enabled = false ∨ s.eng.flag Fld.hruCtlEnable = false ∨ r.coherent = true ∨ (r.tail + r.size - r.hostHead) % r.size < (v.toNat + r.size - r.hostHead) % r.size)) :=
  ⟨⟨ringed, 0, 64, sub0, by unfold State.receives State.serves; decide +kernel⟩,
   ⟨ringed, 0, 65536, sub0, by unfold State.receives State.serves; decide +kernel⟩,
   ⟨ringed, 5, 0, ringed.eng.sub 5, by unfold State.receives State.serves; decide +kernel⟩,
   ⟨ringed.but fun e => e.put Fld.hruCtlEnable 0, 0, 63, sub0, by unfold State.receives State.serves; decide +kernel⟩,
   ⟨ringed, 2, 63, { sub0 with ctx := ctx2 }, by unfold State.receives State.serves; decide +kernel⟩,
   ⟨ringed, 3, 64, evt3, by unfold State.receives State.serves; decide +kernel⟩,
   ⟨ringed, 3, 65536, evt3, by unfold State.receives State.serves; decide +kernel⟩,
   ⟨ringed, 5, 0, ringed.eng.evt 5, by unfold State.receives State.serves; decide +kernel⟩,
   ⟨ringed.but fun e => e.put Fld.hruCtlEnable 0, 3, 3, evt3, by unfold State.receives State.serves; decide +kernel⟩,
   ⟨ringed, 4, 3, { evt3 with ctx := ctx4 }, by unfold State.receives State.serves; decide +kernel⟩,
   ⟨ringed, 3, 6, evt3, by unfold State.receives State.serves; decide +kernel⟩⟩

set_option maxRecDepth 100000 in
theorem met_DoneEndsTheActiveError :
    (∃ (s : State) (a : ErrEntry) (x : ErrEntry), s.serves Isl.ao ∧ s.eng.err.active = some a ∧ s.eng.err.suspended = some x) ∧
    (∃ (s : State) (a : ErrEntry) (p : ErrEntry) (ps : List ErrEntry), s.serves Isl.ao ∧ s.eng.err.active = some a ∧ s.eng.err.suspended = none ∧ s.eng.err.pending = p :: ps) ∧
    (∃ (s : State) (a : ErrEntry), s.serves Isl.ao ∧ s.eng.err.active = some a ∧ s.eng.err.suspended = none ∧ s.eng.err.pending = []) ∧
    (∃ (s : State), s.serves Isl.ao ∧ s.eng.err.active = none) ∧
    (∃ (v : BitVec 64), v.getLsbD 0 = true) :=
  ⟨⟨erring (some err1) (some err2) [err2], err1, err2, by unfold State.serves; decide +kernel⟩,
   ⟨erring (some err1) none [err2, err1], err1, err2, [err1], by unfold State.serves; decide +kernel⟩,
   ⟨erring (some err1) none [], err1, by unfold State.serves; decide +kernel⟩,
   ⟨lit, by unfold State.serves; decide +kernel⟩,
   ⟨1, by decide +kernel⟩⟩

set_option maxRecDepth 100000 in
theorem met_SlotsAreReusedInOrder :
    (∃ (f : FreeList) (g : FreeList) (k : Nat), f.take = some (k, g)) ∧
    (∃ (f : FreeList) (g : FreeList) (k : Nat), f.take = some (k, g)) ∧
    (∃ (e : Engine) (slot : Nat), e.req? slot ≠ none) ∧
    (∃ (s : State) (i : BitVec 12) (d : Staged) (data : ListRead), s.receives Isl.sb ∧ s.eng.decodes i.toNat d 1 ∧ d.reads = .done data ∧ s.eng.submitCheck d (d.submitOf (s.eng.sub d.ring)) data = none ∧ s.eng.slots.listing ≠ []) :=
  ⟨⟨FreeList.full 4, { fresh := 1, limit := 4, freed := [] }, 0, by decide +kernel⟩,
   ⟨{ fresh := 4, limit := 4, freed := [2, 1] }, { fresh := 4, limit := 4, freed := [1] }, 2, by decide +kernel⟩,
   ⟨decoding.eng, 5, by decide +kernel⟩,
   ⟨given { submit0 with reads := .done tokens2 }, 0, { submit0 with reads := .done tokens2 }, tokens2, by unfold State.receives Engine.decodes State.serves; decide +kernel⟩⟩

end Sys2Proof.Tests
end

section
/-!
# What every command does to the queue

The shapes in which a command acts on the state, each of which answers a next state with the same queue, and the step over them.
-/

namespace Sys2Proof.Machine

/-! ### Outcomes that keep the queue -/

/-- An outcome of s is a next state with the queue of s. -/
def State.Completes (s : State) (o : Host.Outcome State Fault Refusal) : Prop := ∃ t, o = .next t ∧ t.pending = s.pending

theorem State.act_completes (s : State) (f : Engine → Engine) : s.Completes (s.act f) := ⟨_, rfl, rfl⟩

theorem State.actIn_completes (s : State) (isl : Nat) (f : Engine → Engine) : s.Completes (s.actIn isl f) := s.act_completes _

theorem State.cross_completes (s : State) (isl : Nat) (c : Instr) (f : Engine → Engine) : s.Completes (s.cross isl c f) := by
  unfold State.cross
  split
  · exact s.act_completes f
  · exact ⟨_, rfl, rfl⟩

theorem State.access_completes (s : State) (c : Instr) (off size : Nat) (bad good : Engine → Engine) :
    s.Completes (s.access c off size bad good) := by
  unfold State.access
  split
  · exact s.actIn_completes _ _
  · split
    · exact s.actIn_completes _ _
    · split
      · exact s.actIn_completes _ _
      · exact s.cross_completes _ _ _

theorem State.coreAccess_completes (s : State) (c : Instr) (l address size : Nat) (bad : Engine → Engine)
    (good queue : Nat → Engine → Engine) (other : Engine → Engine) :
    s.Completes (s.coreAccess c l address size bad good queue other) := by
  unfold State.coreAccess
  extract_lets by_
  split
  · exact s.access_completes _ _ _ _ _
  · exact s.cross_completes _ _ _
  · exact s.actIn_completes _ _

theorem execRegisterWrite_completes (offset : BitVec 32) (size : Nat) (value : BitVec 64) (s : State) :
    s.Completes (execRegisterWrite offset size value s) := by
  unfold execRegisterWrite
  extract_lets bad good
  split
  · exact s.access_completes _ _ _ _ _
  · exact s.coreAccess_completes _ _ _ _ _ _ _ _

theorem execRegisterRead_completes (offset : BitVec 32) (size : Nat) (s : State) :
    s.Completes (execRegisterRead offset size s) := by
  unfold execRegisterRead
  extract_lets bad good
  split
  · exact s.access_completes _ _ _ _ _
  · exact s.coreAccess_completes _ _ _ _ _ _ _ _

theorem execTimebaseStrobe_completes (count : BitVec 64) (s : State) : s.Completes (execTimebaseStrobe count s) := by
  unfold execTimebaseStrobe
  split
  · exact ⟨s, rfl, rfl⟩
  · split
    · exact s.act_completes _
    · exact State.act_completes { s with tb := s.tb.strobe count.toNat } _

/-- A command comes to its island through a crossing, happens inside it, or is one of the seven that move the timebase, a reset or a
register. -/
theorem exec_completes (c : Instr) (s : State) : s.Completes (exec c s) := by
  cases c with
  | timebaseStrobe count => exact execTimebaseStrobe_completes count s
  | aoResetAssert => exact ⟨_, rfl, rfl⟩
  | aoResetRelease | mainResetAssert | mainResetRelease => dsimp only [exec]; exact s.act_completes _
  | registerWrite offset size value => exact execRegisterWrite_completes offset size value s
  | registerRead offset size => exact execRegisterRead_completes offset size s
  | schedulerEnable | unitPush | push | pop | stagePayloadWord | queueEnable | queueDisable | queueReset | pageMoveCompletion
  | restoreConfirmed | stopSet | stopClear | ringEnable | ringContextReadDone | ringDisable | sqTail | eqHead | watchLineSnoop
  | hostWriteCreditReturn | descriptorFetchReturn | tokenListReadDone | submit | nop | append | cancel | pause | resume | release
  | queryRequest | tenantSet | familyConfig | familyConfigBlockReadDone | familyRemove | additionLoad | additionRetire
  | prefixLoad | prefixRetire | queryTenant | queryFamily | queryAddition | fence | fenceBoundary | logitTile | spgTileRequest
  | katCommand | manifestAckOk | manifestAckRetry | courseBegun | courseTime | segDone | segLate | baseStall | baseFailed
  | kvFailed | stepDone | modeWrite | admissionOpen | admissionClose | joinCommand | frameDiscard | join | lease
  | fenceRankCommand | fenceMessage | probe | probeReply | fabricStatus | ack | segReport | courseStart | pageFail | ops
  | manifest | tokens | partials | shadowCommand | withdrawCommand | shadowReq | shadowGrant | state | shadowAck | abort
  | event | eventMirrorAck | journal | mirrorAck | takeover | health => dsimp only [exec]; exact s.cross_completes _ _ _
  | _ => dsimp only [exec]; exact s.actIn_completes _ _

/-- Settles O3: every command's meaning is one of the shapes above, and each keeps the queue. -/
theorem everyCommandCompletes : Obligations.EveryCommandCompletes := exec_completes

/-- Settles O1: a step takes the front of the queue by its definition. -/
theorem stepTakesTheFrontCommand : Obligations.StepTakesTheFrontCommand := by
  intro c s rest
  rfl

end Sys2Proof.Machine
end

section
/-!
# Commands, records and reports

How a command acts on an island that runs; what a record of the log and a report to the error unit leave; and what a report counts.
-/

namespace Sys2Proof.Machine

/-! ### A command to an island that runs -/

theorem State.act_seen (s : State) (f : Engine → Engine) : s.act f = .next { s with eng := f s.seen } := rfl

/-- An event inside an island that runs acts on the engine it sees. -/
theorem State.actIn_serves {s : State} {isl : Nat} (h : s.serves isl) (f : Engine → Engine) :
    s.actIn isl f = .next { s with eng := f s.seen } := s.actIn_live isl f h

/-- What comes from outside an island that receives acts on the engine it sees. -/
theorem State.cross_receives {s : State} {isl : Nat} (h : s.receives isl) (c : Instr) (f : Engine → Engine) :
    s.cross isl c f = .next { s with eng := f s.seen } := s.cross_live isl c f h.1 h.2

/-! ### What a record of the log and a report to the error unit leave -/

section
variable {e e' : Engine}

theorem LogOnly.ylm_eq (h : LogOnly e e') : e'.ylm = e.ylm := by rw [h.1]
theorem LogOnly.err_eq (h : LogOnly e e') : e'.err = e.err := by rw [h.1]
theorem LogOnly.out_eq (h : LogOnly e e') : e'.out = e.out := by rw [h.1]
theorem LogOnly.rafter_eq (h : LogOnly e e') : e'.rafter = e.rafter := by rw [h.1]
theorem LogOnly.stepNo_eq (h : LogOnly e e') : e'.stepNo = e.stepNo := by rw [h.1]

theorem ReportOnly.ylm_eq (h : ReportOnly e e') : e'.ylm = e.ylm := by rw [h.1]
theorem ReportOnly.var_eq (h : ReportOnly e e') : e'.var = e.var := by rw [h.1]
theorem ReportOnly.regs_eq (h : ReportOnly e e') : e'.regs = e.regs := by rw [h.1]
theorem ReportOnly.highs_eq (h : ReportOnly e e') : e'.highs = e.highs := by rw [h.1]
theorem ReportOnly.stepNo_eq (h : ReportOnly e e') : e'.stepNo = e.stepNo := by rw [h.1]
theorem ReportOnly.fatal_eq (h : ReportOnly e e') : e'.err.fatal = e.err.fatal := h.2.2.2.1.2.2

end

theorem Engine.log_only (e : Engine) (code : Nat) (payload : List Nat) : LogOnly e (e.log code payload) := (e.log_steady code payload).1

/-! ### A report counts once, in the counter of its class (R336) -/

/-- The counter of a class. -/
def classCnt : Nat → Nat
  | 0 => Cnt.errCorr
  | 1 => Cnt.errReq
  | 2 => Cnt.errStep
  | _ => Cnt.errFatal

/-- A class's counter is none of the others that a report can move. -/
theorem classCnt_apart (cls : Nat) :
    classCnt cls ≠ Cnt.errInjected ∧ classCnt cls ≠ Cnt.errPendOvf ∧ classCnt cls ≠ Cnt.errRingLost ∧ classCnt cls < 0x6000 := by
  match cls with
  | 0 | 1 | 2 => decide
  | _ + 3 =>
    simp only [classCnt]
    decide

theorem Engine.notifyError_cnt (e : Engine) : e.notifyError.cnt = e.cnt := by
  unfold Engine.notifyError Engine.postFlag
  split
  · split <;> rfl
  · rfl

theorem Engine.evaluate_cnt (e : Engine) (det : Nat) : (e.evaluate det).2.cnt = e.cnt := by
  unfold Engine.evaluate
  simp only
  split <;> rfl

theorem Engine.evaluate_out (e : Engine) (det : Nat) : (e.evaluate det).2.out = e.out := by
  unfold Engine.evaluate
  simp only
  split <;> rfl

theorem Engine.judge_cnt (e : Engine) (det : Nat) (given : Option Bool) : (e.judge det given).2.cnt = e.cnt := by
  cases given
  · exact e.evaluate_cnt det
  · rfl

theorem Engine.errPend_count {c : Nat} (h : c ≠ Cnt.errPendOvf) (e : Engine) (x : ErrEntry) : (e.errPend x).2.count c = e.count c := by
  unfold Engine.errPend
  split
  · rfl
  · exact e.count_bump_ne h

theorem Engine.errReturn_count {c : Nat} (h : c ≠ Cnt.errPendOvf) (e : Engine) (x : Option ErrEntry) :
    (e.errReturn x).count c = e.count c := by
  cases x with
  | none => rfl
  | some x => exact e.errPend_count h x

theorem Engine.errEnter_count {c : Nat} (h : c ≠ Cnt.errPendOvf) (e : Engine) (x : ErrEntry) : (e.errEnter x).2.count c = e.count c := by
  unfold Engine.errEnter
  extract_lets r
  split
  · rfl
  · split
    · exact Engine.count_congr (Engine.notifyError_cnt _) c
    · split
      · exact (Engine.count_congr (Engine.notifyError_cnt _) c).trans (e.errReturn_count h r.suspended)
      · exact e.errPend_count h x

theorem Engine.errRecord_count {c : Nat} (h : c ≠ Cnt.errRingLost) (hlog : c < 0x6000 ∨ 0x7000 ≤ c) (e : Engine) (x : ErrEntry)
    (escalated unhandled : Bool) : (e.errRecord x escalated unhandled).count c = e.count c := by
  unfold Engine.errRecord
  extract_lets words next v0 body record e0 v1 e1 code e2
  have h1 : e1.count c = e.count c := by
    show (if _ then _ else _ : Engine).count c = _
    split
    · rfl
    · split
      · exact Engine.count_bump_ne _ h
      · rfl
  have h2 : e2.count c = e1.count c := (Engine.logArrive_steady _ _ _ _ _).1.2.2 c hlog
  split
  · exact h2.trans h1
  · exact h2.trans h1

/-- ERR counts what it takes. -/
theorem Engine.errTake_count (e : Engine) (det cls : Nat) (injected : Bool) (island : Nat) (handle : Handle) (detail : Nat) :
    (e.errTake det cls injected island handle detail).count (classCnt cls) = e.count (classCnt cls) + 1#32 := by
  unfold Engine.errTake
  extract_lets x v1 e1 e2 e3
  have h2 : e2.count (classCnt cls) = e.count (classCnt cls) + 1#32 := by
    have hcls : (match cls with | 0 => Cnt.errCorr | 1 => Cnt.errReq | 2 => Cnt.errStep | _ => Cnt.errFatal) = classCnt cls := by
      match cls with
      | 0 | 1 | 2 | _ + 3 => rfl
    have : e2 = e1.bump (classCnt cls) := congrArg e1.bump hcls
    rw [this, Engine.count_bump_self]
    rfl
  obtain ⟨hinj, hovf, hlost, hlog⟩ := classCnt_apart cls
  have h3 : e3.count (classCnt cls) = e2.count (classCnt cls) := by
    show (if _ then _ else _ : Engine).count _ = _
    split
    · exact Engine.count_bump_ne _ hinj
    · rfl
  split
  rename_i u e4 heq
  have h4 : e4.count (classCnt cls) = e3.count (classCnt cls) := by
    have : e4 = (u, e4).2 := rfl
    rw [this, ← heq]
    split
    · exact e3.errEnter_count hovf x
    · rfl
  rw [Engine.errRecord_count hlost (.inl hlog), h4, h3, h2]

theorem Engine.report_count {c cls : Nat} (hc : classCnt cls = c) (e : Engine) (det : Nat) (handle : Handle) (detail : Nat)
    (given : Option Bool) : (e.report det cls handle detail given).count c = e.count c + 1#32 := by
  subst hc
  unfold Engine.report
  simp only
  rw [Engine.errTake_count, Engine.count_congr (e.judge_cnt det given)]

theorem Engine.badAccess_count (e : Engine) (offset : Nat) :
    (e.badAccess offset).count Cnt.errCorr = e.count Cnt.errCorr + 1#32 := Engine.report_count rfl e Det.registerAccess nullHandle offset none

/-! ### FATAL (R339) -/

theorem Engine.fatalStop_cnt (e : Engine) : e.fatalStop.cnt = e.cnt := by
  unfold Engine.fatalStop Engine.fenceSelf
  split
  · split <;> rfl
  · rfl

theorem Engine.fatalReset_cnt (e : Engine) : e.fatalReset.cnt = e.cnt := by
  unfold Engine.fatalReset
  simp only
  split <;> rfl

theorem Engine.fatalReset_err (e : Engine) : e.fatalReset.err = e.err := by
  unfold Engine.fatalReset
  simp only
  split <;> rfl

theorem Engine.raiseFatal_fatal (e : Engine) (det : Nat) (handle : Handle) (detail : Nat) (given : Option Bool) :
    (e.raiseFatal det handle detail given).err.fatal = true := by
  unfold Engine.raiseFatal
  simp only
  rw [Engine.fatalReset_err, (Engine.errTake_only _ _ _ _ _ _ _).fatal_eq]
  rfl

theorem Engine.raiseFatal_count (e : Engine) (det : Nat) (handle : Handle) (detail : Nat) (given : Option Bool) :
    (e.raiseFatal det handle detail given).count Cnt.errFatal = e.count Cnt.errFatal + 1#32 := by
  unfold Engine.raiseFatal
  simp only
  rw [Engine.count_congr (Engine.fatalReset_cnt _)]
  refine (Engine.errTake_count _ det Cls.fatal _ _ _ _).trans ?_
  rw [Engine.count_congr (Engine.fatalStop_cnt _), Engine.count_congr (e.judge_cnt det given)]
  rfl

end Sys2Proof.Machine
end

section
/-!
# Acknowledged manifests

The begin of a step, the delivery of a manifest and its failures (R5, R26, R135, R375).
-/

namespace Sys2Proof.Machine

/-! ### The manifest's bytes -/

/-- A manifest is written from the yealm and the families alone (R130 to R134). -/
theorem Engine.manifestBytes_congr {e e' : Engine} (h : e'.var = e.var) (y : Yealm) : e'.manifestBytes y = e.manifestBytes y := by
  have hcourse : e'.courseBytes = e.courseBytes := by
    funext c
    simp only [Engine.courseBytes, Engine.family, h]
  simp only [Engine.manifestBytes, Engine.manifestBody, hcourse]

/-! ### The begin of a step keeps the step that opened (R5, R113, R212) -/

/-- e' has the same step in compute and the same step cycle as e. -/
def SameStep (e e' : Engine) : Prop :=
  e'.ylm.current = e.ylm.current ∧ e'.ylm.next = e.ylm.next ∧ e'.ylm.runs = e.ylm.runs ∧ e'.ylm.stepDone = e.ylm.stepDone ∧
    e'.stepNo = e.stepNo

theorem SameStep.of_ylm {e e' : Engine} (h : e'.ylm = e.ylm) (hn : e'.stepNo = e.stepNo) : SameStep e e' := by
  simp only [SameStep, h, hn, and_self]

theorem SameStep.refl (e : Engine) : SameStep e e := .of_ylm rfl rfl

theorem SameStep.trans {a b c : Engine} (h : SameStep a b) (k : SameStep b c) : SameStep a c := by
  obtain ⟨h1, h2, h3, h4, h5⟩ := h
  obtain ⟨k1, k2, k3, k4, k5⟩ := k
  exact ⟨k1.trans h1, k2.trans h2, k3.trans h3, k4.trans h4, k5.trans h5⟩

theorem SameStep.foldl {α : Type} {f : Engine → α → Engine} (hf : ∀ e x, SameStep e (f e x)) (l : List α) (e : Engine) :
    SameStep e (l.foldl f e) := by
  induction l generalizing e with
  | nil => exact .refl e
  | cons x l ih => exact (hf e x).trans (ih _)

theorem SameStep.log (e : Engine) (code : Nat) (payload : List Nat) : SameStep e (e.log code payload) :=
  .of_ylm (e.log_only code payload).ylm_eq (e.log_only code payload).stepNo_eq

theorem Engine.noteIf_sameStep (e : Engine) (own : Bool) (u : UndoEntry) : SameStep e (e.noteIf own u) := by
  unfold Engine.noteIf
  split
  · exact .of_ylm rfl rfl
  · exact .refl e

theorem Engine.modAny_sameStep (e : Engine) (slot : Nat) (f : Rafter → Rafter) : SameStep e (e.modAny slot f) := by
  unfold Engine.modAny
  split <;> exact .of_ylm rfl rfl

theorem Engine.putCell_sameStep (e : Engine) (c : Nat) (x : CountSet) : SameStep e (e.putCell c x) := .of_ylm rfl rfl

theorem Engine.linkCell_sameStep (e : Engine) (own : Bool) (slot c : Nat) : SameStep e (e.linkCell own slot c) := by
  unfold Engine.linkCell
  split
  · exact (e.noteIf_sameStep _ _).trans (.of_ylm rfl rfl)
  · split
    · exact .refl e
    · exact (e.noteIf_sameStep _ _).trans (Engine.modAny_sameStep _ _ _)

theorem Engine.addCount_sameStep (e : Engine) (own : Bool) (slot vocab token : Nat) : SameStep e (e.addCount own slot vocab token) := by
  unfold Engine.addCount
  extract_lets l home chain
  split
  · exact (e.noteIf_sameStep _ _).trans (.of_ylm rfl rfl)
  · split
    · exact (e.noteIf_sameStep _ _).trans (.of_ylm rfl rfl)
    · split
      · exact (e.noteIf_sameStep _ _).trans (.of_ylm rfl rfl)
      · split
        · exact (e.noteIf_sameStep _ _).trans (.of_ylm rfl rfl)
        · split
          · exact (SameStep.of_ylm rfl rfl).trans (.log _ _ _)
          · refine .trans ?_ (Engine.putCell_sameStep _ _ _)
            refine .trans ?_ (Engine.noteIf_sameStep _ _ _)
            refine .trans ?_ (Engine.linkCell_sameStep _ _ _ _)
            refine .trans ?_ (Engine.noteIf_sameStep _ _ _)
            exact .of_ylm rfl rfl

theorem Engine.countReplica_sameStep (e : Engine) (slot : Nat) (tokens : List Nat) : SameStep e (e.countReplica slot tokens) := by
  unfold Engine.countReplica
  split
  · exact .refl e
  · split
    · exact .of_ylm rfl rfl
    · exact .foldl (fun e t => e.addCount_sameStep _ _ _ t) tokens e

theorem Engine.tellFamilies_sameStep (e : Engine) (y : Yealm) : SameStep e (e.tellFamilies y) := by
  refine SameStep.foldl (fun e m => ?_) y.members e
  split
  · exact .refl e
  · split
    · exact .of_ylm rfl rfl
    · exact (SameStep.of_ylm rfl rfl).trans (Engine.countReplica_sameStep _ _ _)

theorem Engine.acceptManifest_sameStep (e : Engine) (y : Yealm) : SameStep e (e.acceptManifest y) :=
  (e.tellFamilies_sameStep y).trans ⟨rfl, rfl, rfl, rfl, rfl⟩

theorem Engine.takeKept_sameStep (e : Engine) : SameStep e e.takeKept := by
  unfold Engine.takeKept
  split
  · split
    · exact e.acceptManifest_sameStep _
    · exact .refl e
  · exact .refl e

theorem Engine.emitCtl_sameStep (e : Engine) (ws : List (BitVec 128)) : SameStep e (e.emitCtl ws) :=
  .foldl (f := fun e w => e.emit (.ctl w)) (fun _ _ => .of_ylm rfl rfl) ws e

theorem Engine.decodeInputs_sameStep (e : Engine) (y : Yealm) : SameStep e (e.decodeInputs y) := by
  refine SameStep.foldl (fun e x => ?_) _ e
  split
  · exact e.emitCtl_sameStep _
  · exact .refl e

theorem Engine.beginRecord_sameStep (e : Engine) (y : Yealm) : SameStep e (e.beginRecord y) := by
  unfold Engine.beginRecord
  split
  · split
    · exact .of_ylm rfl rfl
    · exact .refl e
  · exact .of_ylm rfl rfl

theorem Engine.journalMembers_sameStep (e : Engine) : SameStep e e.journalMembers := by
  unfold Engine.journalMembers
  split
  · exact .refl e
  · exact .of_ylm rfl rfl

/-- The step that begins: a yealm with a course is in compute under its number, its members as they begin. -/
theorem Engine.beginStep_step (e : Engine) (y : Yealm) (hc : y.courses ≠ []) :
    ∃ y', (e.beginStep y).ylm.current = some y' ∧ y'.step = y.step ∧ y'.courses = y.courses ∧ (e.beginStep y).ylm.next = none ∧
      (e.beginStep y).stepNo = y.step ∧ (e.beginStep y).ylm.runs = [] ∧ (e.beginStep y).ylm.stepDone = false := by
  unfold Engine.beginStep
  extract_lets v0 e0 y' e1 e2
  have hcourses : y'.courses.isEmpty = false := by
    simpa [y', List.isEmpty_eq_false_iff] using hc
  have hopen : SameStep ((e0.endStall y'.step).openStep y') e2 := by
    refine .trans ?_ (Engine.takeKept_sameStep _)
    refine .trans ?_ (Engine.decodeInputs_sameStep _ _)
    refine .trans ?_ (.of_ylm rfl rfl : SameStep e1 _)
    exact (Engine.beginRecord_sameStep _ _).trans (Engine.journalMembers_sameStep _)
  obtain ⟨hcur, hnext, hruns, hdone, hno⟩ := hopen
  simp only [hcourses, Bool.false_eq_true, if_false]
  exact ⟨y', hcur, rfl, rfl, hnext, hno, hruns, hdone⟩

/-! ### Which manifest an acknowledgement names (R135, R375) -/

theorem Engine.manifestAck_next {e : Engine} {n : Nat} (h : e.ylm.mfStep = some n) (f g : Engine → Engine) :
    e.manifestAck (BitVec.ofNat 16 n).toNat f g = f e := by
  simp [Engine.manifestAck, Engine.awaitsAck, h]

theorem Engine.manifestAck_again {e : Engine} {n : Nat} (h : e.ylm.mfStep = none) (h' : e.ylm.reStep = some n) (f g : Engine → Engine) :
    e.manifestAck (BitVec.ofNat 16 n).toNat f g = g e := by
  simp [Engine.manifestAck, Engine.awaitsAck, Engine.awaitsAgain, h, h']

theorem Engine.manifestAck_other {e : Engine} {n : Nat} (h : e.awaitsAck n = false) (h' : e.awaitsAgain n = false) (f g : Engine → Engine) :
    e.manifestAck n f g = e.log Ev.manifestAckIgnored [n] := by
  simp [Engine.manifestAck, h, h']

theorem Engine.checkedOk_ok {e : Engine} (h : (e.evaluate Det.manifestCheck).1 = false) (ok retry : Engine → Engine) :
    e.checkedOk ok retry = ok (e.evaluate Det.manifestCheck).2 := by
  simp [Engine.checkedOk, h]

/-! ### The three commands while SB runs -/

theorem exec_manifestAckOk {s : State} (h : s.receives Isl.sb) (n : BitVec 16) :
    exec (.manifestAckOk n) s = .next { s with
      eng := s.seen.manifestAck n.toNat (fun e => e.checkedOk Engine.manifestDelivered Engine.manifestRetry)
        (fun e => e.checkedOk Engine.againDelivered Engine.againRetry) } :=
  s.cross_receives h _ _

theorem exec_manifestAckRetry {s : State} (h : s.receives Isl.sb) (n : BitVec 16) :
    exec (.manifestAckRetry n) s = .next { s with eng := s.seen.manifestAck n.toNat Engine.manifestRetry Engine.againRetry } :=
  s.cross_receives h _ _

theorem exec_manifestAckTimeout {s : State} {n : Nat} (h : s.serves Isl.sb) (hn : s.eng.ylm.mfStep = some n) :
    exec .manifestAckTimeout s = .next { s with eng := s.seen.manifestLost Det.manifestWatchdog } := by
  have hseen : s.seen.ylm.mfStep.isSome = true := by
    show s.eng.ylm.mfStep.isSome = true
    rw [hn]
    rfl
  dsimp only [exec]
  exact (s.actIn_serves h _).trans (by rw [if_pos hseen])

/-! ### Emission -/

theorem Engine.emitManifest_err (e : Engine) (y : Yealm) : (e.emitManifest y).err = e.err := rfl

theorem Engine.emitManifest_count (e : Engine) (y : Yealm) (c : Nat) : (e.emitManifest y).count c = e.count c := rfl

/-! ### Delivery -/

/-- A manifest delivered while another step computes is noted and archived; nothing begins. -/
theorem Engine.manifestDelivered_computing {e : Engine} {x y : Yealm} (hnext : e.ylm.next = some y) (hcur : e.ylm.current = some x) :
    e.manifestDelivered = { e with ylm := { e.ylm with mfStep := none, mfDelivered := true, mfRetried := false, mfFailures := 0,
                                                       archive := Table.put e.ylm.archive y.step y } } := by
  simp [Engine.manifestDelivered, Engine.tryBegin, hnext, hcur]

/-- A manifest delivered with no step in compute and no boundary open begins its step. -/
theorem Engine.manifestDelivered_begins {e : Engine} {y : Yealm} (hnext : e.ylm.next = some y) (hcur : e.ylm.current = none)
    (hopen : e.boundaryOpen = false) (hfatal : e.err.fatal = false) (hfence : e.mdv.fenced = false) :
    e.manifestDelivered =
      ({ e with ylm := { e.ylm with mfStep := none, mfDelivered := true, mfRetried := false, mfFailures := 0,
                                    archive := Table.put e.ylm.archive y.step y } } : Engine).beginStep y := by
  simp [Engine.manifestDelivered, Engine.tryBegin, hnext, hcur, hopen, hfatal, hfence]

/-! ### A failed delivery -/

theorem Engine.manifestDetail_frame (e : Engine) (det : Nat) :
    (e.manifestDetail det).2.regs = e.regs ∧ (e.manifestDetail det).2.cnt = e.cnt := by
  unfold Engine.manifestDetail
  split <;> exact ⟨rfl, rfl⟩

/-- A delivery that fails once more than FLT_REPLAY_MAX.N allows is FATAL, counted once. -/
theorem Engine.manifestLost_fatal {e : Engine} {y : Yealm} (det : Nat) (hnext : e.ylm.next = some y)
    (hmax : e.get Fld.fltReplayMaxN < e.ylm.mfFailures + 1) :
    (e.manifestLost det).err.fatal = true ∧ (e.manifestLost det).count Cnt.errFatal = e.count Cnt.errFatal + 1#32 := by
  unfold Engine.manifestLost
  split
  · rename_i h
    simp [hnext] at h
  · rename_i h
    extract_lets n ylm e1
    split
    rename_i detail e2 heq
    have h2 : e2.regs = e.regs ∧ e2.cnt = e.cnt := by
      have : e2 = (e1.manifestDetail det).2 := by rw [heq]
      rw [this]
      exact e1.manifestDetail_frame det
    have hmax2 : e2.get Fld.fltReplayMaxN < n := by
      rw [Engine.get_congr h2.1]
      exact hmax
    rw [if_pos hmax2]
    exact ⟨e2.raiseFatal_fatal _ _ _ _, (e2.raiseFatal_count _ _ _ _).trans (by rw [Engine.count_congr h2.2])⟩

/-- On a lone engine with no step in compute a missed acknowledgement is a STEP-class error, and the manifest is given again. -/
theorem Engine.manifestLost_watchdog {e : Engine} {y : Yealm} (hnext : e.ylm.next = some y) (hcur : e.ylm.current = none)
    (halone : e.mdv.joined = false) (hfatal : e.err.fatal = false) (hmax : e.ylm.mfFailures + 1 ≤ e.get Fld.fltReplayMaxN) :
    e.manifestLost Det.manifestWatchdog =
      (({ e with ylm := { e.ylm with mfRetried := false, mfFailures := e.ylm.mfFailures + 1 } } : Engine).report Det.manifestWatchdog Cls.step
        nullHandle (unitDetail Det.manifestWatchdog)).emitManifest y := by
  unfold Engine.manifestLost
  split
  · rename_i h
    simp [hnext] at h
  · rename_i y' h
    obtain rfl : y' = y := Option.some.inj (h.symm.trans hnext)
    extract_lets n ylm e1
    show (if e1.get Fld.fltReplayMaxN < n then _ else _ : Engine) = _
    have hmax1 : ¬ e1.get Fld.fltReplayMaxN < n := Nat.not_lt.2 hmax
    have hidle : ¬ (e1.ylm.current.any fun x => decide (e1.flt.commitStep < x.step)) = true := by
      simp [e1, ylm, hcur]
    have habort : e1.sendAbort y'.step Det.manifestWatchdog = e1 := by
      simp [Engine.sendAbort, e1, halone]
    rw [if_neg hmax1]
    simp only [if_neg hidle, habort]
    rw [if_neg]
    rw [(Engine.report_only _ _ _ _ _ _).fatal_eq]
    simp [e1, hfatal]

/-- The second RETRY is a failed delivery, the first is not. -/
theorem Engine.manifestRetry_first {e : Engine} {y : Yealm} (hnext : e.ylm.next = some y) (h : e.ylm.mfRetried = false) :
    e.manifestRetry = ({ e with ylm := { e.ylm with mfRetried := true } } : Engine).emitManifest y := by
  simp [Engine.manifestRetry, hnext, h]

theorem Engine.manifestRetry_second {e : Engine} {y : Yealm} (hnext : e.ylm.next = some y) (h : e.ylm.mfRetried = true) :
    e.manifestRetry = e.manifestLost Det.manifestCheck := by
  simp [Engine.manifestRetry, hnext, h]

theorem Engine.againRetry_first {e : Engine} {y : Yealm} (hcur : e.ylm.current = some y) (h : e.ylm.reRetried = false) :
    e.againRetry = ({ e with ylm := { e.ylm with reRetried := true } } : Engine).emitAgain y := by
  simp [Engine.againRetry, hcur, h]

/-! ### The clauses of O43, by the manifest and the command -/

section
variable {s : State} {y : Yealm}

/-- OK while another step computes. -/
theorem manifestAckOk_computing {x : Yealm} (h : s.receives Isl.sb) (hnext : s.eng.ylm.next = some y)
    (hmf : s.eng.ylm.mfStep = some y.step) (hdet : (s.eng.evaluate Det.manifestCheck).1 = false) (hcur : s.eng.ylm.current = some x) :
    ∃ t, exec (.manifestAckOk (BitVec.ofNat 16 y.step)) s = .next t ∧ t.eng.ylm.mfStep = none ∧ t.eng.ylm.mfDelivered = true ∧
      t.eng.ylm.next = some y ∧ t.eng.ylm.current = some x ∧ Table.get? t.eng.ylm.archive y.step = some y ∧
      t.eng.stepNo = s.eng.stepNo := by
  have hylm : (s.seen.evaluate Det.manifestCheck).2.ylm = s.eng.ylm := (s.seen.evaluate_only _).ylm_eq
  refine ⟨_, exec_manifestAckOk h _, ?_⟩
  dsimp only
  rw [Engine.manifestAck_next (e := s.seen) hmf, Engine.checkedOk_ok (e := s.seen) hdet,
    Engine.manifestDelivered_computing (by rw [hylm, hnext]) (by rw [hylm, hcur])]
  dsimp only
  exact ⟨rfl, rfl, by rw [hylm, hnext], by rw [hylm, hcur], Table.get?_put_self _ _ _, (s.seen.evaluate_only _).stepNo_eq⟩

/-- OK with nothing in the step's way. -/
theorem manifestAckOk_begins (h : s.receives Isl.sb) (hnext : s.eng.ylm.next = some y) (hmf : s.eng.ylm.mfStep = some y.step)
    (hdet : (s.eng.evaluate Det.manifestCheck).1 = false) (hcur : s.eng.ylm.current = none) (hopen : s.eng.boundaryOpen = false)
    (hfatal : s.eng.err.fatal = false) (hfence : s.eng.mdv.fenced = false) (hc : y.courses ≠ []) :
    ∃ t y', exec (.manifestAckOk (BitVec.ofNat 16 y.step)) s = .next t ∧ t.eng.ylm.current = some y' ∧ y'.step = y.step ∧
      y'.courses = y.courses ∧ t.eng.ylm.next = none ∧ t.eng.stepNo = y.step ∧ t.eng.ylm.runs = [] ∧ t.eng.ylm.stepDone = false := by
  have hrep : ReportOnly s.seen (s.seen.evaluate Det.manifestCheck).2 := s.seen.evaluate_only _
  obtain ⟨y', hbegun⟩ := Engine.beginStep_step _ y hc
  refine ⟨_, y', exec_manifestAckOk h _, ?_⟩
  dsimp only
  rw [Engine.manifestAck_next (e := s.seen) hmf, Engine.checkedOk_ok (e := s.seen) hdet,
    Engine.manifestDelivered_begins (by rw [hrep.ylm_eq]; exact hnext) (by rw [hrep.ylm_eq]; exact hcur) (by rw [hrep.1]; exact hopen)
      (by rw [hrep.fatal_eq]; exact hfatal) (by rw [hrep.1]; exact hfence)]
  exact hbegun

/-- The first RETRY. -/
theorem manifestAckRetry_first (h : s.receives Isl.sb) (hnext : s.eng.ylm.next = some y) (hmf : s.eng.ylm.mfStep = some y.step)
    (hre : s.eng.ylm.mfRetried = false) :
    ∃ t, exec (.manifestAckRetry (BitVec.ofNat 16 y.step)) s = .next t ∧ t.eng.ylm.mfRetried = true ∧
      t.eng.out = .manifest y.step (s.eng.manifestBytes y) :: s.eng.out ∧ t.eng.ylm.mfStep = some y.step ∧ t.eng.err = s.eng.err := by
  refine ⟨_, exec_manifestAckRetry h _, ?_⟩
  dsimp only
  rw [Engine.manifestAck_next (e := s.seen) hmf, Engine.manifestRetry_first (e := s.seen) hnext hre]
  exact ⟨rfl, rfl, rfl, rfl⟩

/-- A missed acknowledgement, while another emission is allowed. -/
theorem manifestAckTimeout_again (h : s.serves Isl.sb) (hnext : s.eng.ylm.next = some y) (hmf : s.eng.ylm.mfStep = some y.step)
    (hcur : s.eng.ylm.current = none) (halone : s.eng.alone) (hfatal : s.eng.err.fatal = false)
    (hmax : s.eng.ylm.mfFailures + 1 ≤ s.eng.get Fld.fltReplayMaxN) :
    ∃ t, exec .manifestAckTimeout s = .next t ∧ t.eng.ylm.mfFailures = s.eng.ylm.mfFailures + 1 ∧
      t.eng.out.head? = some (.manifest y.step (s.eng.manifestBytes y)) ∧ t.eng.ylm.mfStep = some y.step ∧
      t.eng.count Cnt.errStep = s.eng.count Cnt.errStep + 1#32 ∧ t.eng.err.fatal = false := by
  refine ⟨_, exec_manifestAckTimeout h hmf, ?_⟩
  dsimp only
  rw [Engine.manifestLost_watchdog (e := s.seen) hnext hcur halone.1 hfatal hmax]
  have hrep := Engine.report_only ({ s.seen with ylm := { s.seen.ylm with mfRetried := false, mfFailures := s.seen.ylm.mfFailures + 1 } } : Engine)
    Det.manifestWatchdog Cls.step nullHandle (unitDetail Det.manifestWatchdog) none
  refine ⟨?_, ?_, rfl, ?_, ?_⟩
  · exact congrArg Ylm.mfFailures hrep.ylm_eq
  · exact congrArg (fun b => some (Output.manifest y.step b)) (Engine.manifestBytes_congr hrep.var_eq y)
  · rw [Engine.emitManifest_count]
    exact Engine.report_count rfl _ _ _ _ _
  · rw [Engine.emitManifest_err]
    exact hrep.fatal_eq.trans hfatal

/-- A missed acknowledgement, one too many. -/
theorem manifestAckTimeout_fatal (h : s.serves Isl.sb) (hnext : s.eng.ylm.next = some y) (hmf : s.eng.ylm.mfStep = some y.step)
    (hmax : s.eng.get Fld.fltReplayMaxN < s.eng.ylm.mfFailures + 1) :
    ∃ t, exec .manifestAckTimeout s = .next t ∧ t.eng.err.fatal = true ∧
      t.eng.count Cnt.errFatal = s.eng.count Cnt.errFatal + 1#32 :=
  ⟨_, exec_manifestAckTimeout h hmf, Engine.manifestLost_fatal (e := s.seen) _ hnext hmax⟩

/-- The second RETRY, one failure too many. -/
theorem manifestAckRetry_fatal (h : s.receives Isl.sb) (hnext : s.eng.ylm.next = some y) (hmf : s.eng.ylm.mfStep = some y.step)
    (hmax : s.eng.get Fld.fltReplayMaxN < s.eng.ylm.mfFailures + 1) (hre : s.eng.ylm.mfRetried = true) :
    ∃ t, exec (.manifestAckRetry (BitVec.ofNat 16 y.step)) s = .next t ∧ t.eng.err.fatal = true ∧
      t.eng.count Cnt.errFatal = s.eng.count Cnt.errFatal + 1#32 := by
  refine ⟨_, exec_manifestAckRetry h _, ?_⟩
  dsimp only
  rw [Engine.manifestAck_next (e := s.seen) hmf, Engine.manifestRetry_second (e := s.seen) hnext hre]
  exact Engine.manifestLost_fatal (e := s.seen) _ hnext hmax

/-- OK for the manifest that a replay has emitted again. -/
theorem manifestAckOk_again (h : s.receives Isl.sb) (hcur : s.eng.ylm.current = some y) (hmf : s.eng.ylm.mfStep = none)
    (hre : s.eng.ylm.reStep = some y.step) (hdet : (s.eng.evaluate Det.manifestCheck).1 = false) :
    ∃ t, exec (.manifestAckOk (BitVec.ofNat 16 y.step)) s = .next t ∧ t.eng.ylm.reStep = none ∧ t.eng.ylm.current = some y ∧
      t.eng.out = s.eng.out := by
  refine ⟨_, exec_manifestAckOk h _, ?_⟩
  dsimp only
  rw [Engine.manifestAck_again (e := s.seen) hmf hre, Engine.checkedOk_ok (e := s.seen) hdet]
  refine ⟨rfl, ?_, s.seen.evaluate_out _⟩
  exact (congrArg Ylm.current (s.seen.evaluate_only _).ylm_eq).trans hcur

/-- The first RETRY of a manifest emitted again. -/
theorem manifestAckRetry_again (h : s.receives Isl.sb) (hcur : s.eng.ylm.current = some y) (hmf : s.eng.ylm.mfStep = none)
    (hre : s.eng.ylm.reStep = some y.step) (hrr : s.eng.ylm.reRetried = false) :
    ∃ t, exec (.manifestAckRetry (BitVec.ofNat 16 y.step)) s = .next t ∧ t.eng.ylm.reRetried = true ∧
      t.eng.ylm.reStep = some y.step ∧ t.eng.out = .manifest y.step (s.eng.manifestBytes y) :: s.eng.out := by
  refine ⟨_, exec_manifestAckRetry h _, ?_⟩
  dsimp only
  rw [Engine.manifestAck_again (e := s.seen) hmf hre, Engine.againRetry_first (e := s.seen) hcur hrr]
  exact ⟨rfl, rfl, rfl⟩

/-- Either acknowledgement, of a step that nobody awaits. -/
theorem manifestAck_ignored {n : BitVec 16} {c : Instr} (h : s.receives Isl.sb) (hack : s.eng.awaitsAck n.toNat = false)
    (hagain : s.eng.awaitsAgain n.toNat = false) (hc : c = .manifestAckOk n ∨ c = .manifestAckRetry n) :
    ∃ t, exec c s = .next t ∧ t.eng.ylm = s.eng.ylm ∧ t.eng.out = s.eng.out ∧ t.eng.err = s.eng.err ∧ t.eng.rafter = s.eng.rafter := by
  have hlog : LogOnly s.seen (s.seen.log Ev.manifestAckIgnored [n.toNat]) := s.seen.log_only _ _
  have hrun : exec c s = .next { s with eng := s.seen.log Ev.manifestAckIgnored [n.toNat] } := by
    rcases hc with rfl | rfl
    · rw [exec_manifestAckOk h, Engine.manifestAck_other (e := s.seen) hack hagain]
    · rw [exec_manifestAckRetry h, Engine.manifestAck_other (e := s.seen) hack hagain]
  exact ⟨_, hrun, hlog.ylm_eq, hlog.out_eq, hlog.err_eq, hlog.rafter_eq⟩

end

/-- Settles O43: each acknowledgement is taken by the manifest it names, and each clause is what that manifest's rule does. -/
theorem manifestsAreAcknowledged : Obligations.ManifestsAreAcknowledged := by
  unfold Obligations.ManifestsAreAcknowledged
  refine ⟨fun s y h hnext hmf hdet => ⟨fun x hcur => ?_, fun hcur hopen hfatal hfence hc => ?_⟩, fun s y h hnext hmf hre => ?_,
    fun s y h hnext hmf hcur halone hfatal hmax => ?_, fun s y h hnext hmf hmax => ?_, fun s y h hnext hmf hmax hre => ?_,
    fun s y h hcur hmf hre => ⟨fun hdet => ?_, fun hrr => ?_⟩, fun s n c h hack hagain hc => ?_⟩
  · exact manifestAckOk_computing h hnext hmf hdet hcur
  · exact manifestAckOk_begins h hnext hmf hdet hcur hopen hfatal hfence hc
  · exact manifestAckRetry_first h hnext hmf hre
  · exact manifestAckTimeout_again h hnext hmf hcur halone hfatal hmax
  · exact manifestAckTimeout_fatal h hnext hmf hmax
  · exact manifestAckRetry_fatal h hnext hmf hmax hre
  · exact manifestAckOk_again h hcur hmf hre hdet
  · exact manifestAckRetry_again h hcur hmf hre hrr
  · exact manifestAck_ignored h hack hagain hc

end Sys2Proof.Machine
end

section
/-!
# Register accesses

The window, the map of a control core, and what an access of either does (R11 to R13, R287).
-/

namespace Sys2Proof.Machine

/-! ### Accesses of the window (R12, R13) -/

theorem exec_registerWrite_window {off : BitVec 32} (h : off.toNat < 0x200000) (size : Nat) (v : BitVec 64) (s : State) :
    exec (.registerWrite off size v) s =
      s.access (.registerWrite off size v) off.toNat size (fun e => e.badAccess off.toNat) (fun e => e.regWrite off.toNat size v) := by
  dsimp only [exec]
  unfold execRegisterWrite
  exact if_pos h

theorem exec_registerRead_window {off : BitVec 32} (h : off.toNat < 0x200000) (size : Nat) (s : State) :
    exec (.registerRead off size) s =
      s.access (.registerRead off size) off.toNat size (fun e => (e.emit (.regData 0)).badAccess off.toNat)
        (fun e => e.regRead off.toNat size) := by
  dsimp only [exec]
  unfold execRegisterRead
  exact if_pos h

section
variable {s : State} {off size : Nat}

/-- An access of a wrong size or place is AO's to record. -/
theorem State.access_bad (h : accessOk off size = false) (hao : s.serves Isl.ao) (c : Instr) (bad good : Engine → Engine) :
    s.access c off size bad good = .next { s with eng := bad s.seen } := by
  simp only [State.access, h, Bool.not_false, if_true]
  exact s.actIn_serves hao bad

/-- A legal access of a unit whose island receives acts. -/
theorem State.access_receives (h : accessOk off size = true) (hr : s.receives ((regIsland off).getD Isl.ao)) (c : Instr)
    (bad good : Engine → Engine) : s.access c off size bad good = .next { s with eng := good s.seen } := by
  simp only [State.access, h, Bool.not_true, Bool.false_eq_true, if_false]
  cases hisl : regIsland off with
  | none =>
    rw [hisl] at hr
    exact s.actIn_serves hr.1 good
  | some isl =>
    rw [hisl] at hr
    simp only
    split
    · rename_i hao
      exact s.actIn_serves (hao ▸ hr.1) good
    · exact s.cross_receives hr c good

/-- A legal access where nothing is assigned is AO's. -/
theorem State.access_unassigned (h : accessOk off size = true) (hisl : regIsland off = none) (c : Instr) (bad good : Engine → Engine) :
    s.access c off size bad good = s.actIn Isl.ao good := by
  simp [State.access, h, hisl]

/-- A legal access of a unit whose island does not run waits in its crossing. -/
theorem State.access_stopped {isl : Nat} (h : accessOk off size = true) (hisl : regIsland off = some isl) (hao : isl ≠ Isl.ao)
    (hdead : s.eng.live isl = false) (c : Instr) (bad good : Engine → Engine) :
    s.access c off size bad good = .next { s with crossing := s.crossing ++ [(isl, c)], eng := s.seen } := by
  simp only [State.access, h, hisl, hao, Bool.not_true, Bool.false_eq_true, if_false]
  exact s.cross_waits isl c good (by rw [hdead]; rfl)

end

/-! ### Plain registers (R11) -/

/-- Offsets whose write is more than its fields. -/
def actingOffsets : List Nat :=
  [0x000014, 0x002000, 0x004000, 0x004014, 0x00402C, 0x004034, 0x004064, 0x00406C, 0x004070, 0x006000, 0x006008, 0x006010, 0x006014,
   0x006040, 0x006044, 0x00A010, 0x00A014, 0x00A018, 0x00A020, 0x010014, 0x020000, 0x030000, 0x040010, 0x040014, 0x040018, 0x04002C,
   0x040030, 0x040034, 0x040038, 0x070038, 0x080008, 0x090004, 0x09002C, 0x180000, 0x180004]

/-- Offsets whose write has a condition of its own. -/
def conditionOffsets : List Nat :=
  [0x002010, 0x004008, 0x00400C, 0x004010, 0x010010, 0x028000, 0x030010, 0x040020, 0x040024, 0x050008, 0x05000C, 0x050010, 0x050028,
   0x05002C, 0x050030, 0x090050, 0x090054]

theorem Engine.writeAo_plain {off : Nat} (h : off ∉ actingOffsets) (e : Engine) (v : Nat) : e.writeAo off v = e.writePlain off v := by
  unfold Engine.writeAo
  extract_lets b
  split
  case h_16 => rfl
  all_goals exact absurd (by decide) h

theorem Engine.writeUnit_plain {off : Nat} (h : off ∉ actingOffsets) (hbell : ¬ (0x100000 ≤ off ∧ off < 0x140000)) (e : Engine) (v : Nat) :
    e.writeUnit off v = e.writePlain off v := by
  unfold Engine.writeUnit
  extract_lets b
  split
  case h_21 => simp [hbell]
  all_goals exact absurd (by decide) h

/-- A register with no condition of its own is writable unless it is quiet's or the group's (R237, Table 17.6). -/
theorem Engine.writeOk_of_free {e : Engine} {off : Nat} (h : off ∉ conditionOffsets) (hq : off ∉ quietOffsets)
    (hmdv : e.mdv.joined = false) (v : Nat) : e.writeOk off v = true := by
  have hq' : quietOffsets.contains off = false := by simpa using hq
  unfold Engine.writeOk
  rw [hq', hmdv]
  split
  case h_18 => simp
  all_goals exact absurd (by decide) h

/-- A field that is alone in its register, whose write has no effect and no condition beyond its range and the group's. -/
def Field.Lone (f : Field) : Prop :=
  (regFields.filter fun g => g.off == f.off) = [f] ∧ f.off < 0x100000 ∧ accessOk f.off 4 = true ∧ f.off ∉ actingOffsets ∧
    f.off ∉ conditionOffsets ∧ f.off ∉ quietOffsets ∧ f.off ∉ [0x02000C, 0x001070, 0x090000]

/-- Fourteen lone fields, one or more in every island. -/
theorem loneFields : ∀ f ∈ [Fld.hruRdToUs, Fld.admHoldToMs, Fld.ylmStallLimitUs, Fld.pgmMoveToUs, Fld.varLoadToMs, Fld.smpGutToUs,
    Fld.spgCoreSelCore, Fld.mdvCsToUs, Fld.fltReplayMaxN, Fld.tskMigrateUs, Fld.bplStallToUs, Fld.evrFreezeToMs, Fld.errCtxSelEntry,
    Fld.cpcTbToUs], f.Lone := by
  unfold Field.Lone
  decide +kernel

theorem Engine.writePlain_lone {e : Engine} {f : Field} (hf : f.Lone) (hmdv : e.mdv.joined = false) (v : Nat) :
    e.writePlain f.off v = if f.admits v then e.put f (bitsOf v f.lsb f.width) else e.badAccess f.off := by
  obtain ⟨halone, -, -, -, hcond, hquiet, -⟩ := hf
  have hok := Engine.writeOk_of_free hcond hquiet hmdv v
  simp only [Engine.writePlain, Engine.putFields, halone, hok]
  simp

theorem Engine.writeWord_lone {e : Engine} {f : Field} {isl : Nat} (hf : f.Lone) (hisl : regIsland f.off = some isl)
    (hlive : e.live isl = true) (hmdv : e.mdv.joined = false) (v : Nat) :
    e.writeWord f.off v = if f.admits v then e.put f (bitsOf v f.lsb f.width) else e.badAccess f.off := by
  rw [← Engine.writePlain_lone hf hmdv v]
  obtain ⟨-, hwin, -, hact, -, -, hafter⟩ := hf
  have hunit : (if f.off < 0x8000 then e.writeAo f.off v else e.writeUnit f.off v) = e.writePlain f.off v := by
    split
    · exact Engine.writeAo_plain hact e v
    · exact Engine.writeUnit_plain hact (by omega) e v
  simp only [List.mem_cons, List.not_mem_nil, or_false, not_or] at hafter
  simp [Engine.writeWord, hisl, hlive, hunit, Engine.afterWrite, hafter]

/-- A 32-bit write gives the register its low word. -/
theorem Engine.regWrite_word (e : Engine) (off : Nat) (v : BitVec 32) : e.regWrite off 4 (v.setWidth 64) = e.writeWord off v.toNat := by
  have hv : bitsOf (v.setWidth 64).toNat 0 32 = v.toNat := by
    simp only [bitsOf, BitVec.toNat_setWidth, Nat.shiftRight_zero]
    omega
  simp only [Engine.regWrite, hv]
  rfl

/-! ### Reads (R12) -/

theorem Engine.regRead_word (e : Engine) (off : Nat) :
    e.regRead off 4 = (e.readWord off).2.emit (.regData (BitVec.ofNat 64 (e.readWord off).1)) := rfl

theorem Engine.readWord_pair {e : Engine} {off : Nat} (hchal : off ≠ 0x004060) (h : off ∈ pairOffsets) :
    e.readWord off = (e.regValue off, { e with highs := Table.put e.highs (off + 4) (BitVec.ofNat 32 (e.regValue (off + 4))) }) := by
  simp [Engine.readWord, hchal, h]

theorem Engine.readWord_high {e : Engine} {off : Nat} {w : BitVec 32} (hchal : off ≠ 0x004060) (h : off ∉ pairOffsets)
    (hw : Table.get? e.highs off = some w) : e.readWord off = (w.toNat, { e with highs := Table.del e.highs off }) := by
  simp [Engine.readWord, hchal, h, hw]

theorem Engine.readWord_plain {e : Engine} {off : Nat} (hchal : off ≠ 0x004060) (h : off ∉ pairOffsets)
    (hw : Table.get? e.highs off = none) : e.readWord off = (e.regValue off, e) := by
  simp [Engine.readWord, hchal, h, hw]

/-! ### The clauses of O57 inside the window -/

section
variable {s : State} {off : BitVec 32} {size : Nat}

/-- An access of a wrong size or place: ignored and recorded, a read answering zero. -/
theorem window_access_bad (v : BitVec 64) (h : off.toNat < 0x200000) (hbad : accessOk off.toNat size = false) (hao : s.serves Isl.ao) :
    exec (.registerWrite off size v) s = .next { s with eng := s.seen.badAccess off.toNat } ∧
      ∃ t, exec (.registerRead off size) s = .next t ∧ Output.regData 0 ∈ t.eng.out ∧ t.eng.regs = s.eng.regs ∧
        t.eng.highs = s.eng.highs ∧ t.eng.count Cnt.errCorr = s.eng.count Cnt.errCorr + 1#32 := by
  have hrep : ReportOnly (s.seen.emit (.regData 0)) ((s.seen.emit (.regData 0)).badAccess off.toNat) := Engine.badAccess_only _ _
  constructor
  · rw [exec_registerWrite_window h, State.access_bad hbad hao]
  · refine ⟨_, (exec_registerRead_window h size s).trans (State.access_bad hbad hao _ _ _), ?_, hrep.regs_eq, hrep.highs_eq, ?_⟩
    · exact hrep.2.2.1.subset (List.mem_cons_self)
    · exact Engine.badAccess_count (s.seen.emit (.regData 0)) off.toNat

/-- A write of a lone field. -/
theorem window_write_lone {f : Field} {isl : Nat} {v : BitVec 32} (hf : f.Lone) (hoff : off.toNat = f.off)
    (hisl : regIsland f.off = some isl) (hr : s.receives isl) (hmdv : s.eng.mdv.joined = false) :
    exec (.registerWrite off 4 (v.setWidth 64)) s = .next { s with
      eng := if f.admits v.toNat then s.seen.put f (bitsOf v.toNat f.lsb f.width) else s.seen.badAccess f.off } := by
  have hwin : f.off < 0x100000 := hf.2.1
  have hok : accessOk f.off 4 = true := hf.2.2.1
  rw [exec_registerWrite_window (by omega), State.access_receives (by rw [hoff]; exact hok) (by rw [hoff, hisl]; exact hr), hoff,
    Engine.regWrite_word, Engine.writeWord_lone (e := s.seen) hf hisl hr.1 hmdv]

/-- A 32-bit write where nothing is assigned. -/
theorem window_write_unassigned (v : BitVec 64) (h : off.toNat < 0x200000) (hok : accessOk off.toNat 4 = true)
    (hisl : regIsland off.toNat = none) : exec (.registerWrite off 4 v) s = .next { s with eng := s.seen } := by
  have hnothing : ∀ e : Engine, e.regWrite off.toNat 4 v = e := by
    intro e
    simp [Engine.regWrite, Engine.writeWord, hisl]
  rw [exec_registerWrite_window h, State.access_unassigned hok hisl, State.actIn, State.act_seen]
  simp [hnothing]

/-- An access of an island that does not run. -/
theorem window_access_stopped {isl : Nat} (v : BitVec 64) (h : off.toNat < 0x200000) (hok : accessOk off.toNat size = true)
    (hisl : regIsland off.toNat = some isl) (hao : isl ≠ Isl.ao) (hdead : s.eng.live isl = false) :
    exec (.registerWrite off size v) s = .next { s with crossing := s.crossing ++ [(isl, .registerWrite off size v)], eng := s.seen } ∧
      exec (.registerRead off size) s = .next { s with crossing := s.crossing ++ [(isl, .registerRead off size)], eng := s.seen } := by
  constructor
  · rw [exec_registerWrite_window h, State.access_stopped hok hisl hao hdead]
  · rw [exec_registerRead_window h, State.access_stopped hok hisl hao hdead]

theorem window_read (h : off.toNat < 0x200000) (hok : accessOk off.toNat 4 = true)
    (hr : s.receives ((regIsland off.toNat).getD Isl.ao)) :
    exec (.registerRead off 4) s = .next { s with
      eng := (s.seen.readWord off.toNat).2.emit (.regData (BitVec.ofNat 64 (s.seen.readWord off.toNat).1)) } := by
  rw [exec_registerRead_window h, State.access_receives hok hr, Engine.regRead_word]

end

/-! ### The map of a control core (R287, Table 12.1) -/

theorem accessPoint_core {n l p : Nat} (hn : n < 2 ^ 32) (h : accessPoint n = (l, p)) : l < 16 := by
  unfold accessPoint at h
  split at h
  · obtain ⟨rfl, rfl⟩ := Prod.mk.injEq .. ▸ h
    omega
  · obtain ⟨rfl, rfl⟩ := Prod.mk.injEq .. ▸ h
    omega

/-- An area holds the whole of an access of 1, 2, 4 or 8 bytes. -/
theorem coreArea_some {p size o : Nat} {area : CoreArea} (h : coreArea p size = some (area, o)) :
    size ∈ [1, 2, 4, 8] ∧ ∃ base n, (area, base, n) ∈ coreMap ∧ o + size ≤ n := by
  unfold coreArea at h
  split at h
  · cases h
  · rename_i hsize
    obtain ⟨⟨ar, base, n⟩, hfind, heq⟩ := Option.map_eq_some_iff.1 h
    obtain ⟨rfl, rfl⟩ := Prod.mk.injEq .. ▸ heq
    have hin := List.find?_some hfind
    simp only [decide_eq_true_eq] at hin
    refine ⟨?_, base, n, List.mem_of_find?_eq_some hfind, by simp only; omega⟩
    simp only [Bool.not_eq_true', Bool.not_eq_false, List.contains_iff_mem] at hsize
    exact hsize

theorem coreArea_window {p size o : Nat} (h : coreArea p size = some (.window, o)) : o < 0x200000 := by
  obtain ⟨hsize, base, n, hmem, hle⟩ := coreArea_some h
  simp [coreMap] at hmem hsize
  omega

theorem coreArea_queues {p size o : Nat} (h : coreArea p size = some (.queues, o)) : o < 0x10000 := by
  obtain ⟨hsize, base, n, hmem, hle⟩ := coreArea_some h
  simp [coreMap] at hmem hsize
  omega

theorem toNat_ofNat_core {l : Nat} (hl : l < 16) : (BitVec.ofNat 4 l).toNat = l := by
  simp only [BitVec.toNat_ofNat]
  omega

/-- A core in service makes its access. -/
theorem Engine.onCore_inService {e : Engine} {l : Nat} (hl : l < 16) (h : (e.core l).inService = true) (f : Engine → Engine) :
    e.onCore (BitVec.ofNat 4 l) f = f e := by
  rw [Engine.onCore, toNat_ofNat_core hl, if_pos h]

theorem exec_registerWrite_core {a : BitVec 32} {l p : Nat} (ha : 0x200000 ≤ a.toNat) (hp : accessPoint a.toNat = (l, p)) (size : Nat)
    (v : BitVec 64) (s : State) :
    exec (.registerWrite a size v) s = s.coreAccess (.registerWrite a size v) l p size (fun e => e.badAccess a.toNat)
      (fun off e => e.regWrite off size v) (fun off e => e.queueStore (BitVec.ofNat 4 l) off size v)
      (fun e => e.coreStore l p size v) := by
  dsimp only [exec]
  unfold execRegisterWrite
  rw [hp]
  exact if_neg (Nat.not_lt.2 ha)

theorem exec_registerRead_core {a : BitVec 32} {l p : Nat} (ha : 0x200000 ≤ a.toNat) (hp : accessPoint a.toNat = (l, p)) (size : Nat)
    (s : State) :
    exec (.registerRead a size) s = s.coreAccess (.registerRead a size) l p size (fun e => (e.emit (.regData 0)).badAccess a.toNat)
      (fun off e => e.regRead off size) (fun off e => e.queueLoad (BitVec.ofNat 4 l) off size) (fun e => e.coreLoad l p size) := by
  dsimp only [exec]
  unfold execRegisterRead
  rw [hp]
  exact if_neg (Nat.not_lt.2 ha)

section
variable {s : State} {l p size o : Nat} (c : Instr) (bad : Engine → Engine) (good queue : Nat → Engine → Engine) (other : Engine → Engine)

/-- A core's access of the window is an access of the window. -/
theorem State.coreAccess_window (hl : l < 16) (hs : (s.eng.core l).inService = true) (h : coreArea p size = some (.window, o))
    (hok : accessOk o size = true) (hr : s.receives ((regIsland o).getD Isl.ao)) :
    s.coreAccess c l p size bad good queue other = .next { s with eng := good o s.seen } := by
  simp only [State.coreAccess, h]
  rw [State.access_receives hok hr, Engine.onCore_inService (e := s.seen) hl hs]

/-- A core's access of the queue ports is BP's. -/
theorem State.coreAccess_queues (hl : l < 16) (hs : (s.eng.core l).inService = true) (h : coreArea p size = some (.queues, o))
    (hr : s.receives Isl.bp) : s.coreAccess c l p size bad good queue other = .next { s with eng := queue o s.seen } := by
  simp only [State.coreAccess, h]
  rw [State.cross_receives hr, Engine.onCore_inService (e := s.seen) hl hs]

/-- Every other access of a core is CC's. -/
theorem State.coreAccess_own (hl : l < 16) (hs : (s.eng.core l).inService = true) (hwin : ∀ o, coreArea p size ≠ some (.window, o))
    (hque : ∀ o, coreArea p size ≠ some (.queues, o)) (hcc : s.serves Isl.cc) :
    s.coreAccess c l p size bad good queue other = .next { s with eng := other s.seen } := by
  unfold State.coreAccess
  extract_lets by_
  split
  · rename_i off h
    exact absurd h (hwin off)
  · rename_i off h
    exact absurd h (hque off)
  · rw [State.actIn_serves hcc]
    simp only [by_, Engine.onCore_inService (e := s.seen) hl hs]

end

/-! ### Bytes of a store -/

@[simp] theorem length_leBytes (n v : Nat) : (leBytes n v).length = n := by
  induction n generalizing v with
  | zero => rfl
  | succ n ih => simp [leBytes, ih]

theorem bitsOf_div (v i : Nat) : bitsOf (v / 256) (8 * i) 8 = bitsOf v (8 * (i + 1)) 8 := by
  simp only [bitsOf, Nat.shiftRight_eq_div_pow, Nat.div_div_eq_div_mul]
  congr 2
  rw [Nat.mul_add, Nat.pow_add, Nat.mul_comm]

/-- Byte i of a value is its bits from 8 i on. -/
theorem getElem_leBytes {n i : Nat} (v : Nat) (h : i < (leBytes n v).length) : ((leBytes n v)[i]).toNat = bitsOf v (8 * i) 8 := by
  induction n generalizing v i with
  | zero => simp [leBytes] at h
  | succ n ih =>
    cases i with
    | zero => simp [leBytes, bitsOf]
    | succ i =>
      simp only [leBytes, List.getElem_cons_succ]
      rw [ih, bitsOf_div]

/-- What a store of a memory reads back as: the bytes of its value, low byte first. -/
theorem Memory.read_writeBytes_leBytes {m : List Host.Cell} {o size i : Nat} (v : Nat) (w : Memory.wf m = true) (hi : i < size) :
    (Memory.read (Memory.writeBytes m o (leBytes size v)) (o + i)).toNat = bitsOf v (8 * i) 8 := by
  have h : i < (leBytes size v).length := by simpa using hi
  rw [Memory.read_writeBytes w h, getElem_leBytes]

/-! ### The clauses of O57 beyond the window -/

section
variable {s : State} {a : BitVec 32} {size l p o : Nat}

/-- Beyond the window, bits 30 to 27 of the operand name one of the 16 cores. -/
theorem accessPoint_lt (hp : accessPoint a.toNat = (l, p)) : l < 16 := accessPoint_core a.isLt hp

/-- A core's access of the window is that of the offset it names. -/
theorem core_access_window (v : BitVec 64) (ha : 0x200000 ≤ a.toNat) (hp : accessPoint a.toNat = (l, p))
    (hs : (s.eng.core l).inService = true) (h : coreArea p size = some (.window, o)) (hok : accessOk o size = true)
    (hr : s.receives ((regIsland o).getD Isl.ao)) :
    exec (.registerWrite a size v) s = exec (.registerWrite (BitVec.ofNat 32 o) size v) s ∧
      exec (.registerRead a size) s = exec (.registerRead (BitVec.ofNat 32 o) size) s := by
  have ho : o < 0x200000 := coreArea_window h
  have hn : (BitVec.ofNat 32 o).toNat = o := by
    simp only [BitVec.toNat_ofNat]
    omega
  constructor
  · rw [exec_registerWrite_core ha hp, State.coreAccess_window _ _ _ _ _ (accessPoint_lt hp) hs h hok hr,
      exec_registerWrite_window (by omega), hn, State.access_receives hok hr]
  · rw [exec_registerRead_core ha hp, State.coreAccess_window _ _ _ _ _ (accessPoint_lt hp) hs h hok hr,
      exec_registerRead_window (by omega), hn, State.access_receives hok hr]

/-- Does an access of a core stay in CC: not in the window, not in the queue ports? -/
def coreOwn (p size : Nat) : Prop := (∀ o, coreArea p size ≠ some (.window, o)) ∧ ∀ o, coreArea p size ≠ some (.queues, o)

theorem coreOwn_of_area {area : CoreArea} (h : coreArea p size = some (area, o)) (hw : area ≠ .window) (hq : area ≠ .queues) :
    coreOwn p size := by
  constructor
  · rintro o' h'
    rw [h] at h'
    cases h'
    exact hw rfl
  · rintro o' h'
    rw [h] at h'
    cases h'
    exact hq rfl

theorem coreOwn_of_none (h : coreArea p size = none) : coreOwn p size := by
  constructor <;> simp [h]

/-- A store of a core in CC. -/
theorem core_store (v : BitVec 64) (ha : 0x200000 ≤ a.toNat) (hp : accessPoint a.toNat = (l, p)) (hs : (s.eng.core l).inService = true)
    (h : coreOwn p size) (hcc : s.serves Isl.cc) :
    exec (.registerWrite a size v) s = .next { s with eng := s.seen.coreStore l p size v } := by
  rw [exec_registerWrite_core ha hp, State.coreAccess_own _ _ _ _ _ (accessPoint_lt hp) hs h.1 h.2 hcc]

/-- A load of a core in CC. -/
theorem core_load (ha : 0x200000 ≤ a.toNat) (hp : accessPoint a.toNat = (l, p)) (hs : (s.eng.core l).inService = true)
    (h : coreOwn p size) (hcc : s.serves Isl.cc) :
    exec (.registerRead a size) s = .next { s with eng := s.seen.coreLoad l p size } := by
  rw [exec_registerRead_core ha hp, State.coreAccess_own _ _ _ _ _ (accessPoint_lt hp) hs h.1 h.2 hcc]

/-- Shared memory takes a store and answers a load. -/
theorem core_access_shared (v : BitVec 64) (ha : 0x200000 ≤ a.toNat) (hp : accessPoint a.toNat = (l, p))
    (hs : (s.eng.core l).inService = true) (h : coreArea p size = some (.shared, o)) (hcc : s.serves Isl.cc)
    (hwf : Memory.wf s.eng.tsk.shared = true) :
    (∃ t, exec (.registerWrite a size v) s = .next t ∧ t.eng.out = s.eng.out ∧
        (∀ i, i < size → (Memory.read t.eng.tsk.shared (o + i)).toNat = bitsOf v.toNat (8 * i) 8) ∧
        (∀ b, b < o ∨ o + size ≤ b → Memory.read t.eng.tsk.shared b = Memory.read s.eng.tsk.shared b)) ∧
      ∃ x, x = bytesFrom (fun b => (Memory.read s.eng.tsk.shared b).toNat) o size ∧
        exec (.registerRead a size) s = .next { s with eng := s.seen.emit (.portData l (BitVec.ofNat 64 x)) } := by
  have hown := coreOwn_of_area h (by decide) (by decide)
  constructor
  · refine ⟨_, core_store v ha hp hs hown hcc, ?_⟩
    simp only [Engine.coreStore, h]
    exact ⟨rfl, fun i hi => Memory.read_writeBytes_leBytes _ hwf hi,
      fun b hb => Memory.read_writeBytes_outside _ (by simpa using hb)⟩
  · refine ⟨_, rfl, ?_⟩
    rw [core_load ha hp hs hown hcc]
    simp only [Engine.coreLoad, h, Engine.answer, toNat_ofNat_core (accessPoint_lt hp)]
    rfl

/-- A core's own memory takes its store and answers its load; another core's is apart. -/
theorem core_access_own (v : BitVec 64) (ha : 0x200000 ≤ a.toNat) (hp : accessPoint a.toNat = (l, p))
    (hs : (s.eng.core l).inService = true) (h : coreArea p size = some (.own, o)) (hcc : s.serves Isl.cc)
    (hwf : Memory.wf (Table.getD s.eng.tsk.locals l []) = true) :
    (∃ t, exec (.registerWrite a size v) s = .next t ∧ t.eng.out = s.eng.out ∧
        (∀ i, i < size → t.eng.localByte l (o + i) = bitsOf v.toNat (8 * i) 8) ∧
        (∀ b, b < o ∨ o + size ≤ b → t.eng.localByte l b = s.eng.localByte l b) ∧
        (∀ k b, k ≠ l → t.eng.localByte k b = s.eng.localByte k b)) ∧
      exec (.registerRead a size) s =
        .next { s with eng := s.seen.emit (.portData l (BitVec.ofNat 64 (bytesFrom (s.eng.localByte l) o size))) } := by
  have hown := coreOwn_of_area h (by decide) (by decide)
  constructor
  · refine ⟨_, core_store v ha hp hs hown hcc, ?_⟩
    simp only [Engine.coreStore, h, Engine.localByte, Table.getD_put_self]
    refine ⟨rfl, fun i hi => Memory.read_writeBytes_leBytes _ hwf hi,
      fun b hb => congrArg BitVec.toNat (Memory.read_writeBytes_outside _ (by simpa using hb)), fun k b hk => ?_⟩
    rw [Table.getD_put_ne _ _ _ hk]
    rfl
  · rw [core_load ha hp hs hown hcc]
    simp only [Engine.coreLoad, h, Engine.answer, toNat_ofNat_core (accessPoint_lt hp)]
    rfl

/-- The task records answer a load. -/
theorem core_load_tasks (ha : 0x200000 ≤ a.toNat) (hp : accessPoint a.toNat = (l, p)) (hs : (s.eng.core l).inService = true)
    (h : coreArea p size = some (.tasks, o)) (hcc : s.serves Isl.cc) :
    exec (.registerRead a size) s =
      .next { s with eng := s.seen.emit (.portData l (BitVec.ofNat 64 (bytesFrom s.eng.taskByte o size))) } := by
  rw [core_load ha hp hs (coreOwn_of_area h (by decide) (by decide)) hcc]
  simp only [Engine.coreLoad, h, Engine.answer, toNat_ofNat_core (accessPoint_lt hp)]
  rfl

/-- An access outside the map is a fault. -/
theorem core_access_outside (v : BitVec 64) (ha : 0x200000 ≤ a.toNat) (hp : accessPoint a.toNat = (l, p))
    (hs : (s.eng.core l).inService = true) (h : coreArea p size = none) (hcc : s.serves Isl.cc) :
    exec (.registerWrite a size v) s = .next { s with eng := s.seen.coreFault l p } ∧
      exec (.registerRead a size) s = .next { s with eng := s.seen.coreFault l p } := by
  have hown := coreOwn_of_none h
  constructor
  · rw [core_store v ha hp hs hown hcc]
    simp only [Engine.coreStore, h]
  · rw [core_load ha hp hs hown hcc]
    simp only [Engine.coreLoad, h]

/-- A store against its column is a fault. -/
theorem core_store_readOnly {area : CoreArea} (v : BitVec 64) (ha : 0x200000 ≤ a.toNat) (hp : accessPoint a.toNat = (l, p))
    (hs : (s.eng.core l).inService = true) (h : coreArea p size = some (area, o)) (harea : area ∈ [.tasks, .flows, .bootRom, .view, .t0])
    (hcc : s.serves Isl.cc) : exec (.registerWrite a size v) s = .next { s with eng := s.seen.coreFault l p } := by
  have hfault : area ≠ .window ∧ area ≠ .queues ∧ s.seen.coreStore l p size v = s.seen.coreFault l p := by
    simp only [List.mem_cons, List.not_mem_nil, or_false] at harea
    rcases harea with rfl | rfl | rfl | rfl | rfl <;> simp [Engine.coreStore, h]
  obtain ⟨hw, hq, hst⟩ := hfault
  rw [core_store v ha hp hs (coreOwn_of_area h hw hq) hcc, hst]

end

/-! ### The ports of a core (R293, R308) -/

section
variable {s : State} {a : BitVec 32} {size l p o : Nat}

/-- A port operation of a core in service while CC runs. -/
theorem State.actIn_onCore (hl : l < 16) (hs : (s.eng.core l).inService = true) (hcc : s.serves Isl.cc) (f : Engine → Engine) :
    s.actIn Isl.cc (fun e => e.onCore (BitVec.ofNat 4 l) f) = .next { s with eng := f s.seen } := by
  rw [State.actIn_serves hcc, Engine.onCore_inService (e := s.seen) hl hs]

theorem portSized_size (h : portSized o size = true) : size = 8 := by
  simp only [portSized, Bool.and_eq_true, beq_iff_eq] at h
  exact h.1

/-- The store operations of the scheduler port (Table 12.4). -/
def portStoreCommands (l : Nat) (v : BitVec 64) : List (Nat × Instr) :=
  [(0x008, Instr.waitStore (BitVec.ofNat 4 l) v), (0x018, .postStore v), (0x020, .cancelTask v), (0x028, .yieldStore (BitVec.ofNat 4 l)),
   (0x030, .doneStore (BitVec.ofNat 4 l) v), (0x038, .checkin (BitVec.ofNat 4 l)), (0x040, .stageStore (BitVec.ofNat 4 l) 0 v),
   (0x078, .stageStore (BitVec.ofNat 4 l) 7 v), (0x080, .createStore (BitVec.ofNat 4 l) v), (0x088, .destroyStore v), (0x090, .prioStore v)]

/-- Its load operations. -/
def portLoadCommands (l : Nat) : List (Nat × Instr) :=
  [(0x000, Instr.selfLoad (BitVec.ofNat 4 l)), (0x010, .takeLoad (BitVec.ofNat 4 l)), (0x098, .nextLoad (BitVec.ofNat 4 l))]

/-- A sized store at an offset of the scheduler port does what the command of that offset does. -/
theorem exec_portStoreCommand {v : BitVec 64} {c : Instr} (hl : l < 16) (hs : (s.eng.core l).inService = true) (hcc : s.serves Isl.cc)
    (hsized : portSized o size = true) (hc : (o, c) ∈ portStoreCommands l v) :
    exec c s = .next { s with eng := s.seen.portStore (BitVec.ofNat 4 l) o size v } := by
  obtain rfl : size = 8 := portSized_size hsized
  simp only [portStoreCommands, List.mem_cons, Prod.mk.injEq, List.not_mem_nil, or_false] at hc
  rcases hc with ⟨rfl, rfl⟩ | ⟨rfl, rfl⟩ | ⟨rfl, rfl⟩ | ⟨rfl, rfl⟩ | ⟨rfl, rfl⟩ | ⟨rfl, rfl⟩ | ⟨rfl, rfl⟩ | ⟨rfl, rfl⟩ | ⟨rfl, rfl⟩ |
    ⟨rfl, rfl⟩ | ⟨rfl, rfl⟩
  all_goals dsimp only [exec]
  -- POST, CANCEL, DESTROY and PRIO name a task; the others are operations of the core itself.
  case inr.inl | inr.inr.inl | inr.inr.inr.inr.inr.inr.inr.inr.inr.inl | inr.inr.inr.inr.inr.inr.inr.inr.inr.inr =>
    exact s.actIn_serves hcc _
  all_goals exact s.actIn_onCore hl hs hcc _

/-- A sized load at an offset of the scheduler port does what the command of that offset does. -/
theorem exec_portLoadCommand {c : Instr} (hl : l < 16) (hs : (s.eng.core l).inService = true) (hcc : s.serves Isl.cc)
    (hsized : portSized o size = true) (hc : (o, c) ∈ portLoadCommands l) :
    exec c s = .next { s with eng := s.seen.portLoad (BitVec.ofNat 4 l) o size } := by
  obtain rfl : size = 8 := portSized_size hsized
  simp only [portLoadCommands, List.mem_cons, Prod.mk.injEq, List.not_mem_nil, or_false] at hc
  rcases hc with ⟨rfl, rfl⟩ | ⟨rfl, rfl⟩ | ⟨rfl, rfl⟩
  all_goals exact s.actIn_onCore hl hs hcc _

/-- A store at the scheduler port. -/
theorem core_store_port (v : BitVec 64) (ha : 0x200000 ≤ a.toNat) (hp : accessPoint a.toNat = (l, p))
    (hs : (s.eng.core l).inService = true) (h : coreArea p size = some (.port, o)) (hcc : s.serves Isl.cc) :
    exec (.registerWrite a size v) s = .next { s with eng := s.seen.portStore (BitVec.ofNat 4 l) o size v } := by
  rw [core_store v ha hp hs (coreOwn_of_area h (by decide) (by decide)) hcc]
  simp only [Engine.coreStore, h]

/-- A load at the scheduler port. -/
theorem core_load_port (ha : 0x200000 ≤ a.toNat) (hp : accessPoint a.toNat = (l, p))
    (hs : (s.eng.core l).inService = true) (h : coreArea p size = some (.port, o)) (hcc : s.serves Isl.cc) :
    exec (.registerRead a size) s = .next { s with eng := s.seen.portLoad (BitVec.ofNat 4 l) o size } := by
  rw [core_load ha hp hs (coreOwn_of_area h (by decide) (by decide)) hcc]
  simp only [Engine.coreLoad, h]

/-- A store at a queue port. -/
theorem core_store_queue (v : BitVec 64) (ha : 0x200000 ≤ a.toNat) (hp : accessPoint a.toNat = (l, p))
    (hs : (s.eng.core l).inService = true) (h : coreArea p size = some (.queues, o)) (hr : s.receives Isl.bp) :
    exec (.registerWrite a size v) s = .next { s with eng := s.seen.queueStore (BitVec.ofNat 4 l) o size v } := by
  rw [exec_registerWrite_core ha hp, State.coreAccess_queues _ _ _ _ _ (accessPoint_lt hp) hs h hr]

/-- A load at a queue port. -/
theorem core_load_queue (ha : 0x200000 ≤ a.toNat) (hp : accessPoint a.toNat = (l, p))
    (hs : (s.eng.core l).inService = true) (h : coreArea p size = some (.queues, o)) (hr : s.receives Isl.bp) :
    exec (.registerRead a size) s = .next { s with eng := s.seen.queueLoad (BitVec.ofNat 4 l) o size } := by
  rw [exec_registerRead_core ha hp, State.coreAccess_queues _ _ _ _ _ (accessPoint_lt hp) hs h hr]

/-- The number of the queue at an offset of the queue ports. -/
theorem queue_toNat (h : coreArea p size = some (.queues, o)) : (BitVec.ofNat 10 (o / 64)).toNat = o / 64 := by
  have ho := coreArea_queues h
  simp only [BitVec.toNat_ofNat]
  omega

/-- A sized store at a queue's first word is a PUSH, and a load there a POP. -/
theorem core_access_queue_item (v : BitVec 64) (ha : 0x200000 ≤ a.toNat) (hp : accessPoint a.toNat = (l, p))
    (hs : (s.eng.core l).inService = true) (h : coreArea p size = some (.queues, o)) (hr : s.receives Isl.bp)
    (hsized : portSized o size = true) (hitem : o % 64 = 0) :
    exec (.registerWrite a size v) s = exec (.push (BitVec.ofNat 4 l) (BitVec.ofNat 10 (o / 64)) v) s ∧
      exec (.registerRead a size) s = exec (.pop (BitVec.ofNat 4 l) (BitVec.ofNat 10 (o / 64))) s := by
  constructor
  · rw [core_store_queue v ha hp hs h hr]
    refine ((s.cross_receives hr _ _).trans ?_).symm
    simp only [Engine.queueStore, hsized, hitem, queue_toNat h, Bool.not_true, Bool.false_eq_true, if_false, if_true]
  · rw [core_load_queue ha hp hs h hr]
    refine ((s.cross_receives hr _ _).trans ?_).symm
    simp only [Engine.queueLoad, hsized, hitem, queue_toNat h, Bool.not_true, Bool.false_eq_true, if_false, if_true]

/-- A sized store at a queue's payload word stages it, and a load there answers the word of the core's last pop. -/
theorem core_access_queue_word (v : BitVec 64) (ha : 0x200000 ≤ a.toNat) (hp : accessPoint a.toNat = (l, p))
    (hs : (s.eng.core l).inService = true) (h : coreArea p size = some (.queues, o)) (hr : s.receives Isl.bp)
    (hsized : portSized o size = true) (hword : o % 64 ≠ 0) :
    exec (.registerWrite a size v) s =
        exec (.stagePayloadWord (BitVec.ofNat 4 l) (BitVec.ofNat 10 (o / 64)) (BitVec.ofNat 3 (o % 64 / 8 - 1)) v) s ∧
      ∀ w, s.eng.flag Fld.bplCtlEnable = true → (s.eng.view l (o / 64)).popped[o % 64 / 8 - 1]? = some w →
        exec (.registerRead a size) s = .next { s with eng := s.seen.emit (.portData l w) } := by
  have hl := accessPoint_lt hp
  constructor
  · have hw : (BitVec.ofNat 3 (o % 64 / 8 - 1)).toNat = o % 64 / 8 - 1 := by
      simp only [BitVec.toNat_ofNat]
      omega
    rw [core_store_queue v ha hp hs h hr]
    refine ((s.cross_receives hr _ _).trans ?_).symm
    simp only [Engine.queueStore, hsized, hword, queue_toNat h, hw, Bool.not_true, Bool.false_eq_true, if_false]
  · intro w hen hpop
    have hview : (s.seen.view (BitVec.ofNat 4 l).toNat (o / 64)).popped[o % 64 / 8 - 1]? = some w := by
      rw [toNat_ofNat_core hl]
      exact hpop
    rw [core_load_queue ha hp hs h hr]
    simp only [Engine.queueLoad, hsized, hword, Bool.not_true, Bool.false_eq_true, if_false, Engine.loadPopped, Engine.atPort]
    rw [if_pos (show s.seen.flag Fld.bplCtlEnable = true from hen), Engine.onCore_inService (e := s.seen) hl hs, hview]
    simp only [Engine.answer, toNat_ofNat_core hl, BitVec.ofNat_toNat, BitVec.setWidth_eq]

end

/-- Settles O57: inside the window by the access's size, place and island; beyond it by the area of the core's map that holds the
access. -/
theorem registersAnswerInTheWindow : Obligations.RegistersAnswerInTheWindow := by
  unfold Obligations.RegistersAnswerInTheWindow
  refine ⟨fun s off size v h hbad hao => window_access_bad v h hbad hao, fun s f isl off v hf hoff hisl hr hmdv => ?_,
    fun s off size v h hok => ⟨fun hsize hisl => ?_, fun isl hisl hao hdead => window_access_stopped v h hok hisl hao hdead⟩,
    fun s off h hok hr hchal => ⟨fun hpair => ?_, fun w hpair hw => ?_, fun hpair hw => ?_⟩,
    fun s a size v l p ha hp hs => ⟨fun o h hok hr => core_access_window v ha hp hs h hok hr,
      fun o h hcc hwf => core_access_shared v ha hp hs h hcc hwf, fun o h hcc hwf => core_access_own v ha hp hs h hcc hwf,
      fun o h hcc => core_load_tasks ha hp hs h hcc, fun h hcc => core_access_outside v ha hp hs h hcc,
      fun area o h harea hcc => core_store_readOnly v ha hp hs h harea hcc, fun o h hcc => ⟨fun hsized => ?_, fun c hsized hc => ?_,
      fun c hsized hc => ?_⟩, fun o q h hr hq => ⟨fun hsized => ?_, fun hsized hitem => ?_, fun hsized hword => ?_⟩⟩⟩
  · have hwrite := window_write_lone (v := v) (loneFields f hf) hoff hisl hr hmdv
    exact ⟨fun hin => by rw [hwrite, if_pos hin], fun hout => by rw [hwrite, if_neg (by simp [hout])]⟩
  · subst hsize
    exact window_write_unassigned v h hok hisl
  · rw [window_read h hok hr, Engine.readWord_pair hchal hpair]
    exact ⟨_, rfl, rfl, Table.get?_put_self _ _ _, rfl⟩
  · rw [window_read h hok hr, Engine.readWord_high (e := s.seen) hchal hpair hw]
    exact ⟨_, rfl, rfl, Table.get?_del_self _ _⟩
  · rw [window_read h hok hr, Engine.readWord_plain (e := s.seen) hchal hpair hw]
  · rw [core_store_port v ha hp hs h hcc]
    simp [Engine.portStore, hsized]
  · rw [core_store_port v ha hp hs h hcc, exec_portStoreCommand (accessPoint_lt hp) hs hcc hsized hc]
  · rw [core_load_port ha hp hs h hcc, exec_portLoadCommand (accessPoint_lt hp) hs hcc hsized hc]
  · rw [core_store_queue v ha hp hs h hr]
    simp [Engine.queueStore, hsized]
  · subst hq
    exact core_access_queue_item v ha hp hs h hr hsized hitem
  · subst hq
    exact core_access_queue_word v ha hp hs h hr hsized hword

end Sys2Proof.Machine
end

section
/-!
# The step boundary

The frame of a freed request, the commit, and the run of the six effects (R5, R6, R29, R63, R79, R260).
-/

namespace Sys2Proof.Machine

/-! ### What the end of a request leaves of the slots -/

/-- e' has the generations, the free list and the stop vector of e, the bound requests of every event ring, and no request that e
has not. -/
def KeepsSlots (e e' : Engine) : Prop :=
  e'.gens = e.gens ∧ e'.slots = e.slots ∧ e'.stop = e.stop ∧ (∀ i, (e'.evt i).bound = (e.evt i).bound) ∧
    ∀ k, e.req? k = none → e'.req? k = none

section
variable {e e' : Engine}

theorem KeepsSlots.of_eq (hg : e'.gens = e.gens) (hs : e'.slots = e.slots) (hst : e'.stop = e.stop) (he : e'.hru.evts = e.hru.evts)
    (hr : e'.rafter = e.rafter) : KeepsSlots e e' := by
  refine ⟨hg, hs, hst, fun i => ?_, fun k hk => ?_⟩
  · simp only [Engine.evt, he]
  · simpa only [Engine.req?, hr] using hk

theorem KeepsSlots.refl (e : Engine) : KeepsSlots e e := .of_eq rfl rfl rfl rfl rfl

theorem KeepsSlots.trans {a b c : Engine} (h : KeepsSlots a b) (k : KeepsSlots b c) : KeepsSlots a c := by
  obtain ⟨h1, h2, h3, h4, h5⟩ := h
  obtain ⟨k1, k2, k3, k4, k5⟩ := k
  exact ⟨k1.trans h1, k2.trans h2, k3.trans h3, fun i => (k4 i).trans (h4 i), fun i hi => k5 i (h5 i hi)⟩

theorem KeepsSlots.foldl {α : Type} {f : Engine → α → Engine} (hf : ∀ e x, KeepsSlots e (f e x)) (l : List α) (e : Engine) :
    KeepsSlots e (l.foldl f e) := by
  induction l generalizing e with
  | nil => exact .refl e
  | cons x l ih => exact (hf e x).trans (ih _)

theorem LogOnly.keeps (h : LogOnly e e') : KeepsSlots e e' := by
  refine .of_eq ?_ ?_ ?_ ?_ ?_ <;> rw [h.1]

/-- An event ring written with the bound requests it has. -/
theorem KeepsSlots.putEvt (e : Engine) {i : Nat} {x : EvtRing} (h : x.bound = (e.evt i).bound) : KeepsSlots e (e.putEvt i x) := by
  refine ⟨rfl, rfl, rfl, fun j => ?_, fun _ hk => hk⟩
  by_cases hj : j = i
  · subst hj
    simp [Engine.putEvt, Engine.evt, h]
  · simp [Engine.putEvt, Engine.evt, Table.getD_put_ne _ _ _ hj]

/-- A request written where one stands. -/
theorem KeepsSlots.putReq {slot : Nat} {r : Rafter} (h : e.req? slot = some r) (x : Rafter) : KeepsSlots e (e.putReq slot x) := by
  refine ⟨rfl, rfl, rfl, fun _ => rfl, fun k hk => ?_⟩
  have hne : k ≠ slot := by
    rintro rfl
    simp [h] at hk
  simpa only [Engine.req?, Engine.putReq, Table.get?_put_ne _ _ hne] using hk

end

section
variable (e : Engine)

/-! ### Messages and records -/

theorem Engine.ops_keeps (record : Nat) : KeepsSlots e (e.ops record) := by
  unfold Engine.ops
  split
  · exact .of_eq rfl rfl rfl rfl rfl
  · exact .refl e

theorem Engine.onLinks_keeps (peers : List Nat) (up : Bool) (type dst step : Nat) (body : List Byte) :
    KeepsSlots e (e.onLinks peers up type dst step body) :=
  .foldl (f := Engine.emit) (fun _ _ => .of_eq rfl rfl rfl rfl rfl) _ e

theorem Engine.post_keeps (type dst step : Nat) (body : List Byte) : KeepsSlots e (e.post type dst step body) := by
  unfold Engine.post
  split
  · exact e.onLinks_keeps _ _ _ _ _ _
  · split
    split
    · exact .refl e
    · exact e.onLinks_keeps _ _ _ _ _ _

theorem Engine.send_keeps (type dst step : Nat) (body : List Byte) : KeepsSlots e (e.send type dst step body) := by
  unfold Engine.send
  split
  · exact e.post_keeps _ _ _ _
  · exact .refl e

theorem Engine.mirrorEvent_keeps (kind : Nat) (payload : List Byte) : KeepsSlots e (e.mirrorEvent kind payload) := by
  unfold Engine.mirrorEvent
  split
  · exact (e.send_keeps _ _ _ _).trans (.of_eq rfl rfl rfl rfl rfl)
  · exact .refl e

theorem Engine.markDelivered_keeps (x : EventRecord) : KeepsSlots e (e.markDelivered x) := by
  unfold Engine.markDelivered
  extract_lets handle mark
  split
  · refine ⟨rfl, rfl, rfl, fun _ => rfl, fun k hk => ?_⟩
    simp only [Engine.req?, Table.get?_modify] at hk ⊢
    split
    · rename_i h
      rw [← h, hk]
      rfl
    · exact hk
  · exact .refl e

theorem Engine.emit_keeps (o : Output) : KeepsSlots e (e.emit o) := .of_eq rfl rfl rfl rfl rfl

theorem Engine.bump_keeps (c : Nat) : KeepsSlots e (e.bump c) := .of_eq rfl rfl rfl rfl rfl

theorem Engine.putSub_keeps (i : Nat) (r : SubRing) : KeepsSlots e (e.putSub i r) := .of_eq rfl rfl rfl rfl rfl

theorem Engine.unstage_keeps (ring pos : Nat) : KeepsSlots e (e.unstage ring pos) := .of_eq rfl rfl rfl rfl rfl

theorem Engine.raiseRing_keeps (i : Nat) : KeepsSlots e (e.raiseRing i) := by
  refine .trans ?_ (Engine.emit_keeps _ _)
  exact .putEvt e rfl

theorem Engine.putRecord_keeps (x : EventRecord) : KeepsSlots e (e.putRecord x) := by
  unfold Engine.putRecord
  extract_lets r control record e1 tail e2 e3
  split
  · exact (e.log_only _ _).keeps
  · have h1 : KeepsSlots e e1 := (KeepsSlots.of_eq rfl rfl rfl rfl rfl).trans (Engine.markDelivered_keeps _ x)
    have h2 : KeepsSlots e e2 := h1.trans (KeepsSlots.putEvt e1 (h1.2.2.2.1 x.ring).symm)
    have h3 : KeepsSlots e e3 := by
      show KeepsSlots e (if _ then _ else _)
      split
      · exact h2
      · exact h2.trans (.of_eq rfl rfl rfl rfl rfl)
    split
    · exact h3.trans (e3.raiseRing_keeps _)
    · exact h3

theorem Engine.passRecord_keeps (x : EventRecord) : KeepsSlots e (e.passRecord x) := by
  unfold Engine.passRecord
  split
  · exact .refl e
  · split
    · exact e.putRecord_keeps x
    · exact .of_eq rfl rfl rfl rfl rfl

theorem Engine.writeRecord_keeps (x : EventRecord) : KeepsSlots e (e.writeRecord x) := by
  unfold Engine.writeRecord
  extract_lets behind
  split
  · exact .of_eq rfl rfl rfl rfl rfl
  · exact e.passRecord_keeps x

/-! ### Acknowledgements -/

theorem Engine.finishClose_keeps (i : Nat) : KeepsSlots e (e.finishClose i) := by
  unfold Engine.finishClose
  extract_lets r
  split
  · exact .of_eq rfl rfl rfl rfl rfl
  · exact .refl e

theorem Engine.ackOne_keeps (d : Staged) (handle status qbytes : Nat) : KeepsSlots e (e.ackOne d handle status qbytes) := by
  unfold Engine.ackOne
  extract_lets r e1 e2 ev e3 e4
  have h2 : KeepsSlots e e2 := by
    have h1 : KeepsSlots e e1 := e.mirrorEvent_keeps _ _
    show KeepsSlots e (if _ then _ else _)
    split
    · exact h1.trans (e1.bump_keeps _)
    · exact h1
  have h3 : KeepsSlots e e3 := h2.trans (KeepsSlots.putEvt e2 rfl)
  refine .trans ?_ (Engine.writeRecord_keeps _ _)
  refine .trans ?_ (Engine.unstage_keeps _ _ _)
  exact h3.trans (e3.putSub_keeps _ _)

theorem Engine.settleFailed_keeps (i n : Nat) : KeepsSlots e (Engine.settleFailed i n e) := by
  induction n generalizing e with
  | zero => exact .refl e
  | succ n ih =>
    unfold Engine.settleFailed
    split
    · exact .refl e
    · split
      · exact (e.ackOne_keeps _ _ _ _).trans (ih _)
      · exact .refl e

theorem Engine.ack_keeps (d : Staged) (status : Nat) : KeepsSlots e (e.ack d status) :=
  ((e.ackOne_keeps _ _ _ _).trans (Engine.settleFailed_keeps _ _ _)).trans (Engine.finishClose_keeps _ _)

theorem Engine.ackAt_keeps (at_ : Option (Nat × Nat)) (status : Nat) : KeepsSlots e (e.ackAt at_ status) := by
  unfold Engine.ackAt
  split
  · exact .refl e
  · split
    · exact .refl e
    · exact e.ack_keeps _ _

theorem Engine.ackWaiting_keeps (handle : Handle) (opcode status : Nat) : KeepsSlots e (e.ackWaiting handle opcode status) :=
  .foldl (fun e d => e.ack_keeps d status) _ e

theorem Engine.ackHeld_keeps (handle : Handle) (status : Nat) : KeepsSlots e (e.ackHeld handle status) :=
  .foldl (fun e d => e.ack_keeps d status) _ e

/-! ### Pages -/

theorem Engine.wake_keeps (hit : Rafter → Bool) : KeepsSlots e (e.wake hit) := by
  unfold Engine.wake
  extract_lets l
  split
  · exact .refl e
  · exact .of_eq rfl rfl rfl rfl rfl

theorem Engine.wakeAll_keeps : KeepsSlots e e.wakeAll := e.wake_keeps _

theorem Engine.putPage_keeps (p : Nat) (x : Page) : KeepsSlots e (e.putPage p x) :=
  (KeepsSlots.of_eq rfl rfl rfl rfl rfl).trans (Engine.ops_keeps _ _)

theorem Engine.modPage_keeps (p : Nat) (f : Page → Page) : KeepsSlots e (e.modPage p f) := by
  unfold Engine.modPage
  split
  · exact e.putPage_keeps _ _
  · exact .refl e

theorem Engine.undefLink_keeps : KeepsSlots e e.undefLink.2 := .of_eq rfl rfl rfl rfl rfl

theorem Engine.joinPages_keeps (a b : Option Nat) : KeepsSlots e (e.joinPages a b) := by
  match a, b with
  | some a, some b => exact (e.modPage_keeps _ _).trans (Engine.modPage_keeps _ _ _)
  | some a, none => exact e.undefLink_keeps.trans (Engine.modPage_keeps _ _ _)
  | none, some b => exact e.undefLink_keeps.trans (Engine.modPage_keeps _ _ _)
  | none, none => exact .refl e

theorem Engine.enterCached_keeps (p : Nat) : KeepsSlots e (e.enterCached p) := by
  unfold Engine.enterCached
  extract_lets last e1 e2
  have h2 : KeepsSlots e e2 := ((e.modPage_keeps _ _).trans (Engine.joinPages_keeps _ _ _)).trans (Engine.joinPages_keeps _ _ _)
  exact (h2.trans (.of_eq rfl rfl rfl rfl rfl)).trans (Engine.wakeAll_keeps _)

theorem Engine.leaveCached_keeps (p : Nat) : KeepsSlots e (e.leaveCached p) := by
  unfold Engine.leaveCached
  extract_lets l i before pgm e1
  split
  · exact .refl e
  · exact (KeepsSlots.of_eq rfl rfl rfl rfl rfl).trans (e1.joinPages_keeps _ _)

theorem Engine.putWay_keeps (b w : Nat) (x : Way) : KeepsSlots e (e.putWay b w x) :=
  (KeepsSlots.of_eq rfl rfl rfl rfl rfl).trans (Engine.ops_keeps _ _)

theorem Engine.unindex_keeps (p : Nat) : KeepsSlots e (e.unindex p) := by
  unfold Engine.unindex
  extract_lets x
  split
  · exact (e.putWay_keeps _ _ _).trans (Engine.putPage_keeps _ _ _)
  · exact .refl e

theorem Engine.giveFrame_keeps (tier c frame : Nat) : KeepsSlots e (e.giveFrame tier c frame) := by
  unfold Engine.giveFrame
  split
  · split
    · exact .refl e
    · exact .of_eq rfl rfl rfl rfl rfl
  · split
    · exact .of_eq rfl rfl rfl rfl rfl
    · exact .refl e

theorem Engine.freeEntry_keeps (p : Nat) : KeepsSlots e (e.freeEntry p) :=
  ((e.ops_keeps _).trans (.of_eq rfl rfl rfl rfl rfl)).trans (Engine.wakeAll_keeps _)

theorem Engine.freePage_keeps (p : Nat) : KeepsSlots e (e.freePage p) :=
  (((e.unindex_keeps p).trans (Engine.leaveCached_keeps _ p)).trans (Engine.giveFrame_keeps _ _ _ _)).trans (Engine.freeEntry_keeps _ p)

theorem Engine.settle_keeps (p : Nat) : KeepsSlots e (e.settle p) := by
  have hfree : ∀ b : Bool, KeepsSlots e (if b then e.freePage p else e) := fun b => by
    cases b
    · exact .refl e
    · exact e.freePage_keeps p
  unfold Engine.settle
  extract_lets x
  split
  · exact .refl e
  · split
    · split
      · exact e.enterCached_keeps p
      · split
        · exact e.freePage_keeps p
        · exact .refl e
    · split
      · exact e.freePage_keeps p
      · exact .refl e
    · exact hfree _
    · exact hfree _
    · exact .refl e

theorem Engine.dropHolder_keeps (p : Nat) : KeepsSlots e (e.dropHolder p) := (e.putPage_keeps _ _).trans (Engine.settle_keeps _ _)

theorem Engine.purge_keeps (hit : Page → Bool) : KeepsSlots e (e.purge hit) :=
  .foldl (fun e p => (e.unindex_keeps p).trans (Engine.settle_keeps _ p)) _ e

end

section
variable (e : Engine)

/-! ### Versions, prefixes and families -/

theorem Engine.modRecord_keeps (a v : Nat) (f : VersionRec → VersionRec) : KeepsSlots e (e.modRecord a v f) := by
  unfold Engine.modRecord
  split
  · exact .refl e
  · exact .of_eq rfl rfl rfl rfl rfl

theorem Engine.freeSlot_keeps (s : Nat) : KeepsSlots e (e.freeSlot s) := by
  unfold Engine.freeSlot
  split
  · exact .refl e
  · extract_lets e1 var e2 e3
    have h1 : KeepsSlots e e1 := (e.modRecord_keeps _ _ _).trans (Engine.ops_keeps _ _)
    have h2 : KeepsSlots e e2 := h1.trans (.of_eq rfl rfl rfl rfl rfl)
    have h3 : KeepsSlots e e3 := h2.trans e2.wakeAll_keeps
    split
    · exact h3
    · exact h3.trans (.of_eq rfl rfl rfl rfl rfl)

theorem Engine.ackRetires_keeps (a v : Nat) (x : Addition) : KeepsSlots e (e.ackRetires a v x) := by
  unfold Engine.ackRetires
  extract_lets left done x' var e1
  have h1 : KeepsSlots e e1 := by
    show KeepsSlots e (if _ then _ else _)
    split <;> exact .of_eq rfl rfl rfl rfl rfl
  exact h1.trans (.foldl (fun e t => e.ackAt_keeps _ _) _ e1)

theorem Engine.emptyRecord_keeps (a v : Nat) : KeepsSlots e (e.emptyRecord a v) := by
  unfold Engine.emptyRecord
  split
  · exact .refl e
  · exact (e.ackRetires_keeps _ _ _).trans (Engine.bump_keeps _ _)

theorem Engine.settleRecord_keeps (a v : Nat) : KeepsSlots e (e.settleRecord a v) := by
  unfold Engine.settleRecord
  split
  · exact .refl e
  · split
    · exact .refl e
    · split
      · exact e.emptyRecord_keeps a v
      · split
        · exact (e.freeSlot_keeps _).trans (Engine.emptyRecord_keeps _ a v)
        · exact .refl e

theorem Engine.addPheld_keeps (t n : Nat) (up : Bool) : KeepsSlots e (e.addPheld t n up) := .of_eq rfl rfl rfl rfl rfl

theorem Engine.opsPrefix_keeps (p family state : Nat) : KeepsSlots e (e.opsPrefix p family state) := e.ops_keeps _

theorem Engine.settlePrefix_keeps (p : Nat) : KeepsSlots e (e.settlePrefix p) := by
  unfold Engine.settlePrefix
  split
  · exact .refl e
  · extract_lets named var e1 e2
    split
    · exact .refl e
    · have h1 : KeepsSlots e e1 := (KeepsSlots.of_eq rfl rfl rfl rfl rfl).trans (Engine.opsPrefix_keeps _ _ _ _)
      have h2 : KeepsSlots e e2 := h1.trans (.foldl (fun e q => e.dropHolder_keeps q) _ e1)
      exact (h2.trans (e2.addPheld_keeps _ _ _)).trans (Engine.ackAt_keeps _ _ _)

theorem Engine.settleFamily_keeps (f : Nat) : KeepsSlots e (e.settleFamily f) := by
  unfold Engine.settleFamily
  extract_lets x live held e1 var ylm e2 e3
  split
  · exact .refl e
  · have h1 : KeepsSlots e e1 := e.purge_keeps _
    have h2 : KeepsSlots e e2 := h1.trans (.of_eq rfl rfl rfl rfl rfl)
    have h3 : KeepsSlots e e3 := h2.trans (e2.ops_keeps _)
    split
    · exact h3.trans (e3.log_only _ _).keeps
    · exact h3.trans (e3.ackAt_keeps _ _)

theorem Engine.unbindVariants_keeps (r : Rafter) : KeepsSlots e (e.unbindVariants r) := by
  unfold Engine.unbindVariants
  extract_lets e1 var e2
  have h1 : KeepsSlots e e1 := by
    show KeepsSlots e (if _ then _ else _)
    split
    · exact (e.modRecord_keeps _ _ _).trans (Engine.settleRecord_keeps _ _ _)
    · exact .refl e
  refine .trans ?_ (Engine.settleFamily_keeps e2 _)
  unfold e2
  split
  · refine .trans ?_ (Engine.settlePrefix_keeps _ _)
    exact h1.trans (.of_eq rfl rfl rfl rfl rfl)
  · exact h1

/-! ### What a request held -/

theorem Engine.closeStores_keeps (slot : Nat) : KeepsSlots e (e.closeStores slot) :=
  (e.ops_keeps _).trans (.of_eq rfl rfl rfl rfl rfl)

theorem Engine.unreserve_keeps (c entries frames : Nat) : KeepsSlots e (e.unreserve c entries frames) := .of_eq rfl rfl rfl rfl rfl

theorem Engine.releaseReservation_keeps (slot : Nat) : KeepsSlots e (e.releaseReservation slot) := by
  unfold Engine.releaseReservation
  split
  · exact .refl e
  · rename_i r hr
    refine .trans ?_ (Engine.wakeAll_keeps _)
    exact (e.unreserve_keeps _ _ _).trans (.putReq (e := e.unreserve _ _ _) hr _)

theorem Engine.detachList_keeps (slot : Nat) : KeepsSlots e (e.detachList slot) := by
  unfold Engine.detachList
  extract_lets e1
  have h1 : KeepsSlots e e1 := e.releaseReservation_keeps slot
  split
  · exact h1
  · exact h1.trans (.of_eq rfl rfl rfl rfl rfl)

theorem Engine.updateOvercommit_keeps : KeepsSlots e e.updateOvercommit := by
  unfold Engine.updateOvercommit
  extract_lets above adm e1
  split
  · exact .refl e
  · have h1 : KeepsSlots e e1 := .of_eq rfl rfl rfl rfl rfl
    split
    · exact (h1.trans (e1.bump_keeps _)).trans (Engine.log_only _ _ _).keeps
    · exact h1

theorem Engine.dropShare_keeps (slot : Nat) : KeepsSlots e (e.dropShare slot) :=
  (KeepsSlots.of_eq rfl rfl rfl rfl rfl).trans (Engine.updateOvercommit_keeps _)

theorem Engine.unlink_keeps (slot : Nat) : KeepsSlots e (e.unlink slot) := .of_eq rfl rfl rfl rfl rfl

theorem Engine.dropDraft_keeps (slot : Nat) : KeepsSlots e (e.dropDraft slot) := .of_eq rfl rfl rfl rfl rfl

end

/-! ### Retirement (R63, R79) -/

theorem Engine.evt_putEvt_self (e : Engine) (i : Nat) (x : EvtRing) : (e.putEvt i x).evt i = x := Table.getD_put_self _ _ _ _

theorem Engine.nextGeneration_gens (e : Engine) (slot : Nat) :
    (e.nextGeneration slot).gens = Table.put e.gens slot (nextGen slot (e.gen slot)) ∧ (e.nextGeneration slot).slots = e.slots ∧
      (e.nextGeneration slot).hru = e.hru := by
  unfold Engine.nextGeneration
  extract_lets g e1
  split <;> exact ⟨rfl, rfl, rfl⟩

/-- A freed request leaves its slot empty under the next generation at the tail of the free list, with its stop bit clear, and its
event ring with one bound request less. -/
theorem Engine.freeRequest_slot (e : Engine) (slot : Nat) (r : Rafter) :
    (e.freeRequest slot r).req? slot = none ∧ (e.freeRequest slot r).gen slot = nextGen slot (e.gen slot) ∧
      (e.freeRequest slot r).slots = e.slots.give slot ∧ slot ∉ (e.freeRequest slot r).stop ∧
      ((e.freeRequest slot r).evt r.eventRing).bound = (e.evt r.eventRing).bound - 1 := by
  unfold Engine.freeRequest
  extract_lets e1 ring e2 t e3 e4 e5 e6
  have h1 : KeepsSlots e e1 := by
    refine .trans ?_ (Engine.dropDraft_keeps _ _)
    refine .trans ?_ (Engine.unlink_keeps _ _)
    refine .trans ?_ (Engine.dropShare_keeps _ _)
    exact (e.closeStores_keeps slot).trans (Engine.detachList_keeps _ _)
  clear_value e1
  have h3 : KeepsSlots e2 e3 := by
    show KeepsSlots e2 (if _ then _ else _)
    split
    · exact .of_eq rfl rfl rfl rfl rfl
    · exact .refl e2
  have h4 : KeepsSlots e2 e4 := (h3.trans (e3.ackWaiting_keeps _ _ _)).trans (Engine.ackHeld_keeps _ _ _)
  clear_value e4
  have h5 : e5.gens = Table.put e4.gens slot (nextGen slot (e4.gen slot)) ∧ e5.slots = e4.slots ∧ e5.hru = e4.hru := by
    obtain ⟨hg, hs, hh⟩ := e4.nextGeneration_gens slot
    exact ⟨(Engine.bump_gens _ _).trans hg, (Engine.bump_slots _ _).trans hs, (Engine.bump_hru _ _).trans hh⟩
  clear_value e5
  have h7 : KeepsSlots e6 (e6.unbindVariants r) := e6.unbindVariants_keeps r
  obtain ⟨hg1, hs1, -, hb1, -⟩ := h1
  obtain ⟨hg4, hs4, -, hb4, -⟩ := h4
  obtain ⟨hg5, hs5, hh5⟩ := h5
  obtain ⟨hg7, hs7, hst7, hb7, hr7⟩ := h7
  have hgen : e4.gen slot = e.gen slot := by
    rw [Engine.gen, hg4]
    show Table.getD e1.gens slot 0 = _
    rw [hg1]
    rfl
  refine ⟨hr7 slot (Table.get?_del_self _ _), ?_, ?_, ?_, ?_⟩
  · rw [Engine.gen, hg7]
    show Table.getD e5.gens slot 0 = _
    rw [hg5, Table.getD_put_self, hgen]
  · rw [hs7]
    show e5.slots.give slot = _
    rw [hs5, hs4]
    show e1.slots.give slot = _
    rw [hs1]
  · rw [hst7]
    simp [e6]
  · rw [hb7]
    show (Table.getD e5.hru.evts r.eventRing .off).bound = _
    rw [hh5]
    have hring : e2.evt r.eventRing = { ring with bound := ring.bound - 1 } := Engine.evt_putEvt_self _ _ _
    refine (hb4 r.eventRing).trans ?_
    rw [hring]
    exact congrArg (· - 1) (hb1 r.eventRing)

/-- A request that has given its completion record is freed at once. -/
theorem Engine.retire_completed {e : Engine} {slot : Nat} {r : Rafter} (h : e.req? slot = some r) (hret : r.state = .retiring)
    (hdone : r.completed = true) : e.retire slot = e.freeRequest slot r := by
  simp [Engine.retire, h, hret, hdone]

/-! ### Effect 1 (R29, R260) -/

/-- The record of a step, changed. -/
theorem Engine.stepRec?_modStepRec {e : Engine} {n : Nat} {r : StepRecord} (h : e.stepRec? n = some r) {f : StepRecord → StepRecord}
    (hf : (f r).step = r.step) : (e.modStepRec n f).stepRec? n = some (f r) := by
  obtain ⟨hget, hstep⟩ := Option.filter_eq_some_iff.1 h
  have hjournal : Table.get? (e.modStepRec n f).flt.journal (e.jslot n) = some (f r) := by
    simp only [Engine.modStepRec, Table.get?_modify, if_true, hget, Option.map_some, hstep]
  refine Option.filter_eq_some_iff.2 ⟨hjournal, ?_⟩
  rw [hf]
  exact hstep

/-- A step's record reads from the journal and the registers alone. -/
theorem Engine.stepRec?_congr {e e' : Engine} (hj : e'.flt.journal = e.flt.journal) (hr : e'.regs = e.regs) (n : Nat) :
    e'.stepRec? n = e.stepRec? n := by
  simp only [Engine.stepRec?, Engine.jslot, Engine.get_congr hr, hj]

/-- An engine that neither shadows nor is shadowed tells nobody of a commit. -/
theorem Engine.shadowCommit_alone {e : Engine} (hrun : e.flt.shadow.running = false) (hwatch : e.flt.shadow.watching = []) (y : Yealm) :
    e.shadowCommit y = e := by
  simp [Engine.shadowCommit, Engine.watcher, hrun, hwatch]

theorem Engine.releaseEvents_none {e : Engine} (h : e.flt.heldEvents = []) : e.releaseEvents = e := by
  have hsame : ({ e with flt := { e.flt with heldEvents := [] } } : Engine) = e := by
    rw [← h]
  simp only [Engine.releaseEvents, h, List.foldl_nil]
  exact hsame

/-- The leave of a mirror burst is all that asking for it changes. -/
theorem Engine.askMirror_frame (e : Engine) :
    e.askMirror.flt = e.flt ∧ e.askMirror.cnt = e.cnt ∧ e.askMirror.regs = e.regs := by
  unfold Engine.askMirror
  extract_lets pending bytes
  split <;> exact ⟨rfl, rfl, rfl⟩

/-- The commit of an engine that holds no event back and mirrors to nobody. -/
theorem Engine.commitEffect_commits {e : Engine} {y : Yealm} (hheld : e.flt.heldEvents = []) (hrun : e.flt.shadow.running = false)
    (hwatch : e.flt.shadow.watching = []) :
    (e.commitEffect y).flt.commitStep = y.step ∧ (e.commitEffect y).flt.undo = [] ∧ (e.commitEffect y).flt.events = e.flt.eventsNext ∧
      (e.commitEffect y).count Cnt.fltCommit = e.count Cnt.fltCommit + 1#32 ∧
      ∀ r, e.stepRec? y.step = some r → ∃ r', (e.commitEffect y).stepRec? y.step = some r' ∧ r'.committed = true ∧
        r'.events = e.flt.events ∧ r'.commitTime = e.now ∧ r'.tokens = r.tokens := by
  unfold Engine.commitEffect
  extract_lets e1 flt e2
  have hrest : ((e2.shadowCommit y).releaseEvents).askMirror = e2.askMirror := by
    rw [Engine.shadowCommit_alone (e := e2) hrun hwatch, Engine.releaseEvents_none (e := e2) hheld]
  obtain ⟨hflt, hcnt, hregs⟩ := e2.askMirror_frame
  rw [hrest, hflt, Engine.count_congr hcnt]
  refine ⟨rfl, rfl, rfl, (e.modStepRec y.step (e.sealRecord y)).count_bump_self Cnt.fltCommit, fun r hr => ?_⟩
  refine ⟨e.sealRecord y r, ?_, rfl, rfl, rfl, rfl⟩
  have hjournal : e2.askMirror.flt.journal = (e.modStepRec y.step (e.sealRecord y)).flt.journal := by
    rw [hflt]
    rfl
  rw [Engine.stepRec?_congr hjournal hregs]
  exact Engine.stepRec?_modStepRec hr rfl

/-! ### The run of the effects (R6, R29) -/

/-- The six effects in their order. -/
theorem Engine.effects_all (e : Engine) (y : Yealm) : e.effects y 1 6 =
    (((((Engine.effect y e 1 |> (Engine.effect y · 2)) |> (Engine.effect y · 3)) |> (Engine.effect y · 4)) |>
      (Engine.effect y · 5)) |> (Engine.effect y · 6)) := by
  have hlist : (List.range (6 + 1)).drop 1 = [1, 2, 3, 4, 5, 6] := by decide
  simp only [Engine.effects, hlist, List.foldl_cons, List.foldl_nil]

theorem Engine.runBoundary_whole (e : Engine) (y : Yealm) : e.runBoundary y 1 0 = (e.effects y 1 6).closeBoundary y := by
  simp [Engine.runBoundary]

theorem Engine.runBoundary_failing {k : Nat} (h1 : 1 ≤ k) (h6 : k ≤ 6) (e : Engine) (y : Yealm) :
    e.runBoundary y 1 k = (e.effects y 1 (k - 1)).effectFails y k := by
  simp [Engine.runBoundary, h1, h6]

/-- Nothing is due: nothing happens. -/
theorem Engine.stepBoundary_idle {e : Engine} (hopen : e.boundaryOpen = false)
    (hidle : e.ylm.current = none ∨ ∃ y, e.ylm.current = some y ∧ e.boundaryDue y = false) (k : Nat) : e.stepBoundary k = e := by
  rcases hidle with hcur | ⟨y, hcur, hdue⟩
  · simp [Engine.stepBoundary, hcur]
  · simp [Engine.stepBoundary, hcur, hopen, hdue]

/-- A boundary that is due opens and runs all of its effects when none fails. -/
theorem Engine.stepBoundary_whole {e : Engine} {y : Yealm} (hopen : e.boundaryOpen = false) (hcur : e.ylm.current = some y)
    (hdue : e.boundaryDue y = true) (hdet : (e.tryDetector Det.boundaryEffect).1 = false) :
    e.stepBoundary 0 = ((e.tryDetector Det.boundaryEffect).2.openBoundary y).runBoundary
      (((e.tryDetector Det.boundaryEffect).2.openBoundary y).ylm.current.getD y) 1 0 := by
  simp [Engine.stepBoundary, hcur, hopen, hdue, hdet]

/-- One that is due opens and runs to the effect that fails. -/
theorem Engine.stepBoundary_failing {e : Engine} {y : Yealm} (hopen : e.boundaryOpen = false) (hcur : e.ylm.current = some y)
    (hdue : e.boundaryDue y = true) {k : Nat} (hk : k ≠ 0) :
    e.stepBoundary k = (e.openBoundary y).runBoundary ((e.openBoundary y).ylm.current.getD y) 1 k := by
  simp [Engine.stepBoundary, hcur, hopen, hdue, hk]

theorem exec_stepBoundaryOpen {s : State} (h : s.serves Isl.sb) (k : BitVec 3) :
    exec (.stepBoundaryOpen k) s = .next { s with eng := s.seen.stepBoundary k.toNat } := by
  dsimp only [exec]
  exact s.actIn_serves h _

/-- An effect's number, from 1 to 6. -/
theorem failing_toNat {k : BitVec 3} (h0 : k ≠ 0#3) (h7 : k ≠ 7#3) : 1 ≤ k.toNat ∧ k.toNat ≤ 6 := by
  have hlt := k.isLt
  have hne0 : k.toNat ≠ 0 := fun h => h0 (BitVec.eq_of_toNat_eq h)
  have hne7 : k.toNat ≠ 7 := fun h => h7 (BitVec.eq_of_toNat_eq h)
  omega

/-- Settles O46: a boundary not due is nothing, one due runs its effects or stops at the one that fails; the commit and the
retirement are what effects 1 and 2 do. -/
theorem boundariesRunTheirEffects : Obligations.BoundariesRunTheirEffects := by
  unfold Obligations.BoundariesRunTheirEffects
  refine ⟨fun s k h hopen hidle => ?_, fun s y y' o h hopen hcur hdue hdet ho hy => ?_,
    fun s y y' o k h hopen hcur hdue h0 h7 ho hy => ?_, fun e y _ hheld hrun hwatch => Engine.commitEffect_commits hheld hrun hwatch,
    fun e slot r hr hret hdone => ?_⟩
  · rw [exec_stepBoundaryOpen h, Engine.stepBoundary_idle (e := s.seen) hopen hidle]
  · have hrun := Engine.stepBoundary_whole (e := s.seen) hopen hcur hdue hdet
    rw [← ho, ← hy, Engine.runBoundary_whole, Engine.effects_all] at hrun
    rw [exec_stepBoundaryOpen h]
    exact congrArg (fun e => Host.Outcome.next { s with eng := e }) hrun
  · obtain ⟨h1, h6⟩ := failing_toNat h0 h7
    rw [exec_stepBoundaryOpen h, Engine.stepBoundary_failing (e := s.seen) hopen hcur hdue (by omega), ← ho, ← hy,
      Engine.runBoundary_failing h1 h6]
  · rw [Engine.retire_completed hr hret hdone]
    exact e.freeRequest_slot slot r

end Sys2Proof.Machine
end

section
/-!
# The timebase

What passes when nothing is commanded, what a strobe and its absence do to AO's copy, and what a lost word of the partition is.
-/

namespace Sys2Proof.Machine

/-! ### A cycle of AO -/

theorem step_cycle {s : State} (hp : s.pending = []) (hd : s.delivery = none) : step s = .next s.cycle := by
  simp [step, hp, hd]

theorem step_delivers {s : State} {c : Instr} {rest : List (Nat × Instr)} (hp : s.pending = []) (hd : s.delivery = some (c, rest)) :
    step s = keepCrossing rest (exec c { s with crossing := [] }) := by
  simp [step, hp, hd]

/-- With no correction in force a cycle is 5 ns. -/
theorem Timebase.cycle_plain {t : Timebase} (hs : t.slew = 0) (hh : t.hold = 0) (h0 : 0 ≤ t.frac) (h1 : t.frac < 1000000000) :
    t.cycle 0 = { t with count := (t.count + 5) % 2 ^ 64 } := by
  have hq : t.frac / 1000000000 = 0 := Int.ediv_eq_zero_of_lt h0 h1
  have hr : t.frac % 1000000000 = t.frac := Int.emod_eq_of_lt h0 h1
  obtain ⟨count, frac, slew, hold⟩ := t
  subst hs hh
  simp_all [Timebase.cycle, clampInt]

theorem Timebase.cycle_holding {t : Timebase} (h : 0 < t.hold) (ppb : Int) : t.cycle ppb = { t with hold := t.hold - 5 } := by
  simp [Timebase.cycle, h]

/-- What comes from outside an island that does not receive waits in its crossing. -/
theorem State.cross_joins {s : State} {isl : Nat} (h : ¬ s.receives isl) (c : Instr) (f : Engine → Engine) :
    s.cross isl c f = .next { s with crossing := s.crossing ++ [(isl, c)], eng := s.seen } := by
  refine s.cross_waits isl c f ?_
  cases hl : s.eng.live isl with
  | false => rfl
  | true =>
    cases hw : s.waits isl with
    | true => rfl
    | false => exact absurd ⟨hl, hw⟩ h

/-- Settles O2: an idle step delivers or is a cycle, and a command that its island does not receive waits in the crossing. -/
theorem idleStepAdvancesTheTimebase : Obligations.IdleStepAdvancesTheTimebase := by
  unfold Obligations.IdleStepAdvancesTheTimebase
  refine ⟨fun s hp hd => ⟨_, step_cycle hp hd, rfl, hp, rfl, rfl⟩, fun s hp hd hs hh hx h0 h1 => ⟨_, step_cycle hp hd, ?_⟩,
    fun s hp hd hh => ⟨_, step_cycle hp hd, ?_⟩, fun s c rest hp hd => step_delivers hp hd, fun s isl c h hc => ?_⟩
  · simp [State.cycle, hx, Timebase.cycle_plain hs hh h0 h1, hs]
  · simp [State.cycle, Timebase.cycle_holding hh]
  · rcases hc with ⟨rfl, rfl⟩ | ⟨⟨ev, i, rfl⟩, rfl⟩ | ⟨⟨g, rfl⟩, rfl⟩ | ⟨⟨q, ws, rfl⟩, rfl⟩
    all_goals exact State.cross_joins h _ _

/-! ### Strobes -/

theorem Timebase.strobe_frac (t : Timebase) (chip : Nat) : (t.strobe chip).frac = t.frac := by
  unfold Timebase.strobe
  split
  · split <;> rfl
  · split <;> rfl

/-- Where a strobe leaves the copy: slewing, stepped forward, or holding (R364). -/
theorem Timebase.strobe_cases (t : Timebase) (chip : Nat) :
    if t.count ≤ chip ∧ chip - t.count ≤ 20 then
      (t.strobe chip).count = t.count ∧ (t.strobe chip).slew = ((chip - t.count : Nat) : Int) ∧ (t.strobe chip).hold = 0
    else if t.count < chip then (t.strobe chip).count = chip ∧ (t.strobe chip).slew = 0 ∧ (t.strobe chip).hold = 0
    else if t.count - chip ≤ 20 then
      (t.strobe chip).count = t.count ∧ (t.strobe chip).slew = -((t.count - chip : Nat) : Int) ∧ (t.strobe chip).hold = 0
    else (t.strobe chip).count = t.count ∧ (t.strobe chip).slew = 0 ∧ (t.strobe chip).hold = t.count - chip := by
  unfold Timebase.strobe
  by_cases hle : t.count ≤ chip
  · by_cases hnear : chip - t.count ≤ 20
    · simp [hle, hnear]
    · have hlt : t.count < chip := by omega
      simp [hle, hnear, hlt]
  · have hlt : ¬ t.count < chip := by omega
    by_cases hnear : t.count - chip ≤ 20
    · simp [hle, hlt, hnear]
    · simp [hle, hlt, hnear]

theorem exec_timebaseStrobe_accepted {s : State} {c : BitVec 64} (h : s.serves Isl.ao) (hr : s.rejectsStrobe c.toNat = false) :
    exec (.timebaseStrobe c) s = .next { s with
      tb := s.tb.strobe c.toNat,
      eng := { s.eng with now := (s.tb.strobe c.toNat).count, cpc := { s.eng.cpc with tbRejects := 0, tbLost := false } } } := by
  have hl : s.eng.live Isl.ao = true := h
  simp [exec, execTimebaseStrobe, hl, hr]

theorem exec_timebaseStrobe_rejected {s : State} {c : BitVec 64} (h : s.serves Isl.ao) (hr : s.rejectsStrobe c.toNat = true) :
    exec (.timebaseStrobe c) s = .next { s with
      eng := ({ s.seen with cpc := { s.eng.cpc with tbRejects := s.eng.cpc.tbRejects + 1 } } : Engine).bump Cnt.cpcTbReject } := by
  have hl : s.eng.live Isl.ao = true := h
  simp [exec, execTimebaseStrobe, hl, hr, State.seen]

/-! ### A timebase lost, and a word of the partition lost -/

section
variable {e e' : Engine}

theorem ReportOnly.rafter_eq (h : ReportOnly e e') : e'.rafter = e.rafter := by rw [h.1]
theorem ReportOnly.cpc_eq (h : ReportOnly e e') : e'.cpc = e.cpc := by rw [h.1]

end

theorem Engine.corrected_count (e : Engine) (det detail : Nat) (given : Option Bool) :
    (e.corrected det detail given).count Cnt.errCorr = e.count Cnt.errCorr + 1#32 :=
  Engine.report_count rfl e det nullHandle detail given

/-- The report of an engine that has only noted TB_LOST. -/
theorem Engine.loseTimebase_report (e : Engine) :
    ∃ a : Engine, e.loseTimebase = a.corrected Det.timebase 0 ∧ a.cpc = { e.cpc with tbLost := true } ∧ a.err = e.err ∧ a.cnt = e.cnt ∧
      a.regs = e.regs ∧ a.rafter = e.rafter := ⟨_, rfl, rfl, rfl, rfl, rfl, rfl⟩

theorem exec_timebaseTimeout {s : State} (h : s.serves Isl.ao) :
    exec .timebaseTimeout s = .next { s with eng := s.seen.loseTimebase } := by
  dsimp only [exec]
  exact s.actIn_serves h _

theorem exec_t0PortTimeout {s : State} (h : s.serves Isl.ao) (a : BitVec 31) :
    exec (.t0PortTimeout a) s = .next { s with eng := s.seen.t0Lost a.toNat } := by
  dsimp only [exec]
  exact s.actIn_serves h _

/-- Outside the log, with no step in compute, a lost word is a CORRECTED-class error of the engine whose journal it may have damaged. -/
theorem Engine.t0Lost_idle {e : Engine} {offset base : Nat} {r : T0Region} (hcur : e.ylm.current = none)
    (hat : regionAt offset = some (r, base)) (hres : r ≠ .reserved) (hlog : r ≠ .eavesLog) :
    e.t0Lost offset =
      (if r = .journal then e.damageSlot ((offset - base) / 4194304) else e).corrected Det.t0Port offset := by
  have hnone : (if r = .journal then e.damageSlot ((offset - base) / 4194304) else e).ylm.current = none := by
    split <;> exact hcur
  unfold Engine.t0Lost
  rw [hat]
  cases r <;> simp_all

theorem Engine.t0Lost_reserved {e : Engine} {offset : Nat} (h : ∀ r base, regionAt offset = some (r, base) → r = .reserved) :
    e.t0Lost offset = e := by
  unfold Engine.t0Lost
  cases hat : regionAt offset with
  | none => rfl
  | some x =>
    obtain ⟨r, base⟩ := x
    rw [h r base hat]

/-- Settles O12: a strobe is accepted or rejected by its distance and the run of rejections; a timeout of the strobes, and of a word of
the partition, is one CORRECTED-class report. -/
theorem strobesAndTimebaseLoss : Obligations.StrobesAndTimebaseLoss := by
  unfold Obligations.StrobesAndTimebaseLoss
  refine ⟨fun s c h hok => ?_, fun s c h hfar hrun => ?_, fun s h => ?_, fun s a r base h hcur hat hres hlog => ?_,
    fun s a h hres => ?_⟩
  · have hr : s.rejectsStrobe c.toNat = false := by
      unfold State.rejectsStrobe
      rw [Bool.and_eq_false_iff, decide_eq_false_iff_not, decide_eq_false_iff_not]
      omega
    exact ⟨_, exec_timebaseStrobe_accepted h hr, rfl, Timebase.strobe_frac _ _, Timebase.strobe_cases _ _⟩
  · have hr : s.rejectsStrobe c.toNat = true := by simp [State.rejectsStrobe, hfar, hrun]
    exact ⟨_, exec_timebaseStrobe_rejected h hr, rfl, rfl, Engine.count_bump_self _ _⟩
  · obtain ⟨e, he, hcpc, herr, hcnt, hregs, hrafter⟩ := s.seen.loseTimebase_report
    refine ⟨_, exec_timebaseTimeout h, ?_⟩
    have hrep := e.corrected_only Det.timebase 0 none
    rw [he, hrep.cpc_eq, hrep.regs_eq, hrep.rafter_eq, Engine.corrected_sequence, Engine.corrected_count, Engine.count_congr hcnt, herr]
    exact ⟨hcpc, rfl, rfl, hregs, hrafter⟩
  · refine ⟨_, exec_t0PortTimeout h a, ?_⟩
    rw [Engine.t0Lost_idle (e := s.seen) hcur hat hres hlog, Engine.corrected_sequence, Engine.corrected_count,
      (Engine.corrected_only _ _ _ _).regs_eq, (Engine.corrected_only _ _ _ _).rafter_eq]
    split <;> exact ⟨rfl, rfl, rfl, rfl⟩
  · rw [exec_t0PortTimeout h, Engine.t0Lost_reserved hres]

end Sys2Proof.Machine
end

section
/-!
# The courses of a step

The begin of a course, its late and failed segments, the set it runs with, its stalls, and the end of the step's compute (R100, R126 to
R129, R247).
-/

namespace Sys2Proof.Machine

/-! ### A course of the yealm in compute -/

theorem Engine.onCourse_some {e : Engine} {y : Yealm} {c : Course} {k : Nat} (hcur : e.ylm.current = some y) (hc : y.courses[k]? = some c)
    (f : Yealm → Course → Engine → Engine) : e.onCourse k f = f y c e := by
  simp [Engine.onCourse, hcur, hc]

/-- An engine in no group neither follows, nor shares its step with others, nor leads a group. -/
theorem Engine.alone_roles {e : Engine} (h : e.alone) :
    e.follows = false ∧ e.grouped = false ∧ e.manages = false ∧ e.leadsGroup = false := by
  obtain ⟨hjoined, hshadows⟩ := h
  have hmanages : e.manages = false := by simp [Engine.manages, hjoined]
  exact ⟨by simp [Engine.follows, hjoined, hshadows], by simp [Engine.grouped, hjoined, hshadows], hmanages,
    by simp [Engine.leadsGroup, hmanages]⟩

@[simp] theorem Engine.run_putRun_self (e : Engine) (k : Nat) (x : CourseRun) : (e.putRun k x).run k = x := Table.getD_put_self _ _ _ _

/-! ### The members a test names -/

/-- A yealm with the members that a test names changed. -/
def Yealm.change (y : Yealm) (hit : Nat → Member → Bool) (f : Member → Member) : Yealm :=
  { y with members := (y.members.zipIdx).map fun x => if hit x.2 x.1 then f x.1 else x.1 }

theorem Engine.journalMembers_eq (e : Engine) : ∃ j, e.journalMembers = { e with flt := { e.flt with journal := j } } := by
  unfold Engine.journalMembers
  split
  · exact ⟨e.flt.journal, rfl⟩
  · exact ⟨_, rfl⟩

/-- Changing members touches them and the step's record. -/
theorem Engine.changeMembers_eq {e : Engine} {y : Yealm} (hcur : e.ylm.current = some y) (hit : Nat → Member → Bool) (f : Member → Member) :
    ∃ j, e.changeMembers hit f = { e with ylm := { e.ylm with current := some (y.change hit f) }, flt := { e.flt with journal := j } } := by
  have hmap : e.ylm.current.map (fun y => y.change hit f) = some (y.change hit f) := by rw [hcur]; rfl
  rw [← hmap]
  exact Engine.journalMembers_eq _

/-! ### Pages marked base-only on an engine that leads no group (R129, R239) -/

/-- e' differs from e in pages and the undo log alone. -/
def PagesOnly (e e' : Engine) : Prop := e' = { e with pgm := e'.pgm, flt := e'.flt }

theorem PagesOnly.of (e : Engine) (p : Pgm) (f : Flt) : PagesOnly e { e with pgm := p, flt := f } := rfl

theorem PagesOnly.refl (e : Engine) : PagesOnly e e := rfl

theorem PagesOnly.trans {a b c : Engine} (h : PagesOnly a b) (k : PagesOnly b c) : PagesOnly a c := by
  unfold PagesOnly at *
  rw [k, h]

theorem PagesOnly.leadsGroup {e e' : Engine} (h : PagesOnly e e') : e'.leadsGroup = e.leadsGroup := by
  rw [h]
  rfl

/-- Steps that keep to the pages while no group is led keep to them in a row. -/
theorem PagesOnly.foldl {α : Type} {f : Engine → α → Engine} (hf : ∀ e x, e.leadsGroup = false → PagesOnly e (f e x)) (l : List α)
    {e : Engine} (h : e.leadsGroup = false) : PagesOnly e (l.foldl f e) := by
  induction l generalizing e with
  | nil => exact .refl e
  | cons x l ih =>
    have hx := hf e x h
    exact hx.trans (ih (hx.leadsGroup.trans h))

theorem Engine.ops_pagesOnly {e : Engine} (h : e.leadsGroup = false) (record : Nat) : PagesOnly e (e.ops record) := by
  simp [Engine.ops, h, PagesOnly.refl]

theorem Engine.putPage_pagesOnly {e : Engine} (h : e.leadsGroup = false) (p : Nat) (x : Page) : PagesOnly e (e.putPage p x) := by
  unfold Engine.putPage
  refine .trans ?_ (Engine.ops_pagesOnly ?_ _)
  · exact .of e _ e.flt
  · exact h

theorem Engine.markBaseOnly_pagesOnly {e : Engine} (h : e.leadsGroup = false) (slot first last : Nat) :
    PagesOnly e (e.markBaseOnly slot first last) := by
  refine PagesOnly.foldl (fun e p h => ?_) _ h
  dsimp only
  split
  · exact .refl e
  · refine .trans ?_ (Engine.putPage_pagesOnly ?_ _ _)
    · exact .of e e.pgm _
    · exact h

/-! ### The set a course runs with (R127, R129, R375) -/

theorem Engine.failSegments_nil (e : Engine) (y : Yealm) (c : Course) : e.failSegments y c [] = e := rfl

/-- A member as the lateness of its segment leaves it: deferred in SERVICE, else served from the base (R127, R129). -/
def Member.asLate (mode : Nat) (m : Member) : Member := if mode = 0 then { m with deferred := true } else { m with baseOnly := true }

/-- What the late segments of a course change of the step in compute, and that they drive nothing. -/
theorem Engine.lateSegments_step {e : Engine} {y : Yealm} (hcur : e.ylm.current = some y) (hlead : e.leadsGroup = false) (c : Course)
    (js : List Nat) (counted : Bool) :
    (e.lateSegments y c js counted).out = e.out ∧
      (e.lateSegments y c js counted).ylm =
        { e.ylm with current := some (y.change (fun i m => c.inSegments js i m && !m.failed) (Member.asLate y.mode)) } := by
  unfold Engine.lateSegments
  extract_lets hit e1 ms e2 e3
  by_cases hmode : y.mode = 0
  · obtain ⟨j, hj⟩ := Engine.changeMembers_eq hcur hit fun m => { m with deferred := true }
    have hlate : Member.asLate y.mode = fun m => { m with deferred := true } := funext fun m => if_pos hmode
    have h1 : e1.out = e.out ∧ e1.ylm = { e.ylm with current := some (y.change hit fun m => { m with deferred := true }) } := by
      rw [show e1 = _ from hj]
      exact ⟨rfl, rfl⟩
    rw [if_pos hmode, hlate]
    split <;> exact h1
  · obtain ⟨j, hj⟩ := Engine.changeMembers_eq hcur hit fun m => { m with baseOnly := true }
    have hlate : Member.asLate y.mode = fun m => { m with baseOnly := true } := funext fun m => if_neg hmode
    have hlead2 : e2.leadsGroup = false := by rw [show e2 = _ from hj]; exact hlead
    have hpages : PagesOnly e2 e3 := PagesOnly.foldl (fun e m h => Engine.markBaseOnly_pagesOnly h _ _ _) ms hlead2
    have h3 : e3.out = e.out ∧ e3.ylm = { e.ylm with current := some (y.change hit fun m => { m with baseOnly := true }) } := by
      rw [hpages, show e2 = _ from hj]
      exact ⟨rfl, rfl⟩
    rw [if_neg hmode, hlate]
    split <;> exact h3

theorem Engine.emitCtl_out (e : Engine) (ws : List (BitVec 128)) : (e.emitCtl ws).out = ws.reverse.map Output.ctl ++ e.out := by
  induction ws generalizing e with
  | nil => rfl
  | cons w ws ih =>
    have h := ih (e.emit (.ctl w))
    simp only [Engine.emit_out] at h
    simpa [Engine.emitCtl] using h

/-- A set with no failure, fixed on an engine that leads no group: the late members change and the words that start the course go out. -/
theorem Engine.applySet_fixes {e : Engine} {y : Yealm} (hcur : e.ylm.current = some y) (hlead : e.leadsGroup = false) (k : Nat) (c : Course)
    (counted : Bool) : e.fixesSet (e.applySet y k c (e.run k).late [] false counted) y k c := by
  unfold Engine.applySet
  extract_lets late e1 x e2 e3 e4
  have hl : late = (e.run k).late := List.filter_eq_self.2 fun _ _ => rfl
  obtain ⟨hout, hylm⟩ := Engine.lateSegments_step (e := e2) (y := y) hcur hlead c late counted
  rw [← show e4 = e2.lateSegments y c late counted from rfl] at hout hylm
  obtain ⟨hcurrent, -, hruns, -, -⟩ := e4.emitCtl_sameStep (c.startWords k late (y.mode != 0))
  have hrun : (e4.emitCtl (c.startWords k late (y.mode != 0))).run k = e2.run k := by
    unfold Engine.run
    rw [hruns, hylm]
  refine ⟨?_, ?_, ?_, _, hcurrent.trans (congrArg Ylm.current hylm), ?_⟩
  · rw [hrun, Engine.run_putRun_self]
  · rw [hrun, Engine.run_putRun_self]
    exact hl
  · rw [Engine.emitCtl_out, hout, hl]
    rfl
  · rw [hl]
    simp only [Yealm.change, Member.asLate]

/-- The report of a lone engine's course is whole, no read has failed and the record holds no set: the set is fixed. -/
theorem Engine.fixSet_fixes {e : Engine} {y : Yealm} {c : Course} {k : Nat} (halone : e.alone) (hcur : e.ylm.current = some y)
    (hc : y.courses[k]? = some c) (hrep : (e.run k).reported = false) (hseg : (e.run k).failedSeg = []) (hbase : (e.run k).baseFail = false)
    (hset : e.recordedSet y.step k = none) : e.fixesSet (e.fixSet k) y k c := by
  obtain ⟨-, hgrouped, -, hlead⟩ := Engine.alone_roles halone
  have h : e.fixSet k = e.applySet y k c (e.run k).late [] false true := by
    simp [Engine.fixSet, Engine.onCourse_some hcur hc, hrep, hgrouped, Engine.decideSet, hset, hseg, hbase]
  rw [h]
  exact Engine.applySet_fixes hcur hlead k c true

/-! ### A failed base read leaves the step but for its members (R128, R173) -/

theorem ReportOnly.sameStep {e e' : Engine} (h : ReportOnly e e') : SameStep e e' := .of_ylm h.ylm_eq h.stepNo_eq

theorem Engine.failRequest_sameStep (e : Engine) (slot status : Nat) : SameStep e (e.failRequest slot status) := by
  unfold Engine.failRequest
  split
  · exact .refl e
  · split
    · exact ⟨rfl, rfl, rfl, rfl, rfl⟩
    · split
      · exact .of_ylm rfl rfl
      · exact .refl e

theorem Engine.requestError_sameStep (e : Engine) (det slot status detail : Nat) (given : Option Bool) :
    SameStep e (e.requestError det slot status detail given) :=
  (e.failRequest_sameStep slot status).trans (Engine.report_only _ _ _ _ _ _).sameStep

theorem Engine.ops_sameStep (e : Engine) (record : Nat) : SameStep e (e.ops record) := by
  unfold Engine.ops
  split
  · exact .of_ylm rfl rfl
  · exact .refl e

theorem Engine.wake_sameStep (e : Engine) (hit : Rafter → Bool) : SameStep e (e.wake hit) := by
  unfold Engine.wake
  extract_lets l
  split
  · exact .refl e
  · exact .of_ylm rfl rfl

theorem Engine.modRecord_sameStep (e : Engine) (a v : Nat) (f : VersionRec → VersionRec) : SameStep e (e.modRecord a v f) := by
  unfold Engine.modRecord
  split
  · exact .refl e
  · exact .of_ylm rfl rfl

theorem Engine.opsSlot_sameStep (e : Engine) (s : Nat) (x : Slot) : SameStep e (e.opsSlot s x) := by
  unfold Engine.opsSlot
  split
  · exact .refl e
  · exact e.ops_sameStep _

theorem Engine.freeSlot_sameStep (e : Engine) (s : Nat) : SameStep e (e.freeSlot s) := by
  unfold Engine.freeSlot
  split
  · exact .refl e
  · extract_lets e1 v e2 e3
    have h1 : SameStep e e1 := (e.modRecord_sameStep _ _ _).trans (Engine.ops_sameStep _ _)
    have h2 : SameStep e e2 := h1.trans (.of_ylm rfl rfl)
    have h3 : SameStep e e3 := h2.trans (e2.wake_sameStep _)
    split
    · exact h3
    · exact h3.trans (.of_ylm rfl rfl)

theorem Engine.evictSlot_sameStep (e : Engine) (s : Nat) (x : Slot) : SameStep e (e.evictSlot s x) :=
  ((e.modRecord_sameStep _ _ _).trans (Engine.freeSlot_sameStep _ _)).trans (.of_ylm rfl rfl)

theorem Engine.demoteSlot_sameStep {e e' : Engine} {s : Nat} {x : Slot} (h : e.demoteSlot s x = some e') : SameStep e e' := by
  obtain ⟨g, -, rfl⟩ := Option.map_eq_some_iff.1 h
  refine .trans ?_ (Engine.opsSlot_sameStep _ _ _)
  exact (e.modRecord_sameStep _ _ _).trans (.of_ylm rfl rfl)

theorem Engine.evictOne_sameStep {e e' : Engine} {test : Slot → Bool} (h : e.evictOne test = some e') : SameStep e e' := by
  obtain ⟨v, -, hv⟩ := List.exists_of_findSome?_eq_some h
  split at hv
  · exact Engine.demoteSlot_sameStep hv
  · obtain rfl := Option.some.inj hv
    exact e.evictSlot_sameStep _ _

theorem Engine.fitQuota_sameStep {fuel t : Nat} {e e' : Engine} (h : Engine.fitQuota fuel t e = some e') : SameStep e e' := by
  induction fuel generalizing e with
  | zero =>
    unfold Engine.fitQuota at h
    split at h
    · exact Option.some.inj h ▸ .refl e
    · split at h
      · exact Option.some.inj h ▸ .refl e
      · cases h
  | succ fuel ih =>
    unfold Engine.fitQuota at h
    split at h
    · exact Option.some.inj h ▸ .refl e
    · split at h
      · exact Option.some.inj h ▸ .refl e
      · dsimp only at h
        split at h
        · cases h
        · next e1 he1 => exact (Engine.evictOne_sameStep he1).trans (ih h)

/-- One round of the search for a slot. The equations are proved with the free number abstracted, because unfolding the search evaluates
the list of 8,192 numbers that the free one is taken from. -/
theorem Engine.findSlot_zero (n : Nat) (e : Engine) : Engine.findSlot 0 n e =
    match e.freeSlotNo, findRun (e.slotRuns false) (e.poolGranules false) n with
    | some s, some g => some (s, g, e)
    | _, _ => none := by
  delta Engine.findSlot Engine.findSlot._f
  generalize Engine.freeSlotNo = no
  rfl

theorem Engine.findSlot_succ (fuel n : Nat) (e : Engine) : Engine.findSlot (fuel + 1) n e =
    match e.freeSlotNo, findRun (e.slotRuns false) (e.poolGranules false) n with
    | some s, some g => some (s, g, e)
    | _, _ => match e.evictOne fun _ => true with
        | none => none
        | some e => Engine.findSlot fuel n e := by
  delta Engine.findSlot Engine.findSlot._f
  generalize Engine.freeSlotNo = no
  rfl

theorem Engine.findSlot_sameStep {fuel n s g : Nat} {e e' : Engine} (h : Engine.findSlot fuel n e = some (s, g, e')) : SameStep e e' := by
  induction fuel generalizing e with
  | zero =>
    rw [Engine.findSlot_zero] at h
    split at h
    · cases h
      exact .refl _
    · cases h
  | succ fuel ih =>
    rw [Engine.findSlot_succ] at h
    split at h
    · cases h
      exact .refl _
    · split at h
      · cases h
      · next e1 he1 => exact (Engine.evictOne_sameStep he1).trans (ih h)

theorem Engine.placeVersion_sameStep {e e' : Engine} {a v family owner size s : Nat}
    (h : (e.placeVersion a v family owner size).2 = some (s, e')) : SameStep e e' := by
  cases hquota : Engine.fitQuota 16384 owner e with
  | none => simp [Engine.placeVersion, hquota] at h
  | some e1 =>
    cases hslot : Engine.findSlot 16384 (ceilDiv size 16) e1 with
    | none => simp [Engine.placeVersion, hquota, hslot] at h
    | some x =>
      obtain ⟨s', g, e2⟩ := x
      simp only [Engine.placeVersion, hquota, hslot, Option.some.injEq, Prod.mk.injEq] at h
      obtain ⟨-, rfl⟩ := h
      exact ((Engine.fitQuota_sameStep hquota).trans (Engine.findSlot_sameStep hslot)).trans (.of_ylm rfl rfl)

theorem Engine.startReload_sameStep {e e' : Engine} {a v : Nat} (h : e.startReload a v = some e') : SameStep e e' := by
  unfold Engine.startReload at h
  split at h
  · split at h
    · split at h
      · cases h
      · next s e1 h1 =>
        extract_lets e2 e3 at h
        obtain rfl := Option.some.inj h
        have h3 : SameStep e2 e3 := by
          dsimp only [e3]
          split
          · exact e2.opsSlot_sameStep _ _
          · exact .refl e2
        refine .trans (((Engine.placeVersion_sameStep h1).trans (e1.modRecord_sameStep _ _ _)).trans h3) ?_
        exact .of_ylm rfl rfl
    · cases h
  · cases h

theorem Engine.nextReload_sameStep {e e' : Engine} {j : Job} {l : List (Nat × Nat)} (h : e.nextReload l = some (j, e')) : SameStep e e' := by
  induction l with
  | nil => cases h
  | cons x l ih =>
    obtain ⟨a, v⟩ := x
    unfold Engine.nextReload at h
    split at h
    · split at h
      · cases h
        exact .refl e
      · exact ih h
    · split at h
      · next x hx =>
        cases h
        obtain ⟨e1, h1, h2⟩ := Option.bind_eq_some_iff.1 hx
        obtain ⟨j', -, h3⟩ := Option.map_eq_some_iff.1 h2
        cases h3
        exact Engine.startReload_sameStep h1
      · exact ih h

theorem Engine.nextJobOf_sameStep {e e' : Engine} {j : Job} (h : e.nextJobOf = some (j, e')) : SameStep e e' := by
  unfold Engine.nextJobOf at h
  extract_lets first at h
  split at h
  · cases h
    exact .refl e
  · split at h
    · next x hx =>
      cases h
      exact Engine.nextReload_sameStep hx
    · obtain ⟨j', -, h1⟩ := Option.map_eq_some_iff.1 h
      cases h1
      exact .refl e

theorem Engine.askLeave_sameStep (e : Engine) (ch1 : Bool) (cls cred : Nat) (why : LeaveFor) :
    SameStep e (e.askLeave ch1 cls cred why).2 := by
  exact .of_ylm (Engine.putChannel_ylm _ _ _) (Engine.putChannel_stepNo _ _ _)

theorem Engine.nextLoadBurst_sameStep (e : Engine) : SameStep e e.nextLoadBurst := by
  unfold Engine.nextLoadBurst
  split
  · exact .refl e
  · split
    · exact .refl e
    · next j e1 h1 =>
      extract_lets n bytes
      have hask := e1.askLeave_sameStep true 3 (e1.credits (e1.energy 3 * bytes)) .load
      exact ((Engine.nextJobOf_sameStep h1).trans hask).trans (.of_ylm rfl rfl)

theorem Engine.loseFamily_sameStep (e : Engine) (f : Nat) : SameStep e (e.loseFamily f) := by
  unfold Engine.loseFamily
  extract_lets x
  split
  · split
    · exact .refl e
    · refine .trans ?_ (Engine.nextLoadBurst_sameStep _)
      exact .of_ylm rfl rfl
  · exact .refl e

/-- The members of a failed course fail; nothing else of the step changes. -/
theorem Engine.failCourse_step {e : Engine} {y : Yealm} (hcur : e.ylm.current = some y) (k : Nat) (c : Course) :
    (e.failCourse k c).ylm.runs = e.ylm.runs ∧
      (e.failCourse k c).ylm.current = some (y.change (fun i _ => c.has i) fun m => { m with failed := true }) := by
  obtain ⟨j, hj⟩ := Engine.changeMembers_eq hcur (fun i _ => c.has i) fun m => { m with failed := true }
  have hfail : SameStep (e.changeMembers (fun i _ => c.has i) fun m => { m with failed := true })
      (e.failMembers (fun i _ => c.has i) Det.baseRead k) := by
    unfold Engine.failMembers
    extract_lets slots e1
    split
    · exact .refl e1
    · exact .foldl (fun e s => e.requestError_sameStep _ _ _ _ _) slots e1
  have hcourse : SameStep (e.changeMembers (fun i _ => c.has i) fun m => { m with failed := true }) (e.failCourse k c) := by
    unfold Engine.failCourse
    extract_lets e1
    split
    · exact hfail
    · exact hfail.trans (e1.loseFamily_sameStep _)
  obtain ⟨hcurrent, -, hruns, -, -⟩ := hcourse
  rw [hcurrent, hruns, hj]
  exact ⟨rfl, rfl⟩

theorem Engine.baseFails_step {e : Engine} {y : Yealm} {c : Course} {k : Nat} (halone : e.alone) (hcur : e.ylm.current = some y)
    (hc : y.courses[k]? = some c) :
    ((e.baseFails k).run k).baseFail = true ∧
      (e.baseFails k).ylm.current = some (y.change (fun i _ => c.has i) fun m => { m with failed := true }) := by
  obtain ⟨-, hgrouped, -, -⟩ := Engine.alone_roles halone
  unfold Engine.baseFails
  rw [Engine.onCourse_some hcur hc, if_neg (by simp [hgrouped])]
  extract_lets e1 x
  obtain ⟨hruns, hcurrent⟩ := Engine.failCourse_step (e := e1.putRun k { x with baseFail := true }) (y := y) hcur k c
  have hrun : (e1.putRun k { x with baseFail := true }).run k = { x with baseFail := true } := Engine.run_putRun_self _ _ _
  refine ⟨?_, hcurrent⟩
  unfold Engine.run at hrun ⊢
  rw [hruns, hrun]

/-! ### The reports of a course (R100, R126, R127) -/

theorem Engine.courseBegins_inOrder {e : Engine} {y : Yealm} {c : Course} {k : Nat} (hcur : e.ylm.current = some y)
    (hc : y.courses[k]? = some c) (hmay : e.mayBegin k = true) :
    e.courseBegins k = if k + 1 = y.courses.length then (e.putRun k { e.run k with begun := true }).sealPoint
      else e.putRun k { e.run k with begun := true } := by
  simp [Engine.courseBegins, Engine.onCourse_some hcur hc, hmay]

/-- A report of a real segment before the set is fixed joins the late ones, or the failed ones. -/
theorem Engine.segReported_early {e : Engine} {y : Yealm} {c : Course} {g : Segment} {k j : Nat} (hcur : e.ylm.current = some y)
    (hc : y.courses[k]? = some c) (hj : j < c.segments) (hg : y.segments[c.firstSegment + j]? = some g) (hnull : g.null = false)
    (hrep : (e.run k).reported = false) (failed : Bool) :
    e.segReported k j failed = e.putRun k (if failed then { e.run k with failedSeg := insertNat j (e.run k).failedSeg }
      else { e.run k with late := insertNat j (e.run k).late }) := by
  have hle : ¬ c.segments ≤ j := by omega
  cases failed <;> simp [Engine.segReported, Engine.onCourse_some hcur hc, hle, hg, hnull, hrep]

theorem Engine.count_bumpBy_self (e : Engine) (c n : Nat) : (e.bumpBy c n).count c = e.count c + BitVec.ofNat 32 n := by
  simp [Engine.count]

theorem Engine.count_bumpBy_ne (e : Engine) {c d : Nat} (n : Nat) (h : d ≠ c) : (e.bumpBy c n).count d = e.count d := by
  simp [Engine.count, Table.getD_put_ne _ _ _ h]

theorem Engine.baseStalls_counts {e : Engine} {y : Yealm} {c : Course} {k : Nat} (hcur : e.ylm.current = some y)
    (hc : y.courses[k]? = some c) (ns : Nat) :
    (e.baseStalls k ns).ylm.stallNs = e.ylm.stallNs + ns ∧
      (e.baseStalls k ns).count Cnt.ylmBaseStall = e.count Cnt.ylmBaseStall + 1#32 ∧
      (e.baseStalls k ns).count Cnt.ylmStallUs = e.count Cnt.ylmStallUs + BitVec.ofNat 32 (ns / 1000) := by
  unfold Engine.baseStalls
  rw [Engine.onCourse_some hcur hc]
  extract_lets v e1
  have hlog := ((e1.bump Cnt.ylmBaseStall).bumpBy Cnt.ylmStallUs (ns / 1000)).log_only Ev.baseStall [k, ns]
  refine ⟨congrArg Ylm.stallNs hlog.ylm_eq, ?_, ?_⟩
  · rw [hlog.2.2 _ (by decide), Engine.count_bumpBy_ne _ _ (by decide), Engine.count_bump_self]
    rfl
  · rw [hlog.2.2 _ (by decide), Engine.count_bumpBy_self, Engine.count_bump_ne _ (by decide)]
    rfl

/-- The end of a lone engine's step is noted; the acknowledgement goes to no one. -/
theorem Engine.passAck_alone {e : Engine} (halone : e.alone) : e.passAck.ylm = e.ylm ∧ e.passAck.rafter = e.rafter := by
  obtain ⟨hfollows, -, -, -⟩ := Engine.alone_roles halone
  have hown : ∃ a, e.ownAck = { e with mdv := { e.mdv with acks := a } } := by
    unfold Engine.ownAck
    split
    · exact ⟨e.mdv.acks, rfl⟩
    · split
      · exact ⟨_, rfl⟩
      · exact ⟨e.mdv.acks, rfl⟩
  obtain ⟨a, ha⟩ := hown
  have hfollows' : e.ownAck.follows = false := by rw [ha]; exact hfollows
  have hforward : e.passAck = e.ownAck := by
    unfold Engine.passAck Engine.forwardAck
    extract_lets e1
    split
    · rfl
    · simp [e1, hfollows']
  rw [hforward, ha]
  exact ⟨rfl, rfl⟩

theorem Engine.stepDoneBy_done {e : Engine} {y : Yealm} (halone : e.alone) (hcur : e.ylm.current = some y)
    (hdone : e.ylm.stepDone = false) (hall : e.allBegun y = true) :
    (e.stepDoneBy (y.step % 65536)).ylm = { e.ylm with stepDone := true, stepDoneAt := e.now } ∧
      (e.stepDoneBy (y.step % 65536)).rafter = e.rafter := by
  have h : e.stepDoneBy (y.step % 65536) =
      ({ e with ylm := { e.ylm with stepDone := true, stepDoneAt := e.now } } : Engine).passAck := by
    simp [Engine.stepDoneBy, hcur, hdone, hall]
  rw [h]
  exact Engine.passAck_alone (e := { e with ylm := { e.ylm with stepDone := true, stepDoneAt := e.now } }) halone

/-- Settles O44: each report of a course acts on the yealm in compute and that course. -/
theorem coursesOfAStep : Obligations.CoursesOfAStep := by
  unfold Obligations.CoursesOfAStep
  refine ⟨fun s y k c h halone hcur hc => ⟨fun hmay => ?_, fun ns => ?_, fun j g hj hg hnull hrep => ⟨?_, ?_⟩,
    fun hrep hseg hbase hset => ?_, fun hrep hseg hbase hset => ?_, fun ns => ?_, ?_⟩, fun s y h halone hcur hdone hall => ?_⟩
  · have hbegins := Engine.courseBegins_inOrder (e := s.seen) hcur hc hmay
    exact (s.cross_receives h _ _).trans (congrArg (fun e => Host.Outcome.next { s with eng := e }) hbegins)
  · refine ⟨_, s.cross_receives h _ _, ?_⟩
    rw [Engine.onCourse_some (e := s.seen) hcur hc]
    exact ⟨Table.get?_put_self _ _ _, rfl⟩
  · refine ⟨_, s.cross_receives h _ _, ?_⟩
    rw [Engine.segReported_early (e := s.seen) hcur hc hj hg hnull hrep]
    exact ⟨Engine.run_putRun_self _ _ _, hcur⟩
  · refine ⟨_, s.cross_receives h _ _, ?_⟩
    rw [Engine.segReported_early (e := s.seen) hcur hc hj hg hnull hrep]
    exact ⟨Engine.run_putRun_self _ _ _, hcur⟩
  · exact ⟨_, s.cross_receives h _ _, Engine.fixSet_fixes (e := s.seen) halone hcur hc hrep hseg hbase hset⟩
  · have hexec : exec (.segmentWaitExpiry k) s = .next { s with eng := s.seen.fixSet k.toNat } := by
      dsimp only [exec]
      refine (s.actIn_serves h.1 _).trans ?_
      rw [if_neg (by rw [show (s.seen.run k.toNat).reported = false from hrep]; decide)]
    exact ⟨_, hexec, Engine.fixSet_fixes (e := s.seen) halone hcur hc hrep hseg hbase hset⟩
  · exact ⟨_, s.cross_receives h _ _, Engine.baseStalls_counts (e := s.seen) hcur hc ns.toNat⟩
  · obtain ⟨hrun, hcurrent⟩ := Engine.baseFails_step (e := s.seen) halone hcur hc
    exact ⟨_, _, s.cross_receives h _ _, hrun, hcurrent, rfl⟩
  · obtain ⟨hylm, hrafter⟩ := Engine.stepDoneBy_done (e := s.seen) halone hcur hdone hall
    have hstep : (BitVec.ofNat 16 y.step).toNat = y.step % 65536 := BitVec.toNat_ofNat _ _
    refine ⟨_, s.cross_receives h _ _, ?_⟩
    rw [hstep, hylm, hrafter]
    exact ⟨rfl, rfl, hcur, rfl⟩

end Sys2Proof.Machine
end

section
/-!
# Emission

Which guesses verification accepts; what the draws of a member, its token and the count updates change; and the emission of a member in
its turn (R27, R50, R70, R76, R206 to R208, R211).
-/

namespace Sys2Proof.Machine

/-! ### Verification (R211) -/

/-- Guess j is the token drawn before it, not pad, at a draw that does not stop; draw 0 of these is draw i of the member. -/
def guessHolds (stops : Nat → Nat → Bool) (i token : Nat) (gs : List Nat) (ts : List (Option Nat)) (j : Nat) : Prop :=
  ∃ g, gs[j]? = some g ∧ (some token :: ts)[j]? = some (some g) ∧ g ≠ pad ∧ stops (i + j) g = false

theorem guessHolds_zero {stops : Nat → Nat → Bool} {i token g : Nat} {gs : List Nat} {ts : List (Option Nat)} :
    guessHolds stops i token (g :: gs) ts 0 ↔ stops i token = false ∧ g ≠ pad ∧ token = g := by
  constructor
  · rintro ⟨g', hg, ht, hpad, hstop⟩
    obtain rfl : g = g' := by simpa using hg
    obtain rfl : token = g := by simpa using ht
    exact ⟨hstop, hpad, rfl⟩
  · rintro ⟨hstop, hpad, rfl⟩
    exact ⟨token, rfl, rfl, hpad, hstop⟩

theorem guessHolds_succ {stops : Nat → Nat → Bool} {i token g t j : Nat} {gs : List Nat} {ts : List (Option Nat)} :
    guessHolds stops i token (g :: gs) (some t :: ts) (j + 1) ↔ guessHolds stops (i + 1) t gs ts j := by
  simp only [guessHolds, List.getElem?_cons_succ, Nat.add_assoc, Nat.add_comm 1]

theorem guessHolds_nil {stops : Nat → Nat → Bool} {i token j : Nat} {ts : List (Option Nat)} : ¬ guessHolds stops i token [] ts j := by
  simp [guessHolds]

/-- Verification accepts guesses as long as they hold and another draw follows; it says whether the draw after the last accepted one
is void. -/
theorem verifyFrom_spec {stops : Nat → Nat → Bool} {a : Nat} {reached : Bool} (gs : List Nat) (ts : List (Option Nat)) (i token : Nat)
    (h : verifyFrom stops i token gs ts = (a, reached)) :
    ∃ n, a = i + n ∧ (∀ j, j < n → guessHolds stops i token gs ts j ∧ ∃ u, ts[j]? = some (some u)) ∧
      (reached = true → ts[n]? = some none ∧ guessHolds stops i token gs ts n) ∧
      (reached = false → guessHolds stops i token gs ts n → ts[n]? = none) := by
  induction gs generalizing ts i token with
  | nil =>
    obtain ⟨rfl, rfl⟩ : i = a ∧ false = reached := by simpa [verifyFrom] using h
    exact ⟨0, rfl, by simp, by simp, fun _ hg => absurd hg guessHolds_nil⟩
  | cons g gs ih =>
    cases ts with
    | nil =>
      obtain ⟨rfl, rfl⟩ : i = a ∧ false = reached := by simpa [verifyFrom] using h
      exact ⟨0, rfl, by simp, by simp, by simp⟩
    | cons t ts =>
      by_cases hg : stops i token = false ∧ g ≠ pad ∧ token = g
      · obtain ⟨hstop, hpad, rfl⟩ := hg
        have hfirst : guessHolds stops i token (token :: gs) (t :: ts) 0 := guessHolds_zero.2 ⟨hstop, hpad, rfl⟩
        cases t with
        | none =>
          obtain ⟨rfl, rfl⟩ : i = a ∧ true = reached := by simpa [verifyFrom, hstop, hpad] using h
          exact ⟨0, rfl, by simp, fun _ => ⟨rfl, hfirst⟩, by simp⟩
        | some t =>
          have hnext : verifyFrom stops (i + 1) t gs ts = (a, reached) := by simpa [verifyFrom, hstop, hpad] using h
          obtain ⟨n, ha, haccepted, hreached, hended⟩ := ih ts (i + 1) t hnext
          refine ⟨n + 1, by omega, fun j hj => ?_, fun hr => ?_, fun hr hn => ?_⟩
          · cases j with
            | zero => exact ⟨hfirst, t, rfl⟩
            | succ j =>
              obtain ⟨hj, hu⟩ := haccepted j (by omega)
              exact ⟨guessHolds_succ.2 hj, by simpa using hu⟩
          · obtain ⟨hvoid, hn⟩ := hreached hr
            exact ⟨by simpa using hvoid, guessHolds_succ.2 hn⟩
          · simpa using hended hr (guessHolds_succ.1 hn)
      · have hcut : (stops i token || g == pad || token != g) = true := by
          by_contra hne
          simp only [Bool.not_eq_true, Bool.or_eq_false_iff, beq_eq_false_iff_ne, bne_eq_false_iff_eq] at hne
          exact hg ⟨hne.1.1, hne.1.2, hne.2⟩
        obtain ⟨rfl, rfl⟩ : i = a ∧ false = reached := by simpa [verifyFrom, hcut] using h
        exact ⟨0, rfl, by simp, by simp, fun _ hz => absurd (guessHolds_zero.1 hz) hg⟩

/-! ### What emission is seen by -/

/-- What the emission of a member moves or must find as it was: the yealm in compute, the draw that comes next, FATAL, the lead of a
group, and the counts of void draws and of tokens. -/
structure EmitView where
  current : Option Yealm
  nextEmit : Nat
  fatal : Bool
  leads : Bool
  void : BitVec 32
  tokens : BitVec 32

def Engine.emitView (e : Engine) : EmitView :=
  { current := e.ylm.current, nextEmit := e.smp.nextEmit, fatal := e.err.fatal, leads := e.leadsGroup,
    void := e.count Cnt.smpVoid, tokens := e.count Cnt.smpTokens }

/-- A request's state and what it has emitted are the same. -/
def Rafter.sameTokens (r r' : Rafter) : Prop :=
  r'.state = r.state ∧ r'.seqEnd = r.seqEnd ∧ r'.generated = r.generated ∧ r'.firstEmitted = r.firstEmitted ∧
    r'.handedPos = r.handedPos ∧ r'.deliveredPos = r.deliveredPos

/-- e' has what emission is seen by as e has it, has driven all that e has, and holds every request of e with its tokens. -/
def EmitFrame (e e' : Engine) : Prop :=
  e'.emitView = e.emitView ∧ e.out <:+ e'.out ∧ ∀ slot r, e.req? slot = some r → ∃ r', e'.req? slot = some r' ∧ r.sameTokens r'

theorem Rafter.sameTokens_refl (r : Rafter) : r.sameTokens r := ⟨rfl, rfl, rfl, rfl, rfl, rfl⟩

theorem Rafter.sameTokens_trans {a b c : Rafter} (h : a.sameTokens b) (k : b.sameTokens c) : a.sameTokens c := by
  obtain ⟨h1, h2, h3, h4, h5, h6⟩ := h
  obtain ⟨k1, k2, k3, k4, k5, k6⟩ := k
  exact ⟨k1.trans h1, k2.trans h2, k3.trans h3, k4.trans h4, k5.trans h5, k6.trans h6⟩

theorem EmitFrame.of_rafter {e e' : Engine} (hv : e'.emitView = e.emitView) (ho : e'.out = e.out) (hr : e'.rafter = e.rafter) :
    EmitFrame e e' :=
  ⟨hv, ho ▸ List.suffix_refl _, fun slot r h => ⟨r, by rw [← h]; unfold Engine.req?; rw [hr], r.sameTokens_refl⟩⟩

theorem EmitFrame.refl (e : Engine) : EmitFrame e e := .of_rafter rfl rfl rfl

theorem EmitFrame.trans {a b c : Engine} (h : EmitFrame a b) (k : EmitFrame b c) : EmitFrame a c := by
  obtain ⟨h1, h2, h3⟩ := h
  obtain ⟨k1, k2, k3⟩ := k
  refine ⟨k1.trans h1, h2.trans k2, fun slot r hr => ?_⟩
  obtain ⟨r1, hr1, hsame1⟩ := h3 slot r hr
  obtain ⟨r2, hr2, hsame2⟩ := k3 slot r1 hr1
  exact ⟨r2, hr2, Rafter.sameTokens_trans hsame1 hsame2⟩

theorem EmitFrame.foldl {α : Type} {f : Engine → α → Engine} (hf : ∀ e x, EmitFrame e (f e x)) (l : List α) (e : Engine) :
    EmitFrame e (l.foldl f e) := by
  induction l generalizing e with
  | nil => exact .refl e
  | cons x l ih => exact (hf e x).trans (ih _)

theorem LogOnly.emitView {e e' : Engine} (h : LogOnly e e') : e'.emitView = e.emitView := by
  have hvoid := h.2.2 Cnt.smpVoid (by decide)
  have htokens := h.2.2 Cnt.smpTokens (by decide)
  have heq := h.1
  unfold Engine.emitView
  rw [hvoid, htokens, heq]
  rfl

theorem LogOnly.emitFrame {e e' : Engine} (h : LogOnly e e') : EmitFrame e e' := .of_rafter h.emitView h.out_eq h.rafter_eq

theorem Engine.bumpBy_emitView (e : Engine) {c : Nat} (n : Nat) (hv : Cnt.smpVoid ≠ c) (ht : Cnt.smpTokens ≠ c) :
    (e.bumpBy c n).emitView = e.emitView := by
  unfold Engine.emitView
  rw [Engine.count_bumpBy_ne e n hv, Engine.count_bumpBy_ne e n ht]
  rfl

/-! ### Count updates (R208) -/

theorem Engine.noteIf_emitFrame (e : Engine) (own : Bool) (u : UndoEntry) : EmitFrame e (e.noteIf own u) := by
  unfold Engine.noteIf
  split
  · exact .of_rafter rfl rfl rfl
  · exact .refl e

theorem Engine.modReq_emitFrame (e : Engine) (slot : Nat) {f : Rafter → Rafter} (hf : ∀ r : Rafter, r.sameTokens (f r)) :
    EmitFrame e (e.modReq slot f) := by
  refine ⟨rfl, List.suffix_refl _, fun s r hr => ?_⟩
  have hget : (e.modReq slot f).req? s = if s = slot then (e.req? slot).map f else e.req? s := Table.get?_modify _ _ _ _
  rw [hget]
  split
  · next hs => exact ⟨f r, by rw [← hs, hr]; rfl, hf r⟩
  · exact ⟨r, hr, r.sameTokens_refl⟩

theorem Engine.modAny_emitFrame (e : Engine) (slot : Nat) {f : Rafter → Rafter} (hf : ∀ r : Rafter, r.sameTokens (f r)) :
    EmitFrame e (e.modAny slot f) := by
  unfold Engine.modAny
  split
  · exact e.modReq_emitFrame slot hf
  · exact .of_rafter rfl rfl rfl

theorem Engine.linkCell_emitFrame (e : Engine) (own : Bool) (slot c : Nat) : EmitFrame e (e.linkCell own slot c) := by
  unfold Engine.linkCell
  split
  · exact (e.noteIf_emitFrame _ _).trans (.of_rafter rfl rfl rfl)
  · split
    · exact .refl e
    · exact (e.noteIf_emitFrame _ _).trans (Engine.modAny_emitFrame _ _ fun r => ⟨rfl, rfl, rfl, rfl, rfl, rfl⟩)

theorem Engine.putHome_emitFrame (e : Engine) (slot : Nat) (s : CountSet) : EmitFrame e (e.putHome slot s) := .of_rafter rfl rfl rfl

theorem Engine.putCell_emitFrame (e : Engine) (c : Nat) (s : CountSet) : EmitFrame e (e.putCell c s) := .of_rafter rfl rfl rfl

theorem Engine.countLost_emitFrame (e : Engine) (slot : Nat) : EmitFrame e (e.countLost slot) := by
  refine .trans ?_ (Engine.log_only _ _ _).emitFrame
  exact .of_rafter (Engine.bumpBy_emitView { e with smp := { e.smp with penEmpty := true } } 1 (by decide) (by decide)) rfl rfl

theorem Engine.addCount_emitFrame (e : Engine) (own : Bool) (slot vocab token : Nat) : EmitFrame e (e.addCount own slot vocab token) := by
  unfold Engine.addCount
  extract_lets l home chain
  split
  · exact (e.noteIf_emitFrame _ _).trans (Engine.putHome_emitFrame _ _ _)
  · split
    · exact (e.noteIf_emitFrame _ _).trans (Engine.putCell_emitFrame _ _ _)
    · split
      · exact (e.noteIf_emitFrame _ _).trans (Engine.putHome_emitFrame _ _ _)
      · split
        · exact (e.noteIf_emitFrame _ _).trans (Engine.putCell_emitFrame _ _ _)
        · split
          · exact e.countLost_emitFrame slot
          · refine .trans ?_ (Engine.putCell_emitFrame _ _ _)
            refine .trans ?_ (Engine.noteIf_emitFrame _ _ _)
            refine .trans ?_ (Engine.linkCell_emitFrame _ _ _ _)
            refine .trans ?_ (Engine.noteIf_emitFrame _ _ _)
            exact .of_rafter rfl rfl rfl

theorem Engine.modStepRec_emitFrame (e : Engine) (step : Nat) (f : StepRecord → StepRecord) : EmitFrame e (e.modStepRec step f) :=
  .of_rafter rfl rfl rfl

theorem Engine.applyUpdate_emitFrame (e : Engine) (step : Nat) (u : CountUpdate) : EmitFrame e (e.applyUpdate step u) := by
  unfold Engine.applyUpdate
  split
  · exact .refl e
  · split
    · exact e.modStepRec_emitFrame _ _
    · exact e.addCount_emitFrame _ _ _ _

theorem Engine.applyUpdates_emitFrame (e : Engine) (step : Nat) : EmitFrame e (e.applyUpdates step) := by
  unfold Engine.applyUpdates
  refine .trans ?_ (.foldl (fun e u => e.applyUpdate_emitFrame step u) _ _)
  exact .of_rafter rfl rfl rfl

/-! ### The parts of an emission -/

/-- A yealm with one of its members changed. -/
def Yealm.modMember (y : Yealm) (i : Nat) (f : Member → Member) : Yealm := { y with members := y.members.modify i f }

theorem Engine.modMember_eq {e : Engine} {y : Yealm} (hcur : e.ylm.current = some y) (i : Nat) (f : Member → Member) :
    ∃ j, e.modMember i f = { e with ylm := { e.ylm with current := some (y.modMember i f) }, flt := { e.flt with journal := j } } := by
  have hmap : e.ylm.current.map (fun y => y.modMember i f) = some (y.modMember i f) := by rw [hcur]; rfl
  rw [← hmap]
  exact Engine.journalMembers_eq _

theorem Engine.releaseRing_eq (e : Engine) (m : Member) : ∃ t, e.releaseRing m = { e with hru := { e.hru with evts := t } } := by
  unfold Engine.releaseRing
  split
  · exact ⟨e.hru.evts, rfl⟩
  · exact ⟨_, rfl⟩

theorem Engine.putVoid_emitView (e : Engine) (step draw : Nat) :
    (e.putVoid step draw).emitView = { e.emitView with void := e.emitView.void + 1#32 } := by
  have htokens : (e.putVoid step draw).count Cnt.smpTokens = e.count Cnt.smpTokens := Engine.count_bump_ne _ (by decide)
  have hvoid : (e.putVoid step draw).count Cnt.smpVoid = e.count Cnt.smpVoid + 1#32 := Engine.count_bump_self _ _
  unfold Engine.emitView
  rw [htokens, hvoid]
  rfl

/-- Void draws are counted one by one. -/
theorem Engine.putVoids_emitView (step first : Nat) (l : List Nat) (e : Engine) :
    (l.foldl (fun e k => e.putVoid step (first + k)) e).emitView =
      { e.emitView with void := e.emitView.void + BitVec.ofNat 32 l.length } := by
  induction l generalizing e with
  | nil => simp
  | cons k l ih =>
    rw [List.foldl_cons, ih, Engine.putVoid_emitView, List.length_cons, BitVec.ofNat_add, BitVec.add_assoc,
      BitVec.add_comm (BitVec.ofNat 32 l.length)]

theorem Engine.voidMember_emitView (e : Engine) (y : Yealm) (m : Member) :
    (e.voidMember y m).emitView = { e.emitView with void := e.emitView.void + BitVec.ofNat 32 m.draws } := by
  unfold Engine.voidMember
  rw [Engine.putVoids_emitView, List.length_range]

/-- Emission passes draws: only the draw that comes next moves, and nothing driven is taken back. -/
theorem Engine.passCourses_spec (e : Engine) (n : Nat) :
    (e.passCourses n).emitView = { e.emitView with nextEmit := n } ∧ e.out <:+ (e.passCourses n).out ∧
      (e.passCourses n).rafter = e.rafter := by
  unfold Engine.passCourses Engine.releaseGutter
  split
  · exact ⟨rfl, List.suffix_cons _ _, rfl⟩
  · exact ⟨rfl, List.suffix_refl _, rfl⟩

theorem Engine.sendTokens_leadsNone {e : Engine} (h : e.leadsGroup = false) (y : Yealm) (k : Nat) (c : Course) : e.sendTokens y k c = e := by
  simp [Engine.sendTokens, h]

theorem Engine.passDraws_spec {e : Engine} (hlead : e.leadsGroup = false) (y : Yealm) (m : Member) :
    EmitFrame (e.passCourses (m.firstDraw + m.draws)) (e.passDraws y m) := by
  have hlead' : (e.passCourses (m.firstDraw + m.draws)).leadsGroup = false :=
    (congrArg EmitView.leads (e.passCourses_spec _).1).trans hlead
  unfold Engine.passDraws
  extract_lets next e1 e2
  have h2 : e2 = e1 := by
    dsimp only [e2]
    split
    · split
      · exact Engine.sendTokens_leadsNone hlead' _ _ _
      · rfl
    · rfl
  rw [h2]
  split
  · exact e1.applyUpdates_emitFrame _
  · exact .refl e1

/-! ### A member whose turn it is -/

/-- A member's draws come next, and nothing but their own tiles keeps them from being emitted (R206). -/
structure InTurn (e : Engine) (i : Nat) (y : Yealm) (m : Member) : Prop where
  current : e.ylm.current = some y
  member : y.members[i]? = some m
  fresh : m.emitted = false
  draws : m.draws ≠ 0
  next : e.smp.nextEmit = m.firstDraw
  began : ∃ k c, y.courseOfDraw m.firstDraw = some (k, c) ∧ e.courseBegan k = true
  follows : e.follows = false
  fatal : e.err.fatal = false

/-- The member counts as emitted, its entries of the event ring are released, and its guesses are counted. -/
def Engine.emitBegin (e : Engine) (i : Nat) (m : Member) : Engine :=
  ((e.modMember i fun x => { x with emitted := true, ringRes := 0 }).releaseRing m).bumpBy Cnt.smpGuess m.offered

/-- What follows the tokens of a member: its guess store is recorded, and emission moves on unless the engine has stopped. -/
def Engine.emitEnd (e : Engine) (y : Yealm) (i : Nat) (m : Member) : Engine :=
  let e := if m.kind = 0 && m.spec ≠ 0 then e.journalGuesses y.step i m.slot else e
  if e.err.fatal then e else e.passDraws y m

theorem Engine.drawEmit_inTurn {e : Engine} {i : Nat} {y : Yealm} {m : Member} (h : InTurn e i y m)
    (hready : e.skips m = true ∨ ∀ j, j < m.draws → ∃ x, Table.get? e.smp.ctxs (m.firstDraw + j) = some x ∧ x.done = true) :
    e.drawEmit i =
      (match (e.emitBegin i m).req? m.slot with
        | none => (e.emitBegin i m).voidMember y m
        | some r =>
          if m.vacated || m.deferred || m.failed || r.handle != m.handle then (e.emitBegin i m).voidMember y m
          else (e.emitBegin i m).emitVerified y i m r
            (((List.range m.draws).map (m.firstDraw + ·)).filterMap fun d => Table.get? (e.emitBegin i m).smp.ctxs d)).emitEnd y i m := by
  obtain ⟨hcur, hmem, hfresh, hdraws, hnext, ⟨k, c, hcourse, hbegan⟩, hfollows, hfatal⟩ := h
  have hall : (e.skips m || ((List.range m.draws).map (m.firstDraw + ·)).all fun d =>
      ((Table.get? e.smp.ctxs d).map (·.done)).getD false) = true := by
    rcases hready with hskips | hdone
    · rw [hskips, Bool.true_or]
    · rw [Bool.or_eq_true, List.all_eq_true]
      refine .inr fun d hd => ?_
      obtain ⟨j, hj, rfl⟩ := List.mem_map.1 hd
      obtain ⟨x, hx, hxdone⟩ := hdone j (List.mem_range.1 hj)
      simp [hx, hxdone]
  have hgo : (m.emitted || m.draws = 0 || e.smp.nextEmit ≠ m.firstDraw ||
      !(e.skips m || ((List.range m.draws).map (m.firstDraw + ·)).all fun d => ((Table.get? e.smp.ctxs d).map (·.done)).getD false) ||
      !e.courseBegan k || e.follows || e.err.fatal) = false := by
    rw [hall, hbegan, hfresh, hfollows, hfatal, hnext]
    simp [hdraws]
  unfold Engine.drawEmit
  simp only [hcur, hmem, hcourse]
  rw [if_neg (by rw [hgo]; decide)]
  rfl

theorem Engine.modMember_frame (e : Engine) (i : Nat) (f : Member → Member) :
    ∃ c j, e.modMember i f = { e with ylm := { e.ylm with current := c }, flt := { e.flt with journal := j } } := by
  obtain ⟨j, hj⟩ := Engine.journalMembers_eq
    { e with ylm := { e.ylm with current := e.ylm.current.map fun y => { y with members := y.members.modify i f } } }
  exact ⟨_, j, hj⟩

theorem Engine.emitBegin_emitView {e : Engine} {y : Yealm} (hcur : e.ylm.current = some y) (i : Nat) (m : Member) :
    (e.emitBegin i m).emitView =
      { e.emitView with current := some (y.modMember i fun x => { x with emitted := true, ringRes := 0 }) } := by
  unfold Engine.emitBegin
  rw [Engine.bumpBy_emitView _ _ (by decide) (by decide)]
  obtain ⟨t, ht⟩ := Engine.releaseRing_eq (e.modMember i fun x => { x with emitted := true, ringRes := 0 }) m
  obtain ⟨j, hj⟩ := Engine.modMember_eq hcur i fun x => { x with emitted := true, ringRes := 0 }
  rw [ht, hj]
  rfl

/-- The member's place in the emission leaves the requests and the sampler. -/
theorem Engine.emitBegin_frame (e : Engine) (i : Nat) (m : Member) :
    (e.emitBegin i m).rafter = e.rafter ∧ (e.emitBegin i m).smp = e.smp := by
  unfold Engine.emitBegin
  obtain ⟨t, ht⟩ := Engine.releaseRing_eq (e.modMember i fun x => { x with emitted := true, ringRes := 0 }) m
  obtain ⟨c, j, hj⟩ := Engine.modMember_frame e i fun x => { x with emitted := true, ringRes := 0 }
  rw [Engine.bumpBy_rafter, Engine.bumpBy_smp, ht, hj]
  exact ⟨rfl, rfl⟩

/-- The end of an emission on an engine that runs and leads no group: the next draw moves on, and every request stays with its tokens. -/
theorem Engine.emitEnd_spec {e : Engine} (hlead : e.leadsGroup = false) (hfatal : e.err.fatal = false) (y : Yealm) (i : Nat) (m : Member) :
    (e.emitEnd y i m).emitView = { e.emitView with nextEmit := m.firstDraw + m.draws } ∧ e.out <:+ (e.emitEnd y i m).out ∧
      ∀ slot r, e.req? slot = some r → ∃ r', (e.emitEnd y i m).req? slot = some r' ∧ r.sameTokens r' := by
  unfold Engine.emitEnd
  extract_lets e1
  have h1 : EmitFrame e e1 := by
    dsimp only [e1]
    split
    · exact e.modStepRec_emitFrame _ _
    · exact .refl e
  obtain ⟨hview, hout, hreq⟩ := h1
  have hfatal1 : e1.err.fatal = false := (congrArg EmitView.fatal hview).trans hfatal
  have hlead1 : e1.leadsGroup = false := (congrArg EmitView.leads hview).trans hlead
  obtain ⟨hpview, hpout, hprafter⟩ := e1.passCourses_spec (m.firstDraw + m.draws)
  obtain ⟨hdview, hdout, hdreq⟩ := Engine.passDraws_spec hlead1 y m
  rw [if_neg (by rw [hfatal1]; decide)]
  refine ⟨by rw [hdview, hpview, hview], (hout.trans hpout).trans hdout, fun slot r hr => ?_⟩
  obtain ⟨r1, hr1, hsame1⟩ := hreq slot r hr
  obtain ⟨r2, hr2, hsame2⟩ := hdreq slot r1 (by unfold Engine.req? at hr1 ⊢; rw [hprafter, hr1])
  exact ⟨r2, hr2, Rafter.sameTokens_trans hsame1 hsame2⟩

/-- A member deferred, failed or vacated leaves its draws void. -/
theorem Engine.drawEmit_void {e : Engine} {i : Nat} {y : Yealm} {m : Member} (h : InTurn e i y m) (hlead : e.leadsGroup = false)
    (hready : e.skips m = true ∨ ∀ j, j < m.draws → ∃ x, Table.get? e.smp.ctxs (m.firstDraw + j) = some x ∧ x.done = true)
    (hvoid : (m.vacated || m.deferred || m.failed) = true) :
    (e.drawEmit i).emitView = { e.emitView with
      current := some (y.modMember i fun x => { x with emitted := true, ringRes := 0 }),
      nextEmit := m.firstDraw + m.draws,
      void := e.count Cnt.smpVoid + BitVec.ofNat 32 m.draws } := by
  have hbody : e.drawEmit i = ((e.emitBegin i m).voidMember y m).emitEnd y i m := by
    rw [Engine.drawEmit_inTurn h hready]
    congr 1
    split
    · rfl
    · rw [if_pos (by rw [hvoid, Bool.true_or])]
  have hview : ((e.emitBegin i m).voidMember y m).emitView = { e.emitView with
      current := some (y.modMember i fun x => { x with emitted := true, ringRes := 0 }),
      void := e.count Cnt.smpVoid + BitVec.ofNat 32 m.draws } := by
    rw [Engine.voidMember_emitView, Engine.emitBegin_emitView h.current]
    rfl
  have hend := Engine.emitEnd_spec (e := (e.emitBegin i m).voidMember y m) ((congrArg EmitView.leads hview).trans hlead)
    ((congrArg EmitView.fatal hview).trans h.fatal) y i m
  rw [hbody, hend.1, hview]

/-! ### A record on an open ring (R48, R61) -/

/-- A ring that is open in e is open in e', at the same slot and phase. -/
def RingKept (k : Nat) (e e' : Engine) : Prop :=
  (e.ringOpen k → e'.ringOpen k) ∧ (e'.evt k).tail = (e.evt k).tail ∧ (e'.evt k).phase = (e.evt k).phase

theorem RingKept.trans {k : Nat} {a b c : Engine} (h : RingKept k a b) (g : RingKept k b c) : RingKept k a c := by
  obtain ⟨hopen, htail, hphase⟩ := h
  obtain ⟨gopen, gtail, gphase⟩ := g
  exact ⟨fun w => gopen (hopen w), gtail.trans htail, gphase.trans hphase⟩

/-- What is written in the next slot of a ring kept is written in that slot as it was. -/
theorem RingKept.wrote {e e' t : Engine} {x : EventRecord} (h : RingKept x.ring e e') (hw : e'.wrote t x) : e.wrote t x := by
  obtain ⟨-, htail, hphase⟩ := h
  simpa only [Engine.wrote, Engine.recordWord, htail, hphase] using hw

theorem Engine.mirrors_congr {e e' : Engine} (hm : e'.mdv = e.mdv) (hr : e'.regs = e.regs) : e'.mirrors = e.mirrors := by
  simp only [Engine.mirrors, Engine.manages, Engine.partner, hm, Engine.flag_congr hr]

/-- The ring of an engine whose host unit and roles are the same. -/
theorem RingKept.of_eq {e e' : Engine} (k : Nat) (hh : e'.hru = e.hru) (hm : e'.mdv = e.mdv) (hr : e'.regs = e.regs) (he : e'.err = e.err) :
    RingKept k e e' := by
  simp only [RingKept, Engine.ringOpen, Engine.mirrors_congr hm hr, Engine.evt, hh, he, and_self, imp_self]

theorem Engine.releaseRing_ringKept (e : Engine) (m : Member) (k : Nat) : RingKept k e (e.releaseRing m) := by
  unfold Engine.releaseRing
  split
  · exact .of_eq k rfl rfl rfl rfl
  · next r hr =>
    extract_lets ring
    unfold RingKept Engine.ringOpen
    by_cases hk : k = r.eventRing
    · rw [hk, Engine.evt_putEvt_self]
      exact ⟨id, rfl, rfl⟩
    · rw [show (e.putEvt r.eventRing { ring with tokRes := ring.tokRes - m.ringRes }).evt k = e.evt k from Table.getD_put_ne _ _ _ hk]
      exact ⟨id, rfl, rfl⟩

theorem Engine.emitBegin_ringKept (e : Engine) (i : Nat) (m : Member) (k : Nat) : RingKept k e (e.emitBegin i m) := by
  obtain ⟨c, j, hj⟩ := Engine.modMember_frame e i fun x => { x with emitted := true, ringRes := 0 }
  have hmod : RingKept k e (e.modMember i fun x => { x with emitted := true, ringRes := 0 }) := by
    rw [hj]
    exact .of_eq k rfl rfl rfl rfl
  exact (hmod.trans (Engine.releaseRing_ringKept _ m k)).trans (.of_eq k rfl rfl rfl rfl)

theorem Engine.writeRecord_open {e : Engine} {x : EventRecord} (h : e.ringOpen x.ring) : e.writeRecord x = e.putRecord x := by
  obtain ⟨hmirrors, hgated, hcredit, hfatal, -⟩ := h
  simp [Engine.writeRecord, Engine.passRecord, hmirrors, hgated, hcredit, hfatal]

theorem Engine.markDelivered_emitView (e : Engine) (x : EventRecord) :
    (e.markDelivered x).emitView = e.emitView ∧ (e.markDelivered x).out = e.out := by
  unfold Engine.markDelivered
  extract_lets handle mark
  split <;> exact ⟨rfl, rfl⟩

/-- A record on an enabled ring is driven, and marks what its token delivers. -/
theorem Engine.putRecord_spec {e : Engine} {x : EventRecord} (h : (e.evt x.ring).enabled = true) :
    (e.putRecord x).emitView = e.emitView ∧ (e.putRecord x).rafter = (e.markDelivered x).rafter ∧
      Output.hostRecord x.ring (e.evt x.ring).tail (e.recordWord x) ∈ (e.putRecord x).out := by
  unfold Engine.putRecord
  extract_lets r control record e1 tail e2 e3
  have h1 : e1.emitView = e.emitView ∧ e1.rafter = (e.markDelivered x).rafter ∧
      Output.hostRecord x.ring (e.evt x.ring).tail (e.recordWord x) ∈ e1.out := by
    obtain ⟨hview, hout⟩ := (e.emit (.hostRecord x.ring r.tail record)).markDelivered_emitView x
    refine ⟨hview, ?_, ?_⟩
    · unfold e1 Engine.markDelivered
      split <;> rfl
    · rw [hout]
      exact List.mem_cons_self
  have h3 : e3.emitView = e.emitView ∧ e3.rafter = (e.markDelivered x).rafter ∧
      Output.hostRecord x.ring (e.evt x.ring).tail (e.recordWord x) ∈ e3.out := by
    dsimp only [e3]
    split
    · exact h1
    · exact ⟨h1.1, h1.2.1, List.mem_cons_of_mem _ h1.2.2⟩
  rw [if_neg (by rw [show r.enabled = true from h]; decide)]
  split
  · exact ⟨h3.1, h3.2.1, List.mem_cons_of_mem _ h3.2.2⟩
  · exact h3

/-! ### The token the step's record holds (R269) -/

theorem Engine.stepTokens_modStepRec (e : Engine) (n k : Nat) {f : StepRecord → StepRecord}
    (hf : ∀ r, (f r).step = r.step ∧ (f r).tokens = r.tokens) :
    ((e.modStepRec n f).stepRec? k).map (·.tokens) = (e.stepRec? k).map (·.tokens) := by
  have hget : Table.get? (e.modStepRec n f).flt.journal (e.jslot k) = if e.jslot k = e.jslot n then
      (Table.get? e.flt.journal (e.jslot n)).map fun r => if r.step == n then f r else r
      else Table.get? e.flt.journal (e.jslot k) := Table.get?_modify _ _ _ _
  have hkeep : ∀ r : StepRecord, (if r.step == n then f r else r).step = r.step ∧ (if r.step == n then f r else r).tokens = r.tokens := by
    intro r
    split
    · exact hf r
    · exact ⟨rfl, rfl⟩
  unfold Engine.stepRec?
  rw [show (e.modStepRec n f).jslot k = e.jslot k from rfl, hget]
  split
  · next hslot =>
    rw [hslot]
    cases hrec : Table.get? e.flt.journal (e.jslot n) with
    | none => rfl
    | some r =>
      obtain ⟨hstep, htokens⟩ := hkeep r
      rw [Option.map_some]
      generalize (if r.step == n then f r else r) = r' at hstep htokens ⊢
      by_cases hk : r.step = k <;> simp [Option.filter, hstep, htokens, hk]
  · rfl

theorem Engine.heldToken_congr {e e' : Engine} {step : Nat} (hs : e'.flt.scanTokens = e.flt.scanTokens)
    (ht : (e'.stepRec? step).map (·.tokens) = (e.stepRec? step).map (·.tokens)) (draw : Nat) (handle : Handle) (pos : Nat) :
    e'.heldToken step draw handle pos = e.heldToken step draw handle pos := by
  have hbind : ∀ a : Engine, ((a.stepRec? step).bind fun r => Table.get? r.tokens draw) =
      ((a.stepRec? step).map (·.tokens)).bind fun t => Table.get? t draw := fun a => by
    cases a.stepRec? step <;> rfl
  unfold Engine.heldToken
  rw [hbind e', hbind e, ht, hs]

theorem Engine.journalMembers_heldToken (e : Engine) (step draw : Nat) (handle : Handle) (pos : Nat) :
    e.journalMembers.heldToken step draw handle pos = e.heldToken step draw handle pos := by
  unfold Engine.journalMembers
  split
  · rfl
  · refine Engine.heldToken_congr ?_ (e.stepTokens_modStepRec _ _ fun r => ?_) _ _ _
    · rfl
    · split <;> exact ⟨rfl, rfl⟩

theorem Engine.emitBegin_heldToken (e : Engine) (i : Nat) (m : Member) (step draw : Nat) (handle : Handle) (pos : Nat) :
    (e.emitBegin i m).heldToken step draw handle pos = e.heldToken step draw handle pos := by
  obtain ⟨t, ht⟩ := Engine.releaseRing_eq (e.modMember i fun x => { x with emitted := true, ringRes := 0 }) m
  have hbegin : (e.emitBegin i m).heldToken step draw handle pos =
      (e.modMember i fun x => { x with emitted := true, ringRes := 0 }).heldToken step draw handle pos := by
    unfold Engine.emitBegin
    rw [ht]
    rfl
  rw [hbegin]
  exact Engine.journalMembers_heldToken _ _ _ _ _

/-! ### One token of a running request (R50, R70, R76) -/

theorem tokenBytes_handle {handle : Nat} (h : handle < 2 ^ 32) (pos token reason accepted flags : Nat) (logprob : BitVec 32) (step tag : Nat) :
    bitsOf (tokenBytes handle pos token reason accepted flags logprob step tag).toNat 0 32 = handle := by
  simp only [tokenBytes, bitsOf, place, Nat.shiftLeft_eq, Nat.shiftRight_eq_div_pow, BitVec.toNat_ofNat]
  omega

theorem tokenBytes_pos {pos : Nat} (h : pos < 2 ^ 24) (handle token reason accepted flags : Nat) (logprob : BitVec 32) (step tag : Nat) :
    bitsOf (tokenBytes handle pos token reason accepted flags logprob step tag).toNat 32 24 = pos := by
  simp only [tokenBytes, bitsOf, place, Nat.shiftLeft_eq, Nat.shiftRight_eq_div_pow, BitVec.toNat_ofNat]
  omega

/-- A request that has taken a delivered token (R70, R76). -/
def Rafter.withToken (r : Rafter) (nextDl position token : Nat) : Rafter :=
  { r with firstEmitted := true, nextDl := nextDl, seqEnd := r.seqEnd + 1, generated := r.generated + 1,
           later := Table.put r.later position token }

theorem Engine.updateOvercommit_only (e : Engine) :
    e.updateOvercommit.emitView = e.emitView ∧ e.updateOvercommit.rafter = e.rafter ∧ ∀ k, RingKept k e e.updateOvercommit := by
  unfold Engine.updateOvercommit
  extract_lets above v e1
  split
  · exact ⟨rfl, rfl, fun k => .of_eq k rfl rfl rfl rfl⟩
  · split
    · have hlog := (e1.bump Cnt.admOvercommit).log_only Ev.overcommit [sat32 (e1.predictShares e1.shares)]
      refine ⟨hlog.emitView.trans (Engine.bumpBy_emitView e1 1 (by decide) (by decide)), hlog.rafter_eq, fun k => ?_⟩
      rw [hlog.1]
      exact .of_eq k rfl rfl rfl rfl
    · exact ⟨rfl, rfl, fun k => .of_eq k rfl rfl rfl rfl⟩

theorem Engine.takeToken_spec {e : Engine} {slot : Nat} {r : Rafter} (h : e.req? slot = some r) (position token : Nat) :
    (e.takeToken slot position token true).emitView = e.emitView ∧
      (∃ d, (e.takeToken slot position token true).req? slot = some (r.withToken d position token)) ∧
      ∀ k, RingKept k e (e.takeToken slot position token true) := by
  unfold Engine.takeToken
  split
  · next hnone =>
    rw [h] at hnone
    cases hnone
  · next r0 hr0 =>
    obtain rfl : r = r0 := Option.some.inj (h.symm.trans hr0)
    extract_lets e1 r1 r2 e2
    obtain ⟨d, hreq2⟩ : ∃ d, e2.req? slot = some (r.withToken d position token) := ⟨_, Table.get?_put_self _ _ _⟩
    split
    · exact ⟨rfl, ⟨d, hreq2⟩, fun k => .of_eq k rfl rfl rfl rfl⟩
    · obtain ⟨hview, hrafter, hring⟩ := Engine.updateOvercommit_only
        { e2 with adm := { e2.adm with shares := Table.modify e2.adm.shares slot fun x => { x with ttftBin := none } } }
      refine ⟨hview, ⟨d, ?_⟩, fun k => .trans (.of_eq k rfl rfl rfl rfl) (hring k)⟩
      · unfold Engine.req? at hreq2 ⊢
        rw [hrafter]
        exact hreq2

/-- A token event that names the request marks the position it delivers (R56). -/
theorem Engine.markDelivered_req {e : Engine} {slot : Nat} {r : Rafter} (h : e.req? slot = some r) {body : BitVec 224} {position : Nat}
    (hhandle : bitsOf body.toNat 0 32 = r.handle.toNat) (hpos : position < 2 ^ 24 → bitsOf body.toNat 32 24 = position) (ring : Nat) :
    ∃ d, (e.markDelivered { ring := ring, rtype := 2, body := body }).req? slot = some { r with deliveredPos := d } ∧
      (slotOf r.handle = slot → position < 2 ^ 24 → d = position) := by
  unfold Engine.markDelivered
  extract_lets handle mark
  have hslot : bitsOf handle 0 18 = slotOf r.handle := congrArg (bitsOf · 0 18) hhandle
  have hmark : mark r = { r with deliveredPos := bitsOf body.toNat 32 24 } := if_pos hhandle.symm
  rw [if_pos rfl, hslot]
  have hget : (e.modReq (slotOf r.handle) mark).req? slot =
      if slot = slotOf r.handle then (e.req? (slotOf r.handle)).map mark else e.req? slot := Table.get?_modify _ _ _ _
  by_cases hs : slot = slotOf r.handle
  · refine ⟨bitsOf body.toNat 32 24, hget.trans ?_, fun _ => hpos⟩
    rw [if_pos hs, ← hs, h, Option.map_some, hmark]
  · refine ⟨r.deliveredPos, hget.trans ?_, fun heq => absurd heq.symm hs⟩
    rw [if_neg hs, h]

/-- The body of the event of a token that ends nothing, drawn with no guess after it (Table 2.9). -/
def Rafter.tokenBody (r : Rafter) (m : Member) (c : DrawCtx) (step position token : Nat) : BitVec 224 :=
  tokenBytes r.handle.toNat position token 0 0 (place (bit r.suppressNote) 2 1 + place (bit c.logprob.isSome) 3 1 +
    place (bit m.baseOnly) 4 1 + place (bit r.mixedVersion) 5 1) (c.logprob.getD 0) step r.userTag.toNat

/-- The token event of a request on its open ring, at a position not handed over before. -/
theorem Engine.tokenRecords_spec {e : Engine} {slot : Nat} {r : Rafter} (h : e.req? slot = some r) {position : Nat}
    (hhanded : r.handedPos = pad ∨ r.handedPos < position) (hlog : r.logprobN = 0) (hring : e.ringOpen r.eventRing) (m : Member) (c : DrawCtx)
    (step token : Nat) :
    (e.tokenRecords slot m c step position token 0 0 false).emitView = e.emitView ∧
      (∃ d, (e.tokenRecords slot m c step position token 0 0 false).req? slot =
          some { r with suppressNote := false, handedPos := position, deliveredPos := d } ∧
        (slotOf r.handle = slot → position < 2 ^ 24 → d = position)) ∧
      e.wrote (e.tokenRecords slot m c step position token 0 0 false)
        { ring := r.eventRing, rtype := 2, body := r.tokenBody m c step position token } := by
  unfold Engine.tokenRecords
  split
  · next hnone =>
    rw [h] at hnone
    cases hnone
  · next r0 hr0 =>
    obtain rfl : r = r0 := Option.some.inj (h.symm.trans hr0)
    extract_lets pairs flags e1 e2 body e3
    have hpairs : pairs = 0 := by
      dsimp only [pairs]
      rw [hlog]
      rfl
    rw [if_neg (by simp only [Bool.and_eq_true, decide_eq_true_eq]; omega), hpairs]
    have hflags : flags = place (bit r.suppressNote) 2 1 + place (bit c.logprob.isSome) 3 1 + place (bit m.baseOnly) 4 1 +
        place (bit r.mixedVersion) 5 1 := by
      have hlate : place (bit false) 0 1 = 0 := rfl
      have hfinal : place (bit (0 != 0)) 1 1 = 0 := rfl
      simp only [flags, hlate, hfinal, Nat.zero_add]
    have hbody : body = r.tokenBody m c step position token := by
      dsimp only [body]
      rw [hflags]
      rfl
    have hreq1 : e1.req? slot = some { r with suppressNote := false, handedPos := position } := Table.get?_put_self _ _ _
    have hring1 : e1.ringOpen r.eventRing := hring
    obtain ⟨hview, hrafter, hout⟩ := Engine.putRecord_spec (e := e1) (x := { ring := r.eventRing, rtype := 2, body := body }) hring1.2.2.2.2
    obtain ⟨d, hd, hdelivered⟩ := Engine.markDelivered_req hreq1 (body := body) (position := position)
      (tokenBytes_handle r.handle.isLt _ _ _ _ _ _ _ _) (fun hp => tokenBytes_pos hp _ _ _ _ _ _ _ _) r.eventRing
    have h3 : e3 = e1.putRecord { ring := r.eventRing, rtype := 2, body := body } := Engine.writeRecord_open hring1
    show e3.emitView = _ ∧ (∃ d, e3.req? slot = _ ∧ _) ∧ e.wrote e3 _
    rw [h3, ← hbody]
    refine ⟨hview, ⟨d, ?_, hdelivered⟩, hout⟩
    unfold Engine.req? at hd ⊢
    rw [hrafter, hd]

/-! ### The emission of one token -/

theorem Engine.fateOf_running {e : Engine} {slot : Nat} {r : Rafter} (h : r.state.running = true) : e.fateOf slot r = .deliver := by
  have hfenced : (r.state == .fenced) = false := by
    cases hs : r.state <;> simp_all [ReqState.running]
  simp [Engine.fateOf, Engine.actingState, hfenced, h]

/-- What a token meets that neither diverges nor ends its running request, at a position not handed over before, on an open ring. -/
structure Delivers (e : Engine) (y : Yealm) (m : Member) (r : Rafter) (x : DrawCtx) (token : Nat) : Prop where
  request : e.req? m.slot = some r
  running : r.state.running = true
  valid : x.void = false
  drawn : x.token = some token
  held : ∀ old, e.heldToken y.step m.firstDraw r.handle m.seqStart = some old → old = token
  goesOn : r.stopsAt r.generated token = false
  room : r.fullAt r.generated m.seqStart = false
  handed : r.handedPos = pad ∨ r.handedPos < m.seqStart
  alternates : r.logprobN = 0
  ring : e.ringOpen r.eventRing

/-- A request after the delivery of one token at a position. -/
def Rafter.deliveredOne (r : Rafter) (slot position : Nat) (r' : Rafter) : Prop :=
  r'.state = r.state ∧ r'.seqEnd = r.seqEnd + 1 ∧ r'.generated = r.generated + 1 ∧ r'.firstEmitted = true ∧ r'.handedPos = position ∧
    (slotOf r.handle = slot → position < 2 ^ 24 → r'.deliveredPos = position)

theorem Rafter.deliveredOne_sameTokens {r a b : Rafter} {slot position : Nat} (h : r.deliveredOne slot position a) (k : a.sameTokens b) :
    r.deliveredOne slot position b := by
  obtain ⟨h1, h2, h3, h4, h5, h6⟩ := h
  obtain ⟨k1, k2, k3, k4, k5, k6⟩ := k
  exact ⟨k1.trans h1, k2.trans h2, k3.trans h3, k4.trans h4, k5.trans h5, fun hs hp => k6.trans (h6 hs hp)⟩

/-- The end of a delivered token: it enters the step's record, is counted, and its count update waits (R208, R269). -/
def Engine.noteToken (e : Engine) (step draw slot token : Nat) : Engine :=
  let e := (e.putToken step draw (tokenEntry token true false)).bump Cnt.smpTokens
  { e with smp := { e.smp with updates := e.smp.updates ++ [{ draw := draw, slot := slot, token := token }] } }

theorem Engine.noteToken_spec (e : Engine) (step draw slot token : Nat) :
    (e.noteToken step draw slot token).emitView = { e.emitView with tokens := e.emitView.tokens + 1#32 } ∧
      (e.noteToken step draw slot token).rafter = e.rafter ∧ (e.noteToken step draw slot token).out = e.out := by
  have htokens : (e.noteToken step draw slot token).count Cnt.smpTokens = e.count Cnt.smpTokens + 1#32 := Engine.count_bump_self _ _
  have hvoid : (e.noteToken step draw slot token).count Cnt.smpVoid = e.count Cnt.smpVoid := Engine.count_bump_ne _ (by decide)
  refine ⟨?_, rfl, rfl⟩
  unfold Engine.emitView
  rw [htokens, hvoid]
  rfl

/-- A delivered token is counted, its request moves on, and its event is written. -/
theorem Engine.emitToken_delivers {e : Engine} {y : Yealm} {m : Member} {r : Rafter} {x : DrawCtx} {token : Nat}
    (h : Delivers e y m r x token) :
    (e.emitToken y m 0 0 x).emitView = { e.emitView with tokens := e.emitView.tokens + 1#32 } ∧
      (∃ r', (e.emitToken y m 0 0 x).req? m.slot = some r' ∧ r.deliveredOne m.slot m.seqStart r') ∧
      e.wrote (e.emitToken y m 0 0 x)
        { ring := r.eventRing, rtype := 2, body := r.tokenBody m x y.step m.seqStart token } := by
  obtain ⟨hreq, hrun, -, htoken, hheld, hstop, hfull, hhanded, hlog, hring⟩ := h
  have hnone : (e.heldToken y.step m.firstDraw r.handle m.seqStart).filter (· != token) = none := by
    cases hold : e.heldToken y.step m.firstDraw r.handle m.seqStart with
    | none => rfl
    | some old => simp [Option.filter, hheld old hold]
  have hfate : e.fateOf m.slot r = .deliver := Engine.fateOf_running hrun
  obtain ⟨htview, ⟨d, htreq⟩, htring⟩ := Engine.takeToken_spec (e := e.chargeDraw r.tenant) hreq m.seqStart token
  obtain ⟨hopen, htail, hphase⟩ := htring r.eventRing
  obtain ⟨hrview, ⟨p, hrreq, hp⟩, hrout⟩ := Engine.tokenRecords_spec htreq hhanded hlog (hopen hring) m x y.step token
  have hbody : e.emitToken y m 0 0 x =
      (((e.chargeDraw r.tenant).takeToken m.slot m.seqStart token true).tokenRecords m.slot m x y.step m.seqStart token 0 0 false).noteToken
        y.step m.firstDraw m.slot token := by
    have hdeliver : (Fate.deliver != .discard) = true ∧ (Fate.deliver == .late) = false := ⟨rfl, rfl⟩
    simp [Engine.emitToken, hreq, htoken, hnone, hfate, hstop, hfull, hdeliver, Engine.noteToken]
  obtain ⟨hnview, hnrafter, hnout⟩ := Engine.noteToken_spec
    (((e.chargeDraw r.tenant).takeToken m.slot m.seqStart token true).tokenRecords m.slot m x y.step m.seqStart token 0 0 false)
    y.step m.firstDraw m.slot token
  unfold Engine.req? at hrreq
  rw [← hnrafter] at hrreq
  rw [hbody]
  refine ⟨?_, ⟨_, hrreq, rfl, rfl, rfl, rfl, rfl, hp⟩, RingKept.wrote ⟨hopen, htail, hphase⟩ ?_⟩
  · rw [hnview, hrview, htview]
    rfl
  · unfold Engine.wrote at hrout ⊢
    rw [hnout]
    exact hrout

/-! ### The emission of a member of one draw -/

theorem verifyFrom_lone (stops : Nat → Nat → Bool) (token : Nat) (gs : List Nat) : verifyFrom stops 0 token gs [] = (0, false) := by
  cases gs <;> rfl

/-- With its one token emitted, a member's count, guesses and entry are noted. -/
theorem Engine.emitVerified_lone {e : Engine} {m : Member} {x : DrawCtx} {token : Nat} (hfatal : e.err.fatal = false) (hdraws : m.draws = 1)
    (hvoid : x.void = false) (htoken : x.token = some token) (y : Yealm) (i : Nat) (r : Rafter) :
    ∃ f heads, e.emitVerified y i m r [x] =
      (if m.kind = 0 then ((e.emitToken y m 0 0 x).bumpBy Cnt.smpAccept 0).keepGuesses m heads
        else (e.emitToken y m 0 0 x).bumpBy Cnt.smpAccept 0).modMember i f := by
  have htokens : Engine.emitTokens y m 0 [(0, x)] e = e.emitToken y m 0 0 x := by simp [Engine.emitTokens, hfatal]
  unfold Engine.emitVerified
  extract_lets tokens
  have ht : tokens = [some token] := by simp [tokens, hvoid, htoken]
  rw [ht]
  simp only [verifyFrom_lone, hdraws, List.range_one, List.zip_cons_cons, List.zip_nil_right, Nat.zero_add, htokens]
  exact ⟨_, _, rfl⟩

/-- What is noted after the token changes nothing that emission is seen by but the member. -/
theorem Engine.emitVerified_frame {e : Engine} {m : Member} {x : DrawCtx} {token : Nat} (hfatal : e.err.fatal = false) (hdraws : m.draws = 1)
    (hvoid : x.void = false) (htoken : x.token = some token) (y : Yealm) (i : Nat) (r : Rafter) :
    (∃ c, (e.emitVerified y i m r [x]).emitView = { (e.emitToken y m 0 0 x).emitView with current := c }) ∧
      (e.emitVerified y i m r [x]).rafter = (e.emitToken y m 0 0 x).rafter ∧
      (e.emitVerified y i m r [x]).out = (e.emitToken y m 0 0 x).out := by
  obtain ⟨f, heads, h⟩ := Engine.emitVerified_lone hfatal hdraws hvoid htoken y i r
  have hview := (e.emitToken y m 0 0 x).bumpBy_emitView (c := Cnt.smpAccept) 0 (by decide) (by decide)
  rw [h]
  split
  · obtain ⟨c, j, hj⟩ := Engine.modMember_frame (((e.emitToken y m 0 0 x).bumpBy Cnt.smpAccept 0).keepGuesses m heads) i f
    rw [hj, ← hview]
    exact ⟨⟨c, rfl⟩, rfl, rfl⟩
  · obtain ⟨c, j, hj⟩ := Engine.modMember_frame ((e.emitToken y m 0 0 x).bumpBy Cnt.smpAccept 0) i f
    rw [hj, ← hview]
    exact ⟨⟨c, rfl⟩, rfl, rfl⟩

/-- A member of one finished draw whose token its request takes: the token is delivered and emission moves on. -/
theorem Engine.drawEmit_token {e : Engine} {i : Nat} {y : Yealm} {m : Member} {r : Rafter} {x : DrawCtx} {token : Nat} (h : InTurn e i y m)
    (hd : Delivers e y m r x token) (hlead : e.leadsGroup = false) (hstays : (m.vacated || m.deferred || m.failed) = false)
    (hdraws : m.draws = 1) (hhandle : r.handle = m.handle) (hctx : Table.get? e.smp.ctxs m.firstDraw = some x) (hdone : x.done = true) :
    (e.drawEmit i).smp.nextEmit = m.firstDraw + 1 ∧ (e.drawEmit i).count Cnt.smpTokens = e.count Cnt.smpTokens + 1#32 ∧
      (∃ r', (e.drawEmit i).req? m.slot = some r' ∧ r.deliveredOne m.slot m.seqStart r') ∧
      e.wrote (e.drawEmit i) { ring := r.eventRing, rtype := 2, body := r.tokenBody m x y.step m.seqStart token } := by
  obtain ⟨hrafter, hsmp⟩ := e.emitBegin_frame i m
  have hbview := Engine.emitBegin_emitView h.current i m
  have hbfatal : (e.emitBegin i m).err.fatal = false := (congrArg EmitView.fatal hbview).trans h.fatal
  have hbring := e.emitBegin_ringKept i m r.eventRing
  have hbreq : (e.emitBegin i m).req? m.slot = some r := by
    unfold Engine.req?
    rw [hrafter]
    exact hd.request
  have hbd : Delivers (e.emitBegin i m) y m r x token :=
    { hd with request := hbreq, ring := hbring.1 hd.ring, held := fun old ho => hd.held old ((e.emitBegin_heldToken i m _ _ _ _).symm.trans ho) }
  have hbody : e.drawEmit i = ((e.emitBegin i m).emitVerified y i m r [x]).emitEnd y i m := by
    rw [Engine.drawEmit_inTurn h (.inr fun j hj => ⟨x, by rw [show j = 0 by omega]; exact hctx, hdone⟩)]
    simp [hbreq, hstays, hhandle, hdraws, hsmp, hctx]
  obtain ⟨htview, ⟨r1, hr1, hdel⟩, htout⟩ := Engine.emitToken_delivers hbd
  obtain ⟨⟨c, hvview⟩, hvrafter, hvout⟩ := Engine.emitVerified_frame hbfatal hdraws hd.valid hd.drawn y i r
  rw [htview, hbview] at hvview
  obtain ⟨heview, heout, hereq⟩ := Engine.emitEnd_spec (e := (e.emitBegin i m).emitVerified y i m r [x])
    ((congrArg EmitView.leads hvview).trans hlead) ((congrArg EmitView.fatal hvview).trans h.fatal) y i m
  obtain ⟨r2, hr2, hsame⟩ := hereq m.slot r1 (by unfold Engine.req? at hr1 ⊢; rw [hvrafter, hr1])
  rw [hvview] at heview
  rw [hbody]
  refine ⟨(congrArg EmitView.nextEmit heview).trans (by rw [hdraws]), congrArg EmitView.tokens heview,
    ⟨r2, hr2, Rafter.deliveredOne_sameTokens hdel hsame⟩, RingKept.wrote hbring (heout.subset ?_)⟩
  rw [hvout]
  exact htout

/-! ### The command -/

/-- Draws that lack a finished context are not all finished. -/
theorem Engine.not_all_done {e : Engine} {m : Member} (h : ∃ j, j < m.draws ∧ Table.get? e.smp.ctxs (m.firstDraw + j) = none) :
    (((List.range m.draws).map (m.firstDraw + ·)).all fun d => ((Table.get? e.smp.ctxs d).map (·.done)).getD false) = false := by
  obtain ⟨j, hj, hnone⟩ := h
  rw [List.all_eq_false]
  exact ⟨m.firstDraw + j, List.mem_map.2 ⟨j, List.mem_range.2 hj, rfl⟩, by simp [hnone]⟩

/-- A member that is none, is emitted, is out of turn or is not ready is not emitted; nor is any on a worker, or after FATAL. -/
theorem Engine.drawEmit_still {e : Engine} {i : Nat}
    (h : e.ylm.current = none ∨ (∃ y, e.ylm.current = some y ∧ (y.members[i]? = none ∨ ∃ m, y.members[i]? = some m ∧
      (m.emitted = true ∨ m.draws = 0 ∨ e.smp.nextEmit ≠ m.firstDraw ∨
        (e.skips m = false ∧ ∃ j, j < m.draws ∧ Table.get? e.smp.ctxs (m.firstDraw + j) = none)))) ∨
      e.follows = true ∨ e.err.fatal = true) :
    e.drawEmit i = e := by
  unfold Engine.drawEmit
  split
  · rfl
  · next y hcur =>
    split
    · rfl
    · next m hmem =>
      extract_lets draws ready began
      have hstill : m.emitted = true ∨ m.draws = 0 ∨ e.smp.nextEmit ≠ m.firstDraw ∨ ready = false ∨ e.follows = true ∨
          e.err.fatal = true := by
        rcases h with hnone | ⟨y', hcur', hy⟩ | hfollows | hfatal
        · rw [hnone] at hcur
          cases hcur
        · obtain rfl : y' = y := Option.some.inj (hcur'.symm.trans hcur)
          rcases hy with hnone | ⟨m', hmem', hm⟩
          · rw [hnone] at hmem
            cases hmem
          · obtain rfl : m' = m := Option.some.inj (hmem'.symm.trans hmem)
            rcases hm with hemitted | hdraws | hnext | ⟨hskips, hctx⟩
            · exact .inl hemitted
            · exact .inr (.inl hdraws)
            · exact .inr (.inr (.inl hnext))
            · have hready : ready = false := by
                simp only [ready, hskips, Bool.false_or]
                exact Engine.not_all_done hctx
              tauto
        · tauto
        · tauto
      refine if_pos ?_
      simp only [Bool.or_eq_true, decide_eq_true_eq, Bool.not_eq_true']
      tauto

theorem exec_drawEmit {s : State} (h : s.serves Isl.sm) (i : BitVec 14) :
    exec (.drawEmit i) s = .next { s with eng := s.seen.drawEmit i.toNat } := by
  dsimp only [exec]
  exact s.actIn_serves h _

/-- Settles O49: a member out of turn is left, one that skips its draws leaves them void, a token is delivered to its ring, and
verification accepts what its guesses hold. -/
theorem emissionInDrawOrder : Obligations.EmissionInDrawOrder := by
  unfold Obligations.EmissionInDrawOrder
  refine ⟨fun s i h hstill => ?_, fun s i y m k c h halone hfatal hcur hmem hfresh hdraws hnext hcourse hbegan => ⟨fun hvoid => ?_,
    fun r x token body hdef hfail hvac hone hreq hhandle hrun hctx hdone hxvoid htoken hheld hstop hfull hhanded hlog hring hbody => ?_⟩,
    fun stops token gs ts a reached hverify => ?_⟩
  · rw [exec_drawEmit h, Engine.drawEmit_still (e := s.seen) hstill]
  · obtain ⟨hfollows, -, -, hlead⟩ := Engine.alone_roles halone
    have hturn : InTurn s.seen i.toNat y m := ⟨hcur, hmem, hfresh, hdraws, hnext, ⟨k, c, hcourse, hbegan⟩, hfollows, hfatal⟩
    have hready : s.seen.skips m = true ∨
        ∀ j, j < m.draws → ∃ x, Table.get? s.seen.smp.ctxs (m.firstDraw + j) = some x ∧ x.done = true := by
      rcases hvoid with hdef | hfail | ⟨-, hdone⟩
      · exact .inl (by simp [Engine.skips, hdef])
      · exact .inl (by simp [Engine.skips, hfail])
      · exact .inr hdone
    have hskip : (m.vacated || m.deferred || m.failed) = true := by
      rcases hvoid with hdef | hfail | ⟨hvac, -⟩ <;> simp [*]
    have hview := Engine.drawEmit_void hturn hlead hready hskip
    exact ⟨_, _, exec_drawEmit h i, congrArg EmitView.nextEmit hview, congrArg EmitView.current hview, rfl, congrArg EmitView.void hview,
      congrArg EmitView.tokens hview⟩
  · obtain ⟨hfollows, -, -, hlead⟩ := Engine.alone_roles halone
    have hturn : InTurn s.seen i.toNat y m := ⟨hcur, hmem, hfresh, hdraws, hnext, ⟨k, c, hcourse, hbegan⟩, hfollows, hfatal⟩
    have hdelivers : Delivers s.seen y m r x token :=
      ⟨hreq, hrun, hxvoid, htoken, hheld, hstop, hfull, hhanded, hlog, hring⟩
    obtain ⟨hpassed, hcount, ⟨r', hr', hstate, hseq, hgen, hfirst, hpos, hdeliv⟩, hwrote⟩ :=
      Engine.drawEmit_token hturn hdelivers hlead (by simp [hvac, hdef, hfail]) hone hhandle hctx hdone
    exact ⟨_, r', exec_drawEmit h i, hpassed, hr', hseq, hgen, hfirst, hpos, hdeliv, hstate, hcount, hbody ▸ hwrote⟩
  · obtain ⟨n, ha, haccepted, hreached, hended⟩ := verifyFrom_spec gs ts 0 token hverify
    obtain rfl : n = a := by omega
    refine ⟨fun j hj => ?_, fun hr => ?_, fun hr g ht hg hpad hstop => ?_⟩
    · obtain ⟨⟨g, hg, ht, hpad, hstop⟩, hu⟩ := haccepted j hj
      exact ⟨g, hg, ht, hpad, by simpa using hstop, hu⟩
    · obtain ⟨hvoid, g, hg, ht, hpad, hstop⟩ := hreached hr
      exact ⟨hvoid, g, hg, ht, hpad, by simpa using hstop⟩
    · exact hended hr ⟨g, hg, ht, hpad, by simpa using hstop⟩

end Sys2Proof.Machine
end

section
/-!
# Host rings

What a ring command, a context read and a doorbell do to the rings (R32, R35, R43, R44, R46).
-/

namespace Sys2Proof.Machine

/-! ### A ring written -/

section
variable (e : Engine)

@[simp] theorem Engine.sub_putSub_self (i : Nat) (r : SubRing) : (e.putSub i r).sub i = r := Table.getD_put_self _ _ _ _

theorem Engine.sub_putSub_ne {i j : Nat} (r : SubRing) (h : j ≠ i) : (e.putSub i r).sub j = e.sub j := Table.getD_put_ne _ _ _ h

theorem Engine.evt_putEvt_ne {i j : Nat} (r : EvtRing) (h : j ≠ i) : (e.putEvt i r).evt j = e.evt j := Table.getD_put_ne _ _ _ h

@[simp] theorem Engine.sub_putEvt (i j : Nat) (r : EvtRing) : (e.putEvt i r).sub j = e.sub j := rfl
@[simp] theorem Engine.evt_putSub (i j : Nat) (r : SubRing) : (e.putSub i r).evt j = e.evt j := rfl

/-- Rings read from the host unit alone. -/
theorem Engine.sub_congr {e e' : Engine} (h : e'.hru = e.hru) (i : Nat) : e'.sub i = e.sub i := by rw [Engine.sub, Engine.sub, h]

theorem Engine.evt_congr {e e' : Engine} (h : e'.hru = e.hru) (i : Nat) : e'.evt i = e.evt i := by rw [Engine.evt, Engine.evt, h]

/-- The record of a failed ring command leaves the host unit and drives nothing. -/
theorem Engine.log_host (code : Nat) (payload : List Nat) : (e.log code payload).hru = e.hru ∧ (e.log code payload).out = e.out := by
  rw [(e.log_only code payload).1]
  exact ⟨rfl, rfl⟩

end

theorem ReportOnly.hru_eq {e e' : Engine} (h : ReportOnly e e') : e'.hru = e.hru := by rw [h.1]

/-- A ring command's result is all that it changes of the host unit, and it drives nothing. -/
theorem Engine.ringResult_host (e : Engine) (event : Bool) (i reason : Nat) (enabled : Bool) :
    (e.ringResult event i reason enabled).hru =
        { e.hru with statReason := reason, statEnabled := enabled, statRing := ringCode event i } ∧
      (e.ringResult event i reason enabled).out = e.out := by
  unfold Engine.ringResult
  extract_lets hru e1
  split
  · exact ⟨rfl, rfl⟩
  · exact e1.log_host _ _

/-! ### Doorbells (R43, R44) -/

/-- The conditions of R44 on the doorbell of a submission ring. -/
theorem Engine.doorbellOk_sub {e : Engine} {coherent : Bool} {i v : Nat} : e.doorbellOk false coherent i v = true ↔
    v < 65536 ∧ (e.sub i).enabled = true ∧ e.flag Fld.hruCtlEnable = true ∧ (e.sub i).coherent = coherent ∧ v < (e.sub i).size := by
  simp [Engine.doorbellOk, Engine.ringOn, and_assoc]

/-- The conditions of R44 on the doorbell of an event ring: it claims no more than has been written. -/
theorem Engine.doorbellOk_evt {e : Engine} {coherent : Bool} {i v : Nat} : e.doorbellOk true coherent i v = true ↔
    v < 65536 ∧ (e.evt i).enabled = true ∧ e.flag Fld.hruCtlEnable = true ∧ (e.evt i).coherent = coherent ∧ v < (e.evt i).size ∧
      (v + (e.evt i).size - (e.evt i).hostHead) % (e.evt i).size ≤ (e.evt i).unread := by
  simp [Engine.doorbellOk, Engine.ringOn, and_assoc]

theorem Engine.doorbell_bad {e : Engine} {event coherent : Bool} {i v : Nat} (h : e.doorbellOk event coherent i v = false) :
    e.doorbell event coherent i v = (e.bump Cnt.hruDbInvalid).log Ev.doorbellInvalid [ringCode event i, v] := by
  simp [Engine.doorbell, h]

/-- A bad doorbell is only counted and recorded. -/
theorem Engine.doorbell_bad_counts {e : Engine} {event coherent : Bool} {i v : Nat} (h : e.doorbellOk event coherent i v = false) :
    (e.doorbell event coherent i v).hru = e.hru ∧ (e.doorbell event coherent i v).out = e.out ∧
      (e.doorbell event coherent i v).count Cnt.hruDbInvalid = e.count Cnt.hruDbInvalid + 1#32 := by
  rw [Engine.doorbell_bad h]
  obtain ⟨hhru, hout⟩ := (e.bump Cnt.hruDbInvalid).log_host Ev.doorbellInvalid [ringCode event i, v]
  refine ⟨hhru, hout, ?_⟩
  rw [((e.bump Cnt.hruDbInvalid).log_only Ev.doorbellInvalid [ringCode event i, v]).2.2 Cnt.hruDbInvalid (by decide), Engine.count_bump_self]

theorem exec_sqTail {s : State} (h : s.receives Isl.hi) (i : BitVec 12) (v : BitVec 32) :
    exec (.sqTail i v) s = .next { s with eng := s.seen.doorbell false false i.toNat v.toNat } := State.cross_receives h _ _

theorem exec_eqHead {s : State} (h : s.receives Isl.hi) (i : BitVec 12) (v : BitVec 32) :
    exec (.eqHead i v) s = .next { s with eng := s.seen.doorbell true false i.toNat v.toNat } := State.cross_receives h _ _

/-- Settles O58: each of the six cases fails the conditions of R44, and a doorbell that fails them is only counted and recorded. -/
theorem invalidDoorbellsAreIgnored : Obligations.InvalidDoorbellsAreIgnored := by
  refine ⟨fun s i v r hs hr hbad => ?_, fun s i v r hs hr hbad => ?_⟩
  · have hok : s.seen.doorbellOk false false i.toNat v.toNat = false := by
      rw [Bool.eq_false_iff, ne_eq, Engine.doorbellOk_sub]
      rintro ⟨hlow, hon, hctl, hkind, hsize⟩
      subst hr
      rcases hbad with h | h | h | h | h
      · exact absurd hsize (Nat.not_lt.2 h)
      · exact absurd hlow (Nat.not_lt.2 h)
      · exact Bool.eq_false_iff.1 h hon
      · exact Bool.eq_false_iff.1 h hctl
      · exact Bool.eq_false_iff.1 hkind h
    rw [exec_sqTail hs, Engine.doorbell_bad hok]
  · have hok : s.seen.doorbellOk true false i.toNat v.toNat = false := by
      rw [Bool.eq_false_iff, ne_eq, Engine.doorbellOk_evt]
      rintro ⟨hlow, hon, hctl, hkind, hsize, hread⟩
      subst hr
      rcases hbad with h | h | h | h | h | h
      · exact absurd hsize (Nat.not_lt.2 h)
      · exact absurd hlow (Nat.not_lt.2 h)
      · exact Bool.eq_false_iff.1 h hon
      · exact Bool.eq_false_iff.1 h hctl
      · exact Bool.eq_false_iff.1 hkind h
      · exact absurd hread (Nat.not_le.2 h)
    rw [exec_eqHead hs, Engine.doorbell_bad hok]

/-- A good doorbell of a submission ring moves its tail and stamps arrivals. -/
theorem Engine.doorbell_sub {e : Engine} {coherent : Bool} {i v : Nat} (h : e.doorbellOk false coherent i v = true) :
    ∃ a, e.doorbell false coherent i v = e.putSub i { e.sub i with tail := v, arrivals := a } :=
  ⟨_, by simp only [Engine.doorbell, h, Bool.not_true, Bool.false_eq_true, if_false]; rfl⟩

/-- A good doorbell of an event ring moves its host head, and may end a stall. -/
theorem Engine.doorbell_evt {e : Engine} {coherent : Bool} {i v : Nat} (h : e.doorbellOk true coherent i v = true) :
    ∃ b, e.doorbell true coherent i v = e.putEvt i { e.evt i with hostHead := v, stalled := b } :=
  ⟨_, by simp only [Engine.doorbell, h, Bool.not_true, Bool.false_eq_true, if_false, if_true]; rfl⟩

/-! ### Watch lines (R46) -/

section
variable (e : Engine) (event : Bool) (i : Nat)

/-- The end of a watch line's read leaves no read of it out, and changes nothing else. -/
theorem Engine.endWatch_spec : (event, i) ∉ (e.endWatch event i).hru.watches ∧
    e.endWatch event i = { e with hru := { e.hru with watches := (e.endWatch event i).hru.watches } } := by
  refine ⟨?_, rfl⟩
  simp [Engine.endWatch]

/-- One read of a line is out after it is read, and was driven unless one was out before. -/
theorem Engine.readWatch_spec : (event, i) ∈ (e.readWatch event i).hru.watches ∧
    e.readWatch event i = { e with
      hru := { e.hru with watches := (e.readWatch event i).hru.watches }
      out := if e.hru.watches.contains (event, i) then e.out else .hostRead (e.watchAddr event i) 64 :: e.out } := by
  unfold Engine.readWatch
  split
  · next h => exact ⟨List.contains_iff_mem.1 h, rfl⟩
  · exact ⟨by simp, rfl⟩

end

theorem exec_watchLineSnoop {s : State} (h : s.receives Isl.hi) (event : Bool) (i : BitVec 12) (value : Option (BitVec 32)) :
    exec (.watchLineSnoop event i value) s = .next { s with eng := s.seen.snoop event i.toNat value } := State.cross_receives h _ _

/-- e with other reads of watch lines out, and other accesses driven. -/
def Engine.rewatched (e : Engine) (w : List (Bool × Nat)) (out : List Output) : Engine :=
  { e with hru := { e.hru with watches := w }, out := out }

/-- The line is read again, where no read of it is out, and its index taken as a doorbell. -/
theorem Engine.snoop_value {e : Engine} {event : Bool} {i : Nat} (h : e.watched event i = true) (v : BitVec 32) :
    ∃ w out, (event, i) ∉ w ∧ (out = if e.hru.watches.contains (event, i) then e.out else .hostRead (e.watchAddr event i) 64 :: e.out) ∧
      e.snoop event i (some v) = (e.rewatched w out).doorbell event true i v.toNat := by
  obtain ⟨hnone, hend⟩ := (e.readWatch event i).endWatch_spec event i
  refine ⟨_, _, hnone, rfl, ?_⟩
  simp only [Engine.snoop, h, if_true]
  rw [hend, (e.readWatch_spec event i).2]
  rfl

/-- While its read does not return, the line stays out. -/
theorem Engine.snoop_none {e : Engine} {event : Bool} {i : Nat} (h : e.watched event i = true) :
    e.snoop event i none = e.readWatch event i := by
  simp only [Engine.snoop, h, if_true]

end Sys2Proof.Machine
end

section
/-!
# Doorbells

A doorbell states an index, by a write or through a watch line (R43, R44, R46).
-/

namespace Sys2Proof.Machine

/-! ### One submission ring changes -/

/-- e' differs from e in one submission ring alone. -/
def SubOnly (i : Nat) (e e' : Engine) : Prop :=
  (∀ j, j ≠ i → e'.sub j = e.sub j) ∧ e' = { e with hru := { e.hru with subs := e'.hru.subs } }

theorem SubOnly.refl (i : Nat) (e : Engine) : SubOnly i e e := ⟨fun _ _ => rfl, rfl⟩

theorem SubOnly.trans {i : Nat} {a b c : Engine} (h : SubOnly i a b) (k : SubOnly i b c) : SubOnly i a c := by
  obtain ⟨h1, h2⟩ := h
  obtain ⟨k1, k2⟩ := k
  refine ⟨fun j hj => (k1 j hj).trans (h1 j hj), ?_⟩
  rw [k2, h2]

theorem SubOnly.putSub (i : Nat) (e : Engine) (r : SubRing) : SubOnly i e (e.putSub i r) := ⟨fun _ hj => e.sub_putSub_ne r hj, rfl⟩

section
variable {i : Nat} {e e' : Engine}

theorem SubOnly.evts_eq (h : SubOnly i e e') : e'.hru.evts = e.hru.evts := by rw [h.2]
theorem SubOnly.evt_eq (h : SubOnly i e e') (j : Nat) : e'.evt j = e.evt j := by rw [h.2]; rfl
theorem SubOnly.staging_eq (h : SubOnly i e e') : e'.hru.staging = e.hru.staging := by rw [h.2]
theorem SubOnly.out_eq (h : SubOnly i e e') : e'.out = e.out := by rw [h.2]
theorem SubOnly.cnt_eq (h : SubOnly i e e') : e'.cnt = e.cnt := by rw [h.2]
theorem SubOnly.rafter_eq (h : SubOnly i e e') : e'.rafter = e.rafter := by rw [h.2]

end

/-- The end of a disable is all that it changes of its ring. -/
theorem Engine.finishClose_spec (e : Engine) (i : Nat) :
    SubOnly i e (e.finishClose i) ∧ ∃ b, (e.finishClose i).sub i = { e.sub i with closing := b } := by
  unfold Engine.finishClose
  extract_lets r
  split
  · exact ⟨.putSub i e _, false, e.sub_putSub_self i _⟩
  · exact ⟨.refl i e, r.closing, rfl⟩

/-- A stopped ring is disabled, its doorbell value gone. -/
theorem Engine.stopSub_spec (e : Engine) (i : Nat) :
    SubOnly i e (e.stopSub i) ∧ ((e.stopSub i).sub i).enabled = false ∧ ((e.stopSub i).sub i).tail = (e.sub i).fetched := by
  unfold Engine.stopSub
  extract_lets r issued
  obtain ⟨honly, b, hsub⟩ := (e.putSub i { r with enabled := false, closing := true, tail := r.fetched, arrivals := issued }).finishClose_spec i
  rw [hsub, Engine.sub_putSub_self]
  exact ⟨(SubOnly.putSub i e _).trans honly, rfl, rfl⟩

/-! ### A watch line whose read times out (R46, Table 2.14) -/

theorem exec_watchLineReadTimeout {s : State} (h : s.serves Isl.hi) (event : Bool) (i : BitVec 12) :
    exec (.watchLineReadTimeout event i) s = .next { s with eng := s.seen.watchTimeout event i.toNat } := State.actIn_serves h _

/-- Its ring is disabled with FETCH_ERROR; the rings of the other kind stay as they are. -/
theorem Engine.watchTimeout_disables {e : Engine} {event : Bool} {i : Nat} (hout : e.hru.watches.contains (event, i) = true)
    (h : e.watched event i = true) : (e.watchTimeout event i).ringOn event i = false ∧
      (e.watchTimeout event i).hru.statReason = 9 ∧ (e.watchTimeout event i).hru.statEnabled = false ∧
      (e.watchTimeout event i).hru.statRing = ringCode event i ∧
      (if event then (e.watchTimeout event i).hru.subs = e.hru.subs else (e.watchTimeout event i).hru.evts = e.hru.evts) := by
  unfold Engine.watchTimeout
  extract_lets e1 r e2
  have hstill : e1.watched event i = true := h
  rw [if_pos hout, if_neg (by rw [hstill]; decide)]
  have hhru : ((e2.ringResult event i 9 false).corrected Det.hruWatchdog (ringCode event i)).hru =
      { e2.hru with statReason := 9, statEnabled := false, statRing := ringCode event i } := by
    rw [(Engine.corrected_only _ _ _ _).hru_eq, (e2.ringResult_host _ _ _ _).1]
  rw [hhru]
  have hring : ∀ e' : Engine, e'.hru = { e2.hru with statReason := 9, statEnabled := false, statRing := ringCode event i } →
      e'.ringOn event i = e2.ringOn event i := by
    intro e' he'
    simp only [Engine.ringOn, Engine.evt, Engine.sub, he']
  rw [hring _ hhru]
  cases event
  · obtain ⟨honly, hoff, -⟩ := e1.stopSub_spec i
    exact ⟨hoff, rfl, rfl, rfl, honly.evts_eq⟩
  · exact ⟨congrArg EvtRing.enabled (e1.evt_putEvt_self i _), rfl, rfl, rfl, rfl⟩

/-! ### The doorbells of O29, by the ring they state the index of -/

section
variable {s : State} {i : BitVec 12} {v : BitVec 32}

theorem sqTail_states (h : s.receives Isl.hi) (hok : s.eng.doorbellOk false false i.toNat v.toNat = true) :
    ∃ t, exec (.sqTail i v) s = .next t ∧ (t.eng.sub i.toNat).tail = v.toNat ∧
      (t.eng.sub i.toNat).head = (s.eng.sub i.toNat).head ∧ (t.eng.sub i.toNat).fetched = (s.eng.sub i.toNat).fetched ∧
      t.eng.hru.evts = s.eng.hru.evts ∧ t.eng.cnt = s.eng.cnt ∧ (∀ j, j ≠ i.toNat → t.eng.sub j = s.eng.sub j) := by
  obtain ⟨a, ha⟩ := Engine.doorbell_sub (e := s.seen) hok
  refine ⟨_, exec_sqTail h i v, ?_⟩
  dsimp only
  rw [ha, Engine.sub_putSub_self]
  exact ⟨rfl, rfl, rfl, rfl, rfl, fun j hj => Engine.sub_putSub_ne s.seen _ hj⟩

theorem eqHead_states (h : s.receives Isl.hi) (hok : s.eng.doorbellOk true false i.toNat v.toNat = true) :
    ∃ t, exec (.eqHead i v) s = .next t ∧ (t.eng.evt i.toNat).hostHead = v.toNat ∧
      (t.eng.evt i.toNat).tail = (s.eng.evt i.toNat).tail ∧ (t.eng.evt i.toNat).phase = (s.eng.evt i.toNat).phase ∧
      t.eng.hru.subs = s.eng.hru.subs ∧ t.eng.cnt = s.eng.cnt ∧ (∀ j, j ≠ i.toNat → t.eng.evt j = s.eng.evt j) := by
  obtain ⟨b, hb⟩ := Engine.doorbell_evt (e := s.seen) hok
  refine ⟨_, exec_eqHead h i v, ?_⟩
  dsimp only
  rw [hb, Engine.evt_putEvt_self]
  exact ⟨rfl, rfl, rfl, rfl, rfl, fun j hj => Engine.evt_putEvt_ne s.seen _ hj⟩

theorem doorbell_ignored {event : Bool} {c : Instr} (h : s.receives Isl.hi)
    (hbad : s.eng.doorbellOk event false i.toNat v.toNat = false)
    (hc : (event = false ∧ c = .sqTail i v) ∨ (event = true ∧ c = .eqHead i v)) :
    ∃ t, exec c s = .next t ∧ t.eng.hru = s.eng.hru ∧ t.eng.out = s.eng.out ∧
      t.eng.count Cnt.hruDbInvalid = s.eng.count Cnt.hruDbInvalid + 1#32 := by
  have hcount := Engine.doorbell_bad_counts (e := s.seen) hbad
  rcases hc with ⟨rfl, rfl⟩ | ⟨rfl, rfl⟩
  · exact ⟨_, exec_sqTail h i v, hcount⟩
  · exact ⟨_, exec_eqHead h i v, hcount⟩

theorem snoop_states_sub (h : s.receives Isl.hi) (hw : s.eng.watched false i.toNat = true)
    (hok : s.eng.doorbellOk false true i.toNat v.toNat = true) :
    ∃ t, exec (.watchLineSnoop false i (some v)) s = .next t ∧ (t.eng.sub i.toNat).tail = v.toNat ∧
      (t.eng.sub i.toNat).head = (s.eng.sub i.toNat).head ∧ t.eng.hru.evts = s.eng.hru.evts ∧
      (false, i.toNat) ∉ t.eng.hru.watches ∧ t.eng.out =
        if s.eng.hru.watches.contains (false, i.toNat) then s.eng.out else .hostRead (s.eng.watchAddr false i.toNat) 64 :: s.eng.out := by
  obtain ⟨w, out, hnone, hout, hsnoop⟩ := Engine.snoop_value (e := s.seen) hw v
  obtain ⟨a, ha⟩ := Engine.doorbell_sub (e := s.seen.rewatched w out) hok
  refine ⟨_, exec_watchLineSnoop h _ _ _, ?_⟩
  dsimp only
  rw [hsnoop, ha, Engine.sub_putSub_self]
  exact ⟨rfl, rfl, rfl, hnone, hout⟩

theorem snoop_states_evt (h : s.receives Isl.hi) (hw : s.eng.watched true i.toNat = true)
    (hok : s.eng.doorbellOk true true i.toNat v.toNat = true) :
    ∃ t, exec (.watchLineSnoop true i (some v)) s = .next t ∧ (t.eng.evt i.toNat).hostHead = v.toNat ∧
      t.eng.hru.subs = s.eng.hru.subs ∧ (true, i.toNat) ∉ t.eng.hru.watches ∧ t.eng.out =
        if s.eng.hru.watches.contains (true, i.toNat) then s.eng.out else .hostRead (s.eng.watchAddr true i.toNat) 64 :: s.eng.out := by
  obtain ⟨w, out, hnone, hout, hsnoop⟩ := Engine.snoop_value (e := s.seen) hw v
  obtain ⟨b, hb⟩ := Engine.doorbell_evt (e := s.seen.rewatched w out) hok
  refine ⟨_, exec_watchLineSnoop h _ _ _, ?_⟩
  dsimp only
  rw [hsnoop, hb, Engine.evt_putEvt_self]
  exact ⟨rfl, rfl, hnone, hout⟩

theorem snoop_ignored {event : Bool} (h : s.receives Isl.hi) (hw : s.eng.watched event i.toNat = true)
    (hbad : s.eng.doorbellOk event true i.toNat v.toNat = false) :
    ∃ t, exec (.watchLineSnoop event i (some v)) s = .next t ∧ t.eng.hru.subs = s.eng.hru.subs ∧ t.eng.hru.evts = s.eng.hru.evts ∧
      t.eng.count Cnt.hruDbInvalid = s.eng.count Cnt.hruDbInvalid + 1#32 := by
  obtain ⟨w, out, -, -, hsnoop⟩ := Engine.snoop_value (e := s.seen) hw v
  obtain ⟨hhru, -, hcount⟩ := Engine.doorbell_bad_counts (e := s.seen.rewatched w out) hbad
  refine ⟨_, exec_watchLineSnoop h _ _ _, ?_⟩
  dsimp only
  rw [hsnoop, hhru, hcount]
  exact ⟨rfl, rfl, rfl⟩

end

/-- Settles O29: a doorbell that passes R44 moves its ring's index, one that fails is counted, and a watch line's read does either. -/
theorem doorbellsStateTheIndex : Obligations.DoorbellsStateTheIndex := by
  refine ⟨fun s i v hs => sqTail_states hs, fun s i v hs => eqHead_states hs, fun s event i v c hs => doorbell_ignored hs,
    fun s i v hs => snoop_states_sub hs, fun s i v hs => snoop_states_evt hs, fun s event i v hs => snoop_ignored hs,
    fun s event i hs hw => ?_, fun s event i hs hout hw => ?_⟩
  · obtain ⟨hmem, hread⟩ := s.seen.readWatch_spec event i.toNat
    refine ⟨_, exec_watchLineSnoop hs _ _ _, ?_⟩
    dsimp only
    rw [Engine.snoop_none (e := s.seen) hw]
    refine ⟨hmem, ?_⟩
    rw [hread]
    exact ⟨rfl, rfl, rfl⟩
  · exact ⟨_, exec_watchLineReadTimeout hs event i, Engine.watchTimeout_disables (e := s.seen) hout hw⟩

end Sys2Proof.Machine
end

section
/-!
# Ring contexts

Rings enabled and disabled by command, and the context entries read for it (R32, R35).
-/

namespace Sys2Proof.Machine

theorem exec_ringEnable {s : State} (h : s.receives Isl.hi) (event : Bool) (i : BitVec 12) :
    exec (.ringEnable event i) s = .next { s with eng := s.seen.ringEnable event i.toNat } := State.cross_receives h _ _

theorem exec_ringContextReadDone {s : State} (h : s.receives Isl.hi) (event : Bool) (i : BitVec 12) (ok : Bool) (x : BitVec 512) :
    exec (.ringContextReadDone event i ok x) s = .next { s with eng := s.seen.contextDone event i.toNat ok x } :=
  State.cross_receives h _ _

theorem exec_ringContextReadTimeout {s : State} (h : s.serves Isl.hi) (event : Bool) (i : BitVec 12) :
    exec (.ringContextReadTimeout event i) s = .next { s with eng := s.seen.contextTimeout event i.toNat } := State.actIn_serves h _

theorem exec_ringDisable {s : State} (h : s.receives Isl.hi) (event : Bool) (i : BitVec 12) :
    exec (.ringDisable event i) s = .next { s with eng := s.seen.ringDisable event i.toNat } := State.cross_receives h _ _

/-! ### What a command's result and a watch line's read keep of the rings -/

section
variable (e : Engine) (event : Bool) (i : Nat)

theorem Engine.endContextRead_none : (event, i) ∉ (e.endContextRead event i).hru.ctxReads := by simp [Engine.endContextRead]

theorem Engine.ringResult_sub (ev : Bool) (j reason : Nat) (enabled : Bool) : (e.ringResult ev j reason enabled).sub i = e.sub i := by
  simp only [Engine.sub, (e.ringResult_host ev j reason enabled).1]

theorem Engine.ringResult_evt (ev : Bool) (j reason : Nat) (enabled : Bool) : (e.ringResult ev j reason enabled).evt i = e.evt i := by
  simp only [Engine.evt, (e.ringResult_host ev j reason enabled).1]

/-- A ring that starts is held by a read of its watch line where its doorbell is coherent, and nothing else of the host unit changes. -/
theorem Engine.holdWatch_spec : (e.holdWatch event i).hru = { e.hru with watches := (e.holdWatch event i).hru.watches } ∧
    (e.watched event i = true →
      .hostRead (e.watchAddr event i) 64 ∈ (e.holdWatch event i).out ∧ (event, i) ∈ (e.holdWatch event i).hru.watches) := by
  unfold Engine.holdWatch
  split
  · obtain ⟨hnone, hend⟩ := e.endWatch_spec event i
    obtain ⟨hmem, hread⟩ := (e.endWatch event i).readWatch_spec event i
    refine ⟨?_, fun _ => ⟨?_, hmem⟩⟩
    · rw [hread, hend]
    · rw [hread, if_neg (by rwa [List.contains_iff_mem])]
      exact List.mem_cons_self
  · next h => exact ⟨rfl, fun k => absurd k h⟩

theorem Engine.holdWatch_sub (j : Nat) : (e.holdWatch event i).sub j = e.sub j := by
  rw [Engine.sub, (e.holdWatch_spec event i).1, Engine.sub]

theorem Engine.holdWatch_evt (j : Nat) : (e.holdWatch event i).evt j = e.evt j := by
  rw [Engine.evt, (e.holdWatch_spec event i).1, Engine.evt]

/-- A good entry starts its ring, whose command then shows enabled, and holds its watch line. -/
theorem Engine.contextDone_good {e : Engine} {event : Bool} {i : Nat} {x : BitVec 512}
    (hout : e.hru.ctxReads.contains (event, i) = true) (hgood : e.contextReason event i x = 0) :
    e.contextDone event i true x = (((e.endContextRead event i).ringStart event i x).ringResult event i 0 true).holdWatch event i := by
  have hreason : (e.endContextRead event i).contextReason event i x = 0 := hgood
  simp only [Engine.contextDone, hout, if_true, hreason]

/-- A read that failed leaves every ring. -/
theorem Engine.contextDone_failed {e : Engine} {event : Bool} {i : Nat} {x : BitVec 512}
    (hout : e.hru.ctxReads.contains (event, i) = true) :
    e.contextDone event i false x = (e.endContextRead event i).ringResult event i 0x7 false := by
  simp only [Engine.contextDone, hout, if_true, Bool.false_eq_true, if_false, OfNat.ofNat_ne_zero]

/-- A submission ring starts at head and tail 0, but after a takeover. -/
theorem Engine.ringStart_sub {e : Engine} {i : Nat} {x : BitVec 512} (h : Table.get? e.flt.takeHeads i = none) :
    ∃ fl, e.ringStart false i x = ({ e with flt := fl } : Engine).putSub i { SubRing.off with
      enabled := true, ctx := x, consumed := (e.sub i).consumed, unacked := (e.sub i).unacked } := by
  refine ⟨{ e.flt with takeHeads := Table.del e.flt.takeHeads i }, ?_⟩
  simp only [Engine.ringStart, Bool.false_eq_true, if_false, Table.getD, h, Option.getD_none, Nat.zero_mod]
  rfl

/-- An event ring starts at tail and host head 0 and phase 1, but after a takeover. -/
theorem Engine.ringStart_evt {e : Engine} {i : Nat} {x : BitVec 512} (h : Table.get? e.flt.takeTails i = none) :
    e.ringStart true i x = e.putEvt i { EvtRing.off with
      enabled := true, ctx := x, bound := (e.evt i).bound, ackRes := (e.evt i).ackRes, tokRes := (e.evt i).tokRes } := by
  simp only [Engine.ringStart, if_true, h]

end

/-! ### What each ring command comes to -/

section
variable {e : Engine} {event : Bool} {i : Nat} {x : BitVec 512}

/-- A ring outside the table. -/
theorem Engine.ringEnable_outside (h : e.ringCount event ≤ i) : e.ringEnable event i = e.ringResult event i 0x6 false := by
  simp only [Engine.ringEnable, if_pos h]

/-- A ring neither enabled nor busy has its entry read. -/
theorem Engine.ringEnable_reads (hin : i < e.ringCount event) (hoff : e.ringOn event i = false) (hidle : e.ringBusy event i = false) :
    e.ringEnable event i = { e with
      hru := { e.hru with
        ctxReads := e.hru.ctxReads ++ [(event, i)], statReason := 0, statEnabled := false, statRing := ringCode event i }
      out := .hostRead (BitVec.ofNat 64 (e.contextAddr event i)) 64 :: e.out } := by
  simp only [Engine.ringEnable, if_neg (Nat.not_le.2 hin), hoff, hidle, Bool.false_eq_true, if_false, Engine.ringResult, if_true]
  rfl

theorem Engine.contextDone_starts_sub (hread : e.hru.ctxReads.contains (false, i) = true) (hgood : e.contextReason false i x = 0)
    (htake : Table.get? e.flt.takeHeads i = none) {t : Engine} (ht : t = e.contextDone false i true x) :
    (t.sub i).enabled = true ∧ (t.sub i).ctx = x ∧ (t.sub i).head = 0 ∧ (t.sub i).tail = 0 ∧
      t.hru.statReason = 0 ∧ t.hru.statEnabled = true ∧ (false, i) ∉ t.hru.ctxReads ∧
      t.hru.evts = e.hru.evts ∧ (∀ j, j ≠ i → t.sub j = e.sub j) ∧
      (f512 x 9 1 1 = 1 → .hostRead (BitVec.ofNat 64 (f512 x 24 0 64)) 64 ∈ t.out ∧ (false, i) ∈ t.hru.watches) := by
  obtain ⟨fl, hstart⟩ := Engine.ringStart_sub (e := e.endContextRead false i) (x := x) htake
  rw [Engine.contextDone_good hread hgood, hstart] at ht
  generalize hr : ({ SubRing.off with enabled := true, ctx := x, consumed := _, unacked := _ } : SubRing) = r at ht
  generalize he : (({ e.endContextRead false i with flt := fl } : Engine).putSub i r) = e1 at ht
  have hsub : (e1.ringResult false i 0 true).sub i = r := by rw [Engine.ringResult_sub, ← he, Engine.sub_putSub_self]
  obtain ⟨hhru, hwatch⟩ := (e1.ringResult false i 0 true).holdWatch_spec false i
  rw [(e1.ringResult_host false i 0 true).1, ← ht] at hhru
  have hring : t.sub i = r := by rw [ht, Engine.holdWatch_sub, hsub]
  rw [hring, hhru]
  subst hr
  refine ⟨rfl, rfl, rfl, rfl, rfl, rfl, ?_, ?_, fun j hj => ?_, fun hc => ?_⟩
  · rw [← he]
    exact e.endContextRead_none false i
  · rw [← he]
    rfl
  · rw [ht, Engine.holdWatch_sub, Engine.ringResult_sub, ← he, Engine.sub_putSub_ne _ _ hj]
    rfl
  · have h := hwatch (by simp [Engine.watched, Engine.ringOn, hsub, SubRing.coherent, hc])
    rwa [Engine.watchAddr, if_neg (by decide), hsub, ← ht, hhru] at h

theorem Engine.contextDone_starts_evt (hread : e.hru.ctxReads.contains (true, i) = true) (hgood : e.contextReason true i x = 0)
    (htake : Table.get? e.flt.takeTails i = none) {t : Engine} (ht : t = e.contextDone true i true x) :
    (t.evt i).enabled = true ∧ (t.evt i).ctx = x ∧ (t.evt i).tail = 0 ∧ (t.evt i).hostHead = 0 ∧ (t.evt i).phase = true ∧
      t.hru.statReason = 0 ∧ t.hru.statEnabled = true ∧ t.hru.subs = e.hru.subs ∧ (∀ j, j ≠ i → t.evt j = e.evt j) ∧
      (f512 x 9 1 1 = 1 → .hostRead (BitVec.ofNat 64 (f512 x 24 0 64)) 64 ∈ t.out ∧ (true, i) ∈ t.hru.watches) := by
  rw [Engine.contextDone_good hread hgood, Engine.ringStart_evt (e := e.endContextRead true i) htake] at ht
  generalize hr : ({ EvtRing.off with enabled := true, ctx := x, bound := _, ackRes := _, tokRes := _ } : EvtRing) = r at ht
  generalize he : (e.endContextRead true i).putEvt i r = e1 at ht
  have hevt : (e1.ringResult true i 0 true).evt i = r := by rw [Engine.ringResult_evt, ← he, Engine.evt_putEvt_self]
  obtain ⟨hhru, hwatch⟩ := (e1.ringResult true i 0 true).holdWatch_spec true i
  rw [(e1.ringResult_host true i 0 true).1, ← ht] at hhru
  have hring : t.evt i = r := by rw [ht, Engine.holdWatch_evt, hevt]
  rw [hring, hhru]
  subst hr
  refine ⟨rfl, rfl, rfl, rfl, rfl, rfl, rfl, ?_, fun j hj => ?_, fun hc => ?_⟩
  · rw [← he]
    rfl
  · rw [ht, Engine.holdWatch_evt, Engine.ringResult_evt, ← he, Engine.evt_putEvt_ne _ _ hj]
    rfl
  · have h := hwatch (by simp [Engine.watched, Engine.ringOn, hevt, EvtRing.coherent, hc])
    rwa [Engine.watchAddr, if_pos rfl, hevt, ← ht, hhru] at h

/-- What a context read that came to nothing leaves: reason 7, no read of the ring out, and every ring as it was. -/
theorem Engine.contextRead_fails {t : Engine} (ht : t.hru = ((e.endContextRead event i).ringResult event i 0x7 false).hru) :
    t.hru.statReason = 7 ∧ t.hru.statEnabled = false ∧ t.hru.statRing = ringCode event i ∧ (event, i) ∉ t.hru.ctxReads ∧
      t.hru.subs = e.hru.subs ∧ t.hru.evts = e.hru.evts := by
  rw [ht, ((e.endContextRead event i).ringResult_host event i 0x7 false).1]
  exact ⟨rfl, rfl, rfl, e.endContextRead_none event i, rfl, rfl⟩

theorem Engine.contextTimeout_fails (hread : e.hru.ctxReads.contains (event, i) = true) :
    (e.contextTimeout event i).hru = ((e.endContextRead event i).ringResult event i 0x7 false).hru := by
  simp only [Engine.contextTimeout, hread, if_true]
  exact (Engine.corrected_only _ _ _ _).hru_eq

/-- A submission ring disabled by command stops. -/
theorem Engine.ringDisable_sub (hin : i < e.ringCount false) (hon : (e.sub i).enabled = true) {t : Engine}
    (ht : t = e.ringDisable false i) : (t.sub i).enabled = false ∧ (t.sub i).tail = (e.sub i).fetched ∧ t.hru.statReason = 0 ∧
      t.hru.evts = e.hru.evts ∧ t.hru.staging = e.hru.staging ∧ (∀ j, j ≠ i → t.sub j = e.sub j) := by
  simp only [Engine.ringDisable, if_neg (Nat.not_le.2 hin), Bool.false_eq_true, if_false, hon, if_true] at ht
  obtain ⟨honly, hoff, htail⟩ := (e.endContextRead false i).stopSub_spec i
  subst ht
  simp only [Engine.ringResult_sub, (Engine.ringResult_host _ _ _ _ _).1]
  exact ⟨hoff, htail, trivial, honly.evts_eq, honly.staging_eq, honly.1⟩

/-- An event ring is refused while requests are bound to it. -/
theorem Engine.ringDisable_bound (hin : i < e.ringCount true) (hon : (e.evt i).enabled = true) (hb : (e.evt i).bound ≠ 0) :
    e.ringDisable true i = e.ringResult true i 0x8 true := by
  simp [Engine.ringDisable, Nat.not_le.2 hin, hon, hb]

theorem Engine.ringDisable_unbound (hin : i < e.ringCount true) (hb : (e.evt i).bound = 0) :
    e.ringDisable true i = ((e.endContextRead true i).putEvt i { e.evt i with enabled := false }).ringResult true i 0x0 false := by
  simp [Engine.ringDisable, Nat.not_le.2 hin, hb]

theorem Engine.ringDisable_evt (hin : i < e.ringCount true) (hon : (e.evt i).enabled = true) :
    (e.ringDisable true i).hru.subs = e.hru.subs ∧
      ((e.evt i).bound ≠ 0 → ((e.ringDisable true i).evt i).enabled = true ∧ (e.ringDisable true i).hru.statReason = 8) ∧
      ((e.evt i).bound = 0 → ((e.ringDisable true i).evt i).enabled = false ∧ (e.ringDisable true i).hru.statReason = 0) := by
  by_cases hb : (e.evt i).bound = 0
  · rw [Engine.ringDisable_unbound hin hb, Engine.ringResult_evt, Engine.evt_putEvt_self, (Engine.ringResult_host _ _ _ _ _).1]
    exact ⟨rfl, fun h => absurd hb h, fun _ => ⟨rfl, rfl⟩⟩
  · rw [Engine.ringDisable_bound hin hon hb, Engine.ringResult_evt, (Engine.ringResult_host _ _ _ _ _).1]
    exact ⟨rfl, fun _ => ⟨hon, rfl⟩, fun h => absurd h hb⟩

end

/-- Settles O28: each ring command shows its result alone, and only a good entry starts a ring. -/
theorem ringContextCommands : Obligations.RingContextCommands := by
  refine ⟨fun s event i hs hout => ?_, fun s event i hs hin hoff hidle => ?_, fun s i x hs hread hgood htake => ?_,
    fun s i x hs hread hgood htake => ?_, fun s event i x hs hread => ?_, fun s event i hs hread => ?_,
    fun s i hs hin hon => ?_, fun s i hs hin hon => ?_⟩
  · refine ⟨_, exec_ringEnable hs event i, ?_⟩
    dsimp only
    obtain ⟨hhru, hkept⟩ := s.seen.ringResult_host event i.toNat 0x6 false
    rw [Engine.ringEnable_outside (e := s.seen) hout, hhru, hkept]
    exact ⟨rfl, rfl, rfl, rfl, rfl, rfl, rfl⟩
  · refine ⟨_, exec_ringEnable hs event i, ?_⟩
    dsimp only
    rw [Engine.ringEnable_reads (e := s.seen) hin hoff hidle]
    exact ⟨rfl, rfl, rfl, rfl, rfl, rfl, rfl⟩
  · exact ⟨_, exec_ringContextReadDone hs false i true x, Engine.contextDone_starts_sub (e := s.seen) hread hgood htake rfl⟩
  · exact ⟨_, exec_ringContextReadDone hs true i true x, Engine.contextDone_starts_evt (e := s.seen) hread hgood htake rfl⟩
  · exact ⟨_, exec_ringContextReadDone hs event i false x,
      Engine.contextRead_fails (e := s.seen) (congrArg Engine.hru (Engine.contextDone_failed (e := s.seen) hread))⟩
  · exact ⟨_, exec_ringContextReadTimeout hs event i,
      Engine.contextRead_fails (e := s.seen) (Engine.contextTimeout_fails (e := s.seen) hread)⟩
  · exact ⟨_, exec_ringDisable hs false i, Engine.ringDisable_sub (e := s.seen) hin hon rfl⟩
  · exact ⟨_, exec_ringDisable hs true i, Engine.ringDisable_evt (e := s.seen) hin hon⟩

end Sys2Proof.Machine
end

section
/-!
# Acknowledgements

What an acknowledgement touches: its rings, the staging store, counters of its own, and what is driven (R49, R54, R55).
-/

namespace Sys2Proof.Machine

/-! ### The trace of acknowledgements -/

/-- A submission ring as acknowledgements leave it: fewer descriptors outstanding, and a disable perhaps complete. -/
def SubRing.acked (r r' : SubRing) : Prop :=
  ∃ u b, u.Sublist r.unacked ∧ r' = { r with unacked := u, closing := b }

theorem SubRing.acked_refl (r : SubRing) : r.acked r := ⟨r.unacked, r.closing, .refl _, rfl⟩

theorem SubRing.acked_trans {a b c : SubRing} (h : a.acked b) (k : b.acked c) : a.acked c := by
  obtain ⟨u, x, hu, rfl⟩ := h
  obtain ⟨v, y, hv, rfl⟩ := k
  exact ⟨v, y, hv.trans hu, rfl⟩

/-- e' is e after acknowledgements, or after a part of one: records are written or staged, descriptors leave the staging store, and
nothing of a request, a tenant or a memory object changes. -/
structure AckOnly (e e' : Engine) : Prop where
  frame : e' = { e with mem := e'.mem, evr := e'.evr, cnt := e'.cnt, hru := e'.hru,
                        flt := { e.flt with eventSeq := e'.flt.eventSeq }, out := e'.out }
  staging : e'.hru.staging.Sublist e.hru.staging
  subs : ∀ i, (e.sub i).acked (e'.sub i)
  out : e.out <:+ e'.out
  count : ∀ c, c ≠ Cnt.hruMalformed → c < 0x6000 ∨ 0x7000 ≤ c → e'.count c = e.count c

section
variable {a b c e e' : Engine}

theorem AckOnly.refl (e : Engine) : AckOnly e e :=
  ⟨rfl, .refl _, fun i => (e.sub i).acked_refl, List.suffix_refl _, fun _ _ _ => rfl⟩

theorem AckOnly.trans (h : AckOnly a b) (k : AckOnly b c) : AckOnly a c where
  frame := by rw [k.frame, h.frame]
  staging := k.staging.trans h.staging
  subs i := SubRing.acked_trans (h.subs i) (k.subs i)
  out := h.out.trans k.out
  count n hn hl := (k.count n hn hl).trans (h.count n hn hl)

theorem AckOnly.foldl {α : Type} {f : Engine → α → Engine} (hf : ∀ e x, AckOnly e (f e x)) :
    ∀ (l : List α) (e : Engine), AckOnly e (l.foldl f e)
  | [], e => .refl e
  | x :: l, e => (hf e x).trans (AckOnly.foldl hf l (f e x))

/-- Where the rings stay and more is driven. -/
theorem AckOnly.of_out {out : List Output} (h : e.out <:+ out) : AckOnly e { e with out := out } :=
  ⟨rfl, .refl _, fun i => (e.sub i).acked_refl, h, fun _ _ _ => rfl⟩

theorem AckOnly.emit (e : Engine) (o : Output) : AckOnly e (e.emit o) := .of_out (List.suffix_cons _ _)

/-- Where the host unit changes, but no submission ring and nothing staged. -/
theorem AckOnly.of_hru {hru : Hru} (hs : hru.subs = e.hru.subs) (hst : hru.staging = e.hru.staging) : AckOnly e { e with hru := hru } where
  frame := rfl
  staging := by rw [hst]
  subs i := by
    rw [show ({ e with hru := hru } : Engine).sub i = e.sub i by simp only [Engine.sub, hs]]
    exact (e.sub i).acked_refl
  out := List.suffix_refl _
  count _ _ _ := rfl

theorem AckOnly.putEvt (e : Engine) (k : Nat) (r : EvtRing) : AckOnly e (e.putEvt k r) := .of_hru rfl rfl

theorem AckOnly.putSub {i : Nat} {r : SubRing} (h : (e.sub i).acked r) : AckOnly e (e.putSub i r) where
  frame := rfl
  staging := .refl _
  subs j := by
    by_cases hj : j = i
    · rw [hj, Engine.sub_putSub_self]
      exact h
    · rw [Engine.sub_putSub_ne _ _ hj]
      exact (e.sub j).acked_refl
  out := List.suffix_refl _
  count _ _ _ := rfl

theorem AckOnly.unstage (e : Engine) (ring pos : Nat) : AckOnly e (e.unstage ring pos) where
  frame := rfl
  staging := List.filter_sublist
  subs i := (e.sub i).acked_refl
  out := List.suffix_refl _
  count _ _ _ := rfl

theorem LogOnly.ackOnly (h : LogOnly e e') : AckOnly e e' := by
  have hhru : e'.hru = e.hru := by rw [h.1]
  refine ⟨?_, ?_, fun i => ?_, ?_, fun n _ hn => h.2.2 n hn⟩
  · rw [h.1]
  · rw [hhru]
  · rw [Engine.sub_congr hhru]
    exact (e.sub i).acked_refl
  · rw [h.1]

theorem AckOnly.malformed (e : Engine) : AckOnly e (e.bump Cnt.hruMalformed) :=
  ⟨rfl, .refl _, fun i => (e.sub i).acked_refl, List.suffix_refl _, fun _ hn _ => Engine.count_bump_ne e hn⟩

theorem AckOnly.rafter_eq (h : AckOnly e e') : e'.rafter = e.rafter := by rw [h.frame]
theorem AckOnly.req_eq (h : AckOnly e e') (k : Nat) : e'.req? k = e.req? k := by rw [h.frame]; rfl
theorem AckOnly.adm_eq (h : AckOnly e e') : e'.adm = e.adm := by rw [h.frame]
theorem AckOnly.var_eq (h : AckOnly e e') : e'.var = e.var := by rw [h.frame]
theorem AckOnly.pgm_eq (h : AckOnly e e') : e'.pgm = e.pgm := by rw [h.frame]
theorem AckOnly.stop_eq (h : AckOnly e e') : e'.stop = e.stop := by rw [h.frame]
theorem AckOnly.slots_eq (h : AckOnly e e') : e'.slots = e.slots := by rw [h.frame]

/-- What is not staged stays so. -/
theorem AckOnly.staged_none (h : AckOnly e e') {ring pos : Nat} (hnone : e.staged? ring pos = none) : e'.staged? ring pos = none := by
  rw [Engine.staged?, List.find?_eq_none] at hnone ⊢
  exact fun d hd => hnone d (h.staging.subset hd)

theorem AckOnly.unacked (h : AckOnly e e') (i : Nat) : (e'.sub i).unacked.Sublist (e.sub i).unacked := by
  obtain ⟨u, b, hu, hr⟩ := h.subs i
  rw [hr]
  exact hu

end

/-! ### Records -/

section
variable (e : Engine)

/-- Frames are driven, and nothing else. -/
theorem Engine.foldl_emit : ∀ (l : List Output) (e : Engine), l.foldl Engine.emit e = { e with out := l.reverse ++ e.out }
  | [], _ => rfl
  | x :: l, e => by
    rw [List.foldl_cons, Engine.foldl_emit l (e.emit x)]
    simp [Engine.emit]

theorem Engine.send_out (type dst step : Nat) (body : List Byte) :
    ∃ l, e.send type dst step body = { e with out := l ++ e.out } := by
  have hlinks : ∀ peers up, ∃ l, e.onLinks peers up type dst step body = { e with out := l ++ e.out } :=
    fun peers up => ⟨_, Engine.foldl_emit _ e⟩
  unfold Engine.send Engine.post
  split
  · split
    · exact hlinks _ _
    · split
      split
      · exact ⟨[], rfl⟩
      · exact hlinks _ _
  · exact ⟨[], rfl⟩

/-- The event mirror numbers an EVENT and drives its frames. -/
theorem Engine.mirrorEvent_frame (kind : Nat) (payload : List Byte) :
    ∃ n l, e.mirrorEvent kind payload = { e with flt := { e.flt with eventSeq := n }, out := l ++ e.out } := by
  unfold Engine.mirrorEvent
  split
  · obtain ⟨l, hl⟩ := e.send_out 0x0B (e.partner.getD noRank) e.stepNo (eventBody kind e.flt.eventSeq payload)
    exact ⟨(e.flt.eventSeq + 1) % 65536, l, by rw [hl]⟩
  · exact ⟨e.flt.eventSeq, [], rfl⟩

theorem Engine.mirrorEvent_ackOnly (kind : Nat) (payload : List Byte) : AckOnly e (e.mirrorEvent kind payload) := by
  obtain ⟨n, l, h⟩ := e.mirrorEvent_frame kind payload
  rw [h]
  exact ⟨rfl, .refl _, fun i => SubRing.acked_refl _, List.suffix_append l e.out, fun _ _ _ => rfl⟩

theorem Engine.mirrorEvent_off {e : Engine} (h : e.mirrors = false) (kind : Nat) (payload : List Byte) : e.mirrorEvent kind payload = e := by
  simp [Engine.mirrorEvent, h]

/-- A record that is no token event marks no position delivered. -/
theorem Engine.markDelivered_plain {e : Engine} {x : EventRecord} (h : x.rtype ≠ 2) : e.markDelivered x = e := by
  simp [Engine.markDelivered, h]

theorem Engine.putRecord_ackOnly {x : EventRecord} (h : x.rtype ≠ 2) : AckOnly e (e.putRecord x) := by
  unfold Engine.putRecord
  extract_lets r control record e1 tail e2 e3
  split
  · exact (e.log_only _ _).ackOnly
  · have h1 : AckOnly e e1 := by
      dsimp only [e1]
      rw [Engine.markDelivered_plain h]
      exact .emit e _
    have h2 : AckOnly e e2 := h1.trans (.putEvt e1 _ _)
    have h3 : AckOnly e e3 := by
      dsimp only [e3]
      split
      · exact h2
      · exact h2.trans (.emit e2 _)
    split
    · exact (h3.trans (.putEvt e3 _ _)).trans (.emit _ _)
    · exact h3

theorem Engine.writeRecord_ackOnly {x : EventRecord} (h : x.rtype ≠ 2) : AckOnly e (e.writeRecord x) := by
  unfold Engine.writeRecord Engine.passRecord
  extract_lets behind
  split
  · exact .of_hru rfl rfl
  · split
    · exact .refl e
    · split
      · exact e.putRecord_ackOnly h
      · exact .of_hru rfl rfl

/-! ### One acknowledgement, and those whose turn it makes -/

theorem Engine.finishClose_ackOnly (i : Nat) : AckOnly e (e.finishClose i) := by
  unfold Engine.finishClose
  extract_lets r
  split
  · exact .putSub ⟨r.unacked, false, .refl _, rfl⟩
  · exact .refl e

/-- The mirror's EVENT of an acknowledgement, and the count of a MALFORMED one. -/
def Engine.ackMarks (e : Engine) (d : Staged) (status : Nat) : Engine :=
  let e := e.mirrorEvent Mirror.descriptor (leBytes 2 d.ring ++ leBytes 2 d.slot)
  if status = Status.malformed then e.bump Cnt.hruMalformed else e

theorem Engine.ackMarks_spec (d : Staged) (status : Nat) :
    AckOnly e (e.ackMarks d status) ∧ (e.ackMarks d status).hru = e.hru ∧ (e.ackMarks d status).stepNo = e.stepNo := by
  have hmirror := e.mirrorEvent_ackOnly Mirror.descriptor (leBytes 2 d.ring ++ leBytes 2 d.slot)
  obtain ⟨n, l, h⟩ := e.mirrorEvent_frame Mirror.descriptor (leBytes 2 d.ring ++ leBytes 2 d.slot)
  unfold Engine.ackMarks
  extract_lets e1
  have hhru : e1.hru = e.hru ∧ e1.stepNo = e.stepNo := ⟨(congrArg Engine.hru h).trans rfl, (congrArg Engine.stepNo h).trans rfl⟩
  split
  · exact ⟨hmirror.trans (.malformed e1), hhru⟩
  · exact ⟨hmirror, hhru⟩

/-- What an acknowledgement does before its record is written: its reserved entry, and the descriptor's place in its ring and in the
staging store, return. -/
def Engine.ackReturns (e : Engine) (d : Staged) (status : Nat) : Engine :=
  let ev := (e.ackMarks d status).evt (e.ackRingOf d)
  (((e.ackMarks d status).putEvt (e.ackRingOf d) { ev with ackRes := ev.ackRes - 1 }).putSub d.ring
    { e.sub d.ring with unacked := (e.sub d.ring).unacked.erase d.pos }).unstage d.ring d.pos

theorem Engine.ackOne_eq (d : Staged) (handle status qbytes : Nat) :
    e.ackOne d handle status qbytes = (e.ackReturns d status).writeRecord
      { ring := e.ackRingOf d, rtype := 1, body :=
          ackBytes handle d.slot d.ring (d.tag (e.sub d.ring).v2) status d.opcode e.stepNo qbytes } := by
  rw [← (e.ackMarks_spec d status).2.2]
  rfl

/-- The descriptor is staged and outstanding no more. -/
theorem Engine.ackReturns_spec (d : Staged) (status : Nat) :
    AckOnly e (e.ackReturns d status) ∧ (e.ackReturns d status).staged? d.ring d.pos = none ∧
      ((e.ackReturns d status).sub d.ring).unacked = (e.sub d.ring).unacked.erase d.pos := by
  obtain ⟨hmarks, hhru, -⟩ := e.ackMarks_spec d status
  unfold Engine.ackReturns
  extract_lets ev
  have hsub : ((e.ackMarks d status).putEvt (e.ackRingOf d) { ev with ackRes := ev.ackRes - 1 }).sub d.ring = e.sub d.ring :=
    Engine.sub_congr hhru d.ring
  refine ⟨((hmarks.trans (.putEvt _ _ _)).trans (.putSub ?_)).trans (.unstage _ _ _), ?_, ?_⟩
  · rw [hsub]
    exact ⟨_, (e.sub d.ring).closing, List.erase_sublist, rfl⟩
  · rw [Engine.staged?, List.find?_eq_none]
    intro x hx
    simpa only [Bool.not_eq_true, Bool.not_eq_true'] using (List.mem_filter.1 hx).2
  · exact congrArg SubRing.unacked (Engine.sub_putSub_self _ _ _)

theorem Engine.ackOne_ackOnly (d : Staged) (handle status qbytes : Nat) : AckOnly e (e.ackOne d handle status qbytes) := by
  rw [Engine.ackOne_eq]
  exact (e.ackReturns_spec d status).1.trans (Engine.writeRecord_ackOnly _ (by decide : 1 ≠ 2))

theorem Engine.settleFailed_ackOnly (i : Nat) : ∀ (n : Nat) (e : Engine), AckOnly e (Engine.settleFailed i n e)
  | 0, e => .refl e
  | n + 1, e => by
    unfold Engine.settleFailed
    split
    · exact .refl e
    · split
      · exact (e.ackOne_ackOnly _ _ _ _).trans (Engine.settleFailed_ackOnly i n _)
      · exact .refl e

/-- What follows an acknowledgement's own record touches no more than an acknowledgement does. -/
theorem Engine.ackWith_after (d : Staged) (handle status qbytes : Nat) :
    AckOnly (e.ackOne d handle status qbytes) (e.ackWith d handle status qbytes) :=
  (Engine.settleFailed_ackOnly _ _ _).trans (Engine.finishClose_ackOnly _ _)

theorem Engine.ackWith_ackOnly (d : Staged) (handle status qbytes : Nat) : AckOnly e (e.ackWith d handle status qbytes) :=
  (e.ackOne_ackOnly d handle status qbytes).trans (e.ackWith_after d handle status qbytes)

theorem Engine.ack_ackOnly (d : Staged) (status : Nat) : AckOnly e (e.ack d status) := e.ackWith_ackOnly _ _ _ _

theorem Engine.ackAt_ackOnly (at_ : Option (Nat × Nat)) (status : Nat) : AckOnly e (e.ackAt at_ status) := by
  unfold Engine.ackAt
  split
  · exact .refl e
  · split
    · exact .refl e
    · exact e.ack_ackOnly _ _

theorem Engine.ackWaiting_ackOnly (handle : Handle) (opcode status : Nat) : AckOnly e (e.ackWaiting handle opcode status) :=
  .foldl (fun e _ => e.ack_ackOnly _ _) _ e

/-- An acknowledged descriptor is staged no more. -/
theorem Engine.ackWith_unstaged (d : Staged) (handle status qbytes : Nat) :
    (e.ackWith d handle status qbytes).staged? d.ring d.pos = none ∧
      ((e.ackWith d handle status qbytes).sub d.ring).unacked.Sublist ((e.sub d.ring).unacked.erase d.pos) := by
  obtain ⟨-, hnone, hun⟩ := e.ackReturns_spec d status
  have hafter : AckOnly (e.ackReturns d status) (e.ackWith d handle status qbytes) := by
    refine .trans ?_ (e.ackWith_after d handle status qbytes)
    rw [Engine.ackOne_eq]
    exact Engine.writeRecord_ackOnly _ (by decide : 1 ≠ 2)
  refine ⟨hafter.staged_none hnone, ?_⟩
  rw [← hun]
  exact hafter.unacked d.ring

/-! ### An acknowledgement on an open ring (R48, R49) -/

/-- An event ring whose reservations change is open as before, and another is not touched. -/
theorem Engine.putEvt_ringKept (j k : Nat) (r : EvtRing) (hon : r.enabled = (e.evt j).enabled) (htail : r.tail = (e.evt j).tail)
    (hphase : r.phase = (e.evt j).phase) : RingKept k e (e.putEvt j r) := by
  unfold RingKept Engine.ringOpen
  by_cases hk : k = j
  · rw [hk, Engine.evt_putEvt_self, hon]
    exact ⟨id, htail, hphase⟩
  · rw [Engine.evt_putEvt_ne _ _ hk]
    exact ⟨id, rfl, rfl⟩

/-- Submission rings and staging stand apart from the event rings. -/
theorem RingKept.of_evts {e e' : Engine} (k : Nat) (hev : e'.hru.evts = e.hru.evts) (hg : e'.hru.gated = e.hru.gated)
    (hc : e'.hru.credit = e.hru.credit) (hm : e'.mdv = e.mdv) (hr : e'.regs = e.regs) (he : e'.err = e.err) : RingKept k e e' := by
  simp only [RingKept, Engine.ringOpen, Engine.mirrors_congr hm hr, Engine.evt, hev, hg, hc, he, and_self, imp_self]

/-- Returning the entry leaves every event ring open that was, at its slot and phase. -/
theorem Engine.ackReturns_ringKept {e : Engine} (d : Staged) (status k : Nat) (h : e.mirrors = false) :
    RingKept k e (e.ackReturns d status) := by
  have hmarks : RingKept k e (e.ackMarks d status) := by
    unfold Engine.ackMarks
    rw [Engine.mirrorEvent_off h]
    extract_lets e1
    split <;> exact .of_eq k rfl rfl rfl rfl
  unfold Engine.ackReturns
  extract_lets ev
  exact (hmarks.trans (Engine.putEvt_ringKept _ (e.ackRingOf d) k { ev with ackRes := ev.ackRes - 1 } rfl rfl rfl)).trans
    (.of_evts k rfl rfl rfl rfl rfl rfl)

/-- On an open ring an acknowledgement stands in the next slot. -/
theorem Engine.acked_ackWith {e : Engine} {d : Staged} (h : e.ringOpen (e.ackRingOf d)) (status qbytes : Nat) :
    e.acked (e.ackWith d (d.handle (e.sub d.ring).v2) status qbytes) d status qbytes := by
  obtain ⟨hunstaged, hun⟩ := e.ackWith_unstaged d (d.handle (e.sub d.ring).v2) status qbytes
  refine ⟨?_, hunstaged, hun⟩
  have hkept := e.ackReturns_ringKept d status (e.ackRingOf d) h.1
  have hopen := hkept.1 h
  have hone : (e.ackReturns d status).wrote (e.ackOne d (d.handle (e.sub d.ring).v2) status qbytes) (e.ackRecord d status qbytes) := by
    rw [Engine.ackOne_eq]
    exact Engine.writeRecord_open (x := e.ackRecord d status qbytes) hopen ▸ (Engine.putRecord_spec hopen.2.2.2.2).2.2
  exact RingKept.wrote hkept ((e.ackWith_after d _ status qbytes).out.subset hone)

theorem Engine.acked_ack {e : Engine} {d : Staged} (h : e.ringOpen (e.ackRingOf d)) (status : Nat) :
    e.acked (e.ack d status) d status 0 := Engine.acked_ackWith h status 0

end

/-! ### Acknowledgements of engines that differ elsewhere -/

/-- e' has the rings, the roles and the step number of e, so that it acknowledges as e does. -/
structure AcksAlike (e e' : Engine) : Prop where
  subs : e'.hru.subs = e.hru.subs
  evts : e'.hru.evts = e.hru.evts
  gated : e'.hru.gated = e.hru.gated
  credit : e'.hru.credit = e.hru.credit
  mirrors : e'.mirrors = e.mirrors
  fatal : e'.err.fatal = e.err.fatal
  stepNo : e'.stepNo = e.stepNo

section
variable {a b c e e' t : Engine} {d : Staged}

theorem AcksAlike.refl (e : Engine) : AcksAlike e e := ⟨rfl, rfl, rfl, rfl, rfl, rfl, rfl⟩

theorem AcksAlike.trans (h : AcksAlike a b) (k : AcksAlike b c) : AcksAlike a c :=
  ⟨k.subs.trans h.subs, k.evts.trans h.evts, k.gated.trans h.gated, k.credit.trans h.credit, k.mirrors.trans h.mirrors,
    k.fatal.trans h.fatal, k.stepNo.trans h.stepNo⟩

theorem AcksAlike.of_eq (hh : e'.hru = e.hru) (hm : e'.mdv = e.mdv) (hr : e'.regs = e.regs) (he : e'.err = e.err)
    (hs : e'.stepNo = e.stepNo) : AcksAlike e e' :=
  ⟨by rw [hh], by rw [hh], by rw [hh], by rw [hh], Engine.mirrors_congr hm hr, by rw [he], hs⟩

theorem AcksAlike.sub_eq (h : AcksAlike e e') (i : Nat) : e'.sub i = e.sub i := by rw [Engine.sub, Engine.sub, h.subs]
theorem AcksAlike.evt_eq (h : AcksAlike e e') (i : Nat) : e'.evt i = e.evt i := by rw [Engine.evt, Engine.evt, h.evts]

theorem AcksAlike.ringOpen (h : AcksAlike e e') {k : Nat} (hopen : e.ringOpen k) : e'.ringOpen k := by
  simpa only [Engine.ringOpen, h.mirrors, h.gated, h.credit, h.fatal, h.evt_eq] using hopen

theorem AcksAlike.ackRingOf_eq (h : AcksAlike e e') (d : Staged) : e'.ackRingOf d = e.ackRingOf d := by
  rw [Engine.ackRingOf, Engine.ackRingOf, h.sub_eq]

/-- What e' has acknowledged, e has. -/
theorem AcksAlike.acked (h : AcksAlike e e') {status qbytes : Nat} (k : e'.acked t d status qbytes) : e.acked t d status qbytes := by
  simpa only [Engine.acked, Engine.wrote, Engine.recordWord, Engine.ackRecord, Engine.ackRingOf, h.sub_eq, h.evt_eq, h.stepNo] using k

/-- An acknowledgement after changes elsewhere. -/
theorem AcksAlike.ack (h : AcksAlike e e') (hopen : e.ringOpen (e.ackRingOf d)) (status : Nat) :
    e.acked (e'.ack d status) d status 0 := by
  refine h.acked (Engine.acked_ack ?_ status)
  rw [h.ackRingOf_eq]
  exact h.ringOpen hopen

/-- What was acknowledged stays so when acknowledgements follow. -/
theorem Engine.acked.after {status qbytes : Nat} (h : e.acked t d status qbytes) (k : AckOnly t e') : e.acked e' d status qbytes := by
  obtain ⟨hwrote, hnone, hun⟩ := h
  exact ⟨k.out.subset hwrote, k.staged_none hnone, (k.unacked d.ring).trans hun⟩

end

end Sys2Proof.Machine
end

section
/-!
# Decoding

The next descriptor of a ring: what fails its checks is acknowledged so, and what passes them does what its row says (R37 to R41).
-/

namespace Sys2Proof.Machine

/-! ### The descriptor that is decoded next -/

section
variable {e : Engine} {i st : Nat} {d : Staged} {isRow : Staged → Bool} {f : Staged → Engine → Engine}

theorem Engine.nextDue_mem (h : e.nextDue i = some d) : d ∈ e.hru.staging ∧ d.ring = i := by
  unfold Engine.nextDue at h
  split at h
  · cases h
  · next d' hfind =>
    split at h
    · obtain rfl : d' = d := Option.some.inj h
      simpa using List.mem_of_find?_eq_some hfind
    · cases h

theorem Engine.decode_failed (h : e.nextDue i = some d) (hrow : isRow d = true) (hck : e.checkUpTo6 d = some st) :
    e.decode i isRow f = (e.ack d st).finishClose i := by
  simp only [Engine.decode, h, hrow, hck, Bool.not_true, Bool.false_eq_true, if_false]

theorem Engine.decode_passed (h : e.nextDue i = some d) (hrow : isRow d = true) (hck : e.checkUpTo6 d = none) :
    e.decode i isRow f = (f d e).finishClose i := by
  simp only [Engine.decode, h, hrow, hck, Bool.not_true, Bool.false_eq_true, if_false]

/-- A descriptor that fails is acknowledged, and nothing but its acknowledgement happens. -/
theorem Engine.decode_acks (h : e.nextDue i = some d) (hrow : isRow d = true) (hck : e.checkUpTo6 d = some st)
    (hopen : e.ringOpen (e.ackRingOf d)) : e.acked (e.decode i isRow f) d st 0 ∧ AckOnly e (e.decode i isRow f) := by
  rw [Engine.decode_failed h hrow hck]
  have hclose := (e.ack d st).finishClose_ackOnly i
  exact ⟨(Engine.acked_ack hopen st).after hclose, (e.ack_ackOnly d st).trans hclose⟩

end

/-! ### A descriptor replaced in the staging store -/

section
variable {e : Engine} {d d0 : Staged}

theorem Engine.staged?_restage (hmem : d0 ∈ e.hru.staging) (hring : d0.ring = d.ring) (hpos : d0.pos = d.pos) :
    (e.restage d).staged? d.ring d.pos = some d := by
  have hcomp : ((fun x : Staged => x.ring == d.ring && x.pos == d.pos) ∘
      fun x : Staged => if x.ring == d.ring && x.pos == d.pos then d else x) = fun x => x.ring == d.ring && x.pos == d.pos := by
    funext x
    by_cases hx : (x.ring == d.ring && x.pos == d.pos) = true
    · simp only [Function.comp_apply, hx, if_true, beq_self_eq_true, Bool.and_self]
    · simp only [Function.comp_apply, if_neg hx]
  rw [Engine.staged?, Engine.restage, List.find?_map, hcomp]
  obtain ⟨y, hy⟩ : ∃ y, e.hru.staging.find? (fun x => x.ring == d.ring && x.pos == d.pos) = some y := by
    rw [← Option.isSome_iff_exists, List.find?_isSome]
    exact ⟨d0, hmem, by simp [hring, hpos]⟩
  rw [hy, Option.map_some, if_pos (by simpa using List.find?_some hy)]

theorem SubOnly.staged?_eq {i : Nat} {e e' : Engine} (h : SubOnly i e e') (ring pos : Nat) : e'.staged? ring pos = e.staged? ring pos := by
  rw [Engine.staged?, h.staging_eq, Engine.staged?]

end

/-! ### NOP and FENCE (R37, R39, R55) -/

theorem exec_nop {s : State} (h : s.receives Isl.hi) (i : BitVec 12) :
    exec (.nop i) s = .next { s with eng := s.seen.decode i.toNat (fun d => d.opcode == 0x00) (fun d e => e.ack d Status.ok) } :=
  State.cross_receives h _ _

theorem exec_fence {s : State} (h : s.receives Isl.sb) (i : BitVec 12) :
    exec (.fence i) s = .next { s with
      eng := s.seen.decode i.toNat (fun d => d.opcode == 0x3F && d.f 16 0 1 == 0) (fun d e => e.ack d Status.ok) } :=
  State.cross_receives h _ _

theorem exec_fenceBoundary {s : State} (h : s.receives Isl.sb) (i : BitVec 12) :
    exec (.fenceBoundary i) s = .next { s with
      eng := s.seen.decode i.toNat (fun d => d.opcode == 0x3F && d.f 16 0 1 == 1) (fun d e => e.restage { d with phase := .fenced false }) } :=
  State.cross_receives h _ _

/-- A row that acknowledges OK does nothing else. -/
theorem Engine.decode_ok {e : Engine} {i opcode : Nat} {d : Staged} {isRow : Staged → Bool} (h : e.decodes i d opcode)
    (hrow : isRow d = true) (hopen : e.ringOpen (e.ackRingOf d)) :
    e.acked (e.decode i isRow fun d e => e.ack d Status.ok) d Status.ok 0 ∧
      AckOnly e (e.decode i isRow fun d e => e.ack d Status.ok) := by
  obtain ⟨hnext, -, hck⟩ := h
  rw [Engine.decode_passed hnext hrow hck]
  have hclose := (e.ack d Status.ok).finishClose_ackOnly i
  exact ⟨(Engine.acked_ack hopen Status.ok).after hclose, (e.ack_ackOnly d Status.ok).trans hclose⟩

/-- Settles O33: NOP and FENCE come to an acknowledgement alone, and a FENCE with BOUNDARY to its new phase. -/
theorem nopsAndFences : Obligations.NopsAndFences := by
  refine ⟨fun s i d hs hopen hd => ?_, fun s i d hs hopen hd hb => ?_, fun s i d hs hd hb => ?_⟩
  · obtain ⟨hack, honly⟩ := Engine.decode_ok (e := s.seen) (isRow := fun d => d.opcode == 0x00) hd (by simp [hd.2.1]) hopen
    exact ⟨_, exec_nop hs i, hack, honly.rafter_eq, honly.adm_eq, honly.var_eq, honly.pgm_eq⟩
  · obtain ⟨hack, honly⟩ := Engine.decode_ok (e := s.seen) (isRow := fun d => d.opcode == 0x3F && d.f 16 0 1 == 0) hd
      (by simp [hd.2.1, hb]) hopen
    exact ⟨_, exec_fence hs i, hack, honly.rafter_eq, honly.adm_eq, honly.var_eq, honly.pgm_eq⟩
  · obtain ⟨hnext, hop, hck⟩ := hd
    have hrun := Engine.decode_passed (e := s.seen) (isRow := fun d => d.opcode == 0x3F && d.f 16 0 1 == 1)
      (f := fun d e => e.restage { d with phase := .fenced false }) hnext (by simp [hop, hb]) hck
    have hclose := ((s.seen.restage { d with phase := .fenced false }).finishClose_spec i.toNat).1
    refine ⟨_, exec_fenceBoundary hs i, ?_⟩
    dsimp only
    rw [hrun, hclose.staged?_eq, hclose.out_eq, hclose.rafter_eq]
    exact ⟨Engine.staged?_restage (d := { d with phase := .fenced false }) (Engine.nextDue_mem (e := s.seen) hnext).1 rfl rfl, rfl, rfl⟩

/-! ### A descriptor that fails, whatever its row (R38, R40, R41, R49, R65) -/

theorem exec_queryRing {s : State} (h : s.serves Isl.hi) (i : BitVec 12) :
    exec (.queryRing i) s =
      .next { s with eng := s.seen.decode i.toNat (fun d => d.opcode == 0x30 && d.f 16 0 8 == 5) Engine.queryRingDesc } :=
  State.actIn_serves h fun e => e.decode i.toNat (fun d => d.opcode == 0x30 && d.f 16 0 8 == 5) Engine.queryRingDesc

/-- What O32 states of one row. -/
def actsOnNothing (s : State) (d : Staged) (st : Nat) (c : Instr) : Prop :=
  ∃ t, exec c s = .next t ∧ s.eng.acked t.eng d st 0 ∧ t.eng.rafter = s.eng.rafter ∧ t.eng.adm = s.eng.adm ∧
    t.eng.var = s.eng.var ∧ t.eng.stop = s.eng.stop ∧ t.eng.pgm = s.eng.pgm

/-- A row whose descriptor fails its checks. -/
theorem actsOnNothing_of_decode {s : State} {i st : Nat} {d : Staged} {c : Instr} {isRow : Staged → Bool} {f : Staged → Engine → Engine}
    (hnext : s.eng.nextDue i = some d) (hck : s.eng.checkUpTo6 d = some st) (hopen : s.eng.ringOpen (s.eng.ackRingOf d))
    (hc : exec c s = .next { s with eng := s.seen.decode i isRow f }) (hrow : isRow d = true) : actsOnNothing s d st c := by
  obtain ⟨hack, honly⟩ := Engine.decode_acks (e := s.seen) (f := f) hnext hrow hck hopen
  exact ⟨_, hc, hack, honly.rafter_eq, honly.adm_eq, honly.var_eq, honly.stop_eq, honly.pgm_eq⟩

/-- Settles O32: every row decodes alike up to check 6. -/
theorem descriptorsThatFailActOnNothing : Obligations.DescriptorsThatFailActOnNothing := by
  intro s i d st c hhi hsb hpg hnext hck hopen hc
  have hdone : ∀ {c : Instr} {isRow : Staged → Bool} {f : Staged → Engine → Engine},
      exec c s = .next { s with eng := s.seen.decode i.toNat isRow f } → isRow d = true → actsOnNothing s d st c :=
    actsOnNothing_of_decode hnext hck hopen
  have hsbRow : ∀ (c : Instr) (f : Engine → Engine), s.cross Isl.sb c f = .next { s with eng := f s.seen } := State.cross_receives hsb
  have hpgRow : ∀ (c : Instr) (f : Engine → Engine), s.cross Isl.pg c f = .next { s with eng := f s.seen } := State.cross_receives hpg
  rcases hc with ⟨rfl, hop⟩ | ⟨rfl, hop⟩ | ⟨rfl, hop⟩ | ⟨rfl, hop⟩ | ⟨rfl, hop⟩ | ⟨rfl, hop⟩ | ⟨rfl, hop⟩ | ⟨rfl, hop⟩ | ⟨rfl, hop⟩ |
    ⟨rfl, hop, hf⟩ | ⟨rfl, hop, hf⟩ | ⟨rfl, hop, hf⟩ | ⟨rfl, hop, hf⟩ | ⟨rfl, hop⟩ | ⟨rfl, hop⟩ | ⟨rfl, hop, hf⟩ | ⟨rfl, hop, hf⟩ |
    ⟨rfl, hop, hf⟩ | ⟨rfl, hop, hf⟩ | ⟨rfl, hop, hf⟩ | ⟨rfl, hop, hf⟩
  · exact hdone (hsbRow (.submit i) _) (by simp [hop])
  · exact hdone (hsbRow (.append i) _) (by simp [hop])
  · exact hdone (hsbRow (.cancel i) _) (by simp [hop])
  · exact hdone (hsbRow (.pause i) _) (by simp [hop])
  · exact hdone (hsbRow (.resume i) _) (by simp [hop])
  · exact hdone (hsbRow (.release i) _) (by simp [hop])
  · exact hdone (exec_nop hhi i) (by simp [hop])
  · exact hdone (hpgRow (.additionLoad i) _) (by simp [hop])
  · exact hdone (hpgRow (.additionRetire i) _) (by simp [hop])
  · exact hdone (hpgRow (.prefixLoad i) _) (by simp [hop, hf])
  · exact hdone (hpgRow (.prefixRetire i) _) (by simp [hop, hf])
  · exact hdone (hpgRow (.familyConfig i) _) (by simp [hop, hf])
  · exact hdone (hpgRow (.familyRemove i) _) (by simp [hop, hf])
  · exact hdone (hsbRow (.tenantSet i) _) (by simp [hop])
  · exact hdone (hsbRow (.queryRequest i) _) hop
  · exact hdone (hsbRow (.queryTenant i) _) (by simp [hop, hf])
  · exact hdone (hpgRow (.queryFamily i) _) (by simp [hop, hf])
  · exact hdone (hpgRow (.queryAddition i) _) (by simp [hop, hf])
  · exact hdone (exec_queryRing hhi.1 i) (by simp [hop, hf])
  · exact hdone (exec_fence hsb i) (by simp [hop, hf])
  · exact hdone (exec_fenceBoundary hsb i) (by simp [hop, hf])

end Sys2Proof.Machine
end

section
/-!
# SUBMIT

A SUBMIT whose reads are done opens an entry, or is acknowledged with the check it fails (R42, R64, R66, R70, R72, R84).
-/

namespace Sys2Proof.Machine

theorem exec_submit {s : State} (h : s.receives Isl.sb) (i : BitVec 12) :
    exec (.submit i) s = .next { s with eng := s.seen.decode i.toNat (fun d => d.opcode == 0x01) Engine.submitDesc } :=
  State.cross_receives h _ _

section
variable {e : Engine} {d : Staged} {x : SubmitReq} {data : ListRead} {slot : Nat} {free : FreeList}

@[simp] theorem Engine.req?_putReq_self (e : Engine) (slot : Nat) (r : Rafter) : (e.putReq slot r).req? slot = some r :=
  Table.get?_put_self _ _ _

theorem Engine.req?_putReq_ne (e : Engine) {j slot : Nat} (r : Rafter) (h : j ≠ slot) : (e.putReq slot r).req? j = e.req? j :=
  Table.get?_put_ne _ _ h

/-- Hashes go to the page manager's stage. -/
theorem Engine.stageHashes_frame (e : Engine) (slot : Nat) (hs : List (Nat × BitVec 64)) :
    ∃ p c, e.stageHashes slot hs = { e with pgm := p, cnt := c } := by
  unfold Engine.stageHashes
  extract_lets room kept e1
  split
  · exact ⟨_, _, rfl⟩
  · exact ⟨_, _, rfl⟩

/-- A SUBMIT that passes takes the head slot, becomes the last candidate, and waits. -/
theorem Engine.submitTake_spec (hslot : e.slots.take = some (slot, free)) : ∃ p c, e.submitTake d x data = { e with
    slots := free, adm := { e.adm with candidates := e.adm.candidates ++ [slot] },
    rafter := Table.put e.rafter slot (e.newEntry slot d x data),
    hru := (e.restage { d with phase := .admitting slot }).hru, pgm := p, cnt := c } := by
  simp only [Engine.submitTake, hslot]
  split
  · exact ⟨e.pgm, e.cnt, rfl⟩
  · obtain ⟨p, c, h⟩ := Engine.stageHashes_frame
      ((({ e with slots := free, adm := { e.adm with candidates := e.adm.candidates ++ [slot] } } : Engine).putReq slot
        (e.newEntry slot d x data)).restage { d with phase := .admitting slot }) slot (e.newEntry slot d x data).hashes
    exact ⟨p, c, h⟩

theorem Engine.submitDesc_passes (hreads : d.reads = .done data) (hck : e.submitCheck d (d.submitOf (e.sub d.ring)) data = none) :
    Engine.submitDesc d e = e.submitTake d (d.submitOf (e.sub d.ring)) data := by
  simp only [Engine.submitDesc, hreads, hck]

theorem Engine.submitDesc_fails {st : Nat} (hreads : d.reads = .done data)
    (hck : e.submitCheck d (d.submitOf (e.sub d.ring)) data = some st) : Engine.submitDesc d e = e.ack d st := by
  simp only [Engine.submitDesc, hreads, hck]

/-- The SUBMIT that is decoded next opens its entry. -/
theorem Engine.decode_submit_opens {i : Nat} (hd : e.decodes i d 1) (hreads : d.reads = .done data)
    (hck : e.submitCheck d (d.submitOf (e.sub d.ring)) data = none) (hslot : e.slots.take = some (slot, free)) {t : Engine}
    (ht : t = e.decode i (fun d => d.opcode == 0x01) Engine.submitDesc) :
    t.slots = free ∧ t.adm.candidates = e.adm.candidates ++ [slot] ∧
      t.req? slot = some (e.newEntry slot d (d.submitOf (e.sub d.ring)) data) ∧
      t.staged? d.ring d.pos = some { d with phase := .admitting slot } ∧
      (∀ j, j ≠ slot → t.req? j = e.req? j) ∧ t.out = e.out ∧ t.gens = e.gens := by
  obtain ⟨hnext, hop, hpass⟩ := hd
  rw [Engine.decode_passed hnext (by simp [hop]) hpass, Engine.submitDesc_passes hreads hck] at ht
  obtain ⟨p, c, htake⟩ := Engine.submitTake_spec (e := e) (d := d) (x := d.submitOf (e.sub d.ring)) (data := data) hslot
  have hclose := ((e.submitTake d (d.submitOf (e.sub d.ring)) data).finishClose_spec i).1
  rw [← ht, htake] at hclose
  rw [hclose.staged?_eq, hclose.out_eq, Engine.req?, hclose.rafter_eq]
  have hother : ∀ j, t.req? j = Table.get? (Table.put e.rafter slot (e.newEntry slot d (d.submitOf (e.sub d.ring)) data)) j := by
    intro j
    rw [Engine.req?, hclose.rafter_eq]
  refine ⟨?_, ?_, Table.get?_put_self _ _ _, ?_, fun j hj => ?_, rfl, ?_⟩
  · rw [hclose.2]
  · rw [hclose.2]
  · exact Engine.staged?_restage (d := { d with phase := .admitting slot }) (Engine.nextDue_mem hnext).1 rfl rfl
  · rw [hother, Table.get?_put_ne _ _ hj]
    rfl
  · rw [hclose.2]

/-- One that fails is acknowledged, and nothing else. -/
theorem Engine.decode_submit_fails {i st : Nat} (hd : e.decodes i d 1) (hreads : d.reads = .done data)
    (hck : e.submitCheck d (d.submitOf (e.sub d.ring)) data = some st) (hopen : e.ringOpen (e.ackRingOf d)) {t : Engine}
    (ht : t = e.decode i (fun d => d.opcode == 0x01) Engine.submitDesc) : e.acked t d st 0 ∧ AckOnly e t := by
  obtain ⟨hnext, hop, hpass⟩ := hd
  rw [Engine.decode_passed hnext (by simp [hop]) hpass, Engine.submitDesc_fails hreads hck] at ht
  subst ht
  have hclose := (e.ack d st).finishClose_ackOnly i
  exact ⟨(Engine.acked_ack hopen st).after hclose, (e.ack_ackOnly d st).trans hclose⟩

end

/-- Settles O35: a SUBMIT whose reads are done opens its entry or is acknowledged with the status of the check it fails. -/
theorem submitsOpenAnEntry : Obligations.SubmitsOpenAnEntry := by
  refine ⟨fun s i d data slot free hs hd hreads hck hslot => ?_, fun s i d data st hs hd hreads hck hopen => ?_⟩
  · exact ⟨_, exec_submit hs i, Engine.decode_submit_opens (e := s.seen) hd hreads hck hslot rfl⟩
  · obtain ⟨hack, honly⟩ := Engine.decode_submit_fails (e := s.seen) hd hreads hck hopen rfl
    exact ⟨_, exec_submit hs i, hack, honly.rafter_eq, honly.slots_eq, honly.adm_eq⟩

end Sys2Proof.Machine
end

section
/-!
# Records of the event rings

Records stay staged without write credit and are written in order with it; moderation and stalls raise a ring's vector (R48, R54, R61).
-/

namespace Sys2Proof.Machine

theorem exec_hostWriteCreditTimeout {s : State} (h : s.serves Isl.hi) :
    exec .hostWriteCreditTimeout s = .next { s with eng := s.seen.creditTimeout } := State.actIn_serves h _

theorem exec_hostWriteCreditReturn {s : State} (h : s.receives Isl.hi) :
    exec .hostWriteCreditReturn s = .next { s with eng := s.seen.creditReturn } := State.cross_receives h _ _

theorem exec_modTimeExpiry {s : State} (h : s.serves Isl.hi) (i : BitVec 12) :
    exec (.modTimeExpiry i) s = .next { s with eng := s.seen.moderate i.toNat } := State.actIn_serves h fun e => e.moderate i.toNat

theorem exec_eventRingStallTimeout {s : State} (h : s.serves Isl.hi) (i : BitVec 12) :
    exec (.eventRingStallTimeout i) s = .next { s with eng := s.seen.ringStall i.toNat } := State.actIn_serves h fun e => e.ringStall i.toNat

/-! ### Without write credit (R61) -/

/-- Write credit alone stands between a record and its ring. -/
def Engine.creditless (e : Engine) : Prop := e.mirrors = false ∧ e.hru.gated = [] ∧ e.hru.credit = false ∧ e.err.fatal = false

/-- e' is e with records more staged, and places returned to the rings and the staging store. -/
def Withheld (e e' : Engine) (more : List EventRecord) : Prop :=
  e' = { e with cnt := e'.cnt, hru := { e.hru with
    subs := e'.hru.subs, evts := e'.hru.evts, staging := e'.hru.staging, unwritten := e.hru.unwritten ++ more } }

section
variable {a b c e e' : Engine} {l m : List EventRecord}

theorem Withheld.refl (e : Engine) : Withheld e e [] := by
  rw [Withheld, List.append_nil]

theorem Withheld.trans (h : Withheld a b l) (k : Withheld b c m) : Withheld a c (l ++ m) := by
  rw [Withheld] at h k ⊢
  rw [k, h, ← List.append_assoc]

theorem Withheld.creditless (h : Withheld a b l) (k : a.creditless) : b.creditless := by
  rw [h]
  exact k

theorem Engine.writeRecord_withheld (h : e.creditless) (x : EventRecord) : Withheld e (e.writeRecord x) [x] := by
  obtain ⟨hmirrors, hgated, hcredit, hfatal⟩ := h
  simp [Withheld, Engine.writeRecord, Engine.passRecord, hmirrors, hgated, hcredit, hfatal]

theorem Engine.ackReturns_withheld (h : e.mirrors = false) (d : Staged) (status : Nat) : Withheld e (e.ackReturns d status) [] := by
  have hmarks : Withheld e (e.ackMarks d status) [] := by
    unfold Engine.ackMarks
    rw [Engine.mirrorEvent_off h]
    extract_lets e1
    split
    · rw [Withheld, List.append_nil]
      rfl
    · exact .refl e
  refine hmarks.trans (m := []) ?_
  unfold Engine.ackReturns
  generalize e.ackMarks d status = a
  rw [Withheld, List.append_nil]
  rfl

theorem Engine.ackOne_withheld (h : e.creditless) (d : Staged) (handle status qbytes : Nat) :
    Withheld e (e.ackOne d handle status qbytes)
      [{ ring := e.ackRingOf d, rtype := 1, body :=
          ackBytes handle d.slot d.ring (d.tag (e.sub d.ring).v2) status d.opcode e.stepNo qbytes }] := by
  rw [Engine.ackOne_eq]
  have hret := Engine.ackReturns_withheld h.1 d status
  exact hret.trans (Engine.writeRecord_withheld (hret.creditless h) _)

theorem Engine.finishClose_withheld (e : Engine) (i : Nat) : Withheld e (e.finishClose i) [] := by
  unfold Engine.finishClose
  extract_lets r
  split
  · rw [Withheld, List.append_nil]
    rfl
  · exact .refl e

theorem Engine.settleFailed_withheld (i : Nat) : ∀ (n : Nat) {e : Engine}, e.creditless → ∃ more, Withheld e (Engine.settleFailed i n e) more
  | 0, e, _ => ⟨[], .refl e⟩
  | n + 1, e, h => by
    unfold Engine.settleFailed
    split
    · exact ⟨[], .refl e⟩
    · next d _ =>
      split
      · have hone := Engine.ackOne_withheld h d (d.handle (e.sub i).v2) Status.malformed 0
        obtain ⟨more, hmore⟩ := Engine.settleFailed_withheld i n (hone.creditless h)
        exact ⟨_, hone.trans hmore⟩
      · exact ⟨[], .refl e⟩

/-- An acknowledgement joins the staged records, perhaps with those whose turn it makes. -/
theorem Engine.ack_withheld (h : e.creditless) (d : Staged) (status : Nat) :
    ∃ more, Withheld e (e.ack d status) (e.ackRecord d status 0 :: more) := by
  have hone := Engine.ackOne_withheld h d (d.handle (e.sub d.ring).v2) status 0
  obtain ⟨more, hmore⟩ := Engine.settleFailed_withheld d.ring
    ((e.ackOne d (d.handle (e.sub d.ring).v2) status 0).sub d.ring).unacked.length (hone.creditless h)
  exact ⟨_, (hone.trans hmore).trans (Engine.finishClose_withheld _ d.ring)⟩

/-- A NOP without write credit. -/
theorem Engine.decode_nop_withheld {i : Nat} {d : Staged} (hd : e.decodes i d 0) (h : e.creditless) :
    ∃ more, (e.decode i (fun d => d.opcode == 0x00) fun d e => e.ack d Status.ok).hru.unwritten =
        e.hru.unwritten ++ e.ackRecord d Status.ok 0 :: more ∧
      (e.decode i (fun d => d.opcode == 0x00) fun d e => e.ack d Status.ok).out = e.out := by
  obtain ⟨hnext, hop, hck⟩ := hd
  obtain ⟨more, hack⟩ := Engine.ack_withheld h d Status.ok
  rw [Engine.decode_passed hnext (by simp [hop]) hck]
  rw [hack.trans ((e.ack d Status.ok).finishClose_withheld i), List.append_nil]
  exact ⟨more, rfl, rfl⟩

end

/-! ### With write credit (R48, R61) -/

section
variable (e : Engine)

theorem Engine.markDelivered_frame (x : EventRecord) : ∃ l, e.markDelivered x = { e with rafter := l } := by
  unfold Engine.markDelivered
  extract_lets handle mark
  split
  · exact ⟨_, rfl⟩
  · exact ⟨e.rafter, rfl⟩

/-- Of the host unit a record written moves its event ring alone, and it leaves the error unit. -/
theorem Engine.putRecord_host (x : EventRecord) :
    (e.putRecord x).hru = { e.hru with evts := (e.putRecord x).hru.evts } ∧ (e.putRecord x).err = e.err := by
  unfold Engine.putRecord
  extract_lets r control record e1 tail e2 e3
  split
  · rw [(e.log_only _ _).1]
    exact ⟨rfl, rfl⟩
  · obtain ⟨l, hl⟩ := (e.emit (.hostRecord x.ring r.tail record)).markDelivered_frame x
    have h2 : e2.hru = { e.hru with evts := e2.hru.evts } ∧ e2.err = e.err := by
      dsimp only [e2, e1]
      rw [hl]
      exact ⟨rfl, rfl⟩
    have h3 : e3.hru = { e.hru with evts := e3.hru.evts } ∧ e3.err = e.err := by
      dsimp only [e3]
      split
      · exact h2
      · exact h2
    obtain ⟨hhru, herr⟩ := h3
    split
    · have hraise : (e3.raiseRing x.ring).hru = { e3.hru with evts := (e3.raiseRing x.ring).hru.evts } := rfl
      exact ⟨by rw [hraise, hhru], herr⟩
    · exact ⟨hhru, herr⟩

/-- A record is all that an enabled ring takes of it: its tail moves on, its phase turns at the wrap. -/
theorem Engine.putRecord_evt {x : EventRecord} (h : (e.evt x.ring).enabled = true) :
    ∃ u f, (e.putRecord x).evt x.ring = { e.evt x.ring with
      tail := ((e.evt x.ring).tail + 1) % (e.evt x.ring).size,
      phase := (if ((e.evt x.ring).tail + 1) % (e.evt x.ring).size = 0 then !(e.evt x.ring).phase else (e.evt x.ring).phase),
      unsignaled := u, firstUnsig := f } := by
  unfold Engine.putRecord
  extract_lets r control record e1 tail e2 e3
  rw [if_neg (by rw [show r.enabled = true from h]; decide)]
  have h3 : e3.evt x.ring = { r with tail := tail, phase := (if tail = 0 then !r.phase else r.phase), unsignaled := r.unsignaled + 1,
                                     firstUnsig := some (r.firstUnsig.getD e1.us) } := by
    dsimp only [e3]
    split
    · exact e1.evt_putEvt_self _ _
    · exact e1.evt_putEvt_self _ _
  split
  · exact ⟨0, none, (e3.evt_putEvt_self _ _).trans (by rw [h3])⟩
  · exact ⟨_, _, h3⟩

/-- The records among what is driven. -/
def Engine.records (e : Engine) : List (Nat × Nat × BitVec 256) := e.out.filterMap Output.record?

theorem Engine.records_emit_record (ring slot : Nat) (w : BitVec 256) :
    (e.emit (.hostRecord ring slot w)).records = (ring, slot, w) :: e.records := rfl

theorem Engine.records_emit_write (address : BitVec 64) (n : Nat) (v : BitVec 2560) :
    (e.emit (.hostWrite address n v)).records = e.records := rfl

theorem Engine.records_raiseRing (i : Nat) : (e.raiseRing i).records = e.records := rfl

theorem Engine.records_putEvt (i : Nat) (r : EvtRing) : (e.putEvt i r).records = e.records := rfl

theorem Engine.records_markDelivered (x : EventRecord) : (e.markDelivered x).records = e.records := by
  obtain ⟨l, hl⟩ := e.markDelivered_frame x
  rw [hl]
  rfl

/-- One record is driven to an enabled ring's next slot. -/
theorem Engine.putRecord_records {x : EventRecord} (h : (e.evt x.ring).enabled = true) :
    (e.putRecord x).records = (x.ring, (e.evt x.ring).tail, e.recordWord x) :: e.records := by
  unfold Engine.putRecord
  extract_lets r control record e1 tail e2 e3
  rw [if_neg (by rw [show r.enabled = true from h]; decide)]
  have h1 : e1.records = (x.ring, r.tail, e.recordWord x) :: e.records :=
    (Engine.records_markDelivered _ x).trans (e.records_emit_record _ _ _)
  have h3 : e3.records = e1.records := by
    dsimp only [e3]
    split
    · exact e1.records_putEvt _ _
    · exact (Engine.records_emit_write _ _ _ _).trans (e1.records_putEvt _ _)
  rw [← h1, ← h3]
  split
  · exact e3.records_raiseRing _
  · rfl

end

/-- The next slot with the ring's phase is the 0th record from now on. -/
theorem Engine.recordAt_zero {e : Engine} {x : EventRecord} (h : (e.evt x.ring).tail < (e.evt x.ring).size) :
    e.recordAt x.ring 0 x = (x.ring, (e.evt x.ring).tail, e.recordWord x) := by
  simp [Engine.recordAt, Engine.recordWord, Nat.mod_eq_of_lt h, Nat.div_eq_of_lt h]

/-- The wraps before the j-th record once one is written, where the tail stands in the ring. -/
theorem wrap_succ {tail size : Nat} (h : tail < size) (j : Nat) (phase : Bool) :
    (((tail + 1) % size + j) % size = (tail + (j + 1)) % size) ∧
      ((if (tail + 1) % size = 0 then !phase else phase) != decide (((tail + 1) % size + j) / size % 2 = 1)) =
        (phase != decide ((tail + (j + 1)) / size % 2 = 1)) := by
  rcases Nat.lt_or_ge (tail + 1) size with hlt | hge
  · rw [Nat.mod_eq_of_lt hlt, if_neg (Nat.succ_ne_zero tail), show tail + 1 + j = tail + (j + 1) by omega]
    exact ⟨rfl, rfl⟩
  · obtain rfl : size = tail + 1 := by omega
    rw [Nat.mod_self, if_pos rfl, show tail + (j + 1) = j + (tail + 1) by omega, Nat.add_mod_right, Nat.zero_add,
      Nat.add_div_right _ (Nat.succ_pos tail)]
    refine ⟨rfl, ?_⟩
    rcases Nat.mod_two_eq_zero_or_one (j / (tail + 1)) with hj | hj
    · rw [show (j / (tail + 1)).succ % 2 = 1 by omega, hj]
      cases phase <;> rfl
    · rw [show (j / (tail + 1)).succ % 2 = 0 by omega, hj]
      cases phase <;> rfl

/-- The j-th record after one is written is the next but one. -/
theorem Engine.recordAt_putRecord {e : Engine} {x : EventRecord} (hon : (e.evt x.ring).enabled = true)
    (h : (e.evt x.ring).tail < (e.evt x.ring).size) (j : Nat) (y : EventRecord) :
    (e.putRecord x).recordAt x.ring j y = e.recordAt x.ring (j + 1) y := by
  obtain ⟨u, f, hevt⟩ := e.putRecord_evt hon
  obtain ⟨hslot, hphase⟩ := wrap_succ h j (e.evt x.ring).phase
  unfold Engine.recordAt
  rw [hevt]
  dsimp only [EvtRing.size, EvtRing.log2] at hslot hphase ⊢
  exact Prod.ext rfl (Prod.ext hslot (congrArg
    (fun p : Bool => BitVec.ofNat 256 (y.body.toNat + (place y.rtype 0 4 + place (bit p) 31 1) * 2 ^ 224)) hphase))

/-- The records of a list stand in the ring's next slots in their order. -/
theorem Engine.foldl_passRecord {k : Nat} : ∀ (l : List EventRecord) {e : Engine}, (∀ x ∈ l, x.ring = k) → e.err.fatal = false →
    e.hru.credit = true → (e.evt k).enabled = true → (e.evt k).tail < (e.evt k).size →
    (l.foldl Engine.passRecord e).records = (l.zipIdx.map fun x => e.recordAt k x.2 x.1).reverse ++ e.records ∧
      ((l.foldl Engine.passRecord e).evt k).tail = ((e.evt k).tail + l.length) % (e.evt k).size
  | [], e, _, _, _, _, htail => ⟨rfl, (Nat.mod_eq_of_lt htail).symm⟩
  | x :: l, e, hring, hfatal, hcredit, hon, htail => by
    obtain rfl : x.ring = k := hring x List.mem_cons_self
    have hpass : e.passRecord x = e.putRecord x := by simp [Engine.passRecord, hfatal, hcredit]
    obtain ⟨hhru, herr⟩ := e.putRecord_host x
    obtain ⟨u, f, hevt⟩ := e.putRecord_evt hon
    have hsize : ((e.putRecord x).evt x.ring).size = (e.evt x.ring).size := by rw [hevt]; rfl
    have htail1 : ((e.putRecord x).evt x.ring).tail = ((e.evt x.ring).tail + 1) % (e.evt x.ring).size := by rw [hevt]
    obtain ⟨hrec, hend⟩ := Engine.foldl_passRecord l (e := e.putRecord x) (fun y hy => hring y (List.mem_cons_of_mem _ hy))
      (by rw [herr, hfatal]) (by rw [hhru]; exact hcredit) (by rw [hevt]; exact hon)
      (by rw [hsize, htail1]; exact Nat.mod_lt _ (Nat.lt_of_le_of_lt (Nat.zero_le _) htail))
    rw [List.foldl_cons, hpass]
    refine ⟨?_, ?_⟩
    · rw [hrec, e.putRecord_records hon, List.zipIdx_cons, List.map_cons, List.reverse_cons, Engine.recordAt_zero htail,
        List.append_assoc, List.singleton_append, Nat.zero_add, List.zipIdx_succ, List.map_map]
      congr 2
      exact List.map_congr_left fun y _ => Engine.recordAt_putRecord hon htail y.2 y.1
    · rw [hend, hsize, htail1, Nat.mod_add_mod, List.length_cons, Nat.add_right_comm, Nat.add_assoc]

/-- With credit nothing joins the staged records. -/
theorem Engine.foldl_passRecord_credit : ∀ (l : List EventRecord) {e : Engine}, e.hru.credit = true → e.hru.unwritten = [] →
    (l.foldl Engine.passRecord e).hru.credit = true ∧ (l.foldl Engine.passRecord e).hru.unwritten = []
  | [], _, hcredit, hempty => ⟨hcredit, hempty⟩
  | x :: l, e, hcredit, hempty => by
    have hpass : (e.passRecord x).hru.credit = true ∧ (e.passRecord x).hru.unwritten = [] := by
      unfold Engine.passRecord
      split
      · exact ⟨hcredit, hempty⟩
      · rw [(e.putRecord_host x).1]
        exact ⟨hcredit, hempty⟩
    exact Engine.foldl_passRecord_credit l hpass.1 hpass.2

/-! ### Moderation and stalls (R54, R61) -/

section
variable {e : Engine} {i : Nat}

theorem Engine.moderate_due {k : Nat} (hon : (e.evt i).enabled = true) (hfirst : (e.evt i).firstUnsig = some k)
    (hmod : (e.evt i).modTime ≠ 0) (hdue : k + (e.evt i).modTime ≤ e.us) : e.moderate i = e.raiseRing i := by
  simp [Engine.moderate, hfirst, hon, hmod, hdue]

theorem Engine.ringStall_due (hon : (e.evt i).enabled = true) (hst : (e.evt i).stalled = false)
    (hwait : (e.evt i).unread ≠ 0 ∨ (e.evt i).ackRes ≠ 0 ∨ (e.evt i).tokRes ≠ 0) : e.ringStall i =
      (((e.putEvt i { e.evt i with stalled := true }).raiseRing i).log Ev.eventStall [i]).corrected Det.hruStall i := by
  simp only [Engine.ringStall]
  rw [if_pos (by simpa [hon, hst, or_assoc] using hwait)]

/-- A ring that stalls is marked, its vector raised, and its records and the other rings stay. -/
theorem Engine.ringStall_spec (hon : (e.evt i).enabled = true) (hst : (e.evt i).stalled = false)
    (hwait : (e.evt i).unread ≠ 0 ∨ (e.evt i).ackRes ≠ 0 ∨ (e.evt i).tokRes ≠ 0) {t : Engine} (ht : t = e.ringStall i) :
    (t.evt i).stalled = true ∧ (t.evt i).tail = (e.evt i).tail ∧ Output.irq (e.evt i).vector ∈ t.out ∧
      ∀ j, j ≠ i → t.evt j = e.evt j := by
  rw [Engine.ringStall_due hon hst hwait] at ht
  generalize h1 : (e.putEvt i { e.evt i with stalled := true }).raiseRing i = e1 at ht
  have hrep := (e1.log Ev.eventStall [i]).corrected_only Det.hruStall i none
  have hhru : t.hru = e1.hru := by rw [ht, hrep.hru_eq, (e1.log_host _ _).1]
  have hout : e1.out <:+ t.out := by
    rw [ht, ← (e1.log_host Ev.eventStall [i]).2]
    exact hrep.2.2.1
  have hset : (e.putEvt i { e.evt i with stalled := true }).evt i = { e.evt i with stalled := true } := e.evt_putEvt_self i _
  have hevt : t.evt i = { e.evt i with stalled := true, unsignaled := 0, firstUnsig := none } := by
    rw [Engine.evt_congr hhru, ← h1]
    exact (Engine.evt_putEvt_self _ i _).trans (by rw [hset])
  have hirq : Output.irq (e.evt i).vector ∈ e1.out := by
    rw [← h1]
    have hhead : ((e.putEvt i { e.evt i with stalled := true }).raiseRing i).out =
        .irq ((e.putEvt i { e.evt i with stalled := true }).evt i).vector :: e.out := rfl
    rw [hhead, hset]
    exact List.mem_cons_self
  rw [hevt]
  refine ⟨rfl, rfl, hout.subset hirq, fun j hj => ?_⟩
  rw [Engine.evt_congr hhru, ← h1]
  exact (Engine.evt_putEvt_ne _ _ hj).trans (Engine.evt_putEvt_ne _ _ hj)

end

/-- The end of the wait for credit marks it absent, and is recorded and reported. -/
theorem Engine.creditTimeout_hru (e : Engine) : e.creditTimeout.hru = { e.hru with credit := false } := by
  unfold Engine.creditTimeout
  rw [(Engine.corrected_only _ _ _ _).hru_eq, (Engine.log_host _ _ _).1]

/-- Settles O31: records wait for write credit in their order, and moderation and stalls raise the vector. -/
theorem eventRingsKeepEveryRecord : Obligations.EventRingsKeepEveryRecord := by
  refine ⟨fun s hs => ?_, fun s i d hs hd hm hg hc hf => ?_, fun s hs => ?_, fun s k l hs hl hring hf hon htail => ?_,
    fun s i k hs hon hfirst hmod hdue => ?_, fun s i hs hon hst hwait => ?_⟩
  · exact ⟨_, exec_hostWriteCreditTimeout hs, s.seen.creditTimeout_hru⟩
  · obtain ⟨more, hall⟩ := Engine.decode_nop_withheld (e := s.seen) hd ⟨hm, hg, hc, hf⟩
    exact ⟨_, more, exec_nop hs i, hall⟩
  · exact ⟨_, exec_hostWriteCreditReturn hs, Engine.foldl_passRecord_credit _ rfl rfl⟩
  · subst hl
    exact ⟨_, exec_hostWriteCreditReturn hs, Engine.foldl_passRecord s.eng.hru.unwritten
      (e := { s.seen with hru := { s.seen.hru with credit := true, unwritten := [] } }) hring hf rfl hon htail⟩
  · refine ⟨_, exec_modTimeExpiry hs i, ?_⟩
    dsimp only
    rw [Engine.moderate_due (e := s.seen) hon hfirst hmod hdue]
    exact ⟨rfl, Engine.evt_putEvt_self _ _ _, rfl⟩
  · exact ⟨_, exec_eventRingStallTimeout hs i, Engine.ringStall_spec (e := s.seen) hon hst hwait rfl⟩

end Sys2Proof.Machine
end

section
/-!
# Fetches

A fetch reserves its acknowledgements, stages all its descriptors or none, and a failed one disables its ring (R41, R42, R47, R55, R69).
-/

namespace Sys2Proof.Machine

theorem exec_descriptorFetch {s : State} (h : s.serves Isl.hi) (i : BitVec 12) :
    exec (.descriptorFetch i) s = .next { s with eng := s.seen.fetch i.toNat } := State.actIn_serves h fun e => e.fetch i.toNat

theorem exec_descriptorFetchReturn {s : State} (h : s.receives Isl.hi) (i : BitVec 12) (ok : Bool) (xs : List (BitVec 512)) :
    exec (.descriptorFetchReturn i ok xs) s = .next { s with eng := s.seen.fetchReturn i.toNat ok xs } := State.cross_receives h _ _

theorem exec_descriptorReadTimeout {s : State} (h : s.serves Isl.hi) (i : BitVec 12) (hfl : (s.eng.sub i.toNat).flights ≠ []) :
    exec (.descriptorReadTimeout i) s =
      .next { s with eng := (s.seen.fetchFailed i.toNat).corrected Det.hruWatchdog i.toNat } := by
  have hempty : ¬ (s.seen.sub i.toNat).flights.isEmpty = true := by
    rw [List.isEmpty_iff]
    exact hfl
  have hexec := State.actIn_serves h fun e =>
    if (e.sub i.toNat).flights.isEmpty then e else (e.fetchFailed i.toNat).corrected Det.hruWatchdog i.toNat
  rw [if_neg hempty] at hexec
  exact hexec

theorem exec_tokenListReadDone {s : State} (h : s.receives Isl.hi) (i : BitVec 12) (slot : BitVec 16) (x : ListRead) :
    exec (.tokenListReadDone i slot x) s = .next { s with eng := s.seen.readsDone i.toNat slot.toNat x } := State.cross_receives h _ _

theorem exec_tokenListReadTimeout {s : State} (h : s.serves Isl.hi) (i : BitVec 12) (slot : BitVec 16) :
    exec (.tokenListReadTimeout i slot) s = .next { s with eng := s.seen.readsTimeout i.toNat slot.toNat } :=
  State.actIn_serves h fun e => e.readsTimeout i.toNat slot.toNat

/-! ### The fetch (R47) -/

section
variable {e : Engine} {i : Nat}

/-- A fetch that is due reads its descriptors and reserves their acknowledgements. -/
theorem Engine.fetch_spec (hn : e.fetchable i ≠ 0) (hturn : e.reserveFree i = 0 → e.fetchTurn = some i) {t : Engine} (ht : t = e.fetch i) :
    (t.sub i).fetched = ((e.sub i).fetched + e.fetchable i) % (e.sub i).size ∧
      (t.sub i).flights = (e.sub i).flights ++ [((e.sub i).fetched, e.fetchable i, min (e.reserveFree i) (e.fetchable i))] ∧
      (t.sub i).head = (e.sub i).head ∧
      (t.evt (e.sub i).ackRing).ackRes = (e.evt (e.sub i).ackRing).ackRes + e.fetchable i ∧
      t.hru.staging = e.hru.staging ∧
      t.out = .hostRead (BitVec.ofNat 64 ((e.sub i).base + (e.sub i).slotBytes * (e.sub i).fetched))
        ((e.sub i).slotBytes * e.fetchable i) :: e.out := by
  have hgo : ¬ (decide (e.fetchable i = 0) || (decide (e.reserveFree i = 0) && decide (e.fetchTurn ≠ some i))) = true := by
    rw [decide_eq_false hn, Bool.false_or, Bool.and_eq_true, decide_eq_true_eq, decide_eq_true_eq]
    exact fun h => h.2 (hturn h.1)
  unfold Engine.fetch at ht
  extract_lets n own r ack address e1 e2 e3 at ht
  rw [if_neg hgo] at ht
  obtain ⟨hstaging, hout⟩ : e1.hru.staging = e.hru.staging ∧ e1.out = e.out := by
    dsimp only [e1]
    split <;> exact ⟨rfl, rfl⟩
  have hsub : t.sub i = { r with fetched := (r.fetched + n) % r.size, flights := r.flights ++ [(r.fetched, n, min own n)] } := by
    rw [ht]
    exact e2.sub_putSub_self i _
  have hevt3 : e3.evt r.ackRing = { ack with ackRes := ack.ackRes + n } := (e2.evt_putSub i _ _).trans (e1.evt_putEvt_self _ _)
  have hevt : t.evt r.ackRing = { ack with ackRes := ack.ackRes + n } := by
    rw [← hevt3, ht]
    exact Engine.evt_congr rfl _
  rw [hsub, hevt]
  refine ⟨rfl, rfl, rfl, rfl, ?_, ?_⟩
  · rw [ht]
    exact hstaging
  · rw [ht]
    exact congrArg (List.cons _) hout

/-! ### A fetch that fails (R47) -/

/-- What a failed fetch leaves: nothing in flight, the ring disabled, every reservation returned. -/
theorem Engine.fetchFailed_spec (e : Engine) (i : Nat) {t : Engine} (ht : t.hru = (e.fetchFailed i).hru) :
    (t.sub i).enabled = false ∧ (t.sub i).flights = [] ∧ (t.sub i).head = (e.sub i).head ∧ t.hru.staging = e.hru.staging ∧
      t.hru.statReason = 9 ∧ (t.sub i).unacked = (e.sub i).unacked ∧
      (t.evt (e.sub i).ackRing).ackRes = (e.evt (e.sub i).ackRing).ackRes - sumBy (e.sub i).flights (fun y => y.2.1) := by
  unfold Engine.fetchFailed at ht
  extract_lets r ack n e1 e2 at ht
  rw [(Engine.log_host _ _ _).1, (Engine.ringResult_host _ _ _ _ _).1] at ht
  obtain ⟨honly, b, hclosed⟩ := (e1.putSub i { r with
    enabled := false, closing := true, flights := [], fetched := r.head, tail := r.head, arrivals := [] }).finishClose_spec i
  rw [Engine.sub_putSub_self] at hclosed
  have hsub : t.sub i = e2.sub i := by rw [Engine.sub, ht, Engine.sub]
  have hevt : t.evt r.ackRing = { ack with ackRes := ack.ackRes - n } := by
    have hevt2 : t.evt r.ackRing = e2.evt r.ackRing := by rw [Engine.evt, ht, Engine.evt]
    rw [hevt2]
    exact (honly.evt_eq r.ackRing).trans (e.evt_putEvt_self _ _)
  rw [hsub, hclosed, hevt, ht]
  exact ⟨rfl, rfl, rfl, honly.staging_eq, rfl, rfl, rfl⟩

theorem Engine.fetchReturn_failed {x : Nat × Nat × Nat} {rest : List (Nat × Nat × Nat)} {ok : Bool} {l : List (BitVec 512)}
    (hfl : (e.sub i).flights = x :: rest) (hbad : ok = false ∨ l.length ≠ x.2.1) : e.fetchReturn i ok l = e.fetchFailed i := by
  simp only [Engine.fetchReturn, hfl]
  rw [if_pos]
  rcases hbad with rfl | hlen
  · rfl
  · simp [hlen]

end

/-! ### A fetch that returns its descriptors (R42, R47) -/

theorem Staged.known_congr {r r' : SubRing} (h : r'.ctx = r.ctx) (d : Staged) : d.known r' = d.known r := by
  cases r
  cases r'
  cases h
  rfl

/-- The ring once n of its fetched descriptors are staged. -/
def SubRing.consumes (r : SubRing) (n : Nat) (arrivals : Table Nat) : SubRing :=
  { r with head := (r.head + n) % r.size, consumed := r.consumed + n, unacked := r.unacked ++ (List.range n).map (r.consumed + ·),
           arrivals := arrivals }

/-- The k-th next descriptor of a ring, once one is staged, is the next but one. -/
theorem Engine.stagedAs_succ {e e' : Engine} {i us own k : Nat} {x : BitVec 512}
    (hring : e'.sub i = { e.sub i with head := ((e.sub i).head + 1) % (e.sub i).size, consumed := (e.sub i).consumed + 1,
                                       unacked := (e'.sub i).unacked, arrivals := Table.del (e.sub i).arrivals (e.sub i).head })
    (hhead : (e.sub i).head < (e.sub i).size) (hk : k + 1 < (e.sub i).size) :
    e'.stagedAs us i (own - 1) k x = e.stagedAs us i own (k + 1) x := by
  have hsize : (e'.sub i).size = (e.sub i).size := by
    rw [hring]
    rfl
  have hslot : (((e.sub i).head + 1) % (e.sub i).size + k) % (e.sub i).size = ((e.sub i).head + (k + 1)) % (e.sub i).size := by
    rw [Nat.mod_add_mod, Nat.add_assoc, Nat.add_comm 1]
  have hapart : ((e.sub i).head + (k + 1)) % (e.sub i).size ≠ (e.sub i).head := by
    rcases Nat.lt_or_ge ((e.sub i).head + (k + 1)) (e.sub i).size with hlt | hge
    · rw [Nat.mod_eq_of_lt hlt]
      omega
    · rw [Nat.mod_eq_sub_mod hge, Nat.mod_eq_of_lt (by omega)]
      omega
  have harr : Table.getD (Table.del (e.sub i).arrivals (e.sub i).head) (((e.sub i).head + (k + 1)) % (e.sub i).size) us =
      Table.getD (e.sub i).arrivals (((e.sub i).head + (k + 1)) % (e.sub i).size) us := by
    rw [Table.getD, Table.getD, Table.get?_del_ne _ hapart]
  have hown : decide (k < own - 1) = decide (k + 1 < own) := by
    rw [decide_eq_decide]
    omega
  simp only [Engine.stagedAs, hsize]
  rw [hring]
  dsimp only
  rw [hslot, harr, hown, Nat.add_assoc, Nat.add_comm 1]

/-- The descriptors of a fetch are staged in their order, and the ring takes them. -/
theorem Engine.stageAll_spec {i : Nat} : ∀ (xs : List (BitVec 512)) (own : Nat) {e : Engine}, (e.sub i).head < (e.sub i).size →
    xs.length ≤ (e.sub i).size →
    ∃ arrivals, (e.stageAll i own xs).sub i = (e.sub i).consumes xs.length arrivals ∧ e.stageAll i own xs = { e with
      hru := { e.hru with
        subs := (e.stageAll i own xs).hru.subs
        staging := e.hru.staging ++ xs.zipIdx.map (fun x => e.stagedAs e.us i own x.2 x.1) } }
  | [], _, e, hhead, _ => by
    refine ⟨(e.sub i).arrivals, ?_, ?_⟩
    · simp [Engine.stageAll, SubRing.consumes, Nat.mod_eq_of_lt hhead]
    · simp [Engine.stageAll]
  | x :: xs, own, e, hhead, hlen => by
    unfold Engine.stageAll
    extract_lets r d e1
    generalize he2 : ({ e1 with hru := { e1.hru with staging := e1.hru.staging ++ [d] } } : Engine) = e2
    have hring : e2.sub i = { r with head := (r.head + 1) % r.size, consumed := r.consumed + 1, unacked := r.unacked ++ [r.consumed],
                                     arrivals := Table.del r.arrivals r.head } := by
      rw [← he2]
      exact e.sub_putSub_self i _
    have hsize : (e2.sub i).size = r.size := by
      rw [hring]
      rfl
    have hpos : 0 < r.size := Nat.lt_of_le_of_lt (Nat.zero_le _) hhead
    rw [List.length_cons] at hlen
    obtain ⟨arrivals, hsub, hframe⟩ := Engine.stageAll_spec (i := i) xs (own - 1) (e := e2)
      (by rw [hsize, hring]; exact Nat.mod_lt _ hpos) (by rw [hsize]; exact Nat.le_of_succ_le hlen)
    refine ⟨arrivals, ?_, ?_⟩
    · have hhead1 : ((r.head + 1) % r.size + xs.length) % r.size = (r.head + (xs.length + 1)) % r.size := by
        rw [Nat.mod_add_mod, Nat.add_assoc, Nat.add_comm 1]
      have hplaces : (List.range xs.length).map (fun k => r.consumed + 1 + k) =
          (List.range xs.length).map (fun k => r.consumed + (k + 1)) :=
        List.map_congr_left fun k _ => by omega
      rw [hsub]
      unfold SubRing.consumes
      rw [hsize, hring]
      dsimp only
      rw [hhead1, hplaces, List.length_cons, List.range_succ_eq_map, List.map_cons, List.map_map, List.append_assoc, Nat.add_assoc,
        Nat.add_comm 1]
      rfl
    · have hd : d = e.stagedAs e.us i own 0 x := by
        simp only [Engine.stagedAs, Nat.add_zero, Nat.mod_eq_of_lt hhead]
        rfl
      have hrest : (xs.zipIdx.map fun y => e2.stagedAs e2.us i (own - 1) y.2 y.1) =
          xs.zipIdx.map fun y => e.stagedAs e.us i own (y.2 + 1) y.1 := by
        refine List.map_congr_left fun y hy => ?_
        have hy2 : y.2 < xs.length := by
          have := List.snd_lt_of_mem_zipIdx hy
          omega
        have hus : e2.us = e.us := by
          rw [← he2]
          rfl
        rw [hus]
        exact Engine.stagedAs_succ (by rw [hring]) hhead (by omega)
      rw [hframe, hrest, ← he2, hd, List.zipIdx_cons, List.map_cons, List.zipIdx_succ, List.map_map, List.append_assoc]
      rfl

/-- The descriptors of one fetch are outstanding at the places after those consumed. -/
theorem Engine.stagedAs_places (e : Engine) (us i own : Nat) (xs : List (BitVec 512)) :
    (xs.zipIdx.map fun x => e.stagedAs us i own x.2 x.1).map (·.pos) = (List.range xs.length).map ((e.sub i).consumed + ·) := by
  rw [List.map_map, List.range_eq_range', ← List.zipIdx_map_snd, List.map_map]
  rfl

/-- The head is written back, where it is due; of the ring nothing else moves. -/
theorem Engine.headWriteBack_spec (e : Engine) (i : Nat) :
    (∃ w, (e.headWriteBack i).sub i = { e.sub i with headWb := w }) ∧ (e.headWriteBack i).hru.staging = e.hru.staging ∧
      (e.headWriteBack i).hru.evts = e.hru.evts ∧ (e.headWriteBack i).cnt = e.cnt := by
  unfold Engine.headWriteBack
  extract_lets r e1
  have h1 : e1.sub i = { r with headWb := r.head } := e.sub_putSub_self i _
  split
  · split
    · exact ⟨⟨_, h1⟩, rfl, rfl, rfl⟩
    · exact ⟨⟨_, h1⟩, rfl, rfl, rfl⟩
  · exact ⟨⟨r.headWb, rfl⟩, rfl, rfl, rfl⟩

/-- Descriptors that are known and read nothing leave the fetch's reads at that. -/
theorem Engine.prefetch_none {e : Engine} {d : Staged} (h : d.reader = false) : e.prefetch d = e := by
  simp [Engine.prefetch, h]

/-- What a fetch return does with the k-th descriptor it staged. -/
def Engine.firstLook (i start : Nat) (e : Engine) (k : Nat) : Engine :=
  match e.staged? i (start + k) with
  | none => e
  | some d => if d.known (e.sub i) then e.prefetch d else e.failStaged d

theorem Engine.firstLook_quiet {e : Engine} {i start k : Nat} (h : ∀ d ∈ e.hru.staging, d.ring = i → start ≤ d.pos →
    d.known (e.sub i) = true ∧ d.reader = false) : Engine.firstLook i start e k = e := by
  unfold Engine.firstLook
  split
  · rfl
  · next d hfind =>
    have hd : d.ring = i ∧ d.pos = start + k := by simpa using List.find?_some hfind
    obtain ⟨hknown, hreader⟩ := h d (List.mem_of_find?_eq_some hfind) hd.1 (by omega)
    rw [if_pos hknown, Engine.prefetch_none hreader]

theorem Engine.foldl_firstLook_quiet {e : Engine} {i start : Nat} (h : ∀ d ∈ e.hru.staging, d.ring = i → start ≤ d.pos →
    d.known (e.sub i) = true ∧ d.reader = false) : ∀ l : List Nat, l.foldl (Engine.firstLook i start) e = e
  | [] => rfl
  | k :: l => by
    rw [List.foldl_cons, Engine.firstLook_quiet h]
    exact Engine.foldl_firstLook_quiet h l

/-- A fetch whose descriptors are known and read nothing stages all of them. -/
theorem Engine.fetchReturn_spec {e : Engine} {i f own : Nat} {rest : List (Nat × Nat × Nat)} {xs : List (BitVec 512)} {ds : List Staged}
    (hfl : (e.sub i).flights = (f, xs.length, own) :: rest) (hhead : (e.sub i).head < (e.sub i).size)
    (hlen : xs.length ≤ (e.sub i).size) (hold : ∀ d ∈ e.hru.staging, d.ring = i → d.pos < (e.sub i).consumed)
    (hds : ds = xs.zipIdx.map fun x => e.stagedAs e.us i own x.2 x.1)
    (hquiet : ∀ d ∈ ds, d.known (e.sub i) = true ∧ d.reader = false) {t : Engine} (ht : t = e.fetchReturn i true xs) :
    t.hru.staging = e.hru.staging ++ ds ∧ (t.sub i).head = ((e.sub i).head + xs.length) % (e.sub i).size ∧
      (t.sub i).unacked = (e.sub i).unacked ++ ds.map (·.pos) ∧ (t.sub i).flights = rest ∧ t.hru.evts = e.hru.evts ∧
      t.count Cnt.hruDesc = e.count Cnt.hruDesc + BitVec.ofNat 32 xs.length := by
  simp only [Engine.fetchReturn, hfl, Bool.not_true, ne_eq, not_true_eq_false, decide_false, Bool.or_self, Bool.false_eq_true, if_false] at ht
  generalize he1 : e.putSub i { e.sub i with flights := rest } = e1 at ht
  have hr1 : e1.sub i = { e.sub i with flights := rest } := by
    rw [← he1]
    exact e.sub_putSub_self i _
  obtain ⟨hst1, hus1, hevts1, hcnt1⟩ : e1.hru.staging = e.hru.staging ∧ e1.us = e.us ∧ e1.hru.evts = e.hru.evts ∧ e1.cnt = e.cnt := by
    rw [← he1]
    exact ⟨rfl, rfl, rfl, rfl⟩
  have hsize1 : (e1.sub i).size = (e.sub i).size := by
    rw [hr1]
    rfl
  have hsame : (xs.zipIdx.map fun x => e1.stagedAs e1.us i own x.2 x.1) = ds := by
    rw [hds, hus1]
    refine List.map_congr_left fun x _ => ?_
    simp only [Engine.stagedAs, hsize1]
    rw [hr1]
  obtain ⟨arrivals, hr2, hframe2⟩ := Engine.stageAll_spec (i := i) xs own (e := e1) (by rw [hsize1, hr1]; exact hhead)
    (by rw [hsize1]; exact hlen)
  rw [hsame, hst1] at hframe2
  generalize he2 : (e1.stageAll i own xs).bumpBy Cnt.hruDesc xs.length = e2 at ht
  have hr2 : e2.sub i = { e.sub i with
      flights := rest, head := ((e.sub i).head + xs.length) % (e.sub i).size, consumed := (e.sub i).consumed + xs.length,
      unacked := (e.sub i).unacked ++ (List.range xs.length).map ((e.sub i).consumed + ·), arrivals := arrivals } := by
    rw [← he2, show ((e1.stageAll i own xs).bumpBy Cnt.hruDesc xs.length).sub i = (e1.stageAll i own xs).sub i from rfl, hr2,
      SubRing.consumes, hsize1, hr1]
  obtain ⟨hst2, hevts2, hcnt2⟩ : e2.hru.staging = e.hru.staging ++ ds ∧ e2.hru.evts = e.hru.evts ∧
      e2.count Cnt.hruDesc = e.count Cnt.hruDesc + BitVec.ofNat 32 xs.length := by
    rw [← he2, Engine.count_bumpBy_self, show ∀ a : Engine, (a.bumpBy Cnt.hruDesc xs.length).hru = a.hru from fun _ => rfl, hframe2]
    exact ⟨rfl, hevts1, congrArg (· + BitVec.ofNat 32 xs.length) (Engine.count_congr hcnt1 Cnt.hruDesc)⟩
  have hlook : t = (((List.range xs.length).foldl (Engine.firstLook i (e1.sub i).consumed) e2).headWriteBack i).finishClose i := ht
  rw [Engine.foldl_firstLook_quiet] at hlook
  · obtain ⟨⟨w, hw⟩, hst3, hevts3, hcnt3⟩ := e2.headWriteBack_spec i
    obtain ⟨honly, b, hclosed⟩ := (e2.headWriteBack i).finishClose_spec i
    rw [← hlook] at honly hclosed
    rw [honly.staging_eq, hst3, hst2, honly.evts_eq, hevts3, hevts2, Engine.count_congr (honly.cnt_eq.trans hcnt3), hcnt2, hclosed, hw, hr2,
      hds, Engine.stagedAs_places]
    exact ⟨rfl, rfl, rfl, rfl, rfl, rfl⟩
  · intro d hd hring hpos
    rw [hst2, List.mem_append] at hd
    rcases hd with hd | hd
    · have hbefore := hold d hd hring
      rw [hr1] at hpos
      exact absurd hpos (Nat.not_le.2 hbefore)
    · rw [Staged.known_congr (r := e.sub i) (by rw [hr2])]
      exact hquiet d hd

/-! ### Reads that return (R55, R69) -/

section
variable {e : Engine} {i slot : Nat} {d : Staged} {x : ListRead}

theorem Engine.reading?_spec (h : e.reading? i slot = some d) : d ∈ e.hru.staging ∧ d.ring = i := by
  refine ⟨List.mem_of_find?_eq_some h, ?_⟩
  have hd := List.find?_some h
  simp only [Bool.and_eq_true, beq_iff_eq] at hd
  exact hd.1.1

/-- The reads that follow are driven, and nothing else. -/
theorem Engine.listReads_frame (e : Engine) (s : SubmitReq) (x : ListRead) :
    ∃ l, e.listReads s x = { e with out := l ++ e.out } := by
  unfold Engine.listReads
  extract_lets biases e1
  obtain ⟨l, hl⟩ : ∃ l, e1 = { e with out := l ++ e.out } := by
    dsimp only [e1]
    split
    · exact ⟨[_], rfl⟩
    · exact ⟨[], rfl⟩
  split
  · exact ⟨_ :: l, by rw [hl]; rfl⟩
  · exact ⟨l, hl⟩

/-- A SUBMIT's further reads do not depend on the time. -/
theorem State.listReads_seen (s : State) (x : SubmitReq) (data : ListRead) : (s.seen.listReads x data).out = (s.eng.listReads x data).out := by
  have hout : ∀ (c : Prop) [Decidable c] (a b : Engine) (o : Output), a.out = b.out →
      (if c then a.emit o else a).out = (if c then b.emit o else b).out := by
    intro c _ a b o hab
    split
    · exact congrArg (List.cons o) hab
    · exact hab
  have hok : ∀ (c : Prop) [Decidable c] (o : Output) (y : BitVec 1024) (f : Family) (n : Nat),
      (if c then s.seen.emit o else s.seen).paramsOk y f n = (if c then s.eng.emit o else s.eng).paramsOk y f n := by
    intro c _ o y f n
    split <;> rfl
  have hfam : ∀ (c : Prop) [Decidable c] (o : Output) (f : Nat),
      (if c then s.seen.emit o else s.seen).family f = (if c then s.eng.emit o else s.eng).family f := by
    intro c _ o f
    split <;> rfl
  simp only [Engine.listReads, hok, hfam]
  exact hout _ _ _ _ (hout _ _ _ _ rfl)

/-- The engine that checks what a descriptor read: an error of the host port is recorded, and a SUBMIT's further reads are out. -/
def Engine.readsTaken (e : Engine) (i slot : Nat) (d : Staged) (x : ListRead) : Engine :=
  let e := if x.ok then e else e.log Ev.hostReadError [i, slot]
  if d.opcode = 0x01 then e.listReads (d.submitOf (e.sub d.ring)) x else e

/-- Check 7 of a descriptor by its opcode. -/
def Engine.readOk (e : Engine) (d : Staged) (x : ListRead) : Bool :=
  if d.opcode = 0x01 then e.submitReadOk d x else e.appendReadOk d x

theorem Engine.readsTaken_frame (e : Engine) (i slot : Nat) (d : Staged) (x : ListRead) :
    ∃ m v c o, e.readsTaken i slot d x = { e with mem := m, evr := v, cnt := c, out := o } := by
  unfold Engine.readsTaken
  extract_lets e1
  obtain ⟨m, v, c, h1⟩ : ∃ m v c, e1 = { e with mem := m, evr := v, cnt := c } := by
    dsimp only [e1]
    split
    · exact ⟨_, _, _, rfl⟩
    · exact ⟨_, _, _, (e.log_only _ _).1⟩
  split
  · obtain ⟨l, hl⟩ := e1.listReads_frame (d.submitOf (e1.sub d.ring)) x
    exact ⟨m, v, c, _, by rw [hl, h1]⟩
  · exact ⟨m, v, c, e.out, by rw [h1]⟩

theorem Engine.readsTaken_alike (e : Engine) (i slot : Nat) (d : Staged) (x : ListRead) : AcksAlike e (e.readsTaken i slot d x) := by
  obtain ⟨m, v, c, o, h⟩ := e.readsTaken_frame i slot d x
  rw [h]
  exact .of_eq rfl rfl rfl rfl rfl

/-- Check 7 is the same for the engine that takes the reads. -/
theorem Engine.readOk_readsTaken (e : Engine) (i slot : Nat) (d : Staged) (x : ListRead) :
    (e.readsTaken i slot d x).readOk d x = e.readOk d x := by
  obtain ⟨m, v, c, o, h⟩ := e.readsTaken_frame i slot d x
  rw [h]
  rfl

theorem Engine.readsDone_eq (h : e.reading? i slot = some d) (hreader : d.reader = true) : e.readsDone i slot x =
    if e.readOk d x then (e.readsTaken i slot d x).restage { d with reads := .done x }
    else (e.readsTaken i slot d x).failStaged d := by
  rw [← e.readOk_readsTaken i slot d x]
  simp only [Engine.readsDone, h, hreader, Bool.not_true, Bool.false_eq_true, if_false]
  rfl

/-- A descriptor that fails check 7 outside its turn is kept failed; in its turn it completes MALFORMED. -/
theorem Engine.failStaged_spec {e' : Engine} (halike : AcksAlike e e') (hst : e'.hru.staging = e.hru.staging)
    (hmem : d ∈ e.hru.staging) (hopen : e.ringOpen (e.ackRingOf d)) :
    if e.inOrder d then e.acked (e'.failStaged d) d Status.malformed 0
    else (e'.failStaged d).staged? d.ring d.pos = some { d with reads := .failed } ∧ (e'.failStaged d).hru.evts = e.hru.evts := by
  have hturn : e'.inOrder d = e.inOrder d := by
    simp only [Engine.inOrder, halike.sub_eq]
  rw [← hst] at hmem
  unfold Engine.failStaged
  rw [hturn]
  split
  · exact halike.ack hopen Status.malformed
  · exact ⟨Engine.staged?_restage (d := { d with reads := .failed }) hmem rfl rfl, halike.evts⟩

/-- Good data is kept with its descriptor. -/
theorem Engine.readsDone_good (h : e.reading? i slot = some d)
    (hgood : (d.opcode = 1 ∧ e.submitReadOk d x = true) ∨ (d.opcode = 2 ∧ e.appendReadOk d x = true)) :
    (e.readsDone i slot x).staged? i d.pos = some { d with reads := .done x } ∧
      (e.readsDone i slot x).out = if d.opcode = 1 then (e.listReads (d.submitOf (e.sub i)) x).out else e.out := by
  obtain ⟨hmem, hring⟩ := Engine.reading?_spec h
  obtain ⟨hreader, hok, hread⟩ : d.reader = true ∧ e.readOk d x = true ∧ x.ok = true := by
    rcases hgood with ⟨hop, hok⟩ | ⟨hop, hok⟩
    · refine ⟨by simp [Staged.reader, hop], by simp [Engine.readOk, hop, hok], ?_⟩
      simp only [Engine.submitReadOk, Bool.and_eq_true] at hok
      exact hok.1.1.1
    · refine ⟨by simp [Staged.reader, hop], by simp [Engine.readOk, hop, hok], ?_⟩
      simp only [Engine.appendReadOk, Bool.and_eq_true] at hok
      exact hok.1
  obtain ⟨m, v, c, o, hframe⟩ := e.readsTaken_frame i slot d x
  rw [Engine.readsDone_eq h hreader, if_pos hok]
  subst hring
  refine ⟨Engine.staged?_restage (d := { d with reads := .done x }) (d0 := d) (by rw [hframe]; exact hmem) rfl rfl, ?_⟩
  rw [show ∀ a : Engine, (a.restage { d with reads := .done x }).out = a.out from fun _ => rfl]
  simp only [Engine.readsTaken, hread, if_true]
  split <;> rfl

/-- Bad data. -/
theorem Engine.readsDone_bad (h : e.reading? i slot = some d) (hopen : e.ringOpen (e.ackRingOf d))
    (hbad : (d.opcode = 1 ∧ e.submitReadOk d x = false) ∨ (d.opcode = 2 ∧ e.appendReadOk d x = false)) {t : Engine}
    (ht : t = e.readsDone i slot x) : if e.inOrder d then e.acked t d Status.malformed 0
      else t.staged? i d.pos = some { d with reads := .failed } ∧ t.hru.evts = e.hru.evts := by
  obtain ⟨hmem, hring⟩ := Engine.reading?_spec h
  obtain ⟨hreader, hok⟩ : d.reader = true ∧ e.readOk d x = false := by
    rcases hbad with ⟨hop, hok⟩ | ⟨hop, hok⟩
    · exact ⟨by simp [Staged.reader, hop], by simp [Engine.readOk, hop, hok]⟩
    · exact ⟨by simp [Staged.reader, hop], by simp [Engine.readOk, hop, hok]⟩
  obtain ⟨m, v, c, o, hframe⟩ := e.readsTaken_frame i slot d x
  rw [Engine.readsDone_eq h hreader, hok, if_neg Bool.false_ne_true] at ht
  rw [ht, ← hring]
  exact Engine.failStaged_spec (e.readsTaken_alike d.ring slot d x) (by rw [hring, hframe]) hmem hopen

/-- A report to the error unit leaves what has been acknowledged. -/
theorem ReportOnly.acked {a t : Engine} (h : ReportOnly t e) {status qbytes : Nat} (k : a.acked t d status qbytes) :
    a.acked e d status qbytes := by
  obtain ⟨hwrote, hnone, hun⟩ := k
  refine ⟨h.2.2.1.subset hwrote, ?_, ?_⟩
  · rw [Engine.staged?, h.hru_eq]
    exact hnone
  · rw [Engine.sub_congr h.hru_eq]
    exact hun

theorem Engine.readsTimeout_spec (h : e.reading? i slot = some d) (hopen : e.ringOpen (e.ackRingOf d)) {t : Engine}
    (ht : t = e.readsTimeout i slot) : if e.inOrder d then e.acked t d Status.malformed 0
      else t.staged? i d.pos = some { d with reads := .failed } ∧ t.hru.evts = e.hru.evts := by
  obtain ⟨hmem, hring⟩ := Engine.reading?_spec h
  have hreport : ReportOnly (e.failStaged d) t := by
    rw [ht]
    simp only [Engine.readsTimeout, h]
    exact Engine.corrected_only _ _ _ _
  have hfail := Engine.failStaged_spec (AcksAlike.refl e) rfl hmem hopen
  rw [← hring]
  split
  · next hturn =>
    rw [if_pos hturn] at hfail
    exact hreport.acked hfail
  · next hturn =>
    rw [if_neg hturn] at hfail
    rw [Engine.staged?, hreport.hru_eq]
    exact hfail

end

/-- Settles O30: a fetch reserves before it reads, stages whole or not at all, and its descriptors' reads decide them once. -/
theorem fetchesAreAllOrNothing : Obligations.FetchesAreAllOrNothing := by
  refine ⟨fun s i hs hn hturn => ?_, fun s i f own rest xs ds hs hfl hhead hlen hold hds hquiet => ?_,
    fun s i n x rest ok l hs hfl hn hbad => ?_, fun s i n hs hfl hn => ?_, fun s i slot x d hs hread hgood => ?_,
    fun s i slot x d hs hread hopen hbad => ?_, fun s i slot d hs hread hopen => ?_⟩
  · exact ⟨_, exec_descriptorFetch hs i, Engine.fetch_spec (e := s.seen) hn hturn rfl⟩
  · exact ⟨_, exec_descriptorFetchReturn hs i true xs, Engine.fetchReturn_spec (e := s.seen) hfl hhead hlen hold hds hquiet rfl⟩
  · have hfail := Engine.fetchReturn_failed (e := s.seen) hfl hbad
    have hspec := s.seen.fetchFailed_spec i.toNat (congrArg Engine.hru hfail)
    refine ⟨_, exec_descriptorFetchReturn hs i ok l, ?_⟩
    rw [hn, ← hfl]
    exact hspec
  · subst hn
    have hreport := (s.seen.fetchFailed i.toNat).corrected_only Det.hruWatchdog i.toNat none
    exact ⟨_, exec_descriptorReadTimeout hs i hfl, s.seen.fetchFailed_spec i.toNat hreport.hru_eq⟩
  · obtain ⟨hstaged, hout⟩ := Engine.readsDone_good (e := s.seen) hread hgood
    rw [s.listReads_seen] at hout
    exact ⟨_, exec_tokenListReadDone hs i slot x, hstaged, hout⟩
  · exact ⟨_, exec_tokenListReadDone hs i slot x, Engine.readsDone_bad (e := s.seen) hread hopen hbad rfl⟩
  · exact ⟨_, exec_tokenListReadTimeout hs i slot, Engine.readsTimeout_spec (e := s.seen) hread hopen rfl⟩

end Sys2Proof.Machine
end

section
/-!
# What host actions and timers write of a request

The notes a host action leaves, a request's end, and the stop vector (R57, R58, R77, R81).
-/

namespace Sys2Proof.Machine

/-! ### Tables and sets -/

/-- A key with an entry is among the keys. -/
theorem Table.mem_keys_of_get? {α : Type} {k : Nat} {v : α} : ∀ {t : Table α}, Table.get? t k = some v → k ∈ Table.keys t
  | [], h => by cases h
  | (j, w) :: t, h => by
    unfold Table.get? at h
    split at h
    · next hj =>
      subst hj
      exact List.mem_cons_self
    · exact List.mem_cons_of_mem _ (Table.mem_keys_of_get? h)

theorem mem_insertNat (x : Nat) : ∀ l : List Nat, x ∈ insertNat x l
  | [] => List.mem_singleton_self x
  | y :: ys => by
    unfold insertNat
    split
    · next h =>
      rw [h]
      exact List.mem_cons_self
    · split
      · exact List.mem_cons_self
      · exact List.mem_cons_of_mem _ (mem_insertNat x ys)

/-! ### Notes of a host action -/

/-- e' is e with a host action or a tick noted: in the counters, the step's record, the coincidences and what is driven. -/
def Noted (e e' : Engine) : Prop :=
  e' = { e with cnt := e'.cnt, actAt := e'.actAt, acted := e'.acted, flt := e'.flt, out := e'.out }

section
variable {a b c e e' : Engine}

theorem Noted.refl (e : Engine) : Noted e e := rfl

theorem Noted.trans (h : Noted a b) (k : Noted b c) : Noted a c := by
  unfold Noted at h k ⊢
  rw [k, h]

theorem Noted.rafter_eq (h : Noted e e') : e'.rafter = e.rafter := by rw [h]
theorem Noted.req_eq (h : Noted e e') (k : Nat) : e'.req? k = e.req? k := by rw [h]; rfl
theorem Noted.stop_eq (h : Noted e e') : e'.stop = e.stop := by rw [h]
theorem Noted.hru_eq (h : Noted e e') : e'.hru = e.hru := by rw [h]
theorem Noted.us_eq (h : Noted e e') : e'.us = e.us := by rw [h]; rfl
theorem Noted.held_eq (h : Noted e e') : e'.adm.held = e.adm.held := by rw [h]

theorem Noted.alike (h : Noted e e') : AcksAlike e e' := by
  rw [h]
  exact .of_eq rfl rfl rfl rfl rfl

theorem Engine.countStopHold_noted (e : Engine) : Noted e e.countStopHold := by
  unfold Engine.countStopHold
  split <;> rfl

theorem Engine.hostActs_noted (e : Engine) (slot : Nat) : Noted e (e.hostActs slot) := by
  unfold Engine.hostActs
  split
  · exact .refl e
  · extract_lets e1
    have h1 : Noted e e1 := by
      dsimp only [e1]
      split <;> rfl
    split
    · exact h1.trans rfl
    · exact h1

theorem Engine.jevent_noted (e : Engine) (kind status who detail : Nat) : Noted e (e.jevent kind status who detail) := by
  unfold Engine.jevent
  extract_lets x e1 full
  have h1 : Noted e e1 := by
    obtain ⟨n, l, h⟩ := e.mirrorEvent_frame kind x.bytes
    dsimp only [e1]
    rw [h]
    rfl
  split
  · exact h1.trans rfl
  · exact h1.trans rfl

theorem Engine.coincide_noted (e : Engine) (slots : List Nat) : Noted e (e.coincide slots) := by
  unfold Engine.coincide
  split <;> rfl

end

/-! ### The end of a request and the stop vector (R57, R58, R77) -/

/-- A request whose end is decided. -/
def Rafter.ended (r : Rafter) (status reason : Nat) : Rafter := { r with state := .retiring, pendStatus := status, pendReason := reason }

section
variable {e : Engine} {slot : Nat} {r : Rafter}

theorem Engine.endRequest_req (e : Engine) (slot status reason j : Nat) : (e.endRequest slot status reason).req? j =
    if j = slot then (e.req? slot).map fun r => r.ended status reason else e.req? j := Table.get?_modify _ _ _ _

theorem Engine.applyStop_stop (e : Engine) (slot : Nat) : (e.applyStop slot).stop = insertNat slot e.stop := by
  unfold Engine.applyStop
  extract_lets e1
  split
  · rfl
  · split <;> rfl

/-- A stop bit makes a live request CANCELLING. -/
theorem Engine.applyStop_live (h : e.req? slot = some r) (hlive : r.state.live = true) : (e.applyStop slot).rafter =
    Table.put e.rafter slot { r with state := .cancelling, returnState := r.state, stopSeen := true } := by
  have h' : ({ e with stop := insertNat slot e.stop } : Engine).req? slot = some r := h
  have hrun : (r.state.running || r.state.paused) = true := hlive
  simp only [Engine.applyStop, h', hrun, if_true]
  rfl

/-- One that is ending or fenced it leaves. -/
theorem Engine.applyStop_other (h : e.req? slot = some r) (hlive : r.state.live = false) : (e.applyStop slot).rafter = e.rafter := by
  have h' : ({ e with stop := insertNat slot e.stop } : Engine).req? slot = some r := h
  have hrun : (r.state.running || r.state.paused) = false := hlive
  simp only [Engine.applyStop, h', hrun, Bool.false_eq_true, if_false]

theorem Engine.clearStop_stop (e : Engine) (slot : Nat) : slot ∉ (e.clearStop slot).stop := by
  have hgone : slot ∉ e.stop.filter (· != slot) := by simp
  unfold Engine.clearStop
  extract_lets e1
  split
  · exact hgone
  · split
    · split
      · exact hgone
      · exact hgone
    · exact hgone

/-- A cleared bit returns a cancelling request to the state it left. -/
theorem Engine.clearStop_returns (h : e.req? slot = some r) (hc : r.state = .cancelling) (hr : r.returnState ≠ .retiring) :
    (e.clearStop slot).rafter = Table.put e.rafter slot { r with state := r.returnState, stopSeen := false } := by
  have h' : ({ e with stop := e.stop.filter (· != slot) } : Engine).req? slot = some r := h
  simp only [Engine.clearStop, h', hc, beq_self_eq_true, if_true, beq_iff_eq, if_neg hr]
  rfl

/-- One that a RELEASE met while it was cancelling ends with OK. -/
theorem Engine.clearStop_released (h : e.req? slot = some r) (hc : r.state = .cancelling) (hr : r.returnState = .retiring) :
    (e.clearStop slot).req? slot = some { r with state := .retiring, stopSeen := false, pendStatus := Status.ok, pendReason := Reason.none } := by
  have h' : ({ e with stop := e.stop.filter (· != slot) } : Engine).req? slot = some r := h
  simp only [Engine.clearStop, h', hc, hr, beq_self_eq_true, if_true]
  rw [Engine.endRequest_req, if_pos rfl, Engine.req?_putReq_self]
  rfl

theorem Engine.clearStop_other (h : e.req? slot = some r) (hc : r.state ≠ .cancelling) : (e.clearStop slot).rafter = e.rafter := by
  have h' : ({ e with stop := e.stop.filter (· != slot) } : Engine).req? slot = some r := h
  simp only [Engine.clearStop, h', beq_iff_eq, if_neg hc]

end

/-! ### STOP_SET and STOP_CLEAR (R57 to R59, R239) -/

theorem exec_stopSet {s : State} (h : s.receives Isl.sb) (x : BitVec 32) :
    exec (.stopSet x) s = .next { s with eng := s.seen.stopWrite x true } := State.cross_receives h _ _

theorem exec_stopClear {s : State} (h : s.receives Isl.sb) (x : BitVec 32) :
    exec (.stopClear x) s = .next { s with eng := s.seen.stopWrite x false } := State.cross_receives h _ _

section
variable {e : Engine} {h : Handle} {r : Rafter} {set : Bool}

theorem Engine.lookup_req (hl : e.lookup h = some r) : e.req? (slotOf h) = some r ∧ r.handle = h := by
  unfold Engine.lookup at hl
  split at hl
  · cases hl
  · next r0 hr0 =>
    split at hl
    · next hc =>
      obtain rfl : r0 = r := Option.some.inj hl
      simp only [Bool.and_eq_true, beq_iff_eq] at hc
      exact ⟨hr0, hc.1.1⟩
    · cases hl

/-- A stop write to a live handle is noted, and then applied or taken back. -/
theorem Engine.stopWrite_live (hf : e.follows = false) (hl : e.lookup h = some r) :
    ∃ e1, Noted e e1 ∧ e.stopWrite h set = if set then e1.applyStop (slotOf h) else e1.clearStop (slotOf h) := by
  refine ⟨(((if set then e.countStopHold else e).hostActs (slotOf h)).jevent (if set then 0x03 else 0x04) 0 r.handle.toNat 0), ?_, ?_⟩
  · refine (Noted.trans ?_ (Engine.hostActs_noted _ _)).trans (Engine.jevent_noted _ _ _ _ _)
    cases set
    · exact .refl e
    · exact e.countStopHold_noted
  · simp only [Engine.stopWrite, hf, Bool.false_eq_true, if_false, hl]

/-- A stale handle, or any on an engine that follows, is only counted. -/
theorem Engine.stopWrite_stale (hst : e.follows = true ∨ e.lookup h = none) : e.stopWrite h set = e.bump Cnt.hruStopStale := by
  unfold Engine.stopWrite
  rcases hst with hf | hl
  · rw [hf]
    rfl
  · rw [hl, ite_self]

theorem Engine.stopSet_live (hf : e.follows = false) (hl : e.lookup h = some r) (hlive : r.state.live = true) {t : Engine}
    (ht : t = e.stopWrite h true) : slotOf h ∈ t.stop ∧
      t.req? (slotOf h) = some { r with state := .cancelling, returnState := r.state, stopSeen := true } ∧
      ∀ j, j ≠ slotOf h → t.req? j = e.req? j := by
  obtain ⟨e1, hnoted, hwrite⟩ := Engine.stopWrite_live (set := true) hf hl
  rw [if_pos rfl] at hwrite
  have hreq : e1.req? (slotOf h) = some r := by rw [hnoted.req_eq, (Engine.lookup_req hl).1]
  have hraf := Engine.applyStop_live hreq hlive
  subst ht
  rw [hwrite]
  refine ⟨?_, ?_, fun j hj => ?_⟩
  · rw [Engine.applyStop_stop]
    exact mem_insertNat _ _
  · rw [Engine.req?, hraf, Table.get?_put_self]
  · rw [Engine.req?, hraf, Table.get?_put_ne _ _ hj, hnoted.rafter_eq]
    rfl

theorem Engine.stopClear_returns (hf : e.follows = false) (hl : e.lookup h = some r) (hc : r.state = .cancelling)
    (hr : r.returnState ≠ .retiring) {t : Engine} (ht : t = e.stopWrite h false) : slotOf h ∉ t.stop ∧
      t.req? (slotOf h) = some { r with state := r.returnState, stopSeen := false } ∧ ∀ j, j ≠ slotOf h → t.req? j = e.req? j := by
  obtain ⟨e1, hnoted, hwrite⟩ := Engine.stopWrite_live (set := false) hf hl
  rw [if_neg Bool.false_ne_true] at hwrite
  have hreq : e1.req? (slotOf h) = some r := by rw [hnoted.req_eq, (Engine.lookup_req hl).1]
  have hraf := Engine.clearStop_returns hreq hc hr
  subst ht
  rw [hwrite]
  refine ⟨Engine.clearStop_stop _ _, ?_, fun j hj => ?_⟩
  · rw [Engine.req?, hraf, Table.get?_put_self]
  · rw [Engine.req?, hraf, Table.get?_put_ne _ _ hj, hnoted.rafter_eq]
    rfl

theorem Engine.stopClear_released (hf : e.follows = false) (hl : e.lookup h = some r) (hc : r.state = .cancelling)
    (hr : r.returnState = .retiring) : slotOf h ∉ (e.stopWrite h false).stop ∧ (e.stopWrite h false).req? (slotOf h) =
      some { r with state := .retiring, stopSeen := false, pendStatus := Status.ok, pendReason := Reason.none } := by
  obtain ⟨e1, hnoted, hwrite⟩ := Engine.stopWrite_live (set := false) hf hl
  rw [if_neg Bool.false_ne_true] at hwrite
  rw [hwrite]
  exact ⟨Engine.clearStop_stop _ _, Engine.clearStop_released (by rw [hnoted.req_eq, (Engine.lookup_req hl).1]) hc hr⟩

/-- A request that ends or is fenced takes the bit alone. -/
theorem Engine.stopSet_other (hf : e.follows = false) (hl : e.lookup h = some r) (hlive : r.state.live = false) :
    slotOf h ∈ (e.stopWrite h true).stop ∧ (e.stopWrite h true).rafter = e.rafter := by
  obtain ⟨e1, hnoted, hwrite⟩ := Engine.stopWrite_live (set := true) hf hl
  rw [if_pos rfl] at hwrite
  rw [hwrite, Engine.applyStop_stop, Engine.applyStop_other (by rw [hnoted.req_eq, (Engine.lookup_req hl).1]) hlive]
  exact ⟨mem_insertNat _ _, hnoted.rafter_eq⟩

theorem Engine.stopClear_other (hf : e.follows = false) (hl : e.lookup h = some r) (hc : r.state ≠ .cancelling) :
    slotOf h ∉ (e.stopWrite h false).stop ∧ (e.stopWrite h false).rafter = e.rafter := by
  obtain ⟨e1, hnoted, hwrite⟩ := Engine.stopWrite_live (set := false) hf hl
  rw [if_neg Bool.false_ne_true] at hwrite
  rw [hwrite, Engine.clearStop_other (by rw [hnoted.req_eq, (Engine.lookup_req hl).1]) hc]
  exact ⟨Engine.clearStop_stop _ _, hnoted.rafter_eq⟩

end

end Sys2Proof.Machine
end

section
/-!
# What the memory objects' upkeep touches

Pages raised and settled, versions placed, evicted and reloaded move the page manager, the variant store and what waits for them (R150,
R151, R178 to R181); requests, rings and the step stay.
-/

namespace Sys2Proof.Machine

/-- e' is e after upkeep of its pages and versions. -/
def Stores (e e' : Engine) : Prop :=
  e' = { e with pgm := e'.pgm, var := e'.var, adm := { e.adm with due := e'.adm.due, tenants := e'.adm.tenants },
                mdv := { e.mdv with opsDue := e'.mdv.opsDue }, cpc := e'.cpc, taken := e'.taken, cnt := e'.cnt, out := e'.out } ∧
    ∀ c, c < 0x40000 ∨ 0x60000 ≤ c → e'.count c = e.count c

section
variable {a b c e e' : Engine}

theorem Stores.refl (e : Engine) : Stores e e := ⟨rfl, fun _ _ => rfl⟩

theorem Stores.trans (h : Stores a b) (k : Stores b c) : Stores a c := by
  obtain ⟨h1, h2⟩ := h
  obtain ⟨k1, k2⟩ := k
  refine ⟨?_, fun n hn => (k2 n hn).trans (h2 n hn)⟩
  rw [k1, h1]

/-- Upkeep that counts nothing. -/
theorem Stores.of_eq (h : e' = { e with
      pgm := e'.pgm, var := e'.var, adm := { e.adm with due := e'.adm.due, tenants := e'.adm.tenants },
      mdv := { e.mdv with opsDue := e'.mdv.opsDue }, cpc := e'.cpc, taken := e'.taken, cnt := e'.cnt, out := e'.out })
    (hc : e'.cnt = e.cnt) : Stores e e' := ⟨h, fun n _ => Engine.count_congr hc n⟩

theorem Stores.foldl {α : Type} {f : Engine → α → Engine} (hf : ∀ e x, Stores e (f e x)) : ∀ (l : List α) (e : Engine), Stores e (l.foldl f e)
  | [], e => .refl e
  | x :: l, e => (hf e x).trans (Stores.foldl hf l (f e x))

/-- Upkeep counts in the page manager's and the variant store's counters. -/
theorem Stores.bump (e : Engine) {n : Nat} (h : 0x40000 ≤ n ∧ n < 0x60000) : Stores e (e.bump n) :=
  ⟨rfl, fun c hc => Engine.count_bump_ne e (by omega)⟩

theorem Stores.rafter_eq (h : Stores e e') : e'.rafter = e.rafter := by rw [h.1]
theorem Stores.hru_eq (h : Stores e e') : e'.hru = e.hru := by rw [h.1]
theorem Stores.held_eq (h : Stores e e') : e'.adm.held = e.adm.held := by rw [h.1]

/-- It leaves what an acknowledgement reads. -/
theorem Stores.alike (h : Stores e e') : AcksAlike e e' := by
  rw [h.1]
  exact ⟨rfl, rfl, rfl, rfl, rfl, rfl, rfl⟩

end

/-! ### Pages -/

section
variable (e : Engine)

theorem Engine.ops_stores (record : Nat) : Stores e (e.ops record) := by
  unfold Engine.ops
  split
  · exact .of_eq rfl rfl
  · exact .refl e

theorem Engine.wake_stores (hit : Rafter → Bool) : Stores e (e.wake hit) := by
  unfold Engine.wake
  extract_lets l
  split
  · exact .refl e
  · exact .of_eq rfl rfl

theorem Engine.wakeAll_stores : Stores e e.wakeAll := e.wake_stores _

theorem Engine.putPage_stores (p : Nat) (x : Page) : Stores e (e.putPage p x) :=
  (Stores.of_eq (e' := { e with pgm := { e.pgm with pages := Table.put e.pgm.pages p x } }) rfl rfl).trans (Engine.ops_stores _ _)

theorem Engine.modPage_stores (p : Nat) (f : Page → Page) : Stores e (e.modPage p f) := by
  unfold Engine.modPage
  split
  · exact e.putPage_stores _ _
  · exact .refl e

theorem Engine.undefLink_stores : Stores e e.undefLink.2 := .of_eq rfl rfl

theorem Engine.joinPages_stores (a b : Option Nat) : Stores e (e.joinPages a b) := by
  match a, b with
  | some a, some b => exact (e.modPage_stores _ _).trans (Engine.modPage_stores _ _ _)
  | some a, none => exact e.undefLink_stores.trans (Engine.modPage_stores _ _ _)
  | none, some b => exact e.undefLink_stores.trans (Engine.modPage_stores _ _ _)
  | none, none => exact .refl e

theorem Engine.enterCached_stores (p : Nat) : Stores e (e.enterCached p) := by
  unfold Engine.enterCached
  extract_lets last e1 e2
  have h2 : Stores e e2 := ((e.modPage_stores _ _).trans (Engine.joinPages_stores _ _ _)).trans (Engine.joinPages_stores _ _ _)
  exact (h2.trans (.of_eq rfl rfl)).trans (Engine.wakeAll_stores _)

theorem Engine.leaveCached_stores (p : Nat) : Stores e (e.leaveCached p) := by
  unfold Engine.leaveCached
  extract_lets l i before pgm e1
  split
  · exact .refl e
  · exact (Stores.of_eq rfl rfl).trans (e1.joinPages_stores _ _)

theorem Engine.putWay_stores (b w : Nat) (x : Way) : Stores e (e.putWay b w x) := by
  unfold Engine.putWay
  exact (Stores.of_eq rfl rfl).trans (Engine.ops_stores _ _)

theorem Engine.unindex_stores (p : Nat) : Stores e (e.unindex p) := by
  unfold Engine.unindex
  extract_lets x
  split
  · exact (e.putWay_stores _ _ _).trans (Engine.putPage_stores _ _ _)
  · exact .refl e

theorem Engine.giveFrame_stores (tier c frame : Nat) : Stores e (e.giveFrame tier c frame) := by
  unfold Engine.giveFrame
  split
  · split
    · exact .refl e
    · exact .of_eq rfl rfl
  · split
    · exact .of_eq rfl rfl
    · exact .refl e

theorem Engine.freeEntry_stores (p : Nat) : Stores e (e.freeEntry p) := by
  unfold Engine.freeEntry
  extract_lets e1
  exact ((e.ops_stores _).trans (.of_eq rfl rfl)).trans (Engine.wakeAll_stores _)

theorem Engine.freePage_stores (p : Nat) : Stores e (e.freePage p) :=
  (((e.unindex_stores p).trans (Engine.leaveCached_stores _ p)).trans (Engine.giveFrame_stores _ _ _ _)).trans (Engine.freeEntry_stores _ p)

theorem Engine.settle_stores (p : Nat) : Stores e (e.settle p) := by
  have hfree : ∀ b : Bool, Stores e (if b then e.freePage p else e) := fun b => by
    cases b
    · exact .refl e
    · exact e.freePage_stores p
  unfold Engine.settle
  extract_lets x
  split
  · exact .refl e
  · split
    · split
      · exact e.enterCached_stores p
      · split
        · exact e.freePage_stores p
        · exact .refl e
    · split
      · exact e.freePage_stores p
      · exact .refl e
    · exact hfree _
    · exact hfree _
    · exact .refl e

theorem Engine.dropHolder_stores (p : Nat) : Stores e (e.dropHolder p) := (e.putPage_stores _ _).trans (Engine.settle_stores _ _)

/-! ### Moves of pages (R150) -/

theorem Engine.askLeave_stores (ch1 : Bool) (cls cred : Nat) (why : LeaveFor) : Stores e (e.askLeave ch1 cls cred why).2 := by
  unfold Engine.askLeave Engine.putChannel
  extract_lets c tag
  dsimp only
  split <;> exact .of_eq rfl rfl

theorem Engine.gather_stores : Stores e e.gather := by
  unfold Engine.gather
  extract_lets live l go pgm e1
  split
  · exact .refl e
  · have h1 : Stores e e1 := .of_eq rfl rfl
    split
    · exact h1
    · refine h1.trans ?_
      unfold Engine.askBurst
      extract_lets bytes
      exact (e1.askLeave_stores _ _ _ _).trans (.of_eq rfl rfl)

theorem Engine.want_stores (w : WantedMove) : Stores e (e.want w) := by
  unfold Engine.want
  split
  · exact .refl e
  · exact (Stores.of_eq rfl rfl).trans (Engine.gather_stores _)

theorem Engine.cancelDown_stores (p : Nat) : Stores e (e.cancelDown p) := by
  unfold Engine.cancelDown
  split
  · exact .refl e
  · refine .trans ?_ (.bump _ (by decide))
    exact .of_eq rfl rfl

theorem Engine.raisePage_stores (why : MoveWhy) (slot p : Nat) : Stores e (e.raisePage why slot p) := by
  unfold Engine.raisePage
  extract_lets e1 pgm e2
  have h1 : Stores e e1 := by
    dsimp only [e1]
    split
    · exact e.cancelDown_stores p
    · exact .refl e
  split
  · exact (h1.trans (.of_eq rfl rfl)).trans (e2.want_stores _)
  · exact h1

theorem Engine.raiseList_stores (why : MoveWhy) (slot : Nat) : Stores e (e.raiseList why slot) :=
  .foldl (fun e p => e.raisePage_stores why slot p) _ e

/-! ### Versions -/

theorem Engine.modRecord_stores (a v : Nat) (f : VersionRec → VersionRec) : Stores e (e.modRecord a v f) := by
  unfold Engine.modRecord
  split
  · exact .refl e
  · exact .of_eq rfl rfl

theorem Engine.freeSlot_stores (s : Nat) : Stores e (e.freeSlot s) := by
  unfold Engine.freeSlot
  split
  · exact .refl e
  · extract_lets e1 var e2 e3
    have h1 : Stores e e1 := (e.modRecord_stores _ _ _).trans (Engine.ops_stores _ _)
    have h3 : Stores e e3 := (h1.trans (.of_eq rfl rfl)).trans e2.wakeAll_stores
    split
    · exact h3
    · exact h3.trans (.of_eq rfl rfl)

theorem Engine.addPheld_stores (t n : Nat) (up : Bool) : Stores e (e.addPheld t n up) := .of_eq rfl rfl

theorem Engine.opsPrefix_stores (p family state : Nat) : Stores e (e.opsPrefix p family state) := e.ops_stores _

theorem Engine.opsSlot_stores (s : Nat) (x : Slot) : Stores e (e.opsSlot s x) := by
  unfold Engine.opsSlot
  split
  · exact .refl e
  · exact e.ops_stores _

theorem Engine.evictSlot_stores (s : Nat) (x : Slot) : Stores e (e.evictSlot s x) :=
  ((e.modRecord_stores _ _ _).trans (Engine.freeSlot_stores _ _)).trans (.bump _ (by decide))

end

section
variable {e e' : Engine}

theorem Engine.demoteSlot_stores {s : Nat} {x : Slot} (h : e.demoteSlot s x = some e') : Stores e e' := by
  obtain ⟨g, -, rfl⟩ := Option.map_eq_some_iff.1 h
  refine .trans ?_ (Engine.opsSlot_stores _ _ _)
  exact (e.modRecord_stores _ _ _).trans (.of_eq rfl rfl)

theorem Engine.evictOne_stores {test : Slot → Bool} (h : e.evictOne test = some e') : Stores e e' := by
  obtain ⟨v, -, hv⟩ := List.exists_of_findSome?_eq_some h
  split at hv
  · exact Engine.demoteSlot_stores hv
  · obtain rfl := Option.some.inj hv
    exact e.evictSlot_stores _ _

theorem Engine.fitQuota_stores {fuel t : Nat} {e e' : Engine} (h : Engine.fitQuota fuel t e = some e') : Stores e e' := by
  induction fuel generalizing e with
  | zero =>
    unfold Engine.fitQuota at h
    split at h
    · exact Option.some.inj h ▸ .refl e
    · split at h
      · exact Option.some.inj h ▸ .refl e
      · cases h
  | succ fuel ih =>
    unfold Engine.fitQuota at h
    split at h
    · exact Option.some.inj h ▸ .refl e
    · split at h
      · exact Option.some.inj h ▸ .refl e
      · dsimp only at h
        split at h
        · cases h
        · next e1 he1 => exact (Engine.evictOne_stores he1).trans (ih h)

theorem Engine.findSlot_stores {fuel n s g : Nat} {e e' : Engine} (h : Engine.findSlot fuel n e = some (s, g, e')) : Stores e e' := by
  induction fuel generalizing e with
  | zero =>
    rw [Engine.findSlot_zero] at h
    split at h
    · cases h
      exact .refl _
    · cases h
  | succ fuel ih =>
    rw [Engine.findSlot_succ] at h
    split at h
    · cases h
      exact .refl _
    · split at h
      · cases h
      · next e1 he1 => exact (Engine.evictOne_stores he1).trans (ih h)

theorem Engine.placeVersion_stores {a v family owner size s : Nat}
    (h : (e.placeVersion a v family owner size).2 = some (s, e')) : Stores e e' := by
  cases hquota : Engine.fitQuota 16384 owner e with
  | none => simp [Engine.placeVersion, hquota] at h
  | some e1 =>
    cases hslot : Engine.findSlot 16384 (ceilDiv size 16) e1 with
    | none => simp [Engine.placeVersion, hquota, hslot] at h
    | some x =>
      obtain ⟨s', g, e2⟩ := x
      simp only [Engine.placeVersion, hquota, hslot, Option.some.injEq, Prod.mk.injEq] at h
      obtain ⟨-, rfl⟩ := h
      exact ((Engine.fitQuota_stores hquota).trans (Engine.findSlot_stores hslot)).trans (.of_eq rfl rfl)

theorem Engine.startReload_stores {a v : Nat} (h : e.startReload a v = some e') : Stores e e' := by
  unfold Engine.startReload at h
  split at h
  · split at h
    · split at h
      · cases h
      · next s e1 h1 =>
        extract_lets e2 e3 at h
        obtain rfl := Option.some.inj h
        have h3 : Stores e2 e3 := by
          dsimp only [e3]
          split
          · exact e2.opsSlot_stores _ _
          · exact .refl e2
        refine .trans (((Engine.placeVersion_stores h1).trans (e1.modRecord_stores _ _ _)).trans h3) ?_
        refine .trans ?_ (.bump _ (by decide))
        exact .of_eq rfl rfl
    · cases h
  · cases h

theorem Engine.nextReload_stores {j : Job} {l : List (Nat × Nat)} (h : e.nextReload l = some (j, e')) : Stores e e' := by
  induction l with
  | nil => cases h
  | cons x l ih =>
    obtain ⟨a, v⟩ := x
    unfold Engine.nextReload at h
    split at h
    · split at h
      · cases h
        exact .refl e
      · exact ih h
    · split at h
      · next x hx =>
        cases h
        obtain ⟨e1, h1, h2⟩ := Option.bind_eq_some_iff.1 hx
        obtain ⟨j', -, h3⟩ := Option.map_eq_some_iff.1 h2
        cases h3
        exact Engine.startReload_stores h1
      · exact ih h

theorem Engine.nextJobOf_stores {j : Job} (h : e.nextJobOf = some (j, e')) : Stores e e' := by
  unfold Engine.nextJobOf at h
  extract_lets first at h
  split at h
  · cases h
    exact .refl e
  · split at h
    · next x hx =>
      cases h
      exact Engine.nextReload_stores hx
    · obtain ⟨j', -, h1⟩ := Option.map_eq_some_iff.1 h
      cases h1
      exact .refl e

theorem Engine.nextLoadBurst_stores (e : Engine) : Stores e e.nextLoadBurst := by
  unfold Engine.nextLoadBurst
  split
  · exact .refl e
  · split
    · exact .refl e
    · next j e1 h1 =>
      extract_lets n bytes
      have hask := e1.askLeave_stores true 3 (e1.credits (e1.energy 3 * bytes)) .load
      exact ((Engine.nextJobOf_stores h1).trans hask).trans (.of_eq rfl rfl)

theorem Engine.wantReload_stores (e : Engine) (a v rank : Nat) : Stores e (e.wantReload a v rank) := by
  unfold Engine.wantReload
  extract_lets due rest l e1
  split
  · exact .refl e
  · split
    · exact e.nextLoadBurst_stores
    · exact (Stores.of_eq rfl rfl).trans (Engine.nextLoadBurst_stores _)

end

end Sys2Proof.Machine
end

section
/-!
# Stop bits and timers

What a stop write, a passed deadline, a park expiry and the tick do to requests (R57 to R59, R76 to R78, R89).
-/

namespace Sys2Proof.Machine

theorem exec_deadlinePass {s : State} (h : s.serves Isl.sb) (k : BitVec 18) : exec (.deadlinePass k) s =
    .next { s with eng := ((s.seen.coincide [k.toNat]).expireDeadline k.toNat).expireHeld k.toNat } :=
  State.actIn_serves h fun e => ((e.coincide [k.toNat]).expireDeadline k.toNat).expireHeld k.toNat

theorem exec_parkExpiryPass {s : State} (h : s.serves Isl.sb) (k : BitVec 18) : exec (.parkExpiryPass k) s =
    .next { s with eng := (s.seen.coincide [k.toNat]).expirePark k.toNat } :=
  State.actIn_serves h fun e => (e.coincide [k.toNat]).expirePark k.toNat

theorem exec_deadlineTick {s : State} (h : s.serves Isl.sb) : exec .deadlineTick s = .next { s with eng := s.seen.deadlineScan } :=
  State.actIn_serves h Engine.deadlineScan

/-! ### A held SUBMIT ends (R89) -/

/-- e' has the requests and the held SUBMITs of e, and has counted no hold's deadline. -/
def HeldKept (e e' : Engine) : Prop :=
  e'.rafter = e.rafter ∧ e'.adm.held = e.adm.held ∧ e'.count Cnt.admHoldDl = e.count Cnt.admHoldDl

section
variable {a b c e e' : Engine}

theorem HeldKept.refl (e : Engine) : HeldKept e e := ⟨rfl, rfl, rfl⟩

theorem HeldKept.trans (h : HeldKept a b) (k : HeldKept b c) : HeldKept a c := by
  obtain ⟨h1, h2, h3⟩ := h
  obtain ⟨k1, k2, k3⟩ := k
  exact ⟨k1.trans h1, k2.trans h2, k3.trans h3⟩

theorem Stores.heldKept (h : Stores e e') : HeldKept e e' := ⟨h.rafter_eq, h.held_eq, h.2 _ (by decide)⟩

theorem AckOnly.heldKept (h : AckOnly e e') : HeldKept e e' :=
  ⟨h.rafter_eq, by rw [h.adm_eq], h.count _ (by decide) (by decide)⟩

theorem HeldKept.foldl {α : Type} {f : Engine → α → Engine} (hf : ∀ e x, HeldKept e (f e x)) :
    ∀ (l : List α) (e : Engine), HeldKept e (l.foldl f e)
  | [], e => .refl e
  | x :: l, e => (hf e x).trans (HeldKept.foldl hf l (f e x))

theorem Engine.ackRetires_heldKept (e : Engine) (a v : Nat) (x : Addition) : HeldKept e (e.ackRetires a v x) := by
  unfold Engine.ackRetires
  extract_lets left done x' var e1
  have h1 : HeldKept e e1 := by
    dsimp only [e1]
    split <;> exact ⟨rfl, rfl, rfl⟩
  exact h1.trans (.foldl (fun e t => (e.ackAt_ackOnly _ _).heldKept) _ e1)

theorem Engine.emptyRecord_heldKept (e : Engine) (a v : Nat) : HeldKept e (e.emptyRecord a v) := by
  unfold Engine.emptyRecord
  split
  · exact .refl e
  · exact (e.ackRetires_heldKept _ _ _).trans (Stores.bump _ (by decide)).heldKept

theorem Engine.settleRecord_heldKept (e : Engine) (a v : Nat) : HeldKept e (e.settleRecord a v) := by
  unfold Engine.settleRecord
  split
  · exact .refl e
  · split
    · exact .refl e
    · split
      · exact e.emptyRecord_heldKept a v
      · split
        · exact (e.freeSlot_stores _).heldKept.trans (Engine.emptyRecord_heldKept _ a v)
        · exact .refl e

theorem Engine.settlePrefix_heldKept (e : Engine) (p : Nat) : HeldKept e (e.settlePrefix p) := by
  unfold Engine.settlePrefix
  split
  · exact .refl e
  · extract_lets named var e1 e2
    split
    · exact .refl e
    · have h1 : Stores e e1 := (Stores.of_eq rfl rfl).trans (Engine.opsPrefix_stores _ _ _ _)
      have h2 : Stores e e2 := h1.trans (.foldl (fun e q => e.dropHolder_stores q) _ e1)
      exact (h2.trans (e2.addPheld_stores _ _ _)).heldKept.trans (Engine.ackAt_ackOnly _ _ _).heldKept

theorem Engine.settleNamed_heldKept (e : Engine) (r : Rafter) : HeldKept e (e.settleNamed r) := by
  unfold Engine.settleNamed
  extract_lets e1
  have h1 : HeldKept e e1 := by
    dsimp only [e1]
    split
    · exact e.settleRecord_heldKept _ _
    · exact .refl e
  split
  · exact h1.trans (e1.settlePrefix_heldKept _)
  · exact h1

/-- A SUBMIT that ends by its deadline leaves its slot, the held ones and the staging store, and is counted by none but its caller. -/
theorem Engine.refuse_deadline {slot : Nat} {r : Rafter} (h : e.req? slot = some r) {t : Engine}
    (ht : t = e.refuse slot Status.deadline) : t.req? slot = none ∧ (∀ x ∈ t.adm.held, x.slot ≠ slot) ∧
      t.staged? r.ackRing r.ackPos = none ∧ t.count Cnt.admHoldDl = e.count Cnt.admHoldDl := by
  simp only [Engine.refuse, h, Status.deadline, Status.quota, Status.noFit, Status.additionMissing,
    Nat.reduceEqDiff, if_false] at ht
  generalize he1 : e.releaseReservation slot = e1 at ht
  have hcnt1 : e1.count Cnt.admHoldDl = e.count Cnt.admHoldDl := by
    rw [← he1, Engine.releaseReservation]
    split
    · rfl
    · exact ((Engine.wakeAll_stores _).2 Cnt.admHoldDl (by decide)).trans (Engine.count_congr rfl _)
  generalize he2 : ({ e1 with rafter := Table.del e1.rafter slot, slots := e1.slots.give slot, adm := _, pgm := _ } : Engine) = e2 at ht
  have h2 : e2.req? slot = none ∧ (∀ x ∈ e2.adm.held, x.slot ≠ slot) ∧ e2.count Cnt.admHoldDl = e.count Cnt.admHoldDl := by
    rw [← he2]
    refine ⟨Table.get?_del_self _ _, fun x hx => ?_, hcnt1⟩
    simpa using (List.mem_filter.1 hx).2
  generalize he3 : (e2.wake fun x => x.tenant == r.tenant).settleNamed r = e3 at ht
  have h3 : HeldKept e2 e3 := by
    rw [← he3]
    exact (e2.wake_stores _).heldKept.trans (Engine.settleNamed_heldKept _ r)
  have hdone : HeldKept e2 t ∧ t.staged? r.ackRing r.ackPos = none := by
    rw [ht]
    split
    · next hnone => exact ⟨h3, hnone⟩
    · next d hd =>
      have hplace : d.ring = r.ackRing ∧ d.pos = r.ackPos := by simpa using List.find?_some hd
      obtain ⟨hring, hpos⟩ := hplace
      rw [← hring, ← hpos]
      exact ⟨h3.trans (Engine.ackWith_ackOnly _ _ _ _ _).heldKept, (e3.ackWith_unstaged d _ _ _).1⟩
  obtain ⟨⟨hraf, hheld, hcnt⟩, hstaged⟩ := hdone
  obtain ⟨hreq2, hheld2, hcnt2⟩ := h2
  refine ⟨?_, ?_, hstaged, hcnt.trans hcnt2⟩
  · rw [Engine.req?, hraf]
    exact hreq2
  · rw [hheld]
    exact hheld2

end

/-! ### One timer of one request (R76, R77) -/

section
variable {e : Engine} {slot : Nat} {r : Rafter}

theorem Engine.expireDeadline_due (h : e.req? slot = some r) (hen : e.flag Fld.sbCtlDeadlineEn = true)
    (hst : r.state.running = true ∨ r.state = .restoring) {j : Nat} (hj : r.passedDeadline e.us = some j) :
    e.expireDeadline slot = (e.endRequest slot Status.deadline Reason.deadline).bump (deadlineCounter j) := by
  have hgo : (e.flag Fld.sbCtlDeadlineEn && (r.state.running || r.state == .restoring)) = true := by
    rw [hen, Bool.true_and, Bool.or_eq_true, beq_iff_eq]
    exact hst
  simp only [Engine.expireDeadline, h, hgo, if_true, hj]

/-- A request with no passed deadline of its active set stays. -/
theorem Engine.expireDeadline_idle (h : e.req? slot = some r) (hidle : ∀ j, ¬ (e.flag Fld.sbCtlDeadlineEn = true ∧
    (r.state.running = true ∨ r.state = .restoring) ∧ r.passedDeadline e.us = some j)) : e.expireDeadline slot = e := by
  simp only [Engine.expireDeadline, h]
  split
  · next hgo =>
    rw [Bool.and_eq_true, Bool.or_eq_true, beq_iff_eq] at hgo
    split
    · rfl
    · next j hj => exact absurd ⟨hgo.1, hgo.2, hj⟩ (hidle j)
  · rfl

theorem Engine.expirePark_due (h : e.req? slot = some r) (hen : e.flag Fld.sbCtlDeadlineEn = true)
    (hst : r.state = .parked ∨ r.state = .spilled) (hp : passed r.parkExpiry e.us = true) :
    e.expirePark slot = (e.endRequest slot Status.deadline Reason.deadline).bump Cnt.sbParkExpired := by
  have hgo : (e.flag Fld.sbCtlDeadlineEn && (r.state == .parked || r.state == .spilled) && passed r.parkExpiry e.us) = true := by
    rw [hen, hp, Bool.true_and, Bool.and_true, Bool.or_eq_true, beq_iff_eq, beq_iff_eq]
    exact hst
  simp only [Engine.expirePark, h, hgo, if_true]

theorem Engine.expirePark_idle (h : e.req? slot = some r) (hidle : ¬ ((r.state = .parked ∨ r.state = .spilled) ∧
    e.flag Fld.sbCtlDeadlineEn = true ∧ passed r.parkExpiry e.us = true)) : e.expirePark slot = e := by
  simp only [Engine.expirePark, h]
  rw [if_neg]
  rw [Bool.and_eq_true, Bool.and_eq_true, Bool.or_eq_true, beq_iff_eq, beq_iff_eq]
  exact fun hgo => hidle ⟨hgo.1.2, hgo.1.1, hgo.2⟩

/-- Where no SUBMIT of the slot is held. -/
theorem Engine.expireHeld_none (h : ∀ x ∈ e.adm.held, x.slot ≠ slot) : e.expireHeld slot = e := by
  have hnone : e.adm.held.find? (fun h => h.slot == slot) = none := by
    rw [List.find?_eq_none]
    exact fun x hx => by simpa using h x hx
  simp only [Engine.expireHeld, hnone]

theorem Engine.expireHeld_due (h : e.req? slot = some r) (hheld : (e.adm.held.any fun h => h.slot == slot) = true)
    (hen : e.flag Fld.sbCtlDeadlineEn = true) (hp : passed r.ttft e.us = true ∨ passed r.total e.us = true) :
    e.expireHeld slot = (e.refuse slot Status.deadline).bump Cnt.admHoldDl := by
  obtain ⟨x, hx⟩ : ∃ x, e.adm.held.find? (fun h => h.slot == slot) = some x := by
    rw [← Option.isSome_iff_exists, List.find?_isSome]
    simpa using hheld
  have hgo : (e.flag Fld.sbCtlDeadlineEn && (passed r.ttft e.us || passed r.total e.us)) = true := by
    rw [hen, Bool.true_and, Bool.or_eq_true]
    exact hp
  simp only [Engine.expireHeld, hx, h, hgo, if_true]

end

/-- A coincidence is counted in its own counter. -/
theorem Engine.coincide_count (e : Engine) (slots : List Nat) {c : Nat} (h : c ≠ Cnt.sbCoincide) :
    (e.coincide slots).count c = e.count c := by
  unfold Engine.coincide
  split
  · exact Engine.count_bumpBy_ne _ _ h
  · rfl

theorem deadlineCounter_ne (j : Nat) : deadlineCounter j ≠ Cnt.sbCoincide := by
  unfold deadlineCounter
  split <;> decide

theorem Noted.flag_eq {e e' : Engine} (h : Noted e e') (f : Field) : e'.flag f = e.flag f := Engine.flag_congr (by rw [h]) f

/-! ### The clauses of O39 on one request -/

section
variable {s : State} {k : BitVec 18} {r : Rafter}

theorem deadlinePass_overdue {j : Nat} (hs : s.serves Isl.sb) (h : s.eng.req? k.toNat = some r) (hdue : s.overdue r j)
    (hheld : ∀ x ∈ s.eng.adm.held, x.slot ≠ k.toNat) : ∃ t, exec (.deadlinePass k) s = .next t ∧
      t.eng.req? k.toNat = some { r with state := .retiring, pendStatus := Status.deadline, pendReason := Reason.deadline } ∧
      t.eng.count (deadlineCounter j) = s.eng.count (deadlineCounter j) + 1#32 ∧
      (∀ i, i ≠ k.toNat → t.eng.req? i = s.eng.req? i) := by
  obtain ⟨hen, hst, hj⟩ := hdue
  refine ⟨_, exec_deadlinePass hs k, ?_⟩
  have hnoted := s.seen.coincide_noted [k.toNat]
  have hcnt := s.seen.coincide_count [k.toNat] (deadlineCounter_ne j)
  generalize s.seen.coincide [k.toNat] = e1 at hnoted hcnt
  have hreq1 : e1.req? k.toNat = some r := (hnoted.req_eq _).trans h
  have hdue1 := Engine.expireDeadline_due hreq1 ((hnoted.flag_eq _).trans hen) hst (j := j) (by rw [hnoted.us_eq]; exact hj)
  have hheld1 : ∀ x ∈ (e1.expireDeadline k.toNat).adm.held, x.slot ≠ k.toNat := by
    rw [hdue1]
    exact fun x hx => hheld x (by rw [← show e1.adm.held = s.eng.adm.held from hnoted.held_eq]; exact hx)
  dsimp only
  rw [Engine.expireHeld_none hheld1, hdue1]
  have hreq : ∀ i, ((e1.endRequest k.toNat Status.deadline Reason.deadline).bump (deadlineCounter j)).req? i =
      if i = k.toNat then some (r.ended Status.deadline Reason.deadline) else s.eng.req? i := by
    intro i
    have hend := e1.endRequest_req k.toNat Status.deadline Reason.deadline i
    rw [hreq1, Option.map_some, hnoted.req_eq] at hend
    exact hend
  refine ⟨(hreq _).trans (if_pos rfl), ?_, fun i hi => (hreq i).trans (if_neg hi)⟩
  rw [Engine.count_bump_self]
  exact congrArg (· + 1#32) hcnt

theorem deadlinePass_held (hs : s.serves Isl.sb) (h : s.eng.req? k.toNat = some r) (hadm : r.state = .admitting)
    (hheld : (s.eng.adm.held.any fun h => h.slot == k.toNat) = true) (hen : s.eng.flag Fld.sbCtlDeadlineEn = true)
    (hp : passed r.ttft (s.tb.count / 1000) = true ∨ passed r.total (s.tb.count / 1000) = true) :
    ∃ t, exec (.deadlinePass k) s = .next t ∧ t.eng.req? k.toNat = none ∧ (∀ h ∈ t.eng.adm.held, h.slot ≠ k.toNat) ∧
      t.eng.staged? r.ackRing r.ackPos = none ∧ t.eng.count Cnt.admHoldDl = s.eng.count Cnt.admHoldDl + 1#32 := by
  refine ⟨_, exec_deadlinePass hs k, ?_⟩
  have hnoted := s.seen.coincide_noted [k.toNat]
  have hcnt := s.seen.coincide_count [k.toNat] (c := Cnt.admHoldDl) (by decide)
  generalize s.seen.coincide [k.toNat] = e1 at hnoted hcnt
  have hreq1 : e1.req? k.toNat = some r := (hnoted.req_eq _).trans h
  have hidle : e1.expireDeadline k.toNat = e1 := by
    refine Engine.expireDeadline_idle hreq1 fun j hj => ?_
    rw [hadm] at hj
    rcases hj.2.1 with hrun | hrest
    · cases hrun
    · cases hrest
  have hdue := Engine.expireHeld_due hreq1 (by rw [hnoted.held_eq]; exact hheld) ((hnoted.flag_eq _).trans hen)
    (by rw [hnoted.us_eq]; exact hp)
  dsimp only
  rw [hidle, hdue]
  obtain ⟨hreq, hgone, hstaged, hcount⟩ := Engine.refuse_deadline hreq1 rfl
  refine ⟨hreq, hgone, hstaged, ?_⟩
  rw [Engine.count_bump_self, hcount]
  exact congrArg (· + 1#32) hcnt

theorem parkExpiryPass_parked (hs : s.serves Isl.sb) (h : s.eng.req? k.toNat = some r) (hen : s.eng.flag Fld.sbCtlDeadlineEn = true)
    (hst : r.state = .parked ∨ r.state = .spilled) (hp : passed r.parkExpiry (s.tb.count / 1000) = true) :
    ∃ t, exec (.parkExpiryPass k) s = .next t ∧
      t.eng.req? k.toNat = some { r with state := .retiring, pendStatus := Status.deadline, pendReason := Reason.deadline } ∧
      t.eng.count Cnt.sbParkExpired = s.eng.count Cnt.sbParkExpired + 1#32 := by
  refine ⟨_, exec_parkExpiryPass hs k, ?_⟩
  have hnoted := s.seen.coincide_noted [k.toNat]
  have hcnt := s.seen.coincide_count [k.toNat] (c := Cnt.sbParkExpired) (by decide)
  generalize s.seen.coincide [k.toNat] = e1 at hnoted hcnt
  have hreq1 : e1.req? k.toNat = some r := (hnoted.req_eq _).trans h
  dsimp only
  rw [Engine.expirePark_due hreq1 ((hnoted.flag_eq _).trans hen) hst (by rw [hnoted.us_eq]; exact hp)]
  have hend := e1.endRequest_req k.toNat Status.deadline Reason.deadline k.toNat
  rw [if_pos rfl, hreq1] at hend
  refine ⟨hend, ?_⟩
  rw [Engine.count_bump_self]
  exact congrArg (· + 1#32) hcnt

end

/-! ### The tick (R76, R77) -/

/-- Has the tick a deadline or a park expiry of the request to act on? -/
def Rafter.timedOut (r : Rafter) (us : Nat) : Prop :=
  ((r.state.running = true ∨ r.state = .restoring) ∧ ∃ j, r.passedDeadline us = some j) ∨
    ((r.state = .parked ∨ r.state = .spilled) ∧ passed r.parkExpiry us = true)

/-- A request that ends has no timer. -/
theorem Rafter.not_timedOut_ended (r : Rafter) (us status reason : Nat) : ¬ (r.ended status reason).timedOut us := by
  rintro (⟨h | h, -⟩ | ⟨h | h, -⟩) <;> cases h

/-- The tick on one slot. -/
def Engine.tickSlot (e : Engine) (slot : Nat) : Engine := ((e.expireDeadline slot).expirePark slot).expireHeld slot

/-- What a slot reads after the tick: the request ended where a timer of it has passed. -/
def Ticked (e e' : Engine) (slot : Nat) : Prop :=
  ∀ r, e.req? slot = some r →
    (e.flag Fld.sbCtlDeadlineEn = true → r.timedOut e.us → e'.req? slot = some (r.ended Status.deadline Reason.deadline)) ∧
      (¬ (e.flag Fld.sbCtlDeadlineEn = true ∧ r.timedOut e.us) → e'.req? slot = some r)

/-- e' has the timers' inputs of e, and its requests but for one slot. -/
def TickKept (slot : Nat) (e e' : Engine) : Prop :=
  e'.adm.held = e.adm.held ∧ e'.us = e.us ∧ e'.flag Fld.sbCtlDeadlineEn = e.flag Fld.sbCtlDeadlineEn ∧
    ∀ j, j ≠ slot → e'.req? j = e.req? j

theorem TickKept.refl (slot : Nat) (e : Engine) : TickKept slot e e := ⟨rfl, rfl, rfl, fun _ _ => rfl⟩

/-- A request that ends and is counted. -/
theorem Engine.endCounted_spec (e : Engine) (slot c : Nat) :
    TickKept slot e ((e.endRequest slot Status.deadline Reason.deadline).bump c) ∧ ∀ r, e.req? slot = some r →
      ((e.endRequest slot Status.deadline Reason.deadline).bump c).req? slot = some (r.ended Status.deadline Reason.deadline) := by
  refine ⟨⟨rfl, rfl, Engine.flag_congr rfl _, fun j hj => ?_⟩, fun r hr => ?_⟩
  · exact (e.endRequest_req slot Status.deadline Reason.deadline j).trans (if_neg hj)
  · have hend := e.endRequest_req slot Status.deadline Reason.deadline slot
    rw [if_pos rfl, hr] at hend
    exact hend

/-- With no SUBMIT held the tick on a slot acts on its own request alone. -/
theorem Engine.tickSlot_spec {e : Engine} {slot : Nat} (hheld : e.adm.held = []) :
    TickKept slot e (e.tickSlot slot) ∧ Ticked e (e.tickSlot slot) slot := by
  have hnone : ∀ a : Engine, TickKept slot e a → a.expireHeld slot = a := fun a ha =>
    Engine.expireHeld_none (by rw [ha.1, hheld]; exact fun x hx => by cases hx)
  unfold Engine.tickSlot
  cases hreq : e.req? slot with
  | none =>
    have hsame : (e.expireDeadline slot).expirePark slot = e := by simp only [Engine.expireDeadline, Engine.expirePark, hreq]
    rw [hsame, hnone e (.refl slot e)]
    exact ⟨.refl slot e, fun r hr => by rw [hreq] at hr; cases hr⟩
  | some r =>
    have hended : ∀ c, (e.flag Fld.sbCtlDeadlineEn = true ∧ r.timedOut e.us) →
        TickKept slot e ((e.endRequest slot Status.deadline Reason.deadline).bump c) ∧
          Ticked e ((e.endRequest slot Status.deadline Reason.deadline).bump c) slot := by
      intro c hdue
      obtain ⟨hkept, hend⟩ := e.endCounted_spec slot c
      refine ⟨hkept, fun r' hr' => ?_⟩
      obtain rfl : r = r' := Option.some.inj (hreq.symm.trans hr')
      exact ⟨fun _ _ => hend r hreq, fun hnot => absurd hdue hnot⟩
    by_cases hdl : e.flag Fld.sbCtlDeadlineEn = true ∧ (r.state.running = true ∨ r.state = .restoring) ∧
        ∃ j, r.passedDeadline e.us = some j
    · obtain ⟨hen, hst, j, hj⟩ := hdl
      obtain ⟨hkept, hend⟩ := e.endCounted_spec slot (deadlineCounter j)
      rw [Engine.expireDeadline_due hreq hen hst hj, Engine.expirePark_idle (hend r hreq), hnone _ hkept]
      · exact hended _ ⟨hen, .inl ⟨hst, j, hj⟩⟩
      · rintro ⟨h | h, -⟩ <;> cases h
    · rw [Engine.expireDeadline_idle hreq fun j hj => hdl ⟨hj.1, hj.2.1, j, hj.2.2⟩]
      by_cases hpk : (r.state = .parked ∨ r.state = .spilled) ∧ e.flag Fld.sbCtlDeadlineEn = true ∧ passed r.parkExpiry e.us = true
      · obtain ⟨hst, hen, hp⟩ := hpk
        rw [Engine.expirePark_due hreq hen hst hp, hnone _ (e.endCounted_spec slot Cnt.sbParkExpired).1]
        exact hended _ ⟨hen, .inr ⟨hst, hp⟩⟩
      · rw [Engine.expirePark_idle hreq hpk, hnone e (.refl slot e)]
        refine ⟨.refl slot e, fun r' hr' => ?_⟩
        obtain rfl : r = r' := Option.some.inj (hreq.symm.trans hr')
        refine ⟨fun hen hdue => ?_, fun _ => hreq⟩
        rcases hdue with ⟨hst, hj⟩ | ⟨hst, hp⟩
        · exact absurd ⟨hen, hst, hj⟩ hdl
        · exact absurd ⟨hst, hen, hp⟩ hpk

/-- The tick over a list of slots ends each request of them that has timed out, and no other. -/
theorem Engine.foldl_tickSlot {k : Nat} : ∀ (l : List Nat) {e : Engine}, e.adm.held = [] → ∀ r, e.req? k = some r →
    (e.flag Fld.sbCtlDeadlineEn = true → r.timedOut e.us → k ∈ l →
      (l.foldl Engine.tickSlot e).req? k = some (r.ended Status.deadline Reason.deadline)) ∧
    (¬ (e.flag Fld.sbCtlDeadlineEn = true ∧ r.timedOut e.us) → (l.foldl Engine.tickSlot e).req? k = some r)
  | [], _, _, _, hr => ⟨fun _ _ hk => absurd hk List.not_mem_nil, fun _ => hr⟩
  | slot :: l, e, hheld, r, hr => by
    obtain ⟨⟨hkheld, hus, hen, hother⟩, hticked⟩ := Engine.tickSlot_spec (slot := slot) hheld
    have ih := Engine.foldl_tickSlot (k := k) l (e := e.tickSlot slot) (hkheld.trans hheld)
    rw [hen, hus] at ih
    rw [List.foldl_cons]
    by_cases hk : k = slot
    · subst hk
      obtain ⟨hdue, hidle⟩ := hticked r hr
      refine ⟨fun hflag htime _ => ?_, fun hnot => (ih r (hidle hnot)).2 hnot⟩
      exact (ih _ (hdue hflag htime)).2 fun h => (r.not_timedOut_ended _ _ _) h.2
    · obtain ⟨hdue, hidle⟩ := ih r ((hother k hk).trans hr)
      exact ⟨fun hflag htime hmem => hdue hflag htime ((List.mem_cons.1 hmem).resolve_left hk), hidle⟩

theorem deadlineTick_ends {s : State} {k : Nat} {r : Rafter} (hheld : s.eng.adm.held = []) (h : s.eng.req? k = some r) :
    (s.eng.flag Fld.sbCtlDeadlineEn = true → r.timedOut (s.tb.count / 1000) →
      s.seen.deadlineScan.req? k = some (r.ended Status.deadline Reason.deadline)) ∧
    (¬ (s.eng.flag Fld.sbCtlDeadlineEn = true ∧ r.timedOut (s.tb.count / 1000)) → s.seen.deadlineScan.req? k = some r) := by
  have hnoted := s.seen.coincide_noted (Table.keys s.seen.rafter)
  obtain ⟨hdue, hidle⟩ := Engine.foldl_tickSlot (k := k) (Table.keys s.seen.rafter)
    (e := s.seen.coincide (Table.keys s.seen.rafter)) (hnoted.held_eq.trans hheld) r ((hnoted.req_eq k).trans h)
  rw [hnoted.flag_eq, hnoted.us_eq] at hdue hidle
  exact ⟨fun hen htime => hdue hen htime (Table.mem_keys_of_get? h), hidle⟩

/-- Settles O39: stop bits cancel and give back, and the timers end what has passed its time and nothing else. -/
theorem stopBitsAndTimers : Obligations.StopBitsAndTimers := by
  refine ⟨fun s h r hs hf hl hlive => ⟨_, exec_stopSet hs h, Engine.stopSet_live (e := s.seen) hf hl hlive rfl⟩,
    fun s h r hs hf hl hc hr => ⟨_, exec_stopClear hs h, Engine.stopClear_returns (e := s.seen) hf hl hc hr rfl⟩,
    fun s h r hs hf hl hc hr => ⟨_, exec_stopClear hs h, Engine.stopClear_released (e := s.seen) hf hl hc hr⟩,
    fun s h r hs hf hl hlive => ⟨⟨_, exec_stopSet hs h, Engine.stopSet_other (e := s.seen) hf hl hlive⟩,
      fun hc => ⟨_, exec_stopClear hs h, Engine.stopClear_other (e := s.seen) hf hl hc⟩⟩,
    fun s h c hs hst hc => ?_, fun s k r j hs => deadlinePass_overdue hs, fun s k r hs => deadlinePass_held hs,
    fun s k r hs => parkExpiryPass_parked hs, fun s hs hheld => ⟨_, exec_deadlineTick hs, fun k r h => ?_⟩⟩
  · have hstale : ∀ set, s.seen.stopWrite h set = s.seen.bump Cnt.hruStopStale := fun set => Engine.stopWrite_stale hst
    have hcount : (s.seen.bump Cnt.hruStopStale).count Cnt.hruStopStale = s.eng.count Cnt.hruStopStale + 1#32 :=
      Engine.count_bump_self _ _
    rcases hc with rfl | rfl
    · exact ⟨_, exec_stopSet hs h, by rw [hstale]; exact ⟨rfl, rfl, hcount⟩⟩
    · exact ⟨_, exec_stopClear hs h, by rw [hstale]; exact ⟨rfl, rfl, hcount⟩⟩
  · obtain ⟨hdue, hidle⟩ := deadlineTick_ends hheld h
    refine ⟨fun j hj => hdue hj.1 (.inl ⟨hj.2.1, j, hj.2.2⟩), fun hst hen hp => hdue hen (.inr ⟨hst, hp⟩), fun hno hpk => hidle ?_⟩
    rintro ⟨hen, ⟨hst, j, hj⟩ | ⟨hst, hp⟩⟩
    · exact hno j ⟨hen, hst, hj⟩
    · exact hpk ⟨hst, hen, hp⟩

end Sys2Proof.Machine
end

section
/-!
# Descriptors of a live request

What APPEND, CANCEL, PAUSE, RESUME and RELEASE do to the request they name (R58, R74, R76, R77, R93, R95).
-/

namespace Sys2Proof.Machine

theorem exec_append {s : State} (h : s.receives Isl.sb) (i : BitVec 12) :
    exec (.append i) s = .next { s with eng := s.seen.decode i.toNat (fun d => d.opcode == 0x02) Engine.appendDesc } :=
  State.cross_receives h _ _

theorem exec_cancel {s : State} (h : s.receives Isl.sb) (i : BitVec 12) :
    exec (.cancel i) s = .next { s with eng := s.seen.decode i.toNat (fun d => d.opcode == 0x03) Engine.cancelDesc } :=
  State.cross_receives h _ _

theorem exec_pause {s : State} (h : s.receives Isl.sb) (i : BitVec 12) :
    exec (.pause i) s = .next { s with eng := s.seen.decode i.toNat (fun d => d.opcode == 0x04) Engine.pauseDesc } :=
  State.cross_receives h _ _

theorem exec_resume {s : State} (h : s.receives Isl.sb) (i : BitVec 12) :
    exec (.resume i) s = .next { s with eng := s.seen.decode i.toNat (fun d => d.opcode == 0x05) Engine.resumeDesc } :=
  State.cross_receives h _ _

theorem exec_release {s : State} (h : s.receives Isl.sb) (i : BitVec 12) :
    exec (.release i) s = .next { s with eng := s.seen.decode i.toNat (fun d => d.opcode == 0x06) Engine.releaseDesc } :=
  State.cross_receives h _ _

/-! ### The request a descriptor names -/

section
variable {e x : Engine} {d : Staged} {i k op st : Nat} {r : Rafter} {f : Staged → Engine → Engine}

theorem Engine.target_req (h : e.target d = some (k, r)) : e.req? k = some r := by
  unfold Engine.target at h
  extract_lets r0 hd at h
  split at h
  · cases h
  · next y hy =>
    split at h
    · cases h
    · obtain ⟨rfl, rfl⟩ := Prod.mk.inj (Option.some.inj h)
      exact (Engine.lookup_req hy).1

/-- On a request that is not fenced, with room for its event, the descriptor acts. -/
theorem Engine.onRequest_acts {g : Nat → Rafter → Engine → Engine} (h : e.target d = some (k, r)) (hst : r.state ≠ .fenced)
    (hfull : e.eventsFull = false) : e.onRequest d g = g k r (e.hostActs k) := by
  simp only [Engine.onRequest, h, beq_iff_eq, if_neg hst, hfull, Bool.false_eq_true, if_false]

/-- A row that acknowledges after its effect on a request. -/
theorem Engine.decode_acksAfter (hd : e.decodes i d op) (hopen : e.ringOpen (e.ackRingOf d)) (hf : f d e = x.ack d st)
    (halike : AcksAlike e x) : e.acked (e.decode i (fun d => d.opcode == op) f) d st 0 ∧
      AckOnly x (e.decode i (fun d => d.opcode == op) f) := by
  obtain ⟨hnext, hop, hck⟩ := hd
  rw [Engine.decode_passed hnext (by simp [hop]) hck, hf]
  have hclose := (x.ack d st).finishClose_ackOnly i
  exact ⟨(halike.ack hopen st).after hclose, (x.ack_ackOnly d st).trans hclose⟩

end

/-! ### CANCEL, PAUSE and RELEASE (R58, R76) -/

section
variable {e : Engine} {d : Staged} {i k : Nat} {r : Rafter}

theorem Engine.applyStop_alike (e : Engine) (slot : Nat) : AcksAlike e (e.applyStop slot) := by
  unfold Engine.applyStop
  extract_lets e1
  split
  · exact .of_eq rfl rfl rfl rfl rfl
  · split <;> exact .of_eq rfl rfl rfl rfl rfl

theorem Engine.decode_cancel (hd : e.decodes i d 3) (ht : e.target d = some (k, r)) (hopen : e.ringOpen (e.ackRingOf d))
    (hlive : r.state.live = true) {t : Engine} (h : t = e.decode i (fun d => d.opcode == 0x03) Engine.cancelDesc) :
    e.acked t d Status.ok 0 ∧ k ∈ t.stop ∧ t.req? k = some { r with state := .cancelling, returnState := r.state, stopSeen := true } := by
  have hnoted : Noted e (((e.hostActs k).countStopHold).jevent 0x03 0 r.handle.toNat 0) :=
    ((e.hostActs_noted k).trans (Engine.countStopHold_noted _)).trans (Engine.jevent_noted _ _ _ _ _)
  have hf : Engine.cancelDesc d e = ((((e.hostActs k).countStopHold).jevent 0x03 0 r.handle.toNat 0).applyStop k).ack d Status.ok := by
    simp only [Engine.cancelDesc, ht, hlive, Bool.true_or, if_true]
  generalize ((e.hostActs k).countStopHold).jevent 0x03 0 r.handle.toNat 0 = e1 at hnoted hf
  obtain ⟨hack, honly⟩ := Engine.decode_acksAfter hd hopen hf (hnoted.alike.trans (e1.applyStop_alike k))
  rw [← h] at hack honly
  refine ⟨hack, ?_, ?_⟩
  · rw [honly.stop_eq, Engine.applyStop_stop]
    exact mem_insertNat _ _
  · rw [honly.req_eq, Engine.req?, Engine.applyStop_live ((hnoted.req_eq k).trans (Engine.target_req ht)) hlive, Table.get?_put_self]

/-- A paused request is in no ready list. -/
theorem Engine.pauseRunning_spec (e : Engine) (slot : Nat) (r : Rafter) (ttl : Nat) :
    (e.pauseRunning slot r ttl).req? slot = some { r with pausePending := true, parkExpiry := ttl } ∧
      (∀ cls, slot ∉ (e.pauseRunning slot r ttl).readyList cls) ∧ (e.pauseRunning slot r ttl).hru = e.hru := by
  refine ⟨Table.get?_put_self _ _ _, fun cls => ?_, rfl⟩
  unfold Engine.readyList
  split <;> simp [Engine.pauseRunning]

theorem Engine.decode_pauseRunning (hd : e.decodes i d 4) (ht : e.target d = some (k, r)) (hst : r.state ≠ .fenced)
    (hfull : e.eventsFull = false) (hrun : r.state.running = true) {t : Engine}
    (h : t = e.decode i (fun d => d.opcode == 0x04) Engine.pauseDesc) :
    t.staged? d.ring d.pos = some { d with phase := .waiting } ∧
      t.req? k = some { r with pausePending := true, parkExpiry := d.f 16 0 20 } ∧ (∀ cls, k ∉ t.readyList cls) ∧ t.hru.evts = e.hru.evts := by
  obtain ⟨hnext, hop, hck⟩ := hd
  have hnoted : Noted e ((e.hostActs k).jevent 0x06 0 r.handle.toNat (d.f 16 0 20)) :=
    (e.hostActs_noted k).trans (Engine.jevent_noted _ _ _ _ _)
  have hf : Engine.pauseDesc d e = (((e.hostActs k).jevent 0x06 0 r.handle.toNat (d.f 16 0 20)).pauseRunning k r (d.f 16 0 20)).restage
      { d with phase := .waiting } := by
    simp only [Engine.pauseDesc, Engine.onRequest_acts ht hst hfull, hrun, if_true]
  rw [Engine.decode_passed hnext (by simp [hop]) hck, hf] at h
  generalize (e.hostActs k).jevent 0x06 0 r.handle.toNat (d.f 16 0 20) = e1 at hnoted h
  obtain ⟨hreq, hready, hhru⟩ := e1.pauseRunning_spec k r (d.f 16 0 20)
  generalize e1.pauseRunning k r (d.f 16 0 20) = e2 at hreq hready hhru h
  have hclose := ((e2.restage { d with phase := .waiting }).finishClose_spec i).1
  rw [← h] at hclose
  have hmem : d ∈ e2.hru.staging := by
    rw [hhru, hnoted.hru_eq]
    exact (Engine.nextDue_mem hnext).1
  refine ⟨?_, ?_, fun cls => ?_, ?_⟩
  · rw [hclose.staged?_eq]
    exact Engine.staged?_restage (d := { d with phase := .waiting }) (d0 := d) hmem rfl rfl
  · rw [Engine.req?, hclose.rafter_eq]
    exact hreq
  · rw [hclose.2]
    exact hready cls
  · rw [hclose.evts_eq, ← hnoted.hru_eq, ← hhru]
    rfl

theorem Engine.decode_pauseParked (hd : e.decodes i d 4) (ht : e.target d = some (k, r)) (hfull : e.eventsFull = false)
    (hopen : e.ringOpen (e.ackRingOf d)) (hpk : r.state = .parked ∨ r.state = .spilled) {t : Engine}
    (h : t = e.decode i (fun d => d.opcode == 0x04) Engine.pauseDesc) :
    e.acked t d Status.ok 0 ∧ t.req? k = some { r with parkExpiry := us48 (e.us + d.f 16 0 20 * 1000000) } := by
  have hnoted : Noted e ((e.hostActs k).jevent 0x06 0 r.handle.toNat (d.f 16 0 20)) :=
    (e.hostActs_noted k).trans (Engine.jevent_noted _ _ _ _ _)
  have hst : r.state ≠ .fenced ∧ r.state.running = false ∧ (r.state == .parked || r.state == .spilled) = true := by
    rcases hpk with hs | hs
    · rw [hs]
      decide
    · rw [hs]
      decide
  have hus : (e.hostActs k).parkUntil (d.f 16 0 20) = us48 (e.us + d.f 16 0 20 * 1000000) := by
    rw [Engine.parkUntil, (e.hostActs_noted k).us_eq]
  have hf : Engine.pauseDesc d e = (((e.hostActs k).jevent 0x06 0 r.handle.toNat (d.f 16 0 20)).putReq k
      { r with parkExpiry := us48 (e.us + d.f 16 0 20 * 1000000) }).ack d Status.ok := by
    simp only [Engine.pauseDesc, Engine.onRequest_acts ht hst.1 hfull, hst.2.1, hst.2.2, Bool.false_eq_true, if_false, if_true, hus]
  generalize (e.hostActs k).jevent 0x06 0 r.handle.toNat (d.f 16 0 20) = e1 at hnoted hf
  obtain ⟨hack, honly⟩ := Engine.decode_acksAfter hd hopen hf (hnoted.alike.trans (.of_eq rfl rfl rfl rfl rfl))
  rw [← h] at hack honly
  exact ⟨hack, by rw [honly.req_eq, Engine.req?_putReq_self]⟩

theorem Engine.decode_releaseLive (hd : e.decodes i d 6) (ht : e.target d = some (k, r)) (hst : r.state ≠ .fenced)
    (hfull : e.eventsFull = false) (hopen : e.ringOpen (e.ackRingOf d)) (hlive : r.state.live = true) {t : Engine}
    (h : t = e.decode i (fun d => d.opcode == 0x06) Engine.releaseDesc) :
    e.acked t d Status.ok 0 ∧ t.req? k = some { r with state := .retiring, pendStatus := Status.ok, pendReason := Reason.none } := by
  have hnoted : Noted e ((e.hostActs k).jevent 0x08 0 r.handle.toNat 0) := (e.hostActs_noted k).trans (Engine.jevent_noted _ _ _ _ _)
  have hc : (r.state == .cancelling) = false := by
    cases hs : r.state <;> simp_all [ReqState.live, ReqState.running, ReqState.paused]
  have hf : Engine.releaseDesc d e = (((e.hostActs k).jevent 0x08 0 r.handle.toNat 0).endRequest k Status.ok Reason.none).ack d Status.ok := by
    simp only [Engine.releaseDesc, Engine.onRequest_acts ht hst hfull, hlive, Bool.true_or, if_true, Engine.releaseRequest, hc,
      Bool.false_eq_true, if_false]
  generalize (e.hostActs k).jevent 0x08 0 r.handle.toNat 0 = e1 at hnoted hf
  obtain ⟨hack, honly⟩ := Engine.decode_acksAfter hd hopen hf (hnoted.alike.trans (.of_eq rfl rfl rfl rfl rfl))
  rw [← h] at hack honly
  refine ⟨hack, ?_⟩
  rw [honly.req_eq, Engine.endRequest_req, if_pos rfl, hnoted.req_eq, Engine.target_req ht]
  rfl

theorem Engine.decode_releaseCancelling (hd : e.decodes i d 6) (ht : e.target d = some (k, r)) (hfull : e.eventsFull = false)
    (hopen : e.ringOpen (e.ackRingOf d)) (hc : r.state = .cancelling) {t : Engine}
    (h : t = e.decode i (fun d => d.opcode == 0x06) Engine.releaseDesc) :
    e.acked t d Status.ok 0 ∧ t.req? k = some { r with returnState := .retiring } := by
  have hnoted : Noted e ((e.hostActs k).jevent 0x08 0 r.handle.toNat 0) := (e.hostActs_noted k).trans (Engine.jevent_noted _ _ _ _ _)
  have hst : r.state ≠ .fenced := by
    rw [hc]
    decide
  have hf : Engine.releaseDesc d e =
      (((e.hostActs k).jevent 0x08 0 r.handle.toNat 0).putReq k { r with returnState := .retiring }).ack d Status.ok := by
    simp only [Engine.releaseDesc, Engine.onRequest_acts ht hst hfull, Engine.releaseRequest, hc, beq_self_eq_true, Bool.or_true, if_true]
  generalize (e.hostActs k).jevent 0x08 0 r.handle.toNat 0 = e1 at hnoted hf
  obtain ⟨hack, honly⟩ := Engine.decode_acksAfter hd hopen hf (hnoted.alike.trans (.of_eq rfl rfl rfl rfl rfl))
  rw [← h] at hack honly
  exact ⟨hack, by rw [honly.req_eq, Engine.req?_putReq_self]⟩

end

end Sys2Proof.Machine
end

section
/-!
# APPEND and RESUME

The tokens an APPEND adds (R93, R95) and what a RESUME starts or withdraws (R76).
-/

namespace Sys2Proof.Machine

/-! ### Prompt tokens that are counted (R199, R208) -/

/-- e' is e with tokens counted: in the sampler's count sets, the chains its requests link them by and the records the
workers are sent. -/
def PromptCounted (e e' : Engine) : Prop :=
  e' = { e with mem := e'.mem, evr := e'.evr, cnt := e'.cnt, flt := e'.flt, smp := e'.smp, rafter := e'.rafter,
                mdv := { e.mdv with opsDue := e'.mdv.opsDue, replicas := e'.mdv.replicas } } ∧
    ∀ k r, e.req? k = some r → ∃ c b, e'.req? k = some { r with penOvfHead := c, penOvfValid := b }

section
variable {a b c e e' : Engine}

theorem PromptCounted.of_rafter (h : e' = { e with
      mem := e'.mem, evr := e'.evr, cnt := e'.cnt, flt := e'.flt, smp := e'.smp, rafter := e.rafter,
      mdv := { e.mdv with opsDue := e'.mdv.opsDue, replicas := e'.mdv.replicas } }) : PromptCounted e e' := by
  have hr : e'.rafter = e.rafter := by rw [h]
  refine ⟨by rw [hr]; exact h, fun k r hk => ⟨r.penOvfHead, r.penOvfValid, ?_⟩⟩
  rw [Engine.req?, hr]
  exact hk

theorem PromptCounted.refl (e : Engine) : PromptCounted e e := .of_rafter rfl

theorem PromptCounted.trans (h : PromptCounted a b) (k : PromptCounted b c) : PromptCounted a c := by
  obtain ⟨h1, h2⟩ := h
  obtain ⟨k1, k2⟩ := k
  refine ⟨by rw [k1, h1], fun slot r hr => ?_⟩
  obtain ⟨c1, b1, hr1⟩ := h2 slot r hr
  obtain ⟨c2, b2, hr2⟩ := k2 slot _ hr1
  exact ⟨c2, b2, hr2⟩

theorem PromptCounted.foldl {α : Type} {f : Engine → α → Engine} (hf : ∀ e x, PromptCounted e (f e x)) :
    ∀ (l : List α) (e : Engine), PromptCounted e (l.foldl f e)
  | [], e => .refl e
  | x :: l, e => (hf e x).trans (PromptCounted.foldl hf l (f e x))

/-- It leaves what an acknowledgement reads. -/
theorem PromptCounted.alike (h : PromptCounted e e') : AcksAlike e e' := by
  rw [h.1]
  exact ⟨rfl, rfl, rfl, rfl, rfl, rfl, rfl⟩

theorem LogOnly.promptCounted (h : LogOnly e e') : PromptCounted e e' := .of_rafter (by rw [h.1])

end

section
variable (e : Engine)

theorem Engine.noteIf_promptCounted (own : Bool) (u : UndoEntry) : PromptCounted e (e.noteIf own u) := by
  unfold Engine.noteIf
  split
  · exact .of_rafter rfl
  · exact .refl e

/-- A request whose chain starts at a new cell. -/
theorem Engine.modAny_promptCounted (slot c : Nat) :
    PromptCounted e (e.modAny slot fun r => { r with penOvfHead := c, penOvfValid := true }) := by
  unfold Engine.modAny
  split
  · refine ⟨rfl, fun k r hr => ?_⟩
    rw [Engine.req?, Engine.modReq, Table.get?_modify]
    split
    · next hk =>
      subst hk
      exact ⟨c, true, by rw [show Table.get? e.rafter k = some r from hr]; rfl⟩
    · exact ⟨r.penOvfHead, r.penOvfValid, hr⟩
  · exact .of_rafter rfl

theorem Engine.linkCell_promptCounted (own : Bool) (slot c : Nat) : PromptCounted e (e.linkCell own slot c) := by
  unfold Engine.linkCell
  split
  · exact (e.noteIf_promptCounted _ _).trans (.of_rafter rfl)
  · split
    · exact .refl e
    · exact (e.noteIf_promptCounted _ _).trans (Engine.modAny_promptCounted _ _ _)

theorem Engine.putHome_promptCounted (slot : Nat) (s : CountSet) : PromptCounted e (e.putHome slot s) := .of_rafter rfl

theorem Engine.putCell_promptCounted (c : Nat) (s : CountSet) : PromptCounted e (e.putCell c s) := .of_rafter rfl

theorem Engine.countLost_promptCounted (slot : Nat) : PromptCounted e (e.countLost slot) :=
  .trans (.of_rafter rfl) (Engine.log_only _ _ _).promptCounted

/-- Every way to place a count: in the home set, in a cell of the chain, in a new cell, or lost. -/
theorem Engine.addCount_promptCounted (own : Bool) (slot vocab token : Nat) : PromptCounted e (e.addCount own slot vocab token) := by
  unfold Engine.addCount
  extract_lets l home chain
  split
  · exact (e.noteIf_promptCounted _ _).trans (Engine.putHome_promptCounted _ _ _)
  · split
    · exact (e.noteIf_promptCounted _ _).trans (Engine.putCell_promptCounted _ _ _)
    · split
      · exact (e.noteIf_promptCounted _ _).trans (Engine.putHome_promptCounted _ _ _)
      · split
        · exact (e.noteIf_promptCounted _ _).trans (Engine.putCell_promptCounted _ _ _)
        · split
          · exact e.countLost_promptCounted slot
          · next c free _ =>
            have h1 : PromptCounted e { e with smp := { e.smp with cellFree := free } } := .of_rafter rfl
            have h2 := h1.trans (Engine.noteIf_promptCounted _ own (.cellTaken c))
            have h3 := h2.trans (Engine.linkCell_promptCounted _ own slot c)
            have h4 := h3.trans (Engine.noteIf_promptCounted _ own (.cell c []))
            exact h4.trans (Engine.putCell_promptCounted _ _ _)

theorem Engine.ops_promptCounted (record : Nat) : PromptCounted e (e.ops record) := by
  unfold Engine.ops
  split
  · exact .of_rafter rfl
  · exact .refl e

theorem Engine.opsInput_promptCounted (handle flags : Nat) : ∀ (n position : Nat) (ts : List Nat) (e : Engine),
    PromptCounted e (Engine.opsInput handle flags n position ts e)
  | 0, _, _, e => .refl e
  | n + 1, position, ts, e => by
    unfold Engine.opsInput
    split
    · exact .refl e
    · exact (e.ops_promptCounted _).trans (Engine.opsInput_promptCounted handle flags n _ _ _)

theorem Engine.countPromptOf_promptCounted (slot : Nat) (r : Rafter) (tokens : List Nat) :
    PromptCounted e (e.countPromptOf slot r tokens) := by
  unfold Engine.countPromptOf
  split
  · exact (Engine.opsInput_promptCounted _ _ _ _ _ e).trans (.foldl (fun e t => e.addCount_promptCounted _ _ _ _) _ _)
  · exact .refl e

end

/-! ### APPEND (R93, R95) -/

section
variable {e x : Engine} {d : Staged} {i k n : Nat} {r r' : Rafter} {tokens : List Nat}

/-- The status of an APPEND's tests: of the bucket, the quota, the pages, and of a queued request the feasibility. -/
theorem Engine.appendTest_status (e : Engine) (slot : Nat) (r r' : Rafter) (n : Nat) : (e.appendTest slot r r' n).1 =
    let e1 := e.refill r.tenant
    let t := e1.tenant r.tenant
    let more := r'.pagesP - r.pagesP
    let entries := ceilDiv r'.endPos 32 - ceilDiv r.endPos 32
    if t.metered && decide (t.level - ((n * 1000000 : Nat) : Int) < t.floor) then Status.quota
    else if t.pquota ≠ 0 && t.pquota < t.pheld + more then Status.quota
    else if entries ≤ e1.entriesFree && more ≤ e1.classFree (e1.family r.family).cls then
      (if r.state == .queued && !e1.feasible slot r' then Status.noFit else Status.ok)
    else Status.noFit := by
  unfold Engine.appendTest Engine.reservePages
  extract_lets e1 t more entries
  split
  · rfl
  · split
    · rfl
    · by_cases hfit : (decide (entries ≤ e1.entriesFree) && decide (more ≤ e1.classFree (e1.family r.family).cls)) = true
      · simp only [if_pos hfit]
        split <;> rfl
      · simp only [if_neg hfit]

/-- A host action noted before does not change it. -/
theorem Noted.appendTest_eq (h : Noted e x) (slot : Nat) (r r' : Rafter) (n : Nat) :
    (x.appendTest slot r r' n).1 = (e.appendTest slot r r' n).1 := by
  rw [Engine.appendTest_status, Engine.appendTest_status, h]
  rfl

/-- The tests refill the tenant's bucket and reserve pages. -/
theorem Engine.appendTest_stores (e : Engine) (slot : Nat) (r r' : Rafter) (n : Nat) : Stores e (e.appendTest slot r r' n).2 := by
  unfold Engine.appendTest Engine.reservePages
  extract_lets e1 t more entries
  have h1 : Stores e e1 := .of_eq rfl rfl
  split
  · exact h1
  · split
    · exact h1
    · split
      · exact h1
      · next x hx =>
        split at hx
        · obtain rfl := Option.some.inj hx
          split
          · exact h1
          · exact h1.trans (.of_eq rfl rfl)
        · cases hx

theorem Engine.putTenant_alike (e : Engine) (t : Nat) (x : Tenant) : AcksAlike e (e.putTenant t x) := .of_eq rfl rfl rfl rfl rfl

theorem Engine.putReq_alike (e : Engine) (slot : Nat) (r : Rafter) : AcksAlike e (e.putReq slot r) := .of_eq rfl rfl rfl rfl rfl

theorem Engine.updateOvercommit_alike (e : Engine) : AcksAlike e e.updateOvercommit := by
  unfold Engine.updateOvercommit
  extract_lets above adm e1
  split
  · exact .refl e
  · split
    · exact .trans (b := e1.bump Cnt.admOvercommit) (.of_eq rfl rfl rfl rfl rfl) (Engine.log_only _ _ _).promptCounted.alike
    · exact .of_eq rfl rfl rfl rfl rfl

theorem Engine.reshare_spec (e : Engine) (slot : Nat) (r : Rafter) :
    AcksAlike e (e.reshare slot r) ∧ (e.reshare slot r).rafter = e.rafter := by
  refine ⟨AcksAlike.trans ?_ (Engine.updateOvercommit_alike _), (Engine.updateOvercommit_only _).2.1⟩
  exact .of_eq rfl rfl rfl rfl rfl

/-- With the request's new entry put, the share, the event and the counts change no more of it than its overflow chain. -/
theorem Engine.appended_spec (e : Engine) (slot : Nat) (y : Rafter) (handle n : Nat) (tokens : List Nat) {e' : Engine}
    (h : e' = ((((e.putReq slot y).reshare slot y).jevent 0x05 0 handle n).emptyGuesses false slot).countPromptOf slot y tokens) :
    AcksAlike e e' ∧ ∃ c b, e'.req? slot = some { y with penOvfHead := c, penOvfValid := b } := by
  obtain ⟨halike, hrafter⟩ := (e.putReq slot y).reshare_spec slot y
  have hput : AcksAlike e ((e.putReq slot y).reshare slot y) := (e.putReq_alike slot y).trans halike
  have hreq : ((e.putReq slot y).reshare slot y).req? slot = some y := by
    rw [Engine.req?, hrafter]
    exact Engine.req?_putReq_self _ _ _
  generalize (e.putReq slot y).reshare slot y = e1 at h hput hreq
  have hnoted := e1.jevent_noted 0x05 0 handle n
  generalize e1.jevent 0x05 0 handle n = e2 at h hnoted
  have hempty : PromptCounted e2 (e2.emptyGuesses false slot) := .of_rafter rfl
  have hcount : PromptCounted e2 e' := h ▸ hempty.trans (Engine.countPromptOf_promptCounted _ slot y tokens)
  exact ⟨(hput.trans hnoted.alike).trans hcount.alike, hcount.2 slot y ((hnoted.req_eq slot).trans hreq)⟩

/-- An APPEND that passes leaves the request with the ends given, its state and its cache as they were. -/
theorem Engine.appendTake_spec (e : Engine) (slot : Nat) (r r' : Rafter) (tokens : List Nat) :
    AcksAlike e (e.appendTake slot r r' tokens) ∧ ∃ y, (e.appendTake slot r r' tokens).req? slot = some y ∧
      y.seqEnd = r'.seqEnd ∧ y.inputEnd = r'.inputEnd ∧ y.state = r'.state ∧ y.kvEnd = r'.kvEnd := by
  obtain ⟨halike, c, b, hget⟩ := Engine.appended_spec (e' := e.appendTake slot r r' tokens) _ _ _ _ _ _ rfl
  exact ⟨(e.putTenant_alike _ _).trans halike, _, hget, rfl, rfl, rfl, rfl⟩

/-- APPEND, past check 7, of a request that takes tokens. -/
theorem Engine.appendDesc_eq {data : ListRead} (ht : e.target d = some (k, r)) (hst : r.state ≠ .fenced)
    (hfull : e.eventsFull = false) (hreads : d.reads = .done data) (hok : e.appendReadOk d data = true)
    (hs : r.state = .queued ∨ r.state.paused = true) : Engine.appendDesc d e =
      ((e.hostActs k).appendRequest k r (data.tokens.map BitVec.toNat)).2.ack d
        ((e.hostActs k).appendRequest k r (data.tokens.map BitVec.toNat)).1 := by
  have hread : (e.hostActs k).appendReadOk d data = true := by
    rw [e.hostActs_noted k]
    exact hok
  have htakes : (r.state == .queued || r.state.paused) = true := by
    rcases hs with hs | hs
    · rw [hs]
      rfl
    · rw [hs, Bool.or_true]
  simp only [Engine.appendDesc, hreads, Engine.onRequest_acts ht hst hfull, htakes, hread, if_true]

theorem Engine.decode_appendLong {data : ListRead} (hd : e.decodes i d 2) (ht : e.target d = some (k, r))
    (hst : r.state ≠ .fenced) (hfull : e.eventsFull = false) (hopen : e.ringOpen (e.ackRingOf d)) (hreads : d.reads = .done data)
    (hok : e.appendReadOk d data = true) (hs : r.state = .queued ∨ r.state.paused = true)
    (hlong : r.maxContext ≤ r.seqEnd + data.tokens.length) {t : Engine}
    (h : t = e.decode i (fun d => d.opcode == 0x02) Engine.appendDesc) :
    e.acked t d Status.malformed 0 ∧ t.rafter = e.rafter := by
  have hf := Engine.appendDesc_eq ht hst hfull hreads hok hs
  have hnoted := e.hostActs_noted k
  generalize e.hostActs k = e1 at hf hnoted
  simp only [Engine.appendRequest, List.length_map, if_pos hlong] at hf
  obtain ⟨hack, honly⟩ := Engine.decode_acksAfter hd hopen hf hnoted.alike
  rw [← h] at hack honly
  exact ⟨hack, honly.rafter_eq.trans hnoted.rafter_eq⟩

/-- An APPEND whose tests pass. -/
theorem Engine.appendRequest_passed (h : (e.appendRequest k r tokens).1 = Status.ok) :
    ¬ r.maxContext ≤ r.seqEnd + tokens.length ∧ (e.appendTest k r (r.appended tokens.length) tokens.length).1 = Status.ok := by
  unfold Engine.appendRequest at h
  split at h
  · exact absurd h (by simp only; decide)
  · next hroom =>
    refine ⟨hroom, ?_⟩
    extract_lets r' at h
    split at h
    next st e1 heq =>
    rw [heq]
    split at h
    · next hst => exact hst
    · exact h

theorem Engine.appendRequest_takes (hroom : ¬ r.maxContext ≤ r.seqEnd + tokens.length)
    (htest : (e.appendTest k r (r.appended tokens.length) tokens.length).1 = Status.ok) : e.appendRequest k r tokens =
      (Status.ok, (e.appendTest k r (r.appended tokens.length) tokens.length).2.appendTake k r (r.appended tokens.length) tokens) := by
  unfold Engine.appendRequest
  rw [if_neg hroom]
  extract_lets r'
  split
  next st e1 heq =>
  rw [heq] at htest ⊢
  obtain rfl : st = Status.ok := htest
  rw [if_pos rfl]

theorem Engine.decode_appendTakes {data : ListRead} (hd : e.decodes i d 2) (ht : e.target d = some (k, r))
    (hst : r.state ≠ .fenced) (hfull : e.eventsFull = false) (hopen : e.ringOpen (e.ackRingOf d)) (hreads : d.reads = .done data)
    (hok : e.appendReadOk d data = true) (hs : r.state = .queued ∨ r.state.paused = true)
    (hpass : (e.appendRequest k r (data.tokens.map BitVec.toNat)).1 = Status.ok) {t : Engine}
    (h : t = e.decode i (fun d => d.opcode == 0x02) Engine.appendDesc) :
    e.acked t d Status.ok 0 ∧ ∃ y, t.req? k = some y ∧ y.seqEnd = r.seqEnd + data.tokens.length ∧
      y.inputEnd = r.seqEnd + data.tokens.length ∧ y.state = r.state ∧ y.kvEnd = r.kvEnd := by
  have hf := Engine.appendDesc_eq ht hst hfull hreads hok hs
  have hnoted := e.hostActs_noted k
  generalize e.hostActs k = e1 at hf hnoted
  obtain ⟨hroom, htest⟩ := Engine.appendRequest_passed hpass
  rw [← hnoted.appendTest_eq] at htest
  rw [Engine.appendRequest_takes hroom htest] at hf
  have hstores := e1.appendTest_stores k r (r.appended (data.tokens.map BitVec.toNat).length) (data.tokens.map BitVec.toNat).length
  obtain ⟨htake, y, hy, hseq, hinput, hstate, hkv⟩ := Engine.appendTake_spec (e1.appendTest k r
    (r.appended (data.tokens.map BitVec.toNat).length) (data.tokens.map BitVec.toNat).length).2 k r
    (r.appended (data.tokens.map BitVec.toNat).length) (data.tokens.map BitVec.toNat)
  obtain ⟨hack, honly⟩ := Engine.decode_acksAfter hd hopen hf ((hnoted.alike.trans hstores.alike).trans htake)
  rw [← h] at hack honly
  rw [Rafter.appended, List.length_map] at hseq hinput
  exact ⟨hack, y, by rw [honly.req_eq, hy], hseq, hinput, hstate, hkv⟩

end

/-! ### The pages of a request whose entry changes -/

theorem Engine.page_congr {e e' : Engine} (h : e'.pgm = e.pgm) (p : Nat) : e'.page p = e.page p := by
  rw [Engine.page, Engine.page, h]

theorem Engine.chain_congr {e e' : Engine} (h : e'.pgm = e.pgm) : ∀ n p : Nat, Engine.chain e' n p = Engine.chain e n p
  | 0, _ => rfl
  | n + 1, p => by rw [Engine.chain, Engine.chain, Engine.page_congr h, Engine.chain_congr h n]

/-- A request that keeps its list's head and length keeps its primaries. -/
theorem Engine.primaries_congr {e e' : Engine} {k : Nat} {r r' : Rafter} (h : e'.pgm = e.pgm) (hr : e.req? k = some r)
    (hr' : e'.req? k = some r') (hcount : r'.pageCount = r.pageCount) (hhead : r'.pageHead = r.pageHead) :
    e'.primaries k = e.primaries k := by
  have hprimary : e'.primaryOf = e.primaryOf := funext fun p => by rw [Engine.primaryOf, Engine.primaryOf, Engine.page_congr h]
  simp only [Engine.primaries, Engine.listOf, hr, hr', hcount, hhead, hprimary, Engine.chain_congr h]

/-! ### The parked requests after a spill (R150) -/

/-- e' acknowledges as e, and holds each request of e that is not parked. -/
def KeepsUnparked (e e' : Engine) : Prop :=
  AcksAlike e e' ∧ ∀ k r, e.req? k = some r → r.state ≠ .parked → e'.req? k = some r

theorem Noted.keepsUnparked {e e' : Engine} (h : Noted e e') : KeepsUnparked e e' :=
  ⟨h.alike, fun k _ hr _ => (h.req_eq k).trans hr⟩

theorem Engine.checkSpilled_keeps (e : Engine) (slot : Nat) : KeepsUnparked e (e.checkSpilled slot) := by
  have hsame : KeepsUnparked e e := ⟨.refl e, fun _ _ hr _ => hr⟩
  unfold Engine.checkSpilled
  split
  · exact hsame
  · next r0 hr0 =>
    split
    · next hp =>
      split
      · exact Noted.keepsUnparked rfl
      · have hnoted := (e.putReq slot { r0 with state := .spilled }).jevent_noted 0x0C 0 r0.handle.toNat 0
        refine ⟨(e.putReq_alike _ _).trans hnoted.alike, fun k r hr hst => ?_⟩
        have hk : k ≠ slot := by
          rintro rfl
          obtain rfl := Option.some.inj (hr0.symm.trans hr)
          exact hst (by simpa using (Bool.and_eq_true_iff.1 hp).1)
        rw [hnoted.req_eq, Engine.req?_putReq_ne _ _ hk]
        exact hr
    · exact hsame

theorem Engine.checkAllSpilled_keeps (e : Engine) : KeepsUnparked e e.checkAllSpilled := by
  unfold Engine.checkAllSpilled
  generalize (e.rafter.filter fun x => x.2.state == .parked).map Prod.fst = l
  induction l generalizing e with
  | nil => exact ⟨.refl e, fun _ _ hr _ => hr⟩
  | cons x l ih =>
    obtain ⟨h1, h2⟩ := e.checkSpilled_keeps x
    obtain ⟨k1, k2⟩ := ih (e.checkSpilled x)
    exact ⟨h1.trans k1, fun k r hr hst => k2 k r (h2 k r hr hst) hst⟩

/-! ### RESUME (R76) -/

section
variable {e : Engine} {d : Staged} {i k : Nat} {r : Rafter}

/-- The entry of a parked request that is resumed: restoring, with fresh deadlines. -/
def Rafter.resumed (r : Rafter) (now arrival ttft itl : Nat) : Rafter :=
  { r with state := .restoring, firstEmitted := false, parkExpiry := 0, nextDl := 0, total := 0,
           ttft := if ttft = 0 then 0 else us48 (arrival + ttft), itlUs := itl * 4, restoreAt := now }

/-- No page of the list has failed. -/
theorem Engine.resumeParked_spec (hr : e.req? k = some r) (hok : ∀ p ∈ e.primaries k, (e.page p).state ≠ .failed)
    (arrival ttft itl : Nat) : AcksAlike e (e.resumeParked k r arrival ttft itl) ∧
      (e.resumeParked k r arrival ttft itl).req? k = some (r.resumed e.now arrival ttft itl) := by
  unfold Engine.resumeParked
  extract_lets r1 e1 e2
  have hnoted : Noted (e.putReq k r1) e1 := Engine.jevent_noted _ _ _ _ _
  have hput : AcksAlike e (e.putReq k r1) := e.putReq_alike k r1
  have hr1 : e1.req? k = some r1 := by rw [hnoted.req_eq, Engine.req?_putReq_self]
  have hpgm : e1.pgm = e.pgm := by
    rw [hnoted]
    rfl
  have hany : ((e1.primaries k).any fun p => (e1.page p).state == .failed) = false := by
    rw [Engine.primaries_congr hpgm hr hr1 rfl rfl, List.any_eq_false]
    intro p hp
    rw [Engine.page_congr hpgm]
    simpa using hok p hp
  have hraise := Engine.raiseList_stores e1 .restore k
  obtain ⟨hspill, hkeep⟩ := (e1.raiseList .restore k).checkAllSpilled_keeps
  have h2 : AcksAlike e e2 := ((hput.trans hnoted.alike).trans hraise.alike).trans hspill
  have hr2 : e2.req? k = some r1 := by
    refine hkeep k r1 ?_ (show ReqState.restoring ≠ .parked by decide)
    rw [Engine.req?, hraise.rafter_eq]
    exact hr1
  rw [hany, if_neg Bool.false_ne_true]
  split
  · have hreload := e2.wantReload_stores r1.addition r1.version 0
    refine ⟨h2.trans hreload.alike, ?_⟩
    rw [Engine.req?, hreload.rafter_eq]
    exact hr2
  · exact ⟨h2, hr2⟩

theorem Engine.decode_resumeParked (hd : e.decodes i d 5) (ht : e.target d = some (k, r)) (hfull : e.eventsFull = false)
    (hopen : e.ringOpen (e.ackRingOf d)) (hpk : r.state = .parked ∨ r.state = .spilled)
    (hok : ∀ p ∈ e.primaries k, (e.page p).state ≠ .failed) {t : Engine}
    (h : t = e.decode i (fun d => d.opcode == 0x05) Engine.resumeDesc) :
    e.acked t d Status.ok 0 ∧ t.req? k = some (r.resumed e.now d.arrival (d.f 56 0 24) (d.f 59 0 16)) := by
  have hst : r.state ≠ .fenced ∧ (r.state == .parked || r.state == .spilled) = true := by
    rcases hpk with hs | hs
    · rw [hs]
      decide
    · rw [hs]
      decide
  have hf : Engine.resumeDesc d e =
      ((e.hostActs k).resumeParked k r d.arrival (d.f 56 0 24) (d.f 59 0 16)).ack d Status.ok := by
    simp only [Engine.resumeDesc, Engine.onRequest_acts ht hst.1 hfull, hst.2, if_true]
  have hnoted := e.hostActs_noted k
  generalize e.hostActs k = e1 at hf hnoted
  have hpgm : e1.pgm = e.pgm := by rw [hnoted]
  have hnow : e1.now = e.now := by rw [hnoted]
  have hr := Engine.target_req ht
  have hr1 : e1.req? k = some r := (hnoted.req_eq k).trans hr
  have hok1 : ∀ p ∈ e1.primaries k, (e1.page p).state ≠ .failed := by
    intro p hp
    rw [Engine.page_congr hpgm]
    exact hok p (Engine.primaries_congr hpgm hr hr1 rfl rfl ▸ hp)
  obtain ⟨halike, hreq⟩ := Engine.resumeParked_spec hr1 hok1 d.arrival (d.f 56 0 24) (d.f 59 0 16)
  obtain ⟨hack, honly⟩ := Engine.decode_acksAfter hd hopen hf (hnoted.alike.trans halike)
  rw [← h] at hack honly
  exact ⟨hack, by rw [honly.req_eq, hreq, hnow]⟩

theorem Engine.link_kept (e : Engine) (slot : Nat) : (e.link slot).hru = e.hru ∧ (e.link slot).rafter = e.rafter := by
  unfold Engine.link
  split
  · exact ⟨rfl, rfl⟩
  · unfold Engine.setReady
    split <;> exact ⟨rfl, rfl⟩

theorem Engine.ack_unstaged (e : Engine) (d : Staged) (status : Nat) : (e.ack d status).staged? d.ring d.pos = none :=
  (Engine.ackWith_unstaged (e := e) d _ status 0).1

/-- Each waiting descriptor of the opcode that names the handle is staged no more. -/
theorem Engine.ackWaiting_unstaged {p : Staged} {handle : Handle} {opcode : Nat} (status : Nat) (hp : p ∈ e.hru.staging)
    (hwait : p.phase = .waiting) (hop : p.opcode = opcode) (hname : p.handle true = handle.toNat) :
    (e.ackWaiting handle opcode status).staged? p.ring p.pos = none := by
  have hmem : p ∈ e.hru.staging.filter fun d => d.phase == .waiting && d.opcode == opcode && d.handle true == handle.toNat :=
    List.mem_filter.2 ⟨hp, by simp [hwait, hop, hname]⟩
  unfold Engine.ackWaiting
  generalize e.hru.staging.filter _ = l at hmem
  clear hp
  induction l generalizing e with
  | nil => cases hmem
  | cons x l ih =>
    rcases List.mem_cons.1 hmem with rfl | hl
    · have hrest : AckOnly (e.ack p status) (l.foldl (fun e d => e.ack d status) (e.ack p status)) :=
        .foldl (fun e _ => e.ack_ackOnly _ _) _ _
      exact hrest.staged_none (Engine.ack_unstaged _ _ _)
    · exact ih hl

/-- The pause is withdrawn, and the PAUSEs that wait on the request are acknowledged. -/
theorem Engine.withdrawPause_spec (e : Engine) (slot : Nat) (r : Rafter) :
    (e.withdrawPause slot r).req? slot = some { r with pausePending := false, parkExpiry := 0 } ∧
      ∀ p ∈ e.hru.staging, p.phase = .waiting → p.opcode = 4 → p.handle true = r.handle.toNat →
        (e.withdrawPause slot r).staged? p.ring p.pos = none := by
  unfold Engine.withdrawPause
  extract_lets e1 e2
  have hnoted : Noted (e.putReq slot { r with pausePending := false, parkExpiry := 0 }) e1 := Engine.jevent_noted _ _ _ _ _
  have h2 : e2.hru = e1.hru ∧ e2.rafter = e1.rafter := by
    by_cases hstand : (r.reAdmit || (e1.spliceList r.cls).contains slot) = true
    · rw [show e2 = e1 from if_pos hstand]
      exact ⟨rfl, rfl⟩
    · rw [show e2 = e1.link slot from if_neg hstand]
      exact e1.link_kept slot
  obtain ⟨hhru, hrafter⟩ := h2
  refine ⟨?_, fun p hp hwait hop hname => ?_⟩
  · rw [(e2.ackWaiting_ackOnly r.handle 4 Status.cancelled).req_eq, Engine.req?, hrafter, hnoted.rafter_eq]
    exact Engine.req?_putReq_self _ _ _
  · refine Engine.ackWaiting_unstaged _ ?_ hwait hop hname
    rw [hhru, hnoted.hru_eq]
    exact hp

theorem Engine.decode_resumePending (hd : e.decodes i d 5) (ht : e.target d = some (k, r)) (hst : r.state ≠ .fenced)
    (hfull : e.eventsFull = false) (hrun : r.state.running = true) (hpend : r.pausePending = true) {t : Engine}
    (h : t = e.decode i (fun d => d.opcode == 0x05) Engine.resumeDesc) :
    t.staged? d.ring d.pos = none ∧ t.req? k = some { r with pausePending := false, parkExpiry := 0 } ∧
      ∀ p ∈ e.hru.staging, p.phase = .waiting → p.opcode = 4 → p.handle true = r.handle.toNat → t.staged? p.ring p.pos = none := by
  obtain ⟨hnext, hop, hck⟩ := hd
  have hpk : (r.state == .parked || r.state == .spilled) = false := by
    cases hs : r.state <;> simp_all [ReqState.running]
  have hf : Engine.resumeDesc d e = ((e.hostActs k).withdrawPause k r).ack d Status.ok := by
    simp only [Engine.resumeDesc, Engine.onRequest_acts ht hst hfull, hpk, hrun, hpend, Bool.false_eq_true, if_false, Bool.and_self,
      if_true]
  rw [Engine.decode_passed hnext (by simp [hop]) hck, hf] at h
  have hnoted := e.hostActs_noted k
  generalize e.hostActs k = e1 at h hnoted
  obtain ⟨hreq, hpauses⟩ := e1.withdrawPause_spec k r
  have hclose : AckOnly ((e1.withdrawPause k r).ack d Status.ok) t := by
    rw [h]
    exact Engine.finishClose_ackOnly _ _
  have hafter : AckOnly (e1.withdrawPause k r) t := (Engine.ack_ackOnly _ _ _).trans hclose
  refine ⟨hclose.staged_none (Engine.ack_unstaged _ _ _), by rw [hafter.req_eq, hreq], fun p hp hwait hopp hname => ?_⟩
  exact hafter.staged_none (hpauses p (hnoted.hru_eq ▸ hp) hwait hopp hname)

end

/-- Settles O36: each row's effect on the request leaves what the acknowledgement reads. -/
theorem requestDescriptorsAct : Obligations.RequestDescriptorsAct := by
  unfold Obligations.RequestDescriptorsAct
  intro s i d k r hrec ht hfull hst hopen
  refine ⟨fun data hd hreads hok hs => ⟨fun hlong => ?_, fun hpass => ?_⟩, fun hd hlive => ?_, fun hd hrun => ?_, fun hd hpk => ?_,
    fun hd hpk hok => ?_, fun hd hrun hpend => ?_, fun hd hlive => ?_, fun hd hc => ?_⟩
  · exact ⟨_, exec_append hrec i, Engine.decode_appendLong (e := s.seen) hd ht hst hfull hopen hreads hok hs hlong rfl⟩
  · obtain ⟨hack, y, hy⟩ := Engine.decode_appendTakes (e := s.seen) hd ht hst hfull hopen hreads hok hs hpass rfl
    exact ⟨_, y, exec_append hrec i, hack, hy⟩
  · exact ⟨_, exec_cancel hrec i, Engine.decode_cancel (e := s.seen) hd ht hopen hlive rfl⟩
  · exact ⟨_, exec_pause hrec i, Engine.decode_pauseRunning (e := s.seen) hd ht hst hfull hrun rfl⟩
  · exact ⟨_, exec_pause hrec i, Engine.decode_pauseParked (e := s.seen) hd ht hfull hopen hpk rfl⟩
  · have hr : s.eng.req? k = some r := Engine.target_req ht
    have hpages : s.seen.primaries k = s.eng.primaries k := Engine.primaries_congr rfl hr hr rfl rfl
    exact ⟨_, exec_resume hrec i, Engine.decode_resumeParked (e := s.seen) hd ht hfull hopen hpk (hpages ▸ hok) rfl⟩
  · exact ⟨_, exec_resume hrec i, Engine.decode_resumePending (e := s.seen) hd ht hst hfull hrun hpend rfl⟩
  · exact ⟨_, exec_release hrec i, Engine.decode_releaseLive (e := s.seen) hd ht hst hfull hopen hlive rfl⟩
  · exact ⟨_, exec_release hrec i, Engine.decode_releaseCancelling (e := s.seen) hd ht hfull hopen hc rfl⟩

end Sys2Proof.Machine
end

section
/-!
# QUERY

A QUERY that passes its checks writes its image, or the part that fits, and is acknowledged with the bytes written (R82, R175, R395, R396).
-/

namespace Sys2Proof.Machine

/-! ### The rows -/

theorem exec_queryRequest {s : State} (h : s.receives Isl.sb) (i : BitVec 12) :
    exec (.queryRequest i) s = .next { s with eng := s.seen.decode i.toNat isQueryRequest Engine.queryRequestDesc } :=
  State.cross_receives h _ _

theorem exec_queryTenant {s : State} (h : s.receives Isl.sb) (i : BitVec 12) :
    exec (.queryTenant i) s =
      .next { s with eng := s.seen.decode i.toNat (fun d => d.opcode == 0x30 && d.f 16 0 8 == 2) Engine.queryTenantDesc } :=
  State.cross_receives h _ _

theorem exec_queryFamily {s : State} (h : s.receives Isl.pg) (i : BitVec 12) :
    exec (.queryFamily i) s =
      .next { s with eng := s.seen.decode i.toNat (fun d => d.opcode == 0x30 && d.f 16 0 8 == 3) Engine.queryFamilyDesc } :=
  State.cross_receives h _ _

theorem exec_queryAddition {s : State} (h : s.receives Isl.pg) (i : BitVec 12) :
    exec (.queryAddition i) s =
      .next { s with eng := s.seen.decode i.toNat (fun d => d.opcode == 0x30 && d.f 16 0 8 == 4) Engine.queryAdditionDesc } :=
  State.cross_receives h _ _

/-! ### The answer -/

section
variable {a e e' t x : Engine} {d : Staged} {i size value : Nat} {isRow : Staged → Bool} {f : Staged → Engine → Engine}

/-- No v1 descriptor is a QUERY (Table 2.4), so one that passes check 1 stands on a v2 ring. -/
theorem Engine.query_v2 (hop : d.opcode = 0x30) (hck : e.checkUpTo6 d = none) : (e.sub d.ring).v2 = true := by
  have hform : e.formOk d = true := by
    cases hform : e.formOk d with
    | true => rfl
    | false => simp [Engine.checkUpTo6, hform] at hck
  by_contra hv1
  simp [Engine.formOk, Staged.known, v1Fields, hop, hv1] at hform

theorem AcksAlike.ackRingOpen (h : AcksAlike e e') (hopen : e.ringOpen (e.ackRingOf d)) : e'.ringOpen (e'.ackRingOf d) := by
  rw [h.ackRingOf_eq]
  exact h.ringOpen hopen

/-- On an open v2 ring a QUERY is answered with the bytes written. -/
theorem Engine.answerQuery_answers (hv2 : (e.sub d.ring).v2 = true) (hopen : e.ringOpen (e.ackRingOf d)) :
    e.answersQuery (e.answerQuery d size value) d size value := by
  unfold Engine.answerQuery
  extract_lets room n e1
  have hwrite : AckOnly e e1 ∧ AcksAlike e e1 := by
    show AckOnly e (if _ then _ else _) ∧ AcksAlike e (if _ then _ else _)
    split
    · exact ⟨.refl e, .refl e⟩
    · exact ⟨.emit e _, .of_eq rfl rfl rfl rfl rfl⟩
  obtain ⟨honly, halike⟩ := hwrite
  have hv2' : (e1.sub d.ring).v2 = true := by rw [halike.sub_eq, hv2]
  have hack := Engine.acked_ackWith (halike.ackRingOpen hopen) Status.ok n
  rw [hv2'] at hack
  have hafter := e1.ackWith_ackOnly d (d.handle true) Status.ok n
  refine ⟨halike.acked hack, (honly.trans hafter).rafter_eq, (honly.trans hafter).var_eq, fun hn => hafter.out.subset ?_⟩
  have hemit : e1 = e.emit _ := if_neg hn
  rw [hemit]
  exact List.mem_cons_self

/-- An answer stays when acknowledgements follow. -/
theorem Engine.answersQuery.after (h : e.answersQuery t d size value) (k : AckOnly t e') : e.answersQuery e' d size value := by
  obtain ⟨hack, hraf, hvar, hwrite⟩ := h
  exact ⟨hack.after k, k.rafter_eq.trans hraf, k.var_eq.trans hvar, fun hn => k.out.subset (hwrite hn)⟩

/-- What e' answers, e does, where both hold the same requests and memory objects. -/
theorem AcksAlike.answersQuery (h : AcksAlike e e') (hraf : e'.rafter = e.rafter) (hvar : e'.var = e.var)
    (k : e'.answersQuery t d size value) : e.answersQuery t d size value := by
  obtain ⟨hack, hraf', hvar', hwrite⟩ := k
  exact ⟨h.acked hack, hraf'.trans hraf, hvar'.trans hvar, hwrite⟩

/-- The QUERY that is decoded next is answered from an engine x that acknowledges as e does. -/
theorem Engine.decode_answers_alike (hd : e.decodes i d 0x30) (hrow : isRow d = true) (hopen : e.ringOpen (e.ackRingOf d))
    (hf : f d e = x.answerQuery d size value) (h : AcksAlike e x) (hraf : x.rafter = e.rafter) (hvar : x.var = e.var) :
    e.answersQuery (e.decode i isRow f) d size value := by
  obtain ⟨hnext, hop, hck⟩ := hd
  rw [Engine.decode_passed hnext hrow hck, hf]
  have hv2 : (x.sub d.ring).v2 = true := by rw [h.sub_eq, Engine.query_v2 hop hck]
  have hanswer := Engine.answerQuery_answers (size := size) (value := value) hv2 (h.ackRingOpen hopen)
  exact (h.answersQuery hraf hvar hanswer).after (Engine.finishClose_ackOnly _ _)

/-- The QUERY that is decoded next is answered. -/
theorem Engine.decode_answers (hd : e.decodes i d 0x30) (hrow : isRow d = true) (hopen : e.ringOpen (e.ackRingOf d))
    (hf : f d e = e.answerQuery d size value) : e.answersQuery (e.decode i isRow f) d size value :=
  Engine.decode_answers_alike hd hrow hopen hf (.refl e) rfl rfl

end

/-! ### The tenant's bucket (R93, R395) -/

/-- Only a metered record, which some TENANT_SET has written, is refilled by the QUERY that reads it. -/
theorem Engine.tenant_refill {e : Engine} {t : Nat} (hmet : (e.tenant t).metered = true) :
    (e.refill t).tenant t = (e.tenant t).refill e.us := by
  have hget : Table.get? (e.refill t).adm.tenants t = (Table.get? e.adm.tenants t).map fun x => x.refill e.us := by
    rw [Engine.refill, Table.get?_modify, if_pos rfl]
  simp only [Engine.tenant, Table.getD, hget] at hmet ⊢
  cases hrec : Table.get? e.adm.tenants t with
  | none => simp [hrec, Tenant.zero, Tenant.metered] at hmet
  | some x => rfl

/-- What QUERY shows of a tenant. -/
theorem Engine.queryTenantDesc_eq (e : Engine) (d : Staged) : ∃ x, Engine.queryTenantDesc d e = x.answerQuery d 64
      (if (e.tenant (d.f 20 0 16)).enable && (e.tenant (d.f 20 0 16)).metered then
        (e.tenant (d.f 20 0 16)).refill e.us else e.tenant (d.f 20 0 16)).image ∧
    AcksAlike e x ∧ x.rafter = e.rafter ∧ x.var = e.var := by
  unfold Engine.queryTenantDesc
  extract_lets t x e1
  by_cases hmet : (x.enable && x.metered) = true
  · have hget : e1 = e.refill t := if_pos hmet
    rw [if_pos hmet, hget, Engine.tenant_refill (Bool.and_eq_true_iff.1 hmet).2]
    exact ⟨_, rfl, .of_eq rfl rfl rfl rfl rfl, rfl, rfl⟩
  · have hget : e1 = e := if_neg hmet
    rw [if_neg hmet, hget]
    exact ⟨e, rfl, .refl e, rfl, rfl⟩

/-- Settles O34: every kind's row answers with the image that the engine holds. -/
theorem queriesWriteTheImage : Obligations.QueriesWriteTheImage := by
  unfold Obligations.QueriesWriteTheImage
  refine ⟨fun s i d k r hs hd hopen hkind ht => ?_, fun s i d hs hd hopen hkind => ?_, fun s i d hs hd hopen hkind => ?_,
    fun s i d hs hd hopen hkind => ?_, fun s i d hs hd hopen hkind => ?_⟩
  · have hf : Engine.queryRequestDesc d s.seen = s.seen.answerQuery d 256 r.image := by
      have htarget : s.seen.target d = some (k, r) := ht
      simp only [Engine.queryRequestDesc, htarget]
    exact ⟨_, exec_queryRequest hs i, Engine.decode_answers (e := s.seen) hd (by simp [isQueryRequest, hd.2.1, hkind]) hopen hf⟩
  · obtain ⟨x, hf, halike, hraf, hvar⟩ := s.seen.queryTenantDesc_eq d
    exact ⟨_, exec_queryTenant hs i,
      Engine.decode_answers_alike (e := s.seen) hd (by simp [hd.2.1, hkind]) hopen hf halike hraf hvar⟩
  · exact ⟨_, exec_queryFamily hs i, Engine.decode_answers (e := s.seen) hd (by simp [hd.2.1, hkind]) hopen rfl⟩
  · exact ⟨_, exec_queryAddition hs i, Engine.decode_answers (e := s.seen) hd (by simp [hd.2.1, hkind]) hopen rfl⟩
  · exact ⟨_, exec_queryRing hs i, Engine.decode_answers (e := s.seen) hd (by simp [hd.2.1, hkind]) hopen rfl⟩

end Sys2Proof.Machine
end

section
/-!
# The free list of slots

Slots are taken from the head of one list and returned to its tail (R63, R64).
-/

namespace Sys2Proof.Machine

/-! ### The list -/

theorem FreeList.listing_full (n : Nat) : (FreeList.full n).listing = List.range n := by
  simp [FreeList.full, FreeList.listing, List.range_eq_range']

theorem FreeList.listing_give (f : FreeList) (k : Nat) : (f.give k).listing = f.listing ++ [k] := by
  simp [FreeList.listing, FreeList.give]

theorem FreeList.listing_take {f g : FreeList} {k : Nat} (h : f.take = some (k, g)) : f.listing = k :: g.listing := by
  unfold FreeList.take at h
  split at h
  · next hfresh =>
    cases h
    have hlen : f.limit - f.fresh = f.limit - (f.fresh + 1) + 1 := by omega
    simp [FreeList.listing, hlen, List.range'_succ]
  · next hfresh =>
    have hnone : f.limit - f.fresh = 0 := by omega
    split at h
    · cases h
    · next j js hfreed =>
      cases h
      simp [FreeList.listing, hnone, hfreed]

theorem FreeList.take_eq_none (f : FreeList) : f.take = none ↔ f.listing = [] := by
  simp only [FreeList.listing, List.append_eq_nil_iff, List.range'_eq_nil_iff, FreeList.take]
  constructor
  · intro h
    split at h
    · cases h
    · split at h
      · next hfresh hfreed => exact ⟨by omega, hfreed⟩
      · cases h
  · rintro ⟨hnone, hfreed⟩
    rw [if_neg (by omega), hfreed]

/-! ### A refused SUBMIT (R64; log entry 27) -/

theorem Engine.settleNamed_keeps (e : Engine) (r : Rafter) : KeepsSlots e (e.settleNamed r) := by
  unfold Engine.settleNamed
  extract_lets e1
  have h1 : KeepsSlots e e1 := by
    show KeepsSlots e (if _ then _ else _)
    split
    · exact e.settleRecord_keeps _ _
    · exact .refl e
  split
  · exact h1.trans (e1.settlePrefix_keeps _)
  · exact h1

theorem Engine.refuse_slots {e : Engine} {slot : Nat} (h : e.req? slot ≠ none) (status : Nat) :
    (e.refuse slot status).slots = e.slots.give slot := by
  unfold Engine.refuse
  split
  · contradiction
  · next r _ =>
    extract_lets e1 adm pgm e2 e3 e4
    have h2 : e2.slots = e.slots.give slot := by
      obtain ⟨-, hslots, -⟩ := e.releaseReservation_keeps slot
      exact congrArg (FreeList.give · slot) hslots
    have h3 : e3.slots = e2.slots := by
      unfold e3
      split_ifs <;> rfl
    obtain ⟨-, h4, -⟩ : KeepsSlots e3 e4 := (e3.wake_keeps _).trans (Engine.settleNamed_keeps _ r)
    split
    · rw [h4, h3, h2]
    · rw [(e4.ackWith_ackOnly _ _ _ _).slots_eq, h4, h3, h2]

/-! ### Generations (R63) -/

theorem Engine.nextGeneration_count (e : Engine) (slot : Nat) : (e.nextGeneration slot).count Cnt.sbGenWrap =
    e.count Cnt.sbGenWrap + (if nextGen slot (e.gen slot) = 0 then 1#32 else 0#32) := by
  unfold Engine.nextGeneration
  extract_lets g e1
  have h1 : e1.count Cnt.sbGenWrap = e.count Cnt.sbGenWrap := Engine.count_congr rfl _
  split
  · rw [Engine.count_bump_self, h1]
  · rw [h1, BitVec.add_zero]

/-- Settles O60: the free list is a queue, and what frees and takes slots does so at its ends. -/
theorem slotsAreReusedInOrder : Obligations.SlotsAreReusedInOrder := by
  unfold Obligations.SlotsAreReusedInOrder
  refine ⟨FreeList.listing_full 262144, FreeList.listing_give, fun f g k => FreeList.listing_take, FreeList.take_eq_none,
    fun e slot r => ?_, fun e slot status h => Engine.refuse_slots h status, fun s i d data hs hd hreads hck hne => ?_,
    fun e slot => ⟨?_, e.nextGeneration_count slot⟩⟩
  · obtain ⟨-, -, hslots, -⟩ := e.freeRequest_slot slot r
    exact hslots
  · obtain ⟨⟨slot, free⟩, htake⟩ := Option.ne_none_iff_exists'.1 (mt (FreeList.take_eq_none _).1 hne)
    obtain ⟨hslots, -, hreq, -⟩ := Engine.decode_submit_opens (e := s.seen) hd hreads hck htake rfl
    refine ⟨_, slot, free.listing, exec_submit hs i, FreeList.listing_take htake, congrArg _ hslots, ?_⟩
    dsimp only
    rw [hreq]
    rfl
  · obtain ⟨hgens, -, -⟩ := e.nextGeneration_gens slot
    rw [Engine.gen, hgens, Table.getD_put_self]

end Sys2Proof.Machine
end

section
/-!
# The end of a restore

RESTORE_CONFIRMED while the event section of the running step's record is full (R72, R107, R262).
-/

namespace Sys2Proof.Machine

theorem exec_restoreConfirmed {s : State} (h : s.receives Isl.sb) (k : BitVec 18) :
    exec (.restoreConfirmed k) s = .next { s with eng := s.seen.restoreDone k.toNat } :=
  State.cross_receives h _ _

/-- With the event section full the RESTORED event is held, and the request with it stays as it was until the boundary. -/
theorem Engine.restoreDone_full {e : Engine} (hfull : e.eventsFull = true) (slot : Nat) : (e.restoreDone slot).rafter = e.rafter := by
  have hheld : (e.holdEvent slot).rafter = e.rafter := rfl
  simp only [Engine.restoreDone, hfull, if_true]
  split
  · rfl
  · split
    · exact hheld
    · rfl

theorem restoreConfirmed_full {s : State} (h : s.receives Isl.sb) (hfull : s.seen.eventsFull = true) (k : BitVec 18) :
    ∃ t, exec (.restoreConfirmed k) s = .next t ∧ t.eng.rafter = s.eng.rafter :=
  ⟨_, exec_restoreConfirmed h k, Engine.restoreDone_full hfull k.toNat⟩

/-- A request in RESTORING that has no pages and no addition to wait for. -/
def restoringRequest : Rafter := { Rafter.ofImage 0 with handle := 5, state := .restoring }

/-- An engine out of reset whose running step has recorded as many events as its record holds, with that request in slot 5. -/
def fullRecord : State :=
  { State.reset with eng := { Engine.reset with
      glb := { Glb.reset with aoReset := false, mainReset := false, phase := 7 }
      cal := { Cal.reset with loaded := true }
      cpc := { Cpc.reset with running := 0x1FF#9 }
      rafter := [(5, restoringRequest)]
      flt := { Flt.reset with events := List.replicate eventRoom { kind := 0x07, status := 0, who := 5, detail := 0, us := 0 } } } }

theorem fullRecord_receives : fullRecord.receives Isl.sb := ⟨rfl, rfl⟩

theorem fullRecord_full : fullRecord.seen.eventsFull = true := by
  simp [fullRecord, State.seen, Engine.eventsFull]

/-- Refutes O40: the statement leaves out that the event section has room. In `fullRecord` it has none, and RESTORE_CONFIRMED leaves the
request of slot 5 in RESTORING: the event is held for the boundary (R262), and the request is not QUEUED. -/
theorem not_restoringEnds : ¬ Obligations.RestoringEnds := by
  unfold Obligations.RestoringEnds
  rintro ⟨hconfirmed, -⟩
  have hreq : fullRecord.eng.req? (5#18).toNat = some restoringRequest := rfl
  obtain ⟨t, r', hexec, hqueued, rfl, -⟩ :=
    hconfirmed fullRecord 5#18 restoringRequest fullRecord_receives hreq rfl rfl (.inl rfl)
  obtain ⟨u, hstays, hraf⟩ := restoreConfirmed_full fullRecord_receives fullRecord_full 5#18
  obtain rfl : t = u := Host.Outcome.next.inj (hexec.symm.trans hstays)
  rw [Engine.req?, hraf] at hqueued
  have hsame := Option.some.inj (hreq.symm.trans hqueued)
  exact absurd (congrArg Rafter.state hsame) (by decide)

end Sys2Proof.Machine
end

section
/-!
# Token buckets

The refill and the charge of a tenant's bucket (R93).
-/

namespace Sys2Proof.Machine

/-- A stamp keeps 32 bits of the time, and less than 2^32 µs later the difference of those bits is the time that has passed. -/
theorem elapsed_of_stamp {us stamp t : Nat} (hs : stamp % 2 ^ 32 = t % 2 ^ 32) (ht : t ≤ us) (hus : us < t + 2 ^ 32) (hlt : stamp < 2 ^ 32) :
    (us + 2 ^ 32 - stamp) % 2 ^ 32 = us - t := by
  omega

theorem Tenant.refill_of_metered {t : Tenant} (h : t.metered = true) (us : Nat) : t.refill us =
    { t with
      level := min ((t.burst * 1000000 : Nat) : Int) (t.level + ((t.rate * ((us + 2 ^ 32 - t.stamp) % 2 ^ 32) : Nat) : Int))
      stamp := us % 2 ^ 32 } :=
  if_pos h

theorem Tenant.charge_level {t : Tenant} (h : t.metered = true) (n : Nat) :
    (t.charge n).level = max t.floor (t.level - ((n * 1000000 : Nat) : Int)) := by
  rw [Tenant.charge, if_pos h]

/-- A bucket filled twice, stopping at its depth both times, is as full as one filled once with the sum. -/
theorem min_add_min {depth level x y : Int} (hy : 0 ≤ y) : min depth (min depth (level + x) + y) = min depth (level + (x + y)) := by
  omega

theorem Tenant.refill_refill {t : Tenant} {a b : Nat} (h : t.metered = true) (hstamp : t.stamp < 2 ^ 32) (ha : t.stamp ≤ a)
    (hab : a ≤ b) (hb : b < t.stamp + 2 ^ 32) : (t.refill a).refill b = t.refill b := by
  have hfirst : (a + 2 ^ 32 - t.stamp) % 2 ^ 32 = a - t.stamp := elapsed_of_stamp rfl ha (by omega) hstamp
  have hsecond : (b + 2 ^ 32 - a % 2 ^ 32) % 2 ^ 32 = b - a :=
    elapsed_of_stamp (Nat.mod_mod _ _) hab (by omega) (Nat.mod_lt _ (by decide))
  have honce : (b + 2 ^ 32 - t.stamp) % 2 ^ 32 = b - t.stamp := elapsed_of_stamp rfl (ha.trans hab) hb hstamp
  have hsum : t.rate * (b - t.stamp) = t.rate * (a - t.stamp) + t.rate * (b - a) := by
    rw [← Nat.mul_add, show b - t.stamp = a - t.stamp + (b - a) by omega]
  rw [Tenant.refill_of_metered h a, Tenant.refill_of_metered (by exact h), Tenant.refill_of_metered h b]
  dsimp only
  rw [hfirst, hsecond, honce, min_add_min (Int.natCast_nonneg _), hsum, Nat.cast_add]

theorem Tenant.refill_le_burst {t : Tenant} (h : t.level ≤ ((t.burst * 1000000 : Nat) : Int)) (us : Nat) :
    (t.refill us).level ≤ ((t.burst * 1000000 : Nat) : Int) := by
  unfold Tenant.refill
  split
  · exact min_le_left _ _
  · exact h

/-- Settles O42: time that has passed adds up as long as the stamp's 32 bits tell it, and the level stays between floor and depth. -/
theorem bucketsRefillAtTheRate : Obligations.BucketsRefillAtTheRate := by
  unfold Obligations.BucketsRefillAtTheRate
  refine ⟨fun t a b h hstamp ha hab hb => t.refill_refill h hstamp ha hab hb, fun t us h => t.refill_le_burst h us,
    fun t n h hfloor => ?_⟩
  rw [t.charge_level h]
  exact ⟨le_max_left _ _, max_le hfloor (sub_le_self _ (Int.natCast_nonneg _)), fun hroom => max_eq_right hroom⟩

end Sys2Proof.Machine
end

section
/-!
# A lost page on the cached list

KV_FAILED of a page that a request holds and that stands on the cached list as well (R151, R164).
-/

namespace Sys2Proof.Machine

theorem exec_kvFailed {s : State} (h : s.receives Isl.pg) (p : BitVec 22) :
    exec (.kvFailed p) s = .next { s with eng := s.seen.kvFails p.toNat } :=
  State.cross_receives h _ _

/-- With no list left that holds the page, no request ends by its loss. -/
theorem Engine.failHolders_none {e : Engine} {p : Nat} (h : e.holdersOf p = []) : e.failHolders p = e := by
  rw [Engine.failHolders, h, List.foldl_nil]

/-- The engine whose holders R164 ends: the page is out of the index and off the cached list, FAILED, and its loss is in the eaves log. -/
def Engine.pageGone (e : Engine) (p : Nat) : Engine :=
  (((e.unindex p).leaveCached p).modPage p fun x => { x with state := .failed }).log Ev.kvFailed [p]

theorem Engine.pageGone_rafter (e : Engine) (p : Nat) : (e.pageGone p).rafter = e.rafter := by
  have hpages : Stores e (((e.unindex p).leaveCached p).modPage p fun x => { x with state := .failed }) :=
    ((e.unindex_stores p).trans (Engine.leaveCached_stores _ p)).trans (Engine.modPage_stores _ p _)
  exact (Engine.log_only _ _ _).rafter_eq.trans hpages.rafter_eq

/-- Where the page's departure from the cached list leaves it on no request's list, its loss changes no request. -/
theorem Engine.losePage_unheld {e : Engine} {p : Nat} (h : (e.pageGone p).holdersOf p = []) : (e.losePage p).rafter = e.rafter := by
  have hlost : (((e.pageGone p).failHolders p).settle p).rafter = e.rafter := by
    rw [Engine.failHolders_none h]
    exact (Engine.settle_stores _ p).rafter_eq.trans (e.pageGone_rafter p)
  unfold Engine.losePage
  extract_lets x e1
  split
  · rfl
  · exact hlost

/-- A FULL page in T0 with one holder. -/
def heldPage (next : Nat) : Page := { Page.blank with next := next, state := .full, tier := 0, holders := 1, before := .full }

/-- A request in DECODE whose list is the pages 1 and 2. -/
def twoPageRequest : Rafter := { Rafter.ofImage 0 with handle := 5, state := .decode, pageHead := 1, pageCount := 2 }

/-- An engine out of reset with that request in slot 5, where the two pages stand on the cached list too, before page 3. -/
def heldAndCached : State :=
  { State.reset with eng := { Engine.reset with
      glb := { Glb.reset with aoReset := false, mainReset := false, phase := 7 }
      cal := { Cal.reset with loaded := true }
      cpc := { Cpc.reset with running := 0x1FF#9 }
      rafter := [(5, twoPageRequest)]
      pgm := { Engine.reset.pgm with pages := [(1, heldPage 2), (2, heldPage 0)], cached := [1, 2, 3] } } }

theorem heldAndCached_receives : heldAndCached.receives Isl.pg := ⟨rfl, rfl⟩

theorem heldAndCached_alone : heldAndCached.eng.alone := ⟨rfl, rfl⟩

theorem heldAndCached_holders : heldAndCached.eng.holdersOf (2#22).toNat = [5] := rfl

/-- Page 2's neighbours on the cached list are joined by the field NEXT that the request's list runs through: page 3 follows page 1. -/
theorem heldAndCached_gone : ((heldAndCached.seen.bump Cnt.pgmTierFail).pageGone 2).holdersOf 2 = [] := by
  decide +kernel

theorem heldAndCached_keeps : (heldAndCached.seen.kvFails 2).rafter = heldAndCached.eng.rafter :=
  Engine.losePage_unheld heldAndCached_gone

/-- Refutes O45: the statement leaves out that a page with holders is not on the cached list. In `heldAndCached` page 2 is: KV_FAILED takes
it off, which links page 1 to page 3, and the request of slot 5, whose list then no longer holds page 2, stays in DECODE. -/
theorem not_stallsPagesAndModes : ¬ Obligations.StallsPagesAndModes := by
  unfold Obligations.StallsPagesAndModes
  rintro ⟨-, hfailed, -⟩
  have hmatch : ∀ k ∈ heldAndCached.eng.holdersOf (2#22).toNat, heldAndCached.eng.matching k (2#22).toNat = false := by
    rw [heldAndCached_holders]
    rintro k (_ | ⟨_, ⟨⟩⟩)
    rfl
  obtain ⟨t, hexec, -, -, -, hends⟩ :=
    hfailed heldAndCached 2#22 heldAndCached_receives heldAndCached_alone (.inr rfl) (by decide) hmatch
  obtain rfl := Host.Outcome.next.inj (hexec.symm.trans (exec_kvFailed heldAndCached_receives 2#22))
  have hmem : 5 ∈ heldAndCached.eng.holdersOf (2#22).toNat := by
    rw [heldAndCached_holders]
    exact List.mem_singleton_self 5
  have hend := hends 5 twoPageRequest hmem rfl (.inl rfl)
  have hstays : ({ heldAndCached with eng := heldAndCached.seen.kvFails 2 } : State).eng.req? 5 = some twoPageRequest :=
    congrArg (Table.get? · 5) heldAndCached_keeps
  exact absurd (congrArg Rafter.state (Option.some.inj (hstays.symm.trans hend))) (by decide)

end Sys2Proof.Machine
end

section
/-!
# Page work

Pages put, moved between lists, settled and raised change the page manager, the leave channels and what waits for a resource; the
tenants, the variant store and the requests stay (R141 to R153).
-/

namespace Sys2Proof.Machine

/-- e' is e after work on pages. -/
def PageWork (e e' : Engine) : Prop :=
  e' = { e with pgm := e'.pgm, adm := { e.adm with due := e'.adm.due }, mdv := { e.mdv with opsDue := e'.mdv.opsDue }, cpc := e'.cpc,
                taken := e'.taken, cnt := e'.cnt, out := e'.out } ∧
    ∀ c, c < 0x40000 ∨ 0x50000 ≤ c → e'.count c = e.count c

section
variable {a b c e e' : Engine}

theorem PageWork.refl (e : Engine) : PageWork e e := ⟨rfl, fun _ _ => rfl⟩

theorem PageWork.trans (h : PageWork a b) (k : PageWork b c) : PageWork a c := by
  obtain ⟨h1, h2⟩ := h
  obtain ⟨k1, k2⟩ := k
  refine ⟨?_, fun n hn => (k2 n hn).trans (h2 n hn)⟩
  rw [k1, h1]

/-- Work that counts nothing. -/
theorem PageWork.of_eq (h : e' = { e with
      pgm := e'.pgm, adm := { e.adm with due := e'.adm.due }, mdv := { e.mdv with opsDue := e'.mdv.opsDue }, cpc := e'.cpc,
      taken := e'.taken, cnt := e'.cnt, out := e'.out })
    (hc : e'.cnt = e.cnt) : PageWork e e' := ⟨h, fun n _ => Engine.count_congr hc n⟩

theorem PageWork.foldl {α : Type} {f : Engine → α → Engine} (hf : ∀ e x, PageWork e (f e x)) :
    ∀ (l : List α) (e : Engine), PageWork e (l.foldl f e)
  | [], e => .refl e
  | x :: l, e => (hf e x).trans (PageWork.foldl hf l (f e x))

theorem PageWork.bump (e : Engine) {n : Nat} (h : 0x40000 ≤ n ∧ n < 0x50000) : PageWork e (e.bump n) :=
  ⟨rfl, fun c hc => Engine.count_bump_ne e (by omega)⟩

theorem PageWork.stores (h : PageWork e e') : Stores e e' := by
  obtain ⟨hframe, hcount⟩ := h
  refine ⟨?_, fun c hc => hcount c (by omega)⟩
  rw [hframe]

theorem PageWork.tenants_eq (h : PageWork e e') : e'.adm.tenants = e.adm.tenants := by rw [h.1]
theorem PageWork.var_eq (h : PageWork e e') : e'.var = e.var := by rw [h.1]
theorem PageWork.ylm_eq (h : PageWork e e') : e'.ylm = e.ylm := by rw [h.1]
theorem PageWork.rafter_eq (h : PageWork e e') : e'.rafter = e.rafter := h.stores.rafter_eq
theorem PageWork.hru_eq (h : PageWork e e') : e'.hru = e.hru := h.stores.hru_eq

end

section
variable (e : Engine)

theorem Engine.ops_pageWork (record : Nat) : PageWork e (e.ops record) := by
  unfold Engine.ops
  split
  · exact .of_eq rfl rfl
  · exact .refl e

theorem Engine.wake_pageWork (hit : Rafter → Bool) : PageWork e (e.wake hit) := by
  unfold Engine.wake
  extract_lets l
  split
  · exact .refl e
  · exact .of_eq rfl rfl

theorem Engine.putPage_pageWork (p : Nat) (x : Page) : PageWork e (e.putPage p x) :=
  (PageWork.of_eq (e' := { e with pgm := { e.pgm with pages := Table.put e.pgm.pages p x } }) rfl rfl).trans (Engine.ops_pageWork _ _)

theorem Engine.modPage_pageWork (p : Nat) (f : Page → Page) : PageWork e (e.modPage p f) := by
  unfold Engine.modPage
  split
  · exact e.putPage_pageWork _ _
  · exact .refl e

theorem Engine.undefLink_pageWork : PageWork e e.undefLink.2 := .of_eq rfl rfl

theorem Engine.joinPages_pageWork (a b : Option Nat) : PageWork e (e.joinPages a b) := by
  match a, b with
  | some a, some b => exact (e.modPage_pageWork _ _).trans (Engine.modPage_pageWork _ _ _)
  | some a, none => exact e.undefLink_pageWork.trans (Engine.modPage_pageWork _ _ _)
  | none, some b => exact e.undefLink_pageWork.trans (Engine.modPage_pageWork _ _ _)
  | none, none => exact .refl e

theorem Engine.enterCached_pageWork (p : Nat) : PageWork e (e.enterCached p) := by
  unfold Engine.enterCached
  extract_lets last e1 e2
  have h2 : PageWork e e2 := ((e.modPage_pageWork _ _).trans (Engine.joinPages_pageWork _ _ _)).trans (Engine.joinPages_pageWork _ _ _)
  exact (h2.trans (.of_eq rfl rfl)).trans (Engine.wake_pageWork _ _)

theorem Engine.leaveCached_pageWork (p : Nat) : PageWork e (e.leaveCached p) := by
  unfold Engine.leaveCached
  extract_lets l i before pgm e1
  split
  · exact .refl e
  · exact (PageWork.of_eq rfl rfl).trans (e1.joinPages_pageWork _ _)

theorem Engine.unindex_pageWork (p : Nat) : PageWork e (e.unindex p) := by
  unfold Engine.unindex
  extract_lets x
  split
  · have hway : PageWork e (e.putWay x.bucket x.way .none) := (PageWork.of_eq rfl rfl).trans (Engine.ops_pageWork _ _)
    exact hway.trans (Engine.putPage_pageWork _ _ _)
  · exact .refl e

theorem Engine.giveFrame_pageWork (tier c frame : Nat) : PageWork e (e.giveFrame tier c frame) := by
  unfold Engine.giveFrame
  split
  · split
    · exact .refl e
    · exact .of_eq rfl rfl
  · split
    · exact .of_eq rfl rfl
    · exact .refl e

theorem Engine.freePage_pageWork (p : Nat) : PageWork e (e.freePage p) := by
  have hfree : ∀ e : Engine, PageWork e (e.freeEntry p) := fun e =>
    ((e.ops_pageWork _).trans (.of_eq rfl rfl)).trans (Engine.wake_pageWork _ _)
  exact (((e.unindex_pageWork p).trans (Engine.leaveCached_pageWork _ p)).trans (Engine.giveFrame_pageWork _ _ _ _)).trans (hfree _)

theorem Engine.settle_pageWork (p : Nat) : PageWork e (e.settle p) := by
  have hfree : ∀ b : Bool, PageWork e (if b then e.freePage p else e) := fun b => by
    cases b
    · exact .refl e
    · exact e.freePage_pageWork p
  unfold Engine.settle
  extract_lets x
  split
  · exact .refl e
  · split
    · split
      · exact e.enterCached_pageWork p
      · split
        · exact e.freePage_pageWork p
        · exact .refl e
    · split
      · exact e.freePage_pageWork p
      · exact .refl e
    · exact hfree _
    · exact hfree _
    · exact .refl e

theorem Engine.purge_pageWork (hit : Page → Bool) : PageWork e (e.purge hit) :=
  .foldl (fun e p => (e.unindex_pageWork p).trans (Engine.settle_pageWork _ p)) _ e

theorem Engine.takeHolder_pageWork (p : Nat) : PageWork e (e.takeHolder p) :=
  (e.leaveCached_pageWork p).trans (Engine.putPage_pageWork _ _ _)

/-! ### Frames and moves (R145 to R150) -/

theorem Engine.gather_pageWork : PageWork e e.gather := by
  unfold Engine.gather
  extract_lets live l go pgm e1
  split
  · exact .refl e
  · have h1 : PageWork e e1 := .of_eq rfl rfl
    split
    · exact h1
    · refine h1.trans ?_
      unfold Engine.askBurst Engine.askLeave Engine.putChannel
      exact .of_eq rfl rfl

theorem Engine.want_pageWork (w : WantedMove) : PageWork e (e.want w) := by
  unfold Engine.want
  split
  · exact .refl e
  · exact (PageWork.of_eq rfl rfl).trans (Engine.gather_pageWork _)

theorem Engine.raisePage_pageWork (why : MoveWhy) (slot p : Nat) : PageWork e (e.raisePage why slot p) := by
  have hcancel : PageWork e (e.cancelDown p) := by
    unfold Engine.cancelDown
    split
    · exact .refl e
    · exact .trans (.of_eq rfl rfl) (.bump _ (by decide))
  unfold Engine.raisePage
  extract_lets e1 pgm e2
  have h1 : PageWork e e1 := by
    dsimp only [e1]
    split
    · exact hcancel
    · exact .refl e
  split
  · exact (h1.trans (.of_eq rfl rfl)).trans (e2.want_pageWork _)
  · exact h1

end

section
variable {e e' : Engine} {tier c k : Nat}

theorem Engine.takeFrame_pageWork (h : e.takeFrame tier c = some (k, e')) : PageWork e e' := by
  obtain ⟨x, -, hx⟩ := Option.map_eq_some_iff.1 h
  obtain ⟨-, rfl⟩ := Prod.mk.inj hx
  exact .of_eq rfl rfl

theorem Engine.findFrame_pageWork (h : e.findFrame tier c = some (k, e')) : PageWork e e' := by
  unfold Engine.findFrame at h
  split at h
  · next x hx =>
    obtain rfl := Option.some.inj h
    exact Engine.takeFrame_pageWork hx
  · obtain ⟨e1, hreclaim, htake⟩ := Option.bind_eq_some_iff.1 h
    obtain ⟨p, -, rfl⟩ := Option.map_eq_some_iff.1 hreclaim
    exact ((e.freePage_pageWork p).trans (.bump _ (by decide))).trans (Engine.takeFrame_pageWork htake)

/-- A new frame comes from one of the two pools, reclaimed or not. -/
theorem Engine.bindFrame_pageWork {t : Nat} (h : e.bindFrame c = some (t, k, e')) : PageWork e e' := by
  have hpool : ∀ {tier : Nat} {x : Option (Nat × Engine)}, (x.map fun (k, e) => (tier, k, e)) = some (t, k, e') → x = some (k, e') := by
    rintro tier (_ | ⟨k, e⟩) hx <;> cases hx
    rfl
  have heither : ∀ {x y : Option (Nat × Nat × Engine)}, (x.orElse fun _ => y) = some (t, k, e') → x = some (t, k, e') ∨ y = some (t, k, e') := by
    rintro (_ | x) y hx
    · exact .inr hx
    · exact .inl hx
  unfold Engine.bindFrame at h
  extract_lets from_ first at h
  obtain h | h := heither h
  · obtain h | h := heither h
    · obtain h | h := heither h
      · dsimp only [first] at h
        split at h
        · exact Engine.takeFrame_pageWork (hpool h)
        · cases h
      · exact Engine.takeFrame_pageWork (hpool h)
    · exact Engine.findFrame_pageWork (hpool h)
  · exact Engine.findFrame_pageWork (hpool h)

end

end Sys2Proof.Machine
end

section
/-!
# What retirement and loading leave

Versions placed, evicted and reloaded, and everything that retires them and the prefixes, keep the families, the requests, the
candidates and what enables a tenant (R174, R178 to R181, R186, R397).
-/

namespace Sys2Proof.Machine

/-! ### Tenants -/

/-- A change of a tenant's holdings. -/
theorem Table.getD_modify_congr {α β : Type} {f : α → α} {g : α → β} (hf : ∀ x, g (f x) = g x) (T : Table α) (t j : Nat) (d : α) :
    g (Table.getD (Table.modify T t f) j d) = g (Table.getD T j d) := by
  rw [Table.getD, Table.getD, Table.get?_modify]
  split
  · next hj =>
    subst hj
    cases Table.get? T j with
    | none => rfl
    | some x => exact hf x
  · rfl

theorem Engine.addAheld_enable (e : Engine) (t : Nat) (up : Bool) (j : Nat) : ((e.addAheld t up).tenant j).enable = (e.tenant j).enable :=
  Table.getD_modify_congr (f := fun x : Tenant => { x with aheld := if up then x.aheld + 1 else x.aheld - 1 })
    (g := Tenant.enable) (fun _ => rfl) e.adm.tenants t j Tenant.zero

theorem Engine.addPheld_enable (e : Engine) (t n : Nat) (up : Bool) (j : Nat) : ((e.addPheld t n up).tenant j).enable = (e.tenant j).enable :=
  Table.getD_modify_congr (f := fun x : Tenant => { x with pheld := if up then x.pheld + n else x.pheld - n })
    (g := Tenant.enable) (fun _ => rfl) e.adm.tenants t j Tenant.zero

/-! ### Versions placed and evicted (R180, R397) -/

/-- e' is e after work on versions: families and enables stay, no job ends, and what was driven stays driven. -/
structure VersionWork (e e' : Engine) : Prop where
  stores : Stores e e'
  families : e'.var.families = e.var.families
  jobs : ∀ j ∈ e.var.jobs, ∃ j' ∈ e'.var.jobs, j'.id = j.id ∧ j'.what = j.what ∧ j'.total = j.total
  out : e.out <:+ e'.out
  enable : ∀ t, (e'.tenant t).enable = (e.tenant t).enable

section
variable {a b c e e' : Engine}

theorem VersionWork.refl (e : Engine) : VersionWork e e :=
  ⟨.refl e, rfl, fun j hj => ⟨j, hj, rfl, rfl, rfl⟩, List.suffix_refl _, fun _ => rfl⟩

theorem VersionWork.trans (h : VersionWork a b) (k : VersionWork b c) : VersionWork a c where
  stores := h.stores.trans k.stores
  families := k.families.trans h.families
  jobs j hj := by
    obtain ⟨x, hx, hid, hwhat, htotal⟩ := h.jobs j hj
    obtain ⟨y, hy, hid', hwhat', htotal'⟩ := k.jobs x hx
    exact ⟨y, hy, hid'.trans hid, hwhat'.trans hwhat, htotal'.trans htotal⟩
  out := h.out.trans k.out
  enable t := (k.enable t).trans (h.enable t)

/-- Where neither jobs nor tenants nor outputs change. -/
theorem VersionWork.of_eq (h : Stores e e') (hf : e'.var.families = e.var.families) (hj : e'.var.jobs = e.var.jobs)
    (ho : e'.out = e.out) (ht : e'.adm.tenants = e.adm.tenants) : VersionWork e e' where
  stores := h
  families := hf
  jobs j hj' := ⟨j, by rw [hj]; exact hj', rfl, rfl, rfl⟩
  out := by rw [ho]
  enable t := by rw [Engine.tenant, Engine.tenant, ht]

end

section
variable (e : Engine)

theorem Engine.ops_versionWork (record : Nat) : VersionWork e (e.ops record) := by
  unfold Engine.ops
  split
  · exact .of_eq (.of_eq rfl rfl) rfl rfl rfl rfl
  · exact .refl e

theorem Engine.wake_versionWork (hit : Rafter → Bool) : VersionWork e (e.wake hit) := by
  unfold Engine.wake
  extract_lets
  split
  · exact .refl e
  · exact .of_eq (.of_eq rfl rfl) rfl rfl rfl rfl

theorem Engine.bump_versionWork {n : Nat} (h : 0x40000 ≤ n ∧ n < 0x60000) : VersionWork e (e.bump n) :=
  .of_eq (.bump e h) rfl rfl rfl rfl

theorem Engine.modRecord_versionWork (a v : Nat) (f : VersionRec → VersionRec) : VersionWork e (e.modRecord a v f) := by
  unfold Engine.modRecord
  split
  · exact .refl e
  · exact .of_eq (.of_eq rfl rfl) rfl rfl rfl rfl

theorem Engine.addAheld_versionWork (t : Nat) (up : Bool) : VersionWork e (e.addAheld t up) where
  stores := .of_eq rfl rfl
  families := rfl
  jobs j hj := ⟨j, hj, rfl, rfl, rfl⟩
  out := List.suffix_refl _
  enable j := e.addAheld_enable t up j

theorem Engine.freeSlot_versionWork (s : Nat) : VersionWork e (e.freeSlot s) := by
  unfold Engine.freeSlot
  split
  · exact .refl e
  · extract_lets e1 var e2 e3
    have h1 : VersionWork e e1 := (e.modRecord_versionWork _ _ _).trans (Engine.ops_versionWork _ _)
    have h2 : VersionWork e e2 := h1.trans (.of_eq (.of_eq rfl rfl) rfl rfl rfl rfl)
    have h3 : VersionWork e e3 := h2.trans (e2.wake_versionWork _)
    split
    · exact h3
    · exact h3.trans (e3.addAheld_versionWork _ _)

theorem Engine.opsSlot_versionWork (s : Nat) (x : Slot) : VersionWork e (e.opsSlot s x) := by
  unfold Engine.opsSlot
  split
  · exact .refl e
  · exact e.ops_versionWork _

theorem Engine.askLeave_versionWork (ch1 : Bool) (cls cred : Nat) (why : LeaveFor) : VersionWork e (e.askLeave ch1 cls cred why).2 := by
  unfold Engine.askLeave Engine.putChannel
  extract_lets
  dsimp only
  split <;> exact .of_eq (.of_eq rfl rfl) rfl rfl rfl rfl

end

section
variable {e e' : Engine}

theorem Engine.evictOne_versionWork {test : Slot → Bool} (h : e.evictOne test = some e') : VersionWork e e' := by
  obtain ⟨v, -, hv⟩ := List.exists_of_findSome?_eq_some h
  split at hv
  · obtain ⟨g, -, rfl⟩ := Option.map_eq_some_iff.1 hv
    refine .trans ?_ (Engine.opsSlot_versionWork _ _ _)
    exact (e.modRecord_versionWork _ _ _).trans (.of_eq (.of_eq rfl rfl) rfl rfl rfl rfl)
  · obtain rfl := Option.some.inj hv
    exact ((e.modRecord_versionWork _ _ _).trans (Engine.freeSlot_versionWork _ _)).trans (Engine.bump_versionWork _ (by decide))

theorem Engine.fitQuota_versionWork {fuel t : Nat} {e e' : Engine} (h : Engine.fitQuota fuel t e = some e') : VersionWork e e' := by
  induction fuel generalizing e with
  | zero =>
    unfold Engine.fitQuota at h
    split at h
    · exact Option.some.inj h ▸ .refl e
    · split at h
      · exact Option.some.inj h ▸ .refl e
      · cases h
  | succ fuel ih =>
    unfold Engine.fitQuota at h
    split at h
    · exact Option.some.inj h ▸ .refl e
    · split at h
      · exact Option.some.inj h ▸ .refl e
      · dsimp only at h
        split at h
        · cases h
        · next e1 he1 => exact (Engine.evictOne_versionWork he1).trans (ih h)

theorem Engine.findSlot_versionWork {fuel n s g : Nat} {e e' : Engine} (h : Engine.findSlot fuel n e = some (s, g, e')) :
    VersionWork e e' := by
  induction fuel generalizing e with
  | zero =>
    rw [Engine.findSlot_zero] at h
    split at h
    · cases h
      exact .refl _
    · cases h
  | succ fuel ih =>
    rw [Engine.findSlot_succ] at h
    split at h
    · cases h
      exact .refl _
    · split at h
      · cases h
      · next e1 he1 => exact (Engine.evictOne_versionWork he1).trans (ih h)

theorem Engine.placeVersion_versionWork {a v family owner size s : Nat}
    (h : (e.placeVersion a v family owner size).2 = some (s, e')) : VersionWork e e' := by
  cases hquota : Engine.fitQuota 16384 owner e with
  | none => simp [Engine.placeVersion, hquota] at h
  | some e1 =>
    cases hslot : Engine.findSlot 16384 (ceilDiv size 16) e1 with
    | none => simp [Engine.placeVersion, hquota, hslot] at h
    | some x =>
      obtain ⟨s', g, e2⟩ := x
      simp only [Engine.placeVersion, hquota, hslot, Option.some.injEq, Prod.mk.injEq] at h
      obtain ⟨-, rfl⟩ := h
      have hplaced := (Engine.fitQuota_versionWork hquota).trans (Engine.findSlot_versionWork hslot)
      exact (hplaced.trans (e2.addAheld_versionWork owner true)).trans (.of_eq (.of_eq rfl rfl) rfl rfl rfl rfl)

/-- A job that joins the queue. -/
theorem Engine.addJob_versionWork (e : Engine) (w : LoadOf) (total : Nat) : VersionWork e (e.addJob w total) where
  stores := .of_eq rfl rfl
  families := rfl
  jobs j hj := ⟨j, List.mem_append_left _ hj, rfl, rfl, rfl⟩
  out := List.suffix_refl _
  enable _ := rfl

theorem Engine.startReload_versionWork {a v : Nat} (h : e.startReload a v = some e') : VersionWork e e' := by
  unfold Engine.startReload at h
  split at h
  · split at h
    · split at h
      · cases h
      · next s e1 h1 =>
        extract_lets e2 e3 at h
        obtain rfl := Option.some.inj h
        have h3 : VersionWork e2 e3 := by
          dsimp only [e3]
          split
          · exact e2.opsSlot_versionWork _ _
          · exact .refl e2
        have hplaced : VersionWork e e3 := ((Engine.placeVersion_versionWork h1).trans (e1.modRecord_versionWork _ _ _)).trans h3
        exact (hplaced.trans (e3.addJob_versionWork _ _)).trans (Engine.bump_versionWork _ (by decide))
    · cases h
  · cases h

theorem Engine.nextReload_versionWork {j : Job} {l : List (Nat × Nat)} (h : e.nextReload l = some (j, e')) : VersionWork e e' := by
  induction l with
  | nil => cases h
  | cons x l ih =>
    obtain ⟨a, v⟩ := x
    unfold Engine.nextReload at h
    split at h
    · split at h
      · cases h
        exact .refl e
      · exact ih h
    · split at h
      · next x hx =>
        cases h
        obtain ⟨e1, h1, h2⟩ := Option.bind_eq_some_iff.1 hx
        obtain ⟨j', -, h3⟩ := Option.map_eq_some_iff.1 h2
        cases h3
        exact Engine.startReload_versionWork h1
      · exact ih h

theorem Engine.nextJobOf_versionWork {j : Job} (h : e.nextJobOf = some (j, e')) : VersionWork e e' := by
  unfold Engine.nextJobOf at h
  extract_lets first at h
  split at h
  · cases h
    exact .refl e
  · split at h
    · next x hx =>
      cases h
      exact Engine.nextReload_versionWork hx
    · obtain ⟨j', -, h1⟩ := Option.map_eq_some_iff.1 h
      cases h1
      exact .refl e

/-- The next burst marks its job as begun, which ends none. -/
theorem Engine.nextLoadBurst_versionWork (e : Engine) : VersionWork e e.nextLoadBurst := by
  unfold Engine.nextLoadBurst
  split
  · exact .refl e
  · split
    · exact .refl e
    · next j e1 h1 =>
      extract_lets n bytes
      have hask := e1.askLeave_versionWork true 3 (e1.credits (e1.energy 3 * bytes)) .load
      refine ((Engine.nextJobOf_versionWork h1).trans hask).trans ⟨.of_eq rfl rfl, rfl, fun x hx => ?_, List.suffix_refl _, fun _ => rfl⟩
      refine ⟨_, List.mem_map_of_mem hx, ?_⟩
      split <;> exact ⟨rfl, rfl, rfl⟩

end

/-! ### Versions and prefixes retired (R174, R178, R181, R186) -/

/-- e' has the requests, the families, the admissions and the enables of e, and has counted nothing of the admission. -/
structure Settles (e e' : Engine) : Prop where
  rafter : e'.rafter = e.rafter
  families : e'.var.families = e.var.families
  candidates : e'.adm.candidates = e.adm.candidates
  enable : ∀ t, (e'.tenant t).enable = (e.tenant t).enable
  count : ∀ c, 0x20000 ≤ c ∧ c < 0x30000 → e'.count c = e.count c

section
variable {a b c e e' : Engine}

theorem Settles.of_eq (hr : e'.rafter = e.rafter) (hf : e'.var.families = e.var.families) (ha : e'.adm = e.adm) (hc : e'.cnt = e.cnt) :
    Settles e e' :=
  ⟨hr, hf, by rw [ha], fun t => by rw [Engine.tenant, Engine.tenant, ha], fun n _ => Engine.count_congr hc n⟩

theorem Settles.refl (e : Engine) : Settles e e := .of_eq rfl rfl rfl rfl

theorem Settles.trans (h : Settles a b) (k : Settles b c) : Settles a c where
  rafter := k.rafter.trans h.rafter
  families := k.families.trans h.families
  candidates := k.candidates.trans h.candidates
  enable t := (k.enable t).trans (h.enable t)
  count n hn := (k.count n hn).trans (h.count n hn)

theorem Settles.foldl {α : Type} {f : Engine → α → Engine} (hf : ∀ e x, Settles e (f e x)) :
    ∀ (l : List α) (e : Engine), Settles e (l.foldl f e)
  | [], e => .refl e
  | x :: l, e => (hf e x).trans (Settles.foldl hf l (f e x))

theorem PageWork.settles (h : PageWork e e') : Settles e e' where
  rafter := h.rafter_eq
  families := by rw [h.var_eq]
  candidates := by rw [h.1]
  enable t := by rw [Engine.tenant, Engine.tenant, h.tenants_eq]
  count n hn := h.2 n (by omega)

theorem VersionWork.settles (h : VersionWork e e') : Settles e e' where
  rafter := h.stores.rafter_eq
  families := h.families
  candidates := by rw [h.stores.1]
  enable := h.enable
  count n hn := h.stores.2 n (by omega)

theorem AckOnly.settles (h : AckOnly e e') : Settles e e' where
  rafter := h.rafter_eq
  families := by rw [h.var_eq]
  candidates := by rw [h.adm_eq]
  enable t := by rw [Engine.tenant, Engine.tenant, h.adm_eq]
  count n hn := h.count n (by unfold Cnt.hruMalformed; omega) (by omega)

end

section
variable (e : Engine)

theorem Engine.ackRetires_settles (a v : Nat) (x : Addition) : Settles e (e.ackRetires a v x) := by
  unfold Engine.ackRetires
  extract_lets left done x' var e1
  have h1 : Settles e e1 := by
    dsimp only [e1]
    split <;> exact .of_eq rfl rfl rfl rfl
  exact h1.trans (.foldl (fun e t => (e.ackAt_ackOnly _ _).settles) _ e1)

theorem Engine.emptyRecord_settles (a v : Nat) : Settles e (e.emptyRecord a v) := by
  unfold Engine.emptyRecord
  split
  · exact .refl e
  · exact (e.ackRetires_settles _ _ _).trans (Engine.bump_versionWork _ (by decide)).settles

theorem Engine.settleRecord_settles (a v : Nat) : Settles e (e.settleRecord a v) := by
  unfold Engine.settleRecord
  split
  · exact .refl e
  · split
    · exact .refl e
    · split
      · exact e.emptyRecord_settles a v
      · split
        · exact (e.freeSlot_versionWork _).settles.trans (Engine.emptyRecord_settles _ a v)
        · exact .refl e

theorem Engine.addPheld_settles (t n : Nat) (up : Bool) : Settles e (e.addPheld t n up) :=
  ⟨rfl, rfl, rfl, e.addPheld_enable t n up, fun _ _ => rfl⟩

theorem Engine.opsPrefix_pageWork (p family state : Nat) : PageWork e (e.opsPrefix p family state) := e.ops_pageWork _

theorem Engine.settlePrefix_settles (p : Nat) : Settles e (e.settlePrefix p) := by
  unfold Engine.settlePrefix
  split
  · exact .refl e
  · extract_lets named var e1 e2
    split
    · exact .refl e
    · have h1 : Settles e e1 := by
        refine .trans ?_ (Engine.opsPrefix_pageWork _ _ _ _).settles
        exact .of_eq rfl rfl rfl rfl
      have h2 : Settles e e2 := h1.trans
        (.foldl (fun e q => ((e.putPage_pageWork _ _).trans (Engine.settle_pageWork _ _)).settles) _ e1)
      exact (h2.trans (e2.addPheld_settles _ _ _)).trans (Engine.ackAt_ackOnly _ _ _).settles

theorem Engine.settleNamed_settles (r : Rafter) : Settles e (e.settleNamed r) := by
  unfold Engine.settleNamed
  extract_lets e1
  have h1 : Settles e e1 := by
    dsimp only [e1]
    split
    · exact e.settleRecord_settles _ _
    · exact .refl e
  split
  · exact h1.trans (e1.settlePrefix_settles _)
  · exact h1

/-! ### Loads cancelled (R178, Table 7.7) -/

theorem Engine.putChannel_settles (ch1 : Bool) (c : Channel) : Settles e (e.putChannel ch1 c) := by
  unfold Engine.putChannel
  split <;> exact .of_eq rfl rfl rfl rfl

theorem Engine.endLoadBurst_settles : Settles e e.endLoadBurst := by
  unfold Engine.endLoadBurst
  split
  · exact .of_eq rfl rfl rfl rfl
  · extract_lets e1
    have h1 : Settles e e1 := by
      dsimp only [e1]
      split
      · exact e.putChannel_settles _ _
      · unfold Engine.endGrant
        extract_lets
        split
        · exact e.putChannel_settles _ _
        · exact .refl e
    exact h1.trans (.of_eq rfl rfl rfl rfl)

theorem Engine.dropJob_settles (id : Nat) : Settles e (e.dropJob id) := by
  unfold Engine.dropJob
  extract_lets e1 moves var pgm e2
  have hemit : ∀ (e : Engine) (m : Move), Settles e (e.emit (.pageMove 3 m.tag 0 0 0 0 0 0 0)) := fun _ _ => .of_eq rfl rfl rfl rfl
  have h1 : Settles e e1 := .foldl hemit _ e
  have h2 : Settles e e2 := h1.trans (.of_eq rfl rfl rfl rfl)
  split
  · exact h2.trans e2.endLoadBurst_settles
  · exact h2

theorem Engine.cancelLoad_settles (a v : Nat) : Settles e (e.cancelLoad a v) := by
  unfold Engine.cancelLoad
  split
  · exact .refl e
  · extract_lets jobs e1 e2
    have h1 : Settles e e1 := .foldl (fun e j => e.dropJob_settles _) _ e
    have h2 : Settles e1 e2 := by
      dsimp only [e2]
      split
      · exact (e1.freeSlot_versionWork _).settles
      · exact .refl e1
    exact ((h1.trans h2).trans (e2.modRecord_versionWork _ _ _).settles).trans (Engine.ackAt_ackOnly _ _ _).settles

theorem Engine.retireRecord_settles (a v : Nat) (host : Bool) : Settles e (e.retireRecord a v host) := by
  unfold Engine.retireRecord
  split
  · exact .refl e
  · extract_lets e1
    have h1 : Settles e e1 := by
      dsimp only [e1]
      split
      · exact e.cancelLoad_settles a v
      · exact .refl e
    exact ((h1.trans (e1.modRecord_versionWork _ _ _).settles).trans (Engine.wake_pageWork _ _).settles).trans
      (Engine.settleRecord_settles _ a v)

theorem Engine.retireVersions_settles (a : Nat) (vs : List Nat) (ack : Option (Nat × Nat)) : Settles e (e.retireVersions a vs ack) := by
  unfold Engine.retireVersions
  extract_lets e1 e2
  have h1 : Settles e e1 := by
    dsimp only [e1]
    unfold Engine.clearCurrent
    split
    · exact .refl e
    · split
      · exact .of_eq rfl rfl rfl rfl
      · exact .refl e
  have h2 : Settles e1 e2 := by
    dsimp only [e2]
    split
    · exact .of_eq rfl rfl rfl rfl
    · exact .refl e1
  exact ((h1.trans h2).trans (.foldl (fun e v => e.retireRecord_settles a v true) vs e2)).trans
    (Engine.nextLoadBurst_versionWork _).settles

theorem Engine.retirePrefix_settles (p : Nat) (ack : Option (Nat × Nat)) : Settles e (e.retirePrefix p ack) := by
  unfold Engine.retirePrefix
  split
  · exact .refl e
  · extract_lets jobs e1 e2 e3 var e4
    have h3 : Settles e e3 := by
      dsimp only [e3]
      split
      · have h1 : Settles e e1 := .foldl (fun e j => e.dropJob_settles _) _ e
        have h2 : Settles e1 e2 := .foldl (fun e q => (e.modPage_pageWork _ _).settles) _ e1
        exact (h1.trans h2).trans (Engine.ackAt_ackOnly _ _ _).settles
      · exact .refl e
    have h4 : Settles e e4 := h3.trans (.of_eq rfl rfl rfl rfl)
    exact ((h4.trans (Engine.opsPrefix_pageWork _ _ _ _).settles).trans (Engine.settlePrefix_settles _ _)).trans
      (Engine.nextLoadBurst_versionWork _).settles

end

end Sys2Proof.Machine
end

section
/-!
# A SUBMIT that ends without admission

Its slot and staging slot return, its generation stays, and the version and the prefixes that waited for it retire (R63, R87, R89).
-/

namespace Sys2Proof.Machine

/-- What a wake leaves: all but the slots due a retry. -/
theorem Engine.wake_frame (e : Engine) (hit : Rafter → Bool) : ∃ l, e.wake hit = { e with adm := { e.adm with due := l } } := by
  unfold Engine.wake
  extract_lets l
  split
  · exact ⟨e.adm.due, rfl⟩
  · exact ⟨_, rfl⟩

/-- The engine with a request's slot and reservation returned, and the request nowhere. -/
def Engine.slotBack (e : Engine) (slot : Nat) : Engine :=
  let x := e.releaseReservation slot
  { x with rafter := Table.del x.rafter slot, slots := x.slots.give slot
           adm := { x.adm with held := x.adm.held.filter (fun h => h.slot != slot),
                               candidates := x.adm.candidates.filter (· != slot), due := x.adm.due.filter (· != slot) }
           pgm := { x.pgm with stage := Table.del x.pgm.stage slot } }

/-- A refusal counted by its status. -/
def Engine.countRefusal (e : Engine) (status : Nat) : Engine :=
  if status = Status.quota then e.bump Cnt.admRefQuota else if status = Status.noFit then e.bump Cnt.admRefNofit
  else if status = Status.additionMissing then e.bump Cnt.admRefAdd else e

/-- What a refusal comes to but for its acknowledgement. -/
def Engine.letGo (e : Engine) (slot status : Nat) (r : Rafter) : Engine :=
  (((e.slotBack slot).countRefusal status).wake fun x => x.tenant == r.tenant).settleNamed r

theorem Settles.req_eq {e e' : Engine} (h : Settles e e') (k : Nat) : e'.req? k = e.req? k := by
  rw [Engine.req?, h.rafter]
  rfl

section
variable {e : Engine} {slot : Nat} {r : Rafter}

theorem Engine.refuse_eq (h : e.req? slot = some r) (status : Nat) :
    e.refuse slot status = (match (e.letGo slot status r).staged? r.ackRing r.ackPos with
      | none => e.letGo slot status r
      | some d => (e.letGo slot status r).ackWith d nullHandle.toNat status 0) := by
  simp only [Engine.refuse, h]
  rfl

theorem Engine.releaseReservation_frame (e : Engine) (slot : Nat) :
    (∀ j, j ≠ slot → (e.releaseReservation slot).req? j = e.req? j) ∧
      (e.releaseReservation slot).adm.candidates = e.adm.candidates ∧ (e.releaseReservation slot).adm.tenants = e.adm.tenants ∧
      (e.releaseReservation slot).var = e.var ∧ (e.releaseReservation slot).cnt = e.cnt ∧ (e.releaseReservation slot).gens = e.gens := by
  unfold Engine.releaseReservation
  split
  · exact ⟨fun _ _ => rfl, rfl, rfl, rfl, rfl, rfl⟩
  · next r _ =>
    obtain ⟨l, hl⟩ := Engine.wake_frame ((e.unreserve (e.family r.family).cls r.entriesRes r.reserved).putReq slot
      { r with entriesRes := 0, reserved := 0 }) fun _ => true
    rw [Engine.wakeAll, hl]
    exact ⟨fun j hj => Table.get?_put_ne _ _ hj, rfl, rfl, rfl, rfl, rfl⟩

theorem Engine.countRefusal_frame (e : Engine) (status : Nat) : (∃ c, e.countRefusal status = { e with cnt := c }) ∧
    (e.countRefusal status).count Cnt.admHoldTo = e.count Cnt.admHoldTo := by
  unfold Engine.countRefusal
  split
  · exact ⟨⟨_, rfl⟩, Engine.count_bump_ne _ (by decide)⟩
  · split
    · exact ⟨⟨_, rfl⟩, Engine.count_bump_ne _ (by decide)⟩
    · split
      · exact ⟨⟨_, rfl⟩, Engine.count_bump_ne _ (by decide)⟩
      · exact ⟨⟨e.cnt, rfl⟩, rfl⟩

/-- e' is e with a slot's request gone from every place that an admission keeps. -/
structure LeftOut (e e' : Engine) (slot : Nat) : Prop where
  gone : e'.req? slot = none
  others : ∀ j, j ≠ slot → e'.req? j = e.req? j
  held : ∀ x ∈ e'.adm.held, x.slot ≠ slot
  candidates : e'.adm.candidates = e.adm.candidates.filter (· != slot)
  gens : e'.gens = e.gens
  enable : ∀ t, (e'.tenant t).enable = (e.tenant t).enable
  holdTo : e'.count Cnt.admHoldTo = e.count Cnt.admHoldTo

/-- Retirement and acknowledgements bring nothing of it back. -/
theorem LeftOut.after {e e' t : Engine} (h : LeftOut e e' slot) (hs : Settles e' t) (hheld : t.adm.held = e'.adm.held) (hgens : t.gens = e'.gens) :
    LeftOut e t slot where
  gone := (hs.req_eq slot).trans h.gone
  others j hj := (hs.req_eq j).trans (h.others j hj)
  held := by
    rw [hheld]
    exact h.held
  candidates := hs.candidates.trans h.candidates
  gens := hgens.trans h.gens
  enable t := (hs.enable t).trans (h.enable t)
  holdTo := (hs.count _ (by decide)).trans h.holdTo

theorem Engine.slotBack_leftOut (e : Engine) (slot : Nat) : LeftOut e (e.slotBack slot) slot := by
  obtain ⟨hreq, hcand, hten, -, hcnt, hgens⟩ := e.releaseReservation_frame slot
  refine ⟨Table.get?_del_self _ _, fun j hj => (Table.get?_del_ne _ hj).trans (hreq j hj), fun x hx => ?_,
    congrArg (List.filter (· != slot)) hcand, hgens, fun t => ?_, Engine.count_congr hcnt _⟩
  · simpa using (List.mem_filter.1 hx).2
  · exact congrArg (fun T => (Table.getD T t Tenant.zero).enable) hten

theorem Engine.letGo_leftOut (e : Engine) (slot status : Nat) (r : Rafter) : LeftOut e (e.letGo slot status r) slot := by
  obtain ⟨⟨c, hc⟩, hcount⟩ := (e.slotBack slot).countRefusal_frame status
  have h1 : LeftOut e ((e.slotBack slot).countRefusal status) slot := by
    obtain ⟨hgone, hothers, hheld, hcand, hgens, hen, hto⟩ := e.slotBack_leftOut slot
    have hto' := hcount.trans hto
    rw [hc] at hto' ⊢
    exact ⟨hgone, hothers, hheld, hcand, hgens, hen, hto'⟩
  have hwake := Engine.wake_pageWork ((e.slotBack slot).countRefusal status) fun x => x.tenant == r.tenant
  have h2 := h1.after hwake.settles hwake.stores.held_eq (by rw [hwake.1])
  obtain ⟨-, hheld, -⟩ := Engine.settleNamed_heldKept (((e.slotBack slot).countRefusal status).wake fun x => x.tenant == r.tenant) r
  obtain ⟨hgens, -⟩ := Engine.settleNamed_keeps (((e.slotBack slot).countRefusal status).wake fun x => x.tenant == r.tenant) r
  exact h2.after (Engine.settleNamed_settles _ r) hheld hgens

/-- A SUBMIT refused is left out everywhere and its descriptor is acknowledged, so that it is no longer staged. -/
theorem Engine.refuse_spec (h : e.req? slot = some r) (status : Nat) :
    LeftOut e (e.refuse slot status) slot ∧ (e.refuse slot status).staged? r.ackRing r.ackPos = none := by
  have hgone := e.letGo_leftOut slot status r
  rw [Engine.refuse_eq h]
  generalize e.letGo slot status r = x at hgone
  split
  · next hnone => exact ⟨hgone, hnone⟩
  · next d hd =>
    have hack := x.ackWith_ackOnly d nullHandle.toNat status 0
    have hplace : d.ring = r.ackRing ∧ d.pos = r.ackPos := by simpa using List.find?_some hd
    obtain ⟨hring, hpos⟩ := hplace
    rw [← hring, ← hpos]
    exact ⟨hgone.after hack.settles (by rw [hack.adm_eq]) (by rw [hack.frame]), (x.ackWith_unstaged d _ _ _).1⟩

end

end Sys2Proof.Machine
end

section
/-!
# TENANT_SET

The record, the salt with its purge, and the held requests of a tenant disabled (R89, R92, R151).
-/

namespace Sys2Proof.Machine

theorem exec_tenantSet {s : State} (h : s.receives Isl.sb) (i : BitVec 12) :
    exec (.tenantSet i) s = .next { s with eng := s.seen.decode i.toNat (fun d => d.opcode == 0x20) Engine.tenantSetDesc } :=
  State.cross_receives h _ _

/-- The engine with a TENANT_SET's record and salt, the pages of the old salt purged. -/
def Engine.tenantWritten (e : Engine) (d : Staged) : Engine :=
  let t := d.f 16 0 16
  let enable := d.f 18 0 1 == 1
  let salt := BitVec.ofNat 64 (d.f 40 0 64)
  let old := Table.getD e.pgm.salts t 0
  let e := e.refill t
  let e := e.putTenant t ((e.tenant t).set enable (d.f 20 0 32) (d.f 24 0 32) (d.f 28 0 18) (d.f 32 0 23) (d.f 36 0 13) e.us)
  let e := if old != salt || !enable then e.purge fun p => p.salt == old && !(e.family p.family).share else e
  { e with pgm := { e.pgm with salts := Table.put e.pgm.salts t salt } }

/-- The engine with a tenant's change told: to those that wait, to the step's record and to the partner. -/
def Engine.tenantTold (e : Engine) (t : Nat) : Engine :=
  let e := e.wake fun r => r.tenant == t
  (e.jevent 0x0A 0 t 0).mirrorEvent Mirror.tenant (leBytes 2 t ++ leBytes 32 (e.tenant t).image)

theorem Engine.tenantSetDesc_enables {e : Engine} {d : Staged} (hfull : e.eventsFull = false) (hen : d.f 18 0 1 = 1) :
    Engine.tenantSetDesc d e = ((e.tenantWritten d).tenantTold (d.f 16 0 16)).ack d Status.ok := by
  simp only [Engine.tenantSetDesc, hfull, hen, Bool.false_eq_true, if_false, beq_self_eq_true, if_true]
  simp only [Engine.tenantWritten, Engine.tenantTold, hen, beq_self_eq_true]

theorem Engine.tenantSetDesc_disables {e : Engine} {d : Staged} (hfull : e.eventsFull = false) (hen : d.f 18 0 1 ≠ 1) :
    Engine.tenantSetDesc d e =
      (((e.tenantWritten d).refuseTenant (d.f 16 0 16)).tenantTold (d.f 16 0 16)).ack d Status.ok := by
  have hne : (d.f 18 0 1 == 1) = false := by simpa using hen
  simp only [Engine.tenantSetDesc, hfull, hne, Bool.false_eq_true, if_false]
  simp only [Engine.tenantWritten, Engine.tenantTold, hne]

/-- Everything a TENANT_SET writes but the ends of held requests. -/
theorem Engine.tenantWritten_spec (e : Engine) (d : Staged) :
    (e.tenantWritten d).tenant (d.f 16 0 16) = ((e.refill (d.f 16 0 16)).tenant (d.f 16 0 16)).set (d.f 18 0 1 == 1) (d.f 20 0 32)
        (d.f 24 0 32) (d.f 28 0 18) (d.f 32 0 23) (d.f 36 0 13) e.us ∧
      (∀ j, j ≠ d.f 16 0 16 → (e.tenantWritten d).tenant j = e.tenant j) ∧
      Table.get? (e.tenantWritten d).pgm.salts (d.f 16 0 16) = some (BitVec.ofNat 64 (d.f 40 0 64)) ∧
      (e.tenantWritten d).rafter = e.rafter ∧ (e.tenantWritten d).adm.held = e.adm.held ∧ AcksAlike e (e.tenantWritten d) := by
  unfold Engine.tenantWritten
  extract_lets t enable salt old e1 e2 e3 pgm
  have h3 : PageWork e2 e3 := by
    dsimp only [e3]
    split
    · exact e2.purge_pageWork _
    · exact .refl e2
  have h2 : AcksAlike e e2 := .of_eq rfl rfl rfl rfl rfl
  have hother : ∀ j, j ≠ t → e2.tenant j = e.tenant j := fun j hj => by
    refine (Table.getD_put_ne _ _ _ hj).trans ?_
    simp only [Engine.tenant, Table.getD, e1, Engine.refill, Table.get?_modify, if_neg hj]
  have hten : ∀ j, e3.tenant j = e2.tenant j := fun j => by rw [Engine.tenant, Engine.tenant, h3.tenants_eq]
  have hself : e2.tenant t = (e1.tenant t).set enable (d.f 20 0 32) (d.f 24 0 32) (d.f 28 0 18) (d.f 32 0 23) (d.f 36 0 13) e1.us :=
    Table.getD_put_self _ _ _ _
  exact ⟨(hten t).trans hself, fun j hj => (hten j).trans (hother j hj), Table.get?_put_self _ _ _, h3.rafter_eq,
    h3.stores.held_eq, (h2.trans h3.stores.alike).trans (.of_eq rfl rfl rfl rfl rfl)⟩

theorem Engine.tenantTold_spec (e : Engine) (t : Nat) : (e.tenantTold t).rafter = e.rafter ∧
    (e.tenantTold t).adm.tenants = e.adm.tenants ∧ (e.tenantTold t).pgm = e.pgm ∧ AcksAlike e (e.tenantTold t) := by
  unfold Engine.tenantTold
  extract_lets e1
  have halike : AcksAlike e e1 := (e.wake_stores _).alike
  have h1 : e1.rafter = e.rafter ∧ e1.adm.tenants = e.adm.tenants ∧ e1.pgm = e.pgm := by
    obtain ⟨l, hl⟩ := e.wake_frame fun r => r.tenant == t
    dsimp only [e1]
    rw [hl]
    exact ⟨rfl, rfl, rfl⟩
  have hnoted := e1.jevent_noted 0x0A 0 t 0
  obtain ⟨n, l, hl⟩ := (e1.jevent 0x0A 0 t 0).mirrorEvent_frame Mirror.tenant (leBytes 2 t ++ leBytes 32 (e1.tenant t).image)
  rw [hl]
  generalize e1.jevent 0x0A 0 t 0 = e2 at hnoted
  have h2 : e2.rafter = e1.rafter ∧ e2.adm.tenants = e1.adm.tenants ∧ e2.pgm = e1.pgm := by
    rw [hnoted]
    exact ⟨rfl, rfl, rfl⟩
  obtain ⟨hr1, ht1, hp1⟩ := h1
  obtain ⟨hr2, ht2, hp2⟩ := h2
  exact ⟨hr2.trans hr1, ht2.trans ht1, hp2.trans hp1, (halike.trans hnoted.alike).trans (.of_eq rfl rfl rfl rfl rfl)⟩

/-! ### The held requests of a tenant disabled (R89) -/

/-- A refusal of whatever stands in a slot. -/
theorem Engine.refuse_leaves (e : Engine) (slot status : Nat) : (e.refuse slot status).req? slot = none ∧
    (∀ j, e.req? j = none → (e.refuse slot status).req? j = none) ∧
      ∀ t, ((e.refuse slot status).tenant t).enable = (e.tenant t).enable := by
  cases h : e.req? slot with
  | none =>
    have hsame : e.refuse slot status = e := by simp only [Engine.refuse, h]
    rw [hsame]
    exact ⟨h, fun _ hj => hj, fun _ => rfl⟩
  | some r =>
    obtain ⟨hleft, -⟩ := Engine.refuse_spec h status
    refine ⟨hleft.gone, fun j hj => ?_, hleft.enable⟩
    by_cases hjs : j = slot
    · exact hjs ▸ hleft.gone
    · exact (hleft.others j hjs).trans hj

theorem Engine.foldl_refuse (status : Nat) : ∀ (l : List Held) (e : Engine),
    (∀ h ∈ l, (l.foldl (fun e h => e.refuse h.slot status) e).req? h.slot = none) ∧
      (∀ j, e.req? j = none → (l.foldl (fun e h => e.refuse h.slot status) e).req? j = none) ∧
        ∀ t, ((l.foldl (fun e h => e.refuse h.slot status) e).tenant t).enable = (e.tenant t).enable
  | [], e => ⟨fun _ h => absurd h List.not_mem_nil, fun _ h => h, fun _ => rfl⟩
  | x :: l, e => by
    obtain ⟨hgone, hnone, hen⟩ := e.refuse_leaves x.slot status
    obtain ⟨ihgone, ihnone, ihen⟩ := Engine.foldl_refuse status l (e.refuse x.slot status)
    refine ⟨fun h hmem => ?_, fun j hj => ihnone j (hnone j hj), fun t => (ihen t).trans (hen t)⟩
    rcases List.mem_cons.1 hmem with rfl | hmem
    · exact ihnone _ hgone
    · exact ihgone h hmem

theorem Engine.refuseTenant_none {e : Engine} {t : Nat} (h : ∀ x ∈ e.adm.held, (e.req? x.slot).map (·.tenant) ≠ some t) :
    e.refuseTenant t = e := by
  have hnil : e.adm.held.filter (fun h => ((e.req? h.slot).map (·.tenant)) == some t) = [] := by
    rw [List.filter_eq_nil_iff]
    exact fun x hx => by simpa using h x hx
  rw [Engine.refuseTenant, hnil, List.foldl_nil]

/-- Every held request of the tenant ends, and no tenant's enable changes. -/
theorem Engine.refuseTenant_ends (e : Engine) (t : Nat) :
    (∀ h ∈ e.adm.held, (e.req? h.slot).map (·.tenant) = some t → (e.refuseTenant t).req? h.slot = none) ∧
      ∀ j, ((e.refuseTenant t).tenant j).enable = (e.tenant j).enable := by
  obtain ⟨hgone, -, henable⟩ := Engine.foldl_refuse Status.quota
    (e.adm.held.filter fun h => ((e.req? h.slot).map (·.tenant)) == some t) e
  exact ⟨fun h hmem hten => hgone h (List.mem_filter.2 ⟨hmem, beq_iff_eq.2 hten⟩), henable⟩

/-! ### The two clauses of O37 on TENANT_SET -/

section
variable {s : State} {i : BitVec 12} {d : Staged}

theorem tenantSet_writes (hs : s.receives Isl.sb) (hd : s.eng.decodes i.toNat d 0x20) (hfull : s.eng.eventsFull = false)
    (hopen : s.eng.ringOpen (s.eng.ackRingOf d))
    (hheld : d.f 18 0 1 = 1 ∨ (∀ h ∈ s.eng.adm.held, (s.eng.req? h.slot).map (·.tenant) ≠ some (d.f 16 0 16))) :
    ∃ t, exec (.tenantSet i) s = .next t ∧
      t.eng.tenant (d.f 16 0 16) = ((s.seen.refill (d.f 16 0 16)).tenant (d.f 16 0 16)).set (d.f 18 0 1 == 1) (d.f 20 0 32)
        (d.f 24 0 32) (d.f 28 0 18) (d.f 32 0 23) (d.f 36 0 13) (s.tb.count / 1000) ∧
      (∀ j, j ≠ d.f 16 0 16 → t.eng.tenant j = s.eng.tenant j) ∧
      Table.get? t.eng.pgm.salts (d.f 16 0 16) = some (BitVec.ofNat 64 (d.f 40 0 64)) ∧
      s.eng.acked t.eng d Status.ok 0 := by
  obtain ⟨hself, hothers, hsalt, hraf, hheld1, halike⟩ := s.seen.tenantWritten_spec d
  have hf : Engine.tenantSetDesc d s.seen = ((s.seen.tenantWritten d).tenantTold (d.f 16 0 16)).ack d Status.ok := by
    by_cases hen : d.f 18 0 1 = 1
    · exact Engine.tenantSetDesc_enables hfull hen
    · have hnone : ∀ x ∈ (s.seen.tenantWritten d).adm.held, ((s.seen.tenantWritten d).req? x.slot).map (·.tenant) ≠ some (d.f 16 0 16) := by
        rw [hheld1]
        intro x hx
        rw [Engine.req?, hraf]
        exact hheld.resolve_left hen x hx
      rw [Engine.tenantSetDesc_disables (e := s.seen) hfull hen, Engine.refuseTenant_none hnone]
  obtain ⟨-, hten, hpgm, htold⟩ := (s.seen.tenantWritten d).tenantTold_spec (d.f 16 0 16)
  obtain ⟨hack, honly⟩ := Engine.decode_acksAfter (e := s.seen) hd hopen hf (halike.trans htold)
  have htenant : ∀ j, (s.seen.decode i.toNat (fun d => d.opcode == 0x20) Engine.tenantSetDesc).tenant j =
      (s.seen.tenantWritten d).tenant j := fun j => by rw [Engine.tenant, Engine.tenant, honly.adm_eq, hten]
  refine ⟨_, exec_tenantSet hs i, (htenant _).trans hself, fun j hj => (htenant j).trans (hothers j hj), ?_, hack⟩
  dsimp only
  rw [honly.pgm_eq, hpgm]
  exact hsalt

theorem tenantSet_disables (hs : s.receives Isl.sb) (hd : s.eng.decodes i.toNat d 0x20) (hfull : s.eng.eventsFull = false)
    (hen : d.f 18 0 1 = 0) :
    ∃ t, exec (.tenantSet i) s = .next t ∧ (t.eng.tenant (d.f 16 0 16)).enable = false ∧ t.eng.staged? d.ring d.pos = none ∧
      (∀ h ∈ s.eng.adm.held, (s.eng.req? h.slot).map (·.tenant) = some (d.f 16 0 16) → t.eng.req? h.slot = none) := by
  have hne : d.f 18 0 1 ≠ 1 := by omega
  obtain ⟨hself, -, -, hraf, hheld, -⟩ := s.seen.tenantWritten_spec d
  have hf := Engine.tenantSetDesc_disables (e := s.seen) hfull hne
  obtain ⟨hgone, henable⟩ := (s.seen.tenantWritten d).refuseTenant_ends (d.f 16 0 16)
  generalize (s.seen.tenantWritten d).refuseTenant (d.f 16 0 16) = x at hf hgone henable
  obtain ⟨hraf1, hten, -, -⟩ := x.tenantTold_spec (d.f 16 0 16)
  obtain ⟨hnext, hop, hck⟩ := hd
  have hrun := Engine.decode_passed (e := s.seen) (isRow := fun d => d.opcode == 0x20) (f := Engine.tenantSetDesc) hnext
    (by simp [hop]) hck
  rw [hf] at hrun
  have hclose := ((x.tenantTold (d.f 16 0 16)).ack d Status.ok).finishClose_ackOnly i.toNat
  have honly := ((x.tenantTold (d.f 16 0 16)).ack_ackOnly d Status.ok).trans hclose
  refine ⟨_, exec_tenantSet hs i, ?_, ?_, fun h hmem hten => ?_⟩
  · dsimp only
    rw [hrun, Engine.tenant, honly.adm_eq, hten]
    refine (henable _).trans ?_
    rw [hself, hen]
    rfl
  · dsimp only
    rw [hrun]
    exact hclose.staged_none (Engine.ack_unstaged _ d Status.ok)
  · dsimp only
    rw [hrun, honly.req_eq, Engine.req?, hraf1]
    refine hgone h (by rw [hheld]; exact hmem) ?_
    rw [Engine.req?, hraf]
    exact hten

end

end Sys2Proof.Machine
end

section
/-!
# FAMILY_CONFIG

The read of a block, its checks, the load or the replacement that a good one starts, and the removal of a family (R123, R171, R172, R174).
-/

namespace Sys2Proof.Machine

theorem exec_familyConfig {s : State} (h : s.receives Isl.pg) (i : BitVec 12) : exec (.familyConfig i) s = .next { s with
    eng := s.seen.decode i.toNat (fun d => d.opcode == 0x13 && d.f 17 1 1 == 0) Engine.familyConfigDesc } :=
  State.cross_receives h _ _

theorem exec_familyConfigBlockReadDone {s : State} (h : s.receives Isl.pg) (i : BitVec 12) (slot : BitVec 16) (ok : Bool)
    (x : BitVec 2048) : exec (.familyConfigBlockReadDone i slot ok x) s =
      .next { s with eng := s.seen.blockReadDone i.toNat slot.toNat ok x } :=
  State.cross_receives h _ _

theorem exec_familyRemove {s : State} (h : s.receives Isl.pg) (i : BitVec 12) : exec (.familyRemove i) s = .next { s with
    eng := s.seen.decode i.toNat (fun d => d.opcode == 0x13 && d.f 17 1 1 == 1) Engine.familyRemoveDesc } :=
  State.cross_receives h _ _

/-! ### Families, fits and the committed prediction -/

@[simp] theorem Engine.family_putFamily_self (e : Engine) (i : Nat) (f : Family) : (e.putFamily i f).family i = f :=
  Table.getD_put_self _ _ _ _

theorem Engine.family_putFamily_ne (e : Engine) {i j : Nat} (f : Family) (h : j ≠ i) : (e.putFamily i f).family j = e.family j :=
  Table.getD_put_ne _ _ _ h

theorem Engine.family_congr {e e' : Engine} (h : e'.var.families = e.var.families) (i : Nat) : e'.family i = e.family i := by
  rw [Engine.family, Engine.family, h]

theorem Engine.fitOf_congr {e e' : Engine} (h : e'.ylm = e.ylm) (i : Nat) : e'.fitOf i = e.fitOf i := by
  rw [Engine.fitOf, Engine.fitOf, h]

/-- A grading takes the place of the fit before it and of what R129 has lowered it to. -/
theorem Engine.gradeFamily_fitOf (e : Engine) (i : Nat) : (e.gradeFamily i).fitOf i = (e.family i).grade e.halfWindow := by
  simp only [Engine.fitOf, Engine.gradeFamily, Table.getD, Table.get?_del_self, Table.get?_put_self, Option.getD_none, Option.getD_some]

/-- A grade is a matter of the block. -/
theorem Family.grade_congr {f g : Family} (h : f.block = g.block) (half : Nat) : f.grade half = g.grade half := by
  obtain ⟨_, _, _, _, _, _⟩ := f
  obtain ⟨_, _, _, _, _, _⟩ := g
  subst h
  rfl

theorem Engine.opsFamily_pageWork (e : Engine) (i : Nat) : PageWork e (e.opsFamily i) :=
  (e.ops_pageWork _).trans (.foldl (fun e _ => e.ops_pageWork _) _ _)

/-- OVERCOMMIT follows the prediction; a change is counted and logged. -/
theorem Engine.updateOvercommit_frame (e : Engine) : e.updateOvercommit = { e with
      adm := { e.adm with overcommit := e.updateOvercommit.adm.overcommit }, mem := e.updateOvercommit.mem, evr := e.updateOvercommit.evr
      cnt := e.updateOvercommit.cnt } ∧
    ∀ c, c ≠ Cnt.admOvercommit → c < 0x6000 ∨ 0x7000 ≤ c → e.updateOvercommit.count c = e.count c := by
  unfold Engine.updateOvercommit
  extract_lets above adm e1
  split
  · exact ⟨rfl, fun _ _ _ => rfl⟩
  · split
    · have hlog := (e1.bump Cnt.admOvercommit).log_only Ev.overcommit [sat32 (e1.predictShares e1.shares)]
      refine ⟨?_, fun c hc hl => (hlog.2.2 c hl).trans (Engine.count_bump_ne e1 hc)⟩
      rw [hlog.1]
      rfl
    · exact ⟨rfl, fun _ _ _ => rfl⟩

/-! ### The read of a block -/

section
variable {s : State} {i : BitVec 12} {d : Staged}

theorem familyConfig_reads (hs : s.receives Isl.pg) (hd : s.eng.decodes i.toNat d 0x13) (hset : d.f 17 1 1 = 0) :
    ∃ t, exec (.familyConfig i) s = .next t ∧ t.eng.out = .hostRead (BitVec.ofNat 64 (d.f 24 0 64)) 256 :: s.eng.out ∧
      t.eng.staged? d.ring d.pos = some { d with phase := .waiting, reads := .waiting, turn := s.eng.var.nextJob } ∧
      t.eng.var.families = s.eng.var.families := by
  obtain ⟨hnext, hop, hck⟩ := hd
  have hrun := Engine.decode_passed (e := s.seen) (isRow := fun d => d.opcode == 0x13 && d.f 17 1 1 == 0)
    (f := Engine.familyConfigDesc) hnext (by simp [hop, hset]) hck
  have hclose := ((Engine.familyConfigDesc d s.seen).finishClose_spec i.toNat).1
  refine ⟨_, exec_familyConfig hs i, ?_⟩
  dsimp only
  rw [hrun, hclose.staged?_eq, hclose.out_eq, show (Engine.finishClose _ _).var = _ from by rw [hclose.2]]
  exact ⟨rfl, Engine.staged?_restage (e := s.seen.takeJobTurn.2)
    (d := { d with phase := .waiting, reads := .waiting, turn := s.eng.var.nextJob })
    (Engine.nextDue_mem (e := s.seen) hnext).1 rfl rfl, rfl⟩

end

/-! ### The checks of a block (Table 7.4) -/

section
variable {e : Engine} {d : Staged} {i slot : Nat} {x : BitVec 2048}

/-- The family a FAMILY_CONFIG's block makes before it has granules. -/
def Staged.familyOf (d : Staged) (x : BitVec 2048) : Family := { Family.none with block := x, share := d.f 17 0 1 == 1 }

theorem Engine.blockReadDone_eq {ok : Bool} (h : e.reading? i slot = some d) (hop : d.opcode = 0x13) :
    e.blockReadDone i slot ok x = (if ok then e else e.log Ev.hostReadError [i, slot]).familyBlock d ok x := by
  simp only [Engine.blockReadDone, h, hop, if_true]

theorem Engine.familyBlock_malformed {ok : Bool} (h : ok = false ∨ e.blockOk (d.familyOf x) = false) :
    e.familyBlock d ok x = e.ack d Status.malformed := by
  have hbad : (!ok || !e.blockOk (d.familyOf x) || (e.leadsGroup && !(d.familyOf x).weightSrcT2)) = true := by
    rcases h with h | h <;> simp [h]
  exact if_pos hbad

/-- A block that passes the checks of its contents, of its place, its page and its grade. -/
structure Engine.blockGood (e : Engine) (f : Family) : Prop where
  ok : e.blockOk f = true
  source : e.leadsGroup = true → f.weightSrcT2 = true
  page : f.pageBytes ≤ 2097152
  layout : conforms f.kvHeads f.laneWidth = true
  fits : (f.grade e.halfWindow).grade ≠ 3

/-- A good block loads a family that is UNCONFIGURED, and replaces that of a CONFIGURED one of the same identity. -/
theorem Engine.familyBlock_good (h : e.blockGood (d.familyOf x)) :
    (∀ g, (e.family (d.f 16 0 8)).state = 0 →
      findRun e.weightRuns (e.get Fld.varWtSizeMib / 2) (chunksOf (d.familyOf x).weightBytes) = some g →
      e.familyBlock d true x = e.loadFamily d (d.f 16 0 8) g (d.familyOf x)) ∧
    ((e.family (d.f 16 0 8)).state = 2 → identityOf (e.family (d.f 16 0 8)).block = identityOf x →
      (e.family (d.f 16 0 8)).share = (d.familyOf x).share →
      e.familyBlock d true x = (e.reconfigure (d.f 16 0 8) (d.familyOf x)).ack d Status.ok) := by
  obtain ⟨hok, hsource, hpage, hlayout, hfits⟩ := h
  unfold Engine.familyBlock
  extract_lets j old share f0 f grade same
  have hlead : (e.leadsGroup && !f.weightSrcT2) = false := by
    rw [Bool.and_eq_false_imp]
    exact fun hl => by rw [show f.weightSrcT2 = true from hsource hl]; rfl
  have hpass : ¬ (!true || !e.blockOk f || (e.leadsGroup && !f.weightSrcT2)) = true := by
    rw [hlead, show e.blockOk f = true from hok]
    decide
  have hsmall : ¬ 2097152 < f.pageBytes := Nat.not_lt.2 hpage
  have hconforms : ¬ (!conforms f.kvHeads f.laneWidth) = true := by
    rw [show conforms f.kvHeads f.laneWidth = true from hlayout]
    decide
  have hgrade : ¬ grade = 3 := hfits
  refine ⟨fun g hst hrun => ?_, fun hst hid hshare => ?_⟩
  · have hplace : ¬ (decide (old.state ≠ 0) && !same) = true := by simp [show old.state = 0 from hst]
    have hnew : ¬ old.state = 2 := by
      rw [show old.state = 0 from hst]
      decide
    have hfound : findRun e.weightRuns (e.get Fld.varWtSizeMib / 2) (chunksOf f.weightBytes) = some g := hrun
    rw [if_neg hpass, if_neg hplace, if_neg hsmall, if_neg hconforms, if_neg hgrade, if_neg hnew, hfound]
    rfl
  · have hsame : same = true := by
      simp only [same, show old.share = share from hshare, show old.state = 2 from hst,
        show identityOf old.block = identityOf x from hid, beq_self_eq_true, decide_true, Bool.and_self]
    have hplace : ¬ (decide (old.state ≠ 0) && !same) = true := by simp [hsame]
    have hold : old.state = 2 := hst
    rw [if_neg hpass, if_neg hplace, if_neg hsmall, if_neg hconforms, if_neg hgrade, if_pos hold]
    rfl

end

end Sys2Proof.Machine
end

section
/-!
# FAMILY_CONFIG: what a block does

A block that fails its checks, one that starts a load or needs none, and one that replaces another (R123, R171, R172).
-/

namespace Sys2Proof.Machine

/-! ### Acknowledgements of a waiting descriptor -/

/-- A waiting descriptor is acknowledged at its place as it was decoded. -/
theorem AcksAlike.ackAt {e x : Engine} {d : Staged} (h : AcksAlike e x) (hopen : e.ringOpen (e.ackRingOf d)) {ph : StagePhase} {rd : ReadState}
    (hst : x.staged? d.ring d.pos = some { d with phase := ph, reads := rd }) (status : Nat) :
    e.acked (x.ackAt (some (d.ring, d.pos)) status) d status 0 := by
  simp only [Engine.ackAt, hst]
  exact h.ack (d := { d with phase := ph, reads := rd }) hopen status

/-- What was acknowledged stays so when versions are placed and evicted. -/
theorem Engine.acked.afterWork {e t t' : Engine} {d : Staged} {status qbytes : Nat} (h : e.acked t d status qbytes)
    (k : VersionWork t t') : e.acked t' d status qbytes := by
  obtain ⟨hwrote, hnone, hun⟩ := h
  have hhru := k.stores.hru_eq
  refine ⟨k.out.subset hwrote, ?_, ?_⟩
  · rw [Engine.staged?, hhru]
    exact hnone
  · rw [Engine.sub_congr hhru]
    exact hun

theorem VersionWork.staged?_eq {e e' : Engine} (h : VersionWork e e') (ring pos : Nat) : e'.staged? ring pos = e.staged? ring pos := by
  rw [Engine.staged?, h.stores.hru_eq, Engine.staged?]

theorem VersionWork.ylm_eq {e e' : Engine} (h : VersionWork e e') : e'.ylm = e.ylm := by rw [h.stores.1]

/-! ### The family and its fit after a grading (R123) -/

section
variable (e : Engine) (i : Nat) (f : Family)

/-- A family's record put, graded, and told to the replicas. -/
def Engine.installFamily : Engine := ((e.putFamily i f).gradeFamily i).opsFamily i

theorem Engine.installFamily_work : PageWork ((e.putFamily i f).gradeFamily i) (e.installFamily i f) := Engine.opsFamily_pageWork _ i

theorem Engine.installFamily_spec : (e.installFamily i f).family i = f ∧
    (∀ j, j ≠ i → (e.installFamily i f).family j = e.family j) ∧ (e.installFamily i f).fitOf i = f.grade e.halfWindow ∧
      (e.installFamily i f).hru = e.hru ∧ AcksAlike e (e.installFamily i f) := by
  have hwork := e.installFamily_work i f
  have hgraded : AcksAlike e ((e.putFamily i f).gradeFamily i) := .of_eq rfl rfl rfl rfl rfl
  have hfam : (e.installFamily i f).var.families = (e.putFamily i f).var.families := by rw [hwork.var_eq]; rfl
  refine ⟨?_, fun j hj => ?_, ?_, hwork.hru_eq, hgraded.trans hwork.stores.alike⟩
  · rw [Engine.family_congr hfam, Engine.family_putFamily_self]
  · rw [Engine.family_congr hfam, Engine.family_putFamily_ne _ _ hj]
  · rw [Engine.fitOf_congr hwork.ylm_eq, Engine.gradeFamily_fitOf, Engine.family_putFamily_self]
    rfl

end

/-! ### A load (R171) -/

section
variable {e : Engine} {d : Staged} {i : Nat}

/-- The record of a family as its load starts. -/
def Family.loading (f : Family) (d : Staged) (granule : Nat) : Family :=
  { f with state := 1, granule := granule, granules := chunksOf f.weightBytes, ack := some (d.ring, d.pos) }

/-- The engine with the descriptor of a load waiting. -/
def Engine.loadOpened (e : Engine) (d : Staged) (i granule : Nat) (f : Family) : Engine :=
  (e.installFamily i (f.loading d granule)).restage { d with phase := .waiting, reads := .none }

theorem Engine.loadFamily_eq (granule : Nat) (f : Family) : e.loadFamily d i granule f =
    if chunksOf f.weightBytes = 0 then (e.loadOpened d i granule f).jobDone (.family i false)
    else ((e.loadOpened d i granule f).addJobAt d.turn (.family i false) (chunksOf f.weightBytes)).nextLoadBurst := rfl

theorem Engine.loadOpened_staged (hmem : d ∈ e.hru.staging) (granule : Nat) (f : Family) :
    (e.loadOpened d i granule f).staged? d.ring d.pos = some { d with phase := .waiting, reads := .none } := by
  obtain ⟨-, -, -, hhru, -⟩ := e.installFamily_spec i (f.loading d granule)
  exact Engine.staged?_restage (d0 := d) (d := { d with phase := .waiting, reads := .none }) (by rw [hhru]; exact hmem) rfl rfl

theorem Engine.loadOpened_spec (granule : Nat) {f : Family} :
    (e.loadOpened d i granule f).family i = f.loading d granule ∧
    (∀ j, j ≠ i → (e.loadOpened d i granule f).family j = e.family j) ∧
    (e.loadOpened d i granule f).fitOf i = f.grade e.halfWindow := by
  obtain ⟨hself, hothers, hfit, -, -⟩ := e.installFamily_spec i (f.loading d granule)
  exact ⟨hself, hothers, hfit.trans (Family.grade_congr rfl _)⟩

/-- A family with bytes to copy is LOADING and its job queued. -/
theorem Engine.loadFamily_queues (hmem : d ∈ e.hru.staging) (granule : Nat) {f : Family} (hn : chunksOf f.weightBytes ≠ 0) :
    (e.loadFamily d i granule f).fitOf i = f.grade e.halfWindow ∧
    (∀ j, j ≠ i → (e.loadFamily d i granule f).family j = e.family j) ∧
    (e.loadFamily d i granule f).family i = f.loading d granule ∧
    (e.loadFamily d i granule f).staged? d.ring d.pos = some { d with phase := .waiting, reads := .none } ∧
    ∃ j ∈ (e.loadFamily d i granule f).var.jobs, j.id = d.turn ∧ j.what = .family i false ∧ j.total = chunksOf f.weightBytes := by
  obtain ⟨hself, hothers, hfit⟩ := Engine.loadOpened_spec (e := e) (d := d) (i := i) granule (f := f)
  have hstaged := Engine.loadOpened_staged (i := i) hmem granule f
  rw [Engine.loadFamily_eq, if_neg hn]
  generalize e.loadOpened d i granule f = x at hself hothers hfit hstaged
  have hburst := (x.addJobAt d.turn (.family i false) (chunksOf f.weightBytes)).nextLoadBurst_versionWork
  refine ⟨(Engine.fitOf_congr hburst.ylm_eq i).trans hfit, fun j hj => (Engine.family_congr hburst.families j).trans (hothers j hj),
    (Engine.family_congr hburst.families i).trans hself, (hburst.staged?_eq _ _).trans hstaged, ?_⟩
  obtain ⟨j, hj, hid, hwhat, htotal⟩ := hburst.jobs _ (List.mem_append_right _ List.mem_cons_self)
  exact ⟨j, hj, hid, hwhat, htotal⟩

/-- The engine once a family's load has ended, before its acknowledgement (R171). -/
def Engine.familyLoaded (e : Engine) (i : Nat) : Engine :=
  let e1 := e.putFamily i { e.family i with state := 2, ack := none }
  ({ e1 with adm := { e1.adm with predictors := Table.put e1.adm.predictors i (e.family i).predictor } }).bump Cnt.varLoad

theorem Engine.jobDone_family (e : Engine) (i : Nat) :
    e.jobDone (.family i false) = (e.familyLoaded i).ackAt (e.family i).ack Status.ok := rfl

/-- A family of no bytes is CONFIGURED at once. -/
theorem Engine.loadFamily_atOnce (hmem : d ∈ e.hru.staging) (hopen : e.ringOpen (e.ackRingOf d)) (granule : Nat) {f : Family}
    (hack : f.ack = none) (hgran : f.granules = 0) (hn : chunksOf f.weightBytes = 0) :
    (e.loadFamily d i granule f).fitOf i = f.grade e.halfWindow ∧
    (∀ j, j ≠ i → (e.loadFamily d i granule f).family j = e.family j) ∧
    (e.loadFamily d i granule f).family i = { f with state := 2, granule := granule } ∧
    e.acked (e.loadFamily d i granule f) d Status.ok 0 := by
  obtain ⟨hself, hothers, hfit⟩ := Engine.loadOpened_spec (e := e) (d := d) (i := i) granule (f := f)
  have hstaged := Engine.loadOpened_staged (i := i) hmem granule f
  have halike : AcksAlike e (e.loadOpened d i granule f) := by
    obtain ⟨-, -, -, -, h⟩ := e.installFamily_spec i (f.loading d granule)
    exact h.trans ⟨rfl, rfl, rfl, rfl, rfl, rfl, rfl⟩
  rw [Engine.loadFamily_eq, if_pos hn]
  generalize e.loadOpened d i granule f = x at hself hothers hfit hstaged halike
  have hx : AcksAlike e (x.familyLoaded i) := halike.trans (.of_eq rfl rfl rfl rfl rfl)
  rw [Engine.jobDone_family, hself, show (f.loading d granule).ack = some (d.ring, d.pos) from rfl]
  have hafter := (x.familyLoaded i).ackAt_ackOnly (some (d.ring, d.pos)) Status.ok
  have hfam : ∀ j, ((x.familyLoaded i).ackAt (some (d.ring, d.pos)) Status.ok).family j = (x.familyLoaded i).family j :=
    Engine.family_congr (congrArg _ hafter.var_eq)
  refine ⟨(Engine.fitOf_congr (e := x) ?_ i).trans hfit, fun j hj => ?_, ?_, hx.ackAt hopen hstaged Status.ok⟩
  · rw [hafter.frame]
    rfl
  · exact ((hfam j).trans (Engine.family_putFamily_ne x _ hj)).trans (hothers j hj)
  · refine ((hfam i).trans (Engine.family_putFamily_self x i _)).trans ?_
    rw [hself, Family.loading, hn, ← hack, ← hgran]

/-! ### A replacement (R172) -/

/-- A CONFIGURED family takes its new block, and κ and the grade follow it. -/
theorem Engine.reconfigure_spec (e : Engine) (i : Nat) (f : Family) :
    (e.reconfigure i f).family i = { e.family i with block := f.block } ∧
    (∀ j, j ≠ i → (e.reconfigure i f).family j = e.family j) ∧ (e.reconfigure i f).fitOf i = f.grade e.halfWindow ∧
    Table.get? (e.reconfigure i f).adm.predictors i = some f.predictor ∧ AcksAlike e (e.reconfigure i f) := by
  unfold Engine.reconfigure
  extract_lets f0 e1 adm e2
  have hops := (e2.gradeFamily i).opsFamily_pageWork i
  generalize (e2.gradeFamily i).opsFamily i = e3 at hops
  have halike := (e3.updateOvercommit_alike).trans (Engine.wakeAll_stores _).alike
  obtain ⟨hover, -⟩ := e3.updateOvercommit_frame
  obtain ⟨l, hwake⟩ : ∃ l, e3.updateOvercommit.wakeAll = { e3.updateOvercommit with adm := { e3.updateOvercommit.adm with due := l } } :=
    e3.updateOvercommit.wake_frame _
  generalize e3.updateOvercommit = e4 at hover hwake halike
  have hvar : e4.wakeAll.var = e1.var := by
    rw [hwake, hover]
    exact hops.var_eq
  have hylm : e4.wakeAll.ylm = (e2.gradeFamily i).ylm := by
    rw [hwake, hover]
    exact hops.ylm_eq
  have hpred : e4.wakeAll.adm.predictors = e2.adm.predictors := by
    rw [hwake, hover, hops.1]
    rfl
  have hfam : ∀ j, e4.wakeAll.family j = e1.family j := Engine.family_congr (congrArg _ hvar)
  refine ⟨(hfam i).trans (Engine.family_putFamily_self _ _ _), fun j hj => (hfam j).trans (Engine.family_putFamily_ne _ _ hj), ?_, ?_, ?_⟩
  · rw [Engine.fitOf_congr hylm, Engine.gradeFamily_fitOf, show e2.family i = _ from Engine.family_putFamily_self _ _ _]
    exact Family.grade_congr rfl _
  · rw [hpred]
    exact Table.get?_put_self _ _ _
  · have hgraded : AcksAlike e (e2.gradeFamily i) := .of_eq rfl rfl rfl rfl rfl
    exact (hgraded.trans hops.stores.alike).trans halike

end

/-! ### The clause of O37 on a block's return -/

section
variable {s : State} {i : BitVec 12} {slot : BitVec 16} {x : BitVec 2048} {d : Staged}

theorem exec_blockReturns (hs : s.receives Isl.pg) (hrd : s.eng.reading? i.toNat slot.toNat = some d) (hop : d.opcode = 0x13) (ok : Bool) :
    exec (.familyConfigBlockReadDone i slot ok x) s = .next { s with
      eng := (if ok then s.seen else s.seen.log Ev.hostReadError [i.toNat, slot.toNat]).familyBlock d ok x } := by
  rw [exec_familyConfigBlockReadDone hs, Engine.blockReadDone_eq (e := s.seen) hrd hop]

theorem familyBlock_fails {ok : Bool} (hs : s.receives Isl.pg) (hrd : s.eng.reading? i.toNat slot.toNat = some d) (hop : d.opcode = 0x13)
    (hopen : s.eng.ringOpen (s.eng.ackRingOf d)) (hbad : ok = false ∨ s.eng.blockOk (d.familyOf x) = false) :
    ∃ t, exec (.familyConfigBlockReadDone i slot ok x) s = .next t ∧ s.eng.acked t.eng d Status.malformed 0 ∧
      t.eng.var = s.eng.var ∧ t.eng.ylm = s.eng.ylm := by
  have hlog : LogOnly s.seen (if ok then s.seen else s.seen.log Ev.hostReadError [i.toNat, slot.toNat]) := by
    split
    · exact .refl _
    · exact Engine.log_only _ _ _
  have hbad' : ok = false ∨ (if ok then s.seen else s.seen.log Ev.hostReadError [i.toNat, slot.toNat]).blockOk (d.familyOf x) = false := by
    cases ok with
    | false => exact .inl rfl
    | true => exact .inr (hbad.resolve_left Bool.noConfusion)
  refine ⟨_, exec_blockReturns hs hrd hop ok, ?_⟩
  dsimp only
  rw [Engine.familyBlock_malformed hbad']
  generalize (if ok then s.seen else s.seen.log Ev.hostReadError [i.toNat, slot.toNat]) = y at hlog
  have honly := hlog.ackOnly.trans (y.ack_ackOnly d Status.malformed)
  refine ⟨hlog.promptCounted.alike.ack (e := s.seen) hopen _, honly.var_eq, ?_⟩
  rw [honly.frame]
  rfl

/-- A good block of an UNCONFIGURED family with room. -/
theorem familyBlock_loads (hs : s.receives Isl.pg) (hrd : s.eng.reading? i.toNat slot.toNat = some d) (hop : d.opcode = 0x13)
    (hopen : s.eng.ringOpen (s.eng.ackRingOf d)) (hgood : s.eng.blockGood (d.familyOf x)) {g : Nat}
    (hst : (s.eng.family (d.f 16 0 8)).state = 0)
    (hrun : findRun s.eng.weightRuns (s.eng.get Fld.varWtSizeMib / 2) (chunksOf (d.familyOf x).weightBytes) = some g) :
    ∃ t, exec (.familyConfigBlockReadDone i slot true x) s = .next t ∧
      t.eng.fitOf (d.f 16 0 8) = (d.familyOf x).grade s.eng.halfWindow ∧
      (∀ j, j ≠ d.f 16 0 8 → t.eng.family j = s.eng.family j) ∧
      (chunksOf (d.familyOf x).weightBytes ≠ 0 → t.eng.family (d.f 16 0 8) = (d.familyOf x).loading d g ∧
        t.eng.staged? d.ring d.pos = some { d with phase := .waiting, reads := .none } ∧
        (∃ j ∈ t.eng.var.jobs, j.id = d.turn ∧ j.what = .family (d.f 16 0 8) false ∧ j.total = chunksOf (d.familyOf x).weightBytes)) ∧
      (chunksOf (d.familyOf x).weightBytes = 0 → t.eng.family (d.f 16 0 8) = { d.familyOf x with state := 2, granule := g } ∧
        s.eng.acked t.eng d Status.ok 0) := by
  have hblock := (Engine.familyBlock_good (e := s.seen) (x := x) ⟨hgood.ok, hgood.source, hgood.page, hgood.layout, hgood.fits⟩).1 g hst hrun
  have hmem := (Engine.reading?_spec hrd).1
  refine ⟨_, exec_blockReturns hs hrd hop true, ?_⟩
  dsimp only
  rw [if_pos rfl, hblock]
  by_cases hn : chunksOf (d.familyOf x).weightBytes = 0
  · obtain ⟨hfit, hothers, hself, hack⟩ :=
      Engine.loadFamily_atOnce (e := s.seen) (i := d.f 16 0 8) hmem hopen g (f := d.familyOf x) rfl rfl hn
    exact ⟨hfit, hothers, fun h => absurd hn h, fun _ => ⟨hself, hack⟩⟩
  · obtain ⟨hfit, hothers, hself, hstaged, hjob⟩ :=
      Engine.loadFamily_queues (e := s.seen) (i := d.f 16 0 8) hmem g (f := d.familyOf x) hn
    exact ⟨hfit, hothers, fun _ => ⟨hself, hstaged, hjob⟩, fun h => absurd h hn⟩

/-- A good block of a CONFIGURED family of the same identity. -/
theorem familyBlock_replaces (hs : s.receives Isl.pg) (hrd : s.eng.reading? i.toNat slot.toNat = some d) (hop : d.opcode = 0x13)
    (hopen : s.eng.ringOpen (s.eng.ackRingOf d)) (hgood : s.eng.blockGood (d.familyOf x))
    (hst : (s.eng.family (d.f 16 0 8)).state = 2) (hid : identityOf (s.eng.family (d.f 16 0 8)).block = identityOf x)
    (hshare : (s.eng.family (d.f 16 0 8)).share = (d.familyOf x).share) :
    ∃ t, exec (.familyConfigBlockReadDone i slot true x) s = .next t ∧ s.eng.acked t.eng d Status.ok 0 ∧
      t.eng.family (d.f 16 0 8) = { s.eng.family (d.f 16 0 8) with block := x } ∧
      t.eng.fitOf (d.f 16 0 8) = (d.familyOf x).grade s.eng.halfWindow ∧
      Table.get? t.eng.adm.predictors (d.f 16 0 8) = some (d.familyOf x).predictor ∧
      (∀ j, j ≠ d.f 16 0 8 → t.eng.family j = s.eng.family j) := by
  have hblock := (Engine.familyBlock_good (e := s.seen) (x := x) ⟨hgood.ok, hgood.source, hgood.page, hgood.layout, hgood.fits⟩).2
    hst hid hshare
  obtain ⟨hself, hothers, hfit, hpred, halike⟩ := s.seen.reconfigure_spec (d.f 16 0 8) (d.familyOf x)
  refine ⟨_, exec_blockReturns hs hrd hop true, ?_⟩
  dsimp only
  rw [if_pos rfl, hblock]
  have honly := (s.seen.reconfigure (d.f 16 0 8) (d.familyOf x)).ack_ackOnly d Status.ok
  refine ⟨halike.ack (e := s.seen) hopen _, (Engine.family_congr (congrArg _ honly.var_eq) _).trans hself, (Engine.fitOf_congr ?_ _).trans hfit, ?_,
    fun j hj => (Engine.family_congr (congrArg _ honly.var_eq) _).trans (hothers j hj)⟩
  · rw [honly.frame]
  · rw [honly.adm_eq]
    exact hpred

end

end Sys2Proof.Machine
end

section
/-!
# FAMILY_CONFIG with REMOVE

A family that is used stays REMOVING; one that nothing holds is gone at once (R174).
-/

namespace Sys2Proof.Machine

section
variable {e : Engine} {i k : Nat} {r : Rafter}

/-- Every effect of a removal before its family is settled: the copies dropped, the record REMOVING, additions and prefixes retired. -/
def Engine.retireFamily (e : Engine) (f : Nat) (ack : Option (Nat × Nat)) : Engine :=
  let x := e.family f
  let jobs := e.var.jobs.filter fun j => match j.what with | .family g _ => g == f | _ => false
  let e : Engine := jobs.foldl (fun e j => e.dropJob j.id) e
  let e := e.putFamily f { x with state := 4, ack := ack }
  let adds := e.var.additions.filter fun y => y.2.family == f
  let e : Engine := adds.foldl (fun e y => e.retireVersions y.1 (y.2.records.map (·.version)) none) e
  let pfxs := e.var.prefixes.filter fun y => y.2.family == f && decide (y.2.state < 3)
  pfxs.foldl (fun e y => e.retirePrefix y.1 none) e

theorem Engine.removeFamily_eq (e : Engine) (f : Nat) (ack : Option (Nat × Nat)) :
    e.removeFamily f ack = (((e.retireFamily f ack).settleFamily f).nextLoadBurst).wake fun r => r.family == f := rfl

/-- The requests stay, and the family is REMOVING with the descriptor to acknowledge. -/
theorem Engine.retireFamily_spec (e : Engine) (f : Nat) (ack : Option (Nat × Nat)) : (e.retireFamily f ack).rafter = e.rafter ∧
    (e.retireFamily f ack).family f = { e.family f with state := 4, ack := ack } := by
  unfold Engine.retireFamily
  extract_lets x jobs e1 e2 adds e3 pfxs
  have h1 : Settles e e1 := .foldl (fun e j => e.dropJob_settles _) _ e
  have h3 : Settles e2 e3 := .foldl (fun e y => e.retireVersions_settles _ _ _) _ e2
  have h4 : Settles e2 (pfxs.foldl (fun e y => e.retirePrefix y.1 none) e3) :=
    h3.trans (.foldl (fun e y => e.retirePrefix_settles _ _) _ e3)
  exact ⟨h4.rafter.trans h1.rafter, (Engine.family_congr h4.families f).trans (Engine.family_putFamily_self _ _ _)⟩

/-- A live request holds its family. -/
theorem Engine.settleFamily_live (hmem : (k, r) ∈ e.rafter) (hfam : r.family = i) (hfree : r.state ≠ .free)
    (hadm : r.state ≠ .admitting) : e.settleFamily i = e := by
  have hlive : (e.rafter.any fun y => y.2.family == i && y.2.state != .free && y.2.state != .admitting) = true :=
    List.any_eq_true.2 ⟨(k, r), hmem, by simp [hfam, hfree, hadm]⟩
  unfold Engine.settleFamily
  extract_lets x live held
  exact if_pos (by rw [show live = true from hlive]; simp)

theorem Engine.removeFamily_live (ack : Option (Nat × Nat)) (hmem : (k, r) ∈ e.rafter) (hfam : r.family = i) (hfree : r.state ≠ .free)
    (hadm : r.state ≠ .admitting) : ((e.removeFamily i ack).family i).state = 4 := by
  obtain ⟨hraf, hself⟩ := e.retireFamily_spec i ack
  rw [Engine.removeFamily_eq, Engine.settleFamily_live (by rw [hraf]; exact hmem) hfam hfree hadm]
  have hwork := (e.retireFamily i ack).nextLoadBurst_versionWork.trans (Engine.wake_versionWork _ fun r => r.family == i)
  rw [Engine.family_congr hwork.families, hself]

/-! ### A family that nothing holds -/

/-- Nothing is of the family, and nothing is copied. -/
structure Engine.unheld (e : Engine) (i : Nat) : Prop where
  requests : ∀ x ∈ e.rafter, x.2.family ≠ i
  slots : ∀ x ∈ e.var.slots, x.2.family ≠ i
  prefixes : ∀ x ∈ e.var.prefixes, x.2.family ≠ i
  additions : ∀ x ∈ e.var.additions, x.2.family ≠ i
  jobs : e.var.jobs = []

theorem Engine.retireFamily_unheld (h : e.unheld i) (ack : Option (Nat × Nat)) :
    e.retireFamily i ack = e.putFamily i { e.family i with state := 4, ack := ack } := by
  have hadds : e.var.additions.filter (fun y => y.2.family == i) = [] :=
    List.filter_eq_nil_iff.2 fun x hx => by simpa using h.additions x hx
  have hpfxs : e.var.prefixes.filter (fun y => y.2.family == i && decide (y.2.state < 3)) = [] :=
    List.filter_eq_nil_iff.2 fun x hx => by simp [h.prefixes x hx]
  unfold Engine.retireFamily
  extract_lets x jobs e1 e2 adds e3 pfxs
  have h1 : e1 = e := by
    dsimp only [e1, jobs]
    rw [h.jobs, List.filter_nil, List.foldl_nil]
  have h2 : e2 = e.putFamily i { e.family i with state := 4, ack := ack } := by
    dsimp only [e2]
    rw [h1]
  have h3 : e3 = e2 := by
    dsimp only [e3, adds]
    rw [h2, show (e.putFamily i _).var.additions = e.var.additions from rfl, hadds, List.foldl_nil]
  have hnone : pfxs = [] := by
    dsimp only [pfxs]
    rw [h3, h2]
    exact hpfxs
  rw [hnone, List.foldl_nil, h3, h2]

/-- The engine with an UNCONFIGURED family's pages, record and fit gone, and the replicas told. -/
def Engine.forgetFamily (e : Engine) (f : Nat) : Engine :=
  let e := e.purge fun p => p.family == f
  let e : Engine := { e with var := { e.var with families := Table.del e.var.families f },
                             ylm := { e.ylm with fits := Table.del e.ylm.fits f, lowered := Table.del e.ylm.lowered f } }
  e.ops (0x08 + place f 8 8 + place 1 16 1)

theorem Engine.forgetFamily_spec (e : Engine) (f : Nat) : (e.forgetFamily f).family f = Family.none ∧
    (e.forgetFamily f).hru = e.hru ∧ AcksAlike e (e.forgetFamily f) := by
  unfold Engine.forgetFamily
  extract_lets e1 var ylm e2
  have h1 : PageWork e e1 := e.purge_pageWork _
  have h2 : PageWork e2 (e2.ops (0x08 + place f 8 8 + place 1 16 1)) := e2.ops_pageWork _
  have hmid : AcksAlike e1 e2 := .of_eq rfl rfl rfl rfl rfl
  refine ⟨?_, h2.hru_eq.trans h1.hru_eq, (h1.stores.alike.trans hmid).trans h2.stores.alike⟩
  rw [Engine.family_congr (congrArg _ h2.var_eq)]
  simp only [Engine.family, e2, Table.getD, Table.get?_del_self, Option.getD_none]

theorem Engine.settleFamily_unheld (h : e.unheld i) (hst : (e.family i).state = 4) (at_ : Nat × Nat)
    (hack : (e.family i).ack = some at_) : e.settleFamily i = (e.forgetFamily i).ackAt (some at_) Status.ok := by
  unfold Engine.settleFamily
  extract_lets x live held e1 var ylm e2 e3
  have hlive : live = false := by
    rw [← Bool.not_eq_true, List.any_eq_true]
    rintro ⟨y, hy, hit⟩
    have := h.requests y hy
    simp [this] at hit
  have hheld : held = false := by
    have hslots : e.var.slots.any (fun y => y.2.family == i) = false :=
      List.any_eq_false.2 fun y hy => by simpa using h.slots y hy
    have hpfxs : e.var.prefixes.any (fun y => y.2.family == i) = false :=
      List.any_eq_false.2 fun y hy => by simpa using h.prefixes y hy
    have hadds : e.var.additions.any (fun y => y.2.family == i && !y.2.records.isEmpty) = false :=
      List.any_eq_false.2 fun y hy => by simp [h.additions y hy]
    simp only [held, hslots, hpfxs, hadds, Bool.or_self]
  have hx : x.ack = some at_ := hack
  rw [if_neg (by simp [hlive, hheld, show x.state = 4 from hst]), if_neg (by simp [hx]), hx]
  rfl

theorem Engine.removeFamily_unheld {d : Staged} (h : e.unheld i) (hopen : e.ringOpen (e.ackRingOf d))
    (hst : e.staged? d.ring d.pos = some { d with phase := .waiting }) :
    e.acked (e.removeFamily i (some (d.ring, d.pos))) d Status.ok 0 ∧
      (e.removeFamily i (some (d.ring, d.pos))).family i = Family.none := by
  rw [Engine.removeFamily_eq, Engine.retireFamily_unheld h]
  have halike : AcksAlike e (e.putFamily i { e.family i with state := 4, ack := some (d.ring, d.pos) }) := .of_eq rfl rfl rfl rfl rfl
  have hst1 : (e.putFamily i { e.family i with state := 4, ack := some (d.ring, d.pos) }).staged? d.ring d.pos =
      some { d with phase := .waiting } := hst
  have hself := e.family_putFamily_self i { e.family i with state := 4, ack := some (d.ring, d.pos) }
  have hun : (e.putFamily i { e.family i with state := 4, ack := some (d.ring, d.pos) }).unheld i :=
    ⟨h.requests, h.slots, h.prefixes, h.additions, h.jobs⟩
  generalize e.putFamily i { e.family i with state := 4, ack := some (d.ring, d.pos) } = x at halike hst1 hself hun
  rw [Engine.settleFamily_unheld hun (by rw [hself]) (d.ring, d.pos) (by rw [hself])]
  obtain ⟨hnone, hhru, halike2⟩ := x.forgetFamily_spec i
  have hst2 : (x.forgetFamily i).staged? d.ring d.pos = some { d with phase := .waiting, reads := d.reads } := by
    rw [Engine.staged?, hhru]
    exact hst1
  have hack := (halike.trans halike2).ackAt hopen hst2 Status.ok
  have hfam := ((x.forgetFamily i).ackAt_ackOnly (some (d.ring, d.pos)) Status.ok).var_eq
  generalize (x.forgetFamily i).ackAt (some (d.ring, d.pos)) Status.ok = y at hack hfam
  have hwork := y.nextLoadBurst_versionWork.trans (Engine.wake_versionWork _ fun r => r.family == i)
  refine ⟨hack.afterWork hwork, ?_⟩
  rw [Engine.family_congr hwork.families, Engine.family_congr (congrArg _ hfam), hnone]

end

/-! ### The clauses of O37 on a removal -/

section
variable {s : State} {i : BitVec 12} {d : Staged}

/-- The engine in which a removal is decoded, its descriptor waiting. -/
def State.removing (s : State) (d : Staged) : Engine := s.seen.restage { d with phase := .waiting }

theorem exec_familyRemoves (hs : s.receives Isl.pg) (hd : s.eng.decodes i.toNat d 0x13) (hrem : d.f 17 1 1 = 1)
    (hserv : (s.eng.family (d.f 16 0 8)).servable = true) : exec (.familyRemove i) s = .next { s with
      eng := ((s.removing d).removeFamily (d.f 16 0 8) (some (d.ring, d.pos))).finishClose i.toNat } := by
  obtain ⟨hnext, hop, hck⟩ := hd
  have hserv' : (s.seen.family (d.f 16 0 8)).servable = true := hserv
  rw [exec_familyRemove hs, Engine.decode_passed (e := s.seen) (isRow := fun d => d.opcode == 0x13 && d.f 17 1 1 == 1)
    (f := Engine.familyRemoveDesc) hnext (by simp [hop, hrem]) hck]
  simp only [Engine.familyRemoveDesc, hserv', if_true]
  rfl

/-- It acknowledges, and holds what it holds, as the engine before it. -/
theorem State.removing_spec (hnext : s.eng.nextDue i.toNat = some d) :
    (s.removing d).staged? d.ring d.pos = some { d with phase := .waiting } ∧ AcksAlike s.eng (s.removing d) ∧
      (s.removing d).rafter = s.eng.rafter ∧ (s.removing d).var = s.eng.var :=
  ⟨Engine.staged?_restage (e := s.seen) (d0 := d) (d := { d with phase := .waiting }) (Engine.nextDue_mem hnext).1 rfl rfl,
    ⟨rfl, rfl, rfl, rfl, rfl, rfl, rfl⟩, rfl, rfl⟩

/-- A removed family is REMOVING while a live request uses it. -/
theorem familyRemove_waits (hs : s.receives Isl.pg) (hd : s.eng.decodes i.toNat d 0x13) (hrem : d.f 17 1 1 = 1)
    (hserv : (s.eng.family (d.f 16 0 8)).servable = true) {k : Nat} {r : Rafter} (hmem : (k, r) ∈ s.eng.rafter)
    (hfam : r.family = d.f 16 0 8) (hfree : r.state ≠ .free) (hadm : r.state ≠ .admitting) :
    ∃ t, exec (.familyRemove i) s = .next t ∧ (t.eng.family (d.f 16 0 8)).state = 4 := by
  have hlive := Engine.removeFamily_live (e := s.removing d) (some (d.ring, d.pos)) hmem hfam hfree hadm
  refine ⟨_, exec_familyRemoves hs hd hrem hserv, ?_⟩
  dsimp only
  rw [Engine.family_congr (congrArg _ (Engine.finishClose_ackOnly _ _).var_eq)]
  exact hlive

/-- The family is gone and the descriptor acknowledged where nothing holds the family. -/
theorem State.removing_unheld (hnext : s.eng.nextDue i.toNat = some d) (hun : s.eng.unheld (d.f 16 0 8))
    (hopen : s.eng.ringOpen (s.eng.ackRingOf d)) :
    s.eng.acked (((s.removing d).removeFamily (d.f 16 0 8) (some (d.ring, d.pos))).finishClose i.toNat) d Status.ok 0 ∧
      (((s.removing d).removeFamily (d.f 16 0 8) (some (d.ring, d.pos))).finishClose i.toNat).family (d.f 16 0 8) = Family.none := by
  obtain ⟨hst, halike, hraf, hvar⟩ := State.removing_spec hnext
  generalize s.removing d = x at hst halike hraf hvar
  have hun' : x.unheld (d.f 16 0 8) := by
    obtain ⟨hreq, hslots, hpfxs, hadds, hjobs⟩ := hun
    rw [← hraf] at hreq
    rw [← hvar] at hslots hpfxs hadds hjobs
    exact ⟨hreq, hslots, hpfxs, hadds, hjobs⟩
  obtain ⟨hack, hnone⟩ := Engine.removeFamily_unheld hun' (halike.ackRingOpen hopen) hst
  generalize x.removeFamily (d.f 16 0 8) (some (d.ring, d.pos)) = y at hack hnone
  have hclose := y.finishClose_ackOnly i.toNat
  exact ⟨halike.acked (hack.after hclose), (Engine.family_congr (congrArg _ hclose.var_eq) _).trans hnone⟩

/-- A removed family that nothing holds is UNCONFIGURED at once. -/
theorem familyRemove_atOnce (hs : s.receives Isl.pg) (hd : s.eng.decodes i.toNat d 0x13) (hrem : d.f 17 1 1 = 1)
    (hserv : (s.eng.family (d.f 16 0 8)).servable = true) (hun : s.eng.unheld (d.f 16 0 8))
    (hopen : s.eng.ringOpen (s.eng.ackRingOf d)) :
    ∃ t, exec (.familyRemove i) s = .next t ∧ s.eng.acked t.eng d Status.ok 0 ∧ t.eng.family (d.f 16 0 8) = Family.none := by
  have hgone := State.removing_unheld hd.1 hun hopen
  have hrun := exec_familyRemoves hs hd hrem hserv
  generalize ((s.removing d).removeFamily (d.f 16 0 8) (some (d.ring, d.pos))).finishClose i.toNat = y at hgone hrun
  exact ⟨_, hrun, hgone⟩

end

/-- Settles O37: each descriptor by what its row does, a block by its checks in order, a removal by what still holds its family. -/
theorem tenantsAndFamilies : Obligations.TenantsAndFamilies := by
  unfold Obligations.TenantsAndFamilies
  refine ⟨fun s i d hs hd hfull hopen hheld => tenantSet_writes hs hd hfull hopen hheld,
    fun s i d hs hd hfull _ hen => tenantSet_disables hs hd hfull hen, fun s i d hs hd hset => familyConfig_reads hs hd hset, ?_, ?_⟩
  · rintro s i slot ok x d f hs hrd hop hopen rfl
    refine ⟨familyBlock_fails hs hrd hop hopen, ?_⟩
    rintro rfl hok hsource hpage hlayout hfits
    have hgood : s.eng.blockGood (d.familyOf x) := ⟨hok, hsource, hpage, hlayout, hfits⟩
    exact ⟨fun g hst hrun => familyBlock_loads hs hrd hop hopen hgood hst hrun,
      fun hst hid hshare => familyBlock_replaces hs hrd hop hopen hgood hst hid hshare⟩
  · intro s i d hs hd hrem hserv
    exact ⟨fun k r hmem hfam hfree hadm => familyRemove_waits hs hd hrem hserv hmem hfam hfree hadm,
      fun hreq hslots hpfxs hadds hjobs hopen => familyRemove_atOnce hs hd hrem hserv ⟨hreq, hslots, hpfxs, hadds, hjobs⟩ hopen⟩

end Sys2Proof.Machine
end

section
/-!
# An admitted request

A request that has been QUEUED stays so while its list, its stores and its bindings are built, and nothing else that an admission counts
moves (R87, R141, R199).
-/

namespace Sys2Proof.Machine

/-- A slot's request is QUEUED, admitted at a step, with a handle. -/
def Engine.queuedAs (e : Engine) (slot step : Nat) (h : Handle) : Prop :=
  ∃ r, e.req? slot = some r ∧ r.state = .queued ∧ r.admitStep = step ∧ r.handle = h

/-- e' is e with more built for a QUEUED request of a slot: it stays QUEUED, and rings, tenants, step and the count of admissions stay. -/
structure Builds (slot : Nat) (e e' : Engine) : Prop where
  queued : ∀ n h, e.queuedAs slot n h → e'.queuedAs slot n h
  hru : e'.hru = e.hru
  tenants : e'.adm.tenants = e.adm.tenants
  stepNo : e'.stepNo = e.stepNo
  admitted : e'.count Cnt.admAdmitted = e.count Cnt.admAdmitted

section
variable {a b c e e' : Engine} {slot : Nat}

theorem Builds.refl (slot : Nat) (e : Engine) : Builds slot e e := ⟨fun _ _ h => h, rfl, rfl, rfl, rfl⟩

theorem Builds.trans (h : Builds slot a b) (k : Builds slot b c) : Builds slot a c :=
  ⟨fun n x hx => k.queued n x (h.queued n x hx), k.hru.trans h.hru, k.tenants.trans h.tenants, k.stepNo.trans h.stepNo,
    k.admitted.trans h.admitted⟩

theorem Builds.foldl {α : Type} {f : Engine → α → Engine} (hf : ∀ e x, Builds slot e (f e x)) :
    ∀ (l : List α) (e : Engine), Builds slot e (l.foldl f e)
  | [], e => .refl slot e
  | x :: l, e => (hf e x).trans (Builds.foldl hf l (f e x))

/-- Where the requests stay. -/
theorem Builds.of_eq (hr : e'.rafter = e.rafter) (hh : e'.hru = e.hru) (ht : e'.adm.tenants = e.adm.tenants) (hs : e'.stepNo = e.stepNo)
    (hc : e'.count Cnt.admAdmitted = e.count Cnt.admAdmitted) : Builds slot e e' where
  queued n h hq := by
    rw [Engine.queuedAs, Engine.req?, hr]
    exact hq
  hru := hh
  tenants := ht
  stepNo := hs
  admitted := hc

theorem PageWork.builds (h : PageWork e e') (slot : Nat) : Builds slot e e' :=
  .of_eq h.rafter_eq h.hru_eq h.tenants_eq (by rw [h.1]) (h.2 _ (by decide))

/-- The request of the slot with its place in line as it was. -/
theorem Builds.putReq {r x : Rafter} (h : e.req? slot = some r) (hst : x.state = r.state) (hstep : x.admitStep = r.admitStep)
    (hh : x.handle = r.handle) : Builds slot e (e.putReq slot x) where
  queued n y hq := by
    obtain ⟨r', hr', hst', hstep', hh'⟩ := hq
    obtain rfl := Option.some.inj (h.symm.trans hr')
    exact ⟨x, Engine.req?_putReq_self _ _ _, hst.trans hst', hstep.trans hstep', hh.trans hh'⟩
  hru := rfl
  tenants := rfl
  stepNo := rfl
  admitted := rfl

/-- A request that is not QUEUED is not the slot's. -/
theorem Builds.putReq_other {k : Nat} {r : Rafter} (h : e.req? k = some r) (hst : r.state ≠ .queued) (x : Rafter) :
    Builds slot e (e.putReq k x) where
  queued n y hq := by
    obtain ⟨r', hr', hst', hline⟩ := hq
    have hne : slot ≠ k := by
      rintro rfl
      obtain rfl := Option.some.inj (h.symm.trans hr')
      exact hst hst'
    exact ⟨r', (e.req?_putReq_ne _ hne).trans hr', hst', hline⟩
  hru := rfl
  tenants := rfl
  stepNo := rfl
  admitted := rfl

/-! ### Events -/

theorem Engine.jevent_cnt (e : Engine) (kind status who detail : Nat) : (e.jevent kind status who detail).cnt = e.cnt := by
  unfold Engine.jevent
  extract_lets x e1 full
  have h1 : e1.cnt = e.cnt := by
    obtain ⟨n, l, hl⟩ := e.mirrorEvent_frame kind x.bytes
    dsimp only [e1]
    rw [hl]
  split <;> exact h1

theorem Engine.jevent_builds (e : Engine) (slot kind status who detail : Nat) : Builds slot e (e.jevent kind status who detail) := by
  have hnoted := e.jevent_noted kind status who detail
  exact .of_eq hnoted.rafter_eq hnoted.hru_eq (by rw [hnoted]) (by rw [hnoted]) (Engine.count_congr (e.jevent_cnt _ _ _ _) _)

theorem Engine.mirrorEvent_builds (e : Engine) (slot kind : Nat) (payload : List Byte) : Builds slot e (e.mirrorEvent kind payload) := by
  obtain ⟨n, l, hl⟩ := e.mirrorEvent_frame kind payload
  rw [hl]
  exact .of_eq rfl rfl rfl rfl rfl

end

/-! ### The page list (R141, R159, R160, R184) -/

section
variable {e e' : Engine} {slot : Nat}

theorem Engine.appendEntry_builds {x : Page} {p : Nat} (h : e.appendEntry slot x = some (p, e')) : Builds slot e e' := by
  unfold Engine.appendEntry at h
  split at h
  · next r q f hr htake =>
    extract_lets used pgm e1 e2 at h
    have h2 : PageWork e e2 := by
      have h1 : PageWork e e1 := .of_eq rfl rfl
      dsimp only [e2]
      split
      · exact h1
      · exact h1.trans (e1.modPage_pageWork _ _)
    split at h
    next v e3 h3 =>
    extract_lets e4 at h
    obtain ⟨-, rfl⟩ := Prod.mk.inj (Option.some.inj h)
    have h3' : PageWork e2 e3 := by
      have := e2.undefLink_pageWork
      rwa [h3] at this
    have h4 : PageWork e3 e4 := by
      refine .trans ?_ (Engine.putPage_pageWork _ _ _)
      split
      · exact .refl e3
      · exact e3.ops_pageWork _
    have hwork := (h2.trans h3').trans h4
    have hreq : e4.req? slot = some r := by
      rw [Engine.req?, hwork.rafter_eq]
      exact hr
    exact (hwork.builds slot).trans (.putReq hreq rfl rfl rfl)
  · cases h

theorem Engine.appendAlias_builds (e : Engine) (slot p : Nat) : Builds slot e (e.appendAlias slot p) := by
  unfold Engine.appendAlias
  split
  · exact .refl slot e
  · next e1 h1 => exact (Engine.appendEntry_builds h1).trans ((e1.takeHolder_pageWork p).builds slot)

theorem Engine.importOne_builds (e : Engine) (slot family : Nat) : Builds slot e (e.importOne slot family) := by
  unfold Engine.importOne
  split
  · exact .refl slot e
  · next e1 h1 => exact (Engine.appendEntry_builds h1).trans ((e1.want_pageWork _).builds slot)

theorem Engine.importPages_builds (slot family : Nat) : ∀ (n : Nat) (e : Engine), Builds slot e (Engine.importPages n slot family e)
  | 0, e => .refl slot e
  | n + 1, e => (e.importOne_builds slot family).trans (Engine.importPages_builds slot family n _)

theorem Engine.bindFor_builds {cls t k : Nat} (h : e.bindFor slot cls = some (t, k, e')) : Builds slot e e' := by
  obtain ⟨⟨t1, k1, e1⟩, hbind, hx⟩ := Option.map_eq_some_iff.1 h
  have h1 := (Engine.bindFrame_pageWork hbind).builds slot
  dsimp only at hx
  split at hx
  · cases hx
    exact h1
  · next r hr =>
    cases hx
    have h2 : Builds slot e1 (e1.unreserve cls 0 (min 1 r.reserved)) := .of_eq rfl rfl rfl rfl rfl
    have hr2 : (e1.unreserve cls 0 (min 1 r.reserved)).req? slot = some r := hr
    exact (h1.trans h2).trans (.putReq hr2 rfl rfl rfl)

theorem Engine.copyTail_builds (e : Engine) (slot source family : Nat) : Builds slot e (e.copyTail slot source family) := by
  unfold Engine.copyTail
  split
  · exact .refl slot e
  · next t k e1 h1 =>
    split
    · exact Engine.bindFor_builds h1
    · next p e2 h2 =>
      exact ((Engine.bindFor_builds h1).trans (Engine.appendEntry_builds h2)).trans ((e2.want_pageWork _).builds slot)

theorem Engine.matchPrefix_builds (e : Engine) (slot : Nat) : Builds slot e (e.matchPrefix slot) := by
  unfold Engine.matchPrefix
  split
  · exact .refl slot e
  · split
    · exact .refl slot e
    · extract_lets ps e1
      have h1 : Builds slot e e1 := .foldl (fun e p => (e.appendAlias_builds slot p).trans
        ((PageWork.bump _ (by decide)).builds slot)) ps e
      refine h1.trans ⟨fun n h hq => ?_, rfl, rfl, rfl, rfl⟩
      obtain ⟨r, hr, hst, hstep, hh⟩ := hq
      refine ⟨{ r with matched := ps.length, lookupOpen := true }, ?_, hst, hstep, hh⟩
      rw [Engine.req?, Engine.modReq, Table.get?_modify, if_pos rfl, show Table.get? e1.rafter slot = some r from hr]
      rfl

/-- A parked request that is SPILLED is not the one that is QUEUED. -/
theorem Engine.checkSpilled_builds (e : Engine) (slot k : Nat) : Builds slot e (e.checkSpilled k) := by
  unfold Engine.checkSpilled
  split
  · exact .refl slot e
  · next r hr =>
    split
    · next hparked =>
      have hpark : r.state = .parked := by simpa using (Bool.and_eq_true_iff.1 hparked).1
      split
      · exact .of_eq rfl rfl rfl rfl (Engine.count_bump_ne _ (by decide))
      · have hput : Builds slot e (e.putReq k { r with state := .spilled }) := .putReq_other hr (by rw [hpark]; decide) _
        exact hput.trans (Engine.jevent_builds _ _ _ _ _ _)
    · exact .refl slot e

theorem Engine.startList_builds (e : Engine) (slot : Nat) (r : Rafter) : Builds slot e (e.startList slot r) := by
  unfold Engine.startList
  extract_lets pages e1 e2
  have h1 : Builds slot e e1 := .foldl (fun e p => e.appendAlias_builds slot p) _ e
  have h2 : Builds slot e e2 := (h1.trans (e1.matchPrefix_builds slot)).trans (.foldl (fun e k => e.checkSpilled_builds slot k) _ _)
  split
  · exact h1.trans (Engine.importPages_builds slot r.family _ _)
  · split
    · split
      · exact h2.trans (e2.copyTail_builds _ _ _)
      · exact h2
    · exact h2

/-! ### The stores (R199, R208) -/

theorem PromptCounted.builds (h : PromptCounted e e') (hc : e'.count Cnt.admAdmitted = e.count Cnt.admAdmitted) (slot : Nat) :
    Builds slot e e' where
  queued n x hq := by
    obtain ⟨r, hr, hst, hstep, hh⟩ := hq
    obtain ⟨c, b, hr'⟩ := h.2 slot r hr
    exact ⟨_, hr', hst, hstep, hh⟩
  hru := by rw [h.1]
  tenants := by rw [h.1]
  stepNo := by rw [h.1]
  admitted := hc

theorem Engine.noteIf_cnt (e : Engine) (own : Bool) (u : UndoEntry) : (e.noteIf own u).cnt = e.cnt := by
  cases own <;> rfl

theorem Engine.linkCell_cnt (e : Engine) (own : Bool) (slot c : Nat) : (e.linkCell own slot c).cnt = e.cnt := by
  unfold Engine.linkCell
  split
  · exact e.noteIf_cnt _ _
  · split
    · rfl
    · unfold Engine.modAny
      split <;> exact e.noteIf_cnt _ _

/-- A count of a token is no admission. -/
theorem Engine.addCount_admitted (e : Engine) (own : Bool) (slot vocab token : Nat) :
    (e.addCount own slot vocab token).count Cnt.admAdmitted = e.count Cnt.admAdmitted := by
  unfold Engine.addCount
  extract_lets l home chain
  split
  · exact Engine.count_congr (e.noteIf_cnt _ _) _
  · split
    · exact Engine.count_congr (e.noteIf_cnt _ _) _
    · split
      · exact Engine.count_congr (e.noteIf_cnt _ _) _
      · split
        · exact Engine.count_congr (e.noteIf_cnt _ _) _
        · split
          · unfold Engine.countLost
            exact ((Engine.log_only _ _ _).2.2 _ (by decide)).trans (Engine.count_bump_ne _ (by decide))
          · next c free _ =>
            refine Engine.count_congr ?_ _
            refine (Engine.noteIf_cnt _ own (.cell c [])).trans ?_
            exact (Engine.linkCell_cnt _ own slot c).trans (Engine.noteIf_cnt _ own (.cellTaken c))

theorem Engine.opsInput_pageWork (handle flags : Nat) : ∀ (n position : Nat) (ts : List Nat) (e : Engine),
    PageWork e (Engine.opsInput handle flags n position ts e)
  | 0, _, _, e => .refl e
  | n + 1, position, ts, e => by
    unfold Engine.opsInput
    split
    · exact .refl e
    · exact (e.ops_pageWork _).trans (Engine.opsInput_pageWork handle flags n _ _ _)

theorem Engine.opsOpen_pageWork (e : Engine) (r : Rafter) (bias : List (Nat × BitVec 32)) : PageWork e (e.opsOpen r bias) :=
  ((e.ops_pageWork _).trans (.foldl (fun e _ => e.ops_pageWork _) _ _)).trans (.foldl (fun e _ => e.ops_pageWork _) _ _)

theorem Engine.emptyGuesses_builds (e : Engine) (slot k : Nat) : Builds slot e (e.emptyGuesses false k) := .of_eq rfl rfl rfl rfl rfl

theorem Engine.countPromptOf_builds (e : Engine) (slot : Nat) (r : Rafter) (tokens : List Nat) :
    Builds slot e (e.countPromptOf slot r tokens) := by
  unfold Engine.countPromptOf
  split
  · exact ((Engine.opsInput_pageWork _ _ _ _ _ _).builds slot).trans
      (.foldl (fun e t => (e.addCount_promptCounted _ _ _ _).builds (e.addCount_admitted _ _ _ _) slot) _ _)
  · exact .refl slot _

theorem Engine.openStores_builds (e : Engine) (slot : Nat) (r : Rafter) : Builds slot e (e.openStores slot r) := by
  unfold Engine.openStores
  extract_lets bias e1 smp e2
  have h1 : Builds slot e e1 := (e.opsOpen_pageWork r bias).builds slot
  have h2 : Builds slot e1 e2 := .of_eq rfl rfl rfl rfl rfl
  exact ((h1.trans h2).trans (e2.emptyGuesses_builds slot slot)).trans (Engine.countPromptOf_builds _ _ _ _)

/-! ### The load and the bindings (R105, R179, R184) -/

theorem Engine.commitShare_builds (e : Engine) (k slot : Nat) (r : Rafter) : Builds slot e (e.commitShare k r) := by
  unfold Engine.commitShare
  split
  · obtain ⟨hframe, hcount⟩ := ({ e with adm := { e.adm with shares := Table.put e.adm.shares k (e.shareOf r) } } : Engine).updateOvercommit_frame
    refine .of_eq ?_ ?_ ?_ ?_ (hcount _ (by decide) (by decide))
    all_goals rw [hframe]
  · exact .refl slot e

theorem Engine.modRecord_builds (e : Engine) (slot a v : Nat) (f : VersionRec → VersionRec) : Builds slot e (e.modRecord a v f) := by
  unfold Engine.modRecord
  split
  · exact .refl slot e
  · exact .of_eq rfl rfl rfl rfl rfl

theorem Engine.bindVariants_builds (e : Engine) (slot : Nat) (r : Rafter) : Builds slot e (e.bindVariants r) := by
  unfold Engine.bindVariants
  extract_lets e1
  have h1 : Builds slot e e1 := by
    dsimp only [e1]
    split
    · exact e.modRecord_builds slot _ _ _
    · exact .refl slot e
  split
  · extract_lets e2
    have h2 : Builds slot e1 e2 := .of_eq rfl rfl rfl rfl rfl
    exact (h1.trans h2).trans (.foldl (fun e p => (e.raisePage_pageWork _ _ p).builds slot) _ _)
  · exact h1

theorem Engine.setSplice_builds (e : Engine) (slot cls : Nat) (l : List Nat) : Builds slot e (e.setSplice cls l) := by
  unfold Engine.setSplice
  split <;> exact .of_eq rfl rfl rfl rfl rfl

theorem Engine.pend_builds (e : Engine) (slot k : Nat) : Builds slot e (e.pend k) := by
  unfold Engine.pend
  split
  · exact .refl slot e
  · exact e.setSplice_builds slot _ _

end

end Sys2Proof.Machine
end

section
/-!
# An admission decision

What a pass of a SUBMIT through the conditions of Table 4.2 comes to: refused, held, or admitted (R84 to R88).
-/

namespace Sys2Proof.Machine

/-! ### Where a decision starts (R84, R93) -/

/-- The engine a decision on a request starts from. -/
def Engine.deciding (e : Engine) (slot : Nat) (r : Rafter) : Engine :=
  { e.refill r.tenant with adm := { (e.refill r.tenant).adm with candidates := e.adm.candidates.filter (· != slot) } }

/-- A refill is no admission. -/
theorem Engine.refill_live (e : Engine) (t j : Nat) : ((e.refill t).tenant j).live = (e.tenant j).live :=
  Table.getD_modify_congr (f := fun x : Tenant => x.refill e.us) (g := Tenant.live)
    (fun x => by unfold Tenant.refill; split <;> rfl) e.adm.tenants t j Tenant.zero

section
variable {e e' : Engine} {slot : Nat} {r : Rafter} {v : Verdict}

theorem Engine.deciding_candidates (e : Engine) (slot : Nat) (r : Rafter) : slot ∉ (e.deciding slot r).adm.candidates := by
  simp [Engine.deciding]

/-- The three outcomes of a pass with room for its event. -/
theorem Engine.decideSubmit_eq (h : e.req? slot = some r) (hfull : e.eventsFull = false) : e.decideSubmit slot =
    match (e.deciding slot r).refusal r with
    | some v => (e.deciding slot r).refuse slot v.status
    | none => match (e.deciding slot r).holdTest slot r with
      | (some v, e) => e.hold slot v.condition
      | (none, e) => match e.req? slot with
        | none => e
        | some r => e.admitSlot slot r := by
  simp only [Engine.decideSubmit, h, hfull, Bool.false_eq_true, if_false]
  rfl

/-! ### Refused (R63, R87) -/

theorem Engine.decides_refused (h : e.req? slot = some r) (hfull : e.eventsFull = false)
    (hv : (e.deciding slot r).refusal r = some v) : (e.decideSubmit slot).req? slot = none ∧
      (e.decideSubmit slot).staged? r.ackRing r.ackPos = none ∧ (e.decideSubmit slot).slots.freed = e.slots.freed ++ [slot] ∧
      (e.decideSubmit slot).gens = e.gens ∧ slot ∉ (e.decideSubmit slot).adm.candidates ∧
      ∀ j, j ≠ slot → (e.decideSubmit slot).req? j = e.req? j := by
  have hreq : (e.deciding slot r).req? slot = some r := h
  rw [Engine.decideSubmit_eq h hfull, hv]
  dsimp only
  obtain ⟨hleft, hstaged⟩ := Engine.refuse_spec hreq v.status
  refine ⟨hleft.gone, hstaged, ?_, hleft.gens, ?_, hleft.others⟩
  · rw [Engine.refuse_slots (by rw [hreq]; exact Option.some_ne_none r)]
    rfl
  · rw [hleft.candidates]
    simp

/-! ### Held (R87, R88, R165) -/

/-- A reservation is granted from the page manager's stores, and the request keeps it. -/
theorem Engine.reserveFor_granted (h : e.req? slot = some r) (hres : e.reserveFor slot r = some e') :
    e'.hru = e.hru ∧ e'.adm.tenants = e.adm.tenants ∧ e'.adm.candidates = e.adm.candidates ∧ e'.stepNo = e.stepNo ∧ e'.cnt = e.cnt ∧
      ∃ n m, e'.req? slot = some { r with entriesRes := n, reserved := m } := by
  unfold Engine.reserveFor Engine.reservePages at hres
  split at hres
  · obtain rfl := Option.some.inj hres
    exact ⟨rfl, rfl, rfl, rfl, rfl, r.entriesRes, r.reserved, h⟩
  · obtain ⟨x, hx, rfl⟩ := Option.map_eq_some_iff.1 hres
    split at hx
    · extract_lets p y at hx
      obtain rfl := Option.some.inj hx
      rw [Engine.wakeAll]
      generalize hz : Engine.putReq _ slot _ = z
      obtain ⟨l, hl⟩ := z.wake_frame fun _ => true
      rw [hl]
      subst hz
      exact ⟨rfl, rfl, rfl, rfl, rfl, _, _, Engine.req?_putReq_self _ _ _⟩
    · cases hx

/-- A hold at 9 to 18 keeps the reservation granted on the way, and asks for a version's reload; none leaves the reservation alone. -/
theorem Engine.holdTest_cases (e : Engine) (slot : Nat) (r : Rafter) :
    (∃ v x, e.holdTest slot r = (some v, x) ∧ ∃ y, (y = e ∨ e.reserveFor slot r = some y) ∧ Stores y x) ∨
      ∃ x, e.holdTest slot r = (none, x) ∧ e.reserveFor slot r = some x := by
  have hearly : ∀ v, (∃ v' x, ((some v, e) : Option Verdict × Engine) = (some v', x) ∧
      ∃ y, (y = e ∨ e.reserveFor slot r = some y) ∧ Stores y x) := fun v => ⟨v, e, rfl, e, .inl rfl, .refl e⟩
  unfold Engine.holdTest
  extract_lets t hold
  split
  · exact .inl (hearly _)
  · split
    · exact .inl (hearly _)
    · split
      · exact .inl (hearly _)
      · split
        · exact .inl (hearly _)
        · split
          · exact .inl (hearly _)
          · split
            · exact .inl (hearly _)
            · next x hx =>
              split
              · exact .inl ⟨_, _, rfl, x, .inr hx, x.wantReload_stores _ _ _⟩
              · split
                · exact .inl ⟨_, _, rfl, x, .inr hx, .refl x⟩
                · split
                  · exact .inl ⟨_, _, rfl, x, .inr hx, .refl x⟩
                  · split
                    · exact .inl ⟨_, _, rfl, x, .inr hx, .refl x⟩
                    · exact .inr ⟨x, rfl, hx⟩

theorem Engine.holdTest_some (h : e.req? slot = some r) (ht : e.holdTest slot r = (some v, e')) :
    e'.hru = e.hru ∧ e'.adm.candidates = e.adm.candidates ∧ (e'.req? slot).isSome = true := by
  obtain ⟨v', x, hx, y, hy, hstores⟩ | ⟨x, hx, -⟩ := e.holdTest_cases slot r
  · obtain ⟨-, rfl⟩ := Prod.mk.inj (ht.symm.trans hx)
    obtain ⟨hhru, hcand, hsome⟩ : y.hru = e.hru ∧ y.adm.candidates = e.adm.candidates ∧ (y.req? slot).isSome = true := by
      obtain rfl | hy := hy
      · exact ⟨rfl, rfl, by rw [h]; rfl⟩
      · obtain ⟨hhru, -, hcand, -, -, n, m, hreq⟩ := Engine.reserveFor_granted h hy
        exact ⟨hhru, hcand, by rw [hreq]; rfl⟩
    refine ⟨hstores.hru_eq.trans hhru, Eq.trans (by rw [hstores.1]) hcand, ?_⟩
    rw [Engine.req?, hstores.rafter_eq]
    exact hsome
  · exact absurd (Prod.mk.inj (ht.symm.trans hx)).1 (Option.some_ne_none v)

theorem Engine.holdTest_none (ht : e.holdTest slot r = (none, e')) : e.reserveFor slot r = some e' := by
  obtain ⟨v', x, hx, -⟩ | ⟨x, hx, hres⟩ := e.holdTest_cases slot r
  · exact absurd (Prod.mk.inj (hx.symm.trans ht)).1 (Option.some_ne_none v')
  · obtain ⟨-, rfl⟩ := Prod.mk.inj (ht.symm.trans hx)
    exact hres

theorem mem_insertBy_self {α : Type} (before : α → α → Bool) (x : α) : ∀ l : List α, x ∈ insertBy before x l
  | [] => List.mem_cons_self
  | y :: l => by
    unfold insertBy
    split
    · exact List.mem_cons_self
    · exact List.mem_cons_of_mem _ (mem_insertBy_self before x l)

/-- A hold enters the request among the held at the condition. -/
theorem Engine.hold_spec (e : Engine) (slot condition : Nat) :
    (∃ h ∈ (e.hold slot condition).adm.held, h.slot = slot ∧ h.condition = condition) ∧
      (e.hold slot condition).rafter = e.rafter ∧ (e.hold slot condition).hru = e.hru ∧
      (e.hold slot condition).adm.candidates = e.adm.candidates := by
  refine ⟨⟨{ slot := slot, condition := condition }, ?_, rfl, rfl⟩, rfl, rfl, rfl⟩
  unfold Engine.hold
  extract_lets h arrival held
  show h ∈ held
  dsimp only [held]
  split
  · next hany =>
    obtain ⟨x, hx, hslot⟩ := List.any_eq_true.1 hany
    exact List.mem_map.2 ⟨x, hx, if_pos hslot⟩
  · exact mem_insertBy_self _ h _

theorem Engine.decides_held (h : e.req? slot = some r) (hfull : e.eventsFull = false)
    (hpass : (e.deciding slot r).refusal r = none) (ht : (e.deciding slot r).holdTest slot r = (some v, e')) :
    (∃ h ∈ (e.decideSubmit slot).adm.held, h.slot = slot ∧ h.condition = v.condition) ∧
      ((e.decideSubmit slot).req? slot).isSome = true ∧ slot ∉ (e.decideSubmit slot).adm.candidates ∧
      (e.decideSubmit slot).hru = e.hru := by
  have hreq : (e.deciding slot r).req? slot = some r := h
  obtain ⟨hhru, hcand, hsome⟩ := Engine.holdTest_some hreq ht
  rw [Engine.decideSubmit_eq h hfull, hpass, ht]
  dsimp only
  obtain ⟨hheld, hraf, hhru', hcand'⟩ := e'.hold_spec slot v.condition
  refine ⟨hheld, ?_, ?_, hhru'.trans hhru⟩
  · rw [Engine.req?, hraf]
    exact hsome
  · rw [hcand', hcand]
    exact e.deciding_candidates slot r

/-! ### Admitted (R87, R105) -/

/-- The engine with an admitted request QUEUED, counted against its tenant and its event ring. -/
def Engine.entered (e : Engine) (slot : Nat) (r : Rafter) : Engine :=
  let e := (e.commitShare slot r).bindVariants r
  let t := (e.tenant r.tenant).charge r.promptTokens
  let e := e.putTenant r.tenant { t with live := t.live + 1, pheld := t.pheld + r.pagesP }
  let ring := e.evt r.eventRing
  let e := e.putEvt r.eventRing { ring with bound := ring.bound + 1 }
  e.putReq slot { r with state := .queued, admitStep := e.stepNo, pagesCharged := r.pagesP }

/-- The engine with an admitted request's list and stores built, on its pending list. -/
def Engine.built (e : Engine) (slot : Nat) (r : Rafter) : Engine :=
  let e : Engine := { e with adm := { e.adm with held := e.adm.held.filter fun h => h.slot != slot } }
  let e := e.wake fun x => x.tenant == r.tenant
  ((e.startList slot r).openStores slot r).pend slot

/-- The engine with an admission told. -/
def Engine.admissionTold (e : Engine) (slot : Nat) (r : Rafter) : Engine :=
  let e := e.jevent 0x01 0 r.handle.toNat (((e.req? slot).map (·.matched)).getD 0)
  match e.req? slot with | some x => e.mirrorEvent Mirror.rafter (leBytes 256 x.image) | none => e

theorem Engine.admitSlot_eq (e : Engine) (slot : Nat) (r : Rafter) : e.admitSlot slot r =
    match ((((e.entered slot r).built slot r).bump Cnt.admAdmitted).admissionTold slot r).staged? r.ackRing r.ackPos with
    | none => (((e.entered slot r).built slot r).bump Cnt.admAdmitted).admissionTold slot r
    | some d => ((((e.entered slot r).built slot r).bump Cnt.admAdmitted).admissionTold slot r).ackWith d r.handle.toNat Status.ok 0 := rfl

theorem Tenant.charge_live (t : Tenant) (n : Nat) : (t.charge n).live = t.live := by
  unfold Tenant.charge
  split <;> rfl

theorem Engine.entered_spec (e : Engine) (slot : Nat) (r : Rafter) : (e.entered slot r).queuedAs slot e.stepNo r.handle ∧
    ((e.entered slot r).tenant r.tenant).live = (e.tenant r.tenant).live + 1 ∧
    ((e.entered slot r).evt r.eventRing).bound = (e.evt r.eventRing).bound + 1 ∧
    (e.entered slot r).count Cnt.admAdmitted = e.count Cnt.admAdmitted := by
  have h1 := (e.commitShare_builds slot slot r).trans (Engine.bindVariants_builds _ slot r)
  unfold Engine.entered
  generalize (e.commitShare slot r).bindVariants r = x at h1
  extract_lets e0 t e1 ring e2
  refine ⟨⟨_, Engine.req?_putReq_self _ _ _, rfl, h1.stepNo, rfl⟩, ?_, ?_, h1.admitted⟩
  · have hten : (e1.tenant r.tenant).live = (x.tenant r.tenant).live + 1 := by
      rw [Engine.tenant, show e1.adm.tenants = Table.put x.adm.tenants r.tenant { t with live := t.live + 1, pheld := t.pheld + r.pagesP }
        from rfl, Table.getD_put_self]
      exact congrArg (· + 1) (Tenant.charge_live _ _)
    refine Eq.trans hten (congrArg (· + 1) ?_)
    rw [Engine.tenant, h1.tenants]
    rfl
  · have hring : (e2.evt r.eventRing).bound = (x.evt r.eventRing).bound + 1 :=
      congrArg EvtRing.bound (Engine.evt_putEvt_self e1 r.eventRing { ring with bound := ring.bound + 1 })
    refine Eq.trans hring (congrArg (· + 1) ?_)
    rw [Engine.evt, h1.hru]
    rfl

theorem Engine.built_builds (e : Engine) (slot : Nat) (r : Rafter) : Builds slot e (e.built slot r) := by
  unfold Engine.built
  extract_lets adm e1 e2
  have h1 : Builds slot e e1 := .of_eq rfl rfl rfl rfl rfl
  have h2 : Builds slot e1 e2 := (e1.wake_pageWork _).builds slot
  exact (((h1.trans h2).trans (e2.startList_builds slot r)).trans (Engine.openStores_builds _ slot r)).trans
    (Engine.pend_builds _ slot slot)

theorem Engine.admissionTold_builds (e : Engine) (slot : Nat) (r : Rafter) : Builds slot e (e.admissionTold slot r) := by
  unfold Engine.admissionTold
  extract_lets e1
  have h1 : Builds slot e e1 := e.jevent_builds _ _ _ _ _
  split
  · exact h1.trans (e1.mirrorEvent_builds _ _ _)
  · exact h1

/-- Everything an admission shows of the request, its tenant and its event ring. -/
theorem Engine.admitSlot_spec (e : Engine) (slot : Nat) (r : Rafter) : (e.admitSlot slot r).queuedAs slot e.stepNo r.handle ∧
    (e.admitSlot slot r).staged? r.ackRing r.ackPos = none ∧
    ((e.admitSlot slot r).tenant r.tenant).live = (e.tenant r.tenant).live + 1 ∧
    ((e.admitSlot slot r).evt r.eventRing).bound = (e.evt r.eventRing).bound + 1 ∧
    (e.admitSlot slot r).count Cnt.admAdmitted = e.count Cnt.admAdmitted + 1#32 := by
  obtain ⟨hqueued, hlive, hbound, hcount⟩ := e.entered_spec slot r
  have hbuilt := (e.entered slot r).built_builds slot r
  have htold := (((e.entered slot r).built slot r).bump Cnt.admAdmitted).admissionTold_builds slot r
  have hcounted : (((e.entered slot r).built slot r).bump Cnt.admAdmitted).count Cnt.admAdmitted = e.count Cnt.admAdmitted + 1#32 := by
    rw [Engine.count_bump_self, hbuilt.admitted, hcount]
  rw [Engine.admitSlot_eq]
  generalize (((e.entered slot r).built slot r).bump Cnt.admAdmitted).admissionTold slot r = x at htold
  have hq : x.queuedAs slot e.stepNo r.handle := htold.queued _ _ (hbuilt.queued _ _ hqueued)
  have ht : (x.tenant r.tenant).live = (e.tenant r.tenant).live + 1 := by
    rw [← hlive, Engine.tenant, Engine.tenant, htold.tenants]
    exact congrArg (fun T => (Table.getD T r.tenant Tenant.zero).live) hbuilt.tenants
  have hb : (x.evt r.eventRing).bound = (e.evt r.eventRing).bound + 1 := by
    rw [← hbound, Engine.evt, Engine.evt, htold.hru]
    exact congrArg (fun H => (Table.getD H.evts r.eventRing EvtRing.off).bound) hbuilt.hru
  have hc := htold.admitted.trans hcounted
  split
  · next hnone => exact ⟨hq, hnone, ht, hb, hc⟩
  · next d hd =>
    have hack := x.ackWith_ackOnly d r.handle.toNat Status.ok 0
    have hkeeps : KeepsSlots x (x.ackWith d r.handle.toNat Status.ok 0) :=
      ((x.ackOne_keeps _ _ _ _).trans (Engine.settleFailed_keeps _ _ _)).trans (Engine.finishClose_keeps _ _)
    have hplace : d.ring = r.ackRing ∧ d.pos = r.ackPos := by simpa using List.find?_some hd
    obtain ⟨hring, hpos⟩ := hplace
    obtain ⟨-, -, -, hevts, -⟩ := hkeeps
    refine ⟨?_, ?_, ?_, (hevts _).trans hb, (hack.count _ (by decide) (by decide)).trans hc⟩
    · rw [Engine.queuedAs, hack.req_eq]
      exact hq
    · rw [← hring, ← hpos]
      exact (x.ackWith_unstaged d _ _ _).1
    · rw [Engine.tenant, hack.adm_eq]
      exact ht

theorem Engine.decides_admitted (h : e.req? slot = some r) (hfull : e.eventsFull = false)
    (hpass : (e.deciding slot r).refusal r = none) (ht : (e.deciding slot r).holdTest slot r = (none, e')) :
    (e.decideSubmit slot).queuedAs slot e.stepNo r.handle ∧ (e.decideSubmit slot).staged? r.ackRing r.ackPos = none ∧
      ((e.decideSubmit slot).tenant r.tenant).live = (e.tenant r.tenant).live + 1 ∧
      ((e.decideSubmit slot).evt r.eventRing).bound = (e.evt r.eventRing).bound + 1 ∧
      (e.decideSubmit slot).count Cnt.admAdmitted = e.count Cnt.admAdmitted + 1#32 := by
  have hreq : (e.deciding slot r).req? slot = some r := h
  obtain ⟨hhru, hten, -, hstep, hcnt, n, m, hreq'⟩ := Engine.reserveFor_granted hreq (Engine.holdTest_none ht)
  rw [Engine.decideSubmit_eq h hfull, hpass, ht]
  dsimp only
  rw [hreq']
  dsimp only
  obtain ⟨hq, hstaged, hlive, hbound, hcount⟩ := e'.admitSlot_spec slot { r with entriesRes := n, reserved := m }
  refine ⟨?_, hstaged, hlive.trans (congrArg (· + 1) ?_), hbound.trans (congrArg (· + 1) ?_), hcount.trans (congrArg (· + 1#32) ?_)⟩
  · rw [hstep] at hq
    exact hq
  · rw [Engine.tenant, hten]
    exact e.refill_live r.tenant r.tenant
  · rw [Engine.evt, hhru]
    rfl
  · exact Engine.count_congr hcnt _

end

end Sys2Proof.Machine
end

section
/-!
# The commands of admission

The decision, the retry, the limit of a hold, the sweep of the buckets and ADM_CTL.OPEN (R84, R88, R89, R93, R107, R383).
-/

namespace Sys2Proof.Machine

section
variable {s u : State} {k : BitVec 18} {r : Rafter}

theorem exec_admissionDecision (h : s.serves Isl.sb) (k : BitVec 18) :
    exec (.admissionDecision k) s = .next { s with eng := s.seen.decideHead k.toNat } :=
  State.actIn_serves h fun e => e.decideHead k.toNat

theorem exec_admissionRetry (h : s.serves Isl.sb) (k : BitVec 18) :
    exec (.admissionRetry k) s = .next { s with eng := s.seen.retryHeld k.toNat } :=
  State.actIn_serves h fun e => e.retryHeld k.toNat

theorem exec_holdLimitExpiry (h : s.serves Isl.sb) (k : BitVec 18) :
    exec (.holdLimitExpiry k) s = .next { s with eng := s.seen.holdExpired k.toNat } :=
  State.actIn_serves h fun e => e.holdExpired k.toNat

theorem exec_bucketSweep (h : s.serves Isl.sb) (k : BitVec 16) : exec (.bucketSweep k) s =
    .next { s with eng := if (s.seen.tenant k.toNat).enable then s.seen.refill k.toNat else s.seen } := State.actIn_serves h _

theorem exec_admissionOpen (h : s.receives Isl.sb) : exec .admissionOpen s = .next { s with eng := s.seen.openAdmission } :=
  State.cross_receives h _ _

theorem exec_admissionClose (h : s.receives Isl.sb) : exec .admissionClose s = .next { s with eng := s.seen.setOpen 0 } :=
  State.cross_receives h _ _

/-! ### A decision and a retry (R84, R88) -/

/-- The three outcomes of a pass that starts where the state u is seen, told of a state s that differs from u in what is due a retry. -/
theorem decision_outcomes {c : Instr} (hrun : exec c s = .next { s with eng := u.seen.decideSubmit k.toNat })
    (hreq : u.eng.req? k.toNat = some r) (hfull : u.eng.eventsFull = false)
    (hu : ∃ l, u = { s with eng := { s.eng with adm := { s.eng.adm with due := l } } }) :
    (∀ v, (u.deciding k.toNat r).refusal r = some v → ∃ t, exec c s = .next t ∧ s.turnedDown t.eng k.toNat r) ∧
    (∀ v e', (u.deciding k.toNat r).refusal r = none → (u.deciding k.toNat r).holdTest k.toNat r = (some v, e') →
      ∃ t, exec c s = .next t ∧ s.heldAt t.eng k.toNat v.condition) ∧
    (∀ e', (u.deciding k.toNat r).refusal r = none → (u.deciding k.toNat r).holdTest k.toNat r = (none, e') →
      ∃ t, exec c s = .next t ∧ s.admitted t.eng k.toNat r) := by
  obtain ⟨l, hu⟩ := hu
  refine ⟨fun v hv => ⟨_, hrun, ?_⟩, fun v e' hpass ht => ⟨_, hrun, ?_⟩, fun e' hpass ht => ⟨_, hrun, ?_⟩⟩
  · have hout := Engine.decides_refused (e := u.seen) hreq hfull hv
    subst hu
    exact hout
  · have hout := Engine.decides_held (e := u.seen) hreq hfull hpass ht
    subst hu
    exact hout
  · have hout := Engine.decides_admitted (e := u.seen) hreq hfull hpass ht
    subst hu
    exact hout

theorem Engine.decideHead_head {e : Engine} {slot : Nat} (h : e.adm.candidates.head? = some slot) :
    e.decideHead slot = e.decideSubmit slot := if_pos h

/-- A held request that is next is tried again, and is due no more. -/
theorem Engine.retryHeld_held {e : Engine} {slot : Nat} (h : e.retries.head? = some slot)
    (hheld : (e.adm.held.any fun x => x.slot == slot) = true) (hfull : e.eventsFull = false) :
    e.retryHeld slot = (e.notDue slot).decideSubmit slot := by
  simp only [Engine.retryHeld, h, hheld, hfull, ne_eq, not_true_eq_false, if_true, if_false, Bool.false_eq_true]

/-- A resumed request that is next, with its load admitted, is committed and put on its pending list (R107). -/
theorem Engine.retryHeld_resumed {e : Engine} {slot : Nat} (h : e.retries.head? = some slot)
    (hheld : (e.adm.held.any fun x => x.slot == slot) = false) (hreq : e.req? slot = some r) (hre : r.reAdmit = true)
    (hst : r.state = .queued) (hroom : e.roomCommitted r = true) (hfit : e.feasible slot r = true) :
    e.retryHeld slot = ((((e.notDue slot).putReq slot { r with reAdmit := false }).commitShare slot r).pend slot) := by
  have hload : ((e.notDue slot).roomCommitted r && (e.notDue slot).feasible slot r) = true := Bool.and_eq_true_iff.2 ⟨hroom, hfit⟩
  simp only [Engine.retryHeld, h, hheld, hreq, hre, hst, ne_eq, not_true_eq_false, if_true, if_false, Bool.false_eq_true,
    beq_self_eq_true, Bool.and_self, Engine.decideResume, hload]

/-- A commitment leaves every request as it is. -/
theorem Engine.commitShare_rafter (e : Engine) (slot : Nat) (r : Rafter) : (e.commitShare slot r).rafter = e.rafter := by
  unfold Engine.commitShare
  split
  · obtain ⟨hframe, -⟩ := ({ e with adm := { e.adm with shares := Table.put e.adm.shares slot (e.shareOf r) } } : Engine).updateOvercommit_frame
    rw [hframe]
  · rfl

/-- A pending request stands on its class's list. -/
theorem Engine.pend_spec {e : Engine} {slot : Nat} (h : e.req? slot = some r) :
    (e.pend slot).req? slot = some r ∧ slot ∈ (e.pend slot).spliceList r.cls := by
  have hpend : e.pend slot = e.setSplice r.cls ((e.spliceList r.cls).filter (· != slot) ++ [slot]) := by
    simp only [Engine.pend, h]
  rw [hpend]
  unfold Engine.setSplice Engine.spliceList
  split <;> exact ⟨h, by simp⟩

theorem retry_resumes (hs : s.serves Isl.sb) (hnext : s.seen.retries.head? = some k.toNat)
    (hheld : (s.eng.adm.held.any fun h => h.slot == k.toNat) = false) (hreq : s.eng.req? k.toNat = some r) (hre : r.reAdmit = true)
    (hst : r.state = .queued) (hroom : s.eng.roomCommitted r = true) (hfit : s.seen.feasible k.toNat r = true) :
    ∃ t, exec (.admissionRetry k) s = .next t ∧ t.eng.req? k.toNat = some { r with reAdmit := false } ∧
      k.toNat ∈ t.eng.spliceList r.cls := by
  have hput : ((((s.seen.notDue k.toNat).putReq k.toNat { r with reAdmit := false }).commitShare k.toNat r)).req? k.toNat =
      some { r with reAdmit := false } := by
    rw [Engine.req?, Engine.commitShare_rafter]
    exact Engine.req?_putReq_self _ _ _
  refine ⟨_, exec_admissionRetry hs k, ?_⟩
  dsimp only
  rw [Engine.retryHeld_resumed (e := s.seen) hnext hheld hreq hre hst hroom hfit]
  exact Engine.pend_spec hput

theorem retry_notNext (hs : s.serves Isl.sb) (hnext : s.seen.retries.head? ≠ some k.toNat) :
    exec (.admissionRetry k) s = .next { s with eng := s.seen } := by
  rw [exec_admissionRetry hs, Engine.retryHeld, if_pos hnext]

/-! ### The limit of a hold (R89) -/

theorem holdLimit_refuses (hs : s.serves Isl.sb) (hheld : (s.eng.adm.held.any fun h => h.slot == k.toNat) = true)
    (hreq : s.eng.req? k.toNat = some r) (hdue : r.arrival + s.eng.get Fld.admHoldToMs * 1000 ≤ s.tb.count / 1000) :
    ∃ t, exec (.holdLimitExpiry k) s = .next t ∧ t.eng.req? k.toNat = none ∧ (∀ h ∈ t.eng.adm.held, h.slot ≠ k.toNat) ∧
      t.eng.staged? r.ackRing r.ackPos = none ∧ t.eng.count Cnt.admHoldTo = s.eng.count Cnt.admHoldTo + 1#32 := by
  obtain ⟨h, hfind⟩ : ∃ h, s.seen.adm.held.find? (fun h => h.slot == k.toNat) = some h :=
    Option.isSome_iff_exists.1 (List.find?_isSome.2 (List.any_eq_true.1 hheld))
  have hreq' : s.seen.req? k.toNat = some r := hreq
  have hdue' : r.arrival + s.seen.get Fld.admHoldToMs * 1000 ≤ s.seen.us := hdue
  have hrun : s.seen.holdExpired k.toNat =
      (s.seen.refuse k.toNat (s.seen.heldStatus (s.seen.adm.held.length + 1) h)).bump Cnt.admHoldTo := by
    simp only [Engine.holdExpired, hfind, hreq', if_pos hdue']
  obtain ⟨hleft, hstaged⟩ := Engine.refuse_spec hreq' (s.seen.heldStatus (s.seen.adm.held.length + 1) h)
  refine ⟨_, exec_holdLimitExpiry hs k, ?_⟩
  dsimp only
  rw [hrun, Engine.count_bump_self, hleft.holdTo]
  exact ⟨hleft.gone, hleft.held, hstaged, rfl⟩

/-! ### The sweep of the buckets (R93) -/

/-- A record that TENANT_SET has written is refilled. -/
theorem Engine.refill_enabled {e : Engine} {t : Nat} (h : (e.tenant t).enable = true) : (e.refill t).tenant t = (e.tenant t).refill e.us := by
  have hget : Table.get? (e.refill t).adm.tenants t = (Table.get? e.adm.tenants t).map fun x => x.refill e.us := by
    rw [Engine.refill, Table.get?_modify, if_pos rfl]
  simp only [Engine.tenant, Table.getD, hget] at h ⊢
  cases hrec : Table.get? e.adm.tenants t with
  | none => simp [hrec, Tenant.zero] at h
  | some x => rfl

theorem Engine.refill_other (e : Engine) {t j : Nat} (h : j ≠ t) : (e.refill t).tenant j = e.tenant j := by
  simp only [Engine.tenant, Table.getD, Engine.refill, Table.get?_modify, if_neg h]

theorem sweep_refills {t : BitVec 16} (hs : s.serves Isl.sb) (hen : (s.eng.tenant t.toNat).enable = true) :
    ∃ x, exec (.bucketSweep t) s = .next x ∧ x.eng.tenant t.toNat = (s.eng.tenant t.toNat).refill (s.tb.count / 1000) ∧
      (∀ j, j ≠ t.toNat → x.eng.tenant j = s.eng.tenant j) ∧ x.eng.rafter = s.eng.rafter := by
  have hen' : (s.seen.tenant t.toNat).enable = true := hen
  refine ⟨_, exec_bucketSweep hs t, ?_⟩
  dsimp only
  rw [if_pos hen']
  exact ⟨Engine.refill_enabled hen', fun j hj => s.seen.refill_other hj, rfl⟩

/-! ### ADM_CTL.OPEN (R88, R383) -/

/-- What is written to OPEN leaves the role and the phases. -/
theorem Engine.setOpen_frame (e : Engine) (v : Nat) : (e.setOpen v).glb = e.glb ∧ (e.setOpen v).follows = e.follows := by
  unfold Engine.setOpen
  split
  · exact ⟨rfl, rfl⟩
  · obtain ⟨l, hl⟩ := (e.put Fld.admCtlOpen v).wake_frame fun _ => true
    rw [Engine.wakeAll, hl]
    exact ⟨rfl, rfl⟩

theorem open_again (hs : s.receives Isl.sb) (h : s.eng.follows = true ∨ s.eng.glb.opened = true) :
    exec .admissionOpen s = .next { s with eng := s.seen.setOpen 1 } := by
  obtain ⟨hglb, hfollows⟩ := s.seen.setOpen_frame 1
  have hold : ((s.seen.setOpen 1).follows || (s.seen.setOpen 1).glb.opened) = true := by
    rw [hglb, hfollows]
    exact Bool.or_eq_true_iff.2 h
  rw [exec_admissionOpen hs, Engine.openAdmission]
  exact congrArg (fun e => Host.Outcome.next { s with eng := e }) (if_pos hold)

/-- The first opening where the engine composes. -/
theorem Engine.openAdmission_first {e : Engine} (hf : e.follows = false) (ho : e.glb.opened = false) : e.openAdmission =
    ({ e.setOpen 1 with glb := { e.glb with
      opened := true, phase := (if e.glb.phase = 4 ∨ e.glb.phase = 5 then 7 else e.glb.phase) } } : Engine).sealPoint := by
  obtain ⟨hglb, hfollows⟩ := e.setOpen_frame 1
  simp only [Engine.openAdmission, hglb, hfollows, hf, ho, Bool.or_self, Bool.false_eq_true, if_false, Bool.or_eq_true, decide_eq_true_eq]

theorem open_first (hs : s.receives Isl.sb) (hf : s.eng.follows = false) (ho : s.eng.glb.opened = false) :
    exec .admissionOpen s = .next { s with eng := ({ s.seen.setOpen 1 with glb := { s.eng.glb with
      opened := true, phase := (if s.eng.glb.phase = 4 ∨ s.eng.glb.phase = 5 then 7 else s.eng.glb.phase) } } : Engine).sealPoint } := by
  rw [exec_admissionOpen hs, Engine.openAdmission_first (e := s.seen) hf ho]
  rfl

theorem mem_insertNat_of_mem {x y : Nat} : ∀ {l : List Nat}, y ∈ l → y ∈ insertNat x l
  | z :: l, h => by
    unfold insertNat
    split
    · exact h
    · split
      · exact List.mem_cons_of_mem _ h
      · rcases List.mem_cons.1 h with rfl | h
        · exact List.mem_cons_self
        · exact List.mem_cons_of_mem _ (mem_insertNat_of_mem h)

/-- A fold of insertions holds what it started from and what it inserted. -/
theorem mem_foldl_insertNat {y : Nat} : ∀ {l d : List Nat}, y ∈ d ∨ y ∈ l → y ∈ l.foldl (fun d s => insertNat s d) d
  | [], _, h => h.elim id (fun h => absurd h List.not_mem_nil)
  | x :: l, d, h => by
    refine mem_foldl_insertNat (l := l) ?_
    rcases h with h | h
    · exact .inl (mem_insertNat_of_mem h)
    · rcases List.mem_cons.1 h with rfl | h
      · exact .inl (mem_insertNat _ _)
      · exact .inr h

/-- A change of every resource makes the held requests due a retry. -/
theorem Engine.wakeAll_due {e : Engine} {h : Held} (hmem : h ∈ e.adm.held) (hreq : (e.req? h.slot).isSome = true) :
    h.slot ∈ e.wakeAll.adm.due := by
  obtain ⟨r, hr⟩ := Option.isSome_iff_exists.1 hreq
  unfold Engine.wakeAll Engine.wake
  extract_lets l
  have hl : h.slot ∈ l := List.mem_filter.2 ⟨List.mem_append_left _ (List.mem_map_of_mem hmem), by rw [hr]; rfl⟩
  have hne : ¬ l.isEmpty = true := by
    rw [List.isEmpty_iff]
    exact List.ne_nil_of_mem hl
  rw [if_neg hne]
  exact mem_foldl_insertNat (.inr hl)

/-- OPEN holds what is written, and a change of it retries the held requests. -/
theorem Engine.setOpen_spec (e : Engine) (v : Nat) : (e.setOpen v).get Fld.admCtlOpen = v ∧
    (e.get Fld.admCtlOpen ≠ v → ∀ h ∈ e.adm.held, (e.req? h.slot).isSome = true → h.slot ∈ (e.setOpen v).adm.due) := by
  unfold Engine.setOpen
  split
  · next h => exact ⟨h, fun hne => absurd h hne⟩
  · refine ⟨?_, fun _ h hmem hreq => Engine.wakeAll_due (e := e.put Fld.admCtlOpen v) hmem hreq⟩
    obtain ⟨l, hl⟩ := (e.put Fld.admCtlOpen v).wake_frame fun _ => true
    rw [Engine.wakeAll, hl]
    exact Engine.get_put_self e Fld.admCtlOpen v

end

/-- Settles O41: each command by what the conditions it tests come to. -/
theorem admissionDecides : Obligations.AdmissionDecides := by
  unfold Obligations.AdmissionDecides
  refine ⟨?_, ?_, fun s k hs hnext => retry_notNext hs hnext, fun s k r hs hheld hreq hdue => holdLimit_refuses hs hheld hreq hdue,
    fun s k r hs hnext hheld hreq hre hst hroom hfit => retry_resumes hs hnext hheld hreq hre hst hroom hfit,
    fun s k hs hen => sweep_refills hs hen, fun s hs => exec_admissionClose hs, fun s hs h => open_again hs h,
    fun s hs hf ho => open_first hs hf ho, fun e v _ => e.setOpen_spec v⟩
  · intro s k r hs hhead hreq hfull
    have hrun := exec_admissionDecision hs k
    rw [Engine.decideHead_head (e := s.seen) hhead] at hrun
    exact decision_outcomes hrun hreq hfull ⟨s.eng.adm.due, rfl⟩
  · rintro s u k r hs hnext hheld hreq hfull rfl
    have hrun := exec_admissionRetry hs k
    rw [Engine.retryHeld_held (e := s.seen) hnext hheld hfull] at hrun
    exact decision_outcomes (u := { s with eng := s.eng.notDue k.toNat }) hrun hreq hfull ⟨_, rfl⟩

end Sys2Proof.Machine
end

section
/-!
# A moved page on the cached list

PAGE_MOVE_COMPLETION of a page that a request holds and that stands on the cached list as well (R146, R151).
-/

namespace Sys2Proof.Machine

theorem exec_pageMoveCompletion {s : State} (h : s.receives Isl.pg) (tag : BitVec 32) (status : BitVec 2) :
    exec (.pageMoveCompletion tag status) s = .next { s with eng := s.seen.moveCompletion tag.toNat status.toNat } :=
  State.cross_receives h _ _

/-- Page 1 of `twoPageRequest` on its way from T0 to T1; page 2 follows it on the list of the request. -/
def movingPage : Page := { heldPage 2 with state := .inTransit }

/-- An unpinned CACHED page in T1. -/
def cachedT1Page : Page := { Page.blank with state := .cached, tier := 1 }

/-- The move of page 1, for relief. -/
def reliefMove : Move :=
  { tag := 77, why := .relief, page := 1, srcTier := 0, srcAddr := 0, dstTier := 1, dstFrame := 0, dstAddr := 0, bytes := 0, slot := none, cls := 0
    retried := false, timed := false, cancelled := false, expired := false }

/-- The engine of `heldAndCached` where page 1 moves, has one mirror frame, and stands on the cached list before the CACHED pages 3 and 4; no
T1 frame is free. -/
def movingAndCached : State :=
  { heldAndCached with eng := { heldAndCached.eng with
      pgm := { heldAndCached.eng.pgm with
        pages := [(1, movingPage), (2, heldPage 0), (3, cachedT1Page), (4, cachedT1Page)]
        cached := [1, 3, 4]
        mirrors := [(1, [0])]
        moves := [reliefMove] } } }

theorem movingAndCached_receives : movingAndCached.receives Isl.pg := ⟨rfl, rfl⟩

theorem movingAndCached_alone : movingAndCached.eng.alone := ⟨rfl, rfl⟩

theorem movingAndCached_holders : movingAndCached.eng.holdersOf reliefMove.page = [5] := rfl

/-- The mirror frame that page 1 takes in T1 is reclaimed from page 3. That joins page 3's neighbours on the cached list by the field NEXT
that the request's list runs through: page 4 follows page 1, where page 2 did. -/
theorem movingAndCached_relinked : ((movingAndCached.seen.moveCompletion 77 0).page 1).next = 4 := by
  decide +kernel

/-- Refutes O51: the statement leaves out that a page with holders is not on the cached list. In `movingAndCached` page 1 is: it lands in its
new tier and frame, but the frame reclaimed for its mirror changes its NEXT from 2 to 4. -/
theorem not_movesAreTrackedToTheirEnd : ¬ Obligations.MovesAreTrackedToTheirEnd := by
  unfold Obligations.MovesAreTrackedToTheirEnd
  rintro ⟨-, hcompletion, -⟩
  have hmatch : ∀ k ∈ movingAndCached.eng.holdersOf reliefMove.page, movingAndCached.eng.matching k reliefMove.page = false := by
    rw [movingAndCached_holders]
    rintro k (_ | ⟨_, ⟨⟩⟩)
    rfl
  obtain ⟨-, hends⟩ := hcompletion movingAndCached 77#32 0#2 movingAndCached_receives movingAndCached_alone
  obtain ⟨⟨t, hexec, hpage, -⟩, -⟩ :=
    hends reliefMove movingPage Cnt.pgmDemote rfl rfl rfl (by decide) rfl (by decide) (.inr rfl) hmatch
  obtain rfl := Host.Outcome.next.inj (hexec.symm.trans (exec_pageMoveCompletion movingAndCached_receives 77#32 0#2))
  have hnext : ((movingAndCached.seen.moveCompletion 77 0).page 1).next = 2 := congrArg Page.next hpage
  exact absurd (movingAndCached_relinked.symm.trans hnext) (by decide)

end Sys2Proof.Machine
end

section
/-!
# What upkeep leaves of the variant records

Versions placed, evicted and reloaded change slots and states of version records, and nothing else of an addition; prefixes and what is
wanted stay, and a RETIRING record stays RETIRING (R178, R180, R397).
-/

namespace Sys2Proof.Machine

/-! ### Records under a change of each -/

/-- The record of a version in an entry. -/
def Addition.record? (x : Addition) (v : Nat) : Option VersionRec := x.records.find? fun r => r.version == v

/-- An entry with each of its records changed. -/
def Addition.mapRecords (x : Addition) (g : VersionRec → VersionRec) : Addition := { x with records := x.records.map g }

theorem Engine.record?_eq {e : Engine} {a : Nat} {x : Addition} (h : e.addition? a = some x) (v : Nat) : e.record? a v = x.record? v := by
  rw [Engine.record?, h]
  rfl

theorem Engine.addition?_congr {e e' : Engine} (h : e'.var.additions = e.var.additions) (a : Nat) : e'.addition? a = e.addition? a := by
  rw [Engine.addition?, h, Engine.addition?]

@[simp] theorem Engine.addition?_putAddition_self (e : Engine) (a : Nat) (x : Addition) : (e.putAddition a x).addition? a = some x :=
  Table.get?_put_self _ _ _

theorem Engine.addition?_putAddition_ne (e : Engine) {a b : Nat} (x : Addition) (h : b ≠ a) :
    (e.putAddition a x).addition? b = e.addition? b := Table.get?_put_ne _ _ h

/-- A change that leaves each version's number commutes with looking a version up. -/
theorem Addition.record?_mapRecords {g : VersionRec → VersionRec} (hg : ∀ r, (g r).version = r.version) (x : Addition) (v : Nat) :
    (x.mapRecords g).record? v = (x.record? v).map g := by
  simp only [Addition.record?, Addition.mapRecords, List.find?_map, Function.comp_def, hg]

theorem Addition.versions_mapRecords {g : VersionRec → VersionRec} (hg : ∀ r, (g r).version = r.version) (x : Addition) :
    (x.mapRecords g).records.map (·.version) = x.records.map (·.version) := by
  simp only [Addition.mapRecords, List.map_map, Function.comp_def, hg]

theorem Addition.mapRecords_id (x : Addition) : x.mapRecords id = x := by
  rw [Addition.mapRecords, List.map_id]

theorem Addition.mapRecords_comp (x : Addition) (f g : VersionRec → VersionRec) : (x.mapRecords f).mapRecords g = x.mapRecords (g ∘ f) := by
  simp only [Addition.mapRecords, List.map_map]

/-- A change of one version's records. -/
def VersionRec.atVersion (v : Nat) (f : VersionRec → VersionRec) (r : VersionRec) : VersionRec := if r.version == v then f r else r

theorem Engine.addition?_modRecord_self (e : Engine) (a v : Nat) (f : VersionRec → VersionRec) :
    (e.modRecord a v f).addition? a = (e.addition? a).map fun x => x.mapRecords (VersionRec.atVersion v f) := by
  unfold Engine.modRecord
  split
  · next h => rw [h, Option.map_none]
  · next x h => rw [h, Engine.addition?_putAddition_self]; rfl

theorem Engine.addition?_modRecord_ne (e : Engine) {a b : Nat} (v : Nat) (f : VersionRec → VersionRec) (h : b ≠ a) :
    (e.modRecord a v f).addition? b = e.addition? b := by
  unfold Engine.modRecord
  split
  · rfl
  · exact e.addition?_putAddition_ne _ h

/-! ### Upkeep -/

/-- r' is r with its slot, and what follows from the slot, changed; a RETIRING record stays RETIRING. -/
def VersionRec.moved (r r' : VersionRec) : Prop :=
  r' = { r with vstate := r'.vstate, inT0 := r'.inT0, slot := r'.slot } ∧ (r.vstate = 4 → r'.vstate = 4)

/-- Prefixes and what is wanted stay, and of the additions only their records' slots and states change. -/
structure VersionUpkeep (e e' : Engine) : Prop where
  prefixes : e'.var.prefixes = e.var.prefixes
  wanted : e'.var.wanted = e.var.wanted
  additions : ∃ g : Nat → VersionRec → VersionRec, (∀ a (r : VersionRec), r.moved (g a r)) ∧
    ∀ a, e'.addition? a = (e.addition? a).map fun x => x.mapRecords (g a)

section
variable {a b c e e' : Engine} {r r' r'' : VersionRec}

theorem VersionRec.moved_refl (r : VersionRec) : r.moved r := ⟨rfl, id⟩

theorem VersionRec.moved_trans (h : r.moved r') (k : r'.moved r'') : r.moved r'' := by
  obtain ⟨h1, h2⟩ := h
  obtain ⟨k1, k2⟩ := k
  refine ⟨?_, fun hr => k2 (h2 hr)⟩
  rw [k1, h1]

theorem VersionRec.moved.version_eq (h : r.moved r') : r'.version = r.version := by rw [h.1]
theorem VersionRec.moved.hostRetire_eq (h : r.moved r') : r'.hostRetire = r.hostRetire := by rw [h.1]
theorem VersionRec.moved.bound_eq (h : r.moved r') : r'.bound = r.bound := by rw [h.1]

theorem VersionUpkeep.of_eq (hp : e'.var.prefixes = e.var.prefixes) (hw : e'.var.wanted = e.var.wanted)
    (ha : e'.var.additions = e.var.additions) : VersionUpkeep e e' := by
  refine ⟨hp, hw, fun _ => id, fun _ r => r.moved_refl, fun a => ?_⟩
  rw [Engine.addition?_congr ha]
  cases e.addition? a with
  | none => rfl
  | some x => rw [Option.map_some, Addition.mapRecords_id]

/-- Where the variant store stays. -/
theorem VersionUpkeep.of_var (h : e'.var = e.var) : VersionUpkeep e e' := .of_eq (by rw [h]) (by rw [h]) (by rw [h])

theorem VersionUpkeep.refl (e : Engine) : VersionUpkeep e e := .of_var rfl

theorem VersionUpkeep.trans (h : VersionUpkeep a b) (k : VersionUpkeep b c) : VersionUpkeep a c := by
  obtain ⟨hp, hw, f, hf, ha⟩ := h
  obtain ⟨kp, kw, g, hg, ka⟩ := k
  refine ⟨kp.trans hp, kw.trans hw, fun n => g n ∘ f n, fun n r => VersionRec.moved_trans (hf n r) (hg n (f n r)), fun n => ?_⟩
  rw [ka, ha, Option.map_map]
  exact congrArg (fun h => (a.addition? n).map h) (funext fun x => x.mapRecords_comp (f n) (g n))

/-- An entry keeps its place, and its records what upkeep does not move. -/
theorem VersionUpkeep.addition (h : VersionUpkeep e e') {n : Nat} {x : Addition} (hx : e.addition? n = some x) :
    ∃ g : VersionRec → VersionRec, (∀ r : VersionRec, r.moved (g r)) ∧ e'.addition? n = some (x.mapRecords g) := by
  obtain ⟨-, -, g, hg, ha⟩ := h
  exact ⟨g n, hg n, by rw [ha, hx, Option.map_some]⟩

end

section
variable (e : Engine)

theorem Engine.modRecord_upkeep (a v : Nat) {f : VersionRec → VersionRec} (hf : ∀ r : VersionRec, r.moved (f r)) :
    VersionUpkeep e (e.modRecord a v f) where
  prefixes := by unfold Engine.modRecord; split <;> rfl
  wanted := by unfold Engine.modRecord; split <;> rfl
  additions := by
    refine ⟨fun b => if b = a then VersionRec.atVersion v f else id, fun b r => ?_, fun b => ?_⟩
    · dsimp only
      split
      · unfold VersionRec.atVersion
        split
        · exact hf r
        · exact r.moved_refl
      · exact r.moved_refl
    · dsimp only
      split
      · next h => rw [h, Engine.addition?_modRecord_self]
      · next h =>
        rw [Engine.addition?_modRecord_ne _ _ _ h]
        cases e.addition? b with
        | none => rfl
        | some x => rw [Option.map_some, Addition.mapRecords_id]

theorem Engine.opsSlot_var (s : Nat) (x : Slot) : (e.opsSlot s x).var = e.var := by
  unfold Engine.opsSlot
  split
  · rfl
  · exact (e.ops_pageWork _).var_eq

theorem Engine.askLeave_var (ch1 : Bool) (cls cred : Nat) (why : LeaveFor) : (e.askLeave ch1 cls cred why).2.var = e.var := by
  unfold Engine.askLeave Engine.putChannel
  extract_lets
  dsimp only
  split <;> rfl

theorem Engine.freeSlot_upkeep (s : Nat) : VersionUpkeep e (e.freeSlot s) := by
  unfold Engine.freeSlot
  split
  · exact .refl e
  · next x _ =>
    extract_lets e1 var e2 e3
    have hout : ∀ r : VersionRec, r.moved { r with slot := none, inT0 := false } := fun _ => ⟨rfl, id⟩
    have h1 : VersionUpkeep e e1 := (e.modRecord_upkeep x.addition x.version hout).trans (.of_var (Engine.ops_pageWork _ _).var_eq)
    have h2 : VersionUpkeep e e2 := h1.trans (.of_eq rfl rfl rfl)
    have h3 : VersionUpkeep e e3 := h2.trans (.of_var (e2.wake_pageWork _).var_eq)
    split
    · exact h3
    · exact h3.trans (.of_var rfl)

end

section
variable {e e' : Engine}

theorem Engine.evictOne_upkeep {test : Slot → Bool} (h : e.evictOne test = some e') : VersionUpkeep e e' := by
  obtain ⟨v, -, hv⟩ := List.exists_of_findSome?_eq_some h
  split at hv
  · obtain ⟨g, -, rfl⟩ := Option.map_eq_some_iff.1 hv
    have hdown : ∀ r : VersionRec, r.moved { r with inT0 := false } := fun _ => ⟨rfl, id⟩
    refine .trans ?_ (.of_var (Engine.opsSlot_var _ _ _))
    exact (e.modRecord_upkeep _ _ hdown).trans (.of_eq rfl rfl rfl)
  · obtain rfl := Option.some.inj hv
    have hknown : ∀ r : VersionRec, r.moved { r with vstate := if r.vstate = 4 then 4 else 3 } := fun _ => ⟨rfl, fun h => if_pos h⟩
    exact ((e.modRecord_upkeep _ _ hknown).trans (Engine.freeSlot_upkeep _ _)).trans (.of_var rfl)

/-- One eviction. -/
def Engine.evicts (e e' : Engine) : Prop := ∃ test, e.evictOne test = some e'

/-- A quota is met by evictions alone. -/
theorem Engine.fitQuota_evicts {fuel t : Nat} {e e' : Engine} (h : Engine.fitQuota fuel t e = some e') :
    Relation.ReflTransGen Engine.evicts e e' := by
  induction fuel generalizing e with
  | zero =>
    unfold Engine.fitQuota at h
    split at h
    · exact Option.some.inj h ▸ .refl
    · split at h
      · exact Option.some.inj h ▸ .refl
      · cases h
  | succ fuel ih =>
    unfold Engine.fitQuota at h
    split at h
    · exact Option.some.inj h ▸ .refl
    · split at h
      · exact Option.some.inj h ▸ .refl
      · dsimp only at h
        split at h
        · cases h
        · next e1 he1 => exact .head ⟨_, he1⟩ (ih h)

/-- A slot and its run are found after evictions alone. -/
theorem Engine.findSlot_evicts {fuel n s g : Nat} {e e' : Engine} (h : Engine.findSlot fuel n e = some (s, g, e')) :
    Relation.ReflTransGen Engine.evicts e e' := by
  induction fuel generalizing e with
  | zero =>
    rw [Engine.findSlot_zero] at h
    split at h
    · cases h
      exact .refl
    · cases h
  | succ fuel ih =>
    rw [Engine.findSlot_succ] at h
    split at h
    · cases h
      exact .refl
    · split at h
      · cases h
      · next e1 he1 => exact .head ⟨_, he1⟩ (ih h)

/-- Any number of evictions. -/
theorem VersionUpkeep.of_evictions (h : Relation.ReflTransGen Engine.evicts e e') : VersionUpkeep e e' := by
  induction h with
  | refl => exact .refl e
  | tail _ hone ih =>
    obtain ⟨test, hone⟩ := hone
    exact ih.trans (Engine.evictOne_upkeep hone)

theorem Engine.placeVersion_upkeep {a v family owner size s : Nat} (h : (e.placeVersion a v family owner size).2 = some (s, e')) :
    VersionUpkeep e e' := by
  cases hquota : Engine.fitQuota 16384 owner e with
  | none => simp [Engine.placeVersion, hquota] at h
  | some e1 =>
    cases hslot : Engine.findSlot 16384 (ceilDiv size 16) e1 with
    | none => simp [Engine.placeVersion, hquota, hslot] at h
    | some x =>
      obtain ⟨s', g, e2⟩ := x
      simp only [Engine.placeVersion, hquota, hslot, Option.some.injEq, Prod.mk.injEq] at h
      obtain ⟨-, rfl⟩ := h
      have hevicted := (Engine.fitQuota_evicts hquota).trans (Engine.findSlot_evicts hslot)
      exact (VersionUpkeep.of_evictions hevicted).trans (.of_eq rfl rfl rfl)

theorem Engine.startReload_upkeep {a v : Nat} (h : e.startReload a v = some e') : VersionUpkeep e e' := by
  unfold Engine.startReload at h
  split at h
  · split at h
    · split at h
      · cases h
      · next s e1 h1 =>
        extract_lets e2 e3 at h
        obtain rfl := Option.some.inj h
        have h2 : VersionUpkeep e1 e2 := e1.modRecord_upkeep _ _ fun r => ⟨rfl, fun h => if_pos h⟩
        have h3 : VersionUpkeep e2 e3 := by
          dsimp only [e3]
          split
          · exact .of_var (e2.opsSlot_var _ _)
          · exact .refl e2
        exact (((Engine.placeVersion_upkeep h1).trans h2).trans h3).trans (.of_eq rfl rfl rfl)
    · cases h
  · cases h

theorem Engine.nextReload_upkeep {j : Job} {l : List (Nat × Nat)} (h : e.nextReload l = some (j, e')) : VersionUpkeep e e' := by
  induction l with
  | nil => cases h
  | cons x l ih =>
    obtain ⟨a, v⟩ := x
    unfold Engine.nextReload at h
    split at h
    · split at h
      · cases h
        exact .refl e
      · exact ih h
    · split at h
      · next x hx =>
        cases h
        obtain ⟨e1, h1, h2⟩ := Option.bind_eq_some_iff.1 hx
        obtain ⟨j', -, h3⟩ := Option.map_eq_some_iff.1 h2
        cases h3
        exact Engine.startReload_upkeep h1
      · exact ih h

/-- The next job comes from the queue as it stands, or from a reload that begins. -/
theorem Engine.nextJobOf_cases {j : Job} (h : e.nextJobOf = some (j, e')) : e' = e ∨ e.nextReload e.reloadOrder = some (j, e') := by
  unfold Engine.nextJobOf at h
  extract_lets first at h
  split at h
  · cases h
    exact .inl rfl
  · split at h
    · next x hx =>
      cases h
      exact .inr hx
    · obtain ⟨j', -, h1⟩ := Option.map_eq_some_iff.1 h
      cases h1
      exact .inl rfl

/-- A burst leaves the variant store as the choice of its job does, but for the burst. -/
theorem Engine.nextLoadBurst_cases (e : Engine) : e.nextLoadBurst = e ∨ ∃ j e', e.nextJobOf = some (j, e') ∧
    e.nextLoadBurst.var.prefixes = e'.var.prefixes ∧ e.nextLoadBurst.var.wanted = e'.var.wanted ∧
      e.nextLoadBurst.var.additions = e'.var.additions := by
  unfold Engine.nextLoadBurst
  split
  · exact .inl rfl
  · split
    · exact .inl rfl
    · next j e1 h1 =>
      extract_lets n bytes
      have hask := e1.askLeave_var true 3 (e1.credits (e1.energy 3 * bytes)) .load
      have hp := congrArg Var.prefixes hask
      have hw := congrArg Var.wanted hask
      have ha := congrArg Var.additions hask
      exact .inr ⟨j, e1, h1, hp, hw, ha⟩

theorem Engine.nextLoadBurst_upkeep (e : Engine) : VersionUpkeep e e.nextLoadBurst := by
  obtain h | ⟨j, e', hjob, hp, hw, ha⟩ := e.nextLoadBurst_cases
  · exact .of_var (by rw [h])
  · have hchosen : VersionUpkeep e e' := by
      obtain rfl | hreload := Engine.nextJobOf_cases hjob
      · exact .refl e'
      · exact Engine.nextReload_upkeep hreload
    exact hchosen.trans (.of_eq hp hw ha)

/-! ### With no reload wanted -/

/-- Reloads that are jobs already begin none. -/
theorem Engine.nextReload_queued {j : Job} {l : List (Nat × Nat)} (hl : ∀ x ∈ l, (e.reloadJob x.1 x.2).isSome = true)
    (h : e.nextReload l = some (j, e')) : e' = e := by
  induction l with
  | nil => cases h
  | cons x l ih =>
    obtain ⟨a, v⟩ := x
    obtain ⟨hx, hl⟩ := List.forall_mem_cons.1 hl
    obtain ⟨j', hj'⟩ := Option.isSome_iff_exists.1 hx
    simp only [Engine.nextReload, hj'] at h
    split at h
    · cases h
      rfl
    · exact ih hl h

theorem Engine.reloadOrder_queued (h : e.var.wanted = []) : ∀ x ∈ e.reloadOrder, (e.reloadJob x.1 x.2).isSome = true := by
  intro x hx
  simp only [Engine.reloadOrder, h, sortBy, List.map_nil, List.nil_append, List.mem_eraseDups, List.mem_filterMap] at hx
  obtain ⟨j, hj, hw⟩ := hx
  split at hw
  · next a v hwhat =>
    obtain rfl := Option.some.inj hw
    exact List.find?_isSome.2 ⟨j, hj, by simp [hwhat]⟩
  · cases hw

/-- With none wanted, the next burst leaves every addition as it is. -/
theorem Engine.nextLoadBurst_additions (h : e.var.wanted = []) : e.nextLoadBurst.var.additions = e.var.additions := by
  obtain hsame | ⟨j, e', hjob, -, -, ha⟩ := e.nextLoadBurst_cases
  · rw [hsame]
  · obtain rfl | hreload := Engine.nextJobOf_cases hjob
    · exact ha
    · rw [ha, Engine.nextReload_queued (Engine.reloadOrder_queued h) hreload]

end

end Sys2Proof.Machine
end

section
/-!
# ADDITION_LOAD and PREFIX_LOAD

A load that passes its checks and finds its place opens a record in LOADING, queues its copy and waits (R177, R178, R183).
-/

namespace Sys2Proof.Machine

theorem exec_additionLoad {s : State} (h : s.receives Isl.pg) (i : BitVec 12) : exec (.additionLoad i) s = .next { s with
    eng := s.seen.decode i.toNat (fun d => d.opcode == 0x10) Engine.additionLoadDesc } :=
  State.cross_receives h _ _

theorem exec_prefixLoad {s : State} (h : s.receives Isl.pg) (i : BitVec 12) : exec (.prefixLoad i) s = .next { s with
    eng := s.seen.decode i.toNat (fun d => d.opcode == 0x12 && d.f 32 0 32 != 0) Engine.prefixLoadDesc } :=
  State.cross_receives h _ _

/-! ### The descriptor waits and its copy is queued -/

section
variable {e : Engine} {d : Staged}

/-- The descriptor waiting, its copy queued, and the next burst begun. -/
def Engine.startCopy (e : Engine) (d : Staged) (w : LoadOf) (total : Nat) : Engine :=
  ((e.restage { d with phase := .waiting }).addJob w total).nextLoadBurst

theorem Engine.startCopy_spec (hmem : d ∈ e.hru.staging) (w : LoadOf) (total : Nat) :
    (∃ j ∈ (e.startCopy d w total).var.jobs, j.what = w) ∧
    (e.startCopy d w total).staged? d.ring d.pos = some { d with phase := .waiting } ∧
    (e.startCopy d w total).var.prefixes = e.var.prefixes ∧
    (e.var.wanted = [] → (e.startCopy d w total).var.additions = e.var.additions) := by
  have hburst := ((e.restage { d with phase := .waiting }).addJob w total).nextLoadBurst_versionWork
  obtain ⟨j, hj, -, hwhat, -⟩ := hburst.jobs _ (List.mem_append_right _ List.mem_cons_self)
  refine ⟨⟨j, hj, hwhat⟩, (hburst.staged?_eq _ _).trans ?_, (Engine.nextLoadBurst_upkeep _).prefixes, fun hwanted => ?_⟩
  · exact Engine.staged?_restage (d0 := d) (d := { d with phase := .waiting }) hmem rfl rfl
  · exact Engine.nextLoadBurst_additions (e := (e.restage { d with phase := .waiting }).addJob w total) hwanted

end

/-! ### ADDITION_LOAD (R177, R178) -/

section
variable {e e' : Engine} {d : Staged} {slot : Nat}

/-- The entry that a load joins: the one in use, or one opened for it. -/
def Engine.entryFor (e : Engine) (a family owner : Nat) : Addition :=
  ((e.addition? a).filter (·.valid)).getD (Addition.fresh family owner)

/-- The entry with a further record. -/
def Addition.push (x : Addition) (r : VersionRec) : Addition := { x with records := x.records ++ [r] }

/-- The record that a load opens in its entry. -/
def Engine.newRecord (e : Engine) (d : Staged) (slot : Nat) : VersionRec :=
  VersionRec.loading d (e.entryFor (d.f 16 0 16) (d.f 19 0 8) (d.f 36 0 16)).emptyIndex slot

/-- The engine with a version's record in LOADING, and its slot told to the replicas. -/
def Engine.openVersion (e : Engine) (d : Staged) (slot : Nat) : Engine :=
  let e1 := e.putAddition (d.f 16 0 16) ((e.entryFor (d.f 16 0 16) (d.f 19 0 8) (d.f 36 0 16)).push (e.newRecord d slot))
  match Table.get? e1.var.slots slot with
  | some y => e1.opsSlot slot y
  | none => e1

/-- A load that passes its checks and finds its slot. -/
theorem Engine.additionLoadDesc_placed
    (hcheck : e.additionCheck (d.f 16 0 16) (d.f 18 0 8) (d.f 19 0 8) (d.f 36 0 16) (d.f 38 0 8) (d.f 32 0 32) = none)
    (hplace : e.placeVersion (d.f 16 0 16) (d.f 18 0 8) (d.f 19 0 8) (d.f 36 0 16) (d.f 32 0 32) = (true, some (slot, e'))) :
    Engine.additionLoadDesc d e = (e'.openVersion d slot).startCopy d (.addition (d.f 16 0 16) (d.f 18 0 8) false)
      (chunksOf (d.f 32 0 32 * 4096)) := by
  simp only [Engine.additionLoadDesc, hcheck, hplace]
  rfl

/-- Check 5: no record of an entry in use holds the version. -/
theorem Engine.additionCheck_newVersion {a v family owner rank size : Nat} (h : e.additionCheck a v family owner rank size = none)
    {x : Addition} (hx : e.addition? a = some x) (hvalid : x.valid = true) : x.record? v = none := by
  have hheld : (e.addition? a).filter (·.valid) = some x := by rw [hx, Option.filter_some, if_pos hvalid]
  have hany : (x.records.any fun r => r.version == v) = false := by
    by_contra hany
    rw [Bool.not_eq_false] at hany
    simp only [Engine.additionCheck, hheld, hany, if_true] at h
    split_ifs at h
  rw [Addition.record?, List.find?_eq_none]
  simpa using hany

/-- Making room opens no record of the version. -/
theorem VersionUpkeep.entryFor_newVersion (h : VersionUpkeep e e') {a v family owner rank size : Nat}
    (hcheck : e.additionCheck a v family owner rank size = none) : (e'.entryFor a family owner).record? v = none := by
  obtain ⟨-, -, g, hg, ha⟩ := h
  unfold Engine.entryFor
  rw [ha]
  cases hx : e.addition? a with
  | none => rfl
  | some x =>
    rw [Option.map_some, Option.filter_some]
    split
    · next hvalid =>
      rw [Option.getD_some, Addition.record?_mapRecords fun r => (hg a r).version_eq,
        Engine.additionCheck_newVersion hcheck hx hvalid, Option.map_none]
    · rfl

theorem Engine.openVersion_spec (e : Engine) (d : Staged) (slot : Nat) : Stores e (e.openVersion d slot) ∧
    (e.openVersion d slot).var.wanted = e.var.wanted ∧ (e.openVersion d slot).addition? (d.f 16 0 16) =
      some ((e.entryFor (d.f 16 0 16) (d.f 19 0 8) (d.f 36 0 16)).push (e.newRecord d slot)) := by
  unfold Engine.openVersion
  extract_lets e1
  have h1 : Stores e e1 := .of_eq rfl rfl
  have hput : e1.addition? (d.f 16 0 16) = some _ := Engine.addition?_putAddition_self _ _ _
  split
  · have hvar := e1.opsSlot_var
    exact ⟨h1.trans (e1.opsSlot_stores _ _), by rw [hvar]; rfl, (Engine.addition?_congr (by rw [hvar]) _).trans hput⟩
  · exact ⟨h1, rfl, hput⟩

/-- The record stands in its entry behind those before it. -/
theorem Engine.openVersion_record?
    (h : (e.entryFor (d.f 16 0 16) (d.f 19 0 8) (d.f 36 0 16)).record? (d.f 18 0 8) = none) :
    (e.openVersion d slot).record? (d.f 16 0 16) (d.f 18 0 8) = some (e.newRecord d slot) := by
  obtain ⟨-, -, hadd⟩ := e.openVersion_spec d slot
  rw [Addition.record?] at h
  rw [Engine.record?_eq hadd, Addition.record?, Addition.push, List.find?_append, h]
  simp [Engine.newRecord, VersionRec.loading]

end

section
variable {s : State} {i : BitVec 12} {d : Staged}

/-- ADDITION_LOAD opens its version's record and waits for the copy. -/
theorem additionLoad_opens {slot : Nat} {e' : Engine} (hs : s.receives Isl.pg) (hd : s.eng.decodes i.toNat d 0x10)
    (hcheck : s.eng.additionCheck (d.f 16 0 16) (d.f 18 0 8) (d.f 19 0 8) (d.f 36 0 16) (d.f 38 0 8) (d.f 32 0 32) = none)
    (hplace : s.seen.placeVersion (d.f 16 0 16) (d.f 18 0 8) (d.f 19 0 8) (d.f 36 0 16) (d.f 32 0 32) = (true, some (slot, e')))
    (hwanted : s.eng.var.wanted = []) :
    ∃ t r, exec (.additionLoad i) s = .next t ∧ t.eng.record? (d.f 16 0 16) (d.f 18 0 8) = some r ∧ r.vstate = 1 ∧
      r.slot = some slot ∧ r.bound = 0 ∧ r.ack = some (d.ring, d.pos) ∧ r.rank = d.f 38 0 8 ∧ r.size = d.f 32 0 32 ∧
      r.source = BitVec.ofNat 64 (d.f 24 0 64) ∧
      (∃ j ∈ t.eng.var.jobs, j.what = .addition (d.f 16 0 16) (d.f 18 0 8) false) ∧
      t.eng.staged? d.ring d.pos = some { d with phase := .waiting } := by
  obtain ⟨hnext, hop, hck⟩ := hd
  have hroom := Engine.placeVersion_upkeep (congrArg Prod.snd hplace)
  have hstores := Engine.placeVersion_stores (congrArg Prod.snd hplace)
  obtain ⟨hopened, hkept, -⟩ := e'.openVersion_spec d slot
  have hrecord := Engine.openVersion_record? (slot := slot) (hroom.entryFor_newVersion (e := s.seen) hcheck)
  have hmem : d ∈ (e'.openVersion d slot).hru.staging := by
    rw [hopened.hru_eq, hstores.hru_eq]
    exact (Engine.nextDue_mem hnext).1
  obtain ⟨hjob, hstaged, -, hadd⟩ := Engine.startCopy_spec hmem (.addition (d.f 16 0 16) (d.f 18 0 8) false)
    (chunksOf (d.f 32 0 32 * 4096))
  have hadd := hadd (hkept.trans (hroom.wanted.trans hwanted))
  have hrun := Engine.decode_passed (e := s.seen) (isRow := fun d => d.opcode == 0x10) (f := Engine.additionLoadDesc) hnext
    (by simp [hop]) hck
  rw [Engine.additionLoadDesc_placed (e := s.seen) hcheck hplace] at hrun
  generalize (e'.openVersion d slot).startCopy d (.addition (d.f 16 0 16) (d.f 18 0 8) false) (chunksOf (d.f 32 0 32 * 4096)) = x
    at hjob hstaged hadd hrun
  have hclose := (x.finishClose_spec i.toNat).1
  have hvar := (x.finishClose_ackOnly i.toNat).var_eq
  refine ⟨_, e'.newRecord d slot, exec_additionLoad hs i, ?_, rfl, rfl, rfl, rfl, rfl, rfl, rfl, ?_, ?_⟩
  · dsimp only
    rw [hrun, Engine.record?, Engine.addition?_congr (congrArg Var.additions hvar), Engine.addition?_congr hadd]
    exact hrecord
  · dsimp only
    rw [hrun, hvar]
    exact hjob
  · dsimp only
    rw [hrun, hclose.staged?_eq]
    exact hstaged

end

/-! ### PREFIX_LOAD with a token count (R183) -/

section
variable {e e' : Engine} {d : Staged}

theorem Engine.prefixPage_pageWork {family p : Nat} (h : e.prefixPage family = some (p, e')) : PageWork e e' := by
  unfold Engine.prefixPage at h
  extract_lets c at h
  split at h
  · next hframe =>
    obtain ⟨-, rfl⟩ := Prod.mk.inj (Option.some.inj h)
    refine .trans ?_ (Engine.putPage_pageWork _ _ _)
    refine .trans ?_ (Engine.ops_pageWork _ _)
    exact (Engine.bindFrame_pageWork hframe).trans (.of_eq rfl rfl)
  · cases h

theorem Engine.prefixPages_pageWork {n family : Nat} {ps : List Nat} (h : Engine.prefixPages n family e = some (ps, e')) :
    PageWork e e' := by
  induction n generalizing e ps with
  | zero =>
    obtain ⟨-, rfl⟩ := Prod.mk.inj (Option.some.inj h)
    exact .refl e
  | succ n ih =>
    unfold Engine.prefixPages at h
    split at h
    · cases h
    · next hone =>
      obtain ⟨⟨qs, e2⟩, hrest, h⟩ := Option.map_eq_some_iff.1 h
      obtain ⟨-, rfl⟩ := Prod.mk.inj h
      exact (Engine.prefixPage_pageWork hone).trans (ih hrest)

/-- A load that passes checks 1 to 4 on its family, its tenant, its record and its pages. -/
structure Engine.prefixGood (e : Engine) (d : Staged) : Prop where
  family : (e.family (d.f 20 0 8)).state = 2
  tenant : (e.tenant (d.f 22 0 16)).enable = true
  quota : (e.tenant (d.f 22 0 16)).pquota = 0 ∨
    (e.tenant (d.f 22 0 16)).pheld + ceilDiv (d.f 32 0 32) 32 ≤ (e.tenant (d.f 22 0 16)).pquota
  fresh : Table.has e.var.prefixes (d.f 16 0 20) = false
  room : (e.reservePages (e.family (d.f 20 0 8)).cls (ceilDiv (d.f 32 0 32) 32) (ceilDiv (d.f 32 0 32) 32)).isSome = true

/-- The engine with a PREFIX record in LOADING, its pages held and counted. -/
def Engine.openPrefix (e : Engine) (d : Staged) (ps : List Nat) : Engine :=
  (({ e with var := { e.var with prefixes := Table.put e.var.prefixes (d.f 16 0 20) (PrefixRec.loading d ps) } } : Engine).opsPrefix
    (d.f 16 0 20) (d.f 20 0 8) 1).addPheld (d.f 22 0 16) (ceilDiv (d.f 32 0 32) 32) true

theorem Engine.prefixLoadDesc_good {ps : List Nat} (h : e.prefixGood d)
    (hpages : Engine.prefixPages (ceilDiv (d.f 32 0 32) 32) (d.f 20 0 8) e = some (ps, e')) :
    Engine.prefixLoadDesc d e = (e'.openPrefix d ps).startCopy d (.learned (d.f 16 0 20)) (ceilDiv (d.f 32 0 32) 32) := by
  obtain ⟨hfamily, htenant, hquota, hfresh, hroom⟩ := h
  unfold Engine.prefixLoadDesc
  extract_lets p family f t n
  have hover : ¬ (decide (t.pquota ≠ 0) && decide (t.pquota < t.pheld + n)) = true := by
    rcases hquota with h | h
    · simp [show t.pquota = 0 from h]
    · simp [Nat.not_lt.2 (show t.pheld + n ≤ t.pquota from h)]
  have hreserved : ¬ (e.reservePages f.cls n n).isNone = true := by
    rw [Option.isNone_iff_eq_none, ← Option.not_isSome_iff_eq_none, not_not]
    exact hroom
  rw [if_neg (not_not.2 hfamily), if_neg (by rw [show t.enable = true from htenant]; decide),
    if_neg (by rw [show Table.has e.var.prefixes p = false from hfresh]; decide), if_neg hover, if_neg hreserved, hpages]
  rfl

theorem Engine.reservePages_isSome (e : Engine) (c entries frames : Nat) : (e.reservePages c entries frames).isSome =
    (decide (entries ≤ e.entriesFree) && decide (frames ≤ e.classFree c)) := by
  unfold Engine.reservePages
  split
  · next hfits => exact hfits.symm
  · next hfull => exact (Bool.eq_false_iff.2 hfull).symm

/-- The time plays no part in the checks. -/
theorem State.seen_prefixGood {s : State} (h : s.eng.prefixGood d) : s.seen.prefixGood d := by
  obtain ⟨hfamily, htenant, hquota, hfresh, hroom⟩ := h
  rw [Engine.reservePages_isSome] at hroom
  exact ⟨hfamily, htenant, hquota, hfresh, by rw [Engine.reservePages_isSome]; exact hroom⟩

theorem Engine.openPrefix_spec (e : Engine) (d : Staged) (ps : List Nat) :
    Table.get? (e.openPrefix d ps).var.prefixes (d.f 16 0 20) = some (PrefixRec.loading d ps) ∧ (e.openPrefix d ps).hru = e.hru := by
  unfold Engine.openPrefix
  have hops := Engine.opsPrefix_pageWork ({ e with var := { e.var with
    prefixes := Table.put e.var.prefixes (d.f 16 0 20) (PrefixRec.loading d ps) } } : Engine) (d.f 16 0 20) (d.f 20 0 8) 1
  refine ⟨?_, hops.hru_eq⟩
  rw [Engine.addPheld, hops.var_eq]
  exact Table.get?_put_self _ _ _

end

section
variable {s : State} {i : BitVec 12} {d : Staged}

/-- PREFIX_LOAD opens its record with its pages and waits for the copy. -/
theorem prefixLoad_opens {ps : List Nat} {e' : Engine} (hs : s.receives Isl.pg) (hd : s.eng.decodes i.toNat d 0x12)
    (htokens : d.f 32 0 32 ≠ 0) (hgood : s.eng.prefixGood d)
    (hpages : Engine.prefixPages (ceilDiv (d.f 32 0 32) 32) (d.f 20 0 8) s.seen = some (ps, e')) :
    ∃ t x, exec (.prefixLoad i) s = .next t ∧ Table.get? t.eng.var.prefixes (d.f 16 0 20) = some x ∧ x.state = 1 ∧
      x.pages = ps ∧ x.tokens = d.f 32 0 32 ∧ x.family = d.f 20 0 8 ∧ x.tenant = d.f 22 0 16 ∧
      (∃ j ∈ t.eng.var.jobs, j.what = .learned (d.f 16 0 20)) ∧
      t.eng.staged? d.ring d.pos = some { d with phase := .waiting } := by
  obtain ⟨hnext, hop, hck⟩ := hd
  obtain ⟨hrecord, hhru⟩ := e'.openPrefix_spec d ps
  have hmem : d ∈ (e'.openPrefix d ps).hru.staging := by
    rw [hhru, (Engine.prefixPages_pageWork hpages).hru_eq]
    exact (Engine.nextDue_mem hnext).1
  obtain ⟨hjob, hstaged, hprefixes, -⟩ := Engine.startCopy_spec hmem (.learned (d.f 16 0 20)) (ceilDiv (d.f 32 0 32) 32)
  have hrun := Engine.decode_passed (e := s.seen) (isRow := fun d => d.opcode == 0x12 && d.f 32 0 32 != 0)
    (f := Engine.prefixLoadDesc) hnext (by simp [hop, htokens]) hck
  rw [Engine.prefixLoadDesc_good (State.seen_prefixGood hgood) hpages] at hrun
  generalize (e'.openPrefix d ps).startCopy d (.learned (d.f 16 0 20)) (ceilDiv (d.f 32 0 32) 32) = x at hjob hstaged hprefixes hrun
  have hclose := (x.finishClose_spec i.toNat).1
  have hvar := (x.finishClose_ackOnly i.toNat).var_eq
  refine ⟨_, PrefixRec.loading d ps, exec_prefixLoad hs i, ?_, rfl, rfl, rfl, rfl, rfl, ?_, ?_⟩
  · dsimp only
    rw [hrun, hvar, hprefixes]
    exact hrecord
  · dsimp only
    rw [hrun, hvar]
    exact hjob
  · dsimp only
    rw [hrun, hclose.staged?_eq]
    exact hstaged

end

end Sys2Proof.Machine
end

section
/-!
# ADDITION_RETIRE and PREFIX_LOAD with token count 0

Versions and prefixes in use enter RETIRING and their descriptors wait; one of the prefixes that nothing uses is removed at once (R181, R186, and
R187 for a SUBMIT that is not yet decided).
-/

namespace Sys2Proof.Machine

theorem exec_additionRetire {s : State} (h : s.receives Isl.pg) (i : BitVec 12) : exec (.additionRetire i) s = .next { s with
    eng := s.seen.decode i.toNat (fun d => d.opcode == 0x11) Engine.additionRetireDesc } :=
  State.cross_receives h _ _

theorem exec_prefixRetire {s : State} (h : s.receives Isl.pg) (i : BitVec 12) : exec (.prefixRetire i) s = .next { s with
    eng := s.seen.decode i.toNat (fun d => d.opcode == 0x12 && d.f 32 0 32 == 0) Engine.prefixRetireDesc } :=
  State.cross_receives h _ _

/-! ### Versions that requests are bound to (R181) -/

/-- A record that the host retires. -/
def VersionRec.byHost (r : VersionRec) : VersionRec :=
  { r with vstate := if r.vstate = 5 then 5 else 4, hostRetire := true }

/-- A record under a retirement of named versions. -/
def VersionRec.retireNamed (vs : List Nat) (r : VersionRec) : VersionRec := if r.version ∈ vs then r.byHost else r

@[simp] theorem VersionRec.byHost_bound (r : VersionRec) : r.byHost.bound = r.bound := rfl

theorem VersionRec.byHost_resident {r : VersionRec} (h : r.vstate = 2) : r.byHost.vstate = 4 := by simp [VersionRec.byHost, h]

theorem VersionRec.byHost_notLoading (r : VersionRec) : r.byHost.vstate ≠ 1 := by
  simp only [VersionRec.byHost]
  split <;> decide

theorem VersionRec.byHost_byHost (r : VersionRec) : r.byHost.byHost = r.byHost := by
  by_cases h : r.vstate = 5 <;> simp [VersionRec.byHost, h]

theorem VersionRec.byHostAt_version (v : Nat) (r : VersionRec) : (VersionRec.atVersion v VersionRec.byHost r).version = r.version := by
  unfold VersionRec.atVersion
  split <;> rfl

theorem VersionRec.retireNamed_version (vs : List Nat) (r : VersionRec) : (r.retireNamed vs).version = r.version := by
  unfold VersionRec.retireNamed
  split <;> rfl

theorem VersionRec.retireNamed_nil : VersionRec.retireNamed [] = id := by
  funext r
  exact if_neg List.not_mem_nil

theorem VersionRec.retireNamed_mem {vs : List Nat} {r : VersionRec} (h : r.version ∈ vs) : r.retireNamed vs = r.byHost := if_pos h

/-- One version is retired, then the rest. -/
theorem VersionRec.retireNamed_cons (v : Nat) (vs : List Nat) :
    VersionRec.retireNamed vs ∘ VersionRec.atVersion v VersionRec.byHost = VersionRec.retireNamed (v :: vs) := by
  funext r
  simp only [Function.comp_apply, VersionRec.atVersion, VersionRec.retireNamed, List.mem_cons, beq_iff_eq]
  by_cases hv : r.version = v <;> by_cases hvs : r.version ∈ vs <;> simp [hv, hvs, VersionRec.byHost_byHost]

/-- A version that a request is bound to, and that is not LOADING: its retirement neither cancels a copy nor empties the record. -/
def VersionRec.inUse (r : VersionRec) : Prop := r.vstate ≠ 1 ∧ r.bound ≠ 0

section
variable {e : Engine} {a : Nat} {x : Addition}

/-- A version in use is RETIRING, and stays. -/
theorem Engine.retireRecord_inUse (hx : e.addition? a = some x) {v : Nat} {r : VersionRec} (hr : x.record? v = some r) (huse : r.inUse) :
    (e.retireRecord a v true).addition? a = some (x.mapRecords (VersionRec.atVersion v VersionRec.byHost)) ∧
      (e.retireRecord a v true).hru = e.hru := by
  obtain ⟨hloading, hbound⟩ := huse
  have hmod : (e.modRecord a v fun r => { r with vstate := if r.vstate = 5 then 5 else 4, hostRetire := r.hostRetire || true }) =
      e.modRecord a v VersionRec.byHost := by
    simp only [Bool.or_true]
    rfl
  have hadd : (e.modRecord a v VersionRec.byHost).wakeAll.addition? a = some (x.mapRecords (VersionRec.atVersion v VersionRec.byHost)) := by
    refine (Engine.addition?_congr (congrArg Var.additions (Engine.wake_pageWork _ _).var_eq) a).trans ?_
    rw [Engine.addition?_modRecord_self, hx, Option.map_some]
  have hrec : (e.modRecord a v VersionRec.byHost).wakeAll.record? a v = some r.byHost := by
    have hversion : r.version = v := by simpa using List.find?_some hr
    rw [Engine.record?_eq hadd, Addition.record?_mapRecords (VersionRec.byHostAt_version v), hr, Option.map_some, VersionRec.atVersion,
      if_pos (by simp [hversion])]
  have hrun : e.retireRecord a v true = (e.modRecord a v VersionRec.byHost).wakeAll := by
    simp only [Engine.retireRecord, Engine.record?_eq hx, hr, if_neg hloading, hmod, Engine.settleRecord, hrec]
    rw [if_pos (by simp [hbound])]
  rw [hrun]
  exact ⟨hadd, (Engine.wake_stores _ _).hru_eq.trans (e.modRecord_stores _ _ _).hru_eq⟩

/-- Versions in use are retired one after another. -/
theorem Engine.retireRecords_inUse (vs : List Nat) (hx : e.addition? a = some x)
    (huse : ∀ v ∈ vs, ∃ r, x.record? v = some r ∧ r.inUse) :
    (vs.foldl (fun e v => e.retireRecord a v true) e).addition? a = some (x.mapRecords (VersionRec.retireNamed vs)) ∧
      (vs.foldl (fun e v => e.retireRecord a v true) e).hru = e.hru := by
  induction vs generalizing e x with
  | nil =>
    rw [VersionRec.retireNamed_nil, Addition.mapRecords_id]
    exact ⟨hx, rfl⟩
  | cons v vs ih =>
    obtain ⟨⟨r, hr, hruse⟩, hrest⟩ := List.forall_mem_cons.1 huse
    obtain ⟨hadd, hhru⟩ := Engine.retireRecord_inUse hx hr hruse
    have hkept : ∀ r : VersionRec, r.inUse → (VersionRec.atVersion v VersionRec.byHost r).inUse := fun r hr => by
      unfold VersionRec.atVersion
      split
      · exact ⟨r.byHost_notLoading, hr.2⟩
      · exact hr
    obtain ⟨hdone, hhru2⟩ := ih hadd fun w hw => by
      obtain ⟨r, hr, hruse⟩ := hrest w hw
      exact ⟨_, by rw [Addition.record?_mapRecords (VersionRec.byHostAt_version v), hr, Option.map_some], hkept r hruse⟩
    rw [Addition.mapRecords_comp, VersionRec.retireNamed_cons] at hdone
    exact ⟨hdone, hhru2.trans hhru⟩

/-- The entry with CURRENT no longer valid where it is named, and the descriptor that waits for the named versions. -/
theorem Engine.clearCurrent_addition? (hx : e.addition? a = some x) (vs : List Nat) :
    ∃ y, (e.clearCurrent a vs).addition? a = some y ∧ y.records = x.records ∧ (e.clearCurrent a vs).hru = e.hru := by
  simp only [Engine.clearCurrent, hx]
  split
  · exact ⟨_, Engine.addition?_putAddition_self _ _ _, rfl, rfl⟩
  · exact ⟨x, hx, rfl, rfl⟩

/-- The versions in use that are named are RETIRING by the host; the burst that follows may move slots. -/
theorem Engine.retireVersions_inUse (hx : e.addition? a = some x) {vs : List Nat} (huse : ∀ v ∈ vs, ∃ r, x.record? v = some r ∧ r.inUse)
    (ring pos : Nat) : ∃ y, (e.retireVersions a vs (some (ring, pos))).addition? a = some y ∧
      (∃ g : VersionRec → VersionRec, (∀ r : VersionRec, r.moved (g r)) ∧ y.records = (x.records.map (VersionRec.retireNamed vs)).map g) ∧
      (e.retireVersions a vs (some (ring, pos))).hru = e.hru := by
  obtain ⟨y, hy, hrecords, hhru⟩ := Engine.clearCurrent_addition? hx vs
  have huse' : ∀ v ∈ vs, ∃ r, ({ y with retires := y.retires ++ [(ring, pos, vs)] } : Addition).record? v = some r ∧ r.inUse := by
    simpa only [Addition.record?, hrecords] using huse
  simp only [Engine.retireVersions, hy]
  generalize e.clearCurrent a vs = e1 at hy hhru
  have hput : (e1.putAddition a { y with retires := y.retires ++ [(ring, pos, vs)] }).addition? a = some _ :=
    Engine.addition?_putAddition_self _ _ _
  obtain ⟨hadd, hhru2⟩ := Engine.retireRecords_inUse vs hput huse'
  generalize vs.foldl (fun e v => e.retireRecord a v true) (e1.putAddition a { y with retires := y.retires ++ [(ring, pos, vs)] }) = e2
    at hadd hhru2
  obtain ⟨g, hg, hburst⟩ := (Engine.nextLoadBurst_upkeep e2).addition hadd
  refine ⟨_, hburst, ⟨g, hg, ?_⟩, e2.nextLoadBurst_stores.hru_eq.trans (hhru2.trans hhru)⟩
  simp only [Addition.mapRecords, hrecords]

end

section
variable {s : State} {i : BitVec 12} {d : Staged} {x : Addition}

/-- The versions that an ADDITION_RETIRE of an entry names. -/
def Staged.retired (d : Staged) (x : Addition) : List Nat := if d.f 19 0 1 = 1 then x.records.map (·.version) else [d.f 18 0 8]

/-- An ADDITION_RETIRE of all versions, or of one that is neither RETIRING nor FAILED, retires what it names. -/
theorem exec_additionRetires (hs : s.receives Isl.pg) (hd : s.eng.decodes i.toNat d 0x11) (hx : s.eng.addition? (d.f 16 0 16) = some x)
    (hvalid : x.valid = true)
    (hnamed : d.f 19 0 1 = 1 ∨ ∃ r ∈ x.records, r.version = d.f 18 0 8 ∧ r.vstate ≠ 4 ∧ r.vstate ≠ 5) :
    exec (.additionRetire i) s = .next { s with
      eng := ((s.removing d).retireVersions (d.f 16 0 16) (d.retired x) (some (d.ring, d.pos))).finishClose i.toNat } := by
  obtain ⟨hnext, hop, hck⟩ := hd
  have hheld : (s.seen.addition? (d.f 16 0 16)).filter (·.valid) = some x := by
    rw [show s.seen.addition? (d.f 16 0 16) = some x from hx, Option.filter_some, if_pos hvalid]
  rw [exec_additionRetire hs, Engine.decode_passed (e := s.seen) (isRow := fun d => d.opcode == 0x11)
    (f := Engine.additionRetireDesc) hnext (by simp [hop]) hck]
  simp only [Engine.additionRetireDesc, hheld, Staged.retired]
  split
  · rfl
  · next hone =>
    obtain ⟨r, hr, hversion, hretiring, hfailed⟩ := hnamed.resolve_left hone
    rw [if_pos (List.any_eq_true.2 ⟨r, hr, by simp [hversion, hretiring, hfailed]⟩)]
    rfl

/-- Versions in use that an ADDITION_RETIRE names are RETIRING by the host, and the descriptor waits. -/
theorem additionRetire_waits (hs : s.receives Isl.pg) (hd : s.eng.decodes i.toNat d 0x11) (hx : s.eng.addition? (d.f 16 0 16) = some x)
    (hvalid : x.valid = true)
    (hnamed : d.f 19 0 1 = 1 ∨ ∃ r ∈ x.records, r.version = d.f 18 0 8 ∧ r.vstate ≠ 4 ∧ r.vstate ≠ 5)
    (huse : ∀ v ∈ d.retired x, ∃ r, x.record? v = some r ∧ r.inUse) :
    ∃ t y, exec (.additionRetire i) s = .next t ∧ t.eng.addition? (d.f 16 0 16) = some y ∧
      (∃ g : VersionRec → VersionRec, (∀ r : VersionRec, r.moved (g r)) ∧
        y.records = (x.records.map (VersionRec.retireNamed (d.retired x))).map g) ∧
      t.eng.staged? d.ring d.pos = some { d with phase := .waiting } := by
  obtain ⟨hst, -, -, hvar⟩ := State.removing_spec hd.1
  obtain ⟨y, hy, hrecords, hhru⟩ := Engine.retireVersions_inUse ((Engine.addition?_congr (congrArg Var.additions hvar) _).trans hx) huse
    d.ring d.pos
  have hrun := exec_additionRetires hs hd hx hvalid hnamed
  generalize (s.removing d).retireVersions (d.f 16 0 16) (d.retired x) (some (d.ring, d.pos)) = z at hy hhru hrun
  have hclosed := (z.finishClose_ackOnly i.toNat).var_eq
  have hclose := (z.finishClose_spec i.toNat).1
  refine ⟨_, y, hrun, (Engine.addition?_congr (congrArg Var.additions hclosed) _).trans hy, hrecords, ?_⟩
  dsimp only
  rw [hclose.staged?_eq, Engine.staged?, hhru]
  exact hst

/-- The version named is RETIRING while requests are bound to it. -/
theorem additionRetire_one (hs : s.receives Isl.pg) (hd : s.eng.decodes i.toNat d 0x11) (hx : s.eng.addition? (d.f 16 0 16) = some x)
    (hvalid : x.valid = true) {r : VersionRec} (hone : d.f 19 0 1 = 0) (hr : s.eng.record? (d.f 16 0 16) (d.f 18 0 8) = some r)
    (hresident : r.vstate = 2) (hbound : r.bound ≠ 0) :
    ∃ t r', exec (.additionRetire i) s = .next t ∧ t.eng.record? (d.f 16 0 16) (d.f 18 0 8) = some r' ∧ r'.vstate = 4 ∧
      r'.hostRetire = true ∧ r'.bound = r.bound ∧ t.eng.staged? d.ring d.pos = some { d with phase := .waiting } := by
  rw [Engine.record?_eq hx] at hr
  have hversion : r.version = d.f 18 0 8 := by simpa using List.find?_some hr
  have hvs : d.retired x = [d.f 18 0 8] := if_neg (by rw [hone]; decide)
  obtain ⟨t, y, hrun, hy, ⟨g, hg, hrecords⟩, hst⟩ := additionRetire_waits hs hd hx hvalid
    (.inr ⟨r, List.mem_of_find?_eq_some hr, hversion, by rw [hresident]; decide, by rw [hresident]; decide⟩) fun v hv => by
      rw [hvs, List.mem_singleton] at hv
      exact ⟨r, by rw [hv]; exact hr, by rw [hresident]; decide, hbound⟩
  have hmoved := hg r.byHost
  have hnamed : r.version ∈ d.retired x := by rw [hvs, hversion]; exact List.mem_singleton_self _
  refine ⟨t, g r.byHost, hrun, ?_, hmoved.2 (VersionRec.byHost_resident hresident), hmoved.hostRetire_eq, hmoved.bound_eq, hst⟩
  have hfound : y.record? (d.f 18 0 8) = ((x.mapRecords (VersionRec.retireNamed (d.retired x))).mapRecords g).record? (d.f 18 0 8) := by
    rw [Addition.record?, hrecords]
    rfl
  rw [Engine.record?_eq hy, hfound, Addition.record?_mapRecords fun r => (hg r).version_eq,
    Addition.record?_mapRecords (VersionRec.retireNamed_version _), hr, Option.map_some, Option.map_some,
    VersionRec.retireNamed_mem hnamed]

/-- With ALL_VERSIONS, every version is RETIRING while requests are bound to each. -/
theorem additionRetire_all (hs : s.receives Isl.pg) (hd : s.eng.decodes i.toNat d 0x11) (hx : s.eng.addition? (d.f 16 0 16) = some x)
    (hvalid : x.valid = true) (hall : d.f 19 0 1 = 1) (huse : ∀ r ∈ x.records, r.vstate = 2 ∧ r.bound ≠ 0) :
    ∃ t y, exec (.additionRetire i) s = .next t ∧ t.eng.addition? (d.f 16 0 16) = some y ∧
      y.records.map (·.version) = x.records.map (·.version) ∧ (∀ r ∈ y.records, r.vstate = 4 ∧ r.hostRetire = true) ∧
      t.eng.staged? d.ring d.pos = some { d with phase := .waiting } := by
  have hvs : d.retired x = x.records.map (·.version) := if_pos hall
  obtain ⟨t, y, hrun, hy, ⟨g, hg, hrecords⟩, hst⟩ := additionRetire_waits hs hd hx hvalid (.inl hall) fun v hv => by
    rw [hvs, List.mem_map] at hv
    obtain ⟨r, hr, rfl⟩ := hv
    obtain ⟨r', hr'⟩ := Option.isSome_iff_exists.1 (List.find?_isSome.2 ⟨r, hr, beq_self_eq_true _⟩ :
      (x.record? r.version).isSome = true)
    obtain ⟨hresident, hbound⟩ := huse r' (List.mem_of_find?_eq_some hr')
    exact ⟨r', hr', by rw [hresident]; decide, hbound⟩
  refine ⟨t, y, hrun, hy, ?_, ?_, hst⟩
  · rw [hrecords]
    exact ((x.mapRecords _).versions_mapRecords fun r => (hg r).version_eq).trans
      (x.versions_mapRecords (VersionRec.retireNamed_version _))
  · rw [hrecords]
    simp only [List.mem_map]
    rintro _ ⟨_, ⟨r, hr, rfl⟩, rfl⟩
    have hnamed : r.version ∈ d.retired x := by rw [hvs]; exact List.mem_map_of_mem hr
    rw [VersionRec.retireNamed_mem hnamed]
    have hmoved := hg r.byHost
    exact ⟨hmoved.2 (VersionRec.byHost_resident (huse r hr).1), hmoved.hostRetire_eq⟩

end

/-! ### READY prefixes (R186, and R187 with log entry 51) -/

section
variable {e : Engine} {p : Nat} {x : PrefixRec}

/-- Does a SUBMIT not yet decided name the PREFIX (Table 7.7)? -/
def Engine.names (e : Engine) (p : Nat) : Bool := e.rafter.any fun y => y.2.state == .admitting && y.2.pfxValid && y.2.pfx == p

/-- The engine with a PREFIX record RETIRING, and the replicas told. -/
def Engine.prefixRetiring (e : Engine) (p : Nat) (x : PrefixRec) (ack : Option (Nat × Nat)) : Engine :=
  ({ e with var := { e.var with prefixes := Table.put e.var.prefixes p { x with state := 3, ack := ack } } } : Engine).opsPrefix p x.family 3

theorem Engine.retirePrefix_ready (hx : Table.get? e.var.prefixes p = some x) (hready : x.state = 2) (ack : Option (Nat × Nat)) :
    e.retirePrefix p ack = ((e.prefixRetiring p x ack).settlePrefix p).nextLoadBurst := by
  have hloading : ¬ x.state = 1 := by rw [hready]; decide
  simp only [Engine.retirePrefix, hx, if_neg hloading]
  rfl

theorem Engine.prefixRetiring_spec (e : Engine) (p : Nat) (x : PrefixRec) (ack : Option (Nat × Nat)) :
    Stores e (e.prefixRetiring p x ack) ∧
      Table.get? (e.prefixRetiring p x ack).var.prefixes p = some { x with state := 3, ack := ack } := by
  have hops := Engine.opsPrefix_pageWork ({ e with var := { e.var with
    prefixes := Table.put e.var.prefixes p { x with state := 3, ack := ack } } } : Engine) p x.family 3
  refine ⟨Stores.trans (.of_eq rfl rfl) hops.stores, ?_⟩
  rw [Engine.prefixRetiring, hops.var_eq]
  exact Table.get?_put_self _ _ _

/-- One in use stays as it is. -/
theorem Engine.settlePrefix_inUse (hx : Table.get? e.var.prefixes p = some x) (h : x.bound ≠ 0 ∨ e.names p = true) :
    e.settlePrefix p = e := by
  simp only [Engine.settlePrefix, hx]
  refine if_pos ?_
  rcases h with h | h
  · simp [h]
  · simp [show (e.rafter.any fun y => y.2.state == .admitting && y.2.pfxValid && y.2.pfx == p) = true from h]

/-- The engine without a PREFIX: its record and its holders gone, its pages no longer counted. -/
def Engine.forgetPrefix (e : Engine) (p : Nat) (x : PrefixRec) : Engine :=
  (x.pages.foldl Engine.dropHolder (({ e with var := { e.var with prefixes := Table.del e.var.prefixes p } } : Engine).opsPrefix p
    x.family 0)).addPheld x.tenant (ceilDiv x.tokens 32) false

theorem Engine.settlePrefix_unused (hx : Table.get? e.var.prefixes p = some x) (hretiring : x.state = 3) (hbound : x.bound = 0)
    (hnames : e.names p = false) : e.settlePrefix p = (e.forgetPrefix p x).ackAt x.ack Status.ok := by
  simp only [Engine.settlePrefix, hx]
  refine if_neg ?_
  simp [hretiring, hbound, show (e.rafter.any fun y => y.2.state == .admitting && y.2.pfxValid && y.2.pfx == p) = false from hnames]

theorem Engine.dropHolder_pageWork (e : Engine) (q : Nat) : PageWork e (e.dropHolder q) :=
  (e.putPage_pageWork _ _).trans (Engine.settle_pageWork _ _)

theorem Engine.forgetPrefix_spec (e : Engine) (p : Nat) (x : PrefixRec) :
    Stores e (e.forgetPrefix p x) ∧ Table.get? (e.forgetPrefix p x).var.prefixes p = none := by
  have hops := Engine.opsPrefix_pageWork ({ e with var := { e.var with prefixes := Table.del e.var.prefixes p } } : Engine) p x.family 0
  have hwork := hops.trans (.foldl Engine.dropHolder_pageWork x.pages _)
  refine ⟨(Stores.trans (.of_eq rfl rfl) hwork.stores).trans (Engine.addPheld_stores _ _ _ _), ?_⟩
  rw [Engine.forgetPrefix, Engine.addPheld, hwork.var_eq]
  exact Table.get?_del_self _ _

/-- A READY PREFIX in use is RETIRING. -/
theorem Engine.retirePrefix_inUse (hx : Table.get? e.var.prefixes p = some x) (hready : x.state = 2)
    (h : x.bound ≠ 0 ∨ e.names p = true) (ack : Option (Nat × Nat)) :
    Table.get? (e.retirePrefix p ack).var.prefixes p = some { x with state := 3, ack := ack } ∧ (e.retirePrefix p ack).hru = e.hru := by
  obtain ⟨hstores, hrec⟩ := e.prefixRetiring_spec p x ack
  have huse : x.bound ≠ 0 ∨ (e.prefixRetiring p x ack).names p = true := by
    rw [Engine.names, hstores.rafter_eq]
    exact h
  rw [Engine.retirePrefix_ready hx hready, Engine.settlePrefix_inUse hrec huse, (Engine.nextLoadBurst_upkeep _).prefixes]
  exact ⟨hrec, (Engine.nextLoadBurst_stores _).hru_eq.trans hstores.hru_eq⟩

/-- A READY PREFIX that nothing uses is gone, and its descriptor acknowledged. -/
theorem Engine.retirePrefix_unused {d : Staged} (hx : Table.get? e.var.prefixes p = some x) (hready : x.state = 2) (hbound : x.bound = 0)
    (hnames : e.names p = false) (hopen : e.ringOpen (e.ackRingOf d)) (hst : e.staged? d.ring d.pos = some { d with phase := .waiting }) :
    Table.get? (e.retirePrefix p (some (d.ring, d.pos))).var.prefixes p = none ∧
      e.acked (e.retirePrefix p (some (d.ring, d.pos))) d Status.ok 0 := by
  obtain ⟨hstores, hrec⟩ := e.prefixRetiring_spec p x (some (d.ring, d.pos))
  rw [Engine.retirePrefix_ready hx hready]
  generalize e.prefixRetiring p x (some (d.ring, d.pos)) = e1 at hstores hrec
  have hnames1 : e1.names p = false := by
    rw [Engine.names, hstores.rafter_eq]
    exact hnames
  rw [Engine.settlePrefix_unused hrec rfl hbound hnames1]
  obtain ⟨hforget, hnone⟩ := e1.forgetPrefix_spec p { x with state := 3, ack := some (d.ring, d.pos) }
  generalize e1.forgetPrefix p { x with state := 3, ack := some (d.ring, d.pos) } = e2 at hforget hnone
  have hst2 : e2.staged? d.ring d.pos = some { d with phase := .waiting, reads := d.reads } := by
    rw [Engine.staged?, hforget.hru_eq, hstores.hru_eq]
    exact hst
  have hacked := (hstores.trans hforget).alike.ackAt hopen hst2 Status.ok
  have hvar := (e2.ackAt_ackOnly (some (d.ring, d.pos)) Status.ok).var_eq
  generalize e2.ackAt (some (d.ring, d.pos)) Status.ok = e3 at hacked hvar
  refine ⟨?_, hacked.afterWork e3.nextLoadBurst_versionWork⟩
  rw [e3.nextLoadBurst_upkeep.prefixes, hvar]
  exact hnone

end

section
variable {s : State} {i : BitVec 12} {d : Staged} {x : PrefixRec}

theorem exec_prefixRetires (hs : s.receives Isl.pg) (hd : s.eng.decodes i.toNat d 0x12) (htokens : d.f 32 0 32 = 0)
    (hx : Table.get? s.eng.var.prefixes (d.f 16 0 20) = some x) (hready : x.state = 2) :
    exec (.prefixRetire i) s = .next { s with
      eng := ((s.removing d).retirePrefix (d.f 16 0 20) (some (d.ring, d.pos))).finishClose i.toNat } := by
  obtain ⟨hnext, hop, hck⟩ := hd
  rw [exec_prefixRetire hs, Engine.decode_passed (e := s.seen) (isRow := fun d => d.opcode == 0x12 && d.f 32 0 32 == 0)
    (f := Engine.prefixRetireDesc) hnext (by simp [hop, htokens]) hck, Engine.prefixRetireDesc]
  have hstate : (Table.get? s.seen.var.prefixes (d.f 16 0 20)).map (·.state) = some 2 := by
    rw [show Table.get? s.seen.var.prefixes (d.f 16 0 20) = some x from hx, Option.map_some, hready]
  exact congrArg (fun e : Engine => Host.Outcome.next { s with eng := e.finishClose i.toNat }) (if_pos hstate)

/-- A PREFIX in use is RETIRING, and the descriptor waits. -/
theorem prefixRetire_waits (hs : s.receives Isl.pg) (hd : s.eng.decodes i.toNat d 0x12) (htokens : d.f 32 0 32 = 0)
    (hx : Table.get? s.eng.var.prefixes (d.f 16 0 20) = some x) (hready : x.state = 2)
    (huse : x.bound ≠ 0 ∨ s.eng.names (d.f 16 0 20) = true) :
    ∃ t, exec (.prefixRetire i) s = .next t ∧
      Table.get? t.eng.var.prefixes (d.f 16 0 20) = some { x with state := 3, ack := some (d.ring, d.pos) } ∧
      t.eng.staged? d.ring d.pos = some { d with phase := .waiting } := by
  obtain ⟨hst, -, -, -⟩ := State.removing_spec hd.1
  obtain ⟨hrec, hhru⟩ := Engine.retirePrefix_inUse (e := s.removing d) hx hready huse (some (d.ring, d.pos))
  have hrun := exec_prefixRetires hs hd htokens hx hready
  generalize (s.removing d).retirePrefix (d.f 16 0 20) (some (d.ring, d.pos)) = z at hrec hhru hrun
  have hclosed := (z.finishClose_ackOnly i.toNat).var_eq
  have hclose := (z.finishClose_spec i.toNat).1
  refine ⟨_, hrun, ?_, ?_⟩
  · dsimp only
    rw [hclosed]
    exact hrec
  · dsimp only
    rw [hclose.staged?_eq, Engine.staged?, hhru]
    exact hst

/-- A PREFIX that nothing uses is removed at once. -/
theorem prefixRetire_atOnce (hs : s.receives Isl.pg) (hd : s.eng.decodes i.toNat d 0x12) (htokens : d.f 32 0 32 = 0)
    (hx : Table.get? s.eng.var.prefixes (d.f 16 0 20) = some x) (hready : x.state = 2) (hbound : x.bound = 0)
    (hnames : s.eng.names (d.f 16 0 20) = false) (hopen : s.eng.ringOpen (s.eng.ackRingOf d)) :
    ∃ t, exec (.prefixRetire i) s = .next t ∧ Table.get? t.eng.var.prefixes (d.f 16 0 20) = none ∧
      s.eng.acked t.eng d Status.ok 0 := by
  obtain ⟨hst, halike, -, -⟩ := State.removing_spec hd.1
  obtain ⟨hnone, hacked⟩ := Engine.retirePrefix_unused (e := s.removing d) hx hready hbound hnames (halike.ackRingOpen hopen) hst
  have hrun := exec_prefixRetires hs hd htokens hx hready
  generalize (s.removing d).retirePrefix (d.f 16 0 20) (some (d.ring, d.pos)) = z at hnone hacked hrun
  have hclose := z.finishClose_ackOnly i.toNat
  refine ⟨_, hrun, ?_, halike.acked (hacked.after hclose)⟩
  dsimp only
  rw [hclose.var_eq]
  exact hnone

/-- A PREFIX is named where some entry in ADMITTING names it. -/
theorem Engine.names_iff {e : Engine} {p : Nat} :
    e.names p = true ↔ ∃ y ∈ e.rafter, y.2.state = .admitting ∧ y.2.pfxValid = true ∧ y.2.pfx = p := by
  simp only [Engine.names, List.any_eq_true, Bool.and_eq_true, beq_iff_eq, and_assoc]

end

/-- Settles O38: each load by the record it opens, each retirement by what still uses its object. -/
theorem additionsAndPrefixes : Obligations.AdditionsAndPrefixes := by
  unfold Obligations.AdditionsAndPrefixes
  refine ⟨fun s i d slot e' hs hd hcheck hplace hwanted => additionLoad_opens hs hd hcheck hplace hwanted, ?_,
    fun s i d ps e' hs hd htokens hfamily htenant hquota hfresh hroom hpages =>
      prefixLoad_opens hs hd htokens ⟨hfamily, htenant, hquota, hfresh, hroom⟩ hpages, ?_⟩
  · intro s i d x hs hd hx hvalid
    exact ⟨fun r hone hr hresident hbound => additionRetire_one hs hd hx hvalid hone hr hresident hbound,
      fun hall huse => additionRetire_all hs hd hx hvalid hall huse⟩
  · intro s i d x hs hd htokens hx hready
    refine ⟨fun huse => prefixRetire_waits hs hd htokens hx hready (huse.imp_right Engine.names_iff.2), fun hbound hnone hopen => ?_⟩
    refine prefixRetire_atOnce hs hd htokens hx hready hbound ?_ hopen
    rw [← Bool.not_eq_true, Engine.names_iff]
    exact fun ⟨y, hy, hnamed⟩ => hnone y hy hnamed

end Sys2Proof.Machine
end

section
/-!
# Folding in any order

What one scored token leaves of a draw's context, and why two of them may come in either order (R193, R200, R201, R202).
-/

namespace Sys2Proof.Machine

/-! ### The order of candidates (R200) -/

section
variable {a b c : BitVec 32 × Nat}

/-- Of two scores that are no NaN the greater wins, and of two equal ones the lower token. -/
theorem beats_iff (ha : isNan a.1 = false) (hb : isNan b.1 = false) :
    beats a b = true ↔ keyF b.1 < keyF a.1 ∨ keyF b.1 = keyF a.1 ∧ a.2 < b.2 := by
  simp [beats, ltF, eqF, ha, hb]

theorem beats_trans (ha : isNan a.1 = false) (hb : isNan b.1 = false) (hc : isNan c.1 = false) (hab : beats a b = true)
    (hbc : beats b c = true) : beats a c = true := by
  rw [beats_iff ha hb] at hab
  rw [beats_iff hb hc] at hbc
  rw [beats_iff ha hc]
  omega

/-- Of two candidates with different tokens exactly one wins. -/
theorem beats_swap (ha : isNan a.1 = false) (hb : isNan b.1 = false) (hne : a.2 ≠ b.2) : beats b a = !beats a b := by
  have hone : beats b a = true ↔ ¬ beats a b = true := by
    rw [beats_iff ha hb, beats_iff hb ha]
    omega
  rw [Bool.eq_iff_iff, hone, Bool.not_eq_true, Bool.not_eq_true']

end

/-! ### HEAP (R200, R201) -/

section
variable {α : Type} {before : α → α → Bool}

/-- Only the first n elements decide the first n after an insertion. -/
theorem take_insertBy_take (x : α) (n : Nat) (l : List α) : (insertBy before x (l.take n)).take n = (insertBy before x l).take n := by
  induction l generalizing n with
  | nil => rw [List.take_nil]
  | cons y ys ih =>
    cases n with
    | zero => rfl
    | succ n =>
      rw [List.take_succ_cons, insertBy, insertBy]
      split
      · rw [List.take_succ_cons, List.take_succ_cons, ← List.take_succ_cons (as := ys), List.take_take, Nat.min_eq_left n.le_succ]
      · rw [List.take_succ_cons, List.take_succ_cons, ih]

/-- Two elements of which exactly one stands before the other are inserted in either order. -/
theorem insertBy_comm {x y : α} (hswap : before y x = !before x y) {l : List α}
    (hxy : ∀ z ∈ l, before x y = true → before y z = true → before x z = true)
    (hyx : ∀ z ∈ l, before y x = true → before x z = true → before y z = true) :
    insertBy before x (insertBy before y l) = insertBy before y (insertBy before x l) := by
  induction l with
  | nil => cases h : before x y <;> simp [insertBy, hswap, h]
  | cons z zs ih =>
    obtain ⟨hxyz, hxys⟩ := List.forall_mem_cons.1 hxy
    obtain ⟨hyxz, hyxs⟩ := List.forall_mem_cons.1 hyx
    cases hx : before x z <;> cases hy : before y z
    · simp [insertBy, hx, hy, ih hxys hyxs]
    · have hno : before x y = false := by
        rw [← Bool.not_eq_true]
        exact fun h => by simpa [hx] using hxyz h hy
      simp [insertBy, hx, hy, hno]
    · have hno : before y x = false := by
        rw [← Bool.not_eq_true]
        exact fun h => by simpa [hy] using hyxz h hx
      simp [insertBy, hx, hy, hno]
    · cases h : before x y <;> simp [insertBy, hx, hy, hswap, h]

end

/-- Two entries enter HEAP in either order. -/
theorem heapAdd_comm {a b : BitVec 32 × Nat} {h : List (BitVec 32 × Nat)} (ha : isNan a.1 = false) (hb : isNan b.1 = false)
    (hne : a.2 ≠ b.2) (hh : ∀ x ∈ h, isNan x.1 = false) : heapAdd (heapAdd h a) b = heapAdd (heapAdd h b) a := by
  simp only [heapAdd, take_insertBy_take]
  rw [insertBy_comm (beats_swap hb ha hne.symm) (fun z hz => beats_trans hb ha (hh z hz)) fun z hz => beats_trans ha hb (hh z hz)]

/-! ### BEST, SAT and ACC (R193, R201, R202) -/

/-- A candidate of BEST: its y and token, and its q. -/
abbrev Candidate : Type := (BitVec 32 × Nat) × BitVec 32

/-- The candidate that stays in BEST. -/
def Candidate.pick (a b : Candidate) : Candidate := if beats b.1 a.1 then b else a

/-- Of three candidates the same one stays whichever of the last two comes first. -/
theorem Candidate.pick_comm {a b c : Candidate} (ha : isNan a.1.1 = false) (hb : isNan b.1.1 = false) (hc : isNan c.1.1 = false)
    (hbc : b.1.2 ≠ c.1.2) : (a.pick b).pick c = (a.pick c).pick b := by
  have hswap := beats_swap hb hc hbc
  unfold Candidate.pick
  cases hba : beats b.1 a.1 <;> cases hca : beats c.1 a.1
  · simp [hba, hca]
  · have hno : beats b.1 c.1 = false := by
      rw [← Bool.not_eq_true]
      exact fun h => by simpa [hba] using beats_trans hb hc ha h hca
    simp [hca, hno]
  · have hno : beats c.1 b.1 = false := by
      rw [← Bool.not_eq_true]
      exact fun h => by simpa [hca] using beats_trans hc hb ha h hba
    simp [hba, hno]
  · cases h : beats b.1 c.1 <;> simp [hswap, h]

/-- ACC with the term of a score that does not saturate it. -/
def addTerm (acc : Nat) (q : BitVec 32) : Nat := if saturates (log2Of q) then acc else acc + termOf (log2Of q)

theorem addTerm_comm (acc : Nat) (q r : BitVec 32) : addTerm (addTerm acc q) r = addTerm (addTerm acc r) q := by
  unfold addTerm
  split <;> split <;> omega

/-! ### A context under folding -/

/-- The candidate in BEST. -/
def DrawCtx.best (c : DrawCtx) : Candidate := ((c.bestY, c.bestId), c.bestQ)

/-- A context with other BEST, HEAP, SAT and ACC. -/
def DrawCtx.with_ (c : DrawCtx) (best : Candidate) (heap : List (BitVec 32 × Nat)) (sat : Bool) (acc : Nat) : DrawCtx :=
  { c with bestY := best.1.1, bestId := best.1.2, bestQ := best.2, heap := heap, sat := sat, acc := acc }

/-- A fold changes BEST, HEAP, SAT and ACC, each on its own. -/
theorem DrawCtx.fold_eq (c : DrawCtx) (t : Nat) (q y : BitVec 32) : c.fold t q y =
    c.with_ (c.best.pick ((y, t), q)) (heapAdd c.heap (q, t)) (c.sat || saturates (log2Of q)) (addTerm c.acc q) := by
  unfold DrawCtx.fold DrawCtx.with_ Candidate.pick DrawCtx.best addTerm
  cases beats (y, t) (c.bestY, c.bestId) <;> rfl

/-- Settles O48: each of BEST, HEAP, SAT and ACC takes two tokens in either order. -/
theorem foldsCommute : Obligations.FoldsCommute := by
  unfold Obligations.FoldsCommute
  intro c t1 t2 q1 y1 q2 y2 hne _ _ hbest hq1 hy1 hq2 hy2 hheap _ _
  have hpick := Candidate.pick_comm (a := c.best) (b := ((y1, t1), q1)) (c := ((y2, t2), q2)) hbest hy1 hy2 hne
  have hheaps := heapAdd_comm (a := (q1, t1)) (b := (q2, t2)) hq1 hq2 hne fun x hx => (hheap x hx).1
  have hsat := Bool.or_right_comm c.sat (saturates (log2Of q1)) (saturates (log2Of q2))
  have htwice (t t' : Nat) (q y q' y' : BitVec 32) : (c.fold t q y).fold t' q' y' =
      c.with_ ((c.best.pick ((y, t), q)).pick ((y', t'), q')) (heapAdd (heapAdd c.heap (q, t)) (q', t'))
        (c.sat || saturates (log2Of q) || saturates (log2Of q')) (addTerm (addTerm c.acc q) q') := by
    rw [DrawCtx.fold_eq, DrawCtx.fold_eq]
    rfl
  rw [htwice, htwice, hpick, hheaps, hsat, addTerm_comm]

end Sys2Proof.Machine
end

section
/-!
# A STEP-class error

With no step in compute it is a report and nothing else; a step that can be replayed is aborted and begins again (R266, R269, R338).
-/

namespace Sys2Proof.Machine

/-! ### No step in compute -/

/-- With no step in compute a STEP-class error is only reported (R338). -/
theorem Engine.stepError_idle {e : Engine} (h : e.ylm.current = none) (det : Nat) (courses : List Nat) (detail : Nat)
    (given : Option Bool) : e.stepError det courses detail given = e.report det Cls.step nullHandle detail given := by
  simp [Engine.stepError, Engine.stepAction, h, Engine.stepReport]

/-! ### What each part of an abort leaves -/

/-- Is a counter none of those that an abort's parts move? -/
abbrev replayApart (c : Nat) : Prop := c ≠ Cnt.fltSpare ∧ c ≠ Cnt.sbVacated ∧ c ≠ Cnt.fltAbort ∧ (c < 0x6000 ∨ 0x7000 ≤ c)

/-- What spares, the undo log, fenced and vacated requests, and words sent again leave of an engine. -/
structure ReplayWork (e e' : Engine) : Prop where
  err_eq : e'.err = e.err
  runs_eq : e'.ylm.runs = e.ylm.runs
  ctxs_eq : e'.smp.ctxs = e.smp.ctxs
  nextEmit_eq : e'.smp.nextEmit = e.smp.nextEmit
  replaying_eq : e'.flt.replaying = e.flt.replaying
  count_eq : ∀ c, replayApart c → e'.count c = e.count c

section
variable {e e' e'' : Engine}

theorem ReplayWork.of_eq (herr : e'.err = e.err) (hruns : e'.ylm.runs = e.ylm.runs) (hctxs : e'.smp.ctxs = e.smp.ctxs)
    (hnext : e'.smp.nextEmit = e.smp.nextEmit) (hreplaying : e'.flt.replaying = e.flt.replaying) (hcnt : e'.cnt = e.cnt) :
    ReplayWork e e' := ⟨herr, hruns, hctxs, hnext, hreplaying, fun c _ => Engine.count_congr hcnt c⟩

theorem ReplayWork.refl (e : Engine) : ReplayWork e e := .of_eq rfl rfl rfl rfl rfl rfl

theorem ReplayWork.trans (h : ReplayWork e e') (k : ReplayWork e' e'') : ReplayWork e e'' :=
  ⟨k.err_eq.trans h.err_eq, k.runs_eq.trans h.runs_eq, k.ctxs_eq.trans h.ctxs_eq, k.nextEmit_eq.trans h.nextEmit_eq,
    k.replaying_eq.trans h.replaying_eq, fun c hc => (k.count_eq c hc).trans (h.count_eq c hc)⟩

theorem ReplayWork.foldl {α : Type} {f : Engine → α → Engine} (hf : ∀ e x, ReplayWork e (f e x)) :
    ∀ (l : List α) (e : Engine), ReplayWork e (l.foldl f e)
  | [], e => .refl e
  | x :: l, e => (hf e x).trans (.foldl hf l _)

theorem LogOnly.replayWork (h : LogOnly e e') : ReplayWork e e' := by
  obtain ⟨hrest, -, hcnt⟩ := h
  refine ⟨?_, ?_, ?_, ?_, ?_, fun c hc => hcnt c hc.2.2.2⟩ <;> rw [hrest]

theorem ReplayWork.bumpBy (e : Engine) {c : Nat} (h : ¬ replayApart c) (n : Nat) : ReplayWork e (e.bumpBy c n) := by
  refine ⟨rfl, rfl, rfl, rfl, rfl, fun d hd => ?_⟩
  have hne : d ≠ c := fun hdc => h (hdc ▸ hd)
  simp [Engine.count, Table.getD_put_ne _ _ _ hne]

theorem ReplayWork.log (e : Engine) (code : Nat) (payload : List Nat) : ReplayWork e (e.log code payload) :=
  (e.log_only code payload).replayWork

end

section
variable (e : Engine)

/-! ### Spares (R278) -/

theorem replayApart_spare : ¬ replayApart Cnt.fltSpare := fun h => h.1 rfl

theorem replayApart_vacated : ¬ replayApart Cnt.sbVacated := fun h => h.2.1 rfl

theorem replayApart_abort : ¬ replayApart Cnt.fltAbort := fun h => h.2.2.1 rfl

theorem Engine.spareTaken_replayWork (kind index : Nat) : ReplayWork e (e.spareTaken kind index) := by
  unfold Engine.spareTaken Engine.feed
  have hcounted : ReplayWork e (e.bump Cnt.fltSpare) := .bumpBy e replayApart_spare 1
  refine (hcounted.trans (.log _ Ev.spareSwitch [kind, index])).trans ?_
  exact .of_eq rfl rfl rfl rfl rfl rfl

theorem Engine.spareCores_replayWork : ReplayWork e e.spareCores := by
  unfold Engine.spareCores
  refine .trans ?_ (.foldl (fun e x => ?_) _ _)
  · exact .of_eq rfl rfl rfl rfl rfl rfl
  split
  · exact .refl e
  · refine .trans ?_ (Engine.spareTaken_replayWork _ _ _)
    exact .of_eq rfl rfl rfl rfl rfl rfl

theorem Engine.putLaneGroup_replayWork (g : Nat) (x : LaneGroup) : ReplayWork e (e.putLaneGroup g x) := .of_eq rfl rfl rfl rfl rfl rfl

theorem Engine.spareGroup_replayWork (g : Nat) : ReplayWork e (e.spareGroup g) := by
  unfold Engine.spareGroup
  extract_lets x e1 x1
  have hswitch : ReplayWork e e1 := by
    unfold e1
    split
    · exact .trans (e.putLaneGroup_replayWork g _) (Engine.spareTaken_replayWork _ _ _)
    · exact .refl e
  split
  · exact hswitch.trans (e1.putLaneGroup_replayWork g _)
  · exact hswitch

theorem Engine.putSpar_replayWork (x : Spg) : ReplayWork e { e with spg := x } := .of_eq rfl rfl rfl rfl rfl rfl

theorem Engine.putFlt_replayWork {x : Flt} (h : x.replaying = e.flt.replaying) : ReplayWork e { e with flt := x } :=
  .of_eq rfl rfl rfl rfl h rfl

theorem Engine.spareSpar_replayWork (p : Nat) : ReplayWork e (e.spareSpar p) := by
  unfold Engine.spareSpar
  split
  · exact .refl e
  · dsimp only
    split
    · exact e.putSpar_replayWork _
    · split
      · refine .trans ?_ (.log _ _ _)
        exact e.putSpar_replayWork _
      · refine .trans ?_ (Engine.spareTaken_replayWork _ _ _)
        exact e.putSpar_replayWork _

theorem Engine.sparePort_replayWork (lane : Nat) : ReplayWork e (e.sparePort lane) := by
  unfold Engine.sparePort
  dsimp only
  split
  · refine .trans ?_ (Engine.spareTaken_replayWork _ _ _)
    exact e.putFlt_replayWork rfl
  · exact e.putFlt_replayWork rfl

theorem Engine.spareRow_replayWork (k : Nat) : ReplayWork e (e.spareRow k) := by
  unfold Engine.spareRow
  dsimp only
  split
  · exact .refl e
  · refine .trans (.trans ?_ (.bumpBy _ replayApart_spare 1)) (.log _ _ _)
    exact e.putFlt_replayWork rfl

theorem Engine.switchSpares_replayWork : ReplayWork e e.switchSpares := by
  have hlanes (e : Engine) : ReplayWork e e.spareLanes := .foldl Engine.spareGroup_replayWork _ e
  have hspars (e : Engine) : ReplayWork e e.spareSpars := by
    refine .trans ?_ (.foldl Engine.spareSpar_replayWork e.spg.culprits _)
    exact e.putSpar_replayWork _
  have hports (e : Engine) : ReplayWork e e.sparePorts := by
    refine .trans ?_ (.foldl Engine.sparePort_replayWork e.flt.laneSwitch _)
    exact e.putFlt_replayWork rfl
  have hrows (e : Engine) : ReplayWork e e.spareRows := by
    refine .trans ?_ (.foldl Engine.spareRow_replayWork e.flt.rowsDue _)
    exact e.putFlt_replayWork rfl
  exact (((e.spareCores_replayWork.trans (hlanes _)).trans (hspars _)).trans (hports _)).trans (hrows _)

/-! ### The undo log (R266) -/

theorem Engine.modAny_replayWork (slot : Nat) (f : Rafter → Rafter) : ReplayWork e (e.modAny slot f) := by
  unfold Engine.modAny
  split <;> exact .of_eq rfl rfl rfl rfl rfl rfl

theorem Engine.undoOne_replayWork (u : UndoEntry) : ReplayWork e (e.undoOne u) := by
  cases u with
  | rafter s old => exact e.modAny_replayWork s _
  | _ => exact .of_eq rfl rfl rfl rfl rfl rfl

theorem Engine.applyUndo_replayWork : ReplayWork e e.applyUndo := by
  unfold Engine.applyUndo
  refine .trans (.trans ?_ (.foldl Engine.undoOne_replayWork _ _)) (.foldl (fun e s => e.modAny_replayWork s _) _ _)
  exact e.putFlt_replayWork rfl

/-! ### Members (R269, R271) -/

theorem Engine.fenceRequest_replayWork (slot : Nat) : ReplayWork e (e.fenceRequest slot) := by
  unfold Engine.fenceRequest
  split
  · exact .refl e
  · split
    · exact .refl e
    · exact .of_eq rfl rfl rfl rfl rfl rfl

theorem Engine.journalMembers_replayWork : ReplayWork e e.journalMembers := by
  obtain ⟨j, hj⟩ := e.journalMembers_eq
  rw [hj]
  exact e.putFlt_replayWork rfl

theorem Engine.modReqs_replayWork (ms : List Member) (f : Rafter → Rafter) :
    ReplayWork e (ms.foldl (fun e m => e.modReq m.slot f) e) :=
  .foldl (f := fun e m => e.modReq m.slot f) (fun _ _ => .of_eq rfl rfl rfl rfl rfl rfl) ms e

theorem Engine.vacateMembers_replayWork (y : Yealm) (hit : Member → Bool) : ReplayWork e (e.vacateMembers y hit) := by
  unfold Engine.vacateMembers
  dsimp only
  refine .trans (.trans ?_ (.bumpBy _ replayApart_vacated _)) (Engine.modReqs_replayWork _ _ _)
  refine .trans ?_ (Engine.journalMembers_replayWork _)
  exact .of_eq rfl rfl rfl rfl rfl rfl

theorem Engine.vacateOnReplay_replayWork (y : Yealm) : ReplayWork e (e.vacateOnReplay y) := by
  unfold Engine.vacateOnReplay
  split
  · dsimp only
    split
    · exact e.putFlt_replayWork rfl
    · refine .trans ?_ (Engine.vacateMembers_replayWork _ _ _)
      exact e.putFlt_replayWork rfl
  · exact .refl e

/-! ### What is sent again (R212, R269) -/

theorem Engine.decodeInputs_replayWork (y : Yealm) : ReplayWork e (e.decodeInputs y) := by
  refine .foldl (fun e x => ?_) _ e
  split
  · exact .foldl (f := fun e w => e.emit (.ctl w)) (fun _ _ => .of_eq rfl rfl rfl rfl rfl rfl) _ e
  · exact .refl e

/-! ### The step stops (R269) -/

/-- A halted step has no course begun, no context and nothing emitted; errors and counters stay. -/
theorem Engine.haltStep_halts : e.haltStep.ylm.runs = [] ∧ e.haltStep.smp.ctxs = [] ∧ e.haltStep.smp.nextEmit = 0 ∧
    e.haltStep.err = e.err ∧ e.haltStep.cnt = e.cnt := by
  have hready (e : Engine) : e.releaseGutter.err = e.err ∧ e.releaseGutter.cnt = e.cnt := by
    unfold Engine.releaseGutter
    split <;> exact ⟨rfl, rfl⟩
  unfold Engine.haltStep
  extract_lets e1 e2
  have hleave : e1.err = e.err ∧ e1.cnt = e.cnt := by
    unfold e1
    split <;> exact ⟨rfl, rfl⟩
  obtain ⟨herr, hcnt⟩ := hready (e1.emit .haltTiles)
  exact ⟨rfl, rfl, rfl, herr.trans hleave.1, hcnt.trans hleave.2⟩

end

/-! ### The abort and its replay -/

section
variable {e e' : Engine} {y : Yealm}

/-- The engine once a step's parts are halted, spared and undone, and its members fenced. -/
def Engine.rewound (e : Engine) (y : Yealm) (effect : Bool) (courses : List Nat) : Engine :=
  y.members.foldl (fun e m => e.fenceRequest m.slot) ((((e.countFailure y.step effect courses).haltStep).switchSpares).applyUndo)

/-- The engine with the replay flagged, its failures weighed, and the replay counted and recorded. -/
def Engine.replayBegun (e : Engine) (y : Yealm) : Engine :=
  let e : Engine := { e with flt := { e.flt with replaying := true } }
  ((e.vacateOnReplay y).bump Cnt.fltReplay).log Ev.replay [y.step, e.flt.failCount]

/-- The inputs of the yealm in compute, as it stands, go to the tiles again. -/
def Engine.inputsAgain (e : Engine) : Engine :=
  match e.ylm.current with
  | some y => e.decodeInputs y
  | none => e

theorem Engine.abortStep_eq (h : e.mayReplay y) (effect : Bool) (courses : List Nat) :
    e.abortStep effect courses = (false, (((e.rewound y effect courses).replayBegun y).emitAgain y).inputsAgain) := by
  obtain ⟨hcur, -, hvacate, hsound⟩ := h
  unfold Engine.abortStep
  split
  · rename_i hnone
    rw [hcur] at hnone
    contradiction
  · rename_i y' hcur'
    obtain rfl : y = y' := Option.some.inj (hcur.symm.trans hcur')
    rw [if_neg (by simp [hvacate, hsound])]
    rfl

theorem Engine.rewound_halts (e : Engine) (y : Yealm) (effect : Bool) (courses : List Nat) :
    (e.rewound y effect courses).ylm.runs = [] ∧ (e.rewound y effect courses).smp.ctxs = [] ∧
      (e.rewound y effect courses).smp.nextEmit = 0 ∧ (e.rewound y effect courses).err = e.err ∧
      ∀ c, replayApart c → (e.rewound y effect courses).count c = e.count c := by
  obtain ⟨hruns, hctxs, hnext, herr, hcnt⟩ := (e.countFailure y.step effect courses).haltStep_halts
  have hwork : ReplayWork (e.countFailure y.step effect courses).haltStep (e.rewound y effect courses) :=
    ((Engine.switchSpares_replayWork _).trans (Engine.applyUndo_replayWork _)).trans
      (.foldl (fun e m => e.fenceRequest_replayWork m.slot) y.members _)
  exact ⟨hwork.runs_eq.trans hruns, hwork.ctxs_eq.trans hctxs, hwork.nextEmit_eq.trans hnext, hwork.err_eq.trans herr,
    fun c hc => (hwork.count_eq c hc).trans (Engine.count_congr hcnt c)⟩

theorem Engine.replayBegun_replays (e : Engine) (y : Yealm) :
    (e.replayBegun y).flt.replaying = true ∧ (e.replayBegun y).ylm.runs = e.ylm.runs ∧ (e.replayBegun y).smp.ctxs = e.smp.ctxs ∧
      (e.replayBegun y).smp.nextEmit = e.smp.nextEmit ∧ (e.replayBegun y).err = e.err ∧
      (e.replayBegun y).count Cnt.fltReplay = e.count Cnt.fltReplay + 1#32 ∧
      ∀ c, replayApart c → c ≠ Cnt.fltReplay → (e.replayBegun y).count c = e.count c := by
  unfold Engine.replayBegun
  extract_lets flt e1
  have hweighed := e1.vacateOnReplay_replayWork y
  generalize e1.vacateOnReplay y = e2 at hweighed
  have hlogged := ReplayWork.log (e2.bump Cnt.fltReplay) Ev.replay [y.step, e1.flt.failCount]
  refine ⟨hlogged.replaying_eq.trans hweighed.replaying_eq, hlogged.runs_eq.trans hweighed.runs_eq,
    hlogged.ctxs_eq.trans hweighed.ctxs_eq, hlogged.nextEmit_eq.trans hweighed.nextEmit_eq, hlogged.err_eq.trans hweighed.err_eq, ?_,
    fun c hc hne => ?_⟩
  · rw [hlogged.count_eq _ (by decide), Engine.count_bump_self, hweighed.count_eq _ (by decide)]
    rfl
  · rw [hlogged.count_eq c hc, Engine.count_bump_ne _ hne, hweighed.count_eq c hc]
    rfl

theorem Engine.inputsAgain_replayWork (e : Engine) : ReplayWork e e.inputsAgain := by
  unfold Engine.inputsAgain
  split
  · exact e.decodeInputs_replayWork _
  · exact .refl e

theorem Engine.resent_replayWork (e : Engine) (y : Yealm) : ReplayWork e (e.emitAgain y).inputsAgain := by
  refine .trans ?_ (Engine.inputsAgain_replayWork _)
  exact .of_eq rfl rfl rfl rfl rfl rfl

/-- Engine t stands at the start of the step's replay: nothing of the step has begun, and of the counters below, FLT_CNT_REPLAY alone
has moved. -/
structure Engine.Restarts (e t : Engine) : Prop where
  replaying : t.flt.replaying = true
  runs : t.ylm.runs = []
  ctxs : t.smp.ctxs = []
  nextEmit : t.smp.nextEmit = 0
  err : t.err = e.err
  counted : t.count Cnt.fltReplay = e.count Cnt.fltReplay + 1#32
  count : ∀ c, replayApart c → c ≠ Cnt.fltReplay → t.count c = e.count c

/-- A step that can be replayed is at its start again. -/
theorem Engine.abortStep_restarts (h : e.mayReplay y) (effect : Bool) (courses : List Nat) :
    ∃ t, e.abortStep effect courses = (false, t) ∧ e.Restarts t := by
  refine ⟨_, Engine.abortStep_eq h effect courses, ?_⟩
  obtain ⟨hruns, hctxs, hnext, herr, hcnt⟩ := e.rewound_halts y effect courses
  generalize e.rewound y effect courses = e1 at hruns hctxs hnext herr hcnt
  obtain ⟨breplaying, bruns, bctxs, bnext, berr, bcounted, bcnt⟩ := e1.replayBegun_replays y
  generalize e1.replayBegun y = e2 at breplaying bruns bctxs bnext berr bcounted bcnt
  obtain ⟨serr, sruns, sctxs, snext, sreplaying, scnt⟩ := e2.resent_replayWork y
  have hreplay : replayApart Cnt.fltReplay := by decide
  exact ⟨sreplaying.trans breplaying, sruns.trans (bruns.trans hruns), sctxs.trans (bctxs.trans hctxs), snext.trans (bnext.trans hnext),
    serr.trans (berr.trans herr), by rw [scnt _ hreplay, bcounted, hcnt _ hreplay],
    fun c hc hne => (scnt c hc).trans ((bcnt c hc hne).trans (hcnt c hc))⟩

/-! ### The ABORT to a group (R267) -/

theorem Engine.flood_out (e : Engine) (type step : Nat) (body : List Byte) (from_ : Nat) :
    ∃ l, e.flood type step body from_ = { e with out := l ++ e.out } := by
  have hlinks (e : Engine) (peers : List Nat) (up : Bool) (dst : Nat) :
      ∃ l, e.onLinks peers up type dst step body = { e with out := l ++ e.out } := ⟨_, Engine.foldl_emit _ e⟩
  have htoward (e : Engine) (peer : Nat) : ∃ l, e.toward peer from_ type step body = { e with out := l ++ e.out } := by
    unfold Engine.toward
    split
    · exact ⟨[], rfl⟩
    · exact hlinks e _ _ _
  unfold Engine.flood
  split
  · exact ⟨[], rfl⟩
  · obtain ⟨l1, h1⟩ := hlinks e (e.down.filter (· != from_)) false 0xFFFF
    dsimp only
    generalize e.onLinks (e.down.filter (· != from_)) false type 0xFFFF step body = e1 at h1
    obtain ⟨l2, h2⟩ := htoward e1 e1.parentRank
    obtain ⟨l3, h3⟩ := htoward (e1.toward e1.parentRank from_ type step body) e1.ringPeer
    refine ⟨l3 ++ (l2 ++ l1), ?_⟩
    rw [h3, h2, h1]
    simp

/-- An ABORT that is broadcast is driven, counted and remembered; one that is not changes nothing. -/
theorem Engine.sendAbort_cases (e : Engine) (step code cause : Nat) : e.sendAbort step code cause = e ∨
    ∃ l, e.sendAbort step code cause = { e.bump Cnt.fltAbort with out := l ++ e.out, flt := { e.flt with
      seenAborts := (e.mdv.rank, e.flt.abortSeq % 65536) :: e.flt.seenAborts, abortSeq := e.flt.abortSeq + 1 } } := by
  unfold Engine.sendAbort
  split
  · right
    obtain ⟨l1, h1⟩ := e.flood_out 0x0A step (abortBody step cause e.mdv.rank (e.flt.abortSeq % 65536) code) noRank
    obtain ⟨l2, h2⟩ := Engine.flood_out (e.flood 0x0A step (abortBody step cause e.mdv.rank (e.flt.abortSeq % 65536) code) noRank)
      0x0A step (abortBody step cause e.mdv.rank (e.flt.abortSeq % 65536) code) noRank
    dsimp only [Engine.floodAbort]
    rw [h2, h1]
    exact ⟨l2 ++ l1, by rw [List.append_assoc]; rfl⟩
  · exact .inl rfl

theorem Engine.sendAbort_replayWork (e : Engine) (step code cause : Nat) : ReplayWork e (e.sendAbort step code cause) := by
  obtain h | ⟨l, h⟩ := e.sendAbort_cases step code cause
  · rw [h]
    exact .refl e
  · rw [h]
    refine .trans (.bumpBy e replayApart_abort 1) ?_
    exact .of_eq rfl rfl rfl rfl rfl rfl

theorem Engine.sendAbort_mayReplay (h : e.mayReplay y) (step code cause : Nat) : (e.sendAbort step code cause).mayReplay y := by
  obtain hs | ⟨l, hs⟩ := e.sendAbort_cases step code cause <;> rw [hs] <;> exact h

/-! ### The error (R338) -/

/-- The action on a step that can be replayed. -/
theorem Engine.stepAction_restarts (h : e.mayReplay y) (courses : List Nat) (det : Nat) (detail : Nat) (given : Option Bool) :
    e.Restarts (e.stepAction courses det true detail given) := by
  have hcommit : ¬ y.step ≤ e.flt.commitStep := Nat.not_le.2 h.2.1
  have hsent := e.sendAbort_replayWork y.step det 1
  obtain ⟨t, ht, hrestarts⟩ := Engine.abortStep_restarts (Engine.sendAbort_mayReplay h y.step det 1)
    (det == Det.boundaryEffect) courses
  have haction : e.stepAction courses det true detail given = t := by
    simp only [Engine.stepAction, h.1, if_neg hcommit, if_true, ht]
    rfl
  rw [haction]
  obtain ⟨hreplaying, hruns, hctxs, hnext, herr, hcounted, hcount⟩ := hrestarts
  exact ⟨hreplaying, hruns, hctxs, hnext, herr.trans hsent.err_eq, by rw [hcounted, hsent.count_eq _ (by decide)],
    fun c hc hne => (hcount c hc hne).trans (hsent.count_eq c hc)⟩

/-- A STEP-class error of a step that can be replayed replays it; a counter that neither the abort nor a report moves stays. -/
theorem Engine.stepError_replays (h : e.mayReplay y) (det : Nat) (courses : List Nat) (detail : Nat) (given : Option Bool) :
    e.replays (e.stepError det courses detail given) ∧
      ∀ c, replayApart c → c ≠ Cnt.fltReplay → c < 0x4000 ∨ 0x7000 ≤ c → (e.stepError det courses detail given).count c = e.count c := by
  obtain ⟨hreplaying, hruns, hctxs, hnext, herr, hcounted, hcount⟩ := Engine.stepAction_restarts h courses det detail given
  unfold Engine.stepError
  generalize e.stepAction courses det true detail given = t at *
  have hreport : t.stepReport e.err.fatal det detail given = t.report det Cls.step nullHandle detail given := by
    simp [Engine.stepReport, herr]
  rw [hreport]
  have honly := t.report_only det Cls.step nullHandle detail given
  have hstep := Engine.report_count (cls := Cls.step) (c := Cnt.errStep) rfl t det nullHandle detail given
  generalize t.report det Cls.step nullHandle detail given = u at *
  obtain ⟨heq, -, -, -, -, hcnt⟩ := honly
  refine ⟨⟨?_, ?_, ?_, ?_, ?_, ?_⟩, fun c hc hne hlow => (hcnt c hlow).trans (hcount c hc hne)⟩
  · rw [heq]
    exact hreplaying
  · rw [heq]
    exact hruns
  · rw [heq]
    exact hctxs
  · rw [heq]
    exact hnext
  · rw [hcnt _ (by decide), hcounted]
  · rw [hstep, hcount _ (by decide) (by decide)]

/-- The replay counted from an engine is the replay counted from one that counts alike. -/
theorem Engine.replays_of_counts {t : Engine} (hreplay : e'.count Cnt.fltReplay = e.count Cnt.fltReplay)
    (hstep : e'.count Cnt.errStep = e.count Cnt.errStep) (h : e'.replays t) : e.replays t := by
  obtain ⟨hreplaying, hruns, hctxs, hnext, hcounted, herr⟩ := h
  exact ⟨hreplaying, hruns, hctxs, hnext, by rw [hcounted, hreplay], by rw [herr, hstep]⟩

end

/-! ### STEP-class errors of a unit -/

section
variable {e e' : Engine} {y : Yealm}

theorem LogOnly.mayReplay (h : LogOnly e e') (hy : e.mayReplay y) : e'.mayReplay y := by
  rw [h.1]
  exact hy

/-- A unit's own record and its STEP-class error replay a step that can be. -/
theorem Engine.logged_stepError_replays (h : e.mayReplay y) (code : Nat) (payload : List Nat) (det : Nat) (courses : List Nat)
    (detail : Nat) : e.replays ((e.log code payload).stepError det courses detail) := by
  have hlog := e.log_only code payload
  exact Engine.replays_of_counts (hlog.2.2 _ (by decide)) (hlog.2.2 _ (by decide))
    (Engine.stepError_replays (hlog.mayReplay h) det courses detail none).1

/-- With no step in compute a STEP-class error is one count of its class and a report. -/
theorem Engine.stepError_idle_spec (h : e.ylm.current = none) (det : Nat) (courses : List Nat) (detail : Nat) (given : Option Bool) :
    ReportOnly e (e.stepError det courses detail given) ∧
      (e.stepError det courses detail given).count Cnt.errStep = e.count Cnt.errStep + 1#32 := by
  rw [Engine.stepError_idle h]
  exact ⟨e.report_only _ _ _ _ _, Engine.report_count (cls := Cls.step) rfl e det nullHandle detail given⟩

theorem ReportOnly.smp_eq (h : ReportOnly e e') : e'.smp = e.smp := by rw [h.1]
theorem ReportOnly.spg_eq (h : ReportOnly e e') : e'.spg = e.spg := by rw [h.1]

end

end Sys2Proof.Machine
end

section
/-!
# Logit tiles

What a tile leaves of the draws, the gutter and the counters while SM serves on a lone engine (R190, R191, R192, R193, R202, R338).
-/

namespace Sys2Proof.Machine

/-! ### Folding keeps which draw it is and how much of it has come (R192) -/

/-- Two contexts of the same draw with the same tiles counted. -/
structure DrawCtx.sameTiles (c c' : DrawCtx) : Prop where
  draw : c'.draw = c.draw
  index : c'.index = c.index
  received : c'.received = c.received

section
variable {c c' c'' : DrawCtx}

theorem DrawCtx.sameTiles.refl (c : DrawCtx) : c.sameTiles c := ⟨rfl, rfl, rfl⟩

theorem DrawCtx.sameTiles.trans (h : c.sameTiles c') (k : c'.sameTiles c'') : c.sameTiles c'' :=
  ⟨k.draw.trans h.draw, k.index.trans h.index, k.received.trans h.received⟩

theorem Engine.foldEntry_sameTiles (e : Engine) (r : Rafter) (m : Member) (vocab position : Nat) (epoch : BitVec 32) (c : DrawCtx)
    (token : Nat) (l : BitVec 32) : c.sameTiles (e.foldEntry r m vocab position epoch c token l).2 := by
  unfold Engine.foldEntry
  split
  · split <;> exact ⟨rfl, rfl, rfl⟩
  · split
    · exact .refl c
    · extract_lets noise
      split <;> exact ⟨rfl, rfl, rfl⟩

theorem Engine.foldHead_sameTiles (e : Engine) (r : Rafter) (m : Member) (head position : Nat) (epoch : BitVec 32) (c : DrawCtx)
    (token : Nat) (l : BitVec 32) : c.sameTiles (e.foldHead r m head position epoch c token l).2 := by
  unfold Engine.foldHead
  split
  · exact .refl c
  · extract_lets y
    dsimp only
    split <;> exact ⟨rfl, rfl, rfl⟩

theorem Engine.foldTile_sameTiles (e : Engine) (r : Rafter) (m : Member) (epoch : BitVec 32) (c : DrawCtx) (head tile fmt : Nat)
    (scale : Int) (entries : List (BitVec 16)) : c.sameTiles (e.foldTile r m epoch c head tile fmt scale entries).2 := by
  unfold Engine.foldTile
  extract_lets vocab position
  refine List.foldlRecOn _ _ (motive := fun acc : Nat × DrawCtx => c.sameTiles acc.2) (.refl c) fun acc hacc x _ => ?_
  dsimp only
  split
  · exact hacc.trans (e.foldEntry_sameTiles _ _ _ _ _ _ _ _)
  · exact hacc.trans (e.foldHead_sameTiles _ _ _ _ _ _ _ _)

theorem DrawCtx.finish_draw (c : DrawCtx) (r : Rafter) (noise : Nat → BitVec 32) : (c.finish r noise).draw = c.draw := by
  unfold DrawCtx.finish
  dsimp only
  split <;> rfl

end

/-! ### Folding looks neither at the clock nor at the error unit -/

/-- The engine at another time, with other injections and errors. -/
def Engine.inErr (e : Engine) (n : Nat) (x : Err) : Engine := { e with now := n, err := x }

section
variable (e : Engine) (n : Nat) (x : Err)

theorem Engine.cellChain_inErr (k c : Nat) : (e.inErr n x).cellChain k c = e.cellChain k c := by
  induction k generalizing c with
  | zero => rfl
  | succ k ih =>
    unfold Engine.cellChain
    simp only [ih]
    rfl

theorem Engine.overflow_inErr (slot : Nat) : (e.inErr n x).overflow slot = e.overflow slot := by
  unfold Engine.overflow
  simp only [Engine.cellChain_inErr]
  rfl

theorem Engine.termsOf_inErr (m : Member) (v : Nat) (c : DrawCtx) (t : Nat) : (e.inErr n x).termsOf m v c t = e.termsOf m v c t := by
  unfold Engine.termsOf Engine.countOf
  simp only [Engine.overflow_inErr]
  rfl

theorem Engine.foldEntry_inErr : (e.inErr n x).foldEntry = e.foldEntry := by
  funext r m v p ep c t l
  unfold Engine.foldEntry
  simp only [Engine.termsOf_inErr]
  rfl

theorem Engine.foldTile_inErr : (e.inErr n x).foldTile = e.foldTile := by
  funext r m ep c h t f sc es
  unfold Engine.foldTile
  simp only [Engine.foldEntry_inErr]
  rfl

theorem Engine.count_inErr (d : Nat) : (e.inErr n x).count d = e.count d := rfl

theorem Engine.expectedTiles_inErr : (e.inErr n x).expectedTiles = e.expectedTiles := rfl

theorem Engine.ctxOf_inErr : (e.inErr n x).ctxOf = e.ctxOf := by
  funext r i m d
  unfold Engine.ctxOf Engine.openCtx Engine.countTokens
  simp only [Engine.overflow_inErr]
  rfl

end

/-! ### The contexts (R191, R202) -/

section
variable {e : Engine} {r : Rafter} {m : Member} {y : Yealm} {c : DrawCtx} {i d k : Nat}

theorem Engine.ctxOf_draw (h : ∀ c, Table.get? e.smp.ctxs d = some c → c.draw = d) : (e.ctxOf r i m d).draw = d := by
  unfold Engine.ctxOf
  cases hd : Table.get? e.smp.ctxs d with
  | none => rfl
  | some c => exact h c hd

/-- The context with a tile folded in and its key counted is that of the same draw with one tile more. -/
theorem Engine.foldTile_count {epoch : BitVec 32} {head tile fmt nans : Nat} {scale : Int} {entries : List (BitVec 16)} {x : DrawCtx}
    (h : e.foldTile r m epoch c head tile fmt scale entries = (nans, x)) :
    (x.count head tile).draw = c.draw ∧ (x.count head tile).received = c.received + 1 := by
  have hsame := e.foldTile_sameTiles r m epoch c head tile fmt scale entries
  rw [h] at hsame
  exact ⟨hsame.draw, congrArg (· + 1) hsame.received⟩

/-- The engine that has counted a tile's NaN logits and its evaluations, and keeps the context. -/
def Engine.tileKept (e : Engine) (head nans : Nat) (c : DrawCtx) : Engine :=
  ((e.countNans head nans).evaluations false c.tileWords).putCtx c

/-- What keeping a tile's context leaves. -/
theorem Engine.tileKept_eq (e : Engine) (head nans : Nat) (c : DrawCtx) : ∃ cnt spg, e.tileKept head nans c =
    { e with cnt := cnt, spg := spg, smp := { e.smp with ctxs := Table.put e.smp.ctxs c.draw c } } := by
  unfold Engine.tileKept Engine.countNans
  split <;> exact ⟨_, _, rfl⟩

theorem Engine.tileKept_nans (e : Engine) (head nans : Nat) (c : DrawCtx) : (e.tileKept head nans c).count Cnt.smpNan =
    e.count Cnt.smpNan + BitVec.ofNat 32 (if head = 0 ∧ e.strictNan = true then 0 else nans) := by
  have hevaluated : (e.tileKept head nans c).count Cnt.smpNan = (e.countNans head nans).count Cnt.smpNan :=
    Table.getD_put_ne _ _ _ (by decide)
  rw [hevaluated, Engine.countNans]
  by_cases h : head = 0 ∧ e.strictNan = true
  · rw [if_pos (by simpa using h), if_pos h]
    simp
  · rw [if_neg (by simpa using h), if_neg h]
    exact Table.getD_put_self _ _ _ _

theorem Engine.tileKept_count (e : Engine) (head nans : Nat) (c : DrawCtx) {d : Nat} (hnan : d ≠ Cnt.smpNan) (heval : d ≠ Cnt.spgEvalSmp) :
    (e.tileKept head nans c).count d = e.count d := by
  have hevaluated : (e.tileKept head nans c).count d = (e.countNans head nans).count d := Table.getD_put_ne _ _ _ heval
  rw [hevaluated, Engine.countNans]
  split
  · rfl
  · exact Table.getD_put_ne _ _ _ hnan

/-! ### The end of a draw (R202, R203) -/

/-- A draw finished: its context stands finished, it is counted, and nothing else of the requests, the group or the outputs changes. -/
theorem Engine.finishDraw_finishes (e : Engine) (r : Rafter) (m : Member) (epoch : BitVec 32) (c : DrawCtx) :
    Table.get? (e.finishDraw r m epoch c).smp.ctxs c.draw = some (c.finish r (noiseAt m.seed epoch 1 (m.seqStart + c.index))) ∧
      (e.finishDraw r m epoch c).count Cnt.smpDraws = e.count Cnt.smpDraws + 1#32 ∧
      (e.finishDraw r m epoch c).rafter = e.rafter ∧ (e.finishDraw r m epoch c).out = e.out ∧ (e.finishDraw r m epoch c).flt = e.flt := by
  unfold Engine.finishDraw
  extract_lets again c1 e1
  have hput : Table.get? e1.smp.ctxs c.draw = some c1 := by
    rw [← c.finish_draw r (noiseAt m.seed epoch 1 (m.seqStart + c.index))]
    exact Table.get?_put_self _ _ _
  have hcount : e1.count Cnt.smpDraws = e.count Cnt.smpDraws + 1#32 :=
    (Engine.count_bump_self _ _).trans (congrArg (· + 1#32) (Table.getD_put_ne _ _ _ (by decide)))
  split
  · exact ⟨hput, (Engine.count_bump_ne _ (by decide)).trans hcount, rfl, rfl, rfl⟩
  · exact ⟨hput, hcount, rfl, rfl, rfl⟩

/-- On a lone engine the last tile of a draw, its key sums right, finishes the draw. -/
theorem Engine.completeDraw_lone (halone : e.alone) (hsums : (c.sum1, c.sum2) = keySums
    (e.shardTiles (tilesOf (e.family m.family).vocab)).1 (e.shardTiles (tilesOf (e.family m.family).vocab)).2 (e.headsOf m c.index)) :
    e.completeDraw y k r m c = e.finishDraw r m y.epoch c := by
  have hsharded : e.sharded = false := by simp [Engine.sharded, halone.1, halone.2]
  have hshadows : (e.finishDraw r m y.epoch c).shadows = false := by
    rw [Engine.shadows, (e.finishDraw_finishes r m y.epoch c).2.2.2.2]
    exact halone.2
  unfold Engine.completeDraw
  dsimp only
  rw [if_neg (not_not_intro hsums), if_neg (by rw [hsharded]; decide), Engine.shadowEmit, hshadows]

end

/-! ### A tile that passes its checks (R190, R191, R207) -/

section
variable {e : Engine} {y : Yealm} {k i : Nat} {m : Member} {r : Rafter} {h : BitVec 64} {l : List (BitVec 16)}

theorem Engine.takeTile_discards (hreq : e.anyReq? m.slot = some r) (hfolded : e.folded m (tileDraw h) = true) (hskips : e.skips m = true) :
    e.takeTile y k i m h l = e.foldAway y i r m h l := by
  simp [Engine.takeTile, hreq, hfolded, hskips]

theorem Engine.takeTile_ignores (hreq : e.anyReq? m.slot = some r) (hfolded : e.folded m (tileDraw h) = true) (hskips : e.skips m = false) :
    e.takeTile y k i m h l = e := by
  simp [Engine.takeTile, hreq, hfolded, hskips]

theorem Engine.takeTile_holds (hreq : e.anyReq? m.slot = some r) (hfolded : e.folded m (tileDraw h) = false)
    (hahead : e.smp.nextEmit + 16384 ≤ tileDraw h) : e.takeTile y k i m h l = e.holdGutter := by
  simp [Engine.takeTile, hreq, hfolded, hahead]

theorem Engine.takeTile_folds (hreq : e.anyReq? m.slot = some r) (hfolded : e.folded m (tileDraw h) = false)
    (hnear : tileDraw h < e.smp.nextEmit + 16384) {nans : Nat} {x : DrawCtx}
    (hfold : e.foldTile r m y.epoch (e.ctxOf r i m (tileDraw h)) (tileHead h) (tileIndex h) (tileFmt h) (tileScale h) l = (nans, x)) :
    e.takeTile y k i m h l =
      if (x.count (tileHead h) (tileIndex h)).received = e.expectedTiles m (x.count (tileHead h) (tileIndex h)).index then
        (e.tileKept (tileHead h) nans (x.count (tileHead h) (tileIndex h))).completeDraw y k r m (x.count (tileHead h) (tileIndex h))
      else e.tileKept (tileHead h) nans (x.count (tileHead h) (tileIndex h)) := by
  have hexpected (c : DrawCtx) (n : Nat) : (e.tileKept (tileHead h) nans c).expectedTiles m n = e.expectedTiles m n := by
    obtain ⟨cnt, spg, heq⟩ := e.tileKept_eq (tileHead h) nans c
    rw [heq]
    rfl
  unfold Engine.takeTile
  dsimp only
  rw [hreq]
  dsimp only
  rw [if_neg (by rw [hfolded]; decide), if_neg (by omega), hfold]
  dsimp only
  rw [← hexpected (x.count (tileHead h) (tileIndex h))]
  rfl

/-- A tile folded and discarded leaves the draws, the requests, the step and the outputs. -/
theorem Engine.foldAway_frame (e : Engine) (y : Yealm) (i : Nat) (r : Rafter) (m : Member) (h : BitVec 64) (l : List (BitVec 16)) :
    (e.foldAway y i r m h l).smp = e.smp ∧ (e.foldAway y i r m h l).rafter = e.rafter ∧ (e.foldAway y i r m h l).ylm = e.ylm ∧
      (e.foldAway y i r m h l).out = e.out := by
  unfold Engine.foldAway Engine.countNans
  dsimp only
  split <;> exact ⟨rfl, rfl, rfl, rfl⟩

/-- A tile not taken is counted, and the gutter is not ready. -/
theorem Engine.holdGutter_spec (e : Engine) : e.holdGutter.smp.gutHeld = true ∧ e.holdGutter.smp.ctxs = e.smp.ctxs ∧
    e.holdGutter.count Cnt.smpGutWait = e.count Cnt.smpGutWait + 1#32 ∧
    (e.smp.gutHeld = false → e.holdGutter.out = .gutReady false :: e.out) := by
  unfold Engine.holdGutter
  extract_lets e1
  have hcount : e1.count Cnt.smpGutWait = e.count Cnt.smpGutWait + 1#32 := e.count_bump_self _
  split
  · rename_i hheld
    exact ⟨hheld, rfl, hcount, fun hfree => absurd (hfree.symm.trans hheld) (by decide)⟩
  · exact ⟨rfl, rfl, hcount, fun _ => rfl⟩

variable {nans : Nat} {c : DrawCtx}

/-- A tile that is not its draw's last leaves the context with one tile more. -/
theorem Engine.tileKept_keeps (e : Engine) (head nans : Nat) (c : DrawCtx) :
    Table.get? (e.tileKept head nans c).smp.ctxs c.draw = some c ∧ (e.tileKept head nans c).ylm = e.ylm ∧
      (e.tileKept head nans c).rafter = e.rafter ∧ (e.tileKept head nans c).out = e.out := by
  obtain ⟨cnt, spg, heq⟩ := e.tileKept_eq head nans c
  rw [heq]
  exact ⟨Table.get?_put_self _ _ _, rfl, rfl, rfl⟩

/-- The last tile of a draw, its key sums right, leaves the draw finished and counted. -/
theorem Engine.tileKept_completes (halone : e.alone) (hsums : (c.sum1, c.sum2) = keySums
    (e.shardTiles (tilesOf (e.family m.family).vocab)).1 (e.shardTiles (tilesOf (e.family m.family).vocab)).2 (e.headsOf m c.index)) (head : Nat) :
    Table.get? ((e.tileKept head nans c).completeDraw y k r m c).smp.ctxs c.draw =
        some (c.finish r (noiseAt m.seed y.epoch 1 (m.seqStart + c.index))) ∧
      ((e.tileKept head nans c).completeDraw y k r m c).count Cnt.smpDraws = e.count Cnt.smpDraws + 1#32 ∧
      ((e.tileKept head nans c).completeDraw y k r m c).rafter = e.rafter ∧
      ((e.tileKept head nans c).completeDraw y k r m c).out = e.out := by
  have hcount := e.tileKept_count head nans c (d := Cnt.smpDraws) (by decide) (by decide)
  obtain ⟨-, -, hrafter, hout⟩ := e.tileKept_keeps head nans c
  obtain ⟨cnt, spg, heq⟩ := e.tileKept_eq head nans c
  have hlone : (e.tileKept head nans c).completeDraw y k r m c = (e.tileKept head nans c).finishDraw r m y.epoch c := by
    rw [heq]
    exact Engine.completeDraw_lone halone hsums
  obtain ⟨hctx, hdraws, hkept, hsame, -⟩ := (e.tileKept head nans c).finishDraw_finishes r m y.epoch c
  rw [hlone]
  exact ⟨hctx, hdraws.trans (congrArg (· + 1#32) hcount), hkept.trans hrafter, hsame.trans hout⟩

end

/-! ### A tile that fails a check (R192, R338) -/

section
variable {e : Engine} {y : Yealm}

theorem Engine.tileError_eq (e : Engine) (detail : Nat) (injected : Bool) : e.tileError detail injected =
    (e.log Ev.tileCheck [detail]).stepError Det.tileCheck (e.sampledCourse.map (·.1)).toList detail (some injected) := rfl

/-- The record of a bad tile, counted: of the counters outside the log only SMP_CNT_TILE_ERR has moved. -/
theorem Engine.badTile_logged (e : Engine) (detail : Nat) : LogOnly (e.bump Cnt.smpTileErr)
    ((e.bump Cnt.smpTileErr).log Ev.tileCheck [detail]) ∧
    ((e.bump Cnt.smpTileErr).log Ev.tileCheck [detail]).count Cnt.smpTileErr = e.count Cnt.smpTileErr + 1#32 ∧
    ∀ c, c < 0x6000 ∨ 0x7000 ≤ c → c ≠ Cnt.smpTileErr → ((e.bump Cnt.smpTileErr).log Ev.tileCheck [detail]).count c = e.count c := by
  have hlog := (e.bump Cnt.smpTileErr).log_only Ev.tileCheck [detail]
  exact ⟨hlog, (hlog.2.2 _ (by decide)).trans (e.count_bump_self _), fun c hc hne => (hlog.2.2 c hc).trans (e.count_bump_ne hne)⟩

theorem Engine.badTile_idle (hidle : e.ylm.current = none) (detail : Nat) (injected : Bool) :
    ((e.bump Cnt.smpTileErr).tileError detail injected).smp = e.smp ∧ ((e.bump Cnt.smpTileErr).tileError detail injected).rafter = e.rafter ∧
      ((e.bump Cnt.smpTileErr).tileError detail injected).count Cnt.smpTileErr = e.count Cnt.smpTileErr + 1#32 ∧
      ((e.bump Cnt.smpTileErr).tileError detail injected).count Cnt.errStep = e.count Cnt.errStep + 1#32 := by
  rw [Engine.tileError_eq]
  obtain ⟨hlog, htile, hrest⟩ := e.badTile_logged detail
  generalize (e.bump Cnt.smpTileErr).log Ev.tileCheck [detail] = e1 at hlog htile hrest
  obtain ⟨honly, hstep⟩ := Engine.stepError_idle_spec (e := e1) (by rw [hlog.ylm_eq]; exact hidle) Det.tileCheck
    ((e.bump Cnt.smpTileErr).sampledCourse.map (·.1)).toList detail (some injected)
  exact ⟨honly.smp_eq.trans (by rw [hlog.1]; rfl), honly.rafter_eq.trans hlog.rafter_eq,
    (honly.2.2.2.2.2 _ (by decide)).trans htile, hstep.trans (congrArg (· + 1#32) (hrest _ (by decide) (by decide)))⟩

theorem Engine.badTile_replays (hy : e.mayReplay y) (detail : Nat) (injected : Bool) :
    e.replays ((e.bump Cnt.smpTileErr).tileError detail injected) ∧
      ((e.bump Cnt.smpTileErr).tileError detail injected).count Cnt.smpTileErr = e.count Cnt.smpTileErr + 1#32 := by
  rw [Engine.tileError_eq]
  obtain ⟨hlog, htile, hrest⟩ := e.badTile_logged detail
  have hy' : (e.bump Cnt.smpTileErr).mayReplay y := hy
  generalize (e.bump Cnt.smpTileErr).log Ev.tileCheck [detail] = e1 at hlog htile hrest
  obtain ⟨hreplays, hcount⟩ := Engine.stepError_replays (hlog.mayReplay hy') Det.tileCheck
    ((e.bump Cnt.smpTileErr).sampledCourse.map (·.1)).toList detail (some injected)
  exact ⟨Engine.replays_of_counts (hrest _ (by decide) (by decide)) (hrest _ (by decide) (by decide)) hreplays,
    (hcount _ (by decide) (by decide) (by decide)).trans htile⟩

end

/-! ### The command -/

section
variable {s : State} {h : BitVec 64} {l : List (BitVec 16)} {y : Yealm} {k i : Nat} {m : Member} {r : Rafter}

theorem exec_logitTile (hs : s.receives Isl.sm) (h : BitVec 64) (l : List (BitVec 16)) :
    exec (.logitTile h l) s = .next { s with eng := s.seen.logitTile h l } := s.cross_receives hs _ _

/-- The engine that a tile's check is evaluated on. -/
def State.judged (s : State) : Engine := (s.seen.evaluate Det.tileCheck).2

/-- The evaluation of a check moves the injection slots alone. -/
theorem State.judged_eq (s : State) : ∃ x, s.judged = s.eng.inErr s.tb.count x := by
  unfold State.judged Engine.evaluate
  dsimp only
  split
  · exact ⟨_, rfl⟩
  · exact ⟨_, rfl⟩

theorem exec_logitTile_bad (hs : s.receives Isl.sm) (hbad : s.eng.checkTile h = none) : exec (.logitTile h l) s =
    .next { s with eng := (s.judged.bump Cnt.smpTileErr).tileError (tileDraw h) (s.seen.evaluate Det.tileCheck).1 } := by
  have hbad' : s.judged.checkTile h = none := by
    obtain ⟨x, hx⟩ := s.judged_eq
    rw [hx]
    exact hbad
  rw [exec_logitTile hs, Engine.logitTile]
  unfold State.judged at *
  dsimp only
  rw [hbad']
  cases (s.seen.evaluate Det.tileCheck).1 <;> rfl

/-- With nothing injected a tile that passes its checks is taken. -/
theorem exec_logitTile_good (hs : s.receives Isl.sm) (hquiet : (s.eng.evaluate Det.tileCheck).1 = false)
    (hcur : s.eng.ylm.current = some y) (hgood : s.eng.checkTile h = some (k, i, m)) :
    ∃ x, exec (.logitTile h l) s = .next { s with eng := (s.eng.inErr s.tb.count x).takeTile y k i m h l } := by
  have hquiet' : (s.seen.evaluate Det.tileCheck).1 = false := hquiet
  obtain ⟨x, hx⟩ := s.judged_eq
  have hcheck : s.judged.checkTile h = some (k, i, m) := by rw [hx]; exact hgood
  have hcur' : s.judged.ylm.current = some y := by rw [hx]; exact hcur
  refine ⟨x, ?_⟩
  rw [exec_logitTile hs, Engine.logitTile, ← hx]
  unfold State.judged at *
  dsimp only
  rw [hquiet', hcheck, hcur']

theorem logitTile_bad_idle (hs : s.receives Isl.sm) (hbad : s.eng.checkTile h = none) (hidle : s.eng.ylm.current = none) :
    ∃ t, exec (.logitTile h l) s = .next t ∧ t.eng.smp = s.eng.smp ∧ t.eng.rafter = s.eng.rafter ∧
      t.eng.count Cnt.smpTileErr = s.eng.count Cnt.smpTileErr + 1#32 ∧ t.eng.count Cnt.errStep = s.eng.count Cnt.errStep + 1#32 := by
  refine ⟨_, exec_logitTile_bad hs hbad, ?_⟩
  obtain ⟨x, hx⟩ := s.judged_eq
  rw [hx]
  exact Engine.badTile_idle (e := s.eng.inErr s.tb.count x) hidle _ _

theorem logitTile_bad_replays (hs : s.receives Isl.sm) (hbad : s.eng.checkTile h = none) (hy : s.eng.mayReplay y) :
    ∃ t, exec (.logitTile h l) s = .next t ∧ s.eng.replays t.eng ∧ t.eng.count Cnt.smpTileErr = s.eng.count Cnt.smpTileErr + 1#32 := by
  refine ⟨_, exec_logitTile_bad hs hbad, ?_⟩
  obtain ⟨x, hx⟩ := s.judged_eq
  rw [hx]
  exact Engine.badTile_replays (e := s.eng.inErr s.tb.count x) hy _ _

section
variable (hs : s.receives Isl.sm) (hquiet : (s.eng.evaluate Det.tileCheck).1 = false) (hcur : s.eng.ylm.current = some y)
  (hgood : s.eng.checkTile h = some (k, i, m)) (hreq : s.eng.anyReq? m.slot = some r)
include hs hquiet hcur hgood hreq

theorem logitTile_discarded (hfolded : s.eng.folded m (tileDraw h) = true) (hskips : s.eng.skips m = true) :
    ∃ t, exec (.logitTile h l) s = .next t ∧ t.eng.smp = s.eng.smp ∧ t.eng.rafter = s.eng.rafter ∧ t.eng.ylm = s.eng.ylm ∧
      t.eng.out = s.eng.out := by
  obtain ⟨x, hexec⟩ := exec_logitTile_good (l := l) hs hquiet hcur hgood
  refine ⟨_, hexec, ?_⟩
  rw [Engine.takeTile_discards (e := s.eng.inErr s.tb.count x) hreq hfolded hskips]
  exact Engine.foldAway_frame (s.eng.inErr s.tb.count x) y i r m h l

theorem logitTile_ignored (hfolded : s.eng.folded m (tileDraw h) = true) (hskips : s.eng.skips m = false) :
    ∃ t, exec (.logitTile h l) s = .next t ∧ t.eng.smp = s.eng.smp ∧ t.eng.out = s.eng.out ∧ t.eng.cnt = s.eng.cnt := by
  obtain ⟨x, hexec⟩ := exec_logitTile_good (l := l) hs hquiet hcur hgood
  refine ⟨_, hexec, ?_⟩
  rw [Engine.takeTile_ignores (e := s.eng.inErr s.tb.count x) hreq hfolded hskips]
  exact ⟨rfl, rfl, rfl⟩

theorem logitTile_held (hahead : s.eng.smp.nextEmit + 16384 ≤ tileDraw h) (hfolded : s.eng.folded m (tileDraw h) = false) :
    ∃ t, exec (.logitTile h l) s = .next t ∧ t.eng.smp.gutHeld = true ∧ t.eng.smp.ctxs = s.eng.smp.ctxs ∧
      t.eng.count Cnt.smpGutWait = s.eng.count Cnt.smpGutWait + 1#32 ∧
      (s.eng.smp.gutHeld = false → t.eng.out = .gutReady false :: s.eng.out) := by
  obtain ⟨x, hexec⟩ := exec_logitTile_good (l := l) hs hquiet hcur hgood
  refine ⟨_, hexec, ?_⟩
  rw [Engine.takeTile_holds (e := s.eng.inErr s.tb.count x) hreq hfolded hahead, ← s.eng.count_inErr s.tb.count x]
  exact (s.eng.inErr s.tb.count x).holdGutter_spec

section
variable {nans : Nat} {x c : DrawCtx} (hnear : tileDraw h < s.eng.smp.nextEmit + 16384) (hfolded : s.eng.folded m (tileDraw h) = false)
  (hfold : s.eng.foldTile r m y.epoch (s.eng.ctxOf r i m (tileDraw h)) (tileHead h) (tileIndex h) (tileFmt h) (tileScale h) l = (nans, x))
  (hc : c = x.count (tileHead h) (tileIndex h))
include hnear hfolded hfold hc

/-- A tile of an open draw is folded in, and the draw completed with its last one. -/
theorem exec_logitTile_folded : ∃ z, exec (.logitTile h l) s = .next { s with
    eng := if c.received = s.eng.expectedTiles m c.index then
        ((s.eng.inErr s.tb.count z).tileKept (tileHead h) nans c).completeDraw y k r m c
      else (s.eng.inErr s.tb.count z).tileKept (tileHead h) nans c } := by
  obtain ⟨z, hexec⟩ := exec_logitTile_good (l := l) hs hquiet hcur hgood
  rw [← s.eng.foldTile_inErr s.tb.count z, ← s.eng.ctxOf_inErr s.tb.count z] at hfold
  rw [Engine.takeTile_folds (e := s.eng.inErr s.tb.count z) hreq hfolded hnear hfold, ← hc, Engine.expectedTiles_inErr] at hexec
  exact ⟨z, hexec⟩

variable (hctxs : ∀ c, Table.get? s.eng.smp.ctxs (tileDraw h) = some c → c.draw = tileDraw h)
include hctxs

theorem logitTile_folded_more (hmore : c.received ≠ s.eng.expectedTiles m c.index) : ∃ t, exec (.logitTile h l) s = .next t ∧
    Table.get? t.eng.smp.ctxs (tileDraw h) = some c ∧ c.received = (s.eng.ctxOf r i m (tileDraw h)).received + 1 ∧
    t.eng.ylm = s.eng.ylm ∧ t.eng.rafter = s.eng.rafter ∧ t.eng.out = s.eng.out ∧
    t.eng.count Cnt.smpNan = s.eng.count Cnt.smpNan +
      BitVec.ofNat 32 (if tileHead h = 0 ∧ s.eng.strictNan = true then 0 else nans) := by
  obtain ⟨z, hexec⟩ := exec_logitTile_folded hs hquiet hcur hgood hreq hnear hfolded hfold hc
  rw [if_neg hmore] at hexec
  obtain ⟨hdraw, hreceived⟩ := Engine.foldTile_count hfold
  rw [← hc, Engine.ctxOf_draw hctxs] at hdraw
  obtain ⟨hctx, hylm, hrafter, hout⟩ := (s.eng.inErr s.tb.count z).tileKept_keeps (tileHead h) nans c
  rw [hdraw] at hctx
  exact ⟨_, hexec, hctx, hc ▸ hreceived, hylm, hrafter, hout, Engine.tileKept_nans _ _ _ _⟩

theorem logitTile_folded_last (halone : s.eng.alone) (hlast : c.received = s.eng.expectedTiles m c.index)
    (hsums : (c.sum1, c.sum2) = keySums (s.eng.shardTiles (tilesOf (s.eng.family m.family).vocab)).1
      (s.eng.shardTiles (tilesOf (s.eng.family m.family).vocab)).2 (s.eng.headsOf m c.index)) :
    ∃ t, exec (.logitTile h l) s = .next t ∧
      Table.get? t.eng.smp.ctxs (tileDraw h) = some (c.finish r (noiseAt m.seed y.epoch 1 (m.seqStart + c.index))) ∧
      t.eng.count Cnt.smpDraws = s.eng.count Cnt.smpDraws + 1#32 ∧ t.eng.rafter = s.eng.rafter ∧ t.eng.out = s.eng.out := by
  obtain ⟨z, hexec⟩ := exec_logitTile_folded hs hquiet hcur hgood hreq hnear hfolded hfold hc
  rw [if_pos hlast] at hexec
  obtain ⟨hdraw, -⟩ := Engine.foldTile_count hfold
  rw [← hc, Engine.ctxOf_draw hctxs] at hdraw
  have hdone := Engine.tileKept_completes (e := s.eng.inErr s.tb.count z) (y := y) (k := k) (r := r) (nans := nans) halone hsums (tileHead h)
  rw [hdraw] at hdone
  exact ⟨_, hexec, hdone⟩

end

end

end

/-- Settles O47: a tile that fails its checks is a STEP-class error; one that passes is taken by what its draw and the gutter say. -/
theorem tilesFoldIntoTheirDraws : Obligations.TilesFoldIntoTheirDraws := by
  unfold Obligations.TilesFoldIntoTheirDraws
  refine ⟨fun s h l hs hbad => ⟨logitTile_bad_idle hs hbad, fun y => logitTile_bad_replays hs hbad⟩, ?_⟩
  intro s h l y k i m r hs halone hquiet hcur hgood hreq hctxs
  refine ⟨logitTile_discarded hs hquiet hcur hgood hreq, logitTile_ignored hs hquiet hcur hgood hreq,
    logitTile_held hs hquiet hcur hgood hreq, fun nans x c _ hnear hfolded hfold hc => ⟨?_, ?_⟩⟩
  · exact logitTile_folded_more hs hquiet hcur hgood hreq hnear hfolded hfold hc hctxs
  · exact logitTile_folded_last hs hquiet hcur hgood hreq hnear hfolded hfold hc hctxs halone

end Sys2Proof.Machine
end

section
/-!
# Watchdogs of the legget and ports of the spar generator

What the gutter's and the generator's watchdogs, a lane's fault, the tile port, the shadow checks and the known answers do while their island
serves (R217, R218, R221, R229, R230, R233, R377).
-/

namespace Sys2Proof.Machine

/-! ### The gutter and the random words (R218) -/

/-- The course being sampled, as a STEP-class error names it. -/
def Engine.sampledNumber (e : Engine) : List Nat := (e.sampledCourse.map (·.1)).toList

/-- GUTTER_TIMEOUT on the engine it sees. -/
def Engine.gutterStall (e : Engine) : Engine :=
  if e.samplingOpen then (e.log Ev.gutterStall e.sampledNumber).stepError Det.gutter e.sampledNumber (unitDetail Det.gutter) else e

/-- RANDOM_WORD_TIMEOUT on the engine it sees. -/
def Engine.randomStall (e : Engine) : Engine :=
  if e.sampledNumber.isEmpty then e
  else (e.log Ev.randomStall e.sampledNumber).stepError Det.randomWord e.sampledNumber (unitDetail Det.randomWord)

section
variable {s : State} {y : Yealm}

theorem exec_gutterTimeout (h : s.serves Isl.sm) : exec .gutterTimeout s = .next { s with eng := s.seen.gutterStall } :=
  s.actIn_serves h Engine.gutterStall

theorem exec_randomWordTimeout (h : s.serves Isl.sm) : exec .randomWordTimeout s = .next { s with eng := s.seen.randomStall } :=
  s.actIn_serves h Engine.randomStall

theorem gutterTimeout_idle (h : s.serves Isl.sm) (hopen : s.eng.samplingOpen = false) :
    exec .gutterTimeout s = .next { s with eng := s.seen } := by
  have hopen' : ¬ s.seen.samplingOpen = true := by
    rw [Bool.not_eq_true]
    exact hopen
  rw [exec_gutterTimeout h, Engine.gutterStall, if_neg hopen']

theorem gutterTimeout_replays (h : s.serves Isl.sm) (hopen : s.eng.samplingOpen = true) (hy : s.eng.mayReplay y) :
    ∃ t, exec .gutterTimeout s = .next t ∧ s.eng.replays t.eng := by
  have hopen' : s.seen.samplingOpen = true := hopen
  rw [exec_gutterTimeout h, Engine.gutterStall, if_pos hopen']
  exact ⟨_, rfl, Engine.logged_stepError_replays (e := s.seen) hy _ _ _ _ _⟩

theorem randomWordTimeout_idle (h : s.serves Isl.sm) (hcourse : s.eng.sampledCourse = none) :
    exec .randomWordTimeout s = .next { s with eng := s.seen } := by
  have hcourse' : s.seen.sampledCourse = none := hcourse
  rw [exec_randomWordTimeout h, Engine.randomStall, if_pos (by simp [Engine.sampledNumber, hcourse'])]

theorem randomWordTimeout_replays (h : s.serves Isl.sm) (hcourse : s.eng.sampledCourse ≠ none) (hy : s.eng.mayReplay y) :
    ∃ t, exec .randomWordTimeout s = .next t ∧ s.eng.replays t.eng := by
  obtain ⟨x, hx⟩ := Option.ne_none_iff_exists'.1 hcourse
  have hx' : s.seen.sampledCourse = some x := hx
  rw [exec_randomWordTimeout h, Engine.randomStall, if_neg (by simp [Engine.sampledNumber, hx'])]
  exact ⟨_, rfl, Engine.logged_stepError_replays (e := s.seen) hy _ _ _ _ _⟩

end

/-! ### Lanes (R217; log entry 46) -/

section
variable {x : LaneGroup}

theorem LaneGroup.hit_marks (x : LaneGroup) (lane : Nat) : (x.hit lane).fault = x.fault ||| BitVec.twoPow 17 lane ∧
    (x.hit lane).spareUsed = x.spareUsed ∧ (x.hit lane).retired = x.retired := by
  unfold LaneGroup.hit
  extract_lets used z
  split
  · exact ⟨rfl, rfl, rfl⟩
  · split <;> exact ⟨rfl, rfl, rfl⟩

/-- The first fault of a group whose spare is sound: a lane's waits for the spare, the spare's own for nothing. -/
theorem LaneGroup.hit_first (hused : x.spareUsed = false) (hpend : x.pendSwitch = false) (hspare : x.fault.getLsbD 16 = false) (lane : Nat) :
    (x.hit lane).pendSwitch = decide (lane ≠ 16) ∧ (x.hit lane).pendRetire = x.pendRetire := by
  have hsound : ¬ (x.spareUsed || x.pendSwitch || x.fault.getLsbD 16) = true := by rw [hused, hpend, hspare]; decide
  unfold LaneGroup.hit
  dsimp only
  rw [if_neg hsound]
  split <;> simp [*]

/-- A fault for which no spare is left retires the group. -/
theorem LaneGroup.hit_further (h : x.spareUsed = true ∨ x.pendSwitch = true ∨ x.fault.getLsbD 16 = true) (lane : Nat) :
    (x.hit lane).pendRetire = true ∧ (x.hit lane).pendSwitch = x.pendSwitch := by
  have hused : (x.spareUsed || x.pendSwitch || x.fault.getLsbD 16) = true := by simpa [or_assoc] using h
  unfold LaneGroup.hit
  dsimp only
  rw [if_pos hused]
  exact ⟨rfl, rfl⟩

end

section
variable {e : Engine} {g lane : Nat}

theorem Engine.laneFault_known (h : 17 ≤ lane ∨ (e.laneGroup g).retired = true ∨ (e.laneGroup g).fault.getLsbD lane = true) :
    e.laneFault g lane = e :=
  if_pos (by rwa [Bool.or_eq_true, Bool.or_eq_true, decide_eq_true_eq, or_assoc])

/-- A new fault of a group in service marks the lane and is a STEP-class error. -/
theorem Engine.laneFault_new (hlane : lane < 17) (hretired : (e.laneGroup g).retired = false)
    (hnew : (e.laneGroup g).fault.getLsbD lane = false) (hidle : e.ylm.current = none) :
    (e.laneFault g lane).laneGroup g = (e.laneGroup g).hit lane ∧
      (e.laneFault g lane).count Cnt.errStep = e.count Cnt.errStep + 1#32 := by
  have hgood : ¬ (17 ≤ lane || (e.laneGroup g).retired || (e.laneGroup g).fault.getLsbD lane) = true := by
    rw [hretired, hnew, Bool.or_false, Bool.or_false, decide_eq_true_eq]
    omega
  unfold Engine.laneFault
  dsimp only
  rw [if_neg hgood]
  obtain ⟨honly, hcount⟩ := Engine.stepError_idle_spec (e := e.putLaneGroup g ((e.laneGroup g).hit lane)) hidle Det.laneParity
    (e.putLaneGroup g ((e.laneGroup g).hit lane)).sampledNumber (place g 8 6 + place lane 0 5) none
  refine ⟨?_, hcount⟩
  rw [Engine.laneGroup]
  refine (congrArg (fun m : Smp => Table.getD m.groups g .good) honly.smp_eq).trans ?_
  exact Table.getD_put_self _ _ _ _

end

section
variable {s : State} {g : BitVec 6} {lane : BitVec 5} {x : LaneGroup}

theorem exec_laneFault (h : s.serves Isl.sm) (g : BitVec 6) (lane : BitVec 5) :
    exec (.laneFault g lane) s = .next { s with eng := s.seen.laneFault g.toNat lane.toNat } :=
  s.actIn_serves h fun e => e.laneFault g.toNat lane.toNat

theorem laneFault_known (h : s.serves Isl.sm) (hx : x = s.eng.laneGroup g.toNat)
    (hknown : 17 ≤ lane.toNat ∨ x.retired = true ∨ x.fault.getLsbD lane.toNat = true) :
    exec (.laneFault g lane) s = .next { s with eng := s.seen } := by
  subst hx
  rw [exec_laneFault h, Engine.laneFault_known (e := s.seen) hknown]

theorem laneFault_new (h : s.serves Isl.sm) (hx : x = s.eng.laneGroup g.toNat) (hlane : lane.toNat < 17) (hretired : x.retired = false)
    (hnew : x.fault.getLsbD lane.toNat = false) (hidle : s.eng.ylm.current = none) :
    ∃ t, exec (.laneFault g lane) s = .next t ∧ t.eng.laneGroup g.toNat = x.hit lane.toNat ∧
      t.eng.count Cnt.errStep = s.eng.count Cnt.errStep + 1#32 := by
  subst hx
  exact ⟨_, exec_laneFault h g lane, Engine.laneFault_new (e := s.seen) hlane hretired hnew hidle⟩

end

/-! ### The tile port (R229, R377) -/

section
variable {s : State} {purpose : BitVec 8} {c0 c1 : BitVec 32} {site : BitVec 24} {step : BitVec 16}

theorem exec_spgTileRequest (h : s.receives Isl.sp) (purpose : BitVec 8) (c0 c1 : BitVec 32) (site : BitVec 24) (step : BitVec 16) :
    exec (.spgTileRequest purpose c0 c1 site step) s =
      .next { s with eng := s.seen.tileRequest purpose.toNat c0 c1 site step.toNat } := s.cross_receives h _ _

/-- The requests that the port serves. -/
theorem Engine.servesTile_fits {e : Engine} {y : Yealm} {purpose site step : Nat} (hcur : e.ylm.current = some y)
    (hen : e.flag Fld.spgCtlTileEn = true) (hpurpose : purpose = 0x10 ∨ purpose = 0x11) (hstep : step = y.step % 65536)
    (hsite : e.siteFits y site = true) : e.servesTile purpose site step = some y := by
  simp [Engine.servesTile, hcur, hen, hpurpose, hstep, hsite]

/-- What a request that is served comes to. -/
theorem Engine.tileRequest_serves {e : Engine} {y : Yealm} {q : Quad} {purpose step : Nat} (hquiet : (e.evaluate Det.sparReject).1 = false)
    (h : (e.evaluate Det.sparReject).2.servesTile purpose site.toNat step = some y)
    (hq : q = tileWords y.step purpose c0 c1 (site.setWidth 32) y.epoch) : e.tileRequest purpose c0 c1 site step =
      ((e.evaluate Det.sparReject).2.evaluations true 1).emit (.spgWords [q.x0, q.x1, q.x2, q.x3] false) := by
  subst hq
  unfold Engine.tileRequest
  dsimp only
  rw [h, hquiet]

/-- What a request that is not served comes to. -/
theorem Engine.tileRequest_rejects {e : Engine} {purpose step : Nat}
    (h : (e.evaluate Det.sparReject).2.servesTile purpose site.toNat step = none) : e.tileRequest purpose c0 c1 site step =
      (((e.evaluate Det.sparReject).2.emit (.spgWords [0, 0, 0, 0] true)).bump Cnt.spgTileReject).stepError Det.sparReject [] purpose
        (some (e.evaluate Det.sparReject).1) := by
  unfold Engine.tileRequest
  dsimp only
  rw [h]
  cases (e.evaluate Det.sparReject).1 <;> rfl

/-- A request that fits gets the words of its key and counter. -/
theorem spgTileRequest_serves {y : Yealm} {q : Quad} (h : s.receives Isl.sp) (hquiet : (s.eng.evaluate Det.sparReject).1 = false)
    (hcur : s.eng.ylm.current = some y) (hen : s.eng.flag Fld.spgCtlTileEn = true) (hpurpose : purpose = 0x10#8 ∨ purpose = 0x11#8)
    (hstep : step.toNat = y.step % 65536) (hsite : s.eng.siteFits y site.toNat = true)
    (hq : q = tileWords y.step purpose.toNat c0 c1 (site.setWidth 32) y.epoch) :
    ∃ t, exec (.spgTileRequest purpose c0 c1 site step) s = .next t ∧
      t.eng.out = .spgWords [q.x0, q.x1, q.x2, q.x3] false :: s.eng.out ∧
      t.eng.spg.evalTile = (s.eng.spg.evalTile + 1) % 65536 ∧ t.eng.ylm = s.eng.ylm := by
  have honly := s.seen.evaluate_only Det.sparReject
  have hout := s.seen.evaluate_out Det.sparReject
  have hquiet' : (s.seen.evaluate Det.sparReject).1 = false := hquiet
  have hserves : (s.seen.evaluate Det.sparReject).2.servesTile purpose.toNat site.toNat step.toNat = some y := by
    refine Engine.servesTile_fits ?_ ?_ ?_ hstep ?_
    · rw [honly.ylm_eq]
      exact hcur
    · rw [Engine.flag_congr honly.regs_eq]
      exact hen
    · obtain rfl | rfl := hpurpose
      · exact .inl rfl
      · exact .inr rfl
    · unfold Engine.siteFits Engine.family
      rw [honly.var_eq]
      exact hsite
  rw [exec_spgTileRequest h, Engine.tileRequest_serves hquiet' hserves hq]
  refine ⟨_, rfl, congrArg (List.cons _) hout, ?_, honly.ylm_eq⟩
  exact congrArg (fun p : Spg => (p.evalTile + 1) % 65536) honly.spg_eq

/-- With no step in compute no request fits: zero words, one count and a STEP-class error. -/
theorem spgTileRequest_rejects (h : s.receives Isl.sp) (hidle : s.eng.ylm.current = none) :
    ∃ t, exec (.spgTileRequest purpose c0 c1 site step) s = .next t ∧
      Output.spgWords [0#32, 0#32, 0#32, 0#32] true ∈ t.eng.out ∧ t.eng.spg = s.eng.spg ∧
      t.eng.count Cnt.spgTileReject = s.eng.count Cnt.spgTileReject + 1#32 ∧
      t.eng.count Cnt.errStep = s.eng.count Cnt.errStep + 1#32 := by
  have honly := s.seen.evaluate_only Det.sparReject
  have hcnt := s.seen.evaluate_cnt Det.sparReject
  have hidle' : (s.seen.evaluate Det.sparReject).2.ylm.current = none := by
    rw [honly.ylm_eq]
    exact hidle
  have hno : (s.seen.evaluate Det.sparReject).2.servesTile purpose.toNat site.toNat step.toNat = none := by
    rw [Engine.servesTile, hidle']
  rw [exec_spgTileRequest h, Engine.tileRequest_rejects hno]
  refine ⟨_, rfl, ?_⟩
  dsimp only
  generalize (s.seen.evaluate Det.sparReject).1 = injected
  generalize (s.seen.evaluate Det.sparReject).2 = e at *
  obtain ⟨hreport, hstep⟩ := Engine.stepError_idle_spec (e := (e.emit (.spgWords [0, 0, 0, 0] true)).bump Cnt.spgTileReject) hidle'
    Det.sparReject [] purpose.toNat (some injected)
  refine ⟨?_, ?_, ?_, ?_⟩
  · exact hreport.2.2.1.subset List.mem_cons_self
  · exact hreport.spg_eq.trans honly.spg_eq
  · exact (hreport.2.2.2.2.2 _ (by decide)).trans ((Engine.count_bump_self _ _).trans (congrArg (· + 1#32) (Engine.count_congr hcnt _)))
  · refine hstep.trans (congrArg (· + 1#32) ?_)
    exact (Engine.count_bump_ne _ (by decide)).trans (Engine.count_congr hcnt _)

end

/-! ### Shadow checks (R230) -/

section
variable {s : State} {active culprit : BitVec 9} {x : SparCore}

theorem exec_shadowCheck (h : s.serves Isl.sp) (active : BitVec 9) (agrees : Bool) (culprit : BitVec 9) :
    exec (.shadowCheck active agrees culprit) s = .next { s with eng := s.seen.shadowCore active.toNat agrees culprit.toNat } :=
  s.actIn_serves h fun e => e.shadowCore active.toNat agrees culprit.toNat

theorem shadowCheck_disabled {agrees : Bool} (h : s.serves Isl.sp) (hen : s.eng.flag Fld.spgCtlShadowEn = false) :
    exec (.shadowCheck active agrees culprit) s = .next { s with eng := s.seen } := by
  have hen' : s.seen.flag Fld.spgCtlShadowEn = false := hen
  rw [exec_shadowCheck h, Engine.shadowCore]
  simp [hen']

/-- A check of an active core, a spare being there, that no slot makes fail. -/
structure Engine.checks (e : Engine) (active : Nat) (x : SparCore) : Prop where
  enabled : e.flag Fld.spgCtlShadowEn = true
  core : Table.get? e.spg.cores active = some x
  active : x.active = true
  spare : (e.spg.cores.any fun c => c.2.spare) = true
  quiet : (e.evaluate Det.sparShadow).1 = false

theorem Engine.shadowCore_eq {e : Engine} {active : Nat} (h : e.checks active x) (agrees : Bool) (culprit : Nat) :
    e.shadowCore active agrees culprit = if agrees then (e.evaluate Det.sparShadow).2.bump Cnt.spgShadow else
      (({ (e.evaluate Det.sparShadow).2.bump Cnt.spgShadow with spg := { (e.evaluate Det.sparShadow).2.spg with
        culprits := insertNat culprit (e.evaluate Det.sparShadow).2.spg.culprits } } : Engine).bump Cnt.spgMismatch).stepError
          Det.sparShadow [] active (some false) := by
  obtain ⟨hen, hcore, hactive, hspare, hquiet⟩ := h
  unfold Engine.shadowCore
  dsimp only
  rw [if_neg (by simp [hen, hcore, hactive, hspare])]
  cases agrees <;> simp [hquiet]

theorem shadowCheck_agrees (h : s.serves Isl.sp) (hx : s.eng.checks active.toNat x) :
    ∃ t, exec (.shadowCheck active true culprit) s = .next t ∧ t.eng.spg = s.eng.spg ∧
      t.eng.count Cnt.spgShadow = s.eng.count Cnt.spgShadow + 1#32 ∧ t.eng.out = s.eng.out := by
  have hx' : s.seen.checks active.toNat x := ⟨hx.enabled, hx.core, hx.active, hx.spare, hx.quiet⟩
  rw [exec_shadowCheck h, Engine.shadowCore_eq hx', if_pos rfl]
  refine ⟨_, rfl, (s.seen.evaluate_only _).spg_eq, ?_, s.seen.evaluate_out _⟩
  exact (Engine.count_bump_self _ _).trans (congrArg (· + 1#32) (Engine.count_congr (s.seen.evaluate_cnt _) _))

theorem shadowCheck_disagrees (h : s.serves Isl.sp) (hx : s.eng.checks active.toNat x) (hidle : s.eng.ylm.current = none) :
    ∃ t, exec (.shadowCheck active false culprit) s = .next t ∧
      t.eng.spg = { s.eng.spg with culprits := insertNat culprit.toNat s.eng.spg.culprits } ∧
      t.eng.count Cnt.spgMismatch = s.eng.count Cnt.spgMismatch + 1#32 ∧ t.eng.count Cnt.errStep = s.eng.count Cnt.errStep + 1#32 := by
  have hx' : s.seen.checks active.toNat x := ⟨hx.enabled, hx.core, hx.active, hx.spare, hx.quiet⟩
  rw [exec_shadowCheck h, Engine.shadowCore_eq hx', if_neg (by decide)]
  refine ⟨_, rfl, ?_⟩
  have honly := s.seen.evaluate_only Det.sparShadow
  have hcnt := s.seen.evaluate_cnt Det.sparShadow
  generalize (s.seen.evaluate Det.sparShadow).2 = e at honly hcnt
  have hidle' : e.ylm.current = none := by
    rw [honly.ylm_eq]
    exact hidle
  obtain ⟨hreport, hstep⟩ := Engine.stepError_idle_spec (e := ({ e.bump Cnt.spgShadow with spg := { e.spg with
    culprits := insertNat culprit.toNat e.spg.culprits } } : Engine).bump Cnt.spgMismatch) hidle' Det.sparShadow [] active.toNat (some false)
  refine ⟨hreport.spg_eq.trans ?_, (hreport.2.2.2.2.2 _ (by decide)).trans ((Engine.count_bump_self _ _).trans ?_), hstep.trans ?_⟩
  · exact congrArg (fun p : Spg => { p with culprits := insertNat culprit.toNat p.culprits }) honly.spg_eq
  · exact congrArg (· + 1#32) ((Engine.count_bump_ne e (by decide)).trans (Engine.count_congr hcnt _))
  · refine congrArg (· + 1#32) ((Engine.count_bump_ne _ (by decide)).trans ?_)
    exact (Engine.count_bump_ne e (by decide)).trans (Engine.count_congr hcnt _)

end

/-! ### Known answers (R221, R233) -/

section
variable {s : State} {q : Quad}

theorem exec_katCommand (h : s.receives Isl.sp) (g : Bool) :
    exec (.katCommand g) s = .next { s with eng := s.seen.katStart g } := s.cross_receives h _ _

/-- Does a known-answer command wait: is its core active and a step in compute between boundaries (Table 9.3)? -/
def Engine.katWaits (e : Engine) : Bool :=
  ((Table.get? e.spg.cores (e.get Fld.spgCoreSelCore)).map (·.active)).getD false && e.ylm.current.isSome && !e.boundaryOpen

theorem Engine.katStart_waits {e : Engine} (h : e.katWaits = true) (g : Bool) :
    e.katStart g = { e with spg := { e.spg with katBusy := true, katGumbel := g } } := if_pos h

theorem Engine.katStart_runs {e : Engine} (h : e.katWaits = false) (g : Bool) : e.katStart g = e.katRun g :=
  if_neg (by rw [Bool.not_eq_true]; exact h)

/-- The evaluation that the SPG_KAT registers ask for. -/
def Engine.katWords (e : Engine) : Quad :=
  spar (BitVec.ofNat 32 (e.get Fld.spgKatKey0K0)) (BitVec.ofNat 32 (e.get Fld.spgKatKey1K1))
    { x0 := BitVec.ofNat 32 (e.get Fld.spgKatCtr0C), x1 := BitVec.ofNat 32 (e.get Fld.spgKatCtr1C),
      x2 := BitVec.ofNat 32 (e.get Fld.spgKatCtr2C), x3 := BitVec.ofNat 32 (e.get Fld.spgKatCtr3C) }

/-- The engine with the four words in the output registers. -/
def Engine.katPut (e : Engine) : Engine :=
  { (((e.put (katOut 0) e.katWords.x0.toNat).put (katOut 1) e.katWords.x1.toNat).put (katOut 2) e.katWords.x2.toNat).put (katOut 3)
      e.katWords.x3.toNat with spg := { e.spg with katBusy := false } }

theorem Engine.katRun_eq (e : Engine) (g : Bool) :
    e.katRun g = if g then e.katPut.put katG (gumbel e.katWords.x0).toNat else e.katPut := rfl

theorem Engine.katPut_words (e : Engine) : e.katPut.get (katOut 0) = e.katWords.x0.toNat ∧ e.katPut.get (katOut 1) = e.katWords.x1.toNat ∧
    e.katPut.get (katOut 2) = e.katWords.x2.toNat ∧ e.katPut.get (katOut 3) = e.katWords.x3.toNat ∧ e.katPut.get katG = e.get katG := by
  have hkeep (f : Field) : e.katPut.get f = ((((e.put (katOut 0) e.katWords.x0.toNat).put (katOut 1) e.katWords.x1.toNat).put (katOut 2)
      e.katWords.x2.toNat).put (katOut 3) e.katWords.x3.toNat).get f := rfl
  simp only [hkeep]
  refine ⟨?_, ?_, ?_, Engine.get_put_self _ _ _, ?_⟩
  · rw [Engine.get_put_ne _ _ (by decide), Engine.get_put_ne _ _ (by decide), Engine.get_put_ne _ _ (by decide), Engine.get_put_self]
  · rw [Engine.get_put_ne _ _ (by decide), Engine.get_put_ne _ _ (by decide), Engine.get_put_self]
  · rw [Engine.get_put_ne _ _ (by decide), Engine.get_put_self]
  · rw [Engine.get_put_ne _ _ (by decide), Engine.get_put_ne _ _ (by decide), Engine.get_put_ne _ _ (by decide),
      Engine.get_put_ne _ _ (by decide)]

theorem katCommand_waits (h : s.receives Isl.sp) (hwaits : s.eng.katWaits = true) (g : Bool) :
    ∃ t, exec (.katCommand g) s = .next t ∧ t.eng.spg = { s.eng.spg with katBusy := true, katGumbel := g } ∧ t.eng.regs = s.eng.regs := by
  have hwaits' : s.seen.katWaits = true := hwaits
  rw [exec_katCommand h, Engine.katStart_waits hwaits']
  exact ⟨_, rfl, rfl, rfl⟩

theorem katCommand_runs (h : s.receives Isl.sp) (hruns : s.eng.katWaits = false) (g : Bool) :
    ∃ t, exec (.katCommand g) s = .next t ∧ t.eng.spg = { s.eng.spg with katBusy := false } ∧
      t.eng.get (katOut 0) = s.eng.katWords.x0.toNat ∧ t.eng.get (katOut 1) = s.eng.katWords.x1.toNat ∧
      t.eng.get (katOut 2) = s.eng.katWords.x2.toNat ∧ t.eng.get (katOut 3) = s.eng.katWords.x3.toNat ∧
      (g = true → t.eng.get katG = (gumbel s.eng.katWords.x0).toNat) ∧ (g = false → t.eng.get katG = s.eng.get katG) := by
  have hruns' : s.seen.katWaits = false := hruns
  obtain ⟨h0, h1, h2, h3, hg⟩ := s.seen.katPut_words
  rw [exec_katCommand h, Engine.katStart_runs hruns', Engine.katRun_eq]
  refine ⟨_, rfl, ?_⟩
  cases g with
  | false => exact ⟨rfl, h0, h1, h2, h3, by simp, fun _ => hg⟩
  | true =>
    refine ⟨rfl, ?_, ?_, ?_, ?_, fun _ => Engine.get_put_self _ _ _, by simp⟩
    · exact (Engine.get_put_ne _ _ (by decide)).trans h0
    · exact (Engine.get_put_ne _ _ (by decide)).trans h1
    · exact (Engine.get_put_ne _ _ (by decide)).trans h2
    · exact (Engine.get_put_ne _ _ (by decide)).trans h3

end

/-- Settles O50: each watchdog and each port by whether its condition holds. -/
theorem leggetWatchdogsAndSparPorts : Obligations.LeggetWatchdogsAndSparPorts := by
  unfold Obligations.LeggetWatchdogsAndSparPorts
  refine ⟨fun s y h => ⟨gutterTimeout_idle h, gutterTimeout_replays h, randomWordTimeout_idle h, randomWordTimeout_replays h⟩, ?_, ?_, ?_, ?_⟩
  · refine fun s g lane x h hx => ⟨laneFault_known h hx, fun hlane hretired hnew hidle => ?_⟩
    obtain ⟨t, hrun, hgroup, hcount⟩ := laneFault_new h hx hlane hretired hnew hidle
    obtain ⟨hfault, hspare, hret⟩ := x.hit_marks lane.toNat
    refine ⟨t, _, hrun, hgroup, hfault, hspare, hret.trans hretired, fun hused hpend hsound hne => ?_, fun hused hpend hsound heq => ?_,
      fun hspent => LaneGroup.hit_further hspent _, hcount⟩
    · obtain ⟨hswitch, hretire⟩ := LaneGroup.hit_first hused hpend hsound lane.toNat
      exact ⟨hswitch.trans (decide_eq_true hne), hretire⟩
    · obtain ⟨hswitch, hretire⟩ := LaneGroup.hit_first hused hpend hsound lane.toNat
      exact ⟨hswitch.trans (decide_eq_false (not_not_intro heq)), hretire⟩
  · exact fun s purpose c0 c1 site step h => ⟨fun y q => spgTileRequest_serves h, spgTileRequest_rejects h⟩
  · refine fun s active culprit agrees x h => ⟨shadowCheck_disabled h, fun hen hcore hactive hspare hquiet => ?_⟩
    have hx : s.eng.checks active.toNat x := ⟨hen, hcore, hactive, hspare, hquiet⟩
    constructor
    · rintro rfl
      exact shadowCheck_agrees h hx
    · rintro rfl hidle
      exact shadowCheck_disagrees h hx hidle
  · rintro s g busy w q h rfl rfl rfl
    exact ⟨fun hwaits => katCommand_waits h hwaits g, fun hruns => katCommand_runs h hruns g⟩

end Sys2Proof.Machine
end

section
/-!
# Frames of a group

What the frames of a message depend on, and what becomes of a received frame that passes or fails the checks of its header
(R240, R243, R254, R263).
-/

namespace Sys2Proof.Machine

/-! ### What a record of the log and a report leave of the group -/

section
variable {e e' : Engine}

theorem LogOnly.mdv_eq (h : LogOnly e e') : e'.mdv = e.mdv := by rw [h.1]
theorem LogOnly.smp_eq (h : LogOnly e e') : e'.smp = e.smp := by rw [h.1]
theorem LogOnly.flt_eq (h : LogOnly e e') : e'.flt = e.flt := by rw [h.1]
theorem ReportOnly.mdv_eq (h : ReportOnly e e') : e'.mdv = e.mdv := by rw [h.1]
theorem ReportOnly.glb_eq (h : ReportOnly e e') : e'.glb = e.glb := by rw [h.1]
theorem ReportOnly.flt_eq (h : ReportOnly e e') : e'.flt = e.flt := by rw [h.1]
theorem ReportOnly.out_suffix (h : ReportOnly e e') : e.out <:+ e'.out := h.2.2.1

/-- A record of the log counts among the log's own counters alone. -/
theorem LogOnly.count_apart {c : Nat} (h : LogOnly e e') (hc : c < 0x6000 ∨ 0x7000 ≤ c) : e'.count c = e.count c := h.2.2 c hc

/-- A report counts among the counters of the log, the error unit and the tasks alone. -/
theorem ReportOnly.count_apart {c : Nat} (h : ReportOnly e e') (hc : c < 0x4000 ∨ 0x7000 ≤ c) : e'.count c = e.count c := by
  obtain ⟨-, -, -, -, -, hcount⟩ := h
  exact hcount c hc

end

/-! ### What the frames of a message depend on -/

/-- Two engines whose links, place in the tree, epochs and right to send are the same. -/
structure SameLinks (e e' : Engine) : Prop where
  map : e'.mdv.map = e.mdv.map
  rank : e'.mdv.rank = e.mdv.rank
  fencedRanks : e'.mdv.fencedRanks = e.mdv.fencedRanks
  guests : e'.mdv.guests = e.mdv.guests
  groupId : e'.mdv.groupId = e.mdv.groupId
  epoch : e'.mdv.epoch = e.mdv.epoch
  oldEpoch : e'.mdv.oldEpoch = e.mdv.oldEpoch
  epochStep : e'.mdv.epochStep = e.mdv.epochStep
  joined : e'.mdv.joined = e.mdv.joined
  fenced : e'.mdv.fenced = e.mdv.fenced
  phase : e'.flt.shadow.phase = e.flt.shadow.phase

namespace SameLinks

variable {e e' : Engine}

theorem of_mdv (hmdv : e'.mdv = e.mdv) (hflt : e'.flt = e.flt) : SameLinks e e' := by
  constructor <;> simp only [hmdv, hflt]

theorem parentRank (h : SameLinks e e') : e'.parentRank = e.parentRank := by
  simp only [Engine.parentRank, Engine.rank?, h.map, h.rank]

theorem ringPeer (h : SameLinks e e') : e'.ringPeer = e.ringPeer := by
  simp only [Engine.ringPeer, Engine.rank?, h.map, h.rank]

theorem shadows (h : SameLinks e e') : e'.shadows = e.shadows := by
  simp only [Engine.shadows, h.phase]

theorem below (h : SameLinks e e') : e'.below = e.below := by
  simp only [Engine.below, h.map, h.rank]

theorem down (h : SameLinks e e') : e'.down = e.down := by
  simp only [Engine.down, h.shadows, h.below, h.fencedRanks, h.guests]

theorem pathUp (h : SameLinks e e') : ∀ n r, e'.pathUp n r = e.pathUp n r
  | 0, _ => rfl
  | n + 1, r => by simp only [Engine.pathUp, h.map, h.pathUp n]

theorem hop (h : SameLinks e e') (dst : Nat) : e'.hop dst = e.hop dst := by
  simp only [Engine.hop, h.shadows, h.below, h.pathUp, h.parentRank]

theorem nodesOf (h : SameLinks e e') (type : Nat) : e'.nodesOf type = e.nodesOf type := by
  funext peer
  simp only [Engine.nodesOf, Engine.rank?, h.map, h.fencedRanks, h.guests]

theorem epochFor (h : SameLinks e e') (step : Nat) : e'.epochFor step = e.epochFor step := by
  simp only [Engine.epochFor, h.epochStep, h.oldEpoch, h.epoch]

theorem maySend (h : SameLinks e e') (type : Nat) : e'.maySend type = e.maySend type := by
  simp only [Engine.maySend, h.joined, h.fenced]

end SameLinks

/-- An engine that has driven more outputs, newest first, and is otherwise as it was. -/
def Engine.driven (e : Engine) (l : List Output) : Engine := { e with out := l ++ e.out }

@[simp] theorem Engine.driven_out (e : Engine) (l : List Output) : (e.driven l).out = l ++ e.out := rfl
@[simp] theorem Engine.driven_mdv (e : Engine) (l : List Output) : (e.driven l).mdv = e.mdv := rfl
@[simp] theorem Engine.driven_flt (e : Engine) (l : List Output) : (e.driven l).flt = e.flt := rfl

theorem Engine.driven_driven (e : Engine) (l m : List Output) : (e.driven l).driven m = e.driven (m ++ l) := by
  simp [Engine.driven]

section
variable {e e' : Engine} (h : SameLinks e e') (type dst step : Nat) (body : List Byte)
include h

/-- What an engine with the same links drives is the same, and it drives nothing else. -/
theorem SameLinks.onLinks (peers : List Nat) (up : Bool) : ∃ l, e.onLinks peers up type dst step body = e.driven l ∧
    e'.onLinks peers up type dst step body = e'.driven l := by
  refine ⟨_, Engine.foldl_emit _ e, ?_⟩
  unfold Engine.onLinks
  rw [Engine.foldl_emit, h.nodesOf, h.rank, h.epochFor, h.groupId]
  rfl

theorem SameLinks.post : ∃ l, e.post type dst step body = e.driven l ∧
    e'.post type dst step body = e'.driven l := by
  unfold Engine.post
  rw [h.down, h.hop]
  split
  · exact h.onLinks type dst step body _ _
  · dsimp only
    split
    · exact ⟨[], rfl, rfl⟩
    · exact h.onLinks type dst step body _ _

theorem SameLinks.send : ∃ l, e.send type dst step body = e.driven l ∧
    e'.send type dst step body = e'.driven l := by
  unfold Engine.send
  rw [h.maySend]
  split
  · exact h.post type dst step body
  · exact ⟨[], rfl, rfl⟩

theorem SameLinks.toward (peer from_ : Nat) : ∃ l, e.toward peer from_ type step body = e.driven l ∧
    e'.toward peer from_ type step body = e'.driven l := by
  unfold Engine.toward
  rw [h.parentRank]
  split
  · exact ⟨[], rfl, rfl⟩
  · exact h.onLinks type peer step body _ _

/-- More outputs leave the links as they are. -/
theorem SameLinks.outs (l l' : List Output) : SameLinks { e with out := l } { e' with out := l' } := by
  cases h
  constructor <;> assumption

theorem SameLinks.flood (from_ : Nat) : ∃ l, e.flood type step body from_ = e.driven l ∧
    e'.flood type step body from_ = e'.driven l := by
  unfold Engine.flood
  rw [h.maySend, h.down]
  split
  · exact ⟨[], rfl, rfl⟩
  · obtain ⟨l1, h1, h1'⟩ := h.onLinks type 0xFFFF step body (e.down.filter (· != from_)) false
    dsimp only
    generalize e.onLinks (e.down.filter (· != from_)) false type 0xFFFF step body = a at h1
    generalize e'.onLinks (e.down.filter (· != from_)) false type 0xFFFF step body = a' at h1'
    have ha : SameLinks a a' := by rw [h1, h1']; exact h.outs _ _
    obtain ⟨l2, h2, h2'⟩ := ha.toward type step body a.parentRank from_
    rw [ha.parentRank]
    generalize a.toward a.parentRank from_ type step body = b at h2
    generalize a'.toward a.parentRank from_ type step body = b' at h2'
    have hb : SameLinks b b' := by rw [h2, h2']; exact ha.outs _ _
    obtain ⟨l3, h3, h3'⟩ := hb.toward type step body a.ringPeer from_
    rw [ha.ringPeer]
    refine ⟨l3 ++ (l2 ++ l1), ?_, ?_⟩
    · rw [h3, h2, h1, Engine.driven_driven, Engine.driven_driven, List.append_assoc]
    · rw [h3', h2', h1', Engine.driven_driven, Engine.driven_driven, List.append_assoc]

end

theorem SameLinks.refl (e : Engine) : SameLinks e e := .of_mdv rfl rfl

/-- A flood drives frames, the same ones on the same links. -/
theorem Engine.flood_driven (e : Engine) (type step : Nat) (body : List Byte) (from_ : Nat) :
    ∃ l, e.flood type step body from_ = e.driven l ∧ ∀ a, SameLinks e a → a.flood type step body from_ = a.driven l := by
  obtain ⟨l, hl, -⟩ := (SameLinks.refl e).flood type step body from_
  refine ⟨l, hl, fun a ha => ?_⟩
  obtain ⟨m, hm, hm'⟩ := ha.flood type step body from_
  have hsame : m = l := List.append_cancel_right (congrArg Engine.out (hm.symm.trans hl))
  exact hsame ▸ hm'

theorem SameLinks.trans {a b c : Engine} (h : SameLinks a b) (k : SameLinks b c) : SameLinks a c := by
  cases h
  cases k
  constructor <;> simp only [*]

/-- A message is its frames, put before what has been driven. -/
theorem Engine.send_eq_frames (e : Engine) (type dst step : Nat) (body : List Byte) :
    e.send type dst step body = e.driven (e.frames type dst step body) := by
  obtain ⟨l, hl, hl'⟩ := ((SameLinks.refl e).outs e.out []).send type dst step body
  have hframes : e.frames type dst step body = l := (congrArg Engine.out hl').trans (List.append_nil l)
  rw [hframes]
  exact hl

theorem SameLinks.frames {e e' : Engine} (h : SameLinks e e') (type dst step : Nat) (body : List Byte) :
    e'.frames type dst step body = e.frames type dst step body := by
  obtain ⟨l, hl, hl'⟩ := (h.outs [] []).send type dst step body
  exact (congrArg Engine.out hl').trans (congrArg Engine.out hl).symm

theorem SameLinks.send_out {e e' : Engine} (h : SameLinks e e') (hout : e'.out = e.out) (type dst step : Nat) (body : List Byte) :
    (e'.send type dst step body).out = (e.send type dst step body).out := by
  obtain ⟨l, hl, hl'⟩ := h.send type dst step body
  rw [hl, hl', Engine.driven_out, Engine.driven_out, hout]

theorem Engine.send_mdv (e : Engine) (type dst step : Nat) (body : List Byte) : (e.send type dst step body).mdv = e.mdv := by
  rw [Engine.send_eq_frames, Engine.driven_mdv]

/-! ### A received frame (R243, R254) -/

/-- With no slot armed for it a detector reports nothing. -/
theorem Engine.evaluate_unarmed {e : Engine} {det : Nat} (h : e.unarmed det) : e.evaluate det = (false, e) := by
  have hslot : ∀ x ∈ e.err.slots, (x.2.arm && x.2.detector == det) = false := fun x hx => by
    rw [Bool.eq_false_iff, Ne, Bool.and_eq_true, beq_iff_eq]
    exact h x hx
  have hnone : (e.err.slots.any fun x => x.2.arm && x.2.detector == det) = false :=
    List.any_eq_false.2 fun x hx => Bool.eq_false_iff.1 (hslot x hx)
  have hfire : (e.err.slots.any fun x => (x.2.evaluate det).1) = false :=
    List.any_eq_false.2 fun x hx => by simp [InjSlot.evaluate, hslot x hx]
  unfold Engine.evaluate
  simp [hnone, hfire]

/-- A frame that fails a check of its header is discarded. -/
theorem Engine.onFrame_turnsAway {e : Engine} {f : Frame} {type : Nat} {body : List Byte} (h : e.turnsAway f type body)
    (act : Engine → Engine) : e.onFrame f type body act = e.discard 1 := by
  unfold Engine.onFrame Engine.onChecked
  simp [Engine.evaluate_unarmed h.1, h.2]

/-- A frame that passes the checks acts on an engine that has heard it, unless it came on channel 1 to a fenced engine. -/
theorem Engine.onFrame_takes {e : Engine} {f : Frame} {type : Nat} {body : List Byte} (h : e.takes f type body)
    (hopen : channelOf type f.up ≠ 1 ∨ e.mdv.fenced = false) (act : Engine → Engine) : e.onFrame f type body act = act (e.hear f) := by
  obtain ⟨hquiet, hwhole, hok⟩ := h
  have hchannel : (e.mdv.fenced && channelOf type f.up == 1) = false := by
    rcases hopen with hchan | hfenced
    · rw [beq_eq_false_iff_ne.2 hchan, Bool.and_false]
    · rw [hfenced, Bool.false_and]
  unfold Engine.onFrame Engine.onChecked
  simp [Engine.evaluate_unarmed hquiet, hwhole, hok, hchannel]

/-- A discarded frame is counted and recorded, and nothing else (R243). -/
theorem Engine.discard_discards (e : Engine) (why : Nat) : e.discards (e.discard why) := by
  have h := (e.bump Cnt.mdvMsgDiscard).log_only Ev.discard [why]
  exact ⟨(h.count_apart (by decide)).trans (e.count_bump_self _), h.mdv_eq, h.ylm_eq, h.smp_eq, h.flt_eq, h.rafter_eq, h.out_eq⟩

/-- What an engine that hears a frame changes: the time of its parent's or its closure's last word. -/
theorem Engine.hear_eq (e : Engine) (f : Frame) : ∃ t, e.hear f = { e with mdv := { e.mdv with heardAt := t } } := by
  unfold Engine.hear
  split
  · exact ⟨e.now, rfl⟩
  · exact ⟨e.mdv.heardAt, rfl⟩

/-! ### A frame at the state's engine -/

theorem State.seen_get (s : State) (f : Field) : s.seen.get f = s.eng.get f := rfl
theorem State.seen_mdv (s : State) : s.seen.mdv = s.eng.mdv := rfl
theorem State.seen_now (s : State) : s.seen.now = s.tb.count := rfl

section
variable {s : State} {f : Frame} {type : Nat} {body : List Byte}

theorem State.cross_takes (h : s.receives Isl.md) (hf : s.eng.takes f type body) (hopen : channelOf type f.up ≠ 1 ∨ s.eng.mdv.fenced = false)
    (c : Instr) (act : Engine → Engine) :
    (s.cross Isl.md c fun e => e.onFrame f type body act) = .next { s with eng := act (s.seen.hear f) } := by
  have hf' : s.seen.takes f type body := hf
  rw [State.cross_receives h, Engine.onFrame_takes hf' hopen]

theorem State.cross_turnsAway (h : s.receives Isl.md) (hf : s.eng.turnsAway f type body) (c : Instr) (act : Engine → Engine) :
    (s.cross Isl.md c fun e => e.onFrame f type body act) = .next { s with eng := s.seen.discard 1 } := by
  have hf' : s.seen.turnsAway f type body := hf
  rw [State.cross_receives h, Engine.onFrame_turnsAway hf']

/-- Whatever its type, a frame that fails the common checks of its header is discarded. -/
theorem State.cross_discards (h : s.receives Isl.md) (hf : s.eng.turnsAway f type body) (c : Instr) (act : Engine → Engine) :
    ∃ t, (s.cross Isl.md c fun e => e.onFrame f type body act) = .next t ∧ s.eng.discards t.eng :=
  ⟨_, State.cross_turnsAway h hf c act, s.seen.discard_discards 1⟩

/-- The engine that has heard a frame differs from the state's in the time and in the time of the last word. -/
theorem State.heard_eq (s : State) (f : Frame) :
    ∃ t, s.seen.hear f = { s.eng with now := s.tb.count, mdv := { s.eng.mdv with heardAt := t } } := s.seen.hear_eq f

theorem State.heard_mdv (s : State) (f : Frame) : ∃ t, (s.seen.hear f).mdv = { s.eng.mdv with heardAt := t } := by
  obtain ⟨t, ht⟩ := s.heard_eq f
  exact ⟨t, congrArg Engine.mdv ht⟩

theorem State.heard_rank (s : State) (f : Frame) : (s.seen.hear f).mdv.rank = s.eng.mdv.rank := by
  obtain ⟨t, ht⟩ := s.heard_mdv f
  rw [ht]

theorem State.heard_fenced (s : State) (f : Frame) : (s.seen.hear f).mdv.fenced = s.eng.mdv.fenced := by
  obtain ⟨t, ht⟩ := s.heard_mdv f
  rw [ht]

theorem State.heard_manages (s : State) (f : Frame) : (s.seen.hear f).manages = s.eng.manages := by
  obtain ⟨t, ht⟩ := s.heard_mdv f
  simp only [Engine.manages, ht]

theorem State.heard_out (s : State) (f : Frame) : (s.seen.hear f).out = s.eng.out := by
  obtain ⟨t, ht⟩ := s.heard_eq f
  rw [ht]

theorem State.heard_count (s : State) (f : Frame) (c : Nat) : (s.seen.hear f).count c = s.eng.count c := by
  obtain ⟨t, ht⟩ := s.heard_eq f
  rw [ht]
  rfl

theorem State.heard_links (s : State) (f : Frame) : SameLinks s.eng (s.seen.hear f) := by
  obtain ⟨t, ht⟩ := s.heard_eq f
  rw [ht]
  constructor <;> rfl

end

/-- What an engine that has heard a frame sends is what the state's engine sends. -/
theorem State.heard_send_out (s : State) (f : Frame) (type dst step : Nat) (body : List Byte) :
    ((s.seen.hear f).send type dst step body).out = (s.eng.send type dst step body).out :=
  (s.heard_links f).send_out (s.heard_out f) type dst step body

end Sys2Proof.Machine
end

section
/-!
# What a joining engine does with its map and with JOINs

JOIN_COMMAND, JOIN_TIMEOUT, JOIN and frames that fail a check (R234, R237, R240, R243, R246, R254).
-/

namespace Sys2Proof.Machine

/-! ### JOIN_COMMAND -/

theorem exec_joinCommand {s : State} (h : s.receives Isl.md) (node : BitVec 16) (header : Option (BitVec 512)) (es : List (BitVec 128)) :
    exec (.joinCommand node header es) s = .next { s with eng := s.seen.joinCommand node.toNat header es } :=
  State.cross_receives h _ _

section
variable {e : Engine}

theorem Engine.joinCommand_member (h : e.mdv.joined = true ∨ e.mdv.joining = true) (node : Nat) (header : Option (BitVec 512))
    (es : List (BitVec 128)) : e.joinCommand node header es = e.badAccess 0x080008 := by
  unfold Engine.joinCommand
  rw [if_pos (by simpa using h)]

variable (hjoined : e.mdv.joined = false) (hjoining : e.mdv.joining = false)
include hjoined hjoining

theorem Engine.joinCommand_busy (hquiet : e.quiet = false) (node : Nat) (header : Option (BitVec 512)) (es : List (BitVec 128)) :
    e.joinCommand node header es = e.joinBusy := by
  unfold Engine.joinCommand
  rw [hjoined, hjoining, hquiet]
  rfl

/-- An engine that reads a map takes it when no check fails, and refuses it with the reason otherwise. -/
theorem Engine.joinCommand_quiet (hquiet : e.quiet = true) (node : Nat) (header : Option (BitVec 512)) (es : List (BitVec 128)) :
    e.joinCommand node header es =
      if (e.readEntries node header).mapReason header es = 0 then ((e.readEntries node header).loadMap (header.getD 0) es).startJoin
      else (e.readEntries node header).refuseMap ((e.readEntries node header).mapReason header es) es := by
  unfold Engine.joinCommand
  rw [hjoined, hjoining, hquiet]
  rfl

end

/-- The checks of a map look at the node and the budget. -/
theorem Engine.readEntries_mapReason (e : Engine) (node : Nat) (header : Option (BitVec 512)) (es : List (BitVec 128)) :
    (e.readEntries node header).mapReason header es = ({ e with mdv := { e.mdv with node := node } } : Engine).mapReason header es := by
  cases header <;> rfl

theorem Engine.readEntries_mdv (e : Engine) (node : Nat) (header : Option (BitVec 512)) :
    (e.readEntries node header).mdv = { e.mdv with node := node } := by
  cases header <;> rfl

theorem Engine.readEntries_glb (e : Engine) (node : Nat) (header : Option (BitVec 512)) : (e.readEntries node header).glb = e.glb := by
  cases header <;> rfl

theorem Engine.refuseMap_mdv (e : Engine) (reason : Nat) (es : List (BitVec 128)) :
    (e.refuseMap reason es).mdv = { e.mdv with reason := reason, distWorst :=
      (if reason = 4 ∨ reason = 5 then sat32 (ceilDiv (worstDist (ranksOf es)) 100) else e.mdv.distWorst) } := by
  unfold Engine.refuseMap
  simp only [Bool.or_eq_true, decide_eq_true_eq]

/-- A map that passes has a header, and the engine's node stands in it. -/
theorem Engine.mapReason_zero {e : Engine} {header : Option (BitVec 512)} {es : List (BitVec 128)} (h : e.mapReason header es = 0) :
    ∃ hd r x, header = some hd ∧ (ranksOf es).find? (fun x => x.2.node == e.mdv.node) = some (r, x) := by
  unfold Engine.mapReason at h
  match header, h with
  | some hd, h =>
    have hone : ((ranksOf es).filter fun x => x.2.node == e.mdv.node).length = 1 := by
      dsimp only at h
      split_ifs at h
      simp_all
    obtain ⟨p, hp⟩ := List.length_eq_one_iff.1 hone
    have hsome : ((ranksOf es).find? fun x => x.2.node == e.mdv.node).isSome := by
      rw [List.find?_isSome]
      have hmem : p ∈ (ranksOf es).filter fun x => x.2.node == e.mdv.node := by rw [hp]; exact List.mem_singleton_self p
      exact ⟨p, List.mem_filter.1 hmem⟩
    obtain ⟨⟨r, x⟩, hrx⟩ := Option.isSome_iff_exists.1 hsome
    exact ⟨hd, r, x, rfl, hrx⟩

/-- The engine whose JOIN is about to go out. -/
def Engine.joinBegun (e : Engine) : Engine :=
  { e with mdv := { e.mdv with joining := true, joinAt := e.now, joins := if e.mdv.rank = 0 then [0] else [], reason := 0, fencedRanks := [],
                               epoch := 0, oldEpoch := 0, epochStep := 0, licensed := 0, misses := 0 },
           glb := { e.glb with phase := if e.glb.phase = 4 then 5 else e.glb.phase } }

theorem Engine.startJoin_eq (e : Engine) :
    e.startJoin = if e.mdv.rank = 0 then e.joinBegun else e.joinBegun.post 0x09 0 0 (joinBody e.mdv.check.toNat e.mdv.rank) := rfl

/-- An engine whose map is taken is joining, and any rank but 0 sends JOIN. -/
theorem Engine.startJoin_joins (e : Engine) : e.startJoin.mdv = e.joinBegun.mdv ∧ e.startJoin.glb = e.joinBegun.glb ∧
    (e.mdv.rank ≠ 0 → e.startJoin.out =
      (({ e.startJoin with out := e.out } : Engine).post 0x09 0 0 (joinBody e.startJoin.mdv.check.toNat e.mdv.rank)).out) ∧
    (e.mdv.rank = 0 → e.startJoin.out = e.out) := by
  rw [Engine.startJoin_eq]
  split
  · next hrank => exact ⟨rfl, rfl, fun h => absurd hrank h, fun _ => rfl⟩
  · next hrank =>
    obtain ⟨l, hl, -⟩ := (SameLinks.refl e.joinBegun).post 0x09 0 0 (joinBody e.mdv.check.toNat e.mdv.rank)
    rw [hl]
    exact ⟨rfl, rfl, fun _ => (congrArg Engine.out hl).symm, fun h => absurd h hrank⟩

section
variable {s : State} {node : BitVec 16} {header : Option (BitVec 512)} {es : List (BitVec 128)} (h : s.receives Isl.md)
include h

theorem joinCommand_member (hmember : s.eng.mdv.joined = true ∨ s.eng.mdv.joining = true) :
    ∃ t, exec (.joinCommand node header es) s = .next t ∧ t.eng.mdv = s.eng.mdv ∧ t.eng.glb = s.eng.glb ∧
      t.eng.count Cnt.errCorr = s.eng.count Cnt.errCorr + 1#32 := by
  have honly := s.seen.badAccess_only 0x080008
  refine ⟨{ s with eng := s.seen.badAccess 0x080008 }, (exec_joinCommand h node header es).trans ?_, honly.mdv_eq, honly.glb_eq,
    s.seen.badAccess_count _⟩
  rw [Engine.joinCommand_member (e := s.seen) hmember]

variable (hjoined : s.eng.mdv.joined = false) (hjoining : s.eng.mdv.joining = false)
include hjoined hjoining

theorem joinCommand_busy (hquiet : s.eng.quiet = false) :
    ∃ t, exec (.joinCommand node header es) s = .next t ∧ t.eng.mdv = { s.eng.mdv with reason := 6 } ∧ t.eng.glb = s.eng.glb ∧
      t.eng.count Cnt.errCorr = s.eng.count Cnt.errCorr + 1#32 := by
  have honly := (s.seen.refuseMap 6 []).badAccess_only 0x080008
  refine ⟨{ s with eng := s.seen.joinBusy }, (exec_joinCommand h node header es).trans ?_,
    honly.mdv_eq.trans (s.seen.refuseMap_mdv 6 []), honly.glb_eq, (s.seen.refuseMap 6 []).badAccess_count _⟩
  rw [Engine.joinCommand_busy (e := s.seen) hjoined hjoining hquiet]

variable (hquiet : s.eng.quiet = true)
include hquiet

theorem joinCommand_refuses {reason : Nat}
    (hreason : reason = ({ s.eng with mdv := { s.eng.mdv with node := node.toNat } } : Engine).mapReason header es) (hne : reason ≠ 0) :
    ∃ t, exec (.joinCommand node header es) s = .next t ∧ t.eng.mdv = { s.eng.mdv with node := node.toNat, reason := reason, distWorst :=
        (if reason = 4 ∨ reason = 5 then sat32 (ceilDiv (worstDist (ranksOf es)) 100) else s.eng.mdv.distWorst) } ∧
      t.eng.glb = s.eng.glb := by
  have hsame : (s.seen.readEntries node.toNat header).mapReason header es = reason := by
    rw [Engine.readEntries_mapReason, hreason]
    rfl
  refine ⟨{ s with eng := (s.seen.readEntries node.toNat header).refuseMap reason es }, (exec_joinCommand h node header es).trans ?_, ?_,
    s.seen.readEntries_glb node.toNat header⟩
  · rw [Engine.joinCommand_quiet (e := s.seen) hjoined hjoining hquiet, hsame, if_neg hne]
  · dsimp only
    rw [Engine.refuseMap_mdv, Engine.readEntries_mdv]
    rfl

theorem joinCommand_joins
    (hreason : ({ s.eng with mdv := { s.eng.mdv with node := node.toNat } } : Engine).mapReason header es = 0) :
    ∃ t r x read, exec (.joinCommand node header es) s = .next t ∧ (r, x) ∈ ranksOf es ∧ x.node = node.toNat ∧ t.eng.mdv.rank = r ∧
      t.eng.mdv.role = x.role ∧ t.eng.mdv.map = ranksOf es ∧ t.eng.mdv.node = node.toNat ∧ t.eng.mdv.joining = true ∧
      t.eng.mdv.joined = false ∧ t.eng.mdv.joinAt = s.tb.count ∧ t.eng.mdv.reason = 0 ∧ t.eng.mdv.joins = (if r = 0 then [0] else []) ∧
      t.eng.mdv.distWorst = sat32 (ceilDiv (worstDist (ranksOf es)) 100) ∧
      t.eng.glb.phase = (if s.eng.glb.phase = 4 then 5 else s.eng.glb.phase) ∧
      read = Output.hostRead (BitVec.ofNat 64 (s.eng.mapBase + 64)) (16 * f512 (header.getD 0) 8 0 10) :: s.eng.out ∧
      (r ≠ 0 → t.eng.out = (({ t.eng with out := read } : Engine).post 0x09 0 0 (joinBody t.eng.mdv.check.toNat r)).out) ∧
      (r = 0 → t.eng.out = read) := by
  have hsame : (s.seen.readEntries node.toNat header).mapReason header es = 0 := by
    rw [Engine.readEntries_mapReason]
    exact hreason
  obtain ⟨hd, r, x, rfl, hfind⟩ := Engine.mapReason_zero hreason
  have hnode : x.node = node.toNat := beq_iff_eq.1 (List.find?_some hfind :)
  have hfind' : ((ranksOf es).find? fun x => x.2.node == node.toNat) = some (r, x) := hfind
  have hrank : ((s.seen.readEntries node.toNat (some hd)).loadMap hd es).mdv.rank = r :=
    congrArg (fun y => (Option.map Prod.fst y).getD 0) hfind'
  have hrole : ((s.seen.readEntries node.toNat (some hd)).loadMap hd es).mdv.role = x.role :=
    congrArg (fun y => (Option.map (fun y : Nat × Rank => y.2.role) y).getD Role.none) hfind'
  have hjoins := ((s.seen.readEntries node.toNat (some hd)).loadMap hd es).startJoin_joins
  rw [hrank] at hjoins
  obtain ⟨hmdv, hglb, hsend, hquietly⟩ := hjoins
  have hexec := exec_joinCommand h node (some hd) es
  rw [Engine.joinCommand_quiet (e := s.seen) hjoined hjoining hquiet, if_pos hsame] at hexec
  refine ⟨_, r, x, Output.hostRead (BitVec.ofNat 64 (s.eng.mapBase + 64)) (16 * f512 hd 8 0 10) :: s.eng.out, hexec,
    List.mem_of_find?_eq_some hfind, hnode, ?_⟩
  dsimp only
  refine ⟨(congrArg Mdv.rank hmdv).trans hrank, (congrArg Mdv.role hmdv).trans hrole, congrArg Mdv.map hmdv, congrArg Mdv.node hmdv,
    congrArg Mdv.joining hmdv, (congrArg Mdv.joined hmdv).trans hjoined, congrArg Mdv.joinAt hmdv, congrArg Mdv.reason hmdv,
    (congrArg Mdv.joins hmdv).trans ?_, congrArg Mdv.distWorst hmdv, congrArg Glb.phase hglb, rfl, hsend, hquietly⟩
  rw [Engine.joinBegun, hrank]

end

/-! ### JOIN_TIMEOUT -/

/-- Has the time a join may take passed? -/
def Engine.joinDue (e : Engine) : Bool := e.mdv.joining && decide (e.mdv.joinAt + e.get Fld.mdvJoinToMs * 1000000 ≤ e.now)

/-- What JOIN_TIMEOUT does. -/
def Engine.joinExpires (e : Engine) : Engine :=
  if e.joinDue then ({ e with mdv := { e.mdv with joining := false, reason := 7 } } : Engine).log Ev.joinTimeout [] else e

theorem exec_joinTimeout {s : State} (h : s.serves Isl.md) : exec .joinTimeout s = .next { s with eng := s.seen.joinExpires } :=
  State.actIn_serves h Engine.joinExpires

theorem Engine.joinDue_iff (e : Engine) : e.joinDue = true ↔
    e.mdv.joining = true ∧ e.mdv.joinAt + e.get Fld.mdvJoinToMs * 1000000 ≤ e.now := by
  rw [Engine.joinDue, Bool.and_eq_true, decide_eq_true_eq]

theorem State.joinDue_iff (s : State) : s.seen.joinDue = true ↔
    s.eng.mdv.joining = true ∧ s.eng.mdv.joinAt + s.eng.get Fld.mdvJoinToMs * 1000000 ≤ s.tb.count := by
  have h := s.seen.joinDue_iff
  rw [State.seen_mdv] at h
  rw [State.seen_get] at h
  rw [State.seen_now] at h
  exact h

theorem joinTimeout_expires {s : State} (h : s.serves Isl.md) (hdue : s.seen.joinDue = true) :
    ∃ t, exec .joinTimeout s = .next t ∧ t.eng.mdv = { s.eng.mdv with joining := false, reason := 7 } ∧ t.eng.out = s.eng.out := by
  have hlog := ({ s.seen with mdv := { s.eng.mdv with joining := false, reason := 7 } } : Engine).log_only Ev.joinTimeout []
  refine ⟨_, exec_joinTimeout h, ?_⟩
  rw [Engine.joinExpires, if_pos hdue]
  exact ⟨hlog.mdv_eq, hlog.out_eq⟩

theorem joinTimeout_waits {s : State} (h : s.serves Isl.md) (hdue : ¬s.seen.joinDue = true) :
    exec .joinTimeout s = .next { s with eng := s.seen } := by
  rw [exec_joinTimeout h, Engine.joinExpires, if_neg hdue]

/-! ### JOIN -/

/-- A LEASE of the manager of a group goes over every link. -/
theorem Engine.sendLease_leads {e : Engine} (h : e.leadsGroup = true) (step : Nat) : e.sendLease step =
    ({ e with mdv := { e.mdv with licensed := step, leaseAt := e.now } } : Engine).flood 0x01 step (leaseBody e.liveRanks.length) noRank := by
  rw [Engine.sendLease, h]
  rfl

theorem Engine.sendLease_lone {e : Engine} (h : e.leadsGroup = false) (step : Nat) : e.sendLease step = e := by
  rw [Engine.sendLease, h]
  rfl

theorem Engine.allJoined_more {e : Engine} (hmore : e.mdv.joins.length ≠ e.mdv.map.length) : e.allJoined = e := by
  rw [Engine.allJoined, if_neg hmore]

/-- With the last JOIN the group stands, and the manager of more than one rank licenses step 1. -/
theorem Engine.allJoined_last {e : Engine} (hall : e.mdv.joins.length = e.mdv.map.length) : e.allJoined.mdv.joined = true ∧
    e.allJoined.mdv.joining = false ∧ e.allJoined.mdv.coverAt = e.now ∧ e.allJoined.mdv.leaseAt = e.now ∧
    (e.mdv.role = Role.manager → 1 < e.mdv.map.length → e.allJoined.mdv.licensed = 1 ∧
      ∀ a : Engine, a.mdv = e.allJoined.mdv → a.flt = e.flt → a.out = e.out → e.allJoined.out = (a.flood 0x01 1 (leaseBody e.liveRanks.length) noRank).out) := by
  rw [Engine.allJoined, if_pos hall]
  have hleads : (Engine.leadsGroup { e with mdv := { e.mdv with
      joined := true, joining := false, coverAt := e.now, leaseAt := e.now, reason := 0 } }) =
      (e.mdv.role == Role.manager && decide (1 < e.mdv.map.length)) := rfl
  cases hgroup : e.mdv.role == Role.manager && decide (1 < e.mdv.map.length) with
  | false =>
    rw [Engine.sendLease_lone (hleads.trans hgroup)]
    refine ⟨rfl, rfl, rfl, rfl, fun hrole hranks => ?_⟩
    rw [hrole, decide_eq_true hranks] at hgroup
    exact absurd hgroup (by decide)
  | true =>
    rw [Engine.sendLease_leads (hleads.trans hgroup)]
    obtain ⟨l, hl⟩ := Engine.flood_driven { e with mdv := { e.mdv with
      joined := true, joining := false, coverAt := e.now, leaseAt := e.now, reason := 0, licensed := 1 } } 0x01 1
        (leaseBody e.liveRanks.length) noRank
    dsimp only [Engine.liveRanks] at hl ⊢
    rw [hl.1]
    exact ⟨rfl, rfl, rfl, rfl, fun _ _ => ⟨rfl, fun a hmdv hflt hout =>
      ((congrArg Engine.out (hl.2 a (.of_mdv hmdv hflt))).trans (congrArg (l ++ ·) hout)).symm⟩⟩

/-- The engine that has counted the JOIN of a rank; a is the time of the last word it has heard. -/
def State.joinCounted (s : State) (a rank : Nat) : Engine :=
  { s.eng with now := s.tb.count, mdv := { s.eng.mdv with heardAt := a, joins := insertNat rank s.eng.mdv.joins } }

section
variable {s : State} {f : Frame} {check : BitVec 32} {rank : BitVec 9} (h : s.receives Isl.md)
  (hf : s.eng.takes f 0x09 (joinBody check.toNat rank.toNat))
include h hf

theorem exec_join : exec (.join f check rank) s = .next { s with eng := (s.seen.hear f).takeJoin check rank.toNat } :=
  State.cross_takes h hf (.inl Nat.zero_ne_one) _ _

theorem join_ignored (hjoining : s.eng.mdv.joining = false) : ∃ t, exec (.join f check rank) s = .next t ∧
    t.eng.mdv.joins = s.eng.mdv.joins ∧ t.eng.mdv.joined = s.eng.mdv.joined ∧ t.eng.out = s.eng.out := by
  rw [exec_join h hf]
  obtain ⟨a, ha⟩ := s.heard_eq f
  rw [ha]
  refine ⟨_, rfl, ?_⟩
  simp [Engine.takeJoin, hjoining]

theorem join_passed (hjoining : s.eng.mdv.joining = true) (hrank : s.eng.mdv.rank ≠ 0) : ∃ t, exec (.join f check rank) s = .next t ∧
    t.eng.mdv.joins = s.eng.mdv.joins ∧ t.eng.out = (s.eng.post 0x09 0 0 (joinBody check.toNat rank.toNat)).out := by
  obtain ⟨l, hl, hl'⟩ := (s.heard_links f).post 0x09 0 0 (joinBody check.toNat rank.toNat)
  have htake : (s.seen.hear f).takeJoin check rank.toNat = (s.seen.hear f).driven l := by
    rw [← hl']
    obtain ⟨a, ha⟩ := s.heard_eq f
    rw [ha]
    simp [Engine.takeJoin, Engine.sendJoin, hjoining, hrank]
  rw [exec_join h hf, htake, hl]
  obtain ⟨a, ha⟩ := s.heard_eq f
  rw [ha]
  exact ⟨_, rfl, rfl, rfl⟩

variable (hjoining : s.eng.mdv.joining = true) (hrank : s.eng.mdv.rank = 0) (hcheck : check = s.eng.mdv.check)
  (hknown : Table.has s.eng.mdv.map rank.toNat = true)
include hjoining hrank hcheck hknown

/-- At rank 0 a JOIN with the manager's CHECK is counted. -/
theorem exec_join_counted : ∃ a, exec (.join f check rank) s = .next { s with eng := (s.joinCounted a rank.toNat).allJoined } := by
  obtain ⟨a, ha⟩ := s.heard_eq f
  refine ⟨a, (exec_join h hf).trans ?_⟩
  rw [ha]
  simp [Engine.takeJoin, State.joinCounted, hjoining, hrank, hcheck, hknown]

theorem join_counted (hmore : (insertNat rank.toNat s.eng.mdv.joins).length ≠ s.eng.mdv.map.length) :
    ∃ t, exec (.join f check rank) s = .next t ∧ t.eng.mdv.joins = insertNat rank.toNat s.eng.mdv.joins ∧
      t.eng.mdv.joining = true ∧ t.eng.mdv.joined = s.eng.mdv.joined ∧ t.eng.out = s.eng.out := by
  obtain ⟨a, hexec⟩ := exec_join_counted h hf hjoining hrank hcheck hknown
  rw [Engine.allJoined_more (e := s.joinCounted a rank.toNat) hmore] at hexec
  exact ⟨_, hexec, rfl, hjoining, rfl, rfl⟩

theorem join_last (hall : (insertNat rank.toNat s.eng.mdv.joins).length = s.eng.mdv.map.length) :
    ∃ t, exec (.join f check rank) s = .next t ∧ t.eng.mdv.joined = true ∧ t.eng.mdv.joining = false ∧
      t.eng.mdv.coverAt = s.tb.count ∧ t.eng.mdv.leaseAt = s.tb.count ∧
      (s.eng.mdv.role = Role.manager → 1 < s.eng.mdv.map.length → t.eng.mdv.licensed = 1 ∧ t.eng.out =
        (({ s.eng with mdv := t.eng.mdv } : Engine).flood 0x01 1 (leaseBody s.eng.liveRanks.length) noRank).out) := by
  obtain ⟨a, hexec⟩ := exec_join_counted h hf hjoining hrank hcheck hknown
  obtain ⟨hjoined, hdone, hcover, hlease, hsend⟩ := Engine.allJoined_last (e := s.joinCounted a rank.toNat) hall
  exact ⟨_, hexec, hjoined, hdone, hcover, hlease, fun hrole hgroup =>
    ⟨(hsend hrole hgroup).1, (hsend hrole hgroup).2 { s.eng with mdv := _ } rfl rfl rfl⟩⟩

end

/-! ### FRAME_DISCARD and frames that fail a check -/

theorem frameDiscard_crc {s : State} (h : s.receives Isl.md) : ∃ t, exec (.frameDiscard 0#3) s = .next t ∧ t.eng.mdv = s.eng.mdv ∧
    t.eng.rafter = s.eng.rafter ∧ t.eng.count Cnt.mdvMsgDiscard = s.eng.count Cnt.mdvMsgDiscard + 1#32 ∧
    t.eng.count Cnt.errCorr = s.eng.count Cnt.errCorr + 1#32 := by
  have hlog := (s.seen.bump Cnt.mdvMsgDiscard).log_only Ev.discard [0]
  have hreport := (s.seen.discard 0).corrected_only Det.frameCheck 0 none
  refine ⟨_, State.cross_receives h _ _, hreport.mdv_eq.trans hlog.mdv_eq, hreport.rafter_eq.trans hlog.rafter_eq, ?_, ?_⟩
  · exact (hreport.count_apart (by decide)).trans (s.seen.discard_discards 0).1
  · refine ((s.seen.discard 0).corrected_count Det.frameCheck 0 none).trans ?_
    rw [show (s.seen.discard 0).count Cnt.errCorr = _ from hlog.count_apart (by decide), Engine.count_bump_ne _ (by decide)]
    rfl

theorem frameDiscard_other {s : State} {check : BitVec 3} (h : s.receives Isl.md) (hne : check ≠ 0#3) :
    ∃ t, exec (.frameDiscard check) s = .next t ∧ s.eng.discards t.eng := by
  refine ⟨{ s with eng := s.seen.discard check.toNat }, (State.cross_receives h _ _).trans ?_, s.seen.discard_discards check.toNat⟩
  rw [if_neg (show ¬check = 0 from hne)]

/-- Settles O52, command by command; a frame that fails the checks of its header meets `State.cross_discards` whatever its type. -/
theorem joiningAGroup : Obligations.JoiningAGroup := by
  unfold Obligations.JoiningAGroup
  refine ⟨?_, fun s h => ⟨fun hjoining htime => joinTimeout_expires h (s.joinDue_iff.2 ⟨hjoining, htime⟩), fun hnot =>
      joinTimeout_waits h fun hdue => ?_⟩, fun s f check rank h hf => ⟨join_ignored h hf, join_passed h hf,
    fun hjoining hrank hcheck hknown => ⟨join_counted h hf hjoining hrank hcheck hknown, join_last h hf hjoining hrank hcheck hknown⟩⟩,
    fun s check h => ⟨fun hcrc => hcrc ▸ frameDiscard_crc h, frameDiscard_other h⟩, ?_⟩
  · rintro s node header es e reason h rfl rfl
    exact ⟨joinCommand_member h, joinCommand_busy h, fun hjoined hjoining hquiet => joinCommand_refuses h hjoined hjoining hquiet rfl,
      joinCommand_joins h⟩
  · obtain ⟨hjoining, htime⟩ := s.joinDue_iff.1 hdue
    rcases hnot with hno | hearly
    · exact Bool.noConfusion (hno.symm.trans hjoining)
    · exact absurd htime (not_le_of_gt hearly)
  · intro s f c h hc
    rcases hc with ⟨_, rfl, hf⟩ | ⟨_, _, _, _, rfl, hf⟩ | ⟨_, _, _, _, rfl, hf⟩ | ⟨_, rfl, hf⟩ | ⟨_, _, rfl, hf⟩ | ⟨rfl, hf⟩ |
      ⟨_, _, _, _, rfl, hf⟩ | ⟨_, _, rfl, hf⟩ | ⟨_, rfl, hf⟩ | ⟨_, _, _, rfl, hf⟩ | ⟨_, rfl, hf⟩ | ⟨_, _, _, _, _, rfl, hf⟩ |
      ⟨_, rfl, hf⟩ | ⟨_, rfl, hf⟩ | ⟨_, _, _, _, rfl, hf⟩ | ⟨_, _, _, _, rfl, hf⟩ | ⟨_, _, _, _, _, rfl, hf⟩ |
      ⟨_, _, _, _, _, _, _, rfl, hf⟩ | ⟨_, _, _, _, rfl, hf⟩ <;> exact State.cross_discards h hf _ _

end Sys2Proof.Machine
end

section
/-!
# Leases, fences, probes and the fabric's status

LEASE and its repetition, the lapses, FENCE_RANK, FENCE, PROBE and its reply, and FABRIC_STATUS (R251 to R256, R276, R338).
-/

namespace Sys2Proof.Machine

/-! ### LEASE (R251) -/

section
variable {s : State} {f : Frame} {ranks : BitVec 10}

theorem exec_lease (h : s.receives Isl.md) : exec (.lease f ranks) s = .next { s with eng := s.seen.onLease f ranks.toNat } :=
  State.cross_receives h _ _

/-- Does a LEASE pass the checks of its header? It may be the first message of a new epoch. -/
def Engine.leaseOk (e : Engine) (f : Frame) (ranks : Nat) : Bool :=
  wholeFrame f 0x01 (leaseBody ranks) && e.frameOk f [e.epochFor f.step.toNat, (e.mdv.epoch + 1) % 65536]

theorem lease_discarded (h : s.receives Isl.md) (hok : s.eng.leaseOk f ranks.toNat = false) :
    ∃ t, exec (.lease f ranks) s = .next t ∧ s.eng.discards t.eng := by
  refine ⟨{ s with eng := s.seen.discard 1 }, (exec_lease h).trans ?_, s.seen.discard_discards 1⟩
  have hok' : s.seen.leaseOk f ranks.toNat = false := hok
  rw [Engine.leaseOk] at hok'
  rw [Engine.onLease, hok']
  rfl

/-- A LEASE that passes its checks is taken. -/
theorem exec_lease_ok (h : s.receives Isl.md) (hok : s.eng.leaseOk f ranks.toNat = true) :
    exec (.lease f ranks) s = .next { s with eng := s.seen.takeLease f ranks.toNat } := by
  have hok' : s.seen.leaseOk f ranks.toNat = true := hok
  rw [Engine.leaseOk] at hok'
  rw [exec_lease h, Engine.onLease, hok']
  rfl

theorem lease_ignored (h : s.receives Isl.md) (hok : s.eng.leaseOk f ranks.toNat = true)
    (hno : s.eng.mdv.fenced = true ∨ s.eng.manages = true ∨ s.seen.leaseCopy f.epoch.toNat f.step.toNat = true) :
    exec (.lease f ranks) s = .next { s with eng := s.seen } := by
  have hno' : (s.seen.mdv.fenced || s.seen.manages || s.seen.leaseCopy f.epoch.toNat f.step.toNat) = true := by
    rw [Bool.or_eq_true, Bool.or_eq_true, or_assoc]
    exact hno
  rw [exec_lease_ok h hok, Engine.takeLease, hno']
  rfl

/-- The group's state once a LEASE of a step has renewed the engine: its epoch told, the join over, no misses. -/
def Engine.renewed (e : Engine) (epoch step : Nat) : Engine :=
  let e := e.adoptEpoch epoch step
  { e with mdv := { e.mdv with joined := e.mdv.joined || e.mdv.joining, joining := false, misses := 0,
                               licensed := max e.mdv.licensed step, leaseAt := e.now, heardAt := e.now } }

theorem Engine.adoptEpoch_eq (e : Engine) (epoch step : Nat) : ∃ old new at_, e.adoptEpoch epoch step =
    { e with mdv := { e.mdv with oldEpoch := old, epoch := new, epochStep := at_ } } ∧
    new = (if epoch = e.epochFor step then e.mdv.epoch else epoch) := by
  unfold Engine.adoptEpoch
  split
  · exact ⟨e.mdv.oldEpoch, e.mdv.epoch, e.mdv.epochStep, rfl, rfl⟩
  · exact ⟨e.mdv.epoch, epoch, step - 1, rfl, rfl⟩

/-- A worker takes a first copy: renewed, it passes the LEASE on, and no boundary passes by it. -/
theorem Engine.takeLease_renews {e : Engine} (hfenced : e.mdv.fenced = false) (hmanages : e.manages = false)
    (hcopy : e.leaseCopy f.epoch.toNat f.step.toNat = false) (hrole : e.mdv.role = Role.worker) (hshadows : e.shadows = false) (n : Nat) :
    e.takeLease f n = (e.renewed f.epoch.toNat f.step.toNat).flood 0x01 f.step.toNat (leaseBody n) f.src.toNat := by
  have hfirst : (e.mdv.fenced || e.manages || e.leaseCopy f.epoch.toNat f.step.toNat) = false := by
    rw [hfenced, hmanages, hcopy]
    rfl
  have htake : e.takeLease f n =
      ((e.renewed f.epoch.toNat f.step.toNat).flood 0x01 f.step.toNat (leaseBody n) f.src.toNat).followSteps f.step.toNat := by
    rw [Engine.takeLease, hfirst]
    rfl
  obtain ⟨l, hl, -⟩ := (e.renewed f.epoch.toNat f.step.toNat).flood_driven 0x01 f.step.toNat (leaseBody n) f.src.toNat
  obtain ⟨old, new, at_, hadopt, -⟩ := e.adoptEpoch_eq f.epoch.toNat f.step.toNat
  rw [htake, hl, Engine.renewed, hadopt]
  unfold Engine.followSteps
  simp only [Engine.shadows, Engine.driven_mdv, Engine.driven_flt, hrole] at hshadows ⊢
  rw [hshadows]
  rfl

theorem lease_renews (h : s.receives Isl.md) (hok : s.eng.leaseOk f ranks.toNat = true) (hfenced : s.eng.mdv.fenced = false)
    (hmanages : s.eng.manages = false) (hcopy : s.seen.leaseCopy f.epoch.toNat f.step.toNat = false) (hrole : s.eng.mdv.role = Role.worker)
    (hshadows : s.eng.shadows = false) :
    ∃ t, exec (.lease f ranks) s = .next t ∧ t.eng.mdv.misses = 0 ∧ t.eng.mdv.licensed = max s.eng.mdv.licensed f.step.toNat ∧
      t.eng.mdv.leaseAt = s.tb.count ∧ t.eng.mdv.heardAt = s.tb.count ∧ t.eng.mdv.joining = false ∧
      t.eng.mdv.joined = (s.eng.mdv.joined || s.eng.mdv.joining) ∧ t.eng.mdv.rank = s.eng.mdv.rank ∧
      t.eng.mdv.epoch = (if f.epoch.toNat = s.eng.epochFor f.step.toNat then s.eng.mdv.epoch else f.epoch.toNat) ∧
      t.eng.out = (({ s.eng with mdv := t.eng.mdv } : Engine).flood 0x01 f.step.toNat (leaseBody ranks.toNat) f.src.toNat).out ∧
      t.eng.ylm = s.eng.ylm ∧ t.eng.stepNo = s.eng.stepNo := by
  have hexec := exec_lease_ok h hok
  rw [Engine.takeLease_renews (e := s.seen) hfenced hmanages hcopy hrole hshadows] at hexec
  obtain ⟨old, new, at_, hadopt, hnew⟩ := s.seen.adoptEpoch_eq f.epoch.toNat f.step.toNat
  have hrenewed : ∃ m, s.seen.renewed f.epoch.toNat f.step.toNat = { s.seen with mdv := m } ∧ m = { s.eng.mdv with
      oldEpoch := old, epoch := new, epochStep := at_, joined := s.eng.mdv.joined || s.eng.mdv.joining, joining := false, misses := 0,
      licensed := max s.eng.mdv.licensed f.step.toNat, leaseAt := s.tb.count, heardAt := s.tb.count } := by
    rw [Engine.renewed, hadopt]
    exact ⟨_, rfl, rfl⟩
  obtain ⟨m, hm, hmdv⟩ := hrenewed
  rw [hm] at hexec
  obtain ⟨l, hl, hlinks⟩ := ({ s.seen with mdv := m } : Engine).flood_driven 0x01 f.step.toNat (leaseBody ranks.toNat) f.src.toNat
  rw [hl] at hexec
  refine ⟨_, hexec, ?_⟩
  have hsame := hlinks { s.eng with mdv := m } (.of_mdv rfl rfl)
  subst hmdv
  exact ⟨rfl, rfl, rfl, rfl, rfl, rfl, rfl, hnew, (congrArg Engine.out hsame).symm, rfl, rfl⟩

end

/-! ### The LEASE repeated, and lapses (R251, R252, R276) -/

/-- Does a step last so long that its LEASE is due again? -/
def Engine.leaseDue (e : Engine) : Bool :=
  e.leadsGroup && e.ylm.current.isSome && e.mdv.licensed != 0 && decide (e.mdv.leaseAt + e.get Fld.mdvLapseMs * 500000 ≤ e.now)

/-- What LEASE_REPEAT does. -/
def Engine.repeatLease (e : Engine) : Engine := if e.leaseDue then e.sendLease e.mdv.licensed else e

theorem Engine.leaseDue_iff (e : Engine) : e.leaseDue = true ↔ e.leadsGroup = true ∧ e.ylm.current ≠ none ∧ e.mdv.licensed ≠ 0 ∧
    e.mdv.leaseAt + e.get Fld.mdvLapseMs * 500000 ≤ e.now := by
  rw [Engine.leaseDue, Bool.and_eq_true, Bool.and_eq_true, Bool.and_eq_true, decide_eq_true_eq, bne_iff_ne, and_assoc, and_assoc,
    Option.isSome_iff_ne_none]

theorem exec_leaseRepeat {s : State} (h : s.serves Isl.md) : exec .leaseRepeat s = .next { s with eng := s.seen.repeatLease } :=
  State.actIn_serves h Engine.repeatLease

section
variable {s : State} (h : s.serves Isl.md)
include h

theorem leaseRepeat_sends (hdue : s.seen.leaseDue = true) : ∃ t, exec .leaseRepeat s = .next t ∧
    t.eng.mdv = { s.eng.mdv with leaseAt := s.tb.count } ∧
    t.eng.out = (s.eng.flood 0x01 s.eng.mdv.licensed (leaseBody s.eng.liveRanks.length) noRank).out := by
  have hleads : s.seen.leadsGroup = true := (s.seen.leaseDue_iff.1 hdue).1
  obtain ⟨l, hl, hlinks⟩ := s.eng.flood_driven 0x01 s.eng.mdv.licensed (leaseBody s.eng.liveRanks.length) noRank
  have hexec := exec_leaseRepeat h
  rw [Engine.repeatLease, if_pos hdue, Engine.sendLease_leads hleads] at hexec
  refine ⟨_, hexec.trans (congrArg (fun e => Host.Outcome.next { s with eng := e }) (hlinks _ ?_)), rfl, (congrArg Engine.out hl).symm⟩
  constructor <;> rfl

theorem leaseRepeat_waits (hdue : ¬s.seen.leaseDue = true) : exec .leaseRepeat s = .next { s with eng := s.seen } := by
  rw [exec_leaseRepeat h, Engine.repeatLease, if_neg hdue]

end

/-- An engine that is not fenced fences itself: the tiles halt. -/
theorem Engine.fenceSelf_eq {e : Engine} (h : e.mdv.fenced = false) : e.fenceSelf =
    { e with mdv := { e.mdv with fenced := true }, out := Output.irq 58 :: Output.haltTiles :: e.out } := by
  rw [Engine.fenceSelf, h]
  rfl

theorem Engine.fenceSelf_flt (e : Engine) : e.fenceSelf.flt = e.flt := by
  rw [Engine.fenceSelf]
  split <;> rfl

theorem Engine.endShadow_off {e : Engine} (h : e.shadows = false) : e.endShadow = e := by
  rw [Engine.endShadow, h]
  rfl

/-- The fence of an engine by itself, counted and recorded. -/
def Engine.fenceCounted (e : Engine) (payload : List Nat) : Engine := (e.fenceSelf.bump Cnt.mdvFence).log Ev.fence payload

theorem Engine.fenceCounted_fences {e : Engine} (h : e.mdv.fenced = false) (payload : List Nat) :
    (e.fenceCounted payload).mdv = { e.mdv with fenced := true } ∧ Output.haltTiles ∈ (e.fenceCounted payload).out ∧
    (e.fenceCounted payload).count Cnt.mdvFence = e.count Cnt.mdvFence + 1#32 ∧
    (e.fenceCounted payload).count Cnt.errStep = e.count Cnt.errStep := by
  have hlog := (e.fenceSelf.bump Cnt.mdvFence).log_only Ev.fence payload
  rw [Engine.fenceCounted]
  refine ⟨hlog.mdv_eq.trans ?_, ?_, ?_, ?_⟩
  · rw [Engine.bump_mdv, Engine.fenceSelf_eq h]
  · rw [hlog.out_eq, Engine.bump_out, Engine.fenceSelf_eq h]
    exact List.mem_cons_of_mem _ List.mem_cons_self
  · rw [hlog.count_apart (by decide), Engine.count_bump_self, Engine.fenceSelf_eq h]
    rfl
  · rw [hlog.count_apart (by decide), Engine.count_bump_ne _ (by decide), Engine.fenceSelf_eq h]
    rfl

/-- A lapse of an engine that sends: it fences itself with LAPSED, and a STEP error is reported. -/
theorem Engine.lapse_fences {e : Engine} (h : e.speaks) : e.lapse.mdv = { e.mdv with fenced := true, lapsed := true } ∧
    Output.haltTiles ∈ e.lapse.out ∧ e.lapse.count Cnt.mdvFence = e.count Cnt.mdvFence + 1#32 ∧
    e.lapse.count Cnt.errStep = e.count Cnt.errStep + 1#32 := by
  obtain ⟨hjoined, hfenced⟩ := h
  have hlapse : e.lapse = (Engine.fenceCounted { e with mdv := { e.mdv with lapsed := true } } [e.mdv.rank, 0]).report Det.lapse Cls.step
      nullHandle e.mdv.misses := by
    rw [Engine.lapse, if_neg (by rw [hjoined, hfenced]; decide), Engine.fenceCounted]
  obtain ⟨hmdv, hhalt, hfence, hstep⟩ :=
    Engine.fenceCounted_fences (e := { e with mdv := { e.mdv with lapsed := true } }) hfenced [e.mdv.rank, 0]
  rw [hlapse]
  generalize Engine.fenceCounted { e with mdv := { e.mdv with lapsed := true } } [e.mdv.rank, 0] = a at hmdv hhalt hfence hstep
  have honly := a.report_only Det.lapse Cls.step nullHandle e.mdv.misses none
  refine ⟨honly.mdv_eq.trans hmdv, honly.out_suffix.subset hhalt, (honly.count_apart (by decide)).trans hfence, ?_⟩
  rw [Engine.report_count (by rfl), hstep]
  rfl

/-- What LEASE_MISS_LIMIT does. -/
def Engine.missLapse (e : Engine) : Engine := if e.follows && e.get Fld.mdvLapseSteps ≤ e.mdv.misses then e.lapse else e

/-- What LEASE_LAPSE_TIMEOUT does. -/
def Engine.timeLapse (e : Engine) : Engine :=
  if e.follows && e.mdv.leaseAt + e.get Fld.mdvLapseMs * 1000000 ≤ e.now then e.lapse else e

/-- What MANAGER_ISOLATION_TIMEOUT does. -/
def Engine.isolate (e : Engine) : Engine :=
  if e.leadsGroup && !e.mdv.fenced && decide (e.mdv.coverAt + e.get Fld.mdvLapseMs * 1000000 ≤ e.now) then e.fenceCounted [e.mdv.rank, 0]
  else e

theorem Engine.missLapse_due {e : Engine} (hfollows : e.follows = true) (hdue : e.get Fld.mdvLapseSteps ≤ e.mdv.misses) :
    e.missLapse = e.lapse := by
  rw [Engine.missLapse, hfollows, decide_eq_true hdue]
  rfl

theorem Engine.missLapse_not {e : Engine} (hno : e.mdv.misses < e.get Fld.mdvLapseSteps ∨ e.follows = false) : e.missLapse = e := by
  rw [Engine.missLapse]
  rcases hno with hfew | hleads
  · rw [decide_eq_false (not_le_of_gt hfew), Bool.and_false]
    rfl
  · rw [hleads]
    rfl

theorem Engine.timeLapse_due {e : Engine} (hfollows : e.follows = true) (hdue : e.mdv.leaseAt + e.get Fld.mdvLapseMs * 1000000 ≤ e.now) :
    e.timeLapse = e.lapse := by
  rw [Engine.timeLapse, hfollows, decide_eq_true hdue]
  rfl

theorem Engine.timeLapse_not {e : Engine} (hno : e.now < e.mdv.leaseAt + e.get Fld.mdvLapseMs * 1000000 ∨ e.follows = false) :
    e.timeLapse = e := by
  rw [Engine.timeLapse]
  rcases hno with hearly | hleads
  · rw [decide_eq_false (not_le_of_gt hearly), Bool.and_false]
    rfl
  · rw [hleads]
    rfl

theorem Engine.isolate_due {e : Engine} (hleads : e.leadsGroup = true) (hfenced : e.mdv.fenced = false)
    (hdue : e.mdv.coverAt + e.get Fld.mdvLapseMs * 1000000 ≤ e.now) : e.isolate = e.fenceCounted [e.mdv.rank, 0] := by
  rw [Engine.isolate, hleads, hfenced, decide_eq_true hdue]
  rfl

section
variable {s : State} (h : s.serves Isl.md)
include h

theorem exec_leaseMissLimit : exec .leaseMissLimit s = .next { s with eng := s.seen.missLapse } := State.actIn_serves h Engine.missLapse

theorem exec_leaseLapseTimeout : exec .leaseLapseTimeout s = .next { s with eng := s.seen.timeLapse } :=
  State.actIn_serves h Engine.timeLapse

theorem exec_managerIsolationTimeout : exec .managerIsolationTimeout s = .next { s with eng := s.seen.isolate } :=
  State.actIn_serves h Engine.isolate

theorem leaseMissLimit_waits (hno : s.eng.mdv.misses < s.eng.get Fld.mdvLapseSteps ∨ s.eng.follows = false) :
    exec .leaseMissLimit s = .next { s with eng := s.seen } := by
  rw [exec_leaseMissLimit h, Engine.missLapse_not (e := s.seen) hno]

theorem leaseLapseTimeout_waits
    (hno : s.tb.count < s.eng.mdv.leaseAt + s.eng.get Fld.mdvLapseMs * 1000000 ∨ s.eng.follows = false) :
    exec .leaseLapseTimeout s = .next { s with eng := s.seen } := by
  rw [← State.seen_get, ← State.seen_mdv, ← State.seen_now] at hno
  rw [exec_leaseLapseTimeout h, Engine.timeLapse_not (e := s.seen) hno]

/-- Both lapses of a following engine that sends. -/
theorem lapse_fences {c : Instr} (hc : (c = .leaseMissLimit ∧ s.eng.get Fld.mdvLapseSteps ≤ s.eng.mdv.misses) ∨
      (c = .leaseLapseTimeout ∧ s.eng.mdv.leaseAt + s.eng.get Fld.mdvLapseMs * 1000000 ≤ s.tb.count))
    (hfollows : s.eng.follows = true) (hspeaks : s.eng.speaks) :
    ∃ t, exec c s = .next t ∧ t.eng.mdv = { s.eng.mdv with fenced := true, lapsed := true } ∧ Output.haltTiles ∈ t.eng.out ∧
      t.eng.count Cnt.mdvFence = s.eng.count Cnt.mdvFence + 1#32 ∧ t.eng.count Cnt.errStep = s.eng.count Cnt.errStep + 1#32 := by
  have hexec : exec c s = .next { s with eng := s.seen.lapse } := by
    rcases hc with ⟨rfl, hdue⟩ | ⟨rfl, hdue⟩
    · rw [exec_leaseMissLimit h, Engine.missLapse_due (e := s.seen) hfollows hdue]
    · rw [← State.seen_get, ← State.seen_mdv, ← State.seen_now] at hdue
      rw [exec_leaseLapseTimeout h, Engine.timeLapse_due (e := s.seen) hfollows hdue]
  exact ⟨{ s with eng := s.seen.lapse }, hexec, Engine.lapse_fences (e := s.seen) hspeaks⟩

theorem managerIsolationTimeout_fences (hleads : s.eng.leadsGroup = true) (hfenced : s.eng.mdv.fenced = false)
    (hdue : s.eng.mdv.coverAt + s.eng.get Fld.mdvLapseMs * 1000000 ≤ s.tb.count) :
    ∃ t, exec .managerIsolationTimeout s = .next t ∧ t.eng.mdv = { s.eng.mdv with fenced := true } ∧ Output.haltTiles ∈ t.eng.out ∧
      t.eng.count Cnt.mdvFence = s.eng.count Cnt.mdvFence + 1#32 := by
  rw [← State.seen_get, ← State.seen_mdv, ← State.seen_now] at hdue
  obtain ⟨hmdv, hhalt, hfence, -⟩ := Engine.fenceCounted_fences (e := s.seen) hfenced [s.seen.mdv.rank, 0]
  refine ⟨{ s with eng := s.seen.fenceCounted [s.seen.mdv.rank, 0] }, ?_, hmdv, hhalt, hfence⟩
  rw [exec_managerIsolationTimeout h, Engine.isolate_due (e := s.seen) hleads hfenced hdue]

end

/-! ### Fences (R253, R254) -/

theorem exec_fenceRankCommand {s : State} (h : s.receives Isl.md) (r : BitVec 9) : exec (.fenceRankCommand r) s =
    .next { s with eng := if s.seen.manages then s.seen.orderFence r.toNat 4 else s.seen.badAccess 0x080008 } :=
  State.cross_receives h _ _

/-- An engine that has noted a fence of a rank for a boundary. -/
def Engine.fenceNoted (e : Engine) (r at_ reason : Nat) : Engine :=
  { e with mdv := { e.mdv with pendFences := e.mdv.pendFences ++ [{ rank := r, at_ := at_, reason := reason, admitted := none }] } }

/-- An order that nothing forbids: FENCE is sent, noted for the boundary, counted and recorded. -/
theorem Engine.orderFence_orders {e : Engine} {r reason : Nat} (hmanages : e.manages = true) (hother : r ≠ e.mdv.rank ∨ reason = 5)
    (hlive : r ∈ e.liveRanks) (hfree : (e.mdv.pendFences.any fun x => x.rank == r) = false) :
    (e.orderFence r reason).mdv = (e.fenceNoted r (e.draftStep - 1) reason).mdv ∧
    (e.orderFence r reason).flt = e.flt ∧ (e.orderFence r reason).ylm = e.ylm ∧ (e.orderFence r reason).stepNo = e.stepNo ∧
    (e.orderFence r reason).count Cnt.mdvFence = e.count Cnt.mdvFence + 1#32 ∧
    (e.orderFence r reason).out = (e.send 0x06 r e.stepNo (fenceBody (e.draftStep - 1) reason)).out := by
  have hgo : (!e.manages || decide (r = e.mdv.rank) && decide (reason ≠ 5) || !e.liveRanks.contains r ||
      e.mdv.pendFences.any fun x => x.rank == r) = false := by
    have hself : (decide (r = e.mdv.rank) && decide (reason ≠ 5)) = false := by
      simpa only [Bool.and_eq_false_iff, decide_eq_false_iff_not, not_not] using hother
    rw [hmanages, hself, List.contains_iff_mem.2 hlive, hfree]
    rfl
  have horder : e.orderFence r reason = (((e.send 0x06 r e.stepNo (fenceBody (e.draftStep - 1) reason)).fenceNoted r (e.draftStep - 1)
      reason).bump Cnt.mdvFence).log Ev.fence [r, reason] := by
    rw [Engine.orderFence, hgo]
    rfl
  rw [horder, Engine.send_eq_frames]
  have hlog := (((e.driven (e.frames 0x06 r e.stepNo (fenceBody (e.draftStep - 1) reason))).fenceNoted r (e.draftStep - 1)
    reason).bump Cnt.mdvFence).log_only Ev.fence [r, reason]
  exact ⟨hlog.mdv_eq, hlog.flt_eq, hlog.ylm_eq, hlog.stepNo_eq, (hlog.count_apart (by decide)).trans (Engine.count_bump_self _ _), hlog.out_eq⟩

section
variable {s : State} {r : BitVec 9} (h : s.receives Isl.md)
include h

theorem fenceRankCommand_refused (hmanages : s.eng.manages = false) : ∃ t, exec (.fenceRankCommand r) s = .next t ∧ t.eng.mdv = s.eng.mdv ∧
    t.eng.count Cnt.errCorr = s.eng.count Cnt.errCorr + 1#32 := by
  refine ⟨{ s with eng := s.seen.badAccess 0x080008 }, (exec_fenceRankCommand h r).trans ?_, (s.seen.badAccess_only 0x080008).mdv_eq,
    s.seen.badAccess_count _⟩
  rw [show s.seen.manages = false from hmanages]
  rfl

theorem fenceRankCommand_orders (hmanages : s.eng.manages = true) (hother : r.toNat ≠ s.eng.mdv.rank) (hlive : r.toNat ∈ s.eng.liveRanks)
    (hfree : (s.eng.mdv.pendFences.any fun x => x.rank == r.toNat) = false) :
    ∃ t, exec (.fenceRankCommand r) s = .next t ∧ t.eng.mdv = { s.eng.mdv with pendFences := s.eng.mdv.pendFences ++
        [{ rank := r.toNat, at_ := s.eng.draftStep - 1, reason := 4, admitted := none }] } ∧
      t.eng.count Cnt.mdvFence = s.eng.count Cnt.mdvFence + 1#32 ∧
      t.eng.out = (s.eng.send 0x06 r.toNat s.eng.stepNo (fenceBody (s.eng.draftStep - 1) 4)).out := by
  obtain ⟨hmdv, -, -, -, hcount, hout⟩ := Engine.orderFence_orders (e := s.seen) (reason := 4) hmanages (.inl hother) hlive hfree
  refine ⟨{ s with eng := s.seen.orderFence r.toNat 4 }, (exec_fenceRankCommand h r).trans ?_, hmdv, hcount, hout.trans ?_⟩
  · rw [show s.seen.manages = true from hmanages]
    rfl
  · exact (SameLinks.of_mdv rfl rfl : SameLinks s.eng s.seen).send_out rfl _ _ _ _

end

/-- A message for the engine itself passes on to nobody. -/
theorem Engine.passTo_own {e : Engine} {dst : Nat} (hown : dst = e.mdv.rank) (type step : Nat) (body : List Byte) :
    e.passTo type dst step body = e := by
  rw [Engine.passTo, if_pos hown]

theorem Engine.passTo_other {e : Engine} {dst : Nat} (hother : dst ≠ e.mdv.rank) (type step : Nat) (body : List Byte) :
    e.passTo type dst step body = e.send type dst step body := by
  rw [Engine.passTo, if_neg hother]

/-- A FENCE of the engine itself that takes effect at once. -/
theorem Engine.obeyFence_obeys {e : Engine} (hfenced : e.mdv.fenced = false) (hshadows : e.shadows = false) (n : Nat) :
    e.obeyFence n = Engine.fenceCounted { e with mdv := { e.mdv with reason := n } } [e.mdv.rank, n] := by
  have hflt : (Engine.fenceSelf { e with mdv := { e.mdv with reason := n } }).flt = e.flt := Engine.fenceSelf_flt _
  have hend := Engine.endShadow_off (e := Engine.fenceSelf { e with mdv := { e.mdv with reason := n } })
    (by rw [Engine.shadows, hflt]; exact hshadows)
  rw [Engine.obeyFence, hfenced, Engine.fenceCounted, ← hend]
  rfl

/-- A FENCE for a boundary is noted, once. -/
theorem Engine.noteFence_notes {e : Engine} {r at_ : Nat} (hlater : at_ ≠ 0) (hfree : (e.mdv.pendFences.any fun x => x.rank == r) = false)
    (n : Nat) : e.noteFence r at_ n = e.fenceNoted r at_ n := by
  rw [Engine.fenceNoted, Engine.noteFence, if_neg (by simp [hlater]), if_neg hlater, hfree]
  rfl

section
variable {s : State} {f : Frame} {m : BitVec 48} {reason : BitVec 8} (h : s.receives Isl.md)
  (hf : s.eng.takes f 0x06 (fenceBody m.toNat reason.toNat))
include h hf

theorem exec_fenceMessage : exec (.fenceMessage f m reason) s = .next { s with eng := (s.seen.hear f).takeFence f m.toNat reason.toNat } :=
  State.cross_takes h hf (.inl Nat.zero_ne_one) _ _

theorem fenceMessage_obeyed (hown : f.dst.toNat = s.eng.mdv.rank) (hnow : m = 0#48) (hfenced : s.eng.mdv.fenced = false)
    (hshadows : s.eng.shadows = false) :
    ∃ t, exec (.fenceMessage f m reason) s = .next t ∧ t.eng.mdv.fenced = true ∧ t.eng.mdv.reason = reason.toNat ∧
      t.eng.count Cnt.mdvFence = s.eng.count Cnt.mdvFence + 1#32 ∧ Output.haltTiles ∈ t.eng.out := by
  subst hnow
  have hrank := s.heard_rank f
  have htake : (s.seen.hear f).takeFence f (0#48).toNat reason.toNat =
      Engine.fenceCounted { s.seen.hear f with mdv := { (s.seen.hear f).mdv with reason := reason.toNat } }
        [(s.seen.hear f).mdv.rank, reason.toNat] := by
    rw [Engine.takeFence, Engine.passTo_own (hown.trans hrank.symm), Engine.noteFence, if_pos (by simp [hown, hrank]),
      Engine.obeyFence_obeys ((s.heard_fenced f).trans hfenced) ((s.heard_links f).shadows.trans hshadows)]
  obtain ⟨hmdv, hhalt, hfence, -⟩ := Engine.fenceCounted_fences
    (e := { s.seen.hear f with mdv := { (s.seen.hear f).mdv with reason := reason.toNat } }) ((s.heard_fenced f).trans hfenced)
    [(s.seen.hear f).mdv.rank, reason.toNat]
  rw [exec_fenceMessage h hf, htake]
  exact ⟨_, rfl, congrArg Mdv.fenced hmdv, congrArg Mdv.reason hmdv, hfence.trans (congrArg (· + 1#32) (s.heard_count f _)), hhalt⟩

theorem fenceMessage_noted (hlater : m ≠ 0#48) (hfree : (s.eng.mdv.pendFences.any fun x => x.rank == f.dst.toNat) = false) :
    ∃ t, exec (.fenceMessage f m reason) s = .next t ∧ t.eng.mdv.fenced = s.eng.mdv.fenced ∧ t.eng.mdv.pendFences =
        s.eng.mdv.pendFences ++ [{ rank := f.dst.toNat, at_ := m.toNat, reason := reason.toNat, admitted := none }] ∧
      (f.dst.toNat = s.eng.mdv.rank → t.eng.out = s.eng.out) ∧
      (f.dst.toNat ≠ s.eng.mdv.rank → t.eng.out = (s.eng.send 0x06 f.dst.toNat f.step.toNat (fenceBody m.toNat reason.toNat)).out) := by
  have hne : m.toNat ≠ 0 := fun h0 => hlater (BitVec.eq_of_toNat_eq h0)
  have hrank := s.heard_rank f
  obtain ⟨a, ha⟩ := s.heard_mdv f
  have hpassed : ((s.seen.hear f).passTo 0x06 f.dst.toNat f.step.toNat (fenceBody m.toNat reason.toNat)).mdv =
      { s.eng.mdv with heardAt := a } := by
    rw [Engine.passTo]
    split
    · exact ha
    · rw [Engine.send_mdv, ha]
  have hexec := exec_fenceMessage h hf
  rw [Engine.takeFence, Engine.noteFence_notes hne (by rw [hpassed]; exact hfree)] at hexec
  refine ⟨_, hexec, ?_, ?_, fun hown => ?_, fun hother => ?_⟩
  · exact (congrArg Mdv.fenced hpassed :)
  · dsimp only [Engine.fenceNoted]
    rw [hpassed]
  · dsimp only [Engine.fenceNoted]
    rw [Engine.passTo_own (hown.trans hrank.symm), State.heard_out]
  · dsimp only [Engine.fenceNoted]
    rw [Engine.passTo_other (fun hown => hother (hown.trans hrank)), State.heard_send_out]

end

/-! ### Probes (R255, R256) -/

section
variable {s : State} {f : Frame} (h : s.receives Isl.md) (hf : s.eng.takes f 0x07 [])
include h hf

theorem exec_probe : exec (.probe f) s = .next { s with eng := (s.seen.hear f).takeProbe f } :=
  State.cross_takes h hf (.inl Nat.zero_ne_one) _ _

theorem probe_answered (hown : f.dst.toNat = s.eng.mdv.rank) : ∃ t, exec (.probe f) s = .next t ∧
    t.eng.out = (s.eng.send 0x08 0 s.eng.stepNo (replyBody s.eng.flt.commitStep s.eng.mdvStat s.eng.topScore
      (place s.eng.mdv.misses 0 16 + place ((s.tb.count - s.eng.mdv.leaseAt) / 1000000) 16 16))).out := by
  obtain ⟨a, ha⟩ := s.heard_eq f
  have hbody : (s.seen.hear f).takeProbe f = (s.seen.hear f).send 0x08 0 s.eng.stepNo
      (replyBody s.eng.flt.commitStep s.eng.mdvStat s.eng.topScore
        (place s.eng.mdv.misses 0 16 + place ((s.tb.count - s.eng.mdv.leaseAt) / 1000000) 16 16)) := by
    rw [Engine.takeProbe, if_neg (not_not_intro (hown.trans (s.heard_rank f).symm)), ha]
    rfl
  refine ⟨_, exec_probe h hf, ?_⟩
  dsimp only
  rw [hbody, State.heard_send_out]

theorem probe_passed (hother : f.dst.toNat ≠ s.eng.mdv.rank) : ∃ t, exec (.probe f) s = .next t ∧
    t.eng.out = (s.eng.send 0x07 f.dst.toNat f.step.toNat []).out := by
  have hother' : f.dst.toNat ≠ (s.seen.hear f).mdv.rank := fun hown => hother (hown.trans (s.heard_rank f))
  refine ⟨_, exec_probe h hf, ?_⟩
  dsimp only
  rw [Engine.takeProbe, if_pos hother', Engine.passTo_other hother', State.heard_send_out]

end

theorem State.heard_probes (s : State) (f : Frame) : (s.seen.hear f).mdv.probes = s.eng.mdv.probes := by
  obtain ⟨t, ht⟩ := s.heard_mdv f
  rw [ht]

theorem State.heard_replies (s : State) (f : Frame) : (s.seen.hear f).mdv.replies = s.eng.mdv.replies := by
  obtain ⟨t, ht⟩ := s.heard_mdv f
  rw [ht]

theorem State.heard_probeOf (s : State) (f : Frame) (src : Nat) : (s.seen.hear f).probeOf src = s.eng.probeOf src := by
  simp only [Engine.probeOf, s.heard_probes f, (s.heard_links f).pathUp]

section
variable {s : State} {f : Frame} {last : BitVec 48} {stat : BitVec 8} {score misses : BitVec 32} (h : s.receives Isl.md)
  (hf : s.eng.takes f 0x08 (replyBody last.toNat stat.toNat score.toNat misses.toNat))
include h hf

theorem exec_probeReply : exec (.probeReply f last stat score misses) s =
    .next { s with eng := (s.seen.hear f).takeReply f last.toNat stat.toNat score.toNat misses.toNat } :=
  State.cross_takes h hf (.inl Nat.zero_ne_one) _ _

theorem probeReply_ends {r : Nat} (hmanages : s.eng.manages = true) (hof : s.eng.probeOf f.src.toNat = some r) :
    ∃ t, exec (.probeReply f last stat score misses) s = .next t ∧ t.eng.mdv.probes = s.eng.mdv.probes.erase r ∧
      Table.get? t.eng.mdv.replies r = some (last.toNat, stat.toNat) ∧ t.eng.out = s.eng.out := by
  have hexec := exec_probeReply h hf
  rw [Engine.takeReply, s.heard_manages f, hmanages, s.heard_probeOf f, hof] at hexec
  have hlog := (({ s.seen.hear f with mdv := { (s.seen.hear f).mdv with
    probes := (s.seen.hear f).mdv.probes.erase r, replies := Table.put (s.seen.hear f).mdv.replies r (last.toNat, stat.toNat) } } :
      Engine)).log_only Ev.probe [r, last.toNat, stat.toNat, score.toNat, misses.toNat]
  refine ⟨_, hexec, ?_, ?_, hlog.out_eq.trans (s.heard_out f)⟩
  · exact (congrArg Mdv.probes hlog.mdv_eq :).trans (congrArg (List.erase · r) (s.heard_probes f))
  · exact (congrArg (fun m : Mdv => Table.get? m.replies r) hlog.mdv_eq :).trans (Table.get?_put_self _ _ _)

theorem probeReply_ignored (hmanages : s.eng.manages = true) (hof : s.eng.probeOf f.src.toNat = none) :
    ∃ t, exec (.probeReply f last stat score misses) s = .next t ∧ t.eng.mdv.probes = s.eng.mdv.probes ∧
      t.eng.mdv.replies = s.eng.mdv.replies ∧ t.eng.out = s.eng.out := by
  have hexec := exec_probeReply h hf
  rw [Engine.takeReply, s.heard_manages f, hmanages, s.heard_probeOf f, hof] at hexec
  exact ⟨_, hexec, s.heard_probes f, s.heard_replies f, s.heard_out f⟩

theorem probeReply_passed (hmanages : s.eng.manages = false) :
    ∃ t, exec (.probeReply f last stat score misses) s = .next t ∧ t.eng.mdv.probes = s.eng.mdv.probes ∧
      t.eng.out = (s.eng.send 0x08 0 f.step.toNat (replyBody last.toNat stat.toNat score.toNat misses.toNat)).out := by
  have hexec := exec_probeReply h hf
  rw [Engine.takeReply, s.heard_manages f, hmanages] at hexec
  refine ⟨_, hexec, ?_, s.heard_send_out f _ _ _ _⟩
  exact (congrArg Mdv.probes (Engine.send_mdv _ _ _ _ _) :).trans (s.heard_probes f)

end

/-- What PROBE_TIMEOUT does. -/
def Engine.probeExpires (e : Engine) (r : Nat) : Engine :=
  if e.mdv.probes.contains r then ({ e with mdv := { e.mdv with probes := e.mdv.probes.erase r } } : Engine).log Ev.probe [r] else e

theorem exec_probeTimeout {s : State} (h : s.serves Isl.md) (r : BitVec 9) :
    exec (.probeTimeout r) s = .next { s with eng := s.seen.probeExpires r.toNat } := State.actIn_serves h fun e => e.probeExpires r.toNat

theorem probeTimeout_ends {s : State} {r : BitVec 9} (h : s.serves Isl.md) (hr : r.toNat ∈ s.eng.mdv.probes) :
    ∃ t, exec (.probeTimeout r) s = .next t ∧ t.eng.mdv = { s.eng.mdv with probes := s.eng.mdv.probes.erase r.toNat } := by
  have hexec := exec_probeTimeout h r
  rw [Engine.probeExpires, if_pos (show s.seen.mdv.probes.contains r.toNat = true from List.contains_iff_mem.2 hr)] at hexec
  exact ⟨_, hexec, (Engine.log_only _ Ev.probe [r.toNat]).mdv_eq⟩

theorem probeTimeout_ignored {s : State} {r : BitVec 9} (h : s.serves Isl.md) (hr : r.toNat ∉ s.eng.mdv.probes) :
    exec (.probeTimeout r) s = .next { s with eng := s.seen } := by
  rw [exec_probeTimeout h r, Engine.probeExpires,
    if_neg (show ¬s.seen.mdv.probes.contains r.toNat = true from fun hc => hr (List.contains_iff_mem.1 hc))]

/-! ### FABRIC_STATUS (R255) -/

/-- What the doubts of other ranks leave an engine with: it numbers steps and sends as before, what is noted and driven stays, and no
further fence is noted for a rank of a set. -/
structure DoubtsOthers (spared : Nat → Prop) (e e' : Engine) : Prop where
  links : SameLinks e e'
  role : e'.mdv.role = e.mdv.role
  ylm : e'.ylm = e.ylm
  stepNo : e'.stepNo = e.stepNo
  probes : e.mdv.probes ⊆ e'.mdv.probes
  fences : e.mdv.pendFences ⊆ e'.mdv.pendFences
  out : e.out ⊆ e'.out
  spared : ∀ r, spared r → (e.mdv.pendFences.any fun x => x.rank == r) = false → (e'.mdv.pendFences.any fun x => x.rank == r) = false

namespace DoubtsOthers

theorem refl (p : Nat → Prop) (e : Engine) : DoubtsOthers p e e :=
  ⟨.refl e, rfl, rfl, rfl, List.Subset.refl _, List.Subset.refl _, List.Subset.refl _, fun _ _ => id⟩

theorem trans {p : Nat → Prop} {a b c : Engine} (h : DoubtsOthers p a b) (k : DoubtsOthers p b c) : DoubtsOthers p a c :=
  ⟨h.links.trans k.links, k.role.trans h.role, k.ylm.trans h.ylm, k.stepNo.trans h.stepNo, List.Subset.trans h.probes k.probes,
    List.Subset.trans h.fences k.fences, List.Subset.trans h.out k.out, fun r hr hno => k.spared r hr (h.spared r hr hno)⟩

variable {p : Nat → Prop} {e e' : Engine} (h : DoubtsOthers p e e')
include h

theorem manages : e'.manages = e.manages := by
  simp only [Engine.manages, h.links.joined, h.role]

theorem liveRanks : e'.liveRanks = e.liveRanks := by
  simp only [Engine.liveRanks, h.links.map, h.links.fencedRanks]

theorem draftStep : e'.draftStep = e.draftStep := by
  simp only [Engine.draftStep, Engine.newest, Engine.closedTo, h.ylm, h.stepNo]

end DoubtsOthers

/-- A rank probed. -/
def Engine.probed (e : Engine) (r : Nat) : Engine :=
  let e := (e.bump Cnt.mdvHbDisagree).send 0x07 r e.stepNo []
  ({ e with mdv := { e.mdv with probes := e.mdv.probes ++ [r] } } : Engine).bump Cnt.mdvProbe

theorem Engine.probed_eq (e : Engine) (r : Nat) : ∃ c, e.probed r =
    { e with mdv := { e.mdv with probes := e.mdv.probes ++ [r] }, cnt := c, out := e.frames 0x07 r e.stepNo [] ++ e.out } := by
  have hbump : SameLinks e (e.bump Cnt.mdvHbDisagree) := .of_mdv rfl rfl
  rw [Engine.probed, Engine.send_eq_frames, hbump.frames]
  exact ⟨_, rfl⟩

theorem Engine.probed_doubts (e : Engine) (p : Nat → Prop) (r : Nat) : DoubtsOthers p e (e.probed r) := by
  obtain ⟨c, hc⟩ := e.probed_eq r
  rw [hc]
  refine ⟨?_, rfl, rfl, rfl, List.subset_append_left _ _, List.Subset.refl _, List.subset_append_right _ _, fun _ _ => id⟩
  constructor <;> rfl

theorem Engine.orderFence_cases (e : Engine) (r reason : Nat) : e.orderFence r reason = e ∨ (e.manages = true ∧
    (r ≠ e.mdv.rank ∨ reason = 5) ∧ r ∈ e.liveRanks ∧ (e.mdv.pendFences.any fun x => x.rank == r) = false) := by
  rw [Engine.orderFence]
  split
  · exact .inl rfl
  · next hgo =>
    rw [Bool.not_eq_true, Bool.or_eq_false_iff, Bool.or_eq_false_iff, Bool.or_eq_false_iff, Bool.not_eq_false', Bool.not_eq_false',
      Bool.and_eq_false_iff, decide_eq_false_iff_not, decide_eq_false_iff_not, not_not, List.contains_iff_mem] at hgo
    obtain ⟨⟨⟨hmanages, hother⟩, hlive⟩, hfree⟩ := hgo
    exact .inr ⟨hmanages, hother, hlive, hfree⟩

/-- A fence ordered for one rank is noted for no other. -/
theorem Engine.orderFence_doubts (e : Engine) {p : Nat → Prop} {r : Nat} (hr : ∀ j, p j → j ≠ r) (reason : Nat) :
    DoubtsOthers p e (e.orderFence r reason) := by
  rcases e.orderFence_cases r reason with hnone | ⟨hmanages, hother, hlive, hfree⟩
  · rw [hnone]
    exact .refl p e
  · obtain ⟨hmdv, hflt, hylm, hstep, -, hout⟩ := Engine.orderFence_orders hmanages hother hlive hfree
    have hsent : (e.orderFence r reason).out = e.frames 0x06 r e.stepNo (fenceBody (e.draftStep - 1) reason) ++ e.out := by
      rw [hout, Engine.send_eq_frames, Engine.driven_out]
    rw [Engine.fenceNoted] at hmdv
    refine ⟨?_, by rw [hmdv], hylm, hstep, by rw [hmdv]; exact List.Subset.refl _, by rw [hmdv]; exact List.subset_append_left _ _,
      by rw [hsent]; exact List.subset_append_right _ _, fun j hj hno => ?_⟩
    · constructor <;> simp only [hmdv, hflt]
    · rw [hmdv]
      simp [hno, (hr j hj).symm]

theorem Engine.doubt_eq {e : Engine} {r : Nat} (hother : r ≠ e.mdv.rank) (hfree : (e.mdv.pendFences.any fun x => x.rank == r) = false) :
    e.doubt r = (e.probed r).orderFence r 1 := by
  rw [Engine.doubt, if_neg]
  · rfl
  · rw [hfree, decide_eq_false hother]
    decide

theorem Engine.doubt_doubts (e : Engine) {p : Nat → Prop} {r : Nat} (hr : ∀ j, p j → j ≠ r) : DoubtsOthers p e (e.doubt r) := by
  by_cases hgo : r ≠ e.mdv.rank ∧ (e.mdv.pendFences.any fun x => x.rank == r) = false
  · rw [Engine.doubt_eq hgo.1 hgo.2]
    exact (e.probed_doubts p r).trans ((e.probed r).orderFence_doubts hr 1)
  · rw [Engine.doubt, if_pos]
    · exact .refl p e
    · rw [Bool.or_eq_true, decide_eq_true_eq]
      by_contra hno
      rw [not_or, Bool.not_eq_true] at hno
      exact hgo hno

theorem Engine.doubtAll_doubts {p : Nat → Prop} : ∀ (l : List Nat) (e : Engine), (∀ j, p j → j ∉ l) →
    DoubtsOthers p e (l.foldl (fun e r => e.doubt r) e)
  | [], e, _ => .refl p e
  | r :: l, e, hp => by
    have hhead := e.doubt_doubts (p := p) (r := r) fun j hj hjr => hp j hj (hjr ▸ List.mem_cons_self)
    exact hhead.trans (Engine.doubtAll_doubts l (e.doubt r) fun j hj hjl => hp j hj (List.mem_cons_of_mem _ hjl))

/-- The manager that doubts a live rank, of which no fence is noted, probes it and orders its fence. -/
theorem Engine.doubt_probes {e : Engine} {r : Nat} (hmanages : e.manages = true) (hother : r ≠ e.mdv.rank) (hlive : r ∈ e.liveRanks)
    (hfree : (e.mdv.pendFences.any fun x => x.rank == r) = false) :
    r ∈ (e.doubt r).mdv.probes ∧ e.frames 0x07 r e.stepNo [] ⊆ (e.doubt r).out ∧
    { rank := r, at_ := e.draftStep - 1, reason := 1, admitted := none } ∈ (e.doubt r).mdv.pendFences := by
  rw [Engine.doubt_eq hother hfree]
  obtain ⟨c, hc⟩ := e.probed_eq r
  have hkeeps := (e.probed r).orderFence_doubts (p := fun _ => False) (r := r) (fun _ => False.elim) 1
  have hdraft := (e.probed_doubts (fun _ => False) r).draftStep
  have horder := Engine.orderFence_orders (e := e.probed r) (r := r) (reason := 1)
    (by rw [hc]; exact hmanages) (.inl (by rw [hc]; exact hother)) (by rw [hc]; exact hlive) (by rw [hc]; exact hfree)
  refine ⟨hkeeps.probes ?_, fun o ho => hkeeps.out ?_, ?_⟩
  · rw [hc]
    exact List.mem_append_right _ (List.mem_singleton_self r)
  · rw [hc]
    exact List.mem_append_left _ ho
  · rw [horder.1, hdraft]
    exact List.mem_append_right _ (List.mem_singleton_self _)

/-- Among the ranks doubted each one of which no fence is noted is probed, and its fence ordered. -/
theorem Engine.doubtAll_probes {e : Engine} {r : Nat} {l : List Nat} (hr : r ∈ l) (hmanages : e.manages = true) (hother : r ≠ e.mdv.rank)
    (hlive : r ∈ e.liveRanks) (hfree : (e.mdv.pendFences.any fun x => x.rank == r) = false) :
    r ∈ (l.foldl (fun e r => e.doubt r) e).mdv.probes ∧ e.frames 0x07 r e.stepNo [] ⊆ (l.foldl (fun e r => e.doubt r) e).out ∧
    { rank := r, at_ := e.draftStep - 1, reason := 1, admitted := none } ∈ (l.foldl (fun e r => e.doubt r) e).mdv.pendFences := by
  obtain ⟨before, after, rfl, hfirst⟩ := List.eq_append_cons_of_mem hr
  rw [List.foldl_append, List.foldl_cons]
  have hbefore := Engine.doubtAll_doubts (p := fun j => j = r) before e fun j hj => hj ▸ hfirst
  generalize before.foldl (fun e r => e.doubt r) e = a at hbefore
  obtain ⟨hprobe, hframes, hfence⟩ := Engine.doubt_probes (e := a) (r := r) (hbefore.manages.trans hmanages)
    (by rw [hbefore.links.rank]; exact hother) (by rw [hbefore.liveRanks]; exact hlive) (hbefore.spared r rfl hfree)
  rw [hbefore.links.frames, hbefore.stepNo] at hframes
  rw [hbefore.draftStep] at hfence
  have hafter := Engine.doubtAll_doubts (p := fun _ => False) after (a.doubt r) fun _ => False.elim
  exact ⟨hafter.probes hprobe, fun o ho => hafter.out (hframes ho), hafter.fences hfence⟩

/-- The live ranks that execute and that the fabric calls down. -/
def Engine.doubted (e : Engine) : List Nat :=
  e.liveExecuting.filter fun r => match e.rank? r with
    | some x => e.mdv.nodesDown.contains x.node
    | none => false

theorem Engine.heartbeat_doubts {e : Engine} (hmanages : e.manages = true) (hen : e.flag Fld.mdvCtlHbEn = true) :
    e.heartbeat = e.doubted.foldl (fun e r => e.doubt r) e := by
  rw [Engine.heartbeat, hmanages, hen]
  rfl

theorem Engine.mem_doubted {e : Engine} {r : Nat} {x : Rank} (hlive : r ∈ e.liveExecuting) (hrank : e.rank? r = some x)
    (hdown : e.mdv.nodesDown.contains x.node = true) : r ∈ e.doubted := by
  refine List.mem_filter.2 ⟨hlive, ?_⟩
  rw [hrank]
  exact hdown

/-- An engine that has noted a node up or down. -/
def Engine.nodeNoted (e : Engine) (node : Nat) (up : Bool) : Engine :=
  { e with mdv := { e.mdv with nodesDown := if up then e.mdv.nodesDown.filter (· != node) else insertNat node e.mdv.nodesDown } }

/-- The update of a node of the map is noted, and recorded where the node of a fenced rank is up again. -/
theorem Engine.fabricStatus_notes {e : Engine} {node : Nat} {up : Bool} (hen : e.flag Fld.mdvCtlHbEn = true)
    (hknown : (e.mdv.map.any fun x => x.2.node == node) = true) :
    ∃ a, LogOnly (e.nodeNoted node up) a ∧ (up = false → a = e.nodeNoted node up) ∧
    e.fabricStatus node up = if a.covered then a.heartbeat else a := by
  rw [Engine.fabricStatus, hen, hknown]
  refine ⟨if ((e.mdv.map.any fun x => x.2.node == node && e.mdv.fencedRanks.contains x.1) && up) = true
    then (e.nodeNoted node up).log Ev.fabricUp [node] else e.nodeNoted node up, ?_, fun hdown => ?_, rfl⟩
  · split
    · exact Engine.log_only _ _ _
    · exact .refl _
  · rw [hdown, Bool.and_false]
    rfl

theorem exec_fabricStatus {s : State} (h : s.receives Isl.md) (node : BitVec 16) (up : Bool) :
    exec (.fabricStatus node up) s = .next { s with eng := s.seen.fabricStatus node.toNat up } := State.cross_receives h _ _

section
variable {s : State} {node : BitVec 16} {up : Bool} (h : s.receives Isl.md)
include h

theorem fabricStatus_off (hoff : s.eng.flag Fld.mdvCtlHbEn = false) : exec (.fabricStatus node up) s = .next { s with eng := s.seen } := by
  rw [exec_fabricStatus h, Engine.fabricStatus, show s.seen.flag Fld.mdvCtlHbEn = false from hoff]
  rfl

variable (hen : s.eng.flag Fld.mdvCtlHbEn = true)
include hen

theorem fabricStatus_unknown (hunknown : (s.eng.mdv.map.any fun x => x.2.node == node.toNat) = false) :
    ∃ t, exec (.fabricStatus node up) s = .next t ∧ t.eng.mdv = s.eng.mdv ∧ t.eng.out = s.eng.out := by
  have hlog := s.seen.log_only Ev.fabricUnknown [node.toNat, bit up]
  refine ⟨{ s with eng := s.seen.log Ev.fabricUnknown [node.toNat, bit up] }, (exec_fabricStatus h node up).trans ?_, hlog.mdv_eq,
    hlog.out_eq⟩
  rw [Engine.fabricStatus, show s.seen.flag Fld.mdvCtlHbEn = true from hen,
    show (s.seen.mdv.map.any fun x => x.2.node == node.toNat) = false from hunknown]
  rfl

variable (hknown : (s.eng.mdv.map.any fun x => x.2.node == node.toNat) = true)
include hknown

theorem fabricStatus_notes (hno : s.eng.manages = false ∨ s.eng.covered = false) : ∃ t, exec (.fabricStatus node up) s = .next t ∧
    t.eng.mdv = { s.eng.mdv with
      nodesDown := if up then s.eng.mdv.nodesDown.filter (fun n => n != node.toNat) else insertNat node.toNat s.eng.mdv.nodesDown } := by
  obtain ⟨a, hlog, -, hstatus⟩ := Engine.fabricStatus_notes (e := s.seen) (up := up) hen hknown
  have hmdv : a.mdv = (s.seen.nodeNoted node.toNat up).mdv := hlog.mdv_eq
  have hquiet : (if a.covered then a.heartbeat else a) = a := by
    rcases hno with hworks | huncovered
    · have hworks' : a.manages = false := by rw [Engine.manages, hmdv]; exact hworks
      rw [Engine.heartbeat, hworks']
      exact ite_self a
    · have huncovered' : a.covered = false := by rw [Engine.covered, hmdv]; exact huncovered
      rw [huncovered']
      rfl
  refine ⟨{ s with eng := a }, ?_, hmdv⟩
  rw [exec_fabricStatus h, hstatus, hquiet]

theorem fabricStatus_doubts {r : Nat} {x : Rank} (hmanages : s.eng.manages = true) (hcovered : s.eng.covered = true) (hdown : up = false)
    (hlive : r ∈ s.eng.liveExecuting) (hrank : s.eng.rank? r = some x) (hnode : x.node = node.toNat) (hother : r ≠ s.eng.mdv.rank)
    (hfree : (s.eng.mdv.pendFences.any fun x => x.rank == r) = false) :
    ∃ t, exec (.fabricStatus node up) s = .next t ∧ r ∈ t.eng.mdv.probes ∧ s.eng.sends t.eng 0x07 r s.eng.stepNo [] ∧
    { rank := r, at_ := s.eng.draftStep - 1, reason := 1, admitted := none } ∈ t.eng.mdv.pendFences := by
  obtain ⟨a, -, hdowns, hstatus⟩ := Engine.fabricStatus_notes (e := s.seen) (up := up) hen hknown
  obtain rfl := hdowns hdown
  subst hdown
  have hlinks : SameLinks s.eng (s.seen.nodeNoted node.toNat false) := by constructor <;> rfl
  have hmem : r ∈ (s.seen.nodeNoted node.toNat false).doubted :=
    Engine.mem_doubted (x := x) hlive hrank (List.contains_iff_mem.2 (hnode ▸ mem_insertNat node.toNat _))
  obtain ⟨hprobe, hframes, hfence⟩ := Engine.doubtAll_probes (e := s.seen.nodeNoted node.toNat false) hmem hmanages hother
    (List.mem_of_mem_filter hlive) hfree
  rw [← Engine.heartbeat_doubts (e := s.seen.nodeNoted node.toNat false) hmanages hen] at hprobe hframes hfence
  rw [hlinks.frames] at hframes
  refine ⟨{ s with eng := (s.seen.nodeNoted node.toNat false).heartbeat }, ?_, hprobe, fun o ho => hframes ho, hfence⟩
  rw [exec_fabricStatus h, hstatus, show (s.seen.nodeNoted node.toNat false).covered = true from hcovered]
  rfl

end

/-- Settles O53, command by command. -/
theorem leasesFencesAndProbes : Obligations.LeasesFencesAndProbes := by
  unfold Obligations.LeasesFencesAndProbes
  refine ⟨?_, ?_, fun s r h => ⟨fenceRankCommand_refused h, fenceRankCommand_orders h⟩,
    fun s f m reason h hf => ⟨fenceMessage_obeyed h hf, fenceMessage_noted h hf⟩,
    fun s f h hf => ⟨probe_answered h hf, probe_passed h hf⟩,
    fun s f last stat score misses h hf => ⟨fun r => probeReply_ends h hf, probeReply_ignored h hf, probeReply_passed h hf⟩,
    fun s r h => ⟨probeTimeout_ends h, probeTimeout_ignored h⟩, fun s node up h => ⟨fabricStatus_off h, fabricStatus_unknown h,
      fun hen hknown => ⟨fabricStatus_notes h hen hknown, fun r x => fabricStatus_doubts h hen hknown⟩⟩⟩
  · rintro s f ranks ok h rfl
    exact ⟨lease_discarded h, lease_ignored h, lease_renews h⟩
  · intro s h
    refine ⟨fun hleads hcurrent hlicensed htime => leaseRepeat_sends h ?_, fun hno => leaseRepeat_waits h fun hdue => ?_,
      fun c hc => lapse_fences h hc, leaseMissLimit_waits h, leaseLapseTimeout_waits h, managerIsolationTimeout_fences h⟩
    · rw [← State.seen_get, ← State.seen_mdv, ← State.seen_now] at htime
      exact s.seen.leaseDue_iff.2 ⟨hleads, hcurrent, hlicensed, htime⟩
    · obtain ⟨hleads, hcurrent, hlicensed, htime⟩ := s.seen.leaseDue_iff.1 hdue
      rw [State.seen_get, State.seen_mdv, State.seen_now] at htime
      rcases hno with halone | hidle | hnever | hearly
      · exact Bool.noConfusion (halone.symm.trans hleads)
      · exact hcurrent hidle
      · exact hlicensed hnever
      · exact absurd htime (not_le_of_gt hearly)

end Sys2Proof.Machine
end

section
/-!
# A page reported failed at the manager

PAGE_FAIL of a page that stands on the cached list and has holders as well (R128, R151, R164, R248).
-/

namespace Sys2Proof.Machine

/-- PAGE_FAIL that passes the checks of its header, at the manager. -/
theorem exec_pageFail_manages {s : State} {f : Frame} {p : BitVec 22} (h : s.receives Isl.md) (hf : s.eng.takes f 0x05 (pageFailBody p.toNat))
    (hm : s.eng.manages = true) : exec (.pageFail f p) s = .next { s with eng := (s.seen.hear f).kvFails p.toNat } := by
  refine (State.cross_takes h hf (.inl Nat.zero_ne_one) _ _).trans ?_
  rw [Engine.takePageFail, if_pos ((s.heard_manages f).trans hm)]

/-- A request whose lookup is still open, with three blocks matched: its list is the pages 1, 4 and 5. -/
def matchingRequest : Rafter :=
  { Rafter.ofImage 0 with handle := 5, state := .queued, lookupOpen := true, matched := 3, pageHead := 1, pageCount := 3 }

/-- The manager of a group of two, joined, with that request in slot 5. Page 2 has a holder and stands on the cached list between the pages
1 and 3, and page 3 leads on to it. -/
def cachedBetween : State :=
  { State.reset with eng := { Engine.reset with
      glb := { Glb.reset with aoReset := false, mainReset := false, phase := 7 }
      cal := { Cal.reset with loaded := true }
      cpc := { Cpc.reset with running := 0x1FF#9 }
      mdv := { Mdv.reset with
        map := [(0, { node := 10, parent := noRank, ringPeer := noRank, partner := noRank, role := 0, shard := 0 }),
                (1, { node := 11, parent := 0, ringPeer := noRank, partner := noRank, role := 1, shard := 0 })]
        rank := 0, role := 0, joined := true }
      rafter := [(5, matchingRequest)]
      pgm := { Engine.reset.pgm with
        pages := [(1, heldPage 4), (2, heldPage 0), (3, heldPage 2), (4, heldPage 5), (5, heldPage 0)], cached := [1, 2, 3] } } }

/-- The one frame of a PAGE_FAIL from rank 1. -/
def pageFailFrame : Frame := { up := true, last := true, length := 4, src := 1, dst := 0, step := 0, epoch := 0, group := 0 }

theorem cachedBetween_receives : cachedBetween.receives Isl.md := ⟨rfl, rfl⟩

theorem cachedBetween_takes : cachedBetween.eng.takes pageFailFrame 0x05 (pageFailBody (2#22).toNat) := by
  refine ⟨fun x hx => ?_, by decide +kernel, by decide +kernel⟩
  rw [show cachedBetween.eng.err.slots = [] from rfl] at hx
  exact absurd hx List.not_mem_nil

theorem cachedBetween_holders : cachedBetween.eng.holdersOf (2#22).toNat = [] := by decide +kernel

/-- Page 2 leaves the cached list, which joins page 1 to page 3: the request's list is then 1, 3, 2, so that R164 drops page 2 from it and
frees it. -/
theorem cachedBetween_frees : (((cachedBetween.seen.hear pageFailFrame).kvFails (2#22).toNat).page (2#22).toNat).state = PageState.free := by
  decide +kernel

/-- Refutes O54: the statement leaves out that a page with holders is not on the cached list. In `cachedBetween` page 2 is: PAGE_FAIL takes
it off, a request that was no holder of it then is one by the list's links, and page 2 ends FREE, not FAILED. -/
theorem not_stepsOfAGroup : ¬ Obligations.StepsOfAGroup := by
  unfold Obligations.StepsOfAGroup
  rintro ⟨-, -, -, -, hpage, -⟩
  have hmatch : ∀ j ∈ cachedBetween.eng.holdersOf (2#22).toNat, cachedBetween.eng.matching j (2#22).toNat = false := by
    rw [cachedBetween_holders]
    exact fun j hj => absurd hj List.not_mem_nil
  obtain ⟨t, hexec, hfailed, -⟩ := (hpage cachedBetween pageFailFrame 2#22 _ cachedBetween_receives cachedBetween_takes rfl).1
    rfl rfl (.inr rfl) (by decide) hmatch
  obtain rfl := Host.Outcome.next.inj (hexec.symm.trans (exec_pageFail_manages cachedBetween_receives cachedBetween_takes rfl))
  exact absurd (hfailed.symm.trans cachedBetween_frees) (by decide)

end Sys2Proof.Machine
end

section
/-!
# What an engine is to its group

Work inside an engine leaves its place in the group, the aborts and takeovers it has counted and the boundary it has committed; most of
it leaves its links, its step and the records it mirrors too, and takes back nothing it has driven.
-/

namespace Sys2Proof.Machine

/-- An engine's place in its group, when it last heard of it, the newest boundary committed, and the aborts and takeovers it knows of. -/
structure GroupView where
  rank : Nat
  role : Nat
  epoch : Nat
  heardAt : Nat
  commitStep : Nat
  takenOver : Bool
  seenAborts : List (Nat × Nat)
  aborts : BitVec 32
  takeovers : BitVec 32

def Engine.groupView (e : Engine) : GroupView :=
  { rank := e.mdv.rank, role := e.mdv.role, epoch := e.mdv.epoch, heardAt := e.mdv.heardAt, commitStep := e.flt.commitStep,
    takenOver := e.flt.takenOver, seenAborts := e.flt.seenAborts, aborts := e.count Cnt.fltAbort, takeovers := e.count Cnt.fltTakeover }

/-- The same, and what its links, its messages and its mirror depend on. -/
structure LinkView where
  group : GroupView
  map : Table Rank
  fencedRanks : List Nat
  guests : Table Nat
  groupId : Nat
  oldEpoch : Nat
  epochStep : Nat
  joined : Bool
  fenced : Bool
  phase : Nat
  stepNo : Nat
  mirrored : Table (List Byte × List Byte)

def Engine.linkView (e : Engine) : LinkView :=
  { group := e.groupView, map := e.mdv.map, fencedRanks := e.mdv.fencedRanks, guests := e.mdv.guests, groupId := e.mdv.groupId,
    oldEpoch := e.mdv.oldEpoch, epochStep := e.mdv.epochStep, joined := e.mdv.joined, fenced := e.mdv.fenced,
    phase := e.flt.shadow.phase, stepNo := e.stepNo, mirrored := e.flt.mirrored }

/-- e' is to the group what e is. -/
def GroupKept (e e' : Engine) : Prop := e'.groupView = e.groupView

/-- The same, and what e has driven stays driven. -/
def GroupDrives (e e' : Engine) : Prop := GroupKept e e' ∧ e.out <:+ e'.out

/-- The same, and e' has the links, the step and the mirrored records of e. -/
def LinksKept (e e' : Engine) : Prop := e'.linkView = e.linkView ∧ e.out <:+ e'.out

section
variable {a b c e e' : Engine}

theorem GroupKept.refl (e : Engine) : GroupKept e e := rfl

theorem GroupKept.trans (h : GroupKept a b) (k : GroupKept b c) : GroupKept a c := Eq.trans k h

theorem GroupKept.foldl {α : Type} {f : Engine → α → Engine} (hf : ∀ e x, GroupKept e (f e x)) :
    ∀ (l : List α) (e : Engine), GroupKept e (l.foldl f e)
  | [], e => .refl e
  | x :: l, e => (hf e x).trans (.foldl hf l (f e x))

theorem GroupKept.bumpBy (e : Engine) {c : Nat} (ha : Cnt.fltAbort ≠ c) (ht : Cnt.fltTakeover ≠ c) (n : Nat) : GroupKept e (e.bumpBy c n) := by
  unfold GroupKept Engine.groupView
  rw [Engine.count_bumpBy_ne e n ha, Engine.count_bumpBy_ne e n ht]
  rfl

theorem GroupKept.epoch_eq (h : GroupKept e e') : e'.mdv.epoch = e.mdv.epoch := congrArg GroupView.epoch h
theorem GroupKept.heardAt_eq (h : GroupKept e e') : e'.mdv.heardAt = e.mdv.heardAt := congrArg GroupView.heardAt h
theorem GroupKept.commitStep_eq (h : GroupKept e e') : e'.flt.commitStep = e.flt.commitStep := congrArg GroupView.commitStep h
theorem GroupKept.takenOver_eq (h : GroupKept e e') : e'.flt.takenOver = e.flt.takenOver := congrArg GroupView.takenOver h
theorem GroupKept.seenAborts_eq (h : GroupKept e e') : e'.flt.seenAborts = e.flt.seenAborts := congrArg GroupView.seenAborts h
theorem GroupKept.aborts_eq (h : GroupKept e e') : e'.count Cnt.fltAbort = e.count Cnt.fltAbort := congrArg GroupView.aborts h
theorem GroupKept.takeovers_eq (h : GroupKept e e') : e'.count Cnt.fltTakeover = e.count Cnt.fltTakeover := congrArg GroupView.takeovers h

theorem GroupDrives.refl (e : Engine) : GroupDrives e e := ⟨rfl, List.suffix_refl _⟩

theorem GroupDrives.trans (h : GroupDrives a b) (k : GroupDrives b c) : GroupDrives a c := ⟨h.1.trans k.1, h.2.trans k.2⟩

theorem LinksKept.of_view (h : e'.linkView = e.linkView) (ho : e'.out = e.out) : LinksKept e e' := ⟨h, ho ▸ List.suffix_refl _⟩

theorem LinksKept.refl (e : Engine) : LinksKept e e := .of_view rfl rfl

theorem LinksKept.trans (h : LinksKept a b) (k : LinksKept b c) : LinksKept a c := ⟨k.1.trans h.1, h.2.trans k.2⟩

theorem LinksKept.foldl {α : Type} {f : Engine → α → Engine} (hf : ∀ e x, LinksKept e (f e x)) :
    ∀ (l : List α) (e : Engine), LinksKept e (l.foldl f e)
  | [], e => .refl e
  | x :: l, e => (hf e x).trans (.foldl hf l (f e x))

theorem LinksKept.drives (h : LinksKept e e') : GroupDrives e e' := ⟨congrArg LinkView.group h.1, h.2⟩

theorem LinksKept.kept (h : LinksKept e e') : GroupKept e e' := h.drives.1

theorem LinksKept.emit (e : Engine) (o : Output) : LinksKept e (e.emit o) := ⟨rfl, List.suffix_cons _ _⟩

theorem LinksKept.driven (e : Engine) (l : List Output) : LinksKept e (e.driven l) := ⟨rfl, List.suffix_append _ _⟩

theorem LinksKept.bumpBy (e : Engine) {c : Nat} (ha : Cnt.fltAbort ≠ c) (ht : Cnt.fltTakeover ≠ c) (n : Nat) : LinksKept e (e.bumpBy c n) := by
  refine .of_view ?_ rfl
  unfold Engine.linkView
  rw [show (e.bumpBy c n).groupView = e.groupView from GroupKept.bumpBy e ha ht n]
  rfl

/-- Where the group's unit, the fault unit, the step and the counters below stay. -/
theorem LinksKept.of_units (hm : e'.mdv = e.mdv) (hf : e'.flt = e.flt) (hs : e'.stepNo = e.stepNo)
    (hc : ∀ c, 0x7000 ≤ c → e'.count c = e.count c) (ho : e.out <:+ e'.out) : LinksKept e e' := by
  refine ⟨?_, ho⟩
  unfold Engine.linkView Engine.groupView
  rw [hm, hf, hs, hc _ (by decide), hc _ (by decide)]

theorem LogOnly.linksKept (h : LogOnly e e') : LinksKept e e' :=
  .of_units h.mdv_eq h.flt_eq h.stepNo_eq (fun _ hc => h.count_apart (.inr hc)) (by rw [h.out_eq])

theorem ReportOnly.linksKept (h : ReportOnly e e') : LinksKept e e' :=
  .of_units h.mdv_eq h.flt_eq h.stepNo_eq (fun _ hc => h.count_apart (.inr hc)) h.out_suffix

/-- Upkeep of pages and versions leaves the group. -/
theorem Stores.groupKept (h : Stores e e') : GroupKept e e' := by
  unfold GroupKept Engine.groupView
  rw [h.2 _ (by decide), h.2 _ (by decide), h.1]

theorem LinksKept.links (h : LinksKept e e') : SameLinks e e' where
  map := congrArg LinkView.map h.1
  rank := congrArg (fun v => v.group.rank) h.1
  fencedRanks := congrArg LinkView.fencedRanks h.1
  guests := congrArg LinkView.guests h.1
  groupId := congrArg LinkView.groupId h.1
  epoch := congrArg (fun v => v.group.epoch) h.1
  oldEpoch := congrArg LinkView.oldEpoch h.1
  epochStep := congrArg LinkView.epochStep h.1
  joined := congrArg LinkView.joined h.1
  fenced := congrArg LinkView.fenced h.1
  phase := congrArg LinkView.phase h.1

end

section
variable (e : Engine)

theorem Engine.log_linksKept (code : Nat) (payload : List Nat) : LinksKept e (e.log code payload) := (e.log_only code payload).linksKept

theorem Engine.send_linksKept (type dst step : Nat) (body : List Byte) : LinksKept e (e.send type dst step body) := by
  rw [Engine.send_eq_frames]
  exact .driven e _

theorem Engine.flood_linksKept (type step : Nat) (body : List Byte) (from_ : Nat) : LinksKept e (e.flood type step body from_) := by
  obtain ⟨l, hl, -⟩ := e.flood_driven type step body from_
  rw [hl]
  exact .driven e l

/-! ### FATAL (R339) -/

theorem Engine.fatalStop_drives : GroupDrives e e.fatalStop := by
  unfold Engine.fatalStop Engine.fenceSelf
  extract_lets mdv e1
  have h1 : GroupDrives e e1 := by
    dsimp only [e1]
    split
    · split
      · exact .refl e
      · exact ⟨rfl, (List.suffix_cons _ _).trans (List.suffix_cons _ _)⟩
    · exact (LinksKept.emit e _).drives
  exact h1.trans ⟨rfl, List.suffix_refl _⟩

theorem Engine.fatalReset_drives : GroupDrives e e.fatalReset := by
  unfold Engine.fatalReset
  extract_lets glb e1
  split
  · exact ⟨rfl, List.suffix_cons _ _⟩
  · exact ⟨rfl, List.suffix_refl _⟩

/-- FATAL may fence the engine, but it keeps its place. -/
theorem Engine.raiseFatal_drives (det : Nat) (handle : Handle) (detail : Nat) (given : Option Bool) :
    GroupDrives e (e.raiseFatal det handle detail given) := by
  have hjudge := (e.judge_only det given).linksKept.drives
  refine .trans ?_ (Engine.fatalReset_drives _)
  exact (hjudge.trans (Engine.fatalStop_drives _)).trans (Engine.errTake_only _ _ _ _ _ _ _).linksKept.drives

end

end Sys2Proof.Machine
end

section
/-!
# An ABORT received

The first copy of an ABORT is passed on and acted on; the rest of the group's messages are as they were (R266, R267, R269; log entry 52).
-/

namespace Sys2Proof.Machine

/-! ### What the parts of an abort leave of the group -/

section
variable (e : Engine)

theorem Engine.spareTaken_linksKept (kind index : Nat) : LinksKept e (e.spareTaken kind index) := by
  have hcounted : LinksKept e (e.bump Cnt.fltSpare) := .bumpBy e (by decide) (by decide) 1
  exact (hcounted.trans (Engine.log_linksKept _ _ _)).trans (.of_view rfl rfl)

theorem Engine.spareCores_linksKept : LinksKept e e.spareCores := by
  unfold Engine.spareCores
  refine .trans (b := { e with tsk := { e.tsk with spareDue := [] } }) (.of_view rfl rfl) (.foldl (fun e x => ?_) _ _)
  split
  · exact .refl e
  · refine .trans ?_ (Engine.spareTaken_linksKept _ _ _)
    exact .of_view rfl rfl

theorem Engine.spareGroup_linksKept (g : Nat) : LinksKept e (e.spareGroup g) := by
  unfold Engine.spareGroup
  extract_lets x e1 x1
  have h1 : LinksKept e e1 := by
    dsimp only [e1]
    split
    · refine .trans ?_ (Engine.spareTaken_linksKept _ _ _)
      exact .of_view rfl rfl
    · exact .refl e
  split
  · exact h1.trans (.of_view rfl rfl)
  · exact h1

theorem Engine.spareSpar_linksKept (p : Nat) : LinksKept e (e.spareSpar p) := by
  unfold Engine.spareSpar
  split
  · exact .refl e
  · extract_lets gone spg e1
    split
    · exact .of_view rfl rfl
    · split
      · exact .trans (b := e1) (.of_view rfl rfl) (e1.log_linksKept _ _)
      · refine .trans ?_ (Engine.spareTaken_linksKept _ _ _)
        exact .of_view rfl rfl

theorem Engine.sparePort_linksKept (lane : Nat) : LinksKept e (e.sparePort lane) := by
  unfold Engine.sparePort
  extract_lets spare flt e1
  split
  · exact .trans (b := e1) (.of_view rfl rfl) (e1.spareTaken_linksKept _ _)
  · exact .of_view rfl rfl

theorem Engine.spareRow_linksKept (k : Nat) : LinksKept e (e.spareRow k) := by
  unfold Engine.spareRow
  extract_lets a
  split
  · exact .refl e
  · refine .trans (.trans (b := { e with flt := { e.flt with rowsSpared := e.flt.rowsSpared ++ [k] } }) ?_ ?_) (Engine.log_linksKept _ _ _)
    · exact .of_view rfl rfl
    · exact .bumpBy _ (by decide) (by decide) 1

theorem Engine.switchSpares_linksKept : LinksKept e e.switchSpares := by
  have hlanes (e : Engine) : LinksKept e e.spareLanes := .foldl Engine.spareGroup_linksKept _ e
  have hspars (e : Engine) : LinksKept e e.spareSpars :=
    .trans (b := { e with spg := { e.spg with culprits := [] } }) (.of_view rfl rfl) (.foldl Engine.spareSpar_linksKept _ _)
  have hports (e : Engine) : LinksKept e e.sparePorts :=
    .trans (b := { e with flt := { e.flt with laneSwitch := [] } }) (.of_view rfl rfl) (.foldl Engine.sparePort_linksKept _ _)
  have hrows (e : Engine) : LinksKept e e.spareRows :=
    .trans (b := { e with flt := { e.flt with rowsDue := [] } }) (.of_view rfl rfl) (.foldl Engine.spareRow_linksKept _ _)
  exact (((e.spareCores_linksKept.trans (hlanes _)).trans (hspars _)).trans (hports _)).trans (hrows _)

theorem Engine.modAny_linksKept (slot : Nat) (f : Rafter → Rafter) : LinksKept e (e.modAny slot f) := by
  unfold Engine.modAny
  split <;> exact .of_view rfl rfl

theorem Engine.undoOne_linksKept (u : UndoEntry) : LinksKept e (e.undoOne u) := by
  cases u with
  | rafter s old => exact e.modAny_linksKept s _
  | _ => exact .of_view rfl rfl

theorem Engine.applyUndo_linksKept : LinksKept e e.applyUndo := by
  unfold Engine.applyUndo
  extract_lets log flt e1
  have h1 : LinksKept e e1 :=
    .trans (b := { e with flt := { e.flt with undo := [] } }) (.of_view rfl rfl) (.foldl Engine.undoOne_linksKept _ _)
  exact h1.trans (.foldl (fun e s => e.modAny_linksKept s _) _ _)

theorem Engine.haltStep_linksKept : LinksKept e e.haltStep := by
  unfold Engine.haltStep
  extract_lets e1 e2
  have h1 : LinksKept e e1 := by
    dsimp only [e1]
    split
    · exact .of_view rfl rfl
    · exact .refl e
  have h2 : LinksKept e1 e2 := by
    refine .trans (.emit e1 .haltTiles) ?_
    unfold e2 Engine.releaseGutter
    split
    · exact .trans (.of_view rfl rfl) (.emit _ _)
    · exact .refl _
  exact (h1.trans h2).trans (.of_view rfl rfl)

theorem Engine.countFailure_linksKept (step : Nat) (effect : Bool) (courses : List Nat) : LinksKept e (e.countFailure step effect courses) := by
  unfold Engine.countFailure
  dsimp only
  refine .of_view ?_ rfl
  split <;> rfl

theorem Engine.fenceRequest_linksKept (slot : Nat) : LinksKept e (e.fenceRequest slot) := by
  unfold Engine.fenceRequest
  split
  · exact .refl e
  · split
    · exact .refl e
    · exact .of_view rfl rfl

theorem Engine.journalMembers_linksKept : LinksKept e e.journalMembers := by
  obtain ⟨j, hj⟩ := e.journalMembers_eq
  rw [hj]
  exact .of_view rfl rfl

theorem Engine.modReqs_linksKept (ms : List Member) (f : Rafter → Rafter) : LinksKept e (ms.foldl (fun e m => e.modReq m.slot f) e) :=
  .foldl (f := fun e m => e.modReq m.slot f) (fun _ _ => .of_view rfl rfl) ms e

theorem Engine.vacateMembers_linksKept (y : Yealm) (hit : Member → Bool) : LinksKept e (e.vacateMembers y hit) := by
  unfold Engine.vacateMembers
  extract_lets gone y' ylm e1 e2
  have h1 : LinksKept e e1 := .trans (b := { e with ylm := { e.ylm with current := some y' } }) (.of_view rfl rfl) (Engine.journalMembers_linksKept _)
  have h2 : LinksKept e1 e2 := .bumpBy e1 (by decide) (by decide) _
  exact (h1.trans h2).trans (e2.modReqs_linksKept gone _)

theorem Engine.vacateOnReplay_linksKept (y : Yealm) : LinksKept e (e.vacateOnReplay y) := by
  unfold Engine.vacateOnReplay
  split
  · extract_lets hs flt e1
    have h1 : LinksKept e e1 := .of_view rfl rfl
    split
    · exact h1
    · exact h1.trans (e1.vacateMembers_linksKept _ _)
  · exact .refl e

theorem Engine.emitCtl_linksKept (ws : List (BitVec 128)) : LinksKept e (e.emitCtl ws) :=
  .foldl (f := fun e w => e.emit (.ctl w)) (fun e _ => .emit e _) ws e

theorem Engine.decodeInputs_linksKept (y : Yealm) : LinksKept e (e.decodeInputs y) := by
  refine .foldl (fun e x => ?_) _ e
  split
  · exact e.emitCtl_linksKept _
  · exact .refl e

theorem Engine.emitAgain_linksKept (y : Yealm) : LinksKept e (e.emitAgain y) :=
  .trans (b := { e with ylm := { e.ylm with reStep := some y.step } }) (.of_view rfl rfl) (.emit _ _)

theorem Engine.emitManifest_linksKept (y : Yealm) : LinksKept e (e.emitManifest y) :=
  .trans (b := { e with ylm := { e.ylm with mfStep := some y.step, mfDelivered := false } }) (.of_view rfl rfl) (.emit _ _)

theorem Engine.fenceMembers_linksKept (ms : List Member) : LinksKept e (ms.foldl (fun e m => e.fenceRequest m.slot) e) :=
  .foldl (fun e m => e.fenceRequest_linksKept m.slot) ms e

theorem Engine.abortStep_linksKept (effect : Bool) (courses : List Nat) : LinksKept e (e.abortStep effect courses).2 := by
  unfold Engine.abortStep
  split
  · exact .refl e
  · next y _ =>
    split
    · exact .refl e
    · extract_lets e1 e2 flt e3 e4 e5
      have h1 : LinksKept e e1 := ((((e.countFailure_linksKept _ _ _).trans (Engine.haltStep_linksKept _)).trans
        (Engine.switchSpares_linksKept _)).trans (Engine.applyUndo_linksKept _))
      have h3 : LinksKept e1 e3 := (e1.fenceMembers_linksKept y.members).trans (.of_view rfl rfl)
      have h4 : LinksKept e3 e4 :=
        ((e3.vacateOnReplay_linksKept y).trans (.bumpBy _ (by decide) (by decide) 1)).trans (Engine.log_linksKept _ _ _)
      have h5 : LinksKept e e5 := ((h1.trans h3).trans h4).trans (e4.emitAgain_linksKept y)
      show LinksKept e (match e5.ylm.current with | some y => e5.decodeInputs y | none => e5)
      split
      · exact h5.trans (e5.decodeInputs_linksKept _)
      · exact h5

theorem Engine.setReplaying_linksKept : LinksKept e e.setReplaying := .of_view rfl rfl

theorem Engine.undoReplicas_linksKept (step : Nat) : LinksKept e (e.undoReplicas step) := by
  unfold Engine.undoReplicas
  extract_lets e1 src mdv
  have h1 : LinksKept e e1 := e.applyUndo_linksKept
  have h2 : LinksKept e1 { e1 with mdv := mdv } := .of_view rfl rfl
  exact ((h1.trans h2).trans (Engine.setReplaying_linksKept _)).trans (Engine.log_linksKept _ _ _)

/-- The action on a step that is told to nobody keeps the engine's place; it may stop it. -/
theorem Engine.stepAction_drives (courses : List Nat) (code : Nat) (detail : Nat) (given : Option Bool) :
    GroupDrives e (e.stepAction courses code false detail given) := by
  unfold Engine.stepAction
  split
  · exact .refl e
  · split
    · exact (e.log_linksKept _ _).drives
    · have habort := (e.abortStep_linksKept (code == Det.boundaryEffect) courses).drives
      rw [if_neg Bool.false_ne_true]
      dsimp only
      split
      · exact habort.trans (Engine.raiseFatal_drives _ _ _ _ _)
      · exact habort

theorem Engine.abortHere_drives (step : Nat) : GroupDrives e (e.abortHere step) := by
  have hignored : GroupDrives e (e.log Ev.abortIgnored [step]) := (e.log_linksKept _ _).drives
  unfold Engine.abortHere
  split
  · split
    · exact e.stepAction_drives _ _ _ _
    · exact hignored
  · split
    · split
      · exact (e.undoReplicas_linksKept step).drives
      · exact hignored
    · split
      · exact hignored
      · have hhalted : LinksKept e (e.emit .haltTiles) := .emit e _
        split
        · exact ((hhalted.trans (Engine.emitManifest_linksKept _ _)).trans (Engine.setReplaying_linksKept _)).drives
        · exact (hhalted.trans (Engine.setReplaying_linksKept _)).drives

end

/-! ### The undo log (R266) -/

section
variable (e : Engine)

theorem Engine.modAny_flt (slot : Nat) (f : Rafter → Rafter) : (e.modAny slot f).flt = e.flt := by
  unfold Engine.modAny
  split <;> rfl

theorem Engine.undoOne_flt (u : UndoEntry) : (e.undoOne u).flt = e.flt := by
  cases u with
  | rafter s old => exact e.modAny_flt s _
  | _ => rfl

/-- Work that leaves the fault unit leaves it however often it is done. -/
theorem foldl_flt {α : Type} {f : Engine → α → Engine} (hf : ∀ e x, (f e x).flt = e.flt) :
    ∀ (l : List α) (e : Engine), (l.foldl f e).flt = e.flt
  | [], _ => rfl
  | x :: l, e => (foldl_flt hf l (f e x)).trans (hf e x)

/-- The undo log is empty once it is applied. -/
theorem Engine.applyUndo_flt : e.applyUndo.flt = { e.flt with undo := [] } :=
  (foldl_flt (fun e s => e.modAny_flt s _) _ _).trans (foldl_flt Engine.undoOne_flt _ _)

/-- A standby's replicas are as they were before the step, and the replay is flagged. -/
theorem Engine.undoReplicas_spec (step : Nat) : (e.undoReplicas step).flt.undo = [] ∧ (e.undoReplicas step).mdv.tokensSeen = [] ∧
    (e.undoReplicas step).flt.replaying = true := by
  unfold Engine.undoReplicas
  extract_lets e1 src mdv
  have hlog := (({ e1 with mdv := mdv } : Engine).setReplaying).log_only Ev.replay [step]
  have hundo : e1.flt = { e.flt with undo := [] } := e.applyUndo_flt
  refine ⟨?_, ?_, ?_⟩
  · rw [hlog.flt_eq]
    exact congrArg Flt.undo hundo
  · rw [hlog.mdv_eq]
    rfl
  · rw [hlog.flt_eq]
    rfl

end

/-! ### The step that an ABORT names -/

section
variable {e : Engine} {y : Yealm} {step : Nat}

/-- An ABORT of the step in compute that can be replayed replays it. -/
theorem Engine.abortHere_restarts (h : e.mayReplay y) (hstep : y.step = step) (hfresh : e.replayFresh step = false) :
    e.Restarts (e.abortHere step) := by
  obtain ⟨t, ht, hrestarts⟩ := Engine.abortStep_restarts h (Det.abortReceived == Det.boundaryEffect) []
  have haction : e.abortHere step = t := by
    have hcommit : ¬ y.step ≤ e.flt.commitStep := Nat.not_le.2 h.2.1
    have hgo : (decide (y.step = step) && !e.replayFresh step) = true := by rw [hfresh, decide_eq_true hstep]; rfl
    simp only [Engine.abortHere, h.1]
    rw [if_pos hgo]
    simp only [Engine.stepAction, h.1]
    rw [if_neg hcommit, if_neg Bool.false_ne_true, ht]
    rfl
  rwa [haction]

/-- An ABORT of another step, of one committed, or of one whose replay has only started is recorded. -/
theorem Engine.abortHere_ignored (h : e.ylm.current = some y)
    (hno : y.step ≠ step ∨ y.step ≤ e.flt.commitStep ∨ e.replayFresh y.step = true) : LogOnly e (e.abortHere step) := by
  unfold Engine.abortHere
  split
  · next y' hcur =>
    obtain rfl : y = y' := Option.some.inj (h.symm.trans hcur)
    split
    · next hgo =>
      rw [Bool.and_eq_true, decide_eq_true_eq, Bool.not_eq_true'] at hgo
      obtain ⟨rfl, hfresh⟩ := hgo
      have hcommit : y.step ≤ e.flt.commitStep := by
        rcases hno with hne | hle | hstarted
        · exact absurd rfl hne
        · exact hle
        · exact Bool.noConfusion (hfresh.symm.trans hstarted)
      unfold Engine.stepAction
      simp only [h, if_pos hcommit]
      exact e.log_only _ _
    · exact e.log_only _ _
  · next hnone =>
    rw [h] at hnone
    cases hnone

/-- An engine that stands by undoes what the step's tokens wrote. -/
theorem Engine.abortHere_undoes (h : e.ylm.current = none) (hfollows : e.follows = true) (hidle : e.executes = false) :
    e.abortHere e.stepNo = e.undoReplicas e.stepNo := by
  simp [Engine.abortHere, h, hfollows, hidle]

end

/-! ### The first copy (R267) -/

/-- The engine that has noted and counted an ABORT. -/
def Engine.abortNoted (e : Engine) (b : AbortBody) : Engine :=
  ({ e with flt := { e.flt with seenAborts := (b.origin.toNat, b.sequence.toNat) :: e.flt.seenAborts } } : Engine).bump Cnt.fltAbort

/-- The engine that has passed it on, and sent the manifest of its step again where it may be wanted. -/
def Engine.abortPassed (e : Engine) (f : Frame) (b : AbortBody) : Engine :=
  ((e.abortNoted b).floodAbort b.step.toNat (abortBodyOf b) f.src.toNat).resendManifest b.step.toNat

theorem Engine.floodAbort_driven (e : Engine) (step : Nat) (body : List Byte) (from_ : Nat) :
    ∃ l, e.floodAbort step body from_ = e.driven l ∧ ∀ a, SameLinks e a → a.floodAbort step body from_ = a.driven l := by
  obtain ⟨l, hl, hl'⟩ := e.flood_driven 0x0A step body from_
  have htwice : ∀ a, SameLinks e a → a.floodAbort step body from_ = a.driven (l ++ l) := fun a ha => by
    have hagain : SameLinks e (a.driven l) := ha.trans (LinksKept.driven a l).links
    rw [Engine.floodAbort, hl' a ha, hl' _ hagain, Engine.driven_driven]
  exact ⟨l ++ l, htwice e (.refl e), htwice⟩

theorem Engine.resendManifest_driven (e : Engine) (step : Nat) : ∃ l, e.resendManifest step = e.driven l := by
  unfold Engine.resendManifest
  split
  · exact ⟨_, e.send_eq_frames _ _ _ _⟩
  · exact ⟨[], rfl⟩

/-- What is passed on is driven, the frames of the ABORT among it; but for the note, its count and the time nothing else changes. -/
theorem State.abortPassed_frame (s : State) (f : Frame) (b : AbortBody) :
    ∃ n l, (s.seen.hear f).abortPassed f b = { s.eng.abortNoted b with
        now := s.tb.count, mdv := { s.eng.mdv with heardAt := n }, out := l ++ s.eng.out } ∧
      (s.eng.floodAbort b.step.toNat (abortBodyOf b) f.src.toNat).out ⊆ l ++ s.eng.out := by
  obtain ⟨n, hn⟩ := s.heard_eq f
  have hnoted : SameLinks s.eng ((s.seen.hear f).abortNoted b) := (s.heard_links f).trans (by constructor <;> rfl)
  obtain ⟨l, hl, hl'⟩ := s.eng.floodAbort_driven b.step.toNat (abortBodyOf b) f.src.toNat
  obtain ⟨m, hm⟩ := (((s.seen.hear f).abortNoted b).driven l).resendManifest_driven b.step.toNat
  refine ⟨n, m ++ l, ?_, ?_⟩
  · rw [Engine.abortPassed, hl' _ hnoted, hm, Engine.driven_driven, hn]
    rfl
  · rw [hl, Engine.driven_out, List.append_assoc]
    exact List.subset_append_right _ _

theorem Engine.takeAbort_first {e : Engine} {f : Frame} {b : AbortBody} (hfenced : e.mdv.fenced = false)
    (hnew : (b.origin.toNat, b.sequence.toNat) ∉ e.flt.seenAborts) (hcause : b.cause ≠ 2) :
    e.takeAbort f b = (e.abortPassed f b).abortHere b.step.toNat := by
  have hopen : ((e.abortNoted b).floodAbort b.step.toNat (abortBodyOf b) f.src.toNat).mdv.fenced = false := by
    obtain ⟨l, hl, -⟩ := (e.abortNoted b).floodAbort_driven b.step.toNat (abortBodyOf b) f.src.toNat
    rw [hl]
    exact hfenced
  have hcontains : e.flt.seenAborts.contains (b.origin.toNat, b.sequence.toNat) = false := by
    rw [Bool.eq_false_iff, Ne, List.contains_iff_mem]
    exact hnew
  unfold Engine.takeAbort
  extract_lets key flt e1 e2 e3
  have h3 : e3 = (e.abortNoted b).floodAbort b.step.toNat (abortBodyOf b) f.src.toNat := if_neg hcause
  rw [if_neg (by rw [hfenced, hcontains]; decide), h3, if_neg (by rw [hopen]; decide)]
  rfl

theorem exec_abort {s : State} {f : Frame} {b : AbortBody} (h : s.receives Isl.md) (hf : s.eng.takes f 0x0A (abortBodyOf b)) :
    exec (.abort f b) s = .next { s with eng := (s.seen.hear f).takeAbort f b } :=
  State.cross_takes h hf (.inl Nat.zero_ne_one) _ _

/-! ### The clauses of O55 on an ABORT -/

section
variable {s : State} {f : Frame} {b : AbortBody} (h : s.receives Isl.md) (hf : s.eng.takes f 0x0A (abortBodyOf b))
include h hf

theorem abort_known (hno : s.eng.mdv.fenced = true ∨ (b.origin.toNat, b.sequence.toNat) ∈ s.eng.flt.seenAborts) :
    ∃ t, exec (.abort f b) s = .next t ∧ t.eng.flt = s.eng.flt ∧ t.eng.ylm = s.eng.ylm ∧ t.eng.rafter = s.eng.rafter ∧
      t.eng.out = s.eng.out ∧ t.eng.cnt = s.eng.cnt := by
  obtain ⟨n, hn⟩ := s.heard_eq f
  have hsame : (s.seen.hear f).takeAbort f b = s.seen.hear f := by
    unfold Engine.takeAbort
    extract_lets key
    rw [if_pos]
    rw [Bool.or_eq_true, List.contains_iff_mem, hn]
    exact hno
  rw [exec_abort h hf, hsame, hn]
  exact ⟨_, rfl, rfl, rfl, rfl, rfl, rfl⟩

variable (hfenced : s.eng.mdv.fenced = false) (hnew : (b.origin.toNat, b.sequence.toNat) ∉ s.eng.flt.seenAborts) (hcause : b.cause ≠ 2)
include hfenced hnew hcause

theorem exec_abort_first : exec (.abort f b) s = .next { s with eng := ((s.seen.hear f).abortPassed f b).abortHere b.step.toNat } := by
  obtain ⟨n, hn⟩ := s.heard_eq f
  rw [exec_abort h hf, Engine.takeAbort_first (by rw [hn]; exact hfenced) (by rw [hn]; exact hnew) hcause]

theorem abort_passed : ∃ t, exec (.abort f b) s = .next t ∧ (b.origin.toNat, b.sequence.toNat) ∈ t.eng.flt.seenAborts ∧
    ∀ o ∈ (s.eng.floodAbort b.step.toNat (abortBodyOf b) f.src.toNat).out, o ∈ t.eng.out := by
  have hexec := exec_abort_first h hf hfenced hnew hcause
  obtain ⟨n, l, hpassed, hflood⟩ := s.abortPassed_frame f b
  generalize (s.seen.hear f).abortPassed f b = e at hexec hpassed
  obtain ⟨hview, hout⟩ := e.abortHere_drives b.step.toNat
  refine ⟨_, hexec, ?_, fun o ho => hout.subset ?_⟩
  · show _ ∈ (e.abortHere b.step.toNat).flt.seenAborts
    rw [hview.seenAborts_eq, hpassed]
    exact List.mem_cons_self
  · rw [hpassed]
    exact hflood ho

theorem abort_replays {y : Yealm} (hy : s.eng.mayReplay y) (hstep : y.step = b.step.toNat) (hfresh : s.eng.replayFresh y.step = false) :
    ∃ t, exec (.abort f b) s = .next t ∧ t.eng.flt.replaying = true ∧ t.eng.ylm.runs = [] ∧ t.eng.smp.ctxs = [] ∧ t.eng.smp.nextEmit = 0 ∧
      (b.origin.toNat, b.sequence.toNat) ∈ t.eng.flt.seenAborts ∧ t.eng.count Cnt.fltAbort = s.eng.count Cnt.fltAbort + 1#32 ∧
      t.eng.count Cnt.fltReplay = s.eng.count Cnt.fltReplay + 1#32 ∧ t.eng.count Cnt.errStep = s.eng.count Cnt.errStep := by
  have hexec := exec_abort_first h hf hfenced hnew hcause
  obtain ⟨n, l, hpassed, -⟩ := s.abortPassed_frame f b
  generalize (s.seen.hear f).abortPassed f b = e at hexec hpassed
  have hcount : ∀ c, e.count c = (s.eng.abortNoted b).count c := fun c => by rw [hpassed]; rfl
  obtain ⟨hview, -⟩ := e.abortHere_drives b.step.toNat
  have hrestarts : e.Restarts (e.abortHere b.step.toNat) := by
    refine Engine.abortHere_restarts (y := y) ?_ hstep ?_
    · rw [hpassed]
      exact hy
    · rw [hpassed, ← hstep]
      exact hfresh
  refine ⟨_, hexec, hrestarts.replaying, hrestarts.runs, hrestarts.ctxs, hrestarts.nextEmit, ?_, ?_, ?_, ?_⟩
  · show _ ∈ (e.abortHere b.step.toNat).flt.seenAborts
    rw [hview.seenAborts_eq, hpassed]
    exact List.mem_cons_self
  · exact hview.aborts_eq.trans ((hcount _).trans (Engine.count_bump_self _ _))
  · exact hrestarts.counted.trans (congrArg (· + 1#32) ((hcount _).trans (Engine.count_bump_ne _ (by decide))))
  · exact (hrestarts.count _ (by decide) (by decide)).trans ((hcount _).trans (Engine.count_bump_ne _ (by decide)))

theorem abort_ignored {y : Yealm} (hcur : s.eng.ylm.current = some y)
    (hno : y.step ≠ b.step.toNat ∨ y.step ≤ s.eng.flt.commitStep ∨ s.eng.replayFresh y.step = true) :
    ∃ t, exec (.abort f b) s = .next t ∧ t.eng.ylm.current = some y ∧ t.eng.smp = s.eng.smp ∧ t.eng.rafter = s.eng.rafter ∧
      t.eng.flt.replaying = s.eng.flt.replaying := by
  have hexec := exec_abort_first h hf hfenced hnew hcause
  obtain ⟨n, l, hpassed, -⟩ := s.abortPassed_frame f b
  generalize (s.seen.hear f).abortPassed f b = e at hexec hpassed
  have hlog : LogOnly e (e.abortHere b.step.toNat) := by
    refine Engine.abortHere_ignored (y := y) ?_ ?_ <;> rw [hpassed]
    · exact hcur
    · exact hno
  refine ⟨_, hexec, ?_, ?_, ?_, ?_⟩
  · rw [hlog.ylm_eq, hpassed]
    exact hcur
  · rw [hlog.smp_eq, hpassed]
    rfl
  · rw [hlog.rafter_eq, hpassed]
    rfl
  · rw [hlog.flt_eq, hpassed]
    rfl

theorem abort_undoes (hcur : s.eng.ylm.current = none) (hfollows : s.eng.follows = true) (hidle : s.eng.executes = false)
    (hstep : b.step.toNat = s.eng.stepNo) : ∃ t, exec (.abort f b) s = .next t ∧ t.eng.flt.undo = [] ∧ t.eng.mdv.tokensSeen = [] ∧
      t.eng.flt.replaying = true := by
  have hexec := exec_abort_first h hf hfenced hnew hcause
  obtain ⟨n, l, hpassed, -⟩ := s.abortPassed_frame f b
  generalize (s.seen.hear f).abortPassed f b = e at hexec hpassed
  have hno : b.step.toNat = e.stepNo := by
    rw [hpassed]
    exact hstep
  have hundo : e.abortHere e.stepNo = e.undoReplicas e.stepNo := by
    refine Engine.abortHere_undoes ?_ ?_ ?_ <;> rw [hpassed]
    · exact hcur
    · exact hfollows
    · exact hidle
  rw [hno, hundo] at hexec
  exact ⟨_, hexec, e.undoReplicas_spec _⟩

end

end Sys2Proof.Machine
end

section
/-!
# The partner's mirror

EVENTs and their acknowledgements, the records that wait for them, and MIRROR_ACK (R263 to R265, R275; log entries 24 and 52).
-/

namespace Sys2Proof.Machine

/-! ### Records that waited (R48, R265) -/

section
variable (e : Engine)

/-- A record written leaves the fault unit, what is gated, and the group. -/
theorem Engine.putRecord_frame (x : EventRecord) : (e.putRecord x).flt = e.flt ∧ (e.putRecord x).hru.gated = e.hru.gated ∧
    LinksKept e (e.putRecord x) := by
  unfold Engine.putRecord
  extract_lets r control record e1 tail e2 e3
  have h1 : e1.flt = e.flt ∧ e1.hru.gated = e.hru.gated ∧ LinksKept e e1 := by
    unfold e1 Engine.markDelivered
    extract_lets handle mark
    have hemit : LinksKept e (e.emit (.hostRecord x.ring r.tail record)) := .emit e _
    split
    · exact ⟨rfl, rfl, hemit.trans (.of_view rfl rfl)⟩
    · exact ⟨rfl, rfl, hemit⟩
  obtain ⟨hflt, hgated, hlinks⟩ := h1
  have h2 : LinksKept e e2 := hlinks.trans (.of_view rfl rfl)
  have h3 : e3.flt = e.flt ∧ e3.hru.gated = e.hru.gated ∧ LinksKept e e3 := by
    dsimp only [e3]
    split
    · exact ⟨hflt, hgated, h2⟩
    · exact ⟨hflt, hgated, h2.trans (.emit e2 _)⟩
  obtain ⟨hflt3, hgated3, hlinks3⟩ := h3
  split
  · have hlog := e.log_only Ev.recordDropped [x.ring, x.rtype]
    exact ⟨hlog.flt_eq, by rw [hlog.1], hlog.linksKept⟩
  · split
    · refine ⟨hflt3, hgated3, hlinks3.trans (.trans (b := e3.putEvt x.ring { e3.evt x.ring with unsignaled := 0, firstUnsig := none }) ?_ ?_)⟩
      · exact .of_view rfl rfl
      · exact .emit _ _
    · exact ⟨hflt3, hgated3, hlinks3⟩

theorem Engine.passRecord_linksKept (x : EventRecord) : LinksKept e (e.passRecord x) := by
  unfold Engine.passRecord
  split
  · exact .refl e
  · split
    · exact (e.putRecord_frame x).2.2
    · exact .of_view rfl rfl

theorem Engine.openGate_linksKept : LinksKept e e.openGate := by
  unfold Engine.openGate
  extract_lets open_ wait out hru e1
  exact .trans (b := e1) (.of_view rfl rfl) (.foldl (fun e g => e.passRecord_linksKept g.record) out e1)

end

/-- Nothing waits: the gate opens for nothing. -/
theorem Engine.openGate_empty {e : Engine} (h : e.hru.gated = []) : e.openGate = e := by
  unfold Engine.openGate
  simp only [h, List.takeWhile_nil, List.length_nil, List.drop_zero, List.foldl_nil]
  rw [← h]

/-- The record that waits for the event just acknowledged is written. -/
theorem Engine.openGate_one {e : Engine} {g : GatedRecord} {n : Nat} (h : e.hru.gated = [g]) (hn : g.sequence = n)
    (hacked : e.flt.gateAcked = (n + 1) % 65536) :
    e.openGate = ({ e with hru := { e.hru with gated := [] } } : Engine).passRecord g.record := by
  have hdone : (g.sequence + 1 + 65536 - e.flt.gateAcked) % 65536 = 0 := by
    rw [hn, hacked]
    omega
  unfold Engine.openGate
  simp [h, hdone]

theorem exec_eventMirrorAck {s : State} (h : s.receives Isl.md) (n : BitVec 16) : exec (.eventMirrorAck n) s = .next { s with eng :=
    if s.seen.manages then ({ s.seen with flt := { s.seen.flt with gateAcked := (n.toNat + 1) % 65536 } } : Engine).openGate else s.seen } :=
  State.cross_receives h _ _

section
variable {s : State} {n : BitVec 16} (h : s.receives Isl.md)
include h

theorem eventMirrorAck_ignored (hm : s.eng.manages = false) : exec (.eventMirrorAck n) s = .next { s with eng := s.seen } := by
  rw [exec_eventMirrorAck h, show s.seen.manages = false from hm]
  rfl

variable (hm : s.eng.manages = true)
include hm

theorem eventMirrorAck_opens : exec (.eventMirrorAck n) s = .next { s with eng :=
    ({ s.seen with flt := { s.eng.flt with gateAcked := (n.toNat + 1) % 65536 } } : Engine).openGate } := by
  rw [exec_eventMirrorAck h, show s.seen.manages = true from hm]
  rfl

theorem eventMirrorAck_writes {g : GatedRecord} (hgated : s.eng.hru.gated = [g]) (hseq : g.sequence = n.toNat) (hfatal : s.eng.err.fatal = false)
    (hcredit : s.eng.hru.credit = true) (hring : (s.eng.evt g.record.ring).enabled = true) :
    ∃ t, exec (.eventMirrorAck n) s = .next t ∧ t.eng.hru.gated = [] ∧ t.eng.flt.gateAcked = (n.toNat + 1) % 65536 ∧
      s.eng.wrote t.eng g.record := by
  let e : Engine := { s.seen with flt := { s.eng.flt with gateAcked := (n.toNat + 1) % 65536 }, hru := { s.eng.hru with gated := [] } }
  have hopen : ({ s.seen with flt := { s.eng.flt with gateAcked := (n.toNat + 1) % 65536 } } : Engine).openGate = e.putRecord g.record := by
    refine (Engine.openGate_one (e := { s.seen with flt := { s.eng.flt with gateAcked := (n.toNat + 1) % 65536 } }) hgated hseq rfl).trans ?_
    refine (if_neg (c := s.eng.err.fatal = true) ?_).trans (if_pos hcredit)
    rw [hfatal]
    decide
  obtain ⟨hflt, hgone, -⟩ := e.putRecord_frame g.record
  obtain ⟨-, -, hwrote⟩ := Engine.putRecord_spec (e := e) (x := g.record) hring
  refine ⟨{ s with eng := e.putRecord g.record }, ?_, hgone, congrArg Flt.gateAcked hflt, hwrote⟩
  rw [eventMirrorAck_opens h hm, hopen]

theorem eventMirrorAck_notes (hgated : s.eng.hru.gated = []) : exec (.eventMirrorAck n) s =
    .next { s with eng := { s.seen with flt := { s.eng.flt with gateAcked := (n.toNat + 1) % 65536 } } } := by
  rw [eventMirrorAck_opens h hm, Engine.openGate_empty]
  exact hgated

end

/-! ### Keepalives (R264) -/

/-- An event sent to the partner takes the next number and leaves by the link. -/
theorem Engine.mirrorEvent_on {e : Engine} (h : e.mirrors = true) (kind : Nat) (payload : List Byte) : e.mirrorEvent kind payload =
    { e.send 0x0B (e.partner.getD noRank) e.stepNo (eventBody kind e.flt.eventSeq payload) with
      flt := { e.flt with eventSeq := (e.flt.eventSeq + 1) % 65536 } } := by
  rw [Engine.mirrorEvent, if_pos h, Engine.send_eq_frames]
  rfl

theorem exec_eventKeepalive {s : State} (h : s.serves Isl.md) :
    exec .eventKeepalive s = .next { s with eng := s.seen.mirrorEvent Mirror.keepalive [] } := State.actIn_serves h _

theorem eventKeepalive_silent {s : State} (h : s.serves Isl.md) (hm : s.eng.mirrors = false) :
    exec .eventKeepalive s = .next { s with eng := s.seen } := by
  rw [exec_eventKeepalive h, Engine.mirrorEvent_off (e := s.seen) hm]

theorem eventKeepalive_sends {s : State} (h : s.serves Isl.md) (hm : s.eng.mirrors = true) : ∃ t, exec .eventKeepalive s = .next t ∧
    t.eng.flt = { s.eng.flt with eventSeq := (s.eng.flt.eventSeq + 1) % 65536 } ∧
    t.eng.out = (s.eng.send 0x0B (s.eng.partner.getD noRank) s.eng.stepNo (eventBody 0 s.eng.flt.eventSeq [])).out := by
  have hlinks : SameLinks s.eng s.seen := by constructor <;> rfl
  refine ⟨_, (exec_eventKeepalive h).trans (by rw [Engine.mirrorEvent_on (e := s.seen) hm]), rfl, ?_⟩
  exact hlinks.send_out rfl _ _ _ _

/-! ### EVENT (R264, R275) -/

/-- An event of Table 11.3 is applied to the replica of the rafter it names. -/
theorem Engine.applyJEvent_onReplica {e : Engine} {x : JEvent} {r : Rafter} (hlive : x.kind ≠ 0x0A)
    (hr : e.replica? (BitVec.ofNat 32 x.who) = some r) :
    Table.get? (e.applyJEvent x).mdv.replicas (slotOf (BitVec.ofNat 32 x.who)) = some (x.onReplica r) := by
  unfold Engine.applyJEvent
  extract_lets handle e1
  have hreplica : e1.replica? handle = some r := by
    dsimp only [e1]
    split <;> exact hr
  rw [hreplica]
  dsimp only
  rw [if_neg hlive]
  exact Table.get?_put_self _ _ _

section
variable {s : State} {f : Frame} {kind : BitVec 8} {n : BitVec 16} {bs : List Byte} (h : s.receives Isl.md)
  (hf : s.eng.takes f 0x0B (eventBody kind.toNat n.toNat bs))
include h hf

theorem exec_event : exec (.event f kind n bs) s = .next { s with eng := (s.seen.hear f).takeEvent f kind.toNat n.toNat bs } :=
  State.cross_takes h hf (.inl Nat.zero_ne_one) _ _

theorem event_passed (hdst : f.dst.toNat ≠ s.eng.mdv.rank) : ∃ t, exec (.event f kind n bs) s = .next t ∧
    t.eng.out = (s.eng.send 0x0B f.dst.toNat f.step.toNat (eventBody kind.toNat n.toNat bs)).out ∧
    t.eng.mdv.replicas = s.eng.mdv.replicas := by
  rw [← s.heard_rank f] at hdst
  obtain ⟨k, hk⟩ := s.heard_mdv f
  refine ⟨_, exec_event h hf, ?_, ?_⟩ <;> rw [Engine.takeEvent, if_pos hdst, Engine.passTo, if_neg hdst]
  · exact s.heard_send_out f _ _ _ _
  · rw [Engine.send_mdv, hk]

variable (hdst : f.dst.toNat = s.eng.mdv.rank)
include hdst

theorem event_refused (hno : s.eng.manages = true ∨ s.eng.mdv.fenced = true) : ∃ t, exec (.event f kind n bs) s = .next t ∧
    t.eng.mdv.replicas = s.eng.mdv.replicas ∧ t.eng.adm = s.eng.adm ∧ t.eng.flt = s.eng.flt := by
  obtain ⟨k, hk⟩ := s.heard_eq f
  have hsame : (s.seen.hear f).takeEvent f kind.toNat n.toNat bs = s.seen.hear f := by
    rw [Engine.takeEvent, if_neg (not_not.2 (hdst.trans (s.heard_rank f).symm)), if_pos]
    rw [Bool.or_eq_true, s.heard_manages, s.heard_fenced]
    exact hno
  refine ⟨_, exec_event h hf, ?_⟩
  rw [hsame, hk]
  exact ⟨rfl, rfl, rfl⟩

variable (hm : s.eng.manages = false) (hfenced : s.eng.mdv.fenced = false)
include hm hfenced

theorem exec_event_applied : exec (.event f kind n bs) s = .next { s with eng := (s.seen.hear f).applyEvent kind.toNat bs } := by
  rw [exec_event h hf, Engine.takeEvent, if_neg (not_not.2 (hdst.trans (s.heard_rank f).symm)), if_neg]
  rw [s.heard_manages, s.heard_fenced, hm, hfenced]
  decide

theorem event_tenant (hkind : kind.toNat = Mirror.tenant) : ∃ t, exec (.event f kind n bs) s = .next t ∧
    Table.get? t.eng.adm.tenants (numAt bs 0 2) = some (Tenant.ofImage (numAt bs 2 32)) := by
  refine ⟨_, exec_event_applied h hf hdst hm hfenced, ?_⟩
  rw [hkind]
  exact Table.get?_put_self _ _ _

theorem event_onReplica {x : JEvent} {r : Rafter} (hkeep : kind.toNat ≠ Mirror.keepalive) (hrafter : kind.toNat ≠ Mirror.rafter)
    (htenant : kind.toNat ≠ Mirror.tenant) (hdesc : kind.toNat ≠ Mirror.descriptor) (hx : x = jeventOf bs) (hlive : x.kind ≠ 0x0A)
    (hr : s.eng.replica? (BitVec.ofNat 32 x.who) = some r) : ∃ t, exec (.event f kind n bs) s = .next t ∧
    Table.get? t.eng.mdv.replicas (slotOf (BitVec.ofNat 32 x.who)) = some (x.onReplica r) := by
  obtain ⟨k, hk⟩ := s.heard_eq f
  have happlied : (s.seen.hear f).applyEvent kind.toNat bs = (s.seen.hear f).applyJEvent x := by
    rw [Engine.applyEvent, if_neg hkeep, if_neg hrafter, if_neg htenant, if_neg hdesc, hx]
  refine ⟨_, (exec_event_applied h hf hdst hm hfenced).trans (by rw [happlied]), ?_⟩
  refine Engine.applyJEvent_onReplica hlive ?_
  rw [hk]
  exact hr

end

/-! ### MIRROR_ACK (R263; log entry 52) -/

theorem State.heard_takeMirrorAck {s : State} {f : Frame} (hdst : f.dst.toNat = s.eng.mdv.rank) (n : BitVec 48) :
    (s.seen.hear f).takeMirrorAck f n.toNat = match s.eng.partner with
    | none => s.seen.hear f
    | some p => if f.src.toNat = (s.eng.hop p).1 then
        { s.seen.hear f with flt := { s.eng.flt with mirrorStep := max s.eng.flt.mirrorStep n.toNat } } else s.seen.hear f := by
  obtain ⟨k, hk⟩ := s.heard_eq f
  have hpartner : (s.seen.hear f).partner = s.eng.partner := by rw [hk]; rfl
  have hflt : (s.seen.hear f).flt = s.eng.flt := by rw [hk]
  rw [Engine.takeMirrorAck, if_neg (not_not.2 (hdst.trans (s.heard_rank f).symm)), hpartner, hflt]
  cases s.eng.partner with
  | none => rfl
  | some p =>
    dsimp only
    rw [(s.heard_links f).hop]

section
variable {s : State} {f : Frame} {n : BitVec 48} (h : s.receives Isl.md) (hf : s.eng.takes f 0x0C (mirrorAckBody n.toNat))
include h hf

theorem exec_mirrorAck : exec (.mirrorAck f n) s = .next { s with eng := (s.seen.hear f).takeMirrorAck f n.toNat } :=
  State.cross_takes h hf (.inl Nat.zero_ne_one) _ _

theorem mirrorAck_passed (hdst : f.dst.toNat ≠ s.eng.mdv.rank) : ∃ t, exec (.mirrorAck f n) s = .next t ∧ t.eng.flt = s.eng.flt ∧
    t.eng.out = (s.eng.send 0x0C f.dst.toNat f.step.toNat (mirrorAckBody n.toNat)).out := by
  rw [← s.heard_rank f] at hdst
  obtain ⟨k, hk⟩ := s.heard_eq f
  refine ⟨_, exec_mirrorAck h hf, ?_, ?_⟩ <;> rw [Engine.takeMirrorAck, if_pos hdst, Engine.passTo, if_neg hdst]
  · rw [Engine.send_eq_frames, Engine.driven_flt, hk]
  · exact s.heard_send_out f _ _ _ _

variable (hdst : f.dst.toNat = s.eng.mdv.rank)
include hdst

theorem mirrorAck_raises {p : Nat} (hp : s.eng.partner = some p) (hsrc : f.src.toNat = (s.eng.hop p).1) :
    ∃ t, exec (.mirrorAck f n) s = .next t ∧
      t.eng.flt = { s.eng.flt with mirrorStep := max s.eng.flt.mirrorStep n.toNat } ∧ t.eng.out = s.eng.out := by
  have htaken := State.heard_takeMirrorAck hdst n
  rw [hp] at htaken
  dsimp only at htaken
  rw [if_pos hsrc] at htaken
  exact ⟨_, (exec_mirrorAck h hf).trans (by rw [htaken]), rfl, s.heard_out f⟩

theorem mirrorAck_ignored (hno : ∀ p, s.eng.partner = some p → f.src.toNat ≠ (s.eng.hop p).1) :
    ∃ t, exec (.mirrorAck f n) s = .next t ∧ t.eng.flt = s.eng.flt ∧ t.eng.out = s.eng.out := by
  obtain ⟨k, hk⟩ := s.heard_eq f
  have htaken : (s.seen.hear f).takeMirrorAck f n.toNat = s.seen.hear f := by
    rw [State.heard_takeMirrorAck hdst n]
    split
    · rfl
    · next p hp => exact if_neg (hno p hp)
  refine ⟨_, (exec_mirrorAck h hf).trans (by rw [htaken]), ?_, s.heard_out f⟩
  rw [hk]

end

end Sys2Proof.Machine
end

section
/-!
# A JOURNAL received

The partner holds a sound record, lets its tokens into the replicas, and answers (R263, R275, R280).
-/

namespace Sys2Proof.Machine

/-- What is kept reads as it was. -/
theorem Table.get?_keep {α : Type} {t : Table α} {p : Nat → α → Bool} {k : Nat} {v : α} (h : Table.get? t k = some v) (hp : p k v = true) :
    Table.get? (Table.keep t p) k = some v := by
  induction t with
  | nil => cases h
  | cons x t ih =>
    obtain ⟨k', v'⟩ := x
    unfold Table.get? at h
    unfold Table.keep at ih ⊢
    by_cases hk : k' = k
    · rw [if_pos hk] at h
      obtain rfl := hk
      obtain rfl := Option.some.inj h
      simp [hp, Table.get?]
    · rw [if_neg hk] at h
      by_cases hp' : p k' v' = true
      · rw [List.filter_cons_of_pos (p := fun x : Nat × α => p x.1 x.2) hp']
        unfold Table.get?
        rw [if_neg hk]
        exact ih h
      · rw [List.filter_cons_of_neg (p := fun x : Nat × α => p x.1 x.2) hp']
        exact ih h

/-! ### Tokens brought into the replicas -/

section
variable (e : Engine)

theorem Engine.noteIf_linksKept (own : Bool) (u : UndoEntry) : LinksKept e (e.noteIf own u) := by
  unfold Engine.noteIf
  split
  · exact .of_view rfl rfl
  · exact .refl e

theorem Engine.emptyGuesses_linksKept (own : Bool) (slot : Nat) : LinksKept e (e.emptyGuesses own slot) :=
  (e.noteIf_linksKept own _).trans (.of_view rfl rfl)

theorem Engine.takeMember_linksKept (y : Yealm) (i : Nat) (m : Member) (entries : List Nat) : LinksKept e (e.takeMember y i m entries) := by
  unfold Engine.takeMember
  extract_lets taken accepted draws e1 ends counted updates
  have h1 : LinksKept e e1 := .foldl (f := fun (e : Engine) (x : Nat × Nat) => e.putToken y.step x.1 x.2) (fun e x => .of_view rfl rfl) _ _
  split
  · exact h1
  · split
    · exact h1
    · extract_lets start later kv e2 smp e3
      have h2 : LinksKept e e2 := h1.trans (.trans (.of_view rfl rfl) (Engine.modAny_linksKept _ _ _))
      have h3 : LinksKept e e3 := h2.trans (.of_view rfl rfl)
      split
      · exact h3.trans (.trans (.of_view rfl rfl) (Engine.journalMembers_linksKept _))
      · exact h3

theorem Engine.takeMembers_linksKept (y : Yealm) (entries : List Nat) (first : Nat) : ∀ (l : List (Member × Nat)) (e : Engine),
    LinksKept e (Engine.takeMembers y entries first l e)
  | [], e => .refl e
  | (m, i) :: l, e => by
    rw [Engine.takeMembers]
    refine .trans ?_ (Engine.takeMembers_linksKept y entries first l _)
    split
    · exact .refl e
    · exact e.takeMember_linksKept y i m _

theorem Engine.takeGuesses_linksKept (y : Yealm) : ∀ (l : List (Member × Nat)) (gs : List (BitVec 128)) (e : Engine),
    LinksKept e (Engine.takeGuesses y l gs e)
  | [], _, e => .refl e
  | _ :: _, [], e => .refl e
  | _ :: l, _ :: gs, _ => .trans (.of_view rfl rfl) (Engine.takeGuesses_linksKept y l gs _)

theorem Engine.replicaGuesses_linksKept (c : Course) (entries : List Nat) (ms : List (Member × Nat)) :
    LinksKept e (e.replicaGuesses c entries ms) := by
  unfold Engine.replicaGuesses
  split
  · exact .refl e
  · refine .foldl (fun e x => ?_) ms e
    dsimp only
    split
    · exact e.emptyGuesses_linksKept _ _
    · exact .refl e

theorem Engine.passCourses_linksKept (next : Nat) : LinksKept e (e.passCourses next) := by
  unfold Engine.passCourses Engine.releaseGutter
  split
  · exact .trans (.of_view rfl rfl) (.emit _ _)
  · exact .of_view rfl rfl

theorem Engine.shadowEmit_linksKept : LinksKept e e.shadowEmit := by
  unfold Engine.shadowEmit
  split
  · exact e.passCourses_linksKept _
  · exact .refl e

theorem Engine.countLost_linksKept (slot : Nat) : LinksKept e (e.countLost slot) := by
  refine .trans ?_ (Engine.log_linksKept _ _ _)
  exact .trans (.of_view rfl rfl) (.bumpBy _ (by decide) (by decide) 1)

theorem Engine.linkCell_linksKept (own : Bool) (slot c : Nat) : LinksKept e (e.linkCell own slot c) := by
  unfold Engine.linkCell
  split
  · exact (e.noteIf_linksKept own _).trans (.of_view rfl rfl)
  · split
    · exact .refl e
    · exact (e.noteIf_linksKept own _).trans (Engine.modAny_linksKept _ _ _)

theorem Engine.putHome_noted (own : Bool) (slot : Nat) (u : UndoEntry) (x : CountSet) : LinksKept e ((e.noteIf own u).putHome slot x) :=
  (e.noteIf_linksKept own u).trans (.of_view rfl rfl)

theorem Engine.putCell_noted (own : Bool) (c : Nat) (u : UndoEntry) (x : CountSet) : LinksKept e ((e.noteIf own u).putCell c x) :=
  (e.noteIf_linksKept own u).trans (.of_view rfl rfl)

theorem Engine.addCount_linksKept (own : Bool) (slot vocab token : Nat) : LinksKept e (e.addCount own slot vocab token) := by
  unfold Engine.addCount
  extract_lets l home chain
  split
  · exact e.putHome_noted ..
  · split
    · exact e.putCell_noted ..
    · split
      · exact e.putHome_noted ..
      · split
        · exact e.putCell_noted ..
        · split
          · exact e.countLost_linksKept slot
          · extract_lets e1 e2
            have h1 : LinksKept e e1 := .of_view rfl rfl
            have h2 : LinksKept e1 e2 := (e1.noteIf_linksKept own _).trans (Engine.linkCell_linksKept _ _ _ _)
            exact (h1.trans h2).trans (e2.putCell_noted ..)

theorem Engine.applyUpdate_linksKept (step : Nat) (u : CountUpdate) : LinksKept e (e.applyUpdate step u) := by
  unfold Engine.applyUpdate
  split
  · exact .refl e
  · split
    · exact .of_view rfl rfl
    · exact e.addCount_linksKept _ _ _ _

theorem Engine.applyUpdates_linksKept (step : Nat) : LinksKept e (e.applyUpdates step) :=
  .trans (b := { e with smp := { e.smp with updates := [], emittedAt := e.now } }) (.of_view rfl rfl)
    (.foldl (fun e u => e.applyUpdate_linksKept step u) _ _)

theorem Engine.applyTokens_linksKept (y : Yealm) (k : Nat) (c : Course) (entries : List Nat) (guesses : List (BitVec 128)) :
    LinksKept e (e.applyTokens y k c entries guesses) := by
  unfold Engine.applyTokens
  extract_lets ms e1 e2 next mdv e3 e4
  have h1 : LinksKept e e1 := Engine.takeMembers_linksKept ..
  have h2 : LinksKept e1 e2 := (Engine.takeGuesses_linksKept ..).trans (Engine.replicaGuesses_linksKept ..)
  have h3 : LinksKept e2 e3 := .of_view rfl rfl
  have h4 : LinksKept e3 e4 := by
    dsimp only [e4]
    split
    · exact e3.shadowEmit_linksKept
    · exact e3.passCourses_linksKept next
  have h := ((h1.trans h2).trans h3).trans h4
  split
  · exact h.trans (e4.applyUpdates_linksKept _)
  · exact h

theorem Engine.journalTokens_linksKept (step : Nat) (bs : List Byte) : LinksKept e (e.journalTokens step bs) := by
  unfold Engine.journalTokens
  split
  · exact .refl e
  · next y _ =>
    extract_lets past seen due mdv e1
    split
    · exact .refl e
    · have h1 : LinksKept e e1 := .trans (b := { e with mdv := { e.mdv with tokensSeen := seen } }) (.of_view rfl rfl)
        (.foldl (fun e x => e.applyTokens_linksKept ..) _ _)
      split
      · exact h1.trans (.of_view rfl rfl)
      · exact h1

/-! ### A record held -/

theorem Engine.membersFrom_of_var {e e' : Engine} (h : e'.var = e.var) (bs : List Byte) (courses : List Course) (segments : List Segment) :
    ∀ n i off firstDraw : Nat, e'.membersFrom bs courses segments n i off firstDraw = e.membersFrom bs courses segments n i off firstDraw
  | 0, _, _, _ => rfl
  | n + 1, i, off, firstDraw => by
    have hadd : e'.segmentAddition = e.segmentAddition := by
      funext g
      unfold Engine.segmentAddition
      rw [h]
    unfold Engine.membersFrom
    rw [hadd]
    dsimp only
    rw [Engine.membersFrom_of_var h]

/-- A manifest reads alike wherever the slot map is the same. -/
theorem Engine.parseManifest_of_var {e e' : Engine} (h : e'.var = e.var) (bs : List Byte) : e'.parseManifest bs = e.parseManifest bs := by
  unfold Engine.parseManifest Engine.yealmOf
  dsimp only
  rw [Engine.membersFrom_of_var h]

/-- The mirrored records with a record of a step held, those of its origin before the depth of the journal forgotten. -/
def Engine.withRecord (e : Engine) (step origin : Nat) (bs m : List Byte) : Table (List Byte × List Byte) :=
  Table.keep (Table.put e.flt.mirrored (mirrorKey origin step) (bs, m)) fun k _ =>
    k / 2 ^ 48 != origin || decide (step < k % 2 ^ 48 + e.get Fld.fltJrnlDepthN)

/-- A record held changes nothing that the group sees but the records mirrored. -/
theorem Engine.holdRecord_view (step origin : Nat) (bs m : List Byte) :
    (e.holdRecord step origin bs m).linkView = { e.linkView with mirrored := e.withRecord step origin bs m } := by
  unfold Engine.holdRecord
  extract_lets depth kept flt e1 flt1 e2
  have h2 : e2.linkView = { e.linkView with mirrored := kept } := by
    dsimp only [e2]
    split <;> rfl
  split
  · exact h2
  · exact h2

theorem Engine.holdRecord_links (step origin : Nat) (bs m : List Byte) : SameLinks e (e.holdRecord step origin bs m) := by
  have h := e.holdRecord_view step origin bs m
  constructor
  · exact congrArg LinkView.map h
  · exact congrArg (fun v => v.group.rank) h
  · exact congrArg LinkView.fencedRanks h
  · exact congrArg LinkView.guests h
  · exact congrArg LinkView.groupId h
  · exact congrArg (fun v => v.group.epoch) h
  · exact congrArg LinkView.oldEpoch h
  · exact congrArg LinkView.epochStep h
  · exact congrArg LinkView.joined h
  · exact congrArg LinkView.fenced h
  · exact congrArg LinkView.phase h

/-- The record of a step, read back from those mirrored. -/
theorem Engine.withRecord_holds {step origin : Nat} (hstep : step < 2 ^ 48) (hdepth : 0 < e.get Fld.fltJrnlDepthN) (bs m : List Byte) :
    Table.get? (e.withRecord step origin bs m) (mirrorKey origin step) = some (bs, m) := by
  refine Table.get?_keep (Table.get?_put_self _ _ _) ?_
  have hmod : mirrorKey origin step % 2 ^ 48 = step := by
    unfold mirrorKey
    omega
  rw [hmod, Bool.or_eq_true, decide_eq_true_eq]
  exact .inr (Nat.lt_add_of_pos_right hdepth)

end

/-! ### JOURNAL -/

/-- An engine that has taken a record of a step: held, and its tokens, if it is the manager's, brought into the replicas. -/
def Engine.recordTaken (e : Engine) (step origin : Nat) (bs m : List Byte) : Engine :=
  let e := e.holdRecord step origin bs m
  if origin = 0 then e.journalTokens step bs else e

theorem Engine.recordTaken_linksKept (e : Engine) (step origin : Nat) (bs m : List Byte) :
    LinksKept (e.holdRecord step origin bs m) (e.recordTaken step origin bs m) := by
  unfold Engine.recordTaken
  extract_lets e1
  split
  · exact e1.journalTokens_linksKept step bs
  · exact .refl e1

theorem Engine.recordTaken_links (e : Engine) (step origin : Nat) (bs m : List Byte) : SameLinks e (e.recordTaken step origin bs m) :=
  (e.holdRecord_links step origin bs m).trans (e.recordTaken_linksKept step origin bs m).links

section
variable {s : State} {f : Frame} {n : BitVec 48} {origin : BitVec 9} {bs m : List Byte} (h : s.receives Isl.md)
  (hf : s.eng.takes f 0x13 (journalBody n.toNat origin.toNat bs m)) (hfenced : s.eng.mdv.fenced = false)
include h hf hfenced

theorem exec_journal : exec (.journal f n origin bs m) s =
    .next { s with eng := (s.seen.hear f).takeJournal f n.toNat origin.toNat bs m } :=
  State.cross_takes h hf (.inr hfenced) _ _

theorem journal_passed (hdst : f.dst.toNat ≠ s.eng.mdv.rank) : ∃ t, exec (.journal f n origin bs m) s = .next t ∧ t.eng.flt = s.eng.flt ∧
    t.eng.out = (s.eng.send 0x13 f.dst.toNat f.step.toNat (journalBody n.toNat origin.toNat bs m)).out := by
  rw [← s.heard_rank f] at hdst
  obtain ⟨k, hk⟩ := s.heard_eq f
  refine ⟨_, exec_journal h hf hfenced, ?_, ?_⟩ <;> rw [Engine.takeJournal, if_pos hdst, Engine.passTo, if_neg hdst]
  · rw [Engine.send_eq_frames, Engine.driven_flt, hk]
  · exact s.heard_send_out f _ _ _ _

variable (hdst : f.dst.toNat = s.eng.mdv.rank)
include hdst

theorem journal_discarded (hbad : recordSound n.toNat bs = false ∨ (m ≠ [] ∧ s.eng.parseManifest m = none)) :
    ∃ t, exec (.journal f n origin bs m) s = .next t ∧ t.eng.flt = s.eng.flt ∧ t.eng.out = s.eng.out ∧
      t.eng.count Cnt.mdvMsgDiscard = s.eng.count Cnt.mdvMsgDiscard + 1#32 := by
  obtain ⟨k, hk⟩ := s.heard_eq f
  have hparse : (s.seen.hear f).parseManifest m = s.eng.parseManifest m := Engine.parseManifest_of_var (by rw [hk]) m
  have htaken : (s.seen.hear f).takeJournal f n.toNat origin.toNat bs m = (s.seen.hear f).discard 3 := by
    rw [Engine.takeJournal, if_neg (not_not.2 (hdst.trans (s.heard_rank f).symm)), if_pos]
    rcases hbad with hbad | ⟨hm, hnone⟩
    · rw [hbad]
      rfl
    · rw [hparse, hnone]
      simp [hm]
  obtain ⟨hcount, -, -, -, hflt, -, hout⟩ := (s.seen.hear f).discard_discards 3
  refine ⟨_, (exec_journal h hf hfenced).trans (by rw [htaken]), hflt.trans ?_, hout.trans (s.heard_out f), hcount.trans ?_⟩ <;> rw [hk]
  rfl

theorem journal_held (hsound : recordSound n.toNat bs = true) (hm : m = [] ∨ s.eng.parseManifest m ≠ none)
    (hdepth : 0 < s.eng.get Fld.fltJrnlDepthN) (hshadow : s.eng.shadows = false) :
    ∃ t, exec (.journal f n origin bs m) s = .next t ∧
      Table.get? t.eng.flt.mirrored (mirrorKey origin.toNat n.toNat) = some (bs, m) ∧
      s.eng.sends t.eng 0x0C origin.toNat s.eng.stepNo (mirrorAckBody (t.eng.newestMirrored origin.toNat)) := by
  obtain ⟨k, hk⟩ := s.heard_eq f
  have hparse : (s.seen.hear f).parseManifest m = s.eng.parseManifest m := Engine.parseManifest_of_var (by rw [hk]) m
  let e := (s.seen.hear f).recordTaken n.toNat origin.toNat bs m
  have hkept := (s.seen.hear f).recordTaken_linksKept n.toNat origin.toNat bs m
  have hview := hkept.1.trans ((s.seen.hear f).holdRecord_view n.toNat origin.toNat bs m)
  have hmirrored : e.flt.mirrored = (s.seen.hear f).withRecord n.toNat origin.toNat bs m := congrArg LinkView.mirrored hview
  have hstep : e.stepNo = s.eng.stepNo := (congrArg LinkView.stepNo hview).trans (by rw [hk]; rfl)
  have hlinks : SameLinks s.eng e := (s.heard_links f).trans ((s.seen.hear f).recordTaken_links n.toNat origin.toNat bs m)
  have hquiet : e.shadows = false := by
    rw [← hshadow]
    unfold Engine.shadows
    rw [hlinks.phase]
  have htaken : (s.seen.hear f).takeJournal f n.toNat origin.toNat bs m =
      e.send 0x0C origin.toNat s.eng.stepNo (mirrorAckBody (e.newestMirrored origin.toNat)) := by
    rw [Engine.takeJournal, if_neg (not_not.2 (hdst.trans (s.heard_rank f).symm)), if_neg]
    · rw [← hstep]
      exact if_neg (show ¬e.shadows = true by rw [hquiet]; decide)
    · rw [hsound, hparse]
      rcases hm with rfl | hm
      · simp
      · simp [hm]
  refine ⟨_, (exec_journal h hf hfenced).trans (by rw [htaken, Engine.send_eq_frames]), ?_, ?_⟩
  · show Table.get? e.flt.mirrored _ = _
    rw [hmirrored]
    refine Engine.withRecord_holds _ n.isLt ?_ bs m
    rw [hk]
    exact hdepth
  · intro o ho
    rw [← hlinks.frames] at ho
    exact List.mem_append_left _ ho

end

end Sys2Proof.Machine
end

section
/-!
# What the composer leaves of the group

An engine that composes, seals, begins a step or makes the replicas its own keeps its place in the group (R22 to R25, R239, R276, R277).
-/

namespace Sys2Proof.Machine

/-! ### The page list of a draft's member (R141) -/

section
variable {e e' : Engine}

theorem Engine.bindFor_groupKept {slot cls t k : Nat} (h : e.bindFor slot cls = some (t, k, e')) : GroupKept e e' := by
  obtain ⟨⟨t1, k1, e1⟩, hbind, hx⟩ := Option.map_eq_some_iff.1 h
  have h1 := (Engine.bindFrame_pageWork hbind).stores.groupKept
  dsimp only at hx
  split at hx <;> cases hx
  · exact h1
  · exact h1.trans rfl

theorem Engine.appendEntry_groupKept {slot p : Nat} {x : Page} (h : e.appendEntry slot x = some (p, e')) : GroupKept e e' := by
  unfold Engine.appendEntry at h
  split at h
  · next r q f hr htake =>
    extract_lets used pgm e1 e2 at h
    have h2 : PageWork e e2 := by
      have h1 : PageWork e e1 := .of_eq rfl rfl
      dsimp only [e2]
      split
      · exact h1
      · exact h1.trans (e1.modPage_pageWork _ _)
    split at h
    next v e3 h3 =>
    extract_lets e4 at h
    obtain ⟨-, rfl⟩ := Prod.mk.inj (Option.some.inj h)
    have h3' : PageWork e2 e3 := by
      have := e2.undefLink_pageWork
      rwa [h3] at this
    have h4 : PageWork e3 e4 := by
      refine .trans ?_ (Engine.putPage_pageWork _ _ _)
      split
      · exact .refl e3
      · exact e3.ops_pageWork _
    exact ((h2.trans h3').trans h4).stores.groupKept.trans rfl
  · cases h

theorem Engine.appendOpens_groupKept {slot family : Nat} : ∀ {n : Nat} {e e' : Engine},
    Engine.appendOpens n slot family e = some e' → GroupKept e e'
  | 0, e, _, h => Option.some.inj h ▸ .refl e
  | n + 1, e, e', h => by
    obtain ⟨e1, hone, hrest⟩ := Option.bind_eq_some_iff.1 h
    refine .trans ?_ (Engine.appendOpens_groupKept hrest)
    unfold Engine.appendOpen at hone
    split at hone
    · cases hone
    · next t k e2 hbind =>
      obtain ⟨⟨p, e3⟩, happend, rfl⟩ := Option.map_eq_some_iff.1 hone
      exact (Engine.bindFor_groupKept hbind).trans (Engine.appendEntry_groupKept happend)

end

/-! ### The draft (R22, R110 to R116) -/

section
variable (e : Engine)

theorem Engine.bump_groupKept {c : Nat} (ha : Cnt.fltAbort ≠ c) (ht : Cnt.fltTakeover ≠ c) : GroupKept e (e.bump c) := .bumpBy e ha ht 1

theorem Engine.balance_groupKept (c : Nat) : GroupKept e (e.balance c) := by
  unfold Engine.balance
  extract_lets pending r s e1
  have h1 : GroupKept e e1 := .foldl (fun e p => (e.want_stores _).groupKept) _ e
  exact h1.trans (.foldl (fun e p => (e.want_stores _).groupKept) _ e1)

theorem Engine.confirmPages_groupKept (slot last : Nat) : GroupKept e (e.confirmPages slot last).2 := by
  unfold Engine.confirmPages
  split
  · exact .refl e
  · split
    · exact .refl e
    · next e1 h1 =>
      exact ((Engine.appendOpens_groupKept h1).trans (e1.raiseList_stores _ _).groupKept).trans (Engine.balance_groupKept _ _)

theorem Engine.tryMember_groupKept (ms : List Member) (slot : Nat) (r : Rafter) : GroupKept e (e.tryMember ms slot r).2 := by
  unfold Engine.tryMember
  have hpages := e.confirmPages_groupKept slot ((e.placeMember ms slot r).pageEnd r - 1)
  dsimp only
  split
  · exact e.bump_groupKept (by decide) (by decide)
  · split
    · exact hpages.trans (Engine.bump_groupKept _ (by decide) (by decide))
    · split
      · exact (hpages.trans (Engine.wantReload_stores _ _ _ _).groupKept).trans (Engine.bump_groupKept _ (by decide) (by decide))
      · split
        · exact hpages.trans (Engine.bump_groupKept _ (by decide) (by decide))
        · split
          · exact hpages.trans (Engine.bump_groupKept _ (by decide) (by decide))
          · exact hpages

theorem Engine.takeClass_groupKept (cls : Nat) (ms : List Member) : GroupKept e (e.takeClass cls ms).2 := by
  unfold Engine.takeClass
  refine List.foldlRecOn _ _ (motive := fun acc : List Member × Engine => GroupKept e acc.2) (.refl e) fun acc hacc s _ => ?_
  split
  · exact hacc
  · next r _ =>
    have htried := hacc.trans (acc.2.tryMember_groupKept acc.1 s r)
    split
    · exact hacc
    · split
      · next htry =>
        rw [htry] at htried
        exact htried
      · next htry =>
        rw [htry] at htried
        exact htried

theorem Engine.fillBulk_groupKept : ∀ (l : List Nat) (ms : List Member) (last : Option Nat) (e : Engine),
    GroupKept e (Engine.fillBulk l ms last e).2.2.2
  | [], _, _, e => .refl e
  | s :: l, ms, last, e => by
    unfold Engine.fillBulk
    split
    · exact Engine.fillBulk_groupKept l ms last e
    · next r _ =>
      have htried := e.tryMember_groupKept ms s r
      split
      · exact Engine.fillBulk_groupKept l ms last e
      · split
        · next htry =>
          rw [htry] at htried
          exact htried.trans (Engine.fillBulk_groupKept l ms (some s) _)
        · next m e1 htry =>
          rw [htry] at htried
          split
          · exact htried
          · exact htried.trans (Engine.fillBulk_groupKept l (ms ++ [m]) (some s) e1)

theorem Engine.takeBulk_groupKept (ms : List Member) : GroupKept e (e.takeBulk ms).2.2 := by
  unfold Engine.takeBulk
  split
  · exact .refl e
  · have hfilled := Engine.fillBulk_groupKept e.bulkOrder ms none e
    generalize Engine.fillBulk e.bulkOrder ms none e = x at hfilled
    obtain ⟨ms1, stop, last, e1⟩ := x
    exact hfilled.trans rfl

theorem Engine.shedBulk_groupKept : ∀ (n : Nat) (ms : List Member) (e : Engine), GroupKept e (Engine.shedBulk n ms e).2
  | 0, _, e => .refl e
  | n + 1, ms, e => by
    unfold Engine.shedBulk
    split
    · exact .refl e
    · exact (e.bump_groupKept (by decide) (by decide)).trans (Engine.shedBulk_groupKept n _ _)

theorem Engine.shedSpeculation_groupKept (ms : List Member) : GroupKept e (e.shedSpeculation ms).2 := by
  unfold Engine.shedSpeculation
  extract_lets stage
  have hstaged : GroupKept e ([2, 1, 0].foldl stage (ms, e)).2 := by
    refine List.foldlRecOn _ stage (motive := fun acc : List Member × Engine => GroupKept e acc.2) (.refl e) fun acc hacc cls _ => ?_
    dsimp only [stage]
    split
    · exact hacc
    · exact hacc.trans (acc.2.bump_groupKept (by decide) (by decide))
  generalize [2, 1, 0].foldl stage (ms, e) = x at hstaged
  exact hstaged.trans (Engine.shedBulk_groupKept _ _ _)

theorem Engine.composeAll_groupKept : GroupKept e e.composeAll.2 := by
  unfold Engine.composeAll
  extract_lets ylm e0
  have h1 : GroupKept e (e0.takeClass 0 []).2 := .trans (b := e0) rfl (e0.takeClass_groupKept 0 [])
  generalize e0.takeClass 0 [] = x1 at h1
  obtain ⟨ms1, e1⟩ := x1
  have h2 := h1.trans (e1.takeClass_groupKept 1 ms1)
  dsimp only at h2 ⊢
  generalize e1.takeClass 1 ms1 = x2 at h2
  obtain ⟨ms2, e2⟩ := x2
  have h3 := h2.trans (e2.takeBulk_groupKept ms2)
  dsimp only at h3 ⊢
  generalize e2.takeBulk ms2 = x3 at h3
  obtain ⟨ms3, stop, e3⟩ := x3
  have h4 := h3.trans (e3.shedSpeculation_groupKept ms3)
  dsimp only at h4 ⊢
  generalize e3.shedSpeculation ms3 = x4 at h4
  obtain ⟨ms4, e4⟩ := x4
  exact h4.trans rfl

theorem Engine.beginDraft_groupKept : GroupKept e e.beginDraft := by
  unfold Engine.beginDraft
  split
  · exact .trans (b := e.freezeFits) rfl (Engine.composeAll_groupKept _)
  · exact .refl e

theorem Engine.finishDraft_groupKept : GroupKept e e.finishDraft := by
  unfold Engine.finishDraft
  extract_lets before order
  have h0 := e.composeAll_groupKept
  split
  next stop e1 he1 =>
  rw [he1] at h0
  extract_lets beyond gone e2
  have h2 : GroupKept e e2 := by
    dsimp only [e2]
    split
    · exact h0
    · exact h0.trans (.bumpBy e1 (by decide) (by decide) _)
  clear_value e2 gone
  cases gone
  · exact h2
  · exact h2.trans rfl

/-! ### Sealing (R23 to R25) -/

theorem Engine.endGrant_groupKept (ch1 : Bool) (tag : Nat) : GroupKept e (e.endGrant ch1 tag) := by
  unfold Engine.endGrant Engine.putChannel
  dsimp only
  split
  · split <;> rfl
  · exact .refl e

theorem Engine.sealMember_groupKept (step : Nat) (m : Member) : GroupKept e (e.sealMember step m).2 := by
  unfold Engine.sealMember
  split
  · exact .refl e
  · extract_lets pins e1 ring e2 state e3
    have h1 : GroupKept e e1 := .foldl (fun e p => (e.modPage_pageWork p _).stores.groupKept) pins e
    have h3 : GroupKept e1 e3 := rfl
    exact (h1.trans h3).trans (Engine.opsInput_pageWork _ _ _ _ _ _).stores.groupKept

theorem Engine.sealMembers_groupKept (step : Nat) : ∀ (ms : List Member) (e : Engine), GroupKept e (Engine.sealMembers step ms e).2
  | [], e => .refl e
  | m :: ms, e => (e.sealMember_groupKept step m).trans (Engine.sealMembers_groupKept step ms _)

theorem Engine.findT0Run_stores {fuel n g : Nat} {e e' : Engine} (h : Engine.findT0Run fuel n e = some (g, e')) : Stores e e' := by
  induction fuel generalizing e with
  | zero =>
    unfold Engine.findT0Run at h
    split at h <;> cases h
    exact .refl _
  | succ fuel ih =>
    unfold Engine.findT0Run at h
    split at h
    · cases h
      exact .refl _
    · dsimp only at h
      split at h
      · cases h
      · next e1 he1 => exact (Engine.evictOne_stores he1).trans (ih h)

theorem Engine.promoteSlot_groupKept (i : Nat) : GroupKept e (e.promoteSlot i) := by
  unfold Engine.promoteSlot
  split
  · exact .refl e
  · next x _ =>
    extract_lets hot
    split
    · exact .refl e
    · split
      · exact .refl e
      · next g e1 hfound =>
        extract_lets e2 y
        have h2 : GroupKept e e2 := (Engine.findT0Run_stores hfound).groupKept.trans (e1.modRecord_stores _ _ _).groupKept
        refine .trans ?_ (Engine.bump_groupKept _ (by decide) (by decide))
        exact (h2.trans rfl).trans (Engine.opsSlot_stores _ _ _).groupKept

theorem Engine.useSlot_groupKept (step i : Nat) : GroupKept e (e.useSlot step i) := by
  unfold Engine.useSlot
  split
  · exact .refl e
  · refine .trans ?_ (Engine.promoteSlot_groupKept _ _)
    exact (e.modRecord_stores _ _ _).groupKept.trans rfl

theorem Engine.sendPacket_groupKept (y : Yealm) : GroupKept e (e.sendPacket y) := by
  unfold Engine.sendPacket
  split
  · exact .refl e
  · dsimp only
    refine .trans ?_ (Engine.bump_groupKept _ (by decide) (by decide))
    exact ((e.send_linksKept _ _ _ _).kept.trans (Engine.send_linksKept _ _ _ _ _).kept).trans rfl

theorem Engine.countRecovery_groupKept : GroupKept e e.countRecovery := by
  unfold Engine.countRecovery
  split <;> rfl

theorem Engine.sealYealm_groupKept (credits : Nat) (tag : Option Nat) : GroupKept e (e.sealYealm credits tag) := by
  unfold Engine.sealYealm
  split
  · exact .refl e
  · next d _ =>
    extract_lets members standing kept e1 bulkGone cursor ylm e2 e3 y
    have h1 : GroupKept e e1 := .bumpBy e (by decide) (by decide) _
    have h2 : GroupKept e1 e2 := rfl
    have h3 : GroupKept e2 e3 := by
      dsimp only [e3]
      split
      · split
        · exact e2.endGrant_groupKept false _
        · exact .refl e2
      · exact .refl e2
    have hsealed := e3.sealMembers_groupKept y.step y.members
    split
    next ms e4 he4 =>
    rw [he4] at hsealed
    extract_lets slots e5 y1 y2 depth archive ylm1 e6
    have h5 : GroupKept e4 e5 := .foldl (fun e i => e.useSlot_groupKept _ i) slots e4
    have h6 : GroupKept e5 e6 := rfl
    have h := ((((h1.trans h2).trans h3).trans hsealed).trans h5).trans h6
    refine .trans ?_ (Engine.beginDraft_groupKept _)
    refine .trans ?_ (Engine.emitManifest_linksKept _ _).kept
    refine .trans ?_ (Engine.sendPacket_groupKept _ _)
    exact (h.trans e6.countRecovery_groupKept).trans (Engine.bump_groupKept _ (by decide) (by decide))

theorem Engine.askOrSeal_groupKept : GroupKept e e.askOrSeal := by
  unfold Engine.askOrSeal
  split
  · exact .refl e
  · next y _ =>
    split
    · exact e.sealYealm_groupKept 0 none
    · exact (e.askLeave_stores false 1 (e.priceOf y.members) (.step y.step)).groupKept.trans rfl

theorem Engine.sealArchived_groupKept (y : Yealm) : GroupKept e (e.sealArchived y) := by
  refine .trans ?_ (Engine.emitManifest_linksKept _ y).kept
  exact rfl

theorem Engine.sealPoint_groupKept : GroupKept e e.sealPoint := by
  unfold Engine.sealPoint
  split
  · exact .refl e
  · split
    · exact e.sealArchived_groupKept _
    · extract_lets e1 e2
      have h1 : GroupKept e e1 := by
        dsimp only [e1]
        split <;> rfl
      have h2 : GroupKept e e2 := h1.trans e1.finishDraft_groupKept
      clear_value e2
      refine h2.trans (.trans ?_ (Engine.askOrSeal_groupKept _))
      exact rfl

/-! ### A manifest taken, and a step begun (R239, R245) -/

theorem Engine.countReplica_linksKept (slot : Nat) (tokens : List Nat) : LinksKept e (e.countReplica slot tokens) := by
  unfold Engine.countReplica
  split
  · exact .refl e
  · split
    · exact .of_view rfl rfl
    · exact .foldl (fun e t => e.addCount_linksKept false slot _ t) tokens e

theorem Engine.tellFamilies_linksKept (y : Yealm) : LinksKept e (e.tellFamilies y) := by
  refine .foldl (fun e m => ?_) y.members e
  split
  · exact .refl e
  · split
    · exact .of_view rfl rfl
    · exact .trans (.of_view rfl rfl) (Engine.countReplica_linksKept _ _ _)

theorem Engine.askLeave_linksKept (ch1 : Bool) (cls cred : Nat) (why : LeaveFor) : LinksKept e (e.askLeave ch1 cls cred why).2 := by
  unfold Engine.askLeave Engine.putChannel
  dsimp only
  split <;> exact .of_view rfl rfl

theorem Engine.acceptManifest_linksKept (y : Yealm) : LinksKept e (e.acceptManifest y) := by
  unfold Engine.acceptManifest
  refine .trans ?_ (Engine.askLeave_linksKept _ _ _ _ _)
  exact (e.tellFamilies_linksKept y).trans (.of_view rfl rfl)

theorem Engine.takeKept_groupKept : GroupKept e e.takeKept := by
  unfold Engine.takeKept
  split
  · split
    · exact (e.acceptManifest_linksKept _).kept
    · exact .refl e
  · exact .refl e

theorem Engine.endStall_groupKept (step : Nat) : GroupKept e (e.endStall step) := by
  unfold Engine.endStall
  split
  · exact .refl e
  · exact (e.log_linksKept _ _).kept

theorem Engine.beginRecord_groupKept (y : Yealm) : GroupKept e (e.beginRecord y) := by
  unfold Engine.beginRecord
  split
  · split <;> rfl
  · rfl

theorem Engine.beginStep_groupKept (y : Yealm) : GroupKept e (e.beginStep y) := by
  unfold Engine.beginStep
  extract_lets smp e1 y1 e2 e3
  have h1 : GroupKept e e1 := rfl
  have h2 : GroupKept e1 e2 := by
    refine .trans ?_ (Engine.journalMembers_linksKept _).kept
    refine .trans ?_ (Engine.beginRecord_groupKept _ _)
    exact (e1.endStall_groupKept _).trans rfl
  have h3 : GroupKept e2 e3 := by
    refine .trans ?_ (Engine.takeKept_groupKept _)
    exact (GroupKept.bumpBy e2 (by decide) (by decide) _).trans (Engine.decodeInputs_linksKept _ _).kept
  have h := (h1.trans h2).trans h3
  split
  · exact h.trans e3.sealPoint_groupKept
  · exact h

/-! ### The replicas become the engine's own (R277) -/

theorem Engine.updateOvercommit_groupKept : GroupKept e e.updateOvercommit := by
  obtain ⟨hframe, hcount⟩ := e.updateOvercommit_frame
  unfold GroupKept Engine.groupView
  rw [hcount _ (by decide) (by decide), hcount _ (by decide) (by decide), hframe]

theorem Engine.link_groupKept (slot : Nat) : GroupKept e (e.link slot) := by
  unfold Engine.link Engine.setReady
  split
  · exact .refl e
  · dsimp only
    split <;> rfl

theorem Engine.placeReplica_groupKept (slot : Nat) (r : Rafter) : GroupKept e (e.placeReplica slot r) := by
  unfold Engine.placeReplica Engine.commitShare
  extract_lets e1
  have h1 : GroupKept e e1 := by
    dsimp only [e1]
    split
    · exact e.link_groupKept slot
    · exact .refl e
  split
  · split
    · exact (h1.trans rfl).trans (Engine.updateOvercommit_groupKept _)
    · exact h1
  · exact h1

theorem Engine.adoptReplicas_groupKept : GroupKept e e.adoptReplicas := by
  unfold Engine.adoptReplicas
  extract_lets rs mdv pgm smp var glb e1 e2 rings
  have h1 : GroupKept e e1 := rfl
  have h2 : GroupKept e1 e2 := .foldl (fun e x => e.placeReplica_groupKept x.1 x.2) rs e1
  have h3 : GroupKept e2 (rings.foldl Engine.rebindRing e2) := .foldl (f := Engine.rebindRing) (fun e i => rfl) rings e2
  exact ((h1.trans h2).trans h3).trans rfl

/-! ### What the host holds of the step (R274, R277) -/

theorem Engine.failRequest_linksKept (slot status : Nat) : LinksKept e (e.failRequest slot status) := by
  unfold Engine.failRequest
  split
  · exact .refl e
  · split
    · exact .of_view rfl rfl
    · split
      · exact .of_view rfl rfl
      · exact .refl e

theorem Engine.endHeld_linksKept : LinksKept e e.endHeld := by
  unfold Engine.endHeld
  split
  · exact .refl e
  · exact .foldl (fun e i => e.failRequest_linksKept i _) _ e

theorem Engine.takeScan_groupKept (scan : List ScanRec) : GroupKept e (e.takeScan scan) := by
  unfold Engine.takeScan
  extract_lets flt e1
  have h1 : GroupKept e e1 := rfl
  refine h1.trans (.foldl (fun e x => ?_) scan e1)
  split
  · rfl
  · exact .refl e

theorem Engine.ringResult_groupKept (event : Bool) (i reason : Nat) (enabled : Bool) : GroupKept e (e.ringResult event i reason enabled) := by
  unfold Engine.ringResult
  extract_lets hru e1
  have h1 : GroupKept e e1 := rfl
  split
  · exact h1
  · exact h1.trans (e1.log_linksKept _ _).kept

theorem Engine.ringEnable_groupKept (event : Bool) (i : Nat) : GroupKept e (e.ringEnable event i) := by
  unfold Engine.ringEnable
  split
  · exact e.ringResult_groupKept _ _ _ _
  · split
    · exact e.ringResult_groupKept _ _ _ _
    · split
      · exact .refl e
      · refine .trans ?_ (LinksKept.emit _ _).kept
        refine .trans ?_ (Engine.ringResult_groupKept _ _ _ _ _)
        exact rfl

theorem Engine.resumeRings_groupKept (record : List Byte) (tails : List TailRec) : GroupKept e (e.resumeRings record tails) := by
  unfold Engine.resumeRings
  extract_lets rings from_ last last1 flt e1 e2
  have h1 : GroupKept e e1 := rfl
  have h2 : GroupKept e1 e2 := .foldl (fun e i => e.ringEnable_groupKept true i) _ e1
  exact (h1.trans h2).trans (.foldl (fun e i => e.ringEnable_groupKept false i) _ e2)

theorem Engine.replayFrom_groupKept (r : Nat) : GroupKept e (e.replayFrom r) := by
  unfold Engine.replayFrom
  split
  · exact e.sealPoint_groupKept
  · next y _ =>
    extract_lets e1 e2 flt e3 e4 e5
    have h2 : GroupKept e e2 := (e.beginStep_groupKept y).trans (e1.fenceMembers_linksKept y.members).kept
    have h3 : GroupKept e2 e3 := rfl
    have h4 : GroupKept e3 e4 := (e3.bump_groupKept (by decide) (by decide)).trans (Engine.log_linksKept _ _ _).kept
    have h := (h2.trans h3).trans h4
    split
    · exact h.trans (e4.raiseFatal_drives _ _ _ _).1
    · have h5 : GroupKept e e5 := h.trans (e4.emitAgain_linksKept y).kept
      split
      · exact h5
      · exact h5.trans (e5.sealArchived_groupKept _)

theorem Engine.sendLease_groupKept (step : Nat) : GroupKept e (e.sendLease step) := by
  unfold Engine.sendLease
  split
  · exact .refl e
  · refine .trans ?_ (Engine.flood_linksKept _ _ _ _ _).kept
    exact rfl

end

end Sys2Proof.Machine
end

section
/-!
# A rank taken over

The partner takes rank 0 from a manager that is gone, and the others learn of it (R263, R273, R276, R277).
-/

namespace Sys2Proof.Machine

/-! ### A rank passes to its partner (R263, R273) -/

/-- The engine of the view serves rank r of the map, for it has taken it. -/
def GroupView.taken (v : GroupView) (r : Nat) (x : Rank) : GroupView :=
  { v with rank := r, role := x.role, takenOver := true, takeovers := v.takeovers + 1#32 }

section
variable (e : Engine)

theorem Engine.dropMirrors_linksKept (p : Nat) : LinksKept e (e.dropMirrors p) := by
  unfold Engine.dropMirrors
  extract_lets x ks pgm
  refine .trans (b := { e with pgm := { e.pgm with mirrors := Table.del e.pgm.mirrors p } }) (.of_view rfl rfl) (.foldl (fun e k => ?_) ks _)
  unfold Engine.giveFrame
  split
  · split <;> exact .of_view rfl rfl
  · split <;> exact .of_view rfl rfl

theorem Engine.adoptStep_linksKept : LinksKept e e.adoptStep := by
  unfold Engine.adoptStep
  extract_lets e1 mdv e2
  have h2 : LinksKept e e2 := by
    obtain ⟨hview, hout⟩ := e.applyUndo_linksKept
    have hmdv : e2.linkView = { e.linkView with
        group := { e.groupView with
          commitStep := e.applyUndo.flt.commitStep, takenOver := e.applyUndo.flt.takenOver, seenAborts := e.applyUndo.flt.seenAborts
          aborts := e.applyUndo.count Cnt.fltAbort, takeovers := e.applyUndo.count Cnt.fltTakeover }
        phase := e.applyUndo.flt.shadow.phase, stepNo := e.applyUndo.stepNo, mirrored := e.applyUndo.flt.mirrored } := rfl
    have hkept := e.applyUndo_linksKept.kept
    refine ⟨?_, hout⟩
    rw [hmdv, hkept.commitStep_eq, hkept.takenOver_eq, hkept.seenAborts_eq, hkept.aborts_eq, hkept.takeovers_eq,
      e.applyUndo_linksKept.links.phase, show e.applyUndo.stepNo = e.stepNo from congrArg LinkView.stepNo hview,
      show e.applyUndo.flt.mirrored = e.flt.mirrored from congrArg LinkView.mirrored hview]
    rfl
  split
  · exact h2
  · exact h2.trans (e2.acceptManifest_linksKept _)

theorem Engine.takeRank_takes (r : Nat) (x : Rank) : (e.takeRank r x).groupView = e.groupView.taken r x ∧ e.out <:+ (e.takeRank r x).out := by
  unfold Engine.takeRank
  extract_lets e1 mdv flt e2
  obtain ⟨hview, hout⟩ : GroupDrives e e1 := (LinksKept.foldl Engine.dropMirrors_linksKept _ e).drives
  have h2 : e2.groupView = e.groupView.taken r x := by
    rw [← hview]
    unfold e2 Engine.groupView
    rw [Engine.count_bump_self, Engine.count_bump_ne _ (by decide)]
    rfl
  split
  · obtain ⟨hkept, hdrives⟩ := e2.adoptStep_linksKept.drives
    exact ⟨Eq.trans hkept h2, hout.trans hdrives⟩
  · exact ⟨h2, hout⟩

/-- The partner of the engine that served a rank takes it. -/
theorem Engine.passRank_takes {r : Nat} {x p : Rank} (hx : e.rank? r = some x) (hp : e.rank? e.mdv.rank = some p)
    (hpartner : x.partner = e.mdv.rank) (hrole : p.role = Role.standby) (hfree : e.mdv.rank ∉ e.mdv.fencedRanks) :
    (e.passRank r).groupView = e.groupView.taken r x := by
  have htaker : e.taker r = some (e.mdv.rank, p) := by
    unfold Engine.taker
    rw [hx]
    dsimp only
    rw [hpartner, hp]
    dsimp only
    rw [if_pos]
    simp [hrole, hfree]
  unfold Engine.passRank
  rw [hx, htaker]
  dsimp only
  rw [if_pos (beq_self_eq_true _)]
  exact (Engine.takeRank_takes _ r x).1

/-- A rank that is gone leaves an engine its place, or the engine has taken it. -/
theorem Engine.passRank_spec (r : Nat) : GroupDrives e (e.passRank r) ∨
    ∃ x, (e.passRank r).groupView = e.groupView.taken r x ∧ e.out <:+ (e.passRank r).out := by
  unfold Engine.passRank
  split
  · extract_lets map own mdv e1
    split
    · exact .inr ⟨_, e1.takeRank_takes r _⟩
    · exact .inl ⟨rfl, List.suffix_refl _⟩
  · exact .inl ⟨rfl, List.suffix_refl _⟩
  · exact .inl (.refl e)

theorem Engine.restartLoad_drives : GroupDrives e e.restartLoad := by
  unfold Engine.restartLoad
  extract_lets x x1 flt e1
  have h1 : GroupDrives e (e1.emit .stateRestart) := ⟨rfl, List.suffix_cons _ _⟩
  refine h1.trans ?_
  generalize e1.emit .stateRestart = e2
  obtain ⟨l, hl, -⟩ := (SameLinks.refl e2).post 0x16 0 e2.stepNo (shadowReqBody x1.rank x1.role e1.mdv.node e1.mdv.check.toNat)
  rw [Engine.shadowSend, hl]
  exact (LinksKept.driven e2 l).drives

theorem Engine.loseSource_drives (r : Nat) : GroupDrives e (e.loseSource r) := by
  unfold Engine.loseSource
  extract_lets shadow flt e1
  have h1 : GroupDrives e e1 := ⟨rfl, List.suffix_refl _⟩
  split
  · exact h1.trans e1.restartLoad_drives
  · exact h1

/-- The engine for which nothing is ordered any more for a rank that is gone. -/
def Engine.forgetRank (e : Engine) (r : Nat) : Engine :=
  { e with mdv := { e.mdv with pendFences := e.mdv.pendFences.filter fun x => x.rank != r || x.admitted.isSome,
                               guests := Table.del e.mdv.guests r } }

/-- But for the rank's passing, a rank dropped leaves an engine its place. -/
theorem Engine.dropRank_drives (r : Nat) : GroupDrives ((e.forgetRank r).passRank r) (e.dropRank r) := by
  unfold Engine.dropRank
  extract_lets held mdv e1 e2
  have hheld : GroupDrives e2 (if held = true then e2.endHeld else e2) := by
    split
    · exact e2.endHeld_linksKept.drives
    · exact .refl e2
  exact (hheld.trans (Engine.loseSource_drives _ r)).trans (Engine.openGate_linksKept _).drives

/-- An engine that drops a rank keeps its epoch, what it last heard and the aborts it has counted. -/
theorem Engine.dropRank_keeps (r : Nat) : (e.dropRank r).mdv.epoch = e.mdv.epoch ∧ (e.dropRank r).mdv.heardAt = e.mdv.heardAt ∧
    (e.dropRank r).count Cnt.fltAbort = e.count Cnt.fltAbort ∧ e.out <:+ (e.dropRank r).out := by
  obtain ⟨hkept, hout⟩ := e.dropRank_drives r
  rcases (e.forgetRank r).passRank_spec r with ⟨hview, hbefore⟩ | ⟨x, hview, hbefore⟩
  · exact ⟨hkept.epoch_eq.trans hview.epoch_eq, hkept.heardAt_eq.trans hview.heardAt_eq, hkept.aborts_eq.trans hview.aborts_eq,
      hbefore.trans hout⟩
  · exact ⟨hkept.epoch_eq.trans (congrArg GroupView.epoch hview), hkept.heardAt_eq.trans (congrArg GroupView.heardAt hview),
      hkept.aborts_eq.trans (congrArg GroupView.aborts hview), hbefore.trans hout⟩

/-! ### TAKEOVER_TIMEOUT (R276, R277) -/

theorem Engine.rewindTo_linksKept (r : Nat) : LinksKept e (e.rewindTo r) := by
  unfold Engine.rewindTo
  extract_lets e1 later e2 flt mdv
  have h1 : LinksKept e e1 := e.applyUndo_linksKept
  have h2 : LinksKept e1 e2 := .foldl (fun e x => .foldl Engine.undoOne_linksKept x.2 e) later e1
  exact (h1.trans h2).trans (.of_view rfl rfl)

/-- The place of the partner that has become the manager, from the record of boundary r. -/
theorem Engine.takeover_view {x p : Rank} (hx : e.rank? 0 = some x) (hp : e.rank? e.mdv.rank = some p) (hpartner : x.partner = e.mdv.rank)
    (hrole : p.role = Role.standby) (hfree : e.mdv.rank ∉ e.mdv.fencedRanks) (scan : List ScanRec) (tails : List TailRec) :
    (e.takeover scan tails).groupView =
      { e.groupView.taken 0 x with epoch := (e.mdv.epoch + 1) % 65536, commitStep := e.newestMirrored 0 } ∧
    Output.irq 59 ∈ (e.takeover scan tails).out := by
  let e0 := (((e.rewindTo (e.newestMirrored 0)).raiseEpoch (e.newestMirrored 0)).forgetRank 0).passRank 0
  have hlinks := (e.rewindTo_linksKept (e.newestMirrored 0)).links
  have hrewound := (e.rewindTo_linksKept (e.newestMirrored 0)).1
  have h0 : e0.groupView = { e.groupView.taken 0 x with epoch := (e.mdv.epoch + 1) % 65536 } := by
    unfold e0
    generalize e.rewindTo (e.newestMirrored 0) = e1 at hlinks hrewound
    have hgroup : e1.groupView = e.groupView := congrArg LinkView.group hrewound
    have hrank : e1.rank? = e.rank? := by
      funext k
      rw [Engine.rank?, hlinks.map]
      rfl
    rw [Engine.passRank_takes (x := x) (p := p)]
    · show GroupView.taken { e1.groupView with epoch := (e1.mdv.epoch + 1) % 65536 } 0 x = _
      rw [hgroup, hlinks.epoch]
      rfl
    · exact (congrFun hrank 0).trans hx
    · show e1.rank? e1.mdv.rank = some p
      rw [hrank, hlinks.rank, hp]
    · exact hpartner.trans hlinks.rank.symm
    · exact hrole
    · show e1.mdv.rank ∉ e1.mdv.fencedRanks
      rw [hlinks.rank, hlinks.fencedRanks]
      exact hfree
  unfold Engine.takeover
  extract_lets r e1 ylm mdv flt e2 record e3 e4
  have h1 : GroupKept e0 e1 := (Engine.dropRank_drives _ 0).1.trans (Engine.adoptReplicas_groupKept _)
  clear_value e0 e1
  have h2 : e2.groupView = { e1.groupView with commitStep := r } := rfl
  clear_value e2
  have h3 : GroupKept e2 e3 := (e2.flood_linksKept _ _ _ _).kept
  have h4 : GroupKept e3 e4 := by
    refine .trans ?_ (Engine.replayFrom_groupKept _ r)
    refine .trans ?_ (Engine.resumeRings_groupKept _ record tails)
    exact (e3.takeScan_groupKept scan).trans (Engine.endHeld_linksKept _).kept
  clear_value e3 e4
  have h5 := e4.sendLease_groupKept (e4.stepNo + 1)
  have hview : (e4.sendLease (e4.stepNo + 1)).groupView =
      { e.groupView.taken 0 x with epoch := (e.mdv.epoch + 1) % 65536, commitStep := r } := by
    refine Eq.trans ((h3.trans h4).trans h5) ?_
    rw [h2, h1, h0]
  generalize e4.sendLease (e4.stepNo + 1) = e5 at hview
  have hlog := (e5.emit (.irq 59)).log_only Ev.takeover [r, e4.mdv.node]
  constructor
  · exact Eq.trans hlog.linksKept.kept hview
  · rw [hlog.out_eq]
    exact List.mem_cons_self

end

section
variable {s : State} {scan : List ScanRec} {tails : List TailRec} (h : s.serves Isl.md)
include h

theorem exec_takeoverTimeout : exec (.takeoverTimeout scan tails) s =
    .next { s with eng := if s.seen.takeoverDue then s.seen.takeover scan tails else s.seen } := State.actIn_serves h fun e =>
      if e.takeoverDue then e.takeover scan tails else e

theorem takeoverTimeout_early (hdue : s.seen.takeoverDue = false) : exec (.takeoverTimeout scan tails) s = .next { s with eng := s.seen } := by
  rw [exec_takeoverTimeout h, if_neg]
  rw [hdue]
  decide

theorem takeoverTimeout_takes {x p : Rank} (hdue : s.seen.takeoverDue = true) (hx : s.eng.rank? 0 = some x)
    (hp : s.eng.rank? s.eng.mdv.rank = some p) (hrole : p.role = Role.standby) (hfree : s.eng.mdv.rank ∉ s.eng.mdv.fencedRanks) :
    ∃ t, exec (.takeoverTimeout scan tails) s = .next t ∧ t.eng.mdv.rank = 0 ∧ t.eng.mdv.role = x.role ∧
      t.eng.mdv.epoch = (s.eng.mdv.epoch + 1) % 65536 ∧ t.eng.flt.takenOver = true ∧ t.eng.flt.commitStep = s.eng.newestMirrored 0 ∧
      t.eng.count Cnt.fltTakeover = s.eng.count Cnt.fltTakeover + 1#32 ∧ Output.irq 59 ∈ t.eng.out := by
  have hpartner : x.partner = s.eng.mdv.rank := by
    unfold Engine.takeoverDue at hdue
    rw [show s.seen.rank? 0 = some x from hx] at hdue
    simp only [Bool.and_eq_true, beq_iff_eq] at hdue
    obtain ⟨⟨⟨-, hpartner⟩, -⟩, -⟩ := hdue
    exact hpartner
  obtain ⟨hview, hirq⟩ := s.seen.takeover_view (x := x) (p := p) hx hp hpartner hrole hfree scan tails
  refine ⟨{ s with eng := s.seen.takeover scan tails }, ?_, congrArg GroupView.rank hview, congrArg GroupView.role hview,
    congrArg GroupView.epoch hview, congrArg GroupView.takenOver hview, congrArg GroupView.commitStep hview,
    congrArg GroupView.takeovers hview, hirq⟩
  rw [exec_takeoverTimeout h, if_pos hdue]

end

/-! ### TAKEOVER (R276) -/

/-- An engine that has passed a TAKEOVER on, and takes the next epoch. -/
def Engine.takeoverPassed (e : Engine) (f : Frame) (node epoch step : Nat) : Engine :=
  let e := e.flood 0x0E step (takeoverBody 0 node epoch step) f.src.toNat
  let void := e.mdv.pendFences.any fun x => x.rank == 0
  let e := (if void then e.log Ev.fence [0, 5] else e).raiseEpoch (step - 1)
  { e with mdv := { e.mdv with heardAt := e.now, licensed := min e.mdv.licensed step } }

theorem Engine.takeTakeover_next {e : Engine} {f : Frame} {node epoch step : Nat} (hfenced : e.mdv.fenced = false)
    (hepoch : epoch = (e.mdv.epoch + 1) % 65536) (hnode : (e.rank? 0).map (·.node) ≠ some node) :
    e.takeTakeover f node epoch step =
      ((((e.takeoverPassed f node epoch step).dropRank 0).log Ev.takeover [step, node]).bump Cnt.fltAbort).abortHere step := by
  unfold Engine.takeTakeover
  rw [if_neg]
  · rfl
  · simp [hfenced, hepoch, hnode]

/-- Its epoch is the next, it has heard of the group now, and the copies it passes on are driven. -/
theorem Engine.takeoverPassed_spec (e : Engine) (f : Frame) (node epoch step : Nat) :
    (e.takeoverPassed f node epoch step).mdv.epoch = (e.mdv.epoch + 1) % 65536 ∧
      (e.takeoverPassed f node epoch step).mdv.heardAt = e.now ∧
      (e.takeoverPassed f node epoch step).count Cnt.fltAbort = e.count Cnt.fltAbort ∧
      (e.takeoverPassed f node epoch step).out = (e.flood 0x0E step (takeoverBody 0 node epoch step) f.src.toNat).out := by
  unfold Engine.takeoverPassed
  obtain ⟨l, hl, -⟩ := e.flood_driven 0x0E step (takeoverBody 0 node epoch step) f.src.toNat
  rw [hl]
  extract_lets e1 void e2 mdv
  have hlog : LogOnly e1 (if void = true then e1.log Ev.fence [0, 5] else e1) := by
    split
    · exact e1.log_only _ _
    · exact .refl _
  have hcount := hlog.count_apart (c := Cnt.fltAbort) (by decide)
  have hnow := congrArg Engine.now hlog.1
  exact ⟨congrArg (fun m : Mdv => (m.epoch + 1) % 65536) hlog.mdv_eq, hnow, hcount, hlog.out_eq⟩

section
variable {s : State} {f : Frame} {rank : BitVec 9} {node epoch : BitVec 16} {n : BitVec 48} (h : s.receives Isl.md)
include h

theorem exec_takeover : exec (.takeover f rank node epoch n) s = .next { s with
    eng := if wholeFrame f 0x0E (takeoverBody rank.toNat node.toNat epoch.toNat n.toNat) &&
        s.eng.frameOk f [s.eng.epochFor f.step.toNat, (s.eng.mdv.epoch + 1) % 65536] then
      (if rank = 0 then (s.seen.hear f).takeTakeover f node.toNat epoch.toNat n.toNat else s.seen)
    else s.seen.discard 1 } := State.cross_receives h _ _

variable {ok : Bool} (hok : ok = (wholeFrame f 0x0E (takeoverBody rank.toNat node.toNat epoch.toNat n.toNat) &&
  s.eng.frameOk f [s.eng.epochFor f.step.toNat, (s.eng.mdv.epoch + 1) % 65536]))
include hok

theorem takeover_discarded (hbad : ok = false) : ∃ t, exec (.takeover f rank node epoch n) s = .next t ∧ s.eng.discards t.eng := by
  refine ⟨{ s with eng := s.seen.discard 1 }, ?_, s.seen.discard_discards 1⟩
  rw [exec_takeover h, ← hok, hbad]
  rfl

variable (hgood : ok = true)
include hgood

theorem takeover_elsewhere (hrank : rank ≠ 0#9) : exec (.takeover f rank node epoch n) s = .next { s with eng := s.seen } := by
  rw [exec_takeover h, ← hok, if_pos hgood, if_neg (show ¬rank = 0 from hrank)]

theorem takeover_obeyed (hrank : rank = 0#9) (hfenced : s.eng.mdv.fenced = false) (hepoch : epoch.toNat = (s.eng.mdv.epoch + 1) % 65536)
    (hnode : (s.eng.rank? 0).map (·.node) ≠ some node.toNat) : ∃ t, exec (.takeover f rank node epoch n) s = .next t ∧
      t.eng.mdv.epoch = epoch.toNat ∧ t.eng.mdv.heardAt = s.tb.count ∧
      (∀ o ∈ (s.eng.flood 0x0E n.toNat (takeoverBody 0 node.toNat epoch.toNat n.toNat) f.src.toNat).out, o ∈ t.eng.out) ∧
      t.eng.count Cnt.fltAbort = s.eng.count Cnt.fltAbort + 1#32 := by
  obtain ⟨k, hk⟩ := s.heard_eq f
  have hnext : (s.seen.hear f).takeTakeover f node.toNat epoch.toNat n.toNat = _ :=
    Engine.takeTakeover_next (by rw [hk]; exact hfenced) (by rw [hk]; exact hepoch) (by rw [hk]; exact hnode)
  obtain ⟨hepoch', hheard, haborts, hout⟩ := (s.seen.hear f).takeoverPassed_spec f node.toNat epoch.toNat n.toNat
  generalize (s.seen.hear f).takeoverPassed f node.toNat epoch.toNat n.toNat = e at hnext hepoch' hheard haborts hout
  obtain ⟨hepoch1, hheard1, haborts1, hout1⟩ := e.dropRank_keeps 0
  obtain ⟨hkept2, hout2⟩ := ((e.dropRank 0).log_linksKept Ev.takeover [n.toNat, node.toNat]).drives
  generalize e.dropRank 0 = e1 at hnext hepoch1 hheard1 haborts1 hout1 hkept2 hout2
  generalize e1.log Ev.takeover [n.toNat, node.toNat] = e2 at hnext hkept2 hout2
  obtain ⟨hkept3, hout3⟩ := (e2.bump Cnt.fltAbort).abortHere_drives n.toNat
  generalize (e2.bump Cnt.fltAbort).abortHere n.toNat = e3 at hnext hkept3 hout3
  have hflood : ((s.seen.hear f).flood 0x0E n.toNat (takeoverBody 0 node.toNat epoch.toNat n.toNat) f.src.toNat).out =
      (s.eng.flood 0x0E n.toNat (takeoverBody 0 node.toNat epoch.toNat n.toNat) f.src.toNat).out := by
    obtain ⟨l, hl, hl'⟩ := s.eng.flood_driven 0x0E n.toNat (takeoverBody 0 node.toNat epoch.toNat n.toNat) f.src.toNat
    rw [hl, hl' _ (s.heard_links f), Engine.driven_out, Engine.driven_out, s.heard_out f]
  refine ⟨{ s with eng := e3 }, ?_, ?_, ?_, fun o ho => ?_, ?_⟩
  · rw [exec_takeover h, ← hok, if_pos hgood, if_pos (show rank = 0 from hrank), hnext]
  · calc e3.mdv.epoch = e2.mdv.epoch := hkept3.epoch_eq
      _ = e.mdv.epoch := hkept2.epoch_eq.trans hepoch1
      _ = ((s.seen.hear f).mdv.epoch + 1) % 65536 := hepoch'
      _ = epoch.toNat := by rw [hepoch, hk]
  · calc e3.mdv.heardAt = e2.mdv.heardAt := hkept3.heardAt_eq
      _ = e.mdv.heardAt := hkept2.heardAt_eq.trans hheard1
      _ = (s.seen.hear f).now := hheard
      _ = s.tb.count := by rw [hk]
  · refine (((hout1.trans hout2).trans hout3).subset ?_)
    rw [hout, hflood]
    exact ho
  · calc e3.count Cnt.fltAbort = (e2.bump Cnt.fltAbort).count Cnt.fltAbort := hkept3.aborts_eq
      _ = e2.count Cnt.fltAbort + 1#32 := e2.count_bump_self _
      _ = (s.seen.hear f).count Cnt.fltAbort + 1#32 := by rw [hkept2.aborts_eq, haborts1, haborts]
      _ = s.eng.count Cnt.fltAbort + 1#32 := by rw [hk]; rfl

end

end Sys2Proof.Machine
end

section
/-!
# Aborts, mirrors and takeover, settled
-/

namespace Sys2Proof.Machine

/-- Settles O55, message by message: an ABORT's first copy is passed on and then acted on, the partner's EVENT, JOURNAL and MIRROR_ACK
touch only what they carry, and a takeover, whatever the composer makes of it, keeps the place it has given the engine. -/
theorem abortsMirrorsAndTakeover : Obligations.AbortsMirrorsAndTakeover := by
  unfold Obligations.AbortsMirrorsAndTakeover
  refine ⟨?abort, ?event, ?keepalive, ?acknowledged, ?mirrorAck, ?journal, ?timeout, ?takeover⟩
  case abort =>
    rintro s f b _ h hf rfl
    exact ⟨abort_known h hf, fun hfenced hnew hcause => ⟨abort_passed h hf hfenced hnew hcause,
      fun _ hy hstep hfresh => abort_replays h hf hfenced hnew hcause hy hstep hfresh,
      fun _ hcur hno => abort_ignored h hf hfenced hnew hcause hcur hno,
      fun hcur hfollows hidle hstep => abort_undoes h hf hfenced hnew hcause hcur hfollows hidle hstep⟩⟩
  case event =>
    intro s f kind n bs h hf
    exact ⟨event_passed h hf, event_refused h hf, fun hdst hm hfenced => ⟨event_tenant h hf hdst hm hfenced,
      fun _ _ hkeep hrafter htenant hdesc hx hlive hr => event_onReplica h hf hdst hm hfenced hkeep hrafter htenant hdesc hx hlive hr⟩⟩
  case keepalive => exact fun s h => ⟨eventKeepalive_silent h, eventKeepalive_sends h⟩
  case acknowledged =>
    exact fun s n h => ⟨eventMirrorAck_ignored h,
      fun _ hm hgated hseq hfatal hcredit hring => eventMirrorAck_writes h hm hgated hseq hfatal hcredit hring, eventMirrorAck_notes h⟩
  case mirrorAck =>
    exact fun s f n h hf => ⟨fun _ hdst hp hsrc => mirrorAck_raises h hf hdst hp hsrc, mirrorAck_ignored h hf, mirrorAck_passed h hf⟩
  case journal =>
    exact fun s f n origin bs m h hf hfenced => ⟨journal_passed h hf hfenced, journal_held h hf hfenced, journal_discarded h hf hfenced⟩
  case timeout =>
    exact fun s scan tails h => ⟨takeoverTimeout_early h,
      fun _ _ hdue hx hp hrole hfree _ => takeoverTimeout_takes h hdue hx hp hrole hfree⟩
  case takeover =>
    exact fun s f rank node epoch n ok h hok => ⟨takeover_discarded h hok, takeover_elsewhere h hok, takeover_obeyed h hok⟩

end Sys2Proof.Machine
end
